-- ==== Sys2Proof/Word.lean ====
section
/-! DEFINITION. The word types of the block: register words, 64-bit words, bytes, and the sparse
tables that hold indexed state as plain data. -/

namespace Sys2Proof

/-- A 32-bit register word (spec/21 R482) or a 32-bit fleet-time count (spec/04 R108). -/
abbrev Word := BitVec 32

/-- A 64-bit word of a command packet, a record or an image (spec/00 R16). -/
abbrev DWord := BitVec 64

/-- One byte. -/
abbrev Byte := BitVec 8

/-- A sparse table: entries by ascending index. An index that is not listed holds the table's
default entry, which each use of the table names. -/
abbrev Tab (α : Type) := List (Nat × α)

end Sys2Proof
end

