-- ==== Sys2Proof/Syntax.lean ====
section
/-! DEFINITION. The commands of the block: one constructor of `Instr` for each row of
spec/opcode_table.json, with the operands that the row's rule names. The table gives no bits, so
the operands are the model's own choice (log entry 2). -/

namespace Sys2Proof

/-- The two forms of the block (spec/00 Table 0.1). -/
inductive Form where
  | buoy
  | lantern
  deriving DecidableEq, Repr

/-- The two islands that have two clock sources (spec/03, Clock sources and switching). -/
inductive SwIsland where
  | core
  | reg
  deriving DecidableEq, Repr

/-- The static inputs that are sampled when `rst_n` rises (spec/02 R66, R79). -/
structure Statics where
  calPresent : Bool
  idLocal : BitVec 8
  idTrunk : BitVec 10
  celPresent : BitVec 12
  deriving DecidableEq, Repr

/-- Where a command packet arrives (spec/06 Table 6.3): the MGMT port, `fab_rx` of a buoy, or the
receiving link of a lantern. -/
inductive Port where
  | mgmt
  | fab
  | link (n : BitVec 5)
  deriving DecidableEq, Repr

/-- A request packet as it arrives (spec/06 Table 6.1), less its opcode, which the command's
constructor gives. `words` are the payload words received, the PCHK word included. `priv`, `dst`,
`dlan` and `ret` are the routing word of an in-band packet (Table 6.4) and mean nothing on MGMT. -/
structure Packet where
  port : Port
  priv : BitVec 2
  dst : BitVec 18
  dlan : Bool
  ret : Word
  tag : BitVec 8
  len : BitVec 12
  pchk : Bool
  rsvd : BitVec 3
  arg : Word
  words : List DWord
  deriving DecidableEq, Repr

/-- A telemetry record (spec/01 Table 1.8). `body` is the payload; LEN and the trailer's CRC-32C
are computed from the other fields. -/
structure Rec where
  ty : BitVec 8
  poison : Bool
  inexact : Bool
  gapBefore : Bool
  replayed : Bool
  partialCover : Bool
  src : BitVec 18
  stream : BitVec 14
  seq : Word
  ft : Word
  body : List DWord
  deriving DecidableEq, Repr

/-- A unit as a link receives it (spec/11 R275, R276): the body in 64-bit words, the tail, and
whether `lnkN_rx_valid` fell within the unit. -/
structure RxUnit where
  body : List DWord
  tail : DWord
  cut : Bool
  deriving DecidableEq, Repr

/-- A plan control message (spec/09 Table 9.7): its four words as they stand. -/
structure CtlMsg where
  w0 : DWord
  w1 : DWord
  w2 : DWord
  w3 : DWord
  deriving DecidableEq, Repr

/-- The source of a trim window (spec/03, Trim). -/
inductive TrimSrc where
  | clkRef
  | ftTick
  deriving DecidableEq, Repr

/-- The commands that reach into tap islands (spec/07 R186). -/
inductive CtrOp where
  | read
  | config
  | freeze
  | thaw
  deriving DecidableEq, Repr

/-- What a handshake that times out was for (spec/03 R99). -/
inductive HsUse where
  /-- a read through the register port -/
  | regRead
  /-- a write through the register port -/
  | regWrite
  /-- a command that arrives, with this opcode, and needs the transfer -/
  | command (opc : BitVec 8) (p : Packet)
  /-- a counter command that arrives, and the tap islands that do not answer it -/
  | tapCommand (op : CtrOp) (p : Packet) (silent : List (BitVec 3))
  /-- the command in execution on a port -/
  | waiting (p : Port)
  /-- the handshake to the new tap island of a UNIT_REMAP (spec/07 R176) -/
  | remapProbe
  /-- the old tap island of a UNIT_REMAP in its switch (spec/07 R177) -/
  | remapOld
  /-- a tap island that does not deliver the items of a cut (spec/08 R205) -/
  | cutItems (plan : BitVec 8) (tap : BitVec 3)
  deriving DecidableEq, Repr

/-- The three unit-enable registers (spec/03 Tables 3.9 and 3.10). -/
inductive EnReg where
  | unitEn
  | unitEnLnk
  | unitEnCel
  deriving DecidableEq, Repr

/-- A data access on the bus-monitor port (spec/02 Table 2.4); `also` has bit i set where trigger source i reaches
BMON at the same edge (spec/16 R396). -/
structure Access where
  addr : DWord
  wr : Bool
  size : BitVec 3
  unit : BitVec 10
  data : DWord
  also : BitVec 8
  deriving DecidableEq, Repr

/-- What the header of a packet whose words ceased gives its reply: TAG and PCHK (spec/06 R162, Table 6.2). -/
structure CutOff where
  tag : BitVec 8
  pchk : Bool
  deriving DecidableEq, Repr

/-- The load over the 1 ms before a canary set runs: busy cycles of all its cycles (spec/18 R442). -/
structure CanLoad where
  busy : Nat
  total : Nat
  deriving DecidableEq, Repr

/-- What a read of a stored word finds (spec/18 R427, R428). -/
inductive EccOutcome where
  | clean
  | corrected
  | uncorrectable
  deriving DecidableEq, Repr

/-- How a PMBus transaction fails (spec/20 R478, Table 20.8). -/
inductive PmbFail where
  | nack
  | pec
  | timeout
  deriving DecidableEq, Repr

/-- Where a record that has waited too long stands (spec/11 R294): in a queue, or among the CTL units of
a link. -/
inductive AgeAt where
  | queue (q : BitVec 12)
  | ctl (n : BitVec 5)
  deriving DecidableEq, Repr

/-- The commands of the block. -/
inductive Instr where
  -- reset, start-up and clocks
  | coldReset
  | wakeIn
  | softReset
  | oscQualified
  | calWordAck (w : Word)
  | calIntakeTimeout
  | clockQualified (isl : SwIsland)
  | clockQualTimeout (isl : SwIsland)
  | romCheck (romOk eccOk : Bool)
  | sramTest (ok : Bool) (aonCycles : Nat)
  | engWaitTimeout
  | clkSelWrite (v : Word)
  | clockSwitchDone
  | clockFallback (isl : SwIsland)
  | handshakeTimeout (u : HsUse)
  | windowCheck (v : Word) (count : Nat)
  | trimSourceWrite (v : Word)
  | trimWindow (src : TrimSrc) (count : Nat) (winCount : Nat)
  | unitEnWrite (r : EnReg) (v : Word)
  -- fleet time
  | timeIncWrite (v : Word)
  | hallPhaseEdge (tinValid : Bool) (tinNs : Word)
  | slewAbsorbed
  | tinValidLow
  | holdoverTimeout
  | ftMsTick
  | timexInterval
  | timexReq (r : Rec)
  | timexRsp (n : BitVec 5) (r : Rec)
  | countReached (cmp : Nat)
  | pulseRise (n : BitVec 3)
  | pulseFall (n : BitVec 3)
  | qwWindowStart (k : BitVec 2)
  | qwWindowEnd (k : BitVec 2)
  | qwEnable (v : Word)
  | qwDisable (v : Word)
  -- command packets
  | nop (p : Packet)
  | ident (p : Packet)
  | regRead (p : Packet)
  | regWrite (p : Packet)
  | planLoad (p : Packet)
  | planVerify (p : Packet)
  | planArm (p : Packet)
  | planAbort (p : Packet)
  | planTeardown (p : Packet)
  | cutAt (p : Packet)
  | ctrRead (p : Packet)
  | ctrConfig (p : Packet)
  | ctrFreeze (p : Packet)
  | ctrThaw (p : Packet)
  | treeQuery (p : Packet)
  | modelLoad (p : Packet)
  | modelLoadSlotFree (isSeq : Bool) (slot : BitVec 4)
  | seqQuery (p : Packet)
  | seqJobDone
  | traceArm (p : Packet)
  | traceDisarm (p : Packet)
  | traceRead (p : Packet)
  | logRead (p : Packet)
  | scrubRange (p : Packet)
  | pwrState (p : Packet)
  | unitAdjust (p : Packet)
  | unitRemap (p : Packet)
  | calWrite (p : Packet)
  | hangDump (p : Packet)
  | hangSnapshot
  | replayCtlStop (p : Packet)
  | replayCtlLog (p : Packet)
  | replayCtlReplay (p : Packet)
  | replayFinish
  | stepMark (p : Packet)
  | stepMarkApply
  | pulseArm (p : Packet)
  | wordTimeout (h : CutOff)
  | mgmtReplySend
  | inbandCmdForward (n : BitVec 5) (r : Rec)
  | inbandReplyReturn (n : BitVec 5) (r : Rec)
  | forwardTimeout (dst : BitVec 18) (dlan : Bool)
  | fabRxBadRecord (ws : List DWord)
  -- counting and sampling
  | tapBindWrite (unit : BitVec 6) (v : Word)
  | remapSwitch
  | remapWaitTimeout
  | remapHandoverDone
  | pcsCfgWrite (k : BitVec 2) (v : Word)
  | pcsSample (k : BitVec 2) (pc : DWord) (unit : BitVec 10) (stall : BitVec 3)
  | pcsampFlushTimeout (k : BitVec 2)
  | sensorSetTaken (temps volts : List (BitVec 12)) (merged : Nat)
  | sampleTake (plan : BitVec 8) (set : BitVec 3)
  -- cuts
  | cutLatch (plan : BitVec 8)
  | cutvecAssembled (plan : BitVec 8)
  | cutvecReceive (n : BitVec 5) (r : Rec)
  | leafClose (plan : BitVec 8)
  | partialReceive (n : BitVec 5) (r : Rec)
  | stageDeadline (plan : BitVec 8) (stage : BitVec 2) (phaseB : Bool)
  | thresholdsReceive (n : BitVec 5) (r : Rec)
  | buoyThresholds (r : Rec)
  | phaseBReceive (n : BitVec 5) (r : Rec)
  | phaseBClose (plan : BitVec 8)
  | cutcallReceive (n : BitVec 5) (m : CtlMsg)
  -- plans
  | loaddatReceive (n : BitVec 5) (rtag : BitVec 8) (err : Bool) (data : List DWord)
  | armReceive (n : BitVec 5) (m : CtlMsg)
  | reportReceive (n : BitVec 5) (m : CtlMsg)
  | reportDeadline (plan : BitVec 8)
  | goDecision (plan : BitVec 8)
  | goReceive (n : BitVec 5) (m : CtlMsg)
  | armingTimeout (plan : BitVec 8)
  | planStart (plan : BitVec 8)
  | planTeardownReached (plan : BitVec 8)
  | abortReceive (n : BitVec 5) (m : CtlMsg)
  | upwardAbortReceive (n : BitVec 5) (m : CtlMsg)
  | teardownReceive (n : BitVec 5) (m : CtlMsg)
  | lossReceive (n : BitVec 5) (m : CtlMsg)
  | gridEnable (v : Word)
  | actionTrigger (plan : BitVec 8) (entry : BitVec 8)
  | treeActionRun (plan : BitVec 8) (entry : BitVec 8)
  | seqActionRun (plan : BitVec 8) (entry : BitVec 8)
  -- egress
  | egressSelect (inWindow : List Word)
  | shaperSample
  -- links
  | lnkRoleWrite (n : BitVec 5) (v : Word)
  | retrainTimer (n : BitVec 5)
  | lanesUp (n : BitVec 5)
  | trainingTimeout (n : BitVec 5)
  | initTimeout (n : BitVec 5)
  | statusRepeat (n : BitVec 5)
  | lanesDown (n : BitVec 5)
  | statusReceive (n : BitVec 5) (u : RxUnit)
  | unitReceive (n : BitVec 5) (u : RxUnit)
  | linkTransmit (n : BitVec 5)
  | replayTimeout (n : BitVec 5)
  | planUnitLate (n : BitVec 5)
  | recordAged (a : AgeAt)
  | rerouteHoldExpiry (src : BitVec 18) (stream : BitVec 14)
  -- queues, cellar and spill
  | queueAdmit (nth : Nat) (cycles : Nat)
  | queueIdleTimeout (q : BitVec 12)
  | queMidWrite (base len : Word)
  | qmapWrite (v : Word)
  | middlePageReturn (q : BitVec 12) (poisoned : BitVec 16)
  | cellarTimeout (m : BitVec 4)
  | spillTimeout
  -- series
  | seriesEnable (v : Word)
  | seriesDisable (v : Word)
  | seriesSample
  | blockCode (series : BitVec 16)
  | blockCommit (series : BitVec 16)
  -- trace
  | bmonAccess (a : Access)
  | swtrig
  | traceTriggerEvent (srcs : BitVec 8)
  | bmonClockStop
  | bmonClockResume
  | watchEnable (v : Word)
  -- logbook
  | logDrain
  | atticEnable (v : Word)
  | atticDisable (v : Word)
  -- memory protection
  | scrubWalkerRead (mem : BitVec 8) (e : EccOutcome) (lapMs : Nat)
  | canaryRunDone (plan : BitVec 8) (units : BitVec 8) (pipes : BitVec 16) (ended : Bool) (load : CanLoad)
  -- faults, failover and replay
  | copyRecordReceive (n : BitVec 5) (r : Rec)
  | pcopyEnable (k : BitVec 2) (v : Word)
  | restoreGo (v : Word)
  | restoreReqReceive (n : BitVec 5) (r : Rec)
  | restoreRecordReceive (n : BitVec 5) (r : Rec)
  | restoreDone (n : BitVec 5) (r : Rec)
  | restoreTimeout
  -- power and supply
  | pwrEntry
  | mgmtWake
  | aonWakeTimer
  | wakeCountArm (v : Word)
  | supplyRampDone
  | keeperWorkWake
  | autoIdleTimeout
  | pwrAck (status : BitVec 2)
  | pwrReqTimeout
  | pmbusPollTick
  | pmbusReadDone (word : BitVec 16)
  | pmbusReadTimeout (why : PmbFail)
  | pmbusAlert
  -- registers
  | latchedPairRead (addr : BitVec 16)
  | counterWindowRead (addr : BitVec 16)
  | registerReadClear (addr : BitVec 16)
  | registerWrite (addr : BitVec 16) (v : Word)
  -- the remaining rows
  | resetRelease (st : Statics)
  | unknownOpcode (opc : BitVec 8) (p : Packet)
  | portClockQualLost (isl : SwIsland)
  | clkRefLost
  | timeFreerunWrite (v : Word)
  | linkResynchronisationEnd (n : BitVec 5)
  | scrubRangeDone (corrected uncorrectable : Nat) (first : DWord)
  | treeQueryDone (slot : BitVec 4)
  deriving DecidableEq, Repr

end Sys2Proof
end

