-- ==== Sys2Proof/Machine/Bits.lean ====
section
/-! DEFINITION. Bit fields, serial order, CRC-32C and the layout of records in words (spec/00 R15 to
R17, R24; spec/01 R37, R54). -/

namespace Sys2Proof.Machine

/-- Bits `lo` to `lo + n - 1` of a word. -/
def fld (w : DWord) (lo n : Nat) : Nat := (w.toNat >>> lo) % 2 ^ n

/-- Bit `i` of a word. -/
def bit (w : DWord) (i : Nat) : Bool := w.toNat.testBit i

/-- The word that holds each value at its bit position. -/
def packW (fs : List (Nat × Nat)) : DWord :=
  BitVec.ofNat 64 (fs.foldl (fun a f => a + (f.2 <<< f.1)) 0)

/-- One bit as a number. -/
def b2n (b : Bool) : Nat := if b then 1 else 0

/-- The signed value of the low `n` bits of `v` in two's complement. -/
def sInt (n v : Nat) : Int :=
  let m := v % 2 ^ n
  if m < 2 ^ (n - 1) then (m : Int) else (m : Int) - (2 ^ n : Nat)

/-- The low `n` bits of `i` in two's complement. -/
def toU (n : Nat) (i : Int) : Nat := (i % ((2 ^ n : Nat) : Int)).toNat

/-- Saturation to the signed range of `n` bits. -/
def satS (n : Nat) (i : Int) : Int :=
  let hi : Int := (2 ^ (n - 1) : Nat) - 1
  if i > hi then hi else if i < -hi - 1 then -hi - 1 else i

/-- An arithmetic right shift. -/
def asr (i : Int) (n : Nat) : Int := i / ((2 ^ n : Nat) : Int)

/-- The serial difference of two fleet-time counts (R111). -/
def ftDiff (a b : Word) : Int := (a - b).toInt

/-- `T` is reached when FT is `ft` (R124). -/
def reached (ft t : Word) : Bool := decide ((ft - t).toNat < 0x80000000)

/-- Cut epoch `a` is later than `b` (R37). -/
def epochLater (a b : Nat) : Bool :=
  let d := (a + 65536 - b % 65536) % 65536
  decide (1 ≤ d ∧ d ≤ 32767)

/-- SEQ `a` is later than `b` (R37). -/
def seqLater (a b : Word) : Bool :=
  let d := (a - b).toNat
  decide (1 ≤ d ∧ d ≤ 2147483647)

/-- One bit of the reflected Castagnoli CRC (R17). -/
def crcBit (c : Nat) : Nat := if c % 2 = 1 then (c >>> 1) ^^^ 0x82F63B78 else c >>> 1

/-- One byte of the CRC. -/
def crcByte (c x : Nat) : Nat :=
  crcBit (crcBit (crcBit (crcBit (crcBit (crcBit (crcBit (crcBit (c ^^^ x))))))))

/-- The eight bytes of a word in storage order (R16). -/
def wordBytes (w : DWord) : List Nat :=
  [0, 1, 2, 3, 4, 5, 6, 7].map fun i => fld w (8 * i) 8

/-- The CRC-32C of a list of bytes (R17). -/
def crcBytes (bs : List Nat) : Word :=
  BitVec.ofNat 32 ((bs.foldl crcByte 0xFFFFFFFF) ^^^ 0xFFFFFFFF)

/-- The CRC-32C of words in storage order. -/
def crcWords (ws : List DWord) : Word :=
  BitVec.ofNat 32 ((ws.foldl (fun c w => (wordBytes w).foldl crcByte c) 0xFFFFFFFF) ^^^ 0xFFFFFFFF)

/-- Word `i` of a list; zero past its end. -/
def wordAt (ws : List DWord) (i : Nat) : DWord := ws.getD i 0

/-- 32-bit item `i` packed two to a word (R166). -/
def item32 (ws : List DWord) (i : Nat) : Nat := fld (wordAt ws (i / 2)) (32 * (i % 2)) 32

/-- `x` put into a list in ascending order of `key`, before equal ones. -/
def insertOn {α : Type} (key : α → Nat) (x : α) : List α → List α
  | [] => [x]
  | y :: t => if key x ≤ key y then x :: y :: t else y :: insertOn key x t

/-- A list in ascending order of `key`; equal ones keep their order. -/
def sortOn {α : Type} (key : α → Nat) (xs : List α) : List α := xs.foldr (insertOn key) []

/-- Items packed two to a word (R166). -/
def pack32 : List Nat → List DWord
  | [] => []
  | [a] => [packW [(0, a)]]
  | a :: c :: t => packW [(0, a), (32, c)] :: pack32 t

end Sys2Proof.Machine

namespace Sys2Proof

/-- LEN of a record: header, payload and trailer in bytes (R54). -/
def Rec.len (r : Rec) : Nat := 24 + 8 * r.body.length

/-- Header word 0 (spec/01 Table 1.8). -/
def Rec.word0 (r : Rec) : DWord :=
  Machine.packW [(0, r.ty.toNat), (8, Machine.b2n r.poison), (9, Machine.b2n r.inexact), (10, Machine.b2n r.gapBefore),
    (11, Machine.b2n r.replayed), (12, Machine.b2n r.partialCover), (16, r.len % 65536), (32, r.src.toNat),
    (50, r.stream.toNat)]

/-- The bytes of a record before its trailer, in words. -/
def Rec.front (r : Rec) : List DWord :=
  r.word0 :: Machine.packW [(0, r.seq.toNat), (32, r.ft.toNat)] :: r.body

/-- The CRC-32C of the trailer (R57). -/
def Rec.crc (r : Rec) : Word := Machine.crcWords r.front

/-- A record in words, header to trailer. -/
def Rec.words (r : Rec) : List DWord := r.front ++ [Machine.packW [(0, r.crc.toNat)]]

/-- The words of a plan control message. -/
def CtlMsg.words (m : CtlMsg) : List DWord := [m.w0, m.w1, m.w2, m.w3]

/-- The packet travelled in-band. -/
def Port.inband : Port → Bool
  | .mgmt => false
  | .fab => true
  | .link _ => true

/-- The header word of a request (Table 6.1). -/
def Packet.header (p : Packet) (opc : Nat) : DWord :=
  Machine.packW [(0, opc), (8, p.tag.toNat), (16, p.len.toNat), (28, Machine.b2n p.pchk), (29, p.rsvd.toNat),
    (32, p.arg.toNat)]

/-- The CRC word of a packet with PCHK holds (Table 6.1); its upper half is reserved and ignored (R19). -/
def Packet.checks (p : Packet) (opc : Nat) : Bool :=
  let n := p.words.length
  decide (Machine.fld (Machine.wordAt p.words (n - 1)) 0 32 =
    (Machine.crcWords (p.header opc :: p.words.take (n - 1))).toNat) && decide (1 ≤ n)

/-- The payload words without the CRC word. -/
def Packet.data (p : Packet) : List DWord :=
  if p.pchk then p.words.take (p.words.length - 1) else p.words

/-- ARG as a number. -/
def Packet.a (p : Packet) : Nat := p.arg.toNat

/-- ARG bits. -/
def Packet.aBits (p : Packet) (lo n : Nat) : Nat := (p.arg.toNat >>> lo) % 2 ^ n

end Sys2Proof

namespace Sys2Proof.Machine

/-- The record that words spell, when their LEN and CRC-32C agree with them (R57, R74). -/
def recOfWords (ws : List DWord) : Option Rec :=
  let w0 := wordAt ws 0
  let n := ws.length
  if n < 3 ∨ fld w0 16 16 ≠ 8 * n then none
  else if fld (wordAt ws (n - 1)) 0 32 ≠ (crcWords (ws.take (n - 1))).toNat then none
  else some
    { ty := BitVec.ofNat 8 (fld w0 0 8), poison := bit w0 8, inexact := bit w0 9,
      gapBefore := bit w0 10, replayed := bit w0 11, partialCover := bit w0 12,
      src := BitVec.ofNat 18 (fld w0 32 18), stream := BitVec.ofNat 14 (fld w0 50 14),
      seq := BitVec.ofNat 32 (fld (wordAt ws 1) 0 32), ft := BitVec.ofNat 32 (fld (wordAt ws 1) 32 32),
      body := (ws.drop 2).take (n - 3) }

end Sys2Proof.Machine
end

