-- ==== Sys2Proof/Machine/Image.lean ====
section
/-! DEFINITION. The plan image and the buoy section as words: header, directory, sections and their
entries (spec/09 R232 to R239, spec/08 R213, spec/14 R352, spec/15 R386). -/

namespace Sys2Proof.Machine

/-- An image, or a buoy section, in 64-bit words. -/
abbrev Image := List DWord

/-! ### Header and directory -/

def imgPlan (g : Image) : Nat := fld (wordAt g 0) 16 8
def imgStandby (g : Image) : Bool := bit (wordAt g 0) 24
def imgCmdCut (g : Image) : Bool := bit (wordAt g 0) 25
def imgRoot (g : Image) : Nat := fld (wordAt g 1) 22 10
def imgTrunk (g : Image) : Nat := fld (wordAt g 1) 0 10
def imgSetId (g : Image) : Nat := fld (wordAt g 1) 32 32
def imgSeed (g : Image) : DWord := wordAt g 2
def imgPeriod (g : Image) : Nat := fld (wordAt g 3) 0 32
def imgCutOfs (g : Image) : Nat := fld (wordAt g 3) 32 19
def imgRate (g : Image) : Nat := fld (wordAt g 4) 0 17
def imgNItems (g : Image) : Nat := fld (wordAt g 4) 17 9
def imgNStrag (g : Image) : Nat := fld (wordAt g 4) 26 4
def imgLeafClose (g : Image) : Nat := fld (wordAt g 4) 30 10
def imgPbClose (g : Image) : Nat := fld (wordAt g 4) 40 10
def imgLastDl (g : Image) : Nat := fld (wordAt g 4) 50 10
def imgCanary (g : Image) : Nat := fld (wordAt g 5) 0 16
def imgNSec (g : Image) : Nat := fld (wordAt g 5) 16 8

/-- A directory entry (R233). -/
structure Dir where
  at_ : Nat
  sid : Nat
  count : Nat
  off : Nat
  len : Nat
  crc : Nat
  deriving DecidableEq, Repr

/-- Directory entry `i`. -/
def dirEnt (g : Image) (i : Nat) : Dir :=
  let w0 := wordAt g (8 + 2 * i)
  let w1 := wordAt g (9 + 2 * i)
  ⟨64 + 16 * i, fld w0 0 8, fld w0 16 16, fld w0 32 32, fld w1 0 32, fld w1 32 32⟩

/-- The directory. -/
def imgDir (g : Image) : List Dir := (List.range (imgNSec g)).map (dirEnt g)

/-- The section with identifier `sid`. -/
def imgSec (g : Image) (sid : Nat) : Option Dir := (imgDir g).find? fun d => decide (d.sid = sid)

/-- First word of a section; past the image when it is missing. -/
def secBase (g : Image) (sid : Nat) : Nat :=
  match imgSec g sid with
  | some d => d.off / 8
  | none => g.length

/-- Entries of a section; 0 when it is missing. -/
def secCount (g : Image) (sid : Nat) : Nat :=
  match imgSec g sid with
  | some d => d.count
  | none => 0

/-- Word `i` of a section. -/
def secWord (g : Image) (sid i : Nat) : DWord := wordAt g (secBase g sid + i)

/-- The CRC-32C of a section's bytes. -/
def secCrc (g : Image) (d : Dir) : Nat :=
  let ws := (g.drop (d.off / 8)).take ((d.len + 7) / 8)
  (crcBytes ((ws.flatMap wordBytes).take d.len)).toNat

/-! ### Items (Table 8.2) -/

/-- An item of a plan. -/
structure Item where
  kind : Nat
  index : Nat
  ops : Nat
  strag : Bool
  frac : Nat
  wsh : Nat
  k : Nat
  dir : Nat
  khi : Nat
  klo : Nat
  listL : Nat
  lo : Int
  deriving DecidableEq, Repr

/-- Item `i`. -/
def imgItem (g : Image) (i : Nat) : Item :=
  let w0 := secWord g 2 (3 * i)
  let w2 := secWord g 2 (3 * i + 2)
  { kind := fld w0 0 3, index := fld w0 8 16, ops := fld w0 24 5, strag := bit w0 29,
    frac := fld w0 32 6, wsh := fld w0 38 6, k := fld w0 44 4, dir := fld w0 48 1,
    khi := fld w0 49 8, klo := fld w2 0 8, listL := fld w2 8 7,
    lo := (secWord g 2 (3 * i + 1)).toInt }

/-- The items. -/
def imgItems (g : Image) : List Item := (List.range (imgNItems g)).map (imgItem g)

/-- Operation bits of OPS. -/
def Item.sum (x : Item) : Bool := x.ops.testBit 0
def Item.min (x : Item) : Bool := x.ops.testBit 1
def Item.max (x : Item) : Bool := x.ops.testBit 2
def Item.hist (x : Item) : Bool := x.ops.testBit 3
def Item.top (x : Item) : Bool := x.ops.testBit 4

/-- Items that buoys contribute (R234). -/
def imgNBuoyItems (g : Image) : Nat := ((imgItems g).filter fun x => decide (x.kind ≤ 3)).length

/-- Indices of the searched items, ascending. -/
def imgStrag (g : Image) : List Nat :=
  (List.range (imgNItems g)).filter fun i => (imgItem g i).strag

/-! ### Tree and broadcast (R235, R236) -/

/-- The named buoys of this tray, ascending. -/
def imgNamed (g : Image) : List Nat :=
  (List.range 256).filter fun l => bit (secWord g 3 (l / 64)) (l % 64)

/-- A child of a stage. -/
structure Child where
  trunk : Nat
  link : Nat
  expect : Nat
  deriving DecidableEq, Repr

/-- A stage record. -/
structure Stage where
  hasParent : Bool
  parent : Nat
  dlA : Nat
  dlB : Nat
  children : List Child
  deriving DecidableEq, Repr

/-- Stage `st`, 1 X to 3 Z. -/
def imgStage (g : Image) (st : Nat) : Stage :=
  let i := 4 + 3 * (st - 1)
  let w := secWord g 3 i
  let kids := (List.range (min 2 (fld w 8 2))).filterMap fun c =>
    let x := secWord g 3 (i + 1 + c)
    if bit x 15 then some (⟨fld x 0 10, fld x 10 5, fld x 32 32⟩ : Child) else none
  ⟨bit w 2, fld w 3 5, fld w 10 10, fld w 20 10, kids⟩

/-- A broadcast tree at this lantern. -/
structure Bcast where
  hasParent : Bool
  parent : Nat
  children : List Nat
  deriving DecidableEq, Repr

/-- Tree `t`, 0 A or 1 B. -/
def imgBcast (g : Image) (t : Nat) : Bcast :=
  let w := secWord g 4 (2 * t)
  ⟨bit w 1, fld w 2 5, (List.range 32).filter fun n => bit w (32 + n)⟩

/-- The links on which broadcasts of the plan go on: the children of both trees. -/
def imgBcastLinks (g : Image) : List Nat := (imgBcast g 0).children ++ (imgBcast g 1).children

/-! ### Slots, streams, objects, domains, lanterns, actions -/

/-- A slot entry. -/
structure SlotEnt where
  link : Nat
  dir : Nat
  use : Nat
  first : Nat
  count : Nat
  deriving DecidableEq, Repr

def imgSlot (g : Image) (i : Nat) : SlotEnt :=
  let w := secWord g 5 i
  ⟨fld w 0 5, fld w 5 1, fld w 6 2, fld w 8 10, fld w 18 10⟩

def imgSlots (g : Image) : List SlotEnt := (List.range (secCount g 5)).map (imgSlot g)

/-- A stream entry. -/
structure StrEnt where
  stream : Nat
  use : Nat
  link : Nat
  deriving DecidableEq, Repr

def imgStr (g : Image) (i : Nat) : StrEnt :=
  let w := secWord g 6 i
  ⟨fld w 0 14, fld w 14 4, fld w 18 5⟩

def imgStreams (g : Image) : List StrEnt := (List.range (secCount g 6)).map (imgStr g)

/-- A synchronisation object entry. -/
structure SyncEnt where
  obj : Nat
  ty : Nat
  init : Nat
  deriving DecidableEq, Repr

def imgSync (g : Image) (i : Nat) : SyncEnt :=
  let w := secWord g 7 i
  ⟨fld w 0 14, fld w 14 2, fld w 16 16⟩

def imgSyncs (g : Image) : List SyncEnt := (List.range (secCount g 7)).map (imgSync g)

/-- A domain entry. -/
structure DomEnt where
  kind : Nat
  id : Nat
  standby : Nat
  deriving DecidableEq, Repr

def imgDom (g : Image) (i : Nat) : DomEnt :=
  let w := secWord g 8 i
  ⟨fld w 0 2, fld w 2 10, fld w 12 8⟩

def imgDoms (g : Image) : List DomEnt := (List.range (secCount g 8)).map (imgDom g)

/-- A lantern table entry. -/
structure LanEnt where
  x : Nat
  y : Nat
  z : Nat
  valid : Bool
  pshelf : Nat
  cool : Nat
  switch : Nat
  deriving DecidableEq, Repr

def imgLan (g : Image) (t : Nat) : LanEnt :=
  let w := secWord g 1 t
  ⟨fld w 0 4, fld w 4 4, fld w 8 4, bit w 12, fld w 32 8, fld w 40 8, fld w 48 8⟩

/-- Lanterns of the fleet. -/
def imgFleet (g : Image) : Nat :=
  ((List.range 1024).filter fun t => (imgLan g t).valid).length

/-- An action entry (R239). -/
structure Action where
  trigger : Nat
  every : Nat
  waitEn : Bool
  wait : Nat
  sigEn : Bool
  sig : Nat
  engine : Nat
  slot : Nat
  block : Nat
  out : Nat
  deriving DecidableEq, Repr

def imgAction (g : Image) (i : Nat) : Action :=
  let w0 := secWord g 10 (2 * i)
  let w1 := secWord g 10 (2 * i + 1)
  ⟨fld w0 0 8, fld w0 8 8, bit w0 16, fld w0 17 14, bit w0 31, fld w0 32 14, fld w0 46 2,
    fld w0 48 4, fld w1 0 32, fld w1 32 14⟩

def imgActions (g : Image) : List Action := (List.range (secCount g 10)).map (imgAction g)

/-- Word `j` of the engine block of an action. -/
def blockWord (g : Image) (a : Action) (j : Nat) : DWord := secWord g 10 (a.block / 8 + j)

/-- A tree engine block (Table 14.6). -/
structure TreeBlk where
  src : Nat
  nf : Nat
  ensId : Nat
  /-- ITEM and FLD of each feature -/
  feats : List (Nat × Nat)
  deriving DecidableEq, Repr

def treeBlk (g : Image) (a : Action) : TreeBlk :=
  let w0 := blockWord g a 0
  let nf := fld w0 1 11
  ⟨fld w0 0 1, nf, fld w0 32 32, (List.range nf).map fun j =>
    let e := fld (blockWord g a (1 + j / 2)) (32 * (j % 2)) 32
    (e % 256, e / 256 % 8)⟩

/-- A sequence engine block (Table 15.10). -/
structure SeqBlk where
  mode : Nat
  nser : Nat
  modelId : Nat
  wlen : Nat
  sers : List Nat
  deriving DecidableEq, Repr

def seqBlk (g : Image) (a : Action) : SeqBlk :=
  let w0 := blockWord g a 0
  let n := fld w0 3 7
  ⟨fld w0 0 3, n, fld w0 32 32, fld (blockWord g a 1) 0 23, (List.range n).map fun i =>
    fld (blockWord g a (2 + i / 4)) (16 * (i % 4)) 16⟩

/-- Words of an action's engine block. -/
def blockLen (g : Image) (a : Action) : Nat :=
  if a.engine = 0 then 1 + ((treeBlk g a).nf + 1) / 2 else 2 + ((seqBlk g a).nser + 3) / 4

/-! ### The buoy section (Table 9.5) -/

/-- A sampling set: word at which it starts, period, offset, stream, item count, items as kind and
index. -/
structure SampSet where
  at_ : Nat
  period : Nat
  offset : Nat
  stream : Nat
  n : Nat
  items : List (Nat × Nat)
  deriving DecidableEq, Repr

/-- A quiet-window set of a plan. -/
structure QwSet where
  at_ : Nat
  set : Nat
  period : Nat
  ofs : Nat
  len : Nat
  guard : Nat
  deriving DecidableEq, Repr

def secPlan (g : Image) : Nat := fld (wordAt g 0) 0 8
def secNbi (g : Image) : Nat := fld (wordAt g 0) 8 9
def secNsamp (g : Image) : Nat := fld (wordAt g 0) 17 4
def secNqw (g : Image) : Nat := fld (wordAt g 0) 21 3
def secSetId (g : Image) : Nat := fld (wordAt g 0) 32 32
def secPeriod (g : Image) : Nat := fld (wordAt g 1) 0 32
def secCutOfs (g : Image) : Nat := fld (wordAt g 1) 32 19
def secCmdCut (g : Image) : Bool := bit (wordAt g 1) 51
def secSeed (g : Image) : DWord := wordAt g 2
def secRate (g : Image) : Nat := fld (wordAt g 3) 0 17
def secCvStream (g : Image) : Nat := fld (wordAt g 3) 17 14
def secPbClose (g : Image) : Nat := fld (wordAt g 3) 31 10

/-- Kind, index and STRAG of buoy item `i`. -/
def secItem (g : Image) (i : Nat) : Nat × Nat × Bool :=
  let w := wordAt g (4 + i)
  (fld w 0 3, fld w 3 10, bit w 13)

/-- The sampling sets from word `i` on, and the word behind them. -/
def sampSets (g : Image) : Nat → Nat → List SampSet × Nat
  | 0, i => ([], i)
  | k + 1, i =>
    let n := fld (wordAt g (i + 1)) 14 7
    let x : SampSet := ⟨i, fld (wordAt g i) 0 32, fld (wordAt g i) 32 32,
      fld (wordAt g (i + 1)) 0 14, n, (List.range n).map fun j =>
        let w := wordAt g (i + 2 + j)
        (fld w 0 3, fld w 3 10)⟩
    let r := sampSets g k (i + 2 + n)
    (x :: r.1, r.2)

/-- The sampling sets of a buoy section, and the word behind them. -/
def secSamp (g : Image) : List SampSet × Nat := sampSets g (secNsamp g) (4 + secNbi g)

/-- The quiet-window sets of a buoy section. -/
def secQw (g : Image) : List QwSet :=
  (List.range (secNqw g)).map fun j =>
    let i := (secSamp g).2 + 3 * j
    ⟨i, fld (wordAt g i) 0 2, fld (wordAt g i) 32 32, fld (wordAt g (i + 1)) 0 32,
      fld (wordAt g (i + 1)) 32 32, fld (wordAt g (i + 2)) 0 16⟩

/-- Words that NBI, NSAMP and NQW give a section. -/
def secWords (g : Image) : Nat := (secSamp g).2 + 3 * secNqw g

/-- Streams a section names, with the word that names each. -/
def secStreams (g : Image) : List (Nat × Nat) :=
  (3, secCvStream g) :: (secSamp g).1.map fun x => (x.at_ + 1, x.stream)

/-- The BUOY section of an image. -/
def imgBuoySec (g : Image) : Image :=
  match imgSec g 9 with
  | some d => (g.drop (d.off / 8)).take (d.len / 8)
  | none => []

/-! ### Seeded subsampling (R223) -/

/-- Whether the buoy `leaf` is sampled in `epoch`. -/
def sampled (seed : DWord) (epoch leaf rate : Nat) : Bool :=
  let z := seed ^^^ (BitVec.ofNat 64 epoch <<< 18) ^^^ BitVec.ofNat 64 leaf
  let z := z + 0x9E3779B97F4A7C15
  let z := (z ^^^ (z >>> 30)) * 0xBF58476D1CE4E5B9
  let z := (z ^^^ (z >>> 27)) * 0x94D049BB133111EB
  let z := z ^^^ (z >>> 31)
  decide ((z >>> 48).toNat < rate)

/-! ### Resources (R241) -/

/-- Grid positions of a slot entry: start and length of the run, modulo 1,000. -/
def slotRun (g : Image) (x : SlotEnt) : Nat × Nat :=
  if imgCmdCut g then (0, 1000) else ((imgCutOfs g / 500 + x.first) % 1000, x.count)

/-- Two runs of grid positions meet. -/
def runsMeet (a c : Nat × Nat) : Bool :=
  decide (a.2 ≠ 0 ∧ c.2 ≠ 0) &&
  (decide ((c.1 + 1000 - a.1) % 1000 < a.2) || decide ((a.1 + 1000 - c.1) % 1000 < c.2))

/-- Byte offsets of the streams and quiet-window sets of section `g` that section `o` owns. -/
def secConflicts (g o : Image) : List Nat :=
  (((secStreams g).filter fun s => (secStreams o).any fun t => decide (t.2 = s.2)).map fun s =>
    8 * s.1 + (if s.1 = 3 then 2 else 0)) ++
  (((secQw g).filter fun q => (secQw o).any fun r => decide (r.set = q.set)).map fun q => 8 * q.at_)

/-- Byte offsets of the entries of image `g` whose resource image `o` owns. -/
def imgConflicts (g o : Image) : List Nat :=
  (((List.range (secCount g 5)).filter fun i =>
    let x := imgSlot g i
    (imgSlots o).any fun y =>
      decide (x.link = y.link ∧ x.dir = y.dir) && runsMeet (slotRun g x) (slotRun o y)).map fun i =>
    8 * (secBase g 5 + i)) ++
  (((List.range (secCount g 6)).filter fun i =>
    (imgStreams o).any fun t => decide (t.stream = (imgStr g i).stream)).map fun i =>
    8 * (secBase g 6 + i)) ++
  (((List.range (secCount g 7)).filter fun i =>
    (imgSyncs o).any fun t => decide (t.obj = (imgSync g i).obj)).map fun i =>
    8 * (secBase g 7 + i)) ++
  (secConflicts (imgBuoySec g) (imgBuoySec o)).map fun n => 8 * secBase g 9 + n

end Sys2Proof.Machine
end

