-- ==== Sys2Proof/Config.lean ====
section
/-! DEFINITION. The free values: what the spec leaves open and the block still produces. Each is a
constant without a body, so that nothing can be proved about the value itself. -/

namespace Sys2Proof.Config

/-- The part of a slew that one clock edge applies, in units of 2⁻²⁸ ns, before the bound of
200 ppm of R109 and R114 is put on it (log entry 5). The argument is the state's free counter. -/
opaque slewPart : Nat → Int

/-- The return cookie a lantern writes into RET of an in-band command of its own (R154; log
entry 6). -/
opaque ownCookie : Nat → Word

/-- The TAG a lantern gives an in-band command of its own (R150; log entry 6). -/
opaque ownTag : Nat → BitVec 8

/-- The read tag a lantern gives a LOADRD unit (R278; log entry 6). -/
opaque readTag : Nat → BitVec 8

/-- A number that the spec leaves open: the count of a window check that no window measured, the
time of a soft boot, the place of an error that the command does not name, the bank that an attic
entry lies in (log entry 7). The argument is the state's free counter. -/
opaque openValue : Nat → Int

/-- Data words the model does not hold: of a block of a copy that was never written, and beside a log record in its
first and last beat (log entry 8). -/
opaque openWord : Nat → DWord

/-- The level of tap line 64n + i at a tap edge: an input of the block that no command of the table
gives (log entry 17). The first argument is the state's free counter. -/
opaque tapLine : Nat → Nat → Bool

/-- Occupancy value 8n + j at a tap edge (log entry 17). -/
opaque tapOcc : Nat → Nat → BitVec 16

/-- Whether a byte address of memory 0x00 lies in the keeper's working memory (R435; log entry 19): the spec
does not lay out the memory. -/
opaque keeperWord : Nat → Bool

/-- The UNIT_EN bit of the buoy unit that owns word `i` of memory 0x04, if one does (R430; log entry 121). -/
opaque smallUnit : Nat → Option Nat

/-- Whether the engine runs of entry `entry` take semaphore object `obj`, in a plan image with the CRC `crc` (R239;
log entry 120): no field of an ACTIONS entry names one. -/
opaque takesSem (crc entry obj : Nat) : Bool

end Sys2Proof.Config
end

