-- ==== Sys2Proof/Machine/State.lean ====
section
/-! DEFINITION. The state of the block as plain data: every piece of state that the spec gives it,
grouped by the unit that owns it, and the state in cold reset. -/

namespace Sys2Proof.Machine

/-- Why the block stops with a fault: never. Every command of the table has an effect, so the type
has no constructor. -/
inductive Fault
  deriving DecidableEq, Repr

/-- Why a command is refused. -/
inductive Refusal where
  /-- Raised by an arm of `exec` that has no meaning yet. Safe: the block does nothing. -/
  | notModelled (mnemonic : String)
  deriving DecidableEq, Repr

/-! ### Build parameters and the register file -/

/-- CEL_DEV_GIB (spec/02 Table 2.1). -/
inductive CelDev where
  | gib16
  | gib32
  | gib64
  deriving DecidableEq, Repr

/-- The build parameters (R62): fixed for the life of the block (R4). -/
structure Build where
  form : Form
  spillEn : Bool
  spillAw48 : Bool
  celDev : CelDev
  deriving DecidableEq, Repr

/-- The access codes of spec/00 Table 0.3. -/
inductive Acc where
  | ro
  | rw
  | w1c
  | wo
  | rc
  | w1
  deriving DecidableEq, Repr

/-- A register field: register offset, lowest bit, width, access code, reset value in a buoy and in
a lantern. -/
structure Fld where
  off : Nat
  lo : Nat
  w : Nat
  acc : Acc
  rB : Nat
  rL : Nat
  deriving DecidableEq, Repr

/-- The selector that names the entity a register shows (R485). -/
inductive Sel where
  | none
  | timeBuoy
  | queue
  | qmap
  | plan
  | cut
  | unitGen
  | series
  | treeSlot
  | treePipe
  | seqSlot
  | memory
  | canaryBin
  | foPlan
  | foLost
  | foLink
  | pmb
  | object
  deriving DecidableEq, Repr

/-- The enable that gates a register (spec/21 Table 21.6). `bit n` is UNIT_EN bit n. -/
inductive Gate where
  | none
  | bit (n : Nat)
  | tapGroup
  | sync
  | pulse
  | treePipe
  | link
  deriving DecidableEq, Repr

/-- A row of the register map: first offset, stride, how many of them a buoy and a lantern have,
selector, gate and fields. -/
structure RegRow where
  off : Nat
  stride : Nat
  nB : Nat
  nL : Nat
  sel : Sel
  gate : Gate
  flds : List Fld
  deriving DecidableEq, Repr

/-! ### What the ports send -/

/-- One beat of a fabric stream (R72): 256 bits of data in four words, the enables of the four words, and whether
it is the last of its record. -/
structure Beat where
  data : List DWord
  we : BitVec 4
  last : Bool
  deriving DecidableEq, Repr

/-- What the block has put out at its ports, in order: the model's own record of its outputs. A memory request
carries its write data. -/
inductive Out where
  | regRsp (data : Word) (err : Bool)
  | mgmtReply (words : List DWord)
  | calReq (idx : Nat)
  | fabTx (cls : Nat) (r : Rec) (beats : List Beat)
  | linkTx (n : Nat) (body : List DWord) (tail : DWord)
  | pulse (n : Nat) (level : Bool)
  | pwrReq (unit : Nat) (kind : Nat)
  | spillReq (wr : Bool) (addr len : Nat) (data : List DWord)
  | celReq (port : Nat) (wr : Bool) (unit len : Nat) (data : List DWord)
  | pmbRead (dev rd cmd : Nat)
  deriving DecidableEq, Repr

/-! ### Start-up, clocks and calibration -/

/-- An event as the logbook is offered it (spec/17 Table 17.1). -/
structure LogEv where
  code : Nat
  sev : Nat
  plan : Nat
  status : Nat
  args : List Nat
  deriving DecidableEq, Repr

/-- What a boot follows (R134, R472). -/
inductive BootKind where
  | cold
  | soft
  | deep
  deriving DecidableEq, Repr

/-- Reset and start-up (spec/05). -/
structure Boot where
  /-- `rst_n` is low -/
  held : Bool
  st : Statics
  /-- GLB_BOOT.PHASE: 0 to 6, or 15 -/
  phase : Nat
  ready : Bool
  /-- the calibration index awaited, while the intake runs -/
  calIdx : Option Nat
  kind : BootKind
  /-- early events (R419) -/
  early : List LogEv
  /-- the BMON island is still in reset: its clock has not run since the reset ended (R93) -/
  bmonRst : Bool
  deriving DecidableEq, Repr

/-- Clock sources and oscillator trim (spec/03). -/
structure Clk where
  coreOn : Bool
  regOn : Bool
  coreQual : Bool
  regQual : Bool
  /-- switches to make: the first is in progress -/
  switches : List (SwIsland × Bool)
  /-- the last CLK_SEL write that arrived while SW_BUSY (R96) -/
  waiting : Option Word
  oscQual : Bool
  code : Nat
  bit : Nat
  acq : Bool
  /-- an acquisition has completed since the last reset (R145) -/
  acqDone : Bool
  refOk : Bool
  lastCnt : Nat
  /-- the source whose window in progress is to be discarded (R102) -/
  spoilt : Option TrimSrc
  deriving DecidableEq, Repr

/-- Calibration words (spec/05 Table 5.6): factory words read, or none when the defaults apply;
user words. -/
structure Cal where
  calf : Option (Tab Word)
  intake : Tab Word
  calu : Tab Word
  deriving DecidableEq, Repr

/-! ### Fleet time -/

/-- The time states of R112. -/
inductive TState where
  | free
  | acquire
  | locked
  | holdover
  deriving DecidableEq, Repr

/-- What owns an armed-count comparator (R126). -/
inductive Owner where
  | start (plan : Nat)
  | cuts (plan : Nat)
  | cut (plan : Nat) (epoch : Nat)
  | teardown (plan : Nat)
  | pulse (n : Nat)
  | wake
  deriving DecidableEq, Repr

/-- An armed agreed count. `period` is 0 for a count that fires once. -/
structure Cmp where
  owner : Owner
  count : Word
  period : Nat
  deriving DecidableEq, Repr

/-- A count that has fired and whose consequence is the next command of its owner. -/
structure Fired where
  owner : Owner
  count : Word
  deriving DecidableEq, Repr

/-- What a lantern keeps of the exchange with one Local (R117 to R122). -/
structure Peer where
  xseq : Nat
  /-- TX of the last REQ, once it has been stamped -/
  tx : Option Word
  sent : Bool
  answered : Bool
  /-- the kept exchange of the group in progress: delay and theta -/
  best : Option (Int × Int)
  corr : Int
  good : Nat
  lock : Bool
  hist : List Bool
  delay : Int
  ofs : Int
  deriving DecidableEq, Repr

/-- Fleet time (spec/04). -/
structure Time where
  acc : BitVec 60
  wraps : Nat
  state : TState
  /-- what is left of a slew, in 2⁻²⁸ ns -/
  slew : Int
  good : Nat
  everLocked : Bool
  /-- 2⁻²⁸ ns of fleet time since the last 1 ms tick -/
  msAcc : Nat
  stepped : Bool
  lanLock : Bool
  /-- `tin_valid` was last seen low -/
  tinLow : Bool
  ofs : Int
  trunk : Option Nat
  peers : Tab Peer
  cmps : List Cmp
  fired : List Fired
  deriving DecidableEq, Repr

/-- A pulse output (R128, R129). -/
structure Pulse where
  t : Word
  per : Nat
  width : Nat
  level : Bool
  fall : Word
  deferred : Option (Word × Nat × Nat)
  /-- a deferred arm whose T has passed: the output rises at the next edge (R129) -/
  lateRise : Bool
  deriving DecidableEq, Repr

/-- A quiet-window set (R130, R131); `owner` is the plan that owns it, 0 for none. -/
structure Qw where
  en : Bool
  s : Word
  active : Bool
  pendDis : Bool
  owner : Nat
  deriving DecidableEq, Repr

/-! ### Command packets -/

/-- Where a reply goes: the port, the routing word's fields and the header's. -/
structure Ret where
  port : Port
  priv : BitVec 2
  dst : BitVec 18
  dlan : Bool
  ret : Word
  tag : BitVec 8
  pchk : Bool
  /-- place in the arrival order of its port -/
  seqNo : Nat
  deriving DecidableEq, Repr

/-- A command that has arrived on a port: it waits there, or is in execution. -/
structure Busy where
  r : Ret
  c : Instr
  deriving DecidableEq, Repr

/-- What an in-band command of the lantern's own was for. -/
inductive OwnUse where
  | load
  | loadFinal
  | verify
  | arm
  | abort
  | teardown
  | cutAt
  | hang
  deriving DecidableEq, Repr

/-- A forwarded command, or one of the lantern's own, that awaits its reply (R157, R163). -/
structure Fwd where
  idx : Nat
  dst : BitVec 18
  dlan : Bool
  ret : Word
  tag : BitVec 8
  pchk : Bool
  origin : Option (Ret)
  own : Option (OwnUse × Nat)
  deriving DecidableEq, Repr

/-- A command that arrived on a link and is not answered yet (R159); its reply once it has one. -/
structure Order where
  r : Ret
  reply : Option Rec
  deriving DecidableEq, Repr

/-- Command packets (spec/06). -/
structure Cmd where
  busy : List Busy
  /-- the whole packet in the MGMT receive buffer whose command has not started (R160) -/
  mgmtBuf : Option Busy
  /-- commands that wait at their ports, or at the sender toward MGMT, in arrival order (R97, R159, R160) -/
  held : List Busy
  /-- a waiting command that starts in this step -/
  starting : Option Ret
  /-- register-port requests, with their offsets, held while an island on their way is in reset or switches
  its source (R93, R97) -/
  regHeld : List (Nat × Instr)
  /-- the first of them is served in this step -/
  regGo : Bool
  /-- replies waiting at MGMT (R160), oldest first -/
  mgmtReplies : List (List DWord)
  nextNo : Nat
  fwd : List Fwd
  /-- forwarded commands that timed out and whose reply has not come (R163) -/
  late : List Fwd
  order : List Order
  deriving DecidableEq, Repr

/-! ### Counting and sampling (buoy) -/

/-- A counter (R179): configuration word, value, overflow, previous level, snapshot. -/
structure Ctr where
  cfg : DWord
  val : BitVec 48
  ovf : Bool
  prev : Bool
  snap : Option (BitVec 48 × Bool)
  deriving DecidableEq, Repr

/-- A remap entry (R173): logical and physical unit; `valid` after the handover. -/
structure Remap where
  logical : Nat
  phys : Nat
  valid : Bool
  deriving DecidableEq, Repr

/-- A remap accepted and not yet complete (R175 to R177): logical unit, spare, entry, whether the switch has
started, whether counter values travel from the old tap island, and whether the sources have switched already,
at one edge of the tap island that holds the old and the new groups (R176). -/
structure RemapJob where
  r : Ret
  u : Nat
  p : Nat
  entry : Nat
  switched : Bool
  travels : Bool
  moved : Bool
  deriving DecidableEq, Repr

/-- A PC sample entry (spec/07 Table 7.10). -/
structure PcEnt where
  pc : DWord
  ft : Word
  unit : Nat
  stall : Nat
  gen : Nat
  deriving DecidableEq, Repr

/-- Assembly of one PC sample port (R191, R192): the thinning count, the open buffer, and samples
lost since the port's last record. -/
structure Pcs where
  count : Nat
  buf : List PcEnt
  lost : Nat
  deriving DecidableEq, Repr

/-- A replayed step of a unit (R455). -/
structure StepSt where
  step : Nat
  op : Bool
  deriving DecidableEq, Repr

/-- A STEP_MARK accepted and not yet applied. -/
structure StepJob where
  r : Ret
  u : Nat
  k : Nat
  deriving DecidableEq, Repr

/-- The counting and sampling units (spec/07): first writes of TAP_BIND, the remap table, retired
units, a remap in progress, replayed steps and step marks to apply, counters, PC sampling, the
sensor set in force as raw and calibrated values, TALM. -/
structure Samp where
  binds : Tab (Word)
  remaps : Tab Remap
  retired : List Nat
  job : Option RemapJob
  steps : Tab StepSt
  stepJobs : List StepJob
  ctrs : Tab Ctr
  pcs : Tab Pcs
  lastPc : Tab PcEnt
  sensT : Tab (Nat × Int)
  sensV : Tab (Nat × Int)
  talm : Bool
  deriving DecidableEq, Repr

/-! ### Plans and cuts -/

/-- The states of spec/09 Table 9.1. -/
inductive PState where
  | empty
  | loading
  | loaded
  | verified
  | arming
  | armed
  | running
  deriving DecidableEq, Repr

/-- An item block of a partial (spec/08 Table 8.4). MIN, MAX and TOPK hold (value, key). -/
structure ItemBlk where
  item : Nat
  ops : Nat
  k : Nat
  miss : Nat
  sum : Int
  cnt : Nat
  mn : Option (Int × Nat)
  mx : Option (Int × Nat)
  hist : List Nat
  top : List (Int × Nat)
  deriving DecidableEq, Repr

/-- A partial: descriptor counts and item blocks. -/
structure Part where
  expect : Nat
  present : Nat
  absent : Nat
  unsampled : Nat
  sublost : Bool
  inexact : Bool
  items : List ItemBlk
  deriving DecidableEq, Repr

/-- A straggler list entry (spec/08 Table 8.6). -/
structure StragEnt where
  v : Int
  excess : Nat
  key : Nat
  dir : Nat
  deriving DecidableEq, Repr

/-- A straggler list. -/
structure StragList where
  item : Nat
  undef : Bool
  flagged : Nat
  ents : List StragEnt
  deriving DecidableEq, Repr

/-- A threshold entry (spec/08 Table 8.5). -/
structure Thr where
  item : Nat
  undef : Bool
  hiEn : Bool
  loEn : Bool
  hi : Int
  lo : Int
  deriving DecidableEq, Repr

/-- A canary outcome (spec/18 Table 18.4). -/
structure CanOut where
  pass : Nat
  fail : Nat
  notrun : Nat
  fkey : Option (Nat × Nat)
  deriving DecidableEq, Repr

/-- The class of a buoy in a cut (R212). -/
inductive BClass where
  | unsampled
  | absent
  | waiting
  | present
  deriving DecidableEq, Repr

/-- A fragment of a child's partial that has arrived: stage and child place, KIND, FRAG and FRAGS, the
descriptor with the items of KIND 0, the lists of KIND 2, the outcome of KIND 3. -/
structure ChildFrag where
  stage : Nat
  child : Nat
  kind : Nat
  frag : Nat
  frags : Nat
  part : Part
  lists : List StragList
  can : CanOut
  deriving DecidableEq, Repr

/-- The open epoch of a plan at a lantern. -/
structure OpenCut where
  t : Word
  epoch : Nat
  cls : Tab BClass
  /-- accepted cut vectors by Local -/
  vecs : Tab (List DWord)
  /-- F32 values of the lantern items -/
  litems : List Word
  leafDone : Bool
  /-- the leaf partial -/
  leaf : Part
  part : Part
  /-- stage in progress in phase A: 1 to 3, 4 when phase A is complete -/
  stage : Nat
  frags : List ChildFrag
  thr : Option (List Thr)
  /-- buoys whose phase-B lists and whose canary outcomes have been merged -/
  bPresent : List Nat
  cPresent : List Nat
  lists : List StragList
  can : CanOut
  canOwn : Bool
  bDesc : Part
  cDesc : Part
  bClosed : Bool
  /-- stage in progress in phase B, as `stage`; 0 before the phase-B close -/
  bStage : Nat
  deriving DecidableEq, Repr

/-- The kept latch of a buoy (R210): count, epoch, item words, the items whose island did not deliver,
whether the cut vector has been offered, whether a source's step was open, whether the phase-B record
has left, the canary outcome of the epoch. -/
structure Kept where
  t : Word
  epoch : Nat
  words : List DWord
  stale : List Nat
  assembled : Bool
  replayed : Bool
  pbSent : Bool
  can : Option CanOut
  deriving DecidableEq, Repr

/-- An occurrence of an action that waits or runs (R239). -/
structure Occ where
  entry : Nat
  epoch : Nat
  waiting : Bool
  /-- the barrier has been released, or none is waited for -/
  released : Bool
  /-- PRESENT buoys and item words when an SRC 1 action was triggered -/
  root : Part
  rows : List (Nat × List DWord)
  absent : Nat
  /-- its place in the order of all triggers (R383) -/
  no : Nat
  deriving DecidableEq, Repr

/-- Collection of the replies of an arm or load (R230, R246). -/
structure Collect where
  waiting : List Nat
  ok : Nat
  deriving DecidableEq, Repr

/-- A plan entry. -/
structure Plan where
  state : PState
  /-- the image (lantern) or the section (buoy), in words -/
  image : List DWord
  bytes : Nat
  crc : Word
  standby : Bool
  buoyMiss : Nat
  buoyOk : List Nat
  armSeq : Nat
  s : Word
  d : Word
  tdEn : Bool
  /-- conditional teardown: the standby plan (R446) -/
  cond : Option Nat
  /-- ARM: reports received, buoys still to answer, counts -/
  reported : List (Nat × Nat)
  coll : Collect
  lant : Nat
  buoy : Nat
  nogo : Nat
  refused : Bool
  sentReport : Bool
  armReply : Option Ret
  /-- CUT_AT commands at the root whose cut calls have not left on both trees, with their epochs -/
  cutReplies : List (Ret × Nat)
  autoArm : Bool
  loadReply : Option Ret
  verifyReply : Option Ret
  seen : List (Nat × Nat × Nat)
  epochNext : Nat
  /-- a periodic plan's next cut count -/
  nextT : Word
  /-- count of the last CUT_AT accepted since the entry was armed -/
  lastT : Option Word
  /-- count of the last cut latched -/
  latchT : Word
  /-- epoch latched last since the entry was armed (R201), and as CUT_LAST shows it -/
  lastLatched : Option Nat
  latched : Nat
  done : Nat
  doneAny : Bool
  pendCuts : List (Word × Nat)
  kept : Option Kept
  /-- delta items: value latched for the previous cut, none when stale -/
  prev : Tab Nat
  sampNext : List Word
  oc : Option OpenCut
  rejBuoys : List (Nat × Nat)
  /-- occurrences of triggers that their actions have not taken yet -/
  due : List Occ
  occs : List Occ
  trig : Tab Nat
  miss : Tab Nat
  /-- children declared lost (R444) -/
  declared : List Nat
  lostUp : List Nat
  upAbort : Bool
  lostSet : List Nat
  lostOvf : Bool
  switchPend : Option (Nat × Nat × Nat)
  resultsUp : Bool
  deriving DecidableEq, Repr

/-- A synchronisation object of a lantern (R239, R407). -/
structure Sync where
  ty : Nat
  plan : Nat
  init : Nat
  count : Nat
  deriving DecidableEq, Repr

/-! ### Queues, shaping, links -/

/-- A record in a queue, with its enqueue stamp and whether it is held by batching. -/
structure QRec where
  r : Rec
  stamp : Word
  held : Bool
  /-- byte position of its first byte in the queue's stream of record bytes -/
  pos : Nat
  /-- the address of a word of it that was read uncorrectable in memory 0x01 (R428) -/
  bad : Option Nat
  deriving DecidableEq, Repr

/-- A queue (spec/12). Pages are numbered along the stream of record bytes, 504 to a page. -/
structure Que where
  recs : List QRec
  /-- byte position behind the last record -/
  tail : Nat
  /-- the middle holds pages `midLo` to `midHi - 1` -/
  midLo : Nat
  midHi : Nat
  /-- marks of R312: byte positions -/
  marks : List Nat
  /-- finish tag and class of the head record (R260) -/
  head : Option (Nat × Nat)
  f : Nat
  /-- the greatest delay since the previous sample (R265) -/
  dmax : Nat
  deriving DecidableEq, Repr

/-- A stream map entry's pending run and mark (R305, R312). -/
structure QRun where
  first : Word
  count : Nat
  cause : Nat
  mark : Bool
  deriving DecidableEq, Repr

/-- Credits of a class (R256), in 2⁻¹⁶ byte. -/
structure Cred where
  c : Int
  p : Int
  deriving DecidableEq, Repr

/-- The egress shaper (spec/10). -/
structure Shape where
  cred : Tab Cred
  ftPrev : Word
  v : Nat
  sent : Nat
  sampleAt : Option Word
  deriving DecidableEq, Repr

/-- A unit that waits for its ACK. -/
structure TxUnit where
  fseq : Nat
  flits : Nat
  body : List DWord
  tail : DWord
  /-- the record, for its loss (R291) -/
  r : Option Rec
  /-- PLAN units: plan, ARM_SEQ, USE, epoch -/
  plan : Option (Nat × Nat × Nat × Nat)
  /-- where an FWD unit came from: receiving link 0 to 31, 32 for the lantern's own queues -/
  src : Nat
  /-- the address of a word of it that was read uncorrectable in memory 0x01 (R428) -/
  bad : Option Nat
  deriving DecidableEq, Repr

/-- A unit that waits to be sent: CTL units and plan units. -/
structure LinkItem where
  body : List DWord
  r : Option Rec
  /-- PLAN units: plan, ARM_SEQ, USE, epoch -/
  plan : Option (Nat × Nat × Nat × Nat)
  /-- the addressed buoy, on a TRAY link -/
  dest : Nat
  /-- FT when the unit began to wait -/
  stamp : Word
  /-- the address of a word of it that was read uncorrectable in memory 0x01 (R428) -/
  bad : Option Nat
  deriving DecidableEq, Repr

/-- The states of a link. -/
inductive LState where
  | down
  | training
  | init
  | up
  deriving DecidableEq, Repr

/-- A storage read that awaits its LOADDAT: tag, the load's command, byte offset and length. -/
structure RdEnt where
  tag : BitVec 8
  load : Nat
  ofs : Nat
  len : Nat
  deriving DecidableEq, Repr

/-- A link port (spec/11). -/
structure Link where
  st : LState
  fails : Nat
  txNext : Nat
  unacked : List TxUnit
  replay : Nat
  replays : Nat
  sentCtl : Nat
  sentFwd : Nat
  peerCtl : Nat
  peerFwd : Nat
  rxExp : Nat
  ack : Nat
  freedCtl : Nat
  freedFwd : Nat
  /-- FWD flits whose credit a full transit queue withholds (R303) -/
  owed : Nat
  statusDue : Bool
  /-- FT when the last STATUS left -/
  statusAt : Option Word
  nakDue : Bool
  resync : Bool
  ctl : List LinkItem
  pln : List LinkItem
  rr : Nat
  loads : List RdEnt
  obs : Option Nat
  deriving DecidableEq, Repr

/-- The link that a stream last took, or its records to one buoy, and whether its reroute hold runs (R294). -/
structure Route where
  link : Nat
  hold : Bool
  deriving DecidableEq, Repr

/-- An image being read from storage, or assembled and waiting for its slot (R148, R278, R341).
`model` is none for a plan image, else whether it is a sequence model, and the slot. `phase` is 0 while
the tables are awaited, 1 while the slot is in use, 2 while the slot is LOADING. -/
structure Load where
  r : Ret
  model : Option (Bool × Nat)
  addr : DWord
  len : Nat
  crc : Word
  got : Tab (List DWord)
  phase : Nat
  deriving DecidableEq, Repr

/-! ### Series, trees, sequence engine -/

/-- A coded block as it lies in its ring slot (spec/13 Table 13.2). -/
structure Blk where
  words : List DWord
  poison : Bool
  deriving DecidableEq, Repr

/-- A block write that the cellar has not acknowledged; `sent` where a request left for it (R82). -/
structure Writing where
  no : Nat
  blk : Blk
  sent : Bool
  deriving DecidableEq, Repr

/-- A block that awaits coding; no samples for a whole fill block (R317). -/
structure Staged where
  blockNo : Nat
  samples : List Word
  deriving DecidableEq, Repr

/-- A series (spec/13). -/
structure Ser where
  on : Bool
  next : Word
  commit : Word
  s0 : Word
  prev : Option Int
  cur : List Word
  /-- the newest sample as F32, NaN for a fill (R322) -/
  newest : Option Word
  coding : List Staged
  writing : List Writing
  ring : Tab Blk
  lastSeq : Option Word
  deriving DecidableEq, Repr

/-- A value that a source event gives a series (R314); `sat` where selecting it saturated (R315). -/
inductive SVal where
  | int (v : Int) (sat : Bool)
  | f32 (x : Word)
  | fill (m : Nat)
  deriving DecidableEq, Repr

/-- The series store's own state: source events not yet taken, and the series. -/
structure SerUnit where
  events : List (Nat × SVal)
  sers : Tab Ser
  deriving DecidableEq, Repr

/-- A model slot: the image, and a load in progress. -/
structure Slot where
  image : List DWord
  loading : Bool
  deriving DecidableEq, Repr

/-- A tree query or action in the pipes. -/
structure TreeJob where
  r : Ret
  slot : Nat
  feats : List (List (Option Word))
  deriving DecidableEq, Repr

/-- The live state of a FILTER or SCORE action on one series (R387). -/
structure Live1 where
  p : Word
  st : List Word
  gen : Nat
  deriving DecidableEq, Repr

/-- A query of the sequence engine that runs. `lost`: its series has been disabled or restarted since it
started. -/
structure SeqJob where
  r : Ret
  lost : Bool
  mode : Nat
  slot : Nat
  series : Nat
  first : Word
  len : Nat
  q : List Word
  gen : Nat
  deriving DecidableEq, Repr

/-- A query that waits for the engine: its packet, and whether a load of its slot stood before it. -/
structure SeqWait where
  r : Ret
  p : Packet
  barred : Bool
  deriving DecidableEq, Repr

/-- The engines (spec/14, spec/15). `live` is indexed by plan, entry and place in the list. -/
structure Eng where
  trees : Tab Slot
  asm : List DWord
  asmOn : Bool
  treeJobs : List TreeJob
  samples : Nat
  seqs : Tab Slot
  job : Option SeqJob
  waits : List SeqWait
  jobsDone : Nat
  live : Tab Live1
  /-- occurrences numbered so far -/
  trigs : Nat
  deriving DecidableEq, Repr

/-! ### Trace and hang analysis -/

/-- The recorder states of R396. -/
inductive TrSt where
  | off
  | armed
  | counting
  | stopped
  deriving DecidableEq, Repr

/-- A trace entry (spec/16 Table 16.3). -/
structure TrEnt where
  addr : DWord
  data : DWord
  ft : Word
  unit : Nat
  wr : Bool
  size : Nat
  trig : Bool
  itrig : Bool
  gen : Nat
  rhit : Nat
  deriving DecidableEq, Repr

/-- A slot of the trace buffer: a block or a power mark; `bad` is the address of a word read uncorrectable. -/
inductive TrSlot where
  | block (ents : List TrEnt) (trig stopped : Bool) (armId : Nat) (trigFt : Word) (bad : Option Nat)
  | mark (exit : Bool) (bad : Option Nat)
  deriving DecidableEq, Repr

/-- A watch object (R406). Waiter bits and owner name physical units, by their lowest group and by their
number. -/
structure Watch where
  en : Bool
  addr : DWord
  mask : DWord
  free : DWord
  val : DWord
  held : Bool
  uncert : Bool
  owner : Option Nat
  waiters : DWord
  deriving DecidableEq, Repr

/-- A hang dump in progress at a lantern. -/
structure Hang where
  r : Ret
  waiting : List Nat
  noAns : Nat
  graphs : List (Nat × Rec)
  deriving DecidableEq, Repr

/-- Trace and hang analysis (spec/16). -/
structure Trace where
  st : TrSt
  arm : List DWord
  opn : List TrEnt
  openTrig : Bool
  slots : List TrSlot
  lost : Nat
  markLost : Bool
  tft : Word
  /-- entries still to record before the stop -/
  cnt : Nat
  armId : Nat
  clkStop : Bool
  /-- recording is interrupted: an exit mark is due when it goes on (R404) -/
  markDue : Bool
  /-- the entry mark of the interruption waits for the clock too -/
  entryDue : Bool
  /-- trigger sources other than accesses that are on their way to BMON (R396) -/
  pend : List Nat
  /-- `fog_out` as the last edge saw it -/
  fogHi : Bool
  watches : Tab Watch
  syncs : Tab Sync
  hangId : Nat
  ncyc : Nat
  hang : Option Hang
  /-- replies to hang dumps, with their ARG, that wait until the records of the dump have left (R412) -/
  dumps : List (Ret × Nat)
  deriving DecidableEq, Repr

/-! ### Logbook, memory, faults, power -/

/-- A logbook entry (spec/17 Table 17.1); `bad` is the address of a word read uncorrectable. -/
structure LogEnt where
  lseq : Word
  ev : LogEv
  restored : Bool
  rep : Nat
  sel : Bool
  bad : Option Nat
  deriving DecidableEq, Repr

/-- The logbook (spec/17): entries by LSEQ, the attic copy, losses since the last LOG record, and the LSEQ of
the entry made last. -/
structure Log where
  ents : List LogEnt
  next : Word
  attic : List LogEnt
  lostSum : Nat
  live : Bool
  newest : Word
  deriving DecidableEq, Repr

/-- A SCRUB_RANGE pass, running or waiting (R430). -/
structure ScrubJob where
  r : Ret
  mem : Nat
  start : DWord
  len : DWord
  running : Bool
  deriving DecidableEq, Repr

/-- What a word read uncorrectable belongs to: a plan entry's image or section, the partials and lists of its
open epoch, a model slot of an engine, the features of sample `i` of a query, those of sample `i` of an action's
occurrence, the live state of an action, a frozen counter's snapshot, a kept latch, a watch object. -/
inductive Holder where
  | plan (p : Nat)
  | part (p : Nat)
  | tree (k : Nat)
  | seq (k : Nat)
  | query (no i : Nat)
  | rows (p entry epoch i : Nat)
  | live (key : Nat)
  | ctr (i : Nat)
  | latch (p : Nat)
  | watch (o : Nat)
  deriving DecidableEq, Repr

/-- A word that was read uncorrectable and has not been written since (R428): what holds it, its memory and its
byte address there. -/
structure BadWord where
  h : Holder
  id : Nat
  a : Nat
  deriving DecidableEq, Repr

/-- Memory protection and canaries (spec/18): uncorrectable words; poisoned beats of the cellar (R431), by
address in units of 32 bytes; walker positions and corrections of the lap. -/
structure MemU where
  bad : List BadWord
  cel : List Nat
  walk : Tab Nat
  lapCe : Tab Nat
  jobs : List ScrubJob
  runs : Nat
  deriving DecidableEq, Repr

/-- A copy definition entry (spec/19 Table 19.1). -/
structure DefEnt where
  cfg : Word
  src : Word
  base : Word
  commit : Word
  s0 : Word
  gen : Nat
  deriving DecidableEq, Repr

/-- A copy region: definitions by series, blocks by byte address. -/
structure Region where
  defs : Tab DefEnt
  blks : Tab Blk
  deriving DecidableEq, Repr

/-- A restore in progress (R450). -/
structure Restore where
  defs : Tab DefEnt
  blks : List (Nat × Blk)
  restored : List Nat
  deriving DecidableEq, Repr

/-- Input logging or replay (R460 to R463). -/
inductive RplSt where
  | off
  | logging
  | replaying
  deriving DecidableEq, Repr

/-- The replay unit: plan, region, records written, last epoch. -/
structure Rpl where
  st : RplSt
  plan : Nat
  base : Nat
  len : Nat
  bytes : Nat
  fromT : Word
  started : Bool
  stopping : Bool
  last : Nat
  recs : List Rec
  pos : Nat
  reply : Option Ret
  deriving DecidableEq, Repr

/-- Copies, restore and replay (spec/19). -/
structure Flt where
  regions : Tab Region
  sent : Nat
  rest : Option Restore
  restState : Nat
  restored : Nat
  restarted : Nat
  rpl : Rpl
  /-- subjects now in disagreement (R458): buoys, links, units -/
  dis : List (Nat × Nat)
  deriving DecidableEq, Repr

/-- The power states of spec/20 Table 20.1. -/
inductive PwrSt where
  | run
  | idle
  | sleep
  | deep
  | off
  deriving DecidableEq, Repr

/-- A power request outstanding (R77). -/
structure PwrReq where
  r : Ret
  unit : Nat
  kind : Nat
  sent : Bool
  deriving DecidableEq, Repr

/-- What the PMBus unit keeps of a device (R478, R480). -/
structure PmbDev where
  bad : Nat
  good : Nat
  valm : Bool
  salm : Bool
  salmSeen : Bool
  deriving DecidableEq, Repr

/-- Power, supply and metering (spec/20). -/
structure Pwr where
  st : PwrSt
  target : Option PwrSt
  /-- the block is in RUN because it left IDLE (R472) -/
  wasIdle : Bool
  wake : Nat
  /-- a wake event arrived during entry (R471) -/
  wakePend : Nat
  /-- a DEEP exit waits for the supply -/
  ramping : Bool
  isoEn : Bool
  retEn : Bool
  reqs : List PwrReq
  lateAck : Bool
  devs : Tab PmbDev
  failing : List Nat
  vals : Tab (Word × Nat)
  /-- readings of the poll cycle still to make, first the one in progress -/
  poll : List (Nat × Nat)
  deriving DecidableEq, Repr

/-! ### The state -/

/-- All state other than the build parameters and the queue of commands. `rf` holds the register
fields that no other part holds, by field and entity; `gens` the GEN table; `seqs` the SEQ of each
stream; `created` the records that wait for a queue. -/
structure Live where
  rf : Tab Nat
  boot : Boot
  clk : Clk
  cal : Cal
  time : Time
  pulses : Tab Pulse
  qws : Tab Qw
  cmd : Cmd
  samp : Samp
  gens : Tab Nat
  genBase : Nat
  seqs : Tab Nat
  /-- streams, by SRC and STREAM, whose latest record was lost with nothing in its place: the next one carries
  GAP_BEFORE (R51, R52) -/
  skips : List Nat
  created : List (Nat × Rec)
  plans : Tab Plan
  /-- the image verified last (R290) -/
  table : List DWord
  ques : Tab Que
  runs : Tab QRun
  shape : Shape
  links : Tab Link
  routes : Tab Route
  loads : List Load
  /-- the HOST link that the last storage read went to (R278) -/
  rdLast : Nat
  celFail : List Nat
  spillFail : Bool
  ser : SerUnit
  eng : Eng
  trace : Trace
  log : Log
  mem : MemU
  flt : Flt
  pwr : Pwr
  free : Nat
  out : List Out
  deriving DecidableEq, Repr

/-- The state of the block: its build, everything that changes, and the commands that wait, first
in, first out. -/
structure State where
  build : Build
  live : Live
  pending : List Instr
  deriving DecidableEq, Repr

/-! ### Reset -/

/-- Static inputs before they are sampled. -/
def statics0 : Statics := ⟨false, 0, 0, 0⟩

/-- A pulse output after reset. -/
def pulse0 : Pulse := ⟨0, 0, 0, false, 0, none, false⟩

/-- A quiet-window set after reset. -/
def qw0 : Qw := ⟨false, 0, false, false, 0⟩

/-- A counter after reset (R179). -/
def ctr0 : Ctr := ⟨0, 0, false, false, none⟩

/-- An empty queue. -/
def que0 : Que := ⟨[], 0, 0, 0, [], none, 0, 0⟩

/-- A link after reset: DOWN, with the counters of R271. -/
def link0 : Link :=
  ⟨.down, 0, 0, [], 0, 0, 0, 0, 0, 0, 0, 0x3FF, 256, 1536, 0, false, none, false, false, [], [], 0,
    [], none⟩

/-- A time-exchange partner not yet heard. -/
def peer0 : Peer := ⟨0, none, false, false, none, 0, 0, false, [], 0, 0⟩

/-- An empty series. -/
def ser0 : Ser := ⟨false, 0, 0, 0, none, [], none, [], [], [], none⟩

/-- A watch object after reset. -/
def watch0 : Watch := ⟨false, 0, -1, 0, 0, false, false, none, 0⟩

/-- A synchronisation object that no plan owns. -/
def sync0 : Sync := ⟨0, 0, 0, 0⟩

/-- A port of the PC sample unit after reset. -/
def pcs0 : Pcs := ⟨0, [], 0⟩

/-- A PMBus device after reset. -/
def pmbDev0 : PmbDev := ⟨0, 0, false, false, false⟩

/-- An empty partial. -/
def part0 : Part := ⟨0, 0, 0, 0, false, false, []⟩

/-- An EMPTY plan entry. -/
def plan0 : Plan :=
  { state := .empty, image := [], bytes := 0, crc := 0, standby := false, buoyMiss := 0,
    buoyOk := [], armSeq := 0, s := 0, d := 0, tdEn := false, cond := none, reported := [],
    coll := ⟨[], 0⟩, lant := 0, buoy := 0, nogo := 0, refused := false, sentReport := false,
    armReply := none, cutReplies := [], autoArm := false, loadReply := none, verifyReply := none, seen := [],
    epochNext := 0, nextT := 0, lastT := none, latchT := 0, lastLatched := none, latched := 0,
    done := 0, doneAny := false, pendCuts := [],
    kept := none, prev := [], sampNext := [], oc := none, rejBuoys := [], due := [], occs := [], trig := [],
    miss := [], declared := [], lostUp := [], upAbort := false, lostSet := [], lostOvf := false, switchPend := none,
    resultsUp := false }

/-- The replay unit after reset. -/
def rpl0 : Rpl := ⟨.off, 0, 0, 0, 0, 0, false, false, 0, [], 0, none⟩

/-- Everything that changes, as a cold reset leaves it while `rst_n` is low (R134). -/
def Live.cold : Live :=
  { rf := [],
    boot := ⟨true, statics0, 0, false, none, .cold, [], false⟩,
    clk := ⟨false, false, false, false, [], none, false, 0x200, 9, true, false, false, 0, none⟩,
    cal := ⟨none, [], []⟩,
    time := ⟨0, 0, .free, 0, 0, false, 0, false, false, false, 0, none, [], [], []⟩,
    pulses := [], qws := [],
    cmd := ⟨[], none, [], none, [], false, [], 0, [], [], []⟩,
    samp := ⟨[], [], [], none, [], [], [], [], [], [], [], false⟩,
    gens := [], genBase := 0, seqs := [], skips := [], created := [], plans := [], table := [],
    ques := [], runs := [], shape := ⟨[], 0, 0, 0, none⟩, links := [], routes := [], loads := [], rdLast := 0,
    celFail := [], spillFail := false,
    ser := ⟨[], []⟩,
    eng := ⟨[], [], false, [], 0, [], none, [], 0, [], 0⟩,
    trace := ⟨.off, [], [], false, [], 0, false, 0, 0, 0, false, false, false, [], false, [], [], 0, 0, none, []⟩,
    log := ⟨[], 0, [], 0, false, 0⟩,
    mem := ⟨[], [], [], [], [], 0⟩,
    flt := ⟨[], 0, none, 0, 0, 0, rpl0, []⟩,
    pwr := ⟨.run, none, false, 0, 0, false, false, false, [], false, [], [], [], []⟩,
    free := 0, out := [] }

/-- The state after reset: a lantern built with the defaults of Table 2.1 (FORM has none; log
entry 1), in cold reset, with no command waiting. -/
def State.reset : State :=
  { build := ⟨.lantern, false, true, .gib64⟩, live := Live.cold, pending := [] }

end Sys2Proof.Machine
end

