-- ==== Sys2Proof/Machine/RegMap.lean ====
section
/-! DEFINITION. The register map: every field of every register, with its place, access code and
reset value (spec/21 Tables 21.2 to 21.6 and the field tables of the chapters), and every register
with its offset, index range, selector and gate. -/

namespace Sys2Proof.Machine

namespace F

def GLB_RELEASE_MAJOR : Fld := ⟨0x0, 24, 8, .ro, 2, 2⟩
def GLB_RELEASE_MINOR : Fld := ⟨0x0, 16, 8, .ro, 1, 1⟩
def GLB_RELEASE_PATCH : Fld := ⟨0x0, 8, 8, .ro, 0, 0⟩
def GLB_RELEASE_FORM : Fld := ⟨0x0, 0, 8, .ro, 1, 2⟩
def GLB_PARAM_SPILL_EN : Fld := ⟨0x4, 0, 1, .ro, 0, 0⟩
def GLB_PARAM_SPILL_AW : Fld := ⟨0x4, 1, 1, .ro, 0, 0⟩
def GLB_PARAM_CEL_DEV : Fld := ⟨0x4, 2, 2, .ro, 0, 0⟩
def GLB_PARAM_CEL_PRESENT : Fld := ⟨0x4, 4, 12, .ro, 0, 0⟩
def GLB_PARAM_CAL_PRESENT : Fld := ⟨0x4, 16, 1, .ro, 0, 0⟩
def GLB_ID_LOCAL : Fld := ⟨0x8, 0, 8, .ro, 0, 0⟩
def GLB_ID_TRUNK : Fld := ⟨0x8, 8, 10, .ro, 0, 0⟩
def GLB_ID_TRUNK_VALID : Fld := ⟨0x8, 18, 1, .ro, 0, 1⟩
def GLB_BOOT_PHASE : Fld := ⟨0xc, 0, 4, .ro, 0, 0⟩
def GLB_BOOT_READY : Fld := ⟨0xc, 4, 1, .ro, 0, 0⟩
def GLB_BOOT_ROM_FAIL : Fld := ⟨0xc, 5, 1, .ro, 0, 0⟩
def GLB_BOOT_ECC_FAIL : Fld := ⟨0xc, 6, 1, .ro, 0, 0⟩
def GLB_BOOT_SRAM_FAIL : Fld := ⟨0xc, 7, 1, .ro, 0, 0⟩
def GLB_BOOT_CAL_DEFAULT : Fld := ⟨0xc, 8, 1, .ro, 0, 0⟩
def GLB_BOOT_CAL_CRC : Fld := ⟨0xc, 9, 1, .ro, 0, 0⟩
def GLB_BOOT_CORE_OSC : Fld := ⟨0xc, 10, 1, .ro, 0, 0⟩
def GLB_BOOT_REG_OSC : Fld := ⟨0xc, 11, 1, .ro, 0, 0⟩
def GLB_BOOT_ENG_NOCLK : Fld := ⟨0xc, 12, 1, .ro, 0, 0⟩
def GLB_BOOT_BOOT_T : Fld := ⟨0xc, 16, 16, .ro, 0, 0⟩
def GLB_CTL_SOFT_RST : Fld := ⟨0x10, 0, 1, .wo, 0, 0⟩
def GLB_FOG_BOOT : Fld := ⟨0x14, 0, 1, .ro, 0, 0⟩
def GLB_FOG_WIN : Fld := ⟨0x14, 1, 1, .ro, 0, 0⟩
def GLB_FOG_TALM : Fld := ⟨0x14, 2, 1, .ro, 0, 0⟩
def GLB_FOG_LOG : Fld := ⟨0x14, 3, 1, .ro, 0, 0⟩
def GLB_FOG_UE : Fld := ⟨0x14, 4, 1, .ro, 0, 0⟩
def GLB_FOG_CNRY : Fld := ⟨0x14, 5, 1, .ro, 0, 0⟩
def GLB_FOG_VIN : Fld := ⟨0x14, 6, 1, .ro, 0, 0⟩
def GLB_FOG_STATUS : Fld := ⟨0x14, 7, 1, .ro, 0, 0⟩
def UNIT_EN_B_TAP : Fld := ⟨0x20, 0, 8, .rw, 255, 255⟩
def UNIT_EN_B_PCS : Fld := ⟨0x20, 8, 1, .rw, 1, 1⟩
def UNIT_EN_B_BMON : Fld := ⟨0x20, 9, 1, .rw, 1, 1⟩
def UNIT_EN_B_SENS : Fld := ⟨0x20, 10, 1, .rw, 1, 1⟩
def UNIT_EN_B_PWRQ : Fld := ⟨0x20, 11, 1, .rw, 1, 1⟩
def UNIT_EN_B_TREE : Fld := ⟨0x20, 12, 1, .rw, 1, 1⟩
def UNIT_EN_B_SPILL : Fld := ⟨0x20, 13, 1, .rw, 0, 0⟩
def UNIT_EN_B_PULSE : Fld := ⟨0x20, 14, 1, .rw, 1, 1⟩
def UNIT_EN_B_SYNC : Fld := ⟨0x20, 15, 1, .rw, 1, 1⟩
def UNIT_EN_L_TREE : Fld := ⟨0x20, 0, 16, .rw, 65535, 65535⟩
def UNIT_EN_L_SEQ : Fld := ⟨0x20, 16, 1, .rw, 1, 1⟩
def UNIT_EN_L_PMB : Fld := ⟨0x20, 17, 1, .rw, 1, 1⟩
def UNIT_EN_L_PULSE : Fld := ⟨0x20, 18, 1, .rw, 1, 1⟩
def UNIT_EN_L_SYNC : Fld := ⟨0x20, 19, 1, .rw, 1, 1⟩
def UNIT_EN_LNK_LNK : Fld := ⟨0x24, 0, 32, .rw, 4294967295, 4294967295⟩
def UNIT_EN_CEL_CEL : Fld := ⟨0x28, 0, 12, .rw, 0, 0⟩
def CLK_SEL_CORE_SRC : Fld := ⟨0x40, 0, 1, .rw, 0, 0⟩
def CLK_SEL_REG_SRC : Fld := ⟨0x40, 1, 1, .rw, 0, 0⟩
def CLK_STAT_CORE_ON : Fld := ⟨0x44, 0, 1, .ro, 0, 0⟩
def CLK_STAT_REG_ON : Fld := ⟨0x44, 1, 1, .ro, 0, 0⟩
def CLK_STAT_SW_BUSY : Fld := ⟨0x44, 2, 1, .ro, 0, 0⟩
def CLK_STAT_SW_REJ : Fld := ⟨0x44, 3, 1, .w1c, 0, 0⟩
def CLK_STAT_CORE_QUAL : Fld := ⟨0x44, 4, 1, .ro, 0, 0⟩
def CLK_STAT_REG_QUAL : Fld := ⟨0x44, 5, 1, .ro, 0, 0⟩
def CLK_STAT_FALLBACK : Fld := ⟨0x44, 6, 1, .w1c, 0, 0⟩
def CLK_STAT_XTO_CNT : Fld := ⟨0x44, 8, 8, .rc, 0, 0⟩
def OSC_CFG_SRC : Fld := ⟨0x48, 0, 2, .rw, 3, 3⟩
def OSC_CFG_QMODE : Fld := ⟨0x48, 2, 1, .rw, 0, 0⟩
def OSC_CFG_QCHK : Fld := ⟨0x48, 3, 1, .wo, 0, 0⟩
def OSC_CFG_OVR : Fld := ⟨0x48, 4, 1, .rw, 0, 0⟩
def OSC_CFG_TRIM_W : Fld := ⟨0x48, 5, 10, .rw, 0, 0⟩
def OSC_CFG_REFWIN : Fld := ⟨0x48, 15, 17, .rw, 0, 0⟩
def OSC_TGT_TARGET : Fld := ⟨0x4c, 0, 20, .rw, 32000, 32000⟩
def OSC_STAT_CODE : Fld := ⟨0x50, 0, 10, .ro, 0, 0⟩
def OSC_STAT_QUAL : Fld := ⟨0x50, 10, 1, .ro, 0, 0⟩
def OSC_STAT_ACQ : Fld := ⟨0x50, 11, 1, .ro, 1, 1⟩
def OSC_STAT_REF_OK : Fld := ⟨0x50, 12, 1, .ro, 0, 0⟩
def OSC_STAT_WIN_FAIL : Fld := ⟨0x50, 13, 1, .w1c, 0, 0⟩
def OSC_STAT_TRIM_LIM : Fld := ⟨0x50, 14, 1, .w1c, 0, 0⟩
def OSC_STAT_LAST_CNT : Fld := ⟨0x50, 15, 17, .ro, 0, 0⟩
def CMD_CFG_WTMO : Fld := ⟨0x60, 0, 16, .rw, 4096, 4096⟩
def CMD_CFG_FWD_TMO : Fld := ⟨0x60, 16, 16, .rw, 0, 1024⟩
def CMD_STAT_WTMO_CNT : Fld := ⟨0x64, 0, 8, .rc, 0, 0⟩
def CMD_STAT_FWD_TMO_CNT : Fld := ⟨0x64, 8, 8, .rc, 0, 0⟩
def CMD_STAT_LATE_RSP : Fld := ⟨0x64, 16, 8, .rc, 0, 0⟩
def CMD_STAT_CHK_FAIL : Fld := ⟨0x64, 24, 8, .rc, 0, 0⟩
def TIME_NOW_FT : Fld := ⟨0x400, 0, 32, .ro, 0, 0⟩
def TIME_NOW_HI_WRAPS : Fld := ⟨0x404, 0, 32, .ro, 0, 0⟩
def TIME_INC_INC : Fld := ⟨0x408, 0, 32, .rw, 268435456, 268435456⟩
def TIME_CFG_STEP_THR : Fld := ⟨0x40c, 0, 16, .rw, 1000, 1000⟩
def TIME_CFG_XCHG_INT : Fld := ⟨0x40c, 16, 6, .rw, 0, 8⟩
def TIME_CFG_FREERUN : Fld := ⟨0x40c, 24, 1, .rw, 0, 0⟩
def TIME_TIN_CORR_CORR : Fld := ⟨0x410, 0, 32, .rw, 0, 0⟩
def TIME_STAT_STATE : Fld := ⟨0x414, 0, 2, .ro, 0, 0⟩
def TIME_STAT_LAN_LOCK : Fld := ⟨0x414, 2, 1, .ro, 0, 0⟩
def TIME_STAT_STEPS : Fld := ⟨0x414, 8, 8, .rc, 0, 0⟩
def TIME_STAT_LATE : Fld := ⟨0x414, 16, 8, .rc, 0, 0⟩
def TIME_OFS_OFS : Fld := ⟨0x418, 0, 32, .ro, 0, 0⟩
def TIME_BUOY_SEL_LOCAL : Fld := ⟨0x420, 0, 8, .rw, 0, 0⟩
def TIME_BUOY_STAT_PRESENT : Fld := ⟨0x424, 0, 1, .ro, 0, 0⟩
def TIME_BUOY_STAT_LOCK : Fld := ⟨0x424, 1, 1, .ro, 0, 0⟩
def TIME_BUOY_STAT_DELAY : Fld := ⟨0x424, 16, 16, .ro, 0, 0⟩
def TIME_BUOY_OFS_OFS : Fld := ⟨0x428, 0, 32, .ro, 0, 0⟩
def PULSE_T_NEXT : Fld := ⟨0x440, 0, 32, .ro, 0, 0⟩
def PULSE_PER_PERIOD : Fld := ⟨0x444, 0, 32, .ro, 0, 0⟩
def PULSE_CTL_WIDTH : Fld := ⟨0x448, 0, 24, .ro, 0, 0⟩
def PULSE_CTL_ARMED : Fld := ⟨0x448, 24, 1, .ro, 0, 0⟩
def PULSE_CTL_LEVEL : Fld := ⟨0x448, 25, 1, .ro, 0, 0⟩
def QW_START_START : Fld := ⟨0x500, 0, 32, .rw, 0, 0⟩
def QW_PERIOD_PERIOD : Fld := ⟨0x504, 0, 32, .rw, 500000, 500000⟩
def QW_LEN_LEN : Fld := ⟨0x508, 0, 32, .rw, 0, 0⟩
def QW_NEXT_S : Fld := ⟨0x50c, 0, 32, .ro, 0, 0⟩
def QW_CTL_EN : Fld := ⟨0x540, 0, 4, .rw, 0, 0⟩
def QW_CTL_GUARD : Fld := ⟨0x540, 4, 16, .rw, 0, 0⟩
def QW_STAT_ACTIVE : Fld := ⟨0x544, 0, 4, .ro, 0, 0⟩
def QW_STAT_ARM_REJ : Fld := ⟨0x544, 4, 4, .w1c, 0, 0⟩
def QW_STAT_OVERRUN : Fld := ⟨0x544, 8, 16, .rc, 0, 0⟩
def PLAN_PSEL_PLAN : Fld := ⟨0x800, 0, 8, .rw, 0, 0⟩
def PLAN_STAT_STATE : Fld := ⟨0x804, 0, 3, .ro, 0, 0⟩
def PLAN_STAT_STANDBY : Fld := ⟨0x804, 3, 1, .ro, 0, 0⟩
def PLAN_STAT_ROOT : Fld := ⟨0x804, 4, 1, .ro, 0, 0⟩
def PLAN_STAT_TD_EN : Fld := ⟨0x804, 5, 1, .ro, 0, 0⟩
def PLAN_STAT_ARM_SEQ : Fld := ⟨0x804, 8, 8, .ro, 0, 0⟩
def PLAN_STAT_BUOY_MISS : Fld := ⟨0x804, 16, 16, .ro, 0, 0⟩
def PLAN_CRC_CRC : Fld := ⟨0x808, 0, 32, .ro, 0, 0⟩
def PLAN_START_S : Fld := ⟨0x80c, 0, 32, .ro, 0, 0⟩
def PLAN_TD_D : Fld := ⟨0x810, 0, 32, .ro, 0, 0⟩
def PLAN_ARMCNT_LANT : Fld := ⟨0x814, 0, 11, .ro, 0, 0⟩
def PLAN_ARMCNT_BUOY : Fld := ⟨0x814, 11, 19, .ro, 0, 0⟩
def PLAN_NOGO_NOGO : Fld := ⟨0x818, 0, 16, .ro, 0, 0⟩
def SCH_GRID_ORG_ORG : Fld := ⟨0x840, 0, 32, .rw, 0, 0⟩
def SCH_CTL_GRID_EN : Fld := ⟨0x844, 0, 1, .rw, 0, 0⟩
def SCH_STAT_GRID_REJ : Fld := ⟨0x848, 0, 1, .w1c, 0, 0⟩
def SCH_NEXT_B : Fld := ⟨0x84c, 0, 32, .ro, 0, 0⟩
def SCH_ERR_SLOT_DISCARD : Fld := ⟨0x850, 0, 8, .rc, 0, 0⟩
def SCH_ERR_DUP_CTL : Fld := ⟨0x850, 8, 8, .rc, 0, 0⟩
def CUT_PSEL_PLAN : Fld := ⟨0x880, 0, 8, .rw, 0, 0⟩
def CUT_LAST_LATCHED : Fld := ⟨0x884, 0, 16, .ro, 0, 0⟩
def CUT_LAST_DONE : Fld := ⟨0x884, 16, 16, .ro, 0, 0⟩
def CUT_LAST_T_T : Fld := ⟨0x888, 0, 32, .ro, 0, 0⟩
def CUT_ABS_ABSENT : Fld := ⟨0x88c, 0, 32, .ro, 0, 0⟩
def CUT_ERR_STALE_VEC : Fld := ⟨0x890, 0, 8, .rc, 0, 0⟩
def CUT_ERR_LATE_CHILD : Fld := ⟨0x890, 8, 8, .rc, 0, 0⟩
def CUT_ERR_SLOW : Fld := ⟨0x890, 16, 8, .rc, 0, 0⟩
def CUT_ERR_BUOY_REJ : Fld := ⟨0x890, 24, 8, .rc, 0, 0⟩
def CUT_BERR_STALE_ITEM : Fld := ⟨0x894, 0, 8, .rc, 0, 0⟩
def CUT_BERR_VEC_DROP : Fld := ⟨0x894, 8, 8, .rc, 0, 0⟩
def CTR_CTL_USR_EN : Fld := ⟨0xc00, 0, 1, .rw, 0, 0⟩
def UNIT_GEN_SEL_UNIT : Fld := ⟨0xc04, 0, 10, .rw, 0, 0⟩
def UNIT_GEN_GEN : Fld := ⟨0xc08, 0, 8, .ro, 0, 0⟩
def UNIT_STEP_STEP : Fld := ⟨0xc0c, 0, 16, .ro, 0, 0⟩
def UNIT_STEP_OPEN : Fld := ⟨0xc0c, 16, 1, .ro, 0, 0⟩
def UNIT_RM_LOGICAL : Fld := ⟨0xc40, 0, 10, .ro, 0, 0⟩
def UNIT_RM_PHYS : Fld := ⟨0xc40, 10, 10, .ro, 0, 0⟩
def UNIT_RM_VALID : Fld := ⟨0xc40, 20, 1, .ro, 0, 0⟩
def TAP_BIND_PUNIT : Fld := ⟨0xd00, 0, 10, .w1, 1023, 1023⟩
def TAP_BIND_VALID : Fld := ⟨0xd00, 10, 1, .w1, 0, 0⟩
def TAP_BIND_SPARE : Fld := ⟨0xd00, 11, 1, .w1, 0, 0⟩
def PCS_CFG_EN : Fld := ⟨0xe00, 0, 1, .rw, 0, 0⟩
def PCS_CFG_DIV : Fld := ⟨0xe00, 1, 4, .rw, 0, 0⟩
def PCS_CFG_STALL_ONLY : Fld := ⟨0xe00, 5, 1, .rw, 0, 0⟩
def PCS_CFG_UFILT : Fld := ⟨0xe00, 6, 1, .rw, 0, 0⟩
def PCS_CFG_UNIT : Fld := ⟨0xe00, 7, 10, .rw, 0, 0⟩
def PCS_CFG_FLUSH : Fld := ⟨0xe00, 20, 12, .rw, 0, 0⟩
def PCS_STAT_LOST : Fld := ⟨0xe04, 0, 16, .rc, 0, 0⟩
def PCS_STAT_UNMAPPED : Fld := ⟨0xe04, 16, 8, .rc, 0, 0⟩
def PCS_STAT_BADSTALL : Fld := ⟨0xe04, 24, 8, .rc, 0, 0⟩
def SENS_CFG_SEN : Fld := ⟨0xe40, 0, 1, .rw, 0, 0⟩
def SENS_CFG_DIV : Fld := ⟨0xe40, 1, 4, .rw, 0, 0⟩
def SENS_ALM_TMAX : Fld := ⟨0xe44, 0, 16, .rw, 1760, 1760⟩
def SENS_STAT_SETS : Fld := ⟨0xe48, 0, 16, .ro, 0, 0⟩
def SENS_STAT_TALM : Fld := ⟨0xe48, 16, 1, .ro, 0, 0⟩
def SENS_STAT_TALM_SEEN : Fld := ⟨0xe48, 17, 1, .w1c, 0, 0⟩
def SENS_STAT_MERGED : Fld := ⟨0xe48, 24, 8, .rc, 0, 0⟩
def SENS_T_VALUE : Fld := ⟨0xe80, 0, 32, .ro, 0, 0⟩
def SENS_TRAW_RAW : Fld := ⟨0xec0, 0, 12, .ro, 0, 0⟩
def SENS_V_VALUE : Fld := ⟨0xf00, 0, 32, .ro, 0, 0⟩
def SENS_VRAW_RAW : Fld := ⟨0xf20, 0, 12, .ro, 0, 0⟩
def SHP_CTL_OVH : Fld := ⟨0x1000, 0, 8, .rw, 0, 0⟩
def SHP_CTL_CHG_MODE : Fld := ⟨0x1000, 8, 1, .rw, 0, 0⟩
def SHP_STAT_QW_HOLD : Fld := ⟨0x1004, 0, 16, .rc, 0, 0⟩
def SHP_STAT_SENT : Fld := ⟨0x1004, 16, 16, .ro, 0, 0⟩
def SHP_SMP_PERIOD : Fld := ⟨0x1008, 0, 16, .rw, 0, 0⟩
def SHP_CIR_CIR : Fld := ⟨0x1020, 0, 24, .rw, 0, 0⟩
def SHP_CBS_CBS : Fld := ⟨0x1024, 0, 20, .rw, 0, 0⟩
def SHP_PIR_PIR : Fld := ⟨0x1028, 0, 24, .rw, 0, 0⟩
def SHP_PBS_PBS : Fld := ⟨0x102c, 0, 20, .rw, 0, 0⟩
def SHP_CRED_CCRED : Fld := ⟨0x1030, 0, 16, .ro, 0, 0⟩
def SHP_CRED_PCRED : Fld := ⟨0x1030, 16, 16, .ro, 0, 0⟩
def SHP_HOLD_POL_HOLD : Fld := ⟨0x1034, 0, 16, .rc, 0, 0⟩
def EGQ_SEL_QUEUE : Fld := ⟨0x10c0, 0, 6, .rw, 0, 0⟩
def EGQ_CFG_CLASS : Fld := ⟨0x10c4, 0, 2, .rw, 0, 0⟩
def EGQ_CFG_WEIGHT : Fld := ⟨0x10c4, 8, 8, .rw, 1, 1⟩
def EGQ_DEPTH_RECS : Fld := ⟨0x10c8, 0, 12, .ro, 0, 0⟩
def EGQ_DEPTH_BYTES : Fld := ⟨0x10c8, 12, 20, .ro, 0, 0⟩
def EGQ_DLY_DMAX : Fld := ⟨0x10cc, 0, 24, .rc, 0, 0⟩
def EGQ_SNAP_DEPTH_RECS_BYTES : Fld := ⟨0x10d0, 0, 32, .ro, 0, 0⟩
def EGQ_SNAP_DLY_DMAX : Fld := ⟨0x10d4, 0, 24, .ro, 0, 0⟩
def FAB_RX_BAD_CRC : Fld := ⟨0x10e0, 0, 16, .rc, 0, 0⟩
def FAB_RX_BAD_LEN : Fld := ⟨0x10e0, 16, 8, .rc, 0, 0⟩
def FAB_RX_BAD_KIND : Fld := ⟨0x10e0, 24, 8, .rc, 0, 0⟩
def QUE_SEL_QUEUE : Fld := ⟨0x1100, 0, 12, .rw, 0, 0⟩
def QUE_CFG_MODE : Fld := ⟨0x1104, 0, 1, .rw, 0, 0⟩
def QUE_CFG_NOTICE : Fld := ⟨0x1104, 1, 1, .rw, 0, 0⟩
def QUE_CFG_BATCH_N : Fld := ⟨0x1104, 2, 8, .rw, 16, 16⟩
def QUE_CFG_CAP : Fld := ⟨0x1104, 10, 8, .rw, 16, 16⟩
def QUE_TMO_IDLE_TMO : Fld := ⟨0x1108, 0, 16, .rw, 16, 16⟩
def QUE_TMO_FB_GAP : Fld := ⟨0x1108, 16, 16, .rw, 0, 0⟩
def QUE_MID_MID_BASE : Fld := ⟨0x110c, 0, 32, .rw, 0, 0⟩
def QUE_MIDLEN_MID_PAGES : Fld := ⟨0x1110, 0, 24, .rw, 0, 0⟩
def QUE_STAT_LOST : Fld := ⟨0x1114, 0, 16, .rc, 0, 0⟩
def QUE_STAT_REJ : Fld := ⟨0x1114, 16, 1, .w1c, 0, 0⟩
def QUE_STAT_GAP_STALL : Fld := ⟨0x1114, 24, 8, .rc, 0, 0⟩
def QUE_NSTAT_NOTICE_CNT : Fld := ⟨0x1118, 0, 8, .rc, 0, 0⟩
def QUE_NSTAT_NOTICE_IDLE : Fld := ⟨0x1118, 8, 8, .rc, 0, 0⟩
def QUE_NSTAT_NOTICE_FB : Fld := ⟨0x1118, 16, 8, .rc, 0, 0⟩
def QUE_NSTAT_NOTICE_FULL : Fld := ⟨0x1118, 24, 8, .rc, 0, 0⟩
def QUE_POOL_FREE : Fld := ⟨0x111c, 0, 17, .ro, 1024, 65536⟩
def QMAP_SEL_ENTRY : Fld := ⟨0x1120, 0, 11, .rw, 0, 0⟩
def QMAP_STREAM : Fld := ⟨0x1124, 0, 14, .rw, 0, 0⟩
def QMAP_QUEUE : Fld := ⟨0x1124, 14, 12, .rw, 0, 0⟩
def QMAP_VALID : Fld := ⟨0x1124, 26, 1, .rw, 0, 0⟩
def QMAP_MARK : Fld := ⟨0x1124, 27, 1, .ro, 0, 0⟩
def QMAP_PEND : Fld := ⟨0x1124, 28, 1, .ro, 0, 0⟩
def CEL_QBASE_BASE : Fld := ⟨0x1140, 0, 10, .rw, 0, 0⟩
def CEL_QLIM_LIM : Fld := ⟨0x1144, 0, 10, .rw, 0, 0⟩
def CEL_ARB_W_LIVE : Fld := ⟨0x1148, 0, 4, .rw, 8, 8⟩
def CEL_ARB_W_QUEUE : Fld := ⟨0x1148, 4, 4, .rw, 4, 4⟩
def CEL_ARB_W_ENG : Fld := ⟨0x1148, 8, 4, .rw, 4, 4⟩
def CEL_SSTAGE_BASE : Fld := ⟨0x114c, 0, 13, .rw, 0, 0⟩
def CEL_STAT_FAIL : Fld := ⟨0x1180, 0, 1, .ro, 0, 0⟩
def CEL_STAT_POISON : Fld := ⟨0x1180, 8, 8, .rc, 0, 0⟩
def SPL_STAT_POISON : Fld := ⟨0x11c0, 0, 8, .rc, 0, 0⟩
def LNK_ROLE_ROLE : Fld := ⟨0x1400, 0, 2, .rw, 0, 0⟩
def LNK_ROLE_ONE_LANE : Fld := ⟨0x1400, 2, 1, .rw, 0, 0⟩
def LNK_ROLE_DIR : Fld := ⟨0x1400, 3, 3, .rw, 0, 0⟩
def LNK_STAT_STATE : Fld := ⟨0x1480, 0, 2, .ro, 0, 0⟩
def LNK_STAT_ROLE_REJ : Fld := ⟨0x1480, 2, 1, .w1c, 0, 0⟩
def LNK_STAT_TRAIN_FAIL : Fld := ⟨0x1480, 8, 8, .rc, 0, 0⟩
def LNK_STAT_REPLAYS : Fld := ⟨0x1480, 16, 8, .rc, 0, 0⟩
def LNK_STAT_LINK_FAIL : Fld := ⟨0x1480, 24, 8, .rc, 0, 0⟩
def LNK_ERR_LCRC : Fld := ⟨0x1500, 0, 8, .rc, 0, 0⟩
def LNK_ERR_RCRC : Fld := ⟨0x1500, 8, 8, .rc, 0, 0⟩
def LNK_ERR_FRAME : Fld := ⟨0x1500, 16, 8, .rc, 0, 0⟩
def LNK_ERR_PLAN_LATE : Fld := ⟨0x1500, 24, 8, .rc, 0, 0⟩
def LNK_CFG_RETRAIN : Fld := ⟨0x1580, 0, 16, .rw, 1000, 1000⟩
def LNK_CFG_AGE_MAX : Fld := ⟨0x1580, 16, 8, .rw, 10, 10⟩
def LNK_CFG_REROUTE_HOLD : Fld := ⟨0x1580, 24, 8, .rw, 16, 16⟩
def LNK_DRAIN_TRUNK : Fld := ⟨0x1584, 0, 10, .rw, 0, 0⟩
def LNK_DRAIN_EN : Fld := ⟨0x1584, 10, 1, .rw, 0, 0⟩
def LNK_FWD_DROP_AGED : Fld := ⟨0x1588, 0, 16, .rc, 0, 0⟩
def LNK_FWD_DROP_NOROUTE : Fld := ⟨0x1588, 16, 16, .rc, 0, 0⟩
def SER_SEL_SERIES : Fld := ⟨0x1800, 0, 16, .rw, 0, 0⟩
def SER_CFG_EN : Fld := ⟨0x1804, 0, 1, .rw, 0, 0⟩
def SER_CFG_TYPE : Fld := ⟨0x1804, 1, 2, .rw, 0, 0⟩
def SER_CFG_RATIO : Fld := ⟨0x1804, 3, 2, .rw, 0, 0⟩
def SER_CFG_EFFORT : Fld := ⟨0x1804, 5, 2, .rw, 0, 0⟩
def SER_CFG_XFORM : Fld := ⟨0x1804, 7, 1, .rw, 0, 0⟩
def SER_CFG_SHIFT : Fld := ⟨0x1804, 8, 5, .rw, 0, 0⟩
def SER_CFG_SKIND : Fld := ⟨0x1804, 13, 3, .rw, 0, 0⟩
def SER_CFG_NBLK_M1 : Fld := ⟨0x1804, 16, 14, .rw, 0, 0⟩
def SER_SRC_LOCAL : Fld := ⟨0x1808, 0, 8, .rw, 0, 0⟩
def SER_SRC_STREAM : Fld := ⟨0x1808, 8, 14, .rw, 0, 0⟩
def SER_SRC_POS : Fld := ⟨0x1808, 22, 7, .rw, 0, 0⟩
def SER_SRC_ITEM7 : Fld := ⟨0x1808, 29, 1, .rw, 0, 0⟩
def SER_BASE_BASE : Fld := ⟨0x180c, 0, 32, .rw, 0, 0⟩
def SER_NEXT_NEXT : Fld := ⟨0x1810, 0, 32, .ro, 0, 0⟩
def SER_COMMIT_COMMIT : Fld := ⟨0x1814, 0, 32, .ro, 0, 0⟩
def SER_STAT_GEN : Fld := ⟨0x1818, 0, 8, .ro, 0, 0⟩
def SER_STAT_REJ : Fld := ⟨0x1818, 8, 1, .w1c, 0, 0⟩
def SER_STAT_NFILL : Fld := ⟨0x1818, 16, 16, .rc, 0, 0⟩
def SER_ERR_SAT : Fld := ⟨0x181c, 0, 8, .rc, 0, 0⟩
def SER_ERR_CODE_FAIL : Fld := ⟨0x181c, 8, 8, .rc, 0, 0⟩
def SER_ERR_BLK_CHECK : Fld := ⟨0x181c, 16, 8, .rc, 0, 0⟩
def SER_ERR_OVERTAKEN : Fld := ⟨0x181c, 24, 4, .rc, 0, 0⟩
def SER_ERR_OVERRUN : Fld := ⟨0x181c, 28, 4, .rc, 0, 0⟩
def TREE_SEL_SLOT : Fld := ⟨0x1840, 0, 4, .rw, 0, 0⟩
def TREE_SLOT_VALID : Fld := ⟨0x1844, 0, 1, .ro, 0, 0⟩
def TREE_SLOT_LOADING : Fld := ⟨0x1844, 1, 1, .ro, 0, 0⟩
def TREE_SLOT_PLAN_USE : Fld := ⟨0x1844, 2, 1, .ro, 0, 0⟩
def TREE_SLOT_NFEAT : Fld := ⟨0x1844, 3, 11, .ro, 0, 0⟩
def TREE_SLOT_NCLASS_M1 : Fld := ⟨0x1844, 14, 8, .ro, 0, 0⟩
def TREE_SLOT_DEPTH : Fld := ⟨0x1844, 22, 5, .ro, 0, 0⟩
def TREE_SLOT2_NTREE : Fld := ⟨0x1848, 0, 14, .ro, 0, 0⟩
def TREE_SLOT2_GLOG : Fld := ⟨0x1848, 14, 3, .ro, 0, 0⟩
def TREE_ENSID_ENS_ID : Fld := ⟨0x184c, 0, 32, .ro, 0, 0⟩
def TREE_PSEL_PIPE : Fld := ⟨0x1850, 0, 4, .rw, 0, 0⟩
def TREE_PIPE_BMAP_ID : Fld := ⟨0x1854, 0, 32, .ro, 0, 0⟩
def TREE_PIPE2_NENS : Fld := ⟨0x1858, 0, 5, .ro, 0, 0⟩
def TREE_PIPE2_FREE : Fld := ⟨0x1858, 5, 19, .ro, 8192, 262144⟩
def TREE_STAT_SAMPLES : Fld := ⟨0x185c, 0, 32, .ro, 0, 0⟩
def TREE_ERR_POISON : Fld := ⟨0x1860, 0, 8, .rc, 0, 0⟩
def TREE_ERR_BACKLOG : Fld := ⟨0x1860, 8, 8, .rc, 0, 0⟩
def TREE_ERR_LOAD_REJ : Fld := ⟨0x1860, 16, 8, .rc, 0, 0⟩
def SEQ_SEL_SLOT : Fld := ⟨0x1880, 0, 4, .rw, 0, 0⟩
def SEQ_SLOT_VALID : Fld := ⟨0x1884, 0, 1, .ro, 0, 0⟩
def SEQ_SLOT_LOADING : Fld := ⟨0x1884, 1, 1, .ro, 0, 0⟩
def SEQ_SLOT_PLAN_USE : Fld := ⟨0x1884, 2, 1, .ro, 0, 0⟩
def SEQ_SLOT_MKIND : Fld := ⟨0x1884, 3, 8, .ro, 0, 0⟩
def SEQ_SLOT_WORDS : Fld := ⟨0x1884, 11, 20, .ro, 0, 0⟩
def SEQ_MODID_MODEL_ID : Fld := ⟨0x1888, 0, 32, .ro, 0, 0⟩
def SEQ_STORE_FREE : Fld := ⟨0x188c, 0, 20, .ro, 524288, 524288⟩
def SEQ_ASTATE_FREE : Fld := ⟨0x1890, 0, 19, .ro, 262144, 262144⟩
def SEQ_BUSY_MODE : Fld := ⟨0x1894, 0, 3, .ro, 0, 0⟩
def SEQ_BUSY_ACTION : Fld := ⟨0x1894, 3, 1, .ro, 0, 0⟩
def SEQ_BUSY_SERIES : Fld := ⟨0x1894, 16, 16, .ro, 0, 0⟩
def SEQ_STAT_JOBS : Fld := ⟨0x1898, 0, 32, .ro, 0, 0⟩
def SEQ_ERR_POISON : Fld := ⟨0x189c, 0, 8, .rc, 0, 0⟩
def SEQ_ERR_BACKLOG : Fld := ⟨0x189c, 8, 8, .rc, 0, 0⟩
def SEQ_ERR_LOAD_REJ : Fld := ⟨0x189c, 16, 8, .rc, 0, 0⟩
def SEQ_ERR_LAGGED : Fld := ⟨0x189c, 24, 8, .rc, 0, 0⟩
def TRC_CTL_SWTRIG : Fld := ⟨0x1c00, 0, 1, .wo, 0, 0⟩
def TRC_STAT_STATE : Fld := ⟨0x1c04, 0, 2, .ro, 0, 0⟩
def TRC_STAT_PWR_LOST : Fld := ⟨0x1c04, 2, 1, .w1c, 0, 0⟩
def TRC_STAT_TRIG_IGN : Fld := ⟨0x1c04, 8, 8, .rc, 0, 0⟩
def TRC_STAT_SLOTS : Fld := ⟨0x1c04, 16, 10, .ro, 0, 0⟩
def TRC_STAT_OPEN : Fld := ⟨0x1c04, 26, 6, .ro, 0, 0⟩
def TRC_TFT_FT : Fld := ⟨0x1c08, 0, 32, .ro, 0, 0⟩
def TRC_CNT_LEFT : Fld := ⟨0x1c0c, 0, 32, .ro, 0, 0⟩
def TRC_LOST_LOST : Fld := ⟨0x1c10, 0, 16, .ro, 0, 0⟩
def TRC_LOST_UNMAPPED : Fld := ⟨0x1c10, 16, 16, .rc, 0, 0⟩
def TRC_ARMID_ARM_ID : Fld := ⟨0x1c14, 0, 16, .ro, 0, 0⟩
def SYNC_SEL_OBJ : Fld := ⟨0x1c40, 0, 14, .rw, 0, 0⟩
def SYNC_CFG_EN : Fld := ⟨0x1c44, 0, 1, .rw, 0, 0⟩
def SYNC_CFG_TYPE : Fld := ⟨0x1c44, 1, 2, .ro, 2, 0⟩
def SYNC_CFG_HELD : Fld := ⟨0x1c44, 3, 1, .ro, 0, 0⟩
def SYNC_CFG_UNCERT : Fld := ⟨0x1c44, 4, 1, .ro, 0, 0⟩
def SYNC_CFG_REJ : Fld := ⟨0x1c44, 5, 1, .w1c, 0, 0⟩
def SYNC_CFG_OWN_V : Fld := ⟨0x1c44, 6, 1, .ro, 0, 0⟩
def SYNC_CFG_OWNER : Fld := ⟨0x1c44, 16, 10, .ro, 0, 0⟩
def SYNC_PLAN_PLAN : Fld := ⟨0x1c48, 0, 8, .ro, 0, 0⟩
def SYNC_PLAN_COUNT : Fld := ⟨0x1c48, 16, 16, .ro, 0, 0⟩
def SYNC_ADDR_LO_ADDR : Fld := ⟨0x1c50, 0, 32, .rw, 0, 0⟩
def SYNC_ADDR_HI_ADDR : Fld := ⟨0x1c54, 0, 32, .rw, 0, 0⟩
def SYNC_MASK_LO_MASK : Fld := ⟨0x1c58, 0, 32, .rw, 4294967295, 4294967295⟩
def SYNC_MASK_HI_MASK : Fld := ⟨0x1c5c, 0, 32, .rw, 4294967295, 4294967295⟩
def SYNC_FREE_LO_FREE : Fld := ⟨0x1c60, 0, 32, .rw, 0, 0⟩
def SYNC_FREE_HI_FREE : Fld := ⟨0x1c64, 0, 32, .rw, 0, 0⟩
def SYNC_VAL_LO_VALUE : Fld := ⟨0x1c68, 0, 32, .ro, 0, 0⟩
def SYNC_VAL_HI_VALUE : Fld := ⟨0x1c6c, 0, 32, .ro, 0, 0⟩
def SYNC_WAIT_LO_WAIT : Fld := ⟨0x1c70, 0, 32, .ro, 0, 0⟩
def SYNC_WAIT_HI_WAIT : Fld := ⟨0x1c74, 0, 32, .ro, 0, 0⟩
def HANG_STAT_HANG_ID : Fld := ⟨0x1c80, 0, 16, .ro, 0, 0⟩
def HANG_STAT_NCYC : Fld := ⟨0x1c80, 16, 16, .ro, 0, 0⟩
def LOG_CFG_DRAIN_EN : Fld := ⟨0x1cc0, 0, 1, .rw, 0, 0⟩
def LOG_CFG_DRAIN_MIN : Fld := ⟨0x1cc0, 1, 2, .rw, 1, 1⟩
def LOG_CFG_FOG_SEV : Fld := ⟨0x1cc0, 3, 2, .rw, 0, 0⟩
def LOG_ATTIC_EN : Fld := ⟨0x1cc4, 0, 1, .rw, 0, 0⟩
def LOG_ATTIC_MINSEV : Fld := ⟨0x1cc4, 1, 2, .rw, 2, 2⟩
def LOG_ATTIC_FIRST : Fld := ⟨0x1cc4, 3, 4, .rw, 0, 0⟩
def LOG_ATTIC_NBANKS_M1 : Fld := ⟨0x1cc4, 7, 2, .rw, 0, 0⟩
def LOG_FREE_WORDS : Fld := ⟨0x1cc8, 0, 20, .ro, 8192, 524288⟩
def LOG_HELD_ENTRIES : Fld := ⟨0x1ccc, 0, 20, .ro, 0, 0⟩
def LOG_NEXT_LSEQ : Fld := ⟨0x1cd0, 0, 32, .ro, 0, 0⟩
def LOG_LOST_INFO : Fld := ⟨0x1cd4, 0, 8, .rc, 0, 0⟩
def LOG_LOST_WARN : Fld := ⟨0x1cd4, 8, 8, .rc, 0, 0⟩
def LOG_LOST_ERROR : Fld := ⟨0x1cd4, 16, 8, .rc, 0, 0⟩
def LOG_DROP_INFO : Fld := ⟨0x1cd8, 0, 8, .rc, 0, 0⟩
def LOG_DROP_WARN : Fld := ⟨0x1cd8, 8, 8, .rc, 0, 0⟩
def LOG_DROP_ERROR : Fld := ⟨0x1cd8, 16, 8, .rc, 0, 0⟩
def LOG_FLAG_FOG : Fld := ⟨0x1cdc, 0, 1, .w1c, 0, 0⟩
def LOG_FLAG_ATTIC_LOST : Fld := ⟨0x1cdc, 1, 1, .w1c, 0, 0⟩
def LOG_FLAG_REJ : Fld := ⟨0x1cdc, 2, 1, .w1c, 0, 0⟩
def MEM_SEL_ID : Fld := ⟨0x2000, 0, 8, .rw, 0, 0⟩
def MEM_STAT_CE : Fld := ⟨0x2004, 0, 16, .rc, 0, 0⟩
def MEM_STAT_UE : Fld := ⟨0x2004, 16, 16, .rc, 0, 0⟩
def MEM_UE_ADDR_ADDR : Fld := ⟨0x2008, 0, 32, .ro, 0, 0⟩
def MEM_UE_ADDR_HI_ADDR : Fld := ⟨0x200c, 0, 8, .ro, 0, 0⟩
def MEM_LAP_MS : Fld := ⟨0x2010, 0, 32, .ro, 0, 0⟩
def MEM_LAP_CE_CE : Fld := ⟨0x2014, 0, 32, .ro, 0, 0⟩
def MEM_SCRUB_EN : Fld := ⟨0x2018, 0, 1, .rw, 1, 1⟩
def MEM_SCRUB_BUSY : Fld := ⟨0x2018, 1, 1, .ro, 0, 0⟩
def MEM_CFG_FOG_UE : Fld := ⟨0x2020, 0, 1, .rw, 1, 1⟩
def MEM_CFG_FOG_CNRY : Fld := ⟨0x2020, 1, 1, .rw, 1, 1⟩
def MEM_FLAG_UE : Fld := ⟨0x2024, 0, 1, .w1c, 0, 0⟩
def MEM_FLAG_CNRY : Fld := ⟨0x2024, 1, 1, .w1c, 0, 0⟩
def CNRY_STAT_UNITS : Fld := ⟨0x2040, 0, 8, .ro, 0, 0⟩
def CNRY_STAT_PASS : Fld := ⟨0x2040, 8, 1, .ro, 0, 0⟩
def CNRY_STAT_NOTRUN : Fld := ⟨0x2040, 9, 1, .ro, 0, 0⟩
def CNRY_STAT_RUNS : Fld := ⟨0x2040, 16, 16, .ro, 0, 0⟩
def CNRY_STAT2_PIPES : Fld := ⟨0x2044, 0, 16, .ro, 0, 0⟩
def CNRY_FT_FT : Fld := ⟨0x2048, 0, 32, .ro, 0, 0⟩
def CNRY_FAIL_UNITS : Fld := ⟨0x204c, 0, 8, .w1c, 0, 0⟩
def CNRY_BIN_SEL_TBIN : Fld := ⟨0x2050, 0, 3, .rw, 0, 0⟩
def CNRY_BIN_SEL_LBIN : Fld := ⟨0x2050, 3, 2, .rw, 0, 0⟩
def CNRY_BIN_PASS : Fld := ⟨0x2054, 0, 16, .rc, 0, 0⟩
def CNRY_BIN_FAIL : Fld := ⟨0x2054, 16, 16, .rc, 0, 0⟩
def FO_CFG_MISS_N : Fld := ⟨0x2400, 0, 4, .rw, 3, 3⟩
def FO_CFG_AUTO : Fld := ⟨0x2400, 4, 1, .rw, 0, 0⟩
def FO_CFG_LEAD : Fld := ⟨0x2400, 5, 10, .rw, 100, 100⟩
def FO_CFG_REST_TMO : Fld := ⟨0x2400, 16, 16, .rw, 100, 100⟩
def FO_PSEL_PLAN : Fld := ⟨0x2404, 0, 8, .rw, 0, 0⟩
def FO_LOST_NLOST : Fld := ⟨0x2408, 0, 5, .ro, 0, 0⟩
def FO_LOST_OVF : Fld := ⟨0x2408, 5, 1, .ro, 0, 0⟩
def FO_LOST_PEND : Fld := ⟨0x2408, 6, 1, .ro, 0, 0⟩
def FO_LOST_STANDBY : Fld := ⟨0x2408, 8, 8, .ro, 0, 0⟩
def FO_LOST_DKIND : Fld := ⟨0x2408, 16, 2, .ro, 0, 0⟩
def FO_LOST_DID : Fld := ⟨0x2408, 18, 10, .ro, 0, 0⟩
def FO_LOST_SEL_IDX : Fld := ⟨0x240c, 0, 4, .rw, 0, 0⟩
def FO_LOST_ID_TRUNK : Fld := ⟨0x2410, 0, 10, .ro, 0, 0⟩
def FO_PART_TRUNK : Fld := ⟨0x2414, 0, 10, .rw, 0, 0⟩
def FO_PART_EN : Fld := ⟨0x2414, 10, 1, .rw, 0, 0⟩
def FO_NBR_SEL_LINK : Fld := ⟨0x2418, 0, 5, .rw, 0, 0⟩
def FO_NBR_OBS : Fld := ⟨0x241c, 0, 10, .ro, 0, 0⟩
def FO_NBR_OBS_V : Fld := ⟨0x241c, 10, 1, .ro, 0, 0⟩
def FO_NBR_EXP : Fld := ⟨0x241c, 11, 10, .ro, 0, 0⟩
def FO_NBR_EXP_V : Fld := ⟨0x241c, 21, 1, .ro, 0, 0⟩
def PCOPY_TRUNK : Fld := ⟨0x2420, 0, 10, .rw, 0, 0⟩
def PCOPY_VALID : Fld := ⟨0x2420, 10, 1, .rw, 0, 0⟩
def PCOPY_BASE_BASE : Fld := ⟨0x2430, 0, 32, .rw, 0, 0⟩
def PCOPY_SRC_LO : Fld := ⟨0x2440, 0, 10, .rw, 0, 0⟩
def PCOPY_SRC_SPAN : Fld := ⟨0x2440, 10, 10, .rw, 0, 0⟩
def COPY_STAT_SENT : Fld := ⟨0x2450, 0, 16, .ro, 0, 0⟩
def COPY_STAT_DROP : Fld := ⟨0x2450, 16, 8, .rc, 0, 0⟩
def COPY_STAT_REJ : Fld := ⟨0x2450, 24, 1, .w1c, 0, 0⟩
def REST_CTL_HOLDER : Fld := ⟨0x2454, 0, 10, .rw, 0, 0⟩
def REST_CTL_GO : Fld := ⟨0x2454, 10, 1, .wo, 0, 0⟩
def REST_STAT_STATE : Fld := ⟨0x2458, 0, 2, .ro, 0, 0⟩
def REST_STAT_REJ : Fld := ⟨0x2458, 2, 1, .w1c, 0, 0⟩
def REST_STAT_DISCARD : Fld := ⟨0x2458, 16, 16, .rc, 0, 0⟩
def REST_CNT_RESTORED : Fld := ⟨0x245c, 0, 16, .ro, 0, 0⟩
def REST_CNT_RESTARTED : Fld := ⟨0x245c, 16, 16, .ro, 0, 0⟩
def RPL_STAT_STATE : Fld := ⟨0x2460, 0, 2, .ro, 0, 0⟩
def RPL_STAT_PLAN : Fld := ⟨0x2460, 8, 8, .ro, 0, 0⟩
def RPL_STAT_EPOCH : Fld := ⟨0x2460, 16, 16, .ro, 0, 0⟩
def RPL_BYTES_BYTES : Fld := ⟨0x2464, 0, 32, .ro, 0, 0⟩
def PWR_CFG_AUTO_IDLE : Fld := ⟨0x2800, 0, 1, .rw, 0, 0⟩
def PWR_CFG_WAKE_MGMT : Fld := ⟨0x2800, 1, 1, .rw, 1, 1⟩
def PWR_CFG_RAMP : Fld := ⟨0x2800, 4, 8, .rw, 100, 100⟩
def PWR_STAT_STATE : Fld := ⟨0x2804, 0, 3, .ro, 0, 0⟩
def PWR_STAT_WAKE : Fld := ⟨0x2804, 4, 3, .ro, 0, 0⟩
def PWR_REFUSER_CODE : Fld := ⟨0x2808, 0, 10, .ro, 0, 0⟩
def PWR_REFCNT_IDLE : Fld := ⟨0x280c, 0, 8, .rc, 0, 0⟩
def PWR_REFCNT_SLEEP : Fld := ⟨0x280c, 8, 8, .rc, 0, 0⟩
def PWR_REFCNT_DEEP : Fld := ⟨0x280c, 16, 8, .rc, 0, 0⟩
def PWR_REFCNT_OFF : Fld := ⟨0x280c, 24, 8, .rc, 0, 0⟩
def PWR_WAKE_T_T : Fld := ⟨0x2810, 0, 32, .rw, 0, 0⟩
def PWR_WAKE_CTL_TEN : Fld := ⟨0x2814, 0, 1, .rw, 0, 0⟩
def PWR_WAKE_CTL_TREJ : Fld := ⟨0x2814, 1, 1, .w1c, 0, 0⟩
def PWR_WAKE_CTL_TMR : Fld := ⟨0x2814, 2, 24, .rw, 0, 0⟩
def ATTIC_SEL_BANKS : Fld := ⟨0x2818, 0, 16, .rw, 255, 65535⟩
def PWRQ_STAT_OUT : Fld := ⟨0x2820, 0, 1, .ro, 0, 0⟩
def PWRQ_STAT_TMO : Fld := ⟨0x2820, 8, 8, .rc, 0, 0⟩
def PWRQ_STAT_REFUSED : Fld := ⟨0x2820, 16, 8, .rc, 0, 0⟩
def PWRQ_STAT_LATE : Fld := ⟨0x2820, 24, 8, .rc, 0, 0⟩
def PMB_CFG_EN : Fld := ⟨0x2840, 0, 1, .rw, 0, 0⟩
def PMB_CFG_F400 : Fld := ⟨0x2840, 1, 1, .rw, 0, 0⟩
def PMB_CFG_PERIOD : Fld := ⟨0x2840, 2, 8, .rw, 1, 1⟩
def PMB_CFG_FOG_V : Fld := ⟨0x2840, 10, 1, .rw, 1, 1⟩
def PMB_CFG_FOG_S : Fld := ⟨0x2840, 11, 1, .rw, 1, 1⟩
def PMB_VWIN_LO_LO : Fld := ⟨0x2844, 0, 32, .rw, 1108344832, 1108344832⟩
def PMB_VWIN_HI_HI : Fld := ⟨0x2848, 0, 32, .rw, 1111490560, 1111490560⟩
def PMB_SEL_DEV_RD : Fld := ⟨0x284c, 0, 6, .rw, 0, 0⟩
def PMB_VAL_VALUE : Fld := ⟨0x2850, 0, 32, .ro, 2143289344, 2143289344⟩
def PMB_RAW_WORD : Fld := ⟨0x2854, 0, 16, .ro, 0, 0⟩
def PMB_STAT_VALM : Fld := ⟨0x2858, 0, 8, .ro, 0, 0⟩
def PMB_STAT_SALM : Fld := ⟨0x2858, 8, 8, .ro, 0, 0⟩
def PMB_STAT_ALERT : Fld := ⟨0x2858, 16, 1, .w1c, 0, 0⟩
def PMB_STAT_SKIP : Fld := ⟨0x2858, 24, 8, .rc, 0, 0⟩
def PMB_ERR_FAIL : Fld := ⟨0x285c, 0, 16, .rc, 0, 0⟩
def PMB_DEV_ADDR : Fld := ⟨0x2860, 0, 7, .rw, 0, 0⟩
def PMB_DEV_DEN : Fld := ⟨0x2860, 7, 1, .rw, 0, 0⟩
def PMB_DEV_RDEN : Fld := ⟨0x2860, 8, 5, .rw, 31, 31⟩
def PMB_DEV_PEC : Fld := ⟨0x2860, 13, 1, .rw, 1, 1⟩
def PMB_DEV_VIN16 : Fld := ⟨0x2860, 14, 1, .rw, 0, 0⟩
def PMB_DEV_EXP16 : Fld := ⟨0x2860, 15, 5, .rw, 0, 0⟩
def PMB_SMASK_SMASK : Fld := ⟨0x2880, 0, 16, .rw, 65535, 65535⟩
def CALF_WORD : Fld := ⟨0x3000, 0, 32, .ro, 0, 0⟩
def CALU_WORD : Fld := ⟨0x3400, 0, 32, .rw, 0, 0⟩
def CTR_WLO_W : Fld := ⟨0x4000, 0, 32, .ro, 0, 0⟩
def CTR_WHI_W : Fld := ⟨0x4004, 0, 32, .ro, 0, 0⟩

end F

/-- Part 1 of the register map. -/
def regMap1 : List RegRow := [
  ⟨0x0, 0, 1, 1, .none, .none, [F.GLB_RELEASE_MAJOR, F.GLB_RELEASE_MINOR, F.GLB_RELEASE_PATCH, F.GLB_RELEASE_FORM]⟩,
  ⟨0x4, 0, 1, 1, .none, .none, [F.GLB_PARAM_SPILL_EN, F.GLB_PARAM_SPILL_AW, F.GLB_PARAM_CEL_DEV, F.GLB_PARAM_CEL_PRESENT, F.GLB_PARAM_CAL_PRESENT]⟩,
  ⟨0x8, 0, 1, 1, .none, .none, [F.GLB_ID_LOCAL, F.GLB_ID_TRUNK, F.GLB_ID_TRUNK_VALID]⟩,
  ⟨0xc, 0, 1, 1, .none, .none, [F.GLB_BOOT_PHASE, F.GLB_BOOT_READY, F.GLB_BOOT_ROM_FAIL, F.GLB_BOOT_ECC_FAIL, F.GLB_BOOT_SRAM_FAIL, F.GLB_BOOT_CAL_DEFAULT, F.GLB_BOOT_CAL_CRC, F.GLB_BOOT_CORE_OSC, F.GLB_BOOT_REG_OSC, F.GLB_BOOT_ENG_NOCLK, F.GLB_BOOT_BOOT_T]⟩,
  ⟨0x10, 0, 1, 1, .none, .none, [F.GLB_CTL_SOFT_RST]⟩,
  ⟨0x14, 0, 1, 1, .none, .none, [F.GLB_FOG_BOOT, F.GLB_FOG_WIN, F.GLB_FOG_TALM, F.GLB_FOG_LOG, F.GLB_FOG_UE, F.GLB_FOG_CNRY, F.GLB_FOG_VIN, F.GLB_FOG_STATUS]⟩,
  ⟨0x20, 0, 1, 0, .none, .none, [F.UNIT_EN_B_TAP, F.UNIT_EN_B_PCS, F.UNIT_EN_B_BMON, F.UNIT_EN_B_SENS, F.UNIT_EN_B_PWRQ, F.UNIT_EN_B_TREE, F.UNIT_EN_B_SPILL, F.UNIT_EN_B_PULSE, F.UNIT_EN_B_SYNC]⟩,
  ⟨0x20, 0, 0, 1, .none, .none, [F.UNIT_EN_L_TREE, F.UNIT_EN_L_SEQ, F.UNIT_EN_L_PMB, F.UNIT_EN_L_PULSE, F.UNIT_EN_L_SYNC]⟩,
  ⟨0x24, 0, 0, 1, .none, .none, [F.UNIT_EN_LNK_LNK]⟩,
  ⟨0x28, 0, 0, 1, .none, .none, [F.UNIT_EN_CEL_CEL]⟩,
  ⟨0x40, 0, 1, 1, .none, .none, [F.CLK_SEL_CORE_SRC, F.CLK_SEL_REG_SRC]⟩,
  ⟨0x44, 0, 1, 1, .none, .none, [F.CLK_STAT_CORE_ON, F.CLK_STAT_REG_ON, F.CLK_STAT_SW_BUSY, F.CLK_STAT_SW_REJ, F.CLK_STAT_CORE_QUAL, F.CLK_STAT_REG_QUAL, F.CLK_STAT_FALLBACK, F.CLK_STAT_XTO_CNT]⟩,
  ⟨0x48, 0, 1, 1, .none, .none, [F.OSC_CFG_SRC, F.OSC_CFG_QMODE, F.OSC_CFG_QCHK, F.OSC_CFG_OVR, F.OSC_CFG_TRIM_W, F.OSC_CFG_REFWIN]⟩,
  ⟨0x4c, 0, 1, 1, .none, .none, [F.OSC_TGT_TARGET]⟩,
  ⟨0x50, 0, 1, 1, .none, .none, [F.OSC_STAT_CODE, F.OSC_STAT_QUAL, F.OSC_STAT_ACQ, F.OSC_STAT_REF_OK, F.OSC_STAT_WIN_FAIL, F.OSC_STAT_TRIM_LIM, F.OSC_STAT_LAST_CNT]⟩,
  ⟨0x60, 0, 1, 1, .none, .none, [F.CMD_CFG_WTMO, F.CMD_CFG_FWD_TMO]⟩,
  ⟨0x64, 0, 1, 1, .none, .none, [F.CMD_STAT_WTMO_CNT, F.CMD_STAT_FWD_TMO_CNT, F.CMD_STAT_LATE_RSP, F.CMD_STAT_CHK_FAIL]⟩,
  ⟨0x400, 0, 1, 1, .none, .none, [F.TIME_NOW_FT]⟩,
  ⟨0x404, 0, 1, 1, .none, .none, [F.TIME_NOW_HI_WRAPS]⟩,
  ⟨0x408, 0, 1, 1, .none, .none, [F.TIME_INC_INC]⟩,
  ⟨0x40c, 0, 1, 1, .none, .none, [F.TIME_CFG_STEP_THR, F.TIME_CFG_XCHG_INT, F.TIME_CFG_FREERUN]⟩,
  ⟨0x410, 0, 0, 1, .none, .none, [F.TIME_TIN_CORR_CORR]⟩,
  ⟨0x414, 0, 1, 1, .none, .none, [F.TIME_STAT_STATE, F.TIME_STAT_LAN_LOCK, F.TIME_STAT_STEPS, F.TIME_STAT_LATE]⟩,
  ⟨0x418, 0, 1, 1, .none, .none, [F.TIME_OFS_OFS]⟩]

/-- Part 2 of the register map. -/
def regMap2 : List RegRow := [
  ⟨0x420, 0, 0, 1, .none, .none, [F.TIME_BUOY_SEL_LOCAL]⟩,
  ⟨0x424, 0, 0, 1, .timeBuoy, .none, [F.TIME_BUOY_STAT_PRESENT, F.TIME_BUOY_STAT_LOCK, F.TIME_BUOY_STAT_DELAY]⟩,
  ⟨0x428, 0, 0, 1, .timeBuoy, .none, [F.TIME_BUOY_OFS_OFS]⟩,
  ⟨0x440, 16, 2, 8, .none, .pulse, [F.PULSE_T_NEXT]⟩,
  ⟨0x444, 16, 2, 8, .none, .pulse, [F.PULSE_PER_PERIOD]⟩,
  ⟨0x448, 16, 2, 8, .none, .pulse, [F.PULSE_CTL_WIDTH, F.PULSE_CTL_ARMED, F.PULSE_CTL_LEVEL]⟩,
  ⟨0x500, 16, 4, 0, .none, .none, [F.QW_START_START]⟩,
  ⟨0x504, 16, 4, 0, .none, .none, [F.QW_PERIOD_PERIOD]⟩,
  ⟨0x508, 16, 4, 0, .none, .none, [F.QW_LEN_LEN]⟩,
  ⟨0x50c, 16, 4, 0, .none, .none, [F.QW_NEXT_S]⟩,
  ⟨0x540, 0, 1, 0, .none, .none, [F.QW_CTL_EN, F.QW_CTL_GUARD]⟩,
  ⟨0x544, 0, 1, 0, .none, .none, [F.QW_STAT_ACTIVE, F.QW_STAT_ARM_REJ, F.QW_STAT_OVERRUN]⟩,
  ⟨0x800, 0, 1, 1, .none, .none, [F.PLAN_PSEL_PLAN]⟩,
  ⟨0x804, 0, 1, 1, .plan, .none, [F.PLAN_STAT_STATE, F.PLAN_STAT_STANDBY, F.PLAN_STAT_ROOT, F.PLAN_STAT_TD_EN, F.PLAN_STAT_ARM_SEQ, F.PLAN_STAT_BUOY_MISS]⟩,
  ⟨0x808, 0, 1, 1, .plan, .none, [F.PLAN_CRC_CRC]⟩,
  ⟨0x80c, 0, 1, 1, .plan, .none, [F.PLAN_START_S]⟩,
  ⟨0x810, 0, 1, 1, .plan, .none, [F.PLAN_TD_D]⟩,
  ⟨0x814, 0, 0, 1, .plan, .none, [F.PLAN_ARMCNT_LANT, F.PLAN_ARMCNT_BUOY]⟩,
  ⟨0x818, 0, 0, 1, .plan, .none, [F.PLAN_NOGO_NOGO]⟩,
  ⟨0x840, 0, 0, 1, .none, .none, [F.SCH_GRID_ORG_ORG]⟩,
  ⟨0x844, 0, 0, 1, .none, .none, [F.SCH_CTL_GRID_EN]⟩,
  ⟨0x848, 0, 0, 1, .none, .none, [F.SCH_STAT_GRID_REJ]⟩,
  ⟨0x84c, 0, 0, 1, .none, .none, [F.SCH_NEXT_B]⟩,
  ⟨0x850, 0, 0, 1, .none, .none, [F.SCH_ERR_SLOT_DISCARD, F.SCH_ERR_DUP_CTL]⟩]

/-- Part 3 of the register map. -/
def regMap3 : List RegRow := [
  ⟨0x880, 0, 1, 1, .none, .none, [F.CUT_PSEL_PLAN]⟩,
  ⟨0x884, 0, 1, 1, .cut, .none, [F.CUT_LAST_LATCHED, F.CUT_LAST_DONE]⟩,
  ⟨0x888, 0, 1, 1, .cut, .none, [F.CUT_LAST_T_T]⟩,
  ⟨0x88c, 0, 0, 1, .cut, .none, [F.CUT_ABS_ABSENT]⟩,
  ⟨0x890, 0, 0, 1, .cut, .none, [F.CUT_ERR_STALE_VEC, F.CUT_ERR_LATE_CHILD, F.CUT_ERR_SLOW, F.CUT_ERR_BUOY_REJ]⟩,
  ⟨0x894, 0, 1, 0, .cut, .none, [F.CUT_BERR_STALE_ITEM, F.CUT_BERR_VEC_DROP]⟩,
  ⟨0xc00, 0, 1, 0, .none, .none, [F.CTR_CTL_USR_EN]⟩,
  ⟨0xc04, 0, 1, 0, .none, .none, [F.UNIT_GEN_SEL_UNIT]⟩,
  ⟨0xc08, 0, 1, 0, .unitGen, .none, [F.UNIT_GEN_GEN]⟩,
  ⟨0xc0c, 0, 1, 0, .unitGen, .none, [F.UNIT_STEP_STEP, F.UNIT_STEP_OPEN]⟩,
  ⟨0xc40, 4, 16, 0, .none, .none, [F.UNIT_RM_LOGICAL, F.UNIT_RM_PHYS, F.UNIT_RM_VALID]⟩,
  ⟨0xd00, 4, 64, 0, .none, .tapGroup, [F.TAP_BIND_PUNIT, F.TAP_BIND_VALID, F.TAP_BIND_SPARE]⟩,
  ⟨0xe00, 16, 4, 0, .none, .bit 8, [F.PCS_CFG_EN, F.PCS_CFG_DIV, F.PCS_CFG_STALL_ONLY, F.PCS_CFG_UFILT, F.PCS_CFG_UNIT, F.PCS_CFG_FLUSH]⟩,
  ⟨0xe04, 16, 4, 0, .none, .bit 8, [F.PCS_STAT_LOST, F.PCS_STAT_UNMAPPED, F.PCS_STAT_BADSTALL]⟩,
  ⟨0xe40, 0, 1, 0, .none, .bit 10, [F.SENS_CFG_SEN, F.SENS_CFG_DIV]⟩,
  ⟨0xe44, 0, 1, 0, .none, .bit 10, [F.SENS_ALM_TMAX]⟩,
  ⟨0xe48, 0, 1, 0, .none, .bit 10, [F.SENS_STAT_SETS, F.SENS_STAT_TALM, F.SENS_STAT_TALM_SEEN, F.SENS_STAT_MERGED]⟩,
  ⟨0xe80, 4, 16, 0, .none, .bit 10, [F.SENS_T_VALUE]⟩,
  ⟨0xec0, 4, 16, 0, .none, .bit 10, [F.SENS_TRAW_RAW]⟩,
  ⟨0xf00, 4, 8, 0, .none, .bit 10, [F.SENS_V_VALUE]⟩,
  ⟨0xf20, 4, 8, 0, .none, .bit 10, [F.SENS_VRAW_RAW]⟩,
  ⟨0x1000, 0, 1, 0, .none, .none, [F.SHP_CTL_OVH, F.SHP_CTL_CHG_MODE]⟩,
  ⟨0x1004, 0, 1, 0, .none, .none, [F.SHP_STAT_QW_HOLD, F.SHP_STAT_SENT]⟩,
  ⟨0x1008, 0, 1, 0, .none, .none, [F.SHP_SMP_PERIOD]⟩]

/-- Part 4 of the register map. -/
def regMap4 : List RegRow := [
  ⟨0x1020, 32, 4, 0, .none, .none, [F.SHP_CIR_CIR]⟩,
  ⟨0x1024, 32, 4, 0, .none, .none, [F.SHP_CBS_CBS]⟩,
  ⟨0x1028, 32, 4, 0, .none, .none, [F.SHP_PIR_PIR]⟩,
  ⟨0x102c, 32, 4, 0, .none, .none, [F.SHP_PBS_PBS]⟩,
  ⟨0x1030, 32, 4, 0, .none, .none, [F.SHP_CRED_CCRED, F.SHP_CRED_PCRED]⟩,
  ⟨0x1034, 32, 4, 0, .none, .none, [F.SHP_HOLD_POL_HOLD]⟩,
  ⟨0x10c0, 0, 1, 0, .none, .none, [F.EGQ_SEL_QUEUE]⟩,
  ⟨0x10c4, 0, 1, 0, .queue, .none, [F.EGQ_CFG_CLASS, F.EGQ_CFG_WEIGHT]⟩,
  ⟨0x10c8, 0, 1, 0, .queue, .none, [F.EGQ_DEPTH_RECS, F.EGQ_DEPTH_BYTES]⟩,
  ⟨0x10cc, 0, 1, 0, .queue, .none, [F.EGQ_DLY_DMAX]⟩,
  ⟨0x10d0, 0, 1, 0, .queue, .none, [F.EGQ_SNAP_DEPTH_RECS_BYTES]⟩,
  ⟨0x10d4, 0, 1, 0, .queue, .none, [F.EGQ_SNAP_DLY_DMAX]⟩,
  ⟨0x10e0, 0, 1, 0, .none, .none, [F.FAB_RX_BAD_CRC, F.FAB_RX_BAD_LEN, F.FAB_RX_BAD_KIND]⟩,
  ⟨0x1100, 0, 0, 1, .none, .none, [F.QUE_SEL_QUEUE]⟩,
  ⟨0x1104, 0, 1, 1, .queue, .none, [F.QUE_CFG_MODE, F.QUE_CFG_NOTICE, F.QUE_CFG_BATCH_N, F.QUE_CFG_CAP]⟩,
  ⟨0x1108, 0, 1, 1, .queue, .none, [F.QUE_TMO_IDLE_TMO, F.QUE_TMO_FB_GAP]⟩,
  ⟨0x110c, 0, 1, 1, .queue, .none, [F.QUE_MID_MID_BASE]⟩,
  ⟨0x1110, 0, 1, 1, .queue, .none, [F.QUE_MIDLEN_MID_PAGES]⟩,
  ⟨0x1114, 0, 1, 1, .queue, .none, [F.QUE_STAT_LOST, F.QUE_STAT_REJ, F.QUE_STAT_GAP_STALL]⟩,
  ⟨0x1118, 0, 1, 1, .queue, .none, [F.QUE_NSTAT_NOTICE_CNT, F.QUE_NSTAT_NOTICE_IDLE, F.QUE_NSTAT_NOTICE_FB, F.QUE_NSTAT_NOTICE_FULL]⟩,
  ⟨0x111c, 0, 1, 1, .none, .none, [F.QUE_POOL_FREE]⟩,
  ⟨0x1120, 0, 1, 1, .none, .none, [F.QMAP_SEL_ENTRY]⟩,
  ⟨0x1124, 0, 1, 1, .qmap, .none, [F.QMAP_STREAM, F.QMAP_QUEUE, F.QMAP_VALID, F.QMAP_MARK, F.QMAP_PEND]⟩,
  ⟨0x1140, 0, 0, 1, .none, .none, [F.CEL_QBASE_BASE]⟩]

/-- Part 5 of the register map. -/
def regMap5 : List RegRow := [
  ⟨0x1144, 0, 0, 1, .none, .none, [F.CEL_QLIM_LIM]⟩,
  ⟨0x1148, 0, 0, 1, .none, .none, [F.CEL_ARB_W_LIVE, F.CEL_ARB_W_QUEUE, F.CEL_ARB_W_ENG]⟩,
  ⟨0x114c, 0, 0, 1, .none, .none, [F.CEL_SSTAGE_BASE]⟩,
  ⟨0x1180, 4, 0, 12, .none, .none, [F.CEL_STAT_FAIL, F.CEL_STAT_POISON]⟩,
  ⟨0x11c0, 0, 1, 0, .none, .bit 13, [F.SPL_STAT_POISON]⟩,
  ⟨0x1400, 4, 0, 32, .none, .none, [F.LNK_ROLE_ROLE, F.LNK_ROLE_ONE_LANE, F.LNK_ROLE_DIR]⟩,
  ⟨0x1480, 4, 0, 32, .none, .link, [F.LNK_STAT_STATE, F.LNK_STAT_ROLE_REJ, F.LNK_STAT_TRAIN_FAIL, F.LNK_STAT_REPLAYS, F.LNK_STAT_LINK_FAIL]⟩,
  ⟨0x1500, 4, 0, 32, .none, .link, [F.LNK_ERR_LCRC, F.LNK_ERR_RCRC, F.LNK_ERR_FRAME, F.LNK_ERR_PLAN_LATE]⟩,
  ⟨0x1580, 0, 0, 1, .none, .none, [F.LNK_CFG_RETRAIN, F.LNK_CFG_AGE_MAX, F.LNK_CFG_REROUTE_HOLD]⟩,
  ⟨0x1584, 0, 0, 1, .none, .none, [F.LNK_DRAIN_TRUNK, F.LNK_DRAIN_EN]⟩,
  ⟨0x1588, 0, 0, 1, .none, .none, [F.LNK_FWD_DROP_AGED, F.LNK_FWD_DROP_NOROUTE]⟩,
  ⟨0x1800, 0, 0, 1, .none, .none, [F.SER_SEL_SERIES]⟩,
  ⟨0x1804, 0, 0, 1, .series, .none, [F.SER_CFG_EN, F.SER_CFG_TYPE, F.SER_CFG_RATIO, F.SER_CFG_EFFORT, F.SER_CFG_XFORM, F.SER_CFG_SHIFT, F.SER_CFG_SKIND, F.SER_CFG_NBLK_M1]⟩,
  ⟨0x1808, 0, 0, 1, .series, .none, [F.SER_SRC_LOCAL, F.SER_SRC_STREAM, F.SER_SRC_POS, F.SER_SRC_ITEM7]⟩,
  ⟨0x180c, 0, 0, 1, .series, .none, [F.SER_BASE_BASE]⟩,
  ⟨0x1810, 0, 0, 1, .series, .none, [F.SER_NEXT_NEXT]⟩,
  ⟨0x1814, 0, 0, 1, .series, .none, [F.SER_COMMIT_COMMIT]⟩,
  ⟨0x1818, 0, 0, 1, .series, .none, [F.SER_STAT_GEN, F.SER_STAT_REJ, F.SER_STAT_NFILL]⟩,
  ⟨0x181c, 0, 0, 1, .none, .none, [F.SER_ERR_SAT, F.SER_ERR_CODE_FAIL, F.SER_ERR_BLK_CHECK, F.SER_ERR_OVERTAKEN, F.SER_ERR_OVERRUN]⟩,
  ⟨0x1840, 0, 1, 1, .none, .none, [F.TREE_SEL_SLOT]⟩,
  ⟨0x1844, 0, 1, 1, .treeSlot, .none, [F.TREE_SLOT_VALID, F.TREE_SLOT_LOADING, F.TREE_SLOT_PLAN_USE, F.TREE_SLOT_NFEAT, F.TREE_SLOT_NCLASS_M1, F.TREE_SLOT_DEPTH]⟩,
  ⟨0x1848, 0, 1, 1, .treeSlot, .none, [F.TREE_SLOT2_NTREE, F.TREE_SLOT2_GLOG]⟩,
  ⟨0x184c, 0, 1, 1, .treeSlot, .none, [F.TREE_ENSID_ENS_ID]⟩,
  ⟨0x1850, 0, 1, 1, .none, .none, [F.TREE_PSEL_PIPE]⟩]

/-- Part 6 of the register map. -/
def regMap6 : List RegRow := [
  ⟨0x1854, 0, 1, 1, .treePipe, .treePipe, [F.TREE_PIPE_BMAP_ID]⟩,
  ⟨0x1858, 0, 1, 1, .treePipe, .treePipe, [F.TREE_PIPE2_NENS, F.TREE_PIPE2_FREE]⟩,
  ⟨0x185c, 0, 1, 1, .none, .none, [F.TREE_STAT_SAMPLES]⟩,
  ⟨0x1860, 0, 1, 1, .none, .none, [F.TREE_ERR_POISON, F.TREE_ERR_BACKLOG, F.TREE_ERR_LOAD_REJ]⟩,
  ⟨0x1880, 0, 0, 1, .none, .none, [F.SEQ_SEL_SLOT]⟩,
  ⟨0x1884, 0, 0, 1, .seqSlot, .bit 16, [F.SEQ_SLOT_VALID, F.SEQ_SLOT_LOADING, F.SEQ_SLOT_PLAN_USE, F.SEQ_SLOT_MKIND, F.SEQ_SLOT_WORDS]⟩,
  ⟨0x1888, 0, 0, 1, .seqSlot, .bit 16, [F.SEQ_MODID_MODEL_ID]⟩,
  ⟨0x188c, 0, 0, 1, .none, .bit 16, [F.SEQ_STORE_FREE]⟩,
  ⟨0x1890, 0, 0, 1, .none, .bit 16, [F.SEQ_ASTATE_FREE]⟩,
  ⟨0x1894, 0, 0, 1, .none, .bit 16, [F.SEQ_BUSY_MODE, F.SEQ_BUSY_ACTION, F.SEQ_BUSY_SERIES]⟩,
  ⟨0x1898, 0, 0, 1, .none, .bit 16, [F.SEQ_STAT_JOBS]⟩,
  ⟨0x189c, 0, 0, 1, .none, .bit 16, [F.SEQ_ERR_POISON, F.SEQ_ERR_BACKLOG, F.SEQ_ERR_LOAD_REJ, F.SEQ_ERR_LAGGED]⟩,
  ⟨0x1c00, 0, 1, 0, .none, .bit 9, [F.TRC_CTL_SWTRIG]⟩,
  ⟨0x1c04, 0, 1, 0, .none, .bit 9, [F.TRC_STAT_STATE, F.TRC_STAT_PWR_LOST, F.TRC_STAT_TRIG_IGN, F.TRC_STAT_SLOTS, F.TRC_STAT_OPEN]⟩,
  ⟨0x1c08, 0, 1, 0, .none, .bit 9, [F.TRC_TFT_FT]⟩,
  ⟨0x1c0c, 0, 1, 0, .none, .bit 9, [F.TRC_CNT_LEFT]⟩,
  ⟨0x1c10, 0, 1, 0, .none, .bit 9, [F.TRC_LOST_LOST, F.TRC_LOST_UNMAPPED]⟩,
  ⟨0x1c14, 0, 1, 0, .none, .bit 9, [F.TRC_ARMID_ARM_ID]⟩,
  ⟨0x1c40, 0, 1, 1, .none, .none, [F.SYNC_SEL_OBJ]⟩,
  ⟨0x1c44, 0, 1, 1, .object, .sync, [F.SYNC_CFG_EN, F.SYNC_CFG_TYPE, F.SYNC_CFG_HELD, F.SYNC_CFG_UNCERT, F.SYNC_CFG_REJ, F.SYNC_CFG_OWN_V, F.SYNC_CFG_OWNER]⟩,
  ⟨0x1c48, 0, 0, 1, .object, .sync, [F.SYNC_PLAN_PLAN, F.SYNC_PLAN_COUNT]⟩,
  ⟨0x1c50, 0, 1, 0, .object, .sync, [F.SYNC_ADDR_LO_ADDR]⟩,
  ⟨0x1c54, 0, 1, 0, .object, .sync, [F.SYNC_ADDR_HI_ADDR]⟩,
  ⟨0x1c58, 0, 1, 0, .object, .sync, [F.SYNC_MASK_LO_MASK]⟩]

/-- Part 7 of the register map. -/
def regMap7 : List RegRow := [
  ⟨0x1c5c, 0, 1, 0, .object, .sync, [F.SYNC_MASK_HI_MASK]⟩,
  ⟨0x1c60, 0, 1, 0, .object, .sync, [F.SYNC_FREE_LO_FREE]⟩,
  ⟨0x1c64, 0, 1, 0, .object, .sync, [F.SYNC_FREE_HI_FREE]⟩,
  ⟨0x1c68, 0, 1, 0, .object, .sync, [F.SYNC_VAL_LO_VALUE]⟩,
  ⟨0x1c6c, 0, 1, 0, .object, .sync, [F.SYNC_VAL_HI_VALUE]⟩,
  ⟨0x1c70, 0, 1, 0, .object, .sync, [F.SYNC_WAIT_LO_WAIT]⟩,
  ⟨0x1c74, 0, 1, 0, .object, .sync, [F.SYNC_WAIT_HI_WAIT]⟩,
  ⟨0x1c80, 0, 1, 1, .none, .none, [F.HANG_STAT_HANG_ID, F.HANG_STAT_NCYC]⟩,
  ⟨0x1cc0, 0, 1, 1, .none, .none, [F.LOG_CFG_DRAIN_EN, F.LOG_CFG_DRAIN_MIN, F.LOG_CFG_FOG_SEV]⟩,
  ⟨0x1cc4, 0, 1, 1, .none, .none, [F.LOG_ATTIC_EN, F.LOG_ATTIC_MINSEV, F.LOG_ATTIC_FIRST, F.LOG_ATTIC_NBANKS_M1]⟩,
  ⟨0x1cc8, 0, 1, 1, .none, .none, [F.LOG_FREE_WORDS]⟩,
  ⟨0x1ccc, 0, 1, 1, .none, .none, [F.LOG_HELD_ENTRIES]⟩,
  ⟨0x1cd0, 0, 1, 1, .none, .none, [F.LOG_NEXT_LSEQ]⟩,
  ⟨0x1cd4, 0, 1, 1, .none, .none, [F.LOG_LOST_INFO, F.LOG_LOST_WARN, F.LOG_LOST_ERROR]⟩,
  ⟨0x1cd8, 0, 1, 1, .none, .none, [F.LOG_DROP_INFO, F.LOG_DROP_WARN, F.LOG_DROP_ERROR]⟩,
  ⟨0x1cdc, 0, 1, 1, .none, .none, [F.LOG_FLAG_FOG, F.LOG_FLAG_ATTIC_LOST, F.LOG_FLAG_REJ]⟩,
  ⟨0x2000, 0, 1, 1, .none, .none, [F.MEM_SEL_ID]⟩,
  ⟨0x2004, 0, 1, 1, .memory, .none, [F.MEM_STAT_CE, F.MEM_STAT_UE]⟩,
  ⟨0x2008, 0, 1, 1, .memory, .none, [F.MEM_UE_ADDR_ADDR]⟩,
  ⟨0x200c, 0, 1, 1, .memory, .none, [F.MEM_UE_ADDR_HI_ADDR]⟩,
  ⟨0x2010, 0, 1, 1, .memory, .none, [F.MEM_LAP_MS]⟩,
  ⟨0x2014, 0, 1, 1, .memory, .none, [F.MEM_LAP_CE_CE]⟩,
  ⟨0x2018, 0, 1, 1, .memory, .none, [F.MEM_SCRUB_EN, F.MEM_SCRUB_BUSY]⟩,
  ⟨0x2020, 0, 1, 1, .none, .none, [F.MEM_CFG_FOG_UE, F.MEM_CFG_FOG_CNRY]⟩]

/-- Part 8 of the register map. -/
def regMap8 : List RegRow := [
  ⟨0x2024, 0, 1, 1, .none, .none, [F.MEM_FLAG_UE, F.MEM_FLAG_CNRY]⟩,
  ⟨0x2040, 0, 1, 1, .none, .none, [F.CNRY_STAT_UNITS, F.CNRY_STAT_PASS, F.CNRY_STAT_NOTRUN, F.CNRY_STAT_RUNS]⟩,
  ⟨0x2044, 0, 1, 1, .none, .none, [F.CNRY_STAT2_PIPES]⟩,
  ⟨0x2048, 0, 1, 1, .none, .none, [F.CNRY_FT_FT]⟩,
  ⟨0x204c, 0, 1, 1, .none, .none, [F.CNRY_FAIL_UNITS]⟩,
  ⟨0x2050, 0, 1, 1, .none, .none, [F.CNRY_BIN_SEL_TBIN, F.CNRY_BIN_SEL_LBIN]⟩,
  ⟨0x2054, 0, 1, 1, .canaryBin, .none, [F.CNRY_BIN_PASS, F.CNRY_BIN_FAIL]⟩,
  ⟨0x2400, 0, 0, 1, .none, .none, [F.FO_CFG_MISS_N, F.FO_CFG_AUTO, F.FO_CFG_LEAD, F.FO_CFG_REST_TMO]⟩,
  ⟨0x2404, 0, 0, 1, .none, .none, [F.FO_PSEL_PLAN]⟩,
  ⟨0x2408, 0, 0, 1, .foPlan, .none, [F.FO_LOST_NLOST, F.FO_LOST_OVF, F.FO_LOST_PEND, F.FO_LOST_STANDBY, F.FO_LOST_DKIND, F.FO_LOST_DID]⟩,
  ⟨0x240c, 0, 0, 1, .none, .none, [F.FO_LOST_SEL_IDX]⟩,
  ⟨0x2410, 0, 0, 1, .foLost, .none, [F.FO_LOST_ID_TRUNK]⟩,
  ⟨0x2414, 0, 0, 1, .none, .none, [F.FO_PART_TRUNK, F.FO_PART_EN]⟩,
  ⟨0x2418, 0, 0, 1, .none, .none, [F.FO_NBR_SEL_LINK]⟩,
  ⟨0x241c, 0, 0, 1, .foLink, .none, [F.FO_NBR_OBS, F.FO_NBR_OBS_V, F.FO_NBR_EXP, F.FO_NBR_EXP_V]⟩,
  ⟨0x2420, 4, 0, 4, .none, .none, [F.PCOPY_TRUNK, F.PCOPY_VALID]⟩,
  ⟨0x2430, 4, 0, 4, .none, .none, [F.PCOPY_BASE_BASE]⟩,
  ⟨0x2440, 4, 0, 4, .none, .none, [F.PCOPY_SRC_LO, F.PCOPY_SRC_SPAN]⟩,
  ⟨0x2450, 0, 0, 1, .none, .none, [F.COPY_STAT_SENT, F.COPY_STAT_DROP, F.COPY_STAT_REJ]⟩,
  ⟨0x2454, 0, 0, 1, .none, .none, [F.REST_CTL_HOLDER, F.REST_CTL_GO]⟩,
  ⟨0x2458, 0, 0, 1, .none, .none, [F.REST_STAT_STATE, F.REST_STAT_REJ, F.REST_STAT_DISCARD]⟩,
  ⟨0x245c, 0, 0, 1, .none, .none, [F.REST_CNT_RESTORED, F.REST_CNT_RESTARTED]⟩,
  ⟨0x2460, 0, 0, 1, .none, .none, [F.RPL_STAT_STATE, F.RPL_STAT_PLAN, F.RPL_STAT_EPOCH]⟩,
  ⟨0x2464, 0, 0, 1, .none, .none, [F.RPL_BYTES_BYTES]⟩]

/-- Part 9 of the register map. -/
def regMap9 : List RegRow := [
  ⟨0x2800, 0, 1, 1, .none, .none, [F.PWR_CFG_AUTO_IDLE, F.PWR_CFG_WAKE_MGMT, F.PWR_CFG_RAMP]⟩,
  ⟨0x2804, 0, 1, 1, .none, .none, [F.PWR_STAT_STATE, F.PWR_STAT_WAKE]⟩,
  ⟨0x2808, 0, 1, 1, .none, .none, [F.PWR_REFUSER_CODE]⟩,
  ⟨0x280c, 0, 1, 1, .none, .none, [F.PWR_REFCNT_IDLE, F.PWR_REFCNT_SLEEP, F.PWR_REFCNT_DEEP, F.PWR_REFCNT_OFF]⟩,
  ⟨0x2810, 0, 1, 1, .none, .none, [F.PWR_WAKE_T_T]⟩,
  ⟨0x2814, 0, 1, 1, .none, .none, [F.PWR_WAKE_CTL_TEN, F.PWR_WAKE_CTL_TREJ, F.PWR_WAKE_CTL_TMR]⟩,
  ⟨0x2818, 0, 1, 1, .none, .none, [F.ATTIC_SEL_BANKS]⟩,
  ⟨0x2820, 0, 1, 0, .none, .bit 11, [F.PWRQ_STAT_OUT, F.PWRQ_STAT_TMO, F.PWRQ_STAT_REFUSED, F.PWRQ_STAT_LATE]⟩,
  ⟨0x2840, 0, 0, 1, .none, .bit 17, [F.PMB_CFG_EN, F.PMB_CFG_F400, F.PMB_CFG_PERIOD, F.PMB_CFG_FOG_V, F.PMB_CFG_FOG_S]⟩,
  ⟨0x2844, 0, 0, 1, .none, .bit 17, [F.PMB_VWIN_LO_LO]⟩,
  ⟨0x2848, 0, 0, 1, .none, .bit 17, [F.PMB_VWIN_HI_HI]⟩,
  ⟨0x284c, 0, 0, 1, .none, .none, [F.PMB_SEL_DEV_RD]⟩,
  ⟨0x2850, 0, 0, 1, .pmb, .bit 17, [F.PMB_VAL_VALUE]⟩,
  ⟨0x2854, 0, 0, 1, .pmb, .bit 17, [F.PMB_RAW_WORD]⟩,
  ⟨0x2858, 0, 0, 1, .none, .bit 17, [F.PMB_STAT_VALM, F.PMB_STAT_SALM, F.PMB_STAT_ALERT, F.PMB_STAT_SKIP]⟩,
  ⟨0x285c, 0, 0, 1, .none, .bit 17, [F.PMB_ERR_FAIL]⟩,
  ⟨0x2860, 4, 0, 8, .none, .bit 17, [F.PMB_DEV_ADDR, F.PMB_DEV_DEN, F.PMB_DEV_RDEN, F.PMB_DEV_PEC, F.PMB_DEV_VIN16, F.PMB_DEV_EXP16]⟩,
  ⟨0x2880, 4, 0, 8, .none, .bit 17, [F.PMB_SMASK_SMASK]⟩,
  ⟨0x3000, 4, 256, 256, .none, .none, [F.CALF_WORD]⟩,
  ⟨0x3400, 4, 256, 256, .none, .none, [F.CALU_WORD]⟩,
  ⟨0x4000, 8, 1024, 0, .none, .none, [F.CTR_WLO_W]⟩,
  ⟨0x4004, 8, 1024, 0, .none, .none, [F.CTR_WHI_W]⟩]

/-- Every mapped register (R481). -/
def regMap : List RegRow :=
  regMap1 ++ regMap2 ++ regMap3 ++ regMap4 ++ regMap5 ++ regMap6 ++ regMap7 ++ regMap8 ++ regMap9

end Sys2Proof.Machine
end

