-- ==== Sys2Proof/Machine/Tab.lean ====
section
/-! DEFINITION. Sparse tables: ascending association lists with a default entry. Every indexed
piece of state (registers, counters, queues, plans, series) is held in one of these, so that the
state stays plain data and equal contents are equal lists. -/

namespace Sys2Proof.Machine

/-- The entry listed at index `k`, if there is one. -/
def Tab.find? {α : Type} : Tab α → Nat → Option α
  | [], _ => none
  | (j, a) :: t, k => if j = k then some a else if k < j then none else Tab.find? t k

/-- The table without an entry at `k`. -/
def Tab.erase {α : Type} : Tab α → Nat → Tab α
  | [], _ => []
  | (j, a) :: t, k => if j = k then t else if k < j then (j, a) :: t else (j, a) :: Tab.erase t k

/-- The table with `a` listed at `k`, in its place by index. -/
def Tab.insert {α : Type} : Tab α → Nat → α → Tab α
  | [], k, a => [(k, a)]
  | (j, b) :: t, k, a =>
    if j = k then (k, a) :: t else if k < j then (k, a) :: (j, b) :: t
    else (j, b) :: Tab.insert t k a

/-- The entry at `k`; an index that is not listed reads as the default `d`. -/
def Tab.getD {α : Type} (t : Tab α) (k : Nat) (d : α) : α := (Tab.find? t k).getD d

/-- The table with `a` at `k`; an entry equal to the default `d` is not listed. -/
def Tab.set {α : Type} [DecidableEq α] (t : Tab α) (k : Nat) (d a : α) : Tab α :=
  if a = d then Tab.erase t k else Tab.insert t k a

/-- The entry at `k` changed by `f`, with default `d`. -/
def Tab.upd {α : Type} [DecidableEq α] (t : Tab α) (k : Nat) (d : α) (f : α → α) : Tab α :=
  Tab.set t k d (f (Tab.getD t k d))

/-- The indices rise strictly, and all lie above `lo`. -/
def Tab.sortedFrom {α : Type} : Nat → Tab α → Bool
  | _, [] => true
  | lo, (j, _) :: t => decide (lo ≤ j) && Tab.sortedFrom (j + 1) t

/-- The canonical form: strictly rising indices. -/
def Tab.wf {α : Type} (t : Tab α) : Bool := Tab.sortedFrom 0 t

/-- The values of a table with their indices, changed entry by entry. -/
def Tab.mapVal {α β : Type} (f : Nat → α → β) (t : Tab α) : Tab β :=
  t.map fun e => (e.1, f e.1 e.2)

end Sys2Proof.Machine
end

