-- ==== Sys2Proof/Machine/Ops.lean ====
section
/-! DEFINITION. The named operations that every unit uses: register fields, fleet time, the
logbook, the creation of records, comparators. -/

namespace Sys2Proof.Machine

/-- A command whose effect on the live state is `f`. -/
def State.run (s : State) (f : Build → Live → Live) : Host.Outcome State Fault Refusal :=
  .next { s with live := f s.build s.live }

/-- `f` where `c` holds, and nothing otherwise. -/
def Live.when (l : Live) (c : Bool) (f : Live → Live) : Live := if c then f l else l

/-- The block is a buoy. -/
def Build.buoy (b : Build) : Bool := decide (b.form = .buoy)

/-- The block is a lantern. -/
def Build.lantern (b : Build) : Bool := decide (b.form = .lantern)

/-! ### Register fields -/

/-- Where a field of an entity is kept. -/
def Fld.key (f : Fld) (e : Nat) : Nat := (f.off * 32 + f.lo) * 65536 + e

/-- The reset value of a field (R482), with the cases that depend on the entity, the build or the
sampled inputs. -/
def Live.rst (l : Live) (b : Build) (f : Fld) (e : Nat) : Nat :=
  if f = F.SHP_CIR_CIR ∨ f = F.SHP_CBS_CBS ∨ f = F.SHP_PBS_PBS then (if e = 0 then 0x1000 else 0)
  else if f = F.SHP_PIR_PIR then (if e = 0 then 0x10000 else 0)
  else if f = F.QUE_CFG_CAP then (if b.lantern ∧ e < 1024 then 0x60 else 0x10)
  else if f = F.UNIT_EN_B_SPILL then b2n b.spillEn
  else if f = F.UNIT_EN_CEL_CEL then l.boot.st.celPresent.toNat
  else if b.buoy then f.rB else f.rL

/-- The value of field `f` of entity `e`. -/
def Live.get (l : Live) (b : Build) (f : Fld) (e : Nat := 0) : Nat :=
  Tab.getD l.rf (f.key e) (l.rst b f e)

/-- The state with value `v`, cut to the field's width, in field `f` of entity `e`. -/
def Live.put (l : Live) (b : Build) (f : Fld) (v : Nat) (e : Nat := 0) : Live :=
  { l with rf := Tab.set l.rf (f.key e) (l.rst b f e) (v % 2 ^ f.w) }

/-- Bit `i` of a field. -/
def Live.flag (l : Live) (b : Build) (f : Fld) (e : Nat := 0) (i : Nat := 0) : Bool :=
  (l.get b f e).testBit i

/-- The state with bit `i` of field `f` set. -/
def Live.setBit (l : Live) (b : Build) (f : Fld) (e : Nat := 0) (i : Nat := 0) : Live :=
  l.put b f (l.get b f e ||| 2 ^ i) e

/-- The state with bit `i` of field `f` clear. -/
def Live.clrBit (l : Live) (b : Build) (f : Fld) (e : Nat := 0) (i : Nat := 0) : Live :=
  l.put b f (l.get b f e - (if (l.get b f e).testBit i then 2 ^ i else 0)) e

/-- A saturating count: `n` more in field `f`. -/
def Live.bump (l : Live) (b : Build) (f : Fld) (e : Nat := 0) (n : Nat := 1) : Live :=
  l.put b f (min (l.get b f e + n) (2 ^ f.w - 1)) e

/-- One more output. -/
def Live.emit (l : Live) (o : Out) : Live := { l with out := l.out ++ [o] }

/-! ### Fleet time -/

/-- FT: bits [59:28] of the accumulator (R108). -/
def Live.ft (l : Live) : Word := l.time.acc.extractLsb' 28 32

/-- The time states in which commands that name a count are accepted (R113). -/
def Live.timed (l : Live) : Bool :=
  decide (l.time.state = .locked ∨ l.time.state = .holdover)

/-- `T` lies in the window of R125. -/
def Live.inWindow (l : Live) (t : Word) : Bool :=
  let d := (t - l.ft).toNat
  decide (1000000 ≤ d ∧ d ≤ 2000000000)

/-- The comparators of the form (R126). -/
def Build.cmps (b : Build) : Nat := if b.buoy then 32 else 64

/-- The owner holds a comparator. -/
def Live.holdsCmp (l : Live) (o : Owner) : Bool := l.time.cmps.any fun c => decide (c.owner = o)

/-- Comparators in use: armed counts, and those that a deferred PULSE_ARM has taken (R129). -/
def Live.cmpUsed (l : Live) : Nat :=
  l.time.cmps.length + (l.pulses.filter fun e => match e.2.deferred with
    | some d => decide (d.2.2 ≠ 0) && !l.holdsCmp (.pulse e.1)
    | none => false).length

/-- A comparator is free. -/
def Live.cmpFree (l : Live) (b : Build) : Bool := decide (l.cmpUsed < b.cmps)

/-- The comparators of owner `o` freed. -/
def Live.dropCmp (l : Live) (o : Owner) : Live :=
  { l with time := { l.time with cmps := l.time.cmps.filter fun c => decide (c.owner ≠ o) } }

/-- Count `t` armed for owner `o`, which keeps its comparator if it holds one. -/
def Live.armCmp (l : Live) (o : Owner) (t : Word) (per : Nat := 0) : Live :=
  let l := l.dropCmp o
  { l with time := { l.time with cmps := l.time.cmps ++ [⟨o, t, per⟩] } }

/-- The plan an owner works for, 0 for none. -/
def Owner.plan : Owner → Nat
  | .start p => p
  | .cuts p => p
  | .cut p _ => p
  | .teardown p => p
  | .pulse _ => 0
  | .wake => 0

/-- All comparators and fired counts of plan `p` freed (R126, R202). -/
def Live.dropPlanCmps (l : Live) (p : Nat) : Live :=
  { l with time := { l.time with
      cmps := l.time.cmps.filter fun c => decide (c.owner.plan ≠ p ∨ p = 0),
      fired := l.time.fired.filter fun c => decide (c.owner.plan ≠ p ∨ p = 0) } }

/-! ### The logbook (spec/17) -/

/-- Words of an entry (R413). -/
def LogEv.words (e : LogEv) : Nat := 2 + e.args.length

/-- Words the logbook holds (R413). -/
def Build.logWords (b : Build) : Nat := if b.buoy then 8192 else 524288

/-- Words of one attic bank: memory 0x06 of Table 18.1 over the banks of the form (log entry 9). -/
def Build.bankWords (b : Build) : Nat := if b.buoy then 8192 else 32768

/-- Words in use. -/
def usedWords (es : List LogEnt) : Nat := es.foldl (fun a e => a + e.ev.words) 0

/-- The lowest severity among entries that are not selected. -/
def lowSev (es : List LogEnt) : Nat := es.foldl (fun a e => if e.sel then a else min a e.ev.sev) 4

/-- The oldest entry of severity `s` that is not selected, and the rest. -/
def takeVictim (s : Nat) : List LogEnt → Option (LogEnt × List LogEnt)
  | [] => none
  | e :: t =>
    if !e.sel ∧ e.ev.sev = s then some (e, t)
    else (takeVictim s t).map fun r => (r.1, e :: r.2)

/-- Victims removed, oldest of the lowest severity first, until `n` words are free. -/
def evict (cap n : Nat) : Nat → List LogEnt → List LogEnt × List LogEnt
  | 0, es => (es, [])
  | k + 1, es =>
    if n ≤ cap - usedWords es then (es, [])
    else match takeVictim (lowSev es) es with
      | none => (es, [])
      | some (v, rest) =>
        let r := evict cap n k rest
        (r.1, v :: r.2)

/-- The placement of R418: the entries with the new one, and the victims; none when it is refused. -/
def placeEnt (cap : Nat) (es : List LogEnt) (e : LogEnt) : Option (List LogEnt × List LogEnt) :=
  let n := e.ev.words
  let avail := es.foldl (fun a x => if !x.sel ∧ x.ev.sev ≤ e.ev.sev then a + x.ev.words else a)
    (cap - usedWords es)
  if avail < n then none
  else
    let r := evict cap n es.length es
    some (r.1 ++ [e], r.2)

/-- The loss counter of a severity. -/
def lostFld (sev : Nat) : Fld :=
  if sev = 1 then F.LOG_LOST_INFO else if sev = 2 then F.LOG_LOST_WARN else F.LOG_LOST_ERROR

/-- The drop counter of a severity. -/
def dropFld (sev : Nat) : Fld :=
  if sev = 1 then F.LOG_DROP_INFO else if sev = 2 then F.LOG_DROP_WARN else F.LOG_DROP_ERROR

/-- The words of the attic copy in force (R424). -/
def Live.atticCap (l : Live) (b : Build) : Nat :=
  (l.get b F.LOG_ATTIC_NBANKS_M1 + 1) * b.bankWords

/-- MINSEV, 0 read as 1 (Table 17.3). -/
def Live.atticMin (l : Live) (b : Build) : Nat := max 1 (l.get b F.LOG_ATTIC_MINSEV)

/-- The attic copy without the entries of these LSEQs. -/
def Live.atticDrop (l : Live) (gone : List LogEnt) : Live :=
  { l with log := { l.log with
      attic := l.log.attic.filter fun a => !(gone.any fun g => decide (g.lseq = a.lseq)) } }

/-- A new entry placed in the attic copy too, when it qualifies (R424). -/
def Live.atticAdd (l : Live) (b : Build) (e : LogEnt) : Live :=
  if l.flag b F.LOG_ATTIC_EN ∧ l.atticMin b ≤ e.ev.sev then
    match placeEnt (l.atticCap b) l.log.attic e with
    | none => l.setBit b F.LOG_FLAG_ATTIC_LOST
    | some (es, gone) =>
      let l := { l with log := { l.log with attic := es } }
      l.when (!gone.isEmpty) fun l => l.setBit b F.LOG_FLAG_ATTIC_LOST
  else l

/-- LOG_FLAG.FOG follows a new entry or merge of severity `sev` (R420). -/
def Live.logFog (l : Live) (b : Build) (sev : Nat) : Live :=
  l.when (decide (l.get b F.LOG_CFG_FOG_SEV ≠ 0 ∧ l.get b F.LOG_CFG_FOG_SEV ≤ sev)) fun l =>
    l.setBit b F.LOG_FLAG_FOG

/-- An event that does not merge (R416, R418). -/
def Live.logNew (l : Live) (b : Build) (ev : LogEv) : Live :=
  let e : LogEnt := ⟨l.log.next, ev, false, 0, false, none⟩
  let l := { l with log := { l.log with next := l.log.next + 1 } }
  match placeEnt b.logWords l.log.ents e with
  | none =>
    let l := { l with log := { l.log with lostSum := l.log.lostSum + 1 } }
    l.bump b (dropFld ev.sev)
  | some (es, gone) =>
    let l := { l with log := { l.log with ents := es, lostSum := l.log.lostSum + gone.length, newest := e.lseq } }
    let l := gone.foldl (fun l g => l.bump b (lostFld g.ev.sev)) l
    let l := l.atticDrop gone
    (l.atticAdd b e).logFog b ev.sev

/-- The event may merge into entry `e` (R417). -/
def LogEnt.takes (e : LogEnt) (ev : LogEv) : Bool :=
  decide (e.ev = ev ∧ e.rep < 0xFFFFFFFF) && !e.sel

/-- One more occurrence of the entry of this LSEQ. -/
def repeatEnt (q : Word) (es : List LogEnt) : List LogEnt :=
  es.map fun e => if e.lseq = q then { e with rep := e.rep + 1 } else e

/-- An event reaches an initialised logbook: it merges into the newest entry while that is held (R417). -/
def Live.logWrite (l : Live) (b : Build) (ev : LogEv) : Live :=
  match l.log.ents.getLast? with
  | some e =>
    if e.takes ev ∧ e.lseq = l.log.newest then
      let l := { l with log := { l.log with
        ents := repeatEnt e.lseq l.log.ents, attic := repeatEnt e.lseq l.log.attic } }
      l.logFog b ev.sev
    else l.logNew b ev
  | none => l.logNew b ev

/-- An event, before or after the logbook is initialised (R419). -/
def Live.logEv (l : Live) (b : Build) (ev : LogEv) : Live :=
  if l.log.live then l.logWrite b ev
  else if l.boot.early.length < 4 then
    { l with boot := { l.boot with early := l.boot.early ++ [ev] } }
  else { l with log := { l.log with lostSum := l.log.lostSum + 1 } }.bump b (dropFld ev.sev)

/-- The event `code` of severity `sev` with its arguments. -/
def Live.logE (l : Live) (b : Build) (code sev : Nat) (args : List Nat) (plan : Nat := 0)
    (status : Nat := 0) : Live :=
  l.logEv b ⟨code, sev, plan, status, args⟩

/-! ### GEN and identity -/

/-- GEN of source `i` of the block: a logical unit, or the die (0x3FF), of a buoy; a series of a
lantern (R33). -/
def Live.gen (l : Live) (i : Nat) : Nat := (l.genBase + Tab.getD l.gens i 0) % 256

/-- GEN of source `i` incremented. -/
def Live.genInc (l : Live) (i : Nat) : Live :=
  { l with gens := Tab.upd l.gens i 0 fun g => (g + 1) % 256 }

/-- The TrunkID the block holds; 0 while a buoy has none (log entry 10). -/
def Live.trunk (l : Live) (b : Build) : Nat :=
  if b.buoy then l.time.trunk.getD 0 else l.boot.st.idTrunk.toNat

/-- SRC of the block's own records (R30). -/
def Live.src (l : Live) (b : Build) : BitVec 18 :=
  BitVec.ofNat 18 (l.trunk b * 256 + (if b.buoy then l.boot.st.idLocal.toNat else 0))

/-- The management stream (R35). -/
def Build.mgmtStream (b : Build) : Nat := if b.buoy then 0x0000 else 0x2000

/-! ### Creating records -/

/-- A record with this type, stream, header FT and payload; flags clear, SEQ not yet given. -/
def mkRec (l : Live) (b : Build) (ty stream : Nat) (ft : Word) (body : List DWord) : Rec :=
  { ty := BitVec.ofNat 8 ty, poison := false, inexact := false, gapBefore := false,
    replayed := false, partialCover := false, src := l.src b, stream := BitVec.ofNat 14 stream,
    seq := 0, ft := ft, body := body }

/-- The stream of a record, SRC and STREAM, as the route table and the streams with a loss name it. -/
def routeKey (r : Rec) : Nat := r.src.toNat * 2 ^ 14 + r.stream.toNat

/-- A record goes out after a loss in its stream that left nothing in place of the lost record: it carries
GAP_BEFORE (R51, R52). A GAP record never does (R55), and the loss is shown by the record after it. -/
def Live.resume (l : Live) (r : Rec) : Live × Rec :=
  if r.ty ≠ 0x0A ∧ routeKey r ∈ l.skips then
    ({ l with skips := l.skips.filter fun k => decide (k ≠ routeKey r) }, { r with gapBefore := true })
  else (l, r)

/-- SEQ given to a record at its creation: the next of its stream (R301). The first record of a run carries
GAP_BEFORE (R492), unless it is a GAP record, which never does (R55; DESIGN CHOICE, log entry 119). -/
def Live.number (l : Live) (r : Rec) : Live × Rec :=
  let n := Tab.getD l.seqs r.stream.toNat 0
  let first := decide (r.ty ≠ 0x0A ∧ n = 0)
  { l with seqs := Tab.set l.seqs r.stream.toNat 0 (n + 1) }.resume
    { r with seq := BitVec.ofNat 32 n, gapBefore := r.gapBefore || first }

/-- The management queue (R295). -/
def Build.mgmtQueue (b : Build) : Nat := if b.buoy then 0 else 1024

/-- The stream map entry that names stream `s`, if a valid one does. -/
def Live.mapEntry (l : Live) (b : Build) (s : Nat) : Option Nat :=
  (List.range (if b.buoy then 128 else 2048)).find? fun e =>
    l.flag b F.QMAP_VALID e && decide (l.get b F.QMAP_STREAM e = s)

/-- The queue of a stream: the map's, or the management queue (R300). -/
def Live.queueOf (l : Live) (b : Build) (s : Nat) : Nat :=
  match l.mapEntry b s with
  | some e => l.get b F.QMAP_QUEUE e
  | none => b.mgmtQueue

/-- A record created and offered to its queue (R301). -/
def Live.create (l : Live) (b : Build) (r : Rec) : Live :=
  let (l, r) := l.number r
  { l with created := l.created ++ [(l.queueOf b r.stream.toNat, r)] }

/-! ### Poison in stored words (R428) -/

/-- `h` holds a word that was read uncorrectable. -/
def Live.bad (l : Live) (h : Holder) : Bool := l.mem.bad.any fun x => decide (x.h = h)

/-- A read of byte `a` of memory `id` finds an uncorrectable word (R428): UE, its address, the flag and the
event. -/
def Live.ueSeen (l : Live) (b : Build) (id a : Nat) : Live :=
  let l := l.bump b F.MEM_STAT_UE id
  let l := (l.put b F.MEM_UE_ADDR_ADDR a id).put b F.MEM_UE_ADDR_HI_ADDR (a / 2 ^ 32) id
  (l.put b F.MEM_FLAG_UE 1).logE b 0x1001 3 [id, a]

/-- The words of `h` are read: each uncorrectable one counts again (R428). -/
def Live.meet (l : Live) (b : Build) (h : Holder) : Live :=
  (l.mem.bad.filter fun x => decide (x.h = h)).foldl (fun l x => l.ueSeen b x.id x.a) l

/-- The words of `h` are written anew. -/
def Live.clean (l : Live) (h : Holder) : Live :=
  { l with mem := { l.mem with bad := l.mem.bad.filter fun x => decide (x.h ≠ h) } }

/-- What plan `p` holds of its open epoch and of its actions is gone. -/
def Live.cleanPlan (l : Live) (p : Nat) : Live :=
  { l with mem := { l.mem with bad := l.mem.bad.filter fun x => match x.h with
      | .part q => decide (q ≠ p)
      | .rows q _ _ _ => decide (q ≠ p)
      | _ => true } }

/-! ### Plans -/

/-- Plan entry `p`; EMPTY when none is listed. -/
def Live.plan (l : Live) (p : Nat) : Plan := Tab.getD l.plans p plan0

/-- Plan entry `p` changed. -/
def Live.setPlan (l : Live) (p : Nat) (x : Plan) : Live :=
  { l with plans := Tab.set l.plans p plan0 x }

/-- Plan entry `p` changed by `f`. -/
def Live.updPlan (l : Live) (p : Nat) (f : Plan → Plan) : Live := l.setPlan p (f (l.plan p))

/-- ARMING, ARMED or RUNNING. -/
def Plan.active (x : Plan) : Bool :=
  decide (x.state = .arming ∨ x.state = .armed ∨ x.state = .running)

/-- ARMED or RUNNING. -/
def Plan.owns (x : Plan) : Bool := decide (x.state = .armed ∨ x.state = .running)

/-! ### Links -/

/-- Link port `n`. -/
def Live.link (l : Live) (n : Nat) : Link := Tab.getD l.links n link0

/-- Link port `n` changed by `f`. -/
def Live.updLink (l : Live) (n : Nat) (f : Link → Link) : Live :=
  { l with links := Tab.upd l.links n link0 f }

/-- ROLE of link `n`: 0 OFF, 1 PEER, 2 TRAY, 3 HOST. -/
def Live.role (l : Live) (b : Build) (n : Nat) : Nat := l.get b F.LNK_ROLE_ROLE n

/-- The links of a role. -/
def Live.linksOf (l : Live) (b : Build) (role : Nat) : List Nat :=
  (List.range 32).filter fun n => decide (l.role b n = role)

/-- Link `n` is UP. -/
def Live.isUp (l : Live) (n : Nat) : Bool := decide ((l.link n).st = .up)

/-- The choice of R293 among links in ascending order: number `key mod k`, or the next UP one,
wrapping. -/
def Live.pickLink (l : Live) (ns : List Nat) (key : Nat) : Option Nat :=
  let k := ns.length
  if k = 0 then none
  else ((ns.drop (key % k)) ++ (ns.take (key % k))).find? fun n => l.isUp n

/-- Entry of the link table that holds the CTL units for buoys while no TRAY link is UP (R293). -/
def waitLink : Nat := 32

/-- Link `c` is chosen for what `k` names: a change starts the reroute hold (R294). -/
def Live.noteKey (l : Live) (k c : Nat) : Live :=
  match Tab.find? l.routes k with
  | some e => if e.link = c then l else { l with routes := Tab.insert l.routes k ⟨c, true⟩ }
  | none => { l with routes := Tab.insert l.routes k ⟨c, false⟩ }

/-- The stream of a record to the lantern's own buoy `loc`: each buoy has its TRAY link (R293). -/
def buoyKey (r : Rec) (loc : Nat) : Nat := routeKey r + 2 ^ 32 * (loc + 1)

/-- A CTL unit for one of the lantern's own buoys waits for the buoy's TRAY link, or for any (R291, R293, R294;
log entry 11). -/
def Live.queueBuoy (l : Live) (b : Build) (i : LinkItem) : Live :=
  match l.pickLink (l.linksOf b 2) i.dest with
  | none => l.updLink waitLink fun k => { k with ctl := k.ctl ++ [i] }
  | some n =>
    let l := match i.r with
      | some r => l.noteKey (buoyKey r i.dest) n
      | none => l
    l.updLink n fun k => { k with ctl := k.ctl ++ [i] }

/-- A record to one of the lantern's own buoys. -/
def Live.toBuoy (l : Live) (b : Build) (loc : Nat) (r : Rec) : Live :=
  l.queueBuoy b ⟨r.words, some r, none, loc, l.ft, none⟩

/-- The CTL units that waited for a TRAY link are given theirs. -/
def Live.releaseBuoys (l : Live) (b : Build) : Live :=
  if l.pickLink (l.linksOf b 2) 0 = none then l
  else
    let is := (l.link waitLink).ctl
    is.foldl (fun l i => l.queueBuoy b i) (l.updLink waitLink fun k => { k with ctl := [] })

/-- A record sent as a CTL unit of link `n`. -/
def Live.toLink (l : Live) (n : Nat) (r : Rec) : Live :=
  l.updLink n fun k => { k with ctl := k.ctl ++ [⟨r.words, some r, none, 0, l.ft, none⟩] }

/-! ### Losses that leave nothing behind (R51, R52) -/

/-- The records that wait in the block: at their producers, in queues, and for plan positions. -/
def Live.waitingRecs (l : Live) : List Rec :=
  l.created.map (·.2) ++ (l.ques.flatMap fun e => e.2.recs.map (·.r)) ++
    l.links.flatMap fun k => k.2.pln.filterMap (·.r)

/-- Every record that waits in the block changed by `f`. -/
def Live.mapRecs (l : Live) (f : Rec → Rec) : Live :=
  let item := fun (i : LinkItem) => match i.r with
    | some r => if f r = r then i else { i with r := some (f r), body := (f r).words }
    | none => i
  { l with
    created := l.created.map fun e => (e.1, f e.2),
    ques := Tab.mapVal (fun _ x => { x with recs := x.recs.map fun y => { y with r := f y.r } }) l.ques,
    links := Tab.mapVal (fun _ k => { k with pln := k.pln.map item }) l.links }

/-- The record of the stream of `r` that comes first after it among `xs`; GAP records do not count. -/
def nextAfter (r : Rec) : List Rec → Option Rec
  | [] => none
  | x :: t =>
    let m := nextAfter r t
    if routeKey x = routeKey r ∧ x.ty ≠ 0x0A ∧ seqLater x.seq r.seq then
      match m with
      | some y => if seqLater x.seq y.seq then some y else some x
      | none => some x
    else m

/-- Record `r` is lost and nothing takes its place: the next record of its stream carries GAP_BEFORE, one that
waits in the block already, or else the next that comes (R51, R52). -/
def Live.skip (l : Live) (r : Rec) : Live :=
  match nextAfter r l.waitingRecs with
  | some x => l.mapRecs fun y => if routeKey y = routeKey x ∧ y.seq = x.seq then { y with gapBefore := true } else y
  | none => if routeKey r ∈ l.skips then l else { l with skips := l.skips ++ [routeKey r] }

/-! ### The cellar (R79, R309) -/

/-- The cellar ports in use, ascending. -/
def Live.celPorts (l : Live) : List Nat :=
  (List.range 12).filter fun m => l.boot.st.celPresent.toNat.testBit m

/-- GiB of one device. -/
def CelDev.gib : CelDev → Nat
  | .gib16 => 16
  | .gib32 => 32
  | .gib64 => 64

/-- Bytes of the cellar space. -/
def Live.celBytes (l : Live) (b : Build) : Nat := l.celPorts.length * b.celDev.gib * 2 ^ 30

/-- The port of a byte address; none outside the cellar space (R79). -/
def Live.celPort (l : Live) (b : Build) (a : Nat) : Option Nat :=
  if a < l.celBytes b then l.celPorts[(a / 1024) % l.celPorts.length]? else none

/-- The unit address at the port. -/
def Live.celUnit (l : Live) (a : Nat) : Nat :=
  a / 1024 / l.celPorts.length * 32 + a / 32 % 32

/-- Port `m` fails every access: marked failed, or gated (R82, R105). -/
def Live.celFailed (l : Live) (b : Build) (m : Nat) : Bool :=
  l.celFail.contains m || !l.flag b F.UNIT_EN_CEL_CEL 0 m

/-- An access to address `a` fails. -/
def Live.celDead (l : Live) (b : Build) (a : Nat) : Bool :=
  match l.celPort b a with
  | some m => l.celFailed b m
  | none => true

/-- The beats that `n` bytes from address `a` on touch, in units of 32 bytes. -/
def beatsFrom (a n : Nat) : List Nat :=
  if n = 0 then [] else (List.range ((a + n - 1) / 32 - a / 32 + 1)).map fun i => a / 32 + i

/-- A burst over the `n` bytes from address `a` on, with the data of a write. A failed port, and an address
outside the space, get no request. A write makes the words good (R431); what a failed port does not store is
poison from then on (DESIGN CHOICE, log entry 133). -/
def Live.celBurst (l : Live) (b : Build) (wr : Bool) (a n : Nat) (data : List DWord) : Live :=
  match l.celPort b a with
  | none => l
  | some m =>
    let beats := beatsFrom a n
    let rest := l.mem.cel.filter fun x => !beats.contains x
    let cel := if !wr then l.mem.cel else if l.celFailed b m then rest ++ beats else rest
    let l := { l with mem := { l.mem with cel := cel } }
    if l.celFailed b m then l else l.emit (.celReq m wr (l.celUnit a) (beats.length - 1) data)

/-- The `n` bytes from address `a` on, cut where a burst must end (R79). -/
def burstsOf : Nat → Nat → Nat → List (Nat × Nat)
  | 0, _, _ => []
  | k + 1, a, n =>
    let m := min n (1024 - a % 1024)
    if n = 0 then [] else (a, m) :: burstsOf k (a + m) (n - m)

/-- Words written at address `a` of the cellar. -/
def Live.celWrite (l : Live) (b : Build) (a : Nat) (ws : List DWord) : Live :=
  (burstsOf (ws.length + 1) a (8 * ws.length)).foldl (fun l x =>
    l.celBurst b true x.1 x.2 ((ws.drop ((x.1 - a) / 8)).take (x.2 / 8))) l

/-- The poisoned beats among the `n` bytes from address `a` on of a port that answers. -/
def Live.celBad (l : Live) (b : Build) (a n : Nat) : List Nat :=
  if l.celDead b a then [] else (beatsFrom a n).filter fun x => l.mem.cel.contains x

/-- The `n` bytes from address `a` on read: the request, and each poisoned beat counts (R428). -/
def Live.celRead (l : Live) (b : Build) (a n : Nat) : Live :=
  (l.celBad b a n).foldl (fun l x => l.ueSeen b 0x20 (32 * x)) (l.celBurst b false a n [])

/-- A read of the `n` bytes from address `a` on gives poison. -/
def Live.celSpoilt (l : Live) (b : Build) (a n : Nat) : Bool := l.celDead b a || !(l.celBad b a n).isEmpty

/-! ### The fog output -/

/-- GLB_FOG (spec/21 Table 21.7). -/
def Live.fog (l : Live) (b : Build) : Nat :=
  let valm := (List.range 8).any fun d => (Tab.getD l.pwr.devs d pmbDev0).valm
  let salm := (List.range 8).any fun d => (Tab.getD l.pwr.devs d pmbDev0).salm
  b2n (decide (l.boot.phase = 15))
  + 2 * b2n (l.flag b F.OSC_STAT_WIN_FAIL)
  + 4 * b2n (b.buoy && l.samp.talm)
  + 8 * b2n (l.flag b F.LOG_FLAG_FOG)
  + 16 * b2n (l.flag b F.MEM_FLAG_UE && l.flag b F.MEM_CFG_FOG_UE)
  + 32 * b2n (l.flag b F.MEM_FLAG_CNRY && l.flag b F.MEM_CFG_FOG_CNRY)
  + 64 * b2n (b.lantern && valm && l.flag b F.PMB_CFG_FOG_V)
  + 128 * b2n (b.lantern && salm && l.flag b F.PMB_CFG_FOG_S)

/-- `fog_out` (R490). -/
def Live.fogOut (l : Live) (b : Build) : Bool := decide (l.fog b ≠ 0)

end Sys2Proof.Machine
end

