-- ==== Sys2Proof/Machine/Packet.lean ====
section
/-! DEFINITION. Command packets: arrival, the checks 1 to 6 of R158 that every command shares,
replies and their order, and the in-band commands a lantern sends its own buoys (spec/06). -/

namespace Sys2Proof.Machine

/-! ### Status codes (spec/06 Table 6.5) -/

def eOpcode : Nat := 0x01
def ePriv : Nat := 0x02
def eLen : Nat := 0x03
def eRange : Nat := 0x05
def eTime : Nat := 0x06
def eState : Nat := 0x07
def ePoison : Nat := 0x08
def eCheck : Nat := 0x09
def eSlot : Nat := 0x0A
def eGated : Nat := 0x0B
def eAborted : Nat := 0x0C
def eForm : Nat := 0x0D

/-- The status of the first condition that holds. -/
def firstErr : List (Bool × Nat) → Option Nat
  | [] => none
  | (c, e) :: t => if c then some e else firstErr t

/-! ### Replies -/

/-- The packet of a reply (spec/06 Table 6.2). -/
def replyPacket (tag : BitVec 8) (pchk : Bool) (status arg : Nat) (ws : List DWord) : List DWord :=
  let pk := packW [(0, status), (8, tag.toNat), (16, ws.length + b2n pchk), (28, b2n pchk),
    (32, arg % 2 ^ 32)] :: ws
  if pchk then pk ++ [packW [(0, (crcWords pk).toNat)]] else pk

/-- The routing word (spec/06 Table 6.4). -/
def routing (kind : Nat) (priv : Nat) (dst : BitVec 18) (dlan : Bool) (ret : Word) : DWord :=
  packW [(0, kind), (8, priv), (10, dst.toNat), (28, b2n dlan), (32, ret.toNat)]

/-- Answered commands at the front of port `p`'s order leave, oldest first (R159). -/
def flushOrder (p : Port) : List Order → List Order × List Rec
  | [] => ([], [])
  | o :: t =>
    if o.r.port = p then
      match o.reply with
      | some x => let f := flushOrder p t; (f.1, x :: f.2)
      | none => (o :: t, [])
    else let f := flushOrder p t; (o :: f.1, f.2)

/-- A reply leaves on link `n`; one of this lantern's own is assembled now (R48, R54). -/
def Live.toLinkReply (l : Live) (b : Build) (n : Nat) (x : Rec) : Live :=
  if x.src = l.src b then
    let a := l.number { x with ft := l.ft }
    a.1.toLink n a.2
  else l.toLink n x

/-- The reply `x` of the command with place `no` on link `n`, and every reply it held back. -/
def Live.answerLink (l : Live) (b : Build) (n : BitVec 5) (no : Nat) (x : Rec) : Live :=
  let ord := l.cmd.order.map fun o => if o.r.seqNo = no then { o with reply := some x } else o
  let f := flushOrder (.link n) ord
  let l := { l with cmd := { l.cmd with order := f.1 } }
  f.2.foldl (fun l y => l.toLinkReply b n.toNat y) l

/-- A reply leaves the command (R150, R151, R154): it waits at MGMT, or travels in-band. -/
def Live.reply (l : Live) (b : Build) (r : Ret) (status : Nat) (arg : Nat := 0)
    (ws : List DWord := []) : Live :=
  let pk := replyPacket r.tag r.pchk status arg (if status = 0 then ws else [])
  let l := { l with cmd := { l.cmd with
    busy := l.cmd.busy.filter fun x => decide (x.r.seqNo ≠ r.seqNo) } }
  let body := routing 2 0 r.dst r.dlan r.ret :: pk
  match r.port with
  | .mgmt => { l with cmd := { l.cmd with mgmtReplies := l.cmd.mgmtReplies ++ [pk] } }
  | .fab => l.create b (mkRec l b 0x0F b.mgmtStream l.ft body)
  | .link n => l.answerLink b n r.seqNo (mkRec l b 0x0F b.mgmtStream l.ft body)

/-- The replies of a list of commands, all with one status. -/
def Live.replyAll (l : Live) (b : Build) (rs : List Ret) (status : Nat) : Live :=
  rs.foldl (fun l r => l.reply b r status) l

/-! ### Arrival -/

/-- The effective privilege by arrival (Table 6.3): 0 USER, 1 PLAN, 2 OWNER. -/
def Live.privOf (l : Live) (b : Build) (p : Packet) : Nat :=
  match p.port with
  | .mgmt => 2
  | .fab => min 1 p.priv.toNat
  | .link n => if l.role b n.toNat = 2 then 0 else min 1 p.priv.toNat

/-- The keeper can take a command on this port: the block is READY and running, and the port
exists in its form and is up. -/
def Live.accepts (l : Live) (b : Build) (p : Port) : Bool :=
  l.boot.ready && decide (l.pwr.st = .run ∨ l.pwr.st = .idle) && decide (l.pwr.target = none) &&
  match p with
  | .mgmt => true
  | .fab => b.buoy
  | .link n => b.lantern && l.isUp n.toNat

/-- The switch of island `i` to another source is in progress (Table 3.4). -/
def Live.switching (l : Live) (i : SwIsland) : Bool := decide (l.clk.switches.head?.map (·.1) = some i)

/-- A command on `p` cannot start: one is in execution, a reply waits at MGMT (R159, R160), or an island
on its way switches its source (R97): CORE, where the keeper lies, and REG, where MGMT lies. -/
def Live.portBusy (l : Live) (p : Port) : Bool :=
  l.cmd.busy.any (fun x => decide (x.r.port = p)) ||
  (decide (p = .mgmt) && (!l.cmd.mgmtReplies.isEmpty || l.switching .reg)) || l.switching .core

/-- The commands that reach into a buoy's BMON island. -/
def needsBmon : Instr → Bool
  | .traceArm _ => true
  | .traceDisarm _ => true
  | .traceRead _ => true
  | .hangDump _ => true
  | _ => false

/-- Command `c` cannot start on `p`: the port is busy, or its handshake toward BMON is held while that island
is in reset (R93). -/
def Live.blocked (l : Live) (p : Port) (c : Instr) : Bool :=
  l.portBusy p || (l.boot.bmonRst && needsBmon c)

/-- The commands that have arrived and wait to start, in arrival order on each port. -/
def Live.waiting (l : Live) : List Busy := l.cmd.mgmtBuf.toList ++ l.cmd.held

/-- Command `c` that arrives on `p` waits: it cannot start, or a command waits there already. -/
def Live.portWaits (l : Live) (p : Port) (c : Instr) : Bool :=
  l.blocked p c || l.waiting.any fun x => decide (x.r.port = p)

/-- `mgmt_rx_ready` (R135, R160): it is low while the receive buffer holds a whole packet whose command
has not started, and in a block that does not run. -/
def Live.mgmtRxReady (l : Live) (b : Build) : Bool := l.accepts b .mgmt && l.cmd.mgmtBuf.isNone

/-- A row of Table 6.6: opcode, whether a buoy and a lantern have it, level, LEN range in a buoy
and in a lantern. -/
structure OpRow where
  opc : Nat
  inB : Bool
  inL : Bool
  level : Nat
  minB : Nat
  maxB : Nat
  minL : Nat
  maxL : Nat
  deriving DecidableEq, Repr

/-- A row with one LEN range. -/
def opRow (opc : Nat) (inB inL : Bool) (level lo hi : Nat) : OpRow :=
  ⟨opc, inB, inL, level, lo, hi, lo, hi⟩

/-- Checks 1, 2, 4, 5 and 6 of R158, with R152 and R156. -/
def Live.frame (l : Live) (b : Build) (o : OpRow) (p : Packet) : Option Nat :=
  let n := p.data.length
  let bLoad := b.buoy && (o.opc == 0x10 || o.opc == 0x29)
  let lo := if b.buoy then o.minB else o.minL
  let hi := if b.buoy then o.maxB else o.maxL
  firstErr [
    (decide (p.words.length ≠ p.len.toNat), eLen),
    (p.pchk && !p.checks o.opc, eCheck),
    (if b.buoy then !o.inB else !o.inL, eForm),
    (decide (l.privOf b p < o.level) || (bLoad && decide (p.port = .mgmt)), ePriv),
    (decide (n < lo ∨ hi < n) || (b.buoy && p.port.inband && decide (254 < p.len.toNat)), eLen)]

/-- IDLE ends for wake source `src` (R470, R472): state RUN, logged. -/
def Live.idleExit (l : Live) (b : Build) (src : Nat) : Live :=
  if l.pwr.st = .idle then
    let l := { l with pwr := { l.pwr with st := .run, wake := src, wasIdle := true } }
    l.logE b 0x0F02 1 [1, src]
  else l

/-- IDLE ends with work for the keeper. -/
def Live.wakeIdle (l : Live) (b : Build) : Live := l.idleExit b 2

/-- The packet is addressed to this block (R154, R155). -/
def Live.mine (l : Live) (b : Build) (p : Packet) : Bool :=
  match p.port with
  | .mgmt => true
  | .fab =>
    !p.dlan && decide (p.dst.toNat % 256 = l.boot.st.idLocal.toNat) &&
    (match l.time.trunk with
     | some t => decide (p.dst.toNat / 256 = t)
     | none => true)
  | .link _ => p.dlan && decide (p.dst.toNat = l.trunk b * 256)

/-- The place of a command in its port's order. -/
def Live.arrive (l : Live) (p : Packet) : Live × Ret :=
  let r : Ret := ⟨p.port, p.priv, p.dst, p.dlan, p.ret, p.tag, p.pchk, l.cmd.nextNo⟩
  let ord := match p.port with
    | .link _ => l.cmd.order ++ [⟨r, none⟩]
    | _ => l.cmd.order
  ({ l with cmd := { l.cmd with nextNo := l.cmd.nextNo + 1, order := ord } }, r)

/-- Command `c` of packet `p` arrives and cannot start yet: it takes its place in the order of its port. At
MGMT the first such packet lies in the receive buffer, and later ones wait at the sender (R160). -/
def Live.park (l : Live) (c : Instr) (p : Packet) : Live :=
  let a := l.arrive p
  let x : Busy := ⟨a.2, c⟩
  if p.port = .mgmt ∧ (l.waiting.all fun y => decide (y.r.port ≠ .mgmt)) then
    { a.1 with cmd := { a.1.cmd with mgmtBuf := some x } }
  else { a.1 with cmd := { a.1.cmd with held := a.1.cmd.held ++ [x] } }

/-- The command of packet `p` starts: one that waited has its place already. -/
def Live.begin (l : Live) (p : Packet) : Live × Ret :=
  match l.cmd.starting with
  | some r => ({ l with cmd := { l.cmd with starting := none } }, r)
  | none => l.arrive p

/-- Packet `p` reaches the keeper, and its command `c` starts now. -/
def Live.taken (l : Live) (b : Build) (c : Instr) (p : Packet) : Bool :=
  l.cmd.starting.isSome || (l.accepts b p.port && l.mine b p && !l.portWaits p.port c)

/-- A request packet arrives as command `c`: it is not for this block, waits on its port, or starts. -/
def Live.packet (l : Live) (b : Build) (c : Instr) (p : Packet) (run : Live → Ret → Live) : Live :=
  if l.taken b c p then
    let a := (l.wakeIdle b).begin p
    run a.1 a.2
  else if !l.accepts b p.port then l
  else if !l.mine b p then (if b.buoy then l.bump b F.FAB_RX_BAD_KIND else l)
  else l.park c p

/-- The command of the row `o` fails one of the shared checks, or runs. -/
def Live.checked (l : Live) (b : Build) (o : OpRow) (p : Packet) (r : Ret) (run : Live → Ret → Live) : Live :=
  match l.frame b o p with
  | some e => (l.when (decide (e = eCheck)) fun l => l.bump b F.CMD_STAT_CHK_FAIL).reply b r e
  | none => run l r

/-- A request packet of the row `o` arrives as command `c`: it waits on its port, fails one of the shared
checks, or runs. -/
def Live.command (l : Live) (b : Build) (c : Instr) (o : OpRow) (p : Packet)
    (run : Live → Ret → Live) : Live :=
  l.packet b c p fun l r => l.checked b o p r run

/-- A command that goes on in later rows: it is in execution on its port. -/
def Live.hold (l : Live) (r : Ret) (c : Instr) : Live :=
  { l with cmd := { l.cmd with busy := l.cmd.busy ++ [⟨r, c⟩] } }

/-- The oldest waiting command that can start, and the ones left. -/
def takeHeld (blocked : Port → Instr → Bool) : List Busy → List Port → Option (Busy × List Busy)
  | [], _ => none
  | x :: t, seen =>
    if blocked x.r.port x.c ∨ x.r.port ∈ seen then
      (takeHeld blocked t (x.r.port :: seen)).map fun y => (y.1, x :: y.2)
    else some (x, t)

/-- The waiting commands laid out again: the oldest for MGMT lies in the receive buffer. -/
def Live.setWaiting (l : Live) (xs : List Busy) : Live :=
  let first := xs.find? fun x => decide (x.r.port = .mgmt)
  { l with cmd := { l.cmd with
      mgmtBuf := first, held := xs.filter fun x => decide (some x ≠ first) } }

/-! ### In-band commands of the lantern's own -/

/-- An in-band command to the lantern's own buoy `loc` at PLAN privilege (R155, R200, R230): it
awaits its reply under R163. The cookie and the TAG are free values. -/
def Live.ownCmd (l : Live) (b : Build) (loc : Nat) (use : OwnUse) (plan : Nat) (opc arg : Nat)
    (ws : List DWord) : Live :=
  let ret := Config.ownCookie l.free
  let tag := Config.ownTag l.free
  let dst := BitVec.ofNat 18 (l.trunk b * 256 + loc)
  let l := { l with free := l.free + 1 }
  let pk := packW [(0, opc), (8, tag.toNat), (16, ws.length), (32, arg % 2 ^ 32)] :: ws
  let x := mkRec l b 0x0F b.mgmtStream l.ft (routing 1 1 dst false ret :: pk)
  let (l, x) := l.number x
  let e : Fwd := ⟨l.cmd.nextNo, dst, false, ret, tag, false, none, some (use, plan)⟩
  let l := { l with cmd := { l.cmd with
    fwd := l.cmd.fwd ++ [e], nextNo := l.cmd.nextNo + 1 } }
  l.toBuoy b loc x

/-- The commands of `ownCmd` to each buoy of a list. -/
def Live.ownCmds (l : Live) (b : Build) (locs : List Nat) (use : OwnUse) (plan opc arg : Nat)
    (ws : List DWord) : Live :=
  locs.foldl (fun l k => l.ownCmd b k use plan opc arg ws) l

/-! ### Gating -/

/-- UNIT_EN as one word. -/
def Live.unitEn (l : Live) (b : Build) : Nat :=
  if b.buoy then
    l.get b F.UNIT_EN_B_TAP + (l.get b F.UNIT_EN_B_PCS <<< 8) + (l.get b F.UNIT_EN_B_BMON <<< 9)
      + (l.get b F.UNIT_EN_B_SENS <<< 10) + (l.get b F.UNIT_EN_B_PWRQ <<< 11)
      + (l.get b F.UNIT_EN_B_TREE <<< 12) + (l.get b F.UNIT_EN_B_SPILL <<< 13)
      + (l.get b F.UNIT_EN_B_PULSE <<< 14) + (l.get b F.UNIT_EN_B_SYNC <<< 15)
  else
    l.get b F.UNIT_EN_L_TREE + (l.get b F.UNIT_EN_L_SEQ <<< 16) + (l.get b F.UNIT_EN_L_PMB <<< 17)
      + (l.get b F.UNIT_EN_L_PULSE <<< 18) + (l.get b F.UNIT_EN_L_SYNC <<< 19)

/-- The pulse outputs are enabled. -/
def Live.pulseOn (l : Live) (b : Build) : Bool :=
  if b.buoy then l.flag b F.UNIT_EN_B_PULSE else l.flag b F.UNIT_EN_L_PULSE

/-- The synchronisation objects are enabled. -/
def Live.syncOn (l : Live) (b : Build) : Bool :=
  if b.buoy then l.flag b F.UNIT_EN_B_SYNC else l.flag b F.UNIT_EN_L_SYNC

/-- Tree pipe `p` is enabled. -/
def Live.pipeOn (l : Live) (b : Build) (p : Nat) : Bool :=
  if b.buoy then l.flag b F.UNIT_EN_B_TREE else l.flag b F.UNIT_EN_L_TREE 0 p

end Sys2Proof.Machine
end

