-- ==== Sys2Proof/Machine/Float.lean ====
section
/-! DEFINITION. Binary floating point in exact arithmetic: FP32 and BF16 values as integers times a
power of two, and rounding to nearest, ties to even (spec/00 R20; spec/15 R360). -/

namespace Sys2Proof.Machine

/-- The quotient rounded to nearest, ties to even. -/
def rne (n d : Nat) : Nat :=
  let q := n / d
  let r := n % d
  if 2 * r > d ∨ (2 * r = d ∧ q % 2 = 1) then q + 1 else q

/-- The canonical NaN (R316). -/
def f32NaN : Word := 0x7FC00000

/-- Sign, exponent field and fraction of an FP32. -/
def f32Neg (x : Word) : Bool := x.toNat.testBit 31
def f32Exp (x : Word) : Nat := x.toNat / 8388608 % 256
def f32Frac (x : Word) : Nat := x.toNat % 8388608

/-- The value is a NaN. -/
def f32IsNaN (x : Word) : Bool := decide (f32Exp x = 255 ∧ f32Frac x ≠ 0)

/-- The value is an infinity. -/
def f32IsInf (x : Word) : Bool := decide (f32Exp x = 255 ∧ f32Frac x = 0)

/-- The value is +0 or −0. -/
def f32IsZero (x : Word) : Bool := decide (x.toNat % 2147483648 = 0)

/-- The magnitude of a finite FP32 in units of 2⁻¹⁴⁹. -/
def f32Mag (x : Word) : Nat :=
  if f32Exp x = 0 then f32Frac x else (8388608 + f32Frac x) <<< (f32Exp x - 1)

/-- A finite FP32 in units of 2⁻¹⁴⁹. -/
def f32Int (x : Word) : Int := if f32Neg x then -(f32Mag x : Int) else (f32Mag x : Int)

/-- The FP32 nearest to `num / den` in units of 2⁻¹⁴⁹, with a sign. -/
def f32Round (neg : Bool) (num den : Nat) : Word :=
  let k := Nat.log2 (num / den)
  let q := if num / den = 0 then 0 else k - 23
  let bits := q * 8388608 + rne num (den <<< q)
  BitVec.ofNat 32 ((if bits < 0x7F800000 then bits else 0x7F800000) + (if neg then 0x80000000 else 0))

/-- An integer rounded to FP32. -/
def f32OfInt (i : Int) : Word := f32Round (decide (i < 0)) (i.natAbs <<< 149) 1

/-- `x × 2^frac` rounded to an integer and saturated to `n` bits, and whether it was saturated; none
for a NaN (R214, R375). -/
def f32ToFix (n frac : Nat) (x : Word) : Option (Int × Bool) :=
  let hi : Int := (2 ^ (n - 1) : Nat) - 1
  if f32IsNaN x then none
  else if f32IsInf x then some (if f32Neg x then -hi - 1 else hi, true)
  else
    let m := rne (f32Mag x <<< frac) (1 <<< 149)
    let v : Int := if f32Neg x then -(m : Int) else (m : Int)
    some (satS n v, decide (satS n v ≠ v))

/-! ### The operations of the sequence engine (R359 to R361) -/

/-- Every NaN is the canonical one. -/
def f32Canon (x : Word) : Word := if f32IsNaN x then f32NaN else x

/-- A zero or an infinity with a sign. -/
def f32Zero (neg : Bool) : Word := if neg then 0x80000000 else 0
def f32Inf (neg : Bool) : Word := if neg then 0xFF800000 else 0x7F800000

/-- The value with the other sign. -/
def f32Neg' (x : Word) : Word := x ^^^ 0x80000000

/-- The sum of two values. -/
def f32Add (a b : Word) : Word :=
  if f32IsNaN a ∨ f32IsNaN b then f32NaN
  else if f32IsInf a then (if f32IsInf b ∧ f32Neg a ≠ f32Neg b then f32NaN else a)
  else if f32IsInf b then b
  else
    let s := f32Int a + f32Int b
    if s = 0 then f32Zero (f32Neg a && f32Neg b) else f32Round (decide (s < 0)) s.natAbs 1

/-- The difference of two values. -/
def f32Sub (a b : Word) : Word := f32Add a (f32Neg' b)

/-- The product of two values. -/
def f32Mul (a b : Word) : Word :=
  let neg := f32Neg a != f32Neg b
  if f32IsNaN a ∨ f32IsNaN b then f32NaN
  else if f32IsInf a ∨ f32IsInf b then
    (if f32IsZero a ∨ f32IsZero b then f32NaN else f32Inf neg)
  else f32Round neg (f32Mag a * f32Mag b) (1 <<< 149)

/-- The quotient of two values. -/
def f32Div (a b : Word) : Word :=
  let neg := f32Neg a != f32Neg b
  if f32IsNaN a ∨ f32IsNaN b then f32NaN
  else if f32IsInf a then (if f32IsInf b then f32NaN else f32Inf neg)
  else if f32IsInf b then f32Zero neg
  else if f32IsZero b then (if f32IsZero a then f32NaN else f32Inf neg)
  else f32Round neg (f32Mag a <<< 149) (f32Mag b)

/-- Bits `k - 1` to 0 of the integer square root of `n`, below those of `r`. -/
def isqrtFrom (n : Nat) : Nat → Nat → Nat
  | 0, r => r
  | k + 1, r =>
    let t := r + 2 ^ k
    isqrtFrom n k (if t * t ≤ n then t else r)

/-- The integer square root. -/
def isqrt (n : Nat) : Nat := isqrtFrom n (n.log2 / 2 + 1) 0

/-- The square root of a value. -/
def f32Sqrt (a : Word) : Word :=
  if f32IsNaN a then f32NaN
  else if f32IsZero a then a
  else if f32Neg a then f32NaN
  else if f32IsInf a then a
  else
    let n := f32Mag a <<< 277
    let r := isqrt n
    f32Round false (2 * r + (if r * r = n then 0 else 1)) (1 <<< 65)

/-- `a < b` as IEEE compares them. -/
def f32Lt (a b : Word) : Bool :=
  !f32IsNaN a && !f32IsNaN b && decide (f32Int a < f32Int b)

/-- The value is finite. -/
def f32Finite (x : Word) : Bool := decide (f32Exp x ≠ 255)

/-- The greatest power of two below `n`, from `h` up. -/
def halfOf (n : Nat) : Nat → Nat → Nat
  | 0, h => h
  | k + 1, h => if 2 * h < n then halfOf n k (2 * h) else h

/-- The sum of R360. The first argument bounds the depth of the tree. -/
def tsumFuel : Nat → List Word → Word
  | 0, ts => ts.headD 0
  | k + 1, ts =>
    match ts with
    | [] => 0
    | [t] => t
    | _ =>
      let h := halfOf ts.length ts.length 1
      f32Add (tsumFuel k (ts.take h)) (tsumFuel k (ts.drop h))

/-- The sum of FP32 terms in the tree of R360. -/
def tsum (ts : List Word) : Word := tsumFuel (ts.length.log2 + 1) ts

/-- An FP32 narrowed to BF16. -/
def bf16 (x : Word) : Nat :=
  if f32IsNaN x then 0x7FC0
  else (x.toNat + 0x7FFF + x.toNat / 65536 % 2) / 65536 % 65536

/-- An integer rounded once to BF16 (R353). -/
def bf16OfInt (i : Int) : Nat :=
  let n := i.natAbs
  if n < 128 then bf16 (f32OfInt i)
  else
    let q := n.log2 - 7
    (if i < 0 then 32768 else 0) + (134 + q) * 128 + (rne n (1 <<< q) - 128)

/-- A BF16 widened to FP32. -/
def wide (x : Nat) : Word := BitVec.ofNat 32 (x % 65536 * 65536)

/-- The narrowing to INT8 of R361. -/
def q8 (x s : Word) : Int :=
  let y := f32Mul x s
  if f32IsNaN y then 0
  else
    let m : Int := min (rne (f32Mag y) (1 <<< 149)) 127
    if f32Neg y then -m else m

/-- The ordered image of an FP32 (R324). -/
def f32Ord (x : Word) : Nat :=
  if f32Neg x then 0xFFFFFFFF - x.toNat else x.toNat + 0x80000000

end Sys2Proof.Machine
end

