-- ==== Sys2Proof/Machine/Reduce.lean ====
section
/-! DEFINITION. The arithmetic of a reduction and its records: item blocks, their merge, the layout of
PARTIAL and RESULT payloads, thresholds, straggler lists and canary outcomes (spec/08 R213 to R226;
spec/18 Table 18.4). -/

namespace Sys2Proof.Machine

/-! ### Contributions (R214, R215) -/

/-- The key of a contributor. -/
def contribKey (lan : Bool) (leaf : Nat) : Nat := b2n lan * 262144 + leaf

/-- The smaller of two entries of MIN: smallest v, then smallest key. -/
def betterMin : Option (Int × Nat) → Option (Int × Nat) → Option (Int × Nat)
  | none, y => y
  | x, none => x
  | some a, some c => if c.1 < a.1 ∨ (c.1 = a.1 ∧ c.2 < a.2) then some c else some a

/-- The better of two entries of MAX: largest v, then smallest key. -/
def betterMax : Option (Int × Nat) → Option (Int × Nat) → Option (Int × Nat)
  | none, y => y
  | x, none => x
  | some a, some c => if a.1 < c.1 ∨ (c.1 = a.1 ∧ c.2 < a.2) then some c else some a

/-- The bin of a value. -/
def binOf (v lo : Int) (wsh : Nat) : Nat :=
  if v < lo then 0
  else
    let d := ((v - lo).toNat) >>> wsh
    if 30 ≤ d then 31 else d + 1

/-- Entry `a` stands before `c` in a TOPK list of this direction. -/
def topBefore (dir : Nat) (a c : Int × Nat) : Bool :=
  if a.1 = c.1 then decide (a.2 < c.2)
  else if dir = 0 then decide (c.1 < a.1) else decide (a.1 < c.1)

/-- An entry put in its place in a list sorted by `before`. -/
def insertBy {α : Type} (before : α → α → Bool) (x : α) : List α → List α
  | [] => [x]
  | y :: t => if before x y then x :: y :: t else y :: insertBy before x t

/-- The first `k` of the sorted union of two sorted lists. -/
def mergeTop {α : Type} (before : α → α → Bool) (k : Nat) (a c : List α) : List α :=
  (c.foldl (fun l x => insertBy before x l) a).take k

/-- Two lists of counts added. -/
def addLists : List Nat → List Nat → List Nat
  | a :: s, c :: t => (a + c) :: addLists s t
  | s, [] => s
  | [], t => t

/-- The empty block of item `x` at place `i`. K of an item without TOPK is 0 (DESIGN CHOICE, log entry 127). -/
def Item.block (x : Item) (i : Nat) : ItemBlk :=
  ⟨i, x.ops, if x.top then x.k else 0, 0, 0, 0, none, none, List.replicate 32 0, []⟩

/-- A value contributed to a block. -/
def ItemBlk.contribute (m : ItemBlk) (x : Item) (v : Int) (key : Nat) : ItemBlk :=
  { m with
    sum := m.sum + v, cnt := m.cnt + 1,
    mn := betterMin m.mn (some (v, key)), mx := betterMax m.mx (some (v, key)),
    hist := updAtNat (binOf v x.lo x.wsh) m.hist,
    top := mergeTop (topBefore x.dir) x.k m.top [(v, key)] }
where
  /-- One more in place `i`. -/
  updAtNat : Nat → List Nat → List Nat
    | _, [] => []
    | 0, a :: t => (a + 1) :: t
    | i + 1, a :: t => a :: updAtNat i t

/-- The merge of two blocks of one item (R215). -/
def ItemBlk.merge (x : Item) (a c : ItemBlk) : ItemBlk :=
  { a with
    miss := a.miss + c.miss, sum := a.sum + c.sum, cnt := a.cnt + c.cnt,
    mn := betterMin a.mn c.mn, mx := betterMax a.mx c.mx,
    hist := addLists a.hist c.hist,
    top := mergeTop (topBefore x.dir) x.k a.top c.top }

/-- A partial merged with a child's (R219): counts add, flags join, blocks merge item by item. -/
def Part.merge (g : Image) (a c : Part) : Part :=
  { expect := a.expect + c.expect, present := a.present + c.present, absent := a.absent + c.absent,
    unsampled := a.unsampled + c.unsampled, sublost := a.sublost || c.sublost,
    inexact := a.inexact || c.inexact,
    items := a.items.map fun m =>
      match c.items.find? fun o => decide (o.item = m.item) with
      | some o => m.merge (imgItem g m.item) o
      | none => m }

/-- A lost child's dies counted as absent (R220). -/
def Part.lose (a : Part) (expect : Nat) : Part :=
  { a with expect := a.expect + expect, absent := a.absent + expect, sublost := true }

/-! ### Records (R217, R218) -/

/-- The descriptor of Table 8.3. -/
structure Desc where
  plan : Nat
  kind : Nat
  epoch : Nat
  stage : Nat
  frag : Nat
  frags : Nat
  first : Nat
  nitems : Nat
  deriving DecidableEq, Repr

/-- The descriptor words with the counts of `a`. -/
def Desc.words (d : Desc) (a : Part) : List DWord :=
  [packW [(0, d.plan), (8, d.kind), (16, d.epoch % 65536), (32, d.stage), (40, d.frag), (48, d.frags)],
   packW [(0, a.expect % 2 ^ 32), (32, a.present % 2 ^ 32)],
   packW [(0, a.absent % 2 ^ 32), (32, a.unsampled % 2 ^ 32)],
   packW [(0, d.first), (8, d.nitems), (17, b2n a.sublost)]]

/-- The descriptor of a payload. -/
def descOf (ws : List DWord) : Desc :=
  let w0 := wordAt ws 0
  let w3 := wordAt ws 3
  ⟨fld w0 0 8, fld w0 8 8, fld w0 16 16, fld w0 32 8, fld w0 40 8, fld w0 48 8, fld w3 0 8,
    fld w3 8 9⟩

/-- The counts of a payload; INEXACT is the header's. -/
def countsOf (r : Rec) : Part :=
  let w1 := wordAt r.body 1
  let w2 := wordAt r.body 2
  ⟨fld w1 0 32, fld w1 32 32, fld w2 0 32, fld w2 32 32, bit (wordAt r.body 3) 17, r.inexact, []⟩

/-- A MIN or MAX entry: v, then key and VALID. -/
def extWords : Option (Int × Nat) → List DWord
  | some (v, key) => [BitVec.ofInt 64 v, packW [(0, key), (31, 1)]]
  | none => [0, 0]

/-- The 32-bit pieces of a TOPK entry. -/
def topPieces : Option (Int × Nat) → List Nat
  | some (v, key) => [toU 64 v % 2 ^ 32, toU 64 v / 2 ^ 32, key + 2 ^ 31]
  | none => [0, 0, 0]

/-- An item block (Table 8.4). -/
def ItemBlk.words (m : ItemBlk) : List DWord :=
  let on := fun i => m.ops.testBit i
  let s := toU 128 m.sum
  [packW [(0, m.item), (8, m.ops), (13, m.k), (32, m.miss % 2 ^ 32)]]
  ++ (if on 0 then [BitVec.ofNat 64 s, BitVec.ofNat 64 (s / 2 ^ 64), packW [(0, m.cnt % 2 ^ 32)]] else [])
  ++ (if on 1 then extWords m.mn else [])
  ++ (if on 2 then extWords m.mx else [])
  ++ (if on 3 then pack32 (m.hist.map (· % 2 ^ 32)) else [])
  ++ (if on 4 then pack32 ((List.range m.k).flatMap fun i => topPieces m.top[i]?) else [])

/-- A MIN or MAX entry from its two words. -/
def extOf (v k : DWord) : Option (Int × Nat) :=
  if bit k 31 then some (v.toInt, fld k 0 19) else none

/-- Entry `i` of a TOPK list. -/
def topOf (ws : List DWord) (i : Nat) : Option (Int × Nat) :=
  let k := item32 ws (3 * i + 2)
  if k.testBit 31 then
    some (sInt 64 (item32 ws (3 * i) + item32 ws (3 * i + 1) * 2 ^ 32), k % 2 ^ 19)
  else none

/-- An item block read, and the words behind it. -/
def blockOf (ws : List DWord) : ItemBlk × List DWord :=
  let h := wordAt ws 0
  let ops := fld h 8 5
  let k := fld h 13 4
  let on := fun i => ops.testBit i
  let ws := ws.drop 1
  let m : ItemBlk := ⟨fld h 0 8, ops, k, fld h 32 32, 0, 0, none, none, List.replicate 32 0, []⟩
  let (m, ws) := if on 0 then
      ({ m with sum := sInt 128 ((wordAt ws 0).toNat + (wordAt ws 1).toNat * 2 ^ 64),
                cnt := fld (wordAt ws 2) 0 32 }, ws.drop 3)
    else (m, ws)
  let (m, ws) := if on 1 then ({ m with mn := extOf (wordAt ws 0) (wordAt ws 1) }, ws.drop 2)
    else (m, ws)
  let (m, ws) := if on 2 then ({ m with mx := extOf (wordAt ws 0) (wordAt ws 1) }, ws.drop 2)
    else (m, ws)
  let (m, ws) := if on 3 then
      ({ m with hist := (List.range 32).map (item32 ws) }, ws.drop 16)
    else (m, ws)
  if on 4 then
    ({ m with top := (List.range k).filterMap (topOf ws) }, ws.drop ((3 * k + 1) / 2))
  else (m, ws)

/-- `n` item blocks read. -/
def blocksOf : Nat → List DWord → List ItemBlk
  | 0, _ => []
  | n + 1, ws => let r := blockOf ws; r.1 :: blocksOf n r.2

/-- The payloads of a partial of KIND 0x00, fragment by fragment (R218). -/
def itemPayloads (p epoch stage : Nat) (a : Part) : List (List DWord) :=
  let n := a.items.length
  let fs := (n + 127) / 128
  (List.range fs).map fun f =>
    let part := (a.items.drop (128 * f)).take 128
    Desc.words ⟨p, 0, epoch, stage, f, fs, 128 * f, part.length⟩ a ++ part.flatMap ItemBlk.words

/-! ### Thresholds (R224, Table 8.5) -/

/-- The smallest bin whose cumulative count reaches `r`. -/
def rankBin : List Nat → Nat → Nat → Nat
  | [], _, b => b
  | c :: t, r, b => if r ≤ c then b else rankBin t (r - c) (b + 1)

/-- The straggler rule: upper and lower threshold, or none for UNDEF. -/
def stragRule (h : List Nat) (lo : Int) (wsh khi klo : Nat) : Option (Int × Int) :=
  let n := h.foldl (· + ·) 0
  let m := rankBin h ((n + 1) / 2) 0
  let q1 := rankBin h ((n + 3) / 4) 0
  let q3 := rankBin h ((3 * n + 3) / 4) 0
  if n = 0 ∨ m = 0 ∨ m = 31 ∨ q1 = 0 ∨ q3 = 31 then none
  else
    let w : Int := (2 ^ wsh : Nat)
    let c := lo + ((m : Int) - 1) * w + asr w 1
    let s := ((q3 : Int) - q1) * w
    let s := if s < w then w else s
    some (satS 64 (c + asr (s * khi) 4), satS 64 (c - asr (s * klo) 4))

/-- The threshold entries of an image on the final items. HI and LO of an entry with UNDEF are 0 (DESIGN CHOICE,
log entry 126). -/
def thresholds (g : Image) (a : Part) : List Thr :=
  (imgStrag g).map fun i =>
    let x := imgItem g i
    let h := match a.items.find? fun m => decide (m.item = i) with
      | some m => m.hist
      | none => []
    match stragRule h x.lo x.wsh x.khi x.klo with
    | some (hi, lo) => ⟨i, false, decide (x.khi ≠ 0), decide (x.klo ≠ 0), hi, lo⟩
    | none => ⟨i, true, decide (x.khi ≠ 0), decide (x.klo ≠ 0), 0, 0⟩

/-- A threshold entry in words. -/
def Thr.words (t : Thr) : List DWord :=
  [packW [(0, t.item), (8, b2n t.undef), (9, b2n t.hiEn), (10, b2n t.loEn)],
   BitVec.ofInt 64 t.hi, BitVec.ofInt 64 t.lo]

/-- The threshold entries of a payload. -/
def thrsOf (ws : List DWord) : List Thr :=
  (List.range (descOf ws).nitems).map fun i =>
    let h := wordAt ws (4 + 3 * i)
    ⟨fld h 0 8, bit h 8, bit h 9, bit h 10, (wordAt ws (5 + 3 * i)).toInt,
      (wordAt ws (6 + 3 * i)).toInt⟩

/-! ### Straggler lists (R225, R226, Table 8.6) -/

/-- Entry `a` stands before `c`: larger EXCESS, then smaller key. -/
def stragBefore (a c : StragEnt) : Bool :=
  if a.excess = c.excess then decide (a.key < c.key) else decide (c.excess < a.excess)

/-- Two lists of one item merged; UNDEF stays that of the first. -/
def StragList.merge (g : Image) (a c : StragList) : StragList :=
  { a with flagged := a.flagged + c.flagged,
           ents := mergeTop stragBefore (imgItem g a.item).listL a.ents c.ents }

/-- Lists merged item by item. -/
def mergeLists (g : Image) (a c : List StragList) : List StragList :=
  a.map fun x =>
    match c.find? fun y => decide (y.item = x.item) with
    | some y => x.merge g y
    | none => x

/-- The empty lists of an image, with the UNDEF of the thresholds. -/
def emptyLists (g : Image) (thr : List Thr) : List StragList :=
  (imgStrag g).map fun i =>
    ⟨i, thr.any (fun t => decide (t.item = i) && t.undef), 0, []⟩

/-- A list in words. -/
def StragList.words (x : StragList) : List DWord :=
  packW [(0, x.item), (8, x.ents.length), (15, b2n x.undef), (32, x.flagged % 2 ^ 32)] ::
    x.ents.flatMap fun e =>
      [BitVec.ofInt 64 e.v, BitVec.ofNat 64 e.excess, packW [(0, e.key), (19, e.dir)]]

/-- `n` lists read. -/
def listsFrom : Nat → List DWord → List StragList
  | 0, _ => []
  | n + 1, ws =>
    let h := wordAt ws 0
    let m := fld h 8 7
    let ents := (List.range m).map fun i =>
      let k := wordAt ws (3 + 3 * i)
      (⟨(wordAt ws (1 + 3 * i)).toInt, (wordAt ws (2 + 3 * i)).toNat, fld k 0 19, fld k 19 1⟩ : StragEnt)
    ⟨fld h 0 8, bit h 15, fld h 32 32, ents⟩ :: listsFrom n (ws.drop (1 + 3 * m))

/-- The lists of a payload. -/
def listsOf (ws : List DWord) : List StragList := listsFrom (descOf ws).nitems (ws.drop 4)

/-- The list a buoy sends for one threshold entry (R225). -/
def ownList (t : Thr) (v : Option Int) (key : Nat) : StragList :=
  let flag := match v with
    | some v =>
      if t.undef then none
      else if t.hiEn ∧ t.hi < v then some (⟨v, (v - t.hi).toNat, key, 0⟩ : StragEnt)
      else if t.loEn ∧ v < t.lo then some ⟨v, (t.lo - v).toNat, key, 1⟩
      else none
    | none => none
  ⟨t.item, t.undef, flag.toList.length, flag.toList⟩

/-! ### Canary outcomes (R439, Table 18.4) -/

/-- An empty outcome. -/
def can0 : CanOut := ⟨0, 0, 0, none⟩

/-- Two outcomes merged. -/
def CanOut.merge (a c : CanOut) : CanOut :=
  ⟨a.pass + c.pass, a.fail + c.fail, a.notrun + c.notrun,
    match a.fkey, c.fkey with
    | some x, some y => if y.1 < x.1 then some y else some x
    | some x, none => some x
    | none, y => y⟩

/-- The body of a KIND 0x03 record. -/
def CanOut.words (a : CanOut) : List DWord :=
  [packW [(0, a.pass % 2 ^ 32), (32, a.fail % 2 ^ 32)], packW [(0, a.notrun % 2 ^ 32)],
   match a.fkey with
   | some (key, units) => packW [(0, key), (19, 1), (20, units)]
   | none => 0]

/-- The outcome of a payload. -/
def canOf (ws : List DWord) : CanOut :=
  let w := wordAt ws 6
  ⟨fld (wordAt ws 4) 0 32, fld (wordAt ws 4) 32 32, fld (wordAt ws 5) 0 32,
    if bit w 19 then some (fld w 0 19, fld w 20 8) else none⟩

/-! ### The leaf partial (R219) -/

/-- The value of buoy item `i` with word `w`; none when it is stale. -/
def itemVal (x : Item) (w : DWord) : Option Int :=
  if bit w 49 then none
  else if x.kind ≤ 1 then some (fld w 0 48 : Nat) else some (sInt 32 (fld w 0 32))

/-- The value enters the block, or counts in MISS. -/
def ItemBlk.take (m : ItemBlk) (x : Item) (v : Option Int) (key : Nat) : ItemBlk :=
  match v with
  | some v => m.contribute x v key
  | none => { m with miss := m.miss + 1 }

/-- The block of item `i` over the present buoys' cut vectors, and the lantern's own value. -/
def leafBlock (g : Image) (trunk : Nat) (vecs : Tab (List DWord)) (litems : List Word) (i : Nat) :
    ItemBlk :=
  let x := imgItem g i
  if x.kind ≤ 3 then
    vecs.foldl (fun m e =>
      m.take x (itemVal x (wordAt e.2 i)) (contribKey false (trunk * 256 + e.1))) (x.block i)
  else
    let v := f32ToFix 64 x.frac (litems.getD (i - imgNBuoyItems g) f32NaN)
    (x.block i).take x (v.map (·.1)) (contribKey true (trunk * 256))

/-- Some lantern item was saturated. -/
def leafInexact (g : Image) (litems : List Word) : Bool :=
  (List.range (imgNItems g)).any fun i =>
    let x := imgItem g i
    decide (x.kind = 4) &&
    match f32ToFix 64 x.frac (litems.getD (i - imgNBuoyItems g) f32NaN) with
    | some (_, s) => s
    | none => false

/-- A field of an item's block as the tree engine and the series store read it (R315, R353): 0 SUM,
1 CNT, 2 MIN v, 3 MAX v, 4 the partial's ABSENT. None where the item, or the operation the field names, is
not present, or VALID is 0. -/
def partField (a : Part) (item f : Nat) : Option Int :=
  match a.items.find? fun m => decide (m.item = item) with
  | some m =>
    if f = 0 then (if m.ops.testBit 0 then some (satS 64 m.sum) else none)
    else if f = 1 then (if m.ops.testBit 0 then some m.cnt else none)
    else if f = 2 then (if m.ops.testBit 1 then m.mn.map (·.1) else none)
    else if f = 3 then (if m.ops.testBit 2 then m.mx.map (·.1) else none)
    else if f = 4 then some a.absent
    else none
  | none => none

/-- Selecting field `f` saturates it (R315): a SUM outside the signed 64-bit range. -/
def partSat (a : Part) (item f : Nat) : Bool :=
  match a.items.find? fun m => decide (m.item = item) with
  | some m => decide (f = 0) && m.ops.testBit 0 && decide (satS 64 m.sum ≠ m.sum)
  | none => false

/-- No present die contributed to the item (Table 13.1: MISS equals CNT plus MISS). -/
def partEmpty (a : Part) (item : Nat) : Bool :=
  match a.items.find? fun m => decide (m.item = item) with
  | some m => decide (m.cnt = 0)
  | none => true

end Sys2Proof.Machine
end

