-- ==== Sys2Proof/Machine/SeqMath.lean ====
section
/-! DEFINITION. Sequence models and the arithmetic of the four modes FILTER, SCORE, SEARCH and STATS,
over a range of samples (spec/15 R363 to R380). -/

namespace Sys2Proof.Machine

/-! ### The model (Tables 15.2 and 15.3) -/

def modKind (g : List DWord) : Nat := fld (wordAt g 0) 16 8
def modLen (g : List DWord) : Nat := fld (wordAt g 0) 32 32
def modId (g : List DWord) : Nat := fld (wordAt g 1) 0 32
def modAL (g : List DWord) : Nat := fld (wordAt g 1) 32 4
def modStateOut (g : List DWord) : Bool := bit (wordAt g 1) 36
def modNCh (g : List DWord) : Nat := fld (wordAt g 1) 37 9
def modNLayer (g : List DWord) : Nat := fld (wordAt g 1) 46 4
def modQ (g : List DWord) : Nat := fld (wordAt g 1) 50 13
def modOfs (g : List DWord) : Word := BitVec.ofNat 32 (fld (wordAt g 2) 0 32)
def modScl (g : List DWord) : Word := BitVec.ofNat 32 (fld (wordAt g 2) 32 32)
def modThr (g : List DWord) : Word := BitVec.ofNat 32 (fld (wordAt g 3) 0 32)
def modHistLo (g : List DWord) : Int := (wordAt g 2).toInt
def modHistWsh (g : List DWord) : Nat := fld (wordAt g 3) 0 6
def modFrac (g : List DWord) : Nat := fld (wordAt g 3) 6 6
def modTarget (g : List DWord) : Int := (wordAt g 4).toInt
def modSlack (g : List DWord) : Nat := (wordAt g 5).toNat
def modH (g : List DWord) : Nat := (wordAt g 6).toNat

/-- `n` FP32 items from word `at_` on. -/
def f32Items (g : List DWord) (at_ n : Nat) : List Word :=
  let ws := g.drop at_
  (List.range n).map fun i => BitVec.ofNat 32 (item32 ws i)

/-- Words that `n` FP32 items take. -/
def f32Words (n : Nat) : Nat := (n + 1) / 2

/-- A layer of a SCORE model; its matrices hold the 16-bit or 8-bit items, row by row. -/
structure Layer where
  w : Nat
  wIn : Nat
  int8 : Bool
  res : Bool
  invZ : Word
  invH : Word
  a : List Word
  bias : List Word
  bp : List Word
  m : List Word
  k : List Word
  sb : List Word
  sc : List Word
  bm : List (List Nat)
  cm : List (List Nat)
  deriving DecidableEq, Repr

/-- A matrix of `rows` rows of `cols` items of `bits` bits from word `at_` on. -/
def matItems (g : List DWord) (at_ bits rows cols : Nat) : List (List Nat) :=
  let ws := g.drop at_
  let per := 64 / bits
  (List.range rows).map fun r => (List.range cols).map fun c =>
    let i := r * cols + c
    fld (wordAt ws (i / per)) (bits * (i % per)) bits

/-- Words that a matrix takes. -/
def matWords (bits n : Nat) : Nat := (n * bits + 63) / 64

/-- The layer at word `at_`, and the word behind it. -/
def layerAt (g : List DWord) (at_ wIn : Nat) : Layer × Nat :=
  let w0 := wordAt g at_
  let w := fld w0 0 9
  let int8 := bit w0 9
  let i := at_ + 2
  let n := f32Words w
  let bits := if int8 then 8 else 16
  let iM := i + 2 * n + 32 + 32 + 32
  let iB := if int8 then iM + 2 * n else iM
  let iC := iB + matWords bits (w * wIn)
  ({ w := w, wIn := wIn, int8 := int8, res := bit w0 10,
     invZ := BitVec.ofNat 32 (fld w0 32 32), invH := BitVec.ofNat 32 (fld (wordAt g (at_ + 1)) 0 32),
     a := f32Items g i w, bias := f32Items g (i + n) w,
     bp := f32Items g (i + 2 * n) 63, m := f32Items g (i + 2 * n + 32) 64,
     k := f32Items g (i + 2 * n + 64) 64,
     sb := if int8 then f32Items g iM w else [], sc := if int8 then f32Items g (iM + n) w else [],
     bm := matItems g iB bits w wIn, cm := matItems g iC bits w w },
   iC + matWords bits (w * w))

/-- The layers from word `at_` on, and the word behind them. -/
def layersFrom (g : List DWord) : Nat → Nat → Nat → List Layer × Nat
  | 0, i, _ => ([], i)
  | n + 1, i, wIn =>
    let x := layerAt g i wIn
    let r := layersFrom g n x.2 x.1.w
    (x.1 :: r.1, r.2)

/-- The layers of a SCORE model. -/
def modLayers (g : List DWord) : List Layer := (layersFrom g (modNLayer g) 8 1).1

/-- State values of a model. -/
def modStates (g : List DWord) : Nat :=
  if modKind g = 2 then modNCh g
  else if modKind g = 3 then (modLayers g).foldl (fun a x => a + x.w) 0
  else 0

/-- Words of the body that the model's kind and header give. -/
def modBody (g : List DWord) : Nat :=
  if modKind g = 2 then 3 * f32Words (modNCh g) + 1
  else if modKind g = 3 then (layersFrom g (modNLayer g) 8 1).2 - 8
  else if modKind g = 5 then f32Words (modQ g)
  else 0

/-- A header or layer field outside its range, or nonzero where the kind does not use it; a body of
another length (check 2 of Table 15.4). -/
def modBad2 (g : List DWord) (len : Nat) : Bool :=
  let kd := modKind g
  let w1 := wordAt g 1
  let live := decide (kd = 2 ∨ kd = 3)
  decide (len < 64 ∨ fld (wordAt g 0) 0 16 ≠ 0x0201 ∨ kd < 2 ∨ 5 < kd ∨ modLen g ≠ len) ||
  (!live && decide (fld w1 32 5 ≠ 0)) || decide (14 < modAL g) ||
  (if kd = 2 then decide (modNCh g = 0 ∨ 256 < modNCh g) else decide (modNCh g ≠ 0)) ||
  (if kd = 3 then decide (modNLayer g = 0 ∨ 8 < modNLayer g) else decide (modNLayer g ≠ 0)) ||
  (if kd = 5 then decide (modQ g = 0 ∨ 4096 < modQ g) else decide (modQ g ≠ 0)) ||
  (if live then false
   else if kd = 4 then decide (32 < modFrac g ∨ fld (wordAt g 3) 12 20 ≠ 0)
   else decide (wordAt g 2 ≠ 0 ∨ fld (wordAt g 3) 0 32 ≠ 0)) ||
  (if kd = 4 then
    decide (modTarget g < -(2 ^ 47) ∨ 2 ^ 47 ≤ modTarget g ∨ 2 ^ 47 < modSlack g ∨ modH g = 0 ∨
      2 ^ 56 < modH g)
   else decide (wordAt g 4 ≠ 0 ∨ wordAt g 5 ≠ 0 ∨ wordAt g 6 ≠ 0)) ||
  (decide (kd = 3) && (modLayers g).any (fun x => decide (x.w = 0 ∨ 256 < x.w))) ||
  decide (len ≠ 64 + 8 * modBody g)

/-- The values rise strictly. -/
def rising : List Word → Bool
  | a :: b :: t => f32Lt a b && rising (b :: t)
  | _ => true

/-- Values of the query less its first (R372). -/
def queryRel (q : List Word) : List Word := q.map fun x => f32Sub x (q.headD 0)

/-- The query's mean and spread. -/
def queryStat (q : List Word) : Word × Word :=
  let a := queryRel q
  let n := f32OfInt q.length
  let mq := f32Div (tsum a) n
  let vq := f32Sub (f32Div (tsum (a.map fun x => f32Mul x x)) n) (f32Mul mq mq)
  (mq, f32Sqrt (if f32Lt 0 vq then vq else 0))

/-- The query is flat. -/
def queryFlat (q : List Word) : Bool := f32IsZero (queryStat q).2

/-- The query of a QUERY model. -/
def modQuery (g : List DWord) : List Word := f32Items g 8 (modQ g)

/-- Check 6 of Table 15.4. -/
def modBad6 (g : List DWord) : Bool :=
  let bad := fun (xs : List Word) => xs.any fun x => !f32Finite x
  let hdr := [modOfs g, modScl g, modThr g]
  if modKind g = 2 then
    let n := modNCh g
    let k := f32Words n
    bad hdr || bad (f32Items g 8 n) || bad (f32Items g (8 + k) n) || bad (f32Items g (8 + 2 * k) n)
      || bad (f32Items g (8 + 3 * k) 1)
  else if modKind g = 3 then
    bad hdr || (modLayers g).any fun x =>
      bad x.a || bad x.bias || bad x.bp || bad x.m || bad x.k || bad x.sb || bad x.sc ||
      bad [x.invZ, x.invH] || !rising x.bp || (x.res && decide (x.w ≠ x.wIn)) ||
      (x.int8 && (!f32Lt 0 x.invZ || !f32Lt 0 x.invH))
  else if modKind g = 5 then bad (modQuery g) || queryFlat (modQuery g)
  else false

/-! ### Samples (R363, R364) -/

/-- The fill sample of a type: 0 S32, 1 U32, 2 F32 (R316). -/
def fillWord (ty : Nat) : Word :=
  if ty = 0 then 0x80000000 else if ty = 1 then 0xFFFFFFFF else f32NaN

/-- The sample is a fill. -/
def isFill (ty : Nat) (x : Word) : Bool :=
  if ty = 2 then f32IsNaN x else decide (x = fillWord ty)

/-- The integer of an S32 or U32 sample. -/
def sampleInt (ty : Nat) (x : Word) : Int := if ty = 0 then x.toInt else (x.toNat : Int)

/-- A sample as FP32. -/
def cvt (ty : Nat) (x : Word) : Word := if ty = 2 then x else f32OfInt (sampleInt ty x)

/-- A sample with its number. -/
abbrev Samples := List (Word × Word)

/-- Fills in a range. -/
def nFill (ty : Nat) (xs : Samples) : Nat := (xs.filter fun x => isFill ty x.2).length

/-! ### FILTER and SCORE (R364 to R369) -/

/-- One sample of a FILTER: state and output. -/
def filterStep (g : List DWord) (u : Word) (h : List Word) : List Word × Word :=
  let n := modNCh g
  let k := f32Words n
  let a := f32Items g 8 n
  let bc := f32Items g (8 + k) n
  let c := f32Items g (8 + 2 * k) n
  let d := BitVec.ofNat 32 (fld (wordAt g (8 + 3 * k)) 0 32)
  let h := (List.range n).map fun i =>
    f32Add (f32Mul (a.getD i 0) (h.getD i 0)) (f32Mul (bc.getD i 0) u)
  let p := (List.range n).map fun i => f32Mul (c.getD i 0) (h.getD i 0)
  (h, f32Add (tsum p) (f32Mul d u))

/-- The product of a matrix row with a vector (R366). -/
def rowOf (int8 : Bool) (row : List Nat) (v : List Word) (inv s : Word) : Word :=
  let n := row.length
  if int8 then
    let x : Int := (List.range n).foldl (fun a j =>
      a + sInt 8 (row.getD j 0) * q8 (v.getD j 0) inv) 0
    f32Mul (f32OfInt x) s
  else tsum ((List.range n).map fun j =>
    f32Mul (wide (row.getD j 0)) (wide (bf16 (v.getD j 0))))

/-- The activation (R367). -/
def pwl (x : Layer) (p : Word) : Word :=
  if f32IsNaN p then f32NaN
  else
    let s := (x.bp.takeWhile fun b => !f32Lt p b).length
    f32Add (f32Mul (x.m.getD s 0) p) (x.k.getD s 0)

/-- One layer on one sample: state and output. -/
def layerStep (x : Layer) (h z : List Word) : List Word × List Word :=
  let h := (List.range x.w).map fun k =>
    f32Add (f32Mul (x.a.getD k 0) (h.getD k 0))
      (rowOf x.int8 (x.bm.getD k []) z x.invZ (x.sb.getD k 0))
  let out := (List.range x.w).map fun k =>
    let p := f32Add (rowOf x.int8 (x.cm.getD k []) h x.invH (x.sc.getD k 0)) (x.bias.getD k 0)
    pwl x (if x.res then f32Add p (z.getD k 0) else p)
  (h, out)

/-- The layers of a SCORE on one sample: state and output vector. -/
def scoreStep : List Layer → List Word → List Word → List Word × List Word
  | [], _, z => ([], z)
  | x :: t, h, z =>
    let r := layerStep x (h.take x.w) z
    let s := scoreStep t (h.drop x.w) r.2
    (r.1 ++ s.1, s.2)

/-- One sample of a FILTER or SCORE: the state after it, and its output. -/
def modStep (g : List DWord) (ls : List Layer) (ty : Nat) (h : List Word) (n x : Word) :
    List Word × Word :=
  let h := if n.toNat % (256 * 2 ^ modAL g) = 0 then List.replicate h.length 0 else h
  if isFill ty x then (h, f32NaN)
  else
    let u := f32Mul (f32Sub (cvt ty x) (modOfs g)) (modScl g)
    if modKind g = 2 then filterStep g u h
    else
      let r := scoreStep ls h [u]
      (r.1, r.2.headD 0)

/-- A range run through a model: the final state, and the outputs with their sample numbers. -/
def modRun (g : List DWord) (ls : List Layer) (ty : Nat) :
    List Word → Samples → List Word × Samples
  | h, [] => (h, [])
  | h, (n, x) :: t =>
    let r := modStep g ls ty h n x
    let s := modRun g ls ty r.1 t
    (s.1, (n, r.2) :: s.2)

/-- The earliest of the outputs that stand first under `before`. -/
def extreme (before : Nat → Nat → Bool) (ys : Samples) : Word × Word :=
  (ys.foldl (fun (a : Option (Word × Word)) y =>
    match a with
    | some b => if before (f32Ord y.2) (f32Ord b.2) then some y else a
    | none => some y) none).getD (0, 0)

/-- The body of a FILTER or SCORE record (R368, Table 15.7). -/
def liveBody (g : List DWord) (h : List Word) (ys : Samples) : List DWord :=
  let outs := ys.filter fun y => !f32IsNaN y.2
  let above := outs.filter fun y => f32Lt (modThr g) y.2
  let last := match ys.getLast? with
    | some y => y.2
    | none => f32NaN
  let mx := extreme (fun a c => decide (c < a)) outs
  let mn := extreme (fun a c => decide (a < c)) outs
  let st := if modStateOut g then h else []
  [packW [(0, outs.length), (32, above.length)],
   packW [(0, last.toNat), (32, (above.headD (0, 0)).1.toNat)],
   packW [(0, mx.2.toNat), (32, mx.1.toNat)],
   packW [(0, mn.2.toNat), (32, mn.1.toNat)],
   packW [(0, st.length)]] ++ pack32 (st.map (·.toNat))

/-! ### SEARCH (R371 to R374) -/

/-- Samples relative to REF, as FP32 and, for integers, exactly. -/
def relTo (ty : Nat) (ref x : Word) : Word × Int :=
  if ty = 2 then (f32Sub x ref, 0)
  else
    let d := sampleInt ty x - sampleInt ty ref
    (f32OfInt d, d)

/-- Mean and spread of a subsequence (R373). -/
def subStat (ty : Nat) (xs : List (Word × Int)) : Word × Word :=
  let q := xs.length
  if ty = 2 then
    let c := xs.map (·.1)
    let n := f32OfInt q
    let m := f32Div (tsum c) n
    let v := f32Sub (f32Div (tsum (c.map fun x => f32Mul x x)) n) (f32Mul m m)
    (m, f32Sqrt (if f32Lt 0 v then v else 0))
  else
    let s1 := xs.foldl (fun a x => a + x.2) 0
    let s2 := xs.foldl (fun a x => a + x.2 * x.2) 0
    let v := ((q : Int) * s2 - s1 * s1).toNat
    (f32Round (decide (s1 < 0)) (s1.natAbs <<< 149) q, f32Sqrt (f32Round false (v <<< 149) (q * q)))

/-- The distance of a subsequence; none when a value is not finite. -/
def distOf (ty : Nat) (qh : List Word) (sh : Word) (xs : List (Word × Int)) : Option Word :=
  let q := qh.length
  let st := subStat ty xs
  let pr := (List.range q).map fun j => f32Mul (qh.getD j 0) (xs.getD j (0, 0)).1
  let num := f32Sub (tsum pr) (f32Mul st.1 sh)
  let rho := if f32IsZero st.2 then 0 else f32Div num (f32Mul (f32OfInt q) st.2)
  let e := f32Mul (f32OfInt (2 * q)) (f32Sub 0x3F800000 rho)
  let d := f32Sqrt (if f32Lt 0 e then e else 0)
  if f32Finite num ∧ f32Finite rho ∧ f32Finite d then some d else none

/-- The candidates of a range, with the sample number of each and its distance. -/
def candidates (ty : Nat) (qh : List Word) (sh ref : Word) : Nat → Samples → List (Word × Word)
  | 0, _ => []
  | k + 1, xs =>
    let sub := xs.take qh.length
    let rest := candidates ty qh sh ref k (xs.drop 1)
    if sub.any fun x => isFill ty x.2 then rest
    else
      match distOf ty qh sh (sub.map fun x => relTo ty ref x.2) with
      | some d => ((xs.headD (0, 0)).1, d) :: rest
      | none => rest

/-- The body of a SEARCH record (Table 15.8). -/
def searchBody (ty : Nat) (q : List Word) (xs : Samples) : List DWord :=
  let st := queryStat q
  let qh := (queryRel q).map fun a => f32Div (f32Sub a st.1) st.2
  let offs := xs.length + 1 - q.length
  let cands := match xs.find? fun x => !isFill ty x.2 with
    | some r => candidates ty qh (tsum qh) r.2 offs xs
    | none => []
  let best := mergeTop (fun (a c : Word × Word) => decide (a.2.toNat < c.2.toNat)) 16 []
    cands
  let best := best.map fun x => packW [(0, x.1.toNat), (32, x.2.toNat)]
  [packW [(0, best.length), (32, offs - cands.length)], packW [(0, q.length), (32, cands.length)]]
    ++ best ++ List.replicate (16 - best.length) 0

/-! ### STATS (R375 to R377) -/

/-- The running values of STATS. -/
structure Stat where
  n : Nat
  nsat : Nat
  sum : Int
  sumsq : Nat
  mn : Option (Int × Word)
  mx : Option (Int × Word)
  hist : List Nat
  sp : Int
  sn : Int
  up : Nat
  dn : Nat
  firstUp : Word
  firstDn : Word
  deriving DecidableEq, Repr

/-- STATS before the first sample. -/
def stat0 : Stat := ⟨0, 0, 0, 0, none, none, List.replicate 32 0, 0, 0, 0, 0, 0, 0⟩

/-- One value of STATS. -/
def statStep (g : List DWord) (s : Stat) (n : Word) (v : Int) (sat : Bool) : Stat :=
  let e := v - modTarget g
  let sp := max 0 (s.sp + e - modSlack g)
  let sn := max 0 (s.sn - e - modSlack g)
  let up := decide ((modH g : Int) < sp)
  let dn := decide ((modH g : Int) < sn)
  { n := s.n + 1, nsat := s.nsat + b2n sat, sum := s.sum + v, sumsq := s.sumsq + v.natAbs * v.natAbs,
    mn := match s.mn with
      | some a => if v < a.1 then some (v, n) else s.mn
      | none => some (v, n),
    mx := match s.mx with
      | some a => if a.1 < v then some (v, n) else s.mx
      | none => some (v, n),
    hist := ItemBlk.contribute.updAtNat (binOf v (modHistLo g) (modHistWsh g)) s.hist,
    sp := if up then 0 else sp, sn := if dn then 0 else sn,
    up := s.up + b2n up, dn := s.dn + b2n dn,
    firstUp := if up ∧ s.up = 0 then n else s.firstUp,
    firstDn := if dn ∧ s.dn = 0 then n else s.firstDn }

/-- STATS over a range. -/
def statRun (g : List DWord) (ty : Nat) (xs : Samples) : Stat :=
  xs.foldl (fun s x =>
    if isFill ty x.2 then s
    else if ty = 2 then
      match f32ToFix 48 (modFrac g) x.2 with
      | some (v, sat) => statStep g s x.1 v sat
      | none => s
    else statStep g s x.1 (sampleInt ty x.2) false) stat0

/-- The body of a STATS record (Table 15.9). -/
def statBody (s : Stat) : List DWord :=
  let u := toU 128 s.sum
  let mn := s.mn.getD (0, 0)
  let mx := s.mx.getD (0, 0)
  [packW [(0, s.n), (32, s.nsat)], BitVec.ofNat 64 u, BitVec.ofNat 64 (u / 2 ^ 64),
   BitVec.ofNat 64 s.sumsq, BitVec.ofNat 64 (s.sumsq / 2 ^ 64),
   BitVec.ofInt 64 mn.1, BitVec.ofInt 64 mx.1, packW [(0, mn.2.toNat), (32, mx.2.toNat)]]
  ++ pack32 s.hist
  ++ [BitVec.ofInt 64 s.sp, BitVec.ofInt 64 s.sn, packW [(0, s.up), (32, s.dn)],
      packW [(0, s.firstUp.toNat), (32, s.firstDn.toNat)]]

end Sys2Proof.Machine
end

