-- ==== Sys2Proof/Machine/SeqQueue.lean ====
section
/-! DEFINITION. Series and model slots as every unit reads them, and the queries of the sequence engine that wait
for it (spec/13 R320, R321; spec/14 R341; spec/15 R381, R383). -/

namespace Sys2Proof.Machine

/-! ### Series -/

/-- Series `s`. -/
def Live.sery (l : Live) (s : Nat) : Ser := Tab.getD l.ser.sers s ser0

/-- Series `s` changed by `f`. -/
def Live.updSer (l : Live) (s : Nat) (f : Ser → Ser) : Live :=
  { l with ser := { l.ser with sers := Tab.upd l.ser.sers s ser0 f } }

/-- NBLK of series `s`. -/
def Live.serNblk (l : Live) (b : Build) (s : Nat) : Nat := l.get b F.SER_CFG_NBLK_M1 s + 1

/-- The later of two sample numbers by serial order (R37). -/
def laterOf (a c : Word) : Word := if seqLater a c then a else c

/-- The first sample of the readable window: the later of S0 and COMMIT − 256 × NBLK (R320). -/
def Live.serFirst (l : Live) (b : Build) (s : Nat) : Word :=
  let x := l.sery s
  laterOf (x.commit - BitVec.ofNat 32 (l.serNblk b s * 256)) x.s0

/-! ### Model slots -/

/-- An empty slot. -/
def slot0 : Slot := ⟨[], false⟩

/-- Tree slot `k`. -/
def Live.tree (l : Live) (k : Nat) : Slot := Tab.getD l.eng.trees k slot0

/-- Sequence slot `k`. -/
def Live.seqm (l : Live) (k : Nat) : Slot := Tab.getD l.eng.seqs k slot0

/-- Slot `k` of an engine. -/
def Live.slot (l : Live) (isSeq : Bool) (k : Nat) : Slot := if isSeq then l.seqm k else l.tree k

/-- Slot `k` of an engine set. -/
def Live.setSlot (l : Live) (isSeq : Bool) (k : Nat) (x : Slot) : Live :=
  if isSeq then { l with eng := { l.eng with seqs := Tab.set l.eng.seqs k slot0 x } }
  else { l with eng := { l.eng with trees := Tab.set l.eng.trees k slot0 x } }

/-- The slot holds a model that may be used. -/
def Slot.ready (x : Slot) : Bool := !x.loading && decide (x.image ≠ [])

/-- The kind of model that a mode needs. -/
def modeKind (mode : Nat) : Nat := if mode = 3 then 5 else mode + (if mode = 4 then 0 else 1)

/-! ### Queries that wait (R381, R383) -/

/-- The window of `n` samples from `first` on lies within the readable window (R320, R321). -/
def Live.readable (l : Live) (b : Build) (s : Nat) (first : Word) (n : Nat) : Bool :=
  let w := l.serFirst b s
  decide ((first - w).toNat + n ≤ ((l.sery s).commit - w).toNat)

/-- The sample that the 24-bit field `f` names (R321). -/
def Live.sampleOf (l : Live) (s f : Nat) : Word :=
  let c := (l.sery s).commit - 1
  c - BitVec.ofNat 32 ((c.toNat + (4294967296 - f)) % 16777216)

/-- The query samples of a SEARCH. -/
def querySamples (p : Packet) : List Word :=
  (List.range (fld (wordAt p.data 2) 0 13)).map fun i => BitVec.ofNat 32 (item32 (p.data.drop 3) i)

/-- The checks of R381, made when the job starts; the samples a field names are looked for only in an
enabled series. -/
def Live.seqQueryErr (l : Live) (b : Build) (p : Packet) (barred : Bool) : Option Nat :=
  let mode := p.aBits 0 3
  let k := l.seqm (p.aBits 4 4)
  let s := fld (wordAt p.data 0) 0 16
  let n := fld (wordAt p.data 1) 0 23
  let q := querySamples p
  let len := p.data.length
  let on := (l.sery s).on
  firstErr [
    (if mode = 3 then decide (len ≠ 3 + (q.length + 1) / 2)
     else decide (1 ≤ mode ∧ mode ≤ 4 ∧ len ≠ 2), eLen),
    (!l.flag b F.UNIT_EN_L_SEQ, eGated),
    (decide (mode = 0 ∨ 4 < mode ∨ n = 0 ∨ 4194304 < n) ||
      (decide (mode = 3) && (decide (q = [] ∨ 4096 < q.length ∨ n < q.length) ||
        q.any (fun x => !f32Finite x) || queryFlat q)) ||
      (on && !l.readable b s (l.sampleOf s (fld (wordAt p.data 0) 16 24)) n), eRange),
    (!on || (decide (mode ≠ 3) && (barred || !k.ready || decide (modKind k.image ≠ modeKind mode))),
      eState)]

/-- An occurrence of a sequence action may run (R383). -/
def Plan.seqReady (x : Plan) : Bool :=
  x.occs.any fun o => !o.waiting && decide ((imgAction x.image o.entry).engine = 1)

/-- Queries that wait start in their order until one runs; actions that may run go first (R383). -/
def Live.seqNext (l : Live) (b : Build) : Nat → Live
  | 0 => l
  | fuel + 1 =>
    match l.eng.job, l.eng.waits, l.plans.any fun e => e.2.seqReady with
    | none, w :: rest, false =>
      let l := { l with eng := { l.eng with waits := rest } }
      match l.seqQueryErr b w.p w.barred with
      | some e => (l.reply b w.r e).seqNext b fuel
      | none =>
        let s := fld (wordAt w.p.data 0) 0 16
        let mode := w.p.aBits 0 3
        let j : SeqJob := {
          r := w.r, lost := false, mode := mode, slot := if mode = 3 then 0 else w.p.aBits 4 4,
          series := s, first := l.sampleOf s (fld (wordAt w.p.data 0) 16 24),
          len := fld (wordAt w.p.data 1) 0 23, q := if mode = 3 then querySamples w.p else [],
          gen := l.gen s }
        { l with eng := { l.eng with job := some j } }
    | _, _, _ => l

/-- The engine turns to its queries, when no job holds it. -/
def Live.seqTurn (l : Live) (b : Build) : Live := l.seqNext b l.eng.waits.length

end Sys2Proof.Machine
end

