-- ==== Sys2Proof/Machine/Boot.lean ====
section
/-! DEFINITION. Reset and start-up: the reset kinds, the boot phases, the calibration intake and the
calibrated quantities (spec/05). -/

namespace Sys2Proof.Machine

/-! ### What is running -/

/-- The REG island is out of reset and clocked: the register port serves requests (R135, R138). -/
def Live.regOpen (l : Live) : Bool :=
  !l.boot.held && decide (2 ≤ l.boot.phase) && decide (l.pwr.st = .run ∨ l.pwr.st = .idle)
    && !l.pwr.ramping

/-- READY, and in a state in which every island but CORE runs (Table 20.1). -/
def Live.awake (l : Live) : Bool :=
  l.boot.ready && decide (l.pwr.st = .run ∨ l.pwr.st = .idle)

/-- The AON island runs. -/
def Live.aonOn (l : Live) : Bool := !l.boot.held && decide (l.pwr.st ≠ .off)

/-- READY, and the TIME island runs. -/
def Live.timeOn (l : Live) : Bool :=
  l.boot.ready && decide (l.pwr.st = .run ∨ l.pwr.st = .idle ∨ l.pwr.st = .sleep)

/-- A command whose effect on the live state is `f`, where the block is awake; it does nothing
elsewhere (log entry 12). -/
def State.runAwake (s : State) (f : Build → Live → Live) : Host.Outcome State Fault Refusal :=
  s.run fun b l => if l.awake then f b l else l

/-! ### Calibration -/

/-- Words that hold a gain (Table 5.5). -/
def isGain (b : Build) (i : Nat) : Bool :=
  decide (i = 1) || (b.buoy && decide (i % 2 = 0) && decide (8 ≤ i ∧ i < 56))

/-- The default of word `i` (R71). -/
def calDefault (b : Build) (i : Nat) : Word := if isGain b i then 0x8000 else 0

/-- The mirror CALF: word `i` as read, or its default. -/
def Live.calF (l : Live) (b : Build) (i : Nat) : Word :=
  match l.cal.calf with
  | some t => Tab.getD t i 0
  | none =>
    if l.boot.calIdx = none then calDefault b i else Tab.getD l.cal.intake i (calDefault b i)

/-- User correction `i`. -/
def Live.calU (l : Live) (i : Nat) : Word := Tab.getD l.cal.calu i 0

/-- Indices with a user correction: those whose word has a meaning (Tables 5.5 and 5.6). -/
def calUsable (b : Build) (i : Nat) : Bool :=
  decide (i = 1 ∨ i = 2) || (b.buoy && decide (8 ≤ i ∧ i < 56)) || decide (i = 64 ∨ i = 65) ||
  (b.lantern && decide (64 ≤ i ∧ i < 128))

/-- `cal_out` of R144 for the gain at word `g` and the offset at word `o`. -/
def Live.calOut (l : Live) (b : Build) (raw : Int) (g o : Nat) : Int :=
  let gain : Int := (l.calF b g).toNat + (l.calU g).toInt
  satS 32 (asr (raw * gain) 15 + (l.calF b o).toInt + (l.calU o).toInt)

/-- A port delay of word `i` in ns (R144: raw 0). -/
def Live.calDelay (l : Live) (b : Build) (i : Nat) : Int :=
  satS 32 ((l.calF b i).toInt + (l.calU i).toInt)

/-- The oscillator baseline, clamped (R144). -/
def Live.baseline (l : Live) (b : Build) : Nat :=
  let v := l.calOut b 0x200 1 2
  if v < 0 then 0 else min v.toNat 1023

/-! ### The logbook after a reset -/

/-- The logbook is initialised: the attic copy comes back with RET set and nothing selected, then the early
events (R419, R424). -/
def Live.logInit (l : Live) (b : Build) : Live :=
  let early := l.boot.early
  let attic := l.log.attic.map fun e => { e with sel := false }
  let ents := attic.map fun e => { e with restored := true }
  let newest := match ents.getLast? with | some e => e.lseq | none => l.log.newest
  let l := { l with
    log := { l.log with ents := ents, attic := attic, live := true, newest := newest },
    boot := { l.boot with early := [] } }
  early.foldl (fun l e => l.logWrite b e) l

/-! ### GLB_BOOT -/

/-- GLB_BOOT as one word (Table 5.3). CAL_DEFAULT shows that the defaults of R71 apply (R143). -/
def Live.glbBoot (l : Live) (b : Build) : Nat :=
  l.boot.phase + 16 * b2n l.boot.ready
  + (l.get b F.GLB_BOOT_ROM_FAIL <<< 5) + (l.get b F.GLB_BOOT_ECC_FAIL <<< 6)
  + (l.get b F.GLB_BOOT_SRAM_FAIL <<< 7)
  + (b2n (l.cal.calf.isNone && decide (3 ≤ l.boot.phase)) <<< 8)
  + (l.get b F.GLB_BOOT_CAL_CRC <<< 9) + (l.get b F.GLB_BOOT_CORE_OSC <<< 10)
  + (l.get b F.GLB_BOOT_REG_OSC <<< 11) + (l.get b F.GLB_BOOT_ENG_NOCLK <<< 12)
  + (l.get b F.GLB_BOOT_BOOT_T <<< 16)

/-- Enter a time state. -/
def Live.setTState (l : Live) (t : TState) : Live :=
  { l with time := { l.time with state := t } }

/-- TIME_STAT.STATE. -/
def TState.code : TState → Nat
  | .free => 0
  | .acquire => 1
  | .locked => 2
  | .holdover => 3

/-- LOCKED entered (Table 17.2, event 0x0305); the 1 ms tick starts at the first entry (R113). -/
def Live.enterLocked (l : Live) (b : Build) : Live :=
  if l.time.state = .locked then l
  else
    let l := l.logE b 0x0305 1 [l.time.state.code]
    { l with time := { l.time with
        state := .locked, everLocked := true,
        msAcc := if l.time.everLocked then l.time.msAcc else 0 } }

/-- The lantern runs freely (R116). -/
def Live.freerun (l : Live) (b : Build) : Bool := b.lantern && l.flag b F.TIME_CFG_FREERUN

/-- FREERUN puts the lantern in LOCKED at once, on TIME_INC without correction (R116). -/
def Live.applyFreerun (l : Live) (b : Build) : Live :=
  if l.freerun b ∧ l.boot.ready then
    { l with time := { l.time with slew := 0 } }.enterLocked b
  else l

/-- READY (R141), `cycles` AON cycles after reset release. GEN of every source goes up after a soft
reset and on leaving DEEP (R33); FREERUN acts at once (R116). -/
def Live.ready (l : Live) (b : Build) (cycles : Nat) : Live :=
  let l := l.put b F.GLB_BOOT_BOOT_T (min (cycles / 1024) 0xFFFF)
  let l := l.put b F.GLB_BOOT_CORE_OSC (b2n (!l.clk.coreOn))
  let l := l.put b F.GLB_BOOT_REG_OSC (b2n (!l.clk.regOn))
  let l := l.logInit b
  let l := if l.boot.kind = .cold then l else { l with genBase := (l.genBase + 1) % 256 }
  let l := { l with boot := { l.boot with phase := 6, ready := true },
                    pwr := { l.pwr with isoEn := false, retEn := false },
                    time := { l.time with state := .free } }
  (l.logE b 0x0101 1 [l.glbBoot b]).applyFreerun b

/-- A failed boot check (R140): the flag, PHASE 0xF, the keeper halts, early events are discarded. -/
def Live.bootFail (l : Live) (b : Build) (fs : List Fld) : Live :=
  let l := fs.foldl (fun l f => l.put b f 1) l
  { l with boot := { l.boot with phase := 15, ready := false, early := [] } }

/-! ### Phase 3 -/

/-- The trim source in force (R102): none holds the code, as does OVR. -/
def Live.trimSrc (l : Live) (b : Build) : Option TrimSrc :=
  let src := l.get b F.OSC_CFG_SRC
  if l.flag b F.OSC_CFG_OVR ∨ src = 0 then none
  else if src = 1 then some .clkRef
  else if src = 2 then some .ftTick
  else if l.clk.refOk ∧ l.get b F.OSC_CFG_REFWIN ≠ 0 then some .clkRef
  else if l.time.everLocked then some .ftTick
  else none

/-- The source of the trim window in progress, if one is: REFWIN 0 or no tick yet makes none. -/
def Live.trimWindow (l : Live) (b : Build) : Option TrimSrc :=
  (l.trimSrc b).filter fun s => match s with
    | .clkRef => decide (l.get b F.OSC_CFG_REFWIN ≠ 0)
    | .ftTick => l.time.everLocked

/-- The trim window in progress will be discarded (R102). -/
def Live.spoilWindow (l : Live) (b : Build) : Live :=
  match l.trimWindow b with
  | some s => { l with clk := { l.clk with spoilt := some s } }
  | none => l

/-- Start the switch of an island's source. -/
def Live.startSwitch (l : Live) (b : Build) (i : SwIsland) (port : Bool) : Live :=
  let f := match i with | .core => F.CLK_SEL_CORE_SRC | .reg => F.CLK_SEL_REG_SRC
  let l := l.put b f (b2n port)
  { l with clk := { l.clk with switches := l.clk.switches ++ [(i, port)] } }

/-- The next step of phase 3 (R138): CORE first, then REG, each once its port clock is qualified;
an island left on the oscillator is passed over. A DEEP exit goes from here to READY: it repeats
neither the ROM check nor the march test (R472), and its BOOT_T is a free value. -/
def Live.bootStep (l : Live) (b : Build) : Live :=
  if l.boot.phase ≠ 3 ∨ !l.clk.switches.isEmpty then l
  else if !l.clk.coreOn ∧ !l.flag b F.GLB_BOOT_CORE_OSC then
    if l.clk.coreQual then l.startSwitch b .core true else l
  else if !l.clk.regOn ∧ !l.flag b F.GLB_BOOT_REG_OSC then
    if l.clk.regQual then l.startSwitch b .reg true else l
  else if l.boot.kind = .deep then
    let t := (Config.openValue l.free).toNat
    { l with free := l.free + 1 }.ready b t
  else { l with boot := { l.boot with phase := 4 } }

/-- The end of phase 2: the baseline of the words taken, or of the defaults of R71 where none were, becomes
the trim code (Table 5.2). -/
def Live.calDone (l : Live) (b : Build) : Live :=
  let l := { l with boot := { l.boot with phase := 3, calIdx := none }, cal := { l.cal with intake := [] } }
  { l with clk := { l.clk with code := l.baseline b } }.bootStep b

/-! ### The reset kinds (Table 5.1) -/

/-- What a cold reset leaves while `rst_n` is low. Whether `clk_bmon` runs is an input. The record of past
outputs and the count of free values are the model's own and go on. -/
def Live.coldReset (l : Live) : Live :=
  { Live.cold with trace := { Live.cold.trace with clkStop := l.trace.clkStop }, free := l.free, out := l.out }

/-- `rst_n` rises: the static inputs are sampled and phase 1 begins (R66, R136). Each island leaves reset once
its clock runs (R93): the clocks that rows of the table do not tell of count as running (log entry 117). -/
def Live.release (l : Live) (st : Statics) : Live :=
  { l with boot := { l.boot with held := false, st := st, phase := 1, kind := .cold,
                                 bmonRst := l.trace.clkStop } }

/-- The register fields held in the AON island (R491). -/
def aonFields (t : Tab Nat) : Tab Nat :=
  t.filter fun e =>
    let off := e.1 / 65536 / 32
    off = 0x48 || off = 0x4C || off = 0x50 || off = 0x2818 || off = 0x2800 || off = 0x2810
      || off = 0x2814 || off = 0x1CC4

/-- What the AON island keeps over a soft reset and in DEEP (R134, R146, R424, R491, R33). What the cellar's
devices hold poisoned stays so (R431). -/
def Live.aonKept (l : Live) (b : Build) (k : BootKind) : Live :=
  let copy := l.flag b F.LOG_ATTIC_EN
  let c := { Live.cold with
    rf := aonFields l.rf,
    boot := { Live.cold.boot with held := false, st := l.boot.st, phase := 3, kind := k, early := l.boot.early,
                                  bmonRst := l.trace.clkStop },
    clk := { l.clk with coreOn := false, regOn := false, switches := [], waiting := none,
                        acqDone := l.clk.acqDone && decide (k ≠ BootKind.soft) },
    cal := l.cal, trace := { Live.cold.trace with clkStop := l.trace.clkStop },
    gens := l.gens, genBase := l.genBase,
    log := ⟨[], if copy then l.log.next else 0, if copy then l.log.attic else [], 0, false, 0⟩,
    mem := { Live.cold.mem with cel := l.mem.cel },
    free := l.free, out := l.out }
  c.put b F.TRC_STAT_PWR_LOST 1

/-- A soft reset (R134): its boot starts at phase 3. -/
def Live.softReset (l : Live) (b : Build) : Live := (l.aonKept b .soft).bootStep b

/-! ### Commands -/

/-- COLD_RESET (R134). -/
def execColdReset (s : State) : Host.Outcome State Fault Refusal :=
  s.run fun _ l => l.coldReset

/-- RESET_RELEASE (R93): nothing happens unless `rst_n` was low. -/
def execResetRelease (st : Statics) (s : State) : Host.Outcome State Fault Refusal :=
  s.run fun _ l => if l.boot.held then l.release st else l

/-- OSC_QUALIFIED (R100, R138): phase 2 begins, or ends at once without a calibration store. From
here on `clk_ref` counts as present until it is lost (log entry 13). -/
def execOscQualified (s : State) : Host.Outcome State Fault Refusal :=
  s.run fun b l =>
    if l.boot.held ∨ l.boot.phase ≠ 1 then l
    else
      let l := { l with clk := { l.clk with oscQual := true, refOk := true },
                        boot := { l.boot with phase := 2 } }
      if l.boot.st.calPresent then
        { l with boot := { l.boot with calIdx := some 0 } }.emit (.calReq 0)
      else l.calDone b

/-- The words 0 to 254 of an intake, each little-endian, under the CRC-32C of word 255 (Table 5.5). -/
def intakeCrc (t : Tab Word) : Word :=
  crcBytes ((List.range 255).flatMap fun i =>
    let w := (Tab.getD t i (0 : Word)).toNat
    [w % 256, w / 256 % 256, w / 65536 % 256, w / 16777216])

/-- CAL_WORD_ACK (R71, R143). -/
def execCalWordAck (w : Word) (s : State) : Host.Outcome State Fault Refusal :=
  s.run fun b l =>
    match l.boot.calIdx with
    | none => l
    | some i =>
      let t := Tab.insert l.cal.intake i w
      let l := { l with cal := { l.cal with intake := t } }
      if i < 255 then
        { l with boot := { l.boot with calIdx := some (i + 1) } }.emit (.calReq (i + 1))
      else
        let form := (Tab.getD t 0 (0 : Word)).toNat / 256 % 256
        let badForm := decide (form ≠ (if b.buoy then 1 else 2))
        let badCrc := decide (Tab.getD t 255 (0 : Word) ≠ intakeCrc t)
        if badForm ∨ badCrc then
          let l := l.put b F.GLB_BOOT_CAL_CRC 1
          let l := l.logE b 0x0103 3 [b2n badForm + 2 * b2n badCrc]
          l.calDone b
        else { l with cal := { l.cal with calf := some t } }.calDone b

/-- CAL_INTAKE_TIMEOUT (R71). -/
def execCalIntakeTimeout (s : State) : Host.Outcome State Fault Refusal :=
  s.run fun b l =>
    match l.boot.calIdx with
    | none => l
    | some i => (l.logE b 0x0102 3 [i]).calDone b

/-- CLOCK_QUALIFIED (R95). -/
def execClockQualified (i : SwIsland) (s : State) : Host.Outcome State Fault Refusal :=
  s.run fun b l =>
    if !l.aonOn then l
    else match i with
      | .core => { l with clk := { l.clk with coreQual := true } }.bootStep b
      | .reg => { l with clk := { l.clk with regQual := true } }.bootStep b

/-- CLOCK_QUAL_TIMEOUT (R138). -/
def execClockQualTimeout (i : SwIsland) (s : State) : Host.Outcome State Fault Refusal :=
  s.run fun b l =>
    if l.boot.held ∨ l.boot.phase ≠ 3 then l
    else match i with
      | .core =>
        if l.clk.coreQual ∨ l.flag b F.GLB_BOOT_CORE_OSC then l
        else ((l.put b F.GLB_BOOT_CORE_OSC 1).logE b 0x0104 2 [0]).bootStep b
      | .reg =>
        if l.clk.regQual ∨ l.flag b F.GLB_BOOT_REG_OSC then l
        else ((l.put b F.GLB_BOOT_REG_OSC 1).logE b 0x0104 2 [1]).bootStep b

/-- ROM_CHECK (R139). -/
def execRomCheck (romOk eccOk : Bool) (s : State) : Host.Outcome State Fault Refusal :=
  s.run fun b l =>
    if l.boot.held ∨ l.boot.phase ≠ 4 then l
    else if romOk ∧ eccOk then { l with boot := { l.boot with phase := 5 } }
    else l.bootFail b ((if romOk then [] else [F.GLB_BOOT_ROM_FAIL]) ++
      (if eccOk then [] else [F.GLB_BOOT_ECC_FAIL]))

/-- SRAM_TEST (R139, R141). -/
def execSramTest (ok : Bool) (aonCycles : Nat) (s : State) : Host.Outcome State Fault Refusal :=
  s.run fun b l =>
    if l.boot.held ∨ l.boot.phase ≠ 5 then l
    else if ok then l.ready b aonCycles
    else l.bootFail b [F.GLB_BOOT_SRAM_FAIL]

/-- ENG_WAIT_TIMEOUT (R139): in phase 5 of a lantern, or in the phases of its DEEP exit. -/
def execEngWaitTimeout (s : State) : Host.Outcome State Fault Refusal :=
  s.run fun b l =>
    if l.boot.held ∨ b.buoy then l
    else if l.boot.phase = 5 ∨ (l.boot.kind = .deep ∧ l.boot.phase = 3) then
      l.bootFail b [F.GLB_BOOT_ENG_NOCLK]
    else l

end Sys2Proof.Machine
end

