-- ==== Sys2Proof/Machine/Time.lean ====
section
/-! DEFINITION. Fleet time: the counter, steps and slews, the lantern's servo, armed counts, pulse
outputs and quiet windows (spec/04). -/

namespace Sys2Proof.Machine

/-! ### The counter -/

/-- One fleet-time nanosecond in units of the accumulator. -/
def nsUnit : Int := 268435456

/-- The 64-bit extension of fleet time, in units of the accumulator (R111). -/
def Live.ftFull (l : Live) : Int :=
  (l.time.wraps : Int) * (2 ^ 60 : Nat) + (l.time.acc.toNat : Int)

/-- Fleet time set to a full value: FT and the count of its wraps (log entry 14). -/
def Live.setFull (l : Live) (v : Int) : Live :=
  { l with time := { l.time with
      acc := BitVec.ofInt 60 v, wraps := toU 32 (v / ((2 ^ 60 : Nat) : Int)) } }

/-- A count moved on by whole periods until it is not reached (R127, R130, R240). -/
def passBy (ft c : Word) (per : Nat) : Word :=
  if reached ft c then c + BitVec.ofNat 32 (per * ((ft - c).toNat / per + 1)) else c

/-- SCH_NEXT follows fleet time (R240). -/
def Live.gridFollow (l : Live) (b : Build) : Live :=
  if l.flag b F.SCH_CTL_GRID_EN then
    l.put b F.SCH_NEXT_B (passBy l.ft (BitVec.ofNat 32 (l.get b F.SCH_NEXT_B)) 500000).toNat
  else l

/-- Fleet time accumulates `d` units of the accumulator. -/
def Live.accumulate (l : Live) (b : Build) (d : Int) : Live :=
  let l := l.setFull (l.ftFull + d)
  let l := { l with time := { l.time with msAcc := l.time.msAcc + d.toNat } }
  l.gridFollow b

/-- The bound of 200 ppm on what a slew changes an increment by (R109, R114). -/
def slewBound (inc : Nat) : Int := (inc * 200 / 1000000 : Nat)

/-- The part of the slew that one TIME edge applies: a free value within 200 ppm of the increment
that does not pass what is left. -/
def Live.slewPart (l : Live) (b : Build) : Int :=
  let lim := slewBound (l.get b F.TIME_INC_INC)
  let x := Config.slewPart l.free
  let x := if x > lim then lim else if x < -lim then -lim else x
  if l.time.slew = 0 then 0
  else if 0 < l.time.slew then (if x < 0 then 0 else if x > l.time.slew then l.time.slew else x)
  else if x > 0 then 0 else if x < l.time.slew then l.time.slew else x

/-- One TIME edge: the effective increment is added (R108, R109). -/
def Live.timeEdge (l : Live) (b : Build) : Live :=
  let p := l.slewPart b
  let l := { l with time := { l.time with slew := l.time.slew - p },
                    free := if l.time.slew = 0 then l.free else l.free + 1 }
  l.accumulate b ((l.get b F.TIME_INC_INC : Int) + p)

/-! ### Quiet windows -/

/-- Set `k`. -/
def Live.qw (l : Live) (k : Nat) : Qw := Tab.getD l.qws k qw0

/-- Set `k` changed by `f`. -/
def Live.updQw (l : Live) (k : Nat) (f : Qw → Qw) : Live :=
  { l with qws := Tab.upd l.qws k qw0 f }

/-- LEN of set `k`. -/
def Live.qwLen (l : Live) (b : Build) (k : Nat) : Word := BitVec.ofNat 32 (l.get b F.QW_LEN_LEN k)

/-- PERIOD of set `k`. -/
def Live.qwPer (l : Live) (b : Build) (k : Nat) : Nat := l.get b F.QW_PERIOD_PERIOD k

/-- The end of a window of set `k`, with a disable that waited for it (R130, R131). -/
def Live.qwEnd (l : Live) (b : Build) (k : Nat) : Live :=
  let per := BitVec.ofNat 32 (l.qwPer b k)
  l.updQw k fun q => { q with active := false, s := q.s + per, en := q.en && !q.pendDis,
                              pendDis := false }

/-- Set `k` after a forward step of fleet time (R130). -/
def Live.qwStep (l : Live) (b : Build) (k : Nat) : Live :=
  let q := l.qw k
  if !q.en then l
  else
    let len := l.qwLen b k
    let s := passBy l.ft (q.s + len) (l.qwPer b k) - len
    let ended := q.active && decide (s ≠ q.s)
    let en := !(ended && q.pendDis)
    l.updQw k fun q => { q with s := s, en := en, pendDis := q.pendDis && !ended,
                                active := en && reached l.ft s }

/-- Enabling set `k` (R131): the checks, then S_k from QWk_START. -/
def Live.qwEnable (l : Live) (b : Build) (k : Nat) : Live :=
  let start := BitVec.ofNat 32 (l.get b F.QW_START_START k)
  let per := l.qwPer b k
  let len := l.get b F.QW_LEN_LEN k
  if l.timed ∧ l.inWindow start ∧ 10000 ≤ per ∧ 1 ≤ len ∧ len ≤ per - 1 then
    l.updQw k fun _ => { qw0 with en := true, s := start }
  else l.setBit b F.QW_STAT_ARM_REJ 0 k

/-- Disabling set `k`: at once, or at the end of the window in progress (R131). -/
def Live.qwDisable (l : Live) (k : Nat) : Live :=
  l.updQw k fun q => if q.active then { q with pendDis := true } else { q with en := false }

/-- A write of QW_CTL (R131, R238). A change of EN_k of a set that a plan owns is refused. A write of
1 to the bit of a set that waits to be disabled takes the disable back (log entry 15). -/
def Live.writeQwCtl (l : Live) (b : Build) (v : Nat) : Live :=
  let l := l.put b F.QW_CTL_GUARD (v >>> 4)
  (List.range 4).foldl (fun l k =>
    let q := l.qw k
    let on := v.testBit k
    if q.owner ≠ 0 then
      if on = q.en then l else l.setBit b F.QW_STAT_ARM_REJ 0 k
    else if on ∧ !q.en then l.qwEnable b k
    else if on then l.updQw k fun q => { q with pendDis := false }
    else if q.en then l.qwDisable k
    else l) l

/-- EN of QW_CTL. -/
def Live.qwEnBits (l : Live) : Nat :=
  (List.range 4).foldl (fun a k => a + 2 ^ k * b2n (l.qw k).en) 0

/-- ACTIVE of QW_STAT. -/
def Live.qwActBits (l : Live) : Nat :=
  (List.range 4).foldl (fun a k => a + 2 ^ k * b2n (l.qw k).active) 0

/-! ### Pulse outputs -/

/-- Output `n`. -/
def Live.pulse (l : Live) (n : Nat) : Pulse := Tab.getD l.pulses n pulse0

/-- Output `n` changed by `f`. -/
def Live.updPulse (l : Live) (n : Nat) (f : Pulse → Pulse) : Live :=
  { l with pulses := Tab.upd l.pulses n pulse0 f }

/-- Outputs of the form. -/
def Build.pulses (b : Build) : Nat := if b.buoy then 2 else 8

/-- A fired count waits for owner `o`. -/
def Live.hasFired (l : Live) (o : Owner) : Bool := l.time.fired.any fun f => decide (f.owner = o)

/-- The first fired count of owner `o` taken. -/
def takeFired (o : Owner) : List Fired → List Fired
  | [] => []
  | f :: t => if f.owner = o then t else f :: takeFired o t

/-- The first fired count of owner `o`. -/
def Live.firedOf (l : Live) (o : Owner) : Option Fired :=
  l.time.fired.find? fun f => decide (f.owner = o)

/-- The first fired count of owner `o` consumed. -/
def Live.useFired (l : Live) (o : Owner) : Live :=
  { l with time := { l.time with fired := takeFired o l.time.fired } }

/-- ARMED of output `n`: an instant is pending (Table 4.6). -/
def Live.pulseArmed (l : Live) (n : Nat) : Bool :=
  l.holdsCmp (.pulse n) || l.hasFired (.pulse n) || (l.pulse n).lateRise

/-- NEXT of output `n` (Table 4.6): the count its comparator is armed for, else the last one. -/
def Live.pulseNext (l : Live) (n : Nat) : Word :=
  match l.time.cmps.find? fun c => decide (c.owner = .pulse n) with
  | some c => c.count
  | none => (l.pulse n).t

/-- XCHG_INT as it reads (Table 4.1): 0 reads as 1, and values above 32 read as 32. -/
def Live.xchgInt (l : Live) (b : Build) : Nat := max 1 (min 32 (l.get b F.TIME_CFG_XCHG_INT))

/-- A pulse of `n` is disarmed: its comparator is free (R129). -/
def Live.pulseDisarm (l : Live) (n : Nat) : Live :=
  let l := (l.dropCmp (.pulse n)).updPulse n fun p =>
    { p with width := 0, deferred := none, lateRise := false }
  let rest := l.time.fired.filter fun f => decide (f.owner ≠ .pulse n)
  { l with time := { l.time with fired := rest } }

/-- The new values of output `n`, armed for count `t` (R128). -/
def Live.pulseArm (l : Live) (n : Nat) (t : Word) (per w : Nat) : Live :=
  let l := (l.pulseDisarm n).updPulse n fun p => { p with t := t, per := per, width := w }
  l.armCmp (.pulse n) t per

/-- Output `n` rises for the count `t`; it falls at the edge at which T + W is reached (R128, log entry
16). -/
def Live.pulseUp (l : Live) (n : Nat) (t : Word) : Live :=
  let l := l.updPulse n fun p =>
    { p with level := true, fall := t + BitVec.ofNat 32 p.width, lateRise := false }
  l.emit (.pulse n true)

/-! ### Armed counts -/

/-- The counter LATE and its event (R127). -/
def Live.late (l : Live) (b : Build) (c : Word) : Live :=
  (l.bump b F.TIME_STAT_LATE).logE b 0x0303 2 [c.toNat]

/-- Element `i` removed. -/
def dropAt {α : Type} : Nat → List α → List α
  | _, [] => []
  | 0, _ :: t => t
  | i + 1, a :: t => a :: dropAt i t

/-- Element `i` changed. -/
def updAt {α : Type} (f : α → α) : Nat → List α → List α
  | _, [] => []
  | 0, a :: t => f a :: t
  | i + 1, a :: t => a :: updAt f i t

/-- A count that fires is left to the next command of its owner. -/
def Live.fire (l : Live) (c : Cmp) : Live :=
  { l with time := { l.time with fired := l.time.fired ++ [⟨c.owner, c.count⟩] } }

/-- Comparator `i` fires: it is free again, or periodic and armed for its next instant (R124). -/
def Live.fireCmp (l : Live) (i : Nat) (c : Cmp) : Live :=
  let cmps := if c.period = 0 then dropAt i l.time.cmps
    else updAt (fun c => { c with count := c.count + BitVec.ofNat 32 c.period }) i l.time.cmps
  { l with time := { l.time with cmps := cmps } }.fire c

/-- The counts that a forward step from `old` made reached fire once, late, with their events in ascending a0
(R416); a periodic one moves on by whole periods (R127). -/
def Live.fireLate (l : Live) (b : Build) (old : Word) : Live :=
  let hit := fun (c : Cmp) => reached l.ft c.count && !reached old c.count
  let due := sortOn (fun (c : Cmp) => c.count.toNat) (l.time.cmps.filter hit)
  let keep := l.time.cmps.filterMap fun c =>
    if hit c then
      if c.period = 0 then none else some { c with count := passBy l.ft c.count c.period }
    else some c
  let l := { l with time := { l.time with cmps := keep } }
  due.foldl (fun l c => (l.fire c).late b c.count) l

/-! ### Steps and slews (R114) -/

/-- FT loaded with FT + `e` in one TIME cycle: any slew ends, a trim window in progress is discarded
(R102), and a forward step moves counts, windows and the grid on. -/
def Live.ftLoad (l : Live) (b : Build) (e : Int) : Live :=
  let old := l.ft
  let l := l.setFull (l.ftFull + e * nsUnit)
  let l := { l with time := { l.time with slew := 0 } }.spoilWindow b
  if e > 0 then
    let l := (List.range 4).foldl (fun l k => l.qwStep b k) l
    (l.gridFollow b).fireLate b old
  else l

/-- A step by `e`: every one but the first after reset counts and is logged. -/
def Live.ftStep (l : Live) (b : Build) (e : Int) : Live :=
  let first := !l.time.stepped
  let l := { l with time := { l.time with stepped := true } }
  let l := if first then l else (l.bump b F.TIME_STAT_STEPS).logE b 0x0302 2 [toU 64 e]
  l.ftLoad b e

/-- HOLDOVER entered, with its reason (R113). -/
def Live.enterHoldover (l : Live) (b : Build) (why : Nat) : Live :=
  let l := l.setTState .holdover
  { l with time := { l.time with good := 0 } }.logE b 0x0301 2 [why]

/-- A correction by `e` outside the first one of FREE: a step leads to ACQUIRE (R112, R114). -/
def Live.correct (l : Live) (b : Build) (e : Int) : Live :=
  if l.get b F.TIME_CFG_STEP_THR < e.natAbs then
    let l := l.ftStep b e
    l.setTState .acquire
  else { l with time := { l.time with slew := e * nsUnit } }

/-! ### Commands -/

/-- TIME_INC_WRITE (R109): in FREE only. -/
def Live.writeTimeInc (l : Live) (b : Build) (v : Word) : Live :=
  if l.time.state = .free then l.put b F.TIME_INC_INC v.toNat else l

/-- In LOCKED, a lantern that listens to the time input goes to HOLDOVER while `tin_valid` is low (R112). -/
def Live.tinHoldover (l : Live) (b : Build) : Live :=
  if l.time.tinLow ∧ !l.freerun b ∧ l.time.state = .locked then l.enterHoldover b 1 else l

/-- A write of TIME_CFG: XCHG_INT and FREERUN are a lantern's. -/
def Live.writeTimeCfg (l : Live) (b : Build) (v : Word) : Live :=
  let l := l.put b F.TIME_CFG_STEP_THR (v.toNat % 65536)
  if b.buoy then l
  else
    let l := l.put b F.TIME_CFG_XCHG_INT (v.toNat >>> 16)
    ((l.put b F.TIME_CFG_FREERUN (v.toNat >>> 24)).applyFreerun b).tinHoldover b

/-- HALL_PHASE_EDGE (R115). -/
def execHallPhaseEdge (tinValid : Bool) (tinNs : Word) (s : State) :
    Host.Outcome State Fault Refusal :=
  s.run fun b l =>
    let l := if tinValid then { l with time := { l.time with tinLow := false } } else l
    if !l.timeOn ∨ b.buoy ∨ !tinValid ∨ l.freerun b then l
    else
      let e := (tinNs + BitVec.ofNat 32 (l.get b F.TIME_TIN_CORR_CORR) - l.ft).toInt
      let l := { l with time := { l.time with ofs := e } }
      if l.time.state = .free then
        ({ l with time := { l.time with good := 0 } }.ftStep b e).setTState .acquire
      else
        let l := l.correct b e
        let good := if e.natAbs ≤ 20 then l.time.good + 1 else 0
        let l := { l with time := { l.time with good := good } }
        if 4 ≤ good then l.enterLocked b else l

/-- SLEW_ABSORBED (R109, R114): the TIME edge whose increment takes in what is left of the slew. It comes once
that lies within 200 ppm of the increment. -/
def execSlewAbsorbed (s : State) : Host.Outcome State Fault Refusal :=
  s.run fun b l =>
    let inc := l.get b F.TIME_INC_INC
    if !l.timeOn ∨ l.time.slew = 0 ∨ slewBound inc < l.time.slew.natAbs then l
    else { l with time := { l.time with slew := 0 } }.accumulate b (inc + l.time.slew)

/-- TIN_VALID_LOW (R112). -/
def execTinValidLow (s : State) : Host.Outcome State Fault Refusal :=
  s.run fun b l =>
    let l := { l with time := { l.time with tinLow := b.lantern } }
    if l.timeOn then l.tinHoldover b else l

/-- HOLDOVER_TIMEOUT (R112). -/
def execHoldoverTimeout (s : State) : Host.Outcome State Fault Refusal :=
  s.run fun b l =>
    if l.timeOn ∧ !l.freerun b ∧ l.time.state = .locked then l.enterHoldover b 0 else l

/-- FT_MS_TICK (R102, R113, R477): one tick for each 1,000,000 ns after the first lock. -/
def execFtMsTick (s : State) : Host.Outcome State Fault Refusal :=
  s.run fun _ l =>
    let ms := 1000000 * 268435456
    if l.timeOn ∧ l.time.everLocked ∧ ms ≤ l.time.msAcc then
      { l with time := { l.time with msAcc := l.time.msAcc - ms } }
    else l

/-- Deferred values of output `n` take effect at the fall (R129). -/
def Live.pulseDeferred (l : Live) (n : Nat) (d : Word × Nat × Nat) : Live :=
  let (t, per, w) := d
  if w = 0 then l.pulseDisarm n
  else
    let l := l.pulseArm n t per w
    if reached l.ft t then
      let l := l.updPulse n fun p => { p with lateRise := true }
      if per = 0 then l.dropCmp (.pulse n)
      else l.armCmp (.pulse n) (passBy l.ft t per) per
    else l

/-- PULSE_FALL (R128, R129). -/
def execPulseFall (n : BitVec 3) (s : State) : Host.Outcome State Fault Refusal :=
  s.run fun b l =>
    let p := l.pulse n.toNat
    if !l.timeOn ∨ !l.pulseOn b ∨ !p.level ∨ !reached l.ft p.fall then l
    else
      let l := (l.updPulse n.toNat fun p => { p with level := false, deferred := none }).emit
        (.pulse n.toNat false)
      match p.deferred with
      | some d => l.pulseDeferred n.toNat d
      | none =>
        match l.time.cmps.find? fun c => decide (c.owner = .pulse n.toNat) with
        | some c => l.updPulse n.toNat fun p => { p with t := c.count }
        | none => l

/-- QW_WINDOW_START (R130). -/
def execQwWindowStart (k : BitVec 2) (s : State) : Host.Outcome State Fault Refusal :=
  s.run fun b l =>
    let q := l.qw k.toNat
    if l.timeOn ∧ b.buoy ∧ q.en ∧ !q.active ∧ reached l.ft q.s then
      l.updQw k.toNat fun q => { q with active := true }
    else l

/-- QW_WINDOW_END (R130, R131). -/
def execQwWindowEnd (k : BitVec 2) (s : State) : Host.Outcome State Fault Refusal :=
  s.run fun b l =>
    let q := l.qw k.toNat
    if l.timeOn ∧ b.buoy ∧ q.active ∧ reached l.ft (q.s + l.qwLen b k.toNat) then
      l.qwEnd b k.toNat
    else l

end Sys2Proof.Machine
end

