-- ==== Sys2Proof/Machine/PlanCore.lean ====
section
/-! DEFINITION. What the plan units share: control messages, the input log, the end of a plan by
abort, teardown or poison, and subjects in disagreement (spec/09 R244, R249; spec/18 R434; spec/19
R458 to R462). -/

namespace Sys2Proof

/-! ### Control messages (Table 9.7) -/

def CtlMsg.plan (m : CtlMsg) : Nat := Machine.fld m.w0 0 8
def CtlMsg.kind (m : CtlMsg) : Nat := Machine.fld m.w0 8 4
def CtlMsg.armSeq (m : CtlMsg) : Nat := Machine.fld m.w0 16 8
def CtlMsg.setId (m : CtlMsg) : Nat := Machine.fld m.w0 32 32
def CtlMsg.c1 (m : CtlMsg) : Nat := Machine.fld m.w1 0 32
def CtlMsg.c2 (m : CtlMsg) : Nat := Machine.fld m.w1 32 32

/-- The body of a PLANCTL unit (Table 11.3). -/
def CtlMsg.unit (m : CtlMsg) : List DWord := Machine.packW [(8, 2)] :: m.words

end Sys2Proof

namespace Sys2Proof.Machine

/-- A control message of plan entry `x` with number `p`. -/
def ctlMsg (x : Plan) (p kind c1 c2 : Nat) (w2 w3 : DWord) : CtlMsg :=
  ⟨packW [(0, p), (8, kind), (16, x.armSeq), (32, imgSetId x.image)], packW [(0, c1), (32, c2)],
    w2, w3⟩

/-- A control message waits on link `n`. -/
def Live.sendCtl (l : Live) (n : Nat) (m : CtlMsg) : Live :=
  l.updLink n fun k => { k with ctl := k.ctl ++ [⟨m.unit, none, none, 0, l.ft, none⟩] }

/-- A broadcast message goes on to the children of both trees of plan `p` (R244). -/
def Live.bcast (l : Live) (p : Nat) (m : CtlMsg) : Live :=
  (imgBcastLinks (l.plan p).image).foldl (fun l n => l.sendCtl n m) l

/-- A control message of plan `p`, this kind and low half of C2 waits on some link. -/
def Live.ctlWaits (l : Live) (p kind c2 : Nat) : Bool :=
  l.links.any fun e => e.2.ctl.any fun i =>
    match i.body with
    | h :: w0 :: w1 :: _ =>
      decide (fld h 0 16 = 0x0200 ∧ fld w0 0 8 = p ∧ fld w0 8 4 = kind ∧
        (kind ≠ 6 ∨ fld w1 32 16 = c2))
    | _ => false

/-- The broadcasts that a command of plan `p` waited on have left: CUT_AT and PLAN_ARM are answered
(R200, R247). -/
def Live.answerLeft (l : Live) (b : Build) (p : Nat) : Live :=
  let x := l.plan p
  let done := x.cutReplies.filter fun c => !l.ctlWaits p 6 c.2
  let l := l.updPlan p fun x => { x with cutReplies := x.cutReplies.filter fun c => !done.contains c }
  let l := done.foldl (fun l c => l.reply b c.1 0 c.2) l
  match x.armReply with
  | some r =>
    if x.state = .arming ∨ l.ctlWaits p 3 0 then l
    else (l.updPlan p fun x => { x with armReply := none }).reply b r 0 p
  | none => l

/-- The link to the parent at the first stage that has one (R434). -/
def upLink (g : Image) : Option Nat :=
  ([1, 2, 3].map (imgStage g)).findSome? fun s => if s.hasParent then some s.parent else none

/-- Link `n` is named as a child in the TREE section. -/
def isChildLink (g : Image) (n : Nat) : Bool :=
  [1, 2, 3].any fun s => (imgStage g s).children.any fun c => decide (c.link = n)

/-- This lantern is the root of plan entry `x`. -/
def Live.isRoot (l : Live) (b : Build) (x : Plan) : Bool :=
  b.lantern && decide (imgRoot x.image = l.boot.st.idTrunk.toNat) && decide (x.image ≠ [])

/-! ### Input logging (R460 to R462) -/

/-- A REPLAY record (Table 19.3). -/
def rplRec (l : Live) (b : Build) (p kind epoch argw : Nat) (body : List DWord) : Rec :=
  mkRec l b 0x0D 0x3102 l.ft
    (packW [(0, kind), (8, p), (16, epoch % 65536), (32, argw % 2 ^ 32)] :: body)

/-- A record written at the end of the log in the cellar. Whole beats are written: the words in front of it in
its first beat again, and free words behind it in its last (log entry 8). -/
def Live.rplPut (l : Live) (b : Build) (r : Rec) : Live :=
  let (l, r) := l.number r
  let q := l.flt.rpl
  let a := q.base + q.bytes
  let front := a % 32 / 8
  let open_ := (List.range 4).map fun i => Config.openWord (l.free + i)
  let old := open_ ++ (match q.recs.getLast? with | some x => x.words | none => [])
  let ws := old.drop (old.length - front) ++ r.words
  let ws := ws ++ open_.take ((4 - ws.length % 4) % 4)
  let l := { l with flt := { l.flt with rpl := { q with recs := q.recs ++ [r], bytes := q.bytes + r.len } },
                    free := l.free + 4 }
  l.celWrite b (a / 32 * 32) ws

/-- Logging ends with END (R462); a waiting mode 00 is answered with the bytes written. -/
def Live.rplEnd (l : Live) (b : Build) (status : Nat) : Live :=
  let q := l.flt.rpl
  let r := rplRec l b q.plan 6 q.last (q.last + status * 65536) []
  let l := l.rplPut b r
  let bytes := l.flt.rpl.bytes
  let l := { l with flt := { l.flt with rpl := { l.flt.rpl with
      st := .off, stopping := false, reply := none } } }
  let l := if status = 0 then l else l.logE b 0x110B 2 [q.last] q.plan status
  match q.reply with
  | some r => l.reply b r status bytes
  | none => l

/-- The lantern logs the inputs of plan `p`. -/
def Live.rplOn (l : Live) (p : Nat) : Bool :=
  decide (l.flt.rpl.st = .logging ∧ l.flt.rpl.plan = p) && l.flt.rpl.started

/-- One entry of the log, when logging is under way; a full region ends it (R461, R462). -/
def Live.rplLog (l : Live) (b : Build) (p kind epoch argw : Nat) (body : List DWord) : Live :=
  if !l.rplOn p then l
  else
    let r := rplRec l b p kind epoch argw body
    if l.flt.rpl.len < l.flt.rpl.bytes + r.len + 32 then l.rplEnd b eSlot
    else l.rplPut b r

/-- Epoch `e` of plan `p` is complete: its phases are done and its actions have run. -/
def Live.rplEpochDone (l : Live) (b : Build) (p e : Nat) : Live :=
  if !l.rplOn p ∨ (l.plan p).due.any (fun o => decide (o.epoch = e)) ∨
      (l.plan p).occs.any (fun o => decide (o.epoch = e)) then l
  else
    let last := if epochLater l.flt.rpl.last e then l.flt.rpl.last else e
    let l := { l with flt := { l.flt with rpl := { l.flt.rpl with last := last } } }
    let now : Bool := match (l.plan p).oc with | some o => !epochLater o.epoch e | none => true
    if l.flt.rpl.stopping ∧ now then l.rplEnd b 0 else l

/-! ### The end of a plan -/

/-- The entry when it leaves ARMING, ARMED or RUNNING (R249, R250). -/
def Plan.ended (x : Plan) : Plan :=
  { x with state := .verified, tdEn := false, cond := none, coll := ⟨[], 0⟩, reported := [],
           sentReport := false, refused := false, armReply := none, cutReplies := [],
           autoArm := false, pendCuts := [], oc := none, due := [], occs := [], trig := [],
           miss := [], declared := [], lostUp := [], lostSet := [], lostOvf := false,
           switchPend := none, prev := [], sampNext := [], lastLatched := none, lastT := none, rejBuoys := [],
           resultsUp := false }

/-- New occurrences of actions of plan `p`, numbered in their order. -/
def Live.addDue (l : Live) (p : Nat) (os : List Occ) : Live :=
  let n := l.eng.trigs
  let os := (List.range os.length).zipWith (fun i (o : Occ) => { o with no := n + i }) os
  { l with eng := { l.eng with trigs := n + os.length } }.updPlan p fun x => { x with due := x.due ++ os }

/-- Engine state of an action of plan `p`. -/
def liveKey (p entry place : Nat) : Nat := p * 16384 + entry * 64 + place

/-- A unit that waits for a position of plan `p`. -/
def LinkItem.ofPlan (i : LinkItem) (p : Nat) : Bool :=
  match i.plan with
  | some (q, _, _, _) => decide (q = p)
  | none => false

/-- The plan units of plan `p` that wait are dropped, and their streams go on with GAP_BEFORE (R51). -/
def Live.dropPln (l : Live) (p : Nat) : Live :=
  let gone := l.links.flatMap fun e => (e.2.pln.filter fun i => i.ofPlan p).filterMap (·.r)
  let l := { l with links := l.links.map fun e =>
    (e.1, { e.2 with pln := e.2.pln.filter fun i => !i.ofPlan p }) }
  gone.foldl (fun l r => l.skip r) l

/-- The resources of plan `p` are freed (R241, R249): comparators, quiet-window sets, objects, plan
units that wait, and the engine state of its actions. -/
def Live.freePlan (l : Live) (p : Nat) : Live :=
  let l := (l.cleanPlan p).dropPlanCmps p
  let l := (List.range 4).foldl (fun l k =>
    if (l.qw k).owner = p then (l.updQw k fun q => { q with owner := 0 }).qwDisable k else l) l
  { l.dropPln p with
    trace := { l.trace with syncs := l.trace.syncs.filter fun e => decide (e.2.plan ≠ p) },
    eng := { l.eng with live := l.eng.live.filter fun e => decide (e.1 / 16384 ≠ p) } }

/-- Plan `p` owns its synchronisation objects, at their initial counts, but for those that another plan still owns
(R239, R241). -/
def Live.ownSyncs (l : Live) (p : Nat) (g : Image) : Live :=
  (imgSyncs g).foldl (fun l o =>
    let c := if o.ty = 1 then o.init else 0
    if (Tab.find? l.trace.syncs o.obj).isSome then l
    else { l with trace := { l.trace with
        syncs := Tab.insert l.trace.syncs o.obj ⟨o.ty, p, o.init, c⟩ } }) l

/-- Plan `p` takes its quiet-window sets, or its objects, that no plan owns (R238, R241). -/
def Live.claim (l : Live) (b : Build) (p : Nat) : Live :=
  let g := (l.plan p).image
  if b.buoy then
    (secQw g).foldl (fun l q => l.updQw q.set fun w => if w.owner = 0 then { w with owner := p } else w) l
  else l.ownSyncs p g

/-- What an ended plan owned goes to the plans in ARMED or RUNNING that name it (R252). -/
def Live.claimAll (l : Live) (b : Build) : Live :=
  l.plans.foldl (fun l e => if e.2.owns then l.claim b e.1 else l) l

/-- A conditional teardown that waits on plan `p` is dropped (R446). -/
def Live.dropCond (l : Live) (p : Nat) : Live :=
  let qs := (l.plans.filter fun e => decide (e.2.cond = some p)).map (·.1)
  qs.foldl (fun l q =>
    (l.dropCmp (.teardown q)).updPlan q fun x => { x with cond := none, tdEn := false }) l

/-- Plan `p` leaves ARMING, ARMED or RUNNING for VERIFIED. Commands that wait on it reply `status`;
its input log ends with `why` (R167, R249, R462). -/
def Live.endPlan (l : Live) (b : Build) (p status why : Nat) : Live :=
  let x := l.plan p
  let l := if l.flt.rpl.st = .logging ∧ l.flt.rpl.plan = p then l.rplEnd b why else l
  let l := if x.state = .arming then l.dropCond p else l
  let l := ((l.freePlan p).updPlan p Plan.ended).claimAll b
  let l := match x.armReply with | some r => l.reply b r status | none => l
  (x.cutReplies.foldl (fun l c => l.reply b c.1 status) l).seqTurn b

/-- This block's copy of plan `p` is aborted; a lantern aborts its buoys too (R249). -/
def Live.abortCopy (l : Live) (b : Build) (p : Nat) (why : Nat := eAborted) : Live :=
  let g := (l.plan p).image
  let l := l.endPlan b p eAborted why
  if b.lantern then l.ownCmds b (imgNamed g) .abort p 0x13 p [] else l

/-- Plan `p` ends as PLAN_ABORT would end it here: at the root with a broadcast ABORT (R249). -/
def Live.abortPlan (l : Live) (b : Build) (p : Nat) (reason : Nat := eAborted) : Live :=
  let x := l.plan p
  if !x.active then l
  else
    let l := if l.isRoot b x then
        let m := ctlMsg x p 4 0 0 0 (packW [(0, reason)])
        let l := l.updPlan p fun x => { x with seen := x.seen ++ [(4, x.armSeq, 0)] }
        l.bcast p m
      else l
    l.abortCopy b p (if reason = ePoison then ePoison else eAborted)

/-- An upward ABORT with reason E_POISON to the parent, at most once for each arm (R434). -/
def Live.abortUp (l : Live) (p : Nat) : Live :=
  let x := l.plan p
  match x.upAbort, upLink x.image with
  | false, some n =>
    let l := l.updPlan p fun x => { x with upAbort := true }
    l.sendCtl n (ctlMsg x p 4 0 0 0 (packW [(0, ePoison)]))
  | _, _ => l

/-- Plan `p` consumes poison at this lantern (R434, R436): it is stopped at once; the root aborts the
fleet's copies. `what` is argument a0 of event 0x1003. -/
def Live.poison (l : Live) (b : Build) (p what : Nat) : Live :=
  let x := l.plan p
  if !x.active then l
  else
    let due := l.time.cmps.any (fun c => decide (c.owner = .teardown p) && reached l.ft c.count)
      || l.hasFired (.teardown p)
    let l := l.logE b 0x1003 3 [what] p ePoison
    if due then l
    else if l.isRoot b x then l.abortPlan b p ePoison
    else (l.abortUp p).abortCopy b p ePoison

/-- A lantern reads the image of plan `p` for it: a word read uncorrectable ends an active plan (R433, R434,
Table 18.2). Without one, `f` goes on. -/
def Live.readsPlan (l : Live) (b : Build) (p : Nat) (f : Live → Live) : Live :=
  if b.lantern ∧ l.bad (.plan p) ∧ (l.plan p).active then (l.meet b (.plan p)).poison b p 3 else f l

/-- A lantern merges its own partial or list of plan `p`, as `readsPlan`. -/
def Live.readsPart (l : Live) (b : Build) (p : Nat) (f : Live → Live) : Live :=
  if l.bad (.part p) then (l.meet b (.part p)).poison b p 1 else f l

/-! ### Commanded and observed (R458) -/

/-- Subject `k` enters or leaves disagreement; entering is logged by `f`. Kinds: 0 a buoy of a
running plan, 1 a neighbour, 2 a unit. -/
def Live.subject (l : Live) (k : Nat × Nat) (bad : Bool) (f : Live → Live) : Live :=
  if bad then
    if k ∈ l.flt.dis then l
    else f { l with flt := { l.flt with dis := l.flt.dis ++ [k] } }
  else { l with flt := { l.flt with dis := l.flt.dis.filter fun d => decide (d ≠ k) } }

/-- The partner of Local `loc`. -/
def Live.peer (l : Live) (loc : Nat) : Peer := Tab.getD l.time.peers loc peer0

/-- Presence: an accepted RSP to one of the last four REQs (R122). -/
def Peer.present (p : Peer) : Bool := p.hist.any id

/-- The named buoys of running plans against their presence and lock (Table 19.2). -/
def Live.checkBuoys (l : Live) (b : Build) : Live :=
  let named := fun k => l.plans.any fun e =>
    decide (e.2.state = .running) && (imgNamed e.2.image).contains k
  if b.buoy then l
  else (List.range 256).foldl (fun l k =>
    let q := l.peer k
    l.subject (0, k) (named k && !(q.present && q.lock)) fun l =>
      l.logE b 0x1105 2 [k, b2n q.present + 2 * b2n q.lock]) l

/-- The image of plan `p` as a running plan's: the plan is ARMED or RUNNING, so it owns its
resources (R241). -/
def Live.owners (l : Live) (but : Nat) : List (Nat × Plan) :=
  l.plans.filter fun e => decide (e.1 ≠ but) && e.2.owns

end Sys2Proof.Machine
end

