-- ==== Sys2Proof/Machine/Count.lean ====
section
/-! DEFINITION. Counting and sampling on a buoy: tap groups, logical units, counters, freezes,
program-counter sampling, sensors, remaps and replayed steps (spec/07, spec/19 R455 to R457). -/

namespace Sys2Proof.Machine

/-! ### Tap groups and units (R169 to R172) -/

/-- The binding of group `i`: physical unit and SPARE; none unless a valid binding names a unit. -/
def Live.bind (l : Live) (i : Nat) : Option (Nat × Bool) :=
  match Tab.find? l.samp.binds i with
  | some w =>
    let p := w.toNat % 1024
    if w.toNat.testBit 10 ∧ p ≠ 0x3FF then some (p, w.toNat.testBit 11) else none
  | none => none

/-- The groups of physical unit `p`, ascending. -/
def Live.groups (l : Live) (p : Nat) : List Nat :=
  (List.range 64).filter fun i => match l.bind i with | some (q, _) => decide (q = p) | none => false

/-- Physical unit `p` is marked SPARE. -/
def Live.spare (l : Live) (p : Nat) : Bool :=
  (List.range 64).any fun i => decide (l.bind i = some (p, true))

/-- A remap entry serves its unit: it is VALID, or its sources have switched at one edge of their tap island and
the reply is still to come (R176). -/
def Live.serves (l : Live) (e : Remap) : Bool :=
  e.valid || l.samp.job.any fun j => j.moved && decide (e.logical = j.u ∧ e.phys = j.p)

/-- The remap entry that serves logical unit `u`. -/
def Live.remapOf (l : Live) (u : Nat) : Option Remap :=
  (l.samp.remaps.map (·.2)).find? fun e => l.serves e && decide (e.logical = u)

/-- The physical unit of logical unit `u` (R171); a retired unit is never resolved (R173). -/
def Live.resolve (l : Live) (u : Nat) : Option Nat :=
  match l.remapOf u with
  | some e => some e.phys
  | none =>
    if l.groups u ≠ [] ∧ !l.spare u ∧ u ∉ l.samp.retired then some u else none

/-- The logical unit that physical unit `p` presents (R172). -/
def Live.presents (l : Live) (p : Nat) : Option Nat :=
  match (l.samp.remaps.map (·.2)).find? fun e => l.serves e && decide (e.phys = p) with
  | some e => some e.logical
  | none => if l.resolve p = some p then some p else none

/-! ### Counters (R179 to R188) -/

/-- Counter `i`. -/
def Live.ctr (l : Live) (i : Nat) : Ctr := Tab.getD l.samp.ctrs i ctr0

/-- Counter `i` changed by `f`. -/
def Live.updCtr (l : Live) (i : Nat) (f : Ctr → Ctr) : Live :=
  { l with samp := { l.samp with ctrs := Tab.upd l.samp.ctrs i ctr0 f } }

/-- MODE of a configuration word. -/
def cfgMode (w : DWord) : Nat := fld w 0 4
/-- UNIT of a configuration word. -/
def cfgUnit (w : DWord) : Nat := fld w 8 10

/-- The absolute line a configuration word selects, numbered 64n + line (R170, Table 7.4). -/
def Live.cfgLine (l : Live) (w : DWord) : Option Nat :=
  let n := fld w 18 9
  if cfgUnit w = 0x3FF then some n
  else match l.resolve (cfgUnit w) with
    | some p => ((l.groups p)[n / 8]?).map fun g => 8 * g + n % 8
    | none => none

/-- The absolute occupancy value a configuration word selects, numbered 8n + j. -/
def Live.cfgOcc (l : Live) (w : DWord) : Option Nat :=
  let n := fld w 32 6
  if cfgUnit w = 0x3FF then some n
  else match l.resolve (cfgUnit w) with
    | some p => (l.groups p)[n]?
    | none => none

/-- The tap port that is the source island of a configuration word (R180); none in mode OFF. -/
def Live.cfgTap (l : Live) (w : DWord) : Option Nat :=
  let m := cfgMode w
  if m = 0 then none
  else if m = 1 ∨ m = 2 ∨ m = 7 then (l.cfgLine w).map fun x => x / 64
  else (l.cfgOcc w).map fun x => x / 8

/-- Tap port `n` is enabled. -/
def Live.tapOn (l : Live) (b : Build) (n : Nat) : Bool := l.flag b F.UNIT_EN_B_TAP 0 n

/-- The source island of a counter is gated (R186). -/
def Live.tapGated (l : Live) (b : Build) (w : DWord) : Bool :=
  match l.cfgTap w with
  | some n => !l.tapOn b n
  | none => false

/-- GEN of the source a configuration word names (R183). -/
def Live.cfgGen (l : Live) (w : DWord) : Nat := l.gen (cfgUnit w)

/-- One edge of a counter's source island with this line level and occupancy (R181). -/
def Ctr.edge (c : Ctr) (line : Bool) (occ : Nat) : Ctr :=
  let add := fun (c : Ctr) (inc : Nat) =>
    { c with val := BitVec.ofNat 48 (c.val.toNat + inc),
             ovf := c.ovf || decide (2 ^ 48 ≤ c.val.toNat + inc) }
  let m := cfgMode c.cfg
  if m = 1 then add c (b2n line)
  else if m = 2 then { add c (b2n (line && !c.prev)) with prev := line }
  else if m = 3 then add c occ
  else if m = 4 then add c (b2n (decide (fld c.cfg 48 16 < occ)))
  else if m = 5 then { c with val := if c.val.toNat < occ then BitVec.ofNat 48 occ else c.val }
  else if m = 6 then { c with val := BitVec.ofNat 48 occ }
  else if m = 7 then add c 1
  else c

/-- One edge of every running tap island: each counter with a source counts the inputs of the edge
(R180; log entry 17). -/
def Live.tapEdge (l : Live) (b : Build) : Live :=
  let f := fun (i : Nat) (c : Ctr) =>
    match l.cfgTap c.cfg with
    | some n =>
      if l.tapOn b n then
        let line := match l.cfgLine c.cfg with
          | some x => Config.tapLine l.free x
          | none => false
        let occ := match l.cfgOcc c.cfg with
          | some x => (Config.tapOcc l.free x).toNat
          | none => 0
        c.edge line occ
      else c
    | none => let _ := i; c
  { l with samp := { l.samp with ctrs := Tab.mapVal f l.samp.ctrs }, free := l.free + 1 }

/-- Counter `i` is user-enabled (R185). -/
def Live.userCtr (l : Live) (b : Build) (i : Nat) : Bool :=
  l.flag b F.CTR_CTL_USR_EN && bit (l.ctr i).cfg 4

/-- Value and OVF as a read returns them: the snapshot of a frozen counter (R183). -/
def Ctr.read (c : Ctr) : BitVec 48 × Bool :=
  match c.snap with
  | some s => s
  | none => (c.val, c.ovf)

/-- The word of counter `i` in a CTR_READ reply (Table 6.7). -/
def Live.ctrWord (l : Live) (b : Build) (i : Nat) : DWord :=
  let c := l.ctr i
  packW [(0, c.read.1.toNat), (48, b2n c.read.2), (49, b2n (l.userCtr b i)), (50, l.cfgGen c.cfg)]

/-- Counter `i` is an item of an armed or running plan. -/
def Live.ctrInPlan (l : Live) (i : Nat) : Bool :=
  l.plans.any fun e =>
    let g := e.2.image
    e.2.owns &&
    ((List.range (secNbi g)).any (fun j =>
      let x := secItem g j
      decide (x.1 ≤ 1 ∧ x.2.1 = i)) ||
     (secSamp g).1.any (fun x => x.items.any fun y => decide (y = (0, i))))

/-- The counters a command names that exist, in ascending order. -/
def ctrRange (p : Packet) : List Nat :=
  let first := p.aBits 0 10
  (List.range (min (p.aBits 10 11) (1024 - first))).map fun i => first + i

/-- The range rule of R167. -/
def ctrBadRange (p : Packet) : Bool :=
  decide (p.aBits 10 11 = 0 ∨ 1024 < p.aBits 0 10 + p.aBits 10 11)

/-- The island of counter `i` is among those that do not answer. -/
def Live.ctrSilent (l : Live) (silent : List Nat) (i : Nat) : Bool :=
  match l.cfgTap (l.ctr i).cfg with
  | some n => silent.contains n
  | none => false

/-- The row of CTR_READ: PLAN where a named counter is not user-enabled, or with CLR (R167, R185). -/
def Live.ctrReadRow (l : Live) (b : Build) (p : Packet) : OpRow :=
  let plan := decide (p.aBits 31 1 = 1) || (ctrRange p).any fun i => !l.userCtr b i
  opRow 0x20 true false (b2n plan) 0 0

/-- The tap islands in `silent` that the command of packet `p` needs: one handshake times out for each. -/
def silentTaps (silent : List Nat) (taps : List (Option Nat)) : Nat :=
  ((List.range 8).filter fun n => silent.contains n && taps.contains (some n)).length

/-- A counter command ends: OK, or E_GATED where `lost` of its handshakes timed out (R99, R186). -/
def Live.ctrDone (l : Live) (b : Build) (r : Ret) (lost : Nat) (arg : Nat) (ws : List DWord) : Live :=
  if lost = 0 then l.reply b r 0 arg ws else (l.bump b F.CLK_STAT_XTO_CNT 0 lost).reply b r eGated

/-- CTR_READ (R183, R184, R186). -/
def Live.ctrRead (l : Live) (b : Build) (p : Packet) (silent : List Nat) (r : Ret) : Live :=
  let cs := ctrRange p
  let clr := decide (p.aBits 31 1 = 1)
  match firstErr [
    (p.port.inband && decide (254 < p.aBits 10 11 + b2n p.pchk), eLen),
    (cs.any (fun i => l.tapGated b (l.ctr i).cfg), eGated),
    (ctrBadRange p, eRange),
    (clr && cs.any (fun i => (l.ctr i).snap.isSome || l.ctrInPlan i), eState)] with
  | some e => l.reply b r e
  | none =>
    let ws := cs.map (l.ctrWord b)
    let sil := l.ctrSilent silent
    let lost := silentTaps silent (cs.map fun i => l.cfgTap (l.ctr i).cfg)
    let frozen := cs.filter fun i => (l.ctr i).snap.isSome
    if frozen.any (fun i => l.bad (.ctr i)) then
      (frozen.foldl (fun l i => l.meet b (.ctr i)) l).reply b r ePoison
    else
    let l := if clr then
        cs.foldl (fun l i => if sil i then l else
          l.updCtr i fun c => { c with val := 0, ovf := false }) l
      else l
    l.ctrDone b r lost (p.aBits 10 11) ws

/-- The configuration word a CTR_CONFIG gives counter `i`. -/
def cfgWord (p : Packet) (i : Nat) : DWord := wordAt p.data (i - p.aBits 0 10)

/-- A configuration word is out of range for its selection (R182). -/
def Live.cfgBad (l : Live) (w : DWord) : Bool :=
  decide (8 ≤ cfgMode w) ||
  (if cfgUnit w = 0x3FF then false
   else match l.resolve (cfgUnit w) with
    | some q => (l.cfgLine w).isNone || (l.cfgOcc w).isNone || decide (l.groups q = [])
    | none => false)

/-- A configuration word names an unresolved unit. -/
def Live.cfgUnresolved (l : Live) (w : DWord) : Bool :=
  decide (cfgUnit w ≠ 0x3FF) && (l.resolve (cfgUnit w)).isNone

/-- Counter `i` configured at one edge of its new source island (R181, R182). -/
def Live.ctrSetup (l : Live) (i : Nat) (w : DWord) : Live :=
  let prev := match l.cfgLine w with
    | some x => Config.tapLine l.free x
    | none => false
  let l := l.updCtr i fun c => { c with cfg := w, val := 0, ovf := false, prev := prev }
  { l with free := l.free + 1 }

/-- CTR_CONFIG (R182, R186). -/
def Live.ctrConfig (l : Live) (b : Build) (p : Packet) (silent : List Nat) (r : Ret) : Live :=
  let cs := ctrRange p
  let neww := cfgWord p
  match firstErr [
    (decide (p.data.length ≠ p.aBits 10 11), eLen),
    (cs.any (fun i => l.tapGated b (l.ctr i).cfg || l.tapGated b (neww i)), eGated),
    (ctrBadRange p || cs.any (fun i => l.cfgBad (neww i)), eRange),
    (cs.any (fun i => l.cfgUnresolved (neww i) || (l.ctr i).snap.isSome || l.ctrInPlan i), eState)]
  with
  | some e => l.reply b r e
  | none =>
    let sil := fun i => l.ctrSilent silent i || (match l.cfgTap (neww i) with
      | some n => silent.contains n
      | none => false)
    let lost := silentTaps silent (cs.flatMap fun i => [l.cfgTap (l.ctr i).cfg, l.cfgTap (neww i)])
    let l := cs.foldl (fun l i => if sil i then l else l.ctrSetup i (neww i)) l
    l.ctrDone b r lost (p.aBits 10 11) []

/-- CTR_FREEZE and CTR_THAW (R187): `f` acts on each named counter. -/
def Live.ctrFreeze (l : Live) (b : Build) (p : Packet) (silent : List Nat) (f : Ctr → Ctr) (r : Ret) :
    Live :=
  let cs := ctrRange p
  match firstErr [
    (cs.any (fun i => l.tapGated b (l.ctr i).cfg), eGated),
    (ctrBadRange p, eRange)] with
  | some e => l.reply b r e
  | none =>
    let sil := l.ctrSilent silent
    let lost := silentTaps silent (cs.map fun i => l.cfgTap (l.ctr i).cfg)
    let l := cs.foldl (fun l i => if sil i then l else (l.clean (.ctr i)).updCtr i f) l
    l.ctrDone b r lost (p.aBits 10 11) []

/-- The snapshot a freeze takes. -/
def Ctr.freeze (c : Ctr) : Ctr := { c with snap := some (c.val, c.ovf) }

/-- A thaw. -/
def Ctr.thaw (c : Ctr) : Ctr := { c with snap := none }

/-- The rows of CTR_CONFIG, CTR_FREEZE and CTR_THAW. -/
def ctrConfigRow : OpRow := opRow 0x21 true false 1 0 4095
def ctrFreezeRow : OpRow := opRow 0x22 true false 1 0 0
def ctrThawRow : OpRow := opRow 0x23 true false 1 0 0

/-- CTR_READ. -/
def execCtrRead (p : Packet) (s : State) : Host.Outcome State Fault Refusal :=
  s.run fun b l => l.command b (.ctrRead p) (l.ctrReadRow b p) p fun l r => l.ctrRead b p [] r

/-- CTR_CONFIG. -/
def execCtrConfig (p : Packet) (s : State) : Host.Outcome State Fault Refusal :=
  s.run fun b l => l.command b (.ctrConfig p) ctrConfigRow p fun l r => l.ctrConfig b p [] r

/-- CTR_FREEZE. -/
def execCtrFreeze (p : Packet) (s : State) : Host.Outcome State Fault Refusal :=
  s.run fun b l => l.command b (.ctrFreeze p) ctrFreezeRow p fun l r =>
    l.ctrFreeze b p [] Ctr.freeze r

/-- CTR_THAW. -/
def execCtrThaw (p : Packet) (s : State) : Host.Outcome State Fault Refusal :=
  s.run fun b l => l.command b (.ctrThaw p) ctrThawRow p fun l r => l.ctrFreeze b p [] Ctr.thaw r

/-! ### Sensors (R194 to R197) -/

/-- The calibrated value of temperature `j`. -/
def Live.tempOf (l : Live) (j : Nat) : Int := (Tab.getD l.samp.sensT j (0, 0)).2

/-- The calibrated value of voltage `j`. -/
def Live.voltOf (l : Live) (j : Nat) : Int := (Tab.getD l.samp.sensV j (0, 0)).2

/-! ### Latched items (R203, R204, R209) -/

/-- An item word of a CUTVEC or SAMPLE: value, OVF, STALE, GEN. -/
def itemWord (v ovf stale gen : Nat) : DWord :=
  if stale = 1 then packW [(49, 1), (50, gen)]
  else packW [(0, v % 2 ^ 48), (48, ovf), (50, gen)]

/-- The unit whose GEN an item carries: a counter's, or the die. -/
def Live.itemUnit (l : Live) (kind index : Nat) : Nat :=
  if kind ≤ 1 then cfgUnit (l.ctr index).cfg else 0x3FF

/-- A replayed step of unit `u` is open. -/
def Live.stepOpen (l : Live) (u : Nat) : Bool := (Tab.getD l.samp.steps u ⟨0, false⟩).op

/-- The word that an item which is no delta takes at its latch. -/
def Live.latchWord (l : Live) (kind index : Nat) : DWord :=
  let gen := l.gen (l.itemUnit kind index)
  if kind ≤ 1 then
    let c := l.ctr index
    itemWord c.val.toNat (b2n c.ovf) 0 gen
  else
    let v := if kind = 2 then l.tempOf index else l.voltOf index
    itemWord (toU 48 v) 0 0 gen

/-! ### SAMPLE records (R189, R197) -/

/-- A SAMPLE record of `items` as kind and index. -/
def Live.sampleRec (l : Live) (b : Build) (plan stream : Nat) (take : Word)
    (items : List (Nat × Nat)) : Rec :=
  let body := items.flatMap fun x =>
    let k := if x.1 = 0 then 0 else x.1 - 1
    [l.latchWord x.1 x.2, packW [(0, x.2), (10, k), (12, l.itemUnit x.1 x.2)]]
  let r := mkRec l b 0x01 stream l.ft
    (packW [(0, items.length), (8, plan), (32, take.toNat)] :: body)
  { r with replayed := items.any fun x => decide (x.1 ≤ 1) && l.stepOpen (l.itemUnit x.1 x.2) }

/-- The items of the fixed sensor stream: temperatures, then voltages. -/
def sensorItems : List (Nat × Nat) :=
  (List.range 16).map (fun j => (2, j)) ++ (List.range 8).map (fun j => (3, j))

/-- Raw codes calibrated from word `base` on (R144, R194). -/
def Live.sensTab (l : Live) (b : Build) (base : Nat) (raws : List (BitVec 12)) : Tab (Nat × Int) :=
  (List.range raws.length).map fun j =>
    let raw := (raws.getD j 0).toNat
    (j, raw, l.calOut b raw (base + 2 * j) (base + 2 * j + 1))

/-- SENSOR_SET_TAKEN (R194, R196, R197). Every 2^DIV-th set is one whose number since reset, SETS, is a multiple
of 2^DIV (DESIGN CHOICE, log entry 125). -/
def execSensorSetTaken (temps volts : List (BitVec 12)) (merged : Nat) (s : State) :
    Host.Outcome State Fault Refusal :=
  s.runAwake fun b l =>
    if b.lantern ∨ !l.flag b F.UNIT_EN_B_SENS then l
    else
      let sT := l.sensTab b 8 (temps.take 16)
      let sV := l.sensTab b 40 (volts.take 8)
      let talm := sT.any fun e => decide (sInt 16 (l.get b F.SENS_ALM_TMAX) < e.2.2)
      let l := { l with samp := { l.samp with sensT := sT, sensV := sV, talm := talm } }
      let l := l.bump b F.SENS_STAT_MERGED 0 merged
      let l := l.put b F.SENS_STAT_SETS (l.get b F.SENS_STAT_SETS + 1)
      let l := if talm then l.put b F.SENS_STAT_TALM_SEEN 1 else l
      if l.flag b F.SENS_CFG_SEN ∧
          l.get b F.SENS_STAT_SETS % 2 ^ l.get b F.SENS_CFG_DIV = 0 then
        l.create b (l.sampleRec b 0 0x1010 l.ft sensorItems)
      else l

/-- SAMPLE_TAKE (R189, R456): the next instant of a sampling set of a running plan. -/
def execSampleTake (plan : BitVec 8) (set : BitVec 3) (s : State) :
    Host.Outcome State Fault Refusal :=
  s.runAwake fun b l =>
    let p := plan.toNat
    let x := l.plan p
    match (secSamp x.image).1[set.toNat]?, x.sampNext[set.toNat]? with
    | some g, some t =>
      if b.lantern ∨ x.state ≠ .running ∨ !reached l.ft t then l
      else
        let l := l.create b (l.sampleRec b p g.stream t g.items)
        l.updPlan p fun x => { x with
          sampNext := updAt (fun t => t + BitVec.ofNat 32 g.period) set.toNat x.sampNext }
    | _, _ => l

/-! ### Program-counter sampling (R190 to R193) -/

/-- Port `k`. -/
def Live.pcs (l : Live) (k : Nat) : Pcs := Tab.getD l.samp.pcs k pcs0

/-- Port `k` changed by `f`. -/
def Live.updPcs (l : Live) (k : Nat) (f : Pcs → Pcs) : Live :=
  { l with samp := { l.samp with pcs := Tab.upd l.samp.pcs k pcs0 f } }

/-- Sealed records of port `k` that its queue has not taken. -/
def Live.pcsSealed (l : Live) (k : Nat) : Nat :=
  (l.created.filter fun e => decide (e.2.stream.toNat = 0x1000 + k)).length

/-- The open buffer of port `k` becomes a PCSAMP record (R192, Table 7.10). -/
def Live.pcsSeal (l : Live) (b : Build) (k : Nat) : Live :=
  let q := l.pcs k
  let body := q.buf.flatMap fun e =>
    [e.pc, packW [(0, e.ft.toNat), (32, e.unit), (42, e.stall), (48, e.gen)]]
  let w := packW [(0, q.buf.length), (8, k), (16, min q.lost 65535)]
  let r := mkRec l b 0x07 (0x1000 + k) l.ft (w :: body)
  let l := l.updPcs k fun q => { q with buf := [], lost := 0 }
  l.create b r

/-- A retired unit that is still observed (Table 19.2). -/
def Live.checkRetired (l : Live) (b : Build) (unit : Nat) : Live :=
  if unit ∈ l.samp.retired then l.subject (2, unit) true fun l => l.logE b 0x1107 2 [unit] else l

/-- A sample that passed the filters (steps 5 and 6 of R191). -/
def Live.pcsKeep (l : Live) (b : Build) (k : Nat) (e : PcEnt) : Live :=
  let q := l.pcs k
  let keep := decide (q.count % 2 ^ l.get b F.PCS_CFG_DIV k = 0)
  let l := l.updPcs k fun q => { q with count := (q.count + 1) % 65536 }
  if !keep then l
  else if 2 ≤ l.pcsSealed k then
    (l.bump b F.PCS_STAT_LOST k).updPcs k fun q => { q with lost := q.lost + 1 }
  else
    let l := l.updPcs k fun q => { q with buf := q.buf ++ [e] }
    if 64 ≤ (l.pcs k).buf.length then l.pcsSeal b k else l

/-- PCS_SAMPLE (R191). -/
def execPcsSample (k : BitVec 2) (pc : DWord) (unit : BitVec 10) (stall : BitVec 3) (s : State) :
    Host.Outcome State Fault Refusal :=
  s.runAwake fun b l =>
    let n := k.toNat
    if b.lantern ∨ !l.flag b F.UNIT_EN_B_PCS ∨ !l.flag b F.PCS_CFG_EN n then l
    else if stall.toNat = 7 then l.bump b F.PCS_STAT_BADSTALL n
    else match l.presents unit.toNat with
      | none => (l.bump b F.PCS_STAT_UNMAPPED n).checkRetired b unit.toNat
      | some u =>
        let e : PcEnt := ⟨pc, l.ft, u, stall.toNat, l.gen u⟩
        let l := { l with samp := { l.samp with lastPc := Tab.insert l.samp.lastPc unit.toNat e } }
        if (l.flag b F.PCS_CFG_UFILT n && decide (l.get b F.PCS_CFG_UNIT n ≠ u)) ||
            (l.flag b F.PCS_CFG_STALL_ONLY n && decide (stall.toNat = 0)) then l
        else l.pcsKeep b n e

/-- PCSAMP_FLUSH_TIMEOUT (R192): the oldest entry of the open buffer is FLUSH µs old. -/
def execPcsampFlushTimeout (k : BitVec 2) (s : State) : Host.Outcome State Fault Refusal :=
  s.runAwake fun b l =>
    let n := k.toNat
    let flush := l.get b F.PCS_CFG_FLUSH n
    match (l.pcs n).buf with
    | e :: _ =>
      if b.lantern ∨ flush = 0 ∨ !reached l.ft (e.ft + BitVec.ofNat 32 (1000 * flush)) then l
      else l.pcsSeal b n
    | [] => l

/-- A write of PCS_CFGk: a change of EN, DIV or a filter restarts the thinning count (R191). -/
def Live.writePcsCfg (l : Live) (b : Build) (k v : Nat) : Live :=
  let old := (l.get b F.PCS_CFG_EN k, l.get b F.PCS_CFG_DIV k, l.get b F.PCS_CFG_STALL_ONLY k,
    l.get b F.PCS_CFG_UFILT k, l.get b F.PCS_CFG_UNIT k)
  let new := (v % 2, v / 2 % 16, v / 32 % 2, v / 64 % 2, v / 128 % 1024)
  let l := l.put b F.PCS_CFG_EN v k
  let l := l.put b F.PCS_CFG_DIV (v >>> 1) k
  let l := l.put b F.PCS_CFG_STALL_ONLY (v >>> 5) k
  let l := l.put b F.PCS_CFG_UFILT (v >>> 6) k
  let l := l.put b F.PCS_CFG_UNIT (v >>> 7) k
  let l := l.put b F.PCS_CFG_FLUSH (v >>> 20) k
  if old = new then l else l.updPcs k fun q => { q with count := 0 }

/-! ### Remaps and replayed steps (R173 to R177, R455) -/

/-- A cut count of an armed or running plan lies within the next 20 µs of FT, or has been reached and
not latched (R175). A count exactly 20,000 ns ahead does not lie within them (DESIGN CHOICE, log entry 124). -/
def Live.cutNear (l : Live) : Bool :=
  let soon := fun (t : Word) => decide ((t - l.ft).toNat < 20000)
  l.time.cmps.any (fun c => match c.owner with
    | .cuts _ => soon c.count
    | .cut _ _ => soon c.count
    | _ => false) ||
  l.time.fired.any (fun f => match f.owner with
    | .cuts _ => true
    | .cut _ _ => true
    | _ => false) ||
  l.plans.any (fun e => decide (e.2.state = .armed) && decide (secPeriod e.2.image ≠ 0) &&
    soon (e.2.s + BitVec.ofNat 32 (secCutOfs e.2.image)))

/-- The remap entry for logical unit `u`: its own, or the lowest that is free. -/
def Live.remapSlot (l : Live) (u : Nat) : Option Nat :=
  let ent := fun i => Tab.getD l.samp.remaps i ⟨0, 0, false⟩
  match (List.range 16).find? fun i => (ent i).valid && decide ((ent i).logical = u) with
  | some i => some i
  | none => (List.range 16).find? fun i => !(ent i).valid

/-- UNIT_REMAP (R173 to R176). -/
def execUnitRemap (p : Packet) (s : State) : Host.Outcome State Fault Refusal :=
  s.run fun b l => l.command b (.unitRemap p) (opRow 0x4A true false 2 0 0) p fun l r =>
    let u := p.aBits 0 10
    let q := p.aBits 10 10
    match firstErr [
      ((l.groups q).any (fun g => !l.tapOn b (g / 8)), eGated),
      (decide (u = 0x3FF), eRange),
      (decide (l.groups q = []) || !l.spare q, eRange),
      ((l.presents q).isSome || l.samp.retired.contains q, eState),
      ((match l.resolve u with
        | some o => decide ((l.groups q).length < (l.groups o).length)
        | none => false), eRange),
      ((l.remapSlot u).isNone, eSlot)] with
    | some e => l.reply b r e
    | none =>
      let job : RemapJob := ⟨r, u, q, (l.remapSlot u).getD 0, false, false, false⟩
      { l with samp := { l.samp with job := some job } }.hold r (.unitRemap p)

/-- Physical unit `p` is retired: it loses its waiter bits and its ownership of watch objects (R406). -/
def Live.retireWatch (l : Live) (p : Nat) : Live :=
  let bits := match l.groups p with
    | g :: _ => BitVec.ofNat 64 (2 ^ g)
    | [] => 0
  let f := fun (_ : Nat) (w : Watch) =>
    { w with waiters := w.waiters &&& ~~~bits, owner := if w.owner = some p then none else w.owner }
  { l with trace := { l.trace with watches := Tab.mapVal f l.trace.watches } }

/-- Physical units `o` and `q` have all their groups on one tap port. -/
def Live.onePort (l : Live) (o q : Nat) : Bool :=
  match l.groups q with
  | g :: _ => (l.groups o ++ l.groups q).all fun x => decide (x / 8 = g / 8)
  | [] => false

/-- The counters of unit `u` take the lines of its new source. Lines that are high are not counted as edges
(log entry 18). -/
def Live.sourcesSwitch (l : Live) (u : Nat) : Live :=
  let f := fun (_ : Nat) (c : Ctr) =>
    if cfgUnit c.cfg = u then match l.cfgLine c.cfg with
      | some x => { c with prev := Config.tapLine l.free x }
      | none => c
    else c
  { l with samp := { l.samp with ctrs := Tab.mapVal f l.samp.ctrs }, free := l.free + 1 }

/-- A step mark of the remap's unit reached the keeper before it (R457). -/
def Live.remapBehind (l : Live) (j : RemapJob) : Bool :=
  l.samp.stepJobs.any fun k => decide (k.u = j.u ∧ k.r.seqNo < j.r.seqNo)

/-- REMAP_SWITCH (R174 to R176): at a moment clear of cuts. Between two tap ports the unit has no source until
the values have moved; on one port the sources switch at once. -/
def execRemapSwitch (s : State) : Host.Outcome State Fault Refusal :=
  s.runAwake fun _ l =>
    match l.samp.job with
    | some j =>
      if j.switched ∨ l.cutNear ∨ l.remapBehind j then l
      else
        let put := fun (l : Live) (retired : List Nat) (travels moved : Bool) =>
          { l with samp := { l.samp with
              retired := retired, job := some { j with switched := true, travels := travels, moved := moved },
              remaps := Tab.insert l.samp.remaps j.entry ⟨j.u, j.p, false⟩ } }
        let l := match l.resolve j.u with
          | some o =>
            let one := l.onePort o j.p
            let l := put (l.retireWatch o) (l.samp.retired ++ [o]) (!one) one
            if one then l.sourcesSwitch j.u else l
          | none => put l l.samp.retired false false
        l.genInc j.u
    | none => l

/-- The entry of a remap becomes VALID and the reply leaves (Table 7.3). -/
def Live.remapDone (l : Live) (b : Build) (j : RemapJob) : Live :=
  let l := { l with samp := { l.samp with
    job := none, remaps := Tab.insert l.samp.remaps j.entry ⟨j.u, j.p, true⟩ } }
  let l := if j.moved then l else l.sourcesSwitch j.u
  l.reply b j.r 0 (l.gen j.u)

/-- REMAP_HANDOVER_DONE (R176). -/
def execRemapHandoverDone (s : State) : Host.Outcome State Fault Refusal :=
  s.runAwake fun b l =>
    match l.samp.job with
    | some j => if j.switched then l.remapDone b j else l
    | none => l

/-- The old tap island does not answer the switch: the counters of the unit restart from 0 (R177). -/
def Live.remapLost (l : Live) (b : Build) (j : RemapJob) : Live :=
  let f := fun (_ : Nat) (c : Ctr) =>
    if cfgUnit c.cfg = j.u then { c with val := 0, ovf := false, snap := none } else c
  let l := { l with samp := { l.samp with ctrs := Tab.mapVal f l.samp.ctrs } }
  (l.logE b 0x0501 3 [j.u]).remapDone b j

/-- REMAP_WAIT_TIMEOUT (R175): 50 ms without a moment clear of cuts, for the oldest command that waits for one:
a remap whose switch has not started or, under R455, the oldest step mark. -/
def execRemapWaitTimeout (s : State) : Host.Outcome State Fault Refusal :=
  s.runAwake fun b l =>
    let remap := l.samp.job.filter fun j => !j.switched &&
      l.samp.stepJobs.all fun k => decide (j.r.seqNo < k.r.seqNo)
    match remap, l.samp.stepJobs with
    | some j, _ => { l with samp := { l.samp with job := none } }.reply b j.r eState
    | none, k :: t => { l with samp := { l.samp with stepJobs := t } }.reply b k.r eState
    | none, [] => l

/-- STEP_MARK (R455). -/
def execStepMark (p : Packet) (s : State) : Host.Outcome State Fault Refusal :=
  s.run fun b l => l.command b (.stepMark p) (opRow 0x61 true false 1 0 0) p fun l r =>
    let u := p.aBits 0 10
    let k := p.aBits 16 16
    match firstErr [
      (decide (u = 0x3FF), eRange),
      ((l.resolve u).isNone || (decide (k = 0) && !l.stepOpen u), eState)] with
    | some e => l.reply b r e
    | none =>
      let j : StepJob := ⟨r, u, k⟩
      { l with samp := { l.samp with stepJobs := l.samp.stepJobs ++ [j] } }.hold r (.stepMark p)

/-- A step mark waits for a remap of its unit that reached the keeper before it, or whose switch has started
(R457). -/
def Live.stepBehind (l : Live) (k : StepJob) : Bool :=
  l.samp.job.any fun j => decide (j.u = k.u) && (j.switched || decide (j.r.seqNo < k.r.seqNo))

/-- STEP_MARK_APPLY (R455, R457): the oldest step mark that waits for no remap, at a moment clear of cuts. -/
def execStepMarkApply (s : State) : Host.Outcome State Fault Refusal :=
  s.runAwake fun b l =>
    match l.samp.stepJobs.find? fun k => !l.stepBehind k with
    | some j =>
      if l.cutNear then l
      else
        let l := { l with samp := { l.samp with stepJobs := l.samp.stepJobs.erase j } }
        let l := if j.k = 0 then l else l.genInc j.u
        let old := Tab.getD l.samp.steps j.u ⟨0, false⟩
        let new : StepSt := if j.k = 0 then { old with op := false } else ⟨j.k, true⟩
        let l := { l with samp := { l.samp with steps := Tab.set l.samp.steps j.u ⟨0, false⟩ new } }
        (l.logE b 0x1108 1 [j.u, j.k, l.gen j.u]).reply b j.r 0 (l.gen j.u)
    | none => l

/-- A write of TAP_BINDi: the first after reset counts (R169). -/
def Live.writeTapBind (l : Live) (i : Nat) (v : Word) : Live :=
  match Tab.find? l.samp.binds i with
  | some _ => l
  | none => { l with samp := { l.samp with binds := Tab.insert l.samp.binds i (v &&& 0xFFF) } }

end Sys2Proof.Machine
end

