-- ==== Sys2Proof/Machine/Blocks.lean ====
section
/-! DEFINITION. Coded series blocks: the ordered image, the methods DELTA, SELECT and QUANT, the coder
and the reader (spec/13 R323 to R332). -/

namespace Sys2Proof.Machine

/-! ### The ordered image (R324) -/

/-- The ordered image of a sample of type `ty`. -/
def ordImg (ty : Nat) (x : Word) : Nat :=
  if ty = 0 then (x ^^^ 0x80000000).toNat
  else if ty = 1 then x.toNat
  else f32Ord x

/-- The sample with ordered image `v`. -/
def unOrd (ty v : Nat) : Word :=
  if ty = 0 then BitVec.ofNat 32 v ^^^ 0x80000000
  else if ty = 1 then BitVec.ofNat 32 v
  else if v < 0x80000000 then BitVec.ofNat 32 (0xFFFFFFFF - v) else BitVec.ofNat 32 (v - 0x80000000)

/-! ### Sizes -/

/-- SIZE in bytes for a RATIO (R318). -/
def blkSize (ratio : Nat) : Nat := 1024 / 2 ^ ratio
/-- Payload bits. -/
def payBits (ratio : Nat) : Nat := 8 * (blkSize ratio - 16)

/-- The CRC-32C of 256 original samples. -/
def samplesCrc (xs : List Word) : Nat := (crcWords (pack32 (xs.map (·.toNat)))).toNat

/-! ### Prediction (R325, R326) -/

/-- The prediction of sample `i` from the images before it. -/
def predict (sel lag : Nat) (vs : List Nat) (i : Nat) : Nat :=
  let v := fun k => vs.getD (i - k) 0
  let m := 4294967296
  if sel = 1 ∧ 2 ≤ i ∨ sel = 2 ∧ i = 2 then (2 * v 1 + m - v 2) % m
  else if sel = 2 ∧ 3 ≤ i then (3 * v 1 + 3 * m - 3 * v 2 + v 3) % m
  else if sel = 3 ∧ 2 ≤ i then v 1 / 2 + v 2 / 2 + v 1 % 2 * (v 2 % 2)
  else if sel = 4 then 0
  else if sel = 5 ∧ lag ≤ i then v lag
  else v 1

/-- The field of a residual. -/
def zOf (v p : Nat) : Nat :=
  let r := (v + 4294967296 - p) % 4294967296
  if r < 2147483648 then 2 * r else 2 * (4294967296 - r) - 1

/-- The image from a prediction and a field. -/
def unZ (p z : Nat) : Nat :=
  if z % 2 = 0 then (p + z / 2) % 4294967296 else (p + 4294967296 - (z + 1) / 2) % 4294967296

/-- Bits that a number takes. -/
def bitLen (n : Nat) : Nat := if n = 0 then 0 else n.log2 + 1

/-- The samples of group `g`. -/
def groupIdx (g : Nat) : List Nat :=
  (List.range 16).filterMap fun j => let i := 16 * g + 1 + j; if i ≤ 255 then some i else none

/-- The fields of a group under a predictor. -/
def groupZ (vs : List Nat) (sel lag g : Nat) : List Nat :=
  (groupIdx g).map fun i => zOf (vs.getD i 0) (predict sel lag vs i)

/-- W of a group. -/
def groupW (zs : List Nat) : Nat := zs.foldl (fun a z => max a (bitLen z)) 0

/-- Bits of a SELECT group. -/
def selCost (sel : Nat) (zs : List Nat) : Nat :=
  3 + (if sel = 5 then 6 else 0) + 6 + zs.length * groupW zs

/-- The selector and lag that SELECT chooses for a group at an EFFORT (R328). -/
def chooseSel (vs : List Nat) (effort g : Nat) : Nat × Nat :=
  let lags := if effort = 2 then 16 else if effort = 3 then 64 else 0
  let cands := [(0, 0), (1, 0), (2, 0), (3, 0), (4, 0)] ++
    (List.range lags).map fun k => (5, k + 2)
  (cands.foldl (fun (a : Nat × Nat × Nat) c =>
    let n := selCost c.1 (groupZ vs c.1 c.2 g)
    if n < a.2.2 then (c.1, c.2, n) else a) (0, 0, selCost 0 (groupZ vs 0 0 g))
  |> fun a => (a.1, a.2.1))

/-- Fields as (width, value), in order. -/
abbrev BitFields := List (Nat × Nat)

/-- Bits of a list of fields. -/
def fieldsLen (fs : BitFields) : Nat := fs.foldl (fun a f => a + f.1) 0

/-- The fields as one number, least significant bit first. -/
def packBits (fs : BitFields) : Nat :=
  (fs.foldl (fun (a : Nat × Nat) f => (a.1 + f.2 <<< a.2, a.2 + f.1)) (0, 0)).1

/-- The fields of DELTA. -/
def deltaFields (vs : List Nat) : BitFields :=
  (List.range 16).flatMap fun g =>
    let zs := groupZ vs 0 0 g
    let w := groupW zs
    (6, w) :: zs.map fun z => (w, z)

/-- The fields of SELECT. -/
def selectFields (vs : List Nat) (effort : Nat) : BitFields :=
  (List.range 16).flatMap fun g =>
    let c := chooseSel vs effort g
    let zs := groupZ vs c.1 c.2 g
    let w := groupW zs
    [(3, c.1)] ++ (if c.1 = 5 then [(6, c.2 - 2)] else []) ++ [(6, w)] ++ zs.map fun z => (w, z)

/-! ### QUANT (R327) -/

/-- b of a RATIO. -/
def quantBits (ratio : Nat) : Nat := if ratio = 0 then 31 else if ratio = 1 then 15 else 7

/-- The code of a sample. -/
def quantCode (ty b : Nat) (x : Word) : Nat :=
  let q := ordImg ty x >>> (32 - b)
  if ty = 2 then (if x = f32NaN then 2 ^ b - 1 else min q (2 ^ b - 2)) else q

/-- The sample a code decodes to. -/
def quantDecode (ty b q : Nat) : Word :=
  let s := 32 - b
  let v := q <<< s + 2 ^ (s - 1)
  if ty = 2 then
    if q = 2 ^ b - 1 then f32NaN
    else unOrd 2 (if v < 0x007FFFFF then 0x007FFFFF else if 0xFF800000 < v then 0xFF800000 else v)
  else unOrd ty v

/-! ### Decoding -/

/-- `n` fields of `w` bits, each predicted from the images so far. -/
def decodeGroup (pay sel lag w : Nat) : Nat → Nat → List Nat → List Nat
  | 0, _, vs => vs
  | n + 1, pos, vs =>
    let p := predict sel lag vs vs.length
    decodeGroup pay sel lag w n (pos + w) (vs ++ [unZ p (pay >>> pos % 2 ^ w)])

/-- The groups from `g` on, with SELECT headers or without: the images and the end of the fields. -/
def decodeGroups (pay : Nat) (isSel : Bool) : Nat → Nat → Nat → List Nat → Option (List Nat × Nat)
  | 0, _, pos, vs => some (vs, pos)
  | k + 1, g, pos, vs =>
    let sel := if isSel then pay >>> pos % 8 else 0
    let pos := if isSel then pos + 3 else pos
    let lag := pay >>> pos % 64 + 2
    let pos := if sel = 5 then pos + 6 else pos
    let w := pay >>> pos % 64
    let pos := pos + 6
    let n := (groupIdx g).length
    if 5 < sel ∨ 32 < w then none
    else decodeGroups pay isSel k (g + 1) (pos + n * w) (decodeGroup pay sel lag w n pos vs)

/-- The samples that a payload decodes to; none when it is malformed. -/
def decodePay (ty ratio method : Nat) (first : Word) (pay : Nat) : Option (List Word) :=
  let lim := payBits ratio
  if method = 0 then
    let b := quantBits ratio
    if pay >>> (255 * b) ≠ 0 then none
    else some (first :: (List.range 255).map fun i => quantDecode ty b (pay >>> (i * b) % 2 ^ b))
  else if method = 1 ∨ method = 2 then
    match decodeGroups pay (decide (method = 2)) 16 0 0 [ordImg ty first] with
    | some (vs, pos) =>
      if lim < pos ∨ pay >>> pos ≠ 0 then none else some (vs.map (unOrd ty))
    | none => none
  else none

/-! ### The coder (R328 to R330) -/

/-- The largest distance of decoded samples from the originals. -/
def maxDist (ty : Nat) (xs ys : List Word) : Nat :=
  (xs.zip ys).foldl (fun a p =>
    let v := ordImg ty p.1
    let w := ordImg ty p.2
    max a (if v < w then w - v else v - w)) 0

/-- The least E with `d ≤ 2^E`. -/
def leastE (d : Nat) : Nat := if d ≤ 1 then 0 else bitLen (d - 1)

/-- The payload number in 64-bit words. -/
def payWords (ratio pay : Nat) : List DWord :=
  (List.range (payBits ratio / 64)).map fun i => BitVec.ofNat 64 (pay >>> (64 * i))

/-- Header word 1 (Table 13.2). -/
def blkHead (exact : Bool) (method e ratio ty nfill gen no : Nat) : DWord :=
  packW [(0, b2n exact), (1, method), (5, e), (11, ratio), (13, ty), (15, nfill), (24, gen),
    (32, no % 16777216)]

/-- 256 samples coded. -/
def codeBlock (ty ratio effort gen no : Nat) (xs : List Word) : List DWord :=
  let vs := xs.map (ordImg ty)
  let dl := deltaFields vs
  let sl := selectFields vs effort
  let useSel := decide (1 ≤ effort ∧ fieldsLen sl < fieldsLen dl)
  let fs := if useSel then sl else dl
  let nfill := (xs.filter (isFill ty)).length
  let w0 := packW [(0, samplesCrc xs), (32, (xs.headD 0).toNat)]
  if fieldsLen fs ≤ payBits ratio then
    w0 :: blkHead true (if useSel then 2 else 1) 0 ratio ty nfill gen no :: payWords ratio (packBits fs)
  else
    let b := quantBits ratio
    let qs := (xs.drop 1).map (quantCode ty b)
    let d := maxDist ty (xs.drop 1) (qs.map (quantDecode ty b))
    w0 :: blkHead (decide (d = 0)) 0 (if d = 0 then 0 else leastE d) ratio ty nfill gen no ::
      payWords ratio (packBits (qs.map fun q => (b, q)))

/-! ### The reader (R332) -/

/-- The class of a block. -/
inductive BlkClass where
  | exact (xs : List Word)
  | inexact (xs : List Word)
  | poisoned
  | overtaken
  | failing
  deriving DecidableEq, Repr

def blkExact (ws : List DWord) : Bool := bit (wordAt ws 1) 0
def blkMethod (ws : List DWord) : Nat := fld (wordAt ws 1) 1 4
def blkRatio (ws : List DWord) : Nat := fld (wordAt ws 1) 11 2
def blkType (ws : List DWord) : Nat := fld (wordAt ws 1) 13 2
def blkGen (ws : List DWord) : Nat := fld (wordAt ws 1) 24 8
def blkNo (ws : List DWord) : Nat := fld (wordAt ws 1) 32 24

/-- The payload as one number. -/
def blkPay (ws : List DWord) : Nat :=
  (ws.drop 2).foldr (fun w a => w.toNat + a <<< 64) 0

/-- The samples of a block, classified for a reader that expects block `no` of a series. -/
def classify (ty ratio gen nblk no : Nat) (poison : Bool) (ws : List DWord) : BlkClass :=
  let ahead := (blkNo ws + 16777216 - no % 16777216) % 16777216
  if poison then .poisoned
  else if ahead ≠ 0 ∧ ahead < 8388608 ∧ ahead % nblk = 0 then .overtaken
  else if ahead ≠ 0 ∨ blkType ws ≠ ty ∨ blkRatio ws ≠ ratio ∨ blkGen ws ≠ gen then .failing
  else
    match decodePay ty ratio (blkMethod ws) (BitVec.ofNat 32 (fld (wordAt ws 0) 32 32)) (blkPay ws) with
    | none => .failing
    | some xs =>
      if blkExact ws then
        (if samplesCrc xs = fld (wordAt ws 0) 0 32 then .exact xs else .failing)
      else if blkMethod ws = 0 then .inexact xs
      else .failing

end Sys2Proof.Machine
end

