-- ==== Sys2Proof/Machine/Ensemble.lean ====
section
/-! DEFINITION. Ensemble images and their evaluation: the layout of an image, the load checks, the
walk of a tree and the vote (spec/14 R334 to R346). -/

namespace Sys2Proof.Machine

/-! ### The image (Tables 14.3 and 14.4) -/

def ensLen (g : List DWord) : Nat := fld (wordAt g 0) 32 32
def ensNFeat (g : List DWord) : Nat := fld (wordAt g 1) 0 11
def ensNClass (g : List DWord) : Nat := fld (wordAt g 1) 11 9
def ensNTree (g : List DWord) : Nat := fld (wordAt g 1) 20 14
def ensDepth (g : List DWord) : Nat := fld (wordAt g 1) 34 5
def ensGlog (g : List DWord) : Nat := fld (wordAt g 1) 39 3
def ensBmapId (g : List DWord) : Nat := fld (wordAt g 2) 0 32
def ensId (g : List DWord) : Nat := fld (wordAt g 2) 32 32
def ensFtab (g : List DWord) : Nat := fld (wordAt g 3) 0 32
def ensPipeOfs (g : List DWord) : Nat := fld (wordAt g 3) 32 32
def ensNodeOfs (g : List DWord) : Nat := fld (wordAt g 4) 0 32
def ensNodeLen (g : List DWord) : Nat := fld (wordAt g 4) 32 32

/-- Pipes of the form (Table 14.1). -/
def Build.pipes (b : Build) : Nat := if b.buoy then 1 else 16
/-- Stages of a pipe. -/
def Build.stages (b : Build) : Nat := if b.buoy then 16 else 24
/-- Banks of a pipe. -/
def Build.banks (b : Build) : Nat := if b.buoy then 16 else 32
/-- Nodes of a bank. -/
def Build.bankNodes (b : Build) : Nat := if b.buoy then 512 else 8192

/-- The type of feature `j`: bits [2:0] of byte `j` of the feature table. -/
def ensFeat (g : List DWord) (j : Nat) : Nat :=
  fld (wordAt g (ensFtab g / 8 + j / 8)) (8 * (j % 8)) 3

/-- Word `i` of the directory entry of pipe `p`. -/
def pipeWord (g : List DWord) (p i : Nat) : DWord := wordAt g (ensPipeOfs g / 8 + 29 * p + i)

/-- Trees of the ensemble in pipe `p`. -/
def ensNT (g : List DWord) (p : Nat) : Nat := fld (pipeWord g p 0) 0 14
/-- Address of the first root in pipe `p`. -/
def ensRoot (g : List DWord) (p : Nat) : Nat := fld (pipeWord g p 0) 14 18
/-- BMAP byte of bank `k`. -/
def ensBank (g : List DWord) (p k : Nat) : Nat := fld (pipeWord g p (1 + k / 8)) (8 * (k % 8)) 8
/-- First address of the region of stage `s`. -/
def ensBase (g : List DWord) (p s : Nat) : Nat := fld (pipeWord g p (5 + s)) 0 18
/-- Nodes of the region of stage `s`. -/
def ensCount (g : List DWord) (p s : Nat) : Nat := fld (pipeWord g p (5 + s)) 18 19

/-- The bank map of pipe `p`. -/
def ensMap (b : Build) (g : List DWord) (p : Nat) : List Nat := (List.range b.banks).map (ensBank g p)

/-- Node addresses of stage `s` under the bank map of pipe `p` (R335). -/
def stageSize (b : Build) (g : List DWord) (p s : Nat) : Nat :=
  ((ensMap b g p).filter fun k => decide (128 ≤ k ∧ k % 32 = s)).length * b.bankNodes

/-- A sum over `0 … n - 1`. -/
def sumTo (n : Nat) (f : Nat → Nat) : Nat := (List.range n).foldl (fun a i => a + f i) 0

/-- Nodes of pipe `p`. -/
def pipeNodes (g : List DWord) (p : Nat) : Nat := sumTo 24 (ensCount g p)

/-- Index, among the node words, of the region of pipe `p` and stage `s`. -/
def regionAt (g : List DWord) (p s : Nat) : Nat := sumTo p (pipeNodes g) + sumTo s (ensCount g p)

/-- Pipes that the ensemble uses. -/
def ensPipes (b : Build) (g : List DWord) : List Nat :=
  (List.range b.pipes).filter fun p => decide (ensNT g p ≠ 0)

/-- The node at address `a` of stage `s` of pipe `p`. -/
def nodeAt (g : List DWord) (p s a : Nat) : DWord :=
  wordAt g (ensNodeOfs g / 8 + regionAt g p s + (a - ensBase g p s))

/-! ### Load checks (Table 14.5) -/

/-- Two byte ranges meet. -/
def rangesMeet (a la c lc : Nat) : Bool := decide (a < c + lc ∧ c < a + la ∧ la ≠ 0 ∧ lc ≠ 0)

/-- Some two ranges of a list meet. -/
def anyMeet : List (Nat × Nat) → Bool
  | [] => false
  | x :: t => t.any (fun y => rangesMeet x.1 x.2 y.1 y.2) || anyMeet t

/-- Bytes the header, the feature table and the directory take. -/
def ensTables (b : Build) (g : List DWord) : List (Nat × Nat) :=
  [(0, 64), (ensFtab g, (ensNFeat g + 7) / 8 * 8), (ensPipeOfs g, 232 * b.pipes)]

/-- Check 2. -/
def ensBad2 (b : Build) (g : List DWord) (len : Nat) : Bool :=
  let w0 := wordAt g 0
  let parts := ensTables b g ++ [(ensNodeOfs g, ensNodeLen g)]
  decide (len < 64 ∨ fld w0 0 16 ≠ 0x0201 ∨ fld w0 16 8 ≠ 1 ∨ fld w0 24 1 ≠ b2n b.buoy ∨
    ensLen g ≠ len ∨
    ensNFeat g = 0 ∨ 1024 < ensNFeat g ∨ ensNClass g = 0 ∨ 256 < ensNClass g ∨
    ensNTree g = 0 ∨ 8192 < ensNTree g ∨ ensDepth g = 0 ∨ b.stages < ensDepth g ∨
    (if b.buoy then 0 else 4) < ensGlog g ∨
    ensFtab g % 8 ≠ 0 ∨ ensPipeOfs g % 8 ≠ 0 ∨ ensNodeOfs g % 8 ≠ 0) ||
  anyMeet parts || parts.any (fun x => decide (len < x.1 + x.2)) ||
  (List.range (ensNFeat g)).any (fun j => decide (4 < ensFeat g j))

/-- Check 3. -/
def ensBad3 (b : Build) (g : List DWord) : Bool :=
  let per := b.pipes / 2 ^ ensGlog g
  (List.range b.pipes).any (fun p =>
    (ensMap b g p).any (fun k => decide (128 ≤ k ∧ b.stages ≤ k % 32)) ||
    (List.range 24).any (fun s =>
      let n := ensCount g p s
      decide (n ≠ 0 ∧ (stageSize b g p s < ensBase g p s + n ∨ ensDepth g ≤ s ∨ ensNT g p = 0))) ||
    decide (ensNT g p ≠ 0 ∧ (ensRoot g p < ensBase g p 0 ∨
      ensBase g p 0 + ensCount g p 0 < ensRoot g p + ensNT g p))) ||
  (List.range (2 ^ ensGlog g)).any (fun k =>
    decide (sumTo per (fun i => ensNT g (k * per + i)) ≠ ensNTree g)) ||
  decide (ensNodeLen g ≠ 8 * sumTo b.pipes (pipeNodes g))

/-- A NaN pattern. -/
def nanBits (x : Nat) : Bool := decide (0x7F800000 < x % 0x80000000)

/-- A node of stage `s` of pipe `p` fails check 7. -/
def nodeBad (g : List DWord) (p s : Nat) (w : DWord) : Bool :=
  if bit w 0 then
    decide (fld w 1 4 = 0 ∨ ensNClass g ≤ fld w 5 8 ∨ fld w 13 51 ≠ 0)
  else
    let ty := fld w 2 3
    let feat := fld w 5 10
    let child := fld w 15 17
    let thr := fld w 32 32
    decide (s + 1 = ensDepth g ∨ ensNFeat g ≤ feat ∨ ty ≠ ensFeat g feat ∨
      2 * child < ensBase g p (s + 1) ∨
      ensBase g p (s + 1) + ensCount g p (s + 1) < 2 * child + 2) ||
    (decide (ty ≤ 1) && nanBits thr) || decide (ty = 1 ∧ thr % 65536 ≠ 0)

/-- Check 7. -/
def ensBad7 (b : Build) (g : List DWord) : Bool :=
  (List.range b.pipes).any fun p => (List.range 24).any fun s =>
    (List.range (ensCount g p s)).any fun i =>
      nodeBad g p s (wordAt g (ensNodeOfs g / 8 + regionAt g p s + i))

/-- The ensembles of the slots other than `k`. -/
def Live.otherEns (l : Live) (k : Nat) : List (List DWord) :=
  (l.eng.trees.filter fun e => decide (e.1 ≠ k) && decide (e.2.image ≠ [])).map (·.2.image)

/-- A used pipe holds another ensemble under another map (check 5). -/
def Live.mapClash (l : Live) (b : Build) (k : Nat) (g : List DWord) : Bool :=
  (ensPipes b g).any fun p => (l.otherEns k).any fun o =>
    decide (ensNT o p ≠ 0 ∧ (ensMap b o p ≠ ensMap b g p ∨ ensBmapId o ≠ ensBmapId g))

/-- A region overlaps one of another slot (check 6). -/
def Live.regionClash (l : Live) (b : Build) (k : Nat) (g : List DWord) : Bool :=
  (ensPipes b g).any fun p => (l.otherEns k).any fun o =>
    (List.range 24).any fun s =>
      rangesMeet (ensBase g p s) (ensCount g p s) (ensBase o p s) (ensCount o p s)

/-! ### Comparisons and the vote (R344 to R346) -/

/-- The ordered image of a binary32 word, with −0 equal to +0. -/
def fkey (x : Nat) : Nat :=
  let x := if x % 0x80000000 = 0 then 0 else x
  if x < 0x80000000 then x + 0x80000000 else 0xFFFFFFFF - x

/-- The direction a node takes: true for right. -/
def nodeDir (w : DWord) (x : Option Word) : Bool :=
  let dflt := bit w 1
  let ty := fld w 2 3
  let thr := fld w 32 32
  match x with
  | none => dflt
  | some v =>
    let x := v.toNat
    if ty = 2 then !decide (sInt 32 x < sInt 32 thr)
    else if ty = 3 then !decide (x < thr)
    else if ty = 4 then (if 32 ≤ x then dflt else !thr.testBit x)
    else
      let x := if ty = 1 then x % 65536 * 65536 else x
      if nanBits x then dflt else !decide (fkey x < fkey thr)

/-- The leaf a walk reaches from address `a` of stage `s`: class and weight. -/
def walkTree (g : List DWord) (p : Nat) (xs : List (Option Word)) : Nat → Nat → Nat → Nat × Nat
  | 0, _, _ => (0, 0)
  | fuel + 1, s, a =>
    let w := nodeAt g p s a
    if bit w 0 then (fld w 5 8, fld w 1 4)
    else walkTree g p xs fuel (s + 1)
      (2 * fld w 15 17 + b2n (nodeDir w ((xs[fld w 5 10]?).getD none)))

/-- The nodes that a walk reads, as stage and address. -/
def walkNodes (g : List DWord) (p : Nat) (xs : List (Option Word)) : Nat → Nat → Nat → List (Nat × Nat)
  | 0, _, _ => []
  | fuel + 1, s, a =>
    let w := nodeAt g p s a
    (s, a) :: if bit w 0 then [] else walkNodes g p xs fuel (s + 1)
      (2 * fld w 15 17 + b2n (nodeDir w ((xs[fld w 5 10]?).getD none)))

/-- Sample `i` of a run reads this node of pipe `p` (R347). -/
def sampleReads (b : Build) (g : List DWord) (i : Nat) (xs : List (Option Word)) (p : Nat)
    (node : Nat × Nat) : Bool :=
  decide (p / (b.pipes / 2 ^ ensGlog g) = i % 2 ^ ensGlog g) &&
  (List.range (ensNT g p)).any fun t => (walkNodes g p xs (ensDepth g) 0 (ensRoot g p + t)).contains node

/-- The pipe of byte `a` of the node memory: the pipes' banks lie one behind the other (DESIGN CHOICE, log
entry 137). -/
def Build.nodePipe (b : Build) (a : Nat) : Nat := a / (8 * b.bankNodes * b.banks)

/-- The node, as stage and address, that the bank map of image `g` has at byte `a` of the node memory (R335). -/
def nodeOf (b : Build) (g : List DWord) (a : Nat) : Option (Nat × Nat) :=
  let p := b.nodePipe a
  let k := a / (8 * b.bankNodes) % b.banks
  let e := ensBank g p k
  if e < 128 then none
  else
    let s := e % 32
    let below := (List.range k).filter fun j => decide (128 ≤ ensBank g p j ∧ ensBank g p j % 32 = s)
    some (s, below.length * b.bankNodes + a / 8 % b.bankNodes)

/-- Image `g` has a node at byte `a` of the node memory. -/
def holdsNode (b : Build) (g : List DWord) (a : Nat) : Bool :=
  let p := b.nodePipe a
  match nodeOf b g a with
  | some (s, n) => decide (ensBase g p s ≤ n ∧ n < ensBase g p s + ensCount g p s)
  | none => false

/-- The leaves that the trees of group `k` give a sample. -/
def groupLeaves (b : Build) (g : List DWord) (k : Nat) (xs : List (Option Word)) : List (Nat × Nat) :=
  let per := b.pipes / 2 ^ ensGlog g
  (List.range per).flatMap fun i =>
    let p := k * per + i
    (List.range (ensNT g p)).map fun t => walkTree g p xs (ensDepth g) 0 (ensRoot g p + t)

/-- The total of class `c`. -/
def classTotal (ls : List (Nat × Nat)) (c : Nat) : Nat :=
  ls.foldl (fun a x => if x.1 = c then a + x.2 else a) 0

/-- The class with the greatest total among those not listed; the lowest number on a tie. -/
def bestClass (tot : List (Nat × Nat)) : Option (Nat × Nat) :=
  tot.foldl (fun a x =>
    match a with
    | some y => if y.2 < x.2 then some x else a
    | none => if 0 < x.2 then some x else none) none

/-- At most `n` classes by descending total. -/
def rankClasses : Nat → List (Nat × Nat) → List (Nat × Nat)
  | 0, _ => []
  | n + 1, tot =>
    match bestClass tot with
    | some x => x :: rankClasses n (tot.filter fun y => decide (y.1 ≠ x.1))
    | none => []

/-- The answer of a sample: up to four classes with their totals. -/
def voteOf (ls : List (Nat × Nat)) : List (Nat × Nat) :=
  rankClasses 4 ((List.range 256).map fun c => (c, classTotal ls c))

/-- The two result words (Table 6.7): classes and the greatest total, then the other totals. -/
def voteWords (v : List (Nat × Nat)) : List DWord :=
  let e := fun i => v.getD i (255, 0)
  [packW [(0, (e 0).1), (8, (e 1).1), (16, (e 2).1), (24, (e 3).1), (32, (e 0).2)],
   packW [(0, (e 1).2), (20, (e 2).2), (40, (e 3).2)]]

/-- The results of the samples of one query or run: sample `i` goes to group `i mod 2^GLOG` (R347). -/
def ensResults (b : Build) (g : List DWord) (samples : List (List (Option Word))) : List (List DWord) :=
  (List.range samples.length).map fun i =>
    voteWords (voteOf (groupLeaves b g (i % 2 ^ ensGlog g) (samples.getD i [])))

end Sys2Proof.Machine
end

