-- ==== Sys2Proof/Machine/EngCore.lean ====
section
/-! DEFINITION. What the engines share: the readable window of a series and its blocks, model slots and their
use by plans, sequence jobs and their records, and the live states of actions (spec/13 R320, R332; spec/14
R341; spec/15 R381 to R390). -/

namespace Sys2Proof.Machine

/-! ### Series -/

/-- The cellar address of the ring slot of block `no`. -/
def Live.serAddr (l : Live) (b : Build) (s no : Nat) : Nat :=
  l.get b F.SER_BASE_BASE s * 1024 + no % l.serNblk b s * blkSize (l.get b F.SER_CFG_RATIO s)

/-- The class of block `no` of series `s` for a reader that expects GEN `gen` (R332). A slot never
written fails. -/
def Live.serBlock (l : Live) (b : Build) (s gen no : Nat) : BlkClass :=
  match Tab.find? (l.sery s).ring (no % l.serNblk b s) with
  | some x =>
    classify (l.get b F.SER_CFG_TYPE s) (l.get b F.SER_CFG_RATIO s) gen (l.serNblk b s) no
      (x.poison || l.celSpoilt b (l.serAddr b s no) (blkSize (l.get b F.SER_CFG_RATIO s))) x.words
  | none => .failing

/-- What reading a range of a series gives; `nos` are the blocks that were read. -/
structure SerRead where
  xs : Samples
  inex : Nat
  poison : Bool
  stale : Bool
  fails : List Nat
  nos : List Nat
  deriving DecidableEq, Repr

/-- Samples `xs` of block `no` that lie in the range of `len` samples from `first` on. -/
def inRange (first : Word) (len no : Nat) (xs : List Word) : Samples :=
  (List.range 256).filterMap fun i =>
    let n := BitVec.ofNat 32 (no * 256 + i)
    if (n - first).toNat < len then some (n, xs.getD i 0) else none

/-- The blocks that hold `len` samples from `first` on. -/
def blocksIn (first : Word) (len : Nat) : List Nat :=
  let k := if len = 0 then 0 else (first.toNat % 256 + len + 255) / 256
  (List.range k).map fun i => (first.toNat / 256 + i) % 16777216

/-- `len` samples read from `first` on, block by block. -/
def Live.serRead (l : Live) (b : Build) (s gen : Nat) (first : Word) (len : Nat) : SerRead :=
  let nos := blocksIn first len
  nos.foldl (fun a no =>
    match l.serBlock b s gen no with
    | .exact xs => { a with xs := a.xs ++ inRange first len no xs }
    | .inexact xs => { a with xs := a.xs ++ inRange first len no xs, inex := a.inex + 1 }
    | .poisoned => { a with poison := true }
    | .overtaken => { a with stale := true }
    | .failing => { a with poison := true, fails := a.fails ++ [no] }) ⟨[], 0, false, false, [], nos⟩

/-- The requests, counts and events of a read (R310, R428, Table 13.5). -/
def Live.countRead (l : Live) (b : Build) (s : Nat) (x : SerRead) : Live :=
  let n := blkSize (l.get b F.SER_CFG_RATIO s)
  let l := x.nos.foldl (fun l no => l.celRead b (l.serAddr b s no) n) l
  let l := l.when x.stale fun l => l.bump b F.SER_ERR_OVERTAKEN
  x.fails.foldl (fun l no => (l.bump b F.SER_ERR_BLK_CHECK).logE b 0x0B02 3 [s, no]) l

/-! ### Source events (R314, R450) -/

/-- SER_SRC of series `s` as one word. -/
def Live.serSrc (l : Live) (b : Build) (s : Nat) : Nat :=
  l.get b F.SER_SRC_LOCAL s + (l.get b F.SER_SRC_STREAM s <<< 8) + (l.get b F.SER_SRC_POS s <<< 22)
    + (l.get b F.SER_SRC_ITEM7 s <<< 29)

/-- Source events: `f` gives, from SKIND and SER_SRC, what a series takes. An enabled series takes them
in order; a series still to be restored discards them and counts them. -/
def Live.offer (l : Live) (b : Build) (f : Nat → Nat → List SVal) : Live :=
  let evs := (l.ser.sers.filter fun e => e.2.on).flatMap fun e =>
    (f (l.get b F.SER_CFG_SKIND e.1) (l.serSrc b e.1)).map fun v => (e.1, v)
  let l := { l with ser := { l.ser with events := l.ser.events ++ evs } }
  match l.flt.rest with
  | some q =>
    let n := q.defs.foldl (fun a e =>
      if e.1 ∈ q.restored then a
      else a + (f (e.2.cfg.toNat / 8192 % 8) e.2.src.toNat).length) 0
    l.bump b F.REST_STAT_DISCARD 0 n
  | none => l

/-! ### Model slots -/

/-- The slot is named by an action of a plan in ARMING, ARMED or RUNNING (PLAN_USE). -/
def Live.planUse (l : Live) (b : Build) (isSeq : Bool) (k : Nat) : Bool :=
  b.lantern && l.plans.any fun e => e.2.active &&
    (imgActions e.2.image).any fun a => decide (a.engine = b2n isSeq ∧ a.slot = k)

/-- Free words of the model store (SEQ_STORE). -/
def Live.storeFree (l : Live) : Nat :=
  524288 - l.eng.seqs.foldl (fun a e => a + e.2.image.length) 0

/-- Bytes of the action state area that an image needs (R390). -/
def Live.liveNeed (l : Live) (g : Image) : Nat :=
  (imgActions g).foldl (fun n a =>
    if a.engine = 1 ∧ (seqBlk g a).mode ≤ 2 then
      n + (seqBlk g a).nser * (4 * modStates (l.seqm a.slot).image + 16)
    else n) 0

/-- Free bytes of the action state area: the plans in ARMING, ARMED and RUNNING hold theirs. -/
def Live.liveFree (l : Live) : Nat :=
  2097152 - l.plans.foldl (fun n e => if e.2.active then n + l.liveNeed e.2.image else n) 0

/-! ### Sequence jobs -/

/-- The common part of a SEQRES payload (Table 15.6). -/
def seqCommon (plan mode : Nat) (lost : Bool) (slot series epoch : Nat) (inex : Bool) (first : Word)
    (len gen nfill model ninex : Nat) : List DWord :=
  [packW [(0, plan), (8, mode), (11, b2n lost), (12, slot), (16, series), (32, epoch % 65536),
     (48, b2n inex)],
   packW [(0, first.toNat), (32, len)],
   packW [(0, gen), (32, nfill)],
   packW [(0, model), (32, ninex)]]

/-- Body words of a mode before any state: Tables 15.7 to 15.9. -/
def seqBodyLen (mode : Nat) : Nat := if mode ≤ 2 then 5 else if mode = 3 then 18 else 28

/-- What a job gives: body, whether a STATS value was saturated, final state. -/
structure SeqOut where
  body : List DWord
  sat : Bool
  state : List Word
  deriving DecidableEq, Repr

/-- A job of a mode with model `g`, query `q` and state `h` over samples of type `ty`. -/
def seqCompute (mode : Nat) (g : List DWord) (ty : Nat) (q h : List Word) (xs : Samples) : SeqOut :=
  if mode ≤ 2 then
    let r := modRun g (if modKind g = 3 then modLayers g else []) ty h xs
    ⟨liveBody g r.1 r.2, false, r.1⟩
  else if mode = 3 then ⟨searchBody ty q xs, false, []⟩
  else
    let s := statRun g ty xs
    ⟨statBody s, decide (s.nsat ≠ 0), []⟩

/-- Every state value at +0. -/
def zeroState (g : List DWord) : List Word := List.replicate (modStates g) 0

/-! ### Live states (R387) -/

/-- The catch-up point of series `s` under anchor exponent `al`. -/
def Live.catchUp (l : Live) (b : Build) (s al : Nat) : Word :=
  let c := (l.sery s).commit
  let a := c - BitVec.ofNat 32 (c.toNat % (256 * 2 ^ al))
  let w := l.serFirst b s
  if (c - w).toNat < (c - a).toNat then w else a

/-- The live states of plan `p` at its start count. -/
def Live.startLives (l : Live) (b : Build) (p : Nat) : Live :=
  let g := (l.plan p).image
  (List.range (secCount g 10)).foldl (fun l i =>
    let a := imgAction g i
    let k := seqBlk g a
    if a.engine = 1 ∧ k.mode ≤ 2 then
      let m := (l.seqm a.slot).image
      (List.range k.nser).foldl (fun l j =>
        let s := k.sers.getD j 0
        let x : Live1 := ⟨l.catchUp b s (modAL m), zeroState m, l.gen s⟩
        { l with eng := { l.eng with live := Tab.insert l.eng.live (liveKey p i j) x } }) l
    else l) l

end Sys2Proof.Machine
end

