-- ==== Sys2Proof/Machine/Arm.lean ====
section
/-! DEFINITION. Arming, launch, teardown and abort of plans, on both forms (spec/09 R244 to R252), and
the end of a plan by a cleared enable (spec/03 R106). -/

namespace Sys2Proof.Machine

/-! ### What a plan needs -/

/-- Items and sampling items of a buoy section, as kind and index. -/
def secAllItems (g : Image) : List (Nat × Nat) :=
  (List.range (secNbi g)).map (fun j => ((secItem g j).1, (secItem g j).2.1)) ++
    (secSamp g).1.flatMap (·.items)

/-- Links that an image names. -/
def imgLinks (g : Image) : List Nat :=
  ([1, 2, 3].map (imgStage g)).flatMap (fun s =>
    (if s.hasParent then [s.parent] else []) ++ s.children.map (·.link)) ++
  ([0, 1].map (imgBcast g)).flatMap (fun t =>
    (if t.hasParent then [t.parent] else []) ++ t.children) ++
  (imgSlots g).map (·.link)

/-- The image reads the series store. -/
def imgReadsSeries (g : Image) : Bool :=
  (imgActions g).any (fun a => decide (a.engine = 1)) ||
  (imgItems g).any (fun x => decide (x.kind = 4))

/-- The plan uses a unit whose enable, bit `i` of field `f`, is among those that `off` names. -/
def Live.planUses (l : Live) (b : Build) (x : Plan) (off : Fld → Nat → Bool) : Bool :=
  let g := x.image
  if b.buoy then
    (secAllItems g).any fun i =>
      if i.1 ≤ 1 then (l.cfgTap (l.ctr i.2).cfg).any (off F.UNIT_EN_B_TAP) else off F.UNIT_EN_B_SENS 0
  else
    (imgLinks g).any (off F.UNIT_EN_LNK_LNK) ||
    (imgActions g).any (fun a =>
      if a.engine = 1 then off F.UNIT_EN_L_SEQ 0
      else (ensPipes b (l.tree a.slot).image).any (off F.UNIT_EN_L_TREE)) ||
    (decide (secCount g 7 ≠ 0) && off F.UNIT_EN_L_SYNC 0) ||
    (imgReadsSeries g && l.celPorts.any (off F.UNIT_EN_CEL_CEL))

/-- A unit that the plan uses is gated (R106). -/
def Live.planGated (l : Live) (b : Build) (x : Plan) : Bool :=
  l.planUses b x fun f i => !l.flag b f 0 i

/-- Plans in ARMING, ARMED or RUNNING. -/
def Live.activeCount (l : Live) : Nat := (l.plans.filter fun e => e.2.active).length

/-- `s` is a cell boundary (R240). -/
def Live.cellBoundary (l : Live) (b : Build) (s : Word) : Bool :=
  decide (ftDiff s (BitVec.ofNat 32 (l.get b F.SCH_NEXT_B)) % 500000 = 0)

/-- The slots and series of an image's actions are as R356 and R390 ask. -/
def Live.engReady (l : Live) (_b : Build) (g : Image) : Bool :=
  (imgActions g).all fun a =>
    if a.engine = 0 then
      let k := treeBlk g a
      let x := l.tree a.slot
      x.ready && decide (ensId x.image = k.ensId ∧ ensNFeat x.image = k.nf)
    else
      let k := seqBlk g a
      let x := l.seqm a.slot
      x.ready && decide (modKind x.image = modeKind k.mode ∧ modId x.image = k.modelId) &&
        k.sers.all fun s => (l.sery s).on

/-- The charge of a record of `len` bytes (R255). -/
def Live.charge (l : Live) (b : Build) (len : Nat) : Nat :=
  (if l.flag b F.SHP_CTL_CHG_MODE then 32 * ((len + 31) / 32) else len) + l.get b F.SHP_CTL_OVH

/-- The queue of a buoy's CUTVEC stream would hold the cut vector back (R266, R308). -/
def Live.cutvecHeld (l : Live) (b : Build) (g : Image) : Bool :=
  let q := l.queueOf b (secCvStream g)
  let c := l.get b F.EGQ_CFG_CLASS q
  let n := l.charge b (24 + 8 * secNbi g)
  decide (l.get b F.SHP_CIR_CIR c = 0 ∨ l.get b F.SHP_PIR_PIR c = 0 ∨
    l.get b F.SHP_CBS_CBS c < n ∨ l.get b F.SHP_PBS_PBS c < n) || l.flag b F.QUE_CFG_NOTICE q

/-- A resource of plan `p` is owned by another plan that does not end at or before `s`, or a
quiet-window set of it is enabled by software (R238, R245, R252). -/
def Live.armClash (l : Live) (b : Build) (p : Nat) (s : Word) : Bool :=
  let g := (l.plan p).image
  l.plans.any (fun e => decide (e.1 ≠ p) && e.2.active &&
    !(e.2.tdEn && decide (0 ≤ ftDiff s e.2.d)) &&
    (if b.buoy then !(secConflicts g e.2.image).isEmpty else !(imgConflicts g e.2.image).isEmpty)) ||
  (b.buoy && (secQw g).any fun q => (l.qw q.set).en && decide ((l.qw q.set).owner = 0))

/-- E_RANGE of R245. -/
def Live.armRange (l : Live) (b : Build) (s d : Word) (td : Bool) : Bool :=
  (b.lantern && l.flag b F.SCH_CTL_GRID_EN && !l.cellBoundary b s) || (td && decide (ftDiff d s ≤ 0))

/-- A load or a verify of the entry still awaits buoys. -/
def Plan.collecting (x : Plan) : Bool := x.loadReply.isSome || x.verifyReply.isSome

/-- E_STATE of R245 but for the root and the entry's state: R113, R240, R266, R308, R356, R390. -/
def Live.armState (l : Live) (b : Build) (x : Plan) : Bool :=
  let g := x.image
  !l.timed || x.collecting ||
  (if b.buoy then l.cutvecHeld b g
   else !l.flag b F.SCH_CTL_GRID_EN || !l.engReady b g)

/-- E_SLOT of R245, R126, R229 and R390. -/
def Live.armSlot (l : Live) (b : Build) (p : Nat) (s : Word) (td : Bool) : Bool :=
  decide (b.cmps < l.cmpUsed + 1 + b2n td) || decide (16 ≤ l.activeCount) ||
  l.armClash b p s ||
  (b.lantern && decide (l.liveFree < l.liveNeed (l.plan p).image))

/-- The checks of R245 at the block that takes PLAN_ARM. -/
def Live.armErr (l : Live) (b : Build) (p : Nat) (s d : Word) (td : Bool) : Option Nat :=
  let x := l.plan p
  firstErr [
    (l.planGated b x, eGated),
    (l.armRange b s d td, eRange),
    (decide (x.state ≠ .verified) || (b.lantern && !l.isRoot b x) || l.armState b x, eState),
    (!l.inWindow s || (td && !l.inWindow d) ||
      (b.lantern && decide ((s - l.ft).toNat < 60000000)), eTime),
    (l.armSlot b p s td, eSlot),
    (l.bad (.plan p), ePoison)]

/-- The checks of R246 at a lantern that receives ARM. -/
def Live.armMsgErr (l : Live) (b : Build) (p : Nat) (setId : Nat) (s d : Word) (td : Bool) :
    Option Nat :=
  let x := l.plan p
  firstErr [
    (decide (x.state ≠ .verified) || decide (imgSetId x.image ≠ setId), eState),
    (l.planGated b x, eGated),
    (l.armRange b s d td, eRange),
    (l.armState b x, eState),
    (l.armSlot b p s td, eSlot),
    (!l.inWindow s, eTime),
    (l.bad (.plan p), ePoison)]

/-! ### ARMED and ARMING -/

/-- Start and teardown counts armed. -/
def Live.armCounts (l : Live) (p : Nat) (s d : Word) (td : Bool) : Live :=
  let l := l.armCmp (.start p) s
  if td then l.armCmp (.teardown p) d else l

/-- The entry enters ARMED: it owns its objects and quiet-window sets (R238, R239, R241), those of an older plan
that ends by the start count once that plan ends (R252); the last epoch latched is forgotten (R201). -/
def Live.enterArmed (l : Live) (b : Build) (p : Nat) : Live :=
  (l.updPlan p fun x => { x with state := .armed, epochNext := 0, lastLatched := none, lastT := none }).claim b p

/-- The entry enters ARMING and its verified buoys are armed in-band (R246). -/
def Live.enterArming (l : Live) (b : Build) (p : Nat) (s d : Word) (td : Bool) : Live :=
  let x := l.plan p
  let ks := x.buoyOk
  let l := l.setPlan p { x with
    state := .arming, s := s, d := d, tdEn := td, cond := none, reported := [], coll := ⟨ks, 0⟩,
    lant := 1, buoy := 0, nogo := 0, refused := false, sentReport := false, upAbort := false }
  let l := l.armCounts p s d td
  l.ownCmds b ks .arm p 0x12 p [packW [(0, s.toNat), (32, d.toNat)], packW [(0, b2n td)]]

/-- The root arms plan `p`: ARM_SEQ goes up, ARMING, ARM is broadcast (R245). -/
def Live.rootArm (l : Live) (b : Build) (p : Nat) (s d : Word) (td : Bool) (auto : Bool) : Live :=
  let l := l.updPlan p fun x => { x with armSeq := (x.armSeq + 1) % 256, autoArm := auto }
  let l := l.enterArming b p s d td
  let x := l.plan p
  let l := l.updPlan p fun x => { x with seen := [(1, x.armSeq, 0)] }
  l.bcast p (ctlMsg x p 1 s.toNat d.toNat (packW [(0, b2n td)]) 0)

/-- PLAN_ARM (R245, R246). -/
def execPlanArm (p : Packet) (s : State) : Host.Outcome State Fault Refusal :=
  s.run fun b l => l.command b (.planArm p) (opRow 0x12 true true 1 2 2) p fun l r =>
    let k := p.aBits 0 8
    let w := wordAt p.data 0
    let st := BitVec.ofNat 32 (fld w 0 32)
    let d := BitVec.ofNat 32 (fld w 32 32)
    let td := bit (wordAt p.data 1) 0
    match l.armErr b k st d td with
    | some e => (l.when (decide (e = ePoison)) fun l => l.meet b (.plan k)).reply b r e
    | none =>
      if b.buoy then
        let l := l.updPlan k fun x => { x with s := st, d := d, tdEn := td }
        ((l.armCounts k st d td).enterArmed b k).reply b r 0 k
      else
        let l := (l.rootArm b k st d td false).hold r (.planArm p)
        l.updPlan k fun x => { x with armReply := some r }

/-! ### Control messages as they arrive -/

/-- A control message with another ARM_SEQ ends the plan held here (R244). -/
def Live.seqMismatch (l : Live) (b : Build) (m : CtlMsg) : Live :=
  let x := l.plan m.plan
  if x.active ∧ x.armSeq ≠ m.armSeq then
    (l.logE b 0x0702 2 [x.armSeq, m.armSeq] m.plan).abortCopy b m.plan
  else l

/-- A control message can arrive on link `n`: the lantern is awake, the link is UP and the message is
of this kind. -/
def Live.ctlOk (l : Live) (b : Build) (n : BitVec 5) (m : CtlMsg) (kind : Nat) : Bool :=
  b.lantern && l.awake && l.isUp n.toNat && decide (m.kind = kind)

/-- Receipts remembered for plan `p`: of one ARM_SEQ and the one before it; a cut call for 255 epochs. -/
def keepSeen (k q e : Nat) (seen : List (Nat × Nat × Nat)) : List (Nat × Nat × Nat) :=
  let s := if k = 1 then seen.filter fun x => decide (x.2.1 = q ∨ x.2.1 = (q + 255) % 256) else seen
  let s := if k = 6 then s.filter fun x => decide (x.1 ≠ 6 ∨ (e + 65536 - x.2.2) % 65536 ≤ 255) else s
  s ++ [(k, q, e)]

/-- A broadcast message arrives: a later copy is discarded and counted; a first one is forwarded on
both trees and acted on by `act` (R244). -/
def Live.takeBcast (l : Live) (b : Build) (m : CtlMsg) (epoch : Nat) (act : Live → Live) : Live :=
  let p := m.plan
  if (m.kind, m.armSeq, epoch) ∈ (l.plan p).seen then l.bump b F.SCH_ERR_DUP_CTL
  else
    let l := l.updPlan p fun x => { x with seen := keepSeen m.kind m.armSeq epoch x.seen }
    let l := if (l.plan p).image = [] then l else l.bcast p m
    act (l.seqMismatch b m)

/-! ### REPORT (R246) -/

/-- The places of the children of an image: stage and index. -/
def imgKids (g : Image) : List (Nat × Nat × Child) :=
  [1, 2, 3].flatMap fun st =>
    let cs := (imgStage g st).children
    (List.range cs.length).filterMap fun i => (cs[i]?).map fun c => (st, i, c)

/-- A lantern in ARMING, or one that refused the ARM, still owes its parent a REPORT. -/
def Plan.owesReport (x : Plan) : Bool :=
  (decide (x.state = .arming) || x.refused) && !x.sentReport

/-- The REPORT leaves for the parent with what is held. -/
def Live.sendReport (l : Live) (b : Build) (p : Nat) : Live :=
  let x := l.plan p
  if !x.owesReport ∨ l.isRoot b x then l
  else
    let l := l.updPlan p fun x => { x with sentReport := true }
    match upLink x.image with
    | some n =>
      l.sendCtl n (ctlMsg x p 2 0 0 (packW [(0, x.lant), (32, x.buoy + x.coll.ok)])
        (packW [(0, x.nogo)]))
    | none => l

/-- The REPORT leaves once every child and every buoy has answered. -/
def Live.tryReport (l : Live) (b : Build) (p : Nat) : Live :=
  let x := l.plan p
  if x.coll.waiting = [] ∧ (imgKids x.image).all (fun k => decide ((k.1, k.2.1) ∈ x.reported)) then
    l.sendReport b p
  else l

/-- ARM_RECEIVE (R246). -/
def execArmReceive (n : BitVec 5) (m : CtlMsg) (s : State) : Host.Outcome State Fault Refusal :=
  s.run fun b l =>
    if !l.ctlOk b n m 1 then l
    else l.takeBcast b m 0 fun l =>
      let p := m.plan
      let st := BitVec.ofNat 32 m.c1
      let d := BitVec.ofNat 32 m.c2
      let td := bit m.w2 0
      let l := l.updPlan p fun x => if x.image = [] then x else { x with armSeq := m.armSeq }
      match l.armMsgErr b p m.setId st d td with
      | none => (l.enterArming b p st d td).tryReport b p
      | some e =>
        let l := (l.when (decide (e = ePoison)) fun l => l.meet b (.plan p)).logE b 0x0703 2 [] p e
        let x := l.plan p
        if x.image = [] then l
        else (l.setPlan p { x with
          refused := true, s := st, reported := [], coll := ⟨[], 0⟩, lant := 0, buoy := 0, nogo := 1,
          sentReport := false }).tryReport b p

/-- REPORT_RECEIVE (R246). -/
def execReportReceive (n : BitVec 5) (m : CtlMsg) (s : State) : Host.Outcome State Fault Refusal :=
  s.run fun b l =>
    if !l.ctlOk b n m 2 then l
    else
      let p := m.plan
      (l.seqMismatch b m).readsPlan b p fun l =>
      let x := l.plan p
      let kid := (imgKids x.image).find? fun k =>
        decide (k.2.2.link = n.toNat ∧ (k.1, k.2.1) ∉ x.reported)
      match kid with
      | some k =>
        if x.armSeq ≠ m.armSeq ∨ !(decide (x.state = .arming) || x.refused) then l
        else
          let l := l.setPlan p { x with
            reported := x.reported ++ [(k.1, k.2.1)], lant := x.lant + fld m.w2 0 32,
            buoy := x.buoy + fld m.w2 32 32, nogo := x.nogo + fld m.w3 0 32 }
          l.tryReport b p
      | none => l

/-- REPORT_DEADLINE (R246): S − 51 ms. -/
def execReportDeadline (plan : BitVec 8) (s : State) : Host.Outcome State Fault Refusal :=
  s.runAwake fun b l =>
    let x := l.plan plan.toNat
    if b.lantern ∧ reached l.ft (x.s - 51000000) then l.sendReport b plan.toNat else l

/-! ### GO (R247, R248) -/

/-- GO_DECISION (R247): the root, at S − 50 ms. -/
def execGoDecision (plan : BitVec 8) (s : State) : Host.Outcome State Fault Refusal :=
  s.runAwake fun b l =>
    let p := plan.toNat
    let x := l.plan p
    if b.buoy ∨ x.state ≠ .arming ∨ !l.isRoot b x ∨ !reached l.ft (x.s - 50000000) then l
    else
      let buoys := x.buoy + x.coll.ok
      let l := l.put b F.PLAN_ARMCNT_LANT (min x.lant 2047) p
      let l := l.put b F.PLAN_ARMCNT_BUOY (min buoys 524287) p
      let l := l.put b F.PLAN_NOGO_NOGO (min x.nogo 65535) p
      if x.lant = imgFleet x.image ∧ x.nogo = 0 then
        let l := l.updPlan p fun x => { x with seen := x.seen ++ [(3, x.armSeq, 0)] }
        let l := l.bcast p (ctlMsg x p 3 0 0 0 0)
        (l.enterArmed b p).answerLeft b p
      else l.abortPlan b p eAborted

/-- GO_RECEIVE (R248). -/
def execGoReceive (n : BitVec 5) (m : CtlMsg) (s : State) : Host.Outcome State Fault Refusal :=
  s.run fun b l =>
    if !l.ctlOk b n m 3 then l
    else l.takeBcast b m 0 fun l =>
      let x := l.plan m.plan
      if x.state = .arming ∧ x.armSeq = m.armSeq then l.readsPlan b m.plan fun l => l.enterArmed b m.plan
      else l

/-- ARMING_TIMEOUT (R248): still ARMING at S − 10 ms. -/
def execArmingTimeout (plan : BitVec 8) (s : State) : Host.Outcome State Fault Refusal :=
  s.runAwake fun b l =>
    let p := plan.toNat
    let x := l.plan p
    if b.lantern ∧ x.state = .arming ∧ reached l.ft (x.s - 10000000) then
      (l.logE b 0x0704 3 [x.s.toNat] p).abortCopy b p
    else l

/-! ### Counts reached -/

/-- The first comparator of owner `o` whose count is reached. -/
def reachedAt (ft : Word) (o : Owner) : Nat → List Cmp → Option (Nat × Cmp)
  | _, [] => none
  | i, c :: t => if c.owner = o ∧ reached ft c.count then some (i, c) else reachedAt ft o (i + 1) t

/-- The count of owner `o` fires if it is reached and has not fired yet (R124). -/
def Live.pull (l : Live) (o : Owner) : Live :=
  if l.hasFired o then l
  else match reachedAt l.ft o 0 l.time.cmps with
    | some (i, c) => l.fireCmp i c
    | none => l

/-- The teardown of plan `p` takes effect if its count is reached (R250). A conditional one does so only
if its standby plan is ARMED with S = D, and is dropped otherwise (R446). -/
def Live.tearDue (l : Live) (b : Build) (p : Nat) : Live :=
  let l := l.pull (.teardown p)
  match l.firedOf (.teardown p) with
  | none => l
  | some f =>
    let l := l.useFired (.teardown p)
    match (l.plan p).cond with
    | some q =>
      let y := l.plan q
      if y.state = .armed ∧ y.s = f.count then l.endPlan b p eAborted eAborted
      else l.updPlan p fun x => { x with cond := none, tdEn := false }
    | none => l.endPlan b p eAborted eAborted

/-- PLAN_TEARDOWN_REACHED (R250, R446). -/
def execPlanTeardownReached (plan : BitVec 8) (s : State) : Host.Outcome State Fault Refusal :=
  s.runAwake fun b l => l.tearDue b plan.toNat

/-- A buoy's quiet-window sets at the start count (R238). -/
def Live.startQw (l : Live) (b : Build) (p : Nat) (st : Word) : Live :=
  (secQw (l.plan p).image).foldl (fun l q =>
    let w := st + BitVec.ofNat 32 q.ofs
    let l := l.put b F.QW_START_START w.toNat q.set
    let l := l.put b F.QW_PERIOD_PERIOD q.period q.set
    let l := l.put b F.QW_LEN_LEN q.len q.set
    l.updQw q.set fun _ => { qw0 with en := true, s := w, owner := p }) l

/-- The first cut of a periodic plan falls at S + CUT_OFS with epoch 0 (R248, R198). -/
def Live.startCuts (l : Live) (b : Build) (p : Nat) (st : Word) : Live :=
  let g := (l.plan p).image
  let per := if b.buoy then secPeriod g else imgPeriod g
  let ofs := if b.buoy then secCutOfs g else imgCutOfs g
  let items := if b.buoy then secNbi g else imgNItems g
  let t := st + BitVec.ofNat 32 ofs
  let l := l.updPlan p fun x => { x with nextT := t }
  if per = 0 ∨ items = 0 then l else l.armCmp (.cuts p) t per

/-- PLAN_START (R248, R252): teardowns that are due take effect first. -/
def execPlanStart (plan : BitVec 8) (s : State) : Host.Outcome State Fault Refusal :=
  s.runAwake fun b l =>
    let p := plan.toNat
    let l := l.pull (.start p)
    if (l.plan p).state ≠ .armed ∨ !l.hasFired (.start p) then l
    else l.readsPlan b p fun l =>
      let l := (l.plans.map (·.1)).foldl (fun l q => if q = p then l else l.tearDue b q) l
      let l := l.useFired (.start p)
      let st := (l.plan p).s
      let l := l.updPlan p fun x => { x with
        state := .running,
        sampNext := (secSamp x.image).1.map fun g => st + BitVec.ofNat 32 g.offset }
      let l := if b.buoy then l.startQw b p st
        else (l.updPlan p fun x => { x with sampNext := [] }).startLives b p
      (l.startCuts b p st).checkBuoys b

/-! ### Teardown and abort -/

/-- The teardown count of plan `p`: it keeps the comparator it holds (R250). -/
def Live.armTeardown (l : Live) (p : Nat) (d : Word) (cond : Option Nat) : Live :=
  (l.armCmp (.teardown p) d).updPlan p fun x => { x with tdEn := true, d := d, cond := cond }

/-- A teardown count of the plan is armed and `d` is not earlier. -/
def Plan.tdLater (x : Plan) (d : Word) : Bool := x.tdEn && decide (0 ≤ ftDiff d x.d)

/-- Each lantern passes a teardown in-band to its buoys. -/
def Live.passTeardown (l : Live) (b : Build) (p : Nat) (d : Word) : Live :=
  l.ownCmds b (imgNamed (l.plan p).image) .teardown p 0x14 p [packW [(0, d.toNat)]]

/-- The root, or a buoy, tears the plan down at `d`. -/
def Live.teardownAt (l : Live) (b : Build) (p : Nat) (d : Word) (cond : Option Nat) : Live :=
  let x := l.plan p
  let l := l.armTeardown p d cond
  if b.buoy then l
  else
    let w := packW [(1, b2n cond.isSome), (8, cond.getD 0)]
    let l := l.updPlan p fun x => { x with seen := keepSeen 5 x.armSeq 0 x.seen }
    (l.bcast p (ctlMsg x p 5 d.toNat 0 w 0)).passTeardown b p d

/-- PLAN_TEARDOWN (R250). -/
def execPlanTeardown (p : Packet) (s : State) : Host.Outcome State Fault Refusal :=
  s.run fun b l => l.command b (.planTeardown p) (opRow 0x14 true true 1 0 1) p fun l r =>
    let k := p.aBits 0 8
    let x := l.plan k
    if p.data = [] then
      if x.state = .loading ∨ x.state = .loaded ∨ x.state = .verified then
        let l := l.replyAll b (x.loadReply.toList ++ x.verifyReply.toList) eAborted
        (l.setPlan k plan0).reply b r 0 k
      else l.reply b r eState
    else
      let d := BitVec.ofNat 32 (fld (wordAt p.data 0) 0 32)
      match firstErr [
        (!x.owns || (b.lantern && !l.isRoot b x) || !l.timed ||
          (x.tdEn && decide (0 < ftDiff d x.d)), eState),
        (!l.inWindow d, eTime),
        (!l.holdsCmp (.teardown k) && !l.cmpFree b, eSlot)] with
      | some e => l.reply b r e
      | none =>
        if x.tdEn ∧ d = x.d then l.reply b r 0 k
        else (l.teardownAt b k d none).reply b r 0 k

/-- TEARDOWN_RECEIVE (R250, R446). -/
def execTeardownReceive (n : BitVec 5) (m : CtlMsg) (s : State) : Host.Outcome State Fault Refusal :=
  s.run fun b l =>
    if !l.ctlOk b n m 5 then l
    else l.takeBcast b m 0 fun l =>
      let p := m.plan
      let x := l.plan p
      let d := BitVec.ofNat 32 m.c1
      if !x.active ∨ x.armSeq ≠ m.armSeq ∨ x.tdLater d then l
      else if !l.holdsCmp (.teardown p) ∧ !l.cmpFree b then
        (l.logE b 0x0706 3 [d.toNat] p eSlot).abortCopy b p
      else
        (l.armTeardown p d (if bit m.w2 1 then some (fld m.w2 8 8) else none)).passTeardown b p d

/-- PLAN_ABORT (R249). -/
def execPlanAbort (p : Packet) (s : State) : Host.Outcome State Fault Refusal :=
  s.run fun b l => l.command b (.planAbort p) (opRow 0x13 true true 1 0 0) p fun l r =>
    let k := p.aBits 0 8
    let x := l.plan k
    if !x.active then l.reply b r eState
    else (l.abortPlan b k).reply b r 0 x.done

/-- An ABORT with reason E_POISON on a link named as a child in the TREE section comes up from there
(R434, DEDUCED). -/
def Live.fromBelow (l : Live) (n : Nat) (m : CtlMsg) : Bool :=
  isChildLink (l.plan m.plan).image n && decide (fld m.w3 0 32 = ePoison)

/-- ABORT_RECEIVE (R249): the broadcast ABORT of the root. -/
def execAbortReceive (n : BitVec 5) (m : CtlMsg) (s : State) : Host.Outcome State Fault Refusal :=
  s.run fun b l =>
    if !l.ctlOk b n m 4 ∨ l.fromBelow n.toNat m then l
    else l.takeBcast b m 0 fun l =>
      let x := l.plan m.plan
      if x.active ∧ x.armSeq = m.armSeq then
        l.abortCopy b m.plan (if fld m.w3 0 32 = ePoison then ePoison else eAborted)
      else { l with plans := Tab.upd l.plans m.plan plan0 fun x => { x with refused := false } }

/-- UPWARD_ABORT_RECEIVE (R434). -/
def execUpwardAbortReceive (n : BitVec 5) (m : CtlMsg) (s : State) :
    Host.Outcome State Fault Refusal :=
  s.run fun b l =>
    let p := m.plan
    if !l.ctlOk b n m 4 ∨ !l.fromBelow n.toNat m then l
    else
      let l := l.seqMismatch b m
      let x := l.plan p
      if x.armSeq ≠ m.armSeq then l
      else if l.isRoot b x then
        if x.active then (l.logE b 0x1003 3 [4] p ePoison).abortPlan b p ePoison else l
      else l.abortUp p

/-! ### Replies to the lantern's own commands -/

/-- A buoy that failed a load or a verify (R230, R243). -/
def Live.buoyMissed (l : Live) (b : Build) (p loc status : Nat) : Live :=
  (l.updPlan p fun x => { x with buoyMiss := min (x.buoyMiss + 1) 65535 }).logE b 0x0701 2 [loc] p status

/-- Buoy `loc` has answered. -/
def Plan.answered (x : Plan) (loc : Nat) : Plan :=
  { x with coll := { x.coll with waiting := x.coll.waiting.filter fun k => decide (k ≠ loc) } }

/-- PLAN_LOAD and PLAN_VERIFY are answered once every named buoy has answered (R230, R243). -/
def Live.answerLoads (l : Live) (b : Build) (p : Nat) : Live :=
  let x := l.plan p
  if x.coll.waiting ≠ [] then l
  else
    let l := l.updPlan p fun x => { x with loadReply := none, verifyReply := none }
    let l := match x.loadReply with
      | some r => l.reply b r 0 (p + 256 * b2n x.standby)
      | none => l
    match x.verifyReply with
    | some r => l.reply b r 0 0xFFFFFFFF
    | none => l

/-- A named buoy that is sampled is absent from the open cut, and its cut vector does not count (R201, R212). -/
def OpenCut.absentee (o : OpenCut) (loc : Nat) : OpenCut :=
  { o with cls := o.cls.map fun c => if c.1 = loc ∧ c.2 ≠ .unsampled then (loc, .absent) else c,
           vecs := Tab.erase o.vecs loc }

/-- The answer of buoy `loc` to a command of plan `p`; for CUT_AT `p` carries the epoch too. A reply to CUT_AT
that is not OK, or that comes after the count, makes the buoy absent from that cut while its leaf is open
(R201). -/
def Live.planAnswer (l : Live) (b : Build) (use : OwnUse) (p loc status : Nat) : Live :=
  match use with
  | .load => l
  | .loadFinal =>
    let l := if status = 0 then l else l.buoyMissed b p loc status
    (l.updPlan p fun x => x.answered loc).answerLoads b p
  | .verify =>
    let l := if status = 0 then l.updPlan p fun x => { x with buoyOk := x.buoyOk ++ [loc] }
      else l.buoyMissed b p loc status
    (l.updPlan p fun x => x.answered loc).answerLoads b p
  | .arm =>
    let x := l.plan p
    if x.state ≠ .arming ∨ !x.coll.waiting.contains loc then l
    else
      let l := if status = 0 then
          l.updPlan p fun x => { x with coll := { x.coll with ok := x.coll.ok + 1 } }
        else l.logE b 0x0701 2 [loc] p status
      (l.updPlan p fun x => x.answered loc).tryReport b p
  | .abort => l
  | .teardown => if status = 0 then l else l.ownCmd b loc .abort p 0x13 p []
  | .cutAt =>
    let e := p / 256
    let p := p % 256
    let x := l.plan p
    if !x.owns then l
    else
      let l := if status = 0 then l else l.bump b F.CUT_ERR_BUOY_REJ p
      let gone := fun (t : Word) => decide (status ≠ 0) || reached l.ft t
      match x.pendCuts.find? fun c => decide (c.2 = e) with
      | some c => if gone c.1 then l.updPlan p fun x => { x with rejBuoys := x.rejBuoys ++ [(e, loc)] } else l
      | none => l.updPlan p fun x => { x with
          oc := x.oc.map fun o => if o.epoch = e ∧ !o.leafDone ∧ gone o.t then o.absentee loc else o }
  | .hang => l

/-! ### Cleared enables (R106) -/

/-- Plans in ARMED or RUNNING that use the unit whose bit `i` of field `f` has just been cleared end; event 0x0205
carries the register's number and the bit's. -/
def Live.endGated (l : Live) (b : Build) (reg : Nat) (f : Fld) (i : Nat) : Live :=
  l.plans.foldl (fun l e =>
    if (l.plan e.1).owns ∧ l.planUses b (l.plan e.1) fun g j => decide (g = f ∧ j = i) then
      (l.logE b 0x0205 3 [reg + 256 * (f.lo + i)] e.1 eGated).abortPlan b e.1
    else l) l

end Sys2Proof.Machine
end

