-- ==== Sys2Proof/Machine/Failover.lean ====
section
/-! DEFINITION. Lost lanterns and the switch to a standby plan (spec/19 R444 to R447). -/

namespace Sys2Proof.Machine

/-- Lantern `t` is a member of a domain (R445). -/
def domMember (g : Image) (d : DomEnt) (t : Nat) : Bool :=
  let e := imgLan g t
  if d.kind = 0 then decide (t = d.id)
  else e.valid && decide ((if d.kind = 1 then e.pshelf else if d.kind = 2 then e.cool else e.switch) = d.id)

/-- The entry of lowest KIND, then lowest ID, whose members include the whole lost set. -/
def chooseDom (g : Image) (lost : List Nat) : Option DomEnt :=
  (imgDoms g).foldl (fun a d =>
    if !lost.all (domMember g d) then a
    else match a with
      | none => some d
      | some c => if d.kind < c.kind ∨ (d.kind = c.kind ∧ d.id < c.id) then some d else a) none

/-- The first cell boundary at or after FT + `ms` milliseconds. -/
def Live.cellAfter (l : Live) (b : Build) (ms : Nat) : Word :=
  let next := BitVec.ofNat 32 (l.get b F.SCH_NEXT_B)
  let gap := (next - l.ft).toNat
  next + BitVec.ofNat 32 (500000 * ((ms * 1000000 - gap + 499999) / 500000))

/-- The root switches from plan `p` to standby plan `q` (R446): conditional teardown and arm at D, or
nothing but event 0x1104. -/
def Live.autoSwitch (l : Live) (b : Build) (p q : Nat) : Live :=
  let d := l.cellAfter b (max 70 (l.get b F.FO_CFG_LEAD))
  let td := !l.holdsCmp (.teardown p) && !l.cmpFree b
  let err :=
    if (l.plan p).tdEn then some eState
    else if td then some eSlot
    else (l.armTeardown p d (some q)).armErr b q d 0 false
  match err with
  | some e => l.logE b 0x1104 2 [d.toNat] p e
  | none => (l.teardownAt b p d (some q)).rootArm b q d 0 false true

/-- The root adds lantern `t` to the lost set of plan `p` and chooses a standby domain (R445, R447). -/
def Live.addLost (l : Live) (b : Build) (p t : Nat) : Live :=
  let x := l.plan p
  if x.state ≠ .running ∨ t ∈ x.lostSet then l
  else if 16 ≤ x.lostSet.length then l.updPlan p fun x => { x with lostOvf := true }
  else
    let lost := x.lostSet ++ [t]
    let l := l.updPlan p fun x => { x with lostSet := lost }
    if x.switchPend.isSome ∨ x.lostOvf then l
    else match chooseDom x.image lost with
      | some d =>
        let y := l.plan d.standby
        if d.standby ≠ 0 ∧ y.state = .verified ∧ y.standby then
          let l := l.updPlan p fun x => { x with switchPend := some (d.kind, d.id, d.standby) }
          let l := l.logE b 0x1102 1 [d.kind + 4 * d.id, d.standby] p
          if l.flag b F.FO_CFG_AUTO then l.autoSwitch b p d.standby else l
        else l.logE b 0x1103 2 [lost.length] p
      | none => l.logE b 0x1103 2 [lost.length] p

/-- A LOSS goes to the parent, once for each lantern and arm (R444). -/
def Live.lossUp (l : Live) (p t epoch : Nat) : Live :=
  let x := l.plan p
  if t ∈ x.lostUp then l
  else
    let l := l.updPlan p fun x => { x with lostUp := x.lostUp ++ [t] }
    match upLink x.image with
    | some n => l.sendCtl n (ctlMsg x p 7 t (epoch % 65536) 0 0)
    | none => l

/-- The root takes a lost lantern, another lantern passes it on. -/
def Live.lossAt (l : Live) (b : Build) (p t epoch : Nat) : Live :=
  if l.isRoot b (l.plan p) then l.addLost b p t else l.lossUp p t epoch

/-- MISS_N; 0 is read as 1. -/
def Live.missN (l : Live) (b : Build) : Nat := max 1 (l.get b F.FO_CFG_MISS_N)

/-- A child was missing at its deadline (R444). -/
def Live.childMissed (l : Live) (b : Build) (p stage place : Nat) (c : Child) (epoch : Nat) : Live :=
  let k := stage * 2 + place
  let n := Tab.getD (l.plan p).miss k 0 + 1
  let l := l.updPlan p fun x => { x with miss := Tab.set x.miss k 0 n }
  if l.missN b ≤ n ∧ k ∉ (l.plan p).declared then
    let l := l.updPlan p fun x => { x with declared := x.declared ++ [k] }
    (l.logE b 0x1101 2 [c.trunk, epoch] p).lossAt b p c.trunk epoch
  else l

/-- A partial of the child arrived whole: its count starts again. A declaration stands until the plan ends. -/
def Live.childHeard (l : Live) (p stage place : Nat) : Live :=
  l.updPlan p fun x => { x with miss := Tab.set x.miss (stage * 2 + place) 0 0 }

/-- LOSS_RECEIVE (R445). -/
def execLossReceive (n : BitVec 5) (m : CtlMsg) (s : State) : Host.Outcome State Fault Refusal :=
  s.run fun b l =>
    let p := m.plan
    if !l.ctlOk b n m 7 ∨ !isChildLink (l.plan p).image n.toNat then l
    else
      let l := l.seqMismatch b m
      let x := l.plan p
      if x.armSeq ≠ m.armSeq then l else l.lossAt b p (m.c1 % 1024) (m.c2 % 65536)

end Sys2Proof.Machine
end

