-- ==== Sys2Proof/Machine/Cut.lean ====
section
/-! DEFINITION. Cuts: requests and latches on both forms, the climb of a reduction through the stages,
results, the straggler search and canary outcomes (spec/08 R198 to R226; spec/18 R438, R439). -/

namespace Sys2Proof.Machine

/-! ### Sending a plan's records -/

/-- The bench replays plan `p` (R463). -/
def Live.replaying (l : Live) (p : Nat) : Bool :=
  decide (l.flt.rpl.st = .replaying ∧ l.flt.rpl.plan = p)

/-- A record of plan `p` waits for a transmit position of use `use` on link `n` (R242). A bench sends it as
a non-plan record with REPLAYED set, partials and lists on stream 0x3103 (R463). -/
def Live.sendPlan (l : Live) (b : Build) (p n use epoch : Nat) (r : Rec) : Live :=
  if l.replaying p then
    let s : BitVec 14 := if r.ty = 3 then 0x3103 else r.stream
    l.create b { r with replayed := true, stream := s }
  else
    let a := l.number r
    let i : LinkItem := ⟨a.2.words, some a.2, some (p, (l.plan p).armSeq, use, epoch), 0, l.ft, none⟩
    a.1.updLink n fun k => { k with pln := k.pln ++ [i] }

/-- A PARTIAL or RESULT record of plan `p` with its flags (R55, R217). -/
def planRec (l : Live) (b : Build) (ty stream : Nat) (a : Part) (body : List DWord) : Rec :=
  { mkRec l b ty stream l.ft body with inexact := a.inexact, partialCover := decide (a.absent ≠ 0) }

/-- Some record of plan `p` and epoch `e` still waits for a transmit position. -/
def Live.plnWaits (l : Live) (p e : Nat) : Bool :=
  l.links.any fun k => k.2.pln.any fun i => match i.plan with
    | some (q, _, _, f) => decide (q = p ∧ f = e)
    | none => false

/-- The epoch is a canary epoch (R438). -/
def canaryEpoch (g : Image) (e : Nat) : Bool :=
  decide (imgCanary g ≠ 0) && decide (e % imgCanary g = 0)

/-- The epoch has a phase B. -/
def hasB (g : Image) (e : Nat) : Bool := decide (imgNStrag g ≠ 0) || canaryEpoch g e

/-- Both phases of the open epoch are complete here. -/
def OpenCut.done (o : OpenCut) (g : Image) : Bool :=
  decide (o.stage = 4) && (!hasB g o.epoch || decide (o.bStage = 4))

/-- The open epoch of plan `p` changed by `f`. -/
def Live.updCut (l : Live) (p : Nat) (f : OpenCut → OpenCut) : Live :=
  l.updPlan p fun x => { x with oc := x.oc.map f }

/-- The input log learns that epoch `e` is complete, once its records have left and its actions have run
(R462). -/
def Live.settle (l : Live) (b : Build) (p e : Nat) : Live :=
  let x := l.plan p
  let done : Bool := match x.oc with
    | some o => decide (o.epoch ≠ e) || o.done x.image
    | none => true
  if done ∧ !l.plnWaits p e then l.rplEpochDone b p e else l

/-! ### Phases that have left -/

/-- The occurrences that trigger `trg` gives the actions of plan `p` (R239, R354). -/
def occsOf (g : Image) (o : OpenCut) (trg : Nat) : List Occ :=
  (List.range (secCount g 10)).filterMap fun i =>
    if (imgAction g i).trigger = trg then
      some ⟨i, o.epoch, false, false, o.part, o.vecs, o.leaf.absent + o.leaf.unsampled, 0⟩
    else none

/-- Trigger `trg` of the open epoch occurs. -/
def Live.occur (l : Live) (p trg : Nat) : Live :=
  match (l.plan p).oc with
  | some o => l.addDue p (occsOf (l.plan p).image o trg)
  | none => l

/-- The last record of phase A of epoch `e` leaves, its last flit in `still` ns: DONE, CUT_ABS, SLOW at the root, trigger 0x01
(R222, R228, R239, R354). -/
def Live.phaseALeft (l : Live) (b : Build) (p e absent : Nat) (still : Nat := 0) : Live :=
  let x := l.plan p
  let l := l.updPlan p fun x => { x with done := e, doneAny := true }
  let l := l.put b F.CUT_ABS_ABSENT absent p
  let late := match x.oc with
    | some o => if o.epoch = e then (l.ft + BitVec.ofNat 32 still - o.t).toNat else 0
    | none => 0
  let l := if l.isRoot b x ∧ 250000 < late ∧ late < 2147483648 ∧ !l.replaying p then
      (l.bump b F.CUT_ERR_SLOW p).logE b 0x0601 2 [e, late] p
    else l
  match x.oc with
  | some o => if o.epoch = e then l.occur p 1 else l
  | none => l

/-- The last of the phase-B lists of epoch `e` has left: trigger 0x02. -/
def Live.phaseBLeft (l : Live) (p e : Nat) : Live :=
  match (l.plan p).oc with
  | some o => if o.epoch = e then l.occur p 2 else l
  | none => l

/-- Phases whose records take no link at once are complete at once: at a bench, and at a root without a
stream for them. -/
def Live.leftAtOnce (l : Live) (b : Build) (p : Nat) (phaseB : Bool) : Live :=
  let x := l.plan p
  match x.oc with
  | some o =>
    let no := fun (u : Nat) => !(imgStreams x.image).any fun s => decide (s.use = u)
    let now := l.replaying p || (l.isRoot b x && no (if phaseB then 2 else 0))
    let l := if !now then l
      else if phaseB then l.phaseBLeft p o.epoch
      else l.phaseALeft b p o.epoch o.part.absent
    l.settle b p o.epoch
  | none => l

/-! ### Series values of a partial (Table 13.1, SKIND 3) -/

/-- What a series of SKIND 3 takes from partial `a` of plan `p`; `root` tells the root RESULT from the leaf
partial. -/
def partVal (p : Nat) (root : Bool) (a : Part) (skind src : Nat) : List SVal :=
  let item := src / 256 % 256
  let f := src / 65536 % 8
  if skind ≠ 3 ∨ src % 256 ≠ p ∨ src.testBit 19 ≠ root then []
  else match partField a item f with
    | some v => if f = 0 ∧ partEmpty a item then [.fill 1] else [.int v (partSat a item f)]
    | none => [.fill 1]

/-- The epoch of plan `p` is complete at this lantern: the series of SKIND 3 take their samples. -/
def Live.epochComplete (l : Live) (b : Build) (p : Nat) (root : Bool) : Live :=
  match (l.plan p).oc with
  | some o =>
    if l.replaying p then l
    else
      let l := l.offer b (partVal p false o.leaf)
      if root then l.offer b (partVal p true o.part) else l
  | none => l

/-! ### Results at the root (R222, R224 to R226, R439) -/

/-- A RESULT with this descriptor and body on every stream of one USE. -/
def Live.sendResult (l : Live) (b : Build) (p use epoch : Nat) (a : Part)
    (body : List DWord) : Live :=
  ((imgStreams (l.plan p).image).filter fun s => decide (s.use = use)).foldl (fun l s =>
    l.sendPlan b p s.link 3 epoch (planRec l b 4 s.stream a body)) l

/-- The descriptor of a whole record of KIND 1 to 3. -/
def wholeDesc (p kind epoch stage n : Nat) : Desc := ⟨p, kind, epoch, stage, 0, 1, 0, n⟩

/-- Thresholds reach this lantern: it keeps them and sends them to each present buoy (R225). -/
def Live.giveThresholds (l : Live) (b : Build) (p : Nat) (thr : List Thr) (r : Rec) : Live :=
  let x := l.plan p
  match x.oc with
  | some o =>
    let l := l.updCut p fun o => { o with
      thr := some thr, lists := emptyLists x.image thr }
    if l.replaying p then l
    else (o.cls.filter fun e => decide (e.2 = .present)).foldl (fun l e => l.toBuoy b e.1 r) l
  | none => l

/-- The root derives the thresholds, delivers them on its result streams and broadcasts them (R224, R225).
The broadcast record is the RESULT of the first USE 1 stream, or one of stream 0x3000 + p. -/
def Live.rootThresholds (l : Live) (b : Build) (p : Nat) : Live :=
  let x := l.plan p
  match x.oc with
  | some o =>
    let g := x.image
    if imgNStrag g = 0 then l
    else
      let thr := thresholds g o.part
      let body := (wholeDesc p 1 o.epoch 4 thr.length).words o.part ++ thr.flatMap Thr.words
      let ss := (imgStreams g).filter fun s => decide (s.use = 1)
      let stream := match ss with
        | s :: _ => s.stream
        | [] => 0x3000 + p
      if l.replaying p then
        (l.sendResult b p 1 o.epoch o.part body).giveThresholds b p thr
          (planRec l b 4 stream o.part body)
      else
        let a := l.number (planRec l b 4 stream o.part body)
        let r := a.2
        let item := fun (use : Nat) =>
          (⟨r.words, some r, some (p, x.armSeq, use, o.epoch), 0, l.ft, none⟩ : LinkItem)
        let put := fun (l : Live) (n use : Nat) =>
          l.updLink n fun k => { k with pln := k.pln ++ [item use] }
        let l := a.1
        let l := match ss with
          | s :: t => t.foldl (fun l s =>
              l.sendPlan b p s.link 3 o.epoch (planRec l b 4 s.stream o.part body)) (put l s.link 3)
          | [] => l
        let l := (imgBcastLinks g).foldl (fun l n => put l n 2) l
        l.giveThresholds b p thr r
  | none => l

/-- Phase A is complete at the root. -/
def Live.rootA (l : Live) (b : Build) (p : Nat) : Live :=
  match (l.plan p).oc with
  | some o =>
    let l := (itemPayloads p o.epoch 4 o.part).foldl
      (fun l body => l.sendResult b p 0 o.epoch o.part body) l
    let l := l.rootThresholds b p
    (l.epochComplete b p true).leftAtOnce b p false
  | none => l

/-- Phase B is complete at the root. -/
def Live.rootB (l : Live) (b : Build) (p : Nat) : Live :=
  let g := (l.plan p).image
  match (l.plan p).oc with
  | some o =>
    let l := if imgNStrag g = 0 then l
      else l.sendResult b p 2 o.epoch o.bDesc
        ((wholeDesc p 2 o.epoch 4 o.lists.length).words o.bDesc ++ o.lists.flatMap StragList.words)
    let l := if canaryEpoch g o.epoch then
        l.sendResult b p 0 o.epoch o.cDesc
          ((wholeDesc p 3 o.epoch 4 0).words o.cDesc ++ o.can.words)
      else l
    l.leftAtOnce b p true
  | none => l

/-! ### The climb (R219, R220, R226) -/

/-- The place of a fragment. -/
def ChildFrag.at (f : ChildFrag) (stage child kind : Nat) : Bool :=
  decide (f.stage = stage ∧ f.child = child ∧ f.kind = kind)

/-- The fragments of a child's KIND 0 partial have all arrived. -/
def OpenCut.wholeA (o : OpenCut) (stage child : Nat) : Bool :=
  let fs := o.frags.filter fun f => f.at stage child 0
  match fs with
  | f :: _ => decide (f.frags ≤ fs.length)
  | [] => false

/-- What a child must send in phase B has arrived. -/
def OpenCut.wholeB (o : OpenCut) (g : Image) (stage child : Nat) : Bool :=
  (decide (imgNStrag g = 0) || o.frags.any fun f => f.at stage child 2) &&
  (!canaryEpoch g o.epoch || o.frags.any fun f => f.at stage child 3)

/-- A child's partial from its fragments: the counts of the first, the blocks of all. -/
def OpenCut.childPart (o : OpenCut) (stage child : Nat) : Part :=
  let fs := o.frags.filter fun f => f.at stage child 0
  match fs with
  | f :: _ => { f.part with
      items := fs.flatMap (·.part.items), inexact := fs.any fun f => f.part.inexact }
  | [] => part0

/-- The children of a stage with their places. -/
def stageKids (g : Image) (st : Nat) : List (Nat × Child) :=
  let cs := (imgStage g st).children
  (List.range cs.length).filterMap fun i => (cs[i]?).map fun c => (i, c)

/-- A DECIDE entry of a stage (R461). -/
def Live.logStage (l : Live) (b : Build) (p : Nat) (o : OpenCut) (st : Nat) (phaseB : Bool)
    (arrived : Nat → Bool) : Live :=
  l.rplLog b p 3 o.epoch ((if phaseB then 3 else 2) + 4 * st)
    ((stageKids (l.plan p).image st).map fun k => packW [(0, k.2.trunk), (10, b2n (arrived k.1))])

/-- Phase A leaves stage `st` of plan `p`, with the children for which `arrived` holds. -/
def Live.decideA (l : Live) (b : Build) (p st : Nat) (arrived : Nat → Bool) : Live :=
  l.readsPart b p fun l =>
  let x := l.plan p
  let g := x.image
  match x.oc with
  | none => l
  | some o =>
    let l := l.logStage b p o st false arrived
    let kids := stageKids g st
    let part := kids.foldl (fun a k =>
      if arrived k.1 then a.merge g (o.childPart st k.1) else a.lose k.2.expect) o.part
    let l := l.updCut p fun o => { o with part := part, stage := st + 1 }
    let l := if l.replaying p then l else kids.foldl (fun l k =>
      if arrived k.1 then l.childHeard p st k.1 else l.childMissed b p st k.1 k.2 o.epoch) l
    let s := imgStage g st
    if s.hasParent then
      let l := l.updCut p fun o => { o with stage := 4 }
      let l := (itemPayloads p o.epoch st part).foldl (fun l body =>
        l.sendPlan b p s.parent 0 o.epoch (planRec l b 3 (0x3000 + p) part body)) l
      (l.epochComplete b p false).leftAtOnce b p false
    else if st = 3 then l.rootA b p
    else l

/-- Phase A goes on while the children of its stage are all there. -/
def Live.climbA (l : Live) (b : Build) (p : Nat) : Nat → Live
  | 0 => l
  | n + 1 =>
    match (l.plan p).oc with
    | some o =>
      if o.leafDone ∧ 1 ≤ o.stage ∧ o.stage ≤ 3 ∧
          (stageKids (l.plan p).image o.stage).all (fun k => o.wholeA o.stage k.1) then
        (l.decideA b p o.stage fun _ => true).climbA b p n
      else l
    | none => l

/-- Phase B leaves stage `st` of plan `p`. -/
def Live.decideB (l : Live) (b : Build) (p st : Nat) (arrived : Nat → Nat → Bool) : Live :=
  l.readsPart b p fun l =>
  let x := l.plan p
  let g := x.image
  match x.oc with
  | none => l
  | some o =>
    let kids := stageKids g st
    let strag := decide (imgNStrag g ≠ 0)
    let can := canaryEpoch g o.epoch
    let l := l.logStage b p o st true fun c => (!strag || arrived 2 c) && (!can || arrived 3 c)
    let frag := fun (c kind : Nat) => o.frags.find? fun f => f.at st c kind
    let bDesc := kids.foldl (fun a k => match arrived 2 k.1, frag k.1 2 with
      | true, some f => a.merge g f.part
      | _, _ => a.lose k.2.expect) o.bDesc
    let lists := kids.foldl (fun a k => match arrived 2 k.1, frag k.1 2 with
      | true, some f => mergeLists g a f.lists
      | _, _ => a) o.lists
    let cDesc := kids.foldl (fun a k => match arrived 3 k.1, frag k.1 3 with
      | true, some f => a.merge g f.part
      | _, _ => a.lose k.2.expect) o.cDesc
    let cout := kids.foldl (fun a k => match arrived 3 k.1, frag k.1 3 with
      | true, some f => a.merge f.can
      | _, _ => a) o.can
    let l := l.updCut p fun o => { o with
      bDesc := bDesc, lists := lists, cDesc := cDesc, can := cout, bStage := st + 1 }
    let s := imgStage g st
    if s.hasParent then
      let l := l.updCut p fun o => { o with bStage := 4 }
      let l := if strag then
          l.sendPlan b p s.parent 1 o.epoch (planRec l b 3 (0x3000 + p) bDesc
            ((wholeDesc p 2 o.epoch st lists.length).words bDesc ++ lists.flatMap StragList.words))
        else l
      let l := if can then
          l.sendPlan b p s.parent 1 o.epoch (planRec l b 3 (0x3000 + p) cDesc
            ((wholeDesc p 3 o.epoch st 0).words cDesc ++ cout.words))
        else l
      l.leftAtOnce b p true
    else if st = 3 then l.rootB b p
    else l

/-- Phase B goes on while the children of its stage are all there. -/
def Live.climbB (l : Live) (b : Build) (p : Nat) : Nat → Live
  | 0 => l
  | n + 1 =>
    match (l.plan p).oc with
    | some o =>
      if o.bClosed ∧ 1 ≤ o.bStage ∧ o.bStage ≤ 3 ∧
          (stageKids (l.plan p).image o.bStage).all (fun k => o.wholeB (l.plan p).image o.bStage k.1) then
        (l.decideB b p o.bStage fun _ _ => true).climbB b p n
      else l
    | none => l

/-- The leaf close: classes become final and the leaf partial is built (R212, R219). `present` tells which
named buoys count as present, of those that are not absent for a reason of their own. -/
def Live.closeLeaf (l : Live) (b : Build) (p : Nat) (present : Nat → Bool) : Live :=
  let x := l.plan p
  let g := x.image
  match x.oc with
  | none => l
  | some o =>
    let cls : Tab BClass := o.cls.map fun e =>
      (e.1, if e.2 = .unsampled ∨ e.2 = .absent then e.2 else if present e.1 then .present else .absent)
    let count := fun (c : BClass) => (cls.filter fun e => decide (e.2 = c)).length
    let vecs := o.vecs.filter fun e => decide (Tab.getD cls e.1 .absent = .present)
    let part : Part :=
      { expect := cls.length, present := count .present, absent := count .absent,
        unsampled := count .unsampled, sublost := false, inexact := leafInexact g o.litems,
        items := (List.range (imgNItems g)).map (leafBlock g (l.trunk b) vecs o.litems) }
    let l := l.updCut p fun o => { o with
      cls := cls, vecs := vecs, part := part, leaf := part, leafDone := true, stage := 1 }
    let words := [0, 1, 2, 3].map fun w => packW ((List.range 64).map fun i =>
      (i, b2n (decide (Tab.getD cls (64 * w + i) .absent = .present))))
    let l := l.rplLog b p 7 o.epoch 0 (o.litems.map fun x => packW [(0, x.toNat)])
    let l := l.rplLog b p 3 o.epoch 0 words
    let take := fun (skind src : Nat) =>
      let loc := src % 256
      let item := src / 2 ^ 22 % 256
      if skind ≠ 2 ∨ src / 256 % 256 ≠ p then []
      else match Tab.find? vecs loc with
        | some ws => match itemVal (imgItem g item) (wordAt ws item) with
          | some v => [SVal.int v false]
          | none => [SVal.fill 1]
        | none => [SVal.fill 1]
    let l := if l.replaying p then l else l.offer b take
    l.climbA b p 4

/-- This block ended no canary run of epoch `e` in time (R438). -/
def Live.canaryNotRun (l : Live) (b : Build) (p e : Nat) : Live :=
  let l := l.put b F.CNRY_STAT_NOTRUN 1
  l.logE b 0x1006 2 [e] p

/-- The phase-B close (R226): buoys present in phase A whose records have not arrived are absent. Its descriptors
carry INEXACT only from the phase-B records of children (DESIGN CHOICE, log entry 122). -/
def Live.closeB (l : Live) (b : Build) (p : Nat) : Live :=
  let x := l.plan p
  let g := x.image
  match x.oc with
  | none => l
  | some o =>
    let d := fun (n : Nat) (lost : Bool) =>
      ({ part0 with expect := o.leaf.expect, present := n, unsampled := o.leaf.unsampled,
                    absent := o.leaf.expect - o.leaf.unsampled - n, sublost := lost } : Part)
    let none_ := o.thr.isNone
    let lists := if none_ then emptyLists g [] else o.lists
    let missed := canaryEpoch g o.epoch && !o.canOwn && !l.replaying p
    let l := if missed then l.canaryNotRun b p o.epoch else l
    let l := l.updCut p fun o => { o with
      bDesc := d o.bPresent.length (none_ && decide (imgNStrag g ≠ 0)),
      cDesc := d o.cPresent.length false, lists := lists, bClosed := true, bStage := 1,
      can := if missed then o.can.merge ⟨0, 0, 1, none⟩ else o.can }
    let words := [0, 1, 2, 3].map fun w => packW ((List.range 64).map fun i =>
      (i, b2n (decide (64 * w + i ∈ o.bPresent))))
    let l := l.rplLog b p 3 o.epoch 1 words
    l.climbB b p 4

/-! ### Requests (R199 to R201) -/

/-- A cut of plan `p` is armed: its comparator and its place among the pending cuts. -/
def Live.armCut (l : Live) (p : Nat) (t : Word) (e : Nat) : Live :=
  (l.armCmp (.cut p e) t).updPlan p fun x => { x with pendCuts := x.pendCuts ++ [(t, e)] }

/-- CUT_AT to each named buoy (R200). -/
def Live.callBuoys (l : Live) (b : Build) (p : Nat) (t : Word) (e : Nat) : Live :=
  l.ownCmds b (imgNamed (l.plan p).image) .cutAt (p + 256 * e) 0x18 p
    [packW [(0, t.toNat), (32, e)]]

/-- CUT_AT at a buoy (R201). -/
def Live.cutAtBuoy (l : Live) (b : Build) (p : Nat) (t : Word) (e : Nat) (r : Ret) : Live :=
  let x := l.plan p
  match firstErr [
    ((match x.lastLatched with
      | some q => x.owns && !epochLater e q
      | none => false), eRange),
    (!x.owns || !secCmdCut x.image || !l.timed, eState),
    (!l.inWindow t, eTime),
    (!l.cmpFree b, eSlot)] with
  | some s => l.reply b r s
  | none => (l.armCut p t e).reply b r 0 e

/-- CUT_AT at a lantern (R199, R200). -/
def Live.cutAtRoot (l : Live) (b : Build) (p : Nat) (t : Word) (r : Ret) (c : Instr) : Live :=
  let x := l.plan p
  match firstErr [
    ((match x.lastT with
      | some q => decide (ftDiff t q < 500000)
      | none => false), eRange),
    (!x.owns || !imgCmdCut x.image || !l.isRoot b x || !l.timed ||
      (x.tdEn && decide (ftDiff x.d t ≤ 0)), eState),
    (!l.inWindow t || decide ((t - l.ft).toNat < 2000000), eTime),
    (decide (4 ≤ x.pendCuts.length) || !l.cmpFree b, eSlot)] with
  | some s => l.reply b r s
  | none =>
    let e := x.epochNext
    let l := (l.hold r c).armCut p t e
    let l := l.updPlan p fun x => { x with
      epochNext := (e + 1) % 65536, lastT := some t, cutReplies := x.cutReplies ++ [(r, e)],
      seen := keepSeen 6 x.armSeq e x.seen }
    let l := l.bcast p (ctlMsg x p 6 t.toNat e 0 0)
    (l.callBuoys b p t e).answerLeft b p

/-- CUT_AT. -/
def execCutAt (p : Packet) (s : State) : Host.Outcome State Fault Refusal :=
  s.run fun b l => l.command b (.cutAt p) (opRow 0x18 true true 1 1 1) p fun l r =>
    let w := wordAt p.data 0
    let t := BitVec.ofNat 32 (fld w 0 32)
    if b.buoy then l.cutAtBuoy b (p.aBits 0 8) t (fld w 32 16) r
    else l.cutAtRoot b (p.aBits 0 8) t r (.cutAt p)

/-- CUTCALL_RECEIVE (R200). -/
def execCutcallReceive (n : BitVec 5) (m : CtlMsg) (s : State) : Host.Outcome State Fault Refusal :=
  s.run fun b l =>
    if !l.ctlOk b n m 6 then l
    else l.takeBcast b m (m.c2 % 65536) fun l =>
      let p := m.plan
      let x := l.plan p
      let e := m.c2 % 65536
      if !x.owns ∨ x.armSeq ≠ m.armSeq ∨ !l.cmpFree b then l
      else l.readsPlan b p fun l =>
        let t := BitVec.ofNat 32 m.c1
        ((l.rplLog b p 2 e 4 m.words).armCut p t e).callBuoys b p t e

/-! ### The latch (R203, R204, R210, R251) -/

/-- The cut of count `t` is complete before an armed teardown (R202, R251); `slots` is PB_CLOSE at a buoy,
LAST_DL at a lantern. -/
def Plan.cutOk (x : Plan) (t : Word) (slots : Nat) : Bool :=
  !x.tdEn || decide (1 ≤ ftDiff x.d (t + BitVec.ofNat 32 (slots * 500)))

/-- The cut that has been reached: its owner, count and epoch. -/
def Live.cutReached (l : Live) (b : Build) (p : Nat) : Option (Owner × Word × Nat) :=
  let x := l.plan p
  let per := if b.buoy then secPeriod x.image else imgPeriod x.image
  match l.time.fired.find? fun f => match f.owner with
    | .cuts q => decide (q = p)
    | .cut q _ => decide (q = p)
    | _ => false with
  | some f => match f.owner with
    | .cut _ e => some (f.owner, f.count, e)
    | o => some (o, f.count, (x.epochNext + (f.count - x.nextT).toNat / max per 1) % 65536)
  | none => none

/-- A buoy latches the items of a cut. A delta without a previous latch is stale by position. -/
def Live.latchBuoy (l : Live) (p : Nat) (t : Word) (e : Nat) : Live :=
  let x := l.plan p
  let g := x.image
  let n := secNbi g
  let raw := (List.range n).map fun i => l.latchWord (secItem g i).1 (secItem g i).2.1
  let words := (List.range n).map fun i =>
    let w := raw.getD i 0
    if (secItem g i).1 = 1 then
      match Tab.find? x.prev i with
      | some v => itemWord ((fld w 0 48 + 2 ^ 48 - v) % 2 ^ 48) (fld w 48 1) 0 (fld w 50 8)
      | none => itemWord 0 0 1 (fld w 50 8)
    else w
  let prev : Tab Nat := (List.range n).filterMap fun i =>
    if (secItem g i).1 = 1 then some (i, fld (raw.getD i 0) 0 48) else none
  let replayed := (List.range n).any fun i =>
    decide ((secItem g i).1 ≤ 1) && l.stepOpen (l.itemUnit (secItem g i).1 (secItem g i).2.1)
  (l.clean (.latch p)).updPlan p fun x => { x with
    prev := prev, kept := some ⟨t, e, words, [], false, replayed, false, none⟩ }

/-- A lantern opens the epoch of a cut: it places its buoys and latches its own items (R204, R212). -/
def Live.openCut (l : Live) (b : Build) (p : Nat) (t : Word) (e : Nat) (litems : List Word) : Live :=
  let x := l.plan p
  let g := x.image
  let cls : Tab BClass := (imgNamed g).map fun k =>
    let q := l.peer k
    (k, if !sampled (imgSeed g) e (l.trunk b * 256 + k) (imgRate g) then .unsampled
        else if !l.replaying p && (!l.timed || !q.present || !q.lock || decide ((e, k) ∈ x.rejBuoys)) then
          .absent
        else .waiting)
  (l.clean (.part p)).updPlan p fun x => { x with
    rejBuoys := x.rejBuoys.filter fun c => decide (c.1 ≠ e),
    oc := some
      { t := t, epoch := e, cls := cls, vecs := [], litems := litems, leafDone := false, leaf := part0,
        part := part0, stage := 0, frags := [], thr := none, bPresent := [], cPresent := [],
        lists := [], can := can0, canOwn := false, bDesc := part0, cDesc := part0,
        bClosed := false, bStage := 0 } }

/-- The newest samples of the series that the lantern items of a plan name. -/
def Live.lanternItems (l : Live) (g : Image) : List Word :=
  ((imgItems g).filter fun x => decide (x.kind = 4)).map fun x =>
    ((l.sery x.index).newest).getD f32NaN

/-- Input logging begins with the first cut at or after its earliest count: START, then a STATE for each
live state, then the cut calls accepted before for this epoch and later ones (R460, R461). -/
def Live.rplStart (l : Live) (b : Build) (p : Nat) (t : Word) (e : Nat) : Live :=
  let q := l.flt.rpl
  if q.st ≠ .logging ∨ q.plan ≠ p ∨ q.started ∨ !reached t q.fromT then l
  else
    let x := l.plan p
    let g := x.image
    let l := { l with flt := { l.flt with rpl := { q with started := true, last := (e + 65535) % 65536 } } }
    let l := l.rplLog b p 1 e (l.trunk b + 1024 * x.armSeq)
      [packW [(0, x.crc.toNat), (32, imgSetId g)], imgSeed g, packW [(0, t.toNat)]]
    let l := (List.range (secCount g 10)).foldl (fun l i =>
      let a := imgAction g i
      let k := seqBlk g a
      if a.engine = 1 ∧ k.mode ≤ 2 then
        (List.range k.nser).foldl (fun l j =>
          match Tab.find? l.eng.live (liveKey p i j) with
          | some v => l.rplLog b p 5 e (i + 256 * k.sers.getD j 0)
              (packW [(0, v.p.toNat)] :: packW [(0, v.gen)] :: pack32 (v.st.map (·.toNat)))
          | none => l) l
      else l) l
    if imgCmdCut g ∧ !l.isRoot b x then
      ((t, e) :: x.pendCuts).foldl (fun l c => l.rplLog b p 2 c.2 4 (ctlMsg x p 6 c.1.toNat c.2 0 0).words) l
    else l

/-- CUT_LATCH (R198, R202 to R204, R210, R251). -/
def execCutLatch (plan : BitVec 8) (s : State) : Host.Outcome State Fault Refusal :=
  s.runAwake fun b l =>
    let p := plan.toNat
    let l := l.pull (.cuts p)
    let l := (l.plan p).pendCuts.foldl (fun l c => l.pull (.cut p c.2)) l
    match l.cutReached b p with
    | none => l
    | some (o, t, e) =>
      let x := l.plan p
      if x.state ≠ .running ∧ (l.hasFired (.start p) || (reachedAt l.ft (.start p) 0 l.time.cmps).isSome)
      then l
      else
        let l := l.useFired o
        let g := x.image
        let per := BitVec.ofNat 32 (if b.buoy then secPeriod g else imgPeriod g)
        let l := l.updPlan p fun x => match o with
          | .cut _ _ => { x with pendCuts := x.pendCuts.filter fun c => decide (c.2 ≠ e) }
          | _ => { x with epochNext := (e + 1) % 65536, nextT := t + per }
        if x.state ≠ .running ∨ !x.cutOk t (if b.buoy then secPbClose g else imgLastDl g) then l
        else l.readsPlan b p fun l =>
          let l := l.updPlan p fun x => { x with lastLatched := some e, latched := e, latchT := t }
          if b.buoy then l.latchBuoy p t e
          else (l.rplStart b p t e).openCut b p t e (l.lanternItems g)

/-- The items of a kept cut whose island `tap` does not deliver are stale (R205). -/
def Live.cutItemsStale (l : Live) (b : Build) (p tap : Nat) : Live :=
  let x := l.plan p
  let g := x.image
  match x.kept with
  | some k =>
    if k.assembled then l
    else
      let hit := (List.range k.words.length).filter fun i =>
        decide ((secItem g i).1 ≤ 1 ∧ i ∉ k.stale) &&
          decide (l.cfgTap (l.ctr (secItem g i).2.1).cfg = some tap)
      let words := (List.range k.words.length).map fun i =>
        let w := wordAt k.words i
        if i ∈ hit then itemWord 0 0 1 (fld w 50 8) else w
      let l := l.bump b F.CUT_BERR_STALE_ITEM p hit.length
      l.updPlan p fun x => { x with
        prev := x.prev.filter fun e => decide (e.1 ∉ hit),
        kept := some { k with words := words, stale := k.stale ++ hit } }
  | none => l

/-- The buoy's own LeafID. -/
def Live.leaf (l : Live) (b : Build) : Nat := (l.src b).toNat

/-- The buoy is sampled in epoch `e` of the section (R223). -/
def Live.isSampled (l : Live) (b : Build) (g : Image) (e : Nat) : Bool :=
  sampled (secSeed g) e (l.leaf b) (secRate g)

/-- A buoy reads its section of plan `p` and its kept latch for a record; the answer is the record's POISON
(R432, Table 18.2). -/
def Live.readLatch (l : Live) (b : Build) (p : Nat) : Live × Bool :=
  ((l.meet b (.plan p)).meet b (.latch p), l.bad (.plan p) || l.bad (.latch p))

/-- CUTVEC_ASSEMBLED (R205, R209). -/
def execCutvecAssembled (plan : BitVec 8) (s : State) : Host.Outcome State Fault Refusal :=
  s.runAwake fun b l =>
    let p := plan.toNat
    let x := l.plan p
    match x.kept with
    | some k =>
      if b.lantern ∨ x.state ≠ .running ∨ k.assembled ∨ !l.isSampled b x.image k.epoch then l
      else
        let l := l.updPlan p fun x => { x with kept := some { k with assembled := true } }
        let a := l.readLatch b p
        a.1.create b { mkRec l b 2 (secCvStream x.image) k.t k.words with replayed := k.replayed, poison := a.2 }
    | none => l

/-! ### Records that arrive (R211, R220, R225, R226) -/

/-- A lantern can act on a record of link `n`. -/
def Live.recOk (l : Live) (b : Build) (n : BitVec 5) : Bool := b.lantern && l.awake && l.isUp n.toNat

/-- The running plan whose cut-vector stream is `s`. -/
def Live.cvPlan (l : Live) (s : Nat) : Option Nat :=
  (l.plans.find? fun e => decide (e.2.state = .running ∧ imgNBuoyItems e.2.image ≠ 0) &&
    decide (secCvStream (imgBuoySec e.2.image) = s)).map (·.1)

/-- The Local of a record's source, when it is a buoy of this tray. -/
def Live.ownBuoy (l : Live) (b : Build) (src : BitVec 18) : Option Nat :=
  if src.toNat / 256 = l.trunk b then some (src.toNat % 256) else none

/-- A cut vector is accepted (R211, R212). -/
def Live.takeVec (l : Live) (b : Build) (p loc : Nat) (r : Rec) : Live :=
  let e := match (l.plan p).oc with
    | some o => o.epoch
    | none => 0
  let l := l.rplLog b p 2 e 0 r.words
  l.updCut p fun o => { o with vecs := Tab.insert o.vecs loc r.body }

/-- CUTVEC_RECEIVE (R211, R212). -/
def execCutvecReceive (n : BitVec 5) (r : Rec) (s : State) : Host.Outcome State Fault Refusal :=
  s.run fun b l =>
    if !l.recOk b n ∨ r.ty ≠ 2 then l
    else match l.cvPlan r.stream.toNat with
      | none => l.bump b F.CUT_ERR_STALE_VEC
      | some p =>
        let x := l.plan p
        let stale := l.bump b F.CUT_ERR_STALE_VEC p
        match x.oc, l.ownBuoy b r.src with
        | some o, some loc =>
          let open_ := decide (o.t = r.ft) && !o.leafDone &&
            decide ((l.ft - o.t).toNat ≤ 500 * imgLeafClose x.image)
          match Tab.find? o.cls loc with
          | none => stale
          | some c =>
            if !open_ ∨ (Tab.find? o.vecs loc).isSome then stale
            else if c ≠ .waiting then l
            else if r.poison then l.poison b p 0
            else l.takeVec b p loc r
        | _, _ => stale

/-- LEAF_CLOSE (R212, R219). -/
def execLeafClose (plan : BitVec 8) (s : State) : Host.Outcome State Fault Refusal :=
  s.runAwake fun b l =>
    let p := plan.toNat
    let x := l.plan p
    match x.oc with
    | some o =>
      if x.state ≠ .running ∨ o.leafDone ∨
          !reached l.ft (o.t + BitVec.ofNat 32 (500 * imgLeafClose x.image)) then l
      else l.readsPlan b p fun l => (l.closeLeaf b p fun k => (Tab.find? o.vecs k).isSome).checkBuoys b
    | none => l

/-- The child of an image whose records arrive on link `n` from lantern `t`: stage, place and entry. -/
def childAt (g : Image) (n t : Nat) : Option (Nat × Nat × Child) :=
  (imgKids g).find? fun k => decide (k.2.2.link = n ∧ k.2.2.trunk = t)

/-- The fragment that a record of a child holds. -/
def fragOf (r : Rec) (stage child : Nat) : ChildFrag :=
  let d := descOf r.body
  { stage := stage, child := child, kind := d.kind, frag := d.frag, frags := d.frags,
    part := { countsOf r with items := if d.kind = 0 then blocksOf d.nitems (r.body.drop 4) else [] },
    lists := if d.kind = 2 then listsOf r.body else [],
    can := if d.kind = 3 then canOf r.body else can0 }

/-- A fragment of child (`st`, `i`) is kept, and its phase goes on. -/
def Live.takeFrag (l : Live) (b : Build) (p st i : Nat) (r : Rec) : Live :=
  let d := descOf r.body
  let l := l.rplLog b p 2 d.epoch (if d.kind = 0 then 1 else 2) r.words
  let l := l.updCut p fun o => { o with
    frags := (o.frags.filter fun f => !(f.at st i d.kind && decide (f.frag = d.frag))) ++ [fragOf r st i] }
  if l.replaying p then l
  else if d.kind = 0 then l.climbA b p 4
  else l.climbB b p 4

/-- PARTIAL_RECEIVE (R220, R226): a child's fragment, list or canary outcome. One of an epoch later than the open
one is dropped uncounted, and one that comes while no epoch is open counts in LATE_CHILD (DESIGN CHOICE, log
entry 129). -/
def execPartialReceive (n : BitVec 5) (r : Rec) (s : State) : Host.Outcome State Fault Refusal :=
  s.run fun b l =>
    let d := descOf r.body
    let p := d.plan
    let x := l.plan p
    if !l.recOk b n ∨ r.ty ≠ 3 ∨ x.state ≠ .running ∨ 4 ≤ d.kind ∨ d.kind = 1 then l
    else match childAt x.image n.toNat (r.src.toNat / 256) with
      | none => l
      | some (st, i, _) =>
        match x.oc with
        | none => l.bump b F.CUT_ERR_LATE_CHILD p
        | some o =>
          let past := decide (st < (if d.kind = 0 then o.stage else o.bStage))
          if epochLater d.epoch o.epoch then l
          else if o.epoch ≠ d.epoch ∨ past then l.bump b F.CUT_ERR_LATE_CHILD p
          else if r.poison then l.poison b p 0
          else l.readsPlan b p fun l => l.takeFrag b p st i r

/-- STAGE_DEADLINE (R220, R226): the stage goes on with the children that have arrived. -/
def execStageDeadline (plan : BitVec 8) (stage : BitVec 2) (phaseB : Bool) (s : State) :
    Host.Outcome State Fault Refusal :=
  s.runAwake fun b l =>
    let p := plan.toNat
    let st := stage.toNat
    let x := l.plan p
    let g := x.image
    match x.oc with
    | some o =>
      let dl := if phaseB then (imgStage g st).dlB else (imgStage g st).dlA
      if x.state ≠ .running ∨ !reached l.ft (o.t + BitVec.ofNat 32 (500 * dl)) ∨ st = 0 then l
      else l.readsPlan b p fun l =>
      if phaseB then
        if o.bClosed ∧ o.bStage = st then
          (l.decideB b p st fun kind c => o.frags.any fun f => f.at st c kind).climbB b p 4
        else l
      else if o.leafDone ∧ o.stage = st then
        (l.decideA b p st fun c => o.wholeA st c).climbA b p 4
      else l
    | none => l

/-- THRESHOLDS_RECEIVE (R225): forwarded once on both trees, then given to the present buoys. -/
def execThresholdsReceive (n : BitVec 5) (r : Rec) (s : State) : Host.Outcome State Fault Refusal :=
  s.run fun b l =>
    let d := descOf r.body
    let p := d.plan
    let x := l.plan p
    match x.oc with
    | some o =>
      if !l.recOk b n ∨ r.ty ≠ 4 ∨ d.kind ≠ 1 ∨ x.state ≠ .running ∨ o.epoch ≠ d.epoch ∨
          o.thr.isSome ∨ o.bClosed then l
      else if r.poison then l.poison b p 0
      else l.readsPlan b p fun l =>
        let l := l.rplLog b p 2 d.epoch 3 r.words
        let i : LinkItem := ⟨r.words, some r, some (p, x.armSeq, 2, o.epoch), 0, l.ft, none⟩
        let l := (imgBcastLinks x.image).foldl (fun l k =>
          l.updLink k fun q => { q with pln := q.pln ++ [i] }) l
        l.giveThresholds b p (thrsOf r.body) r
    | none => l

/-- A buoy's phase-B record of KIND 2 or 3 (R225, R439), on its cut-vector stream. -/
def Live.buoyB (l : Live) (b : Build) (p kind : Nat) (k : Kept) (poison : Bool) (n : Nat)
    (body : List DWord) : Live :=
  let g := (l.plan p).image
  let a : Part := { part0 with expect := 1, present := 1 }
  let r := mkRec l b 3 (secCvStream g) l.ft ((wholeDesc p kind k.epoch 0x10 n).words a ++ body)
  l.create b { r with poison := poison }

/-- A buoy's phase-B record of its canary outcome; a bad section or latch poisons it (R432). -/
def Live.buoyCan (l : Live) (b : Build) (p : Nat) (k : Kept) (c : CanOut) : Live :=
  let a := l.readLatch b p
  a.1.buoyB b p 3 k a.2 0 c.words

/-- BUOY_THRESHOLDS (R225, R432): the lists of the kept latch, and a canary outcome that waits for them
(R439). -/
def execBuoyThresholds (r : Rec) (s : State) : Host.Outcome State Fault Refusal :=
  s.runAwake fun b l =>
    let d := descOf r.body
    let p := d.plan
    let x := l.plan p
    let g := x.image
    match x.kept with
    | some k =>
      if b.lantern ∨ r.ty ≠ 4 ∨ d.kind ≠ 1 ∨ x.state ≠ .running ∨ k.epoch ≠ d.epoch ∨ k.pbSent ∨
          reached l.ft (k.t + BitVec.ofNat 32 (500 * secPbClose g)) then l
      else
        let lists := (thrsOf r.body).map fun t =>
          let i := secItem g t.item
          let w := wordAt k.words t.item
          let v : Option Int :=
            if bit w 49 then none
            else if i.1 ≤ 1 then some (fld w 0 48 : Nat) else some (sInt 32 (fld w 0 32))
          ownList t v (contribKey false (l.leaf b))
        let l := l.updPlan p fun x => { x with kept := some { k with pbSent := true } }
        let a := l.readLatch b p
        let l := a.1.buoyB b p 2 k (r.poison || a.2) lists.length (lists.flatMap StragList.words)
        match k.can with
        | some c => l.buoyCan b p k c
        | none => l
    | none => l

/-- PHASE_B_RECEIVE (R226, R439): a phase-B record of a buoy that was present in phase A. -/
def execPhaseBReceive (n : BitVec 5) (r : Rec) (s : State) : Host.Outcome State Fault Refusal :=
  s.run fun b l =>
    let d := descOf r.body
    let p := d.plan
    let x := l.plan p
    let g := x.image
    match x.oc, l.ownBuoy b r.src with
    | some o, some loc =>
      let ok := decide (Tab.getD o.cls loc .absent = .present) && o.leafDone && !o.bClosed &&
        decide (secCvStream (imgBuoySec g) = r.stream.toNat) &&
        (if d.kind = 2 then o.thr.isSome && !o.bPresent.contains loc
         else decide (d.kind = 3) && canaryEpoch g o.epoch && !o.cPresent.contains loc)
      if !l.recOk b n ∨ r.ty ≠ 3 ∨ d.stage ≠ 0x10 ∨ x.state ≠ .running ∨ o.epoch ≠ d.epoch ∨ !ok then l
      else if r.poison then l.poison b p 0
      else l.readsPlan b p fun l =>
        let l := l.rplLog b p 2 d.epoch 2 r.words
        l.updCut p fun o =>
          if d.kind = 2 then
            { o with lists := mergeLists g o.lists (listsOf r.body), bPresent := o.bPresent ++ [loc] }
          else { o with can := o.can.merge (canOf r.body), cPresent := o.cPresent ++ [loc] }
    | _, _ => l

/-- PHASE_B_CLOSE (R226). -/
def execPhaseBClose (plan : BitVec 8) (s : State) : Host.Outcome State Fault Refusal :=
  s.runAwake fun b l =>
    let p := plan.toNat
    let x := l.plan p
    match x.oc with
    | some o =>
      if x.state ≠ .running ∨ o.bClosed ∨ o.stage ≠ 4 ∨ !hasB x.image o.epoch ∨
          !reached l.ft (o.t + BitVec.ofNat 32 (500 * imgPbClose x.image)) then l
      else l.readsPlan b p fun l => l.readsPart b p fun l => l.closeB b p
    | none => l

end Sys2Proof.Machine
end

