-- ==== Sys2Proof/Machine/Load.lean ====
section
/-! DEFINITION. Loading plan images, buoy sections, ensembles and sequence models (spec/05 R148; spec/09
R230, R231; spec/11 R278; spec/14 R340 to R343; spec/15 R380). -/

namespace Sys2Proof.Machine

/-! ### The loader (R148, R278) -/

/-- The HOST links that are UP. -/
def Live.hostUp (l : Live) (b : Build) : List Nat := (l.linksOf b 3).filter fun n => l.isUp n

/-- The HOST link that takes the next read: the next in turn that is UP and has fewer than 64 outstanding. -/
def Live.readLink (l : Live) (b : Build) : Option Nat :=
  let ns := l.hostUp b
  (ns.filter (l.rdLast < ·) ++ ns.filter (· ≤ l.rdLast)).find? fun n => decide ((l.link n).loads.length < 64)

/-- A read of load `no` at offset `o` is outstanding. -/
def Live.reading (l : Live) (no o : Nat) : Bool :=
  l.links.any fun e => e.2.loads.any fun r => decide (r.load = no ∧ r.ofs = o)

/-- The next offset of a load that has neither arrived nor been asked for. -/
def Live.nextRead (l : Live) (d : Load) : Option Nat :=
  ((List.range ((d.len + 4095) / 4096)).map (4096 * ·)).find? fun o =>
    (Tab.find? d.got o).isNone && !l.reading d.r.seqNo o

/-- One read issued on link `n`: its tag is a free value (log entry 6). -/
def Live.issueRead (l : Live) (n : Nat) (d : Load) (o : Nat) : Live :=
  let tag := Config.readTag l.free
  let len := min 4096 (d.len - o)
  let body := [packW [(8, 3), (16, tag.toNat)], d.addr + BitVec.ofNat 64 o, packW [(0, len)]]
  let rd : RdEnt := ⟨tag, d.r.seqNo, o, len⟩
  let item : LinkItem := ⟨body, none, none, 0, l.ft, none⟩
  { l with free := l.free + 1, rdLast := n }.updLink n fun k => { k with
    loads := k.loads ++ [rd], ctl := k.ctl ++ [item] }

/-- Reads issued while a load wants one and a link has room. -/
def Live.issueReads (l : Live) (b : Build) : Nat → Live
  | 0 => l
  | fuel + 1 =>
    let want := l.loads.findSome? fun d =>
      if d.phase = 1 then none else (l.nextRead d).map fun o => (d, o)
    match l.readLink b, want with
    | some n, some (d, o) => (l.issueRead n d o).issueReads b fuel
    | _, _ => l

/-- Reads that may be issued at once: 64 on each link. -/
def readFuel : Nat := 2048

/-- Load `no` changed. -/
def Live.updLoad (l : Live) (no : Nat) (f : Load → Load) : Live :=
  { l with loads := l.loads.map fun d => if d.r.seqNo = no then f d else d }

/-- Words at the front of an image that have arrived without a gap. -/
def prefixWords : Tab (List DWord) → Nat → List DWord
  | [], _ => []
  | (o, ws) :: t, at_ => if o = at_ then ws ++ prefixWords t (at_ + 8 * ws.length) else []

/-- The load's command is answered and the load is gone. A slot that was LOADING is left empty unless
the load succeeded (R341). -/
def Live.endLoad (l : Live) (b : Build) (d : Load) (status : Nat) (arg : Nat := 0) : Live :=
  let l := { l with loads := l.loads.filter fun x => decide (x.r.seqNo ≠ d.r.seqNo) }
  let l := match d.model with
    | some (isSeq, k) =>
      if status = 0 then l
      else
        let l := l.bump b (if isSeq then F.SEQ_ERR_LOAD_REJ else F.TREE_ERR_LOAD_REJ)
        if d.phase = 2 then l.setSlot isSeq k slot0 else l
    | none => l
  l.reply b d.r status arg

/-! ### Plan images at a lantern (R230) -/

/-- Plan entries of the form (R229). -/
def Build.planEntries (b : Build) : Nat := if b.buoy then 16 else 32

/-- Plan `p` has an entry, or one is free. -/
def Live.planRoom (l : Live) (b : Build) (p : Nat) : Bool :=
  decide ((l.plan p).state ≠ .empty) || decide ((l.plans.filter fun e => decide (e.2.state ≠ .empty)).length < b.planEntries)

/-- Bytes of the plan store in use but for plan `p`. -/
def Live.storeUsed (l : Live) (p : Nat) : Nat :=
  l.plans.foldl (fun n e => if e.1 = p then n else n + e.2.bytes) 0

/-- What R230 finds wrong with an image for plan `p` of `len` bytes. -/
def Live.planLoadErr (l : Live) (b : Build) (p len : Nat) : Option Nat :=
  firstErr [
    (decide (p = 0), eRange),
    ((l.plan p).active || (l.plan p).collecting, eState),
    (!l.planRoom b p || decide (6291456 < l.storeUsed p + len), eSlot)]

/-- A new entry for a plan number: the arm instance and the record of past cuts stay. -/
def Plan.renewed (x : Plan) : Plan :=
  { plan0 with armSeq := x.armSeq, latchT := x.latchT, latched := x.latched, done := x.done,
               doneAny := x.doneAny }

/-- The payloads in which a section travels: word offset, words, and whether it is the last. -/
def secChunks : Nat → Nat → List DWord → List (Nat × List DWord × Bool)
  | 0, _, _ => []
  | fuel + 1, o, ws =>
    if ws.length ≤ 253 then [(o, ws, true)]
    else (o, ws.take 254, false) :: secChunks fuel (o + 254) (ws.drop 254)

/-- The BUOY section goes to the named buoys in-band. -/
def Live.sendSection (l : Live) (b : Build) (p : Nat) (ks : List Nat) (ws : List DWord) (crc : Nat) :
    Live :=
  (secChunks (ws.length + 1) 0 ws).foldl (fun l c =>
    let arg := p + 256 * c.1 + b2n c.2.2 * 2147483648
    l.ownCmds b ks (if c.2.2 then .loadFinal else .load) p 0x10 arg
      (c.2.1 ++ (if c.2.2 then [packW [(0, crc)]] else []))) l

/-- A plan image is complete: the entry becomes LOADED, and its section leaves for the buoys. -/
def Live.planLoaded (l : Live) (b : Build) (d : Load) : Live :=
  let g := prefixWords d.got 0
  let p := imgPlan g
  let err := match l.planLoadErr b p d.len with
    | some e => some e
    | none => if crcWords g = d.crc then none else some eCheck
  match err with
  | some e => l.endLoad b d e
  | none =>
    let l := l.clean (.plan p)
    let x : Plan := { (l.plan p).renewed with
      state := .loaded, image := g, bytes := d.len, crc := d.crc, standby := imgStandby g }
    let ks := imgNamed g
    match imgSec g 9 with
    | some c =>
      if ks = [] then (l.setPlan p x).endLoad b d 0 (p + 256 * b2n x.standby)
      else
        let l := { l with loads := l.loads.filter fun y => decide (y.r.seqNo ≠ d.r.seqNo) }
        let l := l.setPlan p { x with coll := ⟨ks, 0⟩, loadReply := some d.r }
        l.sendSection b p ks (imgBuoySec g) c.crc
    | none => (l.setPlan p x).endLoad b d 0 (p + 256 * b2n x.standby)

/-- Data of a plan image have arrived: what the header shows is checked at once. -/
def Live.planData (l : Live) (b : Build) (d : Load) : Live :=
  let g := prefixWords d.got 0
  if 8 * g.length = d.len then l.planLoaded b d
  else if g = [] then l
  else match l.planLoadErr b (imgPlan g) d.len with
    | some e => l.endLoad b d e
    | none => l

/-! ### Models (R340 to R343, R380) -/

/-- A sample of tree slot `k`, or a job of sequence slot `k`, is under way. -/
def Live.slotBusy (l : Live) (isSeq : Bool) (k : Nat) : Bool :=
  if isSeq then
    l.eng.job.any (fun j => decide (j.slot = k ∧ j.mode ≠ 3)) ||
    l.eng.waits.any fun w => !w.barred && decide (w.p.aBits 4 4 = k ∧ w.p.aBits 0 3 ≠ 3)
  else l.eng.treeJobs.any fun j => decide (j.slot = k)

/-- Longest ensemble image of the form, in bytes. -/
def Build.ensMax (b : Build) : Nat := if b.buoy then 66856 else 33559232

/-- Checks 2 to 6 of Table 14.5. -/
def Live.ensErr (l : Live) (b : Build) (k len : Nat) (g : List DWord) : Option Nat :=
  if ensBad2 b g len then some eRange
  else firstErr [
    (ensBad3 b g, eRange),
    ((ensPipes b g).any fun p => !l.pipeOn b p, eGated),
    (l.planUse b false k || l.mapClash b k g, eState),
    (l.regionClash b k g, eSlot)]

/-- Checks 2 to 5 of Table 15.4; the words of the slot's own model count as free. -/
def Live.modErr (l : Live) (b : Build) (k len : Nat) (g : List DWord) : Option Nat :=
  if modBad2 g len then some eRange
  else firstErr [
    (!l.flag b F.UNIT_EN_L_SEQ, eGated),
    (l.planUse b true k, eState),
    (decide (l.storeFree + (l.seqm k).image.length < len / 8), eSlot)]

/-- The tables of an ensemble image have arrived. -/
def ensTablesIn (b : Build) (len : Nat) (g : List DWord) : Bool :=
  let n := 8 * g.length
  decide (min len 64 ≤ n) && (ensTables b g).all fun t => decide (min len (t.1 + t.2) ≤ n)

/-- The reply ARG of a MODEL_LOAD. -/
def modArg (b : Build) (isSeq : Bool) (k : Nat) : Nat := if b.buoy then 0 else k + 16 * b2n isSeq

/-- A load whose slot is LOADING and whose data are all in: the last checks, then the slot holds the
model. A buoy checks the CRC first (R343). -/
def Live.modelFill (l : Live) (b : Build) (d : Load) (isSeq : Bool) (k : Nat) : Live :=
  let g := prefixWords d.got 0
  if 8 * g.length ≠ d.len then l
  else
    let bad := decide (d.len ≠ 0) && if isSeq then modBad6 g else ensBad7 b g
    let crcBad := decide (crcWords g ≠ d.crc)
    match firstErr [(b.buoy && crcBad, eCheck), (bad, eRange), (crcBad, eCheck)] with
    | some e => l.endLoad b d e
    | none => (l.setSlot isSeq k ⟨g, false⟩).endLoad b d 0 (modArg b isSeq k)

/-- The slot becomes LOADING once nothing of it is under way; its regions are those of the new tables
from then on (R341). -/
def Live.modelStart (l : Live) (b : Build) (d : Load) (isSeq : Bool) (k : Nat) : Live :=
  if l.slotBusy isSeq k then l.updLoad d.r.seqNo fun d => { d with phase := 1 }
  else
    let d := { d with phase := 2 }
    let l := l.clean (if isSeq then .seq k else .tree k)
    let g := prefixWords d.got 0
    let l := (l.updLoad d.r.seqNo fun _ => d).setSlot isSeq k ⟨g, true⟩
    l.modelFill b d isSeq k

/-- A load that waited for its slot goes on: the checks that depend on the block are made again (R340, R380;
DEDUCED, log entry 135). -/
def Live.modelGo (l : Live) (b : Build) (d : Load) (isSeq : Bool) (k : Nat) : Live :=
  let g := prefixWords d.got 0
  let err := if d.len = 0 then (if l.planUse b isSeq k then some eState else none)
    else if isSeq then l.modErr b k d.len g else l.ensErr b k d.len g
  match err with
  | some e => l.endLoad b { d with phase := 0 } e
  | none => l.modelStart b d isSeq k

/-- Data of a model have arrived. -/
def Live.modelData (l : Live) (b : Build) (d : Load) (isSeq : Bool) (k : Nat) : Live :=
  let g := prefixWords d.got 0
  if d.phase = 1 then l
  else if d.phase = 2 then l.modelFill b d isSeq k
  else if isSeq then
    if 8 * g.length ≠ d.len then l
    else match l.modErr b k d.len g with
      | some e => l.endLoad b d e
      | none => l.modelStart b d isSeq k
  else if !ensTablesIn b d.len g then l
  else match l.ensErr b k d.len g with
    | some e => l.endLoad b d e
    | none => l.modelStart b d isSeq k

/-- Data have arrived for load `no`. -/
def Live.loadData (l : Live) (b : Build) (no : Nat) : Live :=
  match l.loads.find? fun d => decide (d.r.seqNo = no) with
  | none => l
  | some d =>
    match d.model with
    | none => l.planData b d
    | some (isSeq, k) => l.modelData b d isSeq k

/-! ### Commands at a lantern -/

/-- A load begins: it holds its command and reads storage. -/
def Live.beginLoad (l : Live) (b : Build) (r : Ret) (c : Instr) (p : Packet)
    (model : Option (Bool × Nat)) : Live :=
  let len := fld (wordAt p.data 1) 0 32
  let crc := BitVec.ofNat 32 (fld (wordAt p.data 1) 32 32)
  let d : Load := ⟨r, model, wordAt p.data 0, len, crc, [], 0⟩
  let l := l.hold r c
  { l with loads := l.loads ++ [d] }.issueReads b readFuel

/-- PLAN_LOAD at a lantern (R148, R230). -/
def Live.planLoadL (l : Live) (b : Build) (p : Packet) (r : Ret) : Live :=
  let len := fld (wordAt p.data 1) 0 32
  match firstErr [
    (decide (len = 0 ∨ len % 8 ≠ 0 ∨ 2097152 < len), eRange),
    (decide (l.hostUp b = []), eState)] with
  | some e => l.reply b r e
  | none => l.beginLoad b r (.planLoad p) p none

/-- The slot has a load already. -/
def Live.slotLoading (l : Live) (isSeq : Bool) (k : Nat) : Bool :=
  l.loads.any fun d => decide (d.model = some (isSeq, k))

/-- A MODEL_LOAD that is answered at once with a failing status counts in LOAD_REJ. -/
def Live.rejectModel (l : Live) (b : Build) (r : Ret) (isSeq : Bool) (e : Nat) : Live :=
  (l.bump b (if isSeq then F.SEQ_ERR_LOAD_REJ else F.TREE_ERR_LOAD_REJ)).reply b r e

/-- MODEL_LOAD at a lantern: length 0 with CRC 0 empties the slot (R340, R342, R380). -/
def Live.modelLoadL (l : Live) (b : Build) (p : Packet) (r : Ret) : Live :=
  let len := fld (wordAt p.data 1) 0 32
  let crc := fld (wordAt p.data 1) 32 32
  let k := p.aBits 0 4
  let isSeq := decide (p.aBits 4 1 = 1)
  let max := if isSeq then 4194304 else b.ensMax
  match firstErr [
    (decide ((len = 0 ∧ crc ≠ 0) ∨ len % 8 ≠ 0 ∨ max < len), eRange),
    (l.slotLoading isSeq k, eState),
    (decide (len = 0) && l.planUse b isSeq k, eState),
    (decide (len ≠ 0) && decide (l.hostUp b = []), eState)] with
  | some e => l.rejectModel b r isSeq e
  | none =>
    let l := l.beginLoad b r (.modelLoad p) p (some (isSeq, k))
    if len ≠ 0 then l
    else match l.loads.find? fun d => decide (d.r.seqNo = r.seqNo) with
      | some d => l.modelStart b d isSeq k
      | none => l

/-! ### Commands at a buoy (R231, R343) -/

/-- PLAN_LOAD at a buoy (R231). An offset that does not fit discards the assembly in progress. -/
def Live.planLoadB (l : Live) (b : Build) (p : Packet) (r : Ret) : Live :=
  let k := p.aBits 0 8
  let o := p.aBits 8 23
  let fin := p.arg.toNat.testBit 31
  let ws := if fin then p.data.dropLast else p.data
  let x := l.plan k
  let asm := decide (x.state = .loading)
  let got := if asm then x.image.length else 0
  let g := (if o = 0 then [] else x.image) ++ ws
  let drop := if asm then l.setPlan k plan0 else l
  match firstErr [
    (decide (k = 0), eRange),
    (decide (o ≠ 0 ∧ o ≠ got), eRange),
    (x.owns, eState),
    (!l.planRoom b k, eSlot)] with
  | some e => (if e = eRange then drop else l).reply b r e
  | none =>
    if 2048 < g.length then (l.setPlan k plan0).reply b r eRange
    else
      let l := l.clean (.plan k)
      let x : Plan := { x.renewed with state := .loading, image := g, bytes := 8 * g.length }
      if !fin then (l.setPlan k x).reply b r 0 k
      else if crcWords g ≠ BitVec.ofNat 32 (fld (p.data.getLastD 0) 0 32) then
        (l.setPlan k plan0).reply b r eCheck
      else (l.setPlan k { x with state := .loaded, crc := crcWords g }).reply b r 0 k

/-- The assembled ensemble of a buoy is complete (R343). -/
def Live.modelFinalB (l : Live) (b : Build) (p : Packet) (r : Ret) (g : List DWord) (crc : Word) :
    Live :=
  let l := { l with eng := { l.eng with asm := [], asmOn := false } }
  let len := 8 * g.length
  let d : Load := ⟨r, some (false, 0), 0, len, crc, if g = [] then [] else [(0, g)], 0⟩
  if l.slotLoading false 0 then l.rejectModel b r false eState
  else
    let go := fun (_ : Unit) =>
      ({ l with loads := l.loads ++ [d] }.hold r (.modelLoad p)).modelStart b d false 0
    if g = [] ∨ crcWords g ≠ crc then go ()
    else match l.ensErr b 0 len g with
      | some e => l.rejectModel b r false e
      | none => go ()

/-- MODEL_LOAD at a buoy (R343). -/
def Live.modelLoadB (l : Live) (b : Build) (p : Packet) (r : Ret) : Live :=
  let o := p.aBits 8 23
  let fin := p.arg.toNat.testBit 31
  let ws := if fin then p.data.dropLast else p.data
  let got := if l.eng.asmOn then l.eng.asm.length else 0
  let g := (if o = 0 then [] else l.eng.asm) ++ ws
  if (o ≠ 0 ∧ o ≠ got) ∨ b.ensMax < 8 * g.length then
    { l with eng := { l.eng with asm := [], asmOn := false } }.rejectModel b r false eRange
  else if fin then
    l.modelFinalB b p r g (BitVec.ofNat 32 (fld (p.data.getLastD 0) 0 32))
  else { l with eng := { l.eng with asm := g, asmOn := true } }.reply b r 0

/-! ### The commands -/

/-- PLAN_LOAD (R230, R231). -/
def execPlanLoad (p : Packet) (s : State) : Host.Outcome State Fault Refusal :=
  s.run fun b l => l.command b (.planLoad p) ⟨0x10, true, true, 1, 1, 254, 2, 2⟩ p fun l r =>
    if b.buoy then l.planLoadB b p r else l.planLoadL b p r

/-- The packet of command `c` fails one of the checks that every command shares. -/
def Live.turnedAway (l : Live) (b : Build) (c : Instr) (o : OpRow) (p : Packet) : Bool :=
  l.taken b c p && (l.frame b o p).isSome

/-- MODEL_LOAD (R340 to R343, R380). Every reply other than OK counts in LOAD_REJ. -/
def execModelLoad (p : Packet) (s : State) : Host.Outcome State Fault Refusal :=
  s.run fun b l =>
    let o : OpRow := ⟨0x29, true, true, 1, 1, 254, 2, 2⟩
    let isSeq := b.lantern && decide (p.aBits 4 1 = 1)
    let l := l.when (l.turnedAway b (.modelLoad p) o p) fun l =>
      l.bump b (if isSeq then F.SEQ_ERR_LOAD_REJ else F.TREE_ERR_LOAD_REJ)
    l.command b (.modelLoad p) o p fun l r =>
      if b.buoy then l.modelLoadB b p r else l.modelLoadL b p r

/-- MODEL_LOAD_SLOT_FREE (R341, R383): a load that waits goes on. -/
def execModelLoadSlotFree (isSeq : Bool) (slot : BitVec 4) (s : State) :
    Host.Outcome State Fault Refusal :=
  s.runAwake fun b l =>
    let k := slot.toNat
    match l.loads.find? fun d => decide (d.model = some (isSeq, k) ∧ d.phase = 1) with
    | some d => if l.slotBusy isSeq k then l else (l.modelGo b d isSeq k).issueReads b readFuel
    | none => l

/-! ### LOADDAT -/

/-- A framing error on link `n` (R277, R281): it counts, and the receiver resynchronises with one NAK. -/
def Live.frameErr (l : Live) (b : Build) (n : Nat) : Live :=
  (l.bump b F.LNK_ERR_FRAME n).updLink n fun k =>
    if k.resync then k else { k with resync := true, nakDue := true }

/-- LOADDAT_RECEIVE (R278). Data of a load that has ended are dropped. -/
def execLoaddatReceive (n : BitVec 5) (rtag : BitVec 8) (err : Bool) (data : List DWord) (s : State) :
    Host.Outcome State Fault Refusal :=
  s.runAwake fun b l =>
    let n := n.toNat
    if b.buoy ∨ l.role b n ≠ 3 ∨ !l.isUp n ∨ (l.link n).resync then l
    else match (l.link n).loads with
      | [] => l.frameErr b n
      | e :: rest =>
        if e.tag ≠ rtag ∨ 8 * data.length ≠ (if err then 0 else e.len) then l.frameErr b n
        else
          let l := l.updLink n fun k => { k with loads := rest }
          let l := match l.loads.find? fun d => decide (d.r.seqNo = e.load) with
            | none => l
            | some d =>
              if err then l.endLoad b d eCheck
              else (l.updLoad e.load fun d => { d with got := Tab.insert d.got e.ofs data }).loadData
                b e.load
          l.issueReads b readFuel

/-- Reads outstanding on a link that has gone DOWN are issued again elsewhere; without a HOST link that
is UP every load still reading replies E_STATE (R278). -/
def Live.readsLost (l : Live) (b : Build) (n : Nat) : Live :=
  let l := l.updLink n fun k => { k with loads := [] }
  if l.hostUp b = [] then
    (l.loads.filter fun d => decide (8 * (prefixWords d.got 0).length ≠ d.len)).foldl
      (fun l d => l.endLoad b d eState) l
  else l.issueReads b readFuel

end Sys2Proof.Machine
end

