-- ==== Sys2Proof/Machine/Verify.lean ====
section
/-! DEFINITION. PLAN_VERIFY: the checks of R237 at a buoy and of Table 9.6 at a lantern (spec/09 R233 to
R243; spec/08 R213; spec/14 R352; spec/15 R386; spec/16 R407; spec/18 R438). Each check gives the status
and the byte offset of the first field that fails it. -/

namespace Sys2Proof.Machine

/-- A failed check: status and byte offset. -/
abbrev Bad := Option (Nat × Nat)

/-- E_RANGE at `at_` when `c` holds. -/
def badIf (c : Prop) [Decidable c] (at_ : Nat) : Bad := if c then some (eRange, at_) else none

/-- The first of the checks that fails. -/
def firstBad (xs : List Bad) : Bad := xs.findSome? id

/-- The first failure over `0 … n - 1`. -/
def badEach (n : Nat) (f : Nat → Bad) : Bad := (List.range n).findSome? f

/-- Smallest of a list of offsets. -/
def leastOf : List Nat → Option Nat
  | [] => none
  | a :: t => some (t.foldl min a)

/-- Stream numbers that plan images may assign to a buoy and to a lantern (Table 1.4). -/
def buoyStream (s : Nat) : Bool := decide (1 ≤ s ∧ s ≤ 0x0FFF)
def lanternStream (s : Nat) : Bool := decide (0x2001 ≤ s ∧ s ≤ 0x2FFF)

/-- Greatest INDEX of a KIND (Table 8.2). -/
def indexMax (kind : Nat) : Nat :=
  if kind ≤ 1 then 1023 else if kind = 2 then 15 else if kind = 3 then 7 else 65535

/-! ### The buoy section (R237) -/

/-- Check 2. -/
def secBad2 (g : Image) : Bad :=
  let samp := (secSamp g).1
  firstBad [
    badIf (256 < secNbi g) 1,
    badIf (8 < secNsamp g ∨ 4 < secNqw g) 2,
    badIf (secWords g ≠ g.length) 1,
    badEach (secNbi g) fun i =>
      let x := secItem g i
      badIf (3 < x.1 ∨ indexMax x.1 < x.2.1) (8 * (4 + i)),
    samp.findSome? fun s => badEach s.items.length fun j =>
      let x := s.items.getD j (0, 0)
      badIf (x.1 = 1 ∨ 3 < x.1 ∨ indexMax x.1 < x.2) (8 * (s.at_ + 2 + j))]

/-- PERIOD, CUT_OFS and CMDCUT break check 5 of Table 9.6, at these offsets. -/
def cutBad (cuts cmd : Bool) (per ofs atPer atOfs : Nat) : Bad :=
  firstBad [
    badIf (per % 500000 ≠ 0 ∨ (per = 0 ∧ !cmd ∧ cuts) ∨ (per ≠ 0 ∧ cmd)) atPer,
    badIf (ofs % 500 ≠ 0 ∨ 499500 < ofs) atOfs]

/-- Check 4. -/
def secBad4 (g : Image) : Bad :=
  let st := secStreams g
  badEach st.length fun i =>
    let s := st.getD i (0, 0)
    badIf (!buoyStream s.2 ∨ (st.take i).any (fun t => decide (t.2 = s.2)))
      (8 * s.1 + if s.1 = 3 then 2 else 0)

/-- Check 5. -/
def secBad5 (g : Image) : Bad :=
  let qs := secQw g
  firstBad [
    (secSamp g).1.findSome? fun s => firstBad [
      badIf (s.period < 100000) (8 * s.at_), badIf (s.n = 0) (8 * s.at_ + 9)],
    badEach qs.length fun i =>
      match qs[i]? with
      | none => none
      | some q => firstBad [
        badIf ((qs.take i).any fun r => decide (r.set = q.set)) (8 * q.at_),
        badIf (q.period < 10000) (8 * q.at_ + 4),
        badIf (q.period ≤ q.ofs) (8 * q.at_ + 8),
        badIf (q.len = 0 ∨ q.period ≤ q.len) (8 * q.at_ + 12)]]

/-- Checks 1 to 5 of a section loaded under plan `p`. -/
def secBad (g : Image) (p : Nat) : Bad :=
  firstBad [
    badIf (secPlan g ≠ p) 0,
    secBad2 g,
    cutBad (decide (secNbi g ≠ 0)) (secCmdCut g) (secPeriod g) (secCutOfs g) 8 12,
    badIf (secRate g = 0 ∨ 65536 < secRate g) 24,
    secBad4 g,
    secBad5 g]

/-- Check 6 at a buoy and check 10 at a lantern: the first entry whose resource a plan with no
teardown count armed owns; a lantern counts plans in ARMING too. -/
def Live.ownedBad (l : Live) (b : Build) (p : Nat) : Bad :=
  let g := (l.plan p).image
  let os := l.plans.filter fun e =>
    decide (e.1 ≠ p) && !e.2.tdEn && (if b.buoy then e.2.owns else e.2.active)
  (leastOf (os.flatMap fun e =>
    if b.buoy then secConflicts g e.2.image else imgConflicts g e.2.image)).map fun n => (eSlot, n)

/-! ### The image: checks 0 to 3 of Table 9.6 -/

/-- Check 0. -/
def imgBad0 (g : Image) (len : Nat) : Bad :=
  if len < 64 ∨ len < 64 + 16 * imgNSec g then some (eRange, len)
  else (imgDir g).findSome? fun d => badIf (d.off % 8 ≠ 0 ∨ len < d.off + d.len) d.at_

/-- Check 1. -/
def imgBad1 (g : Image) : Bad :=
  firstBad [
    (imgDir g).findSome? fun d => if secCrc g d = d.crc then none else some (eCheck, d.at_ + 12),
    match imgSec g 1 with
    | some d => if secCrc g d = fld (wordAt g 5) 32 32 then none else some (eCheck, 44)
    | none => none]

/-- A required section is missing (Table 9.3). -/
def secMissing (g : Image) : Bool :=
  ([1, 3, 4, 6, 9] ++ if imgNItems g ≠ 0 then [2, 5] else []).any fun s => (imgSec g s).isNone

/-- Entry size of a section; 0 for BUOY and ACTIONS. -/
def entrySize (sid : Nat) : Nat :=
  if sid = 2 then 24 else if sid = 3 then 104 else if sid = 4 then 16
  else if sid = 9 ∨ sid = 10 then 0 else 8

/-- COUNT of a section breaks R233. -/
def countBad (g : Image) (d : Dir) : Bool :=
  let n := d.count
  if d.sid = 1 then decide (n ≠ 1024)
  else if d.sid = 2 then decide (n ≠ imgNItems g)
  else if d.sid = 3 ∨ d.sid = 9 then decide (n ≠ 1)
  else if d.sid = 4 then decide (n ≠ 2)
  else decide ((if d.sid = 5 then 4096 else if d.sid = 6 then 64 else if d.sid = 7 then 1024 else 256) < n)

/-- LENGTH of a section breaks R233. -/
def lengthBad (g : Image) (d : Dir) : Bool :=
  if d.sid = 9 then decide (16384 < d.len ∨ d.len ≠ 8 * secWords (imgBuoySec g))
  else if d.sid = 10 then decide (d.len < 16 * d.count)
  else decide (d.len ≠ d.count * entrySize d.sid)

/-- Check 2. -/
def imgBad2 (g : Image) (len : Nat) : Bad :=
  let ds := imgDir g
  firstBad [
    badIf (fld (wordAt g 0) 0 16 ≠ 0x0201) 0,
    badEach ds.length fun i =>
      match ds[i]? with
      | none => none
      | some d => badIf (d.sid = 0 ∨ 10 < d.sid ∨ (ds.take i).any (fun c => decide (c.sid = d.sid))) d.at_,
    badIf (secMissing g) 42,
    badIf (fld (wordAt g 0) 32 32 ≠ len) 4,
    ds.findSome? fun d => firstBad [
      badIf (countBad g d) (d.at_ + 2), badIf (lengthBad g d) (d.at_ + 8)],
    match imgSec g 10 with
    | some d => badEach d.count fun i =>
        let a := imgAction g i
        badIf (d.len < a.block + 8 * blockLen g a) (d.off + 16 * i + 8)
    | none => none]

/-- Check 3. -/
def Live.imgBad3 (l : Live) (g : Image) : Bad :=
  let t := imgTrunk g
  let w := wordAt g 1
  firstBad [
    badIf (t ≠ l.boot.st.idTrunk.toNat) 8,
    badIf (!(imgLan g t).valid) (8 * (secBase g 1 + t) + 1),
    badIf (!(imgLan g (imgRoot g)).valid) 10,
    badIf (1024 < (fld w 10 4 + 1) * (fld w 14 4 + 1) * (fld w 18 4 + 1)) 9]

/-! ### Check 4 -/

/-- An item's fields (R213), at the item's offset. -/
def itemBad (x : Item) (at_ : Nat) : Bad :=
  firstBad [
    badIf (4 < x.kind) at_,
    badIf (indexMax x.kind < x.index) (at_ + 1),
    badIf (x.ops = 0 ∨ (x.strag ∧ !x.hist)) (at_ + 3),
    badIf (x.kind = 4 ∧ 32 < x.frac) (at_ + 4),
    badIf (x.top ∧ (x.k = 0 ∨ 8 < x.k)) (at_ + 5),
    badIf (x.strag ∧ (x.listL = 0 ∨ 64 < x.listL)) (at_ + 17)]

/-- The item carries the operation that FLD names (Table 14.6). -/
def fldCarried (x : Item) (f : Nat) : Bool :=
  if f ≤ 1 then x.sum else if f = 2 then x.min else if f = 3 then x.max else true

/-- A tree engine block at offset `at_` (R352). -/
def treeBlkBad (g : Image) (k : TreeBlk) (at_ : Nat) : Bad :=
  firstBad [
    badIf (k.nf = 0 ∨ 1024 < k.nf) at_,
    badEach k.nf fun j =>
      let e := k.feats.getD j (0, 0)
      let o := at_ + 8 + 4 * j
      firstBad [
        badIf (imgNItems g ≤ e.1 ∨ (k.src = 1 ∧ imgNBuoyItems g ≤ e.1)) o,
        badIf (k.src = 0 ∧ (4 < e.2 ∨ !fldCarried (imgItem g e.1) e.2)) (o + 1)]]

/-- A sequence engine block at offset `at_` (R386). -/
def seqBlkBad (k : SeqBlk) (at_ : Nat) : Bad :=
  firstBad [
    badIf (k.mode = 0 ∨ 4 < k.mode ∨ k.nser = 0 ∨ 64 < k.nser) at_,
    badIf (if k.mode ≤ 2 then k.wlen ≠ 0 else k.wlen = 0 ∨ 4194304 < k.wlen) (at_ + 8),
    badEach k.nser fun i =>
      badIf ((k.sers.take i).contains (k.sers.getD i 0)) (at_ + 16 + 2 * i)]

/-- Entry `i` of the ACTIONS section (R239). -/
def actionBad (g : Image) (i : Nat) : Bad :=
  let a := imgAction g i
  let o := 8 * secBase g 10
  let len := match imgSec g 10 with | some d => d.len | none => 0
  firstBad [
    badIf (a.trigger = 0 ∨ 3 < a.trigger) (o + 16 * i),
    badIf (a.every = 0) (o + 16 * i + 1),
    badIf (1 < a.engine) (o + 16 * i + 5),
    badIf (a.block % 8 ≠ 0 ∨ len ≤ a.block) (o + 16 * i + 8),
    if a.engine = 0 then treeBlkBad g (treeBlk g a) (o + a.block)
    else seqBlkBad (seqBlk g a) (o + a.block)]

/-- Check 4. -/
def Live.imgBad4 (l : Live) (b : Build) (g : Image) : Bad :=
  let at_ := fun i => 8 * secBase g 2 + 24 * i
  firstBad [
    badIf (256 < imgNItems g) 34,
    badIf (8 < imgNStrag g) 35,
    badIf (imgRate g = 0 ∨ 65536 < imgRate g) 32,
    badEach (imgNItems g) fun i => itemBad (imgItem g i) (at_ i),
    badEach (imgNItems g) fun i =>
      let x := imgItem g i
      firstBad [
        badIf (x.kind ≠ 4 ∧ (List.range i).any (fun j => decide ((imgItem g j).kind = 4))) (at_ i),
        badIf (x.kind = 4 ∧ l.get b F.SER_CFG_TYPE x.index ≠ 2) (at_ i + 1)],
    badIf ((imgStrag g).length ≠ imgNStrag g) 35,
    badEach (secCount g 10) (actionBad g),
    badIf (imgCanary g ≠ 0 ∧ (imgNItems g = 0 ∨ imgPbClose g < 80 ∨
      !(imgSlots g).any fun x => decide (x.use = 1))) 40]

/-! ### Checks 6 to 10 -/

/-- The deadlines of an image in their order, with their offsets (check 6). -/
def deadlines (g : Image) : List (Nat × Nat) :=
  let st := fun i => 8 * (secBase g 3 + 4 + 3 * (i - 1))
  [(imgLeafClose g, 35), ((imgStage g 1).dlA, st 1 + 1), ((imgStage g 2).dlA, st 2 + 1),
   ((imgStage g 3).dlA, st 3 + 1), (imgPbClose g, 37), ((imgStage g 1).dlB, st 1 + 2),
   ((imgStage g 2).dlB, st 2 + 2), ((imgStage g 3).dlB, st 3 + 2)]

/-- Check 6. -/
def imgBad6 (g : Image) : Bad :=
  let ds := deadlines g
  let last := imgLastDl g
  firstBad [
    if imgNItems g = 0 then none
    else badEach 7 fun i =>
      let x := ds.getD i (0, 0)
      let y := ds.getD (i + 1) (0, 0)
      badIf (y.1 < x.1 ∨ (i = 3 ∧ y.1 = x.1)) y.2,
    ds.findSome? fun d => badIf (last < d.1) d.2,
    badEach (secCount g 5) fun i =>
      let x := imgSlot g i
      badIf (last < x.first + x.count) (8 * (secBase g 5 + i) + 2),
    badIf (980 < last) 38]

/-- A transmit slot entry of a link with this USE exists. -/
def hasTx (g : Image) (link use : Nat) : Bool :=
  (imgSlots g).any fun x => decide (x.dir = 0 ∧ x.link = link ∧ x.use = use)

/-- Links of a broadcast tree at this lantern. -/
def Bcast.links (t : Bcast) : List Nat := (if t.hasParent then [t.parent] else []) ++ t.children

/-- Check 7. -/
def Live.imgBad7 (l : Live) (g : Image) : Bad :=
  let bc := 8 * secBase g 4
  firstBad [
    badEach (secCount g 5) fun i =>
      let x := imgSlot g i
      badIf ((List.range i).any fun j =>
        let y := imgSlot g j
        decide (x.link = y.link ∧ x.dir = y.dir ∧ x.count ≠ 0 ∧ y.count ≠ 0 ∧
          x.first < y.first + y.count ∧ y.first < x.first + x.count)) (8 * (secBase g 5 + i)),
    badIf ((imgBcast g 0).links.any fun n => (imgBcast g 1).links.contains n) (bc + 16),
    if imgNItems g = 0 then none else firstBad [
      if imgRoot g ≠ l.boot.st.idTrunk.toNat then none
      else badEach (secCount g 6) fun i =>
        let x := imgStr g i
        badIf (x.use ≤ 2 ∧ !hasTx g x.link 3) (8 * (secBase g 6 + i) + 2),
      [1, 2, 3].findSome? fun st =>
        let x := imgStage g st
        badIf (x.hasParent ∧ (!hasTx g x.parent 0 ∨ (imgNStrag g ≠ 0 ∧ !hasTx g x.parent 1)))
          (8 * (secBase g 3 + 4 + 3 * (st - 1))),
      [0, 1].findSome? fun t =>
        badIf (imgNStrag g ≠ 0 ∧ (imgBcast g t).children.any fun n => !hasTx g n 2) (bc + 16 * t + 4)]]

/-- Object `k` is a BARRIER of the SYNC section. -/
def isBarrier (g : Image) (k : Nat) : Bool :=
  (imgSyncs g).any fun o => decide (o.obj = k ∧ o.ty = 0)

/-- Check 8, with R407. An object of TYPE 3, which Table 9.5 does not name, is out of range (DESIGN CHOICE, log
entry 130). -/
def imgBad8 (g : Image) : Bad :=
  let sec := imgBuoySec g
  let named := imgNamed g
  firstBad [
    badEach (secCount g 6) fun i =>
      badIf (!lanternStream (imgStr g i).stream) (8 * (secBase g 6 + i)),
    (secStreams sec).findSome? fun s =>
      badIf (!buoyStream s.2) (8 * (secBase g 9 + s.1) + if s.1 = 3 then 2 else 0),
    badEach (secCount g 7) fun i =>
      let o := imgSync g i
      let at_ := 8 * (secBase g 7 + i)
      firstBad [
        badIf (2 < o.ty) (at_ + 1),
        badIf (o.ty = 2 ∧ !named.contains (o.init % 256)) (at_ + 2)],
    badEach (secCount g 10) fun i =>
      let a := imgAction g i
      let at_ := 8 * secBase g 10 + 16 * i
      firstBad [
        badIf (a.waitEn ∧ !isBarrier g a.wait) (at_ + 2),
        badIf (a.sigEn ∧ !isBarrier g a.sig) (at_ + 4),
        badIf (!lanternStream a.out) (at_ + 12)]]

/-- Check 9. -/
def Live.imgBad9 (l : Live) (b : Build) (g : Image) : Bad :=
  badEach (secCount g 5) fun i =>
    let x := imgSlot g i
    if l.role b x.link = (if x.use = 3 then 3 else 1) then none
    else some (eState, 8 * (secBase g 5 + i))

/-- The checks of Table 9.6, in their order, on the image of plan `p`. -/
def Live.imgBad (l : Live) (b : Build) (p : Nat) : Bad :=
  let x := l.plan p
  let g := x.image
  match imgBad0 g x.bytes with
  | some e => some e
  | none => firstBad [
      imgBad1 g, imgBad2 g x.bytes, l.imgBad3 g, l.imgBad4 b g,
      cutBad (decide (imgNItems g ≠ 0)) (imgCmdCut g) (imgPeriod g) (imgCutOfs g) 24 28,
      imgBad6 g, l.imgBad7 g, imgBad8 g, l.imgBad9 b g, l.ownedBad b p]

/-! ### The command -/

/-- PLAN_VERIFY (R237, R243). -/
def execPlanVerify (p : Packet) (s : State) : Host.Outcome State Fault Refusal :=
  s.run fun b l => l.command b (.planVerify p) (opRow 0x11 true true 1 0 0) p fun l r =>
    let k := p.aBits 0 8
    let x := l.plan k
    if (x.state ≠ .loaded ∧ x.state ≠ .verified) ∨ x.collecting then l.reply b r eState
    else if l.bad (.plan k) then ((l.meet b (.plan k)).setPlan k { x with state := .loaded }).reply b r ePoison
    else
      let bad := if b.buoy then firstBad [secBad x.image k, l.ownedBad b k] else l.imgBad b k
      match bad with
      | some e => (l.setPlan k { x with state := .loaded }).reply b r e.1 e.2
      | none =>
        let x : Plan := { x with state := .verified }
        if b.buoy then (l.setPlan k x).reply b r 0 0xFFFFFFFF
        else
          let l := { l with table := x.image }
          let ks := imgNamed x.image
          if ks = [] then (l.setPlan k { x with buoyOk := [] }).reply b r 0 0xFFFFFFFF
          else
            let y : Plan := { x with buoyOk := [], coll := ⟨ks, 0⟩, verifyReply := some r }
            let l := (l.setPlan k y).hold r (.planVerify p)
            l.ownCmds b ks .verify k 0x11 k []

end Sys2Proof.Machine
end

