-- ==== Sys2Proof/Machine/Action.lean ====
section
/-! DEFINITION. The slot grid, plan actions and their engine runs, and canary outcomes (spec/09 R239, R240;
spec/14 R353 to R357; spec/15 R387 to R392; spec/18 R437 to R442). -/

namespace Sys2Proof.Machine

/-! ### The slot grid (R240) -/

/-- The first cell boundary after FT of a grid with its origin at `org`, which lies ahead. -/
def firstBoundary (ft org : Word) : Word :=
  org - BitVec.ofNat 32 (((org - ft).toNat - 1) / 500000 * 500000)

/-- A write of SCH_CTL: setting GRID_EN checks the origin under R125. -/
def Live.writeSchCtl (l : Live) (b : Build) (v : Word) : Live :=
  if !v.toNat.testBit 0 then l.put b F.SCH_CTL_GRID_EN 0
  else if l.flag b F.SCH_CTL_GRID_EN then l
  else
    let org := BitVec.ofNat 32 (l.get b F.SCH_GRID_ORG_ORG)
    if l.timed ∧ l.inWindow org then
      (l.put b F.SCH_CTL_GRID_EN 1).put b F.SCH_NEXT_B (firstBoundary l.ft org).toNat
    else l.put b F.SCH_STAT_GRID_REJ 1

/-! ### Occurrences and barriers (R239) -/

/-- The first element that satisfies `f` taken out of a list. -/
def takeFirst {α : Type} (f : α → Bool) : List α → Option (α × List α)
  | [] => none
  | a :: t => if f a then some (a, t) else (takeFirst f t).map fun r => (r.1, a :: r.2)

/-- Occurrences of the actions of one engine that wait or run. -/
def engineOccs (x : Plan) (engine : Nat) : Nat :=
  (x.occs.filter fun o => decide ((imgAction x.image o.entry).engine = engine)).length

/-- The action may run here: a tree action over the root's partial runs only at the root (R353). -/
def Live.runsHere (l : Live) (b : Build) (x : Plan) (a : Action) : Bool :=
  decide (a.engine = 1) || decide ((treeBlk x.image a).src = 1) || l.isRoot b x

/-- The semaphores that the runs of an action take: which of its plan's they are is a free value (log entry 120). -/
def Live.sems (l : Live) (p entry : Nat) : Tab Sync :=
  l.trace.syncs.filter fun e =>
    decide (e.2.plan = p ∧ e.2.ty = 1) && Config.takesSem (l.plan p).crc.toNat entry e.1

/-- An action finds the count of a semaphore that it takes at 0, and waits (R239). A run is one step, which gives back
at its end what it took at its start. -/
def Live.semShut (l : Live) (p entry : Nat) : Bool := (l.sems p entry).any fun e => decide (e.2.count = 0)

/-- A fifth occurrence ends the plan (R357, R391). -/
def Live.backlog (l : Live) (b : Build) (p engine : Nat) : Live :=
  let l := l.bump b (if engine = 0 then F.TREE_ERR_BACKLOG else F.SEQ_ERR_BACKLOG)
  (l.logE b 0x0705 3 [engine] p eSlot).abortPlan b p

/-- ACTION_TRIGGER (R239, R357, R391): the oldest occurrence of the entry's trigger is taken. -/
def execActionTrigger (plan entry : BitVec 8) (s : State) : Host.Outcome State Fault Refusal :=
  s.runAwake fun b l =>
    let p := plan.toNat
    let x := l.plan p
    let i := entry.toNat
    match takeFirst (fun o : Occ => decide (o.entry = i)) x.due with
    | none => l
    | some (o, rest) => l.readsPlan b p fun l =>
      let a := imgAction x.image i
      let shut := l.semShut p i
      let n := Tab.getD x.trig i 0 + 1
      let l := l.setPlan p { x with due := rest, trig := Tab.set x.trig i 0 (n % a.every) }
      if n % a.every ≠ 0 ∨ !l.runsHere b x a then l.settle b p o.epoch
      else if 4 ≤ engineOccs x a.engine then l.backlog b p a.engine
      else l.updPlan p fun x => { x with
        occs := x.occs ++ [{ o with waiting := (a.waitEn && !o.released) || shut }] }

/-- A barrier is released: its waiting actions may run, but for those that then wait for a semaphore (`shut`), and
actions triggered by the release alone occur, in ascending entry order. `o` is the occurrence whose completion was the
last arrival. -/
def Live.freeBarrier (l : Live) (p k : Nat) (o : Occ) (shut : Nat → Bool) : Live :=
  let g := (l.plan p).image
  let freed := fun (c : Occ) =>
    let a := imgAction g c.entry
    if a.waitEn ∧ a.wait = k then { c with waiting := shut c.entry, released := true } else c
  let new := (List.range (secCount g 10)).filterMap fun i =>
    let a := imgAction g i
    if a.trigger = 3 ∧ a.waitEn ∧ a.wait = k then
      some { o with entry := i, waiting := false, released := true }
    else none
  (l.updPlan p fun x => { x with occs := x.occs.map freed, due := x.due.map freed }).addDue p new

/-- One arrival at barrier `k` of plan `p`. -/
def Live.arriveAt (l : Live) (p k : Nat) (o : Occ) : Live :=
  match Tab.find? l.trace.syncs k with
  | some y =>
    if y.plan ≠ p ∨ y.ty ≠ 0 then l
    else
      let n := y.count + 1
      let shut := l.semShut p
      let full := decide (y.init ≤ n)
      let l := { l with trace := { l.trace with
        syncs := Tab.insert l.trace.syncs k { y with count := if full then 0 else n } } }
      if full then l.freeBarrier p k o shut else l
  | none => l

/-- An action's run is complete: it leaves, and signals its barrier. -/
def Live.actionDone (l : Live) (b : Build) (p : Nat) (o : Occ) (rest : List Occ) : Live :=
  let a := imgAction (l.plan p).image o.entry
  let l := l.updPlan p fun x => { x with occs := rest }
  let l := { l with mem := { l.mem with bad := l.mem.bad.filter fun x => match x.h with
    | .rows q i e _ => decide (q ≠ p ∨ i ≠ o.entry ∨ e ≠ o.epoch)
    | _ => true } }
  let l := if a.sigEn then l.arriveAt p a.sig o else l
  (l.settle b p o.epoch).seqTurn b

/-- The oldest occurrence of an entry, if it does not wait, and the others. -/
def readyOcc (x : Plan) (i : Nat) : Option (Occ × List Occ) :=
  match takeFirst (fun o : Occ => decide (o.entry = i)) x.occs with
  | some (o, rest) => if o.waiting then none else some (o, rest)
  | none => none

/-- Occurrence `o` is the oldest of all sequence actions that may run (R383). -/
def Live.seqOldest (l : Live) (o : Occ) : Bool :=
  !(l.plans.any fun e => e.2.occs.any fun c =>
    !c.waiting && decide ((imgAction e.2.image c.entry).engine = 1 ∧ c.no < o.no))

/-- A record of an action's output stream; a bench marks it REPLAYED (R463). -/
def Live.sendAction (l : Live) (b : Build) (p ty stream : Nat) (inex : Bool)
    (body : List DWord) : Live :=
  let r := mkRec l b ty stream l.ft body
  l.create b { r with inexact := inex, replayed := l.replaying p }

/-- A replay ends: its command, or a waiting mode 00, is answered with the bytes replayed (R460, R463). -/
def Live.rplStop (l : Live) (b : Build) (status : Nat) : Live :=
  let q := l.flt.rpl
  let l := { l with flt := { l.flt with rpl := { q with st := .off, stopping := false, reply := none } } }
  let l := if status = 0 then l else l.logE b 0x110B 2 [q.last] q.plan status
  let l := (l.freePlan q.plan).updPlan q.plan Plan.ended
  let l := match q.reply with
    | some r => l.reply b r status q.bytes
    | none => l
  l.seqTurn b

/-- An action of plan `p` meets poison: the plan ends, or the replay does (R434, R463). -/
def Live.actionPoison (l : Live) (b : Build) (p : Nat) : Live :=
  if l.replaying p then l.rplStop b ePoison else l.poison b p 2

/-! ### Tree actions -/

/-- A value as the word of a feature of this type (R353). -/
def featWord (ty : Nat) (v : Int) : Word :=
  if ty = 0 then f32OfInt v
  else if ty = 1 then BitVec.ofNat 32 (bf16OfInt v)
  else if ty = 2 then BitVec.ofInt 32 (satS 32 v)
  else BitVec.ofInt 32 (if v < 0 then 0 else if 0xFFFFFFFF < v then 0xFFFFFFFF else v)

/-- The features of a sample from the values of its entries. -/
def featsOf (ens : List DWord) (vs : List (Option Int)) : List (Option Word) :=
  (List.range vs.length).map fun j => (vs.getD j none).map (featWord (ensFeat ens j))

/-- The samples of a run: LeafID and features. -/
def Live.treeSamples (l : Live) (b : Build) (g : Image) (k : TreeBlk) (ens : List DWord) (o : Occ) :
    List (Nat × List (Option Word)) :=
  if k.src = 0 then [(0, featsOf ens (k.feats.map fun e => partField o.root e.1 e.2))]
  else o.rows.map fun r =>
    (l.trunk b * 256 + r.1,
      featsOf ens (k.feats.map fun e => itemVal (imgItem g e.1) (wordAt r.2 e.1)))

/-- The uncorrectable words that sample `i` of a run in slot `k` reads: nodes of its walks, and its feature words,
which `own` names (R350). -/
def Live.sampleBad (l : Live) (b : Build) (k i : Nat) (xs : List (Option Word)) (own : Holder) : List BadWord :=
  let g := (l.tree k).image
  l.mem.bad.filter fun w => decide (w.h = own) || (decide (w.h = .tree k) &&
    (nodeOf b g w.a).any (sampleReads b g i xs (b.nodePipe w.a)))

/-- The samples of a run read their words: each uncorrectable one counts, and each poisoned sample (R350, R428).
With it, whether a sample is poisoned. -/
def Live.readSamples (l : Live) (b : Build) (k : Nat) (xs : List (List (Option Word))) (own : Nat → Holder) :
    Live × Bool :=
  (List.range xs.length).foldl (fun q i =>
    match q.1.sampleBad b k i (xs.getD i []) (own i) with
    | [] => q
    | ws => ((ws.foldl (fun l w => l.ueSeen b w.id w.a) q.1).bump b F.TREE_ERR_POISON, true)) (l, false)

/-- The VOTE payload (Table 14.7). -/
def voteBody (p : Nat) (a : Action) (k : TreeBlk) (o : Occ) (absent : Nat)
    (xs : List (Nat × List (Option Word))) (res : List (List DWord)) : List DWord :=
  [packW [(0, p), (8, a.slot), (12, k.src), (16, o.epoch), (32, xs.length)],
   packW [(0, k.ensId), (32, if k.src = 1 then absent else 0)]] ++
  (List.range xs.length).flatMap fun i =>
    let x := xs.getD i (0, [])
    packW [(0, x.1), (18, (x.2.filter (·.isNone)).length)] :: res.getD i []

/-- TREE_ACTION_RUN (R353, R355). -/
def execTreeActionRun (plan entry : BitVec 8) (s : State) : Host.Outcome State Fault Refusal :=
  s.runAwake fun b l =>
    let p := plan.toNat
    let x := l.plan p
    let a := imgAction x.image entry.toNat
    match readyOcc x entry.toNat with
    | none => l
    | some (o, rest) =>
      if b.buoy ∨ a.engine ≠ 0 then l
      else l.readsPlan b p fun l =>
        let k := treeBlk x.image a
        let ens := (l.tree a.slot).image
        let xs := l.treeSamples b x.image k ens o
        let (l, bad) := l.readSamples b a.slot (xs.map (·.2)) fun j => .rows p o.entry o.epoch j
        if bad then l.actionPoison b p
        else
        let res := ensResults b ens (xs.map (·.2))
        let inex := decide (k.src = 0) && o.root.inexact
        let l := l.sendAction b p 5 a.out inex (voteBody p a k o o.absent xs res)
        let l := { l with eng := { l.eng with samples := (l.eng.samples + xs.length) % 2 ^ 32 } }
        l.actionDone b p o rest

/-! ### Sequence actions -/

/-- What a run of one series gives: the SEQRES payload with its INEXACT, or poison. -/
structure SerRun where
  body : List DWord
  inex : Bool
  poison : Bool
  deriving DecidableEq, Repr

/-- The BLOCK entries that a log holds for a series in an epoch: block headers (R461). -/
def Live.logBlocks (l : Live) (epoch s : Nat) : List (List DWord) :=
  (l.flt.rpl.recs.filter fun r =>
    let w := wordAt r.body 0
    decide (fld w 0 8 = 4 ∧ fld w 16 16 = epoch ∧ fld w 32 16 = s)).map fun r => r.body.drop 1

/-- The extent of series `s` that a run sees: GEN, COMMIT, and the first sample of the window. A bench
takes them from the log's BLOCK entries, since the log fixes what a run read. -/
def Live.serExtent (l : Live) (b : Build) (p epoch s : Nat) : Nat × Word × Word :=
  if l.replaying p then
    match l.logBlocks epoch s with
    | [] => (l.gen s, (l.sery s).commit, l.serFirst b s)
    | h :: t =>
      let z := t.getLastD h
      (blkGen h, BitVec.ofNat 32 (256 * (blkNo z + 1)), BitVec.ofNat 32 (256 * blkNo h))
  else (l.gen s, (l.sery s).commit, l.serFirst b s)

/-- Headers of blocks as they lie in the ring. -/
def Live.blkHeads (l : Live) (b : Build) (s : Nat) (nos : List Nat) : List (List DWord) :=
  nos.map fun no =>
    match Tab.find? (l.sery s).ring (no % l.serNblk b s) with
    | some x => x.words.take 2
    | none => []

/-- A run of one series over `len` samples from `first` (R388): SER_LOST when the series is not enabled
or a block was overtaken. -/
def Live.serRun (l : Live) (b : Build) (p : Nat) (a : Action) (k : SeqBlk) (epoch s gen : Nat)
    (first : Word) (len : Nat) (h : List Word) : Live × SerRun × Option (List Word) :=
  let g := (l.seqm a.slot).image
  let ty := l.get b F.SER_CFG_TYPE s
  let common := fun (lost inex : Bool) (nf ni : Nat) =>
    seqCommon p k.mode lost a.slot s epoch inex first len gen nf (modId g) ni
  let lost : SerRun := ⟨common true false 0 0 ++ List.replicate (seqBodyLen k.mode) 0, false, false⟩
  if !(l.sery s).on then (l, lost, none)
  else
    let l := (l.blkHeads b s (blocksIn first len)).foldl (fun l w => l.rplLog b p 4 epoch s w) l
    let rd := l.serRead b s gen first len
    let l := (l.countRead b s rd).meet b (.seq a.slot)
    if rd.poison ∨ l.bad (.seq a.slot) then (l, ⟨[], false, true⟩, none)
    else if rd.stale then (l, lost, none)
    else
      let r := seqCompute k.mode g ty (modQuery g) h rd.xs
      let inex := decide (rd.inex ≠ 0) || r.sat
      (l, ⟨common false inex (nFill ty rd.xs) rd.inex ++ r.body, inex, false⟩, some r.state)

/-- `a` lies before `c` in the serial order of sample numbers. -/
def sampBefore (a c : Word) : Bool := decide ((a - c).toInt < 0)

/-- A FILTER or SCORE run of series `j` of the list (R387). A series that is not enabled has no samples: its run
is empty (DESIGN CHOICE, log entry 136). -/
def Live.liveRun (l : Live) (b : Build) (p entry : Nat) (a : Action) (k : SeqBlk) (epoch j s : Nat) :
    Live × SerRun :=
  let g := (l.seqm a.slot).image
  let key := liveKey p entry j
  let x : Live1 := Tab.getD l.eng.live key ⟨0, zeroState g, 0⟩
  let (gen, c, w) := l.serExtent b p epoch s
  let on := (l.sery s).on
  let lag := on && decide (x.gen = gen) && sampBefore x.p w
  let l := l.when lag fun l => l.bump b F.SEQ_ERR_LAGGED
  let fresh := lag || decide (x.gen ≠ gen)
  let first := if !on then c else if fresh then w else x.p
  let h := if fresh then zeroState g else x.st
  if on ∧ !fresh ∧ l.bad (.live key) then (l.meet b (.live key), ⟨[], false, true⟩)
  else
    let (l, r, st) := (l.clean (.live key)).serRun b p a k epoch s gen first (c - first).toNat h
    let y : Live1 := ⟨c, st.getD (zeroState g), gen⟩
    ({ l with eng := { l.eng with live := Tab.insert l.eng.live key y } }, r)

/-- A STATS or SEARCH run (R388). -/
def Live.windowRun (l : Live) (b : Build) (p : Nat) (a : Action) (k : SeqBlk) (epoch s : Nat) :
    Live × SerRun :=
  let (gen, c, w) := l.serExtent b p epoch s
  let n := min k.wlen (c - w).toNat
  let (l, r, _) := l.serRun b p a k epoch s gen (c - BitVec.ofNat 32 n) n []
  (l, r)

/-- Block headers of a bench differ from the log's BLOCK entries (R463). -/
def Live.logMismatch (l : Live) (b : Build) (p epoch : Nat) (sers : List Nat) : Bool :=
  l.replaying p && sers.any fun s =>
    let hs := l.logBlocks epoch s
    decide (l.blkHeads b s (hs.map blkNo) ≠ hs)

/-- SEQ_ACTION_RUN (R387 to R389, R392): one record for each listed series; a poisoned or failing block
ends the plan. The run reads its series as they stand at this command. An older job that may run goes first
(R383). -/
def execSeqActionRun (plan entry : BitVec 8) (s : State) : Host.Outcome State Fault Refusal :=
  s.runAwake fun b l =>
    let p := plan.toNat
    let x := l.plan p
    let a := imgAction x.image entry.toNat
    match readyOcc x entry.toNat with
    | none => l
    | some (o, rest) =>
      if b.buoy ∨ a.engine ≠ 1 ∨ !l.seqOldest o then l
      else l.readsPlan b p fun l =>
        let k := seqBlk x.image a
        if l.logMismatch b p o.epoch k.sers then l.rplStop b eCheck
        else
          let (l, rs) := (List.range k.nser).foldl (fun (q : Live × List SerRun) j =>
            let s := k.sers.getD j 0
            let y := if k.mode ≤ 2 then q.1.liveRun b p entry.toNat a k o.epoch j s
              else q.1.windowRun b p a k o.epoch s
            (y.1, q.2 ++ [y.2])) (l, [])
          if rs.any (·.poison) then (l.bump b F.SEQ_ERR_POISON).actionPoison b p
          else
            let l := rs.foldl (fun l r => l.sendAction b p 6 a.out r.inex r.body) l
            let l := { l with eng := { l.eng with jobsDone := (l.eng.jobsDone + 1) % 2 ^ 32 } }
            l.actionDone b p o rest

/-! ### Canary runs (R437 to R442) -/

/-- The temperature bin (R442), from a value in units of 0.0625 °C. -/
def tempBin (v : Int) : Nat := if v < 480 then 0 else min 7 (1 + ((v - 480) / 240).toNat)

/-- The load bin (R442), from the busy cycles of the island over the 1 ms before the run. -/
def loadBin (busy total : Nat) : Nat :=
  if 4 * busy < total ∨ total = 0 then 0 else if 2 * busy < total then 1 else if 4 * busy < 3 * total then 2 else 3

/-- The bin of a run: temperature and load. A lantern's temperature is reading RD 3 of device 0. -/
def Live.canBin (l : Live) (b : Build) (load : Nat) : Nat :=
  let t := if b.buoy then
      (match l.samp.sensT.map (·.2.2) with
       | [] => 0
       | v :: vs => tempBin (vs.foldl max v))
    else match Tab.find? l.pwr.vals 3 with
      | some (v, _) => (match f32ToFix 32 4 v with
        | some (i, _) => tempBin i
        | none => 0)
      | none => 0
  t + 8 * load

/-- The failing tree pipes among those that a run feeds: enabled pipes of the form (R437). -/
def Live.canPipes (l : Live) (b : Build) (pipes : Nat) : Nat :=
  (List.range b.pipes).foldl (fun m p => if pipes.testBit p ∧ l.pipeOn b p then m + 2 ^ p else m) 0

/-- The failing unit classes among those that a run feeds (R437, Table 18.3): the classes of the form, the
sequence engine's while it is enabled, and the tree pipes when one of them fails. -/
def Live.canUnits (l : Live) (b : Build) (units pipes : Nat) : Nat :=
  let own := fun (i : Nat) =>
    if i = 1 then decide (l.canPipes b pipes ≠ 0)
    else units.testBit i && (if b.buoy then decide (i = 7)
      else decide (i ≠ 7) && (!decide (2 ≤ i ∧ i ≤ 5) || l.flag b F.UNIT_EN_L_SEQ))
  (List.range 8).foldl (fun m i => if own i then m + 2 ^ i else m) 0

/-- The epoch whose canary run may end now, and its cut count: at a lantern the open canary epoch before
its phase-B close; at a buoy the kept latch, since its section does not say which epochs are canary
epochs. -/
def Live.canaryOf (l : Live) (b : Build) (p : Nat) : Option (Nat × Word) :=
  let x := l.plan p
  if x.state ≠ .running then none
  else if b.buoy then
    match x.kept with
    | some k => if k.assembled ∧ k.can.isNone then some (k.epoch, k.t) else none
    | none => none
  else match x.oc with
    | some o =>
      if canaryEpoch x.image o.epoch ∧ !o.canOwn ∧ !o.bClosed then some (o.epoch, o.t) else none
    | none => none

/-- The counts, flags and event of a run that ended (R438, R442). -/
def Live.canaryRan (l : Live) (b : Build) (p e units pipes bin : Nat) : Live :=
  let l := l.put b F.CNRY_STAT_UNITS units
  let l := l.put b F.CNRY_STAT_PASS (b2n (decide (units = 0)))
  let l := l.put b F.CNRY_STAT_NOTRUN 0
  let l := { l with mem := { l.mem with runs := (l.mem.runs + 1) % 65536 } }
  let l := l.put b F.CNRY_STAT2_PIPES pipes
  let l := l.put b F.CNRY_FT_FT l.ft.toNat
  if units = 0 then l.bump b F.CNRY_BIN_PASS bin
  else
    let l := l.bump b F.CNRY_BIN_FAIL bin
    let l := l.put b F.CNRY_FAIL_UNITS (l.get b F.CNRY_FAIL_UNITS ||| units)
    let l := l.put b F.MEM_FLAG_CNRY 1
    l.logE b 0x1004 3 [units, bin, e, pipes] p

/-- A buoy keeps its outcome for its phase-B record, or sends it at once when the lists have left or the
plan searches no item (R439). -/
def Live.keepCanary (l : Live) (b : Build) (p : Nat) (c : CanOut) : Live :=
  match (l.plan p).kept with
  | some k =>
    let g := (l.plan p).image
    let k := { k with can := some c }
    let l := l.updPlan p fun x => { x with kept := some k }
    let searched := (List.range (secNbi g)).any fun i => (secItem g i).2.2
    if k.pbSent ∨ !searched then l.buoyCan b p k c else l
  | none => l

/-- CANARY_RUN_DONE (R437 to R439, R442). `ended` is false when the run could not end; one that ends at or
after PB_CLOSE counts so too. -/
def execCanaryRunDone (plan units : BitVec 8) (pipes : BitVec 16) (ended : Bool) (load : CanLoad)
    (s : State) : Host.Outcome State Fault Refusal :=
  s.runAwake fun b l =>
    let p := plan.toNat
    let g := (l.plan p).image
    match l.canaryOf b p with
    | none => l
    | some (e, t) =>
      let close := if b.buoy then secPbClose g else imgPbClose g
      let ran := ended && !reached l.ft (t + BitVec.ofNat 32 (500 * close))
      let u := l.canUnits b units.toNat pipes.toNat
      let out : CanOut := if !ran then ⟨0, 0, 1, none⟩
        else if u = 0 then ⟨1, 0, 0, none⟩
        else ⟨0, 1, 0, some (contribKey b.lantern (l.leaf b), u)⟩
      let l := if ran then l.canaryRan b p e u (l.canPipes b pipes.toNat) (l.canBin b (loadBin load.busy load.total))
        else l.canaryNotRun b p e
      if b.buoy then l.keepCanary b p out
      else l.updCut p fun o => { o with can := o.can.merge out, canOwn := true }

end Sys2Proof.Machine
end

