-- ==== Sys2Proof/Machine/Route.lean ====
section
/-! DEFINITION. The way of non-plan records across the torus: destinations, the next direction, the choice
among links, and the reroute hold (spec/11 R290 to R294; spec/19 R459). -/

namespace Sys2Proof.Machine

/-! ### The torus (R25, R290, R293) -/

/-- The dimensions of the torus in an image header (Table 9.3). -/
def imgDims (g : Image) : Nat × Nat × Nat :=
  let w := wordAt g 1
  (fld w 10 4 + 1, fld w 14 4 + 1, fld w 18 4 + 1)

/-- The direction of the shorter way round a ring of `n` from `a` to `c`: 0 for +, 1 for −; + when both
ways are equal. -/
def ringDir (n a c : Nat) : Option Nat :=
  let up := (c + n - a % n) % n
  if up = 0 then none else if 2 * up ≤ n then some 0 else some 1

/-- The DIR of the next hop from lantern `t` to lantern `d`: along X, then Y, then Z. -/
def nextDir (g : Image) (t d : Nat) : Option Nat :=
  let a := imgLan g t
  let c := imgLan g d
  let n := imgDims g
  if g = [] ∨ !a.valid ∨ !c.valid then none
  else match ringDir n.1 a.x c.x, ringDir n.2.1 a.y c.y, ringDir n.2.2 a.z c.z with
    | some k, _, _ => some k
    | none, some k, _ => some (2 + k)
    | none, none, some k => some (4 + k)
    | none, none, none => none

/-- One step along a ring of `n`. -/
def ringStep (n a : Nat) (minus : Bool) : Nat := if minus then (a + n - 1) % n else (a + 1) % n

/-- The VALID lantern one step from lantern `t` in direction `dir` (R459). -/
def neighbour (g : Image) (t dir : Nat) : Option Nat :=
  let a := imgLan g t
  let n := imgDims g
  let m := decide (dir % 2 = 1)
  let x := if dir / 2 = 0 then ringStep n.1 a.x m else a.x
  let y := if dir / 2 = 1 then ringStep n.2.1 a.y m else a.y
  let z := if dir / 2 = 2 then ringStep n.2.2 a.z m else a.z
  if g = [] ∨ !a.valid then none
  else (List.range 1024).find? fun k =>
    let c := imgLan g k
    c.valid && decide (c.x = x ∧ c.y = y ∧ c.z = z)

/-- The expected neighbour of PEER link `n`. -/
def Live.expected (l : Live) (b : Build) (n : Nat) : Option Nat :=
  neighbour l.table (l.trunk b) (l.get b F.LNK_ROLE_DIR n)

/-! ### Links (R291, R293) -/

/-- The PEER links toward lantern `t`. -/
def Live.peersTo (l : Live) (b : Build) (t : Nat) : List Nat :=
  match nextDir l.table (l.trunk b) t with
  | some d => (l.linksOf b 1).filter fun n => decide (l.get b F.LNK_ROLE_DIR n = d)
  | none => []

/-- The lantern that a copy or restore record names (Table 19.3). -/
def copyDst (r : Rec) : Option Nat :=
  let w := wordAt r.body 0
  if r.ty = 0x0D ∧ 0x10 ≤ fld w 0 8 ∧ fld w 0 8 ≤ 0x13 then some (fld w 16 10) else none

/-- The lantern to which an in-band command goes (Table 6.4). -/
def cmdDst (r : Rec) : Option Nat :=
  let w := wordAt r.body 0
  if r.ty = 0x0F ∧ fld w 0 8 = 1 then some (fld w 18 10) else none

/-- The links that a non-plan record may leave on, ascending; none when it has no route (R291). -/
def Live.waysOf (l : Live) (b : Build) (r : Rec) : List Nat :=
  match (copyDst r).or (cmdDst r) with
  | some t => l.peersTo b t
  | none =>
    let hs := l.linksOf b 3
    if hs ≠ [] then hs
    else if l.flag b F.LNK_DRAIN_EN then l.peersTo b (l.get b F.LNK_DRAIN_TRUNK)
    else []

/-- The key of a record among parallel links. -/
def wayKey (r : Rec) : Nat := r.src.toNat + r.stream.toNat

/-- The link chosen for a record now; none while no link of its way is UP. -/
def Live.chosen (l : Live) (b : Build) (r : Rec) : Option Nat :=
  l.pickLink (l.waysOf b r) (wayKey r)

/-! ### The reroute hold (R294) -/

/-- Link `c` is chosen for the stream of `r`. -/
def Live.noteRoute (l : Live) (r : Rec) (c : Nat) : Live := l.noteKey (routeKey r) c

/-- The stream of `r` waits before it leaves on link `n`. -/
def Live.onHold (l : Live) (r : Rec) (n : Nat) : Bool :=
  match Tab.find? l.routes (routeKey r) with
  | some e => e.hold && decide (e.link = n)
  | none => false

/-- The lantern's own buoy of CTL unit `i` has lately been given TRAY link `n`, and the unit waits (R294). -/
def Live.itemHeld (l : Live) (n : Nat) (i : LinkItem) : Bool :=
  match i.r with
  | some r => (match Tab.find? l.routes (buoyKey r i.dest) with
    | some e => e.hold && decide (e.link = n)
    | none => false)
  | none => false

/-- REROUTE_HOLD_EXPIRY (R294): of the stream, and of its records to every buoy. -/
def execRerouteHoldExpiry (src : BitVec 18) (stream : BitVec 14) (s : State) :
    Host.Outcome State Fault Refusal :=
  s.run fun _ l =>
    let k := src.toNat * 2 ^ 14 + stream.toNat
    let free := fun (j : Nat) (e : Route) => if j % 2 ^ 32 = k then { e with hold := false } else e
    { l with routes := Tab.mapVal free l.routes }

end Sys2Proof.Machine
end

