-- ==== Sys2Proof/Machine/Queue.lean ====
section
/-! DEFINITION. Queues: their pages, the middle in host memory or the cellar, admission, what a full
queue does, batched release, marks, and what leaves at the head (spec/12). -/

namespace Sys2Proof.Machine

/-! ### Queues and their pages (R295 to R299) -/

/-- Queue `q`. -/
def Live.que (l : Live) (q : Nat) : Que := Tab.getD l.ques q que0

/-- Queue `q` changed by `f`. -/
def Live.updQue (l : Live) (q : Nat) (f : Que → Que) : Live :=
  { l with ques := Tab.upd l.ques q que0 f }

/-- Record bytes of a page. -/
def pageBytes : Nat := 504

/-- The page of the first record; of the next byte when the queue is empty. -/
def Que.front (x : Que) : Nat :=
  match x.recs with
  | r :: _ => r.pos / pageBytes
  | [] => x.tail / pageBytes

/-- Pages on chip. -/
def Que.chip (x : Que) : Nat :=
  match x.recs with
  | [] => 0
  | _ => (x.tail - 1) / pageBytes + 1 - x.front - (x.midHi - x.midLo)

/-- Pages of the pool (R297). -/
def Build.poolPages (b : Build) : Nat := if b.buoy then 1024 else 65536

/-- Free pages of the pool. -/
def Live.poolFree (l : Live) (b : Build) : Nat :=
  b.poolPages - l.ques.foldl (fun a e => a + e.2.chip) 0

/-- Queue `q` is an own queue (Table 12.1). -/
def Build.ownQueue (b : Build) (q : Nat) : Bool :=
  if b.buoy then decide (1 ≤ q ∧ q < 64) else decide (1025 ≤ q ∧ q < 4096)

/-- Pages of the middle of queue `q`. -/
def Live.midPages (l : Live) (b : Build) (q : Nat) : Nat := l.get b F.QUE_MIDLEN_MID_PAGES q

/-- The page limit of a queue without a middle. -/
def Live.queCap (l : Live) (b : Build) (q : Nat) : Nat := max 4 (l.get b F.QUE_CFG_CAP q)

/-- The middle and the chip pages of queue `x` with its last page at `last`; none when the queue would
exceed its limit (R297, R298). -/
def Que.fit (x : Que) (cap mid last : Nat) : Option (Nat × Nat × Nat) :=
  let n := last + 1 - x.front
  if mid = 0 then (if n ≤ cap then some (0, 0, n) else none)
  else
    let m := if x.midLo = x.midHi then
        (if n ≤ 16 then (0, 0) else (x.front + 8, last - 7))
      else (x.midLo, max x.midHi (last - 7))
    if m.2 - m.1 ≤ mid then some (m.1, m.2, n - (m.2 - m.1)) else none

/-- The spill port cannot take pages: its unit is gated. -/
def Live.spillShut (l : Live) (b : Build) : Bool := b.buoy && !l.flag b F.UNIT_EN_B_SPILL

/-- The middle and chip pages of queue `q` after `len` more bytes; none when they do not fit. A record
that is no GAP record leaves one page of room, the GAP reserve (R303). -/
def Live.fits (l : Live) (b : Build) (q len : Nat) (gap : Bool) : Option (Nat × Nat × Nat) :=
  let x := l.que q
  let mid := l.midPages b q
  let last := (x.tail + len - 1) / pageBytes
  let free := l.poolFree b
  let ok := fun (m : Nat × Nat × Nat) => decide (m.2.2 - x.chip ≤ free) &&
    !(l.spillShut b && decide (m.2.1 - m.1 ≠ x.midHi - x.midLo))
  match x.fit (l.queCap b q) mid last, x.fit (l.queCap b q) mid (last + 1) with
  | some m, some m' => if ok m ∧ (gap ∨ ok m') then some m else none
  | some m, none => if gap ∧ ok m then some m else none
  | none, _ => none

/-- The byte address of page `k` of the middle of queue `q`: the middle is a ring of its pages. -/
def Live.midAddr (l : Live) (b : Build) (q k : Nat) : Nat :=
  l.get b F.QUE_MID_MID_BASE q * (if b.buoy then 65536 else 1048576)
    + 512 * (k % l.midPages b q)

/-- Page `k` of a queue as it lies in memory: the page word, FIRST and NSTART, then the record bytes (R296). -/
def Que.page (x : Que) (k : Nat) : List DWord :=
  let starts := x.recs.filter fun r => decide (r.pos / pageBytes = k)
  let first := match starts with
    | r :: _ => 8 + r.pos % pageBytes
    | [] => 0x3FF
  let here := x.recs.filter fun r => decide (r.pos < (k + 1) * pageBytes ∧ k * pageBytes < r.pos + r.r.len)
  let words := here.flatMap fun r =>
    (r.r.words.drop ((k * pageBytes - r.pos) / 8)).take (((k + 1) * pageBytes - max r.pos (k * pageBytes)) / 8)
  packW [(0, first), (10, starts.length)] :: words

/-- Page `k` of queue `q` is written to the middle, unless its port has failed (R76, R82, R309). -/
def Live.midWrite (l : Live) (b : Build) (q k : Nat) : Live :=
  let a := l.midAddr b q k
  let ws := (l.que q).page k
  if b.buoy then (if l.spillFail then l else l.emit (.spillReq true a 15 ws)) else l.celWrite b a ws

/-- Page `k` of the middle of queue `q` is read. -/
def Live.midRead (l : Live) (b : Build) (q k : Nat) : Live :=
  let a := l.midAddr b q k
  if b.buoy then (if l.spillFail then l else l.emit (.spillReq false a 15 [])) else l.celRead b a 512

/-! ### Poisoned words of records (R428, R432) -/

/-- A record is read for sending: a word of it that was read uncorrectable counts again, and POISON is set. -/
def Live.readRec (l : Live) (b : Build) (h : QRec) : Live × QRec :=
  match h.bad with
  | some a => (l.ueSeen b 1 a, { h with r := { h.r with poison := true }, bad := none })
  | none => (l, h)

/-- The records of queue `q` with bytes in page `k` are read as the page leaves for the middle. -/
def Live.readPage (l : Live) (b : Build) (q k : Nat) : Live :=
  let inPage := fun (r : QRec) => decide (r.pos < (k + 1) * pageBytes ∧ k * pageBytes < r.pos + r.r.len)
  let x := l.que q
  if !(x.recs.any fun r => inPage r && r.bad.isSome) then l
  else
    let l := (x.recs.filter inPage).foldl (fun l r => (l.readRec b r).1) l
    l.updQue q fun x => { x with recs := x.recs.map fun r => if inPage r then (l.readRec b r).2 else r }

/-! ### GAP records (R302 to R305) -/

/-- A GAP record for `count` records from SEQ `first`, of this source and stream (Table 12.2). -/
def Live.gapRec (l : Live) (b : Build) (src : BitVec 18) (stream : BitVec 14) (first : Word)
    (count cause : Nat) : Rec :=
  { ty := 0x0A, poison := false, inexact := false, gapBefore := false, replayed := false,
    partialCover := false, src := src, stream := stream, seq := first + BitVec.ofNat 32 (count - 1),
    ft := 0,
    body := [packW [(0, first.toNat), (32, count)],
             packW [(0, cause), (8, (l.src b).toNat), (26, b2n b.lantern)]] }

/-- The GAP record of one lost record; a lost GAP record stands for itself. -/
def Live.gapOf (l : Live) (b : Build) (r : Rec) (cause : Nat) : Rec :=
  if r.ty = 0x0A then r else l.gapRec b r.src r.stream r.seq 1 cause

/-- GAP record `g` ends just before record `r` of its stream. -/
def gapMeets (g r : Rec) : Bool :=
  decide (g.ty = 0x0A ∧ g.src = r.src ∧ g.stream = r.stream ∧ g.seq + 1 = r.seq)

/-- GAP record `g` with its run one longer. -/
def gapLonger (g : Rec) : Rec :=
  let w := wordAt g.body 0
  { g with seq := g.seq + 1,
           body := packW [(0, fld w 0 32), (32, fld w 32 32 + 1)] :: g.body.drop 1 }

/-! ### The head of a queue (R260, R312) -/

/-- The stream map entries that name queue `q`. -/
def Live.entriesOf (l : Live) (b : Build) (q : Nat) : List Nat :=
  (List.range (if b.buoy then 128 else 2048)).filter fun e =>
    l.flag b F.QMAP_VALID e && decide (l.get b F.QMAP_QUEUE e = q)

/-- The pending run of stream map entry `e`. -/
def Live.qrun (l : Live) (e : Nat) : QRun := Tab.getD l.runs e ⟨0, 0, 0, false⟩

/-- The pending run of entry `e` changed by `f`. -/
def Live.updRun (l : Live) (e : Nat) (f : QRun → QRun) : Live :=
  { l with runs := Tab.upd l.runs e ⟨0, 0, 0, false⟩ f }

/-- Record `r` of queue `x` lies wholly in front of the middle. -/
def Que.near (x : Que) (r : QRec) : Bool :=
  decide (x.midLo = x.midHi ∨ r.pos + r.r.len ≤ x.midLo * pageBytes)

/-- The head record: released, and in the head window. -/
def Que.headRec (x : Que) : Option QRec :=
  match x.recs with
  | r :: _ => if !r.held ∧ x.near r then some r else none
  | [] => none

/-- The finish tag of record `r` as the head of queue `q` (R260): 64-bit arithmetic. -/
def Live.tagOf (l : Live) (b : Build) (q : Nat) (x : Que) (r : QRec) : Nat :=
  (max l.shape.v x.f + l.charge b r.r.len * 65536 / max 1 (l.get b F.EGQ_CFG_WEIGHT q)) % 2 ^ 64

/-- A queue whose head has tag `f` and class `c`. -/
def Que.tagged (x : Que) (f c : Nat) : Que := { x with f := f, head := some (f, c) }

/-- A new head of a buoy's queue takes its class and its finish tag (R253, R260). -/
def Live.tagHead (l : Live) (b : Build) (q : Nat) : Live :=
  let x := l.que q
  match x.head, x.headRec with
  | none, some r =>
    if b.lantern then l
    else l.updQue q fun x => x.tagged (l.tagOf b q x r) (l.get b F.EGQ_CFG_CLASS q)
  | _, _ => l

/-- A mark that has reached the head sets MARK in every map entry of the queue (R312); then the head is
tagged. -/
def Live.settleQue (l : Live) (b : Build) (q : Nat) : Live :=
  let x := l.que q
  let here := fun (m : Nat) => match x.recs with
    | r :: _ => decide (m ≤ r.pos)
    | [] => true
  let l := if x.marks.any here then
      let l := l.updQue q fun x => { x with marks := x.marks.filter fun m => !here m }
      (l.entriesOf b q).foldl (fun l e => l.updRun e fun u => { u with mark := true }) l
    else l
  l.tagHead b q

/-- The head record leaves queue `q`, with GAP_BEFORE when its stream is marked, unless it is a GAP record (R55,
R312). -/
def Live.popHead (l : Live) (b : Build) (q : Nat) : Live × Option QRec :=
  match (l.que q).headRec with
  | none => (l, none)
  | some h =>
    let l := l.updQue q fun x => { x with recs := x.recs.drop 1, head := none }
    let l := if (l.que q).recs = [] then l.updQue q fun x => { x with midLo := 0, midHi := 0 } else l
    let a := l.readRec b h
    let l := a.1
    let h := a.2
    match if b.buoy ∨ 1024 ≤ q then l.mapEntry b h.r.stream.toNat else none with
    | some e =>
      if (l.qrun e).mark ∧ h.r.ty ≠ 0x0A then
        ((l.updRun e fun u => { u with mark := false }).settleQue b q,
          some { h with r := { h.r with gapBefore := true } })
      else (l.settleQue b q, some h)
    | none => (l.settleQue b q, some h)

/-! ### Discarding in place (R302) -/

/-- Records of the head window. -/
def Que.inWindow (x : Que) (mid : Nat) (r : QRec) : Bool :=
  if mid = 0 then true
  else if x.midLo < x.midHi then decide (r.pos < x.midLo * pageBytes)
  else decide (r.pos < (x.front + 8) * pageBytes)

/-- The pages of a queue numbered on by whole turns of the ring of its middle, so that `n` bytes are free in
front of its first record. Nothing moves. -/
def Que.lift (x : Que) (mid n : Nat) : Que :=
  if n ≤ (match x.recs with | h :: _ => h.pos | [] => x.tail) then x
  else
    let k := max 1 mid
    let up := k * pageBytes
    { x with recs := x.recs.map (fun y => { y with pos := y.pos + up }), tail := x.tail + up,
             marks := x.marks.map (· + up),
             midLo := if x.midLo = x.midHi then 0 else x.midLo + k,
             midHi := if x.midLo = x.midHi then 0 else x.midHi + k }

/-- Record `i` of a queue becomes a GAP record in its place, or a longer run of the GAP record in front. The
records and marks in front of it move up by the bytes that this frees, or back by those that it takes. -/
def Que.gapAt (x : Que) (mid i : Nat) (g : Rec) : Que :=
  let x := x.lift mid g.len
  match x.recs[i]? with
  | none => x
  | some r =>
    let before := x.recs.take i
    let after := x.recs.drop (i + 1)
    let merged := match before.getLast? with
      | some p => if gapMeets p.r r.r then some { p with r := gapLonger p.r } else none
      | none => none
    let size := if merged.isSome then 0 else g.len
    let move := fun (a : Nat) => if a ≤ r.pos then a + r.r.len - size else a
    let shift := fun (rs : List QRec) => rs.map fun y => { y with pos := move y.pos }
    let x := { x with marks := x.marks.map move }
    match merged with
    | some p => { x with recs := shift (before.dropLast ++ [p]) ++ after }
    | none => { x with recs := shift (before ++ [{ r with r := g, bad := none }]) ++ after }

/-- KIND of the routing word of a TYPE 0x0F record. -/
def routeKind (r : Rec) : Nat := fld (wordAt r.body 0) 0 8

/-- The record is an in-band command. -/
def isCmd (r : Rec) : Bool := decide (r.ty = 0x0F ∧ routeKind r ≠ 2)

/-- Record `i` of a queue is taken out. The records and marks in front of it move up by its bytes. -/
def Que.takeOut (x : Que) (i : Nat) : Que :=
  match x.recs[i]? with
  | none => x
  | some r =>
    let move := fun (a : Nat) => if a ≤ r.pos then a + r.r.len else a
    { x with recs := ((x.recs.take i).map fun y => { y with pos := move y.pos }) ++ x.recs.drop (i + 1),
             marks := x.marks.map move }

/-- Record `r` put in front of place `i` of a queue. The records and marks in front of the place move back by its
bytes. -/
def Que.putIn (x : Que) (mid i : Nat) (r : Rec) (ft : Word) : Que :=
  let x := x.lift mid r.len
  let at_ := match x.recs[i]? with
    | some y => y.pos
    | none => x.tail
  let move := fun (a : Nat) => if a < at_ then a - r.len else a
  { x with recs := ((x.recs.take i).map fun y => { y with pos := move y.pos }) ++
             ⟨r, ft, false, at_ - r.len, none⟩ :: x.recs.drop i,
           marks := x.marks.map move,
           head := if i = 0 then none else x.head }

/-- A CUTVEC lost from a buoy's queue counts for its plan. -/
def Live.vecDropped (l : Live) (b : Build) (r : Rec) : Live :=
  if b.buoy ∧ r.ty = 0x02 then
    match l.plans.find? fun e => decide (e.2.owns = true ∧ secCvStream e.2.image = r.stream.toNat) with
    | some e => l.bump b F.CUT_BERR_VEC_DROP e.1
    | none => l
  else l

/-- Record `i` of queue `q` discarded in place; of a command nothing stays, as its forward entry times out
(R291). -/
def Live.discardAt (l : Live) (b : Build) (q i cause : Nat) : Live :=
  match (l.que q).recs[i]? with
  | none => l
  | some r =>
    let g := l.gapOf b r.r cause
    let l := l.updQue q fun x => if isCmd r.r then x.takeOut i else x.gapAt (l.midPages b q) i g
    ((l.bump b F.QUE_STAT_LOST q).vecDropped b r.r).settleQue b q

/-- The place of the oldest record that is no GAP record among those that satisfy `f`. -/
def oldestRec (f : QRec → Bool) : Nat → List QRec → Option Nat
  | _, [] => none
  | i, r :: t => if f r ∧ r.r.ty ≠ 0x0A then some i else oldestRec f (i + 1) t

/-- The head window of queue `q` holds fewer than 8 pages and the middle has one to read: room is on its way
(R298). -/
def Live.pageDue (l : Live) (b : Build) (q : Nat) : Bool :=
  let x := l.que q
  decide (x.midLo < x.midHi ∧ x.midLo < x.front + 8) && !l.spillShut b

/-- Records discarded in place until `len` bytes fit, or a page of the middle is due, or only GAP records remain
in the head window. -/
def Live.makeRoom (l : Live) (b : Build) (q len : Nat) : Nat → Live
  | 0 => l
  | k + 1 =>
    if (l.fits b q len false).isSome ∨ l.pageDue b q then l
    else
      let x := l.que q
      match oldestRec (x.inWindow (l.midPages b q)) 0 x.recs with
      | some i => (l.discardAt b q i 2).makeRoom b q len k
      | none => l

/-! ### Admission (R301 to R307) -/

/-- Record `r` at the end of queue `q`, whose pages then lie as `m` says. -/
def Live.append (l : Live) (b : Build) (q : Nat) (r : Rec) (held : Bool) (m : Nat × Nat × Nat) :
    Live :=
  let x := l.que q
  let from_ := if x.midLo = x.midHi then m.1 else x.midHi
  let l := l.updQue q fun x => { x with
    recs := x.recs ++ [⟨r, l.ft, held, x.tail, none⟩], tail := x.tail + r.len,
    midLo := m.1, midHi := m.2.1 }
  let l := (List.range (m.2.1 - from_)).foldl (fun l k =>
    (l.readPage b q (from_ + k)).midWrite b q (from_ + k)) l
  l.settleQue b q

/-- Every held record of queue `q` is released. -/
def Live.release_ (l : Live) (b : Build) (q : Nat) : Live :=
  (l.updQue q fun x => { x with recs := x.recs.map fun r => { r with held := false } }).settleQue b q

/-- Held records of queue `q`. -/
def Live.heldCount (l : Live) (q : Nat) : Nat := ((l.que q).recs.filter (·.held)).length

/-- A notice of queue `q`, counted in `f` (R306). -/
def Live.notice (l : Live) (b : Build) (q : Nat) (f : Fld) : Live := (l.bump b f q).release_ b q

/-- A record that fits enters queue `q`, `cycles` island cycles after the admission before it: held in
batch mode until a notice (R306). -/
def Live.enter (l : Live) (b : Build) (q : Nat) (r : Rec) (cycles : Nat) (m : Nat × Nat × Nat) : Live :=
  if !l.flag b F.QUE_CFG_NOTICE q then (l.append b q r false m).release_ b q
  else
    let gap := l.get b F.QUE_TMO_FB_GAP q
    let before := l.heldCount q
    let l := l.append b q r true m
    if before = 0 ∧ gap ≠ 0 ∧ gap * 64 ≤ cycles then l.notice b q F.QUE_NSTAT_NOTICE_FB
    else if max 1 (l.get b F.QUE_CFG_BATCH_N q) ≤ before + 1 then
      l.notice b q F.QUE_NSTAT_NOTICE_CNT
    else l

/-- A lost record joins the pending run of its map entry (R305). -/
def Live.joinRun (l : Live) (e : Nat) (r : Rec) : Live :=
  l.updRun e fun u =>
    if u.count = 0 then { u with first := r.seq, count := 1, cause := 1 }
    else { u with count := u.count + 1 }

/-- The queue is full: a notice of that kind releases what it holds (R306). -/
def Live.fullNotice (l : Live) (b : Build) (q : Nat) : Live :=
  if l.flag b F.QUE_CFG_NOTICE q ∧ l.heldCount q ≠ 0 then l.notice b q F.QUE_NSTAT_NOTICE_FULL else l

/-- The loss of `r` recorded at the end of queue `q`, as a longer run of the GAP record there or a new
one; `false` when the GAP reserve is full. -/
def Live.tailGap (l : Live) (b : Build) (q : Nat) (r : Rec) (cause : Nat) : Live × Bool :=
  let x := l.que q
  match x.recs.getLast? with
  | some p =>
    if gapMeets p.r r then
      (l.updQue q fun x => { x with recs := x.recs.dropLast ++ [{ p with r := gapLonger p.r }] }, true)
    else match l.fits b q 40 true with
      | some m => (l.append b q (l.gapOf b r cause) false m, true)
      | none => (l, false)
  | none => match l.fits b q 40 true with
    | some m => (l.append b q (l.gapOf b r cause) false m, true)
    | none => (l, false)

/-- Producers that cannot wait: a buoy's cut vectors and phase-B records, which are due at a fixed time
after the cut. -/
def mustGo (b : Build) (r : Rec) : Bool := b.buoy && decide (r.ty = 0x02 ∨ r.ty = 0x03)

/-- An arriving record is lost at queue `q` (R301, R302, R305). -/
def Live.loseRec (l : Live) (b : Build) (q : Nat) (r : Rec) : Live :=
  let l := (l.bump b F.QUE_STAT_LOST q).vecDropped b r
  let e := l.mapEntry b r.stream.toNat
  let pend : Bool := match e with | some e => decide ((l.qrun e).count ≠ 0) | none => false
  let g := if pend ∨ l.flag b F.QUE_CFG_MODE q then (l, false) else l.tailGap b q r 1
  if g.2 then g.1
  else match e with
    | some e => g.1.joinRun e r
    | none => g.1.skip r

/-- A created record that has no way out of the block is lost (R290, R301, R305). -/
def Live.loseCreated (l : Live) (b : Build) (q : Nat) (r : Rec) : Live :=
  let l := (l.bump b F.LNK_FWD_DROP_NOROUTE).bump b F.QUE_STAT_LOST q
  match l.mapEntry b r.stream.toNat with
  | some e => l.joinRun e r
  | none => l.skip r

/-- A created record enters its queue `q`, with the GAP record of its stream's pending run before it
(R301, R302, R305); one that does not fit with it joins the run. The answer is none when it waits at its
producer, else whether it entered. The time since the last admission counts for the first of the two (R306). -/
def Live.admitTo (l : Live) (b : Build) (q : Nat) (r : Rec) (cycles : Nat) : Live × Option Bool :=
  let e := l.mapEntry b r.stream.toNat
  let run := match e with | some e => l.qrun e | none => ⟨0, 0, 0, false⟩
  let len := r.len + if run.count = 0 then 0 else 40
  let l := if (l.fits b q len false).isSome then l else l.fullNotice b q
  let l := if l.flag b F.QUE_CFG_MODE q then l.makeRoom b q len (l.que q).recs.length else l
  if (l.fits b q len false).isNone then
    if run.count ≠ 0 ∨ mustGo b r ∨ (l.flag b F.QUE_CFG_MODE q ∧ !l.pageDue b q) then
      (l.loseRec b q r, some false)
    else (l, none)
  else
    let l := match e, l.fits b q 40 true with
      | some e, some m =>
        if run.count = 0 then l
        else
          let g := l.gapRec b (l.src b) r.stream run.first run.count run.cause
          (l.updRun e fun u => { u with first := 0, count := 0, cause := 0 }).enter b q g cycles m
      | _, _ => l
    match l.fits b q r.len true with
    | some m => (l.enter b q r (if run.count = 0 then cycles else 0) m, some true)
    | none => (l, none)

/-- A CUTVEC that its queue has taken is the last epoch DONE of a buoy (Table 8.7). -/
def Live.vecQueued (l : Live) (b : Build) (r : Rec) : Live :=
  if b.buoy ∧ r.ty = 0x02 then
    match l.plans.find? fun e => match e.2.kept with
      | some k => decide (k.t = r.ft ∧ secCvStream e.2.image = r.stream.toNat)
      | none => false with
    | some e => l.updPlan e.1 fun x => match x.kept with
      | some k => { x with done := k.epoch, doneAny := true }
      | none => x
    | none => l
  else l

/-! ### Transit queues (R303) -/

/-- GAP records that wait for transit queue `q` enter it as room allows; once none of link `i` waits,
its receiver frees the flits it withheld. -/
def Live.flushGaps (l : Live) (b : Build) (q : Nat) : Nat → Live
  | 0 => l
  | k + 1 =>
    match l.created.find? fun e => decide (e.1 = q) with
    | none => l
    | some e =>
      match l.fits b q e.2.len true with
      | none => l
      | some m =>
        let l := { l with created := l.created.eraseP fun x => decide (x.1 = q) }
        let l := l.append b q e.2 false m
        let i := q / 32
        let l := if l.created.any fun x => decide (x.1 < 1024 ∧ x.1 / 32 = i) then l
          else l.updLink i fun k => { k with freedFwd := (k.freedFwd + k.owed) % 65536, owed := 0,
                                             statusDue := k.statusDue || decide (k.owed ≠ 0) }
        l.flushGaps b q k

/-- A record that arrives for transit queue `q` (R303). -/
def Live.transit (l : Live) (b : Build) (q : Nat) (r : Rec) : Live :=
  let l := l.flushGaps b q l.created.length
  let waits := l.created.any fun e => decide (e.1 = q)
  match if waits then none else l.fits b q r.len (decide (r.ty = 0x0A)) with
  | some m => l.append b q r false m
  | none =>
    let lost := decide (r.ty ≠ 0x0A)
    let l := l.when lost fun l => l.bump b F.QUE_STAT_LOST q
    let g := if waits ∨ !lost then (l, false) else l.tailGap b q r 1
    if isCmd r then l
    else if g.2 then g.1
    else
      let l := g.1.bump b F.QUE_STAT_GAP_STALL q
      { l with created := l.created ++ [(q, l.gapOf b r 1)] }

/-! ### Commands -/

/-- QUEUE_IDLE_TIMEOUT (R306). -/
def execQueueIdleTimeout (q : BitVec 12) (s : State) : Host.Outcome State Fault Refusal :=
  s.runAwake fun b l =>
    if l.heldCount q.toNat = 0 then l else l.notice b q.toNat F.QUE_NSTAT_NOTICE_IDLE

/-- The beats of a page, numbered from 0, that hold the bytes from `lo` to `hi - 1` of the record bytes
of page `k`. -/
def beatsOf (k lo hi : Nat) : List Nat :=
  let a := max lo (k * pageBytes)
  let z := min hi ((k + 1) * pageBytes)
  if z ≤ a then []
  else
    let a := 8 + a - k * pageBytes
    let z := 8 + z - k * pageBytes
    (List.range 16).filter fun j => decide (a < 32 * j + 32 ∧ 32 * j < z)

/-- Some byte from `lo` to `hi - 1` of page `k` lies in a poisoned beat. -/
def hitBy (bad : Nat) (k lo hi : Nat) : Bool := (beatsOf k lo hi).any fun j => bad.testBit j

/-- What poisoned beats of page `k` do to the records of a queue (R311, R312): the records that are kept,
those that cannot be framed, and how many of these are located. -/
def poisonPage (bad k : Nat) (rs : List QRec) : List QRec × List QRec × Nat :=
  let starts := fun (r : QRec) => decide (r.pos / pageBytes = k)
  let badHead := fun (r : QRec) => hitBy bad k r.pos (r.pos + 16)
  let word := bad.testBit 0
  let first := rs.findIdx? fun r => badHead r || (starts r && word)
  let lost := match first with
    | none => []
    | some i => (rs.drop i).filter fun r => badHead r || starts r
  let kept := rs.filter fun r => !lost.contains r
  let kept := kept.map fun r =>
    if hitBy bad k r.pos (r.pos + r.r.len) then { r with r := { r.r with poison := true } } else r
  (kept, lost, if word then (lost.filter fun r => !badHead r).length else lost.length)

/-- Beats of the cellar are found poisoned: they stay so until they are written (R431). -/
def Live.spoilBeats (l : Live) (xs : List Nat) : Live :=
  { l with mem := { l.mem with cel := l.mem.cel ++ xs.filter fun x => !l.mem.cel.contains x } }

/-- The oldest page of the middle of queue `q` comes back, with its poisoned beats; an access to a failed
port is poison throughout (R82, R298, R309, R311, R312). -/
def Live.pageBack (l : Live) (b : Build) (q : Nat) (bad : Nat) : Live :=
  let x := l.que q
  let k := x.midLo
  let a := l.midAddr b q k
  let dead := if b.buoy then l.spillFail else l.celDead b a
  let l := if b.buoy ∨ dead then l else l.spoilBeats ((List.range 16).filterMap fun j =>
    if bad.testBit j then some (a / 32 + j) else none)
  let hit := fun (j : Nat) => dead || bad.testBit j || (b.lantern && l.mem.cel.contains (a / 32 + j))
  let js := (List.range 16).filter hit
  let bad := js.foldl (fun m j => m ||| 2 ^ j) 0
  let l := l.midRead b q k
  let l := if b.buoy then l.bump b F.SPL_STAT_POISON 0 js.length
    else l.bump b F.CEL_STAT_POISON ((l.celPort b a).getD 0) js.length
  let p := poisonPage bad k x.recs
  let l := l.bump b F.QUE_STAT_LOST q p.2.2
  let marks := match p.2.1 with
    | r :: _ => x.marks ++ [r.pos]
    | [] => x.marks
  let lo := if k + 1 = x.midHi then 0 else k + 1
  let hi := if k + 1 = x.midHi then 0 else x.midHi
  (l.updQue q fun x => { x with recs := p.1, marks := marks, midLo := lo, midHi := hi }).settleQue b q

/-- MIDDLE_PAGE_RETURN (R298, R311): when the head window holds fewer than 8 pages. -/
def execMiddlePageReturn (q : BitVec 12) (poisoned : BitVec 16) (s : State) :
    Host.Outcome State Fault Refusal :=
  s.runAwake fun b l =>
    let x := l.que q.toNat
    if x.midHi ≤ x.midLo ∨ x.front + 8 ≤ x.midLo ∨ l.spillShut b then l
    else l.pageBack b q.toNat poisoned.toNat

/-- SPILL_TIMEOUT (R76). The event table gives no code for the spill port: it is logged as a cellar
port's failure with argument 0. -/
def execSpillTimeout (s : State) : Host.Outcome State Fault Refusal :=
  s.runAwake fun b l =>
    if b.lantern ∨ !b.spillEn ∨ l.spillFail then l
    else { l with spillFail := true }.logE b 0x0A01 3 [0]

/-- CELLAR_TIMEOUT (R82). -/
def execCellarTimeout (m : BitVec 4) (s : State) : Host.Outcome State Fault Refusal :=
  s.runAwake fun b l =>
    if b.buoy ∨ !l.celPorts.contains m.toNat ∨ l.celFail.contains m.toNat then l
    else { l with celFail := l.celFail ++ [m.toNat] }.logE b 0x0A01 3 [m.toNat]

/-! ### Register writes -/

/-- The area in which middles may lie, in bytes: the spill space, or the queue area of the cellar. -/
def Live.midArea (l : Live) (b : Build) : Nat × Nat :=
  if b.buoy then (0, if b.spillAw48 then 2 ^ 48 else 2 ^ 40)
  else (l.get b F.CEL_QBASE_BASE * 2 ^ 30, min (l.get b F.CEL_QLIM_LIM * 2 ^ 30) (l.celBytes b))

/-- The region that a base and a page count give, first byte and end. -/
def midRegion (b : Build) (base pages : Nat) : Nat × Nat :=
  let a := base * (if b.buoy then 65536 else 1048576)
  (a, a + 512 * pages)

/-- Some queue other than `q` has a middle that overlaps the region. -/
def Live.midClash (l : Live) (b : Build) (q : Nat) (rg : Nat × Nat) : Bool :=
  (List.range (if b.buoy then 64 else 4096)).any fun k =>
    let n := l.midPages b k
    let o := midRegion b (l.get b F.QUE_MID_MID_BASE k) n
    decide (k ≠ q ∧ n ≠ 0 ∧ rg.1 < o.2 ∧ o.1 < rg.2)

/-- A write to QUE_MID or QUE_MIDLEN of queue `q` that gives it this base and page count (R299). -/
def Live.writeMid (l : Live) (b : Build) (q base pages : Nat) : Live :=
  let rg := midRegion b base pages
  let area := l.midArea b
  if !b.ownQueue q ∨ (l.que q).recs ≠ [] ∨ (b.buoy ∧ !b.spillEn) ∨
      (pages ≠ 0 ∧ (rg.1 < area.1 ∨ area.2 < rg.2 ∨ l.midClash b q rg)) then
    l.put b F.QUE_STAT_REJ 1 q
  else (l.put b F.QUE_MID_MID_BASE base q).put b F.QUE_MIDLEN_MID_PAGES pages q

/-- Some queue has a middle. -/
def Live.anyMid (l : Live) (b : Build) : Bool :=
  (List.range (if b.buoy then 64 else 4096)).any fun k => decide (l.midPages b k ≠ 0)

/-- The streams of a plan in ARMED or RUNNING (R300). -/
def Live.planStream (l : Live) (b : Build) (s : Nat) : Bool :=
  l.plans.any fun e => e.2.owns &&
    (if b.buoy then (secStreams e.2.image).any fun x => decide (x.2 = s)
     else decide (s = 0x3000 + e.1) || ((imgStreams e.2.image).any fun x => decide (x.stream = s)))

/-- A write to stream map entry `e` (R300), with `shown` the queue whose QUE_STAT is shown. A new stream
drops the pending run of the old one. -/
def Live.writeQmap (l : Live) (b : Build) (shown e : Nat) (v : Word) : Live :=
  let s := v.toNat % 2 ^ 14
  let q := v.toNat / 2 ^ 14 % 2 ^ 12
  let on := v.toNat.testBit 26
  let old := l.get b F.QMAP_STREAM e
  let second := (List.range (if b.buoy then 128 else 2048)).any fun k =>
    decide (k ≠ e) && l.flag b F.QMAP_VALID k && decide (l.get b F.QMAP_STREAM k = s)
  if l.planStream b old ∨ l.planStream b s ∨ (on ∧ (second ∨ !b.ownQueue q)) then
    l.put b F.QUE_STAT_REJ 1 shown
  else
    let l := (l.put b F.QMAP_STREAM s e).put b F.QMAP_QUEUE q e
    let l := l.put b F.QMAP_VALID (b2n on) e
    if old = s then l else l.updRun e fun _ => ⟨0, 0, 0, false⟩

end Sys2Proof.Machine
end

