-- ==== Sys2Proof/Machine/Trace.lean ====
section
/-! DEFINITION. The trace recorder of a buoy: capture, triggers, the buffer, power marks and reading; and
the watch objects that follow the bus monitor (spec/16 R393 to R406). -/

namespace Sys2Proof.Machine

/-! ### TRACE_ARM's payload (Table 16.1) -/

/-- A trace setting: the nine words of TRACE_ARM. -/
abbrev TrCfg := List DWord

def trStop (g : TrCfg) : Nat := fld (wordAt g 0) 0 32
def trMask (g : TrCfg) (i : Nat) : Bool := decide (i < 8) && bit (wordAt g 0) (32 + i)
def trRen (g : TrCfg) (k : Nat) : Bool := bit (wordAt g 0) (40 + k)
def trKind (g : TrCfg) (k : Nat) : Nat := fld (wordAt g 0) (44 + 2 * k) 2
def trStream (g : TrCfg) : Bool := bit (wordAt g 0) 52
def trUnitF (g : TrCfg) : Bool := bit (wordAt g 0) 53
def trUnit (g : TrCfg) : Nat := fld (wordAt g 0) 54 10
def trBase (g : TrCfg) (k : Nat) : Nat := (wordAt g (1 + 2 * k)).toNat
def trLimit (g : TrCfg) (k : Nat) : Nat := (wordAt g (2 + 2 * k)).toNat

/-- What R395 finds wrong with a setting. -/
def trBad (g : TrCfg) : Bool :=
  ([0, 1, 2, 3].any fun k => (trRen g k || trMask g k) &&
    decide (trKind g k = 3 ∨ trLimit g k < trBase g k)) ||
  decide (21462 < trStop g ∧ trStop g ≠ 0xFFFFFFFF)

/-! ### The buffer (R399, R400) -/

/-- The recorder records: ARMED or COUNTING. -/
def Trace.on (t : Trace) : Bool := decide (t.st = .armed ∨ t.st = .counting)

/-- The oldest slot is overwritten. -/
def Trace.overwrite (t : Trace) : Trace :=
  match t.slots with
  | .block es _ _ _ _ _ :: rest => { t with slots := rest, lost := min (t.lost + es.length) 65535 }
  | .mark _ _ :: rest => { t with slots := rest, markLost := true }
  | [] => t

/-- A slot filled. With STREAM a mark that finds no free slot is lost. -/
def Trace.putSlot (t : Trace) (x : TrSlot) : Trace :=
  if t.slots.length < 512 then { t with slots := t.slots ++ [x] }
  else if trStream t.arm then { t with markLost := true }
  else
    let t := t.overwrite
    { t with slots := t.slots ++ [x] }

/-- The open block is sealed. -/
def Trace.seal (t : Trace) (stopped : Bool) : Trace :=
  if t.opn = [] then t
  else
    let x : TrSlot := .block t.opn t.openTrig stopped t.armId t.tft none
    { t.putSlot x with opn := [], openTrig := false }

/-- The recorder stops. -/
def Trace.halt (t : Trace) : Trace := { t.seal true with st := .stopped }

/-- An entry of the open block; `false` when it is lost for want of a slot. -/
def Trace.addEnt (t : Trace) (e : TrEnt) : Trace × Bool :=
  if trStream t.arm ∧ t.opn = [] ∧ 512 ≤ t.slots.length then
    ({ t with lost := min (t.lost + 1) 65535 }, false)
  else ({ t with opn := t.opn ++ [e], openTrig := t.openTrig || e.trig }, true)

/-- The open block is sealed when it is full. -/
def Trace.sealFull (t : Trace) : Trace := if 42 ≤ t.opn.length then t.seal false else t

/-- A recorded entry that counts toward STOP (R397). -/
def Trace.countEnt (t : Trace) : Trace :=
  if trStop t.arm = 0xFFFFFFFF then t.sealFull
  else
    let t := { t with cnt := t.cnt - 1 }
    if t.cnt = 0 then t.halt else t.sealFull

/-- The recorder triggers at FT `ft` (R397). -/
def Trace.fire (t : Trace) (ft : Word) : Trace := { t with st := .counting, tft := ft }

/-- The state of the trace unit changed by `f`. -/
def Live.updTrace (l : Live) (f : Trace → Trace) : Live := { l with trace := f l.trace }

/-! ### Capture and triggers (R393, R396 to R398) -/

/-- An access lies in range `k`. -/
def inTrRange (g : TrCfg) (a : Access) (k : Nat) : Bool :=
  decide (a.addr.toNat ≤ trLimit g k ∧ trBase g k ≤ a.addr.toNat + 2 ^ a.size.toNat - 1)

/-- RKIND of range `k` admits the direction of an access. -/
def trAdmits (g : TrCfg) (a : Access) (k : Nat) : Bool :=
  decide (trKind g k = 0 ∨ (trKind g k = 1 ∧ a.wr = false) ∨ (trKind g k = 2 ∧ a.wr = true))

/-- The access is a trigger. -/
def trHits (g : TrCfg) (a : Access) : Bool :=
  [0, 1, 2, 3].any fun k => trMask g k && inTrRange g a k && trAdmits g a k

/-- The filters of R393 keep an access of logical unit `u`. -/
def trKeeps (g : TrCfg) (a : Access) (u : Nat) : Bool :=
  (!([0, 1, 2, 3].any fun k => trRen g k) ||
    ([0, 1, 2, 3].any fun k => trRen g k && inTrRange g a k && trAdmits g a k)) &&
  (!trUnitF g || decide (trUnit g = u))

/-- The entry of an access (Table 16.3). A triggering access of an unmapped unit shows unit 0x3FF. -/
def Live.trEnt (l : Live) (a : Access) (u : Option Nat) (trig itrig : Bool) : TrEnt :=
  let k := u.getD 0x3FF
  { addr := a.addr, data := a.data, ft := l.ft, unit := k, wr := a.wr, size := a.size.toNat,
    trig := trig, itrig := itrig, gen := l.gen k,
    rhit := [0, 1, 2, 3].foldl (fun n i => n + if inTrRange l.trace.arm a i then 2 ^ i else 0) 0 }

/-- The recorder takes an access of logical unit `u`, none when unmapped; `other` tells that a source other than
the access triggers at the same edge, which makes one trigger (R397, R398). -/
def Live.record (l : Live) (b : Build) (a : Access) (u : Option Nat) (other : Bool) : Live :=
  let t := l.trace
  let hit := trHits t.arm a
  let keep : Bool := match u with
    | some u => trKeeps t.arm a u
    | none => false
  match t.st with
  | .off => l
  | .stopped => l.when (hit || other) fun l => l.bump b F.TRC_STAT_TRIG_IGN
  | .armed =>
    if hit ∨ other then l.updTrace fun t =>
      let t := t.fire l.ft
      let t := if hit ∨ keep then (t.addEnt (l.trEnt a u hit false)).1 else t
      if trStop t.arm = 0 then t.halt else t.sealFull
    else if keep then l.updTrace fun t => (t.addEnt (l.trEnt a u false false)).1.sealFull
    else l
  | .counting =>
    let l := l.when (hit || other) fun l => l.bump b F.TRC_STAT_TRIG_IGN
    if hit ∨ keep then l.updTrace fun t =>
      let r := t.addEnt (l.trEnt a u false hit)
      if r.2 then r.1.countEnt else r.1
    else l

/-! ### Watch objects (R406) -/

/-- Watch object `o`. -/
def Live.watch (l : Live) (o : Nat) : Watch := Tab.getD l.trace.watches o watch0

/-- Watch object `o` changed by `f`. -/
def Live.updWatch (l : Live) (o : Nat) (f : Watch → Watch) : Live :=
  l.updTrace fun t => { t with watches := Tab.upd t.watches o watch0 f }

/-- HELD of a value. -/
def Watch.holds (w : Watch) : Bool := decide (w.val &&& w.mask ≠ w.free &&& w.mask)

/-- The low bytes of a value replaced by those of a write. -/
def lowBytes (size : Nat) (old new : DWord) : DWord :=
  if 3 ≤ size then new
  else
    let m := BitVec.ofNat 64 (2 ^ (8 * 2 ^ size) - 1)
    (old &&& ~~~m) ||| (new &&& m)

/-- A watch object sees an access of physical unit `p`, whose waiter bit is `me`. -/
def Watch.see (w : Watch) (a : Access) (p : Nat) (me : DWord) : Watch :=
  let lo := a.addr.toNat
  let hi := lo + 2 ^ a.size.toNat - 1
  let at_ := w.addr.toNat
  let hit := decide (lo ≤ at_ + 7 ∧ at_ ≤ hi)
  if !w.en then w
  else if a.wr then
    if !hit then w
    else
      let w := if a.addr = w.addr then
          { w with val := lowBytes a.size.toNat w.val a.data,
                   uncert := w.uncert && decide (a.size.toNat < 3) }
        else { w with uncert := true }
      let h := w.holds
      { w with held := h, owner := if h then some p else none, waiters := w.waiters &&& ~~~me }
  else if !hit then w
  else { w with waiters := if w.held then w.waiters ||| me else w.waiters &&& ~~~me }

/-- Every enabled watch object sees an access of a mapped unit. -/
def Live.watchAll (l : Live) (b : Build) (a : Access) : Live :=
  let p := a.unit.toNat
  if !l.flag b F.UNIT_EN_B_SYNC then l
  else match l.presents p with
    | none => l
    | some _ =>
      let me := match l.groups p with
        | g :: _ => BitVec.ofNat 64 (2 ^ g)
        | [] => 0
      l.updTrace fun t =>
        { t with watches := Tab.mapVal (fun (_ : Nat) (w : Watch) => w.see a p me) t.watches }

/-- The BMON unit runs: it is enabled, its clock is there, and its island is out of reset. -/
def Live.bmonOn (l : Live) (b : Build) : Bool :=
  b.buoy && l.flag b F.UNIT_EN_B_BMON && !l.trace.clkStop && !l.boot.bmonRst

/-! ### Other trigger sources (R396) -/

/-- Trigger source `i` sets out for BMON; a BMON whose clock is stopped, by the host, by its enable or in SLEEP,
discards it. -/
def Live.raiseTrig (l : Live) (b : Build) (i : Nat) : Live :=
  if l.bmonOn b ∧ l.pwr.st ≠ .sleep ∧ i ∉ l.trace.pend then
    l.updTrace fun t => { t with pend := t.pend ++ [i] }
  else l

/-- `fog_out` is compared with what it was when it was last looked at: a rise is trigger source 5. It is looked
at on every clock edge and as sources reach BMON (DESIGN CHOICE, log entry 134). -/
def Live.fogSeen (l : Live) (b : Build) : Live :=
  let now := l.fogOut b
  let l := if now ∧ !l.trace.fogHi then l.raiseTrig b 5 else l
  l.updTrace fun t => { t with fogHi := now }

/-- The sources in the set `srcs` that are on their way reach a BMON edge; the answer tells whether one of them
is a trigger. -/
def Live.reachBmon (l : Live) (b : Build) (srcs : BitVec 8) : Live × Bool :=
  let l := l.fogSeen b
  let here := l.trace.pend.filter fun i => srcs.toNat.testBit i
  (l.updTrace fun t => { t with pend := t.pend.filter fun i => !srcs.toNat.testBit i },
    l.bmonOn b && here.any fun i => trMask l.trace.arm i)

/-- BMON_ACCESS (R393, R396 to R398, R406): an access, and the sources that reach BMON at its edge. -/
def execBmonAccess (a : Access) (s : State) : Host.Outcome State Fault Refusal :=
  s.runAwake fun b l =>
    if !l.bmonOn b then l
    else
      let u := l.presents a.unit.toNat
      let l := if l.trace.on ∧ u.isNone then
          (l.bump b F.TRC_LOST_UNMAPPED).checkRetired b a.unit.toNat
        else l
      let r := l.reachBmon b a.also
      (r.1.record b a u r.2).watchAll b a

/-- A rise of output 0 of a buoy is trigger source 6. -/
def Live.raiseRise (l : Live) (b : Build) (n : Nat) : Live := if n = 0 then l.raiseTrig b 6 else l

/-- Output `n` rises for its fired count, or late for a deferred one (R128, R129). -/
def Live.pulseRise (l : Live) (b : Build) (n : Nat) : Live :=
  let p := l.pulse n
  if p.lateRise then ((l.pulseUp n p.t).late b p.t).raiseRise b n
  else match l.firedOf (.pulse n) with
    | none => l
    | some f => ((l.useFired (.pulse n)).pulseUp n f.count).raiseRise b n

/-- PULSE_RISE (R128, R129, R396). -/
def execPulseRise (n : BitVec 3) (s : State) : Host.Outcome State Fault Refusal :=
  s.run fun b l =>
    if !l.timeOn ∨ !l.pulseOn b ∨ (l.pulse n.toNat).level then l else l.pulseRise b n.toNat

/-- A non-access trigger takes effect. -/
def Live.trigger (l : Live) (b : Build) : Live :=
  match l.trace.st with
  | .off => l
  | .armed => l.updTrace fun t =>
      let t := t.fire l.ft
      if trStop t.arm = 0 then t.halt else t
  | _ => l.bump b F.TRC_STAT_TRIG_IGN

/-- TRACE_TRIGGER_EVENT (R396 to R398): the sources other than an access that reach BMON at one edge. -/
def execTraceTriggerEvent (srcs : BitVec 8) (s : State) : Host.Outcome State Fault Refusal :=
  s.runAwake fun b l =>
    if b.lantern then l
    else
      let r := l.reachBmon b srcs
      if r.2 then r.1.trigger b else r.1

/-! ### Power marks (R404, R405) -/

/-- The BMON clock stops, for SLEEP or its enable: sources on their way are lost (R396), and recording is
interrupted, with the open block and an entry mark, unless it was interrupted before. -/
def Live.markEntry (l : Live) : Live :=
  l.updTrace fun t =>
    let t := { t with pend := [] }
    if t.on ∧ !t.markDue then { (t.seal false).putSlot (.mark false none) with markDue := true } else t

/-- The interruption ends, once nothing holds the unit back: an exit mark, after an entry mark that waited
for the clock. A recorder that has stopped meanwhile takes none. -/
def Live.markExit (l : Live) (b : Build) : Live :=
  if l.trace.markDue ∧ l.bmonOn b ∧ l.pwr.st ≠ .sleep then l.updTrace fun t =>
    let t := if t.entryDue && t.on then (t.seal false).putSlot (.mark false none) else t
    { (if t.on then t.putSlot (.mark true none) else t) with markDue := false, entryDue := false }
  else l

/-- `clk_bmon` is watched: its island's detector runs in RUN, IDLE and SLEEP. -/
def Live.bmonWatched (l : Live) (b : Build) : Bool :=
  b.buoy && (l.awake || (l.boot.ready && decide (l.pwr.st = .sleep)))

/-- BMON_CLOCK_STOP (R404): the marks wait for the clock. The clock is an input, and its loss is seen in every
state (R93). -/
def execBmonClockStop (s : State) : Host.Outcome State Fault Refusal :=
  s.run fun b l =>
    if b.lantern ∨ l.trace.clkStop then l
    else if !l.bmonWatched b ∨ l.boot.bmonRst then l.updTrace fun t => { t with clkStop := true }
    else l.updTrace fun t =>
      let first := t.on && !t.markDue
      { t with clkStop := true, markDue := t.markDue || first, entryDue := t.entryDue || first, pend := [] }

/-- BMON_CLOCK_RESUME (R404): the marks that are due, the entry mark first, unless the unit is gated or the
buoy sleeps. An island that a reset left waiting for its clock leaves reset (R93). -/
def execBmonClockResume (s : State) : Host.Outcome State Fault Refusal :=
  s.run fun b l =>
    if b.lantern ∨ !l.trace.clkStop then l
    else
      let was := l.boot.bmonRst
      let l := l.updTrace fun t => { t with clkStop := false }
      let l := { l with boot := { l.boot with bmonRst := was && l.boot.held } }
      if !l.bmonWatched b ∨ was then l else l.markExit b

/-! ### Slots as records (R402, R405) -/

/-- An entry in words (Table 16.3). -/
def TrEnt.words (e : TrEnt) : List DWord :=
  [e.addr, e.data,
   packW [(0, e.ft.toNat), (32, e.unit), (42, b2n e.wr), (43, e.size), (46, b2n e.trig),
     (47, b2n e.itrig), (48, e.gen), (56, e.rhit)]]

/-- Words of the record that a slot becomes. -/
def TrSlot.len : TrSlot → Nat
  | .block es _ _ _ _ _ => 5 + 3 * es.length
  | .mark _ _ => 5

/-- The record of the oldest slot, with the buffer's losses; the buffer without it. -/
def Live.slotOut (l : Live) (b : Build) : Option (Rec × Live) :=
  match l.trace.slots with
  | [] => none
  | x :: rest =>
    match x with
    | .block es trig stopped arm tft bad =>
      let t := l.trace
      let w := packW [(0, es.length), (6, b2n trig), (7, b2n stopped), (8, b2n t.markLost),
        (16, t.lost), (32, arm)]
      let ft := match es with
        | e :: _ => e.ft
        | [] => 0
      let r := mkRec l b 0x08 0x1020 ft (w :: packW [(0, tft.toNat)] :: es.flatMap TrEnt.words)
      let l := l.updTrace fun t => { t with slots := rest, lost := 0, markLost := false }
      let n := l.number r
      some ({ n.2 with poison := bad.isSome }, n.1)
    | .mark exit bad =>
      let q := BitVec.ofNat 32 (Tab.getD l.seqs 0x1020 0)
      let r := l.gapRec b (l.src b) 0x1020 q 1 (if exit then 9 else 8)
      let l := l.updTrace fun t => { t with slots := rest }
      some ({ r with poison := bad.isSome }, (l.number r).1)

/-- The address of a word of the slot that was read uncorrectable. -/
def TrSlot.bad : TrSlot → Option Nat
  | .block _ _ _ _ _ a => a
  | .mark _ a => a

/-- Slots are read: an uncorrectable word counts (R428). -/
def Live.readSlots (l : Live) (b : Build) (xs : List TrSlot) : Live :=
  (xs.filterMap TrSlot.bad).foldl (fun l a => l.ueSeen b 5 a) l

/-- The oldest slots as records, as many as fit in `n` words. -/
def Live.slotsOut (l : Live) (b : Build) : Nat → Nat → List DWord × Live
  | 0, _ => ([], l)
  | k + 1, n =>
    match l.trace.slots with
    | [] => ([], l)
    | x :: _ =>
      if n < x.len then ([], l)
      else match l.slotOut b with
        | none => ([], l)
        | some (r, l') =>
          let t := l'.slotsOut b k (n - x.len)
          (r.words ++ t.1, t.2)

/-! ### Commands -/

/-- A command reaches into BMON, where `f` goes on: E_GATED when its enable is clear, and when the host has
stopped its clock, where the handshake times out (R22, R99). -/
def Live.toBmon (l : Live) (b : Build) (r : Ret) (f : Live → Live) : Live :=
  if !l.flag b F.UNIT_EN_B_BMON then l.reply b r eGated
  else if l.trace.clkStop then (l.bump b F.CLK_STAT_XTO_CNT).reply b r eGated
  else f l

/-- TRACE_ARM (R395). -/
def Live.traceCmd (l : Live) (b : Build) (p : Packet) (r : Ret) : Live :=
  let g := p.data
  if p.aBits 0 1 = 0 then
    (if l.trace.on then l.updTrace Trace.halt else l).reply b r 0
  else l.toBmon b r fun l =>
    if trBad g then l.reply b r eRange
    else
      (l.updTrace fun t => { t with
        st := .armed, arm := g, opn := [], openTrig := false, slots := [], lost := 0,
        markLost := false, tft := 0, cnt := trStop g, armId := (t.armId + 1) % 65536,
        markDue := false, entryDue := false }).reply b r 0

/-- The row of TRACE_ARM. -/
def traceArmRow : OpRow := opRow 0x30 true false 1 9 9

/-- TRACE_ARM with EN = 1 (R395). -/
def execTraceArm (p : Packet) (s : State) : Host.Outcome State Fault Refusal :=
  s.run fun b l => l.command b (.traceArm p) traceArmRow p fun l r => l.traceCmd b p r

/-- TRACE_ARM with EN = 0 (R395). -/
def execTraceDisarm (p : Packet) (s : State) : Host.Outcome State Fault Refusal :=
  s.run fun b l => l.command b (.traceDisarm p) traceArmRow p fun l r => l.traceCmd b p r

/-- TRACE_READ (R403). In-band the E_LEN of R156 is decided by the words asked for, whatever the buffer holds
(DESIGN CHOICE, log entry 131). -/
def execTraceRead (p : Packet) (s : State) : Host.Outcome State Fault Refusal :=
  s.run fun b l => l.command b (.traceRead p) (opRow 0x31 true false 1 0 0) p fun l r =>
    let n := p.aBits 0 16
    if p.port.inband ∧ 254 < n + b2n p.pchk then l.reply b r eLen
    else l.toBmon b r fun l => match firstErr [
      (decide (n = 0), eRange),
      (decide (l.trace.st ≠ .stopped) || trStream l.trace.arm, eState)] with
    | some e => l.reply b r e
    | none =>
      let x := l.slotsOut b l.trace.slots.length (min n (4095 - b2n p.pchk))
      let gone := l.trace.slots.length - x.2.trace.slots.length
      let out := l.trace.slots.take gone
      if out.any (·.bad.isSome) then (l.readSlots b out).reply b r ePoison
      else
      let left := x.2.trace.slots.foldl (fun a y => a + y.len) 0
      x.2.reply b r 0 left x.1

/-! ### Replies to hang dumps (R412) -/

/-- Records of a hang dump of this block still wait at their producer. -/
def Live.dumpWaits (l : Live) (b : Build) : Bool :=
  l.created.any fun e => decide ((e.2.ty = 0x0B ∨ e.2.ty = 0x0C) ∧ e.2.src = l.src b)

/-- Once the records of the dumps have gone to their queue, their replies leave. -/
def Live.dumpsDone (l : Live) (b : Build) : Live :=
  if l.dumpWaits b then l
  else l.trace.dumps.foldl (fun l d => l.reply b d.1 0 d.2) (l.updTrace fun t => { t with dumps := [] })

/-! ### Register writes -/

/-- A write of TRC_CTL: SWTRIG is trigger source 4. -/
def Live.writeTrcCtl (l : Live) (b : Build) (v : Word) : Live :=
  if v.toNat.testBit 0 then l.raiseTrig b 4 else l

/-- A write of SYNC_CFG of watch object `o` (R406). -/
def Live.writeSyncCfg (l : Live) (b : Build) (o : Nat) (v : Word) : Live :=
  let w := l.watch o
  let l := l.when (v.toNat.testBit 5) fun l => l.put b F.SYNC_CFG_REJ 0 o
  if !v.toNat.testBit 0 then l.updWatch o fun w => { w with en := false }
  else if w.en then l
  else if w.addr.toNat % 8 ≠ 0 then l.put b F.SYNC_CFG_REJ 1 o
  else l.updWatch o fun w =>
    let w := { w with en := true, val := 0, owner := none, waiters := 0, uncert := true }
    { w with held := w.holds }

/-- One half of a 64-bit field replaced. -/
def half (hi : Bool) (old : DWord) (v : Word) : DWord :=
  if hi then packW [(0, fld old 0 32), (32, v.toNat)] else packW [(0, v.toNat), (32, fld old 32 32)]

/-- A write of SYNC_ADDR, SYNC_MASK or SYNC_FREE of object `o`: ignored while EN is 1. -/
def Live.writeWatch (l : Live) (o : Nat) (f : Watch → Watch) : Live :=
  if (l.watch o).en then l else l.updWatch o f

end Sys2Proof.Machine
end

