-- ==== Sys2Proof/Machine/Log.lean ====
section
/-! DEFINITION. Draining the logbook by command and by record, and its copy in the attic (spec/17 R421 to
R425). -/

namespace Sys2Proof.Machine

/-! ### Entries in words (Table 17.1) -/

/-- An entry as it is stored and drained. -/
def LogEnt.words (e : LogEnt) : List DWord :=
  packW [(0, e.lseq.toNat), (32, e.ev.sev), (34, b2n e.restored), (36, e.ev.args.length), (40, e.ev.code)] ::
  packW [(0, e.rep), (32, e.ev.plan), (40, e.ev.status)] ::
  e.ev.args.map (BitVec.ofNat 64)

/-- Whole entries of at least severity `sev`, oldest first, at most `n` of them in at most `room` words. -/
def takeEnts (sev : Nat) : Nat → Nat → List LogEnt → List LogEnt
  | _, _, [] => []
  | n, room, e :: t =>
    if e.ev.sev < sev then takeEnts sev n room t
    else if n = 0 ∨ room < e.ev.words then []
    else e :: takeEnts sev (n - 1) (room - e.ev.words) t

/-- The entries of these LSEQs removed, with their copies in the attic (R424). -/
def Live.removeEnts (l : Live) (gone : List LogEnt) : Live :=
  { l with log := { l.log with
      ents := l.log.ents.filter fun a => !(gone.any fun g => decide (g.lseq = a.lseq)) } }.atticDrop gone

/-- An entry with a poisoned word is discarded (R423); its read counts (R428). -/
def Live.discardEnt (l : Live) (b : Build) (e : LogEnt) : Live :=
  let l := match e.bad with | some a => l.ueSeen b 3 a | none => l
  ((l.removeEnts [e]).bump b F.LOG_LOST_ERROR).logE b 0x1201 3 [e.lseq.toNat]

/-! ### LOG_READ (R421) -/

/-- LOG_READ (R421, R423). -/
def execLogRead (p : Packet) (s : State) : Host.Outcome State Fault Refusal :=
  s.run fun b l => l.command b (.logRead p) (opRow 0x38 true true 1 0 0) p fun l r =>
    let sev := p.aBits 0 3
    let n := p.aBits 4 12
    match firstErr [
      (decide (3 < sev ∨ n = 0), eRange),
      (l.flag b F.LOG_CFG_DRAIN_EN, eState)] with
    | some e => l.reply b r e
    | none =>
      let room := (if b.buoy ∧ p.port.inband then 254 else 4095) - b2n p.pchk
      let es := takeEnts (max 1 sev) n room l.log.ents
      match es.find? (·.bad.isSome) with
      | some e => (l.reply b r ePoison).discardEnt b e
      | none =>
        let l := l.removeEnts es
        l.reply b r 0 l.log.ents.length (es.flatMap LogEnt.words)

/-! ### Draining into records (R422) -/

/-- DRAIN_MIN, 0 read as 1. -/
def Live.drainMin (l : Live) (b : Build) : Nat := max 1 (l.get b F.LOG_CFG_DRAIN_MIN)

/-- Poisoned entries that draining meets are discarded. -/
def Live.drainPoison (l : Live) (b : Build) : Live :=
  (l.log.ents.filter fun e => e.bad.isSome && decide (l.drainMin b ≤ e.ev.sev) && !e.sel).foldl
    (fun l e => l.discardEnt b e) l

/-- A LOG record of the entries `es`, which are then selected, and their copies in the attic with them (R418,
R424). -/
def Live.drainRec (l : Live) (b : Build) (es : List LogEnt) : Live :=
  let w := packW [(0, es.length), (32, min l.log.lostSum 0xFFFFFFFF)]
  let select := fun (xs : List LogEnt) => xs.map fun a =>
    if es.any fun g => decide (g.lseq = a.lseq) then { a with sel := true } else a
  let l := { l with log := { l.log with
    ents := select l.log.ents, attic := select l.log.attic, lostSum := 0 } }
  l.create b (mkRec l b 0x09 b.mgmtStream 0 (w :: es.flatMap LogEnt.words))

/-- LOG_DRAIN (R422, R423): no record of entries is on its way, and the management queue can take one. -/
def execLogDrain (s : State) : Host.Outcome State Fault Refusal :=
  s.runAwake fun b l =>
    if !l.flag b F.LOG_CFG_DRAIN_EN ∨ l.log.ents.any (·.sel) then l
    else
      let l := l.drainPoison b
      let es := takeEnts (l.drainMin b) 127 255 l.log.ents
      let len := 32 + 8 * usedWords es
      if es = [] ∨ (l.fits b b.mgmtQueue len false).isNone then l else l.drainRec b es

/-- A LOG record of the block has entered its queue: its entries are removed. -/
def Live.logQueued (l : Live) (r : Rec) : Live :=
  if r.ty = 0x09 then l.removeEnts (l.log.ents.filter (·.sel)) else l

/-! ### The attic copy (R425) -/

/-- Attic banks of the form. -/
def Build.atticBanks (b : Build) : Nat := if b.buoy then 8 else 16

/-- The newest qualifying entries that fit, oldest first. -/
def atticFill (minSev : Nat) : Nat → List LogEnt → List LogEnt → List LogEnt
  | _, [], acc => acc
  | room, e :: older, acc =>
    if e.ev.sev < minSev then atticFill minSev room older acc
    else if room < e.ev.words then acc
    else atticFill minSev (room - e.ev.words) older (e :: acc)

/-- A write to LOG_ATTIC: EN sets up or discards the copy; the other fields follow only while EN is 0. -/
def Live.writeAttic (l : Live) (b : Build) (v : Word) : Live :=
  let n := v.toNat
  if l.flag b F.LOG_ATTIC_EN then
    if n.testBit 0 then l
    else { l.put b F.LOG_ATTIC_EN 0 with log := { l.log with attic := [] } }
  else
    let l := l.put b F.LOG_ATTIC_MINSEV (n / 2)
    let l := l.put b F.LOG_ATTIC_FIRST (n / 8)
    let l := l.put b F.LOG_ATTIC_NBANKS_M1 (n / 128)
    if !n.testBit 0 then l
    else if b.atticBanks ≤ l.get b F.LOG_ATTIC_FIRST + l.get b F.LOG_ATTIC_NBANKS_M1 then
      l.put b F.LOG_FLAG_REJ 1
    else
      let l := l.put b F.LOG_ATTIC_EN 1
      let es := atticFill (l.atticMin b) (l.atticCap b) l.log.ents.reverse []
      { l with log := { l.log with attic := es } }

end Sys2Proof.Machine
end

