-- ==== Sys2Proof/Machine/Admit.lean ====
section
/-! DEFINITION. Admission of a created record to its queue, and the trace slots that a streaming recorder
offers (spec/12 R301 to R306; spec/16 R402). -/

namespace Sys2Proof.Machine

/-- The oldest record created for queue `i` is admitted, waits, or is lost. A lantern loses one that has no
route (R290, R291), but for a GAP record, which is never discarded (R304; log entry 132). The entries of a LOG
record that is lost are gone with it (R422), and the reply to a hang dump waits for its last record (R412). -/
def Live.admitNext (l : Live) (b : Build) (i cycles : Nat) : Live :=
  match l.created.find? fun e => decide (e.1 = i) with
  | none => l
  | some e =>
    let rest := l.created.eraseP fun x => decide (x.1 = i)
    if b.lantern ∧ e.2.ty ≠ 0x0A ∧ l.waysOf b e.2 = [] then
      (({ l with created := rest }.loseCreated b i e.2).logQueued e.2).dumpsDone b
    else
      let a := l.admitTo b i e.2 cycles
      match a.2 with
      | none => a.1
      | some entered =>
        let l := { a.1 with created := rest }
        ((l.when entered fun l => l.vecQueued b e.2).logQueued e.2).dumpsDone b

/-- The oldest trace slot is offered to queue `i` of its stream; its SEQ is taken and the slot is freed when
the queue takes or loses the record (R402). While it waits, the queue keeps what the offer did to it (R302,
R306). -/
def Live.admitSlot (l : Live) (b : Build) (i cycles : Nat) : Live :=
  match l.slotOut b with
  | none => l
  | some (r, gone) =>
    let a := gone.admitTo b i r cycles
    if a.2.isNone then { a.1 with seqs := l.seqs, skips := l.skips, trace := l.trace }
    else a.1.readSlots b (l.trace.slots.take 1)

/-- QUEUE_ADMIT (R301 to R306, R402). -/
def execQueueAdmit (i : Nat) (cycles : Nat) (s : State) : Host.Outcome State Fault Refusal :=
  s.runAwake fun b l =>
    if b.lantern ∧ i < 1024 then l.flushGaps b i l.created.length
    else if l.created.any fun e => decide (e.1 = i) then l.admitNext b i cycles
    else if b.buoy ∧ trStream l.trace.arm ∧ l.bmonOn b ∧ l.queueOf b 0x1020 = i then
      l.admitSlot b i cycles
    else l

end Sys2Proof.Machine
end

