-- ==== Sys2Proof/Machine/Clock.lean ====
section
/-! DEFINITION. Clock sources and their switching, the internal oscillator and its trim (spec/03). -/

namespace Sys2Proof.Machine

/-! ### Sources of CORE and REG (R95 to R98) -/

/-- The source field of an island in CLK_SEL. -/
def srcFld : SwIsland → Fld
  | .core => F.CLK_SEL_CORE_SRC
  | .reg => F.CLK_SEL_REG_SRC

/-- The number of an island in events 0x0104 and 0x0202. -/
def islandCode : SwIsland → Nat
  | .core => 0
  | .reg => 1

/-- The port clock of an island is qualified. -/
def Clk.qual (c : Clk) : SwIsland → Bool
  | .core => c.coreQual
  | .reg => c.regQual

/-- The island runs from its port clock. -/
def Clk.on (c : Clk) : SwIsland → Bool
  | .core => c.coreOn
  | .reg => c.regOn

/-- The clocks with this qualification of an island's port clock. -/
def Clk.setQual (c : Clk) (i : SwIsland) (q : Bool) : Clk :=
  match i with
  | .core => { c with coreQual := q }
  | .reg => { c with regQual := q }

/-- The clocks with this source in use by an island. -/
def Clk.setOn (c : Clk) (i : SwIsland) (on : Bool) : Clk :=
  match i with
  | .core => { c with coreOn := on }
  | .reg => { c with regOn := on }

/-- A new CLK_SEL value is captured: a value that selects an unqualified port clock changes nothing; any
other starts a switch of each island whose source differs, CORE first (R96, R97). -/
def Live.applyClkSel (l : Live) (b : Build) (v : Word) : Live :=
  let core := v.toNat.testBit 0
  let reg := v.toNat.testBit 1
  if (core && !l.clk.coreQual) || (reg && !l.clk.regQual) then
    (l.put b F.CLK_STAT_SW_REJ 1).logE b 0x0201 2 [v.toNat]
  else
    let l := l.put b F.CLK_SEL_CORE_SRC (b2n core)
    let l := l.put b F.CLK_SEL_REG_SRC (b2n reg)
    let l := if core = l.clk.coreOn then l else l.startSwitch b .core core
    if reg = l.clk.regOn then l else l.startSwitch b .reg reg

/-- A write to CLK_SEL: while SW_BUSY is 1 it waits, and the last such write counts (R96). -/
def Live.writeClkSel (l : Live) (b : Build) (v : Word) : Live :=
  if l.clk.switches.isEmpty then l.applyClkSel b v
  else { l with clk := { l.clk with waiting := some v } }

/-- No switch is left in progress: the write that waited takes effect, and the boot goes on. -/
def Live.switchesDone (l : Live) (b : Build) : Live :=
  if !l.clk.switches.isEmpty then l
  else
    let l := match l.clk.waiting with
      | some v => { l with clk := { l.clk with waiting := none } }.applyClkSel b v
      | none => l
    l.bootStep b

/-- CLOCK_SWITCH_DONE (R97, R138): the switch in progress ends. -/
def execClockSwitchDone (s : State) : Host.Outcome State Fault Refusal :=
  s.run fun b l =>
    match l.clk.switches with
    | [] => l
    | (i, port) :: t =>
      { l with clk := { l.clk.setOn i port with switches := t } }.switchesDone b

/-- The port clock in use by island `i` has lost qualification (R98): the island goes to the oscillator. During
phase 3 it counts as left on the oscillator, since only a write to CLK_SEL switches it back. -/
def Live.fallback (l : Live) (b : Build) (i : SwIsland) : Live :=
  let c := (l.clk.setOn i false).setQual i false
  let c := { c with switches := c.switches.filter fun x => decide (x.1 ≠ i) }
  let l := ({ l with clk := c }.put b (srcFld i) 0).put b F.CLK_STAT_FALLBACK 1
  let l := l.logE b 0x0202 3 [islandCode i]
  let l := if l.boot.phase = 3 then
      l.put b (match i with | .core => F.GLB_BOOT_CORE_OSC | .reg => F.GLB_BOOT_REG_OSC) 1
    else l
  l.switchesDone b

/-- CLOCK_FALLBACK (R98). -/
def execClockFallback (i : SwIsland) (s : State) : Host.Outcome State Fault Refusal :=
  s.run fun b l => if !l.aonOn ∨ !l.clk.on i then l else l.fallback b i

/-- PORT_CLOCK_QUAL_LOST (R95): of a clock in use, with the fall-back of R98. -/
def execPortClockQualLost (i : SwIsland) (s : State) : Host.Outcome State Fault Refusal :=
  s.run fun b l =>
    if !l.aonOn then l
    else if l.clk.on i then l.fallback b i
    else { l with clk := l.clk.setQual i false }

/-! ### The oscillator (R101 to R103) -/

/-- The code in use: TRIM_W under OVR; 0x200 in the first window of an acquisition. -/
def Live.oscCode (l : Live) (b : Build) : Nat :=
  if l.flag b F.OSC_CFG_OVR then l.get b F.OSC_CFG_TRIM_W
  else if l.clk.acq ∧ l.clk.bit = 9 ∧ (l.trimSrc b).isSome then 0x200
  else l.clk.code

/-- Acquisition starts again (R103). -/
def Clk.restart (c : Clk) : Clk := { c with acq := true, bit := 9 }

/-- The window check with this count over 1,024 cycles of `clk_ref` (R101). -/
def Live.windowCheck (l : Live) (b : Build) (count : Nat) : Live :=
  let win := l.get b F.OSC_CFG_REFWIN
  let want := l.get b F.OSC_TGT_TARGET * 1024 / win
  let off := if count < want then want - count else count - want
  if l.clk.refOk ∧ win ≠ 0 ∧ off * 50 ≤ want then l
  else (l.put b F.OSC_STAT_WIN_FAIL 1).logE b 0x0203 3 [l.clk.lastCnt]

/-- A write of OSC_CFG (R101 to R103): the fields, a new acquisition when SRC or REFWIN changes, and the
window check that QCHK asks for. A write that carries no count of `clk_ref` checks a free value. -/
def Live.writeOscCfg (l : Live) (b : Build) (v : Word) (count : Option Nat) : Live :=
  let n := v.toNat
  let old := (l.get b F.OSC_CFG_SRC, l.get b F.OSC_CFG_REFWIN)
  let l := l.put b F.OSC_CFG_SRC n
  let l := l.put b F.OSC_CFG_QMODE (n >>> 2)
  let l := l.put b F.OSC_CFG_OVR (n >>> 4)
  let l := l.put b F.OSC_CFG_TRIM_W (n >>> 5)
  let l := l.put b F.OSC_CFG_REFWIN (n >>> 15)
  let new := (l.get b F.OSC_CFG_SRC, l.get b F.OSC_CFG_REFWIN)
  let l := if old = new then l else { l with clk := l.clk.restart }
  if n.testBit 3 ∧ l.flag b F.OSC_CFG_QMODE then
    match count with
    | some c => l.windowCheck b c
    | none => { l with free := l.free + 1 }.windowCheck b (Config.openValue l.free).toNat
  else l

/-- One window of acquisition (R103): the trial bit goes when the count is too high, and the next bit is
tried; the window check follows the last bit when QMODE is 1. -/
def Live.acquire (l : Live) (b : Build) (count winCount : Nat) : Live :=
  let bit := l.clk.bit
  let code := if bit = 9 then 0x200 else l.clk.code
  let code := if l.get b F.OSC_TGT_TARGET < count ∧ code.testBit bit then code - 2 ^ bit else code
  if bit = 0 then
    let l := { l with clk := { l.clk with code := code, acq := false, acqDone := true } }
    if l.flag b F.OSC_CFG_QMODE then l.windowCheck b winCount else l
  else { l with clk := { l.clk with code := code ||| 2 ^ (bit - 1), bit := bit - 1 } }

/-- A tracking step past an end of the code: the code stays at its limit and acquisition restarts. -/
def Live.trimLim (l : Live) (b : Build) : Live :=
  let l := (l.put b F.OSC_STAT_TRIM_LIM 1).logE b 0x0204 2 [l.clk.code]
  { l with clk := l.clk.restart }

/-- One window of tracking (R103). -/
def Live.track (l : Live) (b : Build) (count : Nat) : Live :=
  let target := l.get b F.OSC_TGT_TARGET
  let band := target / 1024
  if target + band < count then
    if l.clk.code = 0 then l.trimLim b
    else { l with clk := { l.clk with code := l.clk.code - 1 } }
  else if count + band < target then
    if l.clk.code = 1023 then l.trimLim b
    else { l with clk := { l.clk with code := l.clk.code + 1 } }
  else l

/-- TRIM_WINDOW (R102, R103): a window of the source in force ends; a spoilt one is discarded. -/
def execTrimWindow (src : TrimSrc) (count : Nat) (winCount : Nat) (s : State) :
    Host.Outcome State Fault Refusal :=
  s.run fun b l =>
    if !l.aonOn then l
    else
      let l := if src = .clkRef then { l with clk := { l.clk with refOk := true } } else l
      if l.trimWindow b ≠ some src then l
      else if l.clk.spoilt = some src then { l with clk := { l.clk with spoilt := none } }
      else
        let l := { l with clk := { l.clk with spoilt := none, lastCnt := min count 131071 } }
        if l.clk.acq then l.acquire b count winCount else l.track b count

/-- CLK_REF_LOST (R102): the window in progress is discarded when `clk_ref` is its source. -/
def execClkRefLost (s : State) : Host.Outcome State Fault Refusal :=
  s.run fun b l =>
    if !l.aonOn then l
    else
      let l := l.when (decide (l.trimSrc b = some .clkRef)) fun l => l.spoilWindow b
      { l with clk := { l.clk with refOk := false } }

end Sys2Proof.Machine
end

