-- ==== Sys2Proof/Machine/Timex.lean ====
section
/-! DEFINITION. The two-way time exchange between a lantern and its buoys (spec/04 R117 to R122). -/

namespace Sys2Proof.Machine

/-! ### The payload (Table 4.3) -/

/-- KIND of a TIMEX record. -/
def txKind (r : Rec) : Nat := fld (wordAt r.body 0) 0 8
/-- XSEQ. -/
def txSeq (r : Rec) : Nat := fld (wordAt r.body 0) 8 8
/-- DST. -/
def txDst (r : Rec) : Nat := fld (wordAt r.body 0) 16 8
/-- CORR. -/
def txCorr (r : Rec) : Int := sInt 32 (fld (wordAt r.body 1) 0 32)
/-- T2. -/
def txT2 (r : Rec) : Word := BitVec.ofNat 32 (fld (wordAt r.body 1) 32 32)
/-- TX. -/
def txTx (r : Rec) : Word := BitVec.ofNat 32 (fld (wordAt r.body 2) 0 32)
/-- T1. -/
def txT1 (r : Rec) : Word := BitVec.ofNat 32 (fld (wordAt r.body 2) 32 32)

/-- A TIMEX record of the right length. -/
def isTimex (r : Rec) : Bool := decide (r.ty = 0x0E ∧ r.body.length = 4)

/-- The record with its TX stamp (R118). -/
def stampTx (r : Rec) (t : Word) : Rec :=
  let w := wordAt r.body 2
  { r with body := updAt (fun _ => packW [(0, t.toNat), (32, fld w 32 32)]) 2 r.body }

/-- The corrected transmit stamp of port `i`, 0 for the fabric port of a buoy (R119). -/
def Live.stampOut (l : Live) (b : Build) (i : Nat) : Word :=
  l.ft + BitVec.ofInt 32 (l.calDelay b (64 + 2 * i))

/-- The corrected receive stamp of port `i` (R119). -/
def Live.stampIn (l : Live) (b : Build) (i : Nat) : Word :=
  l.ft - BitVec.ofInt 32 (l.calDelay b (65 + 2 * i))

/-! ### The lantern -/

/-- The delay and θ of an exchange (R120). -/
def timexEval (t1 t2 t3 t4 : Word) : Int × Int :=
  let d21 := ftDiff t2 t1
  let d43 := ftDiff t4 t3
  (asr (d21 + d43) 1, asr (d21 - d43) 1)

/-- The group in progress ends (R120, R122): its kept exchange gives CORR, LOCK, delay and offset. -/
def Peer.endGroup (p : Peer) : Peer :=
  match p.best with
  | none => { p with corr := 0, good := 0, lock := false }
  | some (d, th) =>
    let good := if th.natAbs ≤ 40 then p.good + 1 else 0
    { p with best := none, corr := -th, good := good, delay := d, ofs := th,
             lock := if 100 < th.natAbs then false else if 3 ≤ good then true else p.lock }

/-- The next REQ to a partner: a REQ that opens a new group follows the end of the last one, and it alone
carries that group's CORR. -/
def Peer.nextReq (p : Peer) : Peer :=
  let p := if p.sent ∧ p.xseq % 4 = 0 then p.endGroup else { p with corr := 0 }
  { p with xseq := (p.xseq + 1) % 256, tx := none, sent := true, answered := false,
           hist := (false :: p.hist).take 4 }

/-- The REQ that a partner's state after `nextReq` describes. -/
def reqWords (p : Peer) (loc : Nat) (lanLock : Bool) : List DWord :=
  [packW [(0, 1), (8, (p.xseq + 255) % 256), (16, loc), (24, b2n p.lock), (25, b2n lanLock)],
   packW [(0, toU 32 p.corr)], 0, 0]

/-- One REQ to Local `loc` (R117). -/
def Live.sendReq (l : Live) (b : Build) (loc : Nat) : Live :=
  let p := (l.peer loc).nextReq
  let l := { l with time := { l.time with peers := Tab.set l.time.peers loc peer0 p } }
  let body := reqWords p loc (decide (l.time.state = .locked))
  let (l, r) := l.number (mkRec l b 0x0E b.mgmtStream l.ft body)
  l.toBuoy b loc r

/-- TIMEX_INTERVAL (R117, R120, R122). -/
def execTimexInterval (s : State) : Host.Outcome State Fault Refusal :=
  s.runAwake fun b l =>
    if b.buoy ∨ l.time.state = .free then l
    else ((List.range 256).foldl (fun l k => l.sendReq b k) l).checkBuoys b

/-- The transmit stamp of a REQ that leaves is the T1 its partner will echo. -/
def Live.noteTx (l : Live) (r : Rec) (t : Word) : Live :=
  let k := txDst r
  let p := l.peer k
  if p.sent ∧ txSeq r = (p.xseq + 255) % 256 then
    { l with time := { l.time with peers := Tab.set l.time.peers k peer0 { p with tx := some t } } }
  else l

/-- An accepted exchange: the smallest delay of its group is kept. -/
def Peer.accept (p : Peer) (d th : Int) : Peer :=
  let best := match p.best with
    | some (d', th') => if d' < d then some (d', th') else some (d, th)
    | none => some (d, th)
  { p with best := best, answered := true, hist := true :: p.hist.drop 1 }

/-- TIMEX_RSP (R119, R120, R122). A poisoned RSP is dropped (R433). -/
def execTimexRsp (n : BitVec 5) (r : Rec) (s : State) : Host.Outcome State Fault Refusal :=
  s.runAwake fun b l =>
    let k := txDst r
    let p := l.peer k
    if b.buoy ∨ !l.isUp n.toNat ∨ l.role b n.toNat ≠ 2 ∨ !isTimex r ∨ r.poison ∨ txKind r ≠ 2 ∨ p.answered ∨
        p.tx ≠ some (txT1 r) ∨ txSeq r ≠ (p.xseq + 255) % 256 then l
    else
      let e := timexEval (txT1 r) (txT2 r) (txTx r) (l.stampIn b n.toNat)
      let l := { l with time := { l.time with
        peers := Tab.set l.time.peers k peer0 (p.accept e.1 e.2) } }
      l.checkBuoys b

/-! ### The buoy -/

/-- What an accepted REQ does to fleet time (R121, R112, R114): the receive stamp that its RSP reports. -/
def Live.takeReq (l : Live) (b : Build) (r : Rec) : Live × Word :=
  let t2 := l.stampIn b 0
  let lock := bit (wordAt r.body 0) 24
  let l := { l with time := { l.time with lanLock := bit (wordAt r.body 0) 25 } }
  if l.time.state = .free then
    let e := ftDiff (txTx r) t2
    let l := { l with time := { l.time with
      trunk := some (l.time.trunk.getD (r.src.toNat / 256)) } }
    let l := (l.ftStep b e).setTState .acquire
    (l.when lock fun l => l.enterLocked b, txTx r)
  else
    let c := txCorr r
    let step := decide (l.get b F.TIME_CFG_STEP_THR < c.natAbs)
    let l := if c = 0 then l else { l with time := { l.time with ofs := c } }.correct b c
    let l := if lock then l.enterLocked b
      else if l.time.state = .locked then l.enterHoldover b 2 else l
    (l, if step then t2 + BitVec.ofInt 32 c else t2)

/-- The RSP to a REQ (R117, Table 4.3). -/
def Live.sendRsp (l : Live) (b : Build) (r : Rec) (t2 : Word) : Live :=
  let loc := l.boot.st.idLocal.toNat
  l.create b (mkRec l b 0x0E b.mgmtStream l.ft
    [packW [(0, 2), (8, txSeq r), (16, loc)], packW [(32, t2.toNat)],
     packW [(32, (txTx r).toNat)], 0])

/-- A TIMEX record at a buoy that Table 10.2 counts under KIND: one of a KIND that Table 4.3 does not have, or a
REQ for another buoy. A RSP, and a record that is not four body words long, have no count there: they are dropped
uncounted (log entry 123). -/
def timexStray (l : Live) (r : Rec) : Bool :=
  isTimex r && decide ((txKind r ≠ 1 ∧ txKind r ≠ 2) ∨ (txKind r = 1 ∧ txDst r ≠ l.boot.st.idLocal.toNat))

/-- TIMEX_REQ (R117, R121): a record that passed the checks of R74 arrives at a buoy. A poisoned one is dropped
without a RSP (R433). -/
def execTimexReq (r : Rec) (s : State) : Host.Outcome State Fault Refusal :=
  s.runAwake fun b l =>
    if b.lantern ∨ r.ty ≠ 0x0E then l
    else if timexStray l r then l.bump b F.FAB_RX_BAD_KIND
    else if r.poison ∨ !isTimex r ∨ txKind r ≠ 1 then l
    else
      let x := l.takeReq b r
      x.1.sendRsp b r x.2

end Sys2Proof.Machine
end

