-- ==== Sys2Proof/Machine/Links.lean ====
section
/-! DEFINITION. The link layer of a lantern: bringing a link up and taking it down, units, credits, retry,
what a link sends next, and what becomes of a unit that arrives (spec/11 R268 to R294). -/

namespace Sys2Proof.Machine

/-! ### Units (R275, R276) -/

/-- Flits of a unit whose body has `n` words. -/
def flitsOf (n : Nat) : Nat := (8 * n + 8 + 31) / 32

/-- LINK cycles that a flit takes on link `n` (R269). -/
def Live.cyc (l : Live) (b : Build) (n : Nat) : Nat := 1 + l.get b F.LNK_ROLE_ONE_LANE n

/-- The LCRC of a body and the low half of its tail. -/
def lcrcOf (body : List DWord) (tail : DWord) : Nat :=
  (crcBytes (body.flatMap wordBytes ++ (wordBytes tail).take 4)).toNat

/-- A tail (Table 11.2). -/
def mkTail (fseq sq cls loc arm : Nat) (body : List DWord) : DWord :=
  let lo := [(0, fseq), (10, sq), (11, cls), (13, loc), (21, arm)]
  packW (lo ++ [(32, lcrcOf body (packW lo))])

def tailFseq (t : DWord) : Nat := fld t 0 10
def tailSq (t : DWord) : Bool := bit t 10
def tailClass (t : DWord) : Nat := fld t 11 2
def tailLoc (t : DWord) : Nat := fld t 13 8
def tailArm (t : DWord) : Nat := fld t 21 8

/-- The link check of a received unit holds. -/
def goodUnit (u : RxUnit) : Bool := decide (fld u.tail 32 32 = lcrcOf u.body u.tail)

/-! ### A link goes down (R272, R291, R294) -/

/-- The place of a list that `f` does not hold at any more: behind the last element for which it does. -/
def placeBehind {α : Type} (f : α → Bool) (xs : List α) : Nat :=
  xs.length - (xs.reverse.findIdx? f).getD xs.length

/-- GAP record `g` takes its place in the order of its stream among the records that wait for queue `q`, or at
their producers for it: behind all that its stream has before it, so that no record overtakes one of lower SEQ
(R48). -/
def Live.gapInOrder (l : Live) (b : Build) (q : Nat) (g : Rec) : Live :=
  let prior := fun (x : Rec) => decide (routeKey x = routeKey g) && seqLater g.seq x.seq
  let later := fun (x : Rec) => decide (routeKey x = routeKey g) && seqLater x.seq g.seq
  let waits := placeBehind (fun (e : Nat × Rec) => decide (e.1 = q) && prior e.2) l.created
  let xs := (l.que q).recs
  match xs.findIdx? fun y => later y.r with
  | some i =>
    if waits = 0 then (l.updQue q fun x => x.putIn (l.midPages b q) i g l.ft).settleQue b q
    else { l with created := l.created.take waits ++ (q, g) :: l.created.drop waits }
  | none =>
    let at_ := if waits ≠ 0 then waits
      else (l.created.findIdx? fun e => decide (e.1 = q) && later e.2).getD l.created.length
    { l with created := l.created.take at_ ++ (q, g) :: l.created.drop at_ }

/-- The queue in which the records of a stream wait that leaves on link `n`: the lantern's own, the transit queue
that holds the stream, or the one of link `n` itself. -/
def Live.queueFor (l : Live) (b : Build) (n : Nat) (r : Rec) : Nat :=
  if r.src = l.src b then l.queueOf b r.stream.toNat
  else match l.ques.find? fun e => decide (e.1 < 1024) && e.2.recs.any fun y => decide (routeKey y.r = routeKey r) with
    | some e => e.1
    | none => 33 * n

/-- What a CTL record that is lost on link `n` leaves: a GAP record on the same path, in the order of its stream; a
command leaves nothing, as its forward entry times out. -/
def Live.ctlLost (l : Live) (b : Build) (n dest : Nat) (cause : Nat) (r : Rec) : Live :=
  if isCmd r then l
  else if l.role b n = 2 then l.toBuoy b dest (l.gapOf b r cause)
  else l.gapInOrder b (l.queueFor b n r) (l.gapOf b r cause)

/-- The GAP record of lost record `r` at the front of queue `q`, ahead of what the queue holds. -/
def Live.gapFront (l : Live) (b : Build) (q : Nat) (r : Rec) (cause : Nat) : Live :=
  let g := l.gapOf b r cause
  let l := l.bump b F.QUE_STAT_LOST q
  let joins := fun (h : QRec) => decide (h.r.ty = 0x0A ∧ routeKey h.r = routeKey g ∧
    fld (wordAt h.r.body 0) 0 32 = (g.seq + 1).toNat)
  let longer := fun (h : QRec) =>
    let n := fld (wordAt h.r.body 0) 32 32 + fld (wordAt g.body 0) 32 32
    let body := packW [(0, fld (wordAt g.body 0) 0 32), (32, n)] :: h.r.body.drop 1
    { h with r := { h.r with body := body } }
  let l := l.updQue q fun x => match x.recs with
    | h :: t => if joins h then { x with recs := longer h :: t, head := none }
      else x.putIn (l.midPages b q) 0 g l.ft
    | [] => x.putIn (l.midPages b q) 0 g l.ft
  l.settleQue b q

/-- The loss of an unacknowledged unit of link `n` that went down. -/
def Live.unitLost (l : Live) (b : Build) (n : Nat) (u : TxUnit) : Live :=
  match u.r, tailClass u.tail with
  | some r, 0 => l.ctlLost b n (tailLoc u.tail) 5 r
  | some r, 2 =>
    if isCmd r then l
    else l.gapFront b (if u.src < 32 then 32 * u.src + n else l.queueOf b r.stream.toNat) r 5
  | some r, _ => l.skip r
  | none, _ => l

/-- Every record of queue `q` becomes a GAP record in place. -/
def Live.gapAll (l : Live) (b : Build) (q cause : Nat) : Nat → Live
  | 0 => l
  | k + 1 =>
    match oldestRec (fun _ => true) 0 (l.que q).recs with
    | some i => (l.discardAt b q i cause).gapAll b q cause k
    | none => l

/-- A unit that waits as CTL is a control message. -/
def LinkItem.isCtl (i : LinkItem) : Bool :=
  match i.r, i.body with
  | none, h :: _ => decide (fld h 8 8 = 2)
  | _, _ => false

/-- Link `n` is DOWN: what was sent and not acknowledged and what waited for this link is lost. Control
messages and plan units that have not started wait on. -/
def Live.linkReset (l : Live) (b : Build) (n : Nat) : Live :=
  let k := l.link n
  let l := l.updLink n fun k => { link0 with
    fails := k.fails, rr := k.rr, obs := k.obs, loads := k.loads, pln := k.pln,
    ctl := k.ctl.filter LinkItem.isCtl }
  let l := (List.range 32).foldl (fun l i => l.gapAll b (32 * i + n) 5 (l.que (32 * i + n)).recs.length) l
  let ctl := k.unacked.filter fun u => decide (tailClass u.tail = 0)
  let fwd := k.unacked.filter fun u => decide (tailClass u.tail = 2)
  let pln := k.unacked.filter fun u => decide (tailClass u.tail = 1)
  let l := (ctl ++ pln).foldl (fun l u => l.unitLost b n u) l
  let l := k.ctl.foldl (fun l i => match i.r with
    | some r => l.ctlLost b n i.dest 5 r
    | none => l) l
  let l := fwd.reverse.foldl (fun l u => l.unitLost b n u) l
  l.readsLost b n

/-- Link `n` goes DOWN under R272: `why` is 0 for the lanes, 1 for its enable, 2 for its replays. -/
def Live.linkDown (l : Live) (b : Build) (n why : Nat) : Live :=
  let st := (l.link n).st
  if st = .down then l
  else
    let l := l.linkReset b n
    if st = .up then (l.bump b F.LNK_STAT_LINK_FAIL n).logE b 0x0902 3 [n, why] else l

/-! ### Roles and bringing a link up (R268 to R271) -/

/-- A plan in ARMING, ARMED or RUNNING names link `n` (R268). -/
def Live.linkNamed (l : Live) (n : Nat) : Bool :=
  l.plans.any fun e => e.2.active && (imgLinks e.2.image).contains n

/-- A PEER link with DIR 6 or 7. -/
def Live.badDir (l : Live) (b : Build) (n : Nat) : Bool :=
  decide (l.role b n = 1 ∧ 6 ≤ l.get b F.LNK_ROLE_DIR n)

/-- A write to LNK_ROLEn (R268). -/
def Live.writeRole (l : Live) (b : Build) (n : Nat) (v : Word) : Live :=
  let r := v.toNat % 4
  let o := v.toNat / 4 % 2
  let d := v.toNat / 8 % 8
  if l.role b n = r ∧ l.get b F.LNK_ROLE_ONE_LANE n = o ∧ l.get b F.LNK_ROLE_DIR n = d then l
  else if l.linkNamed n then l.put b F.LNK_STAT_ROLE_REJ 1 n
  else
    let l := l.linkReset b n
    let l := ((l.put b F.LNK_ROLE_ROLE r n).put b F.LNK_ROLE_ONE_LANE o n).put b F.LNK_ROLE_DIR d n
    if l.badDir b n then l.put b F.LNK_STAT_ROLE_REJ 1 n else l

/-- An event of link port `n` of a lantern that is awake. -/
def State.onLink (s : State) (n : BitVec 5) (f : Build → Nat → Live → Live) :
    Host.Outcome State Fault Refusal :=
  s.runAwake fun b l => if b.buoy then l else f b n.toNat l

/-- RETRAIN_TIMER (R270): the retrain interval of a link in DOWN has passed. -/
def execRetrainTimer (n : BitVec 5) (s : State) : Host.Outcome State Fault Refusal :=
  s.onLink n fun b n l =>
    if (l.link n).st ≠ .down ∨ l.role b n = 0 ∨ !l.flag b F.UNIT_EN_LNK_LNK 0 n then l
    else if l.badDir b n then l.put b F.LNK_STAT_ROLE_REJ 1 n
    else l.updLink n fun k => { k with st := .training }

/-- LANES_UP (R270, R271): INIT, with the counters at their start. -/
def execLanesUp (n : BitVec 5) (s : State) : Host.Outcome State Fault Refusal :=
  s.onLink n fun _ n l =>
    if (l.link n).st ≠ .training then l
    else l.updLink n fun k => { k with
      st := .init, fails := 0, txNext := 0, unacked := [], replay := 0, replays := 0, sentCtl := 0,
      sentFwd := 0, peerCtl := 0, peerFwd := 0, rxExp := 0, ack := 0x3FF, freedCtl := 256,
      freedFwd := 1536, owed := 0, statusDue := true, statusAt := none, nakDue := false,
      resync := false }

/-- TRAINING_TIMEOUT (R270): logged on the first of consecutive failures. -/
def execTrainingTimeout (n : BitVec 5) (s : State) : Host.Outcome State Fault Refusal :=
  s.onLink n fun b n l =>
    let k := l.link n
    if k.st ≠ .training then l
    else
      let l := l.updLink n fun k => { k with st := .down, fails := k.fails + 1 }
      let l := l.bump b F.LNK_STAT_TRAIN_FAIL n
      if k.fails = 0 then l.logE b 0x0901 2 [n] else l

/-- INIT_TIMEOUT (R271). -/
def execInitTimeout (n : BitVec 5) (s : State) : Host.Outcome State Fault Refusal :=
  s.onLink n fun b n l =>
    if (l.link n).st ≠ .init then l
    else (l.linkReset b n).bump b F.LNK_STAT_TRAIN_FAIL n

/-- STATUS_REPEAT (R271, R282). -/
def execStatusRepeat (n : BitVec 5) (s : State) : Host.Outcome State Fault Refusal :=
  s.onLink n fun _ n l =>
    if (l.link n).st ≠ .init then l else l.updLink n fun k => { k with statusDue := true }

/-- LANES_DOWN (R272). -/
def execLanesDown (n : BitVec 5) (s : State) : Host.Outcome State Fault Refusal :=
  s.onLink n fun b n l => l.linkDown b n 0

/-! ### Retry (R283) -/

/-- A replay begins, of whatever is unacknowledged; after 16 without progress of ACK the link fails. -/
def Live.startReplay (l : Live) (b : Build) (n : Nat) : Live :=
  let k := l.link n
  if 16 ≤ k.replays then l.linkDown b n 2
  else
    (l.bump b F.LNK_STAT_REPLAYS n).updLink n fun k => { k with
      replay := k.unacked.length, replays := k.replays + 1 }

/-- REPLAY_TIMEOUT (R283). -/
def execReplayTimeout (n : BitVec 5) (s : State) : Host.Outcome State Fault Refusal :=
  s.onLink n fun b n l => if (l.link n).st ≠ .up ∨ (l.link n).unacked = [] then l else l.startReplay b n

/-- An ACK covers a unit. -/
def covers (ack f : Nat) : Bool := decide ((ack + 1024 - f % 1024) % 1024 < 512)

/-- The STATUS fields taken by link `n` (R279, R283). -/
def Link.take (k : Link) (ack ctl fwd : Nat) : Link :=
  let rest := k.unacked.filter fun u => !covers ack u.fseq
  { k with unacked := rest, peerCtl := ctl, peerFwd := fwd, replay := min k.replay rest.length,
           replays := if rest.length < k.unacked.length then 0 else k.replays }

/-- The body of a STATUS unit. -/
def isStatus (ws : List DWord) : Bool := decide (fld (wordAt ws 0) 0 16 = 0x0100)

/-- The receiver takes flits: INIT or UP, and no resynchronisation. -/
def Live.hears (l : Live) (n : Nat) : Bool :=
  let k := l.link n
  decide (k.st = .init ∨ k.st = .up) && !k.resync

/-- STATUS_RECEIVE (R271, R277, R281, R283). -/
def execStatusReceive (n : BitVec 5) (u : RxUnit) (s : State) : Host.Outcome State Fault Refusal :=
  s.onLink n fun b n l =>
    if !l.hears n ∨ !isStatus u.body then l
    else if u.cut then l.frameErr b n
    else if !goodUnit u then l.bump b F.LNK_ERR_LCRC n
    else if u.body.length ≠ 3 ∨ tailSq u.tail ∨ tailClass u.tail = 3 ∨
        (tailClass u.tail = 1 ∧ l.role b n = 2) then l.frameErr b n
    else
      let w0 := wordAt u.body 0
      let w1 := wordAt u.body 1
      let l := l.updLink n fun k => (k.take (fld w0 17 10) (fld w1 0 16) (fld w1 16 16))
      let l := (l.updLink n fun k =>
        if k.st = .init then { k with st := .up, statusDue := true } else k).releaseBuoys b
      if bit w0 16 then l.startReplay b n else l

/-! ### Plan positions (R242, R286 to R289) -/

/-- The slot entries of an image on link `n`: direction 0 transmits, 1 receives. -/
def slotsOn (g : Image) (n dir : Nat) : List SlotEnt :=
  (imgSlots g).filter fun s => decide (s.link = n ∧ s.dir = dir)

/-- The cut count of epoch `e` of a running plan, as far as it is known. -/
def Plan.cutAt (x : Plan) (e : Nat) : Option Word :=
  match x.oc with
  | some o =>
    if o.epoch = e then some o.t
    else if imgPeriod x.image ≠ 0 ∧ epochLater o.epoch e then
      some (o.t - BitVec.ofNat 32 (((o.epoch + 65536 - e) % 65536) * imgPeriod x.image))
    else none
  | none => none

/-- FT at the start of a slot entry's run. -/
def slotFrom (t : Word) (s : SlotEnt) : Word := t + BitVec.ofNat 32 (500 * s.first)

/-- FT at the end of a slot entry's run. -/
def slotTo (t : Word) (s : SlotEnt) : Word := t + BitVec.ofNat 32 (500 * (s.first + s.count))

/-- FT is inside the run of a slot entry. -/
def inSlot (ft t : Word) (s : SlotEnt) : Bool := reached ft (slotFrom t s) && !reached ft (slotTo t s)

/-- Phase A of the open epoch has been sent here, and phase B has. -/
def OpenCut.bothSent (o : OpenCut) (g : Image) : Bool :=
  decide (o.stage = 4) && (!hasB g o.epoch || decide (o.bStage = 4))

/-- The plan has sent every unit that it sends on link `n` for `use` in its open epoch (R286). -/
def Live.useDone (l : Live) (b : Build) (p n use : Nat) (o : OpenCut) : Bool :=
  let x := l.plan p
  let g := x.image
  let waits := (l.link n).pln.any fun i => match i.plan with
    | some (q, _, u, e) => decide (q = p ∧ u = use ∧ e = o.epoch)
    | none => false
  !waits &&
  (if use = 0 then decide (upLink g ≠ some n ∨ o.stage = 4)
   else if use = 1 then decide (upLink g ≠ some n ∨ o.bStage = 4) || !hasB g o.epoch
   else if use = 2 then
     decide (n ∉ imgBcastLinks g ∨ imgNStrag g = 0 ∨ o.thr.isSome)
   else !l.isRoot b x || !((imgStreams g).any fun s => decide (s.link = n)) || o.bothSent g)

/-- The cut counts of a running plan whose positions still lie ahead: the open epoch's, the next of a
periodic plan, and those commanded. -/
def Plan.nextCuts (x : Plan) : List Word :=
  (if imgPeriod x.image = 0 then [] else [x.nextT]) ++ x.pendCuts.map (·.1)

/-- A CTL or FWD unit of `dur` cycles does not run into a slot entry's run from `t`. -/
def clearOf (ft t : Word) (dur : Nat) (s : SlotEnt) : Bool :=
  reached ft (slotTo t s) || decide ((dur : Int) - 1 ≤ ftDiff (slotFrom t s) ft)

/-- A CTL or FWD unit of `f` flits may start on link `n` (R286). -/
def Live.mayRun (l : Live) (b : Build) (n f : Nat) : Bool :=
  let dur := f * l.cyc b n
  l.plans.all fun e =>
    let x := e.2
    let ss := slotsOn x.image n 0
    if x.state ≠ .running ∨ l.replaying e.1 ∨ ss = [] then true
    else
      (match x.oc with
       | some o => ss.all fun s => l.useDone b e.1 n s.use o || clearOf l.ft o.t dur s
       | none => true) &&
      x.nextCuts.all fun t => ss.all fun s => clearOf l.ft t dur s

/-- A waiting plan unit may start now on link `n` (R286 step 3, R289). -/
def Live.planMayRun (l : Live) (n : Nat) (i : LinkItem) : Bool :=
  match i.plan with
  | none => false
  | some (p, q, u, e) =>
    let x := l.plan p
    let old := u = 3 ∧ (l.link n).unacked.any fun v => match v.plan with
      | some (p', _, 3, e') => decide (p' = p) && epochLater e e'
      | _ => false
    decide (x.state = .running ∧ x.armSeq = q ∧ ¬old) &&
    match x.cutAt e with
    | some t => (slotsOn x.image n 0).any fun s => decide (s.use = u) && inSlot l.ft t s
    | none => false

/-- The last transmit position of a waiting plan unit is over (R287). -/
def Live.planLate (l : Live) (n : Nat) (i : LinkItem) : Bool :=
  match i.plan with
  | none => true
  | some (p, _, u, e) =>
    match (l.plan p).cutAt e with
    | some t => ((slotsOn (l.plan p).image n 0).filter fun s => decide (s.use = u)).all fun s =>
        reached l.ft (slotTo t s)
    | none => true

/-- Plan and epoch of a waiting plan unit. -/
def LinkItem.of (i : LinkItem) : Nat × Nat := match i.plan with
  | some (p, _, _, e) => (p, e)
  | none => (0, 0)

/-- PLAN_UNIT_LATE (R287): the stream goes on with GAP_BEFORE (R51). -/
def execPlanUnitLate (n : BitVec 5) (s : State) : Host.Outcome State Fault Refusal :=
  s.onLink n fun b n l =>
    match (l.link n).pln.find? fun i => l.planLate n i with
    | none => l
    | some i =>
      let l := l.updLink n fun k => { k with pln := k.pln.erase i }
      let l := match i.r with
        | some r => l.skip r
        | none => l
      (l.bump b F.LNK_ERR_PLAN_LATE n).settle b i.of.1 i.of.2

/-! ### What a link sends next (R286) -/

/-- STATUS leaves link `n`. -/
def Live.sendStatus (l : Live) (n : Nat) : Live :=
  let k := l.link n
  let body := [packW [(8, 1), (16, b2n k.nakDue), (17, k.ack)],
    packW [(0, k.freedCtl), (16, k.freedFwd)], 0]
  (l.updLink n fun k => { k with statusDue := false, nakDue := false, statusAt := some l.ft }).emit
    (.linkTx n body (mkTail 0 0 0 0 0 body))

/-- A due STATUS may leave: 64 LINK cycles after the one before, or at once with NAK (R282). -/
def Live.statusGo (l : Live) (n : Nat) : Bool :=
  let k := l.link n
  k.nakDue || (k.statusDue && match k.statusAt with
    | some t => decide (64 ≤ (l.ft - t).toNat)
    | none => true)

/-- The retry buffer takes a unit of `f` flits (R283). -/
def Link.room (k : Link) (f : Nat) : Bool :=
  decide (k.unacked.foldl (fun a u => a + u.flits) 0 + f ≤ 1536 ∧ k.unacked.length < 511)

/-- A new sequenced unit leaves link `n` and waits for its ACK. -/
def Live.sendUnit (l : Live) (n cls loc arm : Nat) (body : List DWord) (r : Option Rec)
    (plan : Option (Nat × Nat × Nat × Nat)) (src : Nat) : Live :=
  let q := (l.link n).txNext
  let f := flitsOf body.length
  let tail := mkTail q 1 cls loc arm body
  let u : TxUnit := ⟨q, f, body, tail, r, plan, src, none⟩
  (l.updLink n fun k => { k with
    txNext := (q + 1) % 1024, unacked := k.unacked ++ [u],
    sentCtl := if cls = 0 then (k.sentCtl + f) % 65536 else k.sentCtl,
    sentFwd := if cls = 2 then (k.sentFwd + f) % 65536 else k.sentFwd }).emit (.linkTx n body tail)

/-- Credit of the peer for `f` more flits of a class (R279). -/
def creditFor (freed sent f : Nat) : Bool := decide (f ≤ (freed + 65536 - sent) % 65536)

/-- A waiting unit is read for sending: a word of its record that was read uncorrectable counts, and the record
leaves with POISON (R285, R428). -/
def Live.readItem (l : Live) (b : Build) (i : LinkItem) : Live × LinkItem :=
  match i.bad, i.r with
  | some a, some r =>
    let r := { r with poison := true }
    (l.ueSeen b 1 a, { i with r := some r, body := r.words, bad := none })
  | _, _ => (l, i)

/-- A unit is read for a replay, as `readItem`: its tail keeps all but the link check. -/
def Live.readUnit (l : Live) (b : Build) (u : TxUnit) : Live × TxUnit :=
  match u.bad, u.r with
  | some a, some r =>
    let r := { r with poison := true }
    let t := u.tail
    let tail := mkTail (tailFseq t) (b2n (tailSq t)) (tailClass t) (tailLoc t) (tailArm t) r.words
    (l.ueSeen b 1 a, { u with r := some r, body := r.words, tail := tail, bad := none })
  | _, _ => (l, u)

/-- The last unit of a phase of the plan has left when none of its KIND waits on any link. -/
def Live.planLeft (l : Live) (b : Build) (n : Nat) (i : LinkItem) : Live :=
  let p := i.of.1
  let e := i.of.2
  let kind := match i.r with
    | some r => (descOf r.body).kind
    | none => 1
  let waits := l.links.any fun k => k.2.pln.any fun j => decide (j.of = i.of) && match j.r with
    | some r => decide ((descOf r.body).kind = kind)
    | none => false
  let l := if waits then l
    else if kind = 0 then
      l.phaseALeft b p e (match i.r with | some r => (countsOf r).absent | none => 0)
        ((flitsOf i.body.length - 1) * l.cyc b n)
    else if kind = 2 then l.phaseBLeft p e
    else l
  l.settle b p e

/-- A plan unit leaves link `n`. -/
def Live.sendPln (l : Live) (b : Build) (n : Nat) (i : LinkItem) : Live :=
  let l := l.updLink n fun k => { k with pln := k.pln.erase i }
  let (l, i) := l.readItem b i
  match i.plan with
  | some (p, q, _, _) => (l.sendUnit n 1 p q i.body i.r i.plan 33).planLeft b n i
  | none => l

/-- A CTL unit leaves link `n`; a time-exchange request takes its TX stamp here (R118). -/
def Live.sendCtlUnit (l : Live) (b : Build) (n : Nat) (i : LinkItem) : Live :=
  let l := l.updLink n fun k => { k with ctl := k.ctl.erase i }
  let (l, i) := l.readItem b i
  match i.r with
  | some r =>
    if r.ty = 0x0E then
      let t := l.stampOut b n
      let r := stampTx r t
      (l.noteTx r t).sendUnit n 0 i.dest 0 r.words (some r) none 33
    else l.sendUnit n 0 (if l.role b n = 2 then i.dest else 0) 0 i.body i.r none 33
  | none =>
    let l := l.sendUnit n 0 0 0 i.body none none 33
    if i.isCtl then l.answerLeft b (fld (wordAt i.body 1) 0 8) else l

/-- The heads of the lantern's queues: queue and record. -/
def Live.headsL (l : Live) : List (Nat × QRec) :=
  l.ques.filterMap fun e => e.2.headRec.map fun r => (e.1, r)

/-- A transit queue whose records wait for a link: the link it is for is not UP, or it is the one that a GAP
record without a route waits in (R304; log entry 132). -/
def Live.strayQueue (l : Live) (q : Nat) : Bool := !l.isUp (q % 32) || decide (q / 32 = q % 32)

/-- Link `n` takes the head of transit queue `q` of a link that is not UP, or of an own queue. -/
def Live.adopted (l : Live) (b : Build) (n : Nat) (e : Nat × QRec) : Bool :=
  (decide (1024 ≤ e.1) || l.strayQueue e.1) && decide (l.chosen b e.2.r = some n)

/-- The streams whose heads turn to link `n` are noted (R294). -/
def Live.noteHeads (l : Live) (b : Build) (n : Nat) : Live :=
  (l.headsL.filter fun e => l.adopted b n e).foldl (fun l e => l.noteRoute e.2.r n) l

/-- Own records whose stamp is the older; the lower queue of equals. -/
def oldestHead : List (Nat × QRec) → Option (Nat × QRec)
  | [] => none
  | h :: t => match oldestHead t with
    | none => some h
    | some m => if 0 ≤ ftDiff m.2.stamp h.2.stamp then some h else some m

/-- The unit that source `i` has for link `n`: source 32 is the lantern's own queues. -/
def Live.sourceUnit (l : Live) (b : Build) (n i : Nat) : Option (Nat × QRec) :=
  let hs := l.headsL.filter fun e => !l.onHold e.2.r n
  if i = 32 then oldestHead (hs.filter fun e => decide (1024 ≤ e.1) && l.adopted b n e)
  else
    let mine := hs.filter fun e => decide (e.1 < 1024 ∧ e.1 / 32 = i)
    match mine.find? fun e => l.adopted b n e with
    | some e => some e
    | none => mine.find? fun e => decide (e.1 % 32 = n) && !l.strayQueue e.1

/-- The source whose turn it is on link `n`, with its unit. -/
def Live.turn (l : Live) (b : Build) (n : Nat) : Option (Nat × Nat × QRec) :=
  let rr := (l.link n).rr
  (List.range 33).findSome? fun j =>
    let i := (rr + j) % 33
    (l.sourceUnit b n i).map fun e => (i, e)

/-- The FWD unit of a source leaves link `n`. -/
def Live.sendFwd (l : Live) (b : Build) (n i q : Nat) : Live :=
  let a := l.popHead b q
  match a.2 with
  | none => l
  | some h =>
    let l := a.1.updLink n fun k => { k with rr := (i + 1) % 33 }
    let l := l.sendUnit n 2 0 0 h.r.words (some h.r) none i
    if q < 1024 then l.flushGaps b q l.created.length else l

/-- The head of queue `q` has no route and is discarded; its stream goes on with GAP_BEFORE (R51, R290, R291). -/
def Live.dropHead (l : Live) (b : Build) (q : Nat) : Live :=
  let a := l.popHead b q
  let l := (a.1.bump b F.LNK_FWD_DROP_NOROUTE).bump b F.QUE_STAT_LOST q
  match a.2 with
  | some h => l.skip h.r
  | none => l

/-- Heads of the lantern's own queues that no longer have a route are discarded, but for GAP records (R290, R291,
R304; log entry 132). -/
def Live.dropLost (l : Live) (b : Build) : Live :=
  (l.headsL.filter fun e => decide (1024 ≤ e.1 ∧ e.2.r.ty ≠ 0x0A ∧ l.waysOf b e.2.r = [])).foldl
    (fun l e => l.dropHead b e.1) l

/-- An UP link's choice after the replay, STATUS and plan units. -/
def Live.transmitFree (l : Live) (b : Build) (n : Nat) : Live :=
  let k := l.link n
  let go := fun (cls words : Nat) =>
    let f := flitsOf words
    k.room f && l.mayRun b n f &&
      (if cls = 0 then creditFor k.peerCtl k.sentCtl f else creditFor k.peerFwd k.sentFwd f)
  match k.ctl.find? fun i => !l.itemHeld n i with
  | some i =>
    if go 0 i.body.length then l.sendCtlUnit b n i
    else match l.turn b n with
      | some (i, q, h) => if go 2 h.r.words.length then l.sendFwd b n i q else l
      | none => l
  | none => match l.turn b n with
    | some (i, q, h) => if go 2 h.r.words.length then l.sendFwd b n i q else l
    | none => l

/-- A unit of a replay leaves link `n` again (R283). -/
def Live.sendAgain (l : Live) (b : Build) (n : Nat) (u : TxUnit) : Live :=
  let (l, v) := l.readUnit b u
  let again := fun (x : TxUnit) => if x.fseq = v.fseq then v else x
  (l.updLink n fun k => { k with replay := k.replay - 1, unacked := k.unacked.map again }).emit
    (.linkTx n v.body v.tail)

/-- LINK_TRANSMIT (R271, R273, R282, R283, R286): one unit boundary of link `n`. -/
def execLinkTransmit (n : BitVec 5) (s : State) : Host.Outcome State Fault Refusal :=
  s.onLink n fun b n l =>
    let k := l.link n
    if k.st = .init then (if l.statusGo n then l.sendStatus n else l)
    else if k.st ≠ .up then l
    else if k.replay ≠ 0 then
      match k.unacked[k.unacked.length - k.replay]? with
      | some u => l.sendAgain b n u
      | none => l
    else if l.statusGo n then l.sendStatus n
    else
      let rest := fun (_ : Unit) => ((l.dropLost b).noteHeads b n).transmitFree b n
      match k.pln.find? fun i => l.planMayRun n i with
      | some i => if k.room (flitsOf i.body.length) then l.sendPln b n i else rest ()
      | none => rest ()

/-! ### A unit arrives (R277, R281, R285, R288) -/

/-- A framing error by R277 in a unit other than STATUS. -/
def Live.badUnit (l : Live) (b : Build) (n : Nat) (u : RxUnit) : Bool :=
  let w0 := wordAt u.body 0
  let ty := fld w0 0 8
  let len := fld w0 16 16
  let kind := fld w0 8 8
  let body := if ty ≠ 0 then
      decide (len < 24 ∨ 40952 < len ∨ len % 8 ≠ 0 ∨ 0x10 ≤ ty ∨ len ≠ 8 * u.body.length)
    else if kind = 2 then decide (l.role b n ≠ 1 ∨ u.body.length ≠ 5)
    else if kind = 4 then
      decide (l.role b n ≠ 3 ∨ u.body.length < 2 ∨ fld w0 32 13 ≠ 8 * (u.body.length - 2))
    else true
  u.cut || body || !tailSq u.tail || decide (tailClass u.tail = 3) ||
    (decide (tailClass u.tail = 1) && decide (l.role b n = 2))

/-- The record of words whose check fails, as far as its header tells it. -/
def rawRec (ws : List DWord) : Rec :=
  let w0 := wordAt ws 0
  { ty := BitVec.ofNat 8 (fld w0 0 8), poison := false, inexact := false, gapBefore := false,
    replayed := false, partialCover := false, src := BitVec.ofNat 18 (fld w0 32 18),
    stream := BitVec.ofNat 14 (fld w0 50 14), seq := BitVec.ofNat 32 (fld (wordAt ws 1) 0 32),
    ft := BitVec.ofNat 32 (fld (wordAt ws 1) 32 32), body := (ws.drop 2).take (ws.length - 3) }

/-- The lantern consumes the record itself (R291). -/
def Live.consumed (l : Live) (b : Build) (r : Rec) : Bool :=
  decide (r.ty = 0x02 ∨ r.ty = 0x0E ∨ r.ty = 0x0F) ||
  (decide (r.ty = 0x03) && decide (r.src.toNat / 256 = l.trunk b ∧ (descOf r.body).stage = 0x10)) ||
  decide (copyDst r = some (l.trunk b))

/-- A non-plan record that goes on: it enters the transit queue of its receiving link and the link chosen
for it, with GAP_BEFORE where the lantern has lost the record before it; none without a route, but that a GAP
record waits for one (R51, R291, R304; log entry 132). -/
def Live.forward (l : Live) (b : Build) (n : Nat) (r : Rec) : Live :=
  let ws := l.waysOf b r
  match ws[wayKey r % ws.length]? with
  | none =>
    if r.ty = 0x0A then l.transit b (33 * n) r
    else
      let l := l.bump b F.LNK_FWD_DROP_NOROUTE
      if isCmd r then l else l.skip r
  | some c =>
    let (l, r) := l.resume r
    match l.chosen b r with
    | some c => (l.noteRoute r c).transit b (32 * n + c) r
    | none => l.transit b (32 * n + c) r

/-- A reply to a command that this lantern forwarded travels on the link of its entry (R292). -/
def Live.replyLink (l : Live) (r : Rec) : Option Nat :=
  let i := fld (wordAt r.body 0) 32 32
  (l.cmd.fwd.find? fun e => decide (e.idx = i)).bind fun e => e.origin.bind fun o => match o.port with
    | .link m => some m.toNat
    | _ => none

/-- A record with a good link check and a bad CRC-32C (R285.3): counted, logged, and replaced on its path
by a GAP record unless it is a plan record or a command. -/
def Live.badRecord (l : Live) (b : Build) (n : Nat) (u : RxUnit) : Live :=
  let r := rawRec u.body
  let l := (l.bump b F.LNK_ERR_RCRC n).logE b 0x0903 3 [n, 2 ^ 32 * fld (wordAt u.body 0) 32 32]
  if tailClass u.tail = 1 then l
  else if r.ty = 0x0F then
    match (if routeKind r = 2 then l.replyLink r else none) with
    | some m => l.gapInOrder b (l.queueFor b m r) (l.gapOf b r 3)
    | none => l
  else if l.consumed b r then l
  else l.forward b n (l.gapOf b r 3)

/-- The use of a plan record that a lantern receives (Table 9.5). -/
def useOf (r : Rec) : Nat := if r.ty = 0x04 then 2 else if (descOf r.body).kind = 0 then 0 else 1

/-- A PLAN unit lies inside a receive position of its plan (R242, R288). -/
def Live.inPosition (l : Live) (b : Build) (n p arm flits : Nat) (r : Rec) : Bool :=
  let x := l.plan p
  let ss := (slotsOn x.image n 1).filter fun s => decide (s.use = useOf r)
  decide (x.state = .running ∧ x.armSeq = arm) &&
  match x.cutAt (descOf r.body).epoch with
  | some t =>
    (ss.any fun s =>
      decide (0 ≤ ftDiff (l.ft - BitVec.ofNat 32 ((flits - 1) * l.cyc b n)) (slotFrom t s))) &&
    ss.any fun s => decide (ftDiff l.ft (slotTo t s) ≤ 500)
  | none => false

/-- A PLAN-class record arrives: its source is observed, and outside a receive position or from an
unexpected lantern it is discarded (R242, R288, R459). -/
def Live.planRecord (l : Live) (b : Build) (n : Nat) (u : RxUnit) (r : Rec) : Live :=
  let t := r.src.toNat / 256
  let bad := decide (l.expected b n ≠ some t)
  let l := l.updLink n fun k => { k with obs := some t }
  let l := l.subject (1, n) bad fun l => l.logE b 0x1106 2 [n, t]
  if bad ∨ !l.inPosition b n (tailLoc u.tail) (tailArm u.tail) (flitsOf u.body.length) r then
    l.bump b F.SCH_ERR_SLOT_DISCARD
  else l

/-- What series `x` takes from record `r` of its stream (Table 13.1, SKIND 1); a poisoned record is one fill (Table
18.2). -/
def copyVals (x : Option Word) (pos : Nat) (r : Rec) : List SVal :=
  if r.ty = 0x0A ∧ r.poison then [.fill 1]
  else if r.ty = 0x0A then [.fill (fld (wordAt r.body 0) 32 32)]
  else
    let before := if !r.gapBefore then 0
      else if r.seq = 0 then 1
      else match x with
        | some q => (r.seq - q).toNat - 1
        | none => 0
    let v := fld (wordAt r.body (1 + 2 * pos)) 0 48
    let val := if r.poison ∨ fld (wordAt r.body 0) 0 7 ≤ pos then SVal.fill 1
      else if fld (wordAt r.body (2 + 2 * pos)) 10 2 = 0 then .int v false
      else .int (sInt 48 v) false
    (if before = 0 then [] else [.fill before]) ++ [val]

/-- A record of one of the lantern's own buoys passes: series of SKIND 1 copy it (R314). -/
def Live.copySeries (l : Live) (b : Build) (r : Rec) : Live :=
  let hit := fun (skind src : Nat) =>
    decide (skind = 1 ∧ src % 256 = r.src.toNat % 256 ∧ src / 256 % 2 ^ 14 = r.stream.toNat)
  if r.src.toNat / 256 ≠ l.trunk b ∨ (r.ty ≠ 0x01 ∧ r.ty ≠ 0x0A) then l
  else
    let l := (l.ser.sers.filter fun e => e.2.on &&
        hit (l.get b F.SER_CFG_SKIND e.1) (l.serSrc b e.1)).foldl (fun l e =>
      let vs := copyVals e.2.lastSeq (l.serSrc b e.1 / 2 ^ 22 % 128) r
      let l := { l with ser := { l.ser with events := l.ser.events ++ vs.map fun v => (e.1, v) } }
      l.updSer e.1 fun x => { x with lastSeq := some r.seq }) l
    match l.flt.rest with
    | some q =>
      let n := (q.defs.filter fun e => decide (e.1 ∉ q.restored) &&
        hit (e.2.cfg.toNat / 8192 % 8) e.2.src.toNat).length
      l.bump b F.REST_STAT_DISCARD 0 (n * if r.ty = 0x0A then fld (wordAt r.body 0) 32 32 else 1)
    | none => l

/-- Graphs and dumps of the lantern's buoys are kept while a hang dump waits for them (R409). -/
def Live.keepGraph (l : Live) (b : Build) (r : Rec) : Live :=
  match l.trace.hang with
  | some h =>
    if (r.ty = 0x0B ∨ r.ty = 0x0C) ∧ r.src.toNat / 256 = l.trunk b then
      { l with trace := { l.trace with
        hang := some { h with graphs := h.graphs ++ [(r.src.toNat % 256, r)] } } }
    else l
  | none => l

/-- A non-plan record arrives with a good CRC-32C. -/
def Live.passRecord (l : Live) (b : Build) (n : Nat) (r : Rec) : Live :=
  let l := if l.role b n = 2 then (l.copySeries b r).keepGraph b r else l
  if l.consumed b r then l else l.forward b n r

/-- A unit is accepted: FSEQ and ACK move on, and its space is freed (R279, R281). -/
def Live.acceptUnit (l : Live) (n : Nat) (u : RxUnit) (stalled : Bool) : Live :=
  let f := flitsOf u.body.length
  l.updLink n fun k => { k with
    rxExp := (k.rxExp + 1) % 1024, ack := tailFseq u.tail, statusDue := true,
    freedCtl := if tailClass u.tail = 0 then (k.freedCtl + f) % 65536 else k.freedCtl,
    freedFwd := if tailClass u.tail = 2 ∧ !stalled then (k.freedFwd + f) % 65536 else k.freedFwd,
    owed := if tailClass u.tail = 2 ∧ stalled then k.owed + f else k.owed }

/-- What an accepted unit holds. -/
def Live.takeUnit (l : Live) (b : Build) (n : Nat) (u : RxUnit) : Live :=
  if fld (wordAt u.body 0) 0 8 = 0 then l
  else match recOfWords u.body with
    | none => l.badRecord b n u
    | some r => if tailClass u.tail = 1 then l.planRecord b n u r else l.passRecord b n r

/-- A LOADDAT whose RTAG is not that of the oldest read outstanding (R278). -/
def Live.wrongTag (l : Live) (n : Nat) (u : RxUnit) : Bool :=
  let w := wordAt u.body 0
  decide (fld w 0 16 = 0x0400) && match (l.link n).loads with
    | e :: _ => decide (e.tag.toNat ≠ fld w 16 8)
    | [] => true

/-- The receiver gives up its place in the flits and asks for a replay (R281). -/
def Live.resyncAt (l : Live) (n : Nat) : Live :=
  l.updLink n fun k => { k with resync := true, nakDue := true }

/-- UNIT_RECEIVE (R277, R281, R284, R285). A LOADDAT with a wrong RTAG is left to LOADDAT_RECEIVE. -/
def execUnitReceive (n : BitVec 5) (u : RxUnit) (s : State) : Host.Outcome State Fault Refusal :=
  s.onLink n fun b n l =>
    let k := l.link n
    if !l.hears n ∨ isStatus u.body then l
    else if l.badUnit b n u then l.frameErr b n
    else if !goodUnit u then (l.bump b F.LNK_ERR_LCRC n).resyncAt n
    else
      let f := tailFseq u.tail
      let back := (k.rxExp + 1024 - f) % 1024
      if 1 ≤ back ∧ back ≤ 512 then l.updLink n fun k => { k with statusDue := true }
      else if back ≠ 0 then l.resyncAt n
      else if l.wrongTag n u then l
      else
        let l := l.takeUnit b n u
        l.acceptUnit n u (l.created.any fun e => decide (e.1 < 1024 ∧ e.1 / 32 = n))

/-- LINK_RESYNCHRONISATION_END (R281). -/
def execLinkResynchronisationEnd (n : BitVec 5) (s : State) : Host.Outcome State Fault Refusal :=
  s.onLink n fun _ n l => l.updLink n fun k => { k with resync := false }

/-! ### Age (R294) -/

/-- The age limit in ns. -/
def Live.ageMax (l : Live) (b : Build) : Nat := 10000 * max 1 (l.get b F.LNK_CFG_AGE_MAX)

/-- A record that has waited since `t` is too old. -/
def Live.tooOld (l : Live) (b : Build) (t : Word) : Bool := decide (l.ageMax b < (l.ft - t).toNat)

/-- The first CTL record of link `n` that is too old leaves; a GAP record takes its place unless it was a
command. -/
def Live.ageCtl (l : Live) (b : Build) (n : Nat) : Live :=
  let old := fun (i : LinkItem) => match i.r with
    | some r => decide (r.ty ≠ 0x0A) && l.tooOld b i.stamp
    | none => false
  let cs := (l.link n).ctl
  let at_ := cs.findIdx old
  match cs[at_]? with
  | some ⟨_, some r, q, d, t, _⟩ =>
    let l := l.bump b F.LNK_FWD_DROP_AGED
    let g := l.gapOf b r 4
    let tray := decide (n = waitLink ∨ l.role b n = 2)
    let put : List LinkItem := if tray && !isCmd r then [⟨g.words, some g, q, d, t, none⟩] else []
    let l := l.updLink n fun k => { k with ctl := cs.take at_ ++ put ++ cs.drop (at_ + 1) }
    if tray ∨ isCmd r then l else l.gapInOrder b (l.queueFor b n r) g
  | _ => l

/-- RECORD_AGED (R294). -/
def execRecordAged (a : AgeAt) (s : State) : Host.Outcome State Fault Refusal :=
  s.runAwake fun b l =>
    if b.buoy then l
    else match a with
      | .ctl n =>
      let m := l.ageCtl b n.toNat
      if m = l then l.ageCtl b waitLink else m
      | .queue q =>
        let q := q.toNat
        match oldestRec (fun r => l.tooOld b r.stamp) 0 (l.que q).recs with
        | some i => (l.discardAt b q i 4).bump b F.LNK_FWD_DROP_AGED
        | none => l

end Sys2Proof.Machine
end

