-- ==== Sys2Proof/Machine/Commands.lean ====
section
/-! DEFINITION. Commands of the block itself and the traffic of packets: NOP, CAL_WRITE, PULSE_ARM, unknown
opcodes, the word timer, replies at MGMT, and the forwarding of in-band commands and replies (spec/02 R74;
spec/04 R129; spec/05 R145; spec/06 R154 to R167). -/

namespace Sys2Proof.Machine

/-! ### NOP and unknown opcodes -/

/-- NOP (Table 6.7). -/
def execNop (p : Packet) (s : State) : Host.Outcome State Fault Refusal :=
  s.run fun b l => l.command b (.nop p) (opRow 0x01 true true 0 0 0) p fun l r => l.reply b r 0 p.a

/-- The opcodes of Table 6.6. -/
def opcodes : List Nat :=
  [0x01, 0x02, 0x08, 0x09, 0x10, 0x11, 0x12, 0x13, 0x14, 0x18, 0x20, 0x21, 0x22, 0x23, 0x28, 0x29, 0x2A,
   0x30, 0x31, 0x38, 0x40, 0x48, 0x49, 0x4A, 0x50, 0x58, 0x60, 0x61, 0x70]

/-- UNKNOWN_OPCODE (R158): checks 1 and 2, then E_OPCODE. -/
def execUnknownOpcode (opc : BitVec 8) (p : Packet) (s : State) : Host.Outcome State Fault Refusal :=
  s.run fun b l =>
    if opc.toNat ∈ opcodes then l
    else l.packet b (.unknownOpcode opc p) p fun l r =>
      if p.words.length ≠ p.len.toNat then l.reply b r eLen
      else if p.pchk ∧ !p.checks opc.toNat then
        (l.bump b F.CMD_STAT_CHK_FAIL).reply b r eCheck
      else l.reply b r eOpcode

/-! ### Calibration words (R145, R167) -/

/-- A user correction written: a baseline word moves the code only while trim holds it and no acquisition
has completed since the last reset (R145). -/
def Live.writeCalu (l : Live) (b : Build) (i : Nat) (v : Word) : Live :=
  if !calUsable b i then l
  else
    let l := { l with cal := { l.cal with calu := Tab.set l.cal.calu i 0 v } }
    if (i = 1 ∨ i = 2) ∧ l.trimSrc b = none ∧ !l.clk.acqDone then
      { l with clk := { l.clk with code := l.baseline b } }
    else l

/-- CAL_WRITE (R145, R167). -/
def execCalWrite (p : Packet) (s : State) : Host.Outcome State Fault Refusal :=
  s.run fun b l => l.command b (.calWrite p) (opRow 0x50 true true 2 1 1) p fun l r =>
    let i := p.aBits 0 8
    if !calUsable b i then l.reply b r eRange
    else (l.writeCalu b i (BitVec.ofNat 32 (fld (wordAt p.data 0) 0 32))).reply b r 0

/-! ### Pulse outputs (R126, R128, R129) -/

/-- PULSE_ARM values that R129 does not allow. -/
def pulseBad (per w : Nat) : Bool :=
  decide (w < 8 ∨ 2 ^ 24 ≤ w ∨ (per ≠ 0 ∧ (per < 1000 ∨ per < w + 8)))

/-- PULSE_ARM (R128, R129): while the output is high its effect is deferred to the fall. -/
def execPulseArm (p : Packet) (s : State) : Host.Outcome State Fault Refusal :=
  s.run fun b l => l.command b (.pulseArm p) (opRow 0x70 true true 2 2 2) p fun l r =>
    let n := p.aBits 0 3
    let t := BitVec.ofNat 32 (fld (wordAt p.data 0) 0 32)
    let per := fld (wordAt p.data 0) 32 32
    let w := fld (wordAt p.data 1) 0 24
    let off := decide (w = 0)
    let mine := l.holdsCmp (.pulse n) || (match (l.pulse n).deferred with
      | some d => decide (d.2.2 ≠ 0)
      | none => false)
    match firstErr [
      (!l.pulseOn b, eGated),
      (decide (b.pulses ≤ n) || (!off && pulseBad per w), eRange),
      (!off && !l.timed, eState),
      (!off && !l.inWindow t, eTime),
      (!off && !mine && !l.cmpFree b, eSlot)] with
    | some e => l.reply b r e
    | none =>
      let l := if (l.pulse n).level then l.updPulse n fun x => { x with deferred := some (t, per, w) }
        else if off then l.pulseDisarm n
        else l.pulseArm n t per w
      l.reply b r 0

/-! ### The management port (R160, R162) -/

/-- WORD_TIMEOUT (R162): the partial packet, with its header's TAG and PCHK, and its later words are discarded.
It is answered E_LEN, behind a command in execution on the port as R159 asks: a packet whose words differ from
its LEN. No packet arrives while the receive buffer holds a whole one (R160). -/
def execWordTimeout (h : CutOff) (s : State) : Host.Outcome State Fault Refusal :=
  s.runAwake fun b l =>
    let p : Packet := ⟨.mgmt, 0, 0, false, 0, h.tag, 1, h.pchk, 0, 0, []⟩
    if l.get b F.CMD_CFG_WTMO = 0 ∨ !l.mgmtRxReady b then l
    else (l.bump b F.CMD_STAT_WTMO_CNT).packet b (.nop p) p fun l r => l.reply b r eLen

/-- MGMT_REPLY_SEND (R150, R160): the oldest reply leaves. -/
def execMgmtReplySend (s : State) : Host.Outcome State Fault Refusal :=
  s.run fun _ l =>
    match l.cmd.mgmtReplies with
    | ws :: rest =>
      { l with cmd := { l.cmd with mgmtReplies := rest } }.emit (.mgmtReply ws)
    | [] => l

/-! ### In-band commands through a lantern (R154, R155, R157, R159, R292) -/

/-- A record addressed to the fabric of a buoy that is dropped (R58, R74, R154, R155, Table 4.3): the field
that counts it, if any. TIMEX records that no field of Table 10.2 counts: log entry 123. -/
def Live.fabBad (l : Live) (_b : Build) (ws : List DWord) : Option Fld :=
  let n := 8 * ws.length
  let w0 := wordAt ws 0
  if n < 24 ∨ fld w0 16 16 ≠ n then some F.FAB_RX_BAD_LEN
  else match recOfWords ws with
    | none => some F.FAB_RX_BAD_CRC
    | some r =>
      if r.ty = 0 ∨ 0x10 ≤ r.ty.toNat then some F.FAB_RX_BAD_KIND
      else if r.ty = 0x0F then
        let w := wordAt r.body 0
        let dst := fld w 10 18
        if r.body.length < 2 then some F.FAB_RX_BAD_LEN
        else if fld w 0 8 = 2 then none
        else if fld w 0 8 ≠ 1 ∨ bit w 28 ∨ dst % 256 ≠ l.boot.st.idLocal.toNat ∨
            (l.time.trunk.any fun t => decide (dst / 256 ≠ t)) then
          some F.FAB_RX_BAD_KIND
        else none
      else if r.ty = 0x0E ∧ timexStray l r then some F.FAB_RX_BAD_KIND
      else none

/-- FAB_RX_BAD_RECORD (R58, R74, R117, R154, R155). -/
def execFabRxBadRecord (ws : List DWord) (s : State) : Host.Outcome State Fault Refusal :=
  s.runAwake fun b l =>
    if b.lantern then l
    else match l.fabBad b ws with
      | some f => l.bump b f
      | none => l

/-- A forward entry that is not the lantern's own. -/
def Fwd.forwarded (e : Fwd) : Bool := e.own.isNone

/-- Entry `i` of the 64 awaits a reply (R157). -/
def Live.fwdUsed (l : Live) (i : Nat) : Bool := l.cmd.fwd.any fun e => e.forwarded && decide (e.idx = i)

/-- A free entry of the 64 (R157): one whose last command's reply may still come late (R163) is taken only
when no other is free. -/
def Live.fwdFree (l : Live) : Option Nat :=
  let free := (List.range 64).filter fun i => !l.fwdUsed i
  match free.find? fun i => !(l.cmd.late.any fun e => decide (e.idx = i)) with
  | some i => some i
  | none => free.head?

/-- The reply of a command that timed out: it is no longer awaited. -/
def Live.dropLate (l : Live) (idx : Nat) : Live :=
  { l with cmd := { l.cmd with late := l.cmd.late.filter fun e => decide (e.idx ≠ idx) } }

/-- The reply with this cookie comes from a command that has timed out (R163). -/
def Live.lateFor (l : Live) (ret : Word) (dst : BitVec 18) (dlan : Bool) : Option Fwd :=
  l.cmd.late.find? fun e => decide (e.dst = dst ∧ e.dlan = dlan ∧ e.idx = ret.toNat)

/-- The effective privilege of a command that arrives on link `n` with PRIV `v` (Table 6.3). -/
def Live.linkPriv (l : Live) (b : Build) (n v : Nat) : Nat := if l.role b n = 2 then 0 else min 1 v

/-- The routing word of a forwarded command: the effective privilege and the entry's index (R155, R292). -/
def Live.rerouted (l : Live) (b : Build) (n idx : Nat) (r : Rec) : Rec :=
  let w := wordAt r.body 0
  let v := routing 1 (l.linkPriv b n (fld w 8 2)) (BitVec.ofNat 18 (fld w 10 18)) (bit w 28)
    (BitVec.ofNat 32 idx)
  { r with body := v :: r.body.drop 1 }

/-- A forwarded command leaves for its destination: an own buoy, or a lantern across the torus. -/
def Live.sendOn (l : Live) (b : Build) (n : Nat) (r : Rec) : Live :=
  let w := wordAt r.body 0
  let dst := fld w 10 18
  if dst / 256 = l.trunk b ∧ !bit w 28 then l.toBuoy b (dst % 256) r
  else l.forward b n r

/-- INBAND_CMD_FORWARD (R155, R157, R292): a command that is not the lantern's own to execute. One whose DLAN
is 1 and whose DST names this lantern's TrunkID with other bits set is for no lantern; R155 states no drop, and
it is forwarded as any other (log entry 116). -/
def execInbandCmdForward (n : BitVec 5) (r : Rec) (s : State) : Host.Outcome State Fault Refusal :=
  s.runAwake fun b l =>
    let w := wordAt r.body 0
    let dst := BitVec.ofNat 18 (fld w 10 18)
    let dlan := bit w 28
    if b.buoy ∨ !l.isUp n.toNat ∨ r.ty ≠ 0x0F ∨ r.body.length < 2 ∨ fld w 0 8 ≠ 1 ∨
        (dlan ∧ dst.toNat = l.trunk b * 256) then l
    else
      let h := wordAt r.body 1
      let ret := BitVec.ofNat 32 (fld w 32 32)
      let tag := BitVec.ofNat 8 (fld h 8 8)
      let p : Packet := ⟨.link n, BitVec.ofNat 2 (fld w 8 2), dst, dlan, ret, tag, BitVec.ofNat 12 (fld h 16 12),
        bit h 28, 0, 0, []⟩
      let a := (l.wakeIdle b).arrive p
      match a.1.fwdFree with
      | none => a.1.reply b a.2 eSlot
      | some i =>
        let e : Fwd := ⟨i, dst, dlan, ret, tag, bit h 28, some a.2, none⟩
        let l := a.1.dropLate i
        let l := { l with cmd := { l.cmd with fwd := l.cmd.fwd ++ [e] } }
        l.sendOn b n.toNat (l.rerouted b n.toNat i r)

/-- A buoy has answered a hang dump, or will not (R409). -/
def Live.hangAnswer (l : Live) (loc : Nat) (silent : Bool) : Live :=
  match l.trace.hang with
  | some h =>
    let h := { h with waiting := h.waiting.filter (fun k => decide (k ≠ loc)),
                      noAns := h.noAns + b2n silent,
                      graphs := if silent then h.graphs.filter (fun g => decide (g.1 ≠ loc)) else h.graphs }
    { l with trace := { l.trace with hang := some h } }
  | none => l

/-- The answer to a command of the lantern's own. -/
def Live.ownAnswer (l : Live) (b : Build) (u : OwnUse × Nat) (loc status : Nat) (silent : Bool) : Live :=
  if u.1 = .hang then l.hangAnswer loc silent else l.planAnswer b u.1 u.2 loc status

/-- The entry that a reply answers: a forwarded one by its index, an own one by its cookie. -/
def Live.entryOf (l : Live) (ret : Word) (dst : BitVec 18) (dlan : Bool) : Option Fwd :=
  l.cmd.fwd.find? fun e => decide (e.dst = dst ∧ e.dlan = dlan) &&
    (if e.forwarded then decide (e.idx = ret.toNat) else decide (e.ret = ret))

/-- The list of forward entries without entry `e`. -/
def Live.dropFwd (l : Live) (e : Fwd) : Live :=
  { l with cmd := { l.cmd with fwd := l.cmd.fwd.erase e } }

/-- INBAND_REPLY_RETURN (R154, R159, R163, R292). A poisoned reply to this lantern is dropped (R433). -/
def execInbandReplyReturn (n : BitVec 5) (r : Rec) (s : State) : Host.Outcome State Fault Refusal :=
  s.runAwake fun b l =>
    let w := wordAt r.body 0
    let dst := BitVec.ofNat 18 (fld w 10 18)
    if b.buoy ∨ !l.isUp n.toNat ∨ r.ty ≠ 0x0F ∨ r.body.length < 2 ∨ fld w 0 8 ≠ 2 then l
    else match l.lateFor (BitVec.ofNat 32 (fld w 32 32)) dst (bit w 28),
        l.entryOf (BitVec.ofNat 32 (fld w 32 32)) dst (bit w 28) with
      | some e, _ => (l.dropLate e.idx).bump b F.CMD_STAT_LATE_RSP
      | none, none => l.bump b F.CMD_STAT_LATE_RSP
      | none, some e =>
        if r.poison ∧ e.origin.isNone then l else
        let l := l.dropFwd e
        match e.origin, e.own with
        | some o, _ =>
          let v := routing 2 0 dst e.dlan e.ret
          match o.port with
          | .link m => l.answerLink b m o.seqNo { r with body := v :: r.body.drop 1 }
          | _ => l
        | none, some u => l.ownAnswer b u (dst.toNat % 256) (fld (wordAt r.body 1) 0 8) false
        | none, none => l

/-- FORWARD_TIMEOUT (R163): the oldest command forwarded to a destination is answered E_ABORTED. -/
def execForwardTimeout (dst : BitVec 18) (dlan : Bool) (s : State) : Host.Outcome State Fault Refusal :=
  s.runAwake fun b l =>
    match l.cmd.fwd.find? fun e => decide (e.dst = dst ∧ e.dlan = dlan) with
    | none => l
    | some e =>
      let l := (l.dropFwd e).bump b F.CMD_STAT_FWD_TMO_CNT
      match e.origin, e.own with
      | some o, _ => { l with cmd := { l.cmd with late := l.cmd.late ++ [e] } }.reply b o eAborted
      | none, some u => l.ownAnswer b u (dst.toNat % 256) eAborted true
      | none, none => l

end Sys2Proof.Machine
end

