-- ==== Sys2Proof/Machine/Egress.lean ====
section
/-! DEFINITION. The egress shaper of a buoy: buckets, selection by class and finish tag, quiet windows
and guard, depth and delay (spec/10; spec/04 R132, R133). -/

namespace Sys2Proof.Machine

/-! ### Buckets (R256 to R259) -/

/-- The credits of class `c`: full until they have been used. -/
def Live.cred (l : Live) (b : Build) (c : Nat) : Cred :=
  Tab.getD l.shape.cred c
    ⟨(l.get b F.SHP_CBS_CBS c : Int) * 65536, (l.get b F.SHP_PBS_PBS c : Int) * 65536⟩

/-- The credits of class `c` set. -/
def Live.setCred (l : Live) (c : Nat) (x : Cred) : Live :=
  { l with shape := { l.shape with cred := Tab.insert l.shape.cred c x } }

/-- One bucket after `dt` ns at `rate`, up to `size` bytes (R256). -/
def fillBucket (cred : Int) (rate size : Nat) (dt : Nat) : Int :=
  min (cred + (rate * dt : Nat)) ((size * 65536 : Nat) : Int)

/-- The credits of class `c` refilled over `dt` ns. -/
def Live.fillClass (l : Live) (b : Build) (dt c : Nat) : Live :=
  let x := l.cred b c
  l.setCred c ⟨fillBucket x.c (l.get b F.SHP_CIR_CIR c) (l.get b F.SHP_CBS_CBS c) dt,
    fillBucket x.p (l.get b F.SHP_PIR_PIR c) (l.get b F.SHP_PBS_PBS c) dt⟩

/-- The fleet time that a FAB edge adds: none after a backward step, and at most 65,535 ns (R256). -/
def edgeDt (now prev : Word) : Nat :=
  let d := ftDiff now prev
  if d < 0 then 0 else min d.toNat 65535

/-- The refill of one FAB edge (R256). -/
def Live.refill (l : Live) (b : Build) : Live :=
  let dt := edgeDt l.ft l.shape.ftPrev
  let l := [0, 1, 2, 3].foldl (fun l c => l.fillClass b dt c) l
  { l with shape := { l.shape with ftPrev := l.ft } }

/-- A write to a rate or a size of class `c`: the credit carries over, and a later edge cuts it to a new
size (R259). -/
def Live.writeBucket (l : Live) (b : Build) (f : Fld) (c v : Nat) : Live :=
  (l.setCred c (l.cred b c)).put b f v c

/-- Class `c` is admitted (R257). -/
def Live.admitted (l : Live) (b : Build) (c : Nat) : Bool :=
  let x := l.cred b c
  decide (0 ≤ x.c ∧ 0 ≤ x.p ∧ l.get b F.SHP_CIR_CIR c ≠ 0 ∧ l.get b F.SHP_PIR_PIR c ≠ 0)

/-- Credits, V and F after a reset or on leaving SLEEP or DEEP (R259, R260): the heads take new tags, and keep
the classes that they took when they became heads (R253, R254). -/
def Live.shapeReset (l : Live) (b : Build) : Live :=
  let l := { l with shape := { l.shape with cred := [], v := 0, ftPrev := l.ft } }
  { l with ques := Tab.mapVal (fun q (x : Que) =>
      let x := { x with f := 0 }
      match x.head, x.headRec with
      | some h, some r => x.tagged (l.tagOf b q x r) h.2
      | _, _ => { x with head := none }) l.ques }

/-! ### Quiet windows (R132) -/

/-- GUARD in force: the greatest over the enabled sets (R133, R238). -/
def Live.guard (l : Live) (b : Build) : Nat :=
  (List.range 4).foldl (fun a k =>
    let q := l.qw k
    if !q.en then a
    else if q.owner = 0 then max a (l.get b F.QW_CTL_GUARD)
    else match (secQw (l.plan q.owner).image).find? fun s => decide (s.set = k) with
      | some s => max a s.guard
      | none => a) 0

/-- No window is active, and every enabled set's next start is at least GUARD away (R132). -/
def Live.mayStart (l : Live) (b : Build) : Bool :=
  let g := l.guard b
  (List.range 4).all fun k =>
    let q := l.qw k
    !q.en || (!q.active && !reached l.ft q.s && decide (g ≤ (q.s - l.ft).toNat))

/-! ### Selection (R261) -/

/-- The queues with a head record: queue, tag and class. A buoy without a TrunkID sends only TIMEX
records and replies (R29). -/
def Live.heads (l : Live) : List (Nat × Nat × Nat) :=
  l.ques.filterMap fun e =>
    match e.2.head, e.2.headRec with
    | some h, some r =>
      if l.time.trunk.isNone ∧ r.r.ty ≠ 0x0E ∧ r.r.ty ≠ 0x0F then none else some (e.1, h.1, h.2)
    | _, _ => none

/-- The head with the smallest tag; the lowest queue wins a tie. -/
def leastTag : List (Nat × Nat × Nat) → Option (Nat × Nat × Nat)
  | [] => none
  | h :: t => match leastTag t with
    | none => some h
    | some m => if h.2.1 ≤ m.2.1 then some h else some m

/-- The record that leaves carries the source the block has now and, in a TIMEX record, its TX stamp
(R29, R118). -/
def Live.atPort (l : Live) (b : Build) (r : Rec) : Rec :=
  let r := if r.ty = 0x0A then r else { r with src := l.src b }
  if r.ty = 0x0E then stampTx r (l.stampOut b 0) else r

/-- The beats of a stream of words (R72): four words each, and the enables of the last contiguous from bit 0. -/
def fabBeats : Nat → List DWord → List Beat
  | 0, _ => []
  | fuel + 1, ws =>
    if ws.length ≤ 4 then [⟨ws, BitVec.ofNat 4 (2 ^ ws.length - 1), true⟩]
    else ⟨ws.take 4, -1, false⟩ :: fabBeats fuel (ws.drop 4)

/-- The beats of a record on `fab_tx` (R72): byte 0 first, and no beat shared with another record. -/
def Rec.beats (r : Rec) : List Beat := fabBeats r.words.length r.words

/-- The delay of a record at its selection (R264). -/
def Live.delayOf (l : Live) (h : QRec) : Nat := min (l.ft - h.stamp).toNat 0xFFFFFF

/-- Queue `q` is selected: charge, V, delay, and the record on `fab_tx` (R257, R260, R261, R264). -/
def Live.select (l : Live) (b : Build) (q tag c : Nat) : Live :=
  match (l.que q).headRec with
  | none => l
  | some h =>
    let ch : Int := (l.charge b h.r.len * 65536 : Nat)
    let x := l.cred b c
    let d := l.delayOf h
    let l := { l with shape := { l.shape with v := tag, sent := (l.shape.sent + 1) % 65536 } }
    let p := (l.setCred c ⟨x.c - ch, x.p - ch⟩).popHead b q
    let l := p.1.updQue q fun x => { x with dmax := max x.dmax d }
    let l := l.put b F.EGQ_DLY_DMAX (max (l.get b F.EGQ_DLY_DMAX q) d) q
    let r := l.atPort b (p.2.getD h).r
    l.emit (.fabTx c r (Rec.beats r))

/-- The counts of a FAB edge without a transfer: classes that hold a head back for credit, and a window
that holds back a candidate (R263, Table 10.2). -/
def Live.holdCounts (l : Live) (b : Build) (hs : List (Nat × Nat × Nat)) : Live :=
  [0, 1, 2, 3].foldl (fun l c =>
    if hs.any (fun h => decide (h.2.2 = c)) ∧ !l.admitted b c then l.bump b F.SHP_HOLD_POL_HOLD c
    else l) l

/-- EGRESS_SELECT (R261 to R263): one FAB edge with no record in transfer. `inWindow` holds FT_r at each
beat of the record that the fabric takes inside a quiet window (R133). -/
def execEgressSelect (inWindow : List Word) (s : State) : Host.Outcome State Fault Refusal :=
  s.runAwake fun b l =>
    if b.lantern then l
    else
      let l := l.refill b
      let hs := l.heads
      let l := l.holdCounts b hs
      let cs := hs.filter fun h => l.admitted b h.2.2
      if cs = [] then l
      else if !l.mayStart b then l.bump b F.SHP_STAT_QW_HOLD
      else
        let top := cs.filter fun h => decide (h.2.2 = 0)
        match leastTag (if top = [] then cs else top) with
        | none => l
        | some h =>
          let l := l.select b h.1 h.2.1 h.2.2
          inWindow.foldl (fun l f => (l.bump b F.QW_STAT_OVERRUN).logE b 0x0304 2 [f.toNat]) l

/-! ### Depth and delay (R265) -/

/-- EGQ_DEPTH of queue `q`. -/
def Live.depthWord (l : Live) (q : Nat) : Nat :=
  let rs := (l.que q).recs
  min rs.length 4095 + (min (rs.foldl (fun a r => a + r.r.len) 0 / 8) 0xFFFFF <<< 12)

/-- A sample of all 64 queues. -/
def Live.sampleQueues (l : Live) (b : Build) : Live :=
  (List.range 64).foldl (fun l q =>
    let x := l.que q
    let l := l.put b F.EGQ_SNAP_DEPTH_RECS_BYTES (l.depthWord q) q
    let l := l.put b F.EGQ_SNAP_DLY_DMAX x.dmax q
    l.updQue q fun x => { x with dmax := 0 }) l

/-- A write of SHP_SMP: the first instant lies PERIOD after the write that makes it nonzero. -/
def Live.writeSmp (l : Live) (b : Build) (v : Nat) : Live :=
  let l := l.put b F.SHP_SMP_PERIOD v
  let p := l.get b F.SHP_SMP_PERIOD
  let at_ := if p = 0 then none
    else match l.shape.sampleAt with
      | some t => some t
      | none => some (l.ft + BitVec.ofNat 32 (1000 * p))
  { l with shape := { l.shape with sampleAt := at_ } }

/-- SHAPER_SAMPLE (R265): the sample instant is reached; instants that a step has passed are skipped. -/
def execShaperSample (s : State) : Host.Outcome State Fault Refusal :=
  s.runAwake fun b l =>
    match l.shape.sampleAt with
    | some t =>
      if b.lantern ∨ !reached l.ft t then l
      else
        let l := l.sampleQueues b
        let next := passBy l.ft t (1000 * l.get b F.SHP_SMP_PERIOD)
        { l with shape := { l.shape with sampleAt := some next } }
    | none => l

end Sys2Proof.Machine
end

