-- ==== Sys2Proof/Machine/Hang.lean ====
section
/-! DEFINITION. Hang dumps: the wait-for graph, its cycles, and the records (spec/16 R407 to R412). -/

namespace Sys2Proof.Machine

/-! ### Nodes and edges (R410) -/

/-- The key of a node: class, Local, and the number that the class gives. -/
def nodeKey (cls loc x : Nat) : Nat := cls * 2 ^ 60 + loc * 2 ^ 50 + x

/-- The number of an action occurrence. -/
def occNo (p entry epoch : Nat) : Nat := p * 2 ^ 24 + entry * 2 ^ 16 + epoch

/-- An edge: source and destination keys, and its fields of Table 16.5. A remote edge has the Local and the
cycle number that it came with. -/
structure HEdge where
  src : Nat
  dst : Nat
  kind : Nat
  obj : Nat
  subj : Nat
  epoch : Nat
  remote : Option (Nat × Nat)
  deriving DecidableEq, Repr

/-- An edge of KIND 0 or 1 between logical unit `u` and object `o` of Local `loc`. -/
def unitEdge (kind loc u o : Nat) (remote : Option (Nat × Nat)) : HEdge :=
  let a := nodeKey 0 loc u
  let c := nodeKey 1 loc o
  if kind = 0 then ⟨a, c, 0, o, u, 0, remote⟩ else ⟨c, a, 1, o, u, 0, remote⟩

/-- An edge of KIND 2 or 3 between object `o` and an occurrence. -/
def occEdge (kind p entry epoch o : Nat) : HEdge :=
  let a := nodeKey 2 0 (occNo p entry epoch)
  let c := nodeKey 1 0 o
  let subj := entry + 256 * p
  if kind = 2 then ⟨a, c, 2, o, subj, epoch, none⟩ else ⟨c, a, 3, o, subj, epoch, none⟩

/-- The logical unit whose lowest group is `g`. -/
def Live.unitOfGroup (l : Live) (g : Nat) : Option Nat := (l.bind g).bind fun x => l.presents x.1

/-- The edges of one watch object. -/
def Live.watchEdges (l : Live) (o : Nat) (w : Watch) : List HEdge :=
  if !w.en then []
  else
    let ws := if !w.held then [] else
      (List.range 64).filterMap fun g =>
        if bit w.waiters g then (l.unitOfGroup g).map fun u => unitEdge 0 0 u o none else none
    let own := match w.owner.bind l.presents with
      | some u => [unitEdge 1 0 u o none]
      | none => []
    ws ++ own

/-- The edges of the occurrences of plan `p`: each waits for its barrier and then for its semaphores, and its
completion signals a barrier and gives back what it takes. -/
def Live.planEdges (l : Live) (p : Nat) (x : Plan) : List HEdge :=
  x.occs.flatMap fun o =>
    let a := imgAction x.image o.entry
    let sems := l.sems p o.entry
    let shut := if o.waiting then sems.filter fun e => decide (e.2.count = 0) else []
    (if a.waitEn ∧ !o.released then [occEdge 2 p o.entry o.epoch a.wait]
     else shut.map fun e => occEdge 2 p o.entry o.epoch e.1) ++
    (if a.sigEn then [occEdge 3 p o.entry o.epoch a.sig] else []) ++
    sems.map fun e => occEdge 3 p o.entry o.epoch e.1

/-- The edges of the block's own nodes. -/
def Live.ownEdges (l : Live) (b : Build) : List HEdge :=
  if b.buoy then l.trace.watches.flatMap fun e => l.watchEdges e.1 e.2
  else l.plans.flatMap fun e => l.planEdges e.1 e.2

/-- The mirrored watch objects of RUNNING plans, as Local and object (R407, R409). -/
def Live.mirrors (l : Live) : List (Nat × Nat) :=
  l.plans.flatMap fun e =>
    if e.2.state = .running then
      (imgSyncs e.2.image).filterMap fun y =>
        if y.ty = 2 then some (y.init % 256, y.init / 256) else none
    else []

/-- The buoy edges in a HANGGRAPH record, with their cycle numbers. -/
def edgesOf (loc : Nat) (r : Rec) : List HEdge :=
  if r.ty ≠ 0x0B then []
  else (List.range (fld (wordAt r.body 0) 32 8)).map fun e =>
    let w := wordAt r.body (2 + e)
    unitEdge (fld w 0 2) loc (fld w 16 10) (fld w 2 14) (some (loc, fld w 48 8))

/-- The mirrored edges of the lantern's buoys. -/
def Live.remoteEdges (l : Live) (h : Hang) : List HEdge :=
  let ms := l.mirrors
  h.graphs.flatMap fun g => (edgesOf g.1 g.2).filter fun e => ms.contains (g.1, e.obj)

/-- The edges in ascending order, each once. -/
def edgeBefore (a c : HEdge) : Bool := decide (a.src < c.src ∨ (a.src = c.src ∧ a.dst < c.dst))

def sortEdges (es : List HEdge) : List HEdge :=
  es.foldr (fun e t => if t.contains e then t else insertBy edgeBefore e t) []

/-! ### Cycles (R411) -/

/-- The nodes reached from those of `seen` in at most `n` more steps. -/
def reachFrom (es : List HEdge) : Nat → List Nat → List Nat
  | 0, seen => seen
  | n + 1, seen =>
    let new := es.foldl (fun t e =>
      if seen.contains e.src && !seen.contains e.dst && !t.contains e.dst then e.dst :: t else t) []
    if new.isEmpty then seen else reachFrom es n (new ++ seen)

/-- The nodes of the edges, ascending. -/
def nodesOf (es : List HEdge) : List Nat :=
  (es.flatMap fun e => [e.src, e.dst]).foldr (fun k t =>
    if t.contains k then t else insertBy (fun a c => decide (a < c)) k t) []

/-- The cycles: each strongly connected component of two or more nodes, ascending, by its smallest key. -/
def cyclesOf (es : List HEdge) : List (List Nat) :=
  let ns := nodesOf es
  let fwd := ns.map fun k => (k, reachFrom es es.length [k])
  let sees := fun (a c : Nat) => match fwd.find? fun x => decide (x.1 = a) with
    | some x => x.2.contains c
    | none => false
  ns.filterMap fun k =>
    let comp := ns.filter fun m => sees k m && sees m k
    if comp.length < 2 ∨ comp.any fun m => decide (m < k) then none else some comp

/-- The cycle number of a node, 0 when it is in none. The field has 8 bits: it saturates. -/
def cycOf (cs : List (List Nat)) (k : Nat) : Nat :=
  match cs.findIdx? fun c => c.contains k with
  | some i => min (i + 1) 255
  | none => 0

/-- The cycle number of an edge: both of its ends lie in that cycle. -/
def edgeCyc (cs : List (List Nat)) (e : HEdge) : Nat :=
  if cycOf cs e.src = cycOf cs e.dst ∧ cs.any fun c => c.contains e.src && c.contains e.dst then
    cycOf cs e.src
  else 0

/-! ### The records (R412, Table 16.5) -/

/-- An edge as a word. -/
def HEdge.word (cs : List (List Nat)) (e : HEdge) : DWord :=
  let c := match e.remote with
    | some x => x.2
    | none => edgeCyc cs e
  packW [(0, e.kind), (2, e.obj), (16, e.subj), (32, e.epoch), (48, c),
    (56, match e.remote with | some x => x.1 | none => 0)]

/-- The dump entry of an own node. -/
def Live.dumpEnt (l : Live) (b : Build) (cs : List (List Nat)) (k : Nat) : List DWord :=
  let c := k / 2 ^ 60
  let x := k % 2 ^ 50
  if c = 0 then
    let s := (l.resolve x).bind fun p => Tab.find? l.samp.lastPc p
    let w := packW [(0, 0), (2, cycOf cs k), (10, x), (20, l.gen x),
      (28, match s with | some e => e.stall | none => 0), (31, b2n s.isSome)]
    match s with
    | some e => [w, e.pc, packW [(0, e.ft.toNat)]]
    | none => [w, 0, 0]
  else if c = 1 then
    if b.buoy then
      let o := l.watch x
      [packW [(0, 1), (2, cycOf cs k), (32, x), (46, 2), (48, b2n o.held), (49, b2n o.uncert)], o.val, o.addr]
    else
      let y := Tab.getD l.trace.syncs x sync0
      [packW [(0, 1), (2, cycOf cs k), (32, x), (46, y.ty)], packW [(0, y.count)], packW [(0, y.init)]]
  else
    [packW [(0, 2), (2, cycOf cs k)],
     packW [(0, x / 2 ^ 24), (8, x / 2 ^ 16 % 256), (16, x % 65536)], 0]

/-- A list in pieces of at most `n`. -/
def pieces {α : Type} (n : Nat) : Nat → List α → List (List α)
  | 0, _ => []
  | k + 1, xs => if xs.length ≤ n then [xs] else xs.take n :: pieces n k (xs.drop n)

/-- The objects among `os` have a word read uncorrectable (R432). -/
def Live.badObjs (l : Live) (os : List Nat) : List Nat := os.filter fun o => l.bad (.watch o)

/-- The records of one type of a dump: the count, the words and the objects of each. A record with a poisoned
word carries POISON (R432). -/
def Live.hangRecs (l : Live) (b : Build) (ty ncyc noAns : Nat) (ps : List (Nat × List DWord × List Nat)) : Live :=
  (List.range ps.length).foldl (fun l i =>
    let p := ps.getD i (0, [], [])
    let w := packW [(0, l.trace.hangId), (16, i % 256), (24, ps.length % 256), (32, p.1), (40, ncyc),
      (56, noAns % 256)]
    let bad := l.badObjs p.2.2
    let r := mkRec l b ty b.mgmtStream l.ft (w :: packW [(0, l.ft.toNat)] :: p.2.1)
    (bad.foldl (fun l o => l.meet b (.watch o)) l).create b { r with poison := decide (bad ≠ []) }) l

/-- The object of a node, if it is one. -/
def nodeObj (k : Nat) : Option Nat := if k / 2 ^ 60 = 1 then some (k % 2 ^ 50) else none

/-- The snapshot and its records; the reply waits for them (R409, R411, R412). -/
def Live.dump (l : Live) (b : Build) (r : Ret) (remote : List HEdge) (noAns : Nat) : Live :=
  let own := sortEdges (l.ownEdges b)
  let cs := cyclesOf own
  let n := min cs.length 65535
  let l := { l with trace := { l.trace with hangId := (l.trace.hangId + 1) % 65536, ncyc := n } }
  let es := sortEdges (own ++ remote)
  let objs := fun (xs : List HEdge) => (xs.filter fun e => decide (e.kind ≤ 1)).map (·.obj)
  let graph := (pieces 254 (es.length + 1) es).map fun x => (x.length, x.map (HEdge.word cs), objs x)
  let nodes := (nodesOf own).filter fun k => decide (cycOf cs k ≠ 0)
  let ents := (pieces 84 (nodes.length + 1) nodes).map fun x =>
    (x.length, x.flatMap (l.dumpEnt b cs), x.filterMap nodeObj)
  let l := l.hangRecs b 0x0B n noAns graph
  let l := if nodes = [] then l else l.hangRecs b 0x0C n noAns ents
  l.updTrace fun t => { t with dumps := t.dumps ++ [(r, n)] }

/-! ### Commands -/

/-- HANG_DUMP (R408, R409): a buoy dumps at a BMON edge; a lantern asks the buoys of its mirrored objects first. A
dump that arrives while one is in progress is turned away. -/
def execHangDump (p : Packet) (s : State) : Host.Outcome State Fault Refusal :=
  s.run fun b l => l.command b (.hangDump p) (opRow 0x58 true true 1 0 0) p fun l r =>
    match firstErr [(!l.syncOn b, eGated), (l.trace.hang.isSome, eState)] with
    | some e => l.reply b r e
    | none =>
      if b.buoy then l.toBmon b r fun l => ((l.hold r (.hangDump p)).dump b r [] 0).raiseTrig b 7
      else
        let locs := (List.range 256).filter fun k => l.mirrors.any fun m => decide (m.1 = k)
        let l := { l with trace := { l.trace with hang := some ⟨r, locs, 0, []⟩ } }
        (l.ownCmds b locs .hang 0 0x58 0 []).hold r (.hangDump p)

/-- HANG_SNAPSHOT (R409): every buoy asked has answered, or counts in NOANS. -/
def execHangSnapshot (s : State) : Host.Outcome State Fault Refusal :=
  s.runAwake fun b l =>
    match l.trace.hang with
    | none => l
    | some h =>
      if b.buoy ∨ h.waiting ≠ [] then l
      else
        let es := l.remoteEdges h
        let l := { l with trace := { l.trace with hang := none } }
        l.dump b h.r es h.noAns

/-! ### Mirrors (R407) -/

/-- The mirror of an object of a buoy while a dump runs: owner, held and uncertain. -/
def Live.mirror (l : Live) (loc obj : Nat) : Option Nat × Bool × Bool :=
  match l.trace.hang with
  | none => (none, false, false)
  | some h =>
    let gs := h.graphs.filter fun g => decide (g.1 = loc)
    let own := (gs.flatMap fun g => edgesOf loc g.2).find? fun e => decide (e.kind = 1 ∧ e.obj = obj)
    let es := gs.flatMap fun g => if g.2.ty ≠ 0x0C then [] else
      (List.range (fld (wordAt g.2.body 0) 32 8)).map fun e => wordAt g.2.body (2 + 3 * e)
    let d := es.find? fun w => decide (fld w 0 2 = 1 ∧ fld w 32 14 = obj)
    (own.map (·.subj), own.isSome || (match d with | some w => bit w 48 | none => false),
      match d with | some w => bit w 49 | none => false)

end Sys2Proof.Machine
end

