-- ==== Sys2Proof/Machine/Memory.lean ====
section
/-! DEFINITION. Memory protection: stored words, the scrub walkers, SCRUB_RANGE passes, and what an
uncorrectable word spoils (spec/18 R426 to R435). -/

namespace Sys2Proof.Machine

/-! ### The memories (Table 18.1) -/

/-- Bytes of a memory; 0 where the form has none of this identifier. -/
def Live.memBytes (l : Live) (b : Build) (id : Nat) : Nat :=
  let k := fun (kb kl : Nat) => (if b.buoy then kb else kl) * 1024
  if id = 0 then k 320 8192
  else if id = 1 then k 512 49152
  else if id = 2 then k 64 32768
  else if id = 3 then k 64 4096
  else if id = 4 then k 64 0
  else if id = 5 then k 512 0
  else if id = 6 then k 512 4096
  else if id = 0x20 then (if b.buoy then 0 else l.celBytes b)
  else 0

/-- The byte at `a` of a memory belongs to a gated unit (R430). Which unit owns a word of memory 0x04 is a free
value (log entry 121). -/
def Live.memGated (l : Live) (b : Build) (id a : Nat) : Bool :=
  if id = 5 then !l.flag b F.UNIT_EN_B_BMON
  else if id = 4 then (Config.smallUnit (a / 8)).any fun u => !(l.unitEn b).testBit u
  else if id = 2 then !l.pipeOn b (b.nodePipe a)
  else if id = 0x20 then
    match l.celPort b a with
    | some m => !l.flag b F.UNIT_EN_CEL_CEL 0 m
    | none => true
  else false

/-- Bytes that share the gate of their first byte. -/
def memStride (id : Nat) : Nat := if id = 0x20 then 1024 else if id = 4 then 8 else 2097152

/-- The starts of the shares that [a; a + n) meets; a cellar range over every port meets them all. -/
def memShares (id a n : Nat) : List Nat :=
  let s := memStride id
  let k := (a + n - 1) / s - a / s + 1
  (List.range (if id = 0x20 then min k 16 else k)).map fun i => (a / s + i) * s

/-! ### Uncorrectable reads (R428, R435; Table 18.2) -/

/-- One of `xs`, or none: which item holds a word is not told by its address, so it is a free value. -/
def pick {α : Type} (n : Nat) (xs : List α) : Option α := xs[n % (xs.length + 1)]?

/-- Holder `h` has an uncorrectable word at byte `a` of memory `id`. -/
def Live.mark (l : Live) (id a : Nat) (h : Holder) : Live :=
  { l with mem := { l.mem with bad := l.mem.bad ++ [⟨h, id, a⟩] } }

/-- The items at the places of a list, each with an uncorrectable word put into it by `f`. -/
def spoils {α : Type} (xs : List α) (f : Nat → Live → Live) : List (Live → Live) := (List.range xs.length).map f

/-- The records of the queues. -/
def Live.queSpoils (l : Live) (a : Nat) : List (Live → Live) :=
  l.ques.flatMap fun e => spoils e.2.recs fun i l => l.updQue e.1 fun x =>
    { x with recs := updAt (fun (y : QRec) => { y with bad := some a }) i x.recs }

/-- The units of the link buffers (log entry 138): those that wait, and those kept for a replay. -/
def Live.linkSpoils (l : Live) (a : Nat) : List (Live → Live) :=
  let item := fun (y : LinkItem) => { y with bad := some a }
  l.links.flatMap fun e =>
    (spoils e.2.unacked fun i l => l.updLink e.1 fun k =>
      { k with unacked := updAt (fun (y : TxUnit) => { y with bad := some a }) i k.unacked }) ++
    (spoils e.2.ctl fun i l => l.updLink e.1 fun k => { k with ctl := updAt item i k.ctl }) ++
    (spoils e.2.pln fun i l => l.updLink e.1 fun k => { k with pln := updAt item i k.pln })

/-- The records that wait at their producers. -/
def Live.waitSpoils (l : Live) : List (Live → Live) :=
  let f := fun (y : Nat × Rec) => (y.1, { y.2 with poison := true })
  spoils l.created fun i l => { l with created := updAt f i l.created }

/-- The samples of tree queries and of the actions' occurrences (R353). -/
def Live.sampleHolders (l : Live) : List Holder :=
  (l.eng.treeJobs.flatMap fun j => (List.range j.feats.length).map fun i => Holder.query j.r.seqNo i) ++
  (l.plans.flatMap fun e => e.2.occs.flatMap fun o =>
    (List.range (max 1 o.rows.length)).map fun i => Holder.rows e.1 o.entry o.epoch i)

/-- What holds words in the lantern's store room besides queues and records. -/
def Live.roomHolders (l : Live) : List Holder :=
  (l.eng.seqs.map fun e => Holder.seq e.1) ++ (l.eng.live.map fun e => Holder.live e.1) ++ l.sampleHolders

/-- What holds words in memory 0x04 of a buoy besides records. -/
def Live.smallHolders (l : Live) : List Holder :=
  ((l.samp.ctrs.filter fun e => e.2.snap.isSome).map fun e => Holder.ctr e.1) ++
  ((l.plans.filter fun e => e.2.kept.isSome).map fun e => Holder.latch e.1) ++
  ((l.trace.watches.filter fun e => e.2.en).map fun e => Holder.watch e.1) ++ l.sampleHolders

/-- What holds words in memory 0x00: plan images and sections, and a lantern's partials and lists. -/
def Live.planHolders (l : Live) : List Holder :=
  ((l.plans.filter fun e => decide (e.2.image ≠ [])).map fun e => Holder.plan e.1) ++
  ((l.plans.filter fun e => e.2.oc.isSome).map fun e => Holder.part e.1)

/-- Slot `x` of the trace buffer with an uncorrectable word. -/
def TrSlot.spoilt (a : Nat) : TrSlot → TrSlot
  | .block es t s i f _ => .block es t s i f (some a)
  | .mark x _ => .mark x (some a)

/-- The items of memory `id` that may hold its byte `a`, each with the word found uncorrectable. -/
def Live.spoilable (l : Live) (b : Build) (id a : Nat) : List (Live → Live) :=
  let marks := fun (hs : List Holder) => hs.map fun h (l : Live) => l.mark id a h
  let ent := fun (e : LogEnt) => { e with bad := some a }
  if id = 0 then marks l.planHolders
  else if id = 1 then
    l.queSpoils a ++ if b.buoy then [] else l.linkSpoils a ++ l.waitSpoils ++ marks l.roomHolders
  else if id = 3 then
    spoils l.log.ents fun i l => { l with log := { l.log with ents := updAt ent i l.log.ents } }
  else if id = 4 then l.waitSpoils ++ marks l.smallHolders
  else if id = 5 then
    spoils l.trace.slots fun i l => l.updTrace fun t => { t with slots := updAt (TrSlot.spoilt a) i t.slots }
  else if id = 6 then
    spoils l.log.attic fun i l => { l with log := { l.log with attic := updAt ent i l.log.attic } }
  else []

/-- The byte at `a` of memory `id` was found uncorrectable before, and has not been written since. -/
def Live.knownBad (l : Live) (id a : Nat) : Bool :=
  let at_ := fun (x : Option Nat) => decide (x = some a)
  l.mem.bad.any (fun w => decide (w.id = id ∧ w.a = a)) ||
  (decide (id = 1) && (l.ques.any (fun e => e.2.recs.any fun r => at_ r.bad) ||
    l.links.any fun e => e.2.unacked.any (fun u => at_ u.bad) || (e.2.ctl ++ e.2.pln).any fun i => at_ i.bad)) ||
  (decide (id = 3) && l.log.ents.any fun e => at_ e.bad) ||
  (decide (id = 6) && l.log.attic.any fun e => at_ e.bad) ||
  (decide (id = 5) && l.trace.slots.any fun x => at_ x.bad) ||
  (decide (id = 0x20) && l.mem.cel.contains (a / 32))

/-- What a word read uncorrectable at byte `a` of memory `id` spoils: the node of the ensemble that has it there,
the beat of the cellar, or one of the items that may hold it, by the free choice `n`. -/
def Live.spoil (l : Live) (b : Build) (id a n : Nat) : Live :=
  if l.knownBad id a then l
  else if id = 0x20 then l.spoilBeats [a / 32]
  else if id = 2 then
    match l.eng.trees.find? fun e => holdsNode b e.2.image a with
    | some e => l.mark 2 a (.tree e.1)
    | none => l
  else match pick n (l.spoilable b id a) with
    | some f => f l
    | none => l

/-- An uncorrectable read at byte `a` of memory `id` (R428). In keeper working memory it starts a soft reset
(R435). -/
def Live.uncorrectable (l : Live) (b : Build) (id a : Nat) : Live :=
  if !l.awake then l
  else
    let l := l.ueSeen b id a
    if id = 0 ∧ Config.keeperWord a then (l.logE b 0x1005 3 [a]).softReset b
    else
      let n := (Config.openValue l.free).toNat
      { l with free := l.free + 1 }.spoil b id a n

/-- `n` corrections in memory `id` (R427). -/
def Live.corrected (l : Live) (b : Build) (id n : Nat) : Live := l.bump b F.MEM_STAT_CE id n

/-! ### The walker (R429) -/

/-- The end of a lap: its duration and its corrections. -/
def Live.lapEnd (l : Live) (b : Build) (id lapMs : Nat) : Live :=
  let ce := Tab.getD l.mem.lapCe id 0
  let l := l.put b F.MEM_LAP_MS (min lapMs 0xFFFFFFFF) id
  let l := l.put b F.MEM_LAP_CE_CE (min ce 0xFFFFFFFF) id
  let l := { l with mem := { l.mem with lapCe := Tab.set l.mem.lapCe id 0 0 } }
  if ce = 0 then l else l.logE b 0x1002 2 [id, ce]

/-- The walker of memory `id` moves past `n` bytes. -/
def Live.walkOn (l : Live) (b : Build) (id n lapMs : Nat) : Live :=
  let a := Tab.getD l.mem.walk id 0 + n
  if l.memBytes b id ≤ a then
    { l with mem := { l.mem with walk := Tab.set l.mem.walk id 0 0 } }.lapEnd b id lapMs
  else { l with mem := { l.mem with walk := Tab.set l.mem.walk id 0 a } }

/-- SCRUB_WALKER_READ (R427 to R429): the walker of a memory reads its next word, or 512 bytes of the cellar,
where a failed port gives poison and corrections are not seen. It passes over a gated unit's words. A word that
was found uncorrectable stays so until it is written (R428). -/
def execScrubWalkerRead (mem : BitVec 8) (e : EccOutcome) (lapMs : Nat) (s : State) :
    Host.Outcome State Fault Refusal :=
  s.runAwake fun b l =>
    let id := mem.toNat
    let a := Tab.getD l.mem.walk id 0
    let cel := decide (id = 0x20)
    if l.memBytes b id = 0 ∨ !l.flag b F.MEM_SCRUB_EN id then l
    else
      let n := if cel then 512 else 8
      let moved := l.walkOn b id n
      if l.memGated b id a then moved lapMs
      else if e = .uncorrectable ∨ l.knownBad id a ∨ (cel ∧ (l.celDead b a ∨ l.celBad b a n ≠ [])) then
        (moved lapMs).uncorrectable b id a
      else if e = .corrected ∧ !cel then
        let l := l.corrected b id 1
        { l with mem := { l.mem with lapCe := Tab.upd l.mem.lapCe id 0 fun n => n + 1 } }.walkOn b id n lapMs
      else moved lapMs

/-! ### SCRUB_RANGE (R430) -/

/-- The first pass that waits runs, when none does. -/
def startPass : List ScrubJob → List ScrubJob
  | [] => []
  | j :: t => { j with running := true } :: t

/-- SCRUB_RANGE: the checks in the order that R430 states, then a pass, behind the one that runs. -/
def execScrubRange (p : Packet) (s : State) : Host.Outcome State Fault Refusal :=
  s.run fun b l => l.command b (.scrubRange p) (opRow 0x40 true true 2 2 2) p fun l r =>
    let id := p.aBits 0 8
    let a := (wordAt p.data 0).toNat
    let n := (wordAt p.data 1).toNat
    match firstErr [
      (decide (l.memBytes b id = 0 ∨ a % 8 ≠ 0 ∨ n % 8 ≠ 0 ∨ n = 0 ∨ 2 ^ 32 < n ∨
        l.memBytes b id < a + n), eRange),
      ((memShares id a n).any (l.memGated b id), eGated)] with
    | some e => l.reply b r e
    | none =>
      let jobs := startPass (l.mem.jobs ++ [⟨r, id, wordAt p.data 0, wordAt p.data 1, false⟩])
      { l with mem := { l.mem with jobs := jobs } }.hold r (.scrubRange p)

/-- The words of a cellar range that lie on failed ports or in poisoned beats (R82, R431). -/
def Live.deadWords (l : Live) (b : Build) (a n : Nat) : List Nat :=
  ((List.range (n / 8)).map fun i => a + 8 * i).filter fun x => l.celDead b x || l.mem.cel.contains (x / 32)

/-- The words that were found uncorrectable before in a range of memory `id` (R428). -/
def Live.knownWords (l : Live) (id a n : Nat) : List Nat :=
  ((List.range (n / 8)).map fun i => a + 8 * i).filter (l.knownBad id)

/-- `k` different words among those numbered from `lo` to `hi - 1`, ascending: free values. -/
def spread (free : Nat) : Nat → Nat → Nat → List Nat
  | 0, _, _ => []
  | k + 1, lo, hi =>
    let x := lo + (Config.openValue free).toNat % (hi - lo - k)
    x :: spread (free + 1) k (x + 1) hi

/-- SCRUB_RANGE_DONE (R427, R428, R430): the pass that runs has found so many words, the first uncorrectable
one at `first`, the others at free places behind it; the words found uncorrectable before and those of failed
cellar ports are uncorrectable too. -/
def execScrubRangeDone (corrected uncorrectable : Nat) (first : DWord) (s : State) :
    Host.Outcome State Fault Refusal :=
  s.runAwake fun b l =>
    match l.mem.jobs with
    | [] => l
    | j :: rest =>
      let a := j.start.toNat
      let n := j.len.toNat
      let f := first.toNat
      if n / 8 < corrected + uncorrectable ∨
          (uncorrectable ≠ 0 ∧ (f < a ∨ a + n < f + 8 * uncorrectable ∨ f % 8 ≠ 0)) then l
      else
        let cel := decide (j.mem = 0x20)
        let known := if cel then l.deadWords b a n else l.knownWords j.mem a n
        let new := if uncorrectable = 0 then []
          else f / 8 :: spread l.free (uncorrectable - 1) (f / 8 + 1) ((a + n) / 8)
        let new := (new.map (8 * ·)).filter fun x => !known.contains x
        let ce := if cel then 0 else corrected
        let l := { l with free := l.free + (uncorrectable - 1),
                          mem := { l.mem with jobs := startPass rest } }.corrected b j.mem ce
        let l := known.foldl (fun l x => l.ueSeen b j.mem x) l
        let l := new.foldl (fun l x => l.uncorrectable b j.mem x) l
        let bad := known ++ new
        if !l.boot.ready then l
        else
          let at_ := match bad with
            | [] => 2 ^ 64 - 1
            | x :: t => t.foldl min x
          l.reply b j.r 0 0 [packW [(0, ce % 2 ^ 32), (32, bad.length % 2 ^ 32)], BitVec.ofNat 64 at_]

/-- MEM_SCRUB.BUSY of memory `id`. -/
def Live.scrubBusy (l : Live) (id : Nat) : Bool := l.mem.jobs.any fun j => j.running && decide (j.mem = id)

end Sys2Proof.Machine
end

