-- ==== Sys2Proof/Machine/Query.lean ====
section
/-! DEFINITION. Queries of the tree engine and of the sequence engine (spec/14 R349 to R351; spec/15 R381
to R383). -/

namespace Sys2Proof.Machine

/-! ### TREE_QUERY -/

/-- Words of one sample of `f` features in a request. -/
def sampleWords (f : Nat) : Nat := (f + 63) / 64 + (f + 1) / 2

/-- Sample `i` of a request: its features, absent ones missing. -/
def querySample (ws : List DWord) (f i : Nat) : List (Option Word) :=
  let at_ := 1 + i * sampleWords f
  let xs := ws.drop (at_ + (f + 63) / 64)
  (List.range f).map fun j =>
    if bit (wordAt ws (at_ + j / 64)) (j % 64) then some (BitVec.ofNat 32 (item32 xs j)) else none

/-- TREE_QUERY (R351): the samples enter the pipes of the slot's ensemble. -/
def execTreeQuery (p : Packet) (s : State) : Host.Outcome State Fault Refusal :=
  s.run fun b l => l.command b (.treeQuery p) (opRow 0x28 true true 0 1 4095) p fun l r =>
    let k := p.aBits 0 4
    let f := fld (wordAt p.data 0) 0 11
    let n := fld (wordAt p.data 0) 16 16
    let x := l.tree k
    match firstErr [
      (decide (p.data.length ≠ 1 + n * sampleWords f) ||
        (b.buoy && p.port.inband && decide (254 < 2 * n + b2n p.pchk)), eLen),
      ((b.buoy && !l.pipeOn b 0) ||
        (x.ready && (ensPipes b x.image).any (fun q => !l.pipeOn b q)), eGated),
      (decide ((b.buoy ∧ k ≠ 0) ∨ n = 0 ∨ f = 0 ∨ 1024 < f) ||
        (x.ready && decide (f ≠ ensNFeat x.image)), eRange),
      (!x.ready, eState)] with
    | some e => l.reply b r e
    | none =>
      let j : TreeJob := ⟨r, k, (List.range n).map (querySample p.data f)⟩
      let l := l.hold r (.treeQuery p)
      { l with eng := { l.eng with treeJobs := l.eng.treeJobs ++ [j] } }

/-- The features of a query are gone. -/
def Live.cleanQuery (l : Live) (no : Nat) : Live :=
  { l with mem := { l.mem with bad := l.mem.bad.filter fun x => match x.h with
      | .query n _ => decide (n ≠ no)
      | _ => true } }

/-- TREE_QUERY_DONE (R346, R350, R351): the oldest query of the slot is answered. -/
def execTreeQueryDone (slot : BitVec 4) (s : State) : Host.Outcome State Fault Refusal :=
  s.runAwake fun b l =>
    let k := slot.toNat
    let g := (l.tree k).image
    match takeFirst (fun j : TreeJob => decide (j.slot = k)) l.eng.treeJobs with
    | none => l
    | some (j, rest) =>
      if (ensPipes b g).any fun q => !l.pipeOn b q then l
      else
        let n := j.feats.length
        let l := { l with eng := { l.eng with
          treeJobs := rest, samples := (l.eng.samples + n) % 2 ^ 32 } }
        let (l, bad) := l.readSamples b k j.feats fun i => .query j.r.seqNo i
        let l := l.cleanQuery j.r.seqNo
        if bad then l.reply b j.r ePoison
        else l.reply b j.r 0 n (ensResults b g j.feats).flatten

/-! ### SEQ_QUERY -/

/-- SEQ_QUERY (R381, R383). -/
def execSeqQuery (p : Packet) (s : State) : Host.Outcome State Fault Refusal :=
  s.run fun b l => l.command b (.seqQuery p) (opRow 0x2A false true 0 2 2051) p fun l r =>
    let w : SeqWait := ⟨r, p, l.slotLoading true (p.aBits 4 4)⟩
    let l := l.hold r (.seqQuery p)
    let l := { l with eng := { l.eng with waits := l.eng.waits ++ [w] } }
    l.seqTurn b

/-- The outcome of the running query: status and payload (R381, R382). -/
def Live.seqResult (l : Live) (b : Build) (j : SeqJob) (rd : SerRead) : Nat × List DWord :=
  let g := if j.mode = 3 then [] else (l.seqm j.slot).image
  let ty := l.get b F.SER_CFG_TYPE j.series
  if rd.poison ∨ (j.mode ≠ 3 ∧ l.bad (.seq j.slot)) then (ePoison, [])
  else if rd.stale ∨ j.lost then (eState, [])
  else
    let r := seqCompute j.mode g ty j.q (zeroState g) rd.xs
    let inex := decide (rd.inex ≠ 0) || r.sat
    (0, seqCommon 0 j.mode false j.slot j.series 0 inex j.first j.len j.gen (nFill ty rd.xs)
      (modId g) rd.inex ++ r.body)

/-- SEQ_JOB_DONE (R381 to R383). -/
def execSeqJobDone (s : State) : Host.Outcome State Fault Refusal :=
  s.runAwake fun b l =>
    match l.eng.job with
    | none => l
    | some j =>
      if !l.flag b F.UNIT_EN_L_SEQ then l
      else
        let rd := l.serRead b j.series j.gen j.first j.len
        let l := l.countRead b j.series rd
        let l := if j.mode = 3 then l else l.meet b (.seq j.slot)
        let res := l.seqResult b j rd
        let l := { l with eng := { l.eng with
          job := none,
          jobsDone := if res.1 = 0 then (l.eng.jobsDone + 1) % 2 ^ 32 else l.eng.jobsDone } }
        let l := l.when (decide (res.1 = ePoison)) fun l => l.bump b F.SEQ_ERR_POISON
        let l := l.reply b j.r res.1 (if res.1 = 0 then j.series else 0) res.2
        l.seqTurn b

end Sys2Proof.Machine
end

