-- ==== Sys2Proof/Machine/Series.lean ====
section
/-! DEFINITION. The series store: definitions, samples and fills, staging, coding and commit, and the partner
copies that follow them (spec/13 R313 to R333; spec/19 R448). -/

namespace Sys2Proof.Machine

/-! ### The cellar's regions (R333) -/

/-- Two byte regions meet. -/
def regionsMeet (a c : Nat × Nat) : Bool := decide (a.1 < c.2 ∧ c.1 < a.2)

/-- The queue area, first byte and end. -/
def Live.queueArea (l : Live) (b : Build) : Nat × Nat :=
  (l.get b F.CEL_QBASE_BASE * 2 ^ 30, l.get b F.CEL_QLIM_LIM * 2 ^ 30)

/-- The staging area. -/
def Live.stageArea (l : Live) (b : Build) : Nat × Nat :=
  let a := l.get b F.CEL_SSTAGE_BASE * 2 ^ 27
  (a, a + 2 ^ 27)

/-- The region of series `s`. -/
def Live.serRegion (l : Live) (b : Build) (s : Nat) : Nat × Nat :=
  let a := l.get b F.SER_BASE_BASE s * 1024
  (a, a + l.serNblk b s * blkSize (l.get b F.SER_CFG_RATIO s))

/-- A region meets that of an enabled series other than `but`. -/
def Live.meetsSeries (l : Live) (b : Build) (rg : Nat × Nat) (but : Nat) : Bool :=
  l.ser.sers.any fun e => e.2.on && decide (e.1 ≠ but) && regionsMeet rg (l.serRegion b e.1)

/-! ### Copy records (R448, Table 19.3) -/

/-- A copy or restore record for lantern `t`. -/
def copyRec (l : Live) (b : Build) (kind t argw : Nat) (body : List DWord) : Rec :=
  mkRec l b 0x0D 0x3100 l.ft (packW [(0, kind), (16, t), (32, argw)] :: body)

/-- A definition entry in words (Table 19.1). -/
def DefEnt.words (d : DefEnt) : List DWord :=
  [packW [(0, d.cfg.toNat), (32, d.src.toNat)], packW [(0, d.base.toNat), (32, d.commit.toNat)],
   packW [(0, d.s0.toNat), (32, d.gen), (40, 1)], 0]

/-- SER_CFG of series `s` as one word, EN included. -/
def Live.serCfg (l : Live) (b : Build) (s : Nat) : Nat :=
  b2n (l.sery s).on + (l.get b F.SER_CFG_TYPE s <<< 1) + (l.get b F.SER_CFG_RATIO s <<< 3)
    + (l.get b F.SER_CFG_EFFORT s <<< 5) + (l.get b F.SER_CFG_XFORM s <<< 7)
    + (l.get b F.SER_CFG_SHIFT s <<< 8) + (l.get b F.SER_CFG_SKIND s <<< 13)
    + (l.get b F.SER_CFG_NBLK_M1 s <<< 16)

/-- The definition of series `s` as a copy entry. -/
def Live.defOf (l : Live) (b : Build) (s : Nat) : DefEnt :=
  let x := l.sery s
  ⟨BitVec.ofNat 32 (l.serCfg b s), BitVec.ofNat 32 (l.serSrc b s),
   BitVec.ofNat 32 (l.get b F.SER_BASE_BASE s), x.commit, x.s0, l.gen s⟩

/-- A copy record leaves for the partner lantern, when there is one. -/
def Live.sendCopy (l : Live) (b : Build) (kind s : Nat) (body : List DWord) : Live :=
  if l.flag b F.FO_PART_EN then
    let l := { l with flt := { l.flt with sent := (l.flt.sent + 1) % 65536 } }
    l.create b (copyRec l b kind (l.get b F.FO_PART_TRUNK) s body)
  else l

/-! ### Definition (R313, R333) -/

/-- Why a series with the values of its registers may not be enabled (R333). -/
def Live.serRefused (l : Live) (b : Build) (s : Nat) : Bool :=
  let rg := l.serRegion b s
  let ty := l.get b F.SER_CFG_TYPE s
  let k := l.get b F.SER_CFG_SKIND s
  let st := l.stageArea b
  decide (l.celBytes b < rg.2) || regionsMeet rg (l.queueArea b) || regionsMeet rg st ||
    l.meetsSeries b rg s ||
    decide (ty = 3 ∨ l.get b F.SER_CFG_RATIO s = 3 ∨ 4 < k ∨
      (k = 1 ∧ 126 < l.get b F.SER_SRC_POS s) ∨
      (k = 4 ∧ (ty ≠ 2 ∨ l.get b F.SER_CFG_XFORM s ≠ 0 ∨ l.get b F.SER_CFG_SHIFT s ≠ 0))) ||
    decide (l.celBytes b < st.2) || regionsMeet st (l.queueArea b)

/-- Intake of series `s` stops and its history is gone; a query over it is lost (R313). -/
def Live.serStop (l : Live) (s : Nat) : Live :=
  { l with
    ser := { l.ser with sers := Tab.erase l.ser.sers s,
                        events := l.ser.events.filter fun e => decide (e.1 ≠ s) },
    eng := { l.eng with job := l.eng.job.map fun j =>
      if j.series = s then { j with lost := true } else j } }

/-- Series `s` starts empty. -/
def Live.serStart (l : Live) (s : Nat) : Live := l.updSer s fun _ => { ser0 with on := true }

/-- A write to SER_CFG of series `s` (R313, R333): of an enabled series only EN can change. -/
def Live.writeSerCfg (l : Live) (b : Build) (s : Nat) (v : Word) : Live :=
  let v := v.toNat
  if (l.sery s).on then (if v.testBit 0 then l else l.serStop s)
  else
    let l := (((l.put b F.SER_CFG_TYPE (v / 2) s).put b F.SER_CFG_RATIO (v / 8) s).put b
      F.SER_CFG_EFFORT (v / 32) s).put b F.SER_CFG_XFORM (v / 128) s
    let l := ((l.put b F.SER_CFG_SHIFT (v / 256) s).put b F.SER_CFG_SKIND (v / 8192) s).put b
      F.SER_CFG_NBLK_M1 (v / 65536) s
    if !v.testBit 0 then l
    else if l.serRefused b s then l.put b F.SER_STAT_REJ 1 s
    else
      let l := l.serStart s
      l.sendCopy b 0x11 s (l.defOf b s).words

/-! ### Samples (R315 to R317) -/

/-- A sample as F32, for the lantern items that read it (R322). -/
def sampleF32 (ty : Nat) (x : Word) : Word :=
  if x = fillWord ty then f32NaN
  else if ty = 0 then f32OfInt x.toInt
  else if ty = 1 then f32OfInt x.toNat
  else x

/-- An integer as a sample of a type, and whether it was saturated (R315). -/
def sampleOfInt (ty : Nat) (v : Int) : Word × Bool :=
  if ty = 0 then
    let w := satS 32 v
    (BitVec.ofInt 32 w, decide (w ≠ v))
  else if ty = 1 then
    if v < 0 then (0, true)
    else if 0xFFFFFFFF < v then (0xFFFFFFFF, true)
    else (BitVec.ofInt 32 v, false)
  else (f32OfInt v, false)

/-- The staging buffer of block `k` still awaits coding, for an older block (R331). -/
def Ser.overrunAt (x : Ser) (k : Nat) : Bool :=
  x.coding.any fun c => decide (c.samples ≠ [] ∧ c.blockNo ≠ k % 16777216 ∧ c.blockNo % 2 = k % 2)

/-- Samples as the words of memory, two to a word. -/
def packSamples : List Word → List DWord
  | a :: c :: t => packW [(0, a.toNat), (32, c.toNat)] :: packSamples t
  | [a] => [packW [(0, a.toNat)]]
  | [] => []

/-- Where the staging buffer of block `no` of series `s` lies (R319). -/
def Live.stageAddr (l : Live) (b : Build) (s no : Nat) : Nat :=
  l.get b F.CEL_SSTAGE_BASE * 2 ^ 27 + s * 2048 + no % 2 * 1024

/-- One sample is staged (R319, R331); a full beat is written. -/
def Live.stage (l : Live) (b : Build) (s : Nat) (v : Word) : Live :=
  let x := l.sery s
  let ty := l.get b F.SER_CFG_TYPE s
  let n := x.next.toNat
  let lost := x.overrunAt (n / 256)
  let v := if lost then fillWord ty else v
  let l := l.when lost fun l => l.bump b F.SER_ERR_OVERRUN
  let l := l.when (decide (v = fillWord ty)) fun l => l.bump b F.SER_STAT_NFILL s
  let cur := x.cur ++ [v]
  let l := l.when (decide (n % 8 = 7)) fun l =>
    l.celWrite b (l.stageAddr b s (n / 256) + n % 256 / 8 * 32) (packSamples (cur.drop (n % 256 / 8 * 8)))
  l.updSer s fun x =>
    let x := { x with next := x.next + 1, newest := some (sampleF32 ty v) }
    if n % 256 = 255 then { x with cur := [], coding := x.coding ++ [⟨n / 256, cur⟩] }
    else { x with cur := cur }

/-- `m` fills staged. -/
def Live.stageFills (l : Live) (b : Build) (s : Nat) : Nat → Live
  | 0 => l
  | m + 1 => (l.stage b s (fillWord (l.get b F.SER_CFG_TYPE s))).stageFills b s m

/-- A run of `m` fills (R317). -/
def Live.fillRun (l : Live) (b : Build) (s m : Nat) : Live :=
  let n := (l.sery s).next.toNat
  let k := n / 256
  let k' := (n + m) / 256
  if k = k' then l.stageFills b s m
  else
    let l := l.stageFills b s (256 - n % 256)
    let lo := max (k + 1) (k' - l.serNblk b s)
    let whole := (List.range (k' - lo)).map fun i => (⟨(lo + i) % 16777216, []⟩ : Staged)
    let l := l.bump b F.SER_STAT_NFILL s (256 * whole.length)
    let l := l.updSer s fun x => { x with
      next := BitVec.ofNat 32 (k' * 256), coding := x.coding ++ whole,
      newest := some f32NaN }
    l.stageFills b s ((n + m) % 256)

/-- A source value enters series `s` (R315). -/
def Live.intake (l : Live) (b : Build) (s : Nat) (v : SVal) : Live :=
  let x := l.sery s
  let ty := l.get b F.SER_CFG_TYPE s
  match v with
  | .fill m => (l.updSer s fun x => { x with prev := none }).fillRun b s m
  | .f32 w => l.stage b s (f32Canon w)
  | .int i sat =>
    let l := l.when sat fun l => l.bump b F.SER_ERR_SAT
    let l := l.updSer s fun x => { x with prev := some i }
    let go := fun (d : Int) =>
      let r := sampleOfInt ty (asr d (l.get b F.SER_CFG_SHIFT s))
      (l.when r.2 fun l => l.bump b F.SER_ERR_SAT).stage b s r.1
    if l.get b F.SER_CFG_XFORM s = 0 then go i
    else match x.prev with
      | some q => go (i - q)
      | none => l.fillRun b s 1

/-- SERIES_SAMPLE (R314): the oldest source event becomes samples of its series. -/
def execSeriesSample (s : State) : Host.Outcome State Fault Refusal :=
  s.runAwake fun b l =>
    match l.ser.events with
    | [] => l
    | (k, v) :: rest =>
      let l := { l with ser := { l.ser with events := rest } }
      if b.buoy ∨ !(l.sery k).on then l else l.intake b k v

/-! ### Coding and commit (R319, R328 to R330) -/

/-- The samples that a coded block decodes to. -/
def blkDecode (ws : List DWord) : Option (List Word) :=
  decodePay (blkType ws) (blkRatio ws) (blkMethod ws) (BitVec.ofNat 32 (fld (wordAt ws 0) 32 32)) (blkPay ws)

/-- The coder's own check of a block (R330). -/
def coderOk (ty : Nat) (xs : List Word) (ws : List DWord) : Bool :=
  match blkDecode ws with
  | none => false
  | some ys =>
    if blkExact ws then decide (samplesCrc ys = samplesCrc xs)
    else decide (maxDist ty (xs.drop 1) (ys.drop 1) ≤ 2 ^ fld (wordAt ws 1) 5 6)

/-- A block that could not be coded: METHOD 15 and a zero payload (R330). -/
def failedBlock (ty ratio gen no : Nat) (xs : List Word) : List DWord :=
  let nfill := (xs.filter (isFill ty)).length
  packW [(0, samplesCrc xs), (32, (xs.headD 0).toNat)] :: blkHead false 15 0 ratio ty nfill gen no ::
    payWords ratio 0

/-- The staged samples of block `no` of series `s` are read back; whether the read gave poison (R319, R431). -/
def Live.readStage (l : Live) (b : Build) (s no : Nat) : Live × Bool :=
  let a := l.stageAddr b s no
  (l.celRead b a 1024, l.celSpoilt b a 1024)

/-- BLOCK_CODE (R319, R328 to R330): the oldest completed block of a series is read from its staging buffer, coded,
checked and written. A block whose staged samples were read as poison is written as one that could not be coded
(DESIGN CHOICE, log entry 139). -/
def execBlockCode (series : BitVec 16) (s : State) : Host.Outcome State Fault Refusal :=
  s.runAwake fun b l =>
    let k := series.toNat
    match (l.sery k).coding with
    | [] => l
    | c :: rest =>
      let ty := l.get b F.SER_CFG_TYPE k
      let ratio := l.get b F.SER_CFG_RATIO k
      let (l, lost) := if c.samples = [] then (l, false) else l.readStage b k c.blockNo
      let xs := if c.samples = [] then List.replicate 256 (fillWord ty) else c.samples
      let ws := codeBlock ty ratio (l.get b F.SER_CFG_EFFORT k) (l.gen k) c.blockNo xs
      let ok := !lost && coderOk ty xs ws
      let ws := if ok then ws else failedBlock ty ratio (l.gen k) c.blockNo xs
      let l := l.when (!ok) fun l => (l.bump b F.SER_ERR_CODE_FAIL).logE b 0x0B01 3 [k, c.blockNo]
      let a := l.serAddr b k c.blockNo
      let w : Writing := ⟨c.blockNo, ⟨ws, false⟩, !l.celDead b a⟩
      (l.updSer k fun x => { x with coding := rest, writing := x.writing ++ [w] }).celWrite b a ws

/-- BLOCK_COMMIT (R319, R448): the cellar acknowledges the oldest block write of a series. No acknowledge comes for
a write that did not leave, nor from a port that has failed since (R82; log entry 140). -/
def execBlockCommit (series : BitVec 16) (s : State) : Host.Outcome State Fault Refusal :=
  s.runAwake fun b l =>
    let k := series.toNat
    match (l.sery k).writing with
    | [] => l
    | w :: rest =>
      let a := l.serAddr b k w.no
      if !w.sent ∨ l.celDead b a then l
      else
        let l := l.updSer k fun y => { y with
          writing := rest, ring := Tab.insert y.ring (w.no % l.serNblk b k) w.blk,
          commit := BitVec.ofNat 32 ((w.no + 1) * 256) }
        l.sendCopy b 0x10 k (BitVec.ofNat 64 a :: w.blk.words)

end Sys2Proof.Machine
end

