-- ==== Sys2Proof/Machine/Restore.lean ====
section
/-! DEFINITION. Partner copies at their holder, and the restore of a lantern's series (spec/19 R448 to
R452). -/

namespace Sys2Proof.Machine

/-! ### Copy regions (R449) -/

/-- The region of entry `k`, first byte and end. -/
def Live.copyRegion (l : Live) (b : Build) (k : Nat) : Nat × Nat :=
  let a := l.get b F.PCOPY_BASE_BASE k * 2 ^ 20
  (a, a + 2 ^ 21 + l.get b F.PCOPY_SRC_SPAN k * 2 ^ 30)

/-- A byte region meets that of a copy entry in force other than `but`. -/
def Live.meetsCopies (l : Live) (b : Build) (rg : Nat × Nat) (but : Nat) : Bool :=
  (List.range 4).any fun k =>
    decide (k ≠ but) && l.flag b F.PCOPY_VALID k && regionsMeet rg (l.copyRegion b k)

/-- The copy entry that holds copies for lantern `t`. -/
def Live.holdsFor (l : Live) (b : Build) (t : Nat) : Option Nat :=
  (List.range 4).find? fun k => l.flag b F.PCOPY_VALID k && decide (l.get b F.PCOPY_TRUNK k = t)

/-- What lies at the base of entry `k`. Definitions and blocks lie in the cellar, whichever entry shows
them. -/
def Live.region (l : Live) (b : Build) (k : Nat) : Region :=
  Tab.getD l.flt.regions (l.get b F.PCOPY_BASE_BASE k) ⟨[], []⟩

/-- The region of entry `k` changed by `f`. -/
def Live.updRegion (l : Live) (b : Build) (k : Nat) (f : Region → Region) : Live :=
  { l with flt := { l.flt with
      regions := Tab.upd l.flt.regions (l.get b F.PCOPY_BASE_BASE k) ⟨[], []⟩ f } }

/-- Where entry `k` keeps the block of source address `a`: an offset from its base, if it lies in the
region. -/
def Live.copyOfs (l : Live) (b : Build) (k a : Nat) : Option Nat :=
  let lo := l.get b F.PCOPY_SRC_LO k * 2 ^ 30
  if lo ≤ a ∧ a < lo + l.get b F.PCOPY_SRC_SPAN k * 2 ^ 30 then some (2 ^ 21 + (a - lo)) else none

/-- A write to PCOPYk (R449): VALID is refused for a region that does not fit or meets another. -/
def Live.writePcopy (l : Live) (b : Build) (k : Nat) (v : Word) : Live :=
  let n := v.toNat
  let l := l.put b F.PCOPY_TRUNK n k
  if !n.testBit 10 then l.put b F.PCOPY_VALID 0 k
  else if l.flag b F.PCOPY_VALID k then l
  else
    let rg := l.copyRegion b k
    if l.celBytes b < rg.2 ∨ regionsMeet rg (l.queueArea b) ∨ regionsMeet rg (l.stageArea b) ∨
        l.meetsSeries b rg 65536 ∨ l.meetsCopies b rg k then
      l.put b F.COPY_STAT_REJ 1
    else l.put b F.PCOPY_VALID 1 k

/-- A definition entry from its words (Table 19.1). -/
def defEnt (ws : List DWord) : DefEnt :=
  let w := fun (i lo : Nat) => BitVec.ofNat 32 (fld (wordAt ws i) lo 32)
  ⟨w 0 0, w 0 32, w 1 0, w 1 32, w 2 0, fld (wordAt ws 2) 32 8⟩

/-- KIND of a REPLAY record. -/
def rplKind (r : Rec) : Nat := fld (wordAt r.body 0) 0 8

/-- The series of a copy record. -/
def copySer (r : Rec) : Nat := fld (wordAt r.body 0) 32 16

/-- A record of a copy or restore kind for this lantern has arrived on link `n`. -/
def Live.copyHere (l : Live) (b : Build) (n : BitVec 5) (r : Rec) : Bool :=
  b.lantern && l.awake && l.isUp n.toNat && decide (copyDst r = some (l.trunk b))

/-- The record comes from the holder of the restore that runs. -/
def Live.fromHolder (l : Live) (b : Build) (r : Rec) : Bool :=
  l.flt.rest.isSome && decide (r.src.toNat / 256 = l.get b F.REST_CTL_HOLDER)

/-- Where region `k` keeps the definition of series `s`. -/
def Live.copyDefAddr (l : Live) (b : Build) (k s : Nat) : Nat := l.get b F.PCOPY_BASE_BASE k * 2 ^ 20 + 32 * s

/-- A definition is written into region `k`. -/
def Live.copyDef (l : Live) (b : Build) (k : Nat) (r : Rec) : Live :=
  let s := copySer r
  let d := defEnt (r.body.drop 1)
  (l.celWrite b (l.copyDefAddr b k s) d.words).updRegion b k fun g => { g with defs := Tab.insert g.defs s d }

/-- A block is written into region `k`, and its series' COMMIT follows. -/
def Live.copyBlk (l : Live) (b : Build) (k : Nat) (r : Rec) : Live :=
  let a := (wordAt r.body 1).toNat
  let ws := r.body.drop 2
  match l.copyOfs b k a with
  | none => l.bump b F.COPY_STAT_DROP
  | some o =>
    let c := BitVec.ofNat 32 ((blkNo ws + 1) * 256)
    let l := (l.celWrite b (l.get b F.PCOPY_BASE_BASE k * 2 ^ 20 + o) ws).updRegion b k fun g =>
      { g with blks := Tab.insert g.blks o ⟨ws, r.poison⟩ }
    match Tab.find? (l.region b k).defs (copySer r) with
    | none => l
    | some d =>
      let d := { d with commit := c }
      (l.celWrite b (l.copyDefAddr b k (copySer r)) d.words).updRegion b k fun g =>
        { g with defs := Tab.insert g.defs (copySer r) d }

/-- COPY_RECORD_RECEIVE (R449). While a restore runs, records of its holder belong to the restore. -/
def execCopyRecordReceive (n : BitVec 5) (r : Rec) (s : State) : Host.Outcome State Fault Refusal :=
  s.run fun b l =>
    if !l.copyHere b n r ∨ l.fromHolder b r then l
    else match l.holdsFor b (r.src.toNat / 256) with
      | none => l
      | some k =>
        if rplKind r = 0x11 then l.copyDef b k r
        else if rplKind r = 0x10 then l.copyBlk b k r
        else l

/-! ### The holder's answer to REQ (R450) -/

/-- SER_CFG fields in a definition. -/
def DefEnt.ty (d : DefEnt) : Nat := d.cfg.toNat / 2 % 4
def DefEnt.ratio (d : DefEnt) : Nat := d.cfg.toNat / 8 % 4
def DefEnt.nblk (d : DefEnt) : Nat := d.cfg.toNat / 65536 + 1

/-- The block numbers of the readable window of a definition (R320). -/
def DefEnt.window (d : DefEnt) : List Nat :=
  let first := laterOf (d.commit - BitVec.ofNat 32 (d.nblk * 256)) d.s0
  blocksIn first (d.commit - first).toNat

/-- The source address of block `no` of a definition. -/
def DefEnt.addr (d : DefEnt) (no : Nat) : Nat :=
  d.base.toNat * 1024 + no % d.nblk * blkSize d.ratio

/-- The block that region `k` holds for source address `a`; where none was ever written, what lies there is
a free value. -/
def Live.copyAt (l : Live) (b : Build) (k a size : Nat) : Live × Blk :=
  match l.copyOfs b k a with
  | none => (l, ⟨[], true⟩)
  | some o =>
    let at_ := l.get b F.PCOPY_BASE_BASE k * 2 ^ 20 + o
    let open_ : Blk := ⟨(List.range (size / 8)).map fun i => Config.openWord (l.free + i), false⟩
    let x := (Tab.find? (l.region b k).blks o).getD open_
    ({ l with free := l.free + size / 8 }.celRead b at_ size, { x with poison := x.poison || l.celSpoilt b at_ size })

/-- The BLK record of block `no` of a series. -/
def Live.sendBlk (l : Live) (b : Build) (k t s : Nat) (d : DefEnt) (no : Nat) : Live :=
  let (l, x) := l.copyAt b k (d.addr no) (blkSize d.ratio)
  l.create b { copyRec l b 0x10 t s (BitVec.ofNat 64 (d.addr no) :: x.words) with poison := x.poison }

/-- The DEF and BLK records of one series. -/
def Live.sendSeries (l : Live) (b : Build) (k t s : Nat) (d : DefEnt) : Live :=
  let a := l.copyDefAddr b k s
  let r := { copyRec l b 0x11 t s d.words with poison := l.celSpoilt b a 32 }
  d.window.foldl (fun l no => l.sendBlk b k t s d no) ((l.celRead b a 32).create b r)

/-- RESTORE_REQ_RECEIVE (R450). -/
def execRestoreReqReceive (n : BitVec 5) (r : Rec) (s : State) : Host.Outcome State Fault Refusal :=
  s.run fun b l =>
    if !l.copyHere b n r ∨ rplKind r ≠ 0x12 ∨ r.poison then l
    else
      let t := r.src.toNat / 256
      let k := l.holdsFor b t
      let defs := match k with
        | some k => (l.region b k).defs
        | none => []
      let l := defs.foldl (fun l e => l.sendSeries b (k.getD 0) t e.1 e.2) l
      l.create b (copyRec l b 0x13 t defs.length [])

/-! ### The restoring lantern (R450 to R452) -/

/-- A write to REST_CTL: HOLDER, and with GO the start of a restore. -/
def Live.writeRestCtl (l : Live) (b : Build) (v : Word) : Live :=
  let n := v.toNat
  let l := l.put b F.REST_CTL_HOLDER n
  if !n.testBit 10 then l
  else if l.plans.any (fun e => e.2.active) ∨ l.ser.sers.any (fun e => e.2.on) ∨ l.flt.rest.isSome then
    l.put b F.REST_STAT_REJ 1
  else
    let l := { l with flt := { l.flt with
      rest := some ⟨[], [], []⟩, restState := 1, restored := 0, restarted := 0 } }
    l.create b (copyRec l b 0x12 (l.get b F.REST_CTL_HOLDER) 0 [])

/-- The registers of a series take a copied definition. -/
def Live.defRegs (l : Live) (b : Build) (s : Nat) (d : DefEnt) : Live :=
  let v := d.cfg.toNat
  let q := d.src.toNat
  let l := (((l.put b F.SER_CFG_TYPE (v / 2) s).put b F.SER_CFG_RATIO (v / 8) s).put b
    F.SER_CFG_EFFORT (v / 32) s).put b F.SER_CFG_XFORM (v / 128) s
  let l := ((l.put b F.SER_CFG_SHIFT (v / 256) s).put b F.SER_CFG_SKIND (v / 8192) s).put b
    F.SER_CFG_NBLK_M1 (v / 65536) s
  let l := ((l.put b F.SER_SRC_LOCAL q s).put b F.SER_SRC_STREAM (q / 2 ^ 8) s).put b
    F.SER_SRC_POS (q / 2 ^ 22) s
  (l.put b F.SER_SRC_ITEM7 (q / 2 ^ 29) s).put b F.SER_BASE_BASE d.base.toNat s

/-- GEN of series `s` becomes `g`. -/
def Live.setGen (l : Live) (s g : Nat) : Live :=
  { l with gens := Tab.set l.gens s 0 ((g + 256 - l.genBase % 256) % 256) }

/-- The restored blocks of a definition, when each of its window has arrived and passes the check of
R332. -/
def DefEnt.complete (d : DefEnt) (blks : List (Nat × Blk)) : Option (List (Nat × Blk)) :=
  d.window.foldl (fun acc no => match acc with
    | none => none
    | some xs =>
      match blks.find? fun e => decide (e.1 = d.addr no) with
      | none => none
      | some e => match classify d.ty d.ratio d.gen d.nblk no e.2.poison e.2.words with
        | .exact _ => some (xs ++ [(no, e.2)])
        | .inexact _ => some (xs ++ [(no, e.2)])
        | _ => none) (some [])

/-- Series `s` is restored: it is enabled as copied, a whole fill block marks the outage, and intake resumes
(R451). -/
def Live.restoreSer (l : Live) (b : Build) (s : Nat) (d : DefEnt) (xs : List (Nat × Blk)) : Live :=
  let l := (l.defRegs b s d).setGen s d.gen
  let no := d.commit.toNat / 256
  let fill : Blk := ⟨codeBlock d.ty d.ratio (l.get b F.SER_CFG_EFFORT s) d.gen no
    (List.replicate 256 (fillWord d.ty)), false⟩
  let ring := xs.foldl (fun (t : Tab Blk) e => Tab.insert t (e.1 % d.nblk) e.2) []
  let next := BitVec.ofNat 32 ((no + 1) * 256)
  let l := l.updSer s fun _ => { ser0 with
    on := true, next := next, commit := next, s0 := d.s0, newest := some f32NaN,
    ring := Tab.insert ring (no % d.nblk) fill }
  let l := (l.celWrite b (d.addr no) fill.words).bump b F.SER_STAT_NFILL s 256
  let l := l.sendCopy b 0x11 s (l.defOf b s).words
  let l := l.sendCopy b 0x10 s (BitVec.ofNat 64 (d.addr no) :: fill.words)
  { l with flt := { l.flt with
      restored := l.flt.restored + 1,
      rest := l.flt.rest.map fun q => { q with restored := q.restored ++ [s] } } }

/-- Series `s` is restored once it is whole. -/
def Live.tryRestore (l : Live) (b : Build) (s : Nat) : Live :=
  match l.flt.rest with
  | none => l
  | some q =>
    if s ∈ q.restored then l
    else match Tab.find? q.defs s with
      | none => l
      | some d => match d.complete q.blks with
        | some xs => l.restoreSer b s d xs
        | none => l

/-- A restored block is checked as a reader of the series would check it (R332, R450): one that fails, or is
overtaken, counts. -/
def Live.checkRestored (l : Live) (b : Build) (s a : Nat) (d : DefEnt) (x : Blk) : Live :=
  match d.window.find? fun no => decide (d.addr no = a) with
  | none => l
  | some no => match classify d.ty d.ratio d.gen d.nblk no x.poison x.words with
    | .failing => (l.bump b F.SER_ERR_BLK_CHECK).logE b 0x0B02 3 [s, no]
    | .overtaken => l.bump b F.SER_ERR_OVERTAKEN
    | _ => l

/-- RESTORE_RECORD_RECEIVE (R450, R451). -/
def execRestoreRecordReceive (n : BitVec 5) (r : Rec) (s : State) : Host.Outcome State Fault Refusal :=
  s.run fun b l =>
    if !l.copyHere b n r ∨ !l.fromHolder b r then l
    else match l.flt.rest with
      | none => l
      | some q =>
        let k := copySer r
        if rplKind r = 0x11 then
          if r.poison ∨ k ∈ q.restored then l
          else
            let q := { q with defs := Tab.insert q.defs k (defEnt (r.body.drop 1)) }
            { l with flt := { l.flt with rest := some q } }.tryRestore b k
        else if rplKind r = 0x10 then
          let a := (wordAt r.body 1).toNat
          let x : Blk := ⟨r.body.drop 2, r.poison⟩
          let q := { q with blks := (q.blks.filter fun e => decide (e.1 ≠ a)) ++ [(a, x)] }
          let l := { l with flt := { l.flt with rest := some q } }
          let l := match Tab.find? q.defs k with
            | some d => l.checkRestored b k a d x
            | none => l
          (l.celWrite b a x.words).tryRestore b k
        else l

/-- Series `s` restarts empty, with the copied GEN + 1, and a GAP record of CAUSE 10 (R452). -/
def Live.restartSer (l : Live) (b : Build) (s : Nat) (d : DefEnt) : Live :=
  let g := (d.gen + 1) % 256
  let l := ((l.defRegs b s d).setGen s g).serStart s
  let l := l.sendCopy b 0x11 s (l.defOf b s).words
  let q := BitVec.ofNat 32 (Tab.getD l.seqs 0x3101 0)
  let r := l.gapRec b (l.src b) 0x3101 q 1 10
  let body := match r.body with
    | [w, v] => [w, v ||| packW [(28, s), (44, g)]]
    | ws => ws
  l.create b { r with body := body }

/-- The restore ends (R452); `late` tells that it timed out. -/
def Live.restoreEnd (l : Live) (b : Build) (late : Bool) : Live :=
  match l.flt.rest with
  | none => l
  | some q =>
    let todo := q.defs.filter fun e => decide (e.1 ∉ q.restored)
    let l := { l with flt := { l.flt with
      rest := none, restState := if late then 3 else 2, restarted := todo.length } }
    let l := todo.foldl (fun l e => l.restartSer b e.1 e.2) l
    if late ∨ todo ≠ [] then l.logE b 0x1109 3 [todo.length] else l.logE b 0x110A 1 [l.flt.restored]

/-- RESTORE_DONE (R452). -/
def execRestoreDone (n : BitVec 5) (r : Rec) (s : State) : Host.Outcome State Fault Refusal :=
  s.run fun b l =>
    if l.copyHere b n r ∧ l.fromHolder b r ∧ rplKind r = 0x13 then l.restoreEnd b false else l

/-- RESTORE_TIMEOUT (R452). -/
def execRestoreTimeout (s : State) : Host.Outcome State Fault Refusal :=
  s.runAwake fun b l => l.restoreEnd b true

end Sys2Proof.Machine
end

