-- ==== Sys2Proof/Machine/Replay.lean ====
section
/-! DEFINITION. REPLAY_CTL: input logging and the bench replay of a log (spec/19 R460 to R463). -/

namespace Sys2Proof.Machine

/-! ### Mode 00 -/

/-- The epoch in progress of the logged plan is not complete. -/
def Live.rplOpen (l : Live) : Bool :=
  let p := l.flt.rpl.plan
  let x := l.plan p
  l.flt.rpl.started && (match x.oc with
    | some o => !o.done x.image || l.plnWaits p o.epoch || x.due.any (fun d => decide (d.epoch = o.epoch)) ||
        x.occs.any (fun d => decide (d.epoch = o.epoch))
    | none => false)

/-- REPLAY_CTL with mode 00 (R460, R462, R463). -/
def Live.rplCtlStop (l : Live) (b : Build) (r : Ret) (c : Instr) : Live :=
  let q := l.flt.rpl
  if q.st = .off ∨ q.reply.isSome then l.reply b r eState
  else
    let open_ := l.rplOpen
    let l := (l.hold r c)
    let l := { l with flt := { l.flt with rpl := { q with reply := some r, stopping := true } } }
    if q.st = .replaying then l.rplStop b 0
    else if open_ then l
    else l.rplEnd b 0

/-! ### Mode 01 -/

/-- A cellar port that a byte range uses is gated. -/
def Live.rangeGated (l : Live) (b : Build) (a n : Nat) : Bool :=
  (List.range (min ((a + n - 1) / 1024 - a / 1024 + 1) 12)).any fun i =>
    match l.celPort b ((a / 1024 + i) * 1024) with
    | some m => !l.flag b F.UNIT_EN_CEL_CEL 0 m
    | none => false

/-- REPLAY_CTL with mode 01 (R460): logging begins at the first cut 1 ms or more after it. -/
def Live.rplCtlLog (l : Live) (b : Build) (p : Packet) (r : Ret) : Live :=
  let k := p.aBits 8 8
  let a := (wordAt p.data 0).toNat
  let n := (wordAt p.data 1).toNat
  let rg := (a, a + n)
  match firstErr [
    (l.rangeGated b a n, eGated),
    (decide (a % 8 ≠ 0 ∨ n % 8 ≠ 0 ∨ n < 64 ∨ 2 ^ 32 ≤ n ∨ l.celBytes b < a + n) ||
      regionsMeet rg (l.queueArea b) || regionsMeet rg (l.stageArea b) || l.meetsSeries b rg 65536 ||
      l.meetsCopies b rg 4, eRange),
    (decide ((l.plan k).state ≠ .running ∨ l.flt.rpl.st ≠ .off), eState)] with
  | some e => l.reply b r e
  | none =>
    let q : Rpl := { rpl0 with st := .logging, plan := k, base := a, len := n, fromT := l.ft + 1000000 }
    { l with flt := { l.flt with rpl := q } }.reply b r 0 0

/-! ### Mode 10 -/

/-- The records that fit in `n` bytes. -/
def fitRecs : Nat → List Rec → List Rec
  | _, [] => []
  | n, r :: t => if n < r.len then [] else r :: fitRecs (n - r.len) t

/-- EPOCH and ARGW of a REPLAY record. -/
def rplEpoch (r : Rec) : Nat := fld (wordAt r.body 0) 16 16
def rplArg (r : Rec) : Nat := fld (wordAt r.body 0) 32 32

/-- The log at byte `a`: what logging has left in this cellar, or what was put there from outside. -/
def Live.logAt (l : Live) (a n : Nat) : List Rec :=
  if l.flt.rpl.base = a then fitRecs n l.flt.rpl.recs else []

/-- The region of a log is read: a poisoned word, or a port that does not answer, fails its record's CRC (R431,
R463). -/
def Live.readLog (l : Live) (b : Build) (a n : Nat) : Live × Bool :=
  let xs := burstsOf (n / 8 + 1) a n
  (xs.foldl (fun l x => l.celRead b x.1 x.2) l, xs.any fun x => l.celSpoilt b x.1 x.2)

/-- REPLAY_CTL with mode 10 (R463). -/
def Live.rplCtlReplay (l : Live) (b : Build) (p : Packet) (r : Ret) : Live :=
  let k := p.aBits 8 8
  let a := (wordAt p.data 0).toNat
  let n := (wordAt p.data 1).toNat
  let rs := l.logAt a n
  let x := l.plan k
  let start := rs.headD (rplRec l b 0 0 0 0 [])
  let w := wordAt start.body 1
  let ok := decide (l.flt.rpl.st = .off ∧ rplKind start = 1 ∧ rplArg start % 1024 = l.trunk b ∧
      fld (wordAt start.body 0) 8 8 = k ∧ x.state = .verified ∧ fld w 0 32 = x.crc.toNat) &&
    (rs.any fun y => decide (rplKind y = 6)) && !(l.plans.any fun e => e.2.active) && l.engReady b x.image
  let used := rs.foldl (fun m y => m + y.len) 0
  if l.rangeGated b a n then l.reply b r eGated
  else if !ok then l.reply b r eState
  else
    let (l, bad) := l.readLog b a used
    if bad ∨ rs.any (·.poison) then l.reply b r eCheck
    else
      let last := match rs.find? fun y => decide (rplKind y = 6) with
        | some y => rplArg y % 65536
        | none => 0
      let q : Rpl := { rpl0 with
        st := .replaying, plan := k, base := a, len := n, fromT := BitVec.ofNat 32 (fld (wordAt start.body 3) 0 32),
        started := true, last := last, recs := rs, pos := 1, bytes := start.len }
      let l := ({ l with flt := { l.flt with rpl := q } }.ownSyncs k x.image)
      (l.updPlan k fun x => { x with armSeq := rplArg start / 1024 % 256 }).reply b r 0 0

/-! ### A replay runs (R463) -/

/-- The count of epoch `e`: a CUTCALL's, or the period's. -/
def Live.rplCount (l : Live) (p e : Nat) : Word :=
  let q := l.flt.rpl
  let x := l.plan p
  match x.pendCuts.find? fun c => decide (c.2 = e) with
  | some c => c.1
  | none =>
    let e0 := rplEpoch (q.recs.headD ⟨0, false, false, false, false, false, 0, 0, 0, 0, []⟩)
    q.fromT + BitVec.ofNat 32 ((e + 65536 - e0) % 65536 * imgPeriod x.image)

/-- Epoch `e` is open at the bench. -/
def Live.rplCut (l : Live) (b : Build) (p e : Nat) : Live :=
  match (l.plan p).oc with
  | some o => if o.epoch = e then l else l.openCut b p (l.rplCount p e) e []
  | none => l.openCut b p (l.rplCount p e) e []

/-- The child of an image that a record comes from. -/
def kidOf (g : Image) (t : Nat) : Option (Nat × Nat) :=
  ((imgKids g).find? fun k => decide (k.2.2.trunk = t)).map fun k => (k.1, k.2.1)

/-- A logged input is merged. -/
def Live.rplInput (l : Live) (b : Build) (p e arg : Nat) (ws : List DWord) : Live :=
  let g := (l.plan p).image
  if arg = 4 then
    l.updPlan p fun x => { x with
      pendCuts := x.pendCuts ++ [(BitVec.ofNat 32 (fld (wordAt ws 1) 0 32), fld (wordAt ws 1) 32 16)] }
  else match recOfWords ws with
    | none => l
    | some r =>
      let l := l.rplCut b p e
      if arg = 0 then l.updCut p fun o => { o with vecs := Tab.insert o.vecs (r.src.toNat % 256) r.body }
      else if arg = 3 then l.giveThresholds b p (thrsOf r.body) r
      else if arg = 2 ∧ (descOf r.body).stage = 0x10 then
        l.updCut p fun o =>
          if (descOf r.body).kind = 2 then { o with lists := mergeLists g o.lists (listsOf r.body) }
          else { o with can := o.can.merge (canOf r.body), cPresent := o.cPresent ++ [r.src.toNat % 256] }
      else match kidOf g (r.src.toNat / 256) with
        | some (st, i) => l.takeFrag b p st i r
        | none => l

/-- The child at place `c` of a stage has arrived, by the words of a DECIDE. -/
def arrivedBy (ws : List DWord) (c : Nat) : Bool := bit (wordAt ws c) 10

/-- A logged decision takes the place of the bench's own close or deadline. -/
def Live.rplDecide (l : Live) (b : Build) (p e arg : Nat) (ws : List DWord) : Live :=
  let l := l.rplCut b p e
  let member := fun (k : Nat) => bit (wordAt ws (k / 64)) (k % 64)
  let st := arg / 4 % 4
  match (l.plan p).oc with
  | none => l
  | some o =>
    if arg % 4 = 0 then (if o.leafDone then l else l.closeLeaf b p member)
    else if arg % 4 = 1 then
      if o.bClosed then l
      else (l.updCut p fun o => { o with bPresent := (List.range 256).filter member }).closeB b p
    else if arg % 4 = 2 then
      if o.stage = st then l.decideA b p st (arrivedBy ws) else l
    else if o.bClosed ∧ o.bStage = st then l.decideB b p st fun _ c => arrivedBy ws c
    else l

/-- F32 items packed two to a word. -/
def f32List (n : Nat) (ws : List DWord) : List Word :=
  (List.range n).map fun i => BitVec.ofNat 32 (item32 ws i)

/-- A logged live state is loaded. -/
def Live.rplState (l : Live) (p arg : Nat) (ws : List DWord) : Live :=
  let g := (l.plan p).image
  let i := arg % 256
  let a := imgAction g i
  let ks := (seqBlk g a).sers
  let n := (zeroState (l.seqm a.slot).image).length
  match (List.range ks.length).find? fun j => decide (ks.getD j 0 = arg / 256 % 65536) with
  | none => l
  | some j =>
    let v : Live1 := ⟨BitVec.ofNat 32 (fld (wordAt ws 0) 0 32), f32List n (ws.drop 2), fld (wordAt ws 1) 0 8⟩
    { l with eng := { l.eng with live := Tab.insert l.eng.live (liveKey p i j) v } }

/-- One entry of the log is replayed. Entries of epochs after LAST are passed over. -/
def Live.rplApply (l : Live) (b : Build) (r : Rec) : Live :=
  let p := l.flt.rpl.plan
  let e := rplEpoch r
  let arg := rplArg r
  let ws := r.body.drop 1
  if epochLater e l.flt.rpl.last then l
  else if rplKind r = 2 then l.rplInput b p e arg ws
  else if rplKind r = 3 then l.rplDecide b p e arg ws
  else if rplKind r = 5 then l.rplState p arg ws
  else if rplKind r = 7 then
    (l.rplCut b p e).updCut p fun o => { o with litems := ws.map fun w => BitVec.ofNat 32 (fld w 0 32) }
  else l

/-- The next entry of the log, up to END. -/
def Live.rplNext (l : Live) : Option Rec :=
  let q := l.flt.rpl
  if q.st ≠ .replaying then none
  else match q.recs[q.pos]? with
    | some r => if rplKind r = 6 then none else some r
    | none => none

/-- A step of a replay: one entry. -/
def Live.rplStep (l : Live) (b : Build) : Live :=
  match l.rplNext with
  | none => l
  | some r =>
    let q := l.flt.rpl
    { l with flt := { l.flt with rpl := { q with pos := q.pos + 1, bytes := q.bytes + r.len } } }.rplApply b r

/-! ### Commands -/

/-- REPLAY_CTL by its mode. -/
def Live.rplCtl (l : Live) (b : Build) (p : Packet) (r : Ret) (c : Instr) : Live :=
  let m := p.aBits 0 2
  if m = 0 then l.rplCtlStop b r c
  else if m = 1 then l.rplCtlLog b p r
  else if m = 2 then l.rplCtlReplay b p r
  else l.reply b r eRange

/-- The row of REPLAY_CTL. -/
def rplRow : OpRow := opRow 0x60 false true 2 2 2

/-- REPLAY_CTL, mode 00. -/
def execReplayCtlStop (p : Packet) (s : State) : Host.Outcome State Fault Refusal :=
  s.run fun b l => l.command b (.replayCtlStop p) rplRow p fun l r => l.rplCtl b p r (.replayCtlStop p)

/-- REPLAY_CTL, mode 01. -/
def execReplayCtlLog (p : Packet) (s : State) : Host.Outcome State Fault Refusal :=
  s.run fun b l => l.command b (.replayCtlLog p) rplRow p fun l r => l.rplCtl b p r (.replayCtlLog p)

/-- REPLAY_CTL, mode 10. -/
def execReplayCtlReplay (p : Packet) (s : State) : Host.Outcome State Fault Refusal :=
  s.run fun b l => l.command b (.replayCtlReplay p) rplRow p fun l r => l.rplCtl b p r (.replayCtlReplay p)

/-- REPLAY_FINISH (R463): every entry up to END is replayed, and the actions have run. -/
def execReplayFinish (s : State) : Host.Outcome State Fault Refusal :=
  s.runAwake fun b l =>
    let x := l.plan l.flt.rpl.plan
    if l.flt.rpl.st ≠ .replaying ∨ l.rplNext.isSome ∨ x.due ≠ [] ∨ x.occs.any (fun o => !o.waiting) then l
    else l.rplStop b 0

end Sys2Proof.Machine
end

