-- ==== Sys2Proof/Machine/Power.lean ====
section
/-! DEFINITION. Power states, wake events, the agreed counts that fire, host-unit requests, and the metering
of the tray input over PMBus (spec/20; spec/04 R124). -/

namespace Sys2Proof.Machine

/-! ### Entry (R467, R468) -/

/-- `pwr_state` (Table 2.2). -/
def PwrSt.code : PwrSt → Nat
  | .run => 0
  | .idle => 1
  | .sleep => 2
  | .deep => 3
  | .off => 4

/-- The state that a PWR_STATE names. -/
def pwrTarget (n : Nat) : Option PwrSt :=
  if n = 1 then some .idle else if n = 2 then some .sleep else if n = 3 then some .deep
  else if n = 4 then some .off else none

/-- A plan in a state that keeps the block awake. -/
def Plan.busy (x : Plan) : Bool := decide (x.state = .loading) || x.active

/-- The refusers of Table 20.2 that hold for the command `r`, with the lowest target that each refuses: 1
every target, 2 all but IDLE, 3 DEEP and OFF. -/
def Live.refusers (l : Live) (b : Build) (r : Ret) : List (Nat × Nat) :=
  let on := fun (c : Bool) (code lowest : Nat) => if c then [(code, lowest)] else []
  on (l.cmd.busy.any (fun x => decide (x.r.port ≠ r.port)) ||
      (b.lantern && l.cmd.fwd.any fun e => e.own.isNone)) 1 1 ++
  on (!l.pwr.reqs.isEmpty) 2 2 ++
  on (!l.mem.jobs.isEmpty || l.flt.rest.isSome || decide (l.flt.rpl.st ≠ .off)) 3 2 ++
  on (l.ques.any fun e => !e.2.recs.isEmpty) 4 3 ++
  on (b.lantern && l.ser.sers.any fun e => e.2.on) 5 2 ++
  on (l.time.cmps.any fun c => decide (c.owner ≠ .wake)) 6 3 ++
  ((l.plans.filter fun e => e.2.busy).map fun e => (0x100 + e.1, 2)) ++
  (if b.lantern then ((List.range 32).filter fun n => decide (l.role b n ≠ 0)).map fun n => (0x200 + n, 2)
   else [])

/-- The lowest code that refuses target `t`. -/
def Live.refuser (l : Live) (b : Build) (r : Ret) (t : Nat) : Option Nat :=
  ((l.refusers b r).find? fun x => decide (x.2 ≤ t)).map (·.1)

/-- The refusal counter of a target. -/
def refFld (t : Nat) : Fld :=
  if t = 1 then F.PWR_REFCNT_IDLE else if t = 2 then F.PWR_REFCNT_SLEEP
  else if t = 3 then F.PWR_REFCNT_DEEP else F.PWR_REFCNT_OFF

/-- PWR_STATE (R467): the reply leaves before the entry. -/
def execPwrState (p : Packet) (s : State) : Host.Outcome State Fault Refusal :=
  s.run fun b l => l.command b (.pwrState p) (opRow 0x48 true true 2 0 0) p fun l r =>
    let t := p.aBits 0 3
    match pwrTarget t with
    | none => l.reply b r eRange
    | some st =>
      match l.refuser b r t with
      | some c =>
        let l := (l.put b F.PWR_REFUSER_CODE c).bump b (refFld t)
        (l.logE b 0x0F01 2 [t, c]).reply b r eState c
      | none =>
        let l := l.reply b r 0
        { l with pwr := { l.pwr with target := some st, wakePend := 0, wasIdle := false } }

/-! ### Exit (R470 to R472) -/

/-- A wake event of this source is an event of this state (Table 20.4). -/
def wakes (src : Nat) : PwrSt → Bool
  | .run => false
  | .idle => decide (src = 1 ∨ src = 2)
  | .sleep => decide (src = 1 ∨ src = 3 ∨ src = 4 ∨ src = 5)
  | .deep => decide (src = 1 ∨ src = 3 ∨ src = 5)
  | .off => decide (src = 1)

/-- SLEEP ends: the islands go on, the shaper restarts, and trace takes its exit mark. -/
def Live.sleepExit (l : Live) (b : Build) (src : Nat) : Live :=
  let l := { l with pwr := { l.pwr with st := .run, wake := src } }
  ((l.shapeReset b).markExit b).logE b 0x0F02 1 [2, src]

/-- DEEP ends: `pwr_state` asks for the main supply. -/
def Live.deepExit (l : Live) (b : Build) (src : Nat) : Live :=
  { l with pwr := { l.pwr with st := .run, wake := src, ramping := true } }.logE b 0x0F02 1 [3, src]

/-- OFF ends with the reset kind of R134. `iso_en` stays up until READY (R85; log entry 118). -/
def Live.offExit (l : Live) (b : Build) (src : Nat) : Live :=
  let l := (l.coldReset).release l.boot.st
  let l := { l with pwr := { l.pwr with wake := src, isoEn := true } }
  (l.put b F.TRC_STAT_PWR_LOST 1).logE b 0x0F02 1 [4, src]

/-- The exit from the state the block is in. -/
def Live.pwrExit (l : Live) (b : Build) (src : Nat) : Live :=
  match l.pwr.st with
  | .run => l
  | .idle => l.idleExit b src
  | .sleep => l.sleepExit b src
  | .deep => l.deepExit b src
  | .off => l.offExit b src

/-- A wake event: it ends the state, or is kept while an entry runs (R471). -/
def Live.wakeEvent (l : Live) (b : Build) (src : Nat) : Live :=
  if l.boot.held then l
  else match l.pwr.target with
    | some t =>
      if wakes src t then
        let w := if l.pwr.wakePend = 0 then src else min l.pwr.wakePend src
        { l with pwr := { l.pwr with wakePend := w } }
      else l
    | none => if wakes src l.pwr.st then l.pwrExit b src else l

/-! ### The states that lose state -/

/-- The entries of the attic copy whose bank is kept in DEEP: where an entry lies is a free value. -/
def Live.atticKept (l : Live) (b : Build) : List LogEnt :=
  let first := l.get b F.LOG_ATTIC_FIRST
  let n := l.get b F.LOG_ATTIC_NBANKS_M1 + 1
  let keep := l.get b F.ATTIC_SEL_BANKS
  (List.range l.log.attic.length).flatMap fun i =>
    let k := first + (Config.openValue (l.free + i)).toNat % n
    if keep.testBit k then (l.log.attic.drop i).take 1 else []

/-- DEEP entered (R468, R469, R472): what the AON island and the selected attic banks hold is kept. -/
def Live.deepEntry (l : Live) (b : Build) : Live :=
  let es := l.atticKept b
  let lost := decide (es.length < l.log.attic.length)
  let free := l.free + l.log.attic.length
  let d := l.aonKept b .deep
  let d := { d with
    boot := { d.boot with phase := 0 }, free := free, log := { d.log with attic := es },
    pwr := { d.pwr with st := .deep, wake := l.pwr.wake, isoEn := true, retEn := true } }
  d.when lost fun d => d.setBit b F.LOG_FLAG_ATTIC_LOST

/-- OFF entered: nothing is kept but the static inputs, which stay as they are. -/
def Live.offEntry (l : Live) : Live :=
  let c := l.coldReset
  { c with boot := { c.boot with held := false, st := l.boot.st },
           pwr := { c.pwr with st := .off, isoEn := true } }

/-- PWR_ENTRY (R468, R471): the reply has left; a wake event that arrived meanwhile follows at once. -/
def execPwrEntry (s : State) : Host.Outcome State Fault Refusal :=
  s.run fun b l =>
    match l.pwr.target with
    | none => l
    | some t =>
      if !l.boot.ready ∨ !l.cmd.mgmtReplies.isEmpty then l
      else
        let w := l.pwr.wakePend
        let l := { l with pwr := { l.pwr with target := none, wakePend := 0 } }
        let l := match t with
          | .run => l
          | .idle => { l with pwr := { l.pwr with st := .idle } }
          | .sleep => { l.markEntry with pwr := { l.pwr with st := .sleep } }
          | .deep => l.deepEntry b
          | .off => l.offEntry
        if w = 0 then l else l.pwrExit b w

/-! ### Wake events (Table 20.4) -/

/-- WAKE_IN. -/
def execWakeIn (s : State) : Host.Outcome State Fault Refusal := s.run fun b l => l.wakeEvent b 1

/-- KEEPER_WORK_WAKE. -/
def execKeeperWorkWake (s : State) : Host.Outcome State Fault Refusal := s.run fun b l => l.wakeEvent b 2

/-- MGMT_WAKE, with WAKE_MGMT set. -/
def execMgmtWake (s : State) : Host.Outcome State Fault Refusal :=
  s.run fun b l => if l.flag b F.PWR_CFG_WAKE_MGMT then l.wakeEvent b 3 else l

/-- AON_WAKE_TIMER, with TMR nonzero (R473). -/
def execAonWakeTimer (s : State) : Host.Outcome State Fault Refusal :=
  s.run fun b l => if l.get b F.PWR_WAKE_CTL_TMR = 0 then l else l.wakeEvent b 5

/-- SUPPLY_RAMP_DONE (R472): the boot of a DEEP exit begins at phase 3. -/
def execSupplyRampDone (s : State) : Host.Outcome State Fault Refusal :=
  s.run fun b l =>
    if !l.pwr.ramping then l
    else
      { l with pwr := { l.pwr with ramping := false }, boot := { l.boot with phase := 3 } }.bootStep b

/-- AUTO_IDLE_TIMEOUT (R472): without keeper work the block goes back to IDLE. -/
def execAutoIdleTimeout (s : State) : Host.Outcome State Fault Refusal :=
  s.run fun b l =>
    if l.boot.ready ∧ l.pwr.st = .run ∧ l.pwr.wasIdle ∧ l.pwr.target = none ∧ l.flag b F.PWR_CFG_AUTO_IDLE ∧
        l.cmd.busy.isEmpty then
      { l with pwr := { l.pwr with st := .idle } }
    else l

/-- A write of PWR_WAKE_CTL (R473): TREJ, TMR, and TEN under the checks of R125, R113 and R126. -/
def Live.writeWakeCtl (l : Live) (b : Build) (v : Word) : Live :=
  let n := v.toNat
  let l := l.put b F.PWR_WAKE_CTL_TMR (n / 4)
  let l := l.when (n.testBit 1) fun l => l.put b F.PWR_WAKE_CTL_TREJ 0
  let t := BitVec.ofNat 32 (l.get b F.PWR_WAKE_T_T)
  if !n.testBit 0 then l.dropCmp .wake
  else if l.holdsCmp .wake then l
  else if l.timed ∧ l.inWindow t ∧ l.cmpFree b then l.armCmp .wake t
  else l.put b F.PWR_WAKE_CTL_TREJ 1

/-! ### Agreed counts (R124) -/

/-- COUNT_REACHED (R124, R470, R473): comparator `i`, once its count is reached. A pulse output that is still
high keeps its next count for its fall. The wake count ends SLEEP, and only disarms elsewhere. Any other count
that fires is work for the keeper. -/
def execCountReached (i : Nat) (s : State) : Host.Outcome State Fault Refusal :=
  s.run fun b l =>
    match l.time.cmps[i]? with
    | none => l
    | some c =>
      if !l.timeOn ∨ !reached l.ft c.count then l
      else match c.owner with
        | .pulse n => if (l.pulse n).level then l else (l.wakeIdle b).fireCmp i c
        | .wake =>
          { l with time := { l.time with cmps := dropAt i l.time.cmps } }.wakeEvent b 4
        | _ => (l.wakeIdle b).fireCmp i c

/-! ### Host-unit requests (R77, R475) -/

/-- The power-request unit runs; gated, it keeps its state (R105). -/
def Live.pwrqOn (l : Live) (b : Build) : Bool := b.buoy && l.flag b F.UNIT_EN_B_PWRQ

/-- The first request that waits is raised, unless one is outstanding. -/
def Live.raiseReq (l : Live) (b : Build) : Live :=
  match l.pwr.reqs with
  | [] => l
  | q :: t =>
    if q.sent ∨ !l.pwrqOn b then l
    else
      let l := { l with pwr := { l.pwr with reqs := { q with sent := true } :: t } }
      l.emit (.pwrReq ((l.resolve q.unit).getD q.unit) q.kind)

/-- UNIT_ADJUST (R167, R475). -/
def execUnitAdjust (p : Packet) (s : State) : Host.Outcome State Fault Refusal :=
  s.run fun b l => l.command b (.unitAdjust p) (opRow 0x49 true false 2 0 0) p fun l r =>
    let u := p.aBits 0 10
    let k := p.aBits 10 2
    match firstErr [
      (!l.flag b F.UNIT_EN_B_PWRQ, eGated),
      (decide (u = 0x3FF ∨ k = 0 ∨ k = 3), eRange),
      ((l.resolve u).isNone, eState)] with
    | some e => l.reply b r e
    | none =>
      let l := l.hold r (.unitAdjust p)
      let q : PwrReq := ⟨r, u, k, false⟩
      { l with pwr := { l.pwr with reqs := l.pwr.reqs ++ [q] } }.raiseReq b

/-- PWR_ACK (R77, R475): status 3 is handled as 2 (Table 2.4). -/
def execPwrAck (status : BitVec 2) (s : State) : Host.Outcome State Fault Refusal :=
  s.runAwake fun b l =>
    let st := min status.toNat 2
    if !l.pwrqOn b then l
    else if l.pwr.lateAck then
      { l with pwr := { l.pwr with lateAck := false } }.bump b F.PWRQ_STAT_LATE
    else match l.pwr.reqs with
      | [] => l
      | q :: t =>
        let l := { l with pwr := { l.pwr with reqs := t } }
        let l := l.when (decide (st = 2)) fun l =>
          (l.bump b F.PWRQ_STAT_REFUSED).logE b 0x0F04 2 [q.unit, q.kind]
        (l.reply b q.r 0 st).raiseReq b

/-- PWR_REQ_TIMEOUT (R475). -/
def execPwrReqTimeout (s : State) : Host.Outcome State Fault Refusal :=
  s.runAwake fun b l =>
    match l.pwr.reqs with
    | [] => l
    | q :: t =>
      if !l.pwrqOn b then l
      else
        let l := { l with pwr := { l.pwr with reqs := t, lateAck := true } }
        ((l.bump b F.PWRQ_STAT_TMO).reply b q.r eGated).raiseReq b

/-! ### PMBus (R476 to R480) -/

/-- The PMBus unit runs. -/
def Live.pmbOn (l : Live) (b : Build) : Bool := b.lantern && l.flag b F.UNIT_EN_L_PMB

/-- The command of a reading (Table 20.6). -/
def pmbCmd (rd : Nat) : Nat :=
  if rd = 0 then 0x88 else if rd = 1 then 0x89 else if rd = 2 then 0x97 else if rd = 3 then 0x8D else 0x79

/-- The readings of a poll cycle. -/
def Live.pmbCycle (l : Live) (b : Build) : List (Nat × Nat) :=
  (List.range 8).flatMap fun d =>
    if !l.flag b F.PMB_DEV_DEN d then []
    else ((List.range 5).filter fun r => (l.get b F.PMB_DEV_RDEN d).testBit r).map fun r => (d, r)

/-- The reading in progress is put on the bus. -/
def Live.pmbNext (l : Live) : Live :=
  match l.pwr.poll with
  | [] => l
  | (d, r) :: _ => l.emit (.pmbRead d r (pmbCmd r))

/-- PMBUS_POLL_TICK (R477). -/
def execPmbusPollTick (s : State) : Host.Outcome State Fault Refusal :=
  s.runAwake fun b l =>
    if !l.pmbOn b ∨ !l.flag b F.PMB_CFG_EN then l
    else if l.pwr.poll ≠ [] then l.bump b F.PMB_STAT_SKIP
    else { l with pwr := { l.pwr with poll := l.pmbCycle b } }.pmbNext

/-- `y` × 2^`n` as F32, exact for the ranges of R479; `n` is at least −149. -/
def f32Scaled (y n : Int) : Word := f32Round (decide (y < 0)) (y.natAbs <<< (149 + n).toNat) 1

/-- A reading as F32 (Table 20.6). -/
def Live.pmbValue (l : Live) (b : Build) (d r w : Nat) : Word :=
  if r = 4 then f32Scaled w 0
  else if r = 0 ∧ l.flag b F.PMB_DEV_VIN16 d then f32Scaled w (sInt 5 (l.get b F.PMB_DEV_EXP16 d))
  else f32Scaled (sInt 11 w) (sInt 5 (w / 2048))

/-- What the unit keeps of device `d`. -/
def Live.pmbDev (l : Live) (d : Nat) : PmbDev := Tab.getD l.pwr.devs d pmbDev0

/-- Device `d` changed by `f`. -/
def Live.updPmb (l : Live) (d : Nat) (f : PmbDev → PmbDev) : Live :=
  { l with pwr := { l.pwr with devs := Tab.upd l.pwr.devs d pmbDev0 f } }

/-- A reading of VIN moves the alarm of its device (R480). -/
def Live.vinSeen (l : Live) (b : Build) (d : Nat) (v : Word) : Live :=
  let lo := BitVec.ofNat 32 (l.get b F.PMB_VWIN_LO_LO)
  let hi := BitVec.ofNat 32 (l.get b F.PMB_VWIN_HI_HI)
  let x := l.pmbDev d
  if f32Lt v lo ∨ f32Lt hi v then
    let n := min (x.bad + 1) 3
    let l := l.updPmb d fun x => { x with bad := n, good := 0, valm := x.valm || decide (n = 3) }
    if n = 3 ∧ !x.valm then l.logE b 0x0F06 3 [d, v.toNat] else l
  else
    let n := min (x.good + 1) 3
    l.updPmb d fun x => { x with bad := 0, good := n, valm := x.valm && decide (n ≠ 3) }

/-- The status alarm of device `d` follows STATUS_WORD and its mask (R480). -/
def Live.statusSeen (l : Live) (b : Build) (d w : Nat) : Live :=
  let on := decide (w &&& l.get b F.PMB_SMASK_SMASK d ≠ 0)
  let x := l.pmbDev d
  let l := l.updPmb d fun x => { x with salm := on, salmSeen := x.salmSeen || on }
  if on ∧ !x.salmSeen then l.logE b 0x0F07 2 [d, w] else l

/-- What the series of SKIND 4 that name a reading take. -/
def pmbTake (d r : Nat) (v : SVal) (skind src : Nat) : List SVal :=
  if skind = 4 ∧ src % 64 = d + 8 * r then [v] else []

/-- PMBUS_READ_DONE (R479, R480). -/
def execPmbusReadDone (word : BitVec 16) (s : State) : Host.Outcome State Fault Refusal :=
  s.runAwake fun b l =>
    match l.pwr.poll with
    | [] => l
    | (d, r) :: t =>
      if !l.pmbOn b then l
      else
        let v := l.pmbValue b d r word.toNat
        let l := { l with pwr := { l.pwr with
          poll := t, vals := Tab.insert l.pwr.vals (8 * d + r) (v, word.toNat),
          failing := l.pwr.failing.filter fun k => decide (k ≠ 8 * d + r) } }
        let l := l.offer b (pmbTake d r (.f32 v))
        let l := if r = 0 then l.vinSeen b d v else if r = 4 then l.statusSeen b d word.toNat else l
        l.pmbNext

/-- The code of a failure in event 0x0F05. -/
def pmbFailCode : PmbFail → Nat
  | .nack => 0
  | .pec => 1
  | .timeout => 2

/-- PMBUS_READ_TIMEOUT (R478): a read fails, and its series takes a fill. -/
def execPmbusReadTimeout (why : PmbFail) (s : State) : Host.Outcome State Fault Refusal :=
  s.runAwake fun b l =>
    match l.pwr.poll with
    | [] => l
    | (d, r) :: t =>
      if !l.pmbOn b then l
      else
        let k := 8 * d + r
        let first := decide (k ∉ l.pwr.failing)
        let l := { l with pwr := { l.pwr with
          poll := t, failing := if first then l.pwr.failing ++ [k] else l.pwr.failing } }.bump b F.PMB_ERR_FAIL
        let l := l.when first fun l => l.logE b 0x0F05 2 [d, r, (pmbFailCode why)]
        (l.offer b (pmbTake d r (.fill 1))).pmbNext

/-- PMBUS_ALERT (R476). -/
def execPmbusAlert (s : State) : Host.Outcome State Fault Refusal :=
  s.runAwake fun b l => if l.pmbOn b then l.put b F.PMB_STAT_ALERT 1 else l

end Sys2Proof.Machine
end

