-- ==== Sys2Proof/Machine/RegRead.lean ====
section
/-! DEFINITION. Reading registers: which register an offset names, what gates it, which entity it shows, the
value of every field that other state holds, and what a read changes (spec/00 R18, R20, R22; spec/02 R68;
spec/21 R481 to R491). -/

namespace Sys2Proof.Machine

/-! ### Which register (R68, R481) -/

/-- How many of a row the form has. -/
def RegRow.count (r : RegRow) (b : Build) : Nat := if b.buoy then r.nB else r.nL

/-- The place of offset `a` in row `r`, if it lies there. -/
def RegRow.index (r : RegRow) (b : Build) (a : Nat) : Option Nat :=
  if r.stride = 0 then (if a = r.off ∧ r.count b ≠ 0 then some 0 else none)
  else if r.off ≤ a ∧ (a - r.off) % r.stride = 0 ∧ (a - r.off) / r.stride < r.count b then
    some ((a - r.off) / r.stride)
  else none

/-- The register at byte offset `a`, and its index; none for an unmapped or misaligned offset. -/
def findReg (b : Build) (a : Nat) : Option (RegRow × Nat) :=
  if a % 4 ≠ 0 then none else regMap.findSome? fun r => (r.index b a).map fun i => (r, i)

/-! ### What it shows (R485) -/

/-- A memory of Table 18.1 that the form has. -/
def memNamed (b : Build) (id : Nat) : Bool :=
  if b.buoy then decide (id ≤ 6) else decide (id ≤ 3 ∨ id = 6 ∨ id = 0x20)

/-- The queue whose registers are shown: EGQ_SEL in a buoy, QUE_SEL in a lantern. -/
def Live.shownQueue (l : Live) (b : Build) : Nat :=
  if b.buoy then l.get b F.EGQ_SEL_QUEUE else l.get b F.QUE_SEL_QUEUE

/-- `n`, if it is below `lim`. -/
def below (n lim : Nat) : Option Nat := if n < lim then some n else none

/-- The entity that register `r` with index `i` shows: none when the selector names nothing. -/
def Live.entity (l : Live) (b : Build) (r : RegRow) (i : Nat) : Option Nat :=
  match r.sel with
  | .none => some i
  | .timeBuoy => some (l.get b F.TIME_BUOY_SEL_LOCAL)
  | .queue => some (l.shownQueue b)
  | .qmap => below (l.get b F.QMAP_SEL_ENTRY) (if b.buoy then 128 else 2048)
  | .plan => some (l.get b F.PLAN_PSEL_PLAN)
  | .cut => some (l.get b F.CUT_PSEL_PLAN)
  | .unitGen => some (l.get b F.UNIT_GEN_SEL_UNIT)
  | .series => some (l.get b F.SER_SEL_SERIES)
  | .treeSlot => below (l.get b F.TREE_SEL_SLOT) b.pipes
  | .treePipe => below (l.get b F.TREE_PSEL_PIPE) b.pipes
  | .seqSlot => some (l.get b F.SEQ_SEL_SLOT)
  | .memory =>
    let id := l.get b F.MEM_SEL_ID
    if memNamed b id then some id else none
  | .canaryBin => some (l.get b F.CNRY_BIN_SEL_TBIN + 8 * l.get b F.CNRY_BIN_SEL_LBIN)
  | .foPlan => some (l.get b F.FO_PSEL_PLAN)
  | .foLost => below (l.get b F.FO_LOST_SEL_IDX) (l.plan (l.get b F.FO_PSEL_PLAN)).lostSet.length
  | .foLink => some (l.get b F.FO_NBR_SEL_LINK)
  | .pmb => below (l.get b F.PMB_SEL_DEV_RD) 40
  | .object => below (l.get b F.SYNC_SEL_OBJ) (if b.buoy then 256 else 16384)

/-! ### Gating (R22, R140, R489) -/

/-- The unit of register `r` with index `i` is enabled. -/
def Live.gateOpen (l : Live) (b : Build) (r : RegRow) (i : Nat) : Bool :=
  match r.gate with
  | .none => true
  | .bit n => (l.unitEn b).testBit n
  | .tapGroup => l.tapOn b (i / 8)
  | .sync => l.syncOn b
  | .pulse => l.pulseOn b
  | .treePipe => l.pipeOn b (l.get b F.TREE_PSEL_PIPE)
  | .link => l.flag b F.UNIT_EN_LNK_LNK 0 i

/-- After a failed boot the register port serves GLB_RELEASE, GLB_PARAM, GLB_ID, GLB_BOOT and the calibration
mirrors only (R140). -/
def Live.regServed (l : Live) (off : Nat) : Bool :=
  decide (l.boot.phase ≠ 15 ∨ off ≤ 0xC ∨ (0x3000 ≤ off ∧ off < 0x3800))

/-! ### Values that other state holds -/

/-- A signed value cut to a signed field of `n` bits, saturating. -/
def satField (n : Nat) (v : Int) : Nat := toU n (satS n v)

/-- Credit in whole bytes (R256, Table 10.4). -/
def credField (c : Int) : Nat := satField 16 (asr c 16)

/-- Registers 0x0000 to 0x00FF. -/
def liveGlb : List (Fld × (Live → Build → Nat → Nat)) := [
  (F.GLB_RELEASE_MAJOR, fun _ _ _ => 2), (F.GLB_RELEASE_MINOR, fun _ _ _ => 1),
  (F.GLB_RELEASE_PATCH, fun _ _ _ => 0), (F.GLB_RELEASE_FORM, fun _ b _ => if b.buoy then 1 else 2),
  (F.GLB_PARAM_SPILL_EN, fun _ b _ => b2n (b.buoy && b.spillEn)),
  (F.GLB_PARAM_SPILL_AW, fun _ b _ => b2n (b.buoy && b.spillAw48)),
  (F.GLB_PARAM_CEL_DEV, fun _ b _ => if b.buoy then 0 else match b.celDev with
    | .gib16 => 1
    | .gib32 => 2
    | .gib64 => 3),
  (F.GLB_PARAM_CEL_PRESENT, fun l b _ => if b.buoy then 0 else l.boot.st.celPresent.toNat),
  (F.GLB_PARAM_CAL_PRESENT, fun l _ _ => b2n l.boot.st.calPresent),
  (F.GLB_ID_LOCAL, fun l b _ => if b.buoy then l.boot.st.idLocal.toNat else 0),
  (F.GLB_ID_TRUNK, fun l b _ => l.trunk b),
  (F.GLB_ID_TRUNK_VALID, fun l b _ => b2n (b.lantern || l.time.trunk.isSome)),
  (F.GLB_BOOT_PHASE, fun l _ _ => l.boot.phase), (F.GLB_BOOT_READY, fun l _ _ => b2n l.boot.ready),
  (F.GLB_BOOT_CAL_DEFAULT, fun l b _ => l.glbBoot b / 256),
  (F.GLB_FOG_BOOT, fun l b _ => l.fog b), (F.GLB_FOG_WIN, fun l b _ => l.fog b / 2),
  (F.GLB_FOG_TALM, fun l b _ => l.fog b / 4), (F.GLB_FOG_LOG, fun l b _ => l.fog b / 8),
  (F.GLB_FOG_UE, fun l b _ => l.fog b / 16), (F.GLB_FOG_CNRY, fun l b _ => l.fog b / 32),
  (F.GLB_FOG_VIN, fun l b _ => l.fog b / 64), (F.GLB_FOG_STATUS, fun l b _ => l.fog b / 128),
  (F.CLK_STAT_CORE_ON, fun l _ _ => b2n l.clk.coreOn), (F.CLK_STAT_REG_ON, fun l _ _ => b2n l.clk.regOn),
  (F.CLK_STAT_SW_BUSY, fun l _ _ => b2n (!l.clk.switches.isEmpty)),
  (F.CLK_STAT_CORE_QUAL, fun l _ _ => b2n l.clk.coreQual),
  (F.CLK_STAT_REG_QUAL, fun l _ _ => b2n l.clk.regQual),
  (F.OSC_STAT_CODE, fun l b _ => l.oscCode b), (F.OSC_STAT_QUAL, fun l _ _ => b2n l.clk.oscQual),
  (F.OSC_STAT_ACQ, fun l _ _ => b2n l.clk.acq), (F.OSC_STAT_REF_OK, fun l _ _ => b2n l.clk.refOk),
  (F.OSC_STAT_LAST_CNT, fun l _ _ => l.clk.lastCnt)]

/-- Fleet time. -/
def liveTime : List (Fld × (Live → Build → Nat → Nat)) := [
  (F.TIME_NOW_FT, fun l _ _ => l.ft.toNat),
  (F.TIME_CFG_XCHG_INT, fun l b _ => if b.buoy then 0 else l.xchgInt b),
  (F.TIME_STAT_STATE, fun l _ _ => l.time.state.code),
  (F.TIME_STAT_LAN_LOCK, fun l b _ => b2n (b.buoy && l.time.lanLock)),
  (F.TIME_OFS_OFS, fun l _ _ => toU 32 l.time.ofs),
  (F.TIME_BUOY_STAT_PRESENT, fun l _ e => b2n (l.peer e).present),
  (F.TIME_BUOY_STAT_LOCK, fun l _ e => b2n (l.peer e).lock),
  (F.TIME_BUOY_STAT_DELAY, fun l _ e => min (l.peer e).delay.toNat 65535),
  (F.TIME_BUOY_OFS_OFS, fun l _ e => toU 32 (l.peer e).ofs),
  (F.PULSE_T_NEXT, fun l _ e => (l.pulseNext e).toNat), (F.PULSE_PER_PERIOD, fun l _ e => (l.pulse e).per),
  (F.PULSE_CTL_WIDTH, fun l _ e => (l.pulse e).width), (F.PULSE_CTL_ARMED, fun l _ e => b2n (l.pulseArmed e)),
  (F.PULSE_CTL_LEVEL, fun l _ e => b2n (l.pulse e).level),
  (F.QW_NEXT_S, fun l _ e => (l.qw e).s.toNat), (F.QW_CTL_EN, fun l _ _ => l.qwEnBits),
  (F.QW_STAT_ACTIVE, fun l _ _ => l.qwActBits)]

/-- The code of a plan state (Table 9.1). -/
def PState.code : PState → Nat
  | .empty => 0
  | .loading => 1
  | .loaded => 2
  | .verified => 3
  | .arming => 4
  | .armed => 5
  | .running => 6

/-- Plans and cuts. -/
def livePlan : List (Fld × (Live → Build → Nat → Nat)) := [
  (F.PLAN_STAT_STATE, fun l _ e => (l.plan e).state.code),
  (F.PLAN_STAT_STANDBY, fun l _ e => b2n (l.plan e).standby),
  (F.PLAN_STAT_ROOT, fun l b e => b2n (b.lantern && decide ((l.plan e).image ≠ []) && l.isRoot b (l.plan e))),
  (F.PLAN_STAT_TD_EN, fun l _ e => b2n (l.plan e).tdEn),
  (F.PLAN_STAT_ARM_SEQ, fun l _ e => (l.plan e).armSeq),
  (F.PLAN_STAT_BUOY_MISS, fun l _ e => min (l.plan e).buoyMiss 65535),
  (F.PLAN_CRC_CRC, fun l _ e => (l.plan e).crc.toNat), (F.PLAN_START_S, fun l _ e => (l.plan e).s.toNat),
  (F.PLAN_TD_D, fun l _ e => (l.plan e).d.toNat),
  (F.CUT_LAST_LATCHED, fun l _ e => (l.plan e).latched), (F.CUT_LAST_DONE, fun l _ e => (l.plan e).done),
  (F.CUT_LAST_T_T, fun l _ e => (l.plan e).latchT.toNat)]

/-- The place of a tap binding in force or of its reset value. -/
def Live.bindWord (l : Live) (i : Nat) : Nat := (Tab.getD l.samp.binds i (0x3FF : Word)).toNat

/-- Counting and sampling. -/
def liveSamp : List (Fld × (Live → Build → Nat → Nat)) := [
  (F.UNIT_GEN_GEN, fun l _ e => l.gen e),
  (F.UNIT_STEP_STEP, fun l _ e => (Tab.getD l.samp.steps e ⟨0, false⟩).step),
  (F.UNIT_STEP_OPEN, fun l _ e => b2n (l.stepOpen e)),
  (F.UNIT_RM_LOGICAL, fun l _ e => (Tab.getD l.samp.remaps e ⟨0, 0, false⟩).logical),
  (F.UNIT_RM_PHYS, fun l _ e => (Tab.getD l.samp.remaps e ⟨0, 0, false⟩).phys),
  (F.UNIT_RM_VALID, fun l _ e => b2n (Tab.getD l.samp.remaps e ⟨0, 0, false⟩).valid),
  (F.TAP_BIND_PUNIT, fun l _ e => l.bindWord e), (F.TAP_BIND_VALID, fun l _ e => l.bindWord e / 1024),
  (F.TAP_BIND_SPARE, fun l _ e => l.bindWord e / 2048),
  (F.SENS_STAT_TALM, fun l _ _ => b2n l.samp.talm),
  (F.SENS_T_VALUE, fun l _ e => toU 32 (l.tempOf e)), (F.SENS_V_VALUE, fun l _ e => toU 32 (l.voltOf e)),
  (F.SENS_TRAW_RAW, fun l _ e => (Tab.getD l.samp.sensT e (0, 0)).1),
  (F.SENS_VRAW_RAW, fun l _ e => (Tab.getD l.samp.sensV e (0, 0)).1)]

/-- The code of a link state (Table 11.6). -/
def LState.code : LState → Nat
  | .down => 0
  | .training => 1
  | .init => 2
  | .up => 3

/-- Egress, queues, the cellar and links. -/
def liveQue : List (Fld × (Live → Build → Nat → Nat)) := [
  (F.SHP_STAT_SENT, fun l _ _ => l.shape.sent),
  (F.SHP_CRED_CCRED, fun l b e => credField (l.cred b e).c),
  (F.SHP_CRED_PCRED, fun l b e => credField (l.cred b e).p),
  (F.EGQ_DEPTH_RECS, fun l _ e => l.depthWord e), (F.EGQ_DEPTH_BYTES, fun l _ e => l.depthWord e / 4096),
  (F.QUE_POOL_FREE, fun l b _ => l.poolFree b),
  (F.QMAP_MARK, fun l _ e => b2n (l.qrun e).mark), (F.QMAP_PEND, fun l _ e => b2n (decide ((l.qrun e).count ≠ 0))),
  (F.CEL_STAT_FAIL, fun l _ e => b2n (l.celFail.contains e)),
  (F.LNK_STAT_STATE, fun l _ e => (l.link e).st.code)]

/-- Node addresses of a pipe that no region takes: of the banks its map gives a stage, or of every bank while
it holds no map (R335, R341). -/
def Live.nodesFree (l : Live) (b : Build) (p : Nat) : Nat :=
  let gs := (l.eng.trees.filter fun e => decide (e.2.image ≠ [] ∧ ensNT e.2.image p ≠ 0)).map (·.2.image)
  match gs with
  | [] => b.banks * b.bankNodes
  | g :: _ => ((ensMap b g p).filter fun k => decide (128 ≤ k)).length * b.bankNodes
      - gs.foldl (fun a g => a + pipeNodes g p) 0

/-- The ensembles of pipe `p`. -/
def Live.pipeEns (l : Live) (p : Nat) : List (List DWord) :=
  (l.eng.trees.filter fun e => decide (e.2.image ≠ [] ∧ ensNT e.2.image p ≠ 0)).map (·.2.image)

/-- The model a tree slot shows: none while it is empty or LOADING. -/
def Live.shownTree (l : Live) (k : Nat) : List DWord := if (l.tree k).ready then (l.tree k).image else []

/-- The model a sequence slot shows. -/
def Live.shownSeq (l : Live) (k : Nat) : List DWord := if (l.seqm k).ready then (l.seqm k).image else []

/-- Series and engines. -/
def liveEng : List (Fld × (Live → Build → Nat → Nat)) := [
  (F.SER_CFG_EN, fun l _ e => b2n (l.sery e).on), (F.SER_NEXT_NEXT, fun l _ e => (l.sery e).next.toNat),
  (F.SER_COMMIT_COMMIT, fun l _ e => (l.sery e).commit.toNat), (F.SER_STAT_GEN, fun l _ e => l.gen e),
  (F.TREE_SLOT_VALID, fun l _ e => b2n (l.tree e).ready), (F.TREE_SLOT_LOADING, fun l _ e => b2n (l.tree e).loading),
  (F.TREE_SLOT_PLAN_USE, fun l b e => b2n (l.planUse b false e)),
  (F.TREE_SLOT_NFEAT, fun l _ e => ensNFeat (l.shownTree e)),
  (F.TREE_SLOT_NCLASS_M1, fun l _ e => ensNClass (l.shownTree e) - 1),
  (F.TREE_SLOT_DEPTH, fun l _ e => ensDepth (l.shownTree e)),
  (F.TREE_SLOT2_NTREE, fun l _ e => ensNTree (l.shownTree e)),
  (F.TREE_SLOT2_GLOG, fun l _ e => ensGlog (l.shownTree e)), (F.TREE_ENSID_ENS_ID, fun l _ e => ensId (l.shownTree e)),
  (F.TREE_PIPE_BMAP_ID, fun l _ e => match l.pipeEns e with
    | g :: _ => ensBmapId g
    | [] => 0),
  (F.TREE_PIPE2_NENS, fun l _ e => (l.pipeEns e).length), (F.TREE_PIPE2_FREE, fun l b e => l.nodesFree b e),
  (F.TREE_STAT_SAMPLES, fun l _ _ => l.eng.samples),
  (F.SEQ_SLOT_VALID, fun l _ e => b2n (l.seqm e).ready), (F.SEQ_SLOT_LOADING, fun l _ e => b2n (l.seqm e).loading),
  (F.SEQ_SLOT_PLAN_USE, fun l b e => b2n (l.planUse b true e)),
  (F.SEQ_SLOT_MKIND, fun l _ e => modKind (l.shownSeq e)), (F.SEQ_SLOT_WORDS, fun l _ e => (l.shownSeq e).length),
  (F.SEQ_MODID_MODEL_ID, fun l _ e => modId (l.shownSeq e)),
  (F.SEQ_STORE_FREE, fun l _ _ => l.storeFree), (F.SEQ_ASTATE_FREE, fun l _ _ => l.liveFree / 8),
  (F.SEQ_BUSY_MODE, fun l _ _ => match l.eng.job with
    | some j => j.mode
    | none => 0),
  (F.SEQ_BUSY_ACTION, fun _ _ _ => 0),
  (F.SEQ_BUSY_SERIES, fun l _ _ => match l.eng.job with
    | some j => j.series
    | none => 0),
  (F.SEQ_STAT_JOBS, fun l _ _ => l.eng.jobsDone)]

/-- The code of a recorder state (Table 16.6). -/
def TrSt.code : TrSt → Nat
  | .off => 0
  | .armed => 1
  | .counting => 2
  | .stopped => 3

/-- The object of a lantern that `e` names, as its mirror shows it (R407). -/
def Live.mirrorOf (l : Live) (e : Nat) : Option Nat × Bool × Bool :=
  let y := Tab.getD l.trace.syncs e sync0
  if y.ty = 2 then l.mirror (y.init % 256) (y.init / 256) else (none, false, false)

/-- Owner of a synchronisation object as a logical unit: a buoy's watch object, or a mirror. -/
def Live.objOwner (l : Live) (b : Build) (e : Nat) : Option Nat :=
  if b.buoy then (l.watch e).owner.bind l.presents else (l.mirrorOf e).1

/-- Trace and hang analysis. -/
def liveTrace : List (Fld × (Live → Build → Nat → Nat)) := [
  (F.TRC_STAT_STATE, fun l _ _ => l.trace.st.code), (F.TRC_STAT_SLOTS, fun l _ _ => l.trace.slots.length),
  (F.TRC_STAT_OPEN, fun l _ _ => l.trace.opn.length), (F.TRC_TFT_FT, fun l _ _ => l.trace.tft.toNat),
  (F.TRC_CNT_LEFT, fun l _ _ => l.trace.cnt), (F.TRC_LOST_LOST, fun l _ _ => min l.trace.lost 65535),
  (F.TRC_ARMID_ARM_ID, fun l _ _ => l.trace.armId),
  (F.SYNC_CFG_EN, fun l b e => if b.buoy then b2n (l.watch e).en else b2n (Tab.find? l.trace.syncs e).isSome),
  (F.SYNC_CFG_TYPE, fun l b e => if b.buoy then 2 else (Tab.getD l.trace.syncs e sync0).ty),
  (F.SYNC_CFG_HELD, fun l b e => b2n (if b.buoy then (l.watch e).held else (l.mirrorOf e).2.1)),
  (F.SYNC_CFG_UNCERT, fun l b e => b2n (if b.buoy then (l.watch e).uncert else (l.mirrorOf e).2.2)),
  (F.SYNC_CFG_OWN_V, fun l b e => b2n (l.objOwner b e).isSome),
  (F.SYNC_CFG_OWNER, fun l b e => (l.objOwner b e).getD 0),
  (F.SYNC_PLAN_PLAN, fun l _ e => (Tab.getD l.trace.syncs e sync0).plan),
  (F.SYNC_PLAN_COUNT, fun l _ e => (Tab.getD l.trace.syncs e sync0).count),
  (F.SYNC_ADDR_LO_ADDR, fun l _ e => (l.watch e).addr.toNat),
  (F.SYNC_ADDR_HI_ADDR, fun l _ e => (l.watch e).addr.toNat / 2 ^ 32),
  (F.SYNC_MASK_LO_MASK, fun l _ e => (l.watch e).mask.toNat),
  (F.SYNC_MASK_HI_MASK, fun l _ e => (l.watch e).mask.toNat / 2 ^ 32),
  (F.SYNC_FREE_LO_FREE, fun l _ e => (l.watch e).free.toNat),
  (F.SYNC_FREE_HI_FREE, fun l _ e => (l.watch e).free.toNat / 2 ^ 32),
  (F.SYNC_VAL_LO_VALUE, fun l _ e => (l.watch e).val.toNat),
  (F.SYNC_WAIT_LO_WAIT, fun l _ e => (l.watch e).waiters.toNat),
  (F.HANG_STAT_HANG_ID, fun l _ _ => l.trace.hangId), (F.HANG_STAT_NCYC, fun l _ _ => min l.trace.ncyc 65535)]

/-- The code of the replay unit's state. -/
def RplSt.code : RplSt → Nat
  | .off => 0
  | .logging => 1
  | .replaying => 2

/-- EPOCH of RPL_STAT: the last epoch logged, or that of the entry replayed last. -/
def Live.rplEpochNow (l : Live) : Nat :=
  let r := l.flt.rpl
  if r.st = .replaying ∧ r.pos ≠ 0 then
    match r.recs[r.pos - 1]? with
    | some x => rplEpoch x
    | none => r.last
  else r.last

/-- Memory, failover, copies and replay. -/
def liveFault : List (Fld × (Live → Build → Nat → Nat)) := [
  (F.LOG_FREE_WORDS, fun l b _ => b.logWords - usedWords l.log.ents),
  (F.LOG_HELD_ENTRIES, fun l _ _ => l.log.ents.length), (F.LOG_NEXT_LSEQ, fun l _ _ => l.log.next.toNat),
  (F.MEM_SCRUB_BUSY, fun l _ e => b2n (l.scrubBusy e)), (F.CNRY_STAT_RUNS, fun l _ _ => l.mem.runs),
  (F.FO_LOST_NLOST, fun l _ e => (l.plan e).lostSet.length), (F.FO_LOST_OVF, fun l _ e => b2n (l.plan e).lostOvf),
  (F.FO_LOST_PEND, fun l _ e => b2n (l.plan e).switchPend.isSome),
  (F.FO_LOST_STANDBY, fun l _ e => match (l.plan e).switchPend with
    | some x => x.2.2
    | none => 0),
  (F.FO_LOST_DKIND, fun l _ e => match (l.plan e).switchPend with
    | some x => x.1
    | none => 0),
  (F.FO_LOST_DID, fun l _ e => match (l.plan e).switchPend with
    | some x => x.2.1
    | none => 0),
  (F.FO_LOST_ID_TRUNK, fun l b e => (l.plan (l.get b F.FO_PSEL_PLAN)).lostSet.getD e 0),
  (F.FO_NBR_OBS, fun l _ e => (l.link e).obs.getD 0), (F.FO_NBR_OBS_V, fun l _ e => b2n (l.link e).obs.isSome),
  (F.FO_NBR_EXP, fun l b e => if l.role b e = 1 then (l.expected b e).getD 0 else 0),
  (F.FO_NBR_EXP_V, fun l b e => b2n (decide (l.role b e = 1) && (l.expected b e).isSome)),
  (F.COPY_STAT_SENT, fun l _ _ => l.flt.sent), (F.REST_STAT_STATE, fun l _ _ => l.flt.restState),
  (F.REST_CNT_RESTORED, fun l _ _ => l.flt.restored), (F.REST_CNT_RESTARTED, fun l _ _ => l.flt.restarted),
  (F.RPL_STAT_STATE, fun l _ _ => l.flt.rpl.st.code), (F.RPL_STAT_PLAN, fun l _ _ => l.flt.rpl.plan),
  (F.RPL_STAT_EPOCH, fun l _ _ => l.rplEpochNow), (F.RPL_BYTES_BYTES, fun l _ _ => l.flt.rpl.bytes)]

/-- The devices whose bit is set in VALM or SALM. -/
def devBits (f : PmbDev → Bool) (t : Tab PmbDev) : Nat :=
  (List.range 8).foldl (fun a d => a + 2 ^ d * b2n (f (Tab.getD t d pmbDev0))) 0

/-- Power, and the calibration mirrors. `e` of PMB_VAL and PMB_RAW is DEV + 8 RD. -/
def livePwr : List (Fld × (Live → Build → Nat → Nat)) := [
  (F.PWR_STAT_STATE, fun l _ _ => l.pwr.st.code), (F.PWR_STAT_WAKE, fun l _ _ => l.pwr.wake),
  (F.PWR_WAKE_CTL_TEN, fun l _ _ => b2n (l.holdsCmp .wake)),
  (F.PWRQ_STAT_OUT, fun l _ _ => b2n (l.pwr.reqs.any (·.sent))),
  (F.PMB_VAL_VALUE, fun l _ e => match Tab.find? l.pwr.vals (8 * (e % 8) + e / 8) with
    | some (v, _) => v.toNat
    | none => 0x7FC00000),
  (F.PMB_RAW_WORD, fun l _ e => match Tab.find? l.pwr.vals (8 * (e % 8) + e / 8) with
    | some (_, w) => w
    | none => 0),
  (F.PMB_STAT_VALM, fun l _ _ => devBits (·.valm) l.pwr.devs),
  (F.PMB_STAT_SALM, fun l _ _ => devBits (·.salm) l.pwr.devs),
  (F.CALF_WORD, fun l b e => (l.calF b e).toNat), (F.CALU_WORD, fun l _ e => (l.calU e).toNat)]

/-- Counter `i` shows in the window: user-enabled, its island enabled (R488). -/
def Live.windowOpen (l : Live) (b : Build) (i : Nat) : Bool :=
  l.userCtr b i && !l.tapGated b (l.ctr i).cfg

/-! ### Latched pairs (R486) -/

/-- The high register's field that a low register latches, the place of its shadow, and the value. -/
def Live.pairOf (l : Live) (b : Build) (off e : Nat) : Option (Fld × Nat × Nat) :=
  if off = 0x400 then some (F.TIME_NOW_HI_WRAPS, 0, l.time.wraps)
  else if off = 0x1C68 then some (F.SYNC_VAL_HI_VALUE, 0, (l.watch e).val.toNat / 2 ^ 32)
  else if off = 0x1C70 then some (F.SYNC_WAIT_HI_WAIT, 0, (l.watch e).waiters.toNat / 2 ^ 32)
  else if off = 0x2008 then some (F.MEM_UE_ADDR_HI_ADDR, 65535, l.get b F.MEM_UE_ADDR_HI_ADDR e)
  else if off = 0x4000 then some (F.CTR_WHI_W, e, if l.windowOpen b e then (l.ctrWord b e).toNat / 2 ^ 32 else 0)
  else none

/-- What a high register reads: its shadow. -/
def Live.shadowOf (l : Live) (b : Build) (off e : Nat) : Option Nat :=
  if off = 0x404 then some (l.get b F.TIME_NOW_HI_WRAPS)
  else if off = 0x1C6C then some (l.get b F.SYNC_VAL_HI_VALUE)
  else if off = 0x1C74 then some (l.get b F.SYNC_WAIT_HI_WAIT)
  else if off = 0x200C then some (l.get b F.MEM_UE_ADDR_HI_ADDR 65535)
  else if off = 0x4004 then some (if l.windowOpen b e then l.get b F.CTR_WHI_W e else 0)
  else none

/-! ### The value and the effects of a read -/

/-- The values of one chapter's fields, chosen by offset. -/
def liveOf (off : Nat) : List (Fld × (Live → Build → Nat → Nat)) :=
  if off < 0x400 then liveGlb
  else if off < 0x800 then liveTime
  else if off < 0xC00 then livePlan
  else if off < 0x1000 then liveSamp
  else if off < 0x1800 then liveQue
  else if off < 0x1C00 then liveEng
  else if off < 0x1CC0 then liveTrace
  else if off < 0x2800 then liveFault
  else livePwr

/-- What field `f` of entity `e` reads. -/
def Live.fieldVal (l : Live) (b : Build) (e : Nat) (f : Fld) : Nat :=
  if f.acc = .wo then 0
  else match (liveOf f.off).find? fun x => decide (x.1 = f) with
    | some x => x.2 l b e % 2 ^ f.w
    | none => l.get b f e

/-- What register `r` reads when it shows entity `e`. -/
def Live.regVal (l : Live) (b : Build) (r : RegRow) (e : Nat) : Nat :=
  match l.shadowOf b r.off e with
  | some v => v
  | none =>
    if r.off = 0x4000 then (if l.windowOpen b e then (l.ctrWord b e).toNat % 2 ^ 32 else 0)
    else r.flds.foldl (fun a f => a + (l.fieldVal b e f <<< f.lo)) 0

/-- A read latches the high half of a pair and clears the RC fields to their reset values (R20, R486). -/
def Live.readEffects (l : Live) (b : Build) (r : RegRow) (e : Nat) : Live :=
  let l := match l.pairOf b r.off e with
    | some (f, k, v) => l.put b f v k
    | none => l
  r.flds.foldl (fun l f => if f.acc = .rc then l.put b f (l.rst b f e) e else l) l

/-- What holds register `r` of entity `e` where it lies in SRAM (Table 18.2). -/
def Live.regHolder (l : Live) (b : Build) (r : RegRow) (e : Nat) : Option Holder :=
  if b.buoy ∧ 0x1C44 ≤ r.off ∧ r.off ≤ 0x1C74 then some (.watch e)
  else if b.buoy ∧ r.off = 0x4000 ∧ (l.ctr e).snap.isSome then some (.ctr e)
  else none

/-- Register `r` is held in SRAM and its word is uncorrectable (Table 18.2). -/
def Live.regPoison (l : Live) (b : Build) (r : RegRow) (e : Nat) : Bool :=
  match l.regHolder b r e with
  | some h => l.bad h
  | none => false

/-- A read of an uncorrectable register counts its words (R428). -/
def Live.regMeet (l : Live) (b : Build) (r : RegRow) (e : Nat) : Live :=
  match l.regHolder b r e with
  | some h => l.meet b h
  | none => l

/-- The register at offset `a` when it answers with its own state: its row and the entity it shows. -/
def Live.openReg (l : Live) (b : Build) (a : Nat) : Option (RegRow × Nat) :=
  match findReg b a with
  | some (r, i) => if l.gateOpen b r i ∧ l.regServed r.off then (l.entity b r i).map fun e => (r, e) else none
  | none => none

/-- A read of offset `a`: the state after it, and the data (R22, R68, R485). -/
def Live.readReg (l : Live) (b : Build) (a : Nat) : Live × Nat :=
  match l.openReg b a with
  | some (r, e) => if l.regPoison b r e then (l.regMeet b r e, 0) else (l.readEffects b r e, l.regVal b r e)
  | none => (l, 0)

end Sys2Proof.Machine
end

