-- ==== Sys2Proof/Machine/Regs.lean ====
section
/-! DEFINITION. Writing registers, and the accesses themselves: the register port, REG_READ, REG_WRITE and
IDENT, and the register writes that have a row of their own (spec/00 R20; spec/02 R68, R69; spec/03 R105,
R106; spec/05 R147; spec/21 R483 to R488). -/

namespace Sys2Proof.Machine

/-! ### Fields in general (R20, R483) -/

/-- A write of `v` to the register that holds field `f` of entity `e`: RW fields take it, W1C bits written 1
clear. -/
def Live.writeField (l : Live) (b : Build) (e : Nat) (v : Nat) (f : Fld) : Live :=
  let x := v >>> f.lo % 2 ^ f.w
  match f.acc with
  | .rw => l.put b f x e
  | .w1c =>
    let old := l.get b f e
    l.put b f (old - (old &&& x)) e
  | _ => l

/-- A write to every field of a list. -/
def Live.writeFields (l : Live) (b : Build) (fs : List Fld) (e : Nat) (v : Nat) : Live :=
  fs.foldl (fun l f => l.writeField b e v f) l

/-! ### Unit enables (R105, R106) -/

/-- The fields of an enable register. -/
def enFlds (b : Build) (reg : Nat) : List Fld :=
  if reg = 1 then [F.UNIT_EN_LNK_LNK]
  else if reg = 2 then [F.UNIT_EN_CEL_CEL]
  else if b.buoy then
    [F.UNIT_EN_B_TAP, F.UNIT_EN_B_PCS, F.UNIT_EN_B_BMON, F.UNIT_EN_B_SENS, F.UNIT_EN_B_PWRQ, F.UNIT_EN_B_TREE,
     F.UNIT_EN_B_SPILL, F.UNIT_EN_B_PULSE, F.UNIT_EN_B_SYNC]
  else [F.UNIT_EN_L_TREE, F.UNIT_EN_L_SEQ, F.UNIT_EN_L_PMB, F.UNIT_EN_L_PULSE, F.UNIT_EN_L_SYNC]

/-- Bit `i` of an enable field can be set: SPILL only with SPILL_EN, CEL only where a port is present. -/
def Live.enSettable (l : Live) (b : Build) (f : Fld) (i : Nat) : Bool :=
  if f = F.UNIT_EN_B_SPILL then b.spillEn
  else if f = F.UNIT_EN_CEL_CEL then l.boot.st.celPresent.toNat.testBit i
  else true

/-- A unit's clock stops: marks in the trace, a link goes down, and the plans that use it end. Its state stays
(R105). -/
def Live.unitOff (l : Live) (b : Build) (reg : Nat) (f : Fld) (i : Nat) : Live :=
  let l := l.clrBit b f 0 i
  let l :=
    if f = F.UNIT_EN_B_BMON then l.markEntry
    else if f = F.UNIT_EN_LNK_LNK then l.linkDown b i 1
    else l
  l.endGated b reg f i

/-- A unit's clock starts again. -/
def Live.unitOn (l : Live) (b : Build) (f : Fld) (i : Nat) : Live :=
  let l := l.setBit b f 0 i
  if f = F.UNIT_EN_B_BMON then l.markExit b else if f = F.UNIT_EN_B_PWRQ then l.raiseReq b else l

/-- A write of enable register `reg`, bit by bit in ascending order. -/
def Live.writeEn (l : Live) (b : Build) (reg : Nat) (v : Word) : Live :=
  (enFlds b reg).foldl (fun l f => (List.range f.w).foldl (fun l i =>
    let want := v.toNat.testBit (f.lo + i) && l.enSettable b f i
    if want = l.flag b f 0 i then l
    else if want then l.unitOn b f i
    else l.unitOff b reg f i) l) l

/-! ### Registers whose writes do more than set fields -/

/-- QWk_START, QWk_PERIOD and QWk_LEN: ignored while the set is enabled or owned (R131, R238). -/
def Live.writeQw (l : Live) (b : Build) (k : Nat) (f : Fld) (v : Word) : Live :=
  if (l.qw k).en ∨ (l.qw k).owner ≠ 0 then l else l.put b f v.toNat k

/-- A register of a series: ignored while the series is enabled (Table 13.6). -/
def Live.writeSer (l : Live) (b : Build) (s : Nat) (fs : List Fld) (v : Word) : Live :=
  if (l.sery s).on then l else l.writeFields b fs s v.toNat

/-- CLASS is RO 0 for queue 0 (R253). -/
def Live.writeEgq (l : Live) (b : Build) (q : Nat) (v : Word) : Live :=
  let l := l.put b F.EGQ_CFG_WEIGHT (v.toNat / 256) q
  if q = 0 then l else l.put b F.EGQ_CFG_CLASS v.toNat q

/-- MODE and NOTICE are RO 0 for management and transit queues (Table 12.5). -/
def Live.writeQue (l : Live) (b : Build) (q : Nat) (v : Word) : Live :=
  let l := l.writeFields b [F.QUE_CFG_BATCH_N, F.QUE_CFG_CAP] q v.toNat
  if b.ownQueue q then l.writeFields b [F.QUE_CFG_MODE, F.QUE_CFG_NOTICE] q v.toNat else l

/-- One half of a 64-bit register of a watch object (R406). -/
def Live.writeHalf (l : Live) (b : Build) (off o : Nat) (v : Word) : Live :=
  if b.lantern then l
  else if off = 0x1C50 ∨ off = 0x1C54 then
    l.writeWatch o fun w => { w with addr := half (decide (off = 0x1C54)) w.addr v }
  else if off = 0x1C58 ∨ off = 0x1C5C then
    l.writeWatch o fun w => { w with mask := half (decide (off = 0x1C5C)) w.mask v }
  else l.writeWatch o fun w => { w with free := half (decide (off = 0x1C64)) w.free v }

/-- SYNC_CFG: an object that becomes enabled is written anew. -/
def Live.writeSync (l : Live) (b : Build) (o : Nat) (v : Word) : Live :=
  if b.lantern then l
  else
    let was := (l.watch o).en
    let l := l.writeSyncCfg b o v
    if (l.watch o).en ∧ !was then l.clean (.watch o) else l

/-- The status mask of a device: its alarm follows the last STATUS_WORD (R480). -/
def Live.writeMask (l : Live) (b : Build) (d : Nat) (v : Word) : Live :=
  let l := l.put b F.PMB_SMASK_SMASK v.toNat d
  match Tab.find? l.pwr.vals (8 * d + 4) with
  | some x => l.statusSeen b d x.2
  | none => l

/-- The writes that do more than set fields, by row offset; the second Nat is the entity, then the value. -/
def writers1 : List (Nat × (Live → Build → Nat → Word → Live)) := [
  (0x10, fun l b _ v => if v.toNat.testBit 0 then l.softReset b else l),
  (0x20, fun l b _ v => l.writeEn b 0 v), (0x24, fun l b _ v => l.writeEn b 1 v),
  (0x28, fun l b _ v => l.writeEn b 2 v),
  (0x40, fun l b _ v => l.writeClkSel b v), (0x48, fun l b _ v => l.writeOscCfg b v none),
  (0x60, fun l b _ v => l.writeFields b (F.CMD_CFG_WTMO :: if b.buoy then [] else [F.CMD_CFG_FWD_TMO]) 0 v.toNat),
  (0x408, fun l b _ v => l.writeTimeInc b v), (0x40C, fun l b _ v => l.writeTimeCfg b v),
  (0x500, fun l b e v => l.writeQw b e F.QW_START_START v), (0x504, fun l b e v => l.writeQw b e F.QW_PERIOD_PERIOD v),
  (0x508, fun l b e v => l.writeQw b e F.QW_LEN_LEN v), (0x540, fun l b _ v => l.writeQwCtl b v.toNat),
  (0x840, fun l b _ v => if l.flag b F.SCH_CTL_GRID_EN then l else l.put b F.SCH_GRID_ORG_ORG v.toNat),
  (0x844, fun l b _ v => l.writeSchCtl b v),
  (0xD00, fun l _ e v => l.writeTapBind e v), (0xE00, fun l b e v => l.writePcsCfg b e v.toNat),
  (0x1008, fun l b _ v => l.writeSmp b v.toNat),
  (0x1020, fun l b e v => l.writeBucket b F.SHP_CIR_CIR e v.toNat),
  (0x1024, fun l b e v => l.writeBucket b F.SHP_CBS_CBS e v.toNat),
  (0x1028, fun l b e v => l.writeBucket b F.SHP_PIR_PIR e v.toNat),
  (0x102C, fun l b e v => l.writeBucket b F.SHP_PBS_PBS e v.toNat),
  (0x10C4, fun l b e v => l.writeEgq b e v), (0x1104, fun l b e v => l.writeQue b e v),
  (0x110C, fun l b e v => l.writeMid b e v.toNat (l.midPages b e)),
  (0x1110, fun l b e v => l.writeMid b e (l.get b F.QUE_MID_MID_BASE e) (v.toNat % 2 ^ 24)),
  (0x1124, fun l b e v => l.writeQmap b (l.shownQueue b) e v),
  (0x1140, fun l b _ v => if l.anyMid b then l else l.put b F.CEL_QBASE_BASE v.toNat),
  (0x1144, fun l b _ v => if l.anyMid b then l else l.put b F.CEL_QLIM_LIM v.toNat),
  (0x114C, fun l b _ v => if l.ser.sers.any (fun e => e.2.on) then l else l.put b F.CEL_SSTAGE_BASE v.toNat),
  (0x1400, fun l b e v => l.writeRole b e v)]

/-- The same for offsets from 0x1800. -/
def writers2 : List (Nat × (Live → Build → Nat → Word → Live)) := [
  (0x1804, fun l b e v => l.writeSerCfg b e v),
  (0x1808, fun l b e v => l.writeSer b e [F.SER_SRC_LOCAL, F.SER_SRC_STREAM, F.SER_SRC_POS, F.SER_SRC_ITEM7] v),
  (0x180C, fun l b e v => l.writeSer b e [F.SER_BASE_BASE] v),
  (0x1C00, fun l b _ v => l.writeTrcCtl b v), (0x1C44, fun l b e v => l.writeSync b e v),
  (0x1C50, fun l b e v => l.writeHalf b 0x1C50 e v), (0x1C54, fun l b e v => l.writeHalf b 0x1C54 e v),
  (0x1C58, fun l b e v => l.writeHalf b 0x1C58 e v), (0x1C5C, fun l b e v => l.writeHalf b 0x1C5C e v),
  (0x1C60, fun l b e v => l.writeHalf b 0x1C60 e v), (0x1C64, fun l b e v => l.writeHalf b 0x1C64 e v),
  (0x1CC4, fun l b _ v => l.writeAttic b v),
  (0x2420, fun l b e v => l.writePcopy b e v),
  (0x2430, fun l b e v => if l.flag b F.PCOPY_VALID e then l else l.put b F.PCOPY_BASE_BASE v.toNat e),
  (0x2440, fun l b e v => l.writeFields b [F.PCOPY_SRC_LO, F.PCOPY_SRC_SPAN] e v.toNat),
  (0x2454, fun l b _ v => l.writeRestCtl b v), (0x2814, fun l b _ v => l.writeWakeCtl b v),
  (0x2818, fun l b _ v => l.put b F.ATTIC_SEL_BANKS (if b.buoy then v.toNat % 256 else v.toNat)),
  (0x2880, fun l b e v => l.writeMask b e v), (0x3400, fun l b e v => l.writeCalu b e v)]

/-- A write to register `r` that shows entity `e`. -/
def Live.writeRow (l : Live) (b : Build) (r : RegRow) (e : Nat) (v : Word) : Live :=
  match (if r.off < 0x1800 then writers1 else writers2).find? fun x => decide (x.1 = r.off) with
  | some x => x.2 l b e v
  | none => l.writeFields b r.flds e v.toNat

/-- A write to offset `a` (R22, R68, R485). GLB_CTL is served after a failed boot too, since a soft reset
leaves that state (R140). -/
def Live.writeReg (l : Live) (b : Build) (a : Nat) (v : Word) : Live :=
  if a = 0x10 then (if v.toNat.testBit 0 then l.softReset b else l)
  else match l.openReg b a with
    | some (r, e) => l.writeRow b r e v
    | none => l

/-! ### The register port (R68) -/

/-- The request with offset `a` is held at its sender: REG is in reset or switches its source, BMON is in
reset and the register is its own, or requests wait before it (R93, R97). -/
def Live.regWaits (l : Live) (b : Build) (a : Nat) : Bool :=
  decide (l.boot.phase < 2) || l.switching .reg ||
  (l.boot.bmonRst && match findReg b a with
    | some (r, _) => decide (r.gate = .bit 9)
    | none => false)

/-- Requests arrive here in order: one that is held back is served later, in its turn. -/
def Live.regHolds (l : Live) (b : Build) (a : Nat) : Bool :=
  !l.cmd.regGo && !l.boot.held && (!l.cmd.regHeld.isEmpty || l.regWaits b a)

/-- The request in its turn: the next one waits for its own. -/
def Live.inTurn (l : Live) : Live := { l with cmd := { l.cmd with regGo := false } }

/-- Request `c` with offset `a` at the register port, served by `f` where the offset is mapped. -/
def State.onPort (s : State) (c : Instr) (a : Nat) (f : Build → Live → Live) :
    Host.Outcome State Fault Refusal :=
  s.run fun b l =>
    if l.regHolds b a then { l with cmd := { l.cmd with regHeld := l.cmd.regHeld ++ [(a, c)] } }
    else
      let l := l.inTurn
      if !l.regOpen then l
      else if (findReg b a).isNone then l.emit (.regRsp 0 true)
      else f b l

/-- A read at the register port. -/
def State.portRead (s : State) (c : Instr) (a : Nat) : Host.Outcome State Fault Refusal :=
  s.onPort c a fun b l =>
    let x := l.readReg b a
    x.1.emit (.regRsp (BitVec.ofNat 32 x.2) false)

/-- A write at the register port: the access completes before a reset that it starts. `f` is what the write
does; it is `writeReg` but for a write that brings its own measurement. -/
def State.portWriteBy (s : State) (c : Instr) (a : Nat) (f : Build → Live → Live) :
    Host.Outcome State Fault Refusal :=
  s.onPort c a fun b l => f b (l.emit (.regRsp 0 false))

/-- A write of `v` to offset `a` at the register port. -/
def State.portWrite (s : State) (c : Instr) (a : Nat) (v : Word) : Host.Outcome State Fault Refusal :=
  s.portWriteBy c a fun b l => l.writeReg b a v

/-- SOFT_RESET (R134): the write of GLB_CTL.SOFT_RST at the register port. It leaves a failed boot
too (R140). -/
def execSoftReset (s : State) : Host.Outcome State Fault Refusal :=
  s.portWriteBy .softReset 0x10 fun b l => l.softReset b

/-- LATCHED_PAIR_READ (R486). -/
def execLatchedPairRead (addr : BitVec 16) (s : State) : Host.Outcome State Fault Refusal :=
  s.portRead (.latchedPairRead addr) addr.toNat

/-- COUNTER_WINDOW_READ (R487, R488). -/
def execCounterWindowRead (addr : BitVec 16) (s : State) : Host.Outcome State Fault Refusal :=
  s.portRead (.counterWindowRead addr) addr.toNat

/-- REGISTER_READ_CLEAR (R20, R483): a read of any other register too. -/
def execRegisterReadClear (addr : BitVec 16) (s : State) : Host.Outcome State Fault Refusal :=
  s.portRead (.registerReadClear addr) addr.toNat

/-- REGISTER_WRITE (R483). -/
def execRegisterWrite (addr : BitVec 16) (v : Word) (s : State) : Host.Outcome State Fault Refusal :=
  s.portWrite (.registerWrite addr v) addr.toNat v

/-- CLK_SEL_WRITE (R96). -/
def execClkSelWrite (v : Word) (s : State) : Host.Outcome State Fault Refusal := s.portWrite (.clkSelWrite v) 0x40 v

/-- WINDOW_CHECK (R101): a write of OSC_CFG, with the count that its window check finds. -/
def execWindowCheck (v : Word) (count : Nat) (s : State) : Host.Outcome State Fault Refusal :=
  s.portWriteBy (.windowCheck v count) 0x48 fun b l => if l.regServed 0x48 then l.writeOscCfg b v (some count) else l

/-- TRIM_SOURCE_WRITE (R103): a write of OSC_CFG. -/
def execTrimSourceWrite (v : Word) (s : State) : Host.Outcome State Fault Refusal := s.portWrite (.trimSourceWrite v) 0x48 v

/-- The offset of an enable register. -/
def enOff : EnReg → Nat
  | .unitEn => 0x20
  | .unitEnLnk => 0x24
  | .unitEnCel => 0x28

/-- UNIT_EN_WRITE (R105, R106). -/
def execUnitEnWrite (r : EnReg) (v : Word) (s : State) : Host.Outcome State Fault Refusal :=
  s.portWrite (.unitEnWrite r v) (enOff r) v

/-- TIME_INC_WRITE (R109). -/
def execTimeIncWrite (v : Word) (s : State) : Host.Outcome State Fault Refusal := s.portWrite (.timeIncWrite v) 0x408 v

/-- TIME_FREERUN_WRITE (R116): a write of TIME_CFG. -/
def execTimeFreerunWrite (v : Word) (s : State) : Host.Outcome State Fault Refusal := s.portWrite (.timeFreerunWrite v) 0x40C v

/-- QW_ENABLE (R131): a write of QW_CTL. -/
def execQwEnable (v : Word) (s : State) : Host.Outcome State Fault Refusal := s.portWrite (.qwEnable v) 0x540 v

/-- QW_DISABLE (R131): a write of QW_CTL. -/
def execQwDisable (v : Word) (s : State) : Host.Outcome State Fault Refusal := s.portWrite (.qwDisable v) 0x540 v

/-- TAP_BIND_WRITE (R169). -/
def execTapBindWrite (i : BitVec 6) (v : Word) (s : State) : Host.Outcome State Fault Refusal :=
  s.portWrite (.tapBindWrite i v) (0xD00 + 4 * i.toNat) v

/-- PCS_CFG_WRITE (R191). -/
def execPcsCfgWrite (k : BitVec 2) (v : Word) (s : State) : Host.Outcome State Fault Refusal :=
  s.portWrite (.pcsCfgWrite k v) (0xE00 + 16 * k.toNat) v

/-- GRID_ENABLE (R240): a write of SCH_CTL. -/
def execGridEnable (v : Word) (s : State) : Host.Outcome State Fault Refusal := s.portWrite (.gridEnable v) 0x844 v

/-- LNK_ROLE_WRITE (R268). -/
def execLnkRoleWrite (n : BitVec 5) (v : Word) (s : State) : Host.Outcome State Fault Refusal :=
  s.portWrite (.lnkRoleWrite n v) (0x1400 + 4 * n.toNat) v

/-- QUE_MID_WRITE (R299): QUE_MID and then QUE_MIDLEN of the queue shown. -/
def execQueMidWrite (base len : Word) (s : State) : Host.Outcome State Fault Refusal :=
  s.portWriteBy (.queMidWrite base len) 0x110C fun b l =>
    ((l.writeReg b 0x110C base).emit (.regRsp 0 false)).writeReg b 0x1110 len

/-- QMAP_WRITE (R300). -/
def execQmapWrite (v : Word) (s : State) : Host.Outcome State Fault Refusal := s.portWrite (.qmapWrite v) 0x1124 v

/-- SERIES_ENABLE (R313, R333): a write of SER_CFG. -/
def execSeriesEnable (v : Word) (s : State) : Host.Outcome State Fault Refusal := s.portWrite (.seriesEnable v) 0x1804 v

/-- SERIES_DISABLE (R313): a write of SER_CFG. -/
def execSeriesDisable (v : Word) (s : State) : Host.Outcome State Fault Refusal := s.portWrite (.seriesDisable v) 0x1804 v

/-- SWTRIG (R396): a write of 1 to TRC_CTL. -/
def execSwtrig (s : State) : Host.Outcome State Fault Refusal := s.portWrite .swtrig 0x1C00 1

/-- WATCH_ENABLE (R406): a write of SYNC_CFG. -/
def execWatchEnable (v : Word) (s : State) : Host.Outcome State Fault Refusal := s.portWrite (.watchEnable v) 0x1C44 v

/-- ATTIC_ENABLE (R425): a write of LOG_ATTIC. -/
def execAtticEnable (v : Word) (s : State) : Host.Outcome State Fault Refusal := s.portWrite (.atticEnable v) 0x1CC4 v

/-- ATTIC_DISABLE (R425): a write of LOG_ATTIC. -/
def execAtticDisable (v : Word) (s : State) : Host.Outcome State Fault Refusal := s.portWrite (.atticDisable v) 0x1CC4 v

/-- PCOPY_ENABLE (R449). -/
def execPcopyEnable (k : BitVec 2) (v : Word) (s : State) : Host.Outcome State Fault Refusal :=
  s.portWrite (.pcopyEnable k v) (0x2420 + 4 * k.toNat) v

/-- RESTORE_GO (R450): a write of REST_CTL. -/
def execRestoreGo (v : Word) (s : State) : Host.Outcome State Fault Refusal := s.portWrite (.restoreGo v) 0x2454 v

/-- WAKE_COUNT_ARM (R473): a write of PWR_WAKE_CTL. -/
def execWakeCountArm (v : Word) (s : State) : Host.Outcome State Fault Refusal := s.portWrite (.wakeCountArm v) 0x2814 v

/-! ### IDENT, REG_READ and REG_WRITE (R147, R166, R167, R484) -/

/-- Register `r` as a word when it shows itself: GLB_PARAM, GLB_ID, GLB_RELEASE. -/
def Live.word0 (l : Live) (b : Build) (a : Nat) : Nat :=
  match findReg b a with
  | some (r, i) => l.regVal b r i
  | none => 0

/-- IDENT (R147). -/
def execIdent (p : Packet) (s : State) : Host.Outcome State Fault Refusal :=
  s.run fun b l => l.command b (.ident p) (opRow 0x02 true true 0 0 0) p fun l r =>
    l.reply b r 0 (l.word0 b 0x0)
      [packW [(0, l.word0 b 0x4), (32, l.word0 b 0x8)], packW [(0, l.privOf b p), (2, l.time.state.code)]]

/-- The offsets a REG_READ or REG_WRITE names. -/
def regRange (p : Packet) : List Nat :=
  (List.range (p.aBits 16 9 + 1)).map fun i => p.aBits 0 16 + 4 * i

/-- A register of the range is held in SRAM and cannot be read. -/
def Live.rangePoison (l : Live) (b : Build) (as : List Nat) : Bool :=
  as.any fun a => match l.openReg b a with
    | some (r, e) => l.regPoison b r e
    | none => false

/-- The uncorrectable words that a read of the range finds (R428). -/
def Live.rangeMeet (l : Live) (b : Build) (as : List Nat) : Live :=
  as.foldl (fun l a => match l.openReg b a with
    | some (r, e) => l.regMeet b r e
    | none => l) l

/-- Reads in ascending order: the state after them, and the data. -/
def Live.readAll (l : Live) (b : Build) : List Nat → Live × List Nat
  | [] => (l, [])
  | a :: t =>
    let x := l.readReg b a
    let y := x.1.readAll b t
    (y.1, x.2 :: y.2)

/-- REG_READ (R484). -/
def execRegRead (p : Packet) (s : State) : Host.Outcome State Fault Refusal :=
  s.run fun b l => l.command b (.regRead p) (opRow 0x08 true true 2 0 0) p fun l r =>
    let as := regRange p
    if as.any fun a => (findReg b a).isNone then l.reply b r eRange
    else if l.rangePoison b as then (l.rangeMeet b as).reply b r ePoison
    else
      let x := l.readAll b as
      x.1.reply b r 0 as.length (pack32 x.2)

/-- Writes in ascending order, the values as 32-bit items of the payload. -/
def Live.writeAll (l : Live) (b : Build) (ws : List DWord) (as : List Nat) (first : Nat) : Live :=
  as.foldl (fun l a => l.writeReg b a (BitVec.ofNat 32 (item32 ws ((a - first) / 4)))) l

/-- REG_WRITE (R484). A write that sets GLB_CTL.SOFT_RST is answered before the reset begins (R161). -/
def execRegWrite (p : Packet) (s : State) : Host.Outcome State Fault Refusal :=
  s.run fun b l =>
    let n := (p.aBits 16 9 + 2) / 2
    l.command b (.regWrite p) (opRow 0x09 true true 2 n n) p fun l r =>
      let as := regRange p
      let first := p.aBits 0 16
      let soft := decide (0x10 ∈ as) && (item32 p.data ((0x10 - first) / 4)).testBit 0
      if as.any fun a => (findReg b a).isNone then l.reply b r eRange
      else if soft then
        let l := l.writeAll b p.data (as.filter fun a => decide (a ≠ 0x10)) first
        (l.emit (.mgmtReply (replyPacket r.tag r.pchk 0 0 []))).softReset b
      else (l.writeAll b p.data as first).reply b r 0

end Sys2Proof.Machine
end

