-- ==== Sys2Proof/Machine/Handshake.lean ====
section
/-! DEFINITION. Handshakes that no island acknowledges (spec/03 R99; spec/07 R177, R186; spec/08 R205). -/

namespace Sys2Proof.Machine

/-- A handshake ended without an acknowledge. -/
def Live.noAck (l : Live) (b : Build) : Live := l.bump b F.CLK_STAT_XTO_CNT

/-- The row of Table 6.6 of a request packet with this opcode. -/
def Live.rowOf (l : Live) (b : Build) (opc : Nat) (p : Packet) : Option OpRow :=
  let n := (p.aBits 16 9 + 2) / 2
  ([opRow 0x01 true true 0 0 0, opRow 0x02 true true 0 0 0, opRow 0x08 true true 2 0 0,
    opRow 0x09 true true 2 n n, ⟨0x10, true, true, 1, 1, 254, 2, 2⟩, opRow 0x11 true true 1 0 0,
    opRow 0x12 true true 1 2 2, opRow 0x13 true true 1 0 0, opRow 0x14 true true 1 0 1,
    opRow 0x18 true true 1 1 1, l.ctrReadRow b p, ctrConfigRow, ctrFreezeRow, ctrThawRow,
    opRow 0x28 true true 0 1 4095, ⟨0x29, true, true, 1, 1, 254, 2, 2⟩, opRow 0x2A false true 0 2 2051,
    traceArmRow, opRow 0x31 true false 1 0 0, opRow 0x38 true true 1 0 0, opRow 0x40 true true 2 2 2,
    opRow 0x48 true true 2 0 0, opRow 0x49 true false 2 0 0, opRow 0x4A true false 2 0 0,
    opRow 0x50 true true 2 1 1, opRow 0x58 true true 1 0 0, rplRow, opRow 0x61 true false 1 0 0,
    opRow 0x70 true true 2 2 2] : List OpRow).find? fun o => decide (o.opc = opc)

/-- A command arrives and the transfer it needs is not acknowledged: E_GATED. A MODEL_LOAD that is not
answered OK counts in LOAD_REJ. -/
def Live.cmdNoAck (l : Live) (b : Build) (u : HsUse) (opc : Nat) (p : Packet) : Live :=
  match l.rowOf b opc p with
  | none => l
  | some o =>
    let rej := if b.lantern && decide (p.aBits 4 1 = 1) then F.SEQ_ERR_LOAD_REJ
      else F.TREE_ERR_LOAD_REJ
    let ml := decide (opc = 0x29)
    (l.when (ml && l.turnedAway b (.handshakeTimeout u) o p) fun l => l.bump b rej).command b (.handshakeTimeout u) o p
      fun l r => ((l.noAck b).when ml fun l => l.bump b rej).reply b r eGated

/-- A counter command arrives and the islands in `silent` do not answer it (R99, R186). -/
def Live.ctrNoAck (l : Live) (b : Build) (u : HsUse) (op : CtrOp) (p : Packet) (silent : List Nat) :
    Live :=
  let c : Instr := .handshakeTimeout u
  match op with
  | .read => l.command b c (l.ctrReadRow b p) p fun l r => l.ctrRead b p silent r
  | .config => l.command b c ctrConfigRow p fun l r => l.ctrConfig b p silent r
  | .freeze => l.command b c ctrFreezeRow p fun l r => l.ctrFreeze b p silent Ctr.freeze r
  | .thaw => l.command b c ctrThawRow p fun l r => l.ctrFreeze b p silent Ctr.thaw r

/-- A plan entry forgets the command `no`. -/
def Plan.forget (x : Plan) (no : Nat) : Plan :=
  let keep := fun (r : Option Ret) => r.filter fun r => decide (r.seqNo ≠ no)
  { x with armReply := keep x.armReply, loadReply := keep x.loadReply, verifyReply := keep x.verifyReply,
           cutReplies := x.cutReplies.filter fun c => decide (c.1.seqNo ≠ no) }

/-- A host-unit request that its command no longer waits for: its acknowledge will be late. -/
def Live.forgetReq (l : Live) (no : Nat) : Live :=
  let gone := l.pwr.reqs.any fun q => decide (q.r.seqNo = no) && q.sent
  { l with pwr := { l.pwr with
      reqs := l.pwr.reqs.filter fun q => decide (q.r.seqNo ≠ no), lateAck := l.pwr.lateAck || gone } }

/-- Every unit forgets the command `no`, which is about to be answered. -/
def Live.forget (l : Live) (b : Build) (no : Nat) : Live :=
  let ne := fun (r : Ret) => decide (r.seqNo ≠ no)
  let l := { l with samp := { l.samp with
    job := l.samp.job.filter fun j => ne j.r, stepJobs := l.samp.stepJobs.filter fun j => ne j.r } }
  let l := { l with eng := { l.eng with
    treeJobs := l.eng.treeJobs.filter fun j => ne j.r, job := l.eng.job.filter fun j => ne j.r,
    waits := l.eng.waits.filter fun j => ne j.r } }
  let l := { l with mem := { l.mem with jobs := startPass (l.mem.jobs.filter fun j => ne j.r) } }
  let l := { l with plans := Tab.mapVal (fun (_ : Nat) (x : Plan) => x.forget no) l.plans }
  let l := { l with trace := { l.trace with
    hang := l.trace.hang.filter fun h => ne h.r, dumps := l.trace.dumps.filter fun d => ne d.1 } }
  let l := { l with flt := { l.flt with rpl := { l.flt.rpl with reply := l.flt.rpl.reply.filter ne } } }
  let l := (l.forgetReq no).raiseReq b
  l.seqNext b l.eng.waits.length

/-- The command in execution on port `q` needs a transfer that is not acknowledged: it is answered E_GATED.
A remap whose switch has started is past its transfers. -/
def Live.waitNoAck (l : Live) (b : Build) (q : Port) : Live :=
  match l.cmd.busy.find? fun x => decide (x.r.port = q) with
  | none => l
  | some x =>
    let no := x.r.seqNo
    if l.samp.job.any fun j => decide (j.r.seqNo = no) && j.switched then l
    else match l.loads.find? fun d => decide (d.r.seqNo = no) with
      | some d => (l.noAck b).endLoad b d eGated
      | none => ((l.noAck b).forget b no).reply b x.r eGated

/-- What a time-out does in a block that is awake. -/
def Live.hsTimeout (l : Live) (b : Build) (u : HsUse) : Live :=
  match u with
  | .regRead => l
  | .regWrite => l
  | .command opc p => l.cmdNoAck b u opc.toNat p
  | .tapCommand op p silent => l.ctrNoAck b u op p (silent.map (·.toNat))
  | .waiting q => if l.awake then l.waitNoAck b q else l
  | .remapProbe =>
    match l.samp.job with
    | some j =>
      if !l.awake ∨ j.switched then l
      else
        let l := { l with samp := { l.samp with job := none } }
        (l.noAck b).reply b j.r eGated
    | none => l
  | .remapOld =>
    match l.samp.job with
    | some j => if l.awake ∧ j.switched ∧ j.travels then (l.noAck b).remapLost b j else l
    | none => l
  | .cutItems plan tap =>
    if b.lantern ∨ !l.awake ∨ (l.plan plan.toNat).kept.isNone then l
    else (l.noAck b).cutItemsStale b plan.toNat tap.toNat

/-- HANDSHAKE_TIMEOUT (R99): a register read returns zero, a write is dropped. -/
def execHandshakeTimeout (u : HsUse) (s : State) : Host.Outcome State Fault Refusal :=
  s.run fun b l =>
    if u = .regRead ∨ u = .regWrite then
      if l.regOpen then (l.noAck b).emit (.regRsp 0 false) else l
    else l.hsTimeout b u

end Sys2Proof.Machine
end

