-- ==== Sys2Proof/Machine/Dispatch.lean ====
section
/-! DEFINITION. One arm for each command of the table. -/

namespace Sys2Proof.Machine

/-- The effect of a command on everything but the queue of commands. -/
def exec (i : Instr) (s : State) : Host.Outcome State Fault Refusal :=
  match i with
  | .coldReset => Sys2Proof.Machine.execColdReset s
  | .wakeIn => Sys2Proof.Machine.execWakeIn s
  | .softReset => Sys2Proof.Machine.execSoftReset s
  | .oscQualified => Sys2Proof.Machine.execOscQualified s
  | .calWordAck w => Sys2Proof.Machine.execCalWordAck w s
  | .calIntakeTimeout => Sys2Proof.Machine.execCalIntakeTimeout s
  | .clockQualified isl => Sys2Proof.Machine.execClockQualified isl s
  | .clockQualTimeout isl => Sys2Proof.Machine.execClockQualTimeout isl s
  | .romCheck romOk eccOk => Sys2Proof.Machine.execRomCheck romOk eccOk s
  | .sramTest ok aonCycles => Sys2Proof.Machine.execSramTest ok aonCycles s
  | .engWaitTimeout => Sys2Proof.Machine.execEngWaitTimeout s
  | .clkSelWrite v => Sys2Proof.Machine.execClkSelWrite v s
  | .clockSwitchDone => Sys2Proof.Machine.execClockSwitchDone s
  | .clockFallback isl => Sys2Proof.Machine.execClockFallback isl s
  | .handshakeTimeout u => Sys2Proof.Machine.execHandshakeTimeout u s
  | .windowCheck v count => Sys2Proof.Machine.execWindowCheck v count s
  | .trimSourceWrite v => Sys2Proof.Machine.execTrimSourceWrite v s
  | .trimWindow src count winCount => Sys2Proof.Machine.execTrimWindow src count winCount s
  | .unitEnWrite r v => Sys2Proof.Machine.execUnitEnWrite r v s
  | .timeIncWrite v => Sys2Proof.Machine.execTimeIncWrite v s
  | .hallPhaseEdge tinValid tinNs => Sys2Proof.Machine.execHallPhaseEdge tinValid tinNs s
  | .slewAbsorbed => Sys2Proof.Machine.execSlewAbsorbed s
  | .tinValidLow => Sys2Proof.Machine.execTinValidLow s
  | .holdoverTimeout => Sys2Proof.Machine.execHoldoverTimeout s
  | .ftMsTick => Sys2Proof.Machine.execFtMsTick s
  | .timexInterval => Sys2Proof.Machine.execTimexInterval s
  | .timexReq r => Sys2Proof.Machine.execTimexReq r s
  | .timexRsp n r => Sys2Proof.Machine.execTimexRsp n r s
  | .countReached cmp => Sys2Proof.Machine.execCountReached cmp s
  | .pulseRise n => Sys2Proof.Machine.execPulseRise n s
  | .pulseFall n => Sys2Proof.Machine.execPulseFall n s
  | .qwWindowStart k => Sys2Proof.Machine.execQwWindowStart k s
  | .qwWindowEnd k => Sys2Proof.Machine.execQwWindowEnd k s
  | .qwEnable v => Sys2Proof.Machine.execQwEnable v s
  | .qwDisable v => Sys2Proof.Machine.execQwDisable v s
  | .nop p => Sys2Proof.Machine.execNop p s
  | .ident p => Sys2Proof.Machine.execIdent p s
  | .regRead p => Sys2Proof.Machine.execRegRead p s
  | .regWrite p => Sys2Proof.Machine.execRegWrite p s
  | .planLoad p => Sys2Proof.Machine.execPlanLoad p s
  | .planVerify p => Sys2Proof.Machine.execPlanVerify p s
  | .planArm p => Sys2Proof.Machine.execPlanArm p s
  | .planAbort p => Sys2Proof.Machine.execPlanAbort p s
  | .planTeardown p => Sys2Proof.Machine.execPlanTeardown p s
  | .cutAt p => Sys2Proof.Machine.execCutAt p s
  | .ctrRead p => Sys2Proof.Machine.execCtrRead p s
  | .ctrConfig p => Sys2Proof.Machine.execCtrConfig p s
  | .ctrFreeze p => Sys2Proof.Machine.execCtrFreeze p s
  | .ctrThaw p => Sys2Proof.Machine.execCtrThaw p s
  | .treeQuery p => Sys2Proof.Machine.execTreeQuery p s
  | .modelLoad p => Sys2Proof.Machine.execModelLoad p s
  | .modelLoadSlotFree isSeq slot => Sys2Proof.Machine.execModelLoadSlotFree isSeq slot s
  | .seqQuery p => Sys2Proof.Machine.execSeqQuery p s
  | .seqJobDone => Sys2Proof.Machine.execSeqJobDone s
  | .traceArm p => Sys2Proof.Machine.execTraceArm p s
  | .traceDisarm p => Sys2Proof.Machine.execTraceDisarm p s
  | .traceRead p => Sys2Proof.Machine.execTraceRead p s
  | .logRead p => Sys2Proof.Machine.execLogRead p s
  | .scrubRange p => Sys2Proof.Machine.execScrubRange p s
  | .pwrState p => Sys2Proof.Machine.execPwrState p s
  | .unitAdjust p => Sys2Proof.Machine.execUnitAdjust p s
  | .unitRemap p => Sys2Proof.Machine.execUnitRemap p s
  | .calWrite p => Sys2Proof.Machine.execCalWrite p s
  | .hangDump p => Sys2Proof.Machine.execHangDump p s
  | .hangSnapshot => Sys2Proof.Machine.execHangSnapshot s
  | .replayCtlStop p => Sys2Proof.Machine.execReplayCtlStop p s
  | .replayCtlLog p => Sys2Proof.Machine.execReplayCtlLog p s
  | .replayCtlReplay p => Sys2Proof.Machine.execReplayCtlReplay p s
  | .replayFinish => Sys2Proof.Machine.execReplayFinish s
  | .stepMark p => Sys2Proof.Machine.execStepMark p s
  | .stepMarkApply => Sys2Proof.Machine.execStepMarkApply s
  | .pulseArm p => Sys2Proof.Machine.execPulseArm p s
  | .wordTimeout h => Sys2Proof.Machine.execWordTimeout h s
  | .mgmtReplySend => Sys2Proof.Machine.execMgmtReplySend s
  | .inbandCmdForward n r => Sys2Proof.Machine.execInbandCmdForward n r s
  | .inbandReplyReturn n r => Sys2Proof.Machine.execInbandReplyReturn n r s
  | .forwardTimeout dst dlan => Sys2Proof.Machine.execForwardTimeout dst dlan s
  | .fabRxBadRecord ws => Sys2Proof.Machine.execFabRxBadRecord ws s
  | .tapBindWrite unit v => Sys2Proof.Machine.execTapBindWrite unit v s
  | .remapSwitch => Sys2Proof.Machine.execRemapSwitch s
  | .remapWaitTimeout => Sys2Proof.Machine.execRemapWaitTimeout s
  | .remapHandoverDone => Sys2Proof.Machine.execRemapHandoverDone s
  | .pcsCfgWrite k v => Sys2Proof.Machine.execPcsCfgWrite k v s
  | .pcsSample k pc unit stall => Sys2Proof.Machine.execPcsSample k pc unit stall s
  | .pcsampFlushTimeout k => Sys2Proof.Machine.execPcsampFlushTimeout k s
  | .sensorSetTaken temps volts merged => Sys2Proof.Machine.execSensorSetTaken temps volts merged s
  | .sampleTake plan set => Sys2Proof.Machine.execSampleTake plan set s
  | .cutLatch plan => Sys2Proof.Machine.execCutLatch plan s
  | .cutvecAssembled plan => Sys2Proof.Machine.execCutvecAssembled plan s
  | .cutvecReceive n r => Sys2Proof.Machine.execCutvecReceive n r s
  | .leafClose plan => Sys2Proof.Machine.execLeafClose plan s
  | .partialReceive n r => Sys2Proof.Machine.execPartialReceive n r s
  | .stageDeadline plan stage phaseB => Sys2Proof.Machine.execStageDeadline plan stage phaseB s
  | .thresholdsReceive n r => Sys2Proof.Machine.execThresholdsReceive n r s
  | .buoyThresholds r => Sys2Proof.Machine.execBuoyThresholds r s
  | .phaseBReceive n r => Sys2Proof.Machine.execPhaseBReceive n r s
  | .phaseBClose plan => Sys2Proof.Machine.execPhaseBClose plan s
  | .cutcallReceive n m => Sys2Proof.Machine.execCutcallReceive n m s
  | .loaddatReceive n rtag err data => Sys2Proof.Machine.execLoaddatReceive n rtag err data s
  | .armReceive n m => Sys2Proof.Machine.execArmReceive n m s
  | .reportReceive n m => Sys2Proof.Machine.execReportReceive n m s
  | .reportDeadline plan => Sys2Proof.Machine.execReportDeadline plan s
  | .goDecision plan => Sys2Proof.Machine.execGoDecision plan s
  | .goReceive n m => Sys2Proof.Machine.execGoReceive n m s
  | .armingTimeout plan => Sys2Proof.Machine.execArmingTimeout plan s
  | .planStart plan => Sys2Proof.Machine.execPlanStart plan s
  | .planTeardownReached plan => Sys2Proof.Machine.execPlanTeardownReached plan s
  | .abortReceive n m => Sys2Proof.Machine.execAbortReceive n m s
  | .upwardAbortReceive n m => Sys2Proof.Machine.execUpwardAbortReceive n m s
  | .teardownReceive n m => Sys2Proof.Machine.execTeardownReceive n m s
  | .lossReceive n m => Sys2Proof.Machine.execLossReceive n m s
  | .gridEnable v => Sys2Proof.Machine.execGridEnable v s
  | .actionTrigger plan entry => Sys2Proof.Machine.execActionTrigger plan entry s
  | .treeActionRun plan entry => Sys2Proof.Machine.execTreeActionRun plan entry s
  | .seqActionRun plan entry => Sys2Proof.Machine.execSeqActionRun plan entry s
  | .egressSelect inWindow => Sys2Proof.Machine.execEgressSelect inWindow s
  | .shaperSample => Sys2Proof.Machine.execShaperSample s
  | .lnkRoleWrite n v => Sys2Proof.Machine.execLnkRoleWrite n v s
  | .retrainTimer n => Sys2Proof.Machine.execRetrainTimer n s
  | .lanesUp n => Sys2Proof.Machine.execLanesUp n s
  | .trainingTimeout n => Sys2Proof.Machine.execTrainingTimeout n s
  | .initTimeout n => Sys2Proof.Machine.execInitTimeout n s
  | .statusRepeat n => Sys2Proof.Machine.execStatusRepeat n s
  | .lanesDown n => Sys2Proof.Machine.execLanesDown n s
  | .statusReceive n u => Sys2Proof.Machine.execStatusReceive n u s
  | .unitReceive n u => Sys2Proof.Machine.execUnitReceive n u s
  | .linkTransmit n => Sys2Proof.Machine.execLinkTransmit n s
  | .replayTimeout n => Sys2Proof.Machine.execReplayTimeout n s
  | .planUnitLate n => Sys2Proof.Machine.execPlanUnitLate n s
  | .recordAged a => Sys2Proof.Machine.execRecordAged a s
  | .rerouteHoldExpiry src stream => Sys2Proof.Machine.execRerouteHoldExpiry src stream s
  | .queueAdmit nth cycles => Sys2Proof.Machine.execQueueAdmit nth cycles s
  | .queueIdleTimeout q => Sys2Proof.Machine.execQueueIdleTimeout q s
  | .queMidWrite base len => Sys2Proof.Machine.execQueMidWrite base len s
  | .qmapWrite v => Sys2Proof.Machine.execQmapWrite v s
  | .middlePageReturn q poisoned => Sys2Proof.Machine.execMiddlePageReturn q poisoned s
  | .cellarTimeout m => Sys2Proof.Machine.execCellarTimeout m s
  | .spillTimeout => Sys2Proof.Machine.execSpillTimeout s
  | .seriesEnable v => Sys2Proof.Machine.execSeriesEnable v s
  | .seriesDisable v => Sys2Proof.Machine.execSeriesDisable v s
  | .seriesSample => Sys2Proof.Machine.execSeriesSample s
  | .blockCode series => Sys2Proof.Machine.execBlockCode series s
  | .blockCommit series => Sys2Proof.Machine.execBlockCommit series s
  | .bmonAccess a => Sys2Proof.Machine.execBmonAccess a s
  | .swtrig => Sys2Proof.Machine.execSwtrig s
  | .traceTriggerEvent srcs => Sys2Proof.Machine.execTraceTriggerEvent srcs s
  | .bmonClockStop => Sys2Proof.Machine.execBmonClockStop s
  | .bmonClockResume => Sys2Proof.Machine.execBmonClockResume s
  | .watchEnable v => Sys2Proof.Machine.execWatchEnable v s
  | .logDrain => Sys2Proof.Machine.execLogDrain s
  | .atticEnable v => Sys2Proof.Machine.execAtticEnable v s
  | .atticDisable v => Sys2Proof.Machine.execAtticDisable v s
  | .scrubWalkerRead mem e lapMs => Sys2Proof.Machine.execScrubWalkerRead mem e lapMs s
  | .canaryRunDone plan units pipes ended load => Sys2Proof.Machine.execCanaryRunDone plan units pipes ended load s
  | .copyRecordReceive n r => Sys2Proof.Machine.execCopyRecordReceive n r s
  | .pcopyEnable k v => Sys2Proof.Machine.execPcopyEnable k v s
  | .restoreGo v => Sys2Proof.Machine.execRestoreGo v s
  | .restoreReqReceive n r => Sys2Proof.Machine.execRestoreReqReceive n r s
  | .restoreRecordReceive n r => Sys2Proof.Machine.execRestoreRecordReceive n r s
  | .restoreDone n r => Sys2Proof.Machine.execRestoreDone n r s
  | .restoreTimeout => Sys2Proof.Machine.execRestoreTimeout s
  | .pwrEntry => Sys2Proof.Machine.execPwrEntry s
  | .mgmtWake => Sys2Proof.Machine.execMgmtWake s
  | .aonWakeTimer => Sys2Proof.Machine.execAonWakeTimer s
  | .wakeCountArm v => Sys2Proof.Machine.execWakeCountArm v s
  | .supplyRampDone => Sys2Proof.Machine.execSupplyRampDone s
  | .keeperWorkWake => Sys2Proof.Machine.execKeeperWorkWake s
  | .autoIdleTimeout => Sys2Proof.Machine.execAutoIdleTimeout s
  | .pwrAck status => Sys2Proof.Machine.execPwrAck status s
  | .pwrReqTimeout => Sys2Proof.Machine.execPwrReqTimeout s
  | .pmbusPollTick => Sys2Proof.Machine.execPmbusPollTick s
  | .pmbusReadDone word => Sys2Proof.Machine.execPmbusReadDone word s
  | .pmbusReadTimeout why => Sys2Proof.Machine.execPmbusReadTimeout why s
  | .pmbusAlert => Sys2Proof.Machine.execPmbusAlert s
  | .latchedPairRead addr => Sys2Proof.Machine.execLatchedPairRead addr s
  | .counterWindowRead addr => Sys2Proof.Machine.execCounterWindowRead addr s
  | .registerReadClear addr => Sys2Proof.Machine.execRegisterReadClear addr s
  | .registerWrite addr v => Sys2Proof.Machine.execRegisterWrite addr v s
  | .resetRelease st => Sys2Proof.Machine.execResetRelease st s
  | .unknownOpcode opc p => Sys2Proof.Machine.execUnknownOpcode opc p s
  | .portClockQualLost isl => Sys2Proof.Machine.execPortClockQualLost isl s
  | .clkRefLost => Sys2Proof.Machine.execClkRefLost s
  | .timeFreerunWrite v => Sys2Proof.Machine.execTimeFreerunWrite v s
  | .linkResynchronisationEnd n => Sys2Proof.Machine.execLinkResynchronisationEnd n s
  | .scrubRangeDone corrected uncorrectable first => Sys2Proof.Machine.execScrubRangeDone corrected uncorrectable first s
  | .treeQueryDone slot => Sys2Proof.Machine.execTreeQueryDone slot s

end Sys2Proof.Machine
end

