-- ==== Sys2Proof/Machine/Tick.lean ====
section
/-! DEFINITION. What the block does while no command waits in its queue: a command held back on its port
starts, a replay takes its next log entry, or one edge of every running clock passes (log entry 3; spec/04
R108, R109; spec/06 R159; spec/07 R180; spec/10 R256; spec/19 R463). -/

namespace Sys2Proof.Machine

/-- A register request held at the port whose way is free is served in this step. -/
def State.startReg (s : State) : Option (Instr × State) :=
  match s.live.cmd.regHeld with
  | (a, c) :: t =>
    if s.live.regOpen ∧ !s.live.regWaits s.build a then
      some (c, { s with live := { s.live with cmd := { s.live.cmd with regHeld := t, regGo := true } } })
    else none
  | [] => none

/-- The waiting command that starts next, and the state in which it does (R97, R159, R160). -/
def State.startHeld (s : State) : Option (Instr × State) :=
  if !s.live.accepts s.build .mgmt then none
  else (takeHeld s.live.blocked s.live.waiting []).map fun x =>
    (x.1.c, { s with live := { s.live.setWaiting x.2 with
      cmd := { (s.live.setWaiting x.2).cmd with starting := some x.1.r } } })

/-- The TIME island's clock runs (Table 20.1). -/
def Live.timeClk (l : Live) : Bool :=
  !l.boot.held && decide (l.pwr.st = .run ∨ l.pwr.st = .idle ∨ l.pwr.st = .sleep) && !l.pwr.ramping

/-- One edge of every clock that runs: fleet time accumulates, and in a buoy that is awake the tap islands
count, the shaper refills its buckets and BMON sees `fog_out`. The tap edge comes before any latch of a count that
fleet time reaches here, so the replica of R203 follows FT within the step: R203 leaves its place in the allowance of
one cycle and 2 ns open, and this is the model's choice (log entry 128). -/
def Live.edge (l : Live) (b : Build) : Live :=
  let l := l.when l.timeClk fun l => l.timeEdge b
  l.when (b.buoy && l.awake) fun l => ((l.tapEdge b).refill b).fogSeen b

/-- An idle step with no held command to start. -/
def Live.idleTick (l : Live) (b : Build) : Live :=
  if l.awake ∧ l.flt.rpl.st = .replaying ∧ l.rplNext.isSome then l.rplStep b else l.edge b

end Sys2Proof.Machine
end

