-- ==== Sys2Proof/Machine/Step.lean ====
section
/-! DEFINITION. One step of the block: the command at the front of the queue, or, on an empty queue,
an idle step. -/

namespace Sys2Proof.Machine

/-- One step: run the command at the front with the queue's rest; on an empty queue the block starts a
command that waited at its port, or lets one edge of its clocks pass (log entry 3). -/
def step (s : State) : Host.Outcome State Fault Refusal :=
  match s.pending with
  | c :: rest => exec c { s with pending := rest }
  | [] =>
    match s.startReg.orElse fun _ => s.startHeld with
    | some (c, t) => exec c t
    | none => .next { s with live := s.live.idleTick s.build }

/-- `s` with the command that the word spells at the front of its queue. -/
def State.withFetchWord (s : State) (nbits w : Nat) : State :=
  match decodeTableWord nbits w with
  | some c => { s with pending := c :: s.pending }
  | none => s

end Sys2Proof.Machine
end

