-- ==== Sys2Proof/Safety.lean ====
section
/-! DEFINITION. What a safe run is: no step stops, and every table stays in its canonical form. -/

namespace Sys2Proof

/-- The outcome of a step is a next state. -/
def Safety.completes (s : Machine.State) : Prop := ∃ t, Machine.step s = .next t

/-- `n` steps from `s`, none of which stops. -/
def Safety.safeFor : Nat → Machine.State → Prop
  | 0, _ => True
  | n + 1, s => ∃ t, Machine.step s = .next t ∧ Safety.safeFor n t

/-- Every table of the live part is in its canonical form: its indices rise strictly, so that equal contents are
equal data. -/
structure Safety.Canonical (l : Machine.Live) : Prop where
  rf : Machine.Tab.wf l.rf = true
  pulses : Machine.Tab.wf l.pulses = true
  qws : Machine.Tab.wf l.qws = true
  gens : Machine.Tab.wf l.gens = true
  seqs : Machine.Tab.wf l.seqs = true
  plans : Machine.Tab.wf l.plans = true
  ques : Machine.Tab.wf l.ques = true
  runs : Machine.Tab.wf l.runs = true
  links : Machine.Tab.wf l.links = true
  routes : Machine.Tab.wf l.routes = true
  intake : Machine.Tab.wf l.cal.intake = true
  calu : Machine.Tab.wf l.cal.calu = true
  peers : Machine.Tab.wf l.time.peers = true
  binds : Machine.Tab.wf l.samp.binds = true
  remaps : Machine.Tab.wf l.samp.remaps = true
  steps : Machine.Tab.wf l.samp.steps = true
  ctrs : Machine.Tab.wf l.samp.ctrs = true
  pcs : Machine.Tab.wf l.samp.pcs = true
  lastPc : Machine.Tab.wf l.samp.lastPc = true
  sensT : Machine.Tab.wf l.samp.sensT = true
  sensV : Machine.Tab.wf l.samp.sensV = true
  cred : Machine.Tab.wf l.shape.cred = true
  sers : Machine.Tab.wf l.ser.sers = true
  trees : Machine.Tab.wf l.eng.trees = true
  eseqs : Machine.Tab.wf l.eng.seqs = true
  live : Machine.Tab.wf l.eng.live = true
  watches : Machine.Tab.wf l.trace.watches = true
  syncs : Machine.Tab.wf l.trace.syncs = true
  walk : Machine.Tab.wf l.mem.walk = true
  lapCe : Machine.Tab.wf l.mem.lapCe = true
  regions : Machine.Tab.wf l.flt.regions = true
  devs : Machine.Tab.wf l.pwr.devs = true
  vals : Machine.Tab.wf l.pwr.vals = true

end Sys2Proof
end

