-- ==== Sys2Proof/Certificates/Slice0/Obligations.lean ====
section
/-! DEFINITION. The statements about the block, for the provers. A statement about a command is an equation or
an existence of the next state: it says that the command completes, what it does, and, by giving every other
part of the state as it was, what it leaves alone. -/

namespace Sys2Proof.Claims

open Sys2Proof.Machine

/-- Command `c` completes in `s`; of the state only the live part changes, and it becomes `l`. -/
def Gives (c : Instr) (s : State) (l : Live) : Prop := exec c s = .next { s with live := l }

/-- Command `c` completes in `s`, and the live part it leaves satisfies `P`; build and queue stay. -/
def Yields (c : Instr) (s : State) (P : Live → Prop) : Prop := ∃ l, Gives c s l ∧ P l

/-- No request at the register port is held back (R93, R97), or it is the turn of one that was. -/
abbrev InTurn (s : State) : Prop :=
  s.live.cmd.regGo = true ∨ (s.live.cmd.regHeld = [] ∧ 2 ≤ s.live.boot.phase ∧
    s.live.switching .reg = false ∧ s.live.boot.bmonRst = false)

/-- The register port serves every mapped offset (R68, R140). -/
abbrev Served (s : State) : Prop := s.live.regOpen = true ∧ s.live.boot.phase ≠ 15 ∧ InTurn s

/-- The live part once a write at the register port has been answered. -/
def written (s : State) : Live := s.live.inTurn.emit (.regRsp 0 false)

/-- A boot in phase 2, with CORE on the oscillator and its port clock not yet qualified. -/
abbrev InPhase2 (s : State) : Prop :=
  s.live.log.live = false ∧ s.live.boot.early.length < 4 ∧ s.live.clk.switches = [] ∧
  s.live.clk.coreOn = false ∧ s.live.clk.coreQual = false ∧
  s.live.get s.build F.GLB_BOOT_CORE_OSC = 0 ∧ Tab.wf s.live.rf = true

/-- Oscillator trim takes the windows of source `src`. -/
abbrev TrimBy (s : State) (src : TrimSrc) : Prop :=
  s.live.trimSrc s.build = some src ∧ s.live.time.everLocked = true

/-- A lantern that listens to the time input. -/
abbrev Listens (s : State) : Prop :=
  s.live.timeOn = true ∧ s.build.form = .lantern ∧ s.live.freerun s.build = false

/-- The phase error of an edge (R115). -/
def phaseError (s : State) (ns : Word) : Int :=
  (ns + BitVec.ofNat 32 (s.live.get s.build F.TIME_TIN_CORR_CORR) - s.live.ft).toInt

/-- A REQ addressed to the buoy `s`, which is awake. -/
abbrev ReqAt (s : State) (r : Rec) : Prop :=
  s.live.awake = true ∧ s.build.form = .buoy ∧ r.ty = 0x0E ∧ r.poison = false ∧ r.body.length = 4 ∧
  txKind r = 1 ∧ txDst r = s.live.boot.st.idLocal.toNat

/-- The payload of an RSP (Table 4.3), before its TX is inserted. -/
def rspWords (s : State) (r : Rec) (t2 : Word) : List DWord :=
  [packW [(0, 2), (8, txSeq r), (16, s.live.boot.st.idLocal.toNat)], packW [(32, t2.toNat)],
   packW [(32, (txTx r).toNat)], 0]

/-- The opcode and the packet of a request row, but for MODEL_LOAD and UNKNOWN_OPCODE. -/
def requestOf : Instr → Option (Nat × Packet)
  | .nop p => some (0x01, p)
  | .ident p => some (0x02, p)
  | .regRead p => some (0x08, p)
  | .regWrite p => some (0x09, p)
  | .planLoad p => some (0x10, p)
  | .planVerify p => some (0x11, p)
  | .planArm p => some (0x12, p)
  | .planAbort p => some (0x13, p)
  | .planTeardown p => some (0x14, p)
  | .cutAt p => some (0x18, p)
  | .ctrRead p => some (0x20, p)
  | .ctrConfig p => some (0x21, p)
  | .ctrFreeze p => some (0x22, p)
  | .ctrThaw p => some (0x23, p)
  | .treeQuery p => some (0x28, p)
  | .seqQuery p => some (0x2A, p)
  | .traceArm p => some (0x30, p)
  | .traceDisarm p => some (0x30, p)
  | .traceRead p => some (0x31, p)
  | .logRead p => some (0x38, p)
  | .scrubRange p => some (0x40, p)
  | .pwrState p => some (0x48, p)
  | .unitAdjust p => some (0x49, p)
  | .unitRemap p => some (0x4A, p)
  | .calWrite p => some (0x50, p)
  | .hangDump p => some (0x58, p)
  | .replayCtlStop p => some (0x60, p)
  | .replayCtlLog p => some (0x60, p)
  | .replayCtlReplay p => some (0x60, p)
  | .stepMark p => some (0x61, p)
  | .pulseArm p => some (0x70, p)
  | _ => none

/-- Where the reply to the command of packet `p` goes. -/
def retOf (s : State) (p : Packet) : Ret := (s.live.begin p).2

/-- The place that packet `p` takes in the order of its port, as number `n`. -/
def placeOf (p : Packet) (n : Nat) : Ret := ⟨p.port, p.priv, p.dst, p.dlan, p.ret, p.tag, p.pchk, n⟩

/-- The command `c` of packet `p` starts in block `s`, which is in RUN: the packet reaches the keeper and nothing
lies before it on its port, or it has waited there and its turn has come (R97, R159, R160). -/
abbrev Starts (c : Instr) (s : State) (p : Packet) : Prop :=
  s.live.taken s.build c p = true ∧ s.live.pwr.st = .run ∧ retOf s p = placeOf p (retOf s p).seqNo

/-- It also passes checks 1 and 2 of R158 for opcode `opc`, and its privilege is at least `level`; an in-band
packet to a buoy keeps to R156. -/
abbrev Takes (c : Instr) (s : State) (p : Packet) (opc level : Nat) : Prop :=
  Starts c s p ∧ p.words.length = p.len.toNat ∧ (p.pchk = true → p.checks opc = true) ∧
  level ≤ s.live.privOf s.build p ∧ (s.build.form = .buoy → p.port ≠ .mgmt → p.len.toNat ≤ 254)

/-- Command `c` with packet `p` completes in `s`: from the state in which the packet has its place in the order of
its port, and with where its reply goes, `f` gives the live part it leaves. -/
def Runs (c : Instr) (s : State) (p : Packet) (f : Live → Ret → Live) : Prop :=
  Gives c s (f (s.live.begin p).1 (retOf s p))

/-- A bus-monitor unit that runs at an awake buoy. -/
abbrev Monitors (s : State) : Prop :=
  s.live.awake = true ∧ s.live.bmonOn s.build = true ∧ s.live.pwr.st ≠ .sleep

/-- The state after `n` steps, or none where one of them stops. -/
def after : Nat → State → Option State
  | 0, s => some s
  | n + 1, s => match step s with
    | .next t => after n t
    | _ => none

/-- The commands that may set clocks, calibration words, pulse outputs, the shaper, GEN, the link table or what is
known of cellars and spill: resets and power events, clock events, register writes, and the commands of these
units. -/
def sets : Instr → Bool
  | .coldReset | .wakeIn | .softReset | .oscQualified | .calWordAck _ | .calIntakeTimeout
  | .clockQualified _ | .clockQualTimeout _ | .sramTest _ _ | .clkSelWrite _ | .clockSwitchDone
  | .clockFallback _ | .windowCheck _ _ | .trimSourceWrite _ | .trimWindow _ _ _ | .unitEnWrite _ _
  | .timeIncWrite _ | .hallPhaseEdge _ _ | .timexReq _ | .countReached _ | .pulseRise _ | .pulseFall _
  | .qwEnable _ | .qwDisable _ | .regWrite _ | .planVerify _ | .calWrite _ | .stepMarkApply | .pulseArm _
  | .tapBindWrite _ _ | .remapSwitch | .pcsCfgWrite _ _ | .gridEnable _ | .egressSelect _ | .shaperSample
  | .lnkRoleWrite _ _ | .recordAged _ | .queMidWrite _ _ | .qmapWrite _ | .cellarTimeout _ | .spillTimeout
  | .seriesEnable _ | .seriesDisable _ | .swtrig | .watchEnable _ | .atticEnable _ | .atticDisable _
  | .scrubWalkerRead _ _ _ | .pcopyEnable _ _ | .restoreGo _ | .restoreRecordReceive _ _
  | .restoreDone _ _ | .restoreTimeout | .pwrEntry | .mgmtWake | .aonWakeTimer | .wakeCountArm _
  | .supplyRampDone | .keeperWorkWake | .registerWrite _ _ | .portClockQualLost _ | .clkRefLost
  | .timeFreerunWrite _ | .scrubRangeDone _ _ _ => true
  | _ => false

end Sys2Proof.Claims

section Statements

open Sys2Proof Sys2Proof.Machine Sys2Proof.Claims

/-! ### Steps and resets -/

/-- A step runs the command at the front of the queue on the rest of the queue. With none there, it starts the
oldest register request that was held back once its way is free, and else the oldest command that waits on a port
that is free; with neither it lets one edge of the clocks pass (log entry 3). -/
def Obligations.StepRunsFrontCommand : Prop :=
  (∀ (s : State) (c : Instr) (rest : List Instr), s.pending = c :: rest →
    step s = exec c { s with pending := rest }) ∧
  (∀ s : State, s.pending = [] → s.startReg = none → s.startHeld = none →
    step s = .next { s with live := s.live.idleTick s.build }) ∧
  (∀ (s : State) (a : Nat) (c : Instr) (t : List (Nat × Instr)), s.pending = [] → s.live.regOpen = true →
    s.live.cmd.regHeld = (a, c) :: t →
    (s.live.regWaits s.build a = false → step s = exec c { s with live := { s.live with
      cmd := { s.live.cmd with regHeld := t, regGo := true } } }) ∧
    (s.live.regWaits s.build a = true → s.startReg = none)) ∧
  (∀ (s t : State) (c : Instr), s.pending = [] → s.startReg = none → s.startHeld = some (c, t) →
    step s = exec c t) ∧
  (∀ (s : State) (x y : Busy), s.live.accepts s.build .mgmt = true → s.live.waiting = [x, y] →
    s.live.blocked y.r.port y.c = false →
    (s.live.blocked x.r.port x.c = false → s.startHeld = some (x.c, { s with live := { s.live.setWaiting [y] with
      cmd := { (s.live.setWaiting [y]).cmd with starting := some x.r } } })) ∧
    (s.live.blocked x.r.port x.c = true → y.r.port = x.r.port → s.startHeld = none) ∧
    (s.live.blocked x.r.port x.c = true → y.r.port ≠ x.r.port →
      s.startHeld = some (y.c, { s with live := { s.live.setWaiting [x] with
        cmd := { (s.live.setWaiting [x]).cmd with starting := some y.r } } })))

/-- The reset kinds of Table 5.1: a cold reset leaves every part of the state as Table 5.1 and the reset
columns say, but for the input whether `clk_bmon` runs and the model's own records; the rise of `rst_n` samples
the static inputs and starts phase 1; a wake from OFF resets the same way, keeps the static inputs and the clamps
(R85), and starts phase 1; a soft reset drops plans, queues, counters, sequences and fleet time, keeps the
calibration words, the trim code and the static inputs, and starts at phase 3.
This is the completion of COLD_RESET, RESET_RELEASE, WAKE_IN and SOFT_RESET. -/
def Obligations.ResetKindsLeaveTheirState : Prop :=
  (∀ s : State, Gives .coldReset s { Live.cold with
    trace := { Live.cold.trace with clkStop := s.live.trace.clkStop }, free := s.live.free,
    out := s.live.out }) ∧
  (∀ (s : State) (st : Statics), s.live.boot.held = true →
    Gives (.resetRelease st) s { s.live with boot := { s.live.boot with
      held := false, st := st, phase := 1, kind := .cold, bmonRst := s.live.trace.clkStop } }) ∧
  (∀ s : State, s.live.boot.held = false → s.live.pwr.target = none → s.live.pwr.st = .off →
    Yields .wakeIn s fun l => l.boot.phase = 1 ∧ l.boot.st = s.live.boot.st ∧ l.boot.held = false ∧
      l.boot.ready = false ∧ l.pwr.st = .run ∧ l.pwr.wake = 1 ∧ l.pwr.isoEn = true ∧ l.cal = Live.cold.cal ∧
      l.clk = Live.cold.clk ∧ l.time = Live.cold.time ∧ l.plans = [] ∧ l.ques = [] ∧ l.log.attic = []) ∧
  (∀ s : State, s.live.regOpen = true → InTurn s →
    Yields .softReset s fun l => l.boot.phase = 3 ∧ l.boot.ready = false ∧ l.boot.held = false ∧
      l.boot.st = s.live.boot.st ∧ l.cal = s.live.cal ∧ l.clk.code = s.live.clk.code ∧
      l.clk.coreOn = false ∧ l.clk.regOn = false ∧ l.time = Live.cold.time ∧ l.plans = [] ∧
      l.ques = [] ∧ l.created = [] ∧ l.samp.ctrs = [] ∧ l.links = [] ∧ l.seqs = [] ∧ l.log.ents = [] ∧
      l.gens = s.live.gens ∧ l.out = s.live.out ++ [.regRsp 0 false])

/-- The boot of Table 5.2: the oscillator qualifies and the calibration intake starts, or, without a
calibration store, the defaults give the trim code 0x200 and phase 3 begins; the ROM check leads to phase 5,
or fails with its flags and PHASE 0xF; a failed march test and a silent ENG island fail the same way. This is the
completion of OSC_QUALIFIED, ROM_CHECK and ENG_WAIT_TIMEOUT, and of an SRAM_TEST that fails. -/
def Obligations.BootChecksLeadOnOrFail : Prop :=
  (∀ s : State, s.live.boot.held = false → s.live.boot.phase = 1 → s.live.boot.st.calPresent = true →
    Gives .oscQualified s { s.live with
      clk := { s.live.clk with oscQual := true, refOk := true },
      boot := { s.live.boot with phase := 2, calIdx := some 0 },
      out := s.live.out ++ [.calReq 0] }) ∧
  (∀ s : State, s.live.boot.held = false → s.live.boot.phase = 1 → s.live.boot.st.calPresent = false →
    s.live.boot.calIdx = none → s.live.cal.calf = none → s.live.cal.calu = [] →
    s.live.clk.switches = [] → s.live.clk.coreOn = false → s.live.clk.coreQual = false →
    s.live.get s.build F.GLB_BOOT_CORE_OSC = 0 →
    Gives .oscQualified s { s.live with
      clk := { s.live.clk with oscQual := true, refOk := true, code := 0x200 },
      boot := { s.live.boot with phase := 3, calIdx := none },
      cal := { s.live.cal with intake := [] } }) ∧
  (∀ s : State, s.live.boot.held = false → s.live.boot.phase = 4 →
    Gives (.romCheck true true) s { s.live with boot := { s.live.boot with phase := 5 } } ∧
    Gives (.romCheck false true) s
      { s.live.put s.build F.GLB_BOOT_ROM_FAIL 1 with
        boot := { s.live.boot with phase := 15, ready := false, early := [] } } ∧
    Gives (.romCheck true false) s
      { s.live.put s.build F.GLB_BOOT_ECC_FAIL 1 with
        boot := { s.live.boot with phase := 15, ready := false, early := [] } }) ∧
  (∀ (s : State) (cycles : Nat), s.live.boot.held = false → s.live.boot.phase = 5 →
    Gives (.sramTest false cycles) s
      { s.live.put s.build F.GLB_BOOT_SRAM_FAIL 1 with
        boot := { s.live.boot with phase := 15, ready := false, early := [] } }) ∧
  (∀ s : State, s.live.boot.held = false → s.live.boot.phase = 5 → s.build.form = .lantern →
    Gives .engWaitTimeout s
      { s.live.put s.build F.GLB_BOOT_ENG_NOCLK 1 with
        boot := { s.live.boot with phase := 15, ready := false, early := [] } })

/-- READY (R141): a march test that passes ends a cold boot. GLB_BOOT.READY is set and PHASE is 6, BOOT_T holds
the AON cycles over 1,024, saturating, the time state is FREE, the clamps open, MGMT accepts commands, and
the first entry of the logbook is 0x0101 at INFO with GLB_BOOT. This is the completion of an SRAM_TEST that
passes. -/
def Obligations.ReadyAfterMarchTest : Prop :=
  ∀ (s : State) (cycles : Nat), s.live.boot.held = false → s.live.boot.phase = 5 →
    s.live.boot.kind = .cold → s.live.boot.early = [] → s.live.log.attic = [] →
    s.live.get s.build F.LOG_ATTIC_EN = 0 → s.live.get s.build F.LOG_CFG_FOG_SEV = 0 →
    s.live.pwr.st = .run → s.live.pwr.target = none →
    s.live.get s.build F.TIME_CFG_FREERUN = 0 → Tab.wf s.live.rf = true →
    Yields (.sramTest true cycles) s fun l => l.boot.ready = true ∧ l.boot.phase = 6 ∧
      l.get s.build F.GLB_BOOT_BOOT_T = min (cycles / 1024) 0xFFFF ∧ l.time.state = .free ∧
      l.pwr.isoEn = false ∧ l.pwr.retEn = false ∧ l.accepts s.build .mgmt = true ∧
      l.log.ents.map (fun e => (e.lseq, e.ev)) =
        [(s.live.log.next, ⟨0x0101, 1, 0, 0, [l.glbBoot s.build]⟩)] ∧
      l.plans = s.live.plans ∧ l.ques = s.live.ques ∧ l.cal = s.live.cal

/-! ### Clocks and the oscillator (spec/03, spec/05) -/

/-- The calibration intake (R71, R143): each word acknowledged asks for the next; with the form code and the
check word right the 256 words become the mirror CALF; a wrong form code or check word, and an acknowledge that
does not come, leave the defaults, log at ERROR (before the logbook is initialised: as an early event), and
the trim code is the default baseline. In each of the last three cases phase 3 begins. This is the completion of
CAL_WORD_ACK and of CAL_INTAKE_TIMEOUT, which do nothing while no word is awaited. -/
def Obligations.CalibrationIntakeReadsAllWordsOrNone : Prop :=
  (∀ (s : State) (w : Word) (i : Nat), s.live.boot.calIdx = some i → i < 255 →
    Gives (.calWordAck w) s { s.live with
      cal := { s.live.cal with intake := Tab.insert s.live.cal.intake i w },
      boot := { s.live.boot with calIdx := some (i + 1) },
      out := s.live.out ++ [.calReq (i + 1)] }) ∧
  (∀ (s : State) (w : Word) (t : Tab Word), s.live.boot.calIdx = some 255 → InPhase2 s →
    t = Tab.insert s.live.cal.intake 255 w →
    (Tab.getD t 0 (0 : Word)).toNat / 256 % 256 = (if s.build.buoy then 1 else 2) →
    Tab.getD t 255 (0 : Word) = intakeCrc t →
    Yields (.calWordAck w) s fun l => l.cal.calf = some t ∧ l.boot.calIdx = none ∧ l.boot.phase = 3 ∧
      l.clk.code = l.baseline s.build ∧ l.boot.early = s.live.boot.early ∧ l.rf = s.live.rf) ∧
  (∀ (s : State) (w : Word) (t : Tab Word), s.live.boot.calIdx = some 255 → InPhase2 s →
    s.live.cal.calf = none → t = Tab.insert s.live.cal.intake 255 w →
    (Tab.getD t 0 (0 : Word)).toNat / 256 % 256 ≠ (if s.build.buoy then 1 else 2) ∨
      Tab.getD t 255 (0 : Word) ≠ intakeCrc t →
    Yields (.calWordAck w) s fun l => l.cal.calf = none ∧ l.boot.calIdx = none ∧ l.boot.phase = 3 ∧
      (s.live.cal.calu = [] → l.clk.code = 0x200) ∧ l.get s.build F.GLB_BOOT_CAL_CRC = 1 ∧
      l.boot.early = s.live.boot.early ++ [⟨0x0103, 3, 0, 0,
        [(if (Tab.getD t 0 (0 : Word)).toNat / 256 % 256 ≠ (if s.build.buoy then 1 else 2) then 1 else 0) +
          (if Tab.getD t 255 (0 : Word) ≠ intakeCrc t then 2 else 0)]⟩]) ∧
  (∀ (s : State) (i : Nat), s.live.boot.calIdx = some i → InPhase2 s →
    Yields .calIntakeTimeout s fun l => l.cal.calf = s.live.cal.calf ∧ l.boot.calIdx = none ∧
      l.cal.intake = [] ∧ l.boot.phase = 3 ∧ l.rf = s.live.rf ∧
      (s.live.cal.calf = none → s.live.cal.calu = [] → l.clk.code = 0x200) ∧
      l.boot.early = s.live.boot.early ++ [⟨0x0102, 3, 0, 0, [i]⟩]) ∧
  (∀ (s : State) (w : Word), s.live.boot.calIdx = none →
    Gives (.calWordAck w) s s.live ∧ Gives .calIntakeTimeout s s.live)

/-- Port clocks (R95, R97, R98, R138): qualification is noted, and in phase 3 it starts the switch of CORE;
a port clock that does not qualify leaves its island on the oscillator with its GLB_BOOT flag and an event; a
switch that ends puts its island on the new source; a clock in use that stops puts the island back on the
oscillator, clears its CLK_SEL bit, sets FALLBACK and logs at ERROR, and so does one in use that loses its
qualification; one not in use only loses it. This is the completion of CLOCK_QUALIFIED, CLOCK_QUAL_TIMEOUT,
CLOCK_SWITCH_DONE, CLOCK_FALLBACK and PORT_CLOCK_QUAL_LOST. -/
def Obligations.PortClocksQualifySwitchAndFallBack : Prop :=
  (∀ s : State, s.live.aonOn = true → s.live.boot.phase ≠ 3 →
    Gives (.clockQualified .core) s { s.live with clk := { s.live.clk with coreQual := true } } ∧
    Gives (.clockQualified .reg) s { s.live with clk := { s.live.clk with regQual := true } }) ∧
  (∀ s : State, s.live.aonOn = true → s.live.boot.phase = 3 → s.live.clk.switches = [] →
    s.live.clk.coreOn = false → s.live.get s.build F.GLB_BOOT_CORE_OSC = 0 →
    Gives (.clockQualified .core) s { s.live.put s.build F.CLK_SEL_CORE_SRC 1 with
      clk := { s.live.clk with coreQual := true, switches := [(.core, true)] } }) ∧
  (∀ s : State, s.live.boot.held = false → s.live.boot.phase = 3 → s.live.clk.coreQual = false →
    s.live.get s.build F.GLB_BOOT_CORE_OSC = 0 → s.live.clk.regOn = false → s.live.clk.regQual = false →
    s.live.get s.build F.GLB_BOOT_REG_OSC = 0 → s.live.log.live = false → s.live.boot.early = [] →
    Tab.wf s.live.rf = true →
    Gives (.clockQualTimeout .core) s { s.live.put s.build F.GLB_BOOT_CORE_OSC 1 with
      boot := { s.live.boot with early := [⟨0x0104, 2, 0, 0, [0]⟩] } }) ∧
  (∀ s : State, s.live.boot.held = false → s.live.boot.phase = 3 → s.live.clk.coreQual = false →
    s.live.clk.coreOn = false → s.live.get s.build F.GLB_BOOT_CORE_OSC = 0 → s.live.clk.regQual = false →
    s.live.get s.build F.GLB_BOOT_REG_OSC = 0 → s.live.log.live = false → s.live.boot.early = [] →
    Tab.wf s.live.rf = true →
    Gives (.clockQualTimeout .reg) s { s.live.put s.build F.GLB_BOOT_REG_OSC 1 with
      boot := { s.live.boot with early := [⟨0x0104, 2, 0, 0, [1]⟩] } }) ∧
  (∀ (s : State) (i : SwIsland) (port : Bool), s.live.clk.switches = [(i, port)] →
    s.live.clk.waiting = none → s.live.boot.phase ≠ 3 →
    Gives .clockSwitchDone s { s.live with clk := match i with
      | .core => { s.live.clk with coreOn := port, switches := [] }
      | .reg => { s.live.clk with regOn := port, switches := [] } }) ∧
  (∀ (s : State) (i : SwIsland), s.live.aonOn = true → s.live.clk.on i = true → s.live.clk.switches = [] →
    s.live.clk.waiting = none → s.live.boot.phase = 6 →
    Gives (.clockFallback i) s
      ((({ s.live with clk := (s.live.clk.setOn i false).setQual i false }.put s.build (srcFld i) 0).put s.build
        F.CLK_STAT_FALLBACK 1).logE s.build 0x0202 3 [islandCode i])) ∧
  (∀ (s : State) (i : SwIsland), s.live.aonOn = true →
    (s.live.clk.on i = false →
      Gives (.portClockQualLost i) s { s.live with clk := s.live.clk.setQual i false } ∧
      Gives (.clockFallback i) s s.live) ∧
    (s.live.clk.on i = true → exec (.portClockQualLost i) s = exec (.clockFallback i) s))

/-- R96. A write to CLK_SEL that selects an unqualified port clock leaves CLK_SEL and the switches as they are,
sets SW_REJ and logs at WARN. While a switch is in progress a write only waits, in place of any that waited
before; when the last switch ends, the write that waits does what a write does then. A write that is accepted
starts the switches of the islands whose source differs, CORE first. This is the completion of CLK_SEL_WRITE. -/
def Obligations.ClkSelWritesRejectWaitOrSwitch : Prop :=
  (∀ (s : State) (v : Word), Served s → s.live.clk.switches = [] →
    Gives (.clkSelWrite v) s ((written s).applyClkSel s.build v)) ∧
  (∀ (l : Live) (b : Build) (v : Word),
    (v.getLsbD 0 = true ∧ l.clk.coreQual = false) ∨ (v.getLsbD 1 = true ∧ l.clk.regQual = false) →
    l.applyClkSel b v = (l.put b F.CLK_STAT_SW_REJ 1).logE b 0x0201 2 [v.toNat]) ∧
  (∀ (s : State) (v : Word), Served s → s.live.clk.switches ≠ [] →
    Gives (.clkSelWrite v) s
      { written s with clk := { s.live.clk with waiting := some v } }) ∧
  (∀ (s : State) (i : SwIsland) (port : Bool) (v : Word), s.live.clk.switches = [(i, port)] →
    s.live.clk.waiting = some v → s.live.boot.phase ≠ 3 →
    Gives .clockSwitchDone s ({ s.live with clk := { s.live.clk.setOn i port with
      switches := [], waiting := none } }.applyClkSel s.build v)) ∧
  (∀ (s : State) (i : SwIsland) (port : Bool) (v : Word), s.live.clk.switches = [(i, port)] →
    s.live.clk.waiting = some v →
    Gives .clockSwitchDone s (({ s.live with clk := { s.live.clk.setOn i port with
      switches := [], waiting := none } }.applyClkSel s.build v).bootStep s.build)) ∧
  (∀ (s : State) (v : Word), Served s → s.live.clk.switches = [] →
    (v.getLsbD 0 = true → s.live.clk.coreQual = true) → (v.getLsbD 1 = true → s.live.clk.regQual = true) →
    Tab.wf s.live.rf = true →
    Yields (.clkSelWrite v) s fun l =>
      l.get s.build F.CLK_SEL_CORE_SRC = b2n (v.getLsbD 0) ∧
      l.get s.build F.CLK_SEL_REG_SRC = b2n (v.getLsbD 1) ∧
      l = { written s with rf := l.rf, clk := { s.live.clk with switches :=
        (if v.getLsbD 0 = s.live.clk.coreOn then [] else [(.core, v.getLsbD 0)]) ++
        (if v.getLsbD 1 = s.live.clk.regOn then [] else [(.reg, v.getLsbD 1)]) } })

/-- Oscillator trim (R102, R103): a window of a source that is lost is discarded; in acquisition the trial bit
goes when the count is too high and the next bit is tried, and bit 0 ends it; in tracking the code moves by one
when the error exceeds TARGET / 1024, and at an end of the code it stays, TRIM_LIM is set and acquisition
restarts. A change of the source or of REFWIN restarts acquisition. This is the completion of TRIM_WINDOW,
CLK_REF_LOST and TRIM_SOURCE_WRITE. -/
def Obligations.TrimAcquiresAndTracks : Prop :=
  (∀ (s : State) (n win : Nat), s.live.aonOn = true → TrimBy s .ftTick → s.live.clk.spoilt = some .ftTick →
    Gives (.trimWindow .ftTick n win) s { s.live with clk := { s.live.clk with spoilt := none } }) ∧
  (∀ (s : State) (n win i c : Nat), s.live.aonOn = true → TrimBy s .ftTick → s.live.clk.spoilt ≠ some .ftTick →
    s.live.clk.acq = true → s.live.clk.bit = i + 1 → c = (if i = 8 then 0x200 else s.live.clk.code) →
    Gives (.trimWindow .ftTick n win) s { s.live with clk := { s.live.clk with
      spoilt := none, lastCnt := min n 131071, bit := i,
      code := (c - (if s.live.get s.build F.OSC_TGT_TARGET < n ∧ c.testBit (i + 1) then 2 ^ (i + 1) else 0)) |||
        2 ^ i } }) ∧
  (∀ (s : State) (n win : Nat), s.live.aonOn = true → TrimBy s .ftTick → s.live.clk.spoilt ≠ some .ftTick →
    s.live.clk.acq = true → s.live.clk.bit = 0 → s.live.get s.build F.OSC_CFG_QMODE = 0 →
    Gives (.trimWindow .ftTick n win) s { s.live with clk := { s.live.clk with
      spoilt := none, lastCnt := min n 131071, acq := false, acqDone := true,
      code := if s.live.get s.build F.OSC_TGT_TARGET < n ∧ s.live.clk.code.testBit 0 then s.live.clk.code - 1
        else s.live.clk.code } }) ∧
  (∀ (s : State) (n win t : Nat), s.live.aonOn = true → TrimBy s .ftTick → s.live.clk.spoilt ≠ some .ftTick →
    s.live.clk.acq = false → t = s.live.get s.build F.OSC_TGT_TARGET →
    0 < s.live.clk.code → s.live.clk.code < 1023 →
    Gives (.trimWindow .ftTick n win) s { s.live with clk := { s.live.clk with
      spoilt := none, lastCnt := min n 131071,
      code := if t + t / 1024 < n then s.live.clk.code - 1
        else if n + t / 1024 < t then s.live.clk.code + 1 else s.live.clk.code } }) ∧
  (∀ (s : State) (n win t : Nat), s.live.aonOn = true → TrimBy s .ftTick → s.live.clk.spoilt ≠ some .ftTick →
    s.live.clk.acq = false → t = s.live.get s.build F.OSC_TGT_TARGET →
    (s.live.clk.code = 0 ∧ t + t / 1024 < n) ∨ (s.live.clk.code = 1023 ∧ n + t / 1024 < t) →
    Gives (.trimWindow .ftTick n win) s
      { ({ s.live with clk := { s.live.clk with lastCnt := min n 131071 } }.put s.build
          F.OSC_STAT_TRIM_LIM 1).logE s.build 0x0204 2 [s.live.clk.code] with
        clk := { s.live.clk with spoilt := none, lastCnt := min n 131071, acq := true, bit := 9 } }) ∧
  (∀ s : State, s.live.aonOn = true →
    Gives .clkRefLost s { s.live with clk := { s.live.clk with
      refOk := false,
      spoilt := if s.live.trimWindow s.build = some .clkRef then some .clkRef else s.live.clk.spoilt } }) ∧
  (∀ (s : State) (v : Word), Served s → Tab.wf s.live.rf = true →
    v.getLsbD 2 = false → v.toNat % 4 ≠ s.live.get s.build F.OSC_CFG_SRC →
    Yields (.trimSourceWrite v) s fun l => l.get s.build F.OSC_CFG_SRC = v.toNat % 4 ∧
      l.get s.build F.OSC_CFG_REFWIN = v.toNat / 2 ^ 15 ∧ l.get s.build F.OSC_CFG_OVR = b2n (v.getLsbD 4) ∧
      l = { written s with rf := l.rf, clk := { s.live.clk with acq := true, bit := 9 } })

/-- The window check of R101, run by a write of OSC_CFG with QCHK and QMODE: it passes when `clk_ref` is
present, REFWIN is not 0, and the count lies within 2% of TARGET × 1,024 / REFWIN; a failed check sets WIN_FAIL
and logs 0x0203 at ERROR. With QMODE or QCHK 0 no check runs. The fields of OSC_CFG take the write in every case, and
besides the register file, the clocks and the logbook nothing changes. This is the completion of WINDOW_CHECK. -/
def Obligations.WindowCheckFailsOutsideTwoPercent : Prop :=
  (∀ (s : State) (v : Word) (n win want : Nat), Served s → Tab.wf s.live.rf = true →
    v.getLsbD 2 = true → v.getLsbD 3 = true → win = v.toNat / 2 ^ 15 →
    want = s.live.get s.build F.OSC_TGT_TARGET * 1024 / win →
    Yields (.windowCheck v n) s fun l =>
      l.get s.build F.OSC_CFG_SRC = v.toNat % 4 ∧ l.get s.build F.OSC_CFG_QMODE = 1 ∧
      l.get s.build F.OSC_CFG_OVR = b2n (v.getLsbD 4) ∧ l.get s.build F.OSC_CFG_TRIM_W = v.toNat / 32 % 1024 ∧
      l.get s.build F.OSC_CFG_REFWIN = win ∧
      l = { written s with rf := l.rf, clk := l.clk, log := l.log, boot := { s.live.boot with
        early := l.boot.early } } ∧
      (s.live.clk.refOk = true ∧ win ≠ 0 ∧ 98 * want ≤ 100 * n ∧ 100 * n ≤ 102 * want →
        l.get s.build F.OSC_STAT_WIN_FAIL = s.live.get s.build F.OSC_STAT_WIN_FAIL ∧ l.log = s.live.log) ∧
      (¬(s.live.clk.refOk = true ∧ win ≠ 0 ∧ 98 * want ≤ 100 * n ∧ 100 * n ≤ 102 * want) →
        l.get s.build F.OSC_STAT_WIN_FAIL = 1 ∧ l.fogOut s.build = true ∧
        l.log = (s.live.logE s.build 0x0203 3 [s.live.clk.lastCnt]).log)) ∧
  (∀ (s : State) (v : Word) (n : Nat), Served s → Tab.wf s.live.rf = true →
    v.getLsbD 2 = false ∨ v.getLsbD 3 = false →
    Yields (.windowCheck v n) s fun l =>
      l.get s.build F.OSC_CFG_SRC = v.toNat % 4 ∧ l.get s.build F.OSC_CFG_QMODE = b2n (v.getLsbD 2) ∧
      l.get s.build F.OSC_CFG_REFWIN = v.toNat / 2 ^ 15 ∧
      l.get s.build F.OSC_STAT_WIN_FAIL = s.live.get s.build F.OSC_STAT_WIN_FAIL ∧
      l = { written s with rf := l.rf, clk := l.clk })

/-- A handshake that no island acknowledges (R99): XTO_CNT counts it, and an access at the register port answers
zero and drops its write. Unit enables (R105, Table 3.10), with no plan that a gated unit would end: every bit of
UNIT_EN_CEL of a lantern reads back as written, but for the bits of cellar ports that are absent, which stay 0; of
the rest of the state only the register file and the outputs change. This is the completion of HANDSHAKE_TIMEOUT and
UNIT_EN_WRITE. -/
def Obligations.EnablesReadBackAndTimeoutsAnswerZero : Prop :=
  (∀ s : State, s.live.regOpen = true →
    Gives (.handshakeTimeout .regRead) s
      ((s.live.bump s.build F.CLK_STAT_XTO_CNT).emit (.regRsp 0 false)) ∧
    Gives (.handshakeTimeout .regWrite) s
      ((s.live.bump s.build F.CLK_STAT_XTO_CNT).emit (.regRsp 0 false))) ∧
  (∀ (s : State) (v : Word), Served s → s.build.form = .lantern → Tab.wf s.live.rf = true →
    s.live.plans = [] →
    (∀ i : Nat, i < 12 → s.live.flag s.build F.UNIT_EN_CEL_CEL 0 i = true →
      s.live.boot.st.celPresent.getLsbD i = true) →
    Yields (.unitEnWrite .unitEnCel v) s fun l =>
      (∀ i : Nat, i < 12 → l.flag s.build F.UNIT_EN_CEL_CEL 0 i =
        (v.getLsbD i && s.live.boot.st.celPresent.getLsbD i)) ∧
      (∀ (f : Fld) (e : Nat), f.key e ≠ F.UNIT_EN_CEL_CEL.key 0 → l.get s.build f e = s.live.get s.build f e) ∧
      l = { written s with rf := l.rf })

/-! ### Fleet time (spec/04) -/

/-- The fields of fleet time that software sets (R109, R116): TIME_INC takes a value in FREE and ignores it in
every other state; FREERUN puts a READY lantern in LOCKED at once, with no correction left to absorb. HOLDOVER (R112,
R113): from LOCKED a lantern that listens to the time input enters it when `tin_valid` falls, and either form
when no correction was accepted in time; each entry logs 0x0301 at WARN. A slew in progress runs on (R109, R114): no
TIME edge changes the increment by more than 200 ppm of it, and the edge that absorbs the rest of the slew takes at
most that much too. The 1 ms tick takes 1,000,000 ns. This is the completion of TIME_INC_WRITE, TIME_FREERUN_WRITE,
TIN_VALID_LOW, HOLDOVER_TIMEOUT, SLEW_ABSORBED and FT_MS_TICK. -/
def Obligations.TimeIncFreerunAndHoldover : Prop :=
  (∀ (s : State) (v : Word), Served s → s.live.time.state = .free →
    Gives (.timeIncWrite v) s ((written s).put s.build F.TIME_INC_INC v.toNat)) ∧
  (∀ (s : State) (v : Word), Served s → s.live.time.state ≠ .free →
    Gives (.timeIncWrite v) s (written s)) ∧
  (∀ (s : State) (v : Word), Served s → s.build.form = .lantern → s.live.boot.ready = true →
    v.getLsbD 24 = true → Tab.wf s.live.rf = true →
    Yields (.timeFreerunWrite v) s fun l => l.time.state = .locked ∧ l.time.slew = 0 ∧
      l.time.acc = s.live.time.acc ∧
      l.get s.build F.TIME_CFG_FREERUN = 1 ∧ l.get s.build F.TIME_CFG_STEP_THR = v.toNat % 65536 ∧
      l.get s.build F.TIME_CFG_XCHG_INT = v.toNat / 65536 % 64 ∧
      l = { written s with rf := l.rf, time := l.time, log := l.log, boot := { s.live.boot with
        early := l.boot.early } }) ∧
  (∀ s : State, s.live.timeOn = true → s.build.form = .lantern → s.live.time.state = .locked →
    s.live.freerun s.build = false →
    Gives .tinValidLow s ({ s.live with time := { s.live.time with
      tinLow := true, state := .holdover, good := 0 } }.logE s.build 0x0301 2 [1])) ∧
  (∀ s : State, s.live.timeOn = true → s.live.time.state = .locked → s.live.freerun s.build = false →
    Gives .holdoverTimeout s ({ s.live with time := { s.live.time with
      state := .holdover, good := 0 } }.logE s.build 0x0301 2 [0])) ∧
  (∀ (s : State) (inc : Nat), s.live.timeOn = true → inc = s.live.get s.build F.TIME_INC_INC →
    s.live.time.slew ≠ 0 → s.live.time.slew.natAbs ≤ inc * 200 / 1000000 →
    Yields .slewAbsorbed s fun l => l.time.slew = 0 ∧
      l.time.acc = s.live.time.acc + BitVec.ofInt 60 (inc + s.live.time.slew) ∧
      (s.live.get s.build F.SCH_CTL_GRID_EN = 0 → l.rf = s.live.rf) ∧
      l = { s.live with rf := l.rf, time := { s.live.time with
        slew := 0, acc := l.time.acc, wraps := l.time.wraps, msAcc := l.time.msAcc } }) ∧
  (∀ (s : State) (inc : Nat), inc = s.live.get s.build F.TIME_INC_INC →
    s.live.time.slew = 0 ∨ inc * 200 / 1000000 < s.live.time.slew.natAbs →
    Gives .slewAbsorbed s s.live) ∧
  (∀ (l : Live) (b : Build) (inc : Nat), inc = l.get b F.TIME_INC_INC →
    (l.timeEdge b).time.slew.natAbs ≤ l.time.slew.natAbs ∧
    (l.time.slew - (l.timeEdge b).time.slew).natAbs ≤ inc * 200 / 1000000 ∧
    (l.timeEdge b).time.acc =
      l.time.acc + BitVec.ofInt 60 (inc + (l.time.slew - (l.timeEdge b).time.slew))) ∧
  (∀ s : State, s.live.timeOn = true → s.live.time.everLocked = true →
    268435456000000 ≤ s.live.time.msAcc →
    Gives .ftMsTick s { s.live with time := { s.live.time with
      msAcc := s.live.time.msAcc - 268435456000000 } })

/-- A phase edge at a lantern that listens to the time input (R112, R114, R115), with the phase error
e = tin_ns + TIME_TIN_CORR − FT. In FREE it steps FT by e and leads to ACQUIRE. In any other state an error of
more than STEP_THR (and of 20 ns) steps FT and leads to ACQUIRE; a smaller one becomes the slew, in place of what
was left of an earlier one; and the fourth edge in a row with |e| at most 20 ns leads to LOCKED. A lantern with
FREERUN set takes no error from an edge. This is the completion of HALL_PHASE_EDGE. -/
def Obligations.PhaseEdgeStepsOrSlews : Prop :=
  (∀ (s : State) (ns : Word) (e : Int), Listens s → e = phaseError s ns → s.live.time.state = .free →
    Yields (.hallPhaseEdge true ns) s fun l => l.time.state = .acquire ∧ l.time.ofs = e ∧
      l.time.slew = 0 ∧ l.time.good = 0 ∧ l.time.stepped = true ∧ l.ft = s.live.ft + BitVec.ofInt 32 e ∧
      l.ft = ns + BitVec.ofNat 32 (s.live.get s.build F.TIME_TIN_CORR_CORR) ∧
      (s.live.time.stepped = false → s.live.get s.build F.SCH_CTL_GRID_EN = 0 → s.live.time.cmps = [] →
        l.rf = s.live.rf ∧ l.log = s.live.log) ∧ l.plans = s.live.plans) ∧
  (∀ (s : State) (ns : Word) (e : Int), Listens s → e = phaseError s ns → s.live.time.state ≠ .free →
    s.live.get s.build F.TIME_CFG_STEP_THR < e.natAbs → 20 < e.natAbs →
    Yields (.hallPhaseEdge true ns) s fun l => l.time.state = .acquire ∧ l.time.ofs = e ∧
      l.time.slew = 0 ∧ l.time.good = 0 ∧ l.ft = s.live.ft + BitVec.ofInt 32 e ∧ l.plans = s.live.plans) ∧
  (∀ (s : State) (ns : Word) (e : Int), Listens s → e = phaseError s ns → s.live.time.state ≠ .free →
    e.natAbs ≤ s.live.get s.build F.TIME_CFG_STEP_THR → (20 < e.natAbs ∨ s.live.time.good < 3) →
    Gives (.hallPhaseEdge true ns) s { s.live with time := { s.live.time with
      tinLow := false, ofs := e, slew := e * 2 ^ 28,
      good := if e.natAbs ≤ 20 then s.live.time.good + 1 else 0 } }) ∧
  (∀ (s : State) (ns : Word) (e : Int), Listens s → e = phaseError s ns → s.live.time.state ≠ .free →
    e.natAbs ≤ s.live.get s.build F.TIME_CFG_STEP_THR → e.natAbs ≤ 20 → 3 ≤ s.live.time.good →
    Yields (.hallPhaseEdge true ns) s fun l => l.time.state = .locked ∧
      l.time.slew = e * 2 ^ 28 ∧ l.time.acc = s.live.time.acc) ∧
  (∀ (s : State) (ns : Word), s.live.freerun s.build = true →
    Gives (.hallPhaseEdge true ns) s { s.live with time := { s.live.time with tinLow := false } })

/-- The time exchange at a lantern (R117, R120, R122): each interval numbers the next REQ to every Local; an
RSP that matches the most recent REQ, on a TRAY link that is UP, gives the delay and θ of timex_eval, and the
exchange of the smallest delay of its group is kept; any other RSP, a poisoned one among them (R433), changes
nothing. Besides the partners, the interval changes what it sends and numbers, and both may note and log a named
buoy that is not fit (Table 19.2). This is the completion of TIMEX_INTERVAL and TIMEX_RSP. -/
def Obligations.LanternExchangesTime : Prop :=
  (∀ s : State, s.live.awake = true → s.build.form = .lantern → s.live.time.state ≠ .free →
    Tab.wf s.live.time.peers = true →
    Yields .timexInterval s fun l =>
      (∀ loc : Fin 256, l.peer loc = (s.live.peer loc).nextReq) ∧
      l.time = { s.live.time with peers := l.time.peers } ∧ l.created = s.live.created ∧
      l.plans = s.live.plans ∧ l.clk = s.live.clk ∧ l.cal = s.live.cal ∧
      (s.live.plans = [] → s.live.flt.dis = [] → l.rf = s.live.rf ∧ l.log = s.live.log)) ∧
  (∀ s : State, s.live.awake = true → s.build.form = .buoy ∨ s.live.time.state = .free →
    Gives .timexInterval s s.live) ∧
  (∀ (s : State) (n : BitVec 5) (r : Rec) (p : Peer) (d21 d43 : Int), s.live.awake = true → s.build.form = .lantern →
    s.live.isUp n.toNat = true → s.live.role s.build n.toNat = 2 → Tab.wf s.live.time.peers = true →
    r.ty = 0x0E → r.body.length = 4 → r.poison = false → txKind r = 2 → p = s.live.peer (txDst r) → p.answered = false →
    p.tx = some (txT1 r) → txSeq r = (p.xseq + 255) % 256 →
    d21 = (txT2 r - txT1 r).toInt → d43 = (s.live.stampIn s.build n.toNat - txTx r).toInt →
    Yields (.timexRsp n r) s fun l =>
      l.peer (txDst r) = p.accept ((d21 + d43) / 2) ((d21 - d43) / 2) ∧
      (∀ k : Nat, k ≠ txDst r → l.peer k = s.live.peer k) ∧
      (s.live.plans = [] → s.live.flt.dis = [] → l.flt = s.live.flt ∧ l.log = s.live.log ∧ l.rf = s.live.rf) ∧
      l = { s.live with
        time := { s.live.time with peers := l.time.peers }, flt := l.flt, log := l.log, rf := l.rf,
        boot := { s.live.boot with early := l.boot.early } }) ∧
  (∀ (s : State) (n : BitVec 5) (r : Rec) (p : Peer), s.live.awake = true → p = s.live.peer (txDst r) →
    s.live.isUp n.toNat = false ∨ s.live.role s.build n.toNat ≠ 2 ∨ r.poison = true ∨ txKind r ≠ 2 ∨
      p.answered = true ∨ p.tx ≠ some (txT1 r) ∨ txSeq r ≠ (p.xseq + 255) % 256 →
    Gives (.timexRsp n r) s s.live)

/-- A REQ at a buoy (R117, R121): the first one accepted in FREE gives the TrunkID, steps FT so that its receive
stamp reads the REQ's TX, leads to ACQUIRE (to LOCKED with LOCK = 1), and the RSP's T2 is the TX. A later one with a
CORR other than 0 writes it to TIME_OFS: within STEP_THR it becomes the slew and the RSP's T2 is the receive stamp;
beyond it FT steps by CORR, which leads to ACQUIRE, and the RSP's T2 is the receive stamp after the step. LOCK = 1
leads to LOCKED, and LOCK = 0 takes a locked buoy that was not stepped to HOLDOVER. A REQ to another Local, and a
KIND that Table 4.3 does not have, count in FAB_RX_BAD.KIND. A poisoned REQ is dropped (R433); so are, uncounted
(the model's choice, log entry 123), a RSP and a record of another length. This is the completion of TIMEX_REQ. -/
def Obligations.BuoyAnswersTimeRequests : Prop :=
  (∀ (s : State) (r : Rec), ReqAt s r → s.live.time.state = .free →
    Yields (.timexReq r) s fun l =>
      l.time.state = (if bit (wordAt r.body 0) 24 then .locked else .acquire) ∧
      l.time.trunk = some (s.live.time.trunk.getD (r.src.toNat / 256)) ∧
      l.ft = s.live.ft + (txTx r - s.live.stampIn s.build 0) ∧ l.time.ofs = s.live.time.ofs ∧
      l.created.map (fun x => (x.2.ty, x.2.stream, x.2.body)) =
        s.live.created.map (fun x => (x.2.ty, x.2.stream, x.2.body)) ++
        [(0x0E, 0x0000, rspWords s r (txTx r))]) ∧
  (∀ (s : State) (r : Rec), ReqAt s r → s.live.time.state ≠ .free →
    (txCorr r).natAbs ≤ s.live.get s.build F.TIME_CFG_STEP_THR →
    Yields (.timexReq r) s fun l =>
      l.time.state = (if bit (wordAt r.body 0) 24 then .locked
        else if s.live.time.state = .locked then .holdover else s.live.time.state) ∧
      (txCorr r ≠ 0 → l.time.slew = txCorr r * 2 ^ 28 ∧ l.time.ofs = txCorr r) ∧
      (txCorr r = 0 → l.time.slew = s.live.time.slew ∧ l.time.ofs = s.live.time.ofs) ∧
      l.time.acc = s.live.time.acc ∧
      (bit (wordAt r.body 0) 24 = true → s.live.time.state = .locked → l.rf = s.live.rf ∧ l.log = s.live.log) ∧
      l.created.map (fun x => (x.2.ty, x.2.stream, x.2.body)) =
        s.live.created.map (fun x => (x.2.ty, x.2.stream, x.2.body)) ++
        [(0x0E, 0x0000, rspWords s r (s.live.stampIn s.build 0))]) ∧
  (∀ (s : State) (r : Rec), ReqAt s r → s.live.time.state ≠ .free →
    s.live.get s.build F.TIME_CFG_STEP_THR < (txCorr r).natAbs →
    Yields (.timexReq r) s fun l =>
      l.time.state = (if bit (wordAt r.body 0) 24 then .locked else .acquire) ∧ l.time.slew = 0 ∧
      l.time.ofs = txCorr r ∧ l.ft = s.live.ft + BitVec.ofInt 32 (txCorr r) ∧
      l.created.map (fun x => (x.2.ty, x.2.stream, x.2.body)) =
        s.live.created.map (fun x => (x.2.ty, x.2.stream, x.2.body)) ++
        [(0x0E, 0x0000, rspWords s r (s.live.stampIn s.build 0 + BitVec.ofInt 32 (txCorr r)))]) ∧
  (∀ (s : State) (r : Rec), s.live.awake = true → s.build.form = .buoy → r.ty = 0x0E → r.body.length = 4 →
    (txKind r = 1 ∧ txDst r ≠ s.live.boot.st.idLocal.toNat) ∨ (txKind r ≠ 1 ∧ txKind r ≠ 2) →
    Gives (.timexReq r) s (s.live.bump s.build F.FAB_RX_BAD_KIND)) ∧
  (∀ (s : State) (r : Rec), s.live.awake = true → s.build.form = .buoy → r.ty = 0x0E →
    r.body.length ≠ 4 ∨ txKind r = 2 ∨
      (txKind r = 1 ∧ txDst r = s.live.boot.st.idLocal.toNat ∧ r.poison = true) →
    Gives (.timexReq r) s s.live)

/-- R124. An agreed count is reached while (FT − T) mod 2³² is below 2³¹. A comparator whose count is reached
fires: a count with no period frees its comparator, a periodic one is armed again at T + period, and what fired
waits for the command of its owner; no other comparator changes. Before that edge nothing happens. This is the
completion of COUNT_REACHED. -/
def Obligations.ArmedCountsFireWhenReached : Prop :=
  (∀ ft t : Word, reached ft t = true ↔ (ft - t).toNat < 0x80000000) ∧
  (∀ (s : State) (i : Nat) (c : Cmp), s.live.time.cmps[i]? = some c → s.live.timeOn = true →
    s.live.pwr.st ≠ .idle → reached s.live.ft c.count = true → c.period = 0 →
    (∀ n, c.owner ≠ .pulse n) → c.owner ≠ .wake →
    Gives (.countReached i) s { s.live with time := { s.live.time with
      cmps := s.live.time.cmps.eraseIdx i,
      fired := s.live.time.fired ++ [⟨c.owner, c.count⟩] } }) ∧
  (∀ (s : State) (i : Nat) (c : Cmp), s.live.time.cmps[i]? = some c → s.live.timeOn = true →
    s.live.pwr.st ≠ .idle → reached s.live.ft c.count = true → c.period ≠ 0 →
    (∀ n, c.owner ≠ .pulse n) → c.owner ≠ .wake →
    Gives (.countReached i) s { s.live with time := { s.live.time with
      cmps := s.live.time.cmps.set i { c with count := c.count + BitVec.ofNat 32 c.period },
      fired := s.live.time.fired ++ [⟨c.owner, c.count⟩] } }) ∧
  (∀ (s : State) (i : Nat) (c : Cmp), s.live.time.cmps[i]? = some c → reached s.live.ft c.count = false →
    Gives (.countReached i) s s.live)

/-- A step of fleet time forward (R127): an armed count that it makes reached fires once, as late: LATE counts
it, 0x0303 is logged at WARN, and a single count frees its comparator. A backward step fires nothing and keeps
every comparator, and of the clocks it changes only that the trim window in progress is spoilt (R102). -/
def Obligations.ForwardStepFiresPassedCountsLate : Prop :=
  (∀ (l : Live) (b : Build) (c : Cmp) (e : Nat), l.time.cmps = [c] → 0 < e → e < 2 ^ 31 → c.period = 0 →
    l.qws = [] → l.get b F.SCH_CTL_GRID_EN = 0 → reached l.ft c.count = false →
    reached (l.ft + BitVec.ofNat 32 e) c.count = true → Tab.wf l.rf = true →
    (l.ftLoad b e).time.cmps = [] ∧
    (l.ftLoad b e).time.fired = l.time.fired ++ [⟨c.owner, c.count⟩] ∧
    (l.ftLoad b e).get b F.TIME_STAT_LATE = min (l.get b F.TIME_STAT_LATE + 1) 255 ∧
    (l.ftLoad b e).ft = l.ft + BitVec.ofNat 32 e ∧
    (l.log.live = true → (l.ftLoad b e).log = (l.logE b 0x0303 2 [c.count.toNat]).log)) ∧
  (∀ (l : Live) (b : Build) (e : Int), e ≤ 0 →
    l.ftLoad b e = { l with
      time := { l.time with acc := (l.ftLoad b e).time.acc, wraps := (l.ftLoad b e).time.wraps, slew := 0 },
      clk := { l.clk with spoilt := match l.trimWindow b with
        | some x => some x
        | none => l.clk.spoilt } })

/-- Pulse outputs (R128, R129): the output of a fired count T rises, to fall at the edge that reaches T + W; one whose
new instant had passed at its fall rises late, which LATE counts. An output falls once its fall is reached, and then
shows the next count of its comparator, if it holds one; values that waited for the fall take effect with it, and a
width of 0 among them disarms the output. No other output changes. This is the completion of PULSE_RISE and
PULSE_FALL. -/
def Obligations.PulsesRiseAndFall : Prop :=
  (∀ (s : State) (n : BitVec 3) (t : Word), s.live.timeOn = true → s.live.pulseOn s.build = true →
    (s.live.pulse n.toNat).level = false → (s.live.pulse n.toNat).lateRise = false →
    s.live.firedOf (.pulse n.toNat) = some ⟨.pulse n.toNat, t⟩ → Tab.wf s.live.pulses = true →
    Yields (.pulseRise n) s fun l => (l.pulse n.toNat).level = true ∧
      (l.pulse n.toNat).fall = t + BitVec.ofNat 32 (s.live.pulse n.toNat).width ∧
      l.time.fired.length + 1 = s.live.time.fired.length ∧ l.out = s.live.out ++ [.pulse n.toNat true] ∧
      (∀ k : Nat, k ≠ n.toNat → l.pulse k = s.live.pulse k) ∧ l.rf = s.live.rf) ∧
  (∀ (s : State) (n : BitVec 3), s.live.timeOn = true → s.live.pulseOn s.build = true →
    (s.live.pulse n.toNat).level = false → (s.live.pulse n.toNat).lateRise = true → Tab.wf s.live.pulses = true →
    Tab.wf s.live.rf = true →
    Yields (.pulseRise n) s fun l => (l.pulse n.toNat).level = true ∧ (l.pulse n.toNat).lateRise = false ∧
      (l.pulse n.toNat).fall = (s.live.pulse n.toNat).t + BitVec.ofNat 32 (s.live.pulse n.toNat).width ∧
      l.get s.build F.TIME_STAT_LATE = min (s.live.get s.build F.TIME_STAT_LATE + 1) 255 ∧
      l.time = s.live.time ∧ l.out = s.live.out ++ [.pulse n.toNat true] ∧
      (∀ k : Nat, k ≠ n.toNat → l.pulse k = s.live.pulse k)) ∧
  (∀ (s : State) (n : BitVec 3), s.live.timeOn = true → s.live.pulseOn s.build = true →
    (s.live.pulse n.toNat).level = true → reached s.live.ft (s.live.pulse n.toNat).fall = true →
    (s.live.pulse n.toNat).deferred = none → s.live.holdsCmp (.pulse n.toNat) = false →
    Gives (.pulseFall n) s { s.live with
      pulses := Tab.set s.live.pulses n.toNat pulse0 { s.live.pulse n.toNat with level := false },
      out := s.live.out ++ [.pulse n.toNat false] }) ∧
  (∀ (s : State) (n : BitVec 3) (t : Word) (per : Nat), s.live.timeOn = true → s.live.pulseOn s.build = true →
    (s.live.pulse n.toNat).level = true → reached s.live.ft (s.live.pulse n.toNat).fall = true →
    (s.live.pulse n.toNat).deferred = some (t, per, 0) → Tab.wf s.live.pulses = true →
    Yields (.pulseFall n) s fun l => (l.pulse n.toNat).level = false ∧ (l.pulse n.toNat).width = 0 ∧
      l.time.cmps = s.live.time.cmps.filter (fun c => c.owner ≠ .pulse n.toNat) ∧
      l.pulseArmed n.toNat = false ∧ l.out = s.live.out ++ [.pulse n.toNat false] ∧
      (∀ k : Nat, k ≠ n.toNat → l.pulse k = s.live.pulse k)) ∧
  (∀ (s : State) (n : BitVec 3) (t : Word) (per w : Nat), s.live.timeOn = true → s.live.pulseOn s.build = true →
    (s.live.pulse n.toNat).level = true → reached s.live.ft (s.live.pulse n.toNat).fall = true →
    (s.live.pulse n.toNat).deferred = some (t, per, w) → w ≠ 0 → reached s.live.ft t = false →
    Tab.wf s.live.pulses = true →
    Yields (.pulseFall n) s fun l => (l.pulse n.toNat).level = false ∧ (l.pulse n.toNat).width = w ∧
      l.time.cmps = s.live.time.cmps.filter (fun c => c.owner ≠ .pulse n.toNat) ++ [⟨.pulse n.toNat, t, per⟩] ∧
      l.out = s.live.out ++ [.pulse n.toNat false] ∧
      (∀ k : Nat, k ≠ n.toNat → l.pulse k = s.live.pulse k))

/-- Quiet windows (R130, R131): a window is active from S_k to S_k + LEN, and at its end S_k moves on by PERIOD;
enabling a set loads S_k when QWk_START passes R125, time is locked or in holdover, PERIOD is at least 10,000 and
LEN lies in [1; PERIOD − 1]; in every other case the set stays disabled and its ARM_REJ bit is set; the other sets
stay as they are; clearing the EN bits takes effect at once, or at the end of the window in progress. This is the
completion of QW_WINDOW_START, QW_WINDOW_END, QW_ENABLE and QW_DISABLE. -/
def Obligations.QuietWindowsOpenCloseAndArm : Prop :=
  (∀ (s : State) (k : BitVec 2), s.live.timeOn = true → s.build.form = .buoy →
    (s.live.qw k.toNat).en = true → (s.live.qw k.toNat).active = false →
    reached s.live.ft (s.live.qw k.toNat).s = true →
    Gives (.qwWindowStart k) s { s.live with
      qws := Tab.set s.live.qws k.toNat qw0 { s.live.qw k.toNat with active := true } }) ∧
  (∀ (s : State) (k : BitVec 2), s.live.timeOn = true → s.build.form = .buoy →
    (s.live.qw k.toNat).active = true →
    reached s.live.ft ((s.live.qw k.toNat).s + BitVec.ofNat 32 (s.live.get s.build F.QW_LEN_LEN k.toNat)) = true →
    Gives (.qwWindowEnd k) s { s.live with
      qws := Tab.set s.live.qws k.toNat qw0 { s.live.qw k.toNat with
        active := false,
        s := (s.live.qw k.toNat).s + BitVec.ofNat 32 (s.live.get s.build F.QW_PERIOD_PERIOD k.toNat),
        en := (s.live.qw k.toNat).en && !(s.live.qw k.toNat).pendDis,
        pendDis := false } }) ∧
  (∀ (s : State) (k st per len d : Nat), k < 4 → Served s → s.build.form = .buoy → Tab.wf s.live.qws = true →
    (∀ j : Fin 4, (s.live.qw j).owner = 0 ∧ (s.live.qw j).en = false) →
    Tab.wf s.live.rf = true → st = s.live.get s.build F.QW_START_START k →
    per = s.live.get s.build F.QW_PERIOD_PERIOD k → len = s.live.get s.build F.QW_LEN_LEN k →
    d = (BitVec.ofNat 32 st - s.live.ft).toNat →
    Yields (.qwEnable (BitVec.ofNat 32 (2 ^ k))) s fun l => (∀ j : Nat, j ≠ k → l.qw j = s.live.qw j) ∧
      ((s.live.time.state = .locked ∨ s.live.time.state = .holdover) ∧ 1000000 ≤ d ∧ d ≤ 2000000000 ∧
        10000 ≤ per ∧ 1 ≤ len ∧ len ≤ per - 1 →
        (l.qw k).en = true ∧ (l.qw k).s = BitVec.ofNat 32 st ∧
        l.get s.build F.QW_STAT_ARM_REJ = s.live.get s.build F.QW_STAT_ARM_REJ) ∧
      (¬((s.live.time.state = .locked ∨ s.live.time.state = .holdover) ∧ 1000000 ≤ d ∧ d ≤ 2000000000 ∧
        10000 ≤ per ∧ 1 ≤ len ∧ len ≤ per - 1) →
        (l.qw k).en = false ∧ (l.get s.build F.QW_STAT_ARM_REJ).testBit k = true)) ∧
  (∀ (s : State) (v : Word), Served s → s.build.form = .buoy → (∀ j : Fin 4, (s.live.qw j).owner = 0) →
    v.toNat % 16 = 0 → Tab.wf s.live.qws = true →
    Yields (.qwDisable v) s fun l =>
      (∀ k : Fin 4, l.qw k = if (s.live.qw k).en = false then s.live.qw k
        else if (s.live.qw k).active = true then { s.live.qw k with pendDis := true }
        else { s.live.qw k with en := false }) ∧
      l = { written s with rf := l.rf, qws := l.qws })

/-! ### Command packets (spec/06) -/

/-- R158, checks 1 and 2, of every request packet but MODEL_LOAD (which also counts the rejection in LOAD_REJ):
a block that does not take commands on the port does nothing; a packet for another block does nothing at a
lantern and counts in FAB_RX_BAD.KIND at a buoy; a packet behind another on its port, or whose way is shut while an
island switches its clock or is in reset, waits in the order of its port (R97, R159, R160); words that
differ from LEN give E_LEN, whatever else is wrong; then a wrong CRC word gives E_CHECK and counts in
CMD_STAT.CHK_FAIL. -/
def Obligations.RequestPacketsWaitAndFailTheirFirstChecks : Prop :=
  ∀ (s : State) (c : Instr) (opc : Nat) (p : Packet), requestOf c = some (opc, p) →
    (s.live.cmd.starting = none → s.live.accepts s.build p.port = false → Gives c s s.live) ∧
    (s.live.cmd.starting = none → s.live.accepts s.build p.port = true → s.live.mine s.build p = false →
      Gives c s (if s.build.buoy then s.live.bump s.build F.FAB_RX_BAD_KIND else s.live)) ∧
    (s.live.cmd.starting = none → s.live.accepts s.build p.port = true → s.live.mine s.build p = true →
      s.live.portWaits p.port c = true →
      Yields c s fun l => l.waiting.Perm (s.live.waiting ++ [⟨retOf s p, c⟩]) ∧
        l.waiting.filter (fun x => decide (x.r.port = p.port)) =
          s.live.waiting.filter (fun x => decide (x.r.port = p.port)) ++ [⟨retOf s p, c⟩] ∧
        l = { (s.live.begin p).1 with cmd := { (s.live.begin p).1.cmd with
          mgmtBuf := l.cmd.mgmtBuf, held := l.cmd.held } }) ∧
    (Starts c s p → p.words.length ≠ p.len.toNat →
      Runs c s p fun l r => l.reply s.build r 0x03) ∧
    (Starts c s p → p.words.length = p.len.toNat → p.pchk = true → p.checks opc = false →
      Runs c s p fun l r => (l.bump s.build F.CMD_STAT_CHK_FAIL).reply s.build r 0x09)

/-- R158, checks 3 and 4 to 6: an opcode that Table 6.6 does not list gives E_OPCODE; a command that the form does
not have gives E_FORM; a command above the privilege of its arrival gives E_PRIV; a payload outside the LEN range
gives E_LEN. Here for one command of each kind: UNIT_REMAP (buoy only), SEQ_QUERY (lantern only), REG_READ (OWNER),
NOP (LEN 0). This is the completion of UNKNOWN_OPCODE. -/
def Obligations.FormPrivilegeAndLengthChecks : Prop :=
  (∀ (s : State) (opc : BitVec 8) (p : Packet), opc.toNat ∉ opcodes → Starts (.unknownOpcode opc p) s p →
    p.words.length = p.len.toNat → (p.pchk = true → p.checks opc.toNat = true) →
    Runs (.unknownOpcode opc p) s p fun l r => l.reply s.build r 0x01) ∧
  (∀ (s : State) (p : Packet), s.build.form = .lantern → Starts (.unitRemap p) s p → p.words.length = p.len.toNat →
    (p.pchk = true → p.checks 0x4A = true) →
    Runs (.unitRemap p) s p fun l r => l.reply s.build r 0x0D) ∧
  (∀ (s : State) (p : Packet), s.build.form = .buoy → Starts (.seqQuery p) s p → p.words.length = p.len.toNat →
    (p.pchk = true → p.checks 0x2A = true) →
    Runs (.seqQuery p) s p fun l r => l.reply s.build r 0x0D) ∧
  (∀ (s : State) (p : Packet), Starts (.regRead p) s p → p.words.length = p.len.toNat →
    (p.pchk = true → p.checks 0x08 = true) → p.port ≠ .mgmt →
    Runs (.regRead p) s p fun l r => l.reply s.build r 0x02) ∧
  (∀ (s : State) (p : Packet), Starts (.nop p) s p → p.words.length = p.len.toNat →
    (p.pchk = true → p.checks 0x01 = true) → p.data ≠ [] →
    Runs (.nop p) s p fun l r => l.reply s.build r 0x03)

/-- Replies (Table 6.2, R150, R151, R154, R160): the packet carries status, TAG, LEN, the CRC flag and ARG, and its
payload only with status OK; at MGMT it waits behind the replies before it; at a buoy it is a CMD record of
KIND 2 on the management stream, offered to its queue; on a lantern's link with no earlier command unanswered
it is a CTL unit of that link. The command leaves execution. -/
def Obligations.RepliesLeaveByTheirPort : Prop :=
  (∀ (tag : BitVec 8) (status arg : Nat) (ws : List DWord), status < 256 → ws.length < 4096 →
    ∃ h, replyPacket tag false status arg ws = h :: ws ∧ fld h 0 8 = status ∧ fld h 8 8 = tag.toNat ∧
      fld h 16 12 = ws.length ∧ fld h 28 1 = 0 ∧ fld h 32 32 = arg % 2 ^ 32) ∧
  (∀ (tag : BitVec 8) (status arg : Nat) (ws : List DWord), status < 256 → ws.length < 4095 →
    ∃ h, replyPacket tag true status arg ws = h :: ws ++ [packW [(0, (crcWords (h :: ws)).toNat)]] ∧
      fld h 0 8 = status ∧ fld h 8 8 = tag.toNat ∧ fld h 16 12 = ws.length + 1 ∧ fld h 28 1 = 1 ∧
      fld h 32 32 = arg % 2 ^ 32) ∧
  (∀ (l : Live) (b : Build) (r : Ret) (status arg : Nat) (ws : List DWord), r.port = .mgmt →
    l.reply b r status arg ws = { l with cmd := { l.cmd with
      busy := l.cmd.busy.filter fun x => decide (x.r.seqNo ≠ r.seqNo),
      mgmtReplies := l.cmd.mgmtReplies ++
        [replyPacket r.tag r.pchk status arg (if status = 0 then ws else [])] } }) ∧
  (∀ (l : Live) (b : Build) (r : Ret) (status arg : Nat) (ws : List DWord), b.form = .buoy → r.port = .fab →
    ∃ x : Rec, (l.reply b r status arg ws).created = l.created ++ [(l.queueOf b 0, x)] ∧ x.ty = 0x0F ∧
      x.stream = 0 ∧ x.src = l.src b ∧ x.ft = l.ft ∧
      x.body = packW [(0, 2), (10, r.dst.toNat), (28, b2n r.dlan), (32, r.ret.toNat)] ::
        replyPacket r.tag r.pchk status arg (if status = 0 then ws else [])) ∧
  (∀ (l : Live) (b : Build) (r : Ret) (n : BitVec 5) (status arg : Nat) (ws : List DWord), b.form = .lantern →
    r.port = .link n → l.cmd.order = [⟨r, none⟩] → Tab.wf l.links = true →
    ∃ x : Rec, ((l.reply b r status arg ws).link n.toNat).ctl =
        (l.link n.toNat).ctl ++ [⟨x.words, some x, none, 0, l.ft, none⟩] ∧
      (l.reply b r status arg ws).cmd.order = [] ∧ x.ty = 0x0F ∧ x.stream = 0x2000 ∧ x.src = l.src b ∧
      x.body = packW [(0, 2), (10, r.dst.toNat), (28, b2n r.dlan), (32, r.ret.toNat)] ::
        replyPacket r.tag r.pchk status arg (if status = 0 then ws else []))

/-- NOP answers OK with the ARG it brought; IDENT answers with GLB_RELEASE, GLB_PARAM, GLB_ID, the privilege of
its arrival and the time state (Table 6.7, R147); the oldest reply at MGMT leaves first (R160), and with none
waiting nothing leaves. This is the completion of NOP, IDENT and MGMT_REPLY_SEND. -/
def Obligations.NopIdentAndReplySend : Prop :=
  (∀ (s : State) (p : Packet), Takes (.nop p) s p 0x01 0 → p.data = [] →
    Runs (.nop p) s p fun l r => l.reply s.build r 0 p.arg.toNat) ∧
  (∀ (s : State) (p : Packet), Takes (.ident p) s p 0x02 0 → p.data = [] →
    Runs (.ident p) s p fun l r =>
      l.reply s.build r 0 (if s.build.buoy then 0x02010001 else 0x02010002)
        [packW [(0, s.live.word0 s.build 0x4), (32, s.live.word0 s.build 0x8)],
         packW [(0, s.live.privOf s.build p), (2, s.live.time.state.code)]]) ∧
  (∀ (s : State) (ws : List DWord) (rest : List (List DWord)), s.live.cmd.mgmtReplies = ws :: rest →
    Gives .mgmtReplySend s { s.live with
      cmd := { s.live.cmd with mgmtReplies := rest }, out := s.live.out ++ [.mgmtReply ws] }) ∧
  (∀ s : State, s.live.cmd.mgmtReplies = [] → Gives .mgmtReplySend s s.live)

/-- REG_READ and REG_WRITE of one register at MGMT (R166, R484): an unmapped or misaligned offset gives E_RANGE
and reads or writes nothing; a mapped one is read or written as at the register port. A whole write of
GLB_CTL.SOFT_RST is answered, and then resets. This is the completion of REG_READ and REG_WRITE. -/
def Obligations.RegReadAndWriteOneRegister : Prop :=
  (∀ (s : State) (p : Packet) (a : Nat), Takes (.regRead p) s p 0x08 2 → p.data = [] → a = p.arg.toNat → a < 65536 →
    (findReg s.build a).isNone = true →
    Runs (.regRead p) s p fun l r => l.reply s.build r 0x05) ∧
  (∀ (s : State) (p : Packet) (a : Nat), Takes (.regRead p) s p 0x08 2 → p.data = [] → a = p.arg.toNat → a < 65536 →
    (findReg s.build a).isSome = true → s.live.mem.bad = [] →
    Runs (.regRead p) s p fun l r =>
      (l.readReg s.build a).1.reply s.build r 0 1 [packW [(0, (l.readReg s.build a).2)]]) ∧
  (∀ (s : State) (p : Packet) (a : Nat), Takes (.regWrite p) s p 0x09 2 → p.data.length = 1 → a = p.arg.toNat → a < 65536 →
    (findReg s.build a).isNone = true →
    Runs (.regWrite p) s p fun l r => l.reply s.build r 0x05) ∧
  (∀ (s : State) (p : Packet) (a : Nat), Takes (.regWrite p) s p 0x09 2 → p.data.length = 1 → a = p.arg.toNat → a < 65536 →
    (findReg s.build a).isSome = true → a ≠ 0x10 →
    Runs (.regWrite p) s p fun l r =>
      (l.writeReg s.build a (BitVec.ofNat 32 (fld (wordAt p.data 0) 0 32))).reply s.build r 0) ∧
  (∀ (s : State) (p : Packet), Takes (.regWrite p) s p 0x09 2 → p.data.length = 1 → p.arg = 0x10 →
    fld (wordAt p.data 0) 0 1 = 1 →
    Runs (.regWrite p) s p fun l _ =>
      (l.emit (.mgmtReply (replyPacket p.tag p.pchk 0 0 []))).softReset s.build)

/-- CAL_WRITE (R145, R167): a word that has a meaning takes the correction, and a baseline word (1 or 2) gives the
trim code of the new baseline where no source trims and no acquisition has completed; nothing else changes, and any
other index gives E_RANGE. WORD_TIMEOUT (R162): the packet is discarded, WTMO_CNT counts it, and it is answered
E_LEN with its TAG and PCHK, after the commands before it on the port; with WTMO 0 there is no time-out, nor is one
while the port is not ready for words. This is the completion of CAL_WRITE and WORD_TIMEOUT. -/
def Obligations.CalWriteAndWordTimeout : Prop :=
  (∀ (s : State) (p : Packet) (i : Nat), Takes (.calWrite p) s p 0x50 2 → p.data.length = 1 → i = p.arg.toNat % 256 →
    calUsable s.build i = true → (i ≠ 1 ∧ i ≠ 2) ∨ s.live.trimSrc s.build ≠ none ∨ s.live.clk.acqDone = true →
    Runs (.calWrite p) s p fun l r => ({ l with cal := { l.cal with
      calu := Tab.set l.cal.calu i 0 (BitVec.ofNat 32 (fld (wordAt p.data 0) 0 32)) } } : Live).reply
        s.build r 0) ∧
  (∀ (s : State) (p : Packet) (i : Nat) (c : Cal), Takes (.calWrite p) s p 0x50 2 → p.data.length = 1 →
    i = p.arg.toNat % 256 → i = 1 ∨ i = 2 → s.live.trimSrc s.build = none → s.live.clk.acqDone = false →
    c = { s.live.cal with
      calu := Tab.set s.live.cal.calu i 0 (BitVec.ofNat 32 (fld (wordAt p.data 0) 0 32)) } →
    Runs (.calWrite p) s p fun l r => ({ l with cal := c, clk := { l.clk with
      code := ({ s.live with cal := c } : Live).baseline s.build } } : Live).reply s.build r 0) ∧
  (∀ (s : State) (p : Packet), Takes (.calWrite p) s p 0x50 2 → p.data.length = 1 →
    calUsable s.build (p.arg.toNat % 256) = false →
    Runs (.calWrite p) s p fun l r => l.reply s.build r 0x05) ∧
  (∀ (s : State) (h : CutOff), s.live.mgmtRxReady s.build = true → s.live.pwr.st = .run →
    s.live.portBusy .mgmt = false → (∀ x ∈ s.live.cmd.held, x.r.port ≠ .mgmt) → s.live.cmd.starting = none →
    s.live.get s.build F.CMD_CFG_WTMO ≠ 0 →
    Gives (.wordTimeout h) s { s.live.bump s.build F.CMD_STAT_WTMO_CNT with
      cmd := { s.live.cmd with
        nextNo := s.live.cmd.nextNo + 1,
        busy := s.live.cmd.busy.filter fun x => decide (x.r.seqNo ≠ s.live.cmd.nextNo),
        mgmtReplies := s.live.cmd.mgmtReplies ++ [replyPacket h.tag h.pchk 0x03 0 []] } }) ∧
  (∀ (s : State) (h : CutOff), s.live.mgmtRxReady s.build = true →
    s.live.portBusy .mgmt = true ∨ (∃ x ∈ s.live.cmd.held, x.r.port = .mgmt) → s.live.cmd.starting = none →
    s.live.get s.build F.CMD_CFG_WTMO ≠ 0 →
    Yields (.wordTimeout h) s fun l => l.cmd.mgmtReplies = s.live.cmd.mgmtReplies ∧
      l.rf = (s.live.bump s.build F.CMD_STAT_WTMO_CNT).rf ∧
      ∃ (x : Busy) (p : Packet), l.waiting.filter (fun y => decide (y.r.port = .mgmt)) =
          s.live.waiting.filter (fun y => decide (y.r.port = .mgmt)) ++ [x] ∧
        x.c = .nop p ∧ p.tag = h.tag ∧ p.pchk = h.pchk ∧ p.words.length ≠ p.len.toNat) ∧
  (∀ (s : State) (h : CutOff), s.live.get s.build F.CMD_CFG_WTMO = 0 ∨ s.live.mgmtRxReady s.build = false →
    Gives (.wordTimeout h) s s.live)

/-- PULSE_ARM (R113, R125, R126, R128, R129). W outside [8; 2²⁴ − 1], or P neither 0 nor at least 1,000 with
W ≤ P − 8, gives E_RANGE; in FREE and ACQUIRE it gives E_STATE; a T outside R125 gives E_TIME; with no
comparator free and none held it gives E_SLOT. Otherwise a low output takes T, P and W and is armed for T; a
high one defers them to its fall. W = 0 disarms. This is the completion of PULSE_ARM. -/
def Obligations.PulseArmChecksThenArms : Prop :=
  ∀ (s : State) (p : Packet) (n per w : Nat) (t : Word), Takes (.pulseArm p) s p 0x70 2 → p.data.length = 2 →
    s.live.pulseOn s.build = true → n = p.arg.toNat % 8 → n < s.build.pulses →
    t = BitVec.ofNat 32 (fld (wordAt p.data 0) 0 32) → per = fld (wordAt p.data 0) 32 32 →
    w = fld (wordAt p.data 1) 0 24 → (s.live.pulse n).deferred = none →
    ((0 < w ∧ w < 8) ∨ (0 < w ∧ 0 < per ∧ (per < 1000 ∨ per < w + 8)) →
      Runs (.pulseArm p) s p fun l r => l.reply s.build r 0x05) ∧
    (8 ≤ w → (per = 0 ∨ (1000 ≤ per ∧ w + 8 ≤ per)) →
      (s.live.time.state = .free ∨ s.live.time.state = .acquire →
        Runs (.pulseArm p) s p fun l r => l.reply s.build r 0x07) ∧
      (s.live.time.state = .locked ∨ s.live.time.state = .holdover →
        ((t - s.live.ft).toNat < 1000000 ∨ 2000000000 < (t - s.live.ft).toNat →
          Runs (.pulseArm p) s p fun l r => l.reply s.build r 0x06) ∧
        (1000000 ≤ (t - s.live.ft).toNat → (t - s.live.ft).toNat ≤ 2000000000 →
          (s.live.cmpFree s.build = false → s.live.holdsCmp (.pulse n) = false →
            Runs (.pulseArm p) s p fun l r => l.reply s.build r 0x0A) ∧
          (s.live.cmpFree s.build = true ∨ s.live.holdsCmp (.pulse n) = true →
            ((s.live.pulse n).level = true →
              Runs (.pulseArm p) s p fun l r =>
                (l.updPulse n fun x => { x with deferred := some (t, per, w) }).reply s.build r 0) ∧
            ((s.live.pulse n).level = false → s.live.hasFired (.pulse n) = false → Tab.wf s.live.pulses = true →
              Yields (.pulseArm p) s fun l =>
                l.pulse n = { s.live.pulse n with t := t, per := per, width := w, lateRise := false } ∧
                l.time.cmps = (s.live.time.cmps.filter fun c => decide (c.owner ≠ .pulse n)) ++
                  [⟨.pulse n, t, per⟩] ∧ l.pulseArmed n = true))))) ∧
    (w = 0 → (s.live.pulse n).level = false →
      Runs (.pulseArm p) s p fun l r => (l.pulseDisarm n).reply s.build r 0)

/-- In-band traffic through a lantern (R154, R155, R157, R163, R292): a command for another block takes the lowest
free of the 64 forward entries and goes on with the effective privilege and the entry's index; with none free it
is answered E_SLOT; a reply returns to the link its command came by, with that command's own cookie; a command not
answered in time is answered E_ABORTED, and its reply, should it still come, counts in LATE_RSP and goes no further,
as does a reply without an entry; a poisoned reply to a command of the lantern's own is dropped (R433). This is the
completion of INBAND_CMD_FORWARD, INBAND_REPLY_RETURN and FORWARD_TIMEOUT. -/
def Obligations.InBandCommandsAreForwarded : Prop :=
  (∀ (s : State) (n : BitVec 5) (r : Rec) (w : DWord) (dst : BitVec 18) (i m : Nat),
    s.live.awake = true → s.live.pwr.st = .run →
    s.build.form = .lantern → s.live.isUp n.toNat = true → r.ty = 0x0F → 2 ≤ r.body.length →
    w = wordAt r.body 0 → fld w 0 8 = 1 → dst = BitVec.ofNat 18 (fld w 10 18) → bit w 28 = false →
    dst.toNat / 256 = s.live.boot.st.idTrunk.toNat → s.live.fwdFree = some i →
    s.live.pickLink (s.live.linksOf s.build 2) (dst.toNat % 256) = some m → Tab.wf s.live.links = true →
    Yields (.inbandCmdForward n r) s fun l =>
      (∃ o : Ret, o.port = .link n ∧ o.ret = BitVec.ofNat 32 (fld w 32 32) ∧
        l.cmd.order = s.live.cmd.order ++ [⟨o, none⟩] ∧
        l.cmd.fwd = s.live.cmd.fwd ++ [⟨i, dst, false, o.ret, o.tag, o.pchk, some o, none⟩]) ∧
      l.cmd.late = s.live.cmd.late.filter (fun e => decide (e.idx ≠ i)) ∧
      (∃ x : Rec, (l.link m).ctl =
          (s.live.link m).ctl ++ [⟨x.words, some x, none, dst.toNat % 256, s.live.ft, none⟩] ∧
        x = { r with body := packW [(0, 1), (8, s.live.linkPriv s.build n.toNat (fld w 8 2)), (10, dst.toNat),
          (28, 0), (32, i)] :: r.body.drop 1 }) ∧
      (∀ k : Nat, k ≠ m → l.link k = s.live.link k) ∧ l.rf = s.live.rf) ∧
  (∀ (s : State) (n : BitVec 5) (r : Rec), s.live.awake = true → s.live.pwr.st = .run →
    s.build.form = .lantern → s.live.isUp n.toNat = true → r.ty = 0x0F → 2 ≤ r.body.length →
    fld (wordAt r.body 0) 0 8 = 1 → bit (wordAt r.body 0) 28 = false → s.live.fwdFree = none →
    ∃ o : Ret, o.port = .link n ∧ Gives (.inbandCmdForward n r) s (({ s.live with cmd := { s.live.cmd with
      nextNo := s.live.cmd.nextNo + 1, order := s.live.cmd.order ++ [⟨o, none⟩] } } : Live).reply s.build o 0x0A)) ∧
  (∀ (s : State) (n m : BitVec 5) (r : Rec) (w : DWord) (e : Fwd) (o : Ret), s.live.awake = true →
    s.build.form = .lantern → s.live.isUp n.toNat = true → r.ty = 0x0F → 2 ≤ r.body.length →
    w = wordAt r.body 0 → fld w 0 8 = 2 →
    s.live.lateFor (BitVec.ofNat 32 (fld w 32 32)) (BitVec.ofNat 18 (fld w 10 18)) (bit w 28) = none →
    s.live.entryOf (BitVec.ofNat 32 (fld w 32 32)) (BitVec.ofNat 18 (fld w 10 18)) (bit w 28) = some e →
    e.origin = some o → o.port = .link m → s.live.cmd.order = [⟨o, none⟩] → Tab.wf s.live.links = true →
    r.src ≠ s.live.src s.build →
    Yields (.inbandReplyReturn n r) s fun l => l.cmd.fwd = s.live.cmd.fwd.erase e ∧ l.cmd.order = [] ∧
      (∃ x : Rec, (l.link m.toNat).ctl = (s.live.link m.toNat).ctl ++ [⟨x.words, some x, none, 0, s.live.ft, none⟩] ∧
        x = { r with body := routing 2 0 (BitVec.ofNat 18 (fld w 10 18)) e.dlan e.ret :: r.body.drop 1 }) ∧
      l.rf = s.live.rf) ∧
  (∀ (s : State) (n : BitVec 5) (r : Rec) (w : DWord), s.live.awake = true → s.build.form = .lantern →
    s.live.isUp n.toNat = true → r.ty = 0x0F → 2 ≤ r.body.length → w = wordAt r.body 0 → fld w 0 8 = 2 →
    s.live.lateFor (BitVec.ofNat 32 (fld w 32 32)) (BitVec.ofNat 18 (fld w 10 18)) (bit w 28) = none →
    s.live.entryOf (BitVec.ofNat 32 (fld w 32 32)) (BitVec.ofNat 18 (fld w 10 18)) (bit w 28) = none →
    Gives (.inbandReplyReturn n r) s (s.live.bump s.build F.CMD_STAT_LATE_RSP)) ∧
  (∀ (s : State) (n : BitVec 5) (r : Rec) (w : DWord) (e : Fwd), s.live.awake = true → s.build.form = .lantern →
    s.live.isUp n.toNat = true → r.ty = 0x0F → 2 ≤ r.body.length → w = wordAt r.body 0 → fld w 0 8 = 2 →
    s.live.lateFor (BitVec.ofNat 32 (fld w 32 32)) (BitVec.ofNat 18 (fld w 10 18)) (bit w 28) = some e →
    Gives (.inbandReplyReturn n r) s (({ s.live with cmd := { s.live.cmd with
      late := s.live.cmd.late.filter fun x => decide (x.idx ≠ e.idx) } } : Live).bump s.build
        F.CMD_STAT_LATE_RSP)) ∧
  (∀ (s : State) (n : BitVec 5) (r : Rec) (w : DWord) (e : Fwd), s.live.awake = true → s.build.form = .lantern →
    s.live.isUp n.toNat = true → r.ty = 0x0F → 2 ≤ r.body.length → w = wordAt r.body 0 → fld w 0 8 = 2 →
    s.live.lateFor (BitVec.ofNat 32 (fld w 32 32)) (BitVec.ofNat 18 (fld w 10 18)) (bit w 28) = none →
    s.live.entryOf (BitVec.ofNat 32 (fld w 32 32)) (BitVec.ofNat 18 (fld w 10 18)) (bit w 28) = some e →
    e.origin = none → r.poison = true → Gives (.inbandReplyReturn n r) s s.live) ∧
  (∀ (s : State) (dst : BitVec 18) (dlan : Bool) (e : Fwd) (o : Ret), s.live.awake = true →
    s.live.cmd.fwd.find? (fun e => decide (e.dst = dst ∧ e.dlan = dlan)) = some e → e.origin = some o →
    Gives (.forwardTimeout dst dlan) s
      (({ s.live.bump s.build F.CMD_STAT_FWD_TMO_CNT with cmd := { s.live.cmd with
        fwd := s.live.cmd.fwd.erase e, late := s.live.cmd.late ++ [e] } } : Live).reply s.build o 0x0C))

/-- Records a buoy drops at its fabric port (R58, R74): one whose LEN is below 24 or differs from the bytes received
counts in FAB_RX_BAD.LEN, one whose CRC-32C does not hold in FAB_RX_BAD.CRC, and one of a TYPE that Table 1.9 does
not have in FAB_RX_BAD.KIND; a record that passes, of a TYPE other than TIMEX and CMD, counts nowhere. This is the
completion of FAB_RX_BAD_RECORD. -/
def Obligations.FabricRecordsAreChecked : Prop :=
  (∀ (s : State) (ws : List DWord), s.live.awake = true → s.build.form = .buoy →
    ws.length < 3 ∨ fld (wordAt ws 0) 16 16 ≠ 8 * ws.length →
    Gives (.fabRxBadRecord ws) s (s.live.bump s.build F.FAB_RX_BAD_LEN)) ∧
  (∀ (s : State) (ws : List DWord), s.live.awake = true → s.build.form = .buoy → 3 ≤ ws.length →
    fld (wordAt ws 0) 16 16 = 8 * ws.length →
    fld (wordAt ws (ws.length - 1)) 0 32 ≠ (crcWords (ws.take (ws.length - 1))).toNat →
    Gives (.fabRxBadRecord ws) s (s.live.bump s.build F.FAB_RX_BAD_CRC)) ∧
  (∀ (s : State) (ws : List DWord) (r : Rec), s.live.awake = true → s.build.form = .buoy → 3 ≤ ws.length →
    fld (wordAt ws 0) 16 16 = 8 * ws.length → recOfWords ws = some r →
    (r.ty = 0 ∨ 0x10 ≤ r.ty.toNat →
      Gives (.fabRxBadRecord ws) s (s.live.bump s.build F.FAB_RX_BAD_KIND)) ∧
    (r.ty ≠ 0 → r.ty.toNat < 0x0E → Gives (.fabRxBadRecord ws) s s.live))

/-! ### Commands that read, load and query (spec/06, spec/07, spec/09, spec/14, spec/15) -/

/-- The counter commands name counters FIRST to FIRST + COUNT − 1 (R167, R182 to R187). A range that
leaves the 1,024 counters gives E_RANGE; CTR_READ answers with one word per counter, and with CLR clears each, and a
poisoned word among them gives E_POISON (R432); CTR_CONFIG gives each its configuration word and
starts it from 0; CTR_FREEZE keeps a snapshot of each; CTR_THAW drops it. No other counter changes. This is the
completion of CTR_READ, CTR_CONFIG, CTR_FREEZE and CTR_THAW. -/
def Obligations.CounterCommandsActOnTheirRange : Prop :=
  ∀ (s : State) (p : Packet) (a n : Nat), s.build.form = .buoy → a = p.aBits 0 10 →
    n = p.aBits 10 11 → (p.port = .mgmt ∨ n + b2n p.pchk ≤ 254) →
    (∀ i : Nat, a ≤ i → i < a + n → s.live.tapGated s.build (s.live.ctr i).cfg = false) →
    Tab.wf s.live.samp.ctrs = true →
    (Takes (.ctrRead p) s p 0x20 1 → p.data = [] → (n = 0 ∨ 1024 < a + n) →
      Runs (.ctrRead p) s p fun l r => l.reply s.build r 0x05) ∧
    (Takes (.ctrRead p) s p 0x20 1 → p.data = [] → 0 < n → a + n ≤ 1024 → p.aBits 31 1 = 0 →
      (∀ i : Nat, a ≤ i → i < a + n → (s.live.ctr i).snap.isSome = true → s.live.bad (.ctr i) = false) →
      Runs (.ctrRead p) s p fun l r => l.reply s.build r 0 n ((List.range n).map fun i =>
        packW [(0, (s.live.ctr (a + i)).read.1.toNat), (48, b2n (s.live.ctr (a + i)).read.2),
          (49, b2n (s.live.userCtr s.build (a + i))),
          (50, s.live.gen (fld (s.live.ctr (a + i)).cfg 8 10))])) ∧
    (Takes (.ctrRead p) s p 0x20 1 → p.data = [] → 0 < n → a + n ≤ 1024 → p.aBits 31 1 = 0 → p.port = .mgmt →
      (∃ i : Fin 1024, a ≤ i.val ∧ i.val < a + n ∧ (s.live.ctr i).snap.isSome = true ∧
        s.live.bad (.ctr i) = true) →
      Yields (.ctrRead p) s fun l => l.samp = s.live.samp ∧
        l.cmd.mgmtReplies = s.live.cmd.mgmtReplies ++ [replyPacket p.tag p.pchk 0x08 0 []]) ∧
    (Takes (.ctrRead p) s p 0x20 1 → p.data = [] → 0 < n → a + n ≤ 1024 → p.aBits 31 1 = 1 →
      (∀ i : Nat, a ≤ i → i < a + n → (s.live.ctr i).snap = none ∧ s.live.ctrInPlan i = false) →
      Yields (.ctrRead p) s fun l => (∀ i : Nat, l.ctr i =
        if a ≤ i ∧ i < a + n then { s.live.ctr i with val := 0, ovf := false } else s.live.ctr i) ∧
        l.rf = s.live.rf ∧ l.out = s.live.out) ∧
    (Takes (.ctrConfig p) s p 0x21 1 → p.data.length = n → 0 < n → a + n ≤ 1024 →
      (∀ i : Nat, i < n → fld (wordAt p.data i) 0 4 < 8 ∧ fld (wordAt p.data i) 8 10 = 0x3FF ∧
        s.live.tapGated s.build (wordAt p.data i) = false ∧
        (s.live.ctr (a + i)).snap = none ∧ s.live.ctrInPlan (a + i) = false) →
      Yields (.ctrConfig p) s fun l => (∀ i : Nat, i < n → ∃ x : Bool,
        l.ctr (a + i) = ⟨wordAt p.data i, 0, false, x, none⟩) ∧
        (∀ i : Nat, i < a ∨ a + n ≤ i → l.ctr i = s.live.ctr i) ∧ l.rf = s.live.rf ∧
        (p.port = .mgmt →
          l.cmd.mgmtReplies = s.live.cmd.mgmtReplies ++ [replyPacket p.tag p.pchk 0 n []])) ∧
    (Takes (.ctrFreeze p) s p 0x22 1 → p.data = [] → 0 < n → a + n ≤ 1024 →
      Yields (.ctrFreeze p) s fun l => (∀ i : Nat, l.ctr i = if a ≤ i ∧ i < a + n then
          { s.live.ctr i with snap := some ((s.live.ctr i).val, (s.live.ctr i).ovf) } else s.live.ctr i) ∧
        l.rf = s.live.rf ∧ (p.port = .mgmt →
          l.cmd.mgmtReplies = s.live.cmd.mgmtReplies ++ [replyPacket p.tag p.pchk 0 n []])) ∧
    (Takes (.ctrThaw p) s p 0x23 1 → p.data = [] → 0 < n → a + n ≤ 1024 →
      Yields (.ctrThaw p) s fun l => (∀ i : Nat, l.ctr i =
          if a ≤ i ∧ i < a + n then { s.live.ctr i with snap := none } else s.live.ctr i) ∧
        l.rf = s.live.rf ∧ (p.port = .mgmt →
          l.cmd.mgmtReplies = s.live.cmd.mgmtReplies ++ [replyPacket p.tag p.pchk 0 n []]))

/-- PLAN_LOAD (R148, R230, R231, R278). At a lantern a length that is 0, no multiple of 8 or above 2 MiB gives
E_RANGE, no HOST link UP gives E_STATE, and otherwise the load holds its command and asks a HOST link for the
image, 4,096 bytes at a time. At a buoy the words of a first part make the entry LOADING, or LOADED when they
are the last and their CRC-32C holds; a wrong one leaves the entry EMPTY and gives E_CHECK. This is the completion of
PLAN_LOAD. -/
def Obligations.PlanLoadReadsOrAssembles : Prop :=
  (∀ (s : State) (p : Packet) (len : Nat), s.build.form = .lantern → Takes (.planLoad p) s p 0x10 1 →
    p.data.length = 2 → len = fld (wordAt p.data 1) 0 32 →
    (len = 0 ∨ len % 8 ≠ 0 ∨ 2097152 < len →
      Runs (.planLoad p) s p fun l r => l.reply s.build r 0x05) ∧
    (0 < len → len % 8 = 0 → len ≤ 2097152 → s.live.hostUp s.build = [] →
      Runs (.planLoad p) s p fun l r => l.reply s.build r 0x07) ∧
    (0 < len → len % 8 = 0 → len ≤ 2097152 → s.live.hostUp s.build ≠ [] →
      Yields (.planLoad p) s fun l => l.loads = s.live.loads ++ [⟨(retOf s p), none, wordAt p.data 0, len,
          BitVec.ofNat 32 (fld (wordAt p.data 1) 32 32), [], 0⟩] ∧
        l.cmd.busy = s.live.cmd.busy ++ [⟨(retOf s p), .planLoad p⟩] ∧ l.plans = s.live.plans ∧
        l.rf = s.live.rf)) ∧
  (∀ (s : State) (p : Packet) (len n : Nat), s.build.form = .lantern → Takes (.planLoad p) s p 0x10 1 →
    p.data.length = 2 → len = fld (wordAt p.data 1) 0 32 → 0 < len → len % 8 = 0 → len ≤ 4096 →
    s.live.hostUp s.build = [n] → s.live.loads = [] → (∀ e ∈ s.live.links, e.2.loads = []) →
    Tab.wf s.live.links = true →
    Yields (.planLoad p) s fun l => l.loads = [⟨(retOf s p), none, wordAt p.data 0, len,
        BitVec.ofNat 32 (fld (wordAt p.data 1) 32 32), [], 0⟩] ∧
      l.cmd.busy = s.live.cmd.busy ++ [⟨(retOf s p), .planLoad p⟩] ∧
      (∃ tag : BitVec 8, l.link n = { s.live.link n with
        loads := [⟨tag, (retOf s p).seqNo, 0, len⟩],
        ctl := (s.live.link n).ctl ++ [⟨[packW [(8, 3), (16, tag.toNat)], wordAt p.data 0,
          packW [(0, len)]], none, none, 0, s.live.ft, none⟩] }) ∧
      (∀ k : Nat, k ≠ n → l.link k = s.live.link k) ∧ l.plans = s.live.plans ∧ l.rf = s.live.rf) ∧
  (∀ (s : State) (p : Packet) (k : Nat) (ws : List DWord), s.build.form = .buoy → Takes (.planLoad p) s p 0x10 1 →
    p.port ≠ .mgmt → p.data ≠ [] → k = p.aBits 0 8 → k ≠ 0 → p.aBits 8 23 = 0 →
    (s.live.plan k).owns = false → (s.live.plan k).state ≠ .loading → s.live.planRoom s.build k = true →
    Tab.wf s.live.plans = true → p.data.length ≤ 254 →
    (p.arg.toNat.testBit 31 = false →
      Yields (.planLoad p) s fun l => (l.plan k).state = .loading ∧ (l.plan k).image = p.data ∧
        (∀ j : Nat, j ≠ k → l.plan j = s.live.plan j) ∧ l.rf = s.live.rf) ∧
    (p.arg.toNat.testBit 31 = true → ws = p.data.dropLast →
      (fld (p.data.getLastD 0) 0 32 = (crcWords ws).toNat →
        Yields (.planLoad p) s fun l => (l.plan k).state = .loaded ∧ (l.plan k).image = ws ∧
          (l.plan k).crc = crcWords ws ∧ (∀ j : Nat, j ≠ k → l.plan j = s.live.plan j) ∧ l.rf = s.live.rf) ∧
      (fld (p.data.getLastD 0) 0 32 ≠ (crcWords ws).toNat →
        Runs (.planLoad p) s p fun l r =>
          ((l.clean (.plan k)).setPlan k plan0).reply s.build r 0x09)))

/-- Loads end (R148, R278, R341, R342). Data in another order or of another length are a framing error; data with ERR
end the load with E_CHECK; a plan image that is whole, with its CRC-32C and without a buoy section, makes its
entry LOADED. MODEL_LOAD of length 0 with CRC 0 empties a slot that nothing uses; a load that waited
for its slot goes on when the slot is free, and a whole image that passes its checks is what the slot then holds; the
checks that depend on the block are made again then (the model's reading of R340 and R380, log entry 135). This is the
completion of LOADDAT_RECEIVE, MODEL_LOAD and MODEL_LOAD_SLOT_FREE. -/
def Obligations.LoadsEndWithTheirImage : Prop :=
  (∀ (s : State) (n : BitVec 5) (rtag : BitVec 8) (err : Bool) (data : List DWord) (e : RdEnt)
    (rest : List RdEnt), s.live.awake = true → s.build.form = .lantern →
    s.live.role s.build n.toNat = 3 → s.live.isUp n.toNat = true → (s.live.link n.toNat).resync = false →
    (s.live.link n.toNat).loads = e :: rest →
    e.tag ≠ rtag ∨ 8 * data.length ≠ (if err then 0 else e.len) →
    Gives (.loaddatReceive n rtag err data) s
      ((s.live.bump s.build F.LNK_ERR_FRAME n.toNat).updLink n.toNat fun k =>
        { k with resync := true, nakDue := true })) ∧
  (∀ (s : State) (n : BitVec 5) (e : RdEnt) (d : Load), s.live.awake = true → s.build.form = .lantern →
    s.live.role s.build n.toNat = 3 → s.live.isUp n.toNat = true → (s.live.link n.toNat).resync = false →
    (s.live.link n.toNat).loads = [e] → s.live.loads = [d] → d.r.seqNo = e.load → d.model = none →
    Gives (.loaddatReceive n e.tag true []) s
      (({ s.live.updLink n.toNat (fun k => { k with loads := [] }) with loads := [] } : Live).reply
        s.build d.r 0x09)) ∧
  (∀ (s : State) (n : BitVec 5) (data : List DWord) (e : RdEnt) (d : Load) (p : Nat),
    s.live.awake = true → s.build.form = .lantern → s.live.role s.build n.toNat = 3 →
    s.live.isUp n.toNat = true → (s.live.link n.toNat).resync = false →
    (s.live.link n.toNat).loads = [e] → s.live.loads = [d] → d.r.seqNo = e.load → d.model = none →
    e.ofs = 0 → e.len = 8 * data.length → d.len = 8 * data.length → d.got = [] → data ≠ [] →
    d.crc = crcWords data → p = imgPlan data → p ≠ 0 → (s.live.plan p).active = false →
    (s.live.plan p).collecting = false → s.live.planRoom s.build p = true →
    s.live.storeUsed p + d.len ≤ 6291456 → imgSec data 9 = none → Tab.wf s.live.plans = true →
    Yields (.loaddatReceive n e.tag false data) s fun l => l.loads = [] ∧ (l.plan p).state = .loaded ∧
      (l.plan p).image = data ∧ (l.plan p).crc = d.crc ∧ (∀ j : Nat, j ≠ p → l.plan j = s.live.plan j) ∧
      (d.r.port = .mgmt → l.cmd.mgmtReplies = s.live.cmd.mgmtReplies ++
        [replyPacket d.r.tag d.r.pchk 0 (p + 256 * b2n (imgStandby data)) []])) ∧
  (∀ (s : State) (p : Packet) (isSeq : Bool) (k : Nat), s.build.form = .lantern → Takes (.modelLoad p) s p 0x29 1 →
    p.port = .mgmt → p.data.length = 2 → fld (wordAt p.data 1) 0 64 = 0 → k = p.aBits 0 4 →
    isSeq = decide (p.aBits 4 1 = 1) → s.live.loads = [] → s.live.planUse s.build isSeq k = false →
    s.live.slotBusy isSeq k = false → (∀ e ∈ s.live.links, e.2.loads = []) →
    Tab.wf s.live.eng.trees = true → Tab.wf s.live.eng.seqs = true →
    Yields (.modelLoad p) s fun l => l.slot isSeq k = ⟨[], false⟩ ∧ l.loads = [] ∧
      (∀ (x : Bool) (j : Nat), (x, j) ≠ (isSeq, k) → l.slot x j = s.live.slot x j) ∧
      l.cmd.mgmtReplies = s.live.cmd.mgmtReplies ++
        [replyPacket p.tag p.pchk 0 (k + 16 * b2n isSeq) []]) ∧
  (∀ (s : State) (isSeq : Bool) (slot : BitVec 4) (k : Nat) (d : Load) (g : List DWord),
    s.live.awake = true → k = slot.toNat → s.live.loads = [d] → d.model = some (isSeq, k) → d.phase = 1 →
    g = prefixWords d.got 0 → d.len = 8 * g.length → d.crc = crcWords g → Tab.wf s.live.eng.trees = true →
    Tab.wf s.live.eng.seqs = true →
    (s.live.slotBusy isSeq k = true → Gives (.modelLoadSlotFree isSeq slot) s s.live) ∧
    (s.live.slotBusy isSeq k = false →
      (if isSeq then modBad6 g = false ∧ s.live.modErr s.build k d.len g = none
        else ensBad7 s.build g = false ∧ s.live.ensErr s.build k d.len g = none) → g ≠ [] →
      Yields (.modelLoadSlotFree isSeq slot) s fun l => l.slot isSeq k = ⟨g, false⟩ ∧ l.loads = [] ∧
        (∀ (x : Bool) (j : Nat), (x, j) ≠ (isSeq, k) → l.slot x j = s.live.slot x j) ∧ l.rf = s.live.rf))

/-- Queries of the engines (R346, R349 to R351, R381 to R383). TREE_QUERY of a slot that holds no ensemble gives
E_STATE; otherwise its samples enter the slot's pipes, and when they have been evaluated the query is answered with
one result per sample, or with E_POISON where a word that a sample reads is uncorrectable, each such sample counted.
SEQ_QUERY of a series that is not enabled gives E_STATE; one that passes its checks while the engine is free runs,
in any of the four modes, and ends with its result, or with E_POISON or E_STATE when a block it read was poisoned or
failing, or overtaken; the ARG of a failing status is 0 (Table 6.2). This is the completion of TREE_QUERY,
TREE_QUERY_DONE, SEQ_QUERY and SEQ_JOB_DONE. -/
def Obligations.QueriesRunAndAnswer : Prop :=
  (∀ (s : State) (p : Packet) (k f n : Nat), Takes (.treeQuery p) s p 0x28 0 →
    f = fld (wordAt p.data 0) 0 11 → n = fld (wordAt p.data 0) 16 16 →
    p.data.length = 1 + n * ((f + 63) / 64 + (f + 1) / 2) → k = p.aBits 0 4 → 0 < n → 0 < f → f ≤ 1024 →
    (s.build.form = .buoy → k = 0 ∧ s.live.pipeOn s.build 0 = true ∧ (p.port = .mgmt ∨ 2 * n + b2n p.pchk ≤ 254)) →
    ((s.live.tree k).ready = false → Runs (.treeQuery p) s p fun l r => l.reply s.build r 0x07) ∧
    ((s.live.tree k).ready = true → f = ensNFeat (s.live.tree k).image →
      (∀ q ∈ ensPipes s.build (s.live.tree k).image, s.live.pipeOn s.build q = true) →
      Runs (.treeQuery p) s p fun l r => { l with
        cmd := { l.cmd with busy := l.cmd.busy ++ [⟨r, .treeQuery p⟩] },
        eng := { l.eng with
          treeJobs := l.eng.treeJobs ++ [⟨r, k, (List.range n).map (querySample p.data f)⟩] } })) ∧
  (∀ (s : State) (k : BitVec 4) (j : TreeJob) (rest : List TreeJob), s.live.awake = true →
    s.live.eng.treeJobs = j :: rest → j.slot = k.toNat →
    (∀ q ∈ ensPipes s.build (s.live.tree j.slot).image, s.live.pipeOn s.build q = true) →
    (∀ i < j.feats.length,
      s.live.sampleBad s.build j.slot i (j.feats.getD i []) (.query j.r.seqNo i) = []) →
    Gives (.treeQueryDone k) s
      ((({ s.live with eng := { s.live.eng with
        treeJobs := rest, samples := (s.live.eng.samples + j.feats.length) % 2 ^ 32 } } : Live).cleanQuery
          j.r.seqNo).reply s.build j.r 0 j.feats.length
        (ensResults s.build (s.live.tree j.slot).image j.feats).flatten)) ∧
  (∀ (s : State) (k : BitVec 4) (j : TreeJob) (rest : List TreeJob) (m : Nat), s.live.awake = true →
    s.live.eng.treeJobs = j :: rest → j.slot = k.toNat →
    (∀ q ∈ ensPipes s.build (s.live.tree j.slot).image, s.live.pipeOn s.build q = true) →
    m = ((List.range j.feats.length).filter fun i => decide
      (s.live.sampleBad s.build j.slot i (j.feats.getD i []) (.query j.r.seqNo i) ≠ [])).length → 0 < m →
    Tab.wf s.live.rf = true →
    Yields (.treeQueryDone k) s fun l => l.eng = { s.live.eng with
        treeJobs := rest, samples := (s.live.eng.samples + j.feats.length) % 2 ^ 32 } ∧
      l.get s.build F.TREE_ERR_POISON = min (s.live.get s.build F.TREE_ERR_POISON + m) 255 ∧
      l.get s.build F.MEM_FLAG_UE = 1 ∧
      (j.r.port = .mgmt → l.cmd.mgmtReplies =
        s.live.cmd.mgmtReplies ++ [replyPacket j.r.tag j.r.pchk 0x08 0 []])) ∧
  (∀ (s : State) (p : Packet) (mode k sn n : Nat) (first : Word) (q : List Word), s.build.form = .lantern →
    Takes (.seqQuery p) s p 0x2A 0 → mode = p.aBits 0 3 → k = p.aBits 4 4 → sn = fld (wordAt p.data 0) 0 16 →
    first = s.live.sampleOf sn (fld (wordAt p.data 0) 16 24) → n = fld (wordAt p.data 1) 0 23 →
    0 < n → n ≤ 4194304 → q = querySamples p →
    (mode = 1 ∨ mode = 2 ∨ mode = 4) ∧ p.data.length = 2 ∨
      mode = 3 ∧ p.data.length = 3 + (q.length + 1) / 2 ∧ 0 < q.length ∧ q.length ≤ 4096 ∧ q.length ≤ n ∧
        q.all f32Finite = true ∧ queryFlat q = false →
    s.live.flag s.build F.UNIT_EN_L_SEQ = true → s.live.eng.job = none → s.live.eng.waits = [] →
    (∀ e ∈ s.live.plans, e.2.seqReady = false) →
    ((s.live.sery sn).on = false → s.live.cmd.busy = [] →
      Runs (.seqQuery p) s p fun l r => l.reply s.build r 0x07) ∧
    ((s.live.sery sn).on = true → s.live.readable s.build sn first n = true →
      (mode ≠ 3 → s.live.slotLoading true k = false ∧ (s.live.seqm k).ready = true ∧
        modKind (s.live.seqm k).image = if mode = 4 then 4 else mode + 1) →
      Runs (.seqQuery p) s p fun l r => { l with
        cmd := { l.cmd with busy := l.cmd.busy ++ [⟨r, .seqQuery p⟩] },
        eng := { l.eng with job := some ⟨r, false, mode, if mode = 3 then 0 else k, sn, first, n,
          if mode = 3 then q else [], s.live.gen sn⟩ } })) ∧
  (∀ (s : State) (j : SeqJob) (rd : SerRead) (g : List DWord) (x : SeqOut), s.live.awake = true →
    s.live.eng.job = some j → s.live.eng.waits = [] → s.live.flag s.build F.UNIT_EN_L_SEQ = true →
    rd = s.live.serRead s.build j.series j.gen j.first j.len → (j.mode ≠ 3 → s.live.bad (.seq j.slot) = false) →
    g = (if j.mode = 3 then [] else (s.live.seqm j.slot).image) →
    x = seqCompute j.mode g (s.live.get s.build F.SER_CFG_TYPE j.series) j.q (zeroState g) rd.xs →
    (rd.poison = true → Gives .seqJobDone s
      ((({ s.live.countRead s.build j.series rd with eng := { s.live.eng with job := none } } : Live).bump s.build
        F.SEQ_ERR_POISON).reply s.build j.r 0x08)) ∧
    (rd.poison = false → rd.stale = true ∨ j.lost = true → Gives .seqJobDone s
      (({ s.live.countRead s.build j.series rd with
        eng := { s.live.eng with job := none } } : Live).reply s.build j.r 0x07)) ∧
    (rd.poison = false → rd.stale = false → j.lost = false → Gives .seqJobDone s
        (({ s.live.countRead s.build j.series rd with eng := { s.live.eng with
          job := none, jobsDone := (s.live.eng.jobsDone + 1) % 2 ^ 32 } } : Live).reply s.build j.r 0
          j.series (seqCommon 0 j.mode false j.slot j.series 0 (decide (rd.inex ≠ 0) || x.sat) j.first j.len
            j.gen (nFill (s.live.get s.build F.SER_CFG_TYPE j.series) rd.xs) (modId g) rd.inex ++ x.body))))

/-! ### Counting and sampling (spec/07) -/

/-- UNIT_REMAP and STEP_MARK (R173 to R177, R455). A remap to a unit that is no SPARE gives E_RANGE, to one that
presents a logical unit E_STATE; otherwise it waits for a moment clear of cuts, then retires the old unit and counts
GEN up; when the new island has taken over, the entry is valid and the reply carries GEN; on one tap port the
sources switch at once. A step mark of an unresolved unit gives E_STATE; otherwise it is applied at a moment clear
of cuts. Of one unit neither overtakes the other (R457). Fifty milliseconds without such a moment end the older of
the two with E_STATE. This is the completion of UNIT_REMAP, REMAP_SWITCH, REMAP_WAIT_TIMEOUT, REMAP_HANDOVER_DONE,
STEP_MARK and STEP_MARK_APPLY. -/
def Obligations.RemapsAndStepMarksKeepClearOfCuts : Prop :=
  (∀ (s : State) (p : Packet) (u q : Nat), s.build.form = .buoy → Takes (.unitRemap p) s p 0x4A 2 → p.data = [] →
    u = p.aBits 0 10 → q = p.aBits 10 10 → u ≠ 0x3FF →
    (∀ g ∈ s.live.groups q, s.live.tapOn s.build (g / 8) = true) →
    (s.live.spare q = false → Runs (.unitRemap p) s p fun l r => l.reply s.build r 0x05) ∧
    (s.live.groups q ≠ [] → s.live.spare q = true →
      ((s.live.presents q).isSome = true ∨ q ∈ s.live.samp.retired →
        Runs (.unitRemap p) s p fun l r => l.reply s.build r 0x07) ∧
      (s.live.presents q = none → q ∉ s.live.samp.retired →
        (∀ o : Nat, s.live.resolve u = some o → (s.live.groups o).length ≤ (s.live.groups q).length) →
        (s.live.remapSlot u = none → Runs (.unitRemap p) s p fun l r => l.reply s.build r 0x0A) ∧
        (∀ e : Nat, s.live.remapSlot u = some e →
          Runs (.unitRemap p) s p fun l r => { l with
            samp := { l.samp with job := some ⟨r, u, q, e, false, false, false⟩ },
            cmd := { l.cmd with busy := l.cmd.busy ++ [⟨r, .unitRemap p⟩] } })))) ∧
  (∀ (s : State) (j : RemapJob), s.live.awake = true → s.live.samp.job = some j → j.switched = false →
    Tab.wf s.live.gens = true →
    (s.live.cutNear = true ∨ (∃ k ∈ s.live.samp.stepJobs, k.u = j.u ∧ k.r.seqNo < j.r.seqNo) →
      Gives .remapSwitch s s.live) ∧
    (s.live.cutNear = false → (∀ k ∈ s.live.samp.stepJobs, k.u = j.u → j.r.seqNo ≤ k.r.seqNo) →
      Yields .remapSwitch s fun l =>
      l.samp.job = some { j with
        switched := true,
        travels := (s.live.resolve j.u).any fun o => !s.live.onePort o j.p,
        moved := (s.live.resolve j.u).any fun o => s.live.onePort o j.p } ∧
      (∀ i : Nat, (l.ctr i).val = (s.live.ctr i).val ∧ (l.ctr i).ovf = (s.live.ctr i).ovf ∧
        (l.ctr i).cfg = (s.live.ctr i).cfg ∧ (l.ctr i).snap = (s.live.ctr i).snap) ∧
      l.samp.retired = s.live.samp.retired ++ (s.live.resolve j.u).toList ∧
      (∀ k : Nat, Tab.getD l.gens k 0 = if k = j.u then (Tab.getD s.live.gens k 0 + 1) % 256
        else Tab.getD s.live.gens k 0) ∧ l.rf = s.live.rf) ∧
    ((∀ k ∈ s.live.samp.stepJobs, j.r.seqNo < k.r.seqNo) → Gives .remapWaitTimeout s
      (({ s.live with samp := { s.live.samp with job := none } } : Live).reply s.build j.r 0x07))) ∧
  (∀ (s : State) (j : RemapJob), s.live.awake = true → s.live.samp.job = some j → j.switched = true →
    Yields .remapHandoverDone s fun l => l.samp.job = none ∧
      l.samp.remaps = Tab.insert s.live.samp.remaps j.entry ⟨j.u, j.p, true⟩ ∧
      l.samp.retired = s.live.samp.retired ∧ (∀ i : Nat, (l.ctr i).val = (s.live.ctr i).val ∧
        (l.ctr i).ovf = (s.live.ctr i).ovf ∧ (l.ctr i).cfg = (s.live.ctr i).cfg) ∧
      (j.r.port = .mgmt → l.cmd.mgmtReplies = s.live.cmd.mgmtReplies ++
        [replyPacket j.r.tag j.r.pchk 0 (s.live.gen j.u) []])) ∧
  (∀ (s : State) (p : Packet) (u k : Nat), s.build.form = .buoy → Takes (.stepMark p) s p 0x61 1 → p.data = [] →
    u = p.aBits 0 10 → k = p.aBits 16 16 → u ≠ 0x3FF →
    (s.live.resolve u = none → Runs (.stepMark p) s p fun l r => l.reply s.build r 0x07) ∧
    ((s.live.resolve u).isSome = true → k ≠ 0 ∨ s.live.stepOpen u = true →
      Runs (.stepMark p) s p fun l r => { l with
        samp := { l.samp with stepJobs := l.samp.stepJobs ++ [⟨r, u, k⟩] },
        cmd := { l.cmd with busy := l.cmd.busy ++ [⟨r, .stepMark p⟩] } })) ∧
  (∀ (s : State) (j : StepJob), s.live.awake = true →
    s.live.samp.stepJobs.find? (fun k => !s.live.stepBehind k) = some j →
    Tab.wf s.live.samp.steps = true → Tab.wf s.live.gens = true →
    (s.live.cutNear = true → Gives .stepMarkApply s s.live) ∧
    (s.live.cutNear = false → Yields .stepMarkApply s fun l =>
      l.samp.stepJobs = s.live.samp.stepJobs.erase j ∧
      (∀ u : Nat, Tab.getD l.samp.steps u ⟨0, false⟩ = if u ≠ j.u then Tab.getD s.live.samp.steps u ⟨0, false⟩
        else if j.k = 0 then { Tab.getD s.live.samp.steps u ⟨0, false⟩ with op := false } else ⟨j.k, true⟩) ∧
      (∀ u : Nat, Tab.getD l.gens u 0 = if j.k ≠ 0 ∧ u = j.u then (Tab.getD s.live.gens u 0 + 1) % 256
        else Tab.getD s.live.gens u 0) ∧ l.samp.ctrs = s.live.samp.ctrs)) ∧
  (∀ s : State, s.live.awake = true → (∀ k ∈ s.live.samp.stepJobs, s.live.stepBehind k = true) →
    Gives .stepMarkApply s s.live) ∧
  (∀ (s : State) (j : StepJob) (t : List StepJob), s.live.awake = true → s.live.samp.stepJobs = j :: t →
    (∀ x, s.live.samp.job = some x → x.switched = true ∨ ∃ k ∈ j :: t, k.r.seqNo ≤ x.r.seqNo) →
    Gives .remapWaitTimeout s
      (({ s.live with samp := { s.live.samp with stepJobs := t } } : Live).reply s.build j.r 0x07))

/-- Sampling (R169, R189, R191, R192, R194, R196, R197). The first write of TAP_BIND binds its group, and no later
one does; a write of PCS_CFG that changes EN, DIV or a filter restarts the thinning count; a PC sample with STALL 7
counts in BADSTALL, one of a unit that presents nothing in UNMAPPED, and one that passes the filters joins the open
buffer, which becomes a PCSAMP record when its oldest entry is FLUSH µs old; a sensor set replaces the last and
counts, and with SEN set every 2^DIV-th one, counted by SETS (the model's choice, log entry 125), makes a SAMPLE
record; a sampling set of a running plan makes a SAMPLE record at its count and moves on by its period. This is the
completion of TAP_BIND_WRITE, PCS_CFG_WRITE, PCS_SAMPLE, PCSAMP_FLUSH_TIMEOUT, SENSOR_SET_TAKEN and SAMPLE_TAKE. -/
def Obligations.SamplesAreTakenAndKept : Prop :=
  (∀ (s : State) (i : BitVec 6) (v : Word), Served s → s.build.form = .buoy →
    s.live.tapOn s.build (i.toNat / 8) = true →
    (Tab.find? s.live.samp.binds i.toNat = none → Gives (.tapBindWrite i v) s { written s with
      samp := { s.live.samp with binds := Tab.insert s.live.samp.binds i.toNat (v &&& 0xFFF) } }) ∧
    ((Tab.find? s.live.samp.binds i.toNat).isSome = true → Gives (.tapBindWrite i v) s (written s))) ∧
  (∀ (s : State) (k : BitVec 2) (v : Word), Served s → s.build.form = .buoy → Tab.wf s.live.rf = true →
    Tab.wf s.live.samp.pcs = true → s.live.flag s.build F.UNIT_EN_B_PCS = true →
    Yields (.pcsCfgWrite k v) s fun l =>
      l.get s.build F.PCS_CFG_EN k.toNat = v.toNat % 2 ∧ l.get s.build F.PCS_CFG_DIV k.toNat = v.toNat / 2 % 16 ∧
      l.get s.build F.PCS_CFG_STALL_ONLY k.toNat = v.toNat / 32 % 2 ∧
      l.get s.build F.PCS_CFG_UFILT k.toNat = v.toNat / 64 % 2 ∧
      l.get s.build F.PCS_CFG_UNIT k.toNat = v.toNat / 128 % 1024 ∧
      l.get s.build F.PCS_CFG_FLUSH k.toNat = v.toNat / 1048576 ∧
      (l.pcs k.toNat).buf = (s.live.pcs k.toNat).buf ∧
      (s.live.get s.build F.PCS_CFG_EN k.toNat ≠ v.toNat % 2 → (l.pcs k.toNat).count = 0)) ∧
  (∀ (s : State) (k : BitVec 2) (n : Nat) (pc : DWord) (unit : BitVec 10) (stall : BitVec 3),
    s.live.awake = true → s.build.form = .buoy → s.live.flag s.build F.UNIT_EN_B_PCS = true → n = k.toNat →
    s.live.flag s.build F.PCS_CFG_EN n = true →
    (stall = 7 → Gives (.pcsSample k pc unit stall) s (s.live.bump s.build F.PCS_STAT_BADSTALL n)) ∧
    (stall ≠ 7 → s.live.presents unit.toNat = none → unit.toNat ∉ s.live.samp.retired →
      Gives (.pcsSample k pc unit stall) s (s.live.bump s.build F.PCS_STAT_UNMAPPED n)) ∧
    (∀ u : Nat, stall ≠ 7 → s.live.presents unit.toNat = some u →
      s.live.get s.build F.PCS_CFG_DIV n = 0 → s.live.flag s.build F.PCS_CFG_UFILT n = false →
      s.live.flag s.build F.PCS_CFG_STALL_ONLY n = false → s.live.pcsSealed n < 2 →
      (s.live.pcs n).buf.length < 63 → Tab.wf s.live.samp.pcs = true →
      Yields (.pcsSample k pc unit stall) s fun l => (l.pcs n).buf = (s.live.pcs n).buf ++
        [⟨pc, s.live.ft, u, stall.toNat, s.live.gen u⟩] ∧ l.created = s.live.created ∧ l.rf = s.live.rf)) ∧
  (∀ (s : State) (k : BitVec 2) (e : PcEnt) (t : List PcEnt), s.live.awake = true → s.build.form = .buoy →
    (s.live.pcs k.toNat).buf = e :: t → s.live.get s.build F.PCS_CFG_FLUSH k.toNat ≠ 0 →
    Tab.wf s.live.samp.pcs = true →
    reached s.live.ft (e.ft + BitVec.ofNat 32 (1000 * s.live.get s.build F.PCS_CFG_FLUSH k.toNat)) = true →
    Yields (.pcsampFlushTimeout k) s fun l => (l.pcs k.toNat).buf = [] ∧ (l.pcs k.toNat).lost = 0 ∧
      l.created.length = s.live.created.length + 1 ∧
      (∀ x ∈ l.created.drop s.live.created.length, x.2.ty = 0x07 ∧ x.2.stream.toNat = 0x1000 + k.toNat ∧
        x.2.body.length = 1 + 2 * (s.live.pcs k.toNat).buf.length) ∧ l.rf = s.live.rf) ∧
  (∀ (s : State) (temps volts : List (BitVec 12)) (merged : Nat), s.live.awake = true → s.build.form = .buoy →
    s.live.flag s.build F.UNIT_EN_B_SENS = true →
    temps.length = 16 → volts.length = 8 → Tab.wf s.live.rf = true →
    Yields (.sensorSetTaken temps volts merged) s fun l =>
      (∀ i : Nat, i < 16 → l.tempOf i =
        s.live.calOut s.build (temps.getD i 0).toNat (8 + 2 * i) (9 + 2 * i)) ∧
      (∀ i : Nat, i < 8 → l.voltOf i =
        s.live.calOut s.build (volts.getD i 0).toNat (40 + 2 * i) (41 + 2 * i)) ∧
      l.get s.build F.SENS_STAT_SETS = (s.live.get s.build F.SENS_STAT_SETS + 1) % 65536 ∧
      l.created.length = s.live.created.length + (if s.live.flag s.build F.SENS_CFG_SEN = true ∧
        (s.live.get s.build F.SENS_STAT_SETS + 1) % 65536 % 2 ^ s.live.get s.build F.SENS_CFG_DIV = 0
        then 1 else 0) ∧ l.samp.ctrs = s.live.samp.ctrs) ∧
  (∀ (s : State) (p : BitVec 8) (set : BitVec 3) (g : SampSet) (t : Word), s.live.awake = true →
    s.build.form = .buoy → (s.live.plan p.toNat).state = .running → Tab.wf s.live.plans = true →
    (secSamp (s.live.plan p.toNat).image).1[set.toNat]? = some g →
    (s.live.plan p.toNat).sampNext[set.toNat]? = some t →
    (reached s.live.ft t = false → Gives (.sampleTake p set) s s.live) ∧
    (reached s.live.ft t = true → Yields (.sampleTake p set) s fun l =>
      (l.plan p.toNat).sampNext[set.toNat]? = some (t + BitVec.ofNat 32 g.period) ∧
      l.created.length = s.live.created.length + 1 ∧
      (∀ x ∈ l.created.drop s.live.created.length, x.2.ty = 0x01 ∧ x.2.ft = s.live.ft ∧
        x.2.stream = BitVec.ofNat 14 g.stream ∧ x.2.body.length = 1 + 2 * g.items.length) ∧
      l.rf = s.live.rf))

/-! ### Power and metering (spec/20) -/

/-- Power states (R467, R468, R470 to R473). PWR_STATE with a state it cannot name gives E_RANGE; one that something
in the block refuses gives E_STATE with the refuser's code, and counts; otherwise it is answered and the entry
follows. A wake event of the state ends it; the wake timer and the management port do so only when they are set to;
a wake count that cannot be armed sets TREJ. From OFF and DEEP `iso_en` stays high (R85). This is the completion of
PWR_STATE, PWR_ENTRY, KEEPER_WORK_WAKE, MGMT_WAKE, AON_WAKE_TIMER, WAKE_COUNT_ARM, AUTO_IDLE_TIMEOUT and
SUPPLY_RAMP_DONE. -/
def Obligations.PowerStatesAreEnteredAndLeft : Prop :=
  (∀ (s : State) (p : Packet) (t : Nat) (st : PwrSt), Takes (.pwrState p) s p 0x48 2 → p.data = [] → t = p.aBits 0 3 →
    (pwrTarget t = none → Runs (.pwrState p) s p fun l r => l.reply s.build r 0x05) ∧
    (pwrTarget t = some st →
      (∀ c : Nat, s.live.refuser s.build (retOf s p) t = some c →
        Runs (.pwrState p) s p fun l r => (((l.put s.build F.PWR_REFUSER_CODE c).bump s.build
          (refFld t)).logE s.build 0x0F01 2 [t, c]).reply s.build r 0x07 c) ∧
      (s.live.refuser s.build (retOf s p) t = none →
        Runs (.pwrState p) s p fun l r =>
          let l := l.reply s.build r 0
          { l with pwr := { l.pwr with target := some st, wakePend := 0, wasIdle := false } }))) ∧
  (∀ s : State, s.live.boot.ready = true → s.live.cmd.mgmtReplies = [] → s.live.pwr.wakePend = 0 →
    (s.live.pwr.target = some .idle → Gives .pwrEntry s { s.live with
      pwr := { s.live.pwr with target := none, st := .idle } }) ∧
    (s.live.pwr.target = some .off → Yields .pwrEntry s fun l => l.pwr.st = .off ∧ l.pwr.isoEn = true ∧
      l.rf = [] ∧ l.plans = [] ∧ l.log.ents = [] ∧ l.boot.st = s.live.boot.st ∧ l.boot.ready = false) ∧
    (s.live.pwr.target = some .deep → Yields .pwrEntry s fun l => l.pwr.st = .deep ∧ l.pwr.isoEn = true ∧
      l.pwr.retEn = true ∧ l.plans = [] ∧ l.log.ents = [] ∧ l.boot.ready = false) ∧
    (s.live.pwr.target = some .sleep → Yields .pwrEntry s fun l => l.pwr.st = .sleep ∧ l.rf = s.live.rf ∧
      l.plans = s.live.plans ∧ l.log = s.live.log)) ∧
  (∀ s : State, s.live.boot.held = false → s.live.pwr.target = none →
    (s.live.pwr.st = .idle → Gives .keeperWorkWake s (({ s.live with
      pwr := { s.live.pwr with st := .run, wake := 2, wasIdle := true } } : Live).logE s.build 0x0F02 1 [1, 2])) ∧
    (s.live.pwr.st = .deep → s.live.flag s.build F.PWR_CFG_WAKE_MGMT = true →
      Gives .mgmtWake s (({ s.live with
        pwr := { s.live.pwr with st := .run, wake := 3, ramping := true } } : Live).logE s.build 0x0F02 1
          [3, 3])) ∧
    (s.live.pwr.st = .sleep → s.live.get s.build F.PWR_WAKE_CTL_TMR ≠ 0 →
      Yields .aonWakeTimer s fun l => l.pwr.st = .run ∧ l.pwr.wake = 5 ∧ l.plans = s.live.plans ∧
        l.samp = s.live.samp) ∧
    (s.live.pwr.st = .deep → Gives .wakeIn s (({ s.live with
      pwr := { s.live.pwr with st := .run, wake := 1, ramping := true } } : Live).logE s.build 0x0F02 1 [3, 1])) ∧
    (s.live.pwr.st = .off → Gives .keeperWorkWake s s.live ∧
      Yields .wakeIn s fun l => l.pwr.st = .run ∧ l.pwr.wake = 1 ∧ l.pwr.isoEn = true ∧ l.boot.ready = false ∧
        l.boot.st = s.live.boot.st ∧ l.plans = [])) ∧
  (∀ s : State, (s.live.flag s.build F.PWR_CFG_WAKE_MGMT = false → Gives .mgmtWake s s.live) ∧
    (s.live.get s.build F.PWR_WAKE_CTL_TMR = 0 → Gives .aonWakeTimer s s.live)) ∧
  (∀ (s : State) (v t : Word) (tmr : Nat), Served s → t = BitVec.ofNat 32 (s.live.get s.build F.PWR_WAKE_T_T) →
    v.toNat % 4 = 1 → tmr = v.toNat / 4 % 16777216 → Tab.wf s.live.rf = true → s.live.holdsCmp .wake = false →
    Yields (.wakeCountArm v) s fun l => l.get s.build F.PWR_WAKE_CTL_TMR = tmr ∧
      (if s.live.timed = true ∧ s.live.inWindow t = true ∧ s.live.cmpFree s.build = true then
        l.time.cmps = s.live.time.cmps ++ [⟨.wake, t, 0⟩]
      else l.time.cmps = s.live.time.cmps ∧ l.get s.build F.PWR_WAKE_CTL_TREJ = 1)) ∧
  (∀ s : State, s.live.boot.ready = true → s.live.pwr.st = .run → s.live.pwr.target = none →
    s.live.pwr.wasIdle = true → s.live.flag s.build F.PWR_CFG_AUTO_IDLE = true → s.live.cmd.busy = [] →
    Gives .autoIdleTimeout s { s.live with pwr := { s.live.pwr with st := .idle } }) ∧
  (∀ s : State, (s.live.pwr.ramping = false → Gives .supplyRampDone s s.live) ∧
    (s.live.pwr.ramping = true → Yields .supplyRampDone s fun l => l.pwr.ramping = false ∧ 3 ≤ l.boot.phase))

/-- Requests for the host unit (R77, R475): a unit that does not resolve gives E_STATE; requests go out one at a
time, in order; the acknowledge answers the command with its status, 3 as 2 (Table 2.4), and a refusal counts; a
request without an acknowledge is answered E_GATED, and its late acknowledge counts and answers nothing. Gated, the
unit does nothing (R105). This is the completion of UNIT_ADJUST, PWR_ACK and PWR_REQ_TIMEOUT. -/
def Obligations.HostUnitRequestsAreAnsweredInOrder : Prop :=
  (∀ (s : State) (p : Packet) (u k : Nat), s.build.form = .buoy → Takes (.unitAdjust p) s p 0x49 2 → p.data = [] →
    s.live.flag s.build F.UNIT_EN_B_PWRQ = true → u = p.aBits 0 10 → k = p.aBits 10 2 → u ≠ 0x3FF →
    (k = 0 ∨ k = 3 → Runs (.unitAdjust p) s p fun l r => l.reply s.build r 0x05) ∧
    (k = 1 ∨ k = 2 →
      (s.live.resolve u = none → Runs (.unitAdjust p) s p fun l r => l.reply s.build r 0x07) ∧
      (∀ q : Nat, s.live.resolve u = some q → s.live.pwr.reqs = [] →
        Runs (.unitAdjust p) s p fun l r => { l with
          cmd := { l.cmd with busy := l.cmd.busy ++ [⟨r, .unitAdjust p⟩] },
          pwr := { l.pwr with reqs := [⟨r, u, k, true⟩] },
          out := l.out ++ [.pwrReq q k] }) ∧
      (∀ (q : Nat) (x : PwrReq) (t : List PwrReq), s.live.resolve u = some q → s.live.pwr.reqs = x :: t →
        x.sent = true → Runs (.unitAdjust p) s p fun l r => { l with
          cmd := { l.cmd with busy := l.cmd.busy ++ [⟨r, .unitAdjust p⟩] },
          pwr := { l.pwr with reqs := l.pwr.reqs ++ [⟨r, u, k, false⟩] } }))) ∧
  (∀ (s : State) (v : BitVec 2), s.live.awake = true → s.live.flag s.build F.UNIT_EN_B_PWRQ = false →
    s.build.form = .buoy → Gives (.pwrAck v) s s.live ∧ Gives .pwrReqTimeout s s.live) ∧
  (∀ (s : State) (v : BitVec 2) (q : PwrReq) (t : List PwrReq), s.live.awake = true → s.build.form = .buoy →
    s.live.flag s.build F.UNIT_EN_B_PWRQ = true →
    (s.live.pwr.lateAck = true → Gives (.pwrAck v) s (({ s.live with
      pwr := { s.live.pwr with lateAck := false } } : Live).bump s.build F.PWRQ_STAT_LATE)) ∧
    (s.live.pwr.lateAck = false → s.live.pwr.reqs = q :: t → v ≠ 2 → v ≠ 3 →
      Gives (.pwrAck v) s ((({ s.live with
        pwr := { s.live.pwr with reqs := t } } : Live).reply s.build q.r 0 v.toNat).raiseReq s.build)) ∧
    (s.live.pwr.lateAck = false → s.live.pwr.reqs = q :: t → v = 2 ∨ v = 3 →
      Gives (.pwrAck v) s ((((({ s.live with
        pwr := { s.live.pwr with reqs := t } } : Live).bump s.build F.PWRQ_STAT_REFUSED).logE s.build
          0x0F04 2 [q.unit, q.kind]).reply s.build q.r 0 2).raiseReq s.build))) ∧
  (∀ (s : State) (q : PwrReq) (t : List PwrReq), s.live.awake = true → s.live.pwr.reqs = q :: t →
    s.build.form = .buoy → s.live.flag s.build F.UNIT_EN_B_PWRQ = true →
    (t = [] → Gives .pwrReqTimeout s ((({ s.live with
      pwr := { s.live.pwr with reqs := [], lateAck := true } } : Live).bump s.build
        F.PWRQ_STAT_TMO).reply s.build q.r 0x0B)) ∧
    (∀ (x : PwrReq) (rest : List PwrReq), t = x :: rest → x.sent = false →
      Yields .pwrReqTimeout s fun l => l.pwr.reqs = { x with sent := true } :: rest ∧
        l.out = s.live.out ++ [.pwrReq ((s.live.resolve x.unit).getD x.unit) x.kind] ∧
        (q.r.port = .mgmt →
          l.cmd.mgmtReplies = s.live.cmd.mgmtReplies ++ [replyPacket q.r.tag q.r.pchk 0x0B 0 []])))

/-- Metering (R476 to R480). A poll tick reads each enabled reading of each enabled device in turn, or counts in
SKIP while a cycle runs; a reading that arrives is kept as F32 and as it came, its series take it, and the next goes
out; a reading of VIN outside the window, or of a status word under its mask, moves the alarm of its device; one
that fails counts, is logged once, and its series take a fill; the alert sets PMB_STAT.ALERT. This is the completion
of PMBUS_POLL_TICK, PMBUS_READ_DONE, PMBUS_READ_TIMEOUT and PMBUS_ALERT. -/
def Obligations.MeteringReadsInTurn : Prop :=
  ∀ s : State, s.live.awake = true → s.build.form = .lantern → s.live.flag s.build F.UNIT_EN_L_PMB = true →
    Gives .pmbusAlert s (s.live.put s.build F.PMB_STAT_ALERT 1) ∧
    (s.live.flag s.build F.PMB_CFG_EN = true → s.live.pwr.poll ≠ [] →
      Gives .pmbusPollTick s (s.live.bump s.build F.PMB_STAT_SKIP)) ∧
    (∀ (x : Nat × Nat) (t : List (Nat × Nat)), s.live.flag s.build F.PMB_CFG_EN = true →
      s.live.pwr.poll = [] → s.live.pmbCycle s.build = x :: t →
      Gives .pmbusPollTick s { s.live with
        pwr := { s.live.pwr with poll := x :: t },
        out := s.live.out ++ [.pmbRead x.1 x.2 (pmbCmd x.2)] }) ∧
    (∀ (w : BitVec 16) (d r : Nat) (v : Word) (t : List (Nat × Nat)), s.live.pwr.poll = (d, r) :: t → r ≠ 0 →
      r ≠ 4 → v = s.live.pmbValue s.build d r w.toNat →
      Gives (.pmbusReadDone w) s ((({ s.live with
        pwr := { s.live.pwr with
          poll := t, vals := Tab.insert s.live.pwr.vals (8 * d + r) (v, w.toNat),
          failing := s.live.pwr.failing.filter fun k => decide (k ≠ 8 * d + r) } } : Live).offer s.build
        (pmbTake d r (.f32 v))).pmbNext)) ∧
    (∀ (w : BitVec 16) (d : Nat) (v : Word) (t : List (Nat × Nat)), s.live.pwr.poll = (d, 0) :: t →
      v = s.live.pmbValue s.build d 0 w.toNat → Tab.wf s.live.pwr.devs = true →
      Yields (.pmbusReadDone w) s fun l => l.pwr.poll = t ∧
        Tab.find? l.pwr.vals (8 * d) = some (v, w.toNat) ∧
        (l.pmbDev d).valm =
          if f32Lt v (BitVec.ofNat 32 (s.live.get s.build F.PMB_VWIN_LO_LO)) = true ∨
            f32Lt (BitVec.ofNat 32 (s.live.get s.build F.PMB_VWIN_HI_HI)) v = true then
            (s.live.pmbDev d).valm || decide (2 ≤ (s.live.pmbDev d).bad)
          else (s.live.pmbDev d).valm && decide ((s.live.pmbDev d).good < 2)) ∧
    (∀ (w : BitVec 16) (d : Nat) (x : Nat × Nat) (t : List (Nat × Nat)), s.live.pwr.poll = (d, 4) :: x :: t →
      Tab.wf s.live.pwr.devs = true →
      Yields (.pmbusReadDone w) s fun l => l.pwr.poll = x :: t ∧
        (l.pmbDev d).salm = decide (w.toNat &&& s.live.get s.build F.PMB_SMASK_SMASK d ≠ 0) ∧
        (l.pmbDev d).valm = (s.live.pmbDev d).valm ∧
        l.out = s.live.out ++ [.pmbRead x.1 x.2 (pmbCmd x.2)]) ∧
    (∀ (why : PmbFail) (d r : Nat) (t : List (Nat × Nat)), s.live.pwr.poll = (d, r) :: t →
      (8 * d + r ∈ s.live.pwr.failing → Gives (.pmbusReadTimeout why) s (((({ s.live with
        pwr := { s.live.pwr with poll := t } } : Live).bump s.build F.PMB_ERR_FAIL).offer s.build
          (pmbTake d r (.fill 1))).pmbNext)) ∧
      (8 * d + r ∉ s.live.pwr.failing → Gives (.pmbusReadTimeout why) s ((((({ s.live with
        pwr := { s.live.pwr with
          poll := t, failing := s.live.pwr.failing ++ [8 * d + r] } } : Live).bump s.build
          F.PMB_ERR_FAIL).logE s.build 0x0F05 2 [d, r, pmbFailCode why]).offer s.build
            (pmbTake d r (.fill 1))).pmbNext)))

/-! ### Registers (spec/21) -/

/-- The register port (R20, R22, R68, R483, R485 to R488). An offset without a register is answered with an error and
does nothing; one whose unit is gated, or whose selector names nothing, reads 0; a read sends the register's
value, and clears its RC fields to their reset values; the low half of a pair latches the high half; an uncorrectable
word behind a register reads 0 and counts (Table 18.2). A write to a register without further effects gives RW fields
the value written, clears the W1C bits written 1, and leaves the other fields. A request whose way is shut, while an
island on it is in reset or switches its clock, waits at the port, behind those that wait already (R93, R97). This is
the completion of REGISTER_READ_CLEAR, COUNTER_WINDOW_READ, LATCHED_PAIR_READ and REGISTER_WRITE. -/
def Obligations.RegisterAccessesFollowTheirCodes : Prop :=
  (∀ (s : State) (a : BitVec 16) (v : Word), s.live.regOpen = true → InTurn s →
    (findReg s.build a.toNat).isNone = true →
    Gives (.registerReadClear a) s (s.live.inTurn.emit (.regRsp 0 true)) ∧
    Gives (.counterWindowRead a) s (s.live.inTurn.emit (.regRsp 0 true)) ∧
    Gives (.latchedPairRead a) s (s.live.inTurn.emit (.regRsp 0 true)) ∧
    Gives (.registerWrite a v) s (s.live.inTurn.emit (.regRsp 0 true))) ∧
  (∀ (s : State) (a : BitVec 16) (v : Word), s.live.regOpen = true → InTurn s →
    (findReg s.build a.toNat).isSome = true → s.live.openReg s.build a.toNat = none → a ≠ 0x10 →
    Gives (.registerReadClear a) s (written s) ∧ Gives (.registerWrite a v) s (written s)) ∧
  (∀ (s : State) (a : BitVec 16) (v : Word), s.live.cmd.regGo = false → s.live.boot.held = false →
    s.live.cmd.regHeld ≠ [] ∨ s.live.boot.phase < 2 ∨ s.live.switching .reg = true →
    Gives (.registerReadClear a) s { s.live with cmd := { s.live.cmd with
      regHeld := s.live.cmd.regHeld ++ [(a.toNat, .registerReadClear a)] } } ∧
    Gives (.registerWrite a v) s { s.live with cmd := { s.live.cmd with
      regHeld := s.live.cmd.regHeld ++ [(a.toNat, .registerWrite a v)] } }) ∧
  (∀ (s : State) (a : BitVec 16) (r : RegRow) (e : Nat), Served s →
    s.live.openReg s.build a.toNat = some (r, e) → s.live.regPoison s.build r e = true →
    Gives (.registerReadClear a) s ((s.live.inTurn.regMeet s.build r e).emit (.regRsp 0 false))) ∧
  (∀ (s : State) (a : BitVec 16) (r : RegRow) (e : Nat), Served s →
    s.live.openReg s.build a.toNat = some (r, e) → s.live.regPoison s.build r e = false → Tab.wf s.live.rf = true →
    s.live.pairOf s.build r.off e = none →
    Yields (.registerReadClear a) s fun l =>
      l = { s.live.inTurn with
        rf := l.rf, out := s.live.out ++ [.regRsp (BitVec.ofNat 32 (s.live.regVal s.build r e)) false] } ∧
      (∀ f ∈ r.flds, l.get s.build f e = if f.acc = .rc then s.live.rst s.build f e
        else s.live.get s.build f e)) ∧
  (∀ s : State, Served s → Tab.wf s.live.rf = true → s.live.time.wraps < 4294967296 →
    Yields (.latchedPairRead 0x400) s fun l =>
      l = { s.live.inTurn with rf := l.rf, out := s.live.out ++ [.regRsp s.live.ft false] } ∧
      l.get s.build F.TIME_NOW_HI_WRAPS = s.live.time.wraps ∧
      l.readReg s.build 0x404 = (l, s.live.time.wraps)) ∧
  (∀ (s : State) (i : Nat), Served s → s.build.form = .buoy → i < 1024 →
    ((s.live.ctr i).snap.isSome = true → s.live.bad (.ctr i) = false) → Tab.wf s.live.rf = true →
    Yields (.counterWindowRead (BitVec.ofNat 16 (0x4000 + 8 * i))) s fun l =>
      l = { s.live.inTurn with rf := l.rf, out := s.live.out ++ [.regRsp (BitVec.ofNat 32
        (if s.live.userCtr s.build i = true ∧ s.live.tapGated s.build (s.live.ctr i).cfg = false then
          fld (s.live.ctrWord s.build i) 0 32 else 0)) false] } ∧
      (s.live.userCtr s.build i = true → s.live.tapGated s.build (s.live.ctr i).cfg = false →
        l.readReg s.build (0x4004 + 8 * i) = (l, fld (s.live.ctrWord s.build i) 32 32))) ∧
  (∀ (s : State) (a : BitVec 16) (v : Word) (r : RegRow) (e : Nat), Served s →
    s.live.openReg s.build a.toNat = some (r, e) → Tab.wf s.live.rf = true → a ≠ 0x10 →
    (∀ x ∈ writers1 ++ writers2, x.1 ≠ r.off) →
    Yields (.registerWrite a v) s fun l =>
      l = { s.live.inTurn with
        rf := l.rf, out := s.live.out ++ [.regRsp 0 false] } ∧
      (∀ f ∈ r.flds, l.get s.build f e =
        if f.acc = .rw then v.toNat / 2 ^ f.lo % 2 ^ f.w
        else if f.acc = .w1c then
          s.live.get s.build f e - (s.live.get s.build f e &&& v.toNat / 2 ^ f.lo) % 2 ^ f.w
        else s.live.get s.build f e))

/-! ### The logbook (spec/17) -/

/-- Events and the logbook (R416 to R419, R422). An event changes nothing but the logbook, its counters, and before
the logbook is initialised the early events; one equal to the newest entry, while that is held, counts there (R417);
any other takes the next LSEQ, and one that does not fit, where no entry of its severity or below can go, takes an
LSEQ and counts in LOG_DROP; before that, the first four wait. -/
def Obligations.EventsGoToTheLogbookOnly : Prop :=
  ∀ (l : Live) (b : Build) (code sev plan status : Nat) (args : List Nat) (ev : LogEv),
    ev = ⟨code, sev, plan, status, args⟩ →
    (∃ x y z, l.logE b code sev args plan status = { l with rf := x, log := y, boot := z }) ∧
    (l.log.live = true → ∀ (e : LogEnt) (t : List LogEnt), l.log.ents = t ++ [e] → e.ev = ev →
      e.rep < 0xFFFFFFFF → e.sel = false → e.lseq = l.log.newest → (∀ a ∈ t, a.lseq ≠ e.lseq) →
      (l.logE b code sev args plan status).log.ents = t ++ [{ e with rep := e.rep + 1 }] ∧
      (l.logE b code sev args plan status).log.next = l.log.next) ∧
    (l.log.live = true → (∀ e ∈ l.log.ents.getLast?, e.ev ≠ ev ∨ e.lseq ≠ l.log.newest) →
      (2 + args.length ≤ b.logWords - usedWords l.log.ents →
        (l.logE b code sev args plan status).log.ents =
          l.log.ents ++ [⟨l.log.next, ev, false, 0, false, none⟩] ∧
        (l.logE b code sev args plan status).log.newest = l.log.next ∧
        (l.logE b code sev args plan status).log.next = l.log.next + 1) ∧
      (b.logWords - usedWords l.log.ents < 2 + args.length → Tab.wf l.rf = true →
        (∀ e ∈ l.log.ents, e.sel = true ∨ sev < e.ev.sev) →
        (l.logE b code sev args plan status).log.ents = l.log.ents ∧
        (l.logE b code sev args plan status).log.next = l.log.next + 1 ∧
        (l.logE b code sev args plan status).get b (dropFld sev) =
          min (l.get b (dropFld sev) + 1) (2 ^ (dropFld sev).w - 1))) ∧
    (l.log.live = false → l.boot.early.length < 4 →
      l.logE b code sev args plan status = { l with boot := { l.boot with early := l.boot.early ++ [ev] } })

/-- Reading and copying the logbook (R421 to R425). LOG_READ of severity above 3 or of no entry gives E_RANGE;
otherwise whole entries of the severity leave, oldest first, and are gone; a poisoned one among them gives E_POISON
and is discarded (R423). Draining selects the entries of one LOG record. The attic copy takes the newest entries
that qualify and fit, a setting beyond the banks is refused, and disabling discards it. This is the completion of
LOG_READ, LOG_DRAIN, ATTIC_ENABLE and ATTIC_DISABLE. -/
def Obligations.TheLogbookIsReadDrainedAndCopied : Prop :=
  (∀ (s : State) (p : Packet) (sev n : Nat), Takes (.logRead p) s p 0x38 1 → p.data = [] →
    sev = p.aBits 0 3 → n = p.aBits 4 12 →
    (3 < sev ∨ n = 0 → Runs (.logRead p) s p fun l r => l.reply s.build r 0x05) ∧
    (sev ≤ 3 → 0 < n → s.live.flag s.build F.LOG_CFG_DRAIN_EN = true →
      Runs (.logRead p) s p fun l r => l.reply s.build r 0x07) ∧
    (∀ (room : Nat) (es : List LogEnt), sev ≤ 3 → 0 < n → s.live.flag s.build F.LOG_CFG_DRAIN_EN = false →
      room = (if s.build.form = .buoy ∧ p.port ≠ .mgmt then 254 else 4095) - b2n p.pchk →
      es = takeEnts (max 1 sev) n room s.live.log.ents →
      ((∀ e ∈ es, e.bad = none) →
        Yields (.logRead p) s fun l => l.log.ents = s.live.log.ents.filter (fun a =>
            !(es.any fun g => decide (g.lseq = a.lseq))) ∧
          (p.port = .mgmt → l.cmd.mgmtReplies = s.live.cmd.mgmtReplies ++
            [replyPacket p.tag p.pchk 0 l.log.ents.length (es.flatMap LogEnt.words)]) ∧
          l.rf = s.live.rf) ∧
      (∀ e : LogEnt, es.find? (fun x => x.bad.isSome) = some e →
        Runs (.logRead p) s p fun l r => (l.reply s.build r 0x08).discardEnt s.build e))) ∧
  (∀ (s : State) (es : List LogEnt), s.live.awake = true → (∀ e ∈ s.live.log.ents, e.sel = false) →
    (∀ e ∈ s.live.log.ents, e.bad = none) →
    es = takeEnts (max 1 (s.live.get s.build F.LOG_CFG_DRAIN_MIN)) 127 255 s.live.log.ents →
    (s.live.flag s.build F.LOG_CFG_DRAIN_EN = false → Gives .logDrain s s.live) ∧
    (s.live.flag s.build F.LOG_CFG_DRAIN_EN = true → es = [] → Gives .logDrain s s.live) ∧
    (s.live.flag s.build F.LOG_CFG_DRAIN_EN = true → es ≠ [] →
      (s.live.fits s.build s.build.mgmtQueue (32 + 8 * usedWords es) false).isSome = true →
      Yields .logDrain s fun l => l.log.lostSum = 0 ∧ l.created.length = s.live.created.length + 1 ∧
        l.log.ents = s.live.log.ents.map (fun a =>
          if es.any fun g => decide (g.lseq = a.lseq) then { a with sel := true } else a) ∧
        (∀ x ∈ l.created.drop s.live.created.length, x.2.ty = 0x09 ∧
          x.2.body = packW [(0, es.length), (32, min s.live.log.lostSum 0xFFFFFFFF)] ::
            es.flatMap LogEnt.words) ∧ l.rf = s.live.rf)) ∧
  (∀ (s : State) (v : Word), Served s → Tab.wf s.live.rf = true →
    (s.live.flag s.build F.LOG_ATTIC_EN = true → v.toNat.testBit 0 = false →
      Yields (.atticDisable v) s fun l => l.log = { s.live.log with attic := [] } ∧
        l.flag s.build F.LOG_ATTIC_EN = false) ∧
    (s.live.flag s.build F.LOG_ATTIC_EN = true → v.toNat.testBit 0 = true →
      Gives (.atticEnable v) s (written s)) ∧
    (s.live.flag s.build F.LOG_ATTIC_EN = false → v.toNat.testBit 0 = true →
      Yields (.atticEnable v) s fun l =>
        if s.build.atticBanks ≤ v.toNat / 8 % 16 + v.toNat / 128 % 4 then
          l.log = s.live.log ∧ l.flag s.build F.LOG_ATTIC_EN = false ∧ l.get s.build F.LOG_FLAG_REJ = 1
        else l.flag s.build F.LOG_ATTIC_EN = true ∧ l.log.ents = s.live.log.ents ∧
          l.log.attic = atticFill (max 1 (v.toNat / 2 % 4)) ((v.toNat / 128 % 4 + 1) * s.build.bankWords)
            s.live.log.ents.reverse []))

/-! ### Memory protection (spec/18) -/

/-- Scrubbing and canaries (R427 to R430, R437 to R439). A clean word only moves the walker on; a corrected one
counts, and counts in the lap; an uncorrectable one counts, shows its address and raises MEM_FLAG.UE; the walker
starts again at the end, where the lap's count is shown. A SCRUB_RANGE outside its memory, of no bytes or not in
words gives E_RANGE, and one that meets words of a gated unit E_GATED; passes run one at a time; a clean pass
answers with no errors, and one that found an uncorrectable word with its count and address. A canary run that ended
before PB_CLOSE counts, as passed where no unit that it feeds disagreed, and else as failed in the leaf's name. This
is the completion of SCRUB_WALKER_READ, SCRUB_RANGE, SCRUB_RANGE_DONE and CANARY_RUN_DONE. -/
def Obligations.ScrubbingCountsAndAnswers : Prop :=
  (∀ (s : State) (m : BitVec 8) (lap a : Nat), s.live.awake = true → m.toNat ≠ 0x20 →
    s.live.memBytes s.build m.toNat ≠ 0 → s.live.flag s.build F.MEM_SCRUB_EN m.toNat = true →
    a = Tab.getD s.live.mem.walk m.toNat 0 → s.live.memGated s.build m.toNat a = false →
    s.live.knownBad m.toNat a = false → Tab.wf s.live.mem.walk = true → Tab.wf s.live.mem.lapCe = true →
    Tab.wf s.live.rf = true →
    (a + 8 < s.live.memBytes s.build m.toNat →
      Yields (.scrubWalkerRead m .clean lap) s (fun l => Tab.getD l.mem.walk m.toNat 0 = a + 8 ∧
        l.rf = s.live.rf ∧ l.log = s.live.log) ∧
      Yields (.scrubWalkerRead m .corrected lap) s (fun l => Tab.getD l.mem.walk m.toNat 0 = a + 8 ∧
        Tab.getD l.mem.lapCe m.toNat 0 = Tab.getD s.live.mem.lapCe m.toNat 0 + 1 ∧
        l.get s.build F.MEM_STAT_CE m.toNat =
          min (s.live.get s.build F.MEM_STAT_CE m.toNat + 1) (2 ^ F.MEM_STAT_CE.w - 1) ∧
        l.log = s.live.log) ∧
      (m ≠ 0 → Yields (.scrubWalkerRead m .uncorrectable lap) s fun l =>
        Tab.getD l.mem.walk m.toNat 0 = a + 8 ∧
        l.get s.build F.MEM_STAT_UE m.toNat =
          min (s.live.get s.build F.MEM_STAT_UE m.toNat + 1) (2 ^ F.MEM_STAT_UE.w - 1) ∧
        l.get s.build F.MEM_UE_ADDR_ADDR m.toNat = a ∧ l.get s.build F.MEM_FLAG_UE = 1)) ∧
    (s.live.memBytes s.build m.toNat ≤ a + 8 →
      Yields (.scrubWalkerRead m .clean lap) s (fun l => Tab.getD l.mem.walk m.toNat 0 = 0 ∧
        Tab.getD l.mem.lapCe m.toNat 0 = 0 ∧ (Tab.getD s.live.mem.lapCe m.toNat 0 = 0 → l.log = s.live.log)))) ∧
  (∀ (s : State) (p : Packet) (id a n : Nat), Takes (.scrubRange p) s p 0x40 2 → p.data.length = 2 → id = p.aBits 0 8 →
    a = (wordAt p.data 0).toNat → n = (wordAt p.data 1).toNat →
    (s.live.memBytes s.build id = 0 ∨ a % 8 ≠ 0 ∨ n % 8 ≠ 0 ∨ n = 0 ∨ s.live.memBytes s.build id < a + n →
      Runs (.scrubRange p) s p fun l r => l.reply s.build r 0x05) ∧
    (a % 8 = 0 → n % 8 = 0 → 0 < n → n ≤ 2 ^ 32 → a + n ≤ s.live.memBytes s.build id →
      (memShares id a n).any (s.live.memGated s.build id) = true →
      Runs (.scrubRange p) s p fun l r => l.reply s.build r 0x0B) ∧
    (a % 8 = 0 → n % 8 = 0 → 0 < n → n ≤ 2 ^ 32 → a + n ≤ s.live.memBytes s.build id →
      (memShares id a n).any (s.live.memGated s.build id) = false →
      Runs (.scrubRange p) s p fun l r => { l with
        mem := { l.mem with jobs := startPass (l.mem.jobs ++
          [⟨r, id, wordAt p.data 0, wordAt p.data 1, false⟩]) },
        cmd := { l.cmd with busy := l.cmd.busy ++ [⟨r, .scrubRange p⟩] } })) ∧
  (∀ (s : State) (j : ScrubJob) (first : DWord) (ce : Nat), s.live.awake = true → s.live.mem.jobs = [j] →
    j.mem ≠ 0x20 → ce ≤ j.len.toNat / 8 → ce < 4294967296 → s.live.boot.ready = true →
    s.live.knownWords j.mem j.start.toNat j.len.toNat = [] →
    Gives (.scrubRangeDone ce 0 first) s
      (((({ s.live with mem := { s.live.mem with jobs := [] } } : Live).bump s.build F.MEM_STAT_CE
        j.mem ce)).reply s.build j.r 0 0 [packW [(0, ce), (32, 0)], BitVec.ofNat 64 (2 ^ 64 - 1)])) ∧
  (∀ (s : State) (j : ScrubJob) (f : DWord) (ce : Nat), s.live.awake = true → s.live.mem.jobs = [j] →
    j.mem ≠ 0x20 → j.mem ≠ 0 → ce + 1 ≤ j.len.toNat / 8 → ce < 4294967296 → s.live.boot.ready = true →
    s.live.knownWords j.mem j.start.toNat j.len.toNat = [] → j.start.toNat ≤ f.toNat →
    f.toNat + 8 ≤ j.start.toNat + j.len.toNat → f.toNat % 8 = 0 → j.r.port = .mgmt →
    Yields (.scrubRangeDone ce 1 f) s fun l => l.mem.jobs = [] ∧ l.get s.build F.MEM_FLAG_UE = 1 ∧
      l.cmd.mgmtReplies = s.live.cmd.mgmtReplies ++
        [replyPacket j.r.tag j.r.pchk 0 0 [packW [(0, ce), (32, 1)], f]]) ∧
  (∀ (s : State) (p units : BitVec 8) (pipes : BitVec 16) (ended : Bool) (load : CanLoad), s.live.awake = true →
    s.live.canaryOf s.build p.toNat = none →
    Gives (.canaryRunDone p units pipes ended load) s s.live) ∧
  (∀ (s : State) (p units : BitVec 8) (pipes : BitVec 16) (load : CanLoad) (o : OpenCut) (u : Nat),
    s.live.awake = true → s.build.form = .lantern →
    s.live.canaryOf s.build p.toNat = some (o.epoch, o.t) →
    (s.live.plan p.toNat).oc = some o → Tab.wf s.live.plans = true → Tab.wf s.live.rf = true →
    reached s.live.ft (o.t + BitVec.ofNat 32 (500 * imgPbClose (s.live.plan p.toNat).image)) = false →
    u = s.live.canUnits s.build units.toNat pipes.toNat →
    Yields (.canaryRunDone p units pipes true load) s fun l =>
      l.get s.build F.CNRY_STAT_UNITS = u % 256 ∧ l.get s.build F.CNRY_STAT_PASS = b2n (decide (u = 0)) ∧
      l.mem.runs = (s.live.mem.runs + 1) % 65536 ∧
      (l.plan p.toNat).oc = some { o with
        can := o.can.merge (if u = 0 then ⟨1, 0, 0, none⟩
          else ⟨0, 1, 0, some (contribKey true (s.live.leaf s.build), u)⟩),
        canOwn := true })

/-! ### Trace (spec/16) -/

/-- Arming and reading (R395, R397, R399, R403). TRACE_ARM with a setting out of range gives E_RANGE; otherwise the
buffer is empty, the recorder ARMED, and ARM_ID one more; EN = 0 stops a recorder that runs and seals its open
block; TRACE_READ of a recorder that has not stopped gives E_STATE, and otherwise answers with the oldest blocks and
drops them; one with a poisoned word gives E_POISON and drops nothing. Arming and reading give E_GATED with BMON
gated or its clock stopped (R22, R99). This is the completion of TRACE_ARM, TRACE_DISARM and TRACE_READ. -/
def Obligations.TheRecorderIsArmedStoppedAndRead : Prop :=
  (∀ (s : State) (p : Packet), s.build.form = .buoy → Takes (.traceArm p) s p 0x30 1 → p.data.length = 9 →
    s.live.flag s.build F.UNIT_EN_B_BMON = true → s.live.trace.clkStop = false → p.aBits 0 1 = 1 →
    (trBad p.data = true → Runs (.traceArm p) s p fun l r => l.reply s.build r 0x05) ∧
    (trBad p.data = false → Runs (.traceArm p) s p fun l r => (({ l with trace := { l.trace with
      st := .armed, arm := p.data, opn := [], openTrig := false, slots := [], lost := 0, markLost := false,
      tft := 0, cnt := fld (wordAt p.data 0) 0 32, armId := (l.trace.armId + 1) % 65536, markDue := false,
      entryDue := false } } : Live).reply s.build r 0))) ∧
  (∀ (s : State) (p : Packet), s.build.form = .buoy → Takes (.traceDisarm p) s p 0x30 1 → p.data.length = 9 →
    p.aBits 0 1 = 0 →
    (s.live.trace.st = .off ∨ s.live.trace.st = .stopped →
      Runs (.traceDisarm p) s p fun l r => l.reply s.build r 0) ∧
    (s.live.trace.st = .armed ∨ s.live.trace.st = .counting → s.live.trace.slots.length < 512 →
      s.live.trace.opn ≠ [] →
      Runs (.traceDisarm p) s p fun l r => ({ l with trace := { l.trace with
        st := .stopped, opn := [], openTrig := false, slots := l.trace.slots ++ [.block l.trace.opn
          l.trace.openTrig true l.trace.armId l.trace.tft none] } } : Live).reply s.build r 0)) ∧
  (∀ (s : State) (p : Packet), s.build.form = .buoy → Takes (.traceArm p) s p 0x30 1 → p.data.length = 9 →
    p.aBits 0 1 = 1 →
    (s.live.flag s.build F.UNIT_EN_B_BMON = false → Runs (.traceArm p) s p fun l r => l.reply s.build r 0x0B) ∧
    (s.live.flag s.build F.UNIT_EN_B_BMON = true → s.live.trace.clkStop = true →
      Runs (.traceArm p) s p fun l r => (l.bump s.build F.CLK_STAT_XTO_CNT).reply s.build r 0x0B)) ∧
  (∀ (s : State) (p : Packet) (n : Nat), s.build.form = .buoy → Takes (.traceRead p) s p 0x31 1 → p.data = [] →
    p.port = .mgmt ∨ p.aBits 0 16 + b2n p.pchk ≤ 254 → s.live.flag s.build F.UNIT_EN_B_BMON = true →
    s.live.trace.clkStop = false → n = p.aBits 0 16 →
    (n = 0 → Runs (.traceRead p) s p fun l r => l.reply s.build r 0x05) ∧
    (0 < n → s.live.trace.st ≠ .stopped →
      Runs (.traceRead p) s p fun l r => l.reply s.build r 0x07) ∧
    (∀ (es : List TrEnt) (trig stopped : Bool) (arm : Nat) (ft : Word) (a : Nat) (rest : List TrSlot),
      s.live.trace.st = .stopped → fld (wordAt s.live.trace.arm 0) 52 1 = 0 →
      s.live.trace.slots = .block es trig stopped arm ft (some a) :: rest → es.length ≤ 42 →
      n = 5 + 3 * es.length →
      Yields (.traceRead p) s fun l => l.trace = s.live.trace ∧ (p.port = .mgmt →
        l.cmd.mgmtReplies = s.live.cmd.mgmtReplies ++ [replyPacket p.tag p.pchk 0x08 0 []])) ∧
    (∀ (es : List TrEnt) (trig stopped : Bool) (arm : Nat) (ft : Word) (rest : List TrSlot),
      s.live.trace.st = .stopped → fld (wordAt s.live.trace.arm 0) 52 1 = 0 →
      s.live.trace.slots = .block es trig stopped arm ft none :: rest → es.length ≤ 42 →
      n = 5 + 3 * es.length →
      Yields (.traceRead p) s fun l => l.trace = { s.live.trace with
          slots := rest, lost := 0, markLost := false } ∧ l.rf = s.live.rf ∧
        (p.port = .mgmt → ∃ x : Rec, x.ty = 0x08 ∧ x.stream = 0x1020 ∧ x.body.drop 2 = es.flatMap TrEnt.words ∧
          l.cmd.mgmtReplies = s.live.cmd.mgmtReplies ++ [replyPacket p.tag p.pchk 0
            (rest.foldl (fun k y => k + y.len) 0) x.words])))

/-- Recording (R393, R396 to R398, R404, R406). An access that the setting keeps joins the open block of an armed
recorder; one that triggers starts the count toward STOP; while it counts, each entry counts down, and the last seals
the block and stops; other sources trigger when they reach the unit and the setting names them, several at one edge
as one trigger; a stopped clock sets marks to be written, which follow when it goes on; an object is enabled with an
unknown value only at an aligned address, takes the value of a whole write, and with it HELD and its owner, and a read
while it is held makes its unit a waiter. This is the completion of BMON_ACCESS, SWTRIG, TRACE_TRIGGER_EVENT,
BMON_CLOCK_STOP, BMON_CLOCK_RESUME and WATCH_ENABLE. -/
def Obligations.AccessesAreRecordedAndTrigger : Prop :=
  (∀ (s : State) (a : Access) (u : Nat), Monitors s →
    a.also = 0 → s.live.trace.fogHi = s.live.fogOut s.build → s.live.presents a.unit.toNat = some u →
    fld (wordAt s.live.trace.arm 0) 52 1 = 0 → s.live.trace.opn.length < 41 →
    (s.live.trace.st = .off ∨ (s.live.trace.st = .stopped ∧ trHits s.live.trace.arm a = false) →
      Gives (.bmonAccess a) s (s.live.watchAll s.build a)) ∧
    (s.live.trace.st = .armed → trHits s.live.trace.arm a = false → trKeeps s.live.trace.arm a u = false →
      Gives (.bmonAccess a) s (s.live.watchAll s.build a)) ∧
    (s.live.trace.st = .armed → trHits s.live.trace.arm a = false → trKeeps s.live.trace.arm a u = true →
      Gives (.bmonAccess a) s (({ s.live with trace := { s.live.trace with
        opn := s.live.trace.opn ++ [s.live.trEnt a (some u) false false] } } : Live).watchAll s.build a)) ∧
    (s.live.trace.st = .armed → trHits s.live.trace.arm a = true → fld (wordAt s.live.trace.arm 0) 0 32 ≠ 0 →
      Gives (.bmonAccess a) s (({ s.live with trace := { s.live.trace with
        st := .counting, tft := s.live.ft, opn := s.live.trace.opn ++ [s.live.trEnt a (some u) true false],
        openTrig := true } } : Live).watchAll s.build a)) ∧
    (s.live.trace.st = .counting → trHits s.live.trace.arm a = false → trKeeps s.live.trace.arm a u = true →
      fld (wordAt s.live.trace.arm 0) 0 32 ≠ 0xFFFFFFFF →
      (1 < s.live.trace.cnt → Gives (.bmonAccess a) s (({ s.live with trace := { s.live.trace with
        cnt := s.live.trace.cnt - 1,
        opn := s.live.trace.opn ++ [s.live.trEnt a (some u) false false] } } : Live).watchAll s.build a)) ∧
      (s.live.trace.cnt = 1 → s.live.trace.slots.length < 512 →
        Gives (.bmonAccess a) s (({ s.live with trace := { s.live.trace with
          st := .stopped, cnt := 0, opn := [], openTrig := false,
          slots := s.live.trace.slots ++ [.block (s.live.trace.opn ++ [s.live.trEnt a (some u) false false])
            s.live.trace.openTrig true s.live.trace.armId s.live.trace.tft none] } } : Live).watchAll s.build a)))) ∧
  (∀ (s : State) (a : Access) (u : Nat), Monitors s → s.live.presents a.unit.toNat = some u →
    s.live.trace.st = .stopped → s.live.trace.fogHi = s.live.fogOut s.build →
    trHits s.live.trace.arm a = true ∨
      (∃ i ∈ s.live.trace.pend, a.also.toNat.testBit i = true ∧ trMask s.live.trace.arm i = true) →
    Gives (.bmonAccess a) s ((({ s.live with trace := { s.live.trace with
      pend := s.live.trace.pend.filter fun i => !a.also.toNat.testBit i } } : Live).bump s.build
        F.TRC_STAT_TRIG_IGN).watchAll s.build a)) ∧
  (∀ (w : Watch) (a : Access) (p : Nat) (me : DWord), w.en = true → a.addr = w.addr → a.size = 3 →
    (a.wr = true → w.see a p me = { w with
      val := a.data, uncert := false, held := decide (a.data &&& w.mask ≠ w.free &&& w.mask),
      owner := if a.data &&& w.mask ≠ w.free &&& w.mask then some p else none,
      waiters := w.waiters &&& ~~~me }) ∧
    (a.wr = false → w.see a p me = { w with
      waiters := if w.held then w.waiters ||| me else w.waiters &&& ~~~me })) ∧
  (∀ s : State, Served s → Monitors s →
    (4 ∉ s.live.trace.pend → Gives .swtrig s { written s with trace := { s.live.trace with
      pend := s.live.trace.pend ++ [4] } }) ∧
    (4 ∈ s.live.trace.pend → Gives .swtrig s (written s))) ∧
  (∀ (s : State) (srcs : BitVec 8) (t : Trace), Monitors s → s.live.trace.fogHi = s.live.fogOut s.build →
    t = { s.live.trace with pend := s.live.trace.pend.filter fun i => !srcs.toNat.testBit i } →
    ((∀ i ∈ s.live.trace.pend, srcs.toNat.testBit i = true → trMask s.live.trace.arm i = false) →
      Gives (.traceTriggerEvent srcs) s { s.live with trace := t }) ∧
    ((∃ i ∈ s.live.trace.pend, srcs.toNat.testBit i = true ∧ trMask s.live.trace.arm i = true) →
      (s.live.trace.st = .armed → fld (wordAt s.live.trace.arm 0) 0 32 ≠ 0 →
        Gives (.traceTriggerEvent srcs) s { s.live with
          trace := { t with st := .counting, tft := s.live.ft } }) ∧
      (s.live.trace.st = .counting ∨ s.live.trace.st = .stopped →
        Gives (.traceTriggerEvent srcs) s
          (({ s.live with trace := t } : Live).bump s.build F.TRC_STAT_TRIG_IGN)))) ∧
  (∀ s : State, Monitors s →
    Gives .bmonClockStop s { s.live with trace := { s.live.trace with
      clkStop := true, markDue := s.live.trace.markDue || s.live.trace.on,
      entryDue := s.live.trace.entryDue || (s.live.trace.on && !s.live.trace.markDue), pend := [] } }) ∧
  (∀ s : State, s.live.awake = true → s.build.form = .buoy → s.live.flag s.build F.UNIT_EN_B_BMON = true →
    s.live.trace.clkStop = true → s.live.pwr.st = .run → s.live.trace.slots.length < 511 →
    s.live.boot.bmonRst = false →
    (s.live.trace.markDue = false →
      Gives .bmonClockResume s { s.live with trace := { s.live.trace with clkStop := false } }) ∧
    (s.live.trace.markDue = true → s.live.trace.entryDue = true → s.live.trace.on = true →
      s.live.trace.opn = [] → Gives .bmonClockResume s { s.live with trace := { s.live.trace with
        clkStop := false, slots := s.live.trace.slots ++ [.mark false none, .mark true none], markDue := false,
        entryDue := false } })) ∧
  (∀ s : State, s.build.form = .buoy → s.live.trace.clkStop = true → s.live.boot.bmonRst = true →
    s.live.boot.held = false → Gives .bmonClockResume s { s.live with
      trace := { s.live.trace with clkStop := false }, boot := { s.live.boot with bmonRst := false } }) ∧
  (∀ (s : State) (v : Word) (o : Nat), Served s → s.build.form = .buoy →
    s.live.flag s.build F.UNIT_EN_B_SYNC = true → o = s.live.get s.build F.SYNC_SEL_OBJ → o < 256 →
    Tab.wf s.live.trace.watches = true → v.toNat.testBit 5 = false →
    (v.toNat.testBit 0 = false → Yields (.watchEnable v) s fun l =>
      l.watch o = { s.live.watch o with en := false } ∧ l.rf = s.live.rf) ∧
    (v.toNat.testBit 0 = true → (s.live.watch o).en = false →
      ((s.live.watch o).addr.toNat % 8 ≠ 0 →
        Gives (.watchEnable v) s ((written s).put s.build F.SYNC_CFG_REJ 1 o)) ∧
      ((s.live.watch o).addr.toNat % 8 = 0 → Yields (.watchEnable v) s fun l =>
        l.watch o = { s.live.watch o with
          en := true, val := 0, owner := none, waiters := 0, uncert := true,
          held := decide ((s.live.watch o).free &&& (s.live.watch o).mask ≠ 0) } ∧
        (∀ k : Nat, k ≠ o → l.watch k = s.live.watch k) ∧ l.rf = s.live.rf)))

/-! ### Hang dumps and replay (spec/16, spec/19) -/

/-- HANG_DUMP (R408, R409, R411, R412): at a buoy the dump is made at once, with a new number and one record of
edges at least, and E_GATED is the answer where BMON does not run (R22, R99); at a lantern it waits for the buoys
whose objects are mirrored, and is made when none is awaited any more. The reply, with the count of cycles, waits
until the records have gone to their queue. This is the completion of HANG_DUMP and HANG_SNAPSHOT. -/
def Obligations.HangDumpsAreTakenAndNumbered : Prop :=
  (∀ (s : State) (p : Packet), Takes (.hangDump p) s p 0x58 1 → p.data = [] → s.live.syncOn s.build = true →
    s.live.trace.hang.isSome = true → Runs (.hangDump p) s p fun l r => l.reply s.build r 0x07) ∧
  (∀ (s : State) (p : Packet), s.build.form = .buoy → Takes (.hangDump p) s p 0x58 1 → p.data = [] →
    s.live.syncOn s.build = true → s.live.trace.hang = none →
    (s.live.flag s.build F.UNIT_EN_B_BMON = false → Runs (.hangDump p) s p fun l r => l.reply s.build r 0x0B) ∧
    (s.live.flag s.build F.UNIT_EN_B_BMON = true → s.live.trace.clkStop = true →
      Runs (.hangDump p) s p fun l r => (l.bump s.build F.CLK_STAT_XTO_CNT).reply s.build r 0x0B) ∧
    (s.live.flag s.build F.UNIT_EN_B_BMON = true → s.live.trace.clkStop = false →
      Yields (.hangDump p) s fun l => l.trace.hangId = (s.live.trace.hangId + 1) % 65536 ∧
        l.trace.dumps = s.live.trace.dumps ++ [(retOf s p, l.trace.ncyc)] ∧
        l.cmd.busy = s.live.cmd.busy ++ [⟨retOf s p, .hangDump p⟩] ∧
        l.cmd.mgmtReplies = s.live.cmd.mgmtReplies ∧ s.live.created.length < l.created.length ∧
        (∀ x ∈ l.created.drop s.live.created.length, (x.2.ty = 0x0B ∨ x.2.ty = 0x0C) ∧ x.2.ft = s.live.ft) ∧
        (s.live.trace.watches = [] → l.trace.ncyc = 0 ∧ l.created.length = s.live.created.length + 1))) ∧
  (∀ (l : Live) (b : Build) (r : Ret) (n : Nat), l.trace.dumps = [(r, n)] →
    (l.dumpWaits b = true → l.dumpsDone b = l) ∧
    (l.dumpWaits b = false → (l.dumpsDone b).trace.dumps = [] ∧ (r.port = .mgmt →
      (l.dumpsDone b).cmd.mgmtReplies = l.cmd.mgmtReplies ++ [replyPacket r.tag r.pchk 0 n []]))) ∧
  (∀ (s : State) (p : Packet), s.build.form = .lantern → Takes (.hangDump p) s p 0x58 1 → p.data = [] →
    s.live.syncOn s.build = true → s.live.trace.hang = none →
    Yields (.hangDump p) s fun l => l.cmd.busy = s.live.cmd.busy ++ [⟨retOf s p, .hangDump p⟩] ∧
      ∃ h : Hang, l.trace = { s.live.trace with hang := some h } ∧ h.r = retOf s p ∧ h.noAns = 0 ∧ h.graphs = [] ∧
        h.waiting = (List.range 256).filter fun k => s.live.mirrors.any fun m => decide (m.1 = k)) ∧
  (∀ (s : State) (p : Packet), s.build.form = .lantern → Takes (.hangDump p) s p 0x58 1 → p.data = [] →
    s.live.syncOn s.build = true → s.live.trace.hang = none → s.live.mirrors = [] →
    Runs (.hangDump p) s p fun l r => { l with
      trace := { l.trace with hang := some ⟨r, [], 0, []⟩ },
      cmd := { l.cmd with busy := l.cmd.busy ++ [⟨r, .hangDump p⟩] } }) ∧
  (∀ (s : State) (h : Hang), s.live.awake = true → s.build.form = .lantern → s.live.trace.hang = some h →
    (h.waiting ≠ [] → Gives .hangSnapshot s s.live) ∧
    (h.waiting = [] →
      Yields .hangSnapshot s fun l => l.trace.hang = none ∧
        l.trace.hangId = (s.live.trace.hangId + 1) % 65536 ∧
        l.trace.dumps = s.live.trace.dumps ++ [(h.r, l.trace.ncyc)] ∧
        l.cmd = s.live.cmd ∧ s.live.created.length < l.created.length ∧
        (∀ x ∈ l.created.drop s.live.created.length, (x.2.ty = 0x0B ∨ x.2.ty = 0x0C) ∧ x.2.ft = s.live.ft) ∧
        (s.live.plans = [] → l.trace.ncyc = 0 ∧ l.created.length = s.live.created.length + 1)))

/-- REPLAY_CTL (R460 to R463). Mode 00 with nothing logged or replayed gives E_STATE, and ends a log with its END
record and the bytes written; mode 01 of a region that is not 8-byte aligned or below 64 bytes gives E_RANGE, of a
plan that does not run E_STATE, and otherwise logging waits for its first cut; mode 10 takes a log whose plan is
VERIFIED, and the replay ends with the bytes it has read. This is the completion of REPLAY_CTL_STOP, REPLAY_CTL_LOG,
REPLAY_CTL_REPLAY and REPLAY_FINISH. -/
def Obligations.LogsAreWrittenAndReplayed : Prop :=
  (∀ (s : State) (p : Packet), s.build.form = .lantern → Takes (.replayCtlStop p) s p 0x60 2 → p.data.length = 2 →
    p.aBits 0 2 = 0 →
    (s.live.flt.rpl.st = .off → Runs (.replayCtlStop p) s p fun l r => l.reply s.build r 0x07) ∧
    (s.live.flt.rpl.st = .logging → s.live.flt.rpl.reply = none → s.live.flt.rpl.started = false →
      p.port = .mgmt → Yields (.replayCtlStop p) s fun l =>
        l.flt.rpl.st = .off ∧ l.flt.rpl.bytes = s.live.flt.rpl.bytes + 32 ∧
        (∃ x : Rec, l.flt.rpl.recs = s.live.flt.rpl.recs ++ [x] ∧ x.ty = 0x0D ∧ rplKind x = 6) ∧
        l.cmd.mgmtReplies = s.live.cmd.mgmtReplies ++
          [replyPacket p.tag p.pchk 0 (s.live.flt.rpl.bytes + 32) []])) ∧
  (∀ (s : State) (p : Packet) (k a n : Nat), s.build.form = .lantern → Takes (.replayCtlLog p) s p 0x60 2 → p.data.length = 2 →
    p.aBits 0 2 = 1 → k = p.aBits 8 8 → a = (wordAt p.data 0).toNat → n = (wordAt p.data 1).toNat →
    s.live.rangeGated s.build a n = false →
    (a % 8 ≠ 0 ∨ n % 8 ≠ 0 ∨ n < 64 ∨ s.live.celBytes s.build < a + n →
      Runs (.replayCtlLog p) s p fun l r => l.reply s.build r 0x05) ∧
    (a % 8 = 0 → n % 8 = 0 → 64 ≤ n → n < 4294967296 → a + n ≤ s.live.celBytes s.build →
      regionsMeet (a, a + n) (s.live.queueArea s.build) = false →
      regionsMeet (a, a + n) (s.live.stageArea s.build) = false →
      s.live.meetsSeries s.build (a, a + n) 65536 = false →
      s.live.meetsCopies s.build (a, a + n) 4 = false →
      ((s.live.plan k).state ≠ .running → Runs (.replayCtlLog p) s p fun l r => l.reply s.build r 0x07) ∧
      ((s.live.plan k).state = .running → s.live.flt.rpl.st = .off →
        Runs (.replayCtlLog p) s p fun l r => ({ l with flt := { l.flt with
          rpl := { rpl0 with st := .logging, plan := k, base := a, len := n, fromT := l.ft + 1000000 } } } : Live).reply
            s.build r 0 0))) ∧
  (∀ (s : State) (p : Packet), s.build.form = .lantern → Takes (.replayCtlReplay p) s p 0x60 2 → p.data.length = 2 →
    p.aBits 0 2 = 2 →
    (s.live.rangeGated s.build (wordAt p.data 0).toNat (wordAt p.data 1).toNat = true →
      Runs (.replayCtlReplay p) s p fun l r => l.reply s.build r 0x0B) ∧
    (s.live.rangeGated s.build (wordAt p.data 0).toNat (wordAt p.data 1).toNat = false →
      s.live.flt.rpl.st ≠ .off → Runs (.replayCtlReplay p) s p fun l r => l.reply s.build r 0x07)) ∧
  (∀ (s : State) (p : Packet) (k : Nat) (a b : Rec), s.build.form = .lantern →
  Takes (.replayCtlReplay p) s p 0x60 2 → p.port = .mgmt →
    p.data.length = 2 → p.aBits 0 2 = 2 → k = p.aBits 8 8 → s.live.flt.rpl.st = .off →
    s.live.logAt (wordAt p.data 0).toNat (wordAt p.data 1).toNat = [a, b] →
    rplKind a = 1 → rplKind b = 6 → a.poison = false → b.poison = false →
    s.live.rangeGated s.build (wordAt p.data 0).toNat (wordAt p.data 1).toNat = false →
    (s.live.readLog s.build (wordAt p.data 0).toNat (a.len + b.len)).2 = false →
    fld (wordAt a.body 0) 32 10 = s.live.trunk s.build → fld (wordAt a.body 0) 8 8 = k →
    fld (wordAt a.body 1) 0 32 = (s.live.plan k).crc.toNat → (s.live.plan k).state = .verified →
    (∀ e ∈ s.live.plans, e.2.active = false) → s.live.engReady s.build (s.live.plan k).image = true →
    Tab.wf s.live.plans = true →
    Yields (.replayCtlReplay p) s fun l => l.flt.rpl.st = .replaying ∧ l.flt.rpl.plan = k ∧
      l.flt.rpl.recs = [a, b] ∧ l.flt.rpl.bytes = a.len ∧ (l.plan k).state = .verified ∧
      (l.plan k).armSeq = fld (wordAt a.body 0) 42 8 ∧
      l.cmd.mgmtReplies = s.live.cmd.mgmtReplies ++ [replyPacket p.tag p.pchk 0 0 []]) ∧
  (∀ (s : State), s.live.awake = true →
    (s.live.flt.rpl.st ≠ .replaying → Gives .replayFinish s s.live) ∧
    (∀ r : Ret, s.live.flt.rpl.st = .replaying → s.live.rplNext = none →
      (s.live.plan s.live.flt.rpl.plan).due = [] → (s.live.plan s.live.flt.rpl.plan).occs = [] →
      s.live.flt.rpl.reply = some r → r.port = .mgmt →
      Yields .replayFinish s fun l => l.flt.rpl.st = .off ∧ l.flt.rpl.recs = s.live.flt.rpl.recs ∧
        l.rf = s.live.rf ∧ l.cmd.mgmtReplies = s.live.cmd.mgmtReplies ++
          [replyPacket r.tag r.pchk 0 s.live.flt.rpl.bytes []]))

/-! ### Copies and restore (spec/19) -/

/-- Partner copies and the restore of series (R448 to R452). A holder takes definitions and blocks of its partner
into the region of the entry, and counts a block outside it in COPY_STAT.DROP; a request is answered with the
definitions, the blocks and a DONE; GO with a plan active, a series enabled or a restore running is refused; DONE,
or the time-out, ends the restore, and series that are not restored start again, empty and with the next GEN. This
is the completion of COPY_RECORD_RECEIVE, PCOPY_ENABLE, RESTORE_REQ_RECEIVE, RESTORE_GO, RESTORE_RECORD_RECEIVE,
RESTORE_DONE and RESTORE_TIMEOUT. -/
def Obligations.CopiesAreKeptAndRestored : Prop :=
  (∀ (s : State) (n : BitVec 5) (r : Rec) (k : Nat), s.live.copyHere s.build n r = true →
    s.live.flt.rest = none → s.live.holdsFor s.build (r.src.toNat / 256) = some k →
    Tab.wf s.live.flt.regions = true → Tab.wf (s.live.region s.build k).defs = true →
    Tab.wf (s.live.region s.build k).blks = true →
    (rplKind r = 0x11 → Yields (.copyRecordReceive n r) s fun l =>
      Tab.find? (l.region s.build k).defs (copySer r) = some (defEnt (r.body.drop 1)) ∧
      (l.region s.build k).blks = (s.live.region s.build k).blks ∧ l.rf = s.live.rf) ∧
    (∀ o : Nat, rplKind r = 0x10 → s.live.copyOfs s.build k (wordAt r.body 1).toNat = some o →
      Yields (.copyRecordReceive n r) s fun l =>
        Tab.find? (l.region s.build k).blks o = some ⟨r.body.drop 2, r.poison⟩ ∧ l.rf = s.live.rf) ∧
    (rplKind r = 0x10 → s.live.copyOfs s.build k (wordAt r.body 1).toNat = none →
      Gives (.copyRecordReceive n r) s (s.live.bump s.build F.COPY_STAT_DROP))) ∧
  (∀ (s : State) (k : BitVec 2) (v : Word), Served s → s.build.form = .lantern → Tab.wf s.live.rf = true →
    (v.toNat.testBit 10 = false → Yields (.pcopyEnable k v) s fun l =>
      l.get s.build F.PCOPY_TRUNK k.toNat = v.toNat % 1024 ∧ l.flag s.build F.PCOPY_VALID k.toNat = false ∧
      l.flt = s.live.flt) ∧
    (v.toNat.testBit 10 = true → s.live.flag s.build F.PCOPY_VALID k.toNat = false →
      s.live.celBytes s.build < (s.live.copyRegion s.build k.toNat).2 →
      Yields (.pcopyEnable k v) s fun l => l.flag s.build F.PCOPY_VALID k.toNat = false ∧
        l.get s.build F.COPY_STAT_REJ = 1)) ∧
  (∀ (s : State) (n : BitVec 5) (r : Rec) (t : Nat), s.live.copyHere s.build n r = true → rplKind r = 0x12 →
    r.poison = false → t = r.src.toNat / 256 → s.live.holdsFor s.build t = none →
    Yields (.restoreReqReceive n r) s fun l => l.created.length = s.live.created.length + 1 ∧
      (∀ x ∈ l.created.drop s.live.created.length, x.2.ty = 0x0D ∧
        x.2.body = [packW [(0, 0x13), (16, t), (32, 0)]]) ∧ l.rf = s.live.rf) ∧
  (∀ (s : State) (n : BitVec 5) (r : Rec) (t k : Nat), s.live.copyHere s.build n r = true → rplKind r = 0x12 →
    r.poison = false → t = r.src.toNat / 256 → s.live.holdsFor s.build t = some k →
    Yields (.restoreReqReceive n r) s fun l => l.created.take s.live.created.length = s.live.created ∧
      (l.created.drop s.live.created.length).dropLast.map (fun x => (rplKind x.2, copySer x.2)) =
        ((s.live.region s.build k).defs.flatMap fun e =>
          (0x11, e.1 % 65536) :: e.2.window.map fun _ => (0x10, e.1 % 65536)) ∧
      l.created.getLast?.map (·.2.body) =
        some [packW [(0, 0x13), (16, t), (32, (s.live.region s.build k).defs.length)]] ∧
      l.flt = s.live.flt ∧ l.ser = s.live.ser) ∧
  (∀ (s : State) (v : Word), Served s → s.build.form = .lantern → Tab.wf s.live.rf = true →
    v.toNat.testBit 10 = true →
    ((s.live.ser.sers.any fun e => e.2.on) = true ∨ (s.live.plans.any fun e => e.2.active) = true ∨
        s.live.flt.rest.isSome = true → Yields (.restoreGo v) s fun l =>
      l.get s.build F.REST_STAT_REJ = 1 ∧ l.flt = s.live.flt ∧ l.created = s.live.created) ∧
    ((∀ e ∈ s.live.ser.sers, e.2.on = false) → (∀ e ∈ s.live.plans, e.2.active = false) →
      s.live.flt.rest = none → Yields (.restoreGo v) s fun l =>
        l.flt = { s.live.flt with
          rest := some ⟨[], [], []⟩, restState := 1, restored := 0, restarted := 0 } ∧
        l.created.length = s.live.created.length + 1 ∧
        (∀ x ∈ l.created.drop s.live.created.length, x.2.ty = 0x0D ∧
          x.2.body = [packW [(0, 0x12), (16, v.toNat % 1024), (32, 0)]]))) ∧
  (∀ (s : State) (n : BitVec 5) (r : Rec) (q : Restore), s.live.copyHere s.build n r = true →
    s.live.fromHolder s.build r = true → s.live.flt.rest = some q →
    (rplKind r = 0x11 → r.poison = false → copySer r ∉ q.restored → q.blks = [] →
      (defEnt (r.body.drop 1)).window ≠ [] →
      Gives (.restoreRecordReceive n r) s { s.live with flt := { s.live.flt with
        rest := some { q with defs := Tab.insert q.defs (copySer r) (defEnt (r.body.drop 1)) } } }) ∧
    (rplKind r = 0x13 → q.defs = [] → Gives (.restoreDone n r) s
      (({ s.live with flt := { s.live.flt with rest := none, restState := 2, restarted := 0 } } : Live).logE s.build
        0x110A 1 [s.live.flt.restored]))) ∧
  (∀ (s : State), s.live.awake = true →
    (s.live.flt.rest = none → Gives .restoreTimeout s s.live) ∧
    (∀ q : Restore, s.live.flt.rest = some q → Yields .restoreTimeout s fun l =>
      l.flt.rest = none ∧ l.flt.restState = 3 ∧
      l.flt.restarted = (q.defs.filter fun e => decide (e.1 ∉ q.restored)).length ∧
      (Tab.wf q.defs = true → Tab.wf s.live.ser.sers = true → Tab.wf s.live.gens = true →
        ∀ e ∈ q.defs, e.1 ∉ q.restored →
          l.sery e.1 = { ser0 with on := true } ∧ l.gen e.1 = (e.2.gen + 1) % 256)))

/-! ### Plans (spec/09) -/

/-- PLAN_VERIFY, PLAN_ABORT and PLAN_TEARDOWN (R167, R243, R249, R250). PLAN_VERIFY of an entry that is neither
LOADED nor VERIFIED gives E_STATE; a failing check makes the entry LOADED and gives its status and offset; a passing
entry becomes VERIFIED and is answered at once where no buoy is named, and else once the in-band PLAN_VERIFY to each
named buoy is answered. PLAN_ABORT of an entry that is not ARMING, ARMED or RUNNING gives E_STATE; otherwise the
entry becomes VERIFIED, its comparators are free, the root broadcasts ABORT, and ARG holds the last epoch whose
results left. PLAN_TEARDOWN of LEN 0 empties an entry that is LOADING, LOADED or VERIFIED and gives E_STATE for any
other; of LEN 1 a buoy arms D for an ARMED or RUNNING plan, in place of a later count only. This is the completion
of PLAN_VERIFY, PLAN_ABORT and PLAN_TEARDOWN. -/
def Obligations.PlanCommandsFollowTheEntry : Prop :=
  ∀ (s : State) (p : Packet) (k : Nat) (d : Word) (x : Plan), k = p.aBits 0 8 → x = s.live.plan k →
    d = BitVec.ofNat 32 (fld (wordAt p.data 0) 0 32) → Tab.wf s.live.plans = true →
    (Takes (.planVerify p) s p 0x11 1 → p.data = [] →
      (x.state ≠ .loaded → x.state ≠ .verified →
        Runs (.planVerify p) s p fun l r => l.reply s.build r 0x07) ∧
      (x.state = .loaded ∨ x.state = .verified → x.collecting = false → s.live.bad (.plan k) = false →
        (∀ e : Nat × Nat, s.build.form = .buoy → secBad x.image k = some e →
          Runs (.planVerify p) s p fun l r =>
            (l.setPlan k { x with state := .loaded }).reply s.build r e.1 e.2) ∧
        (s.build.form = .buoy → secBad x.image k = none → s.live.ownedBad s.build k = none →
          Runs (.planVerify p) s p fun l r =>
            (l.setPlan k { x with state := .verified }).reply s.build r 0 0xFFFFFFFF) ∧
        (∀ e : Nat × Nat, s.build.form = .lantern → s.live.imgBad s.build k = some e →
          Runs (.planVerify p) s p fun l r =>
            (l.setPlan k { x with state := .loaded }).reply s.build r e.1 e.2) ∧
        (s.build.form = .lantern → s.live.imgBad s.build k = none → imgNamed x.image = [] →
          Runs (.planVerify p) s p fun l r =>
            (({ l with table := x.image } : Live).setPlan k { x with state := .verified, buoyOk := [] }).reply
              s.build r 0 0xFFFFFFFF) ∧
        (s.build.form = .lantern → s.live.imgBad s.build k = none → imgNamed x.image ≠ [] →
          Yields (.planVerify p) s fun l => l.plan k = { x with
              state := .verified, buoyOk := [], coll := ⟨imgNamed x.image, 0⟩,
              verifyReply := some (retOf s p) } ∧
            l.cmd.busy = s.live.cmd.busy ++ [⟨(retOf s p), .planVerify p⟩] ∧
            l.cmd.fwd.length = s.live.cmd.fwd.length + (imgNamed x.image).length ∧
            l.cmd.mgmtReplies = s.live.cmd.mgmtReplies))) ∧
    (Takes (.planAbort p) s p 0x13 1 → p.data = [] →
      (x.active = false → Runs (.planAbort p) s p fun l r => l.reply s.build r 0x07) ∧
      (x.active = true → k ≠ 0 → x.armReply = none → x.cutReplies = [] → s.live.flt.rpl.st = .off →
        (∀ e ∈ s.live.plans, e.2.cond ≠ some k) → imgNamed x.image = [] → p.port = .mgmt →
        (∀ n : Nat, imgBcastLinks x.image = [n] → s.live.isRoot s.build x = true →
          (s.live.link n).pln = [] →
          Yields (.planAbort p) s fun l =>
            (l.plan k).state = .verified ∧ (l.plan k).image = x.image ∧ (l.plan k).tdEn = false ∧
            (∀ j : Nat, j ≠ k → l.plan j = s.live.plan j) ∧ (∀ c ∈ l.time.cmps, c.owner.plan ≠ k) ∧
            (l.link n).ctl = (s.live.link n).ctl ++
              [⟨(ctlMsg x k 4 0 0 0 (packW [(0, 0x0C)])).unit, none, none, 0, s.live.ft, none⟩] ∧
            l.cmd.mgmtReplies = s.live.cmd.mgmtReplies ++ [replyPacket p.tag p.pchk 0 x.done []]) ∧
        (s.live.isRoot s.build x = false →
          Yields (.planAbort p) s fun l =>
            l.plan k = x.ended ∧ (∀ j : Nat, j ≠ k → l.plan j = s.live.plan j) ∧
            (∀ c ∈ l.time.cmps, c.owner.plan ≠ k) ∧ l.created = s.live.created ∧
            (∀ n : Nat, (l.link n).ctl = (s.live.link n).ctl) ∧
            l.cmd.mgmtReplies = s.live.cmd.mgmtReplies ++ [replyPacket p.tag p.pchk 0 x.done []]))) ∧
    (Takes (.planTeardown p) s p 0x14 1 → p.data = [] →
      (x.state = .loading ∨ x.state = .loaded ∨ x.state = .verified → x.collecting = false →
        Runs (.planTeardown p) s p fun l r => (l.setPlan k plan0).reply s.build r 0 k) ∧
      (x.state = .empty ∨ x.active = true →
        Runs (.planTeardown p) s p fun l r => l.reply s.build r 0x07)) ∧
    (Takes (.planTeardown p) s p 0x14 1 → p.data.length = 1 →
      (x.owns = false → Runs (.planTeardown p) s p fun l r => l.reply s.build r 0x07) ∧
      (s.build.form = .lantern → s.live.isRoot s.build x = false →
        Runs (.planTeardown p) s p fun l r => l.reply s.build r 0x07) ∧
      (x.tdEn = true → 0 < ftDiff d x.d →
        Runs (.planTeardown p) s p fun l r => l.reply s.build r 0x07) ∧
      (s.build.form = .buoy → x.owns = true → s.live.timed = true → (x.tdEn = true → ftDiff d x.d ≤ 0) →
        (s.live.inWindow d = false →
          Runs (.planTeardown p) s p fun l r => l.reply s.build r 0x06) ∧
        (s.live.inWindow d = true → s.live.holdsCmp (.teardown k) = false → s.live.cmpFree s.build = false →
          Runs (.planTeardown p) s p fun l r => l.reply s.build r 0x0A) ∧
        (s.live.inWindow d = true → s.live.holdsCmp (.teardown k) = true ∨ s.live.cmpFree s.build = true →
          (x.tdEn = true → d ≠ x.d) →
          Runs (.planTeardown p) s p fun l r => (({ l with time := { l.time with
              cmps := (l.time.cmps.filter fun c => decide (c.owner ≠ .teardown k)) ++
                [⟨.teardown k, d, 0⟩] } } : Live).setPlan k
            { x with tdEn := true, d := d, cond := none }).reply s.build r 0 k)))

/-- PLAN_ARM (R106, R113, R125, R126, R245, R246). At a buoy: a gated unit of the plan gives E_GATED; a D that does
not lie after S E_RANGE; an entry that is not VERIFIED, or a time state that is neither LOCKED nor HOLDOVER,
E_STATE; an S outside R125 E_TIME; too few comparators E_SLOT; otherwise the entry is ARMED with its counts in
comparators. At the root, besides: an S that is no cell boundary gives E_RANGE, a cleared GRID_EN E_STATE, an S less
than 60 ms away E_TIME; otherwise ARM_SEQ goes up, the entry is ARMING, ARM is broadcast and the command waits. A
buoy whose CUTVEC queue would hold the cut vector back gives E_STATE, and its plan takes the free quiet-window sets
it names. CUT_AT (R199 to R201): a buoy takes it for an ARMED or RUNNING plan with CMDCUT and an epoch later than
the last it latched; the root gives it the next epoch, arms it, broadcasts CUTCALL and waits. This is the completion
of PLAN_ARM and CUT_AT. -/
def Obligations.PlansAreArmedAndCutByCommand : Prop :=
  ∀ (s : State) (p : Packet) (k : Nat) (st d : Word) (td : Bool) (x : Plan), k = p.aBits 0 8 →
    x = s.live.plan k → Tab.wf s.live.plans = true → Tab.wf s.live.links = true → k ≠ 0 →
    st = BitVec.ofNat 32 (fld (wordAt p.data 0) 0 32) → d = BitVec.ofNat 32 (fld (wordAt p.data 0) 32 32) →
    td = bit (wordAt p.data 1) 0 →
    (Takes (.planArm p) s p 0x12 1 → p.data.length = 2 → s.live.planGated s.build x = true →
      Runs (.planArm p) s p fun l r => l.reply s.build r 0x0B) ∧
    (Takes (.planArm p) s p 0x12 1 → p.data.length = 2 → s.live.planGated s.build x = false → td = true → ftDiff d st ≤ 0 →
      Runs (.planArm p) s p fun l r => l.reply s.build r 0x05) ∧
    (Takes (.planArm p) s p 0x12 1 → p.data.length = 2 → s.live.planGated s.build x = false → s.build.form = .buoy →
      (td = true → 0 < ftDiff d st) →
      (x.state ≠ .verified ∨ s.live.timed = false →
        Runs (.planArm p) s p fun l r => l.reply s.build r 0x07) ∧
      (s.live.cutvecHeld s.build x.image = true →
        Runs (.planArm p) s p fun l r => l.reply s.build r 0x07) ∧
      (x.state = .verified → s.live.timed = true → x.collecting = false →
        s.live.cutvecHeld s.build x.image = false →
        (s.live.inWindow st = false → Runs (.planArm p) s p fun l r => l.reply s.build r 0x06) ∧
        (s.live.inWindow st = true → (td = true → s.live.inWindow d = true) →
          (32 < s.live.cmpUsed + 1 + b2n td ∨ s.live.armClash s.build k st = true →
            Runs (.planArm p) s p fun l r => l.reply s.build r 0x0A) ∧
          (s.live.cmpUsed + 1 + b2n td ≤ 32 → s.live.activeCount < 16 → s.live.bad (.plan k) = false →
            s.live.armClash s.build k st = false → Tab.wf s.live.qws = true →
            s.live.holdsCmp (.start k) = false → s.live.holdsCmp (.teardown k) = false → p.port = .mgmt →
            Yields (.planArm p) s fun l => l.plan k = { x with
                state := .armed, s := st, d := d, tdEn := td, epochNext := 0, lastLatched := none,
                lastT := none } ∧
              (∀ j : Nat, j ≠ k → l.plan j = s.live.plan j) ∧
              l.time.cmps = s.live.time.cmps ++ [⟨.start k, st, 0⟩] ++
                (if td then [⟨.teardown k, d, 0⟩] else []) ∧
              (∀ j : Nat, l.qw j = (if (s.live.qw j).owner = 0 ∧ j ∈ (secQw x.image).map (·.set) then
                { s.live.qw j with owner := k } else s.live.qw j)) ∧
              l.cmd.mgmtReplies = s.live.cmd.mgmtReplies ++ [replyPacket p.tag p.pchk 0 k []])))) ∧
    (Takes (.planArm p) s p 0x12 1 → p.data.length = 2 → s.live.planGated s.build x = false → s.build.form = .lantern →
      td = false →
      (s.live.flag s.build F.SCH_CTL_GRID_EN = true → s.live.cellBoundary s.build st = false →
        Runs (.planArm p) s p fun l r => l.reply s.build r 0x05) ∧
      (s.live.flag s.build F.SCH_CTL_GRID_EN = false →
        Runs (.planArm p) s p fun l r => l.reply s.build r 0x07) ∧
      (s.live.flag s.build F.SCH_CTL_GRID_EN = true → s.live.cellBoundary s.build st = true →
        (s.live.isRoot s.build x = false → Runs (.planArm p) s p fun l r => l.reply s.build r 0x07) ∧
        (s.live.isRoot s.build x = true → x.state = .verified → s.live.timed = true → x.collecting = false →
          s.live.engReady s.build x.image = true →
          ((st - s.live.ft).toNat < 60000000 → Runs (.planArm p) s p fun l r => l.reply s.build r 0x06) ∧
          (60000000 ≤ (st - s.live.ft).toNat → s.live.inWindow st = true →
            s.live.armSlot s.build k st false = false → s.live.bad (.plan k) = false → x.buoyOk = [] →
            ∀ n : Nat, imgBcastLinks x.image = [n] →
            Yields (.planArm p) s fun l => (l.plan k).state = .arming ∧
              (l.plan k).armSeq = (x.armSeq + 1) % 256 ∧ (l.plan k).s = st ∧ (l.plan k).tdEn = false ∧
              (l.plan k).armReply = some (retOf s p) ∧ (l.plan k).lant = 1 ∧
              (∀ j : Nat, j ≠ k → l.plan j = s.live.plan j) ∧
              (⟨.start k, st, 0⟩ : Cmp) ∈ l.time.cmps ∧
              (l.link n).ctl = (s.live.link n).ctl ++
                [⟨(ctlMsg { x with armSeq := (x.armSeq + 1) % 256 } k 1 st.toNat d.toNat 0 0).unit, none,
                  none, 0, s.live.ft, none⟩] ∧
              l.cmd.busy = s.live.cmd.busy ++ [⟨(retOf s p), .planArm p⟩] ∧
              l.cmd.mgmtReplies = s.live.cmd.mgmtReplies)))) ∧
    (∀ e : Nat, Takes (.cutAt p) s p 0x18 1 → p.data.length = 1 → s.build.form = .buoy →
      e = fld (wordAt p.data 0) 32 16 →
      (∀ q : Nat, x.lastLatched = some q → x.owns = true → epochLater e q = false →
        Runs (.cutAt p) s p fun l r => l.reply s.build r 0x05) ∧
      ((∀ q : Nat, x.lastLatched = some q → epochLater e q = true) →
        (x.owns = false ∨ secCmdCut x.image = false ∨ s.live.timed = false →
          Runs (.cutAt p) s p fun l r => l.reply s.build r 0x07) ∧
        (x.owns = true → secCmdCut x.image = true → s.live.timed = true →
          (s.live.inWindow st = false → Runs (.cutAt p) s p fun l r => l.reply s.build r 0x06) ∧
          (s.live.inWindow st = true → s.live.cmpFree s.build = false →
            Runs (.cutAt p) s p fun l r => l.reply s.build r 0x0A) ∧
          (s.live.inWindow st = true → s.live.cmpFree s.build = true →
            s.live.holdsCmp (.cut k e) = false →
            Runs (.cutAt p) s p fun l r => (({ l with time := { l.time with
                cmps := s.live.time.cmps ++ [⟨.cut k e, st, 0⟩] } } : Live).setPlan k
              { x with pendCuts := x.pendCuts ++ [(st, e)] }).reply s.build r 0 e)))) ∧
    (Takes (.cutAt p) s p 0x18 1 → p.data.length = 1 → s.build.form = .lantern →
      (∀ q : Word, x.lastT = some q → ftDiff st q < 500000 →
        Runs (.cutAt p) s p fun l r => l.reply s.build r 0x05) ∧
      ((∀ q ∈ x.lastT, 500000 ≤ ftDiff st q) →
        (x.owns = false ∨ imgCmdCut x.image = false ∨ s.live.isRoot s.build x = false ∨
          (x.tdEn = true ∧ ftDiff x.d st ≤ 0) →
          Runs (.cutAt p) s p fun l r => l.reply s.build r 0x07) ∧
        (x.owns = true → imgCmdCut x.image = true → s.live.isRoot s.build x = true → s.live.timed = true →
          x.tdEn = false →
          ((st - s.live.ft).toNat < 2000000 ∨ 2000000000 < (st - s.live.ft).toNat →
            Runs (.cutAt p) s p fun l r => l.reply s.build r 0x06) ∧
          (2000000 ≤ (st - s.live.ft).toNat → (st - s.live.ft).toNat ≤ 2000000000 →
            (4 ≤ x.pendCuts.length ∨ s.live.cmpFree s.build = false →
              Runs (.cutAt p) s p fun l r => l.reply s.build r 0x0A) ∧
            (x.pendCuts.length < 4 → s.live.cmpFree s.build = true → imgNamed x.image = [] →
              x.cutReplies = [] → x.armReply = none → x.epochNext < 65536 →
              ∀ n : Nat, imgBcastLinks x.image = [n] →
              Yields (.cutAt p) s fun l => (l.plan k).pendCuts = x.pendCuts ++ [(st, x.epochNext)] ∧
                (l.plan k).epochNext = (x.epochNext + 1) % 65536 ∧ (l.plan k).lastT = some st ∧
                (l.plan k).cutReplies = [((retOf s p), x.epochNext)] ∧
                (∀ j : Nat, j ≠ k → l.plan j = s.live.plan j) ∧
                (⟨.cut k x.epochNext, st, 0⟩ : Cmp) ∈ l.time.cmps ∧
                (l.link n).ctl = (s.live.link n).ctl ++
                  [⟨(ctlMsg x k 6 st.toNat x.epochNext 0 0).unit, none, none, 0, s.live.ft, none⟩] ∧
                l.cmd.busy = s.live.cmd.busy ++ [⟨(retOf s p), .cutAt p⟩] ∧
                l.cmd.mgmtReplies = s.live.cmd.mgmtReplies)))))

/-- Broadcast messages (R200, R244, R246, R248 to R250). A later copy is only counted in DUP_CTL. A first one is
forwarded on the child links of both trees, here one link, and by a lantern without an image on none. ARM: a lantern
whose checks hold is ARMING, and with no child and no buoy to wait for reports one lantern armed; else it logs
0x0703 and reports one refusing. GO: ARMING becomes ARMED. ABORT: the copy is VERIFIED. TEARDOWN: D is armed;
without a comparator the copy is aborted and 0x0706 logged. CUTCALL: the cut is armed; without a comparator the
lantern takes no part. A message of another ARM_SEQ first ends the plan that is held. This is the completion of
ARM_RECEIVE, GO_RECEIVE, ABORT_RECEIVE, TEARDOWN_RECEIVE and CUTCALL_RECEIVE. -/
def Obligations.FleetMessagesAreForwardedOnceAndActedOn : Prop :=
  ∀ (s : State) (n : BitVec 5) (m : CtlMsg) (p k e : Nat) (x : Plan) (t d : Word) (fw : LinkItem),
    s.build.form = .lantern → s.live.awake = true → s.live.isUp n.toNat = true → p = m.plan →
    x = s.live.plan p → t = BitVec.ofNat 32 m.c1 → d = BitVec.ofNat 32 m.c2 → e = m.c2 % 65536 →
    fw = ⟨m.unit, none, none, 0, s.live.ft, none⟩ → Tab.wf s.live.plans = true → Tab.wf s.live.links = true →
    (m.kind = 1 → (1, m.armSeq, 0) ∈ x.seen →
      Gives (.armReceive n m) s (s.live.bump s.build F.SCH_ERR_DUP_CTL)) ∧
    (m.kind = 3 → (3, m.armSeq, 0) ∈ x.seen →
      Gives (.goReceive n m) s (s.live.bump s.build F.SCH_ERR_DUP_CTL)) ∧
    (m.kind = 4 → fld m.w3 0 32 ≠ 0x08 → (4, m.armSeq, 0) ∈ x.seen →
      Gives (.abortReceive n m) s (s.live.bump s.build F.SCH_ERR_DUP_CTL)) ∧
    (m.kind = 5 → (5, m.armSeq, 0) ∈ x.seen →
      Gives (.teardownReceive n m) s (s.live.bump s.build F.SCH_ERR_DUP_CTL)) ∧
    (m.kind = 6 → (6, m.armSeq, e) ∈ x.seen →
      Gives (.cutcallReceive n m) s (s.live.bump s.build F.SCH_ERR_DUP_CTL)) ∧
    (m.kind = 1 → (1, m.armSeq, 0) ∉ x.seen → imgBcastLinks x.image = [k] → x.active = false →
      x.buoyOk = [] → imgKids x.image = [] → s.live.isRoot s.build x = false → ∀ u : Nat, upLink x.image = some u →
      u ≠ k →
      (s.live.armMsgErr s.build p m.setId t d (bit m.w2 0) = none →
        Yields (.armReceive n m) s fun l => (l.plan p).state = .arming ∧ (l.plan p).s = t ∧
          (l.plan p).armSeq = m.armSeq ∧ (l.plan p).tdEn = bit m.w2 0 ∧
          (⟨.start p, t, 0⟩ : Cmp) ∈ l.time.cmps ∧ (∀ j : Nat, j ≠ p → l.plan j = s.live.plan j) ∧
          (l.link k).ctl = (s.live.link k).ctl ++ [fw] ∧
          (l.link u).ctl = (s.live.link u).ctl ++ [⟨(ctlMsg { x with armSeq := m.armSeq } p 2 0 0
            (packW [(0, 1), (32, 0)]) 0).unit, none, none, 0, s.live.ft, none⟩]) ∧
      (∀ w : Nat, s.live.armMsgErr s.build p m.setId t d (bit m.w2 0) = some w → w ≠ 0x08 →
        Yields (.armReceive n m) s fun l => (l.plan p).state = x.state ∧ (l.plan p).image = x.image ∧
          l.time.cmps = s.live.time.cmps ∧ l.log = (s.live.logE s.build 0x0703 2 [] p w).log ∧
          (∀ j : Nat, j ≠ p → l.plan j = s.live.plan j) ∧
          (l.link k).ctl = (s.live.link k).ctl ++ [fw] ∧
          (l.link u).ctl = (s.live.link u).ctl ++ [⟨(ctlMsg { x with armSeq := m.armSeq } p 2 0 0
            0 (packW [(0, 1)])).unit, none, none, 0, s.live.ft, none⟩])) ∧
    (m.kind = 3 → (3, m.armSeq, 0) ∉ x.seen → x.state = .arming → s.live.flt.rpl.st = .off →
      (x.armSeq = m.armSeq → imgBcastLinks x.image = [k] → s.live.bad (.plan p) = false →
        Yields (.goReceive n m) s fun l => (l.plan p).state = .armed ∧ (l.plan p).s = x.s ∧
          l.time = s.live.time ∧ (l.link k).ctl = (s.live.link k).ctl ++ [fw] ∧
          (∀ j : Nat, j ≠ p → l.plan j = s.live.plan j) ∧ (∀ j : Nat, j ≠ k → l.link j = s.live.link j)) ∧
      (x.armSeq ≠ m.armSeq → imgNamed x.image = [] → x.armReply = none → x.cutReplies = [] →
        Yields (.goReceive n m) s fun l => (l.plan p).state = .verified ∧ (l.plan p).image = x.image ∧
          l.log = (s.live.logE s.build 0x0702 2 [x.armSeq, m.armSeq] p).log)) ∧
    (m.kind = 3 → (3, m.armSeq, 0) ∉ x.seen → x.image = [] → x.active = false →
      Yields (.goReceive n m) s fun l => l.links = s.live.links ∧ (l.plan p).state = x.state) ∧
    (m.kind = 4 → (4, m.armSeq, 0) ∉ x.seen → fld m.w3 0 32 ≠ 0x08 → x.active = true →
      x.armSeq = m.armSeq → imgBcastLinks x.image = [k] → imgNamed x.image = [] → p ≠ 0 →
      s.live.flt.rpl.st = .off → x.armReply = none → x.cutReplies = [] →
      (∀ a ∈ s.live.plans, a.2.cond ≠ some p) →
      Yields (.abortReceive n m) s fun l => (l.plan p).state = .verified ∧ (l.plan p).image = x.image ∧
        (∀ c ∈ l.time.cmps, c.owner.plan ≠ p) ∧ (l.link k).ctl = (s.live.link k).ctl ++ [fw] ∧
        (∀ j : Nat, j ≠ p → l.plan j = s.live.plan j)) ∧
    (m.kind = 5 → (5, m.armSeq, 0) ∉ x.seen → x.active = true → x.armSeq = m.armSeq →
      imgBcastLinks x.image = [k] → imgNamed x.image = [] → s.live.flt.rpl.st = .off →
      (x.tdEn = true → ftDiff t x.d < 0) →
      (s.live.holdsCmp (.teardown p) = true ∨ s.live.cmpFree s.build = true →
        Yields (.teardownReceive n m) s fun l => (l.plan p).state = x.state ∧ (l.plan p).tdEn = true ∧
          (l.plan p).d = t ∧ (l.plan p).cond = (if bit m.w2 1 then some (fld m.w2 8 8) else none) ∧
          l.time.cmps = (s.live.time.cmps.filter fun c => decide (c.owner ≠ .teardown p)) ++
            [⟨.teardown p, t, 0⟩] ∧
          (l.link k).ctl = (s.live.link k).ctl ++ [fw]) ∧
      (s.live.holdsCmp (.teardown p) = false → s.live.cmpFree s.build = false → x.armReply = none →
        x.cutReplies = [] →
        Yields (.teardownReceive n m) s fun l => (l.plan p).state = .verified ∧
          l.log = (s.live.logE s.build 0x0706 3 [t.toNat] p 0x0A).log ∧
          (l.link k).ctl = (s.live.link k).ctl ++ [fw])) ∧
    (m.kind = 6 → (6, m.armSeq, e) ∉ x.seen → x.owns = true → x.armSeq = m.armSeq →
      imgBcastLinks x.image = [k] → imgNamed x.image = [] → s.live.flt.rpl.st = .off →
      (s.live.cmpFree s.build = true → s.live.holdsCmp (.cut p e) = false → s.live.bad (.plan p) = false →
        Yields (.cutcallReceive n m) s fun l => (l.plan p).pendCuts = x.pendCuts ++ [(t, e)] ∧
          (l.plan p).state = x.state ∧ l.time.cmps = s.live.time.cmps ++ [⟨.cut p e, t, 0⟩] ∧
          (l.link k).ctl = (s.live.link k).ctl ++ [fw]) ∧
      (s.live.cmpFree s.build = false →
        Yields (.cutcallReceive n m) s fun l => (l.plan p).pendCuts = x.pendCuts ∧
          l.time = s.live.time ∧ (l.link k).ctl = (s.live.link k).ctl ++ [fw]))

/-- What climbs to the root, and how a plan launches and ends (R124, R240, R246 to R250, R434, R444 to R446). A
REPORT of a child adds to the counts, and the last one releases the own REPORT; at S − 51 ms it leaves with what is
held. At S − 50 ms the root sends GO when every VALID lantern is armed and none refuses, and else ABORT; a lantern
still ARMING at S − 10 ms aborts with 0x0704. At S an ARMED plan is RUNNING and a periodic one arms its first cut;
at D it is VERIFIED. An upward ABORT and a LOSS go on to the parent once; at the root the first ends the plan and
the second enters the lost set. A write of SCH_CTL enables the grid when its origin passes R125, and else sets
GRID_REJ. This is the completion of REPORT_RECEIVE, REPORT_DEADLINE, GO_DECISION, ARMING_TIMEOUT, PLAN_START,
PLAN_TEARDOWN_REACHED, UPWARD_ABORT_RECEIVE, LOSS_RECEIVE and GRID_ENABLE. -/
def Obligations.PlansLaunchAndEndTogether : Prop :=
  (∀ (s : State) (n : BitVec 5) (m : CtlMsg) (p u : Nat) (x : Plan) (kid : Nat × Nat × Child),
    s.build.form = .lantern → s.live.awake = true → s.live.isUp n.toNat = true → m.kind = 2 → p = m.plan →
    x = s.live.plan p → Tab.wf s.live.plans = true → Tab.wf s.live.links = true →
    (x.state = .arming → x.armSeq = m.armSeq → s.live.bad (.plan p) = false → imgKids x.image = [kid] →
    kid.2.2.link = n.toNat →
      x.reported = [] → x.sentReport = false → s.live.isRoot s.build x = false → x.coll.waiting = [] →
      upLink x.image = some u →
      Yields (.reportReceive n m) s fun l => (l.plan p).lant = x.lant + fld m.w2 0 32 ∧
        (l.plan p).buoy = x.buoy + fld m.w2 32 32 ∧ (l.plan p).nogo = x.nogo + fld m.w3 0 32 ∧
        (l.plan p).sentReport = true ∧ (l.link u).ctl = (s.live.link u).ctl ++
          [⟨(ctlMsg x p 2 0 0 (packW [(0, x.lant + fld m.w2 0 32),
              (32, x.buoy + fld m.w2 32 32 + x.coll.ok)]) (packW [(0, x.nogo + fld m.w3 0 32)])).unit, none,
            none, 0, s.live.ft, none⟩]) ∧
    (x.active = false → (∀ c ∈ imgKids x.image, c.2.2.link ≠ n.toNat) →
      Gives (.reportReceive n m) s s.live)) ∧
  (∀ (s : State) (plan : BitVec 8) (p u : Nat) (x : Plan), s.build.form = .lantern → s.live.awake = true →
    p = plan.toNat → x = s.live.plan p → Tab.wf s.live.plans = true → Tab.wf s.live.links = true →
    (reached s.live.ft (x.s - 51000000) = false → Gives (.reportDeadline plan) s s.live) ∧
    (reached s.live.ft (x.s - 51000000) = true → x.state = .arming → x.sentReport = false →
      s.live.isRoot s.build x = false → upLink x.image = some u →
      Yields (.reportDeadline plan) s fun l => l.plan p = { x with sentReport := true } ∧
        (l.link u).ctl = (s.live.link u).ctl ++ [⟨(ctlMsg x p 2 0 0
          (packW [(0, x.lant), (32, x.buoy + x.coll.ok)]) (packW [(0, x.nogo)])).unit, none, none, 0,
          s.live.ft, none⟩]) ∧
    (reached s.live.ft (x.s - 50000000) = true → x.state = .arming → s.live.isRoot s.build x = true →
      imgBcastLinks x.image = [u] → imgNamed x.image = [] → x.cutReplies = [] →
      s.live.flt.rpl.st = .off → x.lant < 2048 → Tab.wf s.live.rf = true →
      (x.lant = imgFleet x.image → x.nogo = 0 →
        Yields (.goDecision plan) s fun l => (l.plan p).state = .armed ∧ (l.plan p).armReply = x.armReply ∧
          l.get s.build F.PLAN_ARMCNT_LANT p = x.lant ∧ (∀ j : Nat, j ≠ p → l.plan j = s.live.plan j) ∧
          l.time = s.live.time ∧ (l.link u).ctl = (s.live.link u).ctl ++
            [⟨(ctlMsg x p 3 0 0 0 0).unit, none, none, 0, s.live.ft, none⟩]) ∧
      (x.lant ≠ imgFleet x.image ∨ x.nogo ≠ 0 → x.armReply = none →
        Yields (.goDecision plan) s fun l => (l.plan p).state = .verified ∧
          l.get s.build F.PLAN_ARMCNT_LANT p = x.lant ∧ (l.link u).ctl = (s.live.link u).ctl ++
            [⟨(ctlMsg x p 4 0 0 0 (packW [(0, 0x0C)])).unit, none, none, 0, s.live.ft, none⟩])) ∧
    (reached s.live.ft (x.s - 10000000) = true → x.state = .arming → imgNamed x.image = [] →
      x.armReply = none → x.cutReplies = [] → s.live.flt.rpl.st = .off → p ≠ 0 →
      (∀ a ∈ s.live.plans, a.2.cond ≠ some p) →
      Yields (.armingTimeout plan) s fun l => (l.plan p).state = .verified ∧
        l.log = (s.live.logE s.build 0x0704 3 [x.s.toNat] p).log ∧
        (∀ c ∈ l.time.cmps, c.owner.plan ≠ p))) ∧
  (∀ (s : State) (plan : BitVec 8) (p : Nat) (x : Plan) (per : Nat) (t : Word), s.live.awake = true →
    p = plan.toNat → x = s.live.plan p → Tab.wf s.live.plans = true → s.live.time.fired = [] →
    t = x.s + BitVec.ofNat 32 (if s.build.buoy then secCutOfs x.image else imgCutOfs x.image) →
    per = (if s.build.buoy then secPeriod x.image else imgPeriod x.image) →
    (x.state = .armed → s.live.time.cmps = [⟨.start p, x.s, 0⟩] → reached s.live.ft x.s = true →
      s.live.bad (.plan p) = false →
      (per ≠ 0 → (if s.build.buoy then secNbi x.image else imgNItems x.image) ≠ 0 →
        Yields (.planStart plan) s fun l => (l.plan p).state = .running ∧ (l.plan p).nextT = t ∧
          l.time = { s.live.time with cmps := [⟨.cuts p, t, per⟩] } ∧
          (∀ j : Nat, j ≠ p → l.plan j = s.live.plan j) ∧ l.out = s.live.out) ∧
      (per = 0 → Yields (.planStart plan) s fun l => (l.plan p).state = .running ∧
        l.time = { s.live.time with cmps := [] } ∧ (∀ j : Nat, j ≠ p → l.plan j = s.live.plan j))) ∧
    (s.live.time.cmps = [⟨.start p, x.s, 0⟩] → reached s.live.ft x.s = false →
      Gives (.planStart plan) s s.live) ∧
    (s.live.time.cmps = [⟨.teardown p, x.d, 0⟩] → reached s.live.ft x.d = true → x.owns = true → p ≠ 0 →
      s.live.flt.rpl.st = .off → x.armReply = none → x.cutReplies = [] →
      (x.cond = none → Yields (.planTeardownReached plan) s fun l => l.plan p = x.ended ∧
        (∀ j : Nat, j ≠ p → l.plan j = s.live.plan j) ∧ l.time = { s.live.time with cmps := [] }) ∧
      (∀ q : Nat, x.cond = some q → q ≠ p → (s.live.plan q).state = .verified →
        Yields (.planTeardownReached plan) s fun l => l.plan p = { x with cond := none, tdEn := false } ∧
          l.time = { s.live.time with cmps := [] }))) ∧
  (∀ (s : State) (n : BitVec 5) (m : CtlMsg) (p u t : Nat) (x : Plan), s.build.form = .lantern →
    s.live.awake = true → s.live.isUp n.toNat = true → p = m.plan → x = s.live.plan p →
    isChildLink x.image n.toNat = true → x.armSeq = m.armSeq → t = m.c1 % 1024 →
    Tab.wf s.live.plans = true → Tab.wf s.live.links = true →
    (m.kind = 4 → fld m.w3 0 32 = 0x08 →
      (s.live.isRoot s.build x = false → upLink x.image = some u → x.upAbort = false →
        Yields (.upwardAbortReceive n m) s fun l => l.plan p = { x with upAbort := true } ∧
          (l.link u).ctl = (s.live.link u).ctl ++
            [⟨(ctlMsg x p 4 0 0 0 (packW [(0, 0x08)])).unit, none, none, 0, s.live.ft, none⟩]) ∧
      (s.live.isRoot s.build x = false → x.upAbort = true → Gives (.upwardAbortReceive n m) s s.live) ∧
      (s.live.isRoot s.build x = true → x.active = true → imgBcastLinks x.image = [u] →
        imgNamed x.image = [] → s.live.flt.rpl.st = .off → x.armReply = none → x.cutReplies = [] →
        Yields (.upwardAbortReceive n m) s fun l => (l.plan p).state = .verified ∧
          l.log = (s.live.logE s.build 0x1003 3 [4] p 0x08).log ∧
          (l.link u).ctl = (s.live.link u).ctl ++
            [⟨(ctlMsg x p 4 0 0 0 (packW [(0, 0x08)])).unit, none, none, 0, s.live.ft, none⟩])) ∧
    (m.kind = 7 →
      (s.live.isRoot s.build x = false → t ∉ x.lostUp → upLink x.image = some u →
        Yields (.lossReceive n m) s fun l => l.plan p = { x with lostUp := x.lostUp ++ [t] } ∧
          (l.link u).ctl = (s.live.link u).ctl ++
            [⟨(ctlMsg x p 7 t (m.c2 % 65536) 0 0).unit, none, none, 0, s.live.ft, none⟩]) ∧
      (s.live.isRoot s.build x = false → t ∈ x.lostUp → Gives (.lossReceive n m) s s.live) ∧
      (s.live.isRoot s.build x = true → x.state = .running → t ∉ x.lostSet → x.lostSet.length < 16 →
        x.switchPend = none → x.lostOvf = false →
        (chooseDom x.image (x.lostSet ++ [t]) = none →
          Yields (.lossReceive n m) s fun l => l.plan p = { x with lostSet := x.lostSet ++ [t] } ∧
            l.log = (s.live.logE s.build 0x1103 2 [x.lostSet.length + 1] p).log) ∧
        (∀ d : DomEnt, chooseDom x.image (x.lostSet ++ [t]) = some d → d.standby ≠ 0 → d.standby ≠ p →
          (s.live.plan d.standby).state = .verified → (s.live.plan d.standby).standby = true →
          s.live.flag s.build F.FO_CFG_AUTO = false → s.live.log.live = true → Tab.wf s.live.rf = true →
          Yields (.lossReceive n m) s fun l => l.plan p = { x with
              lostSet := x.lostSet ++ [t], switchPend := some (d.kind, d.id, d.standby) } ∧
            l.log = (s.live.logE s.build 0x1102 1 [d.kind + 4 * d.id, d.standby] p).log)) ∧
      (s.live.isRoot s.build x = true → x.state = .running → t ∉ x.lostSet → x.lostSet.length = 16 →
        Yields (.lossReceive n m) s fun l => l.plan p = { x with lostOvf := true }))) ∧
  (∀ (s : State) (v o : Word), Served s → s.build.form = .lantern → o = BitVec.ofNat 32
      (s.live.get s.build F.SCH_GRID_ORG_ORG) → s.live.flag s.build F.SCH_CTL_GRID_EN = false →
    v.toNat.testBit 0 = true → Tab.wf s.live.rf = true →
    (s.live.timed = true → s.live.inWindow o = true →
      Yields (.gridEnable v) s fun l => l.flag s.build F.SCH_CTL_GRID_EN = true ∧
        reached s.live.ft (BitVec.ofNat 32 (l.get s.build F.SCH_NEXT_B)) = false ∧
        (BitVec.ofNat 32 (l.get s.build F.SCH_NEXT_B) - s.live.ft).toNat ≤ 500000 ∧
        ftDiff o (BitVec.ofNat 32 (l.get s.build F.SCH_NEXT_B)) % 500000 = 0 ∧ l.plans = s.live.plans) ∧
    (s.live.inWindow o = false →
      Yields (.gridEnable v) s fun l => l.flag s.build F.SCH_CTL_GRID_EN = false ∧
        l.flag s.build F.SCH_STAT_GRID_REJ = true ∧ l.plans = s.live.plans))

/-! ### Cuts (spec/08) -/

/-- The latch and the vectors (R198, R203, R204, R209 to R212, R219, R225, R251, R434). At a cut count a buoy that
runs the plan keeps its items with the epoch, a delta item as the difference to its previous latch and without one
as stale; a lantern opens the epoch. A cut that is not complete before an armed teardown is not taken. A sampled
buoy offers one CUTVEC of FT T. The lantern takes the first vector of a waiting buoy; one of no plan, of another
count or after another counts in STALE_VEC; a poisoned one ends the plan. At the leaf close the buoys without a
vector are absent and the leaf partial is built. A buoy answers thresholds of its kept epoch once, before the
phase-B close. A cut vector or phase-B record of a section or a latch that was read uncorrectable carries POISON.
This is the completion of CUT_LATCH, CUTVEC_ASSEMBLED, CUTVEC_RECEIVE, LEAF_CLOSE and BUOY_THRESHOLDS. -/
def Obligations.CutsAreLatchedAndGathered : Prop :=
  (∀ (s : State) (plan : BitVec 8) (p : Nat) (x : Plan) (per slots : Nat) (t : Word), s.live.awake = true →
    p = plan.toNat → x = s.live.plan p → t = x.nextT → x.state = .running → x.pendCuts = [] →
    per = (if s.build.buoy then secPeriod x.image else imgPeriod x.image) →
    slots = (if s.build.buoy then secPbClose x.image else imgLastDl x.image) →
    s.live.time.fired = [] → s.live.time.cmps = [⟨.cuts p, t, per⟩] → 0 < per → x.epochNext < 65536 →
    s.live.flt.rpl.st = .off → Tab.wf s.live.plans = true → (s.build.form = .lantern → s.live.bad (.plan p) = false) →
    (reached s.live.ft t = false → Gives (.cutLatch plan) s s.live) ∧
    (reached s.live.ft t = true → x.tdEn = true → ftDiff x.d (t + BitVec.ofNat 32 (500 * slots)) < 1 →
      Yields (.cutLatch plan) s fun l => (l.plan p).kept = x.kept ∧ (l.plan p).oc = x.oc ∧
        (l.plan p).latched = x.latched ∧
        l.time = { s.live.time with cmps := [⟨.cuts p, t + BitVec.ofNat 32 per, per⟩] }) ∧
    (reached s.live.ft t = true → x.tdEn = false → s.build.form = .buoy →
      Yields (.cutLatch plan) s fun l =>
        ((l.plan p).kept.map fun k => (k.t, k.epoch, k.words.length, k.assembled)) =
          some (t, x.epochNext, secNbi x.image, false) ∧
        (l.plan p).latched = x.epochNext ∧ (l.plan p).latchT = t ∧
        (l.plan p).epochNext = (x.epochNext + 1) % 65536 ∧ (l.plan p).nextT = t + BitVec.ofNat 32 per ∧
        l.time = { s.live.time with cmps := [⟨.cuts p, t + BitVec.ofNat 32 per, per⟩] } ∧
        (∀ j : Nat, j ≠ p → l.plan j = s.live.plan j) ∧ l.samp = s.live.samp ∧ l.created = s.live.created ∧
        (∀ i : Nat, i < secNbi x.image →
          ((secItem x.image i).1 ≠ 1 → ((l.plan p).kept.map fun k => wordAt k.words i) =
            some (s.live.latchWord (secItem x.image i).1 (secItem x.image i).2.1)) ∧
          ((secItem x.image i).1 = 1 → Tab.find? x.prev i = none →
            ((l.plan p).kept.map fun k => (fld (wordAt k.words i) 0 48, fld (wordAt k.words i) 49 1)) =
              some (0, 1)) ∧
          (∀ v : Nat, (secItem x.image i).1 = 1 → Tab.find? x.prev i = some v → v < 2 ^ 48 →
            ((l.plan p).kept.map fun k => (fld (wordAt k.words i) 0 48, fld (wordAt k.words i) 49 1)) =
              some (((s.live.ctr (secItem x.image i).2.1).val.toNat + 2 ^ 48 - v) % 2 ^ 48, 0)))) ∧
    (reached s.live.ft t = true → x.tdEn = false → s.build.form = .lantern →
      Yields (.cutLatch plan) s fun l =>
        ((l.plan p).oc.map fun o => (o.t, o.epoch, o.cls.map (·.1), o.vecs, o.litems, o.leafDone, o.stage)) =
          some (t, x.epochNext, imgNamed x.image, [], s.live.lanternItems x.image, false, 0) ∧
        ((l.plan p).oc.map fun o => o.cls.map (·.2)) = some ((imgNamed x.image).map fun k =>
          if !sampled (imgSeed x.image) x.epochNext (s.live.trunk s.build * 256 + k) (imgRate x.image) then
            .unsampled
          else if !s.live.timed || !(s.live.peer k).present || !(s.live.peer k).lock ||
            decide ((x.epochNext, k) ∈ x.rejBuoys) then .absent
          else .waiting) ∧
        (l.plan p).latched = x.epochNext ∧ (∀ j : Nat, j ≠ p → l.plan j = s.live.plan j))) ∧
  (∀ (s : State) (plan : BitVec 8) (p : Nat) (x : Plan) (k : Kept), s.live.awake = true →
    s.build.form = .buoy → p = plan.toNat → x = s.live.plan p → x.state = .running → x.kept = some k →
    k.assembled = false → Tab.wf s.live.plans = true →
    (s.live.isSampled s.build x.image k.epoch = false → Gives (.cutvecAssembled plan) s s.live) ∧
    (s.live.isSampled s.build x.image k.epoch = true →
      Yields (.cutvecAssembled plan) s fun l =>
        (l.created.drop s.live.created.length).map (fun c => (c.1, c.2.ty, c.2.stream, c.2.src, c.2.ft,
            c.2.body, c.2.poison)) =
          [(s.live.queueOf s.build (secCvStream x.image), 2, BitVec.ofNat 14 (secCvStream x.image),
            s.live.src s.build, k.t, k.words, s.live.bad (.plan p) || s.live.bad (.latch p))] ∧
        (l.plan p).kept = some { k with assembled := true } ∧
        (∀ j : Nat, j ≠ p → l.plan j = s.live.plan j))) ∧
  (∀ (s : State) (n : BitVec 5) (r : Rec), s.build.form = .lantern → s.live.awake = true →
    s.live.isUp n.toNat = true → r.ty = 2 →
    (s.live.cvPlan r.stream.toNat = none →
      Gives (.cutvecReceive n r) s (s.live.bump s.build F.CUT_ERR_STALE_VEC)) ∧
    (∀ (p loc : Nat) (x : Plan) (o : OpenCut), s.live.cvPlan r.stream.toNat = some p → x = s.live.plan p →
      x.oc = some o → r.src.toNat = s.live.trunk s.build * 256 + loc → loc < 256 →
      Tab.wf s.live.plans = true → s.live.flt.rpl.st = .off →
      (o.t ≠ r.ft ∨ o.leafDone = true ∨ 500 * imgLeafClose x.image < (s.live.ft - o.t).toNat ∨
          (Tab.find? o.cls loc).isNone = true ∨ (Tab.find? o.vecs loc).isSome = true →
        Gives (.cutvecReceive n r) s (s.live.bump s.build F.CUT_ERR_STALE_VEC p)) ∧
      (o.t = r.ft → o.leafDone = false → (s.live.ft - o.t).toNat ≤ 500 * imgLeafClose x.image →
        Tab.find? o.cls loc = some .waiting → (Tab.find? o.vecs loc).isNone = true →
        (r.poison = false → Gives (.cutvecReceive n r) s (s.live.setPlan p
          { x with oc := some { o with vecs := Tab.insert o.vecs loc r.body } })) ∧
        (r.poison = true → s.live.time.cmps = [] → s.live.time.fired = [] →
          s.live.isRoot s.build x = false → imgNamed x.image = [loc] → x.armReply = none → x.cutReplies = [] →
          Yields (.cutvecReceive n r) s fun l => (l.plan p).state = .verified ∧ (l.plan p).oc = none ∧
            l.log = (s.live.logE s.build 0x1003 3 [0] p 0x08).log)))) ∧
  (∀ (s : State) (plan : BitVec 8) (p : Nat) (x : Plan) (o : OpenCut) (cls : List BClass),
    s.live.awake = true → s.build.form = .lantern → p = plan.toNat → x = s.live.plan p →
    x.oc = some o → x.state = .running → o.leafDone = false → Tab.wf s.live.plans = true →
    s.live.flt.rpl.st = .off →
    cls = (o.cls.map fun e => if e.2 = .unsampled ∨ e.2 = .absent then e.2
      else if (Tab.find? o.vecs e.1).isSome then .present else .absent) →
    (reached s.live.ft (o.t + BitVec.ofNat 32 (500 * imgLeafClose x.image)) = false →
      Gives (.leafClose plan) s s.live) ∧
    (reached s.live.ft (o.t + BitVec.ofNat 32 (500 * imgLeafClose x.image)) = true →
      s.live.bad (.plan p) = false → (stageKids x.image 1).any (fun k => !o.wholeA 1 k.1) = true →
      Yields (.leafClose plan) s fun l =>
        ((l.plan p).oc.map fun q => (q.cls.map (·.2), q.leafDone, q.stage, q.t, q.epoch, q.frags)) =
          some (cls, true, 1, o.t, o.epoch, o.frags) ∧
        ((l.plan p).oc.map fun q => (q.leaf.expect, q.leaf.present, q.leaf.absent, q.leaf.unsampled)) =
          some (cls.length, cls.count .present, cls.count .absent, cls.count .unsampled) ∧
        ((l.plan p).oc.map fun q => q.part) = ((l.plan p).oc.map fun q => q.leaf) ∧
        (∀ i : Nat, i < imgNItems x.image →
          ((l.plan p).oc.map fun q => q.leaf.items[i]?) = ((l.plan p).oc.map fun q =>
            some (leafBlock x.image (s.live.trunk s.build) q.vecs o.litems i))))) ∧
  (∀ (s : State) (r : Rec) (d : Desc) (p : Nat) (x : Plan) (k : Kept), s.live.awake = true →
    s.build.form = .buoy → r.ty = 4 → d = descOf r.body → d.kind = 1 → p = d.plan → x = s.live.plan p →
    x.state = .running → x.kept = some k → k.epoch = d.epoch → k.can = none → Tab.wf s.live.plans = true →
    (k.pbSent = true ∨ reached s.live.ft (k.t + BitVec.ofNat 32 (500 * secPbClose x.image)) = true →
      Gives (.buoyThresholds r) s s.live) ∧
    (k.pbSent = false → reached s.live.ft (k.t + BitVec.ofNat 32 (500 * secPbClose x.image)) = false →
      Yields (.buoyThresholds r) s fun l =>
        (l.created.drop s.live.created.length).map (fun c =>
            (c.1, c.2.ty, c.2.stream, c.2.ft, (descOf c.2.body).kind, (descOf c.2.body).epoch, c.2.poison,
            c.2.body.drop 4)) =
          [(s.live.queueOf s.build (secCvStream x.image), 3, BitVec.ofNat 14 (secCvStream x.image), s.live.ft,
            2, d.epoch, r.poison || s.live.bad (.plan p) || s.live.bad (.latch p), (thrsOf r.body).flatMap fun h => (ownList h
              (if bit (wordAt k.words h.item) 49 then none
               else if (secItem x.image h.item).1 ≤ 1 then some (fld (wordAt k.words h.item) 0 48 : Nat)
               else some (sInt 32 (fld (wordAt k.words h.item) 0 32)))
              (s.live.src s.build).toNat).words)] ∧
        (l.plan p).kept = some { k with pbSent := true } ∧
        (s.live.bad (.plan p) = false → s.live.bad (.latch p) = false → l.rf = s.live.rf)))

/-- The climb of a reduction (R219, R220, R225, R226). A child's fragment is kept; one of a past epoch or stage
counts in LATE_CHILD, and one of a later epoch is left. When a stage's children are whole, or at its deadline, the
stage's blocks merge, a missing child's dies count as absent with SUBLOST, and the partial leaves for the parent on
stream 0x3000 + p. Thresholds are forwarded once on both trees and given to the present buoys; a present buoy's list
or canary outcome merges once; at the phase-B close buoys present in phase A whose record has not arrived are
absent, and phase B starts to climb. This is the completion of PARTIAL_RECEIVE, STAGE_DEADLINE, THRESHOLDS_RECEIVE,
PHASE_B_RECEIVE and PHASE_B_CLOSE. -/
def Obligations.ReductionsClimb : Prop :=
  (∀ (s : State) (n : BitVec 5) (r : Rec) (d : Desc) (p st i : Nat) (c : Child) (x : Plan),
    s.build.form = .lantern → s.live.awake = true → s.live.isUp n.toNat = true → r.ty = 3 →
    d = descOf r.body → p = d.plan → x = s.live.plan p → x.state = .running →
    (d.kind = 0 ∨ d.kind = 2 ∨ d.kind = 3) → childAt x.image n.toNat (r.src.toNat / 256) = some (st, i, c) →
    s.live.flt.rpl.st = .off → Tab.wf s.live.plans = true → Tab.wf s.live.links = true →
    s.live.bad (.plan p) = false → s.live.bad (.part p) = false →
    (x.oc = none → Gives (.partialReceive n r) s (s.live.bump s.build F.CUT_ERR_LATE_CHILD p)) ∧
    (∀ o : OpenCut, x.oc = some o →
      (epochLater d.epoch o.epoch = true → Gives (.partialReceive n r) s s.live) ∧
      (epochLater d.epoch o.epoch = false →
        o.epoch ≠ d.epoch ∨ st < (if d.kind = 0 then o.stage else o.bStage) →
        Gives (.partialReceive n r) s (s.live.bump s.build F.CUT_ERR_LATE_CHILD p)) ∧
      (o.epoch = d.epoch → (if d.kind = 0 then o.stage else o.bStage) ≤ st → r.poison = false →
        (d.kind = 0 → o.leafDone = false) → (d.kind ≠ 0 → o.bClosed = false) →
        Gives (.partialReceive n r) s (s.live.setPlan p { x with oc := some { o with
          frags := (o.frags.filter fun f => !(f.at st i d.kind && decide (f.frag = d.frag))) ++
            [fragOf r st i] } })) ∧
      (o.epoch = d.epoch → d.kind = 0 → st = 1 → o.stage = 1 → o.leafDone = true → r.poison = false →
        d.frags = 1 → o.frags = [] → stageKids x.image 1 = [(i, c)] → (imgStage x.image 1).hasParent = true →
        s.live.isRoot s.build x = false → x.miss = [] →
        Yields (.partialReceive n r) s fun l =>
          ((l.plan p).oc.map fun q => (q.stage, q.part)) =
            some (4, o.part.merge x.image { countsOf r with items := blocksOf d.nitems (r.body.drop 4) }) ∧
          (∀ u : Nat, u = (imgStage x.image 1).parent → (l.link u).pln.map (fun a => (a.r.map fun y =>
              (y.ty, y.stream, y.ft, y.body), a.plan)) =
            (s.live.link u).pln.map (fun a => (a.r.map fun y => (y.ty, y.stream, y.ft, y.body), a.plan)) ++
            (itemPayloads p o.epoch 1 (o.part.merge x.image
              { countsOf r with items := blocksOf d.nitems (r.body.drop 4) })).map fun ws =>
                (some (3, BitVec.ofNat 14 (0x3000 + p), s.live.ft, ws), some (p, x.armSeq, 0, o.epoch)))))) ∧
  (∀ (s : State) (plan : BitVec 8) (stage : BitVec 2) (p st : Nat) (x : Plan) (o : OpenCut) (c : Child),
    s.build.form = .lantern → s.live.awake = true → p = plan.toNat → st = stage.toNat → 0 < st →
    x = s.live.plan p → x.oc = some o → x.state = .running → s.live.flt.rpl.st = .off →
    Tab.wf s.live.plans = true → Tab.wf s.live.links = true →
    s.live.bad (.plan p) = false → s.live.bad (.part p) = false →
    (∀ b : Bool, reached s.live.ft (o.t + BitVec.ofNat 32 (500 * (if b then (imgStage x.image st).dlB
        else (imgStage x.image st).dlA))) = false → Gives (.stageDeadline plan stage b) s s.live) ∧
    (reached s.live.ft (o.t + BitVec.ofNat 32 (500 * (imgStage x.image st).dlA)) = true → o.leafDone = true →
      o.stage = st → stageKids x.image st = [(0, c)] → o.wholeA st 0 = false →
      Tab.getD x.miss (2 * st) 0 + 1 < s.live.missN s.build → (imgStage x.image st).hasParent = true →
      Yields (.stageDeadline plan stage false) s fun l =>
        ((l.plan p).oc.map fun q => (q.stage, q.part)) = some (4, o.part.lose c.expect) ∧
        Tab.getD (l.plan p).miss (2 * st) 0 = Tab.getD x.miss (2 * st) 0 + 1) ∧
    (reached s.live.ft (o.t + BitVec.ofNat 32 (500 * (imgStage x.image st).dlB)) = true → o.bClosed = true →
      o.bStage = st → stageKids x.image st = [(0, c)] → o.frags = [] →
      (imgStage x.image st).hasParent = true → imgNStrag x.image ≠ 0 →
      Yields (.stageDeadline plan stage true) s fun l =>
        ((l.plan p).oc.map fun q => (q.bStage, q.bDesc, q.lists)) = some (4, o.bDesc.lose c.expect, o.lists))) ∧
  (∀ (s : State) (n : BitVec 5) (r : Rec) (d : Desc) (p u loc : Nat) (x : Plan) (o : OpenCut),
    s.build.form = .lantern → s.live.awake = true → s.live.isUp n.toNat = true → r.ty = 4 →
    d = descOf r.body → d.kind = 1 → p = d.plan → x = s.live.plan p → x.state = .running → x.oc = some o →
    o.epoch = d.epoch → s.live.flt.rpl.st = .off → Tab.wf s.live.plans = true → Tab.wf s.live.links = true →
    s.live.bad (.plan p) = false →
    (o.thr.isSome = true ∨ o.bClosed = true → Gives (.thresholdsReceive n r) s s.live) ∧
    (o.thr = none → o.bClosed = false → r.poison = false → imgBcastLinks x.image = [u] →
      s.live.linksOf s.build 2 = [] → (o.cls.filter fun e => decide (e.2 = .present)) = [(loc, .present)] →
      u ≠ waitLink →
      Yields (.thresholdsReceive n r) s fun l =>
        ((l.plan p).oc.map fun q => (q.thr, q.lists)) =
          some (some (thrsOf r.body), emptyLists x.image (thrsOf r.body)) ∧
        (l.link u).pln = (s.live.link u).pln ++
          [⟨r.words, some r, some (p, x.armSeq, 2, o.epoch), 0, s.live.ft, none⟩] ∧
        (l.link waitLink).ctl = (s.live.link waitLink).ctl ++ [⟨r.words, some r, none, loc, s.live.ft, none⟩])) ∧
  (∀ (s : State) (n : BitVec 5) (r : Rec) (d : Desc) (p loc : Nat) (x : Plan) (o : OpenCut),
    s.build.form = .lantern → s.live.awake = true → s.live.isUp n.toNat = true → r.ty = 3 →
    d = descOf r.body → d.stage = 0x10 → p = d.plan → x = s.live.plan p → x.state = .running → x.oc = some o →
    o.epoch = d.epoch → r.src.toNat = s.live.trunk s.build * 256 + loc → loc < 256 →
    o.leafDone = true → secCvStream (imgBuoySec x.image) = r.stream.toNat → s.live.flt.rpl.st = .off →
    s.live.bad (.plan p) = false →
    (Tab.getD o.cls loc .absent ≠ .present ∨ o.bClosed = true → Gives (.phaseBReceive n r) s s.live) ∧
    (Tab.getD o.cls loc .absent = .present → o.bClosed = false → r.poison = false →
      (d.kind = 2 → o.thr.isSome = true → loc ∉ o.bPresent →
        Gives (.phaseBReceive n r) s (s.live.setPlan p { x with oc := some { o with
          lists := mergeLists x.image o.lists (listsOf r.body), bPresent := o.bPresent ++ [loc] } })) ∧
      (d.kind = 3 → canaryEpoch x.image o.epoch = true → loc ∉ o.cPresent →
        Gives (.phaseBReceive n r) s (s.live.setPlan p { x with oc := some { o with
          can := o.can.merge (canOf r.body), cPresent := o.cPresent ++ [loc] } })))) ∧
  (∀ (s : State) (plan : BitVec 8) (p : Nat) (x : Plan) (o : OpenCut), s.live.awake = true →
    p = plan.toNat → x = s.live.plan p → x.oc = some o → x.state = .running → s.live.flt.rpl.st = .off →
    Tab.wf s.live.plans = true → s.live.bad (.plan p) = false → s.live.bad (.part p) = false →
    (o.bClosed = true ∨ o.stage ≠ 4 ∨
        reached s.live.ft (o.t + BitVec.ofNat 32 (500 * imgPbClose x.image)) = false →
      Gives (.phaseBClose plan) s s.live) ∧
    (o.bClosed = false → o.stage = 4 → imgNStrag x.image ≠ 0 → imgCanary x.image = 0 →
      reached s.live.ft (o.t + BitVec.ofNat 32 (500 * imgPbClose x.image)) = true →
      (stageKids x.image 1).any (fun k => !o.wholeB x.image 1 k.1) = true →
      Yields (.phaseBClose plan) s fun l => ((l.plan p).oc.map fun q => (q.bClosed, q.bStage)) = some (true, 1) ∧
        ((l.plan p).oc.map fun q => (q.bDesc.expect, q.bDesc.present, q.bDesc.absent, q.bDesc.sublost)) =
          some (o.leaf.expect, o.bPresent.length, o.leaf.expect - o.leaf.unsampled - o.bPresent.length,
            o.thr.isNone) ∧
        ((l.plan p).oc.map fun q => q.lists) =
          some (if o.thr.isNone then emptyLists x.image [] else o.lists)))

/-! ### Actions and series (spec/09, spec/13, spec/14, spec/15) -/

/-- Actions (R239, R353 to R357, R387 to R391, R434). Every EVERY-th occurrence of its trigger makes an action run
or wait for its barrier or for a semaphore with a count of 0 (which semaphores it takes is free: log entry 120); a
fifth that would wait ends the plan with 0x0705 and counts in BACKLOG. A run of a tree action sends one VOTE on
OUT_STREAM, one of a sequence action one SEQRES for each listed series, with SER_LOST and a zero body where the
series is not enabled; poison ends the plan. A tree sample that reads an uncorrectable word is poison, and each such
word counts. A completed run leaves and, with SIG_EN, adds one arrival to SIG; the last arrival releases every
action that waits there, but for one that then waits for a semaphore. A live state moves to COMMIT. This is the
completion of ACTION_TRIGGER, TREE_ACTION_RUN and SEQ_ACTION_RUN. -/
def Obligations.ActionsRunWhenDueAndReady : Prop :=
  (∀ (s : State) (plan entry : BitVec 8) (p i : Nat) (x : Plan) (a : Action) (o : Occ) (rest : List Occ),
    s.live.awake = true → p = plan.toNat → i = entry.toNat → x = s.live.plan p → a = imgAction x.image i →
    s.live.flt.rpl.st = .off → Tab.wf s.live.plans = true → s.live.bad (.plan p) = false →
    ((∀ c ∈ x.due, c.entry ≠ i) → Gives (.actionTrigger plan entry) s s.live) ∧
    (x.due = o :: rest → o.entry = i → 0 < a.every →
      ((Tab.getD x.trig i 0 + 1) % a.every ≠ 0 →
        Gives (.actionTrigger plan entry) s (s.live.setPlan p
          { x with due := rest, trig := Tab.set x.trig i 0 ((Tab.getD x.trig i 0 + 1) % a.every) })) ∧
      ((Tab.getD x.trig i 0 + 1) % a.every = 0 → s.live.runsHere s.build x a = true →
        (engineOccs x a.engine < 4 →
          Gives (.actionTrigger plan entry) s (s.live.setPlan p { x with
            due := rest, trig := Tab.set x.trig i 0 0,
            occs := x.occs ++ [{ o with
              waiting := (a.waitEn && !o.released) || s.live.semShut p i }] })) ∧
        (4 ≤ engineOccs x a.engine → x.state = .running → s.build.form = .lantern → imgNamed x.image = [] →
          x.armReply = none → x.cutReplies = [] → Tab.wf s.live.rf = true →
          Yields (.actionTrigger plan entry) s fun l => (l.plan p).state = .verified ∧ (l.plan p).occs = [] ∧
            (if a.engine = 0 then l.get s.build F.TREE_ERR_BACKLOG =
                min (s.live.get s.build F.TREE_ERR_BACKLOG + 1) (2 ^ F.TREE_ERR_BACKLOG.w - 1)
              else l.get s.build F.SEQ_ERR_BACKLOG =
                min (s.live.get s.build F.SEQ_ERR_BACKLOG + 1) (2 ^ F.SEQ_ERR_BACKLOG.w - 1)) ∧
            l.log = (s.live.logE s.build 0x0705 3 [a.engine] p 0x0A).log)))) ∧
  (∀ (s : State) (plan entry : BitVec 8) (p i : Nat) (x : Plan) (a : Action) (k : TreeBlk) (o : Occ)
    (rest : List Occ) (xs : List (Nat × List (Option Word))), s.live.awake = true → s.build.form = .lantern →
    p = plan.toNat → i = entry.toNat → x = s.live.plan p → a = imgAction x.image i → a.engine = 0 →
    x.occs = o :: rest → o.entry = i → k = treeBlk x.image a →
    xs = s.live.treeSamples s.build x.image k (s.live.tree a.slot).image o → s.live.flt.rpl.st = .off →
    Tab.wf s.live.plans = true → s.live.bad (.plan p) = false →
    (o.waiting = true → Gives (.treeActionRun plan entry) s s.live) ∧
    (∀ j : Nat, o.waiting = false → j < xs.length →
      s.live.sampleBad s.build a.slot j ((xs.map (·.2)).getD j []) (.rows p o.entry o.epoch j) ≠ [] →
      x.state = .running → s.live.time.cmps = [] →
      s.live.time.fired = [] → imgNamed x.image = [] → x.armReply = none → x.cutReplies = [] →
      Yields (.treeActionRun plan entry) s fun l => (l.plan p).state = .verified ∧
        l.created = s.live.created) ∧
    (o.waiting = false → (∀ j : Nat, j < xs.length →
        s.live.sampleBad s.build a.slot j ((xs.map (·.2)).getD j []) (.rows p o.entry o.epoch j) = []) →
      (a.sigEn = false → Yields (.treeActionRun plan entry) s fun l => (l.plan p).occs = rest ∧
        (∀ j : Nat, j ≠ p → l.plan j = s.live.plan j) ∧
        l.eng.samples = (s.live.eng.samples + xs.length) % 2 ^ 32 ∧
        (s.live.eng.waits = [] → l.eng = { s.live.eng with samples := l.eng.samples }) ∧
        (l.created.drop s.live.created.length).map (fun c =>
            (c.1, c.2.ty, c.2.stream, c.2.ft, c.2.body)) =
          [(s.live.queueOf s.build (a.out % 16384), 5, BitVec.ofNat 14 a.out, s.live.ft,
            voteBody p a k o o.absent xs
              (ensResults s.build (s.live.tree a.slot).image (xs.map (·.2))))]) ∧
      (∀ y : Sync, a.sigEn = true → Tab.find? s.live.trace.syncs a.sig = some y → y.plan = p → y.ty = 0 →
        Tab.wf s.live.trace.syncs = true →
        (y.count + 1 < y.init → Yields (.treeActionRun plan entry) s fun l => (l.plan p).occs = rest ∧
          Tab.find? l.trace.syncs a.sig = some { y with count := y.count + 1 }) ∧
        (y.init ≤ y.count + 1 → Yields (.treeActionRun plan entry) s fun l =>
          Tab.find? l.trace.syncs a.sig = some { y with count := 0 } ∧
          (l.plan p).occs = rest.map fun c =>
            if (imgAction x.image c.entry).waitEn ∧ (imgAction x.image c.entry).wait = a.sig then
              { c with waiting := s.live.semShut p c.entry, released := true } else c)))) ∧
  (∀ (s : State) (plan entry : BitVec 8) (p i : Nat) (x : Plan) (a : Action) (k : SeqBlk) (q : Nat)
    (o : Occ) (rest : List Occ) (g : List DWord) (c : Word) (n : Nat) (rd : SerRead) (y : SeqOut), s.live.awake = true →
    s.build.form = .lantern → p = plan.toNat → i = entry.toNat → x = s.live.plan p →
    a = imgAction x.image i → a.engine = 1 → x.occs = o :: rest → o.entry = i → o.waiting = false →
    s.live.seqOldest o = true → k = seqBlk x.image a → k.nser = 1 → q = k.sers.getD 0 0 → a.sigEn = false →
    s.live.flt.rpl.st = .off → Tab.wf s.live.plans = true → g = (s.live.seqm a.slot).image →
    s.live.bad (.plan p) = false → s.live.bad (.seq a.slot) = false → s.live.bad (.live (liveKey p i 0)) = false →
    c = (s.live.sery q).commit →
    n = (if k.mode ≤ 2 ∧ (s.live.sery q).on = false then 0
      else if k.mode ≤ 2 then (c - (Tab.getD s.live.eng.live (liveKey p i 0) ⟨0, [], 0⟩).p).toNat
      else min k.wlen (c - s.live.serFirst s.build q).toNat) →
    rd = s.live.serRead s.build q (s.live.gen q) (c - BitVec.ofNat 32 n) n →
    y = seqCompute k.mode g (s.live.get s.build F.SER_CFG_TYPE q) (modQuery g)
      (if k.mode ≤ 2 then (Tab.getD s.live.eng.live (liveKey p i 0) ⟨0, [], 0⟩).st else []) rd.xs →
    (k.mode ≤ 2 → (s.live.sery q).on = true → (Tab.find? s.live.eng.live (liveKey p i 0)).isSome = true ∧
      (Tab.getD s.live.eng.live (liveKey p i 0) ⟨0, [], 0⟩).gen = s.live.gen q ∧
      sampBefore (Tab.getD s.live.eng.live (liveKey p i 0) ⟨0, [], 0⟩).p
        (s.live.serFirst s.build q) = false) →
    ((s.live.sery q).on = true → rd.poison = true → x.state = .running → s.live.time.cmps = [] → s.live.time.fired = [] →
      imgNamed x.image = [] → x.armReply = none → x.cutReplies = [] →
      Yields (.seqActionRun plan entry) s fun l => (l.plan p).state = .verified ∧
        l.created = s.live.created) ∧
    ((s.live.sery q).on = false ∨ (rd.poison = false ∧ rd.stale = true) →
      Yields (.seqActionRun plan entry) s fun l => (l.plan p).occs = rest ∧
        (k.mode ≤ 2 → Tab.find? l.eng.live (liveKey p i 0) = some ⟨c, zeroState g, s.live.gen q⟩) ∧
        (l.created.drop s.live.created.length).map (fun c => (c.2.ty, c.2.stream, c.2.body)) =
          [(6, BitVec.ofNat 14 a.out, seqCommon p k.mode true a.slot q o.epoch false
            (c - BitVec.ofNat 32 n) n (s.live.gen q) 0 (modId g) 0 ++
            List.replicate (seqBodyLen k.mode) 0)]) ∧
    (rd.poison = false → rd.stale = false → (s.live.sery q).on = true →
      Yields (.seqActionRun plan entry) s fun l => (l.plan p).occs = rest ∧
        (∀ j : Nat, j ≠ p → l.plan j = s.live.plan j) ∧ l.ser = s.live.ser ∧
        l.eng.jobsDone = (s.live.eng.jobsDone + 1) % 2 ^ 32 ∧
        (k.mode ≤ 2 → Tab.find? l.eng.live (liveKey p i 0) = some ⟨c, y.state, s.live.gen q⟩) ∧
        (l.created.drop s.live.created.length).map (fun c => (c.2.ty, c.2.stream, c.2.body)) =
          [(6, BitVec.ofNat 14 a.out, seqCommon p k.mode false a.slot q o.epoch
            (decide (rd.inex ≠ 0) || y.sat) (c - BitVec.ofNat 32 n) n (s.live.gen q)
            (nFill (s.live.get s.build F.SER_CFG_TYPE q) rd.xs) (modId g) rd.inex ++ y.body)]))

/-- The series store (R313 to R319, R333, R448). A write of EN = 1 starts the selected series empty, or is refused
with SER_STAT.REJ; a write of EN = 0 stops it and discards its history; other fields of an enabled series do not
change. The oldest source event becomes one sample: the value, a saturated value counted in SER_ERR.SAT, a
difference, or a fill. A completed block is coded, checked and written to its ring slot, and its acknowledgement
puts it into the ring and moves COMMIT behind it. A write that did not leave, or whose port has failed since, is not
acknowledged. This is the completion of SERIES_ENABLE, SERIES_DISABLE, SERIES_SAMPLE, BLOCK_CODE and BLOCK_COMMIT.
-/
def Obligations.SeriesTakeSamplesAndCommitBlocks : Prop :=
  (∀ (s : State) (v : Word) (k : Nat), Served s → s.build.form = .lantern →
    k = s.live.get s.build F.SER_SEL_SERIES → Tab.wf s.live.rf = true → Tab.wf s.live.ser.sers = true →
    ((s.live.sery k).on = true → v.toNat.testBit 0 = true → Gives (.seriesEnable v) s (written s)) ∧
    ((s.live.sery k).on = true → v.toNat.testBit 0 = false →
      Yields (.seriesDisable v) s fun l => l.sery k = ser0 ∧ (∀ j : Nat, j ≠ k → l.sery j = s.live.sery j) ∧
        (∀ e ∈ l.ser.events, e.1 ≠ k) ∧ l.gens = s.live.gens ∧ l.rf = s.live.rf) ∧
    ((s.live.sery k).on = false →
      Yields (.seriesEnable v) s fun l =>
        l.get s.build F.SER_CFG_TYPE k = v.toNat / 2 % 4 ∧ l.get s.build F.SER_CFG_RATIO k = v.toNat / 8 % 4 ∧
        l.get s.build F.SER_CFG_EFFORT k = v.toNat / 32 % 4 ∧
        l.get s.build F.SER_CFG_XFORM k = v.toNat / 128 % 2 ∧
        l.get s.build F.SER_CFG_SHIFT k = v.toNat / 256 % 32 ∧
        l.get s.build F.SER_CFG_SKIND k = v.toNat / 8192 % 8 ∧
        l.get s.build F.SER_CFG_NBLK_M1 k = v.toNat / 65536 % 16384 ∧
        (∀ j : Nat, j ≠ k → l.sery j = s.live.sery j) ∧
        (v.toNat.testBit 0 = true → l.serRefused s.build k = false →
          l.sery k = { ser0 with on := true } ∧
          l.get s.build F.SER_STAT_REJ k = s.live.get s.build F.SER_STAT_REJ k) ∧
        (v.toNat.testBit 0 = true → l.serRefused s.build k = true →
          l.sery k = s.live.sery k ∧ l.get s.build F.SER_STAT_REJ k = 1) ∧
        (v.toNat.testBit 0 = false → l.sery k = s.live.sery k ∧
          l.get s.build F.SER_STAT_REJ k = s.live.get s.build F.SER_STAT_REJ k))) ∧
  (∀ (s : State) (k n ty : Nat) (v : SVal) (rest : List (Nat × SVal)), s.live.awake = true →
    s.build.form = .lantern → s.live.ser.events = (k, v) :: rest → ty = s.live.get s.build F.SER_CFG_TYPE k →
    n = (s.live.sery k).next.toNat → Tab.wf s.live.ser.sers = true →
    ((s.live.sery k).on = false →
      Gives .seriesSample s { s.live with ser := { s.live.ser with events := rest } }) ∧
    ((s.live.sery k).on = true → n % 256 ≠ 255 → (s.live.sery k).overrunAt (n / 256) = false →
      (∀ w : Word, v = .f32 w → f32Canon w ≠ fillWord ty → Yields .seriesSample s fun l =>
        l.ser.events = rest ∧ (l.sery k).cur = (s.live.sery k).cur ++ [f32Canon w] ∧
        (l.sery k).next = (s.live.sery k).next + 1 ∧ l.rf = s.live.rf ∧
        (∀ j : Nat, j ≠ k → l.sery j = s.live.sery j)) ∧
      (∀ d : Int, v = .int d false → s.live.get s.build F.SER_CFG_SHIFT k = 0 → ty = 0 →
        (s.live.get s.build F.SER_CFG_XFORM k = 0 → d.natAbs < 2147483648 → Yields .seriesSample s fun l =>
          l.ser.events = rest ∧ (l.sery k).cur = (s.live.sery k).cur ++ [BitVec.ofInt 32 d] ∧
          (l.sery k).next = (s.live.sery k).next + 1 ∧ (l.sery k).prev = some d ∧ l.rf = s.live.rf ∧
          (∀ j : Nat, j ≠ k → l.sery j = s.live.sery j)) ∧
        (s.live.get s.build F.SER_CFG_XFORM k = 0 → 2147483648 ≤ d → Yields .seriesSample s fun l =>
          (l.sery k).cur = (s.live.sery k).cur ++ [0x7FFFFFFF] ∧
          (l.sery k).next = (s.live.sery k).next + 1 ∧ l.rf = (s.live.bump s.build F.SER_ERR_SAT).rf) ∧
        (s.live.get s.build F.SER_CFG_XFORM k = 1 → (s.live.sery k).prev = none →
          Yields .seriesSample s fun l => (l.sery k).prev = some d ∧
            (l.sery k).cur = (s.live.sery k).cur ++ [fillWord 0] ∧
            (l.sery k).next = (s.live.sery k).next + 1) ∧
        (∀ o : Int, s.live.get s.build F.SER_CFG_XFORM k = 1 → (s.live.sery k).prev = some o →
          (d - o).natAbs < 2147483648 → Yields .seriesSample s fun l => (l.sery k).prev = some d ∧
            (l.sery k).cur = (s.live.sery k).cur ++ [BitVec.ofInt 32 (d - o)])) ∧
      (v = .fill 1 → Yields .seriesSample s fun l => (l.sery k).prev = none ∧
        (l.sery k).cur = (s.live.sery k).cur ++ [fillWord ty] ∧
        l.rf = (s.live.bump s.build F.SER_STAT_NFILL k).rf))) ∧
  (∀ (s : State) (series : BitVec 16) (k : Nat) (x : Ser), s.live.awake = true → k = series.toNat →
    x = s.live.sery k → Tab.wf s.live.ser.sers = true →
    (x.coding = [] → Gives (.blockCode series) s s.live) ∧
    (∀ (c : Staged) (rest : List Staged) (ws : List DWord), x.coding = c :: rest → c.samples.length = 256 →
      ws = codeBlock (s.live.get s.build F.SER_CFG_TYPE k) (s.live.get s.build F.SER_CFG_RATIO k)
        (s.live.get s.build F.SER_CFG_EFFORT k) (s.live.gen k) c.blockNo c.samples →
      coderOk (s.live.get s.build F.SER_CFG_TYPE k) c.samples ws = true →
      s.live.celSpoilt s.build (s.live.stageAddr s.build k c.blockNo) 1024 = false →
      Yields (.blockCode series) s fun l =>
        l.sery k = { x with coding := rest, writing := x.writing ++ [⟨c.blockNo, ⟨ws, false⟩,
          !s.live.celDead s.build (s.live.serAddr s.build k c.blockNo)⟩] } ∧
        (∀ j : Nat, j ≠ k → l.sery j = s.live.sery j) ∧ l.rf = s.live.rf ∧
        (∀ m m' : Nat, s.live.celPort s.build (s.live.stageAddr s.build k c.blockNo) = some m' →
          s.live.celPort s.build (s.live.serAddr s.build k c.blockNo) = some m →
          s.live.celFailed s.build m = false → l.out = s.live.out ++
            [.celReq m' false (s.live.celUnit (s.live.stageAddr s.build k c.blockNo)) 31 [],
             .celReq m true (s.live.celUnit (s.live.serAddr s.build k c.blockNo))
               (blkSize (s.live.get s.build F.SER_CFG_RATIO k) / 32 - 1) ws])) ∧
    (x.writing = [] → Gives (.blockCommit series) s s.live) ∧
    (∀ (w : Writing) (rest : List Writing), x.writing = w :: rest →
      (w.sent = false ∨ s.live.celDead s.build (s.live.serAddr s.build k w.no) = true →
        Gives (.blockCommit series) s s.live) ∧
      (w.sent = true → s.live.celDead s.build (s.live.serAddr s.build k w.no) = false →
        Yields (.blockCommit series) s fun l => l.sery k = { x with
            writing := rest, ring := Tab.insert x.ring (w.no % s.live.serNblk s.build k) w.blk,
            commit := BitVec.ofNat 32 ((w.no + 1) * 256) } ∧
          (∀ j : Nat, j ≠ k → l.sery j = s.live.sery j) ∧ l.rf = s.live.rf ∧
          (s.live.flag s.build F.FO_PART_EN = false → l.created = s.live.created))))

/-! ### Queues and egress (spec/10, spec/12) -/

/-- Selection and samples at a buoy's egress (R253 to R265, R132, R133). A FAB edge refills the buckets; without a
head, or without an admitted class, nothing leaves and the held classes count; a quiet window or its guard holds
back and counts in QW_HOLD; else the candidate of class 0, or else of any class, with the smallest tag leaves at
`fab_tx`, its class is charged and V is its tag; each of its beats inside a window counts in OVERRUN and is logged.
At a sample instant the depth and the greatest delay of each queue are copied and the maxima restart. This is the
completion of EGRESS_SELECT and SHAPER_SAMPLE. -/
def Obligations.EgressSelectsByClassAndTag : Prop :=
  (∀ (s : State) (ws : List Word) (f : Live), s.live.awake = true → s.build.form = .buoy →
    f = s.live.refill s.build → Tab.wf s.live.rf = true → Tab.wf s.live.ques = true →
    (s.live.heads = [] → Gives (.egressSelect ws) s f) ∧
    (∀ h : Nat × Nat × Nat, s.live.heads = [h] → f.admitted s.build h.2.2 = false →
      Gives (.egressSelect ws) s (f.bump s.build F.SHP_HOLD_POL_HOLD h.2.2)) ∧
    (s.live.heads ≠ [] → (∀ h ∈ s.live.heads, f.admitted s.build h.2.2 = true) →
      (s.live.mayStart s.build = false → Gives (.egressSelect ws) s (f.bump s.build F.SHP_STAT_QW_HOLD)) ∧
      (∀ (q tag c : Nat) (r : QRec), s.live.mayStart s.build = true → (q, tag, c) ∈ s.live.heads →
        (∀ h ∈ s.live.heads, (c ≠ 0 → h.2.2 ≠ 0) ∧
          (h ≠ (q, tag, c) → (c = 0 → h.2.2 = 0) → tag < h.2.1 ∨ (tag = h.2.1 ∧ q < h.1))) →
        (s.live.que q).headRec = some r → r.bad = none → (∀ e ∈ s.live.entriesOf s.build q, (s.live.qrun e).mark = false) →
        (s.live.que q).marks = [] →
        Yields (.egressSelect ws) s fun l =>
          l.out = s.live.out ++ [.fabTx c (s.live.atPort s.build r.r) (Rec.beats (s.live.atPort s.build r.r))] ∧
          Rec.beats (s.live.atPort s.build r.r) ≠ [] ∧
          (Rec.beats (s.live.atPort s.build r.r)).flatMap (·.data) = (s.live.atPort s.build r.r).words ∧
          (l.que q).recs = (s.live.que q).recs.drop 1 ∧ (l.que q).tail = (s.live.que q).tail ∧
          (∀ k : Nat, k ≠ q → l.que k = s.live.que k) ∧ l.shape.v = tag ∧
          (l.cred s.build c).c = (f.cred s.build c).c - (s.live.charge s.build r.r.len * 65536 : Nat) ∧
          (l.cred s.build c).p = (f.cred s.build c).p - (s.live.charge s.build r.r.len * 65536 : Nat) ∧
          (∀ k : Nat, k ≠ c → l.cred s.build k = f.cred s.build k) ∧
          l.get s.build F.QW_STAT_OVERRUN = (if ws = [] then s.live.get s.build F.QW_STAT_OVERRUN
            else min (s.live.get s.build F.QW_STAT_OVERRUN + ws.length) (2 ^ F.QW_STAT_OVERRUN.w - 1)) ∧
          l.log = (ws.foldl (fun a w => a.logE s.build 0x0304 2 [w.toNat]) s.live).log))) ∧
  (∀ (s : State) (t : Word), s.live.awake = true → s.build.form = .buoy → s.live.shape.sampleAt = some t →
    Tab.wf s.live.rf = true → Tab.wf s.live.ques = true →
    (reached s.live.ft t = false → Gives .shaperSample s s.live) ∧
    (reached s.live.ft t = true → Yields .shaperSample s fun l =>
      (∀ q : Nat, q < 64 →
        l.get s.build F.EGQ_SNAP_DEPTH_RECS_BYTES q = min (s.live.que q).recs.length 4095 +
          4096 * min (((s.live.que q).recs.map (·.r.len)).sum / 8) 0xFFFFF ∧
        l.get s.build F.EGQ_SNAP_DLY_DMAX q = (s.live.que q).dmax % 2 ^ 24 ∧ (l.que q).dmax = 0 ∧
        (l.que q).recs = (s.live.que q).recs) ∧
      l.shape = { s.live.shape with
        sampleAt := some (passBy s.live.ft t (1000 * s.live.get s.build F.SHP_SMP_PERIOD)) } ∧
      l.out = s.live.out))

/-- Queues (R76, R82, R290, R298 to R306, R309, R311). The oldest record created for a queue enters it with its
stamp when it fits, held under NOTICE; in back-pressure mode one that does not fit waits, but a CUTVEC is lost and
counts in QUE_STAT.LOST; a lantern's own record without a route, but for a GAP record, is lost, counts in
LNK_FWD.DROP_NOROUTE and QUE_STAT.LOST and joins the pending run of its stream. The idle timer releases what is
held. A middle and a stream map entry are taken over or refused with REJ. The oldest page of the middle comes back,
and a record with a poisoned payload beat carries POISON. A port that times out is failed from then on, with event
0x0A01. This is the completion of QUEUE_ADMIT, QUEUE_IDLE_TIMEOUT, QUE_MID_WRITE, QMAP_WRITE, MIDDLE_PAGE_RETURN,
CELLAR_TIMEOUT and SPILL_TIMEOUT. -/
def Obligations.QueuesTakeHoldAndRelease : Prop :=
  (∀ (s : State) (q cycles : Nat) (r : Rec) (rest : List (Nat × Rec)), s.live.awake = true →
    s.build.form = .buoy → s.live.created = (q, r) :: rest → s.live.trace.dumps = [] →
    (∀ e : Nat, s.live.mapEntry s.build r.stream.toNat = some e → (s.live.qrun e).count = 0) →
    Tab.wf s.live.ques = true → Tab.wf s.live.rf = true →
    (∀ k : Nat, k ≠ q → (∀ e ∈ s.live.created, e.1 ≠ k) → trStream s.live.trace.arm = false →
      Gives (.queueAdmit k cycles) s s.live) ∧
    (∀ m : Nat × Nat × Nat, s.live.fits s.build q r.len false = some m → m.1 = m.2.1 →
      (s.live.que q).recs = [] → (s.live.que q).marks = [] → (s.live.que q).midHi = 0 → (s.live.que q).midLo = 0 →
      s.live.fits s.build q r.len true = some m →
      Yields (.queueAdmit q cycles) s fun l => l.created = rest ∧
        (l.que q).recs = [⟨r, s.live.ft, decide (s.live.flag s.build F.QUE_CFG_NOTICE q = true ∧
          1 < s.live.get s.build F.QUE_CFG_BATCH_N q ∧ (s.live.get s.build F.QUE_TMO_FB_GAP q = 0 ∨
            cycles < 64 * s.live.get s.build F.QUE_TMO_FB_GAP q)), (s.live.que q).tail, none⟩] ∧
        (l.que q).tail = (s.live.que q).tail + r.len ∧ (∀ k : Nat, k ≠ q → l.que k = s.live.que k)) ∧
    (s.live.fits s.build q r.len false = none → s.live.flag s.build F.QUE_CFG_NOTICE q = false →
      s.live.flag s.build F.QUE_CFG_MODE q = false →
      (r.ty ≠ 0x02 → r.ty ≠ 0x03 → Gives (.queueAdmit q cycles) s s.live) ∧
      (r.ty = 0x02 → Yields (.queueAdmit q cycles) s fun l => l.created = rest ∧
        l.get s.build F.QUE_STAT_LOST q =
          min (s.live.get s.build F.QUE_STAT_LOST q + 1) (2 ^ F.QUE_STAT_LOST.w - 1)))) ∧
  (∀ (s : State) (q cycles : Nat) (r : Rec) (rest : List (Nat × Rec)), s.live.awake = true →
    s.build.form = .lantern → 1024 ≤ q → s.live.created = (q, r) :: rest → s.live.waysOf s.build r = [] →
    r.ty ≠ 0x0A → s.live.trace.dumps = [] → Tab.wf s.live.rf = true → Tab.wf s.live.runs = true →
    Yields (.queueAdmit q cycles) s fun l => l.created = rest ∧ l.ques = s.live.ques ∧
      l.get s.build F.LNK_FWD_DROP_NOROUTE =
        min (s.live.get s.build F.LNK_FWD_DROP_NOROUTE + 1) (2 ^ F.LNK_FWD_DROP_NOROUTE.w - 1) ∧
      l.get s.build F.QUE_STAT_LOST q =
        min (s.live.get s.build F.QUE_STAT_LOST q + 1) (2 ^ F.QUE_STAT_LOST.w - 1) ∧
      (∀ e : Nat, s.live.mapEntry s.build r.stream.toNat = some e →
        (l.qrun e).count = (s.live.qrun e).count + 1 ∧
        ((s.live.qrun e).count = 0 → (l.qrun e).first = r.seq ∧ (l.qrun e).cause = 1))) ∧
  (∀ (s : State) (q : BitVec 12), s.live.awake = true → Tab.wf s.live.ques = true →
    ((∀ r ∈ (s.live.que q.toNat).recs, r.held = false) → Gives (.queueIdleTimeout q) s s.live) ∧
    ((∃ r ∈ (s.live.que q.toNat).recs, r.held = true) → (s.live.que q.toNat).marks = [] →
      Yields (.queueIdleTimeout q) s fun l =>
        (l.que q.toNat).recs = (s.live.que q.toNat).recs.map (fun r => { r with held := false }) ∧
        (∀ k : Nat, k ≠ q.toNat → l.que k = s.live.que k) ∧
        l.rf = (s.live.bump s.build F.QUE_NSTAT_NOTICE_IDLE q.toNat).rf)) ∧
  (∀ (s : State) (base len : Word) (q n : Nat), Served s → q = s.live.shownQueue s.build →
    n = len.toNat % 2 ^ 24 → Tab.wf s.live.rf = true → (s.live.que q).recs = [] →
    s.live.get s.build F.QUE_MIDLEN_MID_PAGES q = 0 →
    (s.build.ownQueue q = true → (s.build.form = .buoy → s.build.spillEn = true) →
      (n = 0 ∨ ((s.live.midArea s.build).1 ≤ (midRegion s.build base.toNat n).1 ∧
        (midRegion s.build base.toNat n).2 ≤ (s.live.midArea s.build).2 ∧
        s.live.midClash s.build q (midRegion s.build base.toNat n) = false)) →
      Yields (.queMidWrite base len) s fun l => l.get s.build F.QUE_MID_MID_BASE q = base.toNat ∧
        l.get s.build F.QUE_MIDLEN_MID_PAGES q = n ∧ l.ques = s.live.ques) ∧
    (s.build.ownQueue q = false ∨ (s.build.form = .buoy ∧ s.build.spillEn = false) →
      Yields (.queMidWrite base len) s fun l => l.get s.build F.QUE_STAT_REJ q = 1 ∧
        l.get s.build F.QUE_MIDLEN_MID_PAGES q = 0 ∧ l.ques = s.live.ques)) ∧
  (∀ (s : State) (v : Word) (e st q : Nat), Served s → e = s.live.get s.build F.QMAP_SEL_ENTRY →
    e < (if s.build.buoy then 128 else 2048) → st = v.toNat % 2 ^ 14 → q = v.toNat / 2 ^ 14 % 2 ^ 12 →
    Tab.wf s.live.rf = true →
    (s.live.planStream s.build (s.live.get s.build F.QMAP_STREAM e) = true ∨
      s.live.planStream s.build st = true →
      Gives (.qmapWrite v) s
        ((s.live.inTurn.put s.build F.QUE_STAT_REJ 1 (s.live.shownQueue s.build)).emit (.regRsp 0 false))) ∧
    (s.live.planStream s.build (s.live.get s.build F.QMAP_STREAM e) = false →
      s.live.planStream s.build st = false → s.build.ownQueue q = true → s.live.mapEntry s.build st = none →
      Yields (.qmapWrite v) s fun l => l.get s.build F.QMAP_STREAM e = st ∧ l.get s.build F.QMAP_QUEUE e = q ∧
        l.flag s.build F.QMAP_VALID e = v.toNat.testBit 26 ∧ l.ques = s.live.ques) ∧
    (v.toNat.testBit 26 = true → s.build.ownQueue q = false →
      Gives (.qmapWrite v) s
        ((s.live.inTurn.put s.build F.QUE_STAT_REJ 1 (s.live.shownQueue s.build)).emit (.regRsp 0 false)))) ∧
  (∀ (s : State) (q : BitVec 12) (bad : BitVec 16) (x : Que),
    s.live.awake = true → s.build.form = .buoy → x = s.live.que q.toNat → Tab.wf s.live.ques = true →
    (x.midHi ≤ x.midLo → Gives (.middlePageReturn q bad) s s.live) ∧
    (x.midLo < x.midHi → x.midLo < x.front + 8 → s.live.spillShut s.build = false → s.live.spillFail = false →
      x.marks = [] →
      (bad = 0 → Yields (.middlePageReturn q bad) s fun l => (l.que q.toNat).recs = x.recs ∧
        (l.que q.toNat).midHi - (l.que q.toNat).midLo = x.midHi - x.midLo - 1 ∧
        l.out = s.live.out ++ [.spillReq false (s.live.midAddr s.build q.toNat x.midLo) 15 []] ∧
        (∀ k : Nat, k ≠ q.toNat → l.que k = s.live.que k)) ∧
      (bad.toNat.testBit 0 = false →
        (∀ r ∈ x.recs, hitBy bad.toNat x.midLo r.pos (r.pos + 16) = false) →
        Yields (.middlePageReturn q bad) s fun l => (l.que q.toNat).recs = x.recs.map fun y =>
          if hitBy bad.toNat x.midLo y.pos (y.pos + y.r.len) then { y with r := { y.r with poison := true } }
          else y))) ∧
  (∀ (s : State) (m : BitVec 4), s.live.awake = true → s.build.form = .lantern →
    s.live.celPorts.contains m.toNat = true →
    (m.toNat ∈ s.live.celFail → Gives (.cellarTimeout m) s s.live) ∧
    (m.toNat ∉ s.live.celFail → Gives (.cellarTimeout m) s
      (({ s.live with celFail := s.live.celFail ++ [m.toNat] } : Live).logE s.build 0x0A01 3 [m.toNat]))) ∧
  (∀ s : State, s.live.awake = true → s.build.form = .buoy → s.build.spillEn = true →
    (s.live.spillFail = true → Gives .spillTimeout s s.live) ∧
    (s.live.spillFail = false → Gives .spillTimeout s
      (({ s.live with spillFail := true } : Live).logE s.build 0x0A01 3 [0])))

/-! ### Links (spec/11) -/

/-- Link ports of a lantern (R268, R270 to R272, R277, R279, R281 to R287, R291, R294). A role write takes the link
down, or is refused with ROLE_REJ while a plan names the link. A link trains after its retrain interval, enters INIT
when its lanes are up, and UP at the first good STATUS; failed trainings count in TRAIN_FAIL. A link that leaves UP
counts in LINK_FAIL and logs 0x0902, and an unacknowledged record becomes a GAP record at the front of its queue.
STATUS frees what it acknowledges; a NAK or the timer replays, the 17th time without progress the link fails. A unit
with the expected FSEQ is taken and its record goes to its transit queue, a duplicate makes a STATUS due, any other
unit asks for a replay. A unit boundary sends the replay, then STATUS, then CTL and FWD units; a late plan unit and
an aged record are discarded and counted. A reroute hold ends for a stream and for its records to every buoy. This
is the completion of LNK_ROLE_WRITE, RETRAIN_TIMER, LANES_UP, TRAINING_TIMEOUT, INIT_TIMEOUT, STATUS_REPEAT,
LANES_DOWN, REPLAY_TIMEOUT, LINK_RESYNCHRONISATION_END, PLAN_UNIT_LATE, RECORD_AGED, REROUTE_HOLD_EXPIRY,
STATUS_RECEIVE, UNIT_RECEIVE and LINK_TRANSMIT. -/
def Obligations.LinksComeUpCarryUnitsAndFail : Prop :=
  (∀ (s : State) (n : BitVec 5) (v : Word) (k : Nat), Served s → s.build.form = .lantern → k = n.toNat →
    Tab.wf s.live.rf = true → Tab.wf s.live.links = true →
    (s.live.role s.build k = v.toNat % 4 → s.live.get s.build F.LNK_ROLE_ONE_LANE k = v.toNat / 4 % 2 →
      s.live.get s.build F.LNK_ROLE_DIR k = v.toNat / 8 % 8 → Gives (.lnkRoleWrite n v) s (written s)) ∧
    (s.live.role s.build k ≠ v.toNat % 4 →
      (s.live.linkNamed k = true → Gives (.lnkRoleWrite n v) s
        ((written s).put s.build F.LNK_STAT_ROLE_REJ 1 k)) ∧
      (s.live.linkNamed k = false → Yields (.lnkRoleWrite n v) s fun l =>
        l.role s.build k = v.toNat % 4 ∧ l.get s.build F.LNK_ROLE_ONE_LANE k = v.toNat / 4 % 2 ∧
        l.get s.build F.LNK_ROLE_DIR k = v.toNat / 8 % 8 ∧ (l.link k).st = .down ∧ (l.link k).unacked = [] ∧
        (v.toNat % 4 = 1 → 6 ≤ v.toNat / 8 % 8 → l.get s.build F.LNK_STAT_ROLE_REJ k = 1)))) ∧
  (∀ (s : State) (n : BitVec 5) (k : Nat) (x : Link), s.live.awake = true → s.build.form = .lantern →
    k = n.toNat → x = s.live.link k → Tab.wf s.live.links = true → Tab.wf s.live.rf = true →
    (s.live.role s.build k = 0 ∨ s.live.flag s.build F.UNIT_EN_LNK_LNK 0 k = false →
      Gives (.retrainTimer n) s s.live) ∧
    (x.st = .down → s.live.role s.build k ≠ 0 → s.live.flag s.build F.UNIT_EN_LNK_LNK 0 k = true →
      (s.live.badDir s.build k = false →
        Gives (.retrainTimer n) s (s.live.updLink k fun a => { a with st := .training })) ∧
      (s.live.badDir s.build k = true →
        Gives (.retrainTimer n) s (s.live.put s.build F.LNK_STAT_ROLE_REJ 1 k))) ∧
    (x.st = .training → Yields (.lanesUp n) s fun l => l.link k = { x with
        st := .init, fails := 0, txNext := 0, unacked := [], replay := 0, replays := 0, sentCtl := 0,
        sentFwd := 0, peerCtl := 0, peerFwd := 0, rxExp := 0, ack := 0x3FF, freedCtl := 256,
        freedFwd := 1536, owed := 0, statusDue := true, statusAt := none, nakDue := false, resync := false } ∧
      (∀ j : Nat, j ≠ k → l.link j = s.live.link j) ∧ l.rf = s.live.rf) ∧
    (x.st ≠ .training → Gives (.lanesUp n) s s.live ∧ Gives (.trainingTimeout n) s s.live) ∧
    (x.st = .training → Yields (.trainingTimeout n) s fun l =>
      l.link k = { x with st := .down, fails := x.fails + 1 } ∧
      l.get s.build F.LNK_STAT_TRAIN_FAIL k = min (s.live.get s.build F.LNK_STAT_TRAIN_FAIL k + 1) 255 ∧
      l.log = (if x.fails = 0 then (s.live.logE s.build 0x0901 2 [k]).log else s.live.log)) ∧
    (x.st = .init → Yields (.initTimeout n) s fun l => (l.link k).st = .down ∧ (l.link k).unacked = [] ∧
      (x.unacked = [] → x.ctl = [] → x.loads = [] → ∀ j : Nat, j ≠ k → l.link j = s.live.link j) ∧
      l.get s.build F.LNK_STAT_TRAIN_FAIL k = min (s.live.get s.build F.LNK_STAT_TRAIN_FAIL k + 1) 255) ∧
    (x.st = .init → Gives (.statusRepeat n) s (s.live.updLink k fun a => { a with statusDue := true })) ∧
    (x.st ≠ .init → Gives (.statusRepeat n) s s.live ∧ Gives (.initTimeout n) s s.live) ∧
    (x.st = .down → Gives (.lanesDown n) s s.live) ∧
    (x.st = .up → Yields (.lanesDown n) s fun l => (l.link k).st = .down ∧ (l.link k).unacked = [] ∧
      l.get s.build F.LNK_STAT_LINK_FAIL k = min (s.live.get s.build F.LNK_STAT_LINK_FAIL k + 1) 255 ∧
      (x.unacked = [] → x.ctl = [] → x.loads = [] → (l.link k).pln = x.pln ∧
        (∀ j : Nat, j ≠ k → l.link j = s.live.link j) ∧
        l.log = (s.live.logE s.build 0x0902 3 [k, 0]).log)) ∧
    (∀ (u : TxUnit) (r : Rec), x.st = .up → x.unacked = [u] → x.ctl = [] → x.loads = [] →
      tailClass u.tail = 2 → u.r = some r → isCmd r = false → r.ty ≠ 0x0A → u.src < 32 → s.live.ques = [] →
      Yields (.lanesDown n) s fun l => (l.link k).st = .down ∧ (l.link k).unacked = [] ∧
        ((l.que (32 * u.src + k)).recs.map fun h => (h.r.ty, h.r.src, h.r.stream, h.r.seq)) =
          [(0x0A, r.src, r.stream, r.seq)]) ∧
    (x.st = .up → x.unacked = [] → Gives (.replayTimeout n) s s.live) ∧
    (x.st = .up → x.unacked ≠ [] → x.replays < 16 → Yields (.replayTimeout n) s fun l =>
      l.link k = { x with replay := x.unacked.length, replays := x.replays + 1 } ∧
      l.get s.build F.LNK_STAT_REPLAYS k = min (s.live.get s.build F.LNK_STAT_REPLAYS k + 1) 255 ∧
      (∀ j : Nat, j ≠ k → l.link j = s.live.link j)) ∧
    (x.st = .up → x.unacked ≠ [] → 16 ≤ x.replays → Yields (.replayTimeout n) s fun l =>
      (l.link k).st = .down) ∧
    Gives (.linkResynchronisationEnd n) s (s.live.updLink k fun a => { a with resync := false }) ∧
    ((∀ i ∈ x.pln, s.live.planLate k i = false) → Gives (.planUnitLate n) s s.live) ∧
    (∀ (i : LinkItem) (rest : List LinkItem), x.pln = i :: rest → s.live.planLate k i = true →
      s.live.flt.rpl.st = .off → Yields (.planUnitLate n) s fun l => l.link k = { x with pln := rest } ∧
        l.get s.build F.LNK_ERR_PLAN_LATE k = min (s.live.get s.build F.LNK_ERR_PLAN_LATE k + 1) 255 ∧
        l.plans = s.live.plans) ∧
    (∀ (i : LinkItem) (rest : List LinkItem) (r : Rec), x.ctl = i :: rest → i.r = some r → r.ty ≠ 0x0A →
      s.live.ageMax s.build < (s.live.ft - i.stamp).toNat → Yields (.recordAged (.ctl n)) s fun l =>
        (l.link k).ctl = (if s.live.role s.build k = 2 ∧ isCmd r = false then
          [⟨(s.live.gapOf s.build r 4).words, some (s.live.gapOf s.build r 4), i.plan, i.dest, i.stamp, none⟩]
          else []) ++ rest ∧
        l.get s.build F.LNK_FWD_DROP_AGED = min (s.live.get s.build F.LNK_FWD_DROP_AGED + 1)
          (2 ^ F.LNK_FWD_DROP_AGED.w - 1))) ∧
  (∀ (s : State) (src : BitVec 18) (stream : BitVec 14) (k : Nat),
    k = src.toNat * 2 ^ 14 + stream.toNat → Tab.wf s.live.routes = true →
    Yields (.rerouteHoldExpiry src stream) s fun l =>
      (∀ j : Nat, Tab.find? l.routes j = (if j % 2 ^ 32 = k then
        (Tab.find? s.live.routes j).map (fun e => { e with hold := false }) else Tab.find? s.live.routes j)) ∧
      l.links = s.live.links) ∧
  (∀ (s : State) (n : BitVec 5) (u : RxUnit) (k : Nat) (x : Link), s.live.awake = true →
    s.build.form = .lantern → k = n.toNat → x = s.live.link k → Tab.wf s.live.links = true →
    Tab.wf s.live.rf = true → Tab.wf s.live.ques = true → x.st = .init ∨ x.st = .up → x.resync = false →
    (isStatus u.body = true → u.cut = false → goodUnit u = false →
      Gives (.statusReceive n u) s (s.live.bump s.build F.LNK_ERR_LCRC k)) ∧
    (isStatus u.body = true → u.cut = false → goodUnit u = true → u.body.length = 3 →
      tailSq u.tail = true ∨ tailClass u.tail = 3 ∨ (tailClass u.tail = 1 ∧ s.live.role s.build k = 2) →
      Yields (.statusReceive n u) s fun l => l.link k = { x with resync := true, nakDue := true } ∧
        l.get s.build F.LNK_ERR_FRAME k = min (s.live.get s.build F.LNK_ERR_FRAME k + 1) 255) ∧
    (isStatus u.body = true → u.cut = false → goodUnit u = true → u.body.length = 3 →
      tailSq u.tail = false → tailClass u.tail ≠ 3 → (tailClass u.tail = 1 → s.live.role s.build k ≠ 2) →
      (s.live.link waitLink).ctl = [] → k ≠ waitLink →
      (fld (wordAt u.body 0) 16 1 = 0 → Yields (.statusReceive n u) s fun l => (l.link k).st = .up ∧
        (l.link k).unacked = x.unacked.filter (fun t => !covers (fld (wordAt u.body 0) 17 10) t.fseq) ∧
        (l.link k).peerCtl = fld (wordAt u.body 1) 0 16 ∧ (l.link k).peerFwd = fld (wordAt u.body 1) 16 16 ∧
        (l.link k).statusDue = (x.statusDue || decide (x.st = .init)) ∧
        (∀ j : Nat, j ≠ k → j ≠ waitLink → l.link j = s.live.link j)) ∧
      (fld (wordAt u.body 0) 16 1 = 1 → x.replays < 16 →
        (∀ t ∈ x.unacked, covers (fld (wordAt u.body 0) 17 10) t.fseq = false) →
        Yields (.statusReceive n u) s fun l => (l.link k).replay = x.unacked.length ∧
          (l.link k).replays = x.replays + 1)) ∧
    (isStatus u.body = false → s.live.badUnit s.build k u = true →
      Yields (.unitReceive n u) s fun l => l.link k = { x with resync := true, nakDue := true } ∧
        l.get s.build F.LNK_ERR_FRAME k = min (s.live.get s.build F.LNK_ERR_FRAME k + 1) 255) ∧
    (isStatus u.body = false → s.live.badUnit s.build k u = false → goodUnit u = false →
      Yields (.unitReceive n u) s fun l => l.link k = { x with resync := true, nakDue := true } ∧
        l.get s.build F.LNK_ERR_LCRC k = min (s.live.get s.build F.LNK_ERR_LCRC k + 1) 255) ∧
    (isStatus u.body = false → s.live.badUnit s.build k u = false → goodUnit u = true →
      x.rxExp < 1024 →
      ((x.rxExp + 1024 - tailFseq u.tail) % 1024 ≠ 0 → (x.rxExp + 1024 - tailFseq u.tail) % 1024 ≤ 512 →
        Gives (.unitReceive n u) s (s.live.updLink k fun a => { a with statusDue := true })) ∧
      (512 < (x.rxExp + 1024 - tailFseq u.tail) % 1024 →
        Gives (.unitReceive n u) s (s.live.updLink k fun a => { a with resync := true, nakDue := true })) ∧
      (∀ (r : Rec) (c : Nat) (m : Nat × Nat × Nat), tailFseq u.tail = x.rxExp → recOfWords u.body = some r →
        tailClass u.tail = 2 → s.live.role s.build k = 1 → s.live.consumed s.build r = false →
        s.live.waysOf s.build r = [c] → s.live.isUp c = true → s.live.created = [] →
        s.live.fits s.build (32 * k + c) r.len (decide (r.ty = 0x0A)) = some m →
        (s.live.que (32 * k + c)).marks = [] →
        Yields (.unitReceive n u) s fun l => (l.link k).rxExp = (x.rxExp + 1) % 1024 ∧
          (l.link k).ack = x.rxExp ∧ (l.link k).statusDue = true ∧
          (l.link k).freedFwd = (x.freedFwd + flitsOf u.body.length) % 65536 ∧
          (l.que (32 * k + c)).recs.map (·.r) = (s.live.que (32 * k + c)).recs.map (·.r) ++ [(s.live.resume r).2] ∧
          (∀ q : Nat, q ≠ 32 * k + c → l.que q = s.live.que q)))) ∧
  (∀ (s : State) (n : BitVec 5) (k : Nat) (x : Link), s.live.awake = true → s.build.form = .lantern →
    k = n.toNat → x = s.live.link k → x.st = .up → Tab.wf s.live.links = true → Tab.wf s.live.ques = true →
    (∀ u : TxUnit, 0 < x.replay → x.unacked[x.unacked.length - x.replay]? = some u → u.bad = none →
      (∀ w ∈ x.unacked, w.fseq = u.fseq → w = u) →
      Gives (.linkTransmit n) s ((s.live.updLink k fun a => { a with replay := x.replay - 1 }).emit
        (.linkTx k u.body u.tail))) ∧
    (∀ body : List DWord, body = [packW [(8, 1), (16, b2n x.nakDue), (17, x.ack)],
        packW [(0, x.freedCtl), (16, x.freedFwd)], 0] → x.replay = 0 → s.live.statusGo k = true →
      Gives (.linkTransmit n) s ((s.live.updLink k fun a => { a with
        statusDue := false, nakDue := false, statusAt := some s.live.ft }).emit
          (.linkTx k body (mkTail 0 0 0 0 0 body)))) ∧
    (x.replay = 0 → s.live.statusGo k = false → x.pln = [] → s.live.ques = [] → x.unacked.length < 511 →
      (x.ctl = [] → Gives (.linkTransmit n) s s.live) ∧
      (∀ (i : LinkItem) (rest : List LinkItem), x.ctl = i :: rest → s.live.itemHeld k i = false →
        (x.room (flitsOf i.body.length) = false ∨ s.live.mayRun s.build k (flitsOf i.body.length) = false ∨
          creditFor x.peerCtl x.sentCtl (flitsOf i.body.length) = false → Gives (.linkTransmit n) s s.live) ∧
        (∀ r : Rec, i.r = some r → i.bad = none → r.ty ≠ 0x0E → x.room (flitsOf i.body.length) = true →
          s.live.mayRun s.build k (flitsOf i.body.length) = true →
          creditFor x.peerCtl x.sentCtl (flitsOf i.body.length) = true →
          Yields (.linkTransmit n) s fun l => (l.link k).ctl = rest ∧
            (l.link k).txNext = (x.txNext + 1) % 1024 ∧
            (l.link k).sentCtl = (x.sentCtl + flitsOf i.body.length) % 65536 ∧
            (l.link k).unacked.length = x.unacked.length + 1 ∧
            l.out = s.live.out ++ [.linkTx k i.body (mkTail x.txNext 1 0
              (if s.live.role s.build k = 2 then i.dest else 0) 0 i.body)]))) ∧
    (∀ (i q : Nat) (h : QRec), x.replay = 0 → s.live.statusGo k = false → x.pln = [] → x.ctl = [] →
      s.live.ques.map (·.1) = [q] → q % 32 = k → q < 1024 → i = q / 32 → i ≠ k →
      (s.live.que q).headRec = some h → h.bad = none →
      (s.live.que q).marks = [] → s.live.onHold h.r k = false → s.live.created = [] →
      (x.room (flitsOf h.r.words.length) = true → s.live.mayRun s.build k (flitsOf h.r.words.length) = true →
        creditFor x.peerFwd x.sentFwd (flitsOf h.r.words.length) = true →
        Yields (.linkTransmit n) s fun l => (l.link k).sentFwd =
            (x.sentFwd + flitsOf h.r.words.length) % 65536 ∧ (l.link k).rr = (i + 1) % 33 ∧
          (l.que q).recs = (s.live.que q).recs.drop 1 ∧
          l.out = s.live.out ++ [.linkTx k h.r.words (mkTail x.txNext 1 2 0 0 h.r.words)]) ∧
      (creditFor x.peerFwd x.sentFwd (flitsOf h.r.words.length) = false →
        Yields (.linkTransmit n) s fun l => l.out = s.live.out ∧ l.ques = s.live.ques)))

/-! ### The whole block -/

/-- Every command of the table completes in every state, and changes neither the build nor the queue. So no run
stops, with commands in its queue or idle; the commands of the queue run one by one, first in, first out; and a
command that waits behind others has no part in what they do. -/
def Obligations.CommandsRunInOrderAndNeverStop : Prop :=
  (∀ (c : Instr) (s : State), Yields c s fun _ => True) ∧
  (∀ (n : Nat) (s : State), Safety.safeFor n s) ∧
  (∀ (s : State) (cs rest : List Instr), ∃ l : Live,
    after cs.length { s with pending := cs } = some { s with live := l, pending := [] } ∧
    after cs.length { s with pending := cs ++ rest } = some { s with live := l, pending := rest }) ∧
  (∀ (s : State) (cs : List Instr) (c : Instr) (l : Live),
    after cs.length { s with pending := cs } = some { s with live := l, pending := [] } →
    ∃ l', Gives c { s with live := l, pending := [] } l' ∧
      after (cs.length + 1) { s with pending := cs ++ [c] } = some { s with live := l', pending := [] })

/-- Of the commands, only resets and power events, clock events, register writes and a unit's own commands set the
port clocks and the oscillator trim, the calibration words, the pulse outputs, the shaper, GEN, the link table,
and the failure marks of cellars and of spill; every other command leaves them as they are. -/
def Obligations.OtherCommandsLeaveClocksCalibrationAndPulses : Prop :=
  ∀ (c : Instr) (s : State) (l : Live), sets c = false → Gives c s l →
    l.clk = s.live.clk ∧ l.cal = s.live.cal ∧ l.pulses = s.live.pulses ∧ l.shape = s.live.shape ∧
    l.table = s.live.table ∧ l.gens = s.live.gens ∧ l.genBase = s.live.genBase ∧
    l.celFail = s.live.celFail ∧ l.spillFail = s.live.spillFail

/-- Every step keeps the tables of the block (registers, queues, plans, links, series, counters, slots) in their
canonical form, in which equal contents are equal data. -/
def Obligations.StepKeepsTablesCanonical : Prop :=
  ∀ s t : State, Safety.Canonical s.live → step s = .next t → Safety.Canonical t.live

/-- After reset every table is in its canonical form. -/
def Obligations.ResetTablesAreCanonical : Prop := Safety.Canonical State.reset.live

end Statements
end

