-- ==== Sys2Proof/Laws/Tab.lean ====
section
/-! SUPPORT. Sparse tables: a read after a write gives the value written, a write leaves every other index
alone, and every operation keeps the canonical form. -/

namespace Sys2Proof.Machine

variable {α β : Type}

theorem Tab.sortedFrom_mono {lo hi : Nat} (h : lo ≤ hi) :
    ∀ t : Tab α, Tab.sortedFrom hi t = true → Tab.sortedFrom lo t = true
  | [], _ => rfl
  | (j, _) :: t, ht => by
    simp only [Tab.sortedFrom, Bool.and_eq_true, decide_eq_true_eq] at ht ⊢
    exact ⟨by omega, ht.2⟩

/-- An index below the start of a table is not listed. -/
theorem Tab.find?_below {k lo : Nat} (h : k < lo) :
    ∀ t : Tab α, Tab.sortedFrom lo t = true → Tab.find? t k = none
  | [], _ => rfl
  | (j, a) :: t, ht => by
    simp only [Tab.sortedFrom, Bool.and_eq_true, decide_eq_true_eq] at ht
    have h1 : ¬ j = k := by omega
    have h2 : k < j := by omega
    simp [Tab.find?, h1, h2]

theorem Tab.find?_insert_same (k : Nat) (a : α) : ∀ t : Tab α, Tab.find? (Tab.insert t k a) k = some a
  | [] => by simp [Tab.insert, Tab.find?]
  | (j, b) :: t => by
    simp only [Tab.insert]
    split
    · simp [Tab.find?]
    · rename_i h
      split
      · simp [Tab.find?]
      · rename_i h'
        simp [Tab.find?, h, h', Tab.find?_insert_same k a t]

theorem Tab.find?_insert_ne {k i : Nat} (h : k ≠ i) (a : α) :
    ∀ t : Tab α, Tab.find? (Tab.insert t k a) i = Tab.find? t i
  | [] => by simp [Tab.insert, Tab.find?, h]
  | (j, b) :: t => by
    simp only [Tab.insert]
    split
    · rename_i hj; subst hj; simp [Tab.find?, h]
    · split
      · rename_i hj hk
        by_cases h1 : i < k
        · have h2 : i < j := by omega
          have h3 : ¬ j = i := by omega
          simp [Tab.find?, h, h1, h2, h3]
        · simp [Tab.find?, h, h1]
      · simp only [Tab.find?, Tab.find?_insert_ne h a t]

theorem Tab.find?_erase_same (k : Nat) :
    ∀ (lo : Nat) (t : Tab α), Tab.sortedFrom lo t = true → Tab.find? (Tab.erase t k) k = none
  | _, [], _ => rfl
  | lo, (j, a) :: t, ht => by
    simp only [Tab.sortedFrom, Bool.and_eq_true, decide_eq_true_eq] at ht
    simp only [Tab.erase]
    split
    · rename_i h; subst h
      exact Tab.find?_below (Nat.lt_succ_self j) t ht.2
    · split
      · rename_i h h'; simp [Tab.find?, h, h']
      · rename_i h h'
        simp [Tab.find?, h, h', Tab.find?_erase_same k (j + 1) t ht.2]

theorem Tab.find?_erase_ne {k i : Nat} (h : k ≠ i) :
    ∀ (lo : Nat) (t : Tab α), Tab.sortedFrom lo t = true → Tab.find? (Tab.erase t k) i = Tab.find? t i
  | _, [], _ => rfl
  | lo, (j, a) :: t, ht => by
    simp only [Tab.sortedFrom, Bool.and_eq_true, decide_eq_true_eq] at ht
    simp only [Tab.erase]
    split
    · rename_i hj; subst hj
      by_cases h1 : i < j
      · rw [Tab.find?_below (by omega) t ht.2]; simp [Tab.find?, h, h1]
      · simp [Tab.find?, h, h1]
    · split
      · rfl
      · simp only [Tab.find?, Tab.find?_erase_ne h (j + 1) t ht.2]

theorem Tab.sortedFrom_insert {lo k : Nat} (h : lo ≤ k) (a : α) :
    ∀ t : Tab α, Tab.sortedFrom lo t = true → Tab.sortedFrom lo (Tab.insert t k a) = true
  | [], _ => by simp [Tab.insert, Tab.sortedFrom, h]
  | (j, b) :: t, ht => by
    simp only [Tab.sortedFrom, Bool.and_eq_true, decide_eq_true_eq] at ht
    simp only [Tab.insert]
    split
    · rename_i hj; subst hj; simp [Tab.sortedFrom, ht]
    · split
      · rename_i hj hk
        simp [Tab.sortedFrom, ht.2, h]; omega
      · rename_i hj hk
        have := Tab.sortedFrom_insert (lo := j + 1) (k := k) (by omega) a t ht.2
        simp [Tab.sortedFrom, ht.1, this]

theorem Tab.sortedFrom_erase (k : Nat) :
    ∀ (lo : Nat) (t : Tab α), Tab.sortedFrom lo t = true → Tab.sortedFrom lo (Tab.erase t k) = true
  | _, [], _ => rfl
  | lo, (j, b) :: t, ht => by
    have h := ht
    simp only [Tab.sortedFrom, Bool.and_eq_true, decide_eq_true_eq] at ht
    simp only [Tab.erase]
    split
    · exact Tab.sortedFrom_mono (by omega) t ht.2
    · split
      · exact h
      · simp [Tab.sortedFrom, ht.1, Tab.sortedFrom_erase k (j + 1) t ht.2]

theorem Tab.wf_insert {t : Tab α} (h : Tab.wf t = true) (k : Nat) (a : α) :
    Tab.wf (Tab.insert t k a) = true := Tab.sortedFrom_insert (Nat.zero_le k) a t h

theorem Tab.wf_erase {t : Tab α} (h : Tab.wf t = true) (k : Nat) : Tab.wf (Tab.erase t k) = true :=
  Tab.sortedFrom_erase k 0 t h

/-- A table changed value by value lists the same indices. -/
theorem Tab.sortedFrom_mapVal (f : Nat → α → β) :
    ∀ (lo : Nat) (t : Tab α), Tab.sortedFrom lo (Tab.mapVal f t) = Tab.sortedFrom lo t
  | _, [] => rfl
  | lo, (j, a) :: t => by
    have := Tab.sortedFrom_mapVal f (j + 1) t
    simp only [Tab.mapVal, List.map, Tab.sortedFrom] at this ⊢
    rw [this]

/-- Fewer entries keep the canonical form. -/
theorem Tab.sortedFrom_filter (p : Nat × α → Bool) :
    ∀ (lo : Nat) (t : Tab α), Tab.sortedFrom lo t = true → Tab.sortedFrom lo (List.filter p t) = true
  | _, [], _ => rfl
  | lo, (j, a) :: t, ht => by
    simp only [Tab.sortedFrom, Bool.and_eq_true, decide_eq_true_eq] at ht
    have h := Tab.sortedFrom_filter p (j + 1) t ht.2
    simp only [List.filter]
    split
    · simp [Tab.sortedFrom, ht.1, h]
    · exact Tab.sortedFrom_mono (by omega) _ h

variable [DecidableEq α]

/-- A write keeps the canonical form. -/
theorem Tab.wf_set {t : Tab α} (h : Tab.wf t = true) (k : Nat) (d a : α) :
    Tab.wf (Tab.set t k d a) = true := by
  unfold Tab.set
  split
  · exact Tab.wf_erase h k
  · exact Tab.wf_insert h k a

theorem Tab.wf_upd {t : Tab α} (h : Tab.wf t = true) (k : Nat) (d : α) (f : α → α) :
    Tab.wf (Tab.upd t k d f) = true := Tab.wf_set h k d _

/-- A read after a write to the same index gives the value written. -/
theorem Tab.getD_set_same {t : Tab α} (h : Tab.wf t = true) (k : Nat) (d a : α) :
    Tab.getD (Tab.set t k d a) k d = a := by
  unfold Tab.set Tab.getD
  split
  · rename_i ha; rw [Tab.find?_erase_same k 0 t h]; simp [ha]
  · rw [Tab.find?_insert_same]; rfl

/-- A write leaves every other index alone, whatever its default. -/
theorem Tab.getD_set_ne {t : Tab α} (h : Tab.wf t = true) {k i : Nat} (hk : k ≠ i) (d a d' : α) :
    Tab.getD (Tab.set t k d a) i d' = Tab.getD t i d' := by
  unfold Tab.set Tab.getD
  split
  · rw [Tab.find?_erase_ne hk 0 t h]
  · rw [Tab.find?_insert_ne hk]

theorem Tab.getD_upd_same {t : Tab α} (h : Tab.wf t = true) (k : Nat) (d : α) (f : α → α) :
    Tab.getD (Tab.upd t k d f) k d = f (Tab.getD t k d) := Tab.getD_set_same h k d _

theorem Tab.getD_upd_ne {t : Tab α} (h : Tab.wf t = true) {k i : Nat} (hk : k ≠ i) (d d' : α) (f : α → α) :
    Tab.getD (Tab.upd t k d f) i d' = Tab.getD t i d' := Tab.getD_set_ne h hk d _ d'

end Sys2Proof.Machine
end

