-- ==== Sys2Proof/Laws/Entities.lean ====
section
/-! SUPPORT. What a change of one plan entry, link, queue, counter, pulse output, quiet-window set, series or
PMBus device does to that one, and to the others of its table. -/

namespace Sys2Proof.Machine

variable {l : Live} {k i : Nat}

theorem Live.plan_setPlan_same (h : Tab.wf l.plans = true) (x : Plan) : (l.setPlan k x).plan k = x :=
  Tab.getD_set_same h k plan0 x

theorem Live.plan_setPlan_ne (h : Tab.wf l.plans = true) (hk : k ≠ i) (x : Plan) :
    (l.setPlan k x).plan i = l.plan i :=
  Tab.getD_set_ne h hk plan0 x plan0

theorem Live.setPlan_wf (h : Tab.wf l.plans = true) (k : Nat) (x : Plan) : Tab.wf (l.setPlan k x).plans = true :=
  Tab.wf_set h k plan0 x

/-! ### One plan -/

theorem Live.plan_updPlan_same (h : Tab.wf l.plans = true) (f : Plan → Plan) :
    (l.updPlan k f).plan k = f (l.plan k) :=
  Live.plan_setPlan_same h _

theorem Live.plan_updPlan_ne (h : Tab.wf l.plans = true) (hk : k ≠ i) (f : Plan → Plan) :
    (l.updPlan k f).plan i = l.plan i :=
  Live.plan_setPlan_ne h hk _

theorem Live.updPlan_wf (h : Tab.wf l.plans = true) (k : Nat) (f : Plan → Plan) :
    Tab.wf (l.updPlan k f).plans = true :=
  Live.setPlan_wf h k _

/-! ### One link -/

theorem Live.link_updLink_same (h : Tab.wf l.links = true) (f : Link → Link) :
    (l.updLink k f).link k = f (l.link k) :=
  Tab.getD_upd_same h k link0 f

theorem Live.link_updLink_ne (h : Tab.wf l.links = true) (hk : k ≠ i) (f : Link → Link) :
    (l.updLink k f).link i = l.link i :=
  Tab.getD_upd_ne h hk link0 link0 f

theorem Live.updLink_wf (h : Tab.wf l.links = true) (k : Nat) (f : Link → Link) :
    Tab.wf (l.updLink k f).links = true :=
  Tab.wf_upd h k link0 f

/-! ### One queue -/

theorem Live.que_updQue_same (h : Tab.wf l.ques = true) (f : Que → Que) :
    (l.updQue k f).que k = f (l.que k) :=
  Tab.getD_upd_same h k que0 f

theorem Live.que_updQue_ne (h : Tab.wf l.ques = true) (hk : k ≠ i) (f : Que → Que) :
    (l.updQue k f).que i = l.que i :=
  Tab.getD_upd_ne h hk que0 que0 f

theorem Live.updQue_wf (h : Tab.wf l.ques = true) (k : Nat) (f : Que → Que) :
    Tab.wf (l.updQue k f).ques = true :=
  Tab.wf_upd h k que0 f

/-! ### One counter -/

theorem Live.ctr_updCtr_same (h : Tab.wf l.samp.ctrs = true) (f : Ctr → Ctr) :
    (l.updCtr k f).ctr k = f (l.ctr k) :=
  Tab.getD_upd_same h k ctr0 f

theorem Live.ctr_updCtr_ne (h : Tab.wf l.samp.ctrs = true) (hk : k ≠ i) (f : Ctr → Ctr) :
    (l.updCtr k f).ctr i = l.ctr i :=
  Tab.getD_upd_ne h hk ctr0 ctr0 f

theorem Live.updCtr_wf (h : Tab.wf l.samp.ctrs = true) (k : Nat) (f : Ctr → Ctr) :
    Tab.wf (l.updCtr k f).samp.ctrs = true :=
  Tab.wf_upd h k ctr0 f

/-! ### One pulse output -/

theorem Live.pulse_updPulse_same (h : Tab.wf l.pulses = true) (f : Pulse → Pulse) :
    (l.updPulse k f).pulse k = f (l.pulse k) :=
  Tab.getD_upd_same h k pulse0 f

theorem Live.pulse_updPulse_ne (h : Tab.wf l.pulses = true) (hk : k ≠ i) (f : Pulse → Pulse) :
    (l.updPulse k f).pulse i = l.pulse i :=
  Tab.getD_upd_ne h hk pulse0 pulse0 f

theorem Live.updPulse_wf (h : Tab.wf l.pulses = true) (k : Nat) (f : Pulse → Pulse) :
    Tab.wf (l.updPulse k f).pulses = true :=
  Tab.wf_upd h k pulse0 f

/-! ### One quiet-window set -/

theorem Live.qw_updQw_same (h : Tab.wf l.qws = true) (f : Qw → Qw) :
    (l.updQw k f).qw k = f (l.qw k) :=
  Tab.getD_upd_same h k qw0 f

theorem Live.qw_updQw_ne (h : Tab.wf l.qws = true) (hk : k ≠ i) (f : Qw → Qw) :
    (l.updQw k f).qw i = l.qw i :=
  Tab.getD_upd_ne h hk qw0 qw0 f

theorem Live.updQw_wf (h : Tab.wf l.qws = true) (k : Nat) (f : Qw → Qw) :
    Tab.wf (l.updQw k f).qws = true :=
  Tab.wf_upd h k qw0 f

/-! ### One series -/

theorem Live.sery_updSer_same (h : Tab.wf l.ser.sers = true) (f : Ser → Ser) :
    (l.updSer k f).sery k = f (l.sery k) :=
  Tab.getD_upd_same h k ser0 f

theorem Live.sery_updSer_ne (h : Tab.wf l.ser.sers = true) (hk : k ≠ i) (f : Ser → Ser) :
    (l.updSer k f).sery i = l.sery i :=
  Tab.getD_upd_ne h hk ser0 ser0 f

theorem Live.updSer_wf (h : Tab.wf l.ser.sers = true) (k : Nat) (f : Ser → Ser) :
    Tab.wf (l.updSer k f).ser.sers = true :=
  Tab.wf_upd h k ser0 f

/-! ### One PMBus device -/

theorem Live.pmbDev_updPmb_same (h : Tab.wf l.pwr.devs = true) (f : PmbDev → PmbDev) :
    (l.updPmb k f).pmbDev k = f (l.pmbDev k) :=
  Tab.getD_upd_same h k pmbDev0 f

theorem Live.pmbDev_updPmb_ne (h : Tab.wf l.pwr.devs = true) (hk : k ≠ i) (f : PmbDev → PmbDev) :
    (l.updPmb k f).pmbDev i = l.pmbDev i :=
  Tab.getD_upd_ne h hk pmbDev0 pmbDev0 f

theorem Live.updPmb_wf (h : Tab.wf l.pwr.devs = true) (k : Nat) (f : PmbDev → PmbDev) :
    Tab.wf (l.updPmb k f).pwr.devs = true :=
  Tab.wf_upd h k pmbDev0 f

end Sys2Proof.Machine
end

