-- ==== Sys2Proof/Laws/State.lean ====
section
/-! SUPPORT. What the updates of the state leave alone: one lemma for each field and each update. -/

namespace Sys2Proof.Machine

variable (l : Live)

/-! ### `Live.put` changes `rf` only -/

@[simp] theorem Live.put_boot (b : Build) (f : Fld) (v e : Nat) : (l.put b f v e).boot = l.boot := rfl
@[simp] theorem Live.put_clk (b : Build) (f : Fld) (v e : Nat) : (l.put b f v e).clk = l.clk := rfl
@[simp] theorem Live.put_cal (b : Build) (f : Fld) (v e : Nat) : (l.put b f v e).cal = l.cal := rfl
@[simp] theorem Live.put_time (b : Build) (f : Fld) (v e : Nat) : (l.put b f v e).time = l.time := rfl
@[simp] theorem Live.put_pulses (b : Build) (f : Fld) (v e : Nat) : (l.put b f v e).pulses = l.pulses := rfl
@[simp] theorem Live.put_qws (b : Build) (f : Fld) (v e : Nat) : (l.put b f v e).qws = l.qws := rfl
@[simp] theorem Live.put_cmd (b : Build) (f : Fld) (v e : Nat) : (l.put b f v e).cmd = l.cmd := rfl
@[simp] theorem Live.put_samp (b : Build) (f : Fld) (v e : Nat) : (l.put b f v e).samp = l.samp := rfl
@[simp] theorem Live.put_gens (b : Build) (f : Fld) (v e : Nat) : (l.put b f v e).gens = l.gens := rfl
@[simp] theorem Live.put_genBase (b : Build) (f : Fld) (v e : Nat) : (l.put b f v e).genBase = l.genBase := rfl
@[simp] theorem Live.put_seqs (b : Build) (f : Fld) (v e : Nat) : (l.put b f v e).seqs = l.seqs := rfl
@[simp] theorem Live.put_skips (b : Build) (f : Fld) (v e : Nat) : (l.put b f v e).skips = l.skips := rfl
@[simp] theorem Live.put_created (b : Build) (f : Fld) (v e : Nat) : (l.put b f v e).created = l.created := rfl
@[simp] theorem Live.put_plans (b : Build) (f : Fld) (v e : Nat) : (l.put b f v e).plans = l.plans := rfl
@[simp] theorem Live.put_table (b : Build) (f : Fld) (v e : Nat) : (l.put b f v e).table = l.table := rfl
@[simp] theorem Live.put_ques (b : Build) (f : Fld) (v e : Nat) : (l.put b f v e).ques = l.ques := rfl
@[simp] theorem Live.put_runs (b : Build) (f : Fld) (v e : Nat) : (l.put b f v e).runs = l.runs := rfl
@[simp] theorem Live.put_shape (b : Build) (f : Fld) (v e : Nat) : (l.put b f v e).shape = l.shape := rfl
@[simp] theorem Live.put_links (b : Build) (f : Fld) (v e : Nat) : (l.put b f v e).links = l.links := rfl
@[simp] theorem Live.put_routes (b : Build) (f : Fld) (v e : Nat) : (l.put b f v e).routes = l.routes := rfl
@[simp] theorem Live.put_loads (b : Build) (f : Fld) (v e : Nat) : (l.put b f v e).loads = l.loads := rfl
@[simp] theorem Live.put_rdLast (b : Build) (f : Fld) (v e : Nat) : (l.put b f v e).rdLast = l.rdLast := rfl
@[simp] theorem Live.put_celFail (b : Build) (f : Fld) (v e : Nat) : (l.put b f v e).celFail = l.celFail := rfl
@[simp] theorem Live.put_spillFail (b : Build) (f : Fld) (v e : Nat) : (l.put b f v e).spillFail = l.spillFail := rfl
@[simp] theorem Live.put_ser (b : Build) (f : Fld) (v e : Nat) : (l.put b f v e).ser = l.ser := rfl
@[simp] theorem Live.put_eng (b : Build) (f : Fld) (v e : Nat) : (l.put b f v e).eng = l.eng := rfl
@[simp] theorem Live.put_trace (b : Build) (f : Fld) (v e : Nat) : (l.put b f v e).trace = l.trace := rfl
@[simp] theorem Live.put_log (b : Build) (f : Fld) (v e : Nat) : (l.put b f v e).log = l.log := rfl
@[simp] theorem Live.put_mem (b : Build) (f : Fld) (v e : Nat) : (l.put b f v e).mem = l.mem := rfl
@[simp] theorem Live.put_flt (b : Build) (f : Fld) (v e : Nat) : (l.put b f v e).flt = l.flt := rfl
@[simp] theorem Live.put_pwr (b : Build) (f : Fld) (v e : Nat) : (l.put b f v e).pwr = l.pwr := rfl
@[simp] theorem Live.put_free (b : Build) (f : Fld) (v e : Nat) : (l.put b f v e).free = l.free := rfl
@[simp] theorem Live.put_out (b : Build) (f : Fld) (v e : Nat) : (l.put b f v e).out = l.out := rfl

/-! ### `Live.bump` changes `rf` only -/

@[simp] theorem Live.bump_boot (b : Build) (f : Fld) (e n : Nat) : (l.bump b f e n).boot = l.boot := rfl
@[simp] theorem Live.bump_clk (b : Build) (f : Fld) (e n : Nat) : (l.bump b f e n).clk = l.clk := rfl
@[simp] theorem Live.bump_cal (b : Build) (f : Fld) (e n : Nat) : (l.bump b f e n).cal = l.cal := rfl
@[simp] theorem Live.bump_time (b : Build) (f : Fld) (e n : Nat) : (l.bump b f e n).time = l.time := rfl
@[simp] theorem Live.bump_pulses (b : Build) (f : Fld) (e n : Nat) : (l.bump b f e n).pulses = l.pulses := rfl
@[simp] theorem Live.bump_qws (b : Build) (f : Fld) (e n : Nat) : (l.bump b f e n).qws = l.qws := rfl
@[simp] theorem Live.bump_cmd (b : Build) (f : Fld) (e n : Nat) : (l.bump b f e n).cmd = l.cmd := rfl
@[simp] theorem Live.bump_samp (b : Build) (f : Fld) (e n : Nat) : (l.bump b f e n).samp = l.samp := rfl
@[simp] theorem Live.bump_gens (b : Build) (f : Fld) (e n : Nat) : (l.bump b f e n).gens = l.gens := rfl
@[simp] theorem Live.bump_genBase (b : Build) (f : Fld) (e n : Nat) : (l.bump b f e n).genBase = l.genBase := rfl
@[simp] theorem Live.bump_seqs (b : Build) (f : Fld) (e n : Nat) : (l.bump b f e n).seqs = l.seqs := rfl
@[simp] theorem Live.bump_skips (b : Build) (f : Fld) (e n : Nat) : (l.bump b f e n).skips = l.skips := rfl
@[simp] theorem Live.bump_created (b : Build) (f : Fld) (e n : Nat) : (l.bump b f e n).created = l.created := rfl
@[simp] theorem Live.bump_plans (b : Build) (f : Fld) (e n : Nat) : (l.bump b f e n).plans = l.plans := rfl
@[simp] theorem Live.bump_table (b : Build) (f : Fld) (e n : Nat) : (l.bump b f e n).table = l.table := rfl
@[simp] theorem Live.bump_ques (b : Build) (f : Fld) (e n : Nat) : (l.bump b f e n).ques = l.ques := rfl
@[simp] theorem Live.bump_runs (b : Build) (f : Fld) (e n : Nat) : (l.bump b f e n).runs = l.runs := rfl
@[simp] theorem Live.bump_shape (b : Build) (f : Fld) (e n : Nat) : (l.bump b f e n).shape = l.shape := rfl
@[simp] theorem Live.bump_links (b : Build) (f : Fld) (e n : Nat) : (l.bump b f e n).links = l.links := rfl
@[simp] theorem Live.bump_routes (b : Build) (f : Fld) (e n : Nat) : (l.bump b f e n).routes = l.routes := rfl
@[simp] theorem Live.bump_loads (b : Build) (f : Fld) (e n : Nat) : (l.bump b f e n).loads = l.loads := rfl
@[simp] theorem Live.bump_rdLast (b : Build) (f : Fld) (e n : Nat) : (l.bump b f e n).rdLast = l.rdLast := rfl
@[simp] theorem Live.bump_celFail (b : Build) (f : Fld) (e n : Nat) : (l.bump b f e n).celFail = l.celFail := rfl
@[simp] theorem Live.bump_spillFail (b : Build) (f : Fld) (e n : Nat) : (l.bump b f e n).spillFail = l.spillFail := rfl
@[simp] theorem Live.bump_ser (b : Build) (f : Fld) (e n : Nat) : (l.bump b f e n).ser = l.ser := rfl
@[simp] theorem Live.bump_eng (b : Build) (f : Fld) (e n : Nat) : (l.bump b f e n).eng = l.eng := rfl
@[simp] theorem Live.bump_trace (b : Build) (f : Fld) (e n : Nat) : (l.bump b f e n).trace = l.trace := rfl
@[simp] theorem Live.bump_log (b : Build) (f : Fld) (e n : Nat) : (l.bump b f e n).log = l.log := rfl
@[simp] theorem Live.bump_mem (b : Build) (f : Fld) (e n : Nat) : (l.bump b f e n).mem = l.mem := rfl
@[simp] theorem Live.bump_flt (b : Build) (f : Fld) (e n : Nat) : (l.bump b f e n).flt = l.flt := rfl
@[simp] theorem Live.bump_pwr (b : Build) (f : Fld) (e n : Nat) : (l.bump b f e n).pwr = l.pwr := rfl
@[simp] theorem Live.bump_free (b : Build) (f : Fld) (e n : Nat) : (l.bump b f e n).free = l.free := rfl
@[simp] theorem Live.bump_out (b : Build) (f : Fld) (e n : Nat) : (l.bump b f e n).out = l.out := rfl

/-! ### `Live.setBit` changes `rf` only -/

@[simp] theorem Live.setBit_boot (b : Build) (f : Fld) (e i : Nat) : (l.setBit b f e i).boot = l.boot := rfl
@[simp] theorem Live.setBit_clk (b : Build) (f : Fld) (e i : Nat) : (l.setBit b f e i).clk = l.clk := rfl
@[simp] theorem Live.setBit_cal (b : Build) (f : Fld) (e i : Nat) : (l.setBit b f e i).cal = l.cal := rfl
@[simp] theorem Live.setBit_time (b : Build) (f : Fld) (e i : Nat) : (l.setBit b f e i).time = l.time := rfl
@[simp] theorem Live.setBit_pulses (b : Build) (f : Fld) (e i : Nat) : (l.setBit b f e i).pulses = l.pulses := rfl
@[simp] theorem Live.setBit_qws (b : Build) (f : Fld) (e i : Nat) : (l.setBit b f e i).qws = l.qws := rfl
@[simp] theorem Live.setBit_cmd (b : Build) (f : Fld) (e i : Nat) : (l.setBit b f e i).cmd = l.cmd := rfl
@[simp] theorem Live.setBit_samp (b : Build) (f : Fld) (e i : Nat) : (l.setBit b f e i).samp = l.samp := rfl
@[simp] theorem Live.setBit_gens (b : Build) (f : Fld) (e i : Nat) : (l.setBit b f e i).gens = l.gens := rfl
@[simp] theorem Live.setBit_genBase (b : Build) (f : Fld) (e i : Nat) : (l.setBit b f e i).genBase = l.genBase := rfl
@[simp] theorem Live.setBit_seqs (b : Build) (f : Fld) (e i : Nat) : (l.setBit b f e i).seqs = l.seqs := rfl
@[simp] theorem Live.setBit_skips (b : Build) (f : Fld) (e i : Nat) : (l.setBit b f e i).skips = l.skips := rfl
@[simp] theorem Live.setBit_created (b : Build) (f : Fld) (e i : Nat) : (l.setBit b f e i).created = l.created := rfl
@[simp] theorem Live.setBit_plans (b : Build) (f : Fld) (e i : Nat) : (l.setBit b f e i).plans = l.plans := rfl
@[simp] theorem Live.setBit_table (b : Build) (f : Fld) (e i : Nat) : (l.setBit b f e i).table = l.table := rfl
@[simp] theorem Live.setBit_ques (b : Build) (f : Fld) (e i : Nat) : (l.setBit b f e i).ques = l.ques := rfl
@[simp] theorem Live.setBit_runs (b : Build) (f : Fld) (e i : Nat) : (l.setBit b f e i).runs = l.runs := rfl
@[simp] theorem Live.setBit_shape (b : Build) (f : Fld) (e i : Nat) : (l.setBit b f e i).shape = l.shape := rfl
@[simp] theorem Live.setBit_links (b : Build) (f : Fld) (e i : Nat) : (l.setBit b f e i).links = l.links := rfl
@[simp] theorem Live.setBit_routes (b : Build) (f : Fld) (e i : Nat) : (l.setBit b f e i).routes = l.routes := rfl
@[simp] theorem Live.setBit_loads (b : Build) (f : Fld) (e i : Nat) : (l.setBit b f e i).loads = l.loads := rfl
@[simp] theorem Live.setBit_rdLast (b : Build) (f : Fld) (e i : Nat) : (l.setBit b f e i).rdLast = l.rdLast := rfl
@[simp] theorem Live.setBit_celFail (b : Build) (f : Fld) (e i : Nat) : (l.setBit b f e i).celFail = l.celFail := rfl
@[simp] theorem Live.setBit_spillFail (b : Build) (f : Fld) (e i : Nat) : (l.setBit b f e i).spillFail = l.spillFail := rfl
@[simp] theorem Live.setBit_ser (b : Build) (f : Fld) (e i : Nat) : (l.setBit b f e i).ser = l.ser := rfl
@[simp] theorem Live.setBit_eng (b : Build) (f : Fld) (e i : Nat) : (l.setBit b f e i).eng = l.eng := rfl
@[simp] theorem Live.setBit_trace (b : Build) (f : Fld) (e i : Nat) : (l.setBit b f e i).trace = l.trace := rfl
@[simp] theorem Live.setBit_log (b : Build) (f : Fld) (e i : Nat) : (l.setBit b f e i).log = l.log := rfl
@[simp] theorem Live.setBit_mem (b : Build) (f : Fld) (e i : Nat) : (l.setBit b f e i).mem = l.mem := rfl
@[simp] theorem Live.setBit_flt (b : Build) (f : Fld) (e i : Nat) : (l.setBit b f e i).flt = l.flt := rfl
@[simp] theorem Live.setBit_pwr (b : Build) (f : Fld) (e i : Nat) : (l.setBit b f e i).pwr = l.pwr := rfl
@[simp] theorem Live.setBit_free (b : Build) (f : Fld) (e i : Nat) : (l.setBit b f e i).free = l.free := rfl
@[simp] theorem Live.setBit_out (b : Build) (f : Fld) (e i : Nat) : (l.setBit b f e i).out = l.out := rfl

/-! ### `Live.clrBit` changes `rf` only -/

@[simp] theorem Live.clrBit_boot (b : Build) (f : Fld) (e i : Nat) : (l.clrBit b f e i).boot = l.boot := rfl
@[simp] theorem Live.clrBit_clk (b : Build) (f : Fld) (e i : Nat) : (l.clrBit b f e i).clk = l.clk := rfl
@[simp] theorem Live.clrBit_cal (b : Build) (f : Fld) (e i : Nat) : (l.clrBit b f e i).cal = l.cal := rfl
@[simp] theorem Live.clrBit_time (b : Build) (f : Fld) (e i : Nat) : (l.clrBit b f e i).time = l.time := rfl
@[simp] theorem Live.clrBit_pulses (b : Build) (f : Fld) (e i : Nat) : (l.clrBit b f e i).pulses = l.pulses := rfl
@[simp] theorem Live.clrBit_qws (b : Build) (f : Fld) (e i : Nat) : (l.clrBit b f e i).qws = l.qws := rfl
@[simp] theorem Live.clrBit_cmd (b : Build) (f : Fld) (e i : Nat) : (l.clrBit b f e i).cmd = l.cmd := rfl
@[simp] theorem Live.clrBit_samp (b : Build) (f : Fld) (e i : Nat) : (l.clrBit b f e i).samp = l.samp := rfl
@[simp] theorem Live.clrBit_gens (b : Build) (f : Fld) (e i : Nat) : (l.clrBit b f e i).gens = l.gens := rfl
@[simp] theorem Live.clrBit_genBase (b : Build) (f : Fld) (e i : Nat) : (l.clrBit b f e i).genBase = l.genBase := rfl
@[simp] theorem Live.clrBit_seqs (b : Build) (f : Fld) (e i : Nat) : (l.clrBit b f e i).seqs = l.seqs := rfl
@[simp] theorem Live.clrBit_skips (b : Build) (f : Fld) (e i : Nat) : (l.clrBit b f e i).skips = l.skips := rfl
@[simp] theorem Live.clrBit_created (b : Build) (f : Fld) (e i : Nat) : (l.clrBit b f e i).created = l.created := rfl
@[simp] theorem Live.clrBit_plans (b : Build) (f : Fld) (e i : Nat) : (l.clrBit b f e i).plans = l.plans := rfl
@[simp] theorem Live.clrBit_table (b : Build) (f : Fld) (e i : Nat) : (l.clrBit b f e i).table = l.table := rfl
@[simp] theorem Live.clrBit_ques (b : Build) (f : Fld) (e i : Nat) : (l.clrBit b f e i).ques = l.ques := rfl
@[simp] theorem Live.clrBit_runs (b : Build) (f : Fld) (e i : Nat) : (l.clrBit b f e i).runs = l.runs := rfl
@[simp] theorem Live.clrBit_shape (b : Build) (f : Fld) (e i : Nat) : (l.clrBit b f e i).shape = l.shape := rfl
@[simp] theorem Live.clrBit_links (b : Build) (f : Fld) (e i : Nat) : (l.clrBit b f e i).links = l.links := rfl
@[simp] theorem Live.clrBit_routes (b : Build) (f : Fld) (e i : Nat) : (l.clrBit b f e i).routes = l.routes := rfl
@[simp] theorem Live.clrBit_loads (b : Build) (f : Fld) (e i : Nat) : (l.clrBit b f e i).loads = l.loads := rfl
@[simp] theorem Live.clrBit_rdLast (b : Build) (f : Fld) (e i : Nat) : (l.clrBit b f e i).rdLast = l.rdLast := rfl
@[simp] theorem Live.clrBit_celFail (b : Build) (f : Fld) (e i : Nat) : (l.clrBit b f e i).celFail = l.celFail := rfl
@[simp] theorem Live.clrBit_spillFail (b : Build) (f : Fld) (e i : Nat) : (l.clrBit b f e i).spillFail = l.spillFail := rfl
@[simp] theorem Live.clrBit_ser (b : Build) (f : Fld) (e i : Nat) : (l.clrBit b f e i).ser = l.ser := rfl
@[simp] theorem Live.clrBit_eng (b : Build) (f : Fld) (e i : Nat) : (l.clrBit b f e i).eng = l.eng := rfl
@[simp] theorem Live.clrBit_trace (b : Build) (f : Fld) (e i : Nat) : (l.clrBit b f e i).trace = l.trace := rfl
@[simp] theorem Live.clrBit_log (b : Build) (f : Fld) (e i : Nat) : (l.clrBit b f e i).log = l.log := rfl
@[simp] theorem Live.clrBit_mem (b : Build) (f : Fld) (e i : Nat) : (l.clrBit b f e i).mem = l.mem := rfl
@[simp] theorem Live.clrBit_flt (b : Build) (f : Fld) (e i : Nat) : (l.clrBit b f e i).flt = l.flt := rfl
@[simp] theorem Live.clrBit_pwr (b : Build) (f : Fld) (e i : Nat) : (l.clrBit b f e i).pwr = l.pwr := rfl
@[simp] theorem Live.clrBit_free (b : Build) (f : Fld) (e i : Nat) : (l.clrBit b f e i).free = l.free := rfl
@[simp] theorem Live.clrBit_out (b : Build) (f : Fld) (e i : Nat) : (l.clrBit b f e i).out = l.out := rfl

/-! ### `Live.emit` changes `out` only -/

@[simp] theorem Live.emit_rf (o : Out) : (l.emit o).rf = l.rf := rfl
@[simp] theorem Live.emit_boot (o : Out) : (l.emit o).boot = l.boot := rfl
@[simp] theorem Live.emit_clk (o : Out) : (l.emit o).clk = l.clk := rfl
@[simp] theorem Live.emit_cal (o : Out) : (l.emit o).cal = l.cal := rfl
@[simp] theorem Live.emit_time (o : Out) : (l.emit o).time = l.time := rfl
@[simp] theorem Live.emit_pulses (o : Out) : (l.emit o).pulses = l.pulses := rfl
@[simp] theorem Live.emit_qws (o : Out) : (l.emit o).qws = l.qws := rfl
@[simp] theorem Live.emit_cmd (o : Out) : (l.emit o).cmd = l.cmd := rfl
@[simp] theorem Live.emit_samp (o : Out) : (l.emit o).samp = l.samp := rfl
@[simp] theorem Live.emit_gens (o : Out) : (l.emit o).gens = l.gens := rfl
@[simp] theorem Live.emit_genBase (o : Out) : (l.emit o).genBase = l.genBase := rfl
@[simp] theorem Live.emit_seqs (o : Out) : (l.emit o).seqs = l.seqs := rfl
@[simp] theorem Live.emit_skips (o : Out) : (l.emit o).skips = l.skips := rfl
@[simp] theorem Live.emit_created (o : Out) : (l.emit o).created = l.created := rfl
@[simp] theorem Live.emit_plans (o : Out) : (l.emit o).plans = l.plans := rfl
@[simp] theorem Live.emit_table (o : Out) : (l.emit o).table = l.table := rfl
@[simp] theorem Live.emit_ques (o : Out) : (l.emit o).ques = l.ques := rfl
@[simp] theorem Live.emit_runs (o : Out) : (l.emit o).runs = l.runs := rfl
@[simp] theorem Live.emit_shape (o : Out) : (l.emit o).shape = l.shape := rfl
@[simp] theorem Live.emit_links (o : Out) : (l.emit o).links = l.links := rfl
@[simp] theorem Live.emit_routes (o : Out) : (l.emit o).routes = l.routes := rfl
@[simp] theorem Live.emit_loads (o : Out) : (l.emit o).loads = l.loads := rfl
@[simp] theorem Live.emit_rdLast (o : Out) : (l.emit o).rdLast = l.rdLast := rfl
@[simp] theorem Live.emit_celFail (o : Out) : (l.emit o).celFail = l.celFail := rfl
@[simp] theorem Live.emit_spillFail (o : Out) : (l.emit o).spillFail = l.spillFail := rfl
@[simp] theorem Live.emit_ser (o : Out) : (l.emit o).ser = l.ser := rfl
@[simp] theorem Live.emit_eng (o : Out) : (l.emit o).eng = l.eng := rfl
@[simp] theorem Live.emit_trace (o : Out) : (l.emit o).trace = l.trace := rfl
@[simp] theorem Live.emit_log (o : Out) : (l.emit o).log = l.log := rfl
@[simp] theorem Live.emit_mem (o : Out) : (l.emit o).mem = l.mem := rfl
@[simp] theorem Live.emit_flt (o : Out) : (l.emit o).flt = l.flt := rfl
@[simp] theorem Live.emit_pwr (o : Out) : (l.emit o).pwr = l.pwr := rfl
@[simp] theorem Live.emit_free (o : Out) : (l.emit o).free = l.free := rfl

/-! ### `Live.dropCmp` changes `time` only -/

@[simp] theorem Live.dropCmp_rf (o : Owner) : (l.dropCmp o).rf = l.rf := rfl
@[simp] theorem Live.dropCmp_boot (o : Owner) : (l.dropCmp o).boot = l.boot := rfl
@[simp] theorem Live.dropCmp_clk (o : Owner) : (l.dropCmp o).clk = l.clk := rfl
@[simp] theorem Live.dropCmp_cal (o : Owner) : (l.dropCmp o).cal = l.cal := rfl
@[simp] theorem Live.dropCmp_pulses (o : Owner) : (l.dropCmp o).pulses = l.pulses := rfl
@[simp] theorem Live.dropCmp_qws (o : Owner) : (l.dropCmp o).qws = l.qws := rfl
@[simp] theorem Live.dropCmp_cmd (o : Owner) : (l.dropCmp o).cmd = l.cmd := rfl
@[simp] theorem Live.dropCmp_samp (o : Owner) : (l.dropCmp o).samp = l.samp := rfl
@[simp] theorem Live.dropCmp_gens (o : Owner) : (l.dropCmp o).gens = l.gens := rfl
@[simp] theorem Live.dropCmp_genBase (o : Owner) : (l.dropCmp o).genBase = l.genBase := rfl
@[simp] theorem Live.dropCmp_seqs (o : Owner) : (l.dropCmp o).seqs = l.seqs := rfl
@[simp] theorem Live.dropCmp_skips (o : Owner) : (l.dropCmp o).skips = l.skips := rfl
@[simp] theorem Live.dropCmp_created (o : Owner) : (l.dropCmp o).created = l.created := rfl
@[simp] theorem Live.dropCmp_plans (o : Owner) : (l.dropCmp o).plans = l.plans := rfl
@[simp] theorem Live.dropCmp_table (o : Owner) : (l.dropCmp o).table = l.table := rfl
@[simp] theorem Live.dropCmp_ques (o : Owner) : (l.dropCmp o).ques = l.ques := rfl
@[simp] theorem Live.dropCmp_runs (o : Owner) : (l.dropCmp o).runs = l.runs := rfl
@[simp] theorem Live.dropCmp_shape (o : Owner) : (l.dropCmp o).shape = l.shape := rfl
@[simp] theorem Live.dropCmp_links (o : Owner) : (l.dropCmp o).links = l.links := rfl
@[simp] theorem Live.dropCmp_routes (o : Owner) : (l.dropCmp o).routes = l.routes := rfl
@[simp] theorem Live.dropCmp_loads (o : Owner) : (l.dropCmp o).loads = l.loads := rfl
@[simp] theorem Live.dropCmp_rdLast (o : Owner) : (l.dropCmp o).rdLast = l.rdLast := rfl
@[simp] theorem Live.dropCmp_celFail (o : Owner) : (l.dropCmp o).celFail = l.celFail := rfl
@[simp] theorem Live.dropCmp_spillFail (o : Owner) : (l.dropCmp o).spillFail = l.spillFail := rfl
@[simp] theorem Live.dropCmp_ser (o : Owner) : (l.dropCmp o).ser = l.ser := rfl
@[simp] theorem Live.dropCmp_eng (o : Owner) : (l.dropCmp o).eng = l.eng := rfl
@[simp] theorem Live.dropCmp_trace (o : Owner) : (l.dropCmp o).trace = l.trace := rfl
@[simp] theorem Live.dropCmp_log (o : Owner) : (l.dropCmp o).log = l.log := rfl
@[simp] theorem Live.dropCmp_mem (o : Owner) : (l.dropCmp o).mem = l.mem := rfl
@[simp] theorem Live.dropCmp_flt (o : Owner) : (l.dropCmp o).flt = l.flt := rfl
@[simp] theorem Live.dropCmp_pwr (o : Owner) : (l.dropCmp o).pwr = l.pwr := rfl
@[simp] theorem Live.dropCmp_free (o : Owner) : (l.dropCmp o).free = l.free := rfl
@[simp] theorem Live.dropCmp_out (o : Owner) : (l.dropCmp o).out = l.out := rfl

/-! ### `Live.armCmp` changes `time` only -/

@[simp] theorem Live.armCmp_rf (o : Owner) (t : Word) (per : Nat) : (l.armCmp o t per).rf = l.rf := rfl
@[simp] theorem Live.armCmp_boot (o : Owner) (t : Word) (per : Nat) : (l.armCmp o t per).boot = l.boot := rfl
@[simp] theorem Live.armCmp_clk (o : Owner) (t : Word) (per : Nat) : (l.armCmp o t per).clk = l.clk := rfl
@[simp] theorem Live.armCmp_cal (o : Owner) (t : Word) (per : Nat) : (l.armCmp o t per).cal = l.cal := rfl
@[simp] theorem Live.armCmp_pulses (o : Owner) (t : Word) (per : Nat) : (l.armCmp o t per).pulses = l.pulses := rfl
@[simp] theorem Live.armCmp_qws (o : Owner) (t : Word) (per : Nat) : (l.armCmp o t per).qws = l.qws := rfl
@[simp] theorem Live.armCmp_cmd (o : Owner) (t : Word) (per : Nat) : (l.armCmp o t per).cmd = l.cmd := rfl
@[simp] theorem Live.armCmp_samp (o : Owner) (t : Word) (per : Nat) : (l.armCmp o t per).samp = l.samp := rfl
@[simp] theorem Live.armCmp_gens (o : Owner) (t : Word) (per : Nat) : (l.armCmp o t per).gens = l.gens := rfl
@[simp] theorem Live.armCmp_genBase (o : Owner) (t : Word) (per : Nat) : (l.armCmp o t per).genBase = l.genBase := rfl
@[simp] theorem Live.armCmp_seqs (o : Owner) (t : Word) (per : Nat) : (l.armCmp o t per).seqs = l.seqs := rfl
@[simp] theorem Live.armCmp_skips (o : Owner) (t : Word) (per : Nat) : (l.armCmp o t per).skips = l.skips := rfl
@[simp] theorem Live.armCmp_created (o : Owner) (t : Word) (per : Nat) : (l.armCmp o t per).created = l.created := rfl
@[simp] theorem Live.armCmp_plans (o : Owner) (t : Word) (per : Nat) : (l.armCmp o t per).plans = l.plans := rfl
@[simp] theorem Live.armCmp_table (o : Owner) (t : Word) (per : Nat) : (l.armCmp o t per).table = l.table := rfl
@[simp] theorem Live.armCmp_ques (o : Owner) (t : Word) (per : Nat) : (l.armCmp o t per).ques = l.ques := rfl
@[simp] theorem Live.armCmp_runs (o : Owner) (t : Word) (per : Nat) : (l.armCmp o t per).runs = l.runs := rfl
@[simp] theorem Live.armCmp_shape (o : Owner) (t : Word) (per : Nat) : (l.armCmp o t per).shape = l.shape := rfl
@[simp] theorem Live.armCmp_links (o : Owner) (t : Word) (per : Nat) : (l.armCmp o t per).links = l.links := rfl
@[simp] theorem Live.armCmp_routes (o : Owner) (t : Word) (per : Nat) : (l.armCmp o t per).routes = l.routes := rfl
@[simp] theorem Live.armCmp_loads (o : Owner) (t : Word) (per : Nat) : (l.armCmp o t per).loads = l.loads := rfl
@[simp] theorem Live.armCmp_rdLast (o : Owner) (t : Word) (per : Nat) : (l.armCmp o t per).rdLast = l.rdLast := rfl
@[simp] theorem Live.armCmp_celFail (o : Owner) (t : Word) (per : Nat) : (l.armCmp o t per).celFail = l.celFail := rfl
@[simp] theorem Live.armCmp_spillFail (o : Owner) (t : Word) (per : Nat) : (l.armCmp o t per).spillFail = l.spillFail := rfl
@[simp] theorem Live.armCmp_ser (o : Owner) (t : Word) (per : Nat) : (l.armCmp o t per).ser = l.ser := rfl
@[simp] theorem Live.armCmp_eng (o : Owner) (t : Word) (per : Nat) : (l.armCmp o t per).eng = l.eng := rfl
@[simp] theorem Live.armCmp_trace (o : Owner) (t : Word) (per : Nat) : (l.armCmp o t per).trace = l.trace := rfl
@[simp] theorem Live.armCmp_log (o : Owner) (t : Word) (per : Nat) : (l.armCmp o t per).log = l.log := rfl
@[simp] theorem Live.armCmp_mem (o : Owner) (t : Word) (per : Nat) : (l.armCmp o t per).mem = l.mem := rfl
@[simp] theorem Live.armCmp_flt (o : Owner) (t : Word) (per : Nat) : (l.armCmp o t per).flt = l.flt := rfl
@[simp] theorem Live.armCmp_pwr (o : Owner) (t : Word) (per : Nat) : (l.armCmp o t per).pwr = l.pwr := rfl
@[simp] theorem Live.armCmp_free (o : Owner) (t : Word) (per : Nat) : (l.armCmp o t per).free = l.free := rfl
@[simp] theorem Live.armCmp_out (o : Owner) (t : Word) (per : Nat) : (l.armCmp o t per).out = l.out := rfl

/-! ### `Live.dropPlanCmps` changes `time` only -/

@[simp] theorem Live.dropPlanCmps_rf (p : Nat) : (l.dropPlanCmps p).rf = l.rf := rfl
@[simp] theorem Live.dropPlanCmps_boot (p : Nat) : (l.dropPlanCmps p).boot = l.boot := rfl
@[simp] theorem Live.dropPlanCmps_clk (p : Nat) : (l.dropPlanCmps p).clk = l.clk := rfl
@[simp] theorem Live.dropPlanCmps_cal (p : Nat) : (l.dropPlanCmps p).cal = l.cal := rfl
@[simp] theorem Live.dropPlanCmps_pulses (p : Nat) : (l.dropPlanCmps p).pulses = l.pulses := rfl
@[simp] theorem Live.dropPlanCmps_qws (p : Nat) : (l.dropPlanCmps p).qws = l.qws := rfl
@[simp] theorem Live.dropPlanCmps_cmd (p : Nat) : (l.dropPlanCmps p).cmd = l.cmd := rfl
@[simp] theorem Live.dropPlanCmps_samp (p : Nat) : (l.dropPlanCmps p).samp = l.samp := rfl
@[simp] theorem Live.dropPlanCmps_gens (p : Nat) : (l.dropPlanCmps p).gens = l.gens := rfl
@[simp] theorem Live.dropPlanCmps_genBase (p : Nat) : (l.dropPlanCmps p).genBase = l.genBase := rfl
@[simp] theorem Live.dropPlanCmps_seqs (p : Nat) : (l.dropPlanCmps p).seqs = l.seqs := rfl
@[simp] theorem Live.dropPlanCmps_skips (p : Nat) : (l.dropPlanCmps p).skips = l.skips := rfl
@[simp] theorem Live.dropPlanCmps_created (p : Nat) : (l.dropPlanCmps p).created = l.created := rfl
@[simp] theorem Live.dropPlanCmps_plans (p : Nat) : (l.dropPlanCmps p).plans = l.plans := rfl
@[simp] theorem Live.dropPlanCmps_table (p : Nat) : (l.dropPlanCmps p).table = l.table := rfl
@[simp] theorem Live.dropPlanCmps_ques (p : Nat) : (l.dropPlanCmps p).ques = l.ques := rfl
@[simp] theorem Live.dropPlanCmps_runs (p : Nat) : (l.dropPlanCmps p).runs = l.runs := rfl
@[simp] theorem Live.dropPlanCmps_shape (p : Nat) : (l.dropPlanCmps p).shape = l.shape := rfl
@[simp] theorem Live.dropPlanCmps_links (p : Nat) : (l.dropPlanCmps p).links = l.links := rfl
@[simp] theorem Live.dropPlanCmps_routes (p : Nat) : (l.dropPlanCmps p).routes = l.routes := rfl
@[simp] theorem Live.dropPlanCmps_loads (p : Nat) : (l.dropPlanCmps p).loads = l.loads := rfl
@[simp] theorem Live.dropPlanCmps_rdLast (p : Nat) : (l.dropPlanCmps p).rdLast = l.rdLast := rfl
@[simp] theorem Live.dropPlanCmps_celFail (p : Nat) : (l.dropPlanCmps p).celFail = l.celFail := rfl
@[simp] theorem Live.dropPlanCmps_spillFail (p : Nat) : (l.dropPlanCmps p).spillFail = l.spillFail := rfl
@[simp] theorem Live.dropPlanCmps_ser (p : Nat) : (l.dropPlanCmps p).ser = l.ser := rfl
@[simp] theorem Live.dropPlanCmps_eng (p : Nat) : (l.dropPlanCmps p).eng = l.eng := rfl
@[simp] theorem Live.dropPlanCmps_trace (p : Nat) : (l.dropPlanCmps p).trace = l.trace := rfl
@[simp] theorem Live.dropPlanCmps_log (p : Nat) : (l.dropPlanCmps p).log = l.log := rfl
@[simp] theorem Live.dropPlanCmps_mem (p : Nat) : (l.dropPlanCmps p).mem = l.mem := rfl
@[simp] theorem Live.dropPlanCmps_flt (p : Nat) : (l.dropPlanCmps p).flt = l.flt := rfl
@[simp] theorem Live.dropPlanCmps_pwr (p : Nat) : (l.dropPlanCmps p).pwr = l.pwr := rfl
@[simp] theorem Live.dropPlanCmps_free (p : Nat) : (l.dropPlanCmps p).free = l.free := rfl
@[simp] theorem Live.dropPlanCmps_out (p : Nat) : (l.dropPlanCmps p).out = l.out := rfl

/-! ### `Live.setTState` changes `time` only -/

@[simp] theorem Live.setTState_rf (t : TState) : (l.setTState t).rf = l.rf := rfl
@[simp] theorem Live.setTState_boot (t : TState) : (l.setTState t).boot = l.boot := rfl
@[simp] theorem Live.setTState_clk (t : TState) : (l.setTState t).clk = l.clk := rfl
@[simp] theorem Live.setTState_cal (t : TState) : (l.setTState t).cal = l.cal := rfl
@[simp] theorem Live.setTState_pulses (t : TState) : (l.setTState t).pulses = l.pulses := rfl
@[simp] theorem Live.setTState_qws (t : TState) : (l.setTState t).qws = l.qws := rfl
@[simp] theorem Live.setTState_cmd (t : TState) : (l.setTState t).cmd = l.cmd := rfl
@[simp] theorem Live.setTState_samp (t : TState) : (l.setTState t).samp = l.samp := rfl
@[simp] theorem Live.setTState_gens (t : TState) : (l.setTState t).gens = l.gens := rfl
@[simp] theorem Live.setTState_genBase (t : TState) : (l.setTState t).genBase = l.genBase := rfl
@[simp] theorem Live.setTState_seqs (t : TState) : (l.setTState t).seqs = l.seqs := rfl
@[simp] theorem Live.setTState_skips (t : TState) : (l.setTState t).skips = l.skips := rfl
@[simp] theorem Live.setTState_created (t : TState) : (l.setTState t).created = l.created := rfl
@[simp] theorem Live.setTState_plans (t : TState) : (l.setTState t).plans = l.plans := rfl
@[simp] theorem Live.setTState_table (t : TState) : (l.setTState t).table = l.table := rfl
@[simp] theorem Live.setTState_ques (t : TState) : (l.setTState t).ques = l.ques := rfl
@[simp] theorem Live.setTState_runs (t : TState) : (l.setTState t).runs = l.runs := rfl
@[simp] theorem Live.setTState_shape (t : TState) : (l.setTState t).shape = l.shape := rfl
@[simp] theorem Live.setTState_links (t : TState) : (l.setTState t).links = l.links := rfl
@[simp] theorem Live.setTState_routes (t : TState) : (l.setTState t).routes = l.routes := rfl
@[simp] theorem Live.setTState_loads (t : TState) : (l.setTState t).loads = l.loads := rfl
@[simp] theorem Live.setTState_rdLast (t : TState) : (l.setTState t).rdLast = l.rdLast := rfl
@[simp] theorem Live.setTState_celFail (t : TState) : (l.setTState t).celFail = l.celFail := rfl
@[simp] theorem Live.setTState_spillFail (t : TState) : (l.setTState t).spillFail = l.spillFail := rfl
@[simp] theorem Live.setTState_ser (t : TState) : (l.setTState t).ser = l.ser := rfl
@[simp] theorem Live.setTState_eng (t : TState) : (l.setTState t).eng = l.eng := rfl
@[simp] theorem Live.setTState_trace (t : TState) : (l.setTState t).trace = l.trace := rfl
@[simp] theorem Live.setTState_log (t : TState) : (l.setTState t).log = l.log := rfl
@[simp] theorem Live.setTState_mem (t : TState) : (l.setTState t).mem = l.mem := rfl
@[simp] theorem Live.setTState_flt (t : TState) : (l.setTState t).flt = l.flt := rfl
@[simp] theorem Live.setTState_pwr (t : TState) : (l.setTState t).pwr = l.pwr := rfl
@[simp] theorem Live.setTState_free (t : TState) : (l.setTState t).free = l.free := rfl
@[simp] theorem Live.setTState_out (t : TState) : (l.setTState t).out = l.out := rfl

/-! ### `Live.setFull` changes `time` only -/

@[simp] theorem Live.setFull_rf (v : Int) : (l.setFull v).rf = l.rf := rfl
@[simp] theorem Live.setFull_boot (v : Int) : (l.setFull v).boot = l.boot := rfl
@[simp] theorem Live.setFull_clk (v : Int) : (l.setFull v).clk = l.clk := rfl
@[simp] theorem Live.setFull_cal (v : Int) : (l.setFull v).cal = l.cal := rfl
@[simp] theorem Live.setFull_pulses (v : Int) : (l.setFull v).pulses = l.pulses := rfl
@[simp] theorem Live.setFull_qws (v : Int) : (l.setFull v).qws = l.qws := rfl
@[simp] theorem Live.setFull_cmd (v : Int) : (l.setFull v).cmd = l.cmd := rfl
@[simp] theorem Live.setFull_samp (v : Int) : (l.setFull v).samp = l.samp := rfl
@[simp] theorem Live.setFull_gens (v : Int) : (l.setFull v).gens = l.gens := rfl
@[simp] theorem Live.setFull_genBase (v : Int) : (l.setFull v).genBase = l.genBase := rfl
@[simp] theorem Live.setFull_seqs (v : Int) : (l.setFull v).seqs = l.seqs := rfl
@[simp] theorem Live.setFull_skips (v : Int) : (l.setFull v).skips = l.skips := rfl
@[simp] theorem Live.setFull_created (v : Int) : (l.setFull v).created = l.created := rfl
@[simp] theorem Live.setFull_plans (v : Int) : (l.setFull v).plans = l.plans := rfl
@[simp] theorem Live.setFull_table (v : Int) : (l.setFull v).table = l.table := rfl
@[simp] theorem Live.setFull_ques (v : Int) : (l.setFull v).ques = l.ques := rfl
@[simp] theorem Live.setFull_runs (v : Int) : (l.setFull v).runs = l.runs := rfl
@[simp] theorem Live.setFull_shape (v : Int) : (l.setFull v).shape = l.shape := rfl
@[simp] theorem Live.setFull_links (v : Int) : (l.setFull v).links = l.links := rfl
@[simp] theorem Live.setFull_routes (v : Int) : (l.setFull v).routes = l.routes := rfl
@[simp] theorem Live.setFull_loads (v : Int) : (l.setFull v).loads = l.loads := rfl
@[simp] theorem Live.setFull_rdLast (v : Int) : (l.setFull v).rdLast = l.rdLast := rfl
@[simp] theorem Live.setFull_celFail (v : Int) : (l.setFull v).celFail = l.celFail := rfl
@[simp] theorem Live.setFull_spillFail (v : Int) : (l.setFull v).spillFail = l.spillFail := rfl
@[simp] theorem Live.setFull_ser (v : Int) : (l.setFull v).ser = l.ser := rfl
@[simp] theorem Live.setFull_eng (v : Int) : (l.setFull v).eng = l.eng := rfl
@[simp] theorem Live.setFull_trace (v : Int) : (l.setFull v).trace = l.trace := rfl
@[simp] theorem Live.setFull_log (v : Int) : (l.setFull v).log = l.log := rfl
@[simp] theorem Live.setFull_mem (v : Int) : (l.setFull v).mem = l.mem := rfl
@[simp] theorem Live.setFull_flt (v : Int) : (l.setFull v).flt = l.flt := rfl
@[simp] theorem Live.setFull_pwr (v : Int) : (l.setFull v).pwr = l.pwr := rfl
@[simp] theorem Live.setFull_free (v : Int) : (l.setFull v).free = l.free := rfl
@[simp] theorem Live.setFull_out (v : Int) : (l.setFull v).out = l.out := rfl

/-! ### `Live.fire` changes `time` only -/

@[simp] theorem Live.fire_rf (c : Cmp) : (l.fire c).rf = l.rf := rfl
@[simp] theorem Live.fire_boot (c : Cmp) : (l.fire c).boot = l.boot := rfl
@[simp] theorem Live.fire_clk (c : Cmp) : (l.fire c).clk = l.clk := rfl
@[simp] theorem Live.fire_cal (c : Cmp) : (l.fire c).cal = l.cal := rfl
@[simp] theorem Live.fire_pulses (c : Cmp) : (l.fire c).pulses = l.pulses := rfl
@[simp] theorem Live.fire_qws (c : Cmp) : (l.fire c).qws = l.qws := rfl
@[simp] theorem Live.fire_cmd (c : Cmp) : (l.fire c).cmd = l.cmd := rfl
@[simp] theorem Live.fire_samp (c : Cmp) : (l.fire c).samp = l.samp := rfl
@[simp] theorem Live.fire_gens (c : Cmp) : (l.fire c).gens = l.gens := rfl
@[simp] theorem Live.fire_genBase (c : Cmp) : (l.fire c).genBase = l.genBase := rfl
@[simp] theorem Live.fire_seqs (c : Cmp) : (l.fire c).seqs = l.seqs := rfl
@[simp] theorem Live.fire_skips (c : Cmp) : (l.fire c).skips = l.skips := rfl
@[simp] theorem Live.fire_created (c : Cmp) : (l.fire c).created = l.created := rfl
@[simp] theorem Live.fire_plans (c : Cmp) : (l.fire c).plans = l.plans := rfl
@[simp] theorem Live.fire_table (c : Cmp) : (l.fire c).table = l.table := rfl
@[simp] theorem Live.fire_ques (c : Cmp) : (l.fire c).ques = l.ques := rfl
@[simp] theorem Live.fire_runs (c : Cmp) : (l.fire c).runs = l.runs := rfl
@[simp] theorem Live.fire_shape (c : Cmp) : (l.fire c).shape = l.shape := rfl
@[simp] theorem Live.fire_links (c : Cmp) : (l.fire c).links = l.links := rfl
@[simp] theorem Live.fire_routes (c : Cmp) : (l.fire c).routes = l.routes := rfl
@[simp] theorem Live.fire_loads (c : Cmp) : (l.fire c).loads = l.loads := rfl
@[simp] theorem Live.fire_rdLast (c : Cmp) : (l.fire c).rdLast = l.rdLast := rfl
@[simp] theorem Live.fire_celFail (c : Cmp) : (l.fire c).celFail = l.celFail := rfl
@[simp] theorem Live.fire_spillFail (c : Cmp) : (l.fire c).spillFail = l.spillFail := rfl
@[simp] theorem Live.fire_ser (c : Cmp) : (l.fire c).ser = l.ser := rfl
@[simp] theorem Live.fire_eng (c : Cmp) : (l.fire c).eng = l.eng := rfl
@[simp] theorem Live.fire_trace (c : Cmp) : (l.fire c).trace = l.trace := rfl
@[simp] theorem Live.fire_log (c : Cmp) : (l.fire c).log = l.log := rfl
@[simp] theorem Live.fire_mem (c : Cmp) : (l.fire c).mem = l.mem := rfl
@[simp] theorem Live.fire_flt (c : Cmp) : (l.fire c).flt = l.flt := rfl
@[simp] theorem Live.fire_pwr (c : Cmp) : (l.fire c).pwr = l.pwr := rfl
@[simp] theorem Live.fire_free (c : Cmp) : (l.fire c).free = l.free := rfl
@[simp] theorem Live.fire_out (c : Cmp) : (l.fire c).out = l.out := rfl

/-! ### `Live.fireCmp` changes `time` only -/

@[simp] theorem Live.fireCmp_rf (i : Nat) (c : Cmp) : (l.fireCmp i c).rf = l.rf := rfl
@[simp] theorem Live.fireCmp_boot (i : Nat) (c : Cmp) : (l.fireCmp i c).boot = l.boot := rfl
@[simp] theorem Live.fireCmp_clk (i : Nat) (c : Cmp) : (l.fireCmp i c).clk = l.clk := rfl
@[simp] theorem Live.fireCmp_cal (i : Nat) (c : Cmp) : (l.fireCmp i c).cal = l.cal := rfl
@[simp] theorem Live.fireCmp_pulses (i : Nat) (c : Cmp) : (l.fireCmp i c).pulses = l.pulses := rfl
@[simp] theorem Live.fireCmp_qws (i : Nat) (c : Cmp) : (l.fireCmp i c).qws = l.qws := rfl
@[simp] theorem Live.fireCmp_cmd (i : Nat) (c : Cmp) : (l.fireCmp i c).cmd = l.cmd := rfl
@[simp] theorem Live.fireCmp_samp (i : Nat) (c : Cmp) : (l.fireCmp i c).samp = l.samp := rfl
@[simp] theorem Live.fireCmp_gens (i : Nat) (c : Cmp) : (l.fireCmp i c).gens = l.gens := rfl
@[simp] theorem Live.fireCmp_genBase (i : Nat) (c : Cmp) : (l.fireCmp i c).genBase = l.genBase := rfl
@[simp] theorem Live.fireCmp_seqs (i : Nat) (c : Cmp) : (l.fireCmp i c).seqs = l.seqs := rfl
@[simp] theorem Live.fireCmp_skips (i : Nat) (c : Cmp) : (l.fireCmp i c).skips = l.skips := rfl
@[simp] theorem Live.fireCmp_created (i : Nat) (c : Cmp) : (l.fireCmp i c).created = l.created := rfl
@[simp] theorem Live.fireCmp_plans (i : Nat) (c : Cmp) : (l.fireCmp i c).plans = l.plans := rfl
@[simp] theorem Live.fireCmp_table (i : Nat) (c : Cmp) : (l.fireCmp i c).table = l.table := rfl
@[simp] theorem Live.fireCmp_ques (i : Nat) (c : Cmp) : (l.fireCmp i c).ques = l.ques := rfl
@[simp] theorem Live.fireCmp_runs (i : Nat) (c : Cmp) : (l.fireCmp i c).runs = l.runs := rfl
@[simp] theorem Live.fireCmp_shape (i : Nat) (c : Cmp) : (l.fireCmp i c).shape = l.shape := rfl
@[simp] theorem Live.fireCmp_links (i : Nat) (c : Cmp) : (l.fireCmp i c).links = l.links := rfl
@[simp] theorem Live.fireCmp_routes (i : Nat) (c : Cmp) : (l.fireCmp i c).routes = l.routes := rfl
@[simp] theorem Live.fireCmp_loads (i : Nat) (c : Cmp) : (l.fireCmp i c).loads = l.loads := rfl
@[simp] theorem Live.fireCmp_rdLast (i : Nat) (c : Cmp) : (l.fireCmp i c).rdLast = l.rdLast := rfl
@[simp] theorem Live.fireCmp_celFail (i : Nat) (c : Cmp) : (l.fireCmp i c).celFail = l.celFail := rfl
@[simp] theorem Live.fireCmp_spillFail (i : Nat) (c : Cmp) : (l.fireCmp i c).spillFail = l.spillFail := rfl
@[simp] theorem Live.fireCmp_ser (i : Nat) (c : Cmp) : (l.fireCmp i c).ser = l.ser := rfl
@[simp] theorem Live.fireCmp_eng (i : Nat) (c : Cmp) : (l.fireCmp i c).eng = l.eng := rfl
@[simp] theorem Live.fireCmp_trace (i : Nat) (c : Cmp) : (l.fireCmp i c).trace = l.trace := rfl
@[simp] theorem Live.fireCmp_log (i : Nat) (c : Cmp) : (l.fireCmp i c).log = l.log := rfl
@[simp] theorem Live.fireCmp_mem (i : Nat) (c : Cmp) : (l.fireCmp i c).mem = l.mem := rfl
@[simp] theorem Live.fireCmp_flt (i : Nat) (c : Cmp) : (l.fireCmp i c).flt = l.flt := rfl
@[simp] theorem Live.fireCmp_pwr (i : Nat) (c : Cmp) : (l.fireCmp i c).pwr = l.pwr := rfl
@[simp] theorem Live.fireCmp_free (i : Nat) (c : Cmp) : (l.fireCmp i c).free = l.free := rfl
@[simp] theorem Live.fireCmp_out (i : Nat) (c : Cmp) : (l.fireCmp i c).out = l.out := rfl

/-! ### `Live.useFired` changes `time` only -/

@[simp] theorem Live.useFired_rf (o : Owner) : (l.useFired o).rf = l.rf := rfl
@[simp] theorem Live.useFired_boot (o : Owner) : (l.useFired o).boot = l.boot := rfl
@[simp] theorem Live.useFired_clk (o : Owner) : (l.useFired o).clk = l.clk := rfl
@[simp] theorem Live.useFired_cal (o : Owner) : (l.useFired o).cal = l.cal := rfl
@[simp] theorem Live.useFired_pulses (o : Owner) : (l.useFired o).pulses = l.pulses := rfl
@[simp] theorem Live.useFired_qws (o : Owner) : (l.useFired o).qws = l.qws := rfl
@[simp] theorem Live.useFired_cmd (o : Owner) : (l.useFired o).cmd = l.cmd := rfl
@[simp] theorem Live.useFired_samp (o : Owner) : (l.useFired o).samp = l.samp := rfl
@[simp] theorem Live.useFired_gens (o : Owner) : (l.useFired o).gens = l.gens := rfl
@[simp] theorem Live.useFired_genBase (o : Owner) : (l.useFired o).genBase = l.genBase := rfl
@[simp] theorem Live.useFired_seqs (o : Owner) : (l.useFired o).seqs = l.seqs := rfl
@[simp] theorem Live.useFired_skips (o : Owner) : (l.useFired o).skips = l.skips := rfl
@[simp] theorem Live.useFired_created (o : Owner) : (l.useFired o).created = l.created := rfl
@[simp] theorem Live.useFired_plans (o : Owner) : (l.useFired o).plans = l.plans := rfl
@[simp] theorem Live.useFired_table (o : Owner) : (l.useFired o).table = l.table := rfl
@[simp] theorem Live.useFired_ques (o : Owner) : (l.useFired o).ques = l.ques := rfl
@[simp] theorem Live.useFired_runs (o : Owner) : (l.useFired o).runs = l.runs := rfl
@[simp] theorem Live.useFired_shape (o : Owner) : (l.useFired o).shape = l.shape := rfl
@[simp] theorem Live.useFired_links (o : Owner) : (l.useFired o).links = l.links := rfl
@[simp] theorem Live.useFired_routes (o : Owner) : (l.useFired o).routes = l.routes := rfl
@[simp] theorem Live.useFired_loads (o : Owner) : (l.useFired o).loads = l.loads := rfl
@[simp] theorem Live.useFired_rdLast (o : Owner) : (l.useFired o).rdLast = l.rdLast := rfl
@[simp] theorem Live.useFired_celFail (o : Owner) : (l.useFired o).celFail = l.celFail := rfl
@[simp] theorem Live.useFired_spillFail (o : Owner) : (l.useFired o).spillFail = l.spillFail := rfl
@[simp] theorem Live.useFired_ser (o : Owner) : (l.useFired o).ser = l.ser := rfl
@[simp] theorem Live.useFired_eng (o : Owner) : (l.useFired o).eng = l.eng := rfl
@[simp] theorem Live.useFired_trace (o : Owner) : (l.useFired o).trace = l.trace := rfl
@[simp] theorem Live.useFired_log (o : Owner) : (l.useFired o).log = l.log := rfl
@[simp] theorem Live.useFired_mem (o : Owner) : (l.useFired o).mem = l.mem := rfl
@[simp] theorem Live.useFired_flt (o : Owner) : (l.useFired o).flt = l.flt := rfl
@[simp] theorem Live.useFired_pwr (o : Owner) : (l.useFired o).pwr = l.pwr := rfl
@[simp] theorem Live.useFired_free (o : Owner) : (l.useFired o).free = l.free := rfl
@[simp] theorem Live.useFired_out (o : Owner) : (l.useFired o).out = l.out := rfl

/-! ### `Live.genInc` changes `gens` only -/

@[simp] theorem Live.genInc_rf (i : Nat) : (l.genInc i).rf = l.rf := rfl
@[simp] theorem Live.genInc_boot (i : Nat) : (l.genInc i).boot = l.boot := rfl
@[simp] theorem Live.genInc_clk (i : Nat) : (l.genInc i).clk = l.clk := rfl
@[simp] theorem Live.genInc_cal (i : Nat) : (l.genInc i).cal = l.cal := rfl
@[simp] theorem Live.genInc_time (i : Nat) : (l.genInc i).time = l.time := rfl
@[simp] theorem Live.genInc_pulses (i : Nat) : (l.genInc i).pulses = l.pulses := rfl
@[simp] theorem Live.genInc_qws (i : Nat) : (l.genInc i).qws = l.qws := rfl
@[simp] theorem Live.genInc_cmd (i : Nat) : (l.genInc i).cmd = l.cmd := rfl
@[simp] theorem Live.genInc_samp (i : Nat) : (l.genInc i).samp = l.samp := rfl
@[simp] theorem Live.genInc_genBase (i : Nat) : (l.genInc i).genBase = l.genBase := rfl
@[simp] theorem Live.genInc_seqs (i : Nat) : (l.genInc i).seqs = l.seqs := rfl
@[simp] theorem Live.genInc_skips (i : Nat) : (l.genInc i).skips = l.skips := rfl
@[simp] theorem Live.genInc_created (i : Nat) : (l.genInc i).created = l.created := rfl
@[simp] theorem Live.genInc_plans (i : Nat) : (l.genInc i).plans = l.plans := rfl
@[simp] theorem Live.genInc_table (i : Nat) : (l.genInc i).table = l.table := rfl
@[simp] theorem Live.genInc_ques (i : Nat) : (l.genInc i).ques = l.ques := rfl
@[simp] theorem Live.genInc_runs (i : Nat) : (l.genInc i).runs = l.runs := rfl
@[simp] theorem Live.genInc_shape (i : Nat) : (l.genInc i).shape = l.shape := rfl
@[simp] theorem Live.genInc_links (i : Nat) : (l.genInc i).links = l.links := rfl
@[simp] theorem Live.genInc_routes (i : Nat) : (l.genInc i).routes = l.routes := rfl
@[simp] theorem Live.genInc_loads (i : Nat) : (l.genInc i).loads = l.loads := rfl
@[simp] theorem Live.genInc_rdLast (i : Nat) : (l.genInc i).rdLast = l.rdLast := rfl
@[simp] theorem Live.genInc_celFail (i : Nat) : (l.genInc i).celFail = l.celFail := rfl
@[simp] theorem Live.genInc_spillFail (i : Nat) : (l.genInc i).spillFail = l.spillFail := rfl
@[simp] theorem Live.genInc_ser (i : Nat) : (l.genInc i).ser = l.ser := rfl
@[simp] theorem Live.genInc_eng (i : Nat) : (l.genInc i).eng = l.eng := rfl
@[simp] theorem Live.genInc_trace (i : Nat) : (l.genInc i).trace = l.trace := rfl
@[simp] theorem Live.genInc_log (i : Nat) : (l.genInc i).log = l.log := rfl
@[simp] theorem Live.genInc_mem (i : Nat) : (l.genInc i).mem = l.mem := rfl
@[simp] theorem Live.genInc_flt (i : Nat) : (l.genInc i).flt = l.flt := rfl
@[simp] theorem Live.genInc_pwr (i : Nat) : (l.genInc i).pwr = l.pwr := rfl
@[simp] theorem Live.genInc_free (i : Nat) : (l.genInc i).free = l.free := rfl
@[simp] theorem Live.genInc_out (i : Nat) : (l.genInc i).out = l.out := rfl

/-! ### `Live.setPlan` changes `plans` only -/

@[simp] theorem Live.setPlan_rf (p : Nat) (x : Plan) : (l.setPlan p x).rf = l.rf := rfl
@[simp] theorem Live.setPlan_boot (p : Nat) (x : Plan) : (l.setPlan p x).boot = l.boot := rfl
@[simp] theorem Live.setPlan_clk (p : Nat) (x : Plan) : (l.setPlan p x).clk = l.clk := rfl
@[simp] theorem Live.setPlan_cal (p : Nat) (x : Plan) : (l.setPlan p x).cal = l.cal := rfl
@[simp] theorem Live.setPlan_time (p : Nat) (x : Plan) : (l.setPlan p x).time = l.time := rfl
@[simp] theorem Live.setPlan_pulses (p : Nat) (x : Plan) : (l.setPlan p x).pulses = l.pulses := rfl
@[simp] theorem Live.setPlan_qws (p : Nat) (x : Plan) : (l.setPlan p x).qws = l.qws := rfl
@[simp] theorem Live.setPlan_cmd (p : Nat) (x : Plan) : (l.setPlan p x).cmd = l.cmd := rfl
@[simp] theorem Live.setPlan_samp (p : Nat) (x : Plan) : (l.setPlan p x).samp = l.samp := rfl
@[simp] theorem Live.setPlan_gens (p : Nat) (x : Plan) : (l.setPlan p x).gens = l.gens := rfl
@[simp] theorem Live.setPlan_genBase (p : Nat) (x : Plan) : (l.setPlan p x).genBase = l.genBase := rfl
@[simp] theorem Live.setPlan_seqs (p : Nat) (x : Plan) : (l.setPlan p x).seqs = l.seqs := rfl
@[simp] theorem Live.setPlan_skips (p : Nat) (x : Plan) : (l.setPlan p x).skips = l.skips := rfl
@[simp] theorem Live.setPlan_created (p : Nat) (x : Plan) : (l.setPlan p x).created = l.created := rfl
@[simp] theorem Live.setPlan_table (p : Nat) (x : Plan) : (l.setPlan p x).table = l.table := rfl
@[simp] theorem Live.setPlan_ques (p : Nat) (x : Plan) : (l.setPlan p x).ques = l.ques := rfl
@[simp] theorem Live.setPlan_runs (p : Nat) (x : Plan) : (l.setPlan p x).runs = l.runs := rfl
@[simp] theorem Live.setPlan_shape (p : Nat) (x : Plan) : (l.setPlan p x).shape = l.shape := rfl
@[simp] theorem Live.setPlan_links (p : Nat) (x : Plan) : (l.setPlan p x).links = l.links := rfl
@[simp] theorem Live.setPlan_routes (p : Nat) (x : Plan) : (l.setPlan p x).routes = l.routes := rfl
@[simp] theorem Live.setPlan_loads (p : Nat) (x : Plan) : (l.setPlan p x).loads = l.loads := rfl
@[simp] theorem Live.setPlan_rdLast (p : Nat) (x : Plan) : (l.setPlan p x).rdLast = l.rdLast := rfl
@[simp] theorem Live.setPlan_celFail (p : Nat) (x : Plan) : (l.setPlan p x).celFail = l.celFail := rfl
@[simp] theorem Live.setPlan_spillFail (p : Nat) (x : Plan) : (l.setPlan p x).spillFail = l.spillFail := rfl
@[simp] theorem Live.setPlan_ser (p : Nat) (x : Plan) : (l.setPlan p x).ser = l.ser := rfl
@[simp] theorem Live.setPlan_eng (p : Nat) (x : Plan) : (l.setPlan p x).eng = l.eng := rfl
@[simp] theorem Live.setPlan_trace (p : Nat) (x : Plan) : (l.setPlan p x).trace = l.trace := rfl
@[simp] theorem Live.setPlan_log (p : Nat) (x : Plan) : (l.setPlan p x).log = l.log := rfl
@[simp] theorem Live.setPlan_mem (p : Nat) (x : Plan) : (l.setPlan p x).mem = l.mem := rfl
@[simp] theorem Live.setPlan_flt (p : Nat) (x : Plan) : (l.setPlan p x).flt = l.flt := rfl
@[simp] theorem Live.setPlan_pwr (p : Nat) (x : Plan) : (l.setPlan p x).pwr = l.pwr := rfl
@[simp] theorem Live.setPlan_free (p : Nat) (x : Plan) : (l.setPlan p x).free = l.free := rfl
@[simp] theorem Live.setPlan_out (p : Nat) (x : Plan) : (l.setPlan p x).out = l.out := rfl

/-! ### `Live.updPlan` changes `plans` only -/

@[simp] theorem Live.updPlan_rf (p : Nat) (f : Plan → Plan) : (l.updPlan p f).rf = l.rf := rfl
@[simp] theorem Live.updPlan_boot (p : Nat) (f : Plan → Plan) : (l.updPlan p f).boot = l.boot := rfl
@[simp] theorem Live.updPlan_clk (p : Nat) (f : Plan → Plan) : (l.updPlan p f).clk = l.clk := rfl
@[simp] theorem Live.updPlan_cal (p : Nat) (f : Plan → Plan) : (l.updPlan p f).cal = l.cal := rfl
@[simp] theorem Live.updPlan_time (p : Nat) (f : Plan → Plan) : (l.updPlan p f).time = l.time := rfl
@[simp] theorem Live.updPlan_pulses (p : Nat) (f : Plan → Plan) : (l.updPlan p f).pulses = l.pulses := rfl
@[simp] theorem Live.updPlan_qws (p : Nat) (f : Plan → Plan) : (l.updPlan p f).qws = l.qws := rfl
@[simp] theorem Live.updPlan_cmd (p : Nat) (f : Plan → Plan) : (l.updPlan p f).cmd = l.cmd := rfl
@[simp] theorem Live.updPlan_samp (p : Nat) (f : Plan → Plan) : (l.updPlan p f).samp = l.samp := rfl
@[simp] theorem Live.updPlan_gens (p : Nat) (f : Plan → Plan) : (l.updPlan p f).gens = l.gens := rfl
@[simp] theorem Live.updPlan_genBase (p : Nat) (f : Plan → Plan) : (l.updPlan p f).genBase = l.genBase := rfl
@[simp] theorem Live.updPlan_seqs (p : Nat) (f : Plan → Plan) : (l.updPlan p f).seqs = l.seqs := rfl
@[simp] theorem Live.updPlan_skips (p : Nat) (f : Plan → Plan) : (l.updPlan p f).skips = l.skips := rfl
@[simp] theorem Live.updPlan_created (p : Nat) (f : Plan → Plan) : (l.updPlan p f).created = l.created := rfl
@[simp] theorem Live.updPlan_table (p : Nat) (f : Plan → Plan) : (l.updPlan p f).table = l.table := rfl
@[simp] theorem Live.updPlan_ques (p : Nat) (f : Plan → Plan) : (l.updPlan p f).ques = l.ques := rfl
@[simp] theorem Live.updPlan_runs (p : Nat) (f : Plan → Plan) : (l.updPlan p f).runs = l.runs := rfl
@[simp] theorem Live.updPlan_shape (p : Nat) (f : Plan → Plan) : (l.updPlan p f).shape = l.shape := rfl
@[simp] theorem Live.updPlan_links (p : Nat) (f : Plan → Plan) : (l.updPlan p f).links = l.links := rfl
@[simp] theorem Live.updPlan_routes (p : Nat) (f : Plan → Plan) : (l.updPlan p f).routes = l.routes := rfl
@[simp] theorem Live.updPlan_loads (p : Nat) (f : Plan → Plan) : (l.updPlan p f).loads = l.loads := rfl
@[simp] theorem Live.updPlan_rdLast (p : Nat) (f : Plan → Plan) : (l.updPlan p f).rdLast = l.rdLast := rfl
@[simp] theorem Live.updPlan_celFail (p : Nat) (f : Plan → Plan) : (l.updPlan p f).celFail = l.celFail := rfl
@[simp] theorem Live.updPlan_spillFail (p : Nat) (f : Plan → Plan) : (l.updPlan p f).spillFail = l.spillFail := rfl
@[simp] theorem Live.updPlan_ser (p : Nat) (f : Plan → Plan) : (l.updPlan p f).ser = l.ser := rfl
@[simp] theorem Live.updPlan_eng (p : Nat) (f : Plan → Plan) : (l.updPlan p f).eng = l.eng := rfl
@[simp] theorem Live.updPlan_trace (p : Nat) (f : Plan → Plan) : (l.updPlan p f).trace = l.trace := rfl
@[simp] theorem Live.updPlan_log (p : Nat) (f : Plan → Plan) : (l.updPlan p f).log = l.log := rfl
@[simp] theorem Live.updPlan_mem (p : Nat) (f : Plan → Plan) : (l.updPlan p f).mem = l.mem := rfl
@[simp] theorem Live.updPlan_flt (p : Nat) (f : Plan → Plan) : (l.updPlan p f).flt = l.flt := rfl
@[simp] theorem Live.updPlan_pwr (p : Nat) (f : Plan → Plan) : (l.updPlan p f).pwr = l.pwr := rfl
@[simp] theorem Live.updPlan_free (p : Nat) (f : Plan → Plan) : (l.updPlan p f).free = l.free := rfl
@[simp] theorem Live.updPlan_out (p : Nat) (f : Plan → Plan) : (l.updPlan p f).out = l.out := rfl

/-! ### `Live.clean` changes `mem` only -/

@[simp] theorem Live.clean_rf (h : Holder) : (l.clean h).rf = l.rf := rfl
@[simp] theorem Live.clean_boot (h : Holder) : (l.clean h).boot = l.boot := rfl
@[simp] theorem Live.clean_clk (h : Holder) : (l.clean h).clk = l.clk := rfl
@[simp] theorem Live.clean_cal (h : Holder) : (l.clean h).cal = l.cal := rfl
@[simp] theorem Live.clean_time (h : Holder) : (l.clean h).time = l.time := rfl
@[simp] theorem Live.clean_pulses (h : Holder) : (l.clean h).pulses = l.pulses := rfl
@[simp] theorem Live.clean_qws (h : Holder) : (l.clean h).qws = l.qws := rfl
@[simp] theorem Live.clean_cmd (h : Holder) : (l.clean h).cmd = l.cmd := rfl
@[simp] theorem Live.clean_samp (h : Holder) : (l.clean h).samp = l.samp := rfl
@[simp] theorem Live.clean_gens (h : Holder) : (l.clean h).gens = l.gens := rfl
@[simp] theorem Live.clean_genBase (h : Holder) : (l.clean h).genBase = l.genBase := rfl
@[simp] theorem Live.clean_seqs (h : Holder) : (l.clean h).seqs = l.seqs := rfl
@[simp] theorem Live.clean_skips (h : Holder) : (l.clean h).skips = l.skips := rfl
@[simp] theorem Live.clean_created (h : Holder) : (l.clean h).created = l.created := rfl
@[simp] theorem Live.clean_plans (h : Holder) : (l.clean h).plans = l.plans := rfl
@[simp] theorem Live.clean_table (h : Holder) : (l.clean h).table = l.table := rfl
@[simp] theorem Live.clean_ques (h : Holder) : (l.clean h).ques = l.ques := rfl
@[simp] theorem Live.clean_runs (h : Holder) : (l.clean h).runs = l.runs := rfl
@[simp] theorem Live.clean_shape (h : Holder) : (l.clean h).shape = l.shape := rfl
@[simp] theorem Live.clean_links (h : Holder) : (l.clean h).links = l.links := rfl
@[simp] theorem Live.clean_routes (h : Holder) : (l.clean h).routes = l.routes := rfl
@[simp] theorem Live.clean_loads (h : Holder) : (l.clean h).loads = l.loads := rfl
@[simp] theorem Live.clean_rdLast (h : Holder) : (l.clean h).rdLast = l.rdLast := rfl
@[simp] theorem Live.clean_celFail (h : Holder) : (l.clean h).celFail = l.celFail := rfl
@[simp] theorem Live.clean_spillFail (h : Holder) : (l.clean h).spillFail = l.spillFail := rfl
@[simp] theorem Live.clean_ser (h : Holder) : (l.clean h).ser = l.ser := rfl
@[simp] theorem Live.clean_eng (h : Holder) : (l.clean h).eng = l.eng := rfl
@[simp] theorem Live.clean_trace (h : Holder) : (l.clean h).trace = l.trace := rfl
@[simp] theorem Live.clean_log (h : Holder) : (l.clean h).log = l.log := rfl
@[simp] theorem Live.clean_flt (h : Holder) : (l.clean h).flt = l.flt := rfl
@[simp] theorem Live.clean_pwr (h : Holder) : (l.clean h).pwr = l.pwr := rfl
@[simp] theorem Live.clean_free (h : Holder) : (l.clean h).free = l.free := rfl
@[simp] theorem Live.clean_out (h : Holder) : (l.clean h).out = l.out := rfl

/-! ### `Live.updLink` changes `links` only -/

@[simp] theorem Live.updLink_rf (n : Nat) (f : Link → Link) : (l.updLink n f).rf = l.rf := rfl
@[simp] theorem Live.updLink_boot (n : Nat) (f : Link → Link) : (l.updLink n f).boot = l.boot := rfl
@[simp] theorem Live.updLink_clk (n : Nat) (f : Link → Link) : (l.updLink n f).clk = l.clk := rfl
@[simp] theorem Live.updLink_cal (n : Nat) (f : Link → Link) : (l.updLink n f).cal = l.cal := rfl
@[simp] theorem Live.updLink_time (n : Nat) (f : Link → Link) : (l.updLink n f).time = l.time := rfl
@[simp] theorem Live.updLink_pulses (n : Nat) (f : Link → Link) : (l.updLink n f).pulses = l.pulses := rfl
@[simp] theorem Live.updLink_qws (n : Nat) (f : Link → Link) : (l.updLink n f).qws = l.qws := rfl
@[simp] theorem Live.updLink_cmd (n : Nat) (f : Link → Link) : (l.updLink n f).cmd = l.cmd := rfl
@[simp] theorem Live.updLink_samp (n : Nat) (f : Link → Link) : (l.updLink n f).samp = l.samp := rfl
@[simp] theorem Live.updLink_gens (n : Nat) (f : Link → Link) : (l.updLink n f).gens = l.gens := rfl
@[simp] theorem Live.updLink_genBase (n : Nat) (f : Link → Link) : (l.updLink n f).genBase = l.genBase := rfl
@[simp] theorem Live.updLink_seqs (n : Nat) (f : Link → Link) : (l.updLink n f).seqs = l.seqs := rfl
@[simp] theorem Live.updLink_skips (n : Nat) (f : Link → Link) : (l.updLink n f).skips = l.skips := rfl
@[simp] theorem Live.updLink_created (n : Nat) (f : Link → Link) : (l.updLink n f).created = l.created := rfl
@[simp] theorem Live.updLink_plans (n : Nat) (f : Link → Link) : (l.updLink n f).plans = l.plans := rfl
@[simp] theorem Live.updLink_table (n : Nat) (f : Link → Link) : (l.updLink n f).table = l.table := rfl
@[simp] theorem Live.updLink_ques (n : Nat) (f : Link → Link) : (l.updLink n f).ques = l.ques := rfl
@[simp] theorem Live.updLink_runs (n : Nat) (f : Link → Link) : (l.updLink n f).runs = l.runs := rfl
@[simp] theorem Live.updLink_shape (n : Nat) (f : Link → Link) : (l.updLink n f).shape = l.shape := rfl
@[simp] theorem Live.updLink_routes (n : Nat) (f : Link → Link) : (l.updLink n f).routes = l.routes := rfl
@[simp] theorem Live.updLink_loads (n : Nat) (f : Link → Link) : (l.updLink n f).loads = l.loads := rfl
@[simp] theorem Live.updLink_rdLast (n : Nat) (f : Link → Link) : (l.updLink n f).rdLast = l.rdLast := rfl
@[simp] theorem Live.updLink_celFail (n : Nat) (f : Link → Link) : (l.updLink n f).celFail = l.celFail := rfl
@[simp] theorem Live.updLink_spillFail (n : Nat) (f : Link → Link) : (l.updLink n f).spillFail = l.spillFail := rfl
@[simp] theorem Live.updLink_ser (n : Nat) (f : Link → Link) : (l.updLink n f).ser = l.ser := rfl
@[simp] theorem Live.updLink_eng (n : Nat) (f : Link → Link) : (l.updLink n f).eng = l.eng := rfl
@[simp] theorem Live.updLink_trace (n : Nat) (f : Link → Link) : (l.updLink n f).trace = l.trace := rfl
@[simp] theorem Live.updLink_log (n : Nat) (f : Link → Link) : (l.updLink n f).log = l.log := rfl
@[simp] theorem Live.updLink_mem (n : Nat) (f : Link → Link) : (l.updLink n f).mem = l.mem := rfl
@[simp] theorem Live.updLink_flt (n : Nat) (f : Link → Link) : (l.updLink n f).flt = l.flt := rfl
@[simp] theorem Live.updLink_pwr (n : Nat) (f : Link → Link) : (l.updLink n f).pwr = l.pwr := rfl
@[simp] theorem Live.updLink_free (n : Nat) (f : Link → Link) : (l.updLink n f).free = l.free := rfl
@[simp] theorem Live.updLink_out (n : Nat) (f : Link → Link) : (l.updLink n f).out = l.out := rfl

/-! ### `Live.updPulse` changes `pulses` only -/

@[simp] theorem Live.updPulse_rf (n : Nat) (f : Pulse → Pulse) : (l.updPulse n f).rf = l.rf := rfl
@[simp] theorem Live.updPulse_boot (n : Nat) (f : Pulse → Pulse) : (l.updPulse n f).boot = l.boot := rfl
@[simp] theorem Live.updPulse_clk (n : Nat) (f : Pulse → Pulse) : (l.updPulse n f).clk = l.clk := rfl
@[simp] theorem Live.updPulse_cal (n : Nat) (f : Pulse → Pulse) : (l.updPulse n f).cal = l.cal := rfl
@[simp] theorem Live.updPulse_time (n : Nat) (f : Pulse → Pulse) : (l.updPulse n f).time = l.time := rfl
@[simp] theorem Live.updPulse_qws (n : Nat) (f : Pulse → Pulse) : (l.updPulse n f).qws = l.qws := rfl
@[simp] theorem Live.updPulse_cmd (n : Nat) (f : Pulse → Pulse) : (l.updPulse n f).cmd = l.cmd := rfl
@[simp] theorem Live.updPulse_samp (n : Nat) (f : Pulse → Pulse) : (l.updPulse n f).samp = l.samp := rfl
@[simp] theorem Live.updPulse_gens (n : Nat) (f : Pulse → Pulse) : (l.updPulse n f).gens = l.gens := rfl
@[simp] theorem Live.updPulse_genBase (n : Nat) (f : Pulse → Pulse) : (l.updPulse n f).genBase = l.genBase := rfl
@[simp] theorem Live.updPulse_seqs (n : Nat) (f : Pulse → Pulse) : (l.updPulse n f).seqs = l.seqs := rfl
@[simp] theorem Live.updPulse_skips (n : Nat) (f : Pulse → Pulse) : (l.updPulse n f).skips = l.skips := rfl
@[simp] theorem Live.updPulse_created (n : Nat) (f : Pulse → Pulse) : (l.updPulse n f).created = l.created := rfl
@[simp] theorem Live.updPulse_plans (n : Nat) (f : Pulse → Pulse) : (l.updPulse n f).plans = l.plans := rfl
@[simp] theorem Live.updPulse_table (n : Nat) (f : Pulse → Pulse) : (l.updPulse n f).table = l.table := rfl
@[simp] theorem Live.updPulse_ques (n : Nat) (f : Pulse → Pulse) : (l.updPulse n f).ques = l.ques := rfl
@[simp] theorem Live.updPulse_runs (n : Nat) (f : Pulse → Pulse) : (l.updPulse n f).runs = l.runs := rfl
@[simp] theorem Live.updPulse_shape (n : Nat) (f : Pulse → Pulse) : (l.updPulse n f).shape = l.shape := rfl
@[simp] theorem Live.updPulse_links (n : Nat) (f : Pulse → Pulse) : (l.updPulse n f).links = l.links := rfl
@[simp] theorem Live.updPulse_routes (n : Nat) (f : Pulse → Pulse) : (l.updPulse n f).routes = l.routes := rfl
@[simp] theorem Live.updPulse_loads (n : Nat) (f : Pulse → Pulse) : (l.updPulse n f).loads = l.loads := rfl
@[simp] theorem Live.updPulse_rdLast (n : Nat) (f : Pulse → Pulse) : (l.updPulse n f).rdLast = l.rdLast := rfl
@[simp] theorem Live.updPulse_celFail (n : Nat) (f : Pulse → Pulse) : (l.updPulse n f).celFail = l.celFail := rfl
@[simp] theorem Live.updPulse_spillFail (n : Nat) (f : Pulse → Pulse) : (l.updPulse n f).spillFail = l.spillFail := rfl
@[simp] theorem Live.updPulse_ser (n : Nat) (f : Pulse → Pulse) : (l.updPulse n f).ser = l.ser := rfl
@[simp] theorem Live.updPulse_eng (n : Nat) (f : Pulse → Pulse) : (l.updPulse n f).eng = l.eng := rfl
@[simp] theorem Live.updPulse_trace (n : Nat) (f : Pulse → Pulse) : (l.updPulse n f).trace = l.trace := rfl
@[simp] theorem Live.updPulse_log (n : Nat) (f : Pulse → Pulse) : (l.updPulse n f).log = l.log := rfl
@[simp] theorem Live.updPulse_mem (n : Nat) (f : Pulse → Pulse) : (l.updPulse n f).mem = l.mem := rfl
@[simp] theorem Live.updPulse_flt (n : Nat) (f : Pulse → Pulse) : (l.updPulse n f).flt = l.flt := rfl
@[simp] theorem Live.updPulse_pwr (n : Nat) (f : Pulse → Pulse) : (l.updPulse n f).pwr = l.pwr := rfl
@[simp] theorem Live.updPulse_free (n : Nat) (f : Pulse → Pulse) : (l.updPulse n f).free = l.free := rfl
@[simp] theorem Live.updPulse_out (n : Nat) (f : Pulse → Pulse) : (l.updPulse n f).out = l.out := rfl

/-! ### `Live.updQw` changes `qws` only -/

@[simp] theorem Live.updQw_rf (k : Nat) (f : Qw → Qw) : (l.updQw k f).rf = l.rf := rfl
@[simp] theorem Live.updQw_boot (k : Nat) (f : Qw → Qw) : (l.updQw k f).boot = l.boot := rfl
@[simp] theorem Live.updQw_clk (k : Nat) (f : Qw → Qw) : (l.updQw k f).clk = l.clk := rfl
@[simp] theorem Live.updQw_cal (k : Nat) (f : Qw → Qw) : (l.updQw k f).cal = l.cal := rfl
@[simp] theorem Live.updQw_time (k : Nat) (f : Qw → Qw) : (l.updQw k f).time = l.time := rfl
@[simp] theorem Live.updQw_pulses (k : Nat) (f : Qw → Qw) : (l.updQw k f).pulses = l.pulses := rfl
@[simp] theorem Live.updQw_cmd (k : Nat) (f : Qw → Qw) : (l.updQw k f).cmd = l.cmd := rfl
@[simp] theorem Live.updQw_samp (k : Nat) (f : Qw → Qw) : (l.updQw k f).samp = l.samp := rfl
@[simp] theorem Live.updQw_gens (k : Nat) (f : Qw → Qw) : (l.updQw k f).gens = l.gens := rfl
@[simp] theorem Live.updQw_genBase (k : Nat) (f : Qw → Qw) : (l.updQw k f).genBase = l.genBase := rfl
@[simp] theorem Live.updQw_seqs (k : Nat) (f : Qw → Qw) : (l.updQw k f).seqs = l.seqs := rfl
@[simp] theorem Live.updQw_skips (k : Nat) (f : Qw → Qw) : (l.updQw k f).skips = l.skips := rfl
@[simp] theorem Live.updQw_created (k : Nat) (f : Qw → Qw) : (l.updQw k f).created = l.created := rfl
@[simp] theorem Live.updQw_plans (k : Nat) (f : Qw → Qw) : (l.updQw k f).plans = l.plans := rfl
@[simp] theorem Live.updQw_table (k : Nat) (f : Qw → Qw) : (l.updQw k f).table = l.table := rfl
@[simp] theorem Live.updQw_ques (k : Nat) (f : Qw → Qw) : (l.updQw k f).ques = l.ques := rfl
@[simp] theorem Live.updQw_runs (k : Nat) (f : Qw → Qw) : (l.updQw k f).runs = l.runs := rfl
@[simp] theorem Live.updQw_shape (k : Nat) (f : Qw → Qw) : (l.updQw k f).shape = l.shape := rfl
@[simp] theorem Live.updQw_links (k : Nat) (f : Qw → Qw) : (l.updQw k f).links = l.links := rfl
@[simp] theorem Live.updQw_routes (k : Nat) (f : Qw → Qw) : (l.updQw k f).routes = l.routes := rfl
@[simp] theorem Live.updQw_loads (k : Nat) (f : Qw → Qw) : (l.updQw k f).loads = l.loads := rfl
@[simp] theorem Live.updQw_rdLast (k : Nat) (f : Qw → Qw) : (l.updQw k f).rdLast = l.rdLast := rfl
@[simp] theorem Live.updQw_celFail (k : Nat) (f : Qw → Qw) : (l.updQw k f).celFail = l.celFail := rfl
@[simp] theorem Live.updQw_spillFail (k : Nat) (f : Qw → Qw) : (l.updQw k f).spillFail = l.spillFail := rfl
@[simp] theorem Live.updQw_ser (k : Nat) (f : Qw → Qw) : (l.updQw k f).ser = l.ser := rfl
@[simp] theorem Live.updQw_eng (k : Nat) (f : Qw → Qw) : (l.updQw k f).eng = l.eng := rfl
@[simp] theorem Live.updQw_trace (k : Nat) (f : Qw → Qw) : (l.updQw k f).trace = l.trace := rfl
@[simp] theorem Live.updQw_log (k : Nat) (f : Qw → Qw) : (l.updQw k f).log = l.log := rfl
@[simp] theorem Live.updQw_mem (k : Nat) (f : Qw → Qw) : (l.updQw k f).mem = l.mem := rfl
@[simp] theorem Live.updQw_flt (k : Nat) (f : Qw → Qw) : (l.updQw k f).flt = l.flt := rfl
@[simp] theorem Live.updQw_pwr (k : Nat) (f : Qw → Qw) : (l.updQw k f).pwr = l.pwr := rfl
@[simp] theorem Live.updQw_free (k : Nat) (f : Qw → Qw) : (l.updQw k f).free = l.free := rfl
@[simp] theorem Live.updQw_out (k : Nat) (f : Qw → Qw) : (l.updQw k f).out = l.out := rfl

end Sys2Proof.Machine
end

