-- ==== Sys2Proof/Laws/Fields.lean ====
section
/-! SUPPORT. Register fields: reading what was written, and what a write leaves alone. The premise is the
canonical form of the register file. -/

namespace Sys2Proof.Machine

variable {l : Live} {b : Build}

/-- The reset value of a field does not depend on the register file. -/
theorem Live.rst_congr {l m : Live} (h : l.boot.st = m.boot.st) (b : Build) (f : Fld) (e : Nat) :
    l.rst b f e = m.rst b f e := by
  unfold Live.rst; rw [h]

@[simp] theorem Live.rst_put (f g : Fld) (v e i : Nat) :
    (l.put b f v e).rst b g i = l.rst b g i := Live.rst_congr rfl b g i

theorem Live.put_wf (h : Tab.wf l.rf = true) (f : Fld) (v e : Nat) :
    Tab.wf (l.put b f v e).rf = true := Tab.wf_set h _ _ _

/-- A field reads what was written to it, cut to its width. -/
theorem Live.get_put_same (h : Tab.wf l.rf = true) (f : Fld) (v e : Nat) :
    (l.put b f v e).get b f e = v % 2 ^ f.w := by
  unfold Live.get; rw [Live.rst_put]; exact Tab.getD_set_same h _ _ _

/-- A write leaves every field with another key alone. -/
theorem Live.get_put_ne (h : Tab.wf l.rf = true) {f g : Fld} {e i : Nat} (hk : f.key e ≠ g.key i) (v : Nat) :
    (l.put b f v e).get b g i = l.get b g i := by
  unfold Live.get; rw [Live.rst_put]; exact Tab.getD_set_ne h hk _ _ _

/-- Fields at different places, or of different entities, have different keys. -/
theorem Fld.key_ne {f g : Fld} {e i : Nat} (he : e < 65536) (hi : i < 65536) (hf : f.lo < 32) (hg : g.lo < 32)
    (h : f.off ≠ g.off ∨ f.lo ≠ g.lo ∨ e ≠ i) : f.key e ≠ g.key i := by
  unfold Fld.key; omega

/-- Only the register file and the static inputs decide what a field reads. -/
theorem Live.get_congr {l m : Live} (hr : l.rf = m.rf) (hs : l.boot.st = m.boot.st) (b : Build) (f : Fld)
    (e : Nat) : l.get b f e = m.get b f e := by
  unfold Live.get; rw [hr, Live.rst_congr hs]

/-- A saturating count. -/
theorem Live.get_bump_same (h : Tab.wf l.rf = true) (f : Fld) (e n : Nat) :
    (l.bump b f e n).get b f e = min (l.get b f e + n) (2 ^ f.w - 1) := by
  unfold Live.bump
  rw [Live.get_put_same h, Nat.mod_eq_of_lt]
  have : 0 < 2 ^ f.w := Nat.two_pow_pos _
  omega

/-- A field whose reset value does not depend on the entity, the build or the sampled inputs. -/
theorem Live.rst_plain {f : Fld} (e : Nat)
    (h : f ∉ [F.SHP_CIR_CIR, F.SHP_CBS_CBS, F.SHP_PBS_PBS, F.SHP_PIR_PIR, F.QUE_CFG_CAP, F.UNIT_EN_B_SPILL,
      F.UNIT_EN_CEL_CEL]) : l.rst b f e = if b.buoy then f.rB else f.rL := by
  simp only [List.mem_cons, List.not_mem_nil, or_false, not_or] at h
  unfold Live.rst
  simp only [h, or_false, if_false]

end Sys2Proof.Machine
end

