-- ==== Sys2Proof/Laws/Log.lean ====
section
/-! SUPPORT. What logging an event can do: it changes the logbook, the early events and the LOG registers, and
nothing else. -/

namespace Sys2Proof.Machine

/-- A field of a LOG register (spec/21: 0x1CC0 to 0x1CFF). -/
abbrev Fld.isLog (f : Fld) : Prop := 0x1CC0 ≤ f.off ∧ f.off < 0x1D00

/-- `m` differs from `l` in the logbook, the early events and LOG registers only. -/
def Live.LogOnly (b : Build) (l m : Live) : Prop :=
  (m = { l with rf := m.rf, log := m.log, boot := { l.boot with early := m.boot.early } }) ∧
  (Tab.wf l.rf = true → Tab.wf m.rf = true ∧
    ∀ (f : Fld) (e : Nat), f.lo < 32 → e < 65536 → ¬f.isLog → m.get b f e = l.get b f e)

variable {l m n : Live} {b : Build}

theorem Live.LogOnly.refl (b : Build) (l : Live) : Live.LogOnly b l l :=
  ⟨rfl, fun h => ⟨h, fun _ _ _ _ _ => rfl⟩⟩

theorem Live.LogOnly.trans (h : Live.LogOnly b l m) (k : Live.LogOnly b m n) : Live.LogOnly b l n := by
  refine ⟨?_, fun hw => ?_⟩
  · rw [k.1, h.1]
  · have h1 := h.2 hw
    have h2 := k.2 h1.1
    exact ⟨h2.1, fun f e a c d => (h2.2 f e a c d).trans (h1.2 f e a c d)⟩

theorem Live.LogOnly.put {f : Fld} (hf : f.isLog) (hl : f.lo < 32) (v : Nat) :
    Live.LogOnly b l (l.put b f v) := by
  refine ⟨rfl, fun hw => ⟨Live.put_wf hw f v 0, fun g e h1 h2 h3 => ?_⟩⟩
  refine Live.get_put_ne hw (Fld.key_ne (by decide) h2 hl h1 (.inl fun h => h3 ?_)) v
  unfold Fld.isLog at hf ⊢; rw [← h]; exact hf

theorem Live.LogOnly.setLog (g : Log) : Live.LogOnly b l { l with log := g } :=
  ⟨rfl, fun hw => ⟨hw, fun _ _ _ _ _ => rfl⟩⟩

theorem Live.LogOnly.setEarly (es : List LogEv) :
    Live.LogOnly b l { l with boot := { l.boot with early := es } } :=
  ⟨rfl, fun hw => ⟨hw, fun _ _ _ _ _ => Live.get_congr rfl rfl _ _ _⟩⟩

theorem Live.LogOnly.foldl {α : Type} (f : Live → α → Live) (h : ∀ l a, Live.LogOnly b l (f l a)) :
    ∀ (as : List α) (l : Live), Live.LogOnly b l (as.foldl f l)
  | [], l => Live.LogOnly.refl b l
  | a :: as, l => (h l a).trans (Live.LogOnly.foldl f h as (f l a))

theorem dropFld_isLog (s : Nat) : (dropFld s).isLog ∧ (dropFld s).lo < 32 := by
  unfold dropFld; split
  · decide
  · split <;> decide

theorem lostFld_isLog (s : Nat) : (lostFld s).isLog ∧ (lostFld s).lo < 32 := by
  unfold lostFld; split
  · decide
  · split <;> decide

theorem Live.logFog_only (l : Live) (b : Build) (sev : Nat) : Live.LogOnly b l (l.logFog b sev) := by
  unfold Live.logFog Live.when
  split
  · exact Live.LogOnly.put (by decide) (by decide) _
  · exact Live.LogOnly.refl b l

theorem Live.atticAdd_only (l : Live) (b : Build) (e : LogEnt) : Live.LogOnly b l (l.atticAdd b e) := by
  unfold Live.atticAdd
  split
  · split
    · exact Live.LogOnly.put (by decide) (by decide) _
    · unfold Live.when
      simp only
      split
      · refine Live.LogOnly.trans ?_ (Live.LogOnly.put (f := F.LOG_FLAG_ATTIC_LOST) (by decide) (by decide) _)
        exact Live.LogOnly.setLog _
      · exact Live.LogOnly.setLog _
  · exact Live.LogOnly.refl b l

theorem Live.logNew_only (l : Live) (b : Build) (ev : LogEv) : Live.LogOnly b l (l.logNew b ev) := by
  unfold Live.logNew
  simp only
  split
  · refine Live.LogOnly.trans ?_ (Live.LogOnly.put (dropFld_isLog _).1 (dropFld_isLog _).2 _)
    exact Live.LogOnly.setLog _
  · refine Live.LogOnly.trans ?_ ((Live.atticAdd_only _ b _).trans (Live.logFog_only _ b _))
    refine Live.LogOnly.trans ?_ (Live.LogOnly.setLog _)
    refine Live.LogOnly.trans ?_ (Live.LogOnly.foldl _
      (fun l g => Live.LogOnly.put (lostFld_isLog _).1 (lostFld_isLog _).2 _) _ _)
    exact Live.LogOnly.setLog _

theorem Live.logWrite_only (l : Live) (b : Build) (ev : LogEv) : Live.LogOnly b l (l.logWrite b ev) := by
  unfold Live.logWrite
  split
  · split
    · refine Live.LogOnly.trans ?_ (Live.logFog_only _ b _)
      exact Live.LogOnly.setLog _
    · exact Live.logNew_only l b ev
  · exact Live.logNew_only l b ev

/-- Logging an event changes the logbook, the early events and LOG registers only. -/
theorem Live.logE_only (l : Live) (b : Build) (code sev : Nat) (args : List Nat) (plan status : Nat) :
    Live.LogOnly b l (l.logE b code sev args plan status) := by
  unfold Live.logE Live.logEv
  split
  · exact Live.logWrite_only l b _
  · split
    · exact Live.LogOnly.setEarly _
    · exact Live.LogOnly.put (dropFld_isLog _).1 (dropFld_isLog _).2 _

/-- Before the logbook is initialised, the first four events are kept (R419). -/
theorem Live.logE_early (h : l.log.live = false) (h' : l.boot.early.length < 4) (code sev : Nat)
    (args : List Nat) (plan status : Nat) :
    l.logE b code sev args plan status =
      { l with boot := { l.boot with early := l.boot.early ++ [⟨code, sev, plan, status, args⟩] } } := by
  simp [Live.logE, Live.logEv, h, h']

@[simp] theorem Live.logE_clk (l : Live) (b : Build) (code sev : Nat) (args : List Nat) (plan status : Nat) :
    (l.logE b code sev args plan status).clk = l.clk := by
  rw [(Live.logE_only l b code sev args plan status).1]
@[simp] theorem Live.logE_cal (l : Live) (b : Build) (code sev : Nat) (args : List Nat) (plan status : Nat) :
    (l.logE b code sev args plan status).cal = l.cal := by
  rw [(Live.logE_only l b code sev args plan status).1]
@[simp] theorem Live.logE_time (l : Live) (b : Build) (code sev : Nat) (args : List Nat) (plan status : Nat) :
    (l.logE b code sev args plan status).time = l.time := by
  rw [(Live.logE_only l b code sev args plan status).1]
@[simp] theorem Live.logE_pulses (l : Live) (b : Build) (code sev : Nat) (args : List Nat) (plan status : Nat) :
    (l.logE b code sev args plan status).pulses = l.pulses := by
  rw [(Live.logE_only l b code sev args plan status).1]
@[simp] theorem Live.logE_qws (l : Live) (b : Build) (code sev : Nat) (args : List Nat) (plan status : Nat) :
    (l.logE b code sev args plan status).qws = l.qws := by
  rw [(Live.logE_only l b code sev args plan status).1]
@[simp] theorem Live.logE_cmd (l : Live) (b : Build) (code sev : Nat) (args : List Nat) (plan status : Nat) :
    (l.logE b code sev args plan status).cmd = l.cmd := by
  rw [(Live.logE_only l b code sev args plan status).1]
@[simp] theorem Live.logE_samp (l : Live) (b : Build) (code sev : Nat) (args : List Nat) (plan status : Nat) :
    (l.logE b code sev args plan status).samp = l.samp := by
  rw [(Live.logE_only l b code sev args plan status).1]
@[simp] theorem Live.logE_gens (l : Live) (b : Build) (code sev : Nat) (args : List Nat) (plan status : Nat) :
    (l.logE b code sev args plan status).gens = l.gens := by
  rw [(Live.logE_only l b code sev args plan status).1]
@[simp] theorem Live.logE_genBase (l : Live) (b : Build) (code sev : Nat) (args : List Nat) (plan status : Nat) :
    (l.logE b code sev args plan status).genBase = l.genBase := by
  rw [(Live.logE_only l b code sev args plan status).1]
@[simp] theorem Live.logE_seqs (l : Live) (b : Build) (code sev : Nat) (args : List Nat) (plan status : Nat) :
    (l.logE b code sev args plan status).seqs = l.seqs := by
  rw [(Live.logE_only l b code sev args plan status).1]
@[simp] theorem Live.logE_created (l : Live) (b : Build) (code sev : Nat) (args : List Nat) (plan status : Nat) :
    (l.logE b code sev args plan status).created = l.created := by
  rw [(Live.logE_only l b code sev args plan status).1]
@[simp] theorem Live.logE_plans (l : Live) (b : Build) (code sev : Nat) (args : List Nat) (plan status : Nat) :
    (l.logE b code sev args plan status).plans = l.plans := by
  rw [(Live.logE_only l b code sev args plan status).1]
@[simp] theorem Live.logE_table (l : Live) (b : Build) (code sev : Nat) (args : List Nat) (plan status : Nat) :
    (l.logE b code sev args plan status).table = l.table := by
  rw [(Live.logE_only l b code sev args plan status).1]
@[simp] theorem Live.logE_ques (l : Live) (b : Build) (code sev : Nat) (args : List Nat) (plan status : Nat) :
    (l.logE b code sev args plan status).ques = l.ques := by
  rw [(Live.logE_only l b code sev args plan status).1]
@[simp] theorem Live.logE_runs (l : Live) (b : Build) (code sev : Nat) (args : List Nat) (plan status : Nat) :
    (l.logE b code sev args plan status).runs = l.runs := by
  rw [(Live.logE_only l b code sev args plan status).1]
@[simp] theorem Live.logE_shape (l : Live) (b : Build) (code sev : Nat) (args : List Nat) (plan status : Nat) :
    (l.logE b code sev args plan status).shape = l.shape := by
  rw [(Live.logE_only l b code sev args plan status).1]
@[simp] theorem Live.logE_links (l : Live) (b : Build) (code sev : Nat) (args : List Nat) (plan status : Nat) :
    (l.logE b code sev args plan status).links = l.links := by
  rw [(Live.logE_only l b code sev args plan status).1]
@[simp] theorem Live.logE_routes (l : Live) (b : Build) (code sev : Nat) (args : List Nat) (plan status : Nat) :
    (l.logE b code sev args plan status).routes = l.routes := by
  rw [(Live.logE_only l b code sev args plan status).1]
@[simp] theorem Live.logE_loads (l : Live) (b : Build) (code sev : Nat) (args : List Nat) (plan status : Nat) :
    (l.logE b code sev args plan status).loads = l.loads := by
  rw [(Live.logE_only l b code sev args plan status).1]
@[simp] theorem Live.logE_celFail (l : Live) (b : Build) (code sev : Nat) (args : List Nat) (plan status : Nat) :
    (l.logE b code sev args plan status).celFail = l.celFail := by
  rw [(Live.logE_only l b code sev args plan status).1]
@[simp] theorem Live.logE_spillFail (l : Live) (b : Build) (code sev : Nat) (args : List Nat) (plan status : Nat) :
    (l.logE b code sev args plan status).spillFail = l.spillFail := by
  rw [(Live.logE_only l b code sev args plan status).1]
@[simp] theorem Live.logE_ser (l : Live) (b : Build) (code sev : Nat) (args : List Nat) (plan status : Nat) :
    (l.logE b code sev args plan status).ser = l.ser := by
  rw [(Live.logE_only l b code sev args plan status).1]
@[simp] theorem Live.logE_eng (l : Live) (b : Build) (code sev : Nat) (args : List Nat) (plan status : Nat) :
    (l.logE b code sev args plan status).eng = l.eng := by
  rw [(Live.logE_only l b code sev args plan status).1]
@[simp] theorem Live.logE_trace (l : Live) (b : Build) (code sev : Nat) (args : List Nat) (plan status : Nat) :
    (l.logE b code sev args plan status).trace = l.trace := by
  rw [(Live.logE_only l b code sev args plan status).1]
@[simp] theorem Live.logE_mem (l : Live) (b : Build) (code sev : Nat) (args : List Nat) (plan status : Nat) :
    (l.logE b code sev args plan status).mem = l.mem := by
  rw [(Live.logE_only l b code sev args plan status).1]
@[simp] theorem Live.logE_flt (l : Live) (b : Build) (code sev : Nat) (args : List Nat) (plan status : Nat) :
    (l.logE b code sev args plan status).flt = l.flt := by
  rw [(Live.logE_only l b code sev args plan status).1]
@[simp] theorem Live.logE_pwr (l : Live) (b : Build) (code sev : Nat) (args : List Nat) (plan status : Nat) :
    (l.logE b code sev args plan status).pwr = l.pwr := by
  rw [(Live.logE_only l b code sev args plan status).1]
@[simp] theorem Live.logE_free (l : Live) (b : Build) (code sev : Nat) (args : List Nat) (plan status : Nat) :
    (l.logE b code sev args plan status).free = l.free := by
  rw [(Live.logE_only l b code sev args plan status).1]
@[simp] theorem Live.logE_out (l : Live) (b : Build) (code sev : Nat) (args : List Nat) (plan status : Nat) :
    (l.logE b code sev args plan status).out = l.out := by
  rw [(Live.logE_only l b code sev args plan status).1]
@[simp] theorem Live.logE_boot_held (l : Live) (b : Build) (code sev : Nat) (args : List Nat) (plan status : Nat) :
    (l.logE b code sev args plan status).boot.held = l.boot.held := by
  rw [(Live.logE_only l b code sev args plan status).1]
@[simp] theorem Live.logE_boot_st (l : Live) (b : Build) (code sev : Nat) (args : List Nat) (plan status : Nat) :
    (l.logE b code sev args plan status).boot.st = l.boot.st := by
  rw [(Live.logE_only l b code sev args plan status).1]
@[simp] theorem Live.logE_boot_phase (l : Live) (b : Build) (code sev : Nat) (args : List Nat) (plan status : Nat) :
    (l.logE b code sev args plan status).boot.phase = l.boot.phase := by
  rw [(Live.logE_only l b code sev args plan status).1]
@[simp] theorem Live.logE_boot_ready (l : Live) (b : Build) (code sev : Nat) (args : List Nat) (plan status : Nat) :
    (l.logE b code sev args plan status).boot.ready = l.boot.ready := by
  rw [(Live.logE_only l b code sev args plan status).1]
@[simp] theorem Live.logE_boot_calIdx (l : Live) (b : Build) (code sev : Nat) (args : List Nat) (plan status : Nat) :
    (l.logE b code sev args plan status).boot.calIdx = l.boot.calIdx := by
  rw [(Live.logE_only l b code sev args plan status).1]
@[simp] theorem Live.logE_boot_kind (l : Live) (b : Build) (code sev : Nat) (args : List Nat) (plan status : Nat) :
    (l.logE b code sev args plan status).boot.kind = l.boot.kind := by
  rw [(Live.logE_only l b code sev args plan status).1]

end Sys2Proof.Machine
end

