-- ==== Sys2Proof/WellFormed.lean ====
section
/-! DEFINITION. Which commands can arrive: the widths and ranges that the spec gives the operands beyond their
types. The meanings are total and do not rest on these checks. -/

namespace Sys2Proof

/-- A request packet (spec/06 Table 6.1): LEN has 12 bits, so no packet brings more words. -/
def Packet.wf (p : Packet) : Bool := decide (p.words.length ≤ 4095)

/-- A record that passed its receiver's checks (spec/01 R54, R58): TYPE is one of Table 1.9, and LEN, a
multiple of 8 in 16 bits, counts three words beside the payload. -/
def Rec.wf (r : Rec) : Bool :=
  decide (1 ≤ r.ty.toNat ∧ r.ty.toNat ≤ 0x0F ∧ r.body.length ≤ 8188)

/-- A record of one TYPE. -/
def Rec.wfTy (r : Rec) (ty : Nat) : Bool := r.wf && decide (r.ty.toNat = ty)

/-- A sensor set of a buoy (spec/07 R194): 16 temperatures and 8 voltages. -/
def sensorWf (temps volts : List (BitVec 12)) : Bool :=
  decide (temps.length = 16 ∧ volts.length = 8)

/-- What a time-out was for brings a packet that can arrive. -/
def HsUse.wf : HsUse → Bool
  | .command _ p => p.wf
  | .tapCommand _ p silent => p.wf && decide (silent.length ≤ 8)
  | _ => true

/-- An operand of `i` that no sender can bring makes `i` ill-formed. -/
def Instr.wf : Instr → Bool
  | .nop p => p.wf
  | .ident p => p.wf
  | .regRead p => p.wf
  | .regWrite p => p.wf
  | .planLoad p => p.wf
  | .planVerify p => p.wf
  | .planArm p => p.wf
  | .planAbort p => p.wf
  | .planTeardown p => p.wf
  | .cutAt p => p.wf
  | .ctrRead p => p.wf
  | .ctrConfig p => p.wf
  | .ctrFreeze p => p.wf
  | .ctrThaw p => p.wf
  | .treeQuery p => p.wf
  | .modelLoad p => p.wf
  | .seqQuery p => p.wf
  | .traceArm p => p.wf
  | .traceDisarm p => p.wf
  | .traceRead p => p.wf
  | .logRead p => p.wf
  | .scrubRange p => p.wf
  | .pwrState p => p.wf
  | .unitAdjust p => p.wf
  | .unitRemap p => p.wf
  | .calWrite p => p.wf
  | .hangDump p => p.wf
  | .replayCtlStop p => p.wf
  | .replayCtlLog p => p.wf
  | .replayCtlReplay p => p.wf
  | .stepMark p => p.wf
  | .pulseArm p => p.wf
  | .unknownOpcode _ p => p.wf
  | .handshakeTimeout u => u.wf
  | .timexReq r => r.wfTy 0x0E
  | .timexRsp _ r => r.wfTy 0x0E
  | .inbandCmdForward _ r => r.wfTy 0x0F
  | .inbandReplyReturn _ r => r.wfTy 0x0F
  | .cutvecReceive _ r => r.wfTy 0x02
  | .partialReceive _ r => r.wfTy 0x03
  | .thresholdsReceive _ r => r.wfTy 0x04
  | .buoyThresholds r => r.wfTy 0x04
  | .phaseBReceive _ r => r.wfTy 0x03
  | .copyRecordReceive _ r => r.wfTy 0x0D
  | .restoreReqReceive _ r => r.wfTy 0x0D
  | .restoreRecordReceive _ r => r.wfTy 0x0D
  | .restoreDone _ r => r.wfTy 0x0D
  | .sensorSetTaken temps volts _ => sensorWf temps volts
  | _ => true

end Sys2Proof
end

