-- ==== Sys2Proof/Laws/PerInstr.lean ====
section
/-! SUPPORT. A law of every command: the packets and records that a well-formed command brings have the lengths
that the length fields of their headers can give. -/

namespace Sys2Proof.Laws.PayloadsFit

set_option Elab.async false

/-- Payload words a command brings, with the most its header's length field can give (spec/06 Table 6.1:
LEN has 12 bits; spec/01 Table 1.8 and R58: LEN is in bytes, has 16 bits, and counts three words beside the
payload). -/
def payload : Instr → Option (Nat × Nat)
  | .handshakeTimeout (.command _ p) => some (p.words.length, 4095)
  | .handshakeTimeout (.tapCommand _ p _) => some (p.words.length, 4095)
  | .timexReq r => some (r.body.length, 8188)
  | .timexRsp _ r => some (r.body.length, 8188)
  | .nop p => some (p.words.length, 4095)
  | .ident p => some (p.words.length, 4095)
  | .regRead p => some (p.words.length, 4095)
  | .regWrite p => some (p.words.length, 4095)
  | .planLoad p => some (p.words.length, 4095)
  | .planVerify p => some (p.words.length, 4095)
  | .planArm p => some (p.words.length, 4095)
  | .planAbort p => some (p.words.length, 4095)
  | .planTeardown p => some (p.words.length, 4095)
  | .cutAt p => some (p.words.length, 4095)
  | .ctrRead p => some (p.words.length, 4095)
  | .ctrConfig p => some (p.words.length, 4095)
  | .ctrFreeze p => some (p.words.length, 4095)
  | .ctrThaw p => some (p.words.length, 4095)
  | .treeQuery p => some (p.words.length, 4095)
  | .modelLoad p => some (p.words.length, 4095)
  | .seqQuery p => some (p.words.length, 4095)
  | .traceArm p => some (p.words.length, 4095)
  | .traceDisarm p => some (p.words.length, 4095)
  | .traceRead p => some (p.words.length, 4095)
  | .logRead p => some (p.words.length, 4095)
  | .scrubRange p => some (p.words.length, 4095)
  | .pwrState p => some (p.words.length, 4095)
  | .unitAdjust p => some (p.words.length, 4095)
  | .unitRemap p => some (p.words.length, 4095)
  | .calWrite p => some (p.words.length, 4095)
  | .hangDump p => some (p.words.length, 4095)
  | .replayCtlStop p => some (p.words.length, 4095)
  | .replayCtlLog p => some (p.words.length, 4095)
  | .replayCtlReplay p => some (p.words.length, 4095)
  | .stepMark p => some (p.words.length, 4095)
  | .pulseArm p => some (p.words.length, 4095)
  | .inbandCmdForward _ r => some (r.body.length, 8188)
  | .inbandReplyReturn _ r => some (r.body.length, 8188)
  | .cutvecReceive _ r => some (r.body.length, 8188)
  | .partialReceive _ r => some (r.body.length, 8188)
  | .thresholdsReceive _ r => some (r.body.length, 8188)
  | .buoyThresholds r => some (r.body.length, 8188)
  | .phaseBReceive _ r => some (r.body.length, 8188)
  | .copyRecordReceive _ r => some (r.body.length, 8188)
  | .restoreReqReceive _ r => some (r.body.length, 8188)
  | .restoreRecordReceive _ r => some (r.body.length, 8188)
  | .restoreDone _ r => some (r.body.length, 8188)
  | .unknownOpcode _ p => some (p.words.length, 4095)
  | _ => none

/-- The law of one command. -/
def Statement (i : Instr) : Prop := i.wf = true → ∀ x ∈ payload i, x.1 ≤ x.2

theorem coldReset : Statement .coldReset := fun _ => nofun
theorem wakeIn : Statement .wakeIn := fun _ => nofun
theorem softReset : Statement .softReset := fun _ => nofun
theorem oscQualified : Statement .oscQualified := fun _ => nofun
theorem calWordAck (w : Word) : Statement (.calWordAck w) := fun _ => nofun
theorem calIntakeTimeout : Statement .calIntakeTimeout := fun _ => nofun
theorem clockQualified (isl : SwIsland) : Statement (.clockQualified isl) := fun _ => nofun
theorem clockQualTimeout (isl : SwIsland) : Statement (.clockQualTimeout isl) := fun _ => nofun
theorem romCheck (romOk eccOk : Bool) : Statement (.romCheck romOk eccOk) := fun _ => nofun
theorem sramTest (ok : Bool) (aonCycles : Nat) : Statement (.sramTest ok aonCycles) := fun _ => nofun
theorem engWaitTimeout : Statement .engWaitTimeout := fun _ => nofun
theorem clkSelWrite (v : Word) : Statement (.clkSelWrite v) := fun _ => nofun
theorem clockSwitchDone : Statement .clockSwitchDone := fun _ => nofun
theorem clockFallback (isl : SwIsland) : Statement (.clockFallback isl) := fun _ => nofun
theorem handshakeTimeout (u : HsUse) : Statement (.handshakeTimeout u) := by
  intro h; cases u <;> simp_all [Instr.wf, HsUse.wf, Packet.wf, payload]
theorem windowCheck (v : Word) (count : Nat) : Statement (.windowCheck v count) := fun _ => nofun
theorem trimSourceWrite (v : Word) : Statement (.trimSourceWrite v) := fun _ => nofun
theorem trimWindow (src : TrimSrc) (count : Nat) (winCount : Nat) : Statement (.trimWindow src count winCount) := fun _ => nofun
theorem unitEnWrite (r : EnReg) (v : Word) : Statement (.unitEnWrite r v) := fun _ => nofun
theorem timeIncWrite (v : Word) : Statement (.timeIncWrite v) := fun _ => nofun
theorem hallPhaseEdge (tinValid : Bool) (tinNs : Word) : Statement (.hallPhaseEdge tinValid tinNs) := fun _ => nofun
theorem slewAbsorbed : Statement .slewAbsorbed := fun _ => nofun
theorem tinValidLow : Statement .tinValidLow := fun _ => nofun
theorem holdoverTimeout : Statement .holdoverTimeout := fun _ => nofun
theorem ftMsTick : Statement .ftMsTick := fun _ => nofun
theorem timexInterval : Statement .timexInterval := fun _ => nofun
theorem timexReq (r : Rec) : Statement (.timexReq r) := by
  intro h; simp [Instr.wf, Rec.wfTy, Rec.wf] at h; simp [payload]; omega
theorem timexRsp (n : BitVec 5) (r : Rec) : Statement (.timexRsp n r) := by
  intro h; simp [Instr.wf, Rec.wfTy, Rec.wf] at h; simp [payload]; omega
theorem countReached (cmp : Nat) : Statement (.countReached cmp) := fun _ => nofun
theorem pulseRise (n : BitVec 3) : Statement (.pulseRise n) := fun _ => nofun
theorem pulseFall (n : BitVec 3) : Statement (.pulseFall n) := fun _ => nofun
theorem qwWindowStart (k : BitVec 2) : Statement (.qwWindowStart k) := fun _ => nofun
theorem qwWindowEnd (k : BitVec 2) : Statement (.qwWindowEnd k) := fun _ => nofun
theorem qwEnable (v : Word) : Statement (.qwEnable v) := fun _ => nofun
theorem qwDisable (v : Word) : Statement (.qwDisable v) := fun _ => nofun
theorem nop (p : Packet) : Statement (.nop p) := by
  intro h; simpa [Instr.wf, Packet.wf, payload] using h
theorem ident (p : Packet) : Statement (.ident p) := by
  intro h; simpa [Instr.wf, Packet.wf, payload] using h
theorem regRead (p : Packet) : Statement (.regRead p) := by
  intro h; simpa [Instr.wf, Packet.wf, payload] using h
theorem regWrite (p : Packet) : Statement (.regWrite p) := by
  intro h; simpa [Instr.wf, Packet.wf, payload] using h
theorem planLoad (p : Packet) : Statement (.planLoad p) := by
  intro h; simpa [Instr.wf, Packet.wf, payload] using h
theorem planVerify (p : Packet) : Statement (.planVerify p) := by
  intro h; simpa [Instr.wf, Packet.wf, payload] using h
theorem planArm (p : Packet) : Statement (.planArm p) := by
  intro h; simpa [Instr.wf, Packet.wf, payload] using h
theorem planAbort (p : Packet) : Statement (.planAbort p) := by
  intro h; simpa [Instr.wf, Packet.wf, payload] using h
theorem planTeardown (p : Packet) : Statement (.planTeardown p) := by
  intro h; simpa [Instr.wf, Packet.wf, payload] using h
theorem cutAt (p : Packet) : Statement (.cutAt p) := by
  intro h; simpa [Instr.wf, Packet.wf, payload] using h
theorem ctrRead (p : Packet) : Statement (.ctrRead p) := by
  intro h; simpa [Instr.wf, Packet.wf, payload] using h
theorem ctrConfig (p : Packet) : Statement (.ctrConfig p) := by
  intro h; simpa [Instr.wf, Packet.wf, payload] using h
theorem ctrFreeze (p : Packet) : Statement (.ctrFreeze p) := by
  intro h; simpa [Instr.wf, Packet.wf, payload] using h
theorem ctrThaw (p : Packet) : Statement (.ctrThaw p) := by
  intro h; simpa [Instr.wf, Packet.wf, payload] using h
theorem treeQuery (p : Packet) : Statement (.treeQuery p) := by
  intro h; simpa [Instr.wf, Packet.wf, payload] using h
theorem modelLoad (p : Packet) : Statement (.modelLoad p) := by
  intro h; simpa [Instr.wf, Packet.wf, payload] using h
theorem modelLoadSlotFree (isSeq : Bool) (slot : BitVec 4) : Statement (.modelLoadSlotFree isSeq slot) := fun _ => nofun
theorem seqQuery (p : Packet) : Statement (.seqQuery p) := by
  intro h; simpa [Instr.wf, Packet.wf, payload] using h
theorem seqJobDone : Statement .seqJobDone := fun _ => nofun
theorem traceArm (p : Packet) : Statement (.traceArm p) := by
  intro h; simpa [Instr.wf, Packet.wf, payload] using h
theorem traceDisarm (p : Packet) : Statement (.traceDisarm p) := by
  intro h; simpa [Instr.wf, Packet.wf, payload] using h
theorem traceRead (p : Packet) : Statement (.traceRead p) := by
  intro h; simpa [Instr.wf, Packet.wf, payload] using h
theorem logRead (p : Packet) : Statement (.logRead p) := by
  intro h; simpa [Instr.wf, Packet.wf, payload] using h
theorem scrubRange (p : Packet) : Statement (.scrubRange p) := by
  intro h; simpa [Instr.wf, Packet.wf, payload] using h
theorem pwrState (p : Packet) : Statement (.pwrState p) := by
  intro h; simpa [Instr.wf, Packet.wf, payload] using h
theorem unitAdjust (p : Packet) : Statement (.unitAdjust p) := by
  intro h; simpa [Instr.wf, Packet.wf, payload] using h
theorem unitRemap (p : Packet) : Statement (.unitRemap p) := by
  intro h; simpa [Instr.wf, Packet.wf, payload] using h
theorem calWrite (p : Packet) : Statement (.calWrite p) := by
  intro h; simpa [Instr.wf, Packet.wf, payload] using h
theorem hangDump (p : Packet) : Statement (.hangDump p) := by
  intro h; simpa [Instr.wf, Packet.wf, payload] using h
theorem hangSnapshot : Statement .hangSnapshot := fun _ => nofun
theorem replayCtlStop (p : Packet) : Statement (.replayCtlStop p) := by
  intro h; simpa [Instr.wf, Packet.wf, payload] using h
theorem replayCtlLog (p : Packet) : Statement (.replayCtlLog p) := by
  intro h; simpa [Instr.wf, Packet.wf, payload] using h
theorem replayCtlReplay (p : Packet) : Statement (.replayCtlReplay p) := by
  intro h; simpa [Instr.wf, Packet.wf, payload] using h
theorem replayFinish : Statement .replayFinish := fun _ => nofun
theorem stepMark (p : Packet) : Statement (.stepMark p) := by
  intro h; simpa [Instr.wf, Packet.wf, payload] using h
theorem stepMarkApply : Statement .stepMarkApply := fun _ => nofun
theorem pulseArm (p : Packet) : Statement (.pulseArm p) := by
  intro h; simpa [Instr.wf, Packet.wf, payload] using h
theorem wordTimeout (h : CutOff) : Statement (.wordTimeout h) := fun _ => nofun
theorem mgmtReplySend : Statement .mgmtReplySend := fun _ => nofun
theorem inbandCmdForward (n : BitVec 5) (r : Rec) : Statement (.inbandCmdForward n r) := by
  intro h; simp [Instr.wf, Rec.wfTy, Rec.wf] at h; simp [payload]; omega
theorem inbandReplyReturn (n : BitVec 5) (r : Rec) : Statement (.inbandReplyReturn n r) := by
  intro h; simp [Instr.wf, Rec.wfTy, Rec.wf] at h; simp [payload]; omega
theorem forwardTimeout (dst : BitVec 18) (dlan : Bool) : Statement (.forwardTimeout dst dlan) := fun _ => nofun
theorem fabRxBadRecord (ws : List DWord) : Statement (.fabRxBadRecord ws) := fun _ => nofun
theorem tapBindWrite (unit : BitVec 6) (v : Word) : Statement (.tapBindWrite unit v) := fun _ => nofun
theorem remapSwitch : Statement .remapSwitch := fun _ => nofun
theorem remapWaitTimeout : Statement .remapWaitTimeout := fun _ => nofun
theorem remapHandoverDone : Statement .remapHandoverDone := fun _ => nofun
theorem pcsCfgWrite (k : BitVec 2) (v : Word) : Statement (.pcsCfgWrite k v) := fun _ => nofun
theorem pcsSample (k : BitVec 2) (pc : DWord) (unit : BitVec 10) (stall : BitVec 3) : Statement (.pcsSample k pc unit stall) := fun _ => nofun
theorem pcsampFlushTimeout (k : BitVec 2) : Statement (.pcsampFlushTimeout k) := fun _ => nofun
theorem sensorSetTaken (temps volts : List (BitVec 12)) (merged : Nat) : Statement (.sensorSetTaken temps volts merged) := fun _ => nofun
theorem sampleTake (plan : BitVec 8) (set : BitVec 3) : Statement (.sampleTake plan set) := fun _ => nofun
theorem cutLatch (plan : BitVec 8) : Statement (.cutLatch plan) := fun _ => nofun
theorem cutvecAssembled (plan : BitVec 8) : Statement (.cutvecAssembled plan) := fun _ => nofun
theorem cutvecReceive (n : BitVec 5) (r : Rec) : Statement (.cutvecReceive n r) := by
  intro h; simp [Instr.wf, Rec.wfTy, Rec.wf] at h; simp [payload]; omega
theorem leafClose (plan : BitVec 8) : Statement (.leafClose plan) := fun _ => nofun
theorem partialReceive (n : BitVec 5) (r : Rec) : Statement (.partialReceive n r) := by
  intro h; simp [Instr.wf, Rec.wfTy, Rec.wf] at h; simp [payload]; omega
theorem stageDeadline (plan : BitVec 8) (stage : BitVec 2) (phaseB : Bool) : Statement (.stageDeadline plan stage phaseB) := fun _ => nofun
theorem thresholdsReceive (n : BitVec 5) (r : Rec) : Statement (.thresholdsReceive n r) := by
  intro h; simp [Instr.wf, Rec.wfTy, Rec.wf] at h; simp [payload]; omega
theorem buoyThresholds (r : Rec) : Statement (.buoyThresholds r) := by
  intro h; simp [Instr.wf, Rec.wfTy, Rec.wf] at h; simp [payload]; omega
theorem phaseBReceive (n : BitVec 5) (r : Rec) : Statement (.phaseBReceive n r) := by
  intro h; simp [Instr.wf, Rec.wfTy, Rec.wf] at h; simp [payload]; omega
theorem phaseBClose (plan : BitVec 8) : Statement (.phaseBClose plan) := fun _ => nofun
theorem cutcallReceive (n : BitVec 5) (m : CtlMsg) : Statement (.cutcallReceive n m) := fun _ => nofun
theorem loaddatReceive (n : BitVec 5) (rtag : BitVec 8) (err : Bool) (data : List DWord) : Statement (.loaddatReceive n rtag err data) := fun _ => nofun
theorem armReceive (n : BitVec 5) (m : CtlMsg) : Statement (.armReceive n m) := fun _ => nofun
theorem reportReceive (n : BitVec 5) (m : CtlMsg) : Statement (.reportReceive n m) := fun _ => nofun
theorem reportDeadline (plan : BitVec 8) : Statement (.reportDeadline plan) := fun _ => nofun
theorem goDecision (plan : BitVec 8) : Statement (.goDecision plan) := fun _ => nofun
theorem goReceive (n : BitVec 5) (m : CtlMsg) : Statement (.goReceive n m) := fun _ => nofun
theorem armingTimeout (plan : BitVec 8) : Statement (.armingTimeout plan) := fun _ => nofun
theorem planStart (plan : BitVec 8) : Statement (.planStart plan) := fun _ => nofun
theorem planTeardownReached (plan : BitVec 8) : Statement (.planTeardownReached plan) := fun _ => nofun
theorem abortReceive (n : BitVec 5) (m : CtlMsg) : Statement (.abortReceive n m) := fun _ => nofun
theorem upwardAbortReceive (n : BitVec 5) (m : CtlMsg) : Statement (.upwardAbortReceive n m) := fun _ => nofun
theorem teardownReceive (n : BitVec 5) (m : CtlMsg) : Statement (.teardownReceive n m) := fun _ => nofun
theorem lossReceive (n : BitVec 5) (m : CtlMsg) : Statement (.lossReceive n m) := fun _ => nofun
theorem gridEnable (v : Word) : Statement (.gridEnable v) := fun _ => nofun
theorem actionTrigger (plan : BitVec 8) (entry : BitVec 8) : Statement (.actionTrigger plan entry) := fun _ => nofun
theorem treeActionRun (plan : BitVec 8) (entry : BitVec 8) : Statement (.treeActionRun plan entry) := fun _ => nofun
theorem seqActionRun (plan : BitVec 8) (entry : BitVec 8) : Statement (.seqActionRun plan entry) := fun _ => nofun
theorem egressSelect (inWindow : List Word) : Statement (.egressSelect inWindow) := fun _ => nofun
theorem shaperSample : Statement .shaperSample := fun _ => nofun
theorem lnkRoleWrite (n : BitVec 5) (v : Word) : Statement (.lnkRoleWrite n v) := fun _ => nofun
theorem retrainTimer (n : BitVec 5) : Statement (.retrainTimer n) := fun _ => nofun
theorem lanesUp (n : BitVec 5) : Statement (.lanesUp n) := fun _ => nofun
theorem trainingTimeout (n : BitVec 5) : Statement (.trainingTimeout n) := fun _ => nofun
theorem initTimeout (n : BitVec 5) : Statement (.initTimeout n) := fun _ => nofun
theorem statusRepeat (n : BitVec 5) : Statement (.statusRepeat n) := fun _ => nofun
theorem lanesDown (n : BitVec 5) : Statement (.lanesDown n) := fun _ => nofun
theorem statusReceive (n : BitVec 5) (u : RxUnit) : Statement (.statusReceive n u) := fun _ => nofun
theorem unitReceive (n : BitVec 5) (u : RxUnit) : Statement (.unitReceive n u) := fun _ => nofun
theorem linkTransmit (n : BitVec 5) : Statement (.linkTransmit n) := fun _ => nofun
theorem replayTimeout (n : BitVec 5) : Statement (.replayTimeout n) := fun _ => nofun
theorem planUnitLate (n : BitVec 5) : Statement (.planUnitLate n) := fun _ => nofun
theorem recordAged (a : AgeAt) : Statement (.recordAged a) := fun _ => nofun
theorem rerouteHoldExpiry (src : BitVec 18) (stream : BitVec 14) : Statement (.rerouteHoldExpiry src stream) := fun _ => nofun
theorem queueAdmit (nth : Nat) (cycles : Nat) : Statement (.queueAdmit nth cycles) := fun _ => nofun
theorem queueIdleTimeout (q : BitVec 12) : Statement (.queueIdleTimeout q) := fun _ => nofun
theorem queMidWrite (base len : Word) : Statement (.queMidWrite base len) := fun _ => nofun
theorem qmapWrite (v : Word) : Statement (.qmapWrite v) := fun _ => nofun
theorem middlePageReturn (q : BitVec 12) (poisoned : BitVec 16) : Statement (.middlePageReturn q poisoned) := fun _ => nofun
theorem cellarTimeout (m : BitVec 4) : Statement (.cellarTimeout m) := fun _ => nofun
theorem spillTimeout : Statement .spillTimeout := fun _ => nofun
theorem seriesEnable (v : Word) : Statement (.seriesEnable v) := fun _ => nofun
theorem seriesDisable (v : Word) : Statement (.seriesDisable v) := fun _ => nofun
theorem seriesSample : Statement .seriesSample := fun _ => nofun
theorem blockCode (series : BitVec 16) : Statement (.blockCode series) := fun _ => nofun
theorem blockCommit (series : BitVec 16) : Statement (.blockCommit series) := fun _ => nofun
theorem bmonAccess (a : Access) : Statement (.bmonAccess a) := fun _ => nofun
theorem swtrig : Statement .swtrig := fun _ => nofun
theorem traceTriggerEvent (srcs : BitVec 8) : Statement (.traceTriggerEvent srcs) := fun _ => nofun
theorem bmonClockStop : Statement .bmonClockStop := fun _ => nofun
theorem bmonClockResume : Statement .bmonClockResume := fun _ => nofun
theorem watchEnable (v : Word) : Statement (.watchEnable v) := fun _ => nofun
theorem logDrain : Statement .logDrain := fun _ => nofun
theorem atticEnable (v : Word) : Statement (.atticEnable v) := fun _ => nofun
theorem atticDisable (v : Word) : Statement (.atticDisable v) := fun _ => nofun
theorem scrubWalkerRead (mem : BitVec 8) (e : EccOutcome) (lapMs : Nat) : Statement (.scrubWalkerRead mem e lapMs) := fun _ => nofun
theorem canaryRunDone (plan : BitVec 8) (units : BitVec 8) (pipes : BitVec 16) (ended : Bool) (load : CanLoad) : Statement (.canaryRunDone plan units pipes ended load) := fun _ => nofun
theorem copyRecordReceive (n : BitVec 5) (r : Rec) : Statement (.copyRecordReceive n r) := by
  intro h; simp [Instr.wf, Rec.wfTy, Rec.wf] at h; simp [payload]; omega
theorem pcopyEnable (k : BitVec 2) (v : Word) : Statement (.pcopyEnable k v) := fun _ => nofun
theorem restoreGo (v : Word) : Statement (.restoreGo v) := fun _ => nofun
theorem restoreReqReceive (n : BitVec 5) (r : Rec) : Statement (.restoreReqReceive n r) := by
  intro h; simp [Instr.wf, Rec.wfTy, Rec.wf] at h; simp [payload]; omega
theorem restoreRecordReceive (n : BitVec 5) (r : Rec) : Statement (.restoreRecordReceive n r) := by
  intro h; simp [Instr.wf, Rec.wfTy, Rec.wf] at h; simp [payload]; omega
theorem restoreDone (n : BitVec 5) (r : Rec) : Statement (.restoreDone n r) := by
  intro h; simp [Instr.wf, Rec.wfTy, Rec.wf] at h; simp [payload]; omega
theorem restoreTimeout : Statement .restoreTimeout := fun _ => nofun
theorem pwrEntry : Statement .pwrEntry := fun _ => nofun
theorem mgmtWake : Statement .mgmtWake := fun _ => nofun
theorem aonWakeTimer : Statement .aonWakeTimer := fun _ => nofun
theorem wakeCountArm (v : Word) : Statement (.wakeCountArm v) := fun _ => nofun
theorem supplyRampDone : Statement .supplyRampDone := fun _ => nofun
theorem keeperWorkWake : Statement .keeperWorkWake := fun _ => nofun
theorem autoIdleTimeout : Statement .autoIdleTimeout := fun _ => nofun
theorem pwrAck (status : BitVec 2) : Statement (.pwrAck status) := fun _ => nofun
theorem pwrReqTimeout : Statement .pwrReqTimeout := fun _ => nofun
theorem pmbusPollTick : Statement .pmbusPollTick := fun _ => nofun
theorem pmbusReadDone (word : BitVec 16) : Statement (.pmbusReadDone word) := fun _ => nofun
theorem pmbusReadTimeout (why : PmbFail) : Statement (.pmbusReadTimeout why) := fun _ => nofun
theorem pmbusAlert : Statement .pmbusAlert := fun _ => nofun
theorem latchedPairRead (addr : BitVec 16) : Statement (.latchedPairRead addr) := fun _ => nofun
theorem counterWindowRead (addr : BitVec 16) : Statement (.counterWindowRead addr) := fun _ => nofun
theorem registerReadClear (addr : BitVec 16) : Statement (.registerReadClear addr) := fun _ => nofun
theorem registerWrite (addr : BitVec 16) (v : Word) : Statement (.registerWrite addr v) := fun _ => nofun
theorem resetRelease (st : Statics) : Statement (.resetRelease st) := fun _ => nofun
theorem unknownOpcode (opc : BitVec 8) (p : Packet) : Statement (.unknownOpcode opc p) := by
  intro h; simpa [Instr.wf, Packet.wf, payload] using h
theorem portClockQualLost (isl : SwIsland) : Statement (.portClockQualLost isl) := fun _ => nofun
theorem clkRefLost : Statement .clkRefLost := fun _ => nofun
theorem timeFreerunWrite (v : Word) : Statement (.timeFreerunWrite v) := fun _ => nofun
theorem linkResynchronisationEnd (n : BitVec 5) : Statement (.linkResynchronisationEnd n) := fun _ => nofun
theorem scrubRangeDone (corrected uncorrectable : Nat) (first : DWord) : Statement (.scrubRangeDone corrected uncorrectable first) := fun _ => nofun
theorem treeQueryDone (slot : BitVec 4) : Statement (.treeQueryDone slot) := fun _ => nofun

end Sys2Proof.Laws.PayloadsFit
end

