-- ==== Sys2Proof/Laws/Ports.lean ====
section
/-! SUPPORT. Writes at the register port: what reaches the register that an offset names. -/

namespace Sys2Proof.Machine

/-- Where an offset leads depends on the form only. -/
theorem findReg_form (b : Build) (a : Nat) : findReg b a = findReg ⟨b.form, false, false, .gib16⟩ a := rfl

@[simp] theorem Live.inTurn_out (l : Live) : l.inTurn.out = l.out := rfl
@[simp] theorem Live.inTurn_boot (l : Live) : l.inTurn.boot = l.boot := rfl
@[simp] theorem Live.inTurn_pwr (l : Live) : l.inTurn.pwr = l.pwr := rfl
@[simp] theorem Live.inTurn_rf (l : Live) : l.inTurn.rf = l.rf := rfl

/-- A request that is not held back, at an offset of the map, is served. -/
theorem State.onPort_serves {s : State} {a : Nat} (c : Instr) (f : Build → Live → Live)
    (hw : s.live.regHolds s.build a = false) (h : s.live.regOpen = true)
    (hf : (findReg s.build a).isSome = true) :
    s.onPort c a f = .next { s with live := f s.build s.live.inTurn } := by
  have hn : ¬(findReg s.build a).isNone = true := by
    cases h : findReg s.build a <;> simp [h] at hf ⊢
  have ho : s.live.inTurn.regOpen = true := h
  simp only [State.onPort, State.run, hw, ho, hn, Bool.not_true, Bool.false_eq_true, if_false]

/-- A write at the register port of a block that serves its map reaches the register the offset names. -/
theorem State.portWriteBy_next {s : State} {a : Nat} (c : Instr) (f : Build → Live → Live)
    (hw : s.live.regHolds s.build a = false) (h : s.live.regOpen = true)
    (hf : (findReg s.build a).isSome = true) :
    s.portWriteBy c a f = .next { s with live := f s.build (s.live.inTurn.emit (.regRsp 0 false)) } :=
  State.onPort_serves c _ hw h hf

/-- A register that is not gated, shows itself and is served opens. -/
theorem Live.openReg_plain {l : Live} {b : Build} {a i : Nat} {r : RegRow} (hf : findReg b a = some (r, i))
    (hg : r.gate = .none) (hs : r.sel = .none) (hp : l.boot.phase ≠ 15) :
    l.openReg b a = some (r, i) := by
  simp [Live.openReg, hf, Live.gateOpen, hg, Live.regServed, hp, Live.entity, hs]

/-- A write to such a register. -/
theorem State.portWrite_plain {s : State} {a i : Nat} {r : RegRow} (c : Instr) (v : Word)
    (hw : s.live.regHolds s.build a = false) (h : s.live.regOpen = true)
    (hf : findReg s.build a = some (r, i)) (hg : r.gate = .none) (hs : r.sel = .none)
    (hp : s.live.boot.phase ≠ 15) (ha : a ≠ 0x10) :
    s.portWrite c a v =
      .next { s with live := (s.live.inTurn.emit (.regRsp 0 false)).writeRow s.build r i v } := by
  have ho : (s.live.inTurn.emit (.regRsp 0 false)).openReg s.build a = some (r, i) :=
    Live.openReg_plain hf hg hs (by simpa using hp)
  rw [State.portWrite, State.portWriteBy_next c _ hw h (by rw [hf]; rfl)]
  simp only [Live.writeReg, ha, if_false, ho]

end Sys2Proof.Machine
end

