-- ==== Sys2Proof/Laws/Runs.lean ====
section
/-! SUPPORT. The shared outer forms of the meanings: what a command does where the block is awake, at a link port,
and as a request packet that waits, fails a check or runs. -/

namespace Sys2Proof.Machine

variable {s : State} {l : Live} {b : Build}

/-- A command that only changes the live state completes. -/
@[simp] theorem State.run_eq (f : Build → Live → Live) : s.run f = .next { s with live := f s.build s.live } := rfl

/-- Where the block is awake, its effect happens. -/
theorem State.runAwake_awake (h : s.live.awake = true) (f : Build → Live → Live) :
    s.runAwake f = .next { s with live := f s.build s.live } := by
  simp [State.runAwake, h]

/-- Elsewhere it does nothing. -/
theorem State.runAwake_asleep (h : s.live.awake = false) (f : Build → Live → Live) : s.runAwake f = .next s := by
  simp [State.runAwake, h]

/-- An event of a link port at a lantern that is awake. -/
theorem State.onLink_lantern (h : s.live.awake = true) (hf : s.build.form = .lantern) (n : BitVec 5)
    (f : Build → Nat → Live → Live) : s.onLink n f = .next { s with live := f s.build n.toNat s.live } := by
  simp [State.onLink, State.runAwake, h, Build.buoy, hf]

/-- A buoy has no such port. -/
theorem State.onLink_buoy (hf : s.build.form = .buoy) (n : BitVec 5) (f : Build → Nat → Live → Live) :
    s.onLink n f = .next s := by
  simp [State.onLink, State.runAwake, Build.buoy, hf]

@[simp] theorem Live.when_true (f : Live → Live) : l.when true f = f l := rfl
@[simp] theorem Live.when_false (f : Live → Live) : l.when false f = l := rfl

/-! ### Request packets (R158) -/

/-- The command that the packet `p` brings starts: it was the next that waited, or its port is free. -/
theorem Live.packet_starts (c : Instr) (p : Packet) (run : Live → Ret → Live) (h : l.taken b c p = true) :
    l.packet b c p run = run ((l.wakeIdle b).begin p).1 ((l.wakeIdle b).begin p).2 := by
  simp [Live.packet, h]

/-- A port that takes no command leaves the packet without effect. -/
theorem Live.packet_closed (c : Instr) (p : Packet) (run : Live → Ret → Live) (hs : l.cmd.starting = none)
    (h : l.accepts b p.port = false) : l.packet b c p run = l := by
  simp [Live.packet, Live.taken, hs, h]

/-- A command that cannot start yet waits at its port (R97, R159, R160). -/
theorem Live.packet_waits (c : Instr) (p : Packet) (run : Live → Ret → Live) (hs : l.cmd.starting = none)
    (h : l.accepts b p.port = true) (hm : l.mine b p = true) (hb : l.portWaits p.port c = true) :
    l.packet b c p run = l.park c p := by
  simp [Live.packet, Live.taken, hs, h, hm, hb]

/-- A command that fails a check replies its status, and counts a failed PCHK. -/
theorem Live.command_fails (c : Instr) (o : OpRow) (p : Packet) (run : Live → Ret → Live) {e : Nat}
    (h : l.taken b c p = true) (hf : ((l.wakeIdle b).begin p).1.frame b o p = some e) :
    l.command b c o p run =
      (((l.wakeIdle b).begin p).1.when (decide (e = eCheck)) fun l => l.bump b F.CMD_STAT_CHK_FAIL).reply b
        ((l.wakeIdle b).begin p).2 e := by
  rw [Live.command, Live.packet_starts _ _ _ h, Live.checked, hf]

/-- A command that passes the checks runs. -/
theorem Live.command_runs (c : Instr) (o : OpRow) (p : Packet) (run : Live → Ret → Live)
    (h : l.taken b c p = true) (hf : ((l.wakeIdle b).begin p).1.frame b o p = none) :
    l.command b c o p run = run ((l.wakeIdle b).begin p).1 ((l.wakeIdle b).begin p).2 := by
  rw [Live.command, Live.packet_starts _ _ _ h, Live.checked, hf]

/-- Work for the keeper changes nothing in a block that is not in IDLE. -/
theorem Live.wakeIdle_running (h : l.pwr.st ≠ .idle) : l.wakeIdle b = l := by
  simp [Live.wakeIdle, Live.idleExit, h]

/-- A reply at MGMT waits in the reply queue. -/
theorem Live.reply_mgmt {r : Ret} (h : r.port = .mgmt) (status arg : Nat) (ws : List DWord) :
    l.reply b r status arg ws = { l with cmd := { l.cmd with
      busy := l.cmd.busy.filter fun x => decide (x.r.seqNo ≠ r.seqNo),
      mgmtReplies := l.cmd.mgmtReplies ++
        [replyPacket r.tag r.pchk status arg (if status = 0 then ws else [])] } } := by
  simp [Live.reply, h]

end Sys2Proof.Machine
end

