-- ==== Sys2Proof/Tests/Slice0.lean ====
section
/-! SUPPORT. Tests: ill-formed commands, worked examples of the spec, and for each statement states and operands
that meet its hypotheses. -/

namespace Sys2Proof.Tests

set_option Elab.async false

open Sys2Proof Sys2Proof.Machine Sys2Proof.Claims

/-- `s` with its live part changed. -/
def on (s : State) (f : Live → Live) : State := { s with live := f s.live }

/-- A register file with the fields given, each with its entity and its value. -/
def regs (xs : List (Fld × Nat × Nat)) : Tab Nat :=
  xs.foldl (fun t e => Tab.insert t (e.1.key e.2.1) e.2.2) []

/-- A record without flags. -/
def rec (ty : BitVec 8) (src : BitVec 18) (stream : BitVec 14) (seq ft : Word) (body : List DWord) : Rec :=
  ⟨ty, false, false, false, false, false, src, stream, seq, ft, body⟩

/-- The live part of a block in RUN that is READY. -/
def ready : Live := { Live.cold with
  boot := { Live.cold.boot with held := false, st := ⟨true, 3, 5, 7⟩, phase := 6, ready := true },
  clk := { Live.cold.clk with oscQual := true, refOk := true },
  log := { Live.cold.log with live := true } }

/-- A bounded statement about the value of an option, decided without a search. -/
theorem all_some {α : Type} {o : Option α} {P : α → Prop} [DecidablePred P]
    (h : (o.all fun q => decide (P q)) = true) : ∀ q ∈ o, P q := by
  intro q hq; subst hq; simpa using h

/-- A buoy in reset. -/
def coldBuoy : State := ⟨⟨.buoy, false, true, .gib64⟩, Live.cold, []⟩

/-- A buoy that is READY. -/
def buoy : State := ⟨⟨.buoy, false, true, .gib64⟩, ready, []⟩

/-- A lantern that is READY. -/
def lantern : State := ⟨⟨.lantern, false, true, .gib64⟩, ready, []⟩

/-! ### Ill-formed commands: one for each check -/

/-- A request packet with this many payload words. -/
def packetOf (n : Nat) : Packet := ⟨.mgmt, 1, 0, false, 0, 1, 0, false, 0, 0, List.replicate n 0⟩

/-- LEN has 12 bits (Table 6.1). -/
theorem test_wf_packet_length : (Instr.nop (packetOf 4096)).wf = false ∧ (Instr.nop (packetOf 1)).wf = true := by
  set_option maxRecDepth 20000 in decide +kernel

/-- TYPE 0 is no record type (Table 1.9). -/
theorem test_wf_record_type : (rec 0 0 0 0 0 []).wf = false ∧ (rec 0x10 0 0 0 0 []).wf = false := by decide

/-- A record's LEN has 16 bits (Table 1.8). -/
theorem test_wf_record_length : (rec 1 0 0 0 0 (List.replicate 8189 0)).wf = false := by
  set_option maxRecDepth 20000 in decide +kernel

/-- A time exchange is a TIMEX record. -/
theorem test_wf_timex_type : (Instr.timexReq (rec 2 0 0 0 0 [])).wf = false ∧
    (Instr.timexReq (rec 0x0E 0 0 0 0 [])).wf = true := by decide

/-- A buoy has 16 temperature and 8 voltage sensors (R194). -/
theorem test_wf_sensors : (Instr.sensorSetTaken [] (List.replicate 8 0) 0).wf = false ∧
    (Instr.sensorSetTaken (List.replicate 16 0) (List.replicate 7 0) 0).wf = false ∧
    (Instr.sensorSetTaken (List.replicate 16 0) (List.replicate 8 0) 0).wf = true := by decide

/-- A time-out names at most eight tap islands. -/
theorem test_wf_tap_islands :
    (Instr.handshakeTimeout (.tapCommand .read (packetOf 0) (List.replicate 9 0))).wf = false := by decide

/-! ### Worked examples of the spec -/

/-- spec/01, Table 1.5: 0x0003 is later than 0xFFFE, and not the other way. -/
theorem test_epoch_order : epochLater 3 0xFFFE = true ∧ epochLater 0xFFFE 3 = false := by decide

/-- spec/04, Table 4.4: the exchange gives a delay of 400 ns and θ of +12 ns. -/
theorem test_time_exchange : timexEval 10000000 10000412 10006000 10006388 = (400, 12) := by decide

/-- A buoy with the calibration of the example at R144. -/
def calibrated : Live := { ready with
  cal := { ready.cal with calf := some [(8, 0x8CCD), (9, 0xFFFFFB50)], calu := [(8, 0xFFFFFF00), (9, 4)] } }

/-- spec/05, the example at R144: raw code 1,700 becomes 660. -/
theorem test_calibration : calibrated.calOut buoy.build 1700 8 9 = 660 := by decide +kernel

/-- spec/06, Table 6.8: the routing word as the lantern forwards it. -/
theorem test_routing_word : routing 1 0 0x2A31B false 0x417 = 0x000004170A8C6C01 := by decide

/-- spec/08, the example of R224: item 40's histogram gives HI 13,824 (LO is not enabled). -/
theorem test_straggler_rule :
    (stragRule (List.replicate 9 0 ++ [20000, 100000, 110000, 30000, 1900] ++ List.replicate 6 0 ++ [200] ++
      List.replicate 11 0) 0 10 48 0).map (·.1) = some 13824 := by decide +kernel

/-- A lantern whose cellar ports 0 to 9 are in use. -/
def tenPorts : Live := { ready with boot := { ready.boot with st := ⟨true, 3, 5, 0x3FF⟩ } }

/-- spec/13, Table 13.7: byte address 42,950,541,312 is unit 0x0800_0A80 of port 8. -/
theorem test_cellar_unit :
    tenPorts.celPort lantern.build 42950541312 = some 8 ∧ tenPorts.celUnit 42950541312 = 0x08000A80 := by
  decide +kernel

/-- The block of the example of spec/13. -/
def saw : List Word :=
  (List.range 256).map fun i => BitVec.ofNat 32
    (1000000 + [0, 40000, 90000, 30000, 70000, 10000, 60000, 20000].getD (i % 8) 0)

/-- spec/13, Table 13.7: delta coding takes 4,431 bits. -/
theorem test_block_lengths : fieldsLen (deltaFields (saw.map (ordImg 0))) = 4431 := by
  set_option maxRecDepth 20000 in decide +kernel

/-- spec/13, the example's text: group 1 takes selector 5 with lag 8. -/
theorem test_block_groups : chooseSel (saw.map (ordImg 0)) 2 1 = (5, 8) := by
  set_option maxRecDepth 20000 in decide +kernel

/-- spec/13, the example's text: the two levels of QUANT at b = 15, and E of the largest error. -/
theorem test_quant : quantDecode 0 15 (quantCode 0 15 1040000) = 983040 ∧
    quantDecode 0 15 (quantCode 0 15 1060000) = 1114112 ∧ leastE 56960 = 16 := by decide +kernel

/-- spec/14, tree A: a NaN takes the default, −3 < −3 fails, and −0 equals +0. -/
theorem test_tree_a : nodeDir 0x42AA000000000002 (some 0x7FC00000) = true ∧
    nodeDir 0xFFFFFFFD00000048 (some 0xFFFFFFFD) = true ∧ nodeDir 0x64 (some 0x8000) = true := by decide

/-- spec/14, trees B, C and D: bit 5 of the mask is set, f4 is missing, −3 < −2, and the NaN goes left. -/
theorem test_trees_bcd : nodeDir 0x0000002400008032 (some 5) = false ∧
    nodeDir 0x000003E80000808C none = false ∧ nodeDir 0xFFFFFFFE00010048 (some 0xFFFFFFFD) = false ∧
    nodeDir 0x7F80000000018000 (some 0x7FC00000) = false := by decide

/-- The buoy of the example of spec/17: 3 words of its logbook are free. -/
def fullLog : Live := { ready with log := { ready.log with
  ents := [⟨90, ⟨0x0101, 3, 0, 0, List.replicate 8181 0⟩, false, 0, false, none⟩,
           ⟨100, ⟨0x0101, 1, 0, 0, [0]⟩, false, 0, false, none⟩,
           ⟨140, ⟨0x0305, 1, 0, 0, [0]⟩, false, 0, false, none⟩],
  next := 500 } }

/-- The five events of the example. -/
def fiveEvents : Live :=
  let b := buoy.build
  let step : LogEv := ⟨0x0302, 2, 0, 0, [0xFFFFFFFFFFFFF6A0]⟩
  ((((fullLog.logEv b ⟨0x0501, 3, 0, 0, [12]⟩).logEv b step).logEv b step).logEv b
    ⟨0x0304, 2, 0, 0, [1]⟩).logEv b ⟨0x0305, 1, 0, 0, [1]⟩

/-- spec/17, Table 17.4: LSEQ 500 to 502 are written, two INFO entries are lost and one is dropped. -/
theorem test_full_logbook : (fiveEvents.log.ents.drop 1).map (fun e => (e.lseq, e.rep)) = [(500, 0), (501, 1), (502, 0)] ∧
    fiveEvents.log.next = 504 ∧ fiveEvents.get buoy.build F.LOG_LOST_INFO = 2 ∧
    fiveEvents.get buoy.build F.LOG_DROP_INFO = 1 ∧
    (fiveEvents.log.ents[2]?.map fun e => e.words.headD 0) = some 0x00030212000001F5 := by
  set_option maxRecDepth 40000 in decide +kernel

/-- spec/20, Table 20.9: three readings and the undervoltage as F32. -/
theorem test_pmbus_readings : ready.pmbValue lantern.build 0 0 0xE29B = 0x4226C000 ∧
    ready.pmbValue lantern.build 0 1 0xE85A = 0x41340000 ∧ ready.pmbValue lantern.build 0 2 0x01D5 = 0x43EA8000 ∧
    ready.pmbValue lantern.build 0 0 0xE238 = 0x420E0000 := by decide +kernel

/-! ### States and operands that meet the hypotheses of the statements -/

def words1 : List DWord := [0x4800050000, 0xc000000000042, 0, 0, 0, 0, 0, 0, 0x3f800000, 0x40000000]

def words2 : List DWord := [0x5ba344496, 3] ++ List.replicate 126 0

def words3 : List DWord := [0x20109, 0, 0, 0, 8, 0x5000003e8, 0x8777, 8, 0x1a]

def words4 : List DWord := [0x3ff1000000005, 0x1000, 0x1fff, 0x2000, 0x2fff, 0, 0, 0, 0]

def words5 : List DWord := [0x1ffffffff, 0x1000, 0x1fff, 0x2000, 0x2fff, 0, 0, 0, 0]

def words6 : List DWord := [0x1100000005, 0x1000, 0x1fff, 0x2000, 0x2fff, 0, 0, 0, 0]

def words7 : List DWord := [0x1200000005, 0x1000, 0x1fff, 0x2000, 0x2fff, 0, 0, 0, 0]

def words8 : List DWord := [0x100000000, 0x1000, 0x1fff, 0x2000, 0x2fff, 0, 0, 0, 0]

def words9 : List DWord :=
  [0x213802090201, 0x4d01400005, 0, 3, 0x320640280010000, 0x762b0f3b00050000, 0, 0, 0x9004000001,
   0x762b0f3b00002000, 0x209000010003, 0x85ac098900000068, 0x20f800020004, 0x91ff79800000020,
   0x211800000006, 0, 0x211800010009, 0xe6f1ef8f00000020, 0, 0, 0, 0, 0, 0x1010100001000, 0x1010100001000,
   0x1010100001000] ++ List.replicate 1029 0 ++
  [0x400000000, 0, 0, 0, 0x4d00000009, 0x8000000000000, 0, 0x2d00ef0000]

def words10 : List DWord :=
  [0x213802090201, 0x4d01400005, 0, 0, 0x320640280010000, 0x762b0f3b00050000, 0, 0, 0x9004000001,
   0x762b0f3b00002000, 0x209000010003, 0x85ac098900000068, 0x20f800020004, 0x91ff79800000020,
   0x211800000006, 0, 0x211800010009, 0xe6f1ef8f00000020, 0, 0, 0, 0, 0, 0x1010100001000, 0x1010100001000,
   0x1010100001000] ++ List.replicate 1029 0 ++
  [0x400000000, 0, 0, 0, 0x4d00000009, 0x8000000000000, 0, 0x2d00ef0000]

def words11 : List DWord :=
  [0x213802090201, 0x4d01400005, 0, 0, 0x320640280010000, 0x762b0f3b00050000, 0, 0, 0x9004000001,
   0x762b0f3b00002000, 0x209000010003, 0x16645ff600000068, 0x20f800020004, 0x91ff79800000020,
   0x211800000006, 0, 0x211800010009, 0xe6f1ef8f00000020, 0, 0, 0, 0, 0, 0x1010100001000, 0x1010100001000,
   0x1010100001000] ++ List.replicate 1016 0 ++ [0x21] ++ List.replicate 12 0 ++
  [0x400000000, 0, 0, 0, 0x4d00000009, 0x8000000000000, 0, 0x2d00ef0000]

def words12 : List DWord :=
  [0x2090000, 0x4d01400005, 0, 0, 0, 0x10000, 0, 0, 0x5000020004, 0x91ff79800000020, 0x400000000, 0, 0,
   0]

def words13 : List DWord :=
  [0x2090000, 0x4d01800005, 0, 0, 0, 0x10000, 0, 0, 0x5000020004, 0x91ff79800000020, 0x400000000, 0, 0,
   0]

def words14 : List DWord :=
  [0x2090000, 0x4d01800005, 0, 0, 0, 0x30000, 0, 0, 0x7004000001, 0xb4d7c01f00000030, 0xa000010003,
   0x86752f400000038, 0xd800020004, 0x8a9136aa00000020, 0, 0, 0, 0, 0, 0x1000, 0, 0, 0, 0, 0x1d, 0, 0, 0,
   0, 0, 0]

def words15 : List DWord :=
  [0x2090000, 0x4d01800005, 0, 0, 0, 0x30000, 0, 0, 0x7004000001, 0xb4d7c01f00000030, 0xa000010003,
   0x86752f400000038, 0xd800020004, 0x91ff79800000020, 0, 0, 0, 0, 0, 0x1000, 0, 0, 0, 0, 0x1d, 0, 0,
   0x400000000, 0, 0, 0]

def words16 : List DWord :=
  [0x2090000, 0x4d01400005, 0, 0, 0, 0x30000, 0, 0, 0x7004000001, 0xb4d7c01f00000030, 0xa000010003,
   0x24df829a00000038, 0xd800020004, 0x91ff79800000020, 0, 0, 0, 0, 0, 0x1000, 0, 0, 0, 0, 0x101,
   0x10000009006, 0, 0x400000000, 0, 0, 0]

def words17 : List DWord :=
  [0x2090000, 0x4d01800005, 0, 0, 0, 0x30000, 0, 0, 0x7004000001, 0xb4d7c01f00000030, 0xa000010003,
   0x83b0d87e00000038, 0xd800020004, 0x91ff79800000020, 0, 0, 0, 0, 0, 0x1000, 0, 0, 0, 0, 0x11d,
   0x10000009006, 0, 0x400000000, 0, 0, 0]

def words18 : List DWord :=
  [0x2090000, 0x4d01400005, 0, 0, 0, 0x40000, 0, 0, 0x8004000001, 0xb4d7c01f00000030, 0xb000010003,
   0x24df829a00000038, 0xe800020004, 0x91ff79800000020, 0x10800010008, 0xa34db0c000000008, 0, 0, 0, 0, 0,
   0x1000, 0, 0, 0, 0, 0x101, 0x10000009006, 0, 0x400000000, 0, 0, 0, 0xa01c]

def words19 : List DWord :=
  [0x2090000, 0x4d01400005, 0, 0, 0, 0x30000, 0, 0, 0x7004000001, 0xed9ad60e00000038, 0xa800010003,
   0x24df829a00000038, 0xe000020004, 0x91ff79800000020, 0, 0, 0, 0, 0, 0x1000, 0x1000, 0, 0, 0, 0, 0x101,
   0x10000009006, 0, 0x400000000, 0, 0, 0]

def words20 : List DWord :=
  [0x90000, 0x4d01800005, 0, 0x1f40007a120, 0x320640284050000, 0x50000, 0, 0, 0x9004000001,
   0x1547ca9e00000038, 0xc800010003, 0x7b79900700000038, 0x10000020004, 0x91ff79800000020, 0x12000020002,
   0xc413f52200000030, 0x15000010009, 0xb2e8a9f200000030, 0, 0, 0, 0, 0, 0, 0, 8, 0, 0, 0, 0x960c91d,
   0x10000009006, 0, 0x400000000, 0, 0, 0, 0x6022803f000100, 0, 0x1000, 0x60228003000302, 0, 0x1000,
   0x4d00000209, 0x7a120, 0, 0x2d00ef0000, 8, 8]

def words21 : List DWord :=
  [0x90000, 0x4d01800005, 0, 0x1f40007a120, 0x320640284047530, 0x50005, 0, 0, 0x9004000001,
   0x1547ca9e00000038, 0xc800010003, 0xd46d3bf300000038, 0x10000020004, 0x91ff79800000020, 0x12000020002,
   0xc413f52200000030, 0x15000010009, 0xb2e8a9f200000030, 0, 0, 0, 0, 0, 0, 0, 0x68, 0, 0, 0, 0x960c91d,
   0x10000009006, 0, 0x400000000, 0, 0, 0, 0x6022803f000100, 0, 0x1000, 0x60228003000302, 0, 0x1000,
   0x4d00000209, 0x7a120, 0, 0x2d00ef0000, 8, 8]

def words22 : List DWord :=
  [0x90000, 0x4d01800005, 0, 0x1f40007a120, 0x320640284050000, 0x50000, 0, 0, 0x9004000001,
   0x1547ca9e00000038, 0xc800010003, 0x4a27e60b00000038, 0x10000020004, 0x91ff79800000020, 0x12000020002,
   0xc413f52200000030, 0x15000010009, 0xb2e8a9f200000030, 0, 0, 0, 0, 0, 0, 0, 0x69, 0, 0, 0, 0x960c91d,
   0x10000009006, 0, 0x400000000, 0, 0, 0, 0x6022803f000100, 0, 0x1000, 0x60228003000302, 0, 0x1000,
   0x4d00000209, 0x7a120, 0, 0x2d00ef0000, 8, 8]

def words23 : List DWord :=
  [0x90000, 0x4d01800005, 0, 0, 0x50000, 0x40000, 0, 0, 0x8000020002, 0xc413f52200000030, 0xb000010003,
   0x85ac098900000068, 0x11800020004, 0x91ff79800000020, 0x1380003000a, 0x4972864e00000058,
   0x6022803f000100, 0, 0x1000, 0x60228003000302, 0, 0x1000] ++ List.replicate 13 0 ++
  [0x400000000, 0, 0, 0, 0x1000400060101, 0x200500000030, 0x2400000000101, 0x200600000040,
   0x1000380070101, 0x200500000030, 0x500000005, 0x10100000000, 0xc, 0x64, 0]

def words24 : List DWord :=
  [0x90000, 0x4d01800005, 0, 0, 0x50000, 0x40000, 0, 0, 0x8000020002, 0xc413f52200000030, 0xb000010003,
   0x85ac098900000068, 0x11800020004, 0x91ff79800000020, 0x1380003000a, 0xf323a000000058,
   0x6022803f000100, 0, 0x1000, 0x60228003000302, 0, 0x1000] ++ List.replicate 13 0 ++
  [0x400000000, 0, 0, 0, 0x1000400070201, 0x200500000030, 0x2400000000201, 0x200600000040,
   0x1000380070101, 0x200500000030, 0x500000005, 0x10100000000, 0xc, 0x64, 0]

def words25 : List DWord :=
  [0x90000, 0x4d01800005, 0, 0, 0x50000, 0x40000, 0, 0, 0x8000020002, 0xc413f52200000030, 0xb000010003,
   0x85ac098900000068, 0x11800020004, 0x91ff79800000020, 0x1380003000a, 0xea8b599d00000058,
   0x6022803f000100, 0, 0x1000, 0x60228003000302, 0, 0x1000] ++ List.replicate 13 0 ++
  [0x400000000, 0, 0, 0, 0x1000400070201, 0x200500000030, 0x2400000000201, 0x200600000040,
   0x1000380070101, 0x200500000030, 0x500000005, 0x10100000000, 9, 0, 0]

def words26 : List DWord :=
  [0x90000, 0x4d01800005, 0, 0, 0x50000, 0x40000, 0, 0, 0x8000020002, 0xc413f52200000030, 0xb000010003,
   0x85ac098900000068, 0x11800020004, 0x91ff79800000020, 0x1380003000a, 0xda65c8ef00000058,
   0x6022803f000100, 0, 0x1000, 0x60228003000302, 0, 0x1000] ++ List.replicate 13 0 ++
  [0x400000000, 0, 0, 0, 0x1000400060101, 0x200500000030, 0x2400000000101, 0x200600000040,
   0x1000380070101, 0x200500000030, 0x500000005, 0x10100000000, 0xc, 0x32, 7]

def words27 : List DWord :=
  [0x90000, 0x4d01800005, 0, 0, 0x50000, 0x40000, 0, 0, 0x8000020002, 0xc413f52200000030, 0xb000010003,
   0x85ac098900000068, 0x11800020004, 0x91ff79800000020, 0x1380000000a, 0, 0x6022803f000100, 0, 0x1000,
   0x60228003000302, 0, 0x1000] ++ List.replicate 13 0 ++ [0x400000000, 0, 0, 0]

def words28 : List DWord := [0x100007530, 0x1000, 0x1fff, 0x2000, 0x2fff, 0, 0, 0, 0]

def words29 : List DWord := [0x100000005, 0x1000, 0x1fff, 0x2000, 0x2fff, 0, 0, 0, 0]

def words30 : List DWord := [0x1000100050009, 0xfa00000100, 6, 0x100, 0x5f00] ++ List.replicate 26 0

def rec1 : Rec := rec 0xd 0x500 0x3102 0 0 [0x840500000901, 0x7e22b89f, 0, 0]

def rec2 : Rec := rec 0xd 0x500 0x3102 0 0 [0x906]

def rec3 : Rec := rec 1 0x503 0x33 7 0 [7, 7, 7]

def rec4 : Rec := rec 1 0x503 0x33 7 0 [7, 7]

def rec5 : Rec := rec 1 0x503 0x33 7 0 (List.replicate 10 7)

def rec6 : Rec := rec 0xf 0x503 0x34 7 0 (List.replicate 10 7)

def rec7 : Rec := rec 1 0x503 0x34 7 0 [7, 7]

def rec8 : Rec := rec 1 0x503 0x33 7 0 (List.replicate 61 7)

def rec9 : Rec := rec 2 0x503 0x34 7 0 (List.replicate 10 7)

def rec10 : Rec := rec 1 0x503 0x2009 7 0 (List.replicate 5 7)

def rec11 : Rec := rec 0xf 0x503 5 7 1 [7, 7]

def rec12 : Rec := rec 0xe 0x503 0x2000 7 0x63 [0x30602, 0x98981c00000000, 0x9896800098adf0, 0]

def rec13 : Rec := rec 0xe 0x503 0x2000 7 0x63 [0x30701, 0, 0x1388, 0]

def rec14 : Rec := rec 0xe 0x503 0x2000 7 0x63 [0x1030701, 0xc350, 5, 0]

def rec15 : Rec := rec 0xe 0x503 0x2000 7 0x63 [0x90801, 0, 5, 0]

def rec16 : Rec := rec 0xf 0x63 1 0 0 [0x30900140d01, 0x901]

def rec17 : Rec := rec 0 0 0 5 0 []

def rec18 : Rec := rec 1 0 0 5 0 []

def rec19 : Rec := rec 0xd 0x900 0x3100 0 0 [0x700050011, 0x100030001, 0x20000000004, 0x10300000000, 0]

def rec20 : Rec := rec 0xd 0x900 0x3100 0 0 [0x700050010, 0x40000400, 1, 2, 3, 4]

def rec21 : Rec := rec 0xd 0x4d00 0x3100 0 0 [0x700050012]

def rec22 : Rec := rec 0xd 0x900 0x3100 0 0 [0x700050012]

def rec23 : Rec := rec 0xd 0xc00 0x3100 0 0 [0x700050011, 0x100030001, 0x20000000004, 0x10300000000, 0]

def rec24 : Rec := rec 0xd 0xc00 0x3100 0 0 [0x700050013]

def rec25 : Rec := rec 2 0x503 0x77 7 0x3e8 [1, 2]

def rec26 : Rec := rec 4 0x600 0x3009 7 0 [0x1000400060109, 0xfa00000100, 6, 0x100, 0x200, 0x64, 0]

def rec27 : Rec := rec 4 0x600 0x3009 7 0 [0x1000400050109, 0xfa00000100, 6, 0x100, 0x200, 0x64, 0]

def rec28 : Rec := rec 3 0x600 0x3009 7 0 [0x1000100060309, 0xfa00000100, 6, 0x100, 0x100000003, 0, 0]

def rec29 : Rec :=
  rec 3 0x600 0x3009 7 0 [0x1000100060209, 0xfa00000100, 6, 0x100, 0x100000100, 7, 2, 0x37]

def rec30 : Rec :=
  rec 3 0x600 0x3009 7 0 [0x1000100040209, 0xfa00000100, 6, 0x100, 0x100000100, 7, 2, 0x37]

def rec31 : Rec :=
  rec 3 0x600 0x3009 7 0 [0x1000100050209, 0xfa00000100, 6, 0x100, 0x100000100, 7, 2, 0x37]

def rec32 : Rec := rec 3 0x600 0x3009 7 0 words30

def rec33 : Rec := rec 3 0x504 0x77 7 0 [0x1001000050309, 0xfa00000100, 6, 0x100, 0x100000003, 0, 0]

def rec34 : Rec := rec 3 0x503 0x77 7 0 [0x1001000050209, 0xfa00000100, 6, 0x100, 0x100000100, 7, 2, 0x37]

def rec35 : Rec := rec 3 0x503 0x77 7 0 [0x1001000050309, 0xfa00000100, 6, 0x100, 0x100000003, 0, 0]

def rec36 : Rec := rec 1 0x703 0x33 7 1 [1, 5]

def v1 : Busy :=
  ⟨⟨.mgmt, 2, 0, false, 0, 9, true, 2⟩, .nop ⟨.mgmt, 1, 0x503, true, 0x1234, 7, 0, false, 0, 0, []⟩⟩

def v2 : Busy :=
  ⟨⟨.link 7, 1, 0x503, true, 0x1234, 7, false, 3⟩,
   .nop ⟨.link 7, 1, 0x503, true, 0x1234, 7, 0, false, 0, 0, []⟩⟩

def v3 : Live :=
  ⟨[], ⟨false, ⟨true, 3, 5, 7⟩, 6, true, none, .cold, [], false⟩,
   ⟨false, false, false, false, [], none, true, 512, 9, true, false, true, 0, none⟩, ⟨none, [], []⟩,
   ⟨0xc80000000, 0, .free, 0, 0, false, 0, false, false, false, 0, none, [],
    [⟨.start 3, 0x64, 0⟩, ⟨.start 9, 0x46, 0⟩], []⟩, [], [],
   ⟨[], none, [], none, [], false, [], 0, [], [], []⟩,
   ⟨[], [], [], none, [], [], [], [], [], [], [], false⟩, [], 0, [], [], [], [], [], [], [],
   ⟨[], 0, 0, 0, none⟩, [], [], [], 0, [], false, ⟨[], []⟩,
   ⟨[], [], false, [], 0, [], none, [], 0, [], 0⟩,
   ⟨.off, [], [], false, [], 0, false, 0, 0, 0, false, false, false, [], false, [], [], 0, 0, none, []⟩,
   ⟨[], 0, [], 0, true, 0⟩, ⟨[], [], [], [], [], 0⟩, ⟨[], 0, none, 0, 0, 0, rpl0, []⟩,
   ⟨.run, none, false, 0, 0, false, false, false, [], false, [], [], [], []⟩, 0, []⟩

def v4 : Live :=
  ⟨[], ⟨false, ⟨true, 3, 5, 7⟩, 6, true, none, .cold, [], false⟩,
   ⟨false, false, false, false, [], none, true, 512, 9, true, false, true, 0, none⟩, ⟨none, [], []⟩,
   ⟨0, 0, .locked, 0, 0, false, 0, false, false, false, 0, some 5, [], [], []⟩, [], [],
   ⟨[], none, [], none, [], false, [], 0, [], [], []⟩,
   ⟨[], [], [], none, [], [], [], [], [], [], [], false⟩, [], 0, [], [], [], [], [], [], [],
   ⟨[], 0, 0, 0, none⟩, [], [], [], 0, [], false, ⟨[], []⟩,
   ⟨[], [], false, [], 0, [], none, [], 0, [], 0⟩,
   ⟨.off, [], [], false, [], 0, false, 0, 0, 0, false, false, false, [], false, [], [], 0, 0, none, []⟩,
   ⟨[], 0, [], 0, true, 0⟩, ⟨[], [], [], [], [], 0⟩, ⟨[], 0, none, 0, 0, 0, rpl0, []⟩,
   ⟨.run, none, false, 0, 0, false, false, false, [], false, [], [], [], []⟩, 0, []⟩

def v5 : Live :=
  ⟨[], ⟨false, ⟨true, 3, 5, 7⟩, 6, true, none, .cold, [], false⟩,
   ⟨false, false, false, false, [], none, true, 512, 9, true, false, true, 0, none⟩, ⟨none, [], []⟩,
   ⟨0xc80000000, 0, .free, 0, 0, false, 0, false, false, false, 0, none, [], [⟨.start 3, 0x190, 0⟩], []⟩,
   [], [], ⟨[], none, [], none, [], false, [], 0, [], [], []⟩,
   ⟨[], [], [], none, [], [], [], [], [], [], [], false⟩, [], 0, [], [], [], [], [], [], [],
   ⟨[], 0, 0, 0, none⟩, [], [], [], 0, [], false, ⟨[], []⟩,
   ⟨[], [], false, [], 0, [], none, [], 0, [], 0⟩,
   ⟨.off, [], [], false, [], 0, false, 0, 0, 0, false, false, false, [], false, [], [], 0, 0, none, []⟩,
   ⟨[], 0, [], 0, true, 0⟩, ⟨[], [], [], [], [], 0⟩, ⟨[], 0, none, 0, 0, 0, rpl0, []⟩,
   ⟨.run, none, false, 0, 0, false, false, false, [], false, [], [], [], []⟩, 0, []⟩

def v6 : Live :=
  ⟨[], ⟨false, ⟨true, 3, 5, 7⟩, 6, true, none, .cold, [], false⟩,
   ⟨false, false, false, false, [], none, true, 512, 9, true, false, true, 0, none⟩, ⟨none, [], []⟩,
   ⟨0, 0, .free, 0, 0, false, 0, false, false, false, 0, none, [], [], []⟩, [], [],
   ⟨[], none, [], none, [], false, [], 0, [], [], []⟩,
   ⟨[], [], [], none, [], [], [], [], [], [], [], false⟩, [], 0, [], [], [], [], [], [], [],
   ⟨[], 0, 0, 0, none⟩, [], [], [], 0, [], false, ⟨[], []⟩,
   ⟨[], [], false, [], 0, [], none, [], 0, [], 0⟩,
   ⟨.off, [], [], false, [], 0, false, 0, 0, 0, false, false, false, [], false, [], [], 0, 0, none, []⟩,
   ⟨[], 0, [], 0, true, 0⟩, ⟨[], [], [], [], [], 0⟩, ⟨[], 0, none, 0, 0, 0, rpl0, []⟩,
   ⟨.run, none, false, 0, 0, false, false, false, [], false, [], [], [], []⟩, 0, []⟩

def v7 : Live :=
  ⟨[(10737418242, 2), (10737418244, 2)], ⟨false, ⟨true, 3, 5, 7⟩, 6, true, none, .cold, [], false⟩,
   ⟨false, false, false, false, [], none, true, 512, 9, true, false, true, 0, none⟩, ⟨none, [], []⟩,
   ⟨0, 0, .free, 0, 0, false, 0, false, false, false, 0, none, [], [], []⟩, [], [],
   ⟨[], none, [], none, [], false, [], 0, [], [],
    [⟨⟨.link 2, 1, 0x503, true, 0x1234, 7, false, 5⟩, none⟩]⟩,
   ⟨[], [], [], none, [], [], [], [], [], [], [], false⟩, [], 0, [], [], [], [], [], [], [],
   ⟨[], 0, 0, 0, none⟩, [(2, { link0 with st := .up }), (4, { link0 with st := .up })], [], [], 0, [],
   false, ⟨[], []⟩, ⟨[], [], false, [], 0, [], none, [], 0, [], 0⟩,
   ⟨.off, [], [], false, [], 0, false, 0, 0, 0, false, false, false, [], false, [], [], 0, 0, none, []⟩,
   ⟨[], 0, [], 0, true, 0⟩, ⟨[], [], [], [], [], 0⟩, ⟨[], 0, none, 0, 0, 0, rpl0, []⟩,
   ⟨.run, none, false, 0, 0, false, false, false, [], false, [], [], [], []⟩, 0, []⟩

def v8 : Packet := ⟨.mgmt, 1, 0, false, 0x12345678, 0x5a, 2, true, 0, 0x10, [1, 0xccba2bce]⟩

def v9 : Packet := ⟨.mgmt, 1, 0, false, 0x12345678, 0x5a, 2, false, 0, 1, [0x1e8480, 0xa]⟩

def v10 : Packet := ⟨.mgmt, 1, 0, false, 0x12345678, 0x5a, 2, false, 0, 1, [0x3e877359400, 0]⟩

def v11 : Fwd :=
  ⟨0, 0x503, false, 0x309, 9, false, some ⟨.link 2, 1, 0x503, false, 0x309, 9, false, 5⟩, none⟩

def v12 : Packet := ⟨.mgmt, 1, 0, false, 0x12345678, 0x5a, 2, false, 0, 0x401, [0xfff01, 9]⟩

def v13 : Packet := ⟨.mgmt, 1, 0, false, 0x12345678, 0x5a, 2, false, 0, 0x401, [0xfff02, 0x3ff00]⟩

def v14 : Packet := ⟨.mgmt, 1, 0, false, 0x12345678, 0x5a, 2, false, 0, 0, [0x1000, 0x100000008]⟩

def v15 : Packet := ⟨.fab, 1, 0x503, false, 0x12345678, 0x5a, 4, true, 0, 9, [1, 2, 3, 0x8ec36cf1]⟩

def v16 : Packet := ⟨.fab, 1, 0x503, false, 0x12345678, 0x5a, 3, false, 0, 0x80000009, [4, 5, 0xec55c94b]⟩

def v17 : Packet := ⟨.fab, 1, 0x503, false, 0x12345678, 0x5a, 3, false, 0, 0x80000009, [1, 2, 3]⟩

def v18 : Load :=
  ⟨⟨.mgmt, 0, 0, false, 0, 7, true, 50⟩, some (true, 3), 0, 80, 0x37c6956b, [(0, words1)], 1⟩

def v19 : Load :=
  ⟨⟨.mgmt, 0, 0, false, 0, 7, true, 50⟩, some (true, 3), 0, 64, 0xb73b7615,
   [(0, [0x4000040201, 0, 0, 0, 0, 0, 1, 0])], 1⟩

def v20 : Packet := ⟨.mgmt, 1, 0, false, 0x12345678, 0x5a, 5, false, 0, 0, [0x10005, 0x1f, 1, 2, 3]⟩

def v21 : Packet := ⟨.mgmt, 1, 0, false, 0x12345678, 0x5a, 2, false, 0, 4, [0x9b0000, 0x64]⟩

def v22 : SeqJob := ⟨⟨.mgmt, 0, 0, false, 0, 7, true, 50⟩, true, 0, 0, 0, 0, 10, [0, 5, 7], 0⟩

def v23 : SeqJob := ⟨⟨.mgmt, 0, 0, false, 0, 7, true, 50⟩, false, 0, 0, 0, 0, 10, [0, 5, 7], 0⟩

def v24 : Live :=
  ⟨[], ⟨false, ⟨true, 3, 5, 7⟩, 6, true, none, .cold, [], false⟩,
   ⟨false, false, false, false, [], none, true, 512, 9, true, false, true, 0, none⟩, ⟨none, [], []⟩,
   ⟨0, 0, .free, 0, 0, false, 0, false, false, false, 0, none, [], [], []⟩, [], [],
   ⟨[], none, [], none, [], false, [], 0, [], [], []⟩,
   ⟨[], [], [], none, [], [], [], [], [], [], [], false⟩, [], 0, [], [], [], [], [], [], [],
   ⟨[], 0, 0, 0, none⟩, [], [], [], 0, [], false, ⟨[], []⟩,
   ⟨[], [], false, [], 0, [], none, [], 0, [], 0⟩,
   ⟨.off, [], [], false, [], 0, false, 0, 0, 0, false, false, false, [], false, [], [], 0, 0, none, []⟩,
   ⟨[⟨0, ⟨2561, 2, 0, 0, [7]⟩, false, 3, false, none⟩, ⟨1, ⟨2561, 1, 0, 0, [7]⟩, false, 3, false, none⟩,
     ⟨2, ⟨2561, 2, 0, 0, [1, 2]⟩, false, 3, false, none⟩], 5, [], 0, true, 2⟩, ⟨[], [], [], [], [], 0⟩,
   ⟨[], 0, none, 0, 0, 0, rpl0, []⟩,
   ⟨.run, none, false, 0, 0, false, false, false, [], false, [], [], [], []⟩, 0, []⟩

def v25 : List LogEnt :=
  [⟨0, ⟨2561, 2, 0, 0, [7]⟩, false, 3, false, none⟩, ⟨1, ⟨2561, 1, 0, 0, [7]⟩, false, 3, false, none⟩]

def v26 : Live :=
  ⟨[], ⟨false, ⟨true, 3, 5, 7⟩, 6, true, none, .cold, [], false⟩,
   ⟨false, false, false, false, [], none, true, 512, 9, true, false, true, 0, none⟩, ⟨none, [], []⟩,
   ⟨0, 0, .free, 0, 0, false, 0, false, false, false, 0, none, [], [], []⟩, [], [],
   ⟨[], none, [], none, [], false, [], 0, [], [], []⟩,
   ⟨[], [], [], none, [], [], [], [], [], [], [], false⟩, [], 0, [], [], [], [], [], [], [],
   ⟨[], 0, 0, 0, none⟩, [], [], [], 0, [], false, ⟨[], []⟩,
   ⟨[], [], false, [], 0, [], none, [], 0, [], 0⟩,
   ⟨.off, [], [], false, [], 0, false, 0, 0, 0, false, false, false, [], false, [], [], 0, 0, none, []⟩,
   ⟨[⟨5, ⟨2561, 3, 0, 0, List.replicate 20000 0⟩, false, 3, true, none⟩,
     ⟨7, ⟨2561, 3, 0, 0, [7]⟩, false, 3, true, none⟩], 0xffffffff, [], 0, true, 7⟩,
   ⟨[], [], [], [], [], 0⟩, ⟨[], 0, none, 0, 0, 0, rpl0, []⟩,
   ⟨.run, none, false, 0, 0, false, false, false, [], false, [], [], [], []⟩, 0, []⟩

def v27 : Live :=
  ⟨[], ⟨true, ⟨false, 0, 0, 0⟩, 0, false, none, .cold, [], false⟩,
   ⟨false, false, false, false, [], none, false, 512, 9, true, false, false, 0, none⟩, ⟨none, [], []⟩,
   ⟨0, 0, .free, 0, 0, false, 0, false, false, false, 0, none, [], [], []⟩, [], [],
   ⟨[], none, [], none, [], false, [], 0, [], [], []⟩,
   ⟨[], [], [], none, [], [], [], [], [], [], [], false⟩, [], 0, [], [], [], [], [], [], [],
   ⟨[], 0, 0, 0, none⟩, [], [], [], 0, [], false, ⟨[], []⟩,
   ⟨[], [], false, [], 0, [], none, [], 0, [], 0⟩,
   ⟨.off, [], [], false, [], 0, false, 0, 0, 0, false, false, false, [], false, [], [], 0, 0, none, []⟩,
   ⟨[], 0, [], 0, false, 0⟩, ⟨[], [], [], [], [], 0⟩, ⟨[], 0, none, 0, 0, 0, rpl0, []⟩,
   ⟨.run, none, false, 0, 0, false, false, false, [], false, [], [], [], []⟩, 0, []⟩

def v28 : OpenCut :=
  ⟨0x64, 4, [], [], [], true, part0, part0, 1, [], none, [], [], [], ⟨0, 0, 0, none⟩, false, part0, part0,
   false, 0⟩

def v29 : List TrEnt :=
  [⟨1, 2, 3, 4, true, 2, false, false, 0, 0⟩, ⟨1, 2, 3, 4, true, 2, false, false, 0, 0⟩]

def v30 : Watch := { watch0 with en := true, addr := 0x1000, mask := 0xff, free := 5, waiters := 0x33 }

def v31 : Live :=
  ⟨[(83886080, 0)], ⟨false, ⟨true, 3, 5, 1⟩, 6, true, none, .cold, [], false⟩,
   ⟨false, false, false, false, [], none, true, 512, 9, true, false, true, 0, none⟩, ⟨none, [], []⟩,
   ⟨0, 0, .free, 0, 0, false, 0, false, false, false, 0, none, [], [], []⟩, [], [],
   ⟨[], none, [], none, [], false, [], 0, [], [], []⟩,
   ⟨[], [], [], none, [], [], [], [], [], [], [], false⟩, [], 0, [], [], [], [], [], [], [],
   ⟨[], 0, 0, 0, none⟩, [], [], [], 0, [], false, ⟨[], []⟩,
   ⟨[], [], false, [], 0, [], none, [], 0, [], 0⟩,
   ⟨.off, [], [], false, [], 0, false, 0, 0, 0, false, false, false, [], false, [], [], 0, 0, none,
    [(⟨.mgmt, 0, 0, false, 0, 7, true, 50⟩, 3)]⟩, ⟨[], 0, [], 0, true, 0⟩, ⟨[], [], [], [], [], 0⟩,
   ⟨[], 0, none, 0, 0, 0, rpl0, []⟩,
   ⟨.run, none, false, 0, 0, false, false, false, [], false, [], [], [], []⟩, 0, []⟩

def v32 : Packet := ⟨.mgmt, 1, 0, false, 0x12345678, 0x5a, 2, false, 0, 0x901, [0x10000004, 0x1000]⟩

def v33 : Packet := ⟨.mgmt, 1, 0, false, 0x12345678, 0x5a, 2, false, 0, 0x901, [0x10000000, 0x1000]⟩

def v34 : Packet := ⟨.mgmt, 1, 0, false, 0x12345678, 0x5a, 2, false, 0, 0x902, [0x800, 0x1000]⟩

def v35 : Rec := { rec 0xd 0x900 0x3100 0 0 [0x700050010, 0x400, 1] with poison := true }

def v36 : Packet := ⟨.mgmt, 1, 0, false, 0x12345678, 0x5a, 2, false, 0, 9, [0x5002dc6c0, 1]⟩

def v37 : Packet := ⟨.mgmt, 1, 0, false, 0x12345678, 0x5a, 2, false, 0, 9, [0x4c4b40002dc6c0, 1]⟩

def v38 : OpenCut :=
  ⟨0x3e8, 5, [(0, .waiting), (3, .waiting), (5, .unsampled), (6, .absent)], [], [], false, part0, part0,
   0, [], none, [], [], [], ⟨0, 0, 0, none⟩, false, part0, part0, false, 0⟩

def v39 : OpenCut :=
  ⟨0x3e8, 5, [(3, .present), (4, .absent)], [], [], true,
   { part0 with
     expect := 4, unsampled := 1,
     items := [⟨0, 31, 2, 0, 0, 0, none, none, List.replicate 32 0, []⟩,
               ⟨1, 3, 0, 0, 0, 0, none, none, List.replicate 32 0, []⟩] }, part0, 1, [], none, [], [], [],
   ⟨0, 0, 0, none⟩, false, part0, part0, false, 0⟩

def v40 : OpenCut :=
  ⟨0x3e8, 5, [(3, .present)], [], [], true,
   { part0 with
     expect := 4, unsampled := 1,
     items := [⟨0, 31, 2, 0, 0, 0, none, none, List.replicate 32 0, []⟩,
               ⟨1, 3, 0, 0, 0, 0, none, none, List.replicate 32 0, []⟩] },
   { part0 with
     expect := 4, unsampled := 1,
     items := [⟨0, 31, 2, 0, 0, 0, none, none, List.replicate 32 0, []⟩,
               ⟨1, 3, 0, 0, 0, 0, none, none, List.replicate 32 0, []⟩] }, 4, [], none, [], [],
   [⟨0, false, 0, []⟩], ⟨0, 0, 0, none⟩, false,
   { part0 with
     expect := 4, unsampled := 1,
     items := [⟨0, 31, 2, 0, 0, 0, none, none, List.replicate 32 0, []⟩,
               ⟨1, 3, 0, 0, 0, 0, none, none, List.replicate 32 0, []⟩] }, part0, true, 1⟩

def v41 : OpenCut :=
  ⟨0x3e8, 5, [(3, .present), (4, .absent)], [], [], true,
   { part0 with
     expect := 4, unsampled := 1,
     items := [⟨0, 31, 2, 0, 0, 0, none, none, List.replicate 32 0, []⟩,
               ⟨1, 3, 0, 0, 0, 0, none, none, List.replicate 32 0, []⟩] },
   { part0 with
     expect := 4, unsampled := 1,
     items := [⟨0, 31, 2, 0, 0, 0, none, none, List.replicate 32 0, []⟩,
               ⟨1, 3, 0, 0, 0, 0, none, none, List.replicate 32 0, []⟩] }, 4, [],
   some [⟨0, false, true, false, 5, 0⟩], [], [], [⟨0, false, 0, []⟩], ⟨0, 0, 0, none⟩, false, part0,
   part0, false, 0⟩

def v42 : OpenCut :=
  ⟨0x3e8, 5, [(3, .present)], [], [], true,
   { part0 with
     expect := 4, unsampled := 1,
     items := [⟨0, 31, 2, 0, 0, 0, none, none, List.replicate 32 0, []⟩,
               ⟨1, 3, 0, 0, 0, 0, none, none, List.replicate 32 0, []⟩] },
   { part0 with
     expect := 4, unsampled := 1,
     items := [⟨0, 31, 2, 0, 0, 0, none, none, List.replicate 32 0, []⟩,
               ⟨1, 3, 0, 0, 0, 0, none, none, List.replicate 32 0, []⟩] }, 4, [], none, [7], [], [],
   ⟨0, 0, 0, none⟩, false, part0, part0, false, 0⟩

def v43 : Occ :=
  ⟨0, 5, true, false,
   { part0 with
     expect := 256, present := 250, absent := 6,
     items := [⟨0, 31, 2, 0, 0, 0, none, none, List.replicate 32 0, []⟩] }, [(3, [5, 7])], 1, 20⟩

def v44 : Occ :=
  ⟨0, 5, false, false,
   { part0 with
     expect := 256, present := 250, absent := 6,
     items := [⟨0, 31, 2, 0, 0, 0, none, none, List.replicate 32 0, []⟩] }, [(3, [5, 7])], 1, 20⟩

def v45 : Occ :=
  ⟨2, 5, true, false,
   { part0 with
     expect := 256, present := 250, absent := 6,
     items := [⟨0, 31, 2, 0, 0, 0, none, none, List.replicate 32 0, []⟩] }, [(3, [5, 7])], 1, 18⟩

def v46 : Occ :=
  ⟨2, 5, false, false,
   { part0 with
     expect := 256, present := 250, absent := 6,
     items := [⟨0, 31, 2, 0, 0, 0, none, none, List.replicate 32 0, []⟩] }, [(3, [5, 7])], 1, 18⟩

def v47 : Occ :=
  ⟨1, 5, false, false,
   { part0 with
     expect := 256, present := 250, absent := 6,
     items := [⟨0, 31, 2, 0, 0, 0, none, none, List.replicate 32 0, []⟩] }, [(3, [5, 7])], 1, 19⟩

def v48 : TxUnit :=
  ⟨5, 2, [0xcc050300280001, 7, 7, 7, 0x61e14f6a], 0x637bf78600001405, some rec4, none, 4, none⟩

def v49 : LinkItem :=
  ⟨[0xcc050300280001, 7, 7, 7, 0x61e14f6a], some rec4, some (9, 1, 0, 0), 0, 0x64, none⟩

def v50 : LinkItem := ⟨[0x1405030028000f, 0x100000007, 7, 7, 0x551c20b2], some rec11, none, 3, 0x64, none⟩

def v51 : List LinkItem := [⟨[0xcc050300280001, 7, 7, 7, 0x61e14f6a], some rec4, none, 3, 0x64, none⟩]

def v52 : RxUnit := ⟨[0xcc070300280001, 0x100000007, 1, 5, 0x5f57a63f], 0xc51c6ccd00001400, true⟩

def v53 : RxUnit := ⟨[0xcc070300280001, 0x100000007, 1, 5, 0x5f57a63f], 0xf46db8fd00001400, false⟩

def v54 : RxUnit := ⟨[0xcc070300280001, 0x100000007, 1, 5, 0x5f57a63f], 0x3ef5b3fc00001658, false⟩

def v55 : RxUnit := ⟨[0xcc070300280001, 0x100000007, 1, 5, 0x5f57a63f], 0x637bf78600001405, false⟩

def v56 : RxUnit := ⟨[0xcc070300280001, 0x100000007, 1, 5, 0x5f57a63f], 0xc51c6ccd00001400, false⟩

def v57 : LinkItem := ⟨[0xcc050300280001, 7, 7, 7, 0x61e14f6a], some rec4, none, 3, 0x64, none⟩

def w1 : State := { buoy with pending := [.swtrig, .tinValidLow] }

def w2 : State := on buoy fun l => { l with time := { l.time with state := .locked, trunk := some 5 } }

def w3 : State := on lantern fun l => { l with cmd := { l.cmd with regHeld := [(0, .swtrig)] } }

def w4 : State :=
  { on w3 fun l => { l with clk := { l.clk with switches := [(.reg, true), (.core, true)] } } with
    build := { w3.build with form := .buoy } }

def w5 : State := on lantern fun l =>
  { l with
    cmd := { l.cmd with
             held := [⟨⟨.mgmt, 2, 0, false, 0, 9, true, 2⟩,
                       .nop ⟨.mgmt, 1, 0x503, true, 0x1234, 7, 0, false, 0, 0, []⟩⟩,
                      ⟨⟨.link 7, 1, 0x503, true, 0x1234, 7, false, 3⟩,
                       .nop ⟨.link 7, 1, 0x503, true, 0x1234, 7, 0, false, 0, 0, []⟩⟩] } }

def w6 : State := on w5 fun l =>
  { l with cmd := { l.cmd with busy := [⟨⟨.mgmt, 2, 0, false, 0, 9, true, 2⟩, .swtrig⟩] } }

def w7 : State := on buoy fun l => { l with pwr := { l.pwr with st := .off } }

def w8 : State := on coldBuoy fun l =>
  { l with
    boot := { l.boot with
              held := false,
              st := { l.boot.st with calPresent := true, idLocal := 3, idTrunk := 5, celPresent := 7 },
              phase := 1 } }

def w9 : State := on w8 fun l =>
  { l with boot := { l.boot with st := { l.boot.st with calPresent := false } } }

def w10 : State := on w8 fun l => { l with boot := { l.boot with phase := 4 } }

def w11 : State := on w8 fun l => { l with boot := { l.boot with phase := 5 } }

def w12 : State := { w11 with build := { w11.build with form := .lantern } }

def w13 : State := on w8 fun l => { l with boot := { l.boot with phase := 2, calIdx := some 3 } }

def w14 : State := on w13 fun l =>
  { l with
    boot := { l.boot with calIdx := some 255 },
    cal := { l.cal with intake := [(0, 0x100), (1, 0x8000)] } }

def w15 : State := on w14 fun l => { l with cal := { l.cal with intake := [] } }

def w16 : State := on lantern fun l =>
  { l with
    clk := { l.clk with
             coreQual := true, regQual := true, switches := [(.reg, true)], waiting := some 3 } }

def w17 : State := on w8 fun l => { l with boot := { l.boot with phase := 3 } }

def w18 : State := on buoy fun l => { l with clk := { l.clk with switches := [(.core, true)] } }

def w19 : State := on buoy fun l =>
  { l with clk := { l.clk with coreOn := true, coreQual := true, regQual := true } }

def w20 : State := on buoy fun l =>
  { l with
    time := { l.time with
              acc := 0xc80000000, cmps := [⟨.cuts 2, 0x80000000, 1000⟩, ⟨.start 9, 0x46, 0⟩] } }

def w21 : State := on w18 fun l =>
  { l with clk := { l.clk with switches := [(.reg, true)], waiting := some 3 } }

def w22 : State := on w20 fun l =>
  { l with time := { l.time with cmps := [⟨.start 3, 0x80000000, 1000⟩, ⟨.start 9, 0x46, 0⟩] } }

def w23 : State := on buoy fun l =>
  { l with
    clk := { l.clk with refOk := false, spoilt := some .ftTick },
    time := { l.time with everLocked := true } }

def w24 : State := on w23 fun l => { l with clk := { l.clk with code := 0, bit := 1, spoilt := none } }

def w25 : State := on w24 fun l => { l with clk := { l.clk with code := 512, bit := 0 } }

def w26 : State := on w24 fun l => { l with clk := { l.clk with code := 1, bit := 5, acq := false } }

def w27 : State := on w26 fun l => { l with clk := { l.clk with code := 0 } }

def w28 : State := on w20 fun l =>
  { l with time := { l.time with cmps := [⟨.cuts 2, 0x64, 1000⟩, ⟨.start 9, 0x46, 0⟩] } }

def w29 : State := on lantern fun l =>
  { l with
    time := { l.time with
              acc := 0x400000000003039, state := .acquire, slew := 5000, good := 5,
              msAcc := 500000000000000, ofs := 4 } }

def w30 : State := on w12 fun l =>
  { l with
    boot := { l.boot with phase := 3 }, clk := { l.clk with bit := 0 },
    time := { l.time with everLocked := true } }

def w31 : State := on buoy fun l =>
  { l with time := { l.time with acc := 0x3039, state := .acquire, everLocked := true, ofs := 4 } }

def w32 : State := { w20 with build := { w20.build with form := .lantern } }

def w33 : State := on lantern fun l =>
  { l with time := { l.time with acc := 0x3039, state := .locked, everLocked := true, ofs := 4 } }

def w34 : State := { w33 with build := { w33.build with form := .buoy } }

def w35 : State := on w31 fun l =>
  { l with
    time := { l.time with
              acc := 0xc00000000003039, state := .free, slew := 3000, good := 3, msAcc :=
                                                                                   300000000000000,
              stepped := true } }

def w36 : State := { w31 with build := { w31.build with form := .lantern } }

def w37 : State := on w29 fun l => { l with time := { l.time with state := .locked } }

def w38 : State := on lantern fun l => { l with rf := regs [(F.TIME_CFG_FREERUN, 0, 1)] }

def w39 : State := on w38 fun l =>
  { l with
    rf := regs [(F.LNK_ROLE_ROLE, 2, 2)],
    time := { l.time with
              acc := 0x98af740000000, state := .locked,
              peers := [(3, { peer0 with xseq := 7, tx := some 0x989680, sent := true, hist := [false] })] },
    links := [(2, { link0 with st := .up })] }

def w40 : State := on w19 fun l => { l with clk := { l.clk with coreOn := false } }

def w41 : State := on w20 fun l =>
  { l with time := { l.time with cmps := [⟨.start 3, 0x64, 0⟩, ⟨.start 9, 0x46, 0⟩] } }

def w42 : State := on w20 fun l => { l with time := { l.time with cmps := [⟨.start 3, 0x190, 0⟩] } }

def w43 : State := on w20 fun l =>
  { l with
    time := { l.time with cmps := [], fired := [⟨.pulse 0, 0x64⟩] },
    pulses := [(0, { pulse0 with t := 0x64, width := 500 })] }

def w44 : State := on w20 fun l =>
  { l with
    time := { l.time with cmps := [] },
    pulses := [(1, { pulse0 with t := 0x64, width := 50, lateRise := true })] }

def w45 : State := on w44 fun l =>
  { l with pulses := [(0, { pulse0 with t := 0x64, width := 50, level := true, fall := 0x96 })] }

def w46 : State := on w20 fun l =>
  { l with
    time := { l.time with cmps := [⟨.pulse 0, 5, 1000⟩] },
    pulses := [(0,
                { pulse0 with
                  t := 0x64, width := 50, level := true, fall := 0x96, deferred := some (3, 0, 0) })] }

def w47 : State := on w44 fun l =>
  { l with
    pulses := [(1,
                { pulse0 with
                  t := 0x64, width := 50, level := true, fall := 0x96,
                  deferred := some (0x40000000, 0, 5) })] }

def w48 : State := on w44 fun l =>
  { l with
    rf := regs [(F.QW_PERIOD_PERIOD, 0, 20000), (F.QW_LEN_LEN, 0, 50)], pulses := [],
    qws := [(0, { qw0 with en := true, s := 0x64 })] }

def w49 : State := on w48 fun l =>
  { l with
    rf := regs [(F.QW_PERIOD_PERIOD, 1, 20000), (F.QW_LEN_LEN, 1, 50)],
    qws := [(1, { qw0 with en := true, s := 0x64, active := true, pendDis := true })] }

def w50 : State := on buoy fun l =>
  { l with
    rf := regs [(F.QW_START_START, 0, 2000000), (F.QW_PERIOD_PERIOD, 0, 10000)],
    time := { l.time with state := .holdover } }

def w51 : State := { w18 with build := { w18.build with form := .lantern } }

def w52 : State := on buoy fun l => { l with cmd := { l.cmd with mgmtReplies := [[5], [6]] } }

def w53 : State := on w2 fun l =>
  { l with
    rf := regs [(F.UNIT_EN_B_PULSE, 0, 1)],
    time := { l.time with
              trunk := none,
              cmps := [⟨.start 0, 5, 0⟩, ⟨.start 1, 5, 0⟩, ⟨.start 2, 5, 0⟩, ⟨.start 3, 5, 0⟩,
                       ⟨.start 4, 5, 0⟩, ⟨.start 5, 5, 0⟩, ⟨.start 6, 5, 0⟩, ⟨.start 7, 5, 0⟩,
                       ⟨.start 8, 5, 0⟩, ⟨.start 9, 5, 0⟩, ⟨.start 10, 5, 0⟩, ⟨.start 11, 5, 0⟩,
                       ⟨.start 12, 5, 0⟩, ⟨.start 13, 5, 0⟩, ⟨.start 14, 5, 0⟩, ⟨.start 15, 5, 0⟩,
                       ⟨.start 16, 5, 0⟩, ⟨.start 17, 5, 0⟩, ⟨.start 18, 5, 0⟩, ⟨.start 19, 5, 0⟩,
                       ⟨.start 20, 5, 0⟩, ⟨.start 21, 5, 0⟩, ⟨.start 22, 5, 0⟩, ⟨.start 23, 5, 0⟩,
                       ⟨.start 24, 5, 0⟩, ⟨.start 25, 5, 0⟩, ⟨.start 26, 5, 0⟩, ⟨.start 27, 5, 0⟩,
                       ⟨.start 28, 5, 0⟩, ⟨.start 29, 5, 0⟩, ⟨.start 30, 5, 0⟩, ⟨.start 31, 5, 0⟩,
                       ⟨.start 32, 5, 0⟩, ⟨.start 33, 5, 0⟩, ⟨.start 34, 5, 0⟩, ⟨.start 35, 5, 0⟩,
                       ⟨.start 36, 5, 0⟩, ⟨.start 37, 5, 0⟩, ⟨.start 38, 5, 0⟩, ⟨.start 39, 5, 0⟩,
                       ⟨.start 40, 5, 0⟩, ⟨.start 41, 5, 0⟩, ⟨.start 42, 5, 0⟩, ⟨.start 43, 5, 0⟩,
                       ⟨.start 44, 5, 0⟩, ⟨.start 45, 5, 0⟩, ⟨.start 46, 5, 0⟩, ⟨.start 47, 5, 0⟩,
                       ⟨.start 48, 5, 0⟩, ⟨.start 49, 5, 0⟩, ⟨.start 50, 5, 0⟩, ⟨.start 51, 5, 0⟩,
                       ⟨.start 52, 5, 0⟩, ⟨.start 53, 5, 0⟩, ⟨.start 54, 5, 0⟩, ⟨.start 55, 5, 0⟩,
                       ⟨.start 56, 5, 0⟩, ⟨.start 57, 5, 0⟩, ⟨.start 58, 5, 0⟩, ⟨.start 59, 5, 0⟩,
                       ⟨.start 60, 5, 0⟩, ⟨.start 61, 5, 0⟩, ⟨.start 62, 5, 0⟩, ⟨.start 63, 5, 0⟩] },
    pulses := [(1, pulse0)] }

def w54 : State := on lantern fun l =>
  { l with time := { l.time with state := .locked }, pulses := [(1, { pulse0 with level := true })] }

def w55 : State := on w38 fun l =>
  { l with
    rf := regs [(F.LNK_ROLE_ROLE, 2, 1), (F.LNK_ROLE_ROLE, 4, 2)],
    links := [(2, { link0 with st := .up }), (4, { link0 with st := .up })] }

def w56 : State := on w55 fun l =>
  { l with
    cmd := { l.cmd with
             fwd := [⟨0, 0x503, false, 0x309, 9, false, none, none⟩,
                     ⟨1, 0x503, false, 0x309, 9, false, none, none⟩,
                     ⟨2, 0x503, false, 0x309, 9, false, none, none⟩,
                     ⟨3, 0x503, false, 0x309, 9, false, none, none⟩,
                     ⟨4, 0x503, false, 0x309, 9, false, none, none⟩,
                     ⟨5, 0x503, false, 0x309, 9, false, none, none⟩,
                     ⟨6, 0x503, false, 0x309, 9, false, none, none⟩,
                     ⟨7, 0x503, false, 0x309, 9, false, none, none⟩,
                     ⟨8, 0x503, false, 0x309, 9, false, none, none⟩,
                     ⟨9, 0x503, false, 0x309, 9, false, none, none⟩,
                     ⟨10, 0x503, false, 0x309, 9, false, none, none⟩,
                     ⟨11, 0x503, false, 0x309, 9, false, none, none⟩,
                     ⟨12, 0x503, false, 0x309, 9, false, none, none⟩,
                     ⟨13, 0x503, false, 0x309, 9, false, none, none⟩,
                     ⟨14, 0x503, false, 0x309, 9, false, none, none⟩,
                     ⟨15, 0x503, false, 0x309, 9, false, none, none⟩,
                     ⟨16, 0x503, false, 0x309, 9, false, none, none⟩,
                     ⟨17, 0x503, false, 0x309, 9, false, none, none⟩,
                     ⟨18, 0x503, false, 0x309, 9, false, none, none⟩,
                     ⟨19, 0x503, false, 0x309, 9, false, none, none⟩,
                     ⟨20, 0x503, false, 0x309, 9, false, none, none⟩,
                     ⟨21, 0x503, false, 0x309, 9, false, none, none⟩,
                     ⟨22, 0x503, false, 0x309, 9, false, none, none⟩,
                     ⟨23, 0x503, false, 0x309, 9, false, none, none⟩,
                     ⟨24, 0x503, false, 0x309, 9, false, none, none⟩,
                     ⟨25, 0x503, false, 0x309, 9, false, none, none⟩,
                     ⟨26, 0x503, false, 0x309, 9, false, none, none⟩,
                     ⟨27, 0x503, false, 0x309, 9, false, none, none⟩,
                     ⟨28, 0x503, false, 0x309, 9, false, none, none⟩,
                     ⟨29, 0x503, false, 0x309, 9, false, none, none⟩,
                     ⟨30, 0x503, false, 0x309, 9, false, none, none⟩,
                     ⟨31, 0x503, false, 0x309, 9, false, none, none⟩,
                     ⟨32, 0x503, false, 0x309, 9, false, none, none⟩,
                     ⟨33, 0x503, false, 0x309, 9, false, none, none⟩,
                     ⟨34, 0x503, false, 0x309, 9, false, none, none⟩,
                     ⟨35, 0x503, false, 0x309, 9, false, none, none⟩,
                     ⟨36, 0x503, false, 0x309, 9, false, none, none⟩,
                     ⟨37, 0x503, false, 0x309, 9, false, none, none⟩,
                     ⟨38, 0x503, false, 0x309, 9, false, none, none⟩,
                     ⟨39, 0x503, false, 0x309, 9, false, none, none⟩,
                     ⟨40, 0x503, false, 0x309, 9, false, none, none⟩,
                     ⟨41, 0x503, false, 0x309, 9, false, none, none⟩,
                     ⟨42, 0x503, false, 0x309, 9, false, none, none⟩,
                     ⟨43, 0x503, false, 0x309, 9, false, none, none⟩,
                     ⟨44, 0x503, false, 0x309, 9, false, none, none⟩,
                     ⟨45, 0x503, false, 0x309, 9, false, none, none⟩,
                     ⟨46, 0x503, false, 0x309, 9, false, none, none⟩,
                     ⟨47, 0x503, false, 0x309, 9, false, none, none⟩,
                     ⟨48, 0x503, false, 0x309, 9, false, none, none⟩,
                     ⟨49, 0x503, false, 0x309, 9, false, none, none⟩,
                     ⟨50, 0x503, false, 0x309, 9, false, none, none⟩,
                     ⟨51, 0x503, false, 0x309, 9, false, none, none⟩,
                     ⟨52, 0x503, false, 0x309, 9, false, none, none⟩,
                     ⟨53, 0x503, false, 0x309, 9, false, none, none⟩,
                     ⟨54, 0x503, false, 0x309, 9, false, none, none⟩,
                     ⟨55, 0x503, false, 0x309, 9, false, none, none⟩,
                     ⟨56, 0x503, false, 0x309, 9, false, none, none⟩,
                     ⟨57, 0x503, false, 0x309, 9, false, none, none⟩,
                     ⟨58, 0x503, false, 0x309, 9, false, none, none⟩,
                     ⟨59, 0x503, false, 0x309, 9, false, none, none⟩,
                     ⟨60, 0x503, false, 0x309, 9, false, none, none⟩,
                     ⟨61, 0x503, false, 0x309, 9, false, none, none⟩,
                     ⟨62, 0x503, false, 0x309, 9, false, none, none⟩,
                     ⟨63, 0x503, false, 0x309, 9, false, none, none⟩] } }

def w57 : State := on w55 fun l =>
  { l with
    cmd := { l.cmd with
             fwd := [⟨0, 0x503, false, 0x309, 9, false,
                      some ⟨.link 2, 1, 0x503, false, 0x309, 9, false, 5⟩, none⟩],
             order := [⟨⟨.link 2, 1, 0x503, false, 0x309, 9, false, 5⟩, none⟩] } }

def w58 : State := on w55 fun l =>
  { l with
    cmd := { l.cmd with
             late := [⟨0, 0x503, false, 0x309, 9, false,
                       some ⟨.link 2, 1, 0x503, false, 0x309, 9, false, 5⟩, none⟩] } }

def w59 : State := on w55 fun l =>
  { l with
    rf := regs [(F.LNK_ROLE_ROLE, 2, 2), (F.LNK_ROLE_ROLE, 4, 2)],
    cmd := { l.cmd with fwd := [⟨0, 0x503, false, 0x309, 9, false, none, none⟩] } }

def w60 : State := on buoy fun l =>
  { l with
    rf := regs [(F.UNIT_EN_B_TAP, 0, 255)],
    samp := { l.samp with
              ctrs := [(1, ⟨0x11bff11, 0x3039, true, false, none⟩),
                       (2, ⟨0x10003ff06, 0x63, false, false, some (7, true)⟩)] },
    mem := { l.mem with bad := [⟨.ctr 2, 5, 16⟩] } }

def w61 : State := on w38 fun l =>
  { l with rf := regs [(F.LNK_ROLE_ROLE, 3, 3)], links := [(3, { link0 with st := .up })] }

def w62 : State := on w61 fun l =>
  { l with
    links := [(3, { link0 with st := .up, loads := [⟨9, 50, 0, 88⟩] })],
    loads := [⟨⟨.mgmt, 0, 0, false, 0, 7, true, 50⟩, none, 0, 88, 0x226d5e24, [], 0⟩] }

def w63 : State := on w61 fun l =>
  { l with
    links := [(3, { link0 with st := .up, loads := [⟨9, 50, 0, 64⟩] })],
    loads := [⟨⟨.mgmt, 0, 0, false, 0, 7, true, 50⟩, none, 0, 64, 0x7e22b89f, [], 0⟩] }

def w64 : State := on lantern fun l =>
  { l with
    loads := [⟨⟨.mgmt, 0, 0, false, 0, 7, true, 50⟩, some (true, 3), 0, 80, 0x37c6956b, [(0, words1)], 1⟩],
    eng := { l.eng with
             job := some ⟨⟨.mgmt, 0, 0, false, 0, 7, true, 50⟩, false, 4, 3, 0, 0, 5, [], 0⟩ } }

def w65 : State := on w38 fun l =>
  { l with
    rf := regs [(F.UNIT_EN_L_SEQ, 0, 1)],
    loads := [⟨⟨.mgmt, 0, 0, false, 0, 7, true, 50⟩, some (true, 3), 0, 64, 0xb73b7615,
               [(0, [0x4000040201, 0, 0, 0, 0, 0, 1, 0])], 1⟩] }

def w66 : State := on buoy fun l =>
  { l with
    rf := regs [(F.UNIT_EN_B_TREE, 0, 1)],
    eng := { l.eng with
             trees := [(0, { slot0 with image := [0, 5] })],
             treeJobs := [⟨⟨.mgmt, 0, 0, false, 0, 7, true, 50⟩, 0, [[some 5, none]]⟩] } }

def w67 : State := on w66 fun l => { l with mem := { l.mem with bad := [⟨.query 50 0, 4, 8⟩] } }

def w68 : State := on w38 fun l =>
  { l with
    rf := regs [(F.UNIT_EN_B_TAP, 0, 65535), (F.UNIT_EN_L_SEQ, 0, 1)],
    ser := { l.ser with sers := [(0, { ser0 with on := true, commit := 0x100 })] },
    eng := { l.eng with seqs := [(0, { slot0 with image := [0x40000, 0, 0, 0, 0, 0, 0, 0] })] } }

def w69 : State :=
  { on w68 fun l =>
    { l with
      rf := regs [(F.UNIT_EN_B_TREE, 0, 1)],
      boot := { l.boot with st := { l.boot.st with celPresent := 1 } },
      ser := { l.ser with
               sers := [(0, { ser0 with on := true, commit := 0x100, ring := [(0, ⟨words2, true⟩)] })] },
      eng := { l.eng with
               job := some ⟨⟨.mgmt, 0, 0, false, 0, 7, true, 50⟩, true, 0, 0, 0, 0, 10, [0, 5, 7], 0⟩ } } with
    build := { w68.build with form := .buoy } }

def w70 : State := on w69 fun l =>
  { l with
    ser := { l.ser with
             sers := [(0, { ser0 with on := true, commit := 0x100, ring := [(0, ⟨words2, false⟩)] })] } }

def w71 : State := on w70 fun l =>
  { l with
    eng := { l.eng with
             job := some ⟨⟨.mgmt, 0, 0, false, 0, 7, true, 50⟩, false, 0, 0, 0, 0, 10, [0, 5, 7], 0⟩ } }

def w72 : State := on w60 fun l =>
  { l with
    samp := { l.samp with
              binds := [(0, 0x405), (1, 0xc06), (9, 0x405), (10, 0xc07), (11, 0xc07), (12, 0xc08)],
              retired := [8],
              job := some ⟨⟨.mgmt, 0, 0, false, 0, 7, true, 50⟩, 5, 7, 2, false, false, false⟩,
              steps := [(5, ⟨1, true⟩)], stepJobs := [⟨⟨.mgmt, 0, 0, false, 0, 7, true, 49⟩, 9, 3⟩],
              ctrs := [(1, ⟨0x511, 0x3039, true, false, none⟩),
                       (2, ⟨0x10003ff06, 0x63, false, false, some (7, true)⟩)] },
    mem := { l.mem with bad := [] } }

def w73 : State := on w72 fun l =>
  { l with samp := { l.samp with job := none, steps := [], stepJobs := [], ctrs := [] } }

def w74 : State := on w73 fun l =>
  { l with
    samp := { l.samp with
              remaps := [(0, ⟨100, 6, true⟩), (1, ⟨101, 6, true⟩), (2, ⟨102, 6, true⟩),
                         (3, ⟨103, 6, true⟩), (4, ⟨104, 6, true⟩), (5, ⟨105, 6, true⟩),
                         (6, ⟨106, 6, true⟩), (7, ⟨107, 6, true⟩), (8, ⟨108, 6, true⟩),
                         (9, ⟨109, 6, true⟩), (10, ⟨110, 6, true⟩), (11, ⟨111, 6, true⟩),
                         (12, ⟨112, 6, true⟩), (13, ⟨113, 6, true⟩), (14, ⟨114, 6, true⟩),
                         (15, ⟨115, 6, true⟩), (16, ⟨116, 6, true⟩), (17, ⟨117, 6, true⟩),
                         (18, ⟨118, 6, true⟩), (19, ⟨119, 6, true⟩), (20, ⟨120, 6, true⟩),
                         (21, ⟨121, 6, true⟩), (22, ⟨122, 6, true⟩), (23, ⟨123, 6, true⟩)] } }

def w75 : State := on w72 fun l =>
  { l with
    time := { l.time with fired := [⟨.cuts 3, 5⟩] },
    samp := { l.samp with steps := [], stepJobs := [], ctrs := [] } }

def w76 : State := on w72 fun l => { l with samp := { l.samp with steps := [], stepJobs := [] } }

def w77 : State := on w76 fun l =>
  { l with
    samp := { l.samp with
              job := some ⟨⟨.mgmt, 0, 0, false, 0, 7, true, 50⟩, 5, 7, 2, true, true, false⟩ } }

def w78 : State := on w75 fun l =>
  { l with
    samp := { l.samp with job := none, stepJobs := [⟨⟨.mgmt, 0, 0, false, 0, 7, true, 50⟩, 5, 0⟩] } }

def w79 : State := on w72 fun l =>
  { l with
    samp := { l.samp with
              job := none, stepJobs := [⟨⟨.mgmt, 0, 0, false, 0, 7, true, 50⟩, 5, 3⟩], ctrs := [] } }

def w80 : State := on w72 fun l =>
  { l with
    samp := { l.samp with
              job := some ⟨⟨.mgmt, 0, 0, false, 0, 7, true, 50⟩, 5, 6, 2, true, false, true⟩,
              stepJobs := [] } }

def w81 : State := on w72 fun l =>
  { l with samp := { l.samp with stepJobs := [⟨⟨.mgmt, 0, 0, false, 0, 7, true, 50⟩, 5, 3⟩] } }

def w82 : State := on w73 fun l =>
  { l with
    rf := regs [(F.UNIT_EN_B_TAP, 0, 255), (F.UNIT_EN_B_PCS, 0, 1), (F.PCS_CFG_EN, 1, 1),
                (F.PCS_CFG_FLUSH, 1, 5)] }

def w83 : State := on w82 fun l =>
  { l with
    time := { l.time with acc := 0x17700000000 },
    samp := { l.samp with pcs := [(1, ⟨5, [⟨7, 0, 5, 1, 0⟩, ⟨7, 4, 5, 1, 0⟩], 2⟩)] } }

def w84 : State := on w73 fun l =>
  { l with
    time := { l.time with acc := 0x320000000 },
    plans := [(9, { plan0 with state := .running, image := words3, sampNext := [0x64] })] }

def w85 : State := on w84 fun l => { l with time := { l.time with acc := 0x13880000000 } }

def w86 : State := on w73 fun l =>
  { l with
    rf := regs [(F.UNIT_EN_B_TAP, 0, 255), (F.UNIT_EN_B_PWRQ, 0, 0)],
    pwr := { l.pwr with reqs := [⟨⟨.mgmt, 0, 0, false, 0, 7, true, 50⟩, 5, 1, true⟩], lateAck := true } }

def w87 : State := on buoy fun l =>
  { l with
    rf := regs [(F.LOG_CFG_DRAIN_EN, 0, 1)],
    log := { l.log with attic := [⟨1, ⟨1, 1, 0, 0, []⟩, false, 0, false, none⟩] },
    pwr := { l.pwr with target := some .idle } }

def w88 : State := on w87 fun l => { l with pwr := { l.pwr with target := some .off } }

def w89 : State := on w87 fun l => { l with pwr := { l.pwr with target := some .deep } }

def w90 : State := on w87 fun l => { l with pwr := { l.pwr with target := some .sleep } }

def w91 : State := on w7 fun l =>
  { l with
    rf := regs [(F.PWR_CFG_WAKE_MGMT, 0, 1), (F.PWR_WAKE_CTL_TMR, 0, 7)],
    pwr := { l.pwr with st := .idle, ramping := true } }

def w92 : State := on w91 fun l => { l with pwr := { l.pwr with st := .deep } }

def w93 : State := on w91 fun l => { l with pwr := { l.pwr with st := .sleep } }

def w94 : State := on w91 fun l => { l with pwr := { l.pwr with st := .off } }

def w95 : State := on buoy fun l => { l with rf := regs [(F.PWR_CFG_WAKE_MGMT, 0, 0)] }

def w96 : State := on w95 fun l =>
  { l with
    rf := regs [(F.PWR_CFG_AUTO_IDLE, 0, 1), (F.PWR_WAKE_T_T, 0, 1073741824)],
    pwr := { l.pwr with wasIdle := true } }

def w97 : State := on w86 fun l =>
  { l with
    rf := regs [(F.UNIT_EN_B_TAP, 0, 255), (F.UNIT_EN_B_PWRQ, 0, 1)], pwr := { l.pwr with reqs := [] } }

def w98 : State := on w97 fun l =>
  { l with
    pwr := { l.pwr with reqs := [⟨⟨.mgmt, 0, 0, false, 0, 7, true, 50⟩, 5, 1, true⟩], lateAck := false } }

def w99 : State := on w98 fun l =>
  { l with
    pwr := { l.pwr with
             reqs := [⟨⟨.mgmt, 0, 0, false, 0, 7, true, 50⟩, 5, 1, true⟩,
                      ⟨⟨.mgmt, 0, 0, false, 0, 7, true, 50⟩, 5, 1, false⟩] } }

def w100 : State := on w38 fun l =>
  { l with
    rf := regs [(F.UNIT_EN_L_PMB, 0, 1), (F.PMB_CFG_EN, 0, 1), (F.PMB_DEV_DEN, 2, 1),
                (F.PMB_DEV_RDEN, 2, 31), (F.PMB_SMASK_SMASK, 2, 4)],
    pwr := { l.pwr with poll := [(2, 1)] } }

def w101 : State := on w100 fun l => { l with pwr := { l.pwr with poll := [] } }

def w102 : State := on w100 fun l => { l with pwr := { l.pwr with poll := [(2, 0), (2, 1)] } }

def w103 : State := on w100 fun l => { l with pwr := { l.pwr with poll := [(2, 4), (2, 0)] } }

def w104 : State := on w100 fun l =>
  { l with pwr := { l.pwr with failing := [19, 26], poll := [(2, 3)] } }

def w105 : State := on w8 fun l => { l with boot := { l.boot with phase := 15 } }

def w106 : State := on buoy fun l => { l with cmd := { l.cmd with regHeld := [(68, .swtrig)] } }

def w107 : State := on buoy fun l =>
  { l with
    samp := { l.samp with
              ctrs := [(0, ⟨0x11bff11, 0x123456789ab, true, false, some (5, false)⟩),
                       (1, ⟨0x10003ff06, 0x63, false, false, some (6, true)⟩)] },
    mem := { l.mem with
             bad := [⟨.ctr 0, 5, 16⟩, ⟨.ctr 1, 5, 32⟩, ⟨.watch 0, 11, 8⟩, ⟨.watch 3, 11, 8⟩] } }

def w108 : State := on w95 fun l => { l with rf := regs [(F.LOG_CFG_DRAIN_EN, 0, 1)] }

def w109 : State := on buoy fun l =>
  { l with
    log := { l.log with
             ents := [⟨0, ⟨2561, 2, 0, 0, [7]⟩, false, 3, false, some 64⟩,
                      ⟨1, ⟨2561, 1, 0, 0, [7]⟩, false, 3, false, some 64⟩,
                      ⟨2, ⟨2561, 2, 0, 0, [1, 2]⟩, false, 3, false, some 64⟩] } }

def w110 : State := on w108 fun l =>
  { l with
    log := { l.log with
             ents := [⟨0, ⟨2561, 2, 0, 0, [7]⟩, false, 3, false, none⟩,
                      ⟨1, ⟨2561, 3, 0, 0, [7]⟩, false, 3, false, none⟩], lostSum := 4 } }

def w111 : State := on w95 fun l =>
  { l with
    rf := regs [(F.LOG_ATTIC_EN, 0, 1)],
    log := { l.log with
             ents := [⟨0, ⟨2561, 2, 0, 0, [7]⟩, false, 3, false, none⟩,
                      ⟨1, ⟨2561, 1, 0, 0, [7]⟩, false, 3, false, none⟩,
                      ⟨2, ⟨2561, 2, 0, 0, [1, 2]⟩, false, 3, false, none⟩],
             attic := [⟨0, ⟨2561, 2, 0, 0, [7]⟩, false, 3, false, none⟩] } }

def w112 : State := on w95 fun l =>
  { l with
    rf := regs [(F.MEM_SCRUB_EN, 1, 1), (F.MEM_SCRUB_EN, 3, 1)],
    mem := { l.mem with walk := [(1, 524280), (3, 65520)], lapCe := [(1, 4)] } }

def w113 : State := on w95 fun l => { l with rf := regs [(F.UNIT_EN_B_BMON, 0, 0)] }

def w114 : State := on buoy fun l =>
  { l with
    plans := [(9,
               { plan0 with
                 state := .running, image := [0x90000, 0x4d01400005, 0, 0, 0x640000000000, 1, 0, 0],
                 oc := some ⟨0x64, 4, [], [], [], true, part0, part0, 1, [], none, [], [], [],
                             ⟨0, 0, 0, none⟩, false, part0, part0, false, 0⟩ })],
    mem := { l.mem with jobs := [⟨⟨.mgmt, 0, 0, false, 0, 7, true, 50⟩, 3, 0, 0x50, true⟩] } }

def w115 : State := { w114 with build := { w114.build with form := .lantern } }

def w116 : State := on w95 fun l =>
  { l with rf := regs [(F.UNIT_EN_B_BMON, 0, 1), (F.UNIT_EN_B_SYNC, 0, 1)] }

def w117 : State := on w73 fun l =>
  { l with
    rf := regs [(F.UNIT_EN_B_TAP, 0, 255), (F.UNIT_EN_B_BMON, 0, 1)],
    trace := { l.trace with
               st := .armed, arm := words4, opn := [⟨1, 2, 3, 4, true, 2, false, false, 0, 0⟩], cnt := 1,
               pend := [4, 6] } }

def w118 : State := on w95 fun l =>
  { l with rf := regs [(F.UNIT_EN_B_BMON, 0, 0), (F.UNIT_EN_B_SYNC, 0, 1)] }

def w119 : State := on w95 fun l =>
  { l with rf := regs [(F.UNIT_EN_B_SYNC, 0, 1)], trace := { l.trace with clkStop := true } }

def w120 : State := on w117 fun l =>
  { l with
    trace := { l.trace with
               st := .stopped, arm := words5, opn := [],
               slots := [.block [⟨1, 2, 3, 4, true, 2, false, false, 0, 0⟩, ⟨1, 2, 3, 4, true, 2, false, false, 0, 0⟩] true true 5 9 (some 8)],
               cnt := 2, pend := [] } }

def w121 : State := on w120 fun l =>
  { l with
    trace := { l.trace with
               arm := words4,
               slots := [.block [⟨1, 2, 3, 4, true, 2, false, false, 0, 0⟩, ⟨1, 2, 3, 4, true, 2, false, false, 0, 0⟩] true true 5 9 none] } }

def w122 : State := on w121 fun l =>
  { l with trace := { l.trace with st := .off, slots := [], cnt := 0 } }

def w123 : State := on w122 fun l => { l with trace := { l.trace with st := .armed, cnt := 2 } }

def w124 : State := on w123 fun l => { l with trace := { l.trace with arm := words5 } }

def w125 : State := on w123 fun l => { l with trace := { l.trace with arm := words6, pend := [4, 6, 5] } }

def w126 : State := on w125 fun l => { l with trace := { l.trace with st := .counting, pend := [] } }

def w127 : State := on w117 fun l => { l with trace := { l.trace with st := .counting, arm := words7 } }

def w128 : State := on w121 fun l => { l with trace := { l.trace with arm := words8, pend := [4, 6, 5] } }

def w129 : State := on w128 fun l => { l with trace := { l.trace with st := .off, slots := [] } }

def w130 : State := on w127 fun l => { l with trace := { l.trace with arm := words4 } }

def w131 : State := on w123 fun l =>
  { l with trace := { l.trace with clkStop := true, markDue := true, entryDue := true } }

def w132 : State := on w122 fun l =>
  { l with
    boot := { l.boot with bmonRst := true }, trace := { l.trace with arm := [], clkStop := true } }

def w133 : State := on w73 fun l =>
  { l with
    rf := regs [(F.UNIT_EN_B_TAP, 0, 255), (F.UNIT_EN_B_BMON, 0, 1), (F.UNIT_EN_B_SYNC, 0, 1),
                (F.SYNC_SEL_OBJ, 0, 4)],
    trace := { l.trace with watches := [(4, { watch0 with addr := 0x1004 })] } }

def w134 : State := on w38 fun l =>
  { l with
    rf := regs [(F.UNIT_EN_L_SYNC, 0, 1)],
    trace := { l.trace with hang := some ⟨⟨.mgmt, 0, 0, false, 0, 7, true, 50⟩, [], 0, []⟩ } }

def w135 : State := on lantern fun l =>
  { l with boot := { l.boot with st := { l.boot.st with celPresent := 1 } } }

def w136 : State := on w134 fun l =>
  { l with trace := { l.trace with hang := some ⟨⟨.mgmt, 0, 0, false, 0, 7, true, 50⟩, [4], 0, []⟩ } }

def w137 : State := on w135 fun l =>
  { l with boot := { l.boot with st := { l.boot.st with celPresent := 0 } } }

def w138 : State := on w135 fun l =>
  { l with flt := { l.flt with rpl := { l.flt.rpl with st := .logging, plan := 9, len := 4096 } } }

def w139 : State := on w135 fun l =>
  { l with
    plans := [(9, { plan0 with state := .running, image := [0x90000, 0x4d01400005, 0, 0, 0, 0, 0, 0] })] }

def w140 : State := on w135 fun l => { l with rf := regs [(F.UNIT_EN_CEL_CEL, 0, 0)] }

def w141 : State := on w135 fun l =>
  { l with
    plans := [(9,
               { plan0 with
                 state := .verified, image := [0x90000, 0x4d01400005, 0, 0, 0, 0, 0, 0],
                 crc := 0x7e22b89f })],
    flt := { l.flt with rpl := { l.flt.rpl with base := 2048, recs := [rec1, rec2] } } }

def w142 : State := on w141 fun l =>
  { l with
    flt := { l.flt with
             rpl := { l.flt.rpl with
                      st := .replaying, plan := 9, bytes := 32, pos := 1,
                      reply := some ⟨.mgmt, 0, 0, false, 0, 7, true, 50⟩ } } }

def w143 : State := on w135 fun l =>
  { l with
    rf := regs [(F.PCOPY_TRUNK, 1, 9), (F.PCOPY_VALID, 1, 1), (F.PCOPY_SRC_LO, 1, 1),
                (F.PCOPY_SRC_SPAN, 1, 1), (F.REST_CTL_HOLDER, 0, 12)],
    links := [(2, { link0 with st := .up })] }

def w144 : State := on w143 fun l => { l with flt := { l.flt with rest := some ⟨[], [], []⟩ } }

def w145 : State := on w2 fun l => { l with time := { l.time with acc := 0x3e80000000, trunk := none } }

def w146 : State := on w145 fun l =>
  { l with
    plans := [(9,
               { plan0 with
                 state := .loaded, image := [0x4d00000008, 0x8000000000000, 0, 0x2d00ef0000], bytes :=
                                                                                                32,
                 crc := 0xdb573f44 })] }

def w147 : State := on w145 fun l =>
  { l with
    plans := [(9,
               { plan0 with
                 state := .loaded, image := [0x4d00000009, 0x8000000000000, 0, 0x2d00ef0000], bytes :=
                                                                                                32,
                 crc := 0xe6f1ef8f })] }

def w148 : State := on w39 fun l =>
  { l with
    rf := regs [(F.LNK_ROLE_ROLE, 2, 1)], time := { l.time with acc := 0x3e80000000, peers := [] },
    plans := [(9, { plan0 with state := .loaded, image := words9, bytes := 8504, crc := 0x42eedeee })] }

def w149 : State := on w148 fun l =>
  { l with
    plans := [(9, { plan0 with state := .loaded, image := words10, bytes := 8504, crc := 0x40c0351f })] }

def w150 : State := on w148 fun l =>
  { l with
    plans := [(9, { plan0 with state := .loaded, image := words11, bytes := 8504, crc := 0x10ca6007 })] }

def w151 : State := on w148 fun l =>
  { l with
    plans := [(9, { plan0 with state := .armed, image := words9, bytes := 8504, crc := 0x42eedeee })] }

def w152 : State := on w145 fun l =>
  { l with
    time := { l.time with
              cmps := [⟨.start 20, 5, 0⟩, ⟨.start 21, 5, 0⟩, ⟨.start 22, 5, 0⟩, ⟨.start 23, 5, 0⟩,
                       ⟨.start 24, 5, 0⟩, ⟨.start 25, 5, 0⟩, ⟨.start 26, 5, 0⟩, ⟨.start 27, 5, 0⟩,
                       ⟨.start 28, 5, 0⟩, ⟨.start 29, 5, 0⟩, ⟨.start 30, 5, 0⟩, ⟨.start 31, 5, 0⟩,
                       ⟨.start 32, 5, 0⟩, ⟨.start 33, 5, 0⟩, ⟨.start 34, 5, 0⟩, ⟨.start 35, 5, 0⟩,
                       ⟨.start 36, 5, 0⟩, ⟨.start 37, 5, 0⟩, ⟨.start 38, 5, 0⟩, ⟨.start 39, 5, 0⟩,
                       ⟨.start 40, 5, 0⟩, ⟨.start 41, 5, 0⟩, ⟨.start 42, 5, 0⟩, ⟨.start 43, 5, 0⟩,
                       ⟨.start 44, 5, 0⟩, ⟨.start 45, 5, 0⟩, ⟨.start 46, 5, 0⟩, ⟨.start 47, 5, 0⟩,
                       ⟨.start 48, 5, 0⟩, ⟨.start 49, 5, 0⟩, ⟨.start 50, 5, 0⟩] },
    plans := [(9,
               { plan0 with
                 state := .armed, image := [0x4d00000009, 0, 0, 0x2d00ef0000], bytes := 32,
                 crc := 0x9db9fed7, d := 0x4c4b40, tdEn := true, done := 3 })] }

def w153 : State := on buoy fun l =>
  { l with
    plans := [(9,
               { plan0 with
                 state := .verified, image := [0x4d00000109, 0x8000000000000, 0, 0x2d00ef0000, 0xa],
                 bytes := 40, crc := 0x7b44d7e9 })] }

def w154 : State := on w148 fun l => { l with plans := [] }

def w155 : State := on w152 fun l =>
  { l with
    plans := [(9,
               { plan0 with
                 state := .running, image := [0x4d00000008, 0x8000000000000, 0, 0x2d00ef0000],
                 bytes := 32, crc := 0xdb573f44, d := 0x4c4b40, tdEn := true, done := 3 })] }

def w156 : State := on w145 fun l =>
  { l with
    plans := [(9,
               { plan0 with
                 state := .armed, image := [0x4d00000009, 0x8000000000000, 0, 0x2d00ef0000], bytes := 32,
                 crc := 0xe6f1ef8f })] }

def w157 : State := on w145 fun l =>
  { l with
    time := { l.time with
              cmps := [⟨.start 20, 5, 0⟩, ⟨.start 21, 5, 0⟩, ⟨.start 22, 5, 0⟩, ⟨.start 23, 5, 0⟩,
                       ⟨.start 24, 5, 0⟩, ⟨.start 25, 5, 0⟩, ⟨.start 26, 5, 0⟩, ⟨.start 27, 5, 0⟩,
                       ⟨.start 28, 5, 0⟩, ⟨.start 29, 5, 0⟩, ⟨.start 30, 5, 0⟩, ⟨.start 31, 5, 0⟩,
                       ⟨.start 32, 5, 0⟩, ⟨.start 33, 5, 0⟩, ⟨.start 34, 5, 0⟩, ⟨.start 35, 5, 0⟩,
                       ⟨.start 36, 5, 0⟩, ⟨.start 37, 5, 0⟩, ⟨.start 38, 5, 0⟩, ⟨.start 39, 5, 0⟩,
                       ⟨.start 40, 5, 0⟩, ⟨.start 41, 5, 0⟩, ⟨.start 42, 5, 0⟩, ⟨.start 43, 5, 0⟩,
                       ⟨.start 44, 5, 0⟩, ⟨.start 45, 5, 0⟩, ⟨.start 46, 5, 0⟩, ⟨.start 47, 5, 0⟩,
                       ⟨.start 48, 5, 0⟩, ⟨.start 49, 5, 0⟩, ⟨.start 50, 5, 0⟩, ⟨.start 51, 5, 0⟩] },
    plans := [(9,
               { plan0 with
                 state := .armed, image := [0x4d00000009, 0x8000000000000, 0, 0x2d00ef0000], bytes := 32,
                 crc := 0xe6f1ef8f, done := 3 })] }

def w158 : State := on w153 fun l =>
  { l with
    rf := regs [(F.UNIT_EN_B_SENS, 0, 0)],
    time := { l.time with acc := 0x3e80000000, state := .locked } }

def w159 : State := on w153 fun l =>
  { l with
    rf := regs [(F.QUE_CFG_NOTICE, 0, 1), (F.QUE_CFG_NOTICE, 1, 1), (F.QUE_CFG_NOTICE, 2, 1),
                (F.QUE_CFG_NOTICE, 3, 1), (F.QUE_CFG_NOTICE, 4, 1), (F.QUE_CFG_NOTICE, 5, 1),
                (F.QUE_CFG_NOTICE, 6, 1), (F.QUE_CFG_NOTICE, 7, 1), (F.QUE_CFG_NOTICE, 8, 1),
                (F.QUE_CFG_NOTICE, 9, 1), (F.QUE_CFG_NOTICE, 10, 1), (F.QUE_CFG_NOTICE, 11, 1),
                (F.QUE_CFG_NOTICE, 12, 1), (F.QUE_CFG_NOTICE, 13, 1), (F.QUE_CFG_NOTICE, 14, 1),
                (F.QUE_CFG_NOTICE, 15, 1)] }

def w160 : State := on buoy fun l =>
  { l with
    time := { l.time with acc := 0x50000000 },
    plans := [(9,
               { plan0 with
                 state := .verified, image := [0x4d00000009, 0x8000000000000, 0, 0x2d00ef0000],
                 bytes := 32, crc := 0xe6f1ef8f })] }

def w161 : State := on w159 fun l =>
  { l with
    time := { l.time with acc := 0x3e80000000, state := .locked },
    plans := [(9,
               { plan0 with
                 state := .armed, image := [0x4d00000009, 0x8000000000000, 0, 0x2d00ef0000], bytes := 32,
                 crc := 0xe6f1ef8f, lastLatched := some 3 })] }

def w162 : State := on w160 fun l =>
  { l with time := { l.time with acc := 0x3e80000000, state := .locked } }

def w163 : State := on w152 fun l =>
  { l with
    plans := [(9,
               { plan0 with
                 state := .verified, image := [0x4d00000009, 0x8000000000000, 0, 0x2d00ef0000],
                 bytes := 32, crc := 0xe6f1ef8f, d := 0x4c4b40, tdEn := true, done := 3 })] }

def w164 : State := on w148 fun l =>
  { l with
    rf := regs [(F.SCH_CTL_GRID_EN, 0, 1), (F.SCH_NEXT_B, 0, 500000), (F.LNK_ROLE_ROLE, 2, 1)],
    plans := [(9, { plan0 with state := .verified, image := words12, bytes := 112, crc := 0xbf7ccf64 })] }

def w165 : State := on w164 fun l => { l with rf := regs [(F.LNK_ROLE_ROLE, 2, 1)] }

def w166 : State := on w164 fun l =>
  { l with
    plans := [(9,
               { plan0 with
                 state := .verified, image := words13, bytes := 112, crc := 0x2c448e09, d := 0x4c4b40,
                 tdEn := true, pendCuts := [(0x46, 1), (0x50, 2), (0x5a, 3)] })] }

def w167 : State := on w164 fun l =>
  { l with
    plans := [(9,
               { plan0 with
                 state := .verified, image := words12, bytes := 112, crc := 0xbf7ccf64, d := 0x4c4b40,
                 tdEn := true, pendCuts := [(0x46, 1), (0x50, 2), (0x5a, 3)] })] }

def w168 : State := on w161 fun l => { l with rf := [] }

def w169 : State := on w164 fun l =>
  { l with
    plans := [(9,
               { plan0 with
                 state := .verified, image := words12, bytes := 112, crc := 0xbf7ccf64,
                 lastT := some 0x927c0, done := 3,
                 pendCuts := [(0x46, 1), (0x50, 2), (0x5a, 3), (4, 5)] })] }

def w170 : State := on w148 fun l =>
  { l with
    plans := [(9, { plan0 with state := .armed, image := words12, bytes := 112, crc := 0xbf7ccf64 })] }

def w171 : State := on w164 fun l =>
  { l with
    plans := [(9,
               { plan0 with
                 state := .armed, image := words12, bytes := 112, crc := 0xbf7ccf64,
                 lastT := some 0x927c0, done := 3,
                 pendCuts := [(0x46, 1), (0x50, 2), (0x5a, 3), (4, 5)] })] }

def w172 : State := on w148 fun l =>
  { l with
    rf := regs [(F.SCH_CTL_GRID_EN, 0, 1), (F.SCH_NEXT_B, 0, 500000)],
    plans := [(9,
               { plan0 with
                 state := .running, image := words14, bytes := 248, crc := 0x1da62517, armSeq := 1,
                 d := 0x895440, seen := [(1, 1, 0), (3, 1, 0), (4, 1, 0), (5, 1, 0), (6, 1, 7)] })],
    links := [(2, { link0 with st := .up }), (3, { link0 with st := .up }),
              (4, { link0 with st := .up })] }

def w173 : State := on w172 fun l =>
  { l with
    plans := [(9,
               { plan0 with
                 state := .verified, image := words15, bytes := 248, crc := 0xfbafe3ce, d := 0x895440 })] }

def w174 : State := on w172 fun l =>
  { l with
    plans := [(9,
               { plan0 with
                 state := .arming, image := words15, bytes := 248, crc := 0xfbafe3ce, armSeq := 1,
                 d := 0x895440 })] }

def w175 : State := on w172 fun l =>
  { l with
    plans := [(9,
               { plan0 with
                 state := .arming, image := words15, bytes := 248, crc := 0xfbafe3ce, d := 0x895440 })] }

def w176 : State := on w172 fun l => { l with plans := [] }

def w177 : State := on w172 fun l =>
  { l with
    plans := [(9,
               { plan0 with
                 state := .armed, image := words15, bytes := 248, crc := 0xfbafe3ce, armSeq := 1,
                 d := 0x895440 })] }

def w178 : State := on w172 fun l =>
  { l with
    plans := [(9,
               { plan0 with
                 state := .armed, image := words16, bytes := 248, crc := 0xf8f8a47e, armSeq := 1,
                 d := 0x895440 })] }

def w179 : State := on w172 fun l =>
  { l with
    time := { l.time with
              cmps := [⟨.start 20, 5, 0⟩, ⟨.start 21, 5, 0⟩, ⟨.start 22, 5, 0⟩, ⟨.start 23, 5, 0⟩,
                       ⟨.start 24, 5, 0⟩, ⟨.start 25, 5, 0⟩, ⟨.start 26, 5, 0⟩, ⟨.start 27, 5, 0⟩,
                       ⟨.start 28, 5, 0⟩, ⟨.start 29, 5, 0⟩, ⟨.start 30, 5, 0⟩, ⟨.start 31, 5, 0⟩,
                       ⟨.start 32, 5, 0⟩, ⟨.start 33, 5, 0⟩, ⟨.start 34, 5, 0⟩, ⟨.start 35, 5, 0⟩,
                       ⟨.start 36, 5, 0⟩, ⟨.start 37, 5, 0⟩, ⟨.start 38, 5, 0⟩, ⟨.start 39, 5, 0⟩,
                       ⟨.start 40, 5, 0⟩, ⟨.start 41, 5, 0⟩, ⟨.start 42, 5, 0⟩, ⟨.start 43, 5, 0⟩,
                       ⟨.start 44, 5, 0⟩, ⟨.start 45, 5, 0⟩, ⟨.start 46, 5, 0⟩, ⟨.start 47, 5, 0⟩,
                       ⟨.start 48, 5, 0⟩, ⟨.start 49, 5, 0⟩, ⟨.start 50, 5, 0⟩, ⟨.start 51, 5, 0⟩,
                       ⟨.start 52, 5, 0⟩, ⟨.start 53, 5, 0⟩, ⟨.start 54, 5, 0⟩, ⟨.start 55, 5, 0⟩,
                       ⟨.start 56, 5, 0⟩, ⟨.start 57, 5, 0⟩, ⟨.start 58, 5, 0⟩, ⟨.start 59, 5, 0⟩,
                       ⟨.start 60, 5, 0⟩, ⟨.start 61, 5, 0⟩, ⟨.start 62, 5, 0⟩, ⟨.start 63, 5, 0⟩,
                       ⟨.start 64, 5, 0⟩, ⟨.start 65, 5, 0⟩, ⟨.start 66, 5, 0⟩, ⟨.start 67, 5, 0⟩,
                       ⟨.start 68, 5, 0⟩, ⟨.start 69, 5, 0⟩, ⟨.start 70, 5, 0⟩, ⟨.start 71, 5, 0⟩,
                       ⟨.start 72, 5, 0⟩, ⟨.start 73, 5, 0⟩, ⟨.start 74, 5, 0⟩, ⟨.start 75, 5, 0⟩,
                       ⟨.start 76, 5, 0⟩, ⟨.start 77, 5, 0⟩, ⟨.start 78, 5, 0⟩, ⟨.start 79, 5, 0⟩,
                       ⟨.start 80, 5, 0⟩, ⟨.start 81, 5, 0⟩, ⟨.start 82, 5, 0⟩, ⟨.start 83, 5, 0⟩] },
    plans := [(9,
               { plan0 with
                 state := .armed, image := words15, bytes := 248, crc := 0xfbafe3ce, armSeq := 1 })] }

def w180 : State := on w172 fun l =>
  { l with
    plans := [(9,
               { plan0 with
                 state := .arming, image := words17, bytes := 248, crc := 0x21b13c54, s := 0x42c1d80,
                 lant := 1, buoy := 3 })] }

def w181 : State := on w172 fun l =>
  { l with
    plans := [(9,
               { plan0 with
                 state := .verified, image := words17, bytes := 248, crc := 0x21b13c54, s := 0x42c1d80,
                 lant := 1, buoy := 3 })] }

def w182 : State := on w180 fun l => { l with time := { l.time with acc := 0x1c9c3800000000 } }

def w183 : State := on w182 fun l =>
  { l with
    plans := [(9,
               { plan0 with
                 state := .arming, image := words18, bytes := 272, crc := 0x9678c, s := 0x42c1d80,
                 lant := 2, buoy := 3, lostUp := [7], upAbort := true,
                 lostSet := [20, 21, 22, 23, 24, 25, 26, 27, 28, 29, 30, 31, 32, 33, 34, 35] })] }

def w184 : State := on w182 fun l =>
  { l with
    plans := [(9,
               { plan0 with
                 state := .arming, image := words19, bytes := 256, crc := 0xd6fe788b, s := 0x42c1d80,
                 lant := 1, buoy := 3 })] }

def w185 : State := on w172 fun l =>
  { l with
    time := { l.time with acc := 0x42c1d800000000 },
    plans := [(9,
               { plan0 with
                 state := .arming, image := words17, bytes := 248, crc := 0x21b13c54, s := 0x42c1d80,
                 lant := 1, buoy := 3 }),
              (10,
               { plan0 with
                 state := .verified, image := words17, bytes := 248, crc := 0x21b13c54, standby := true })] }

def w186 : State := on w145 fun l =>
  { l with
    time := { l.time with acc := 0xc3b40000000, cmps := [⟨.start 9, 0xbb8, 0⟩] },
    plans := [(9,
               { plan0 with
                 state := .armed, image := [0x4d00000109, 0x7a120, 0, 0x2d00ef0000, 2], bytes := 40,
                 crc := 0x461e06bc, s := 0xbb8 })] }

def w187 : State := on w186 fun l =>
  { l with
    plans := [(9,
               { plan0 with
                 state := .armed, image := [0x4d00000009, 0x8000000000000, 0, 0x2d00ef0000], bytes := 32,
                 crc := 0xe6f1ef8f, s := 0xbb8 })] }

def w188 : State := on w145 fun l =>
  { l with
    time := { l.time with acc := 0x640000000, cmps := [⟨.start 9, 0x12c, 0⟩] },
    plans := [(9,
               { plan0 with
                 state := .armed, image := [0x4d00000009, 0x8000000000000, 0, 0x2d00ef0000], bytes := 32,
                 crc := 0xe6f1ef8f, s := 0x12c })] }

def w189 : State := on w145 fun l =>
  { l with
    time := { l.time with acc := 0x3840000000, cmps := [⟨.teardown 9, 0x64, 0⟩] },
    plans := [(9,
               { plan0 with
                 state := .running, image := [0x4d00000009, 0x8000000000000, 0, 0x2d00ef0000],
                 bytes := 32, crc := 0xe6f1ef8f, s := 7, d := 0x64, tdEn := true }),
              (10,
               { plan0 with
                 state := .verified, image := [0x4d00000009, 0x8000000000000, 0, 0x2d00ef0000],
                 bytes := 32, crc := 0xe6f1ef8f, standby := true })] }

def w190 : State := on w189 fun l =>
  { l with
    plans := [(9,
               { plan0 with
                 state := .running, image := [0x4d00000009, 0x8000000000000, 0, 0x2d00ef0000],
                 bytes := 32, crc := 0xe6f1ef8f, s := 7, d := 0x64, tdEn := true, cond := some 10 }),
              (10,
               { plan0 with
                 state := .verified, image := [0x4d00000009, 0x8000000000000, 0, 0x2d00ef0000],
                 bytes := 32, crc := 0xe6f1ef8f, standby := true })] }

def w191 : State := on w182 fun l =>
  { l with
    plans := [(9,
               { plan0 with
                 state := .arming, image := words17, bytes := 248, crc := 0x21b13c54, s := 0x42c1d80,
                 lant := 2, buoy := 3, lostUp := [7], upAbort := true,
                 lostSet := [20, 21, 22, 23, 24, 25, 26, 27, 28, 29, 30, 31, 32, 33, 34, 35] })] }

def w192 : State := on w184 fun l => { l with time := { l.time with acc := 0x3e80000000 } }

def w193 : State := on w172 fun l =>
  { l with
    plans := [(9,
               { plan0 with
                 state := .running, image := words19, bytes := 256, crc := 0xd6fe788b, s := 0x42c1d80,
                 lant := 1, buoy := 3 })] }

def w194 : State := on w172 fun l =>
  { l with
    time := { l.time with acc := 0x2625de80000000 },
    plans := [(9,
               { plan0 with
                 state := .running, image := words18, bytes := 272, crc := 0x9678c, s := 0x42c1d80,
                 lant := 1, buoy := 3 }),
              (10,
               { plan0 with
                 state := .verified, image := words18, bytes := 272, crc := 0x9678c, standby := true })] }

def w195 : State := on w172 fun l =>
  { l with
    plans := [(9,
               { plan0 with
                 state := .running, image := words19, bytes := 256, crc := 0xd6fe788b, s := 0x42c1d80,
                 lant := 2, buoy := 3, lostUp := [7], upAbort := true,
                 lostSet := [20, 21, 22, 23, 24, 25, 26, 27, 28, 29, 30, 31, 32, 33, 34, 35] })] }

def w196 : State := on w176 fun l => { l with rf := regs [(F.SCH_GRID_ORG_ORG, 0, 5000000)] }

def w197 : State := on w176 fun l => { l with rf := regs [(F.SCH_GRID_ORG_ORG, 0, 5)] }

def w198 : State := on w60 fun l =>
  { l with
    time := { l.time with acc := 0x3840000000, state := .locked, cmps := [⟨.cuts 9, 0x3e8, 500000⟩] },
    plans := [(9,
               { plan0 with
                 state := .running, image := [0x4d00000109, 0x7a120, 0, 0x2d00ab0000, 9], bytes := 40,
                 crc := 0xc7df3543, d := 0x4b0, tdEn := true, epochNext := 4, nextT := 0x3e8,
                 prev := [(0, 7), (1, 3)] })], mem := { l.mem with bad := [] } }

def w199 : State := on w198 fun l => { l with time := { l.time with acc := 0x7d00000000 } }

def w200 : State := on w199 fun l =>
  { l with
    plans := [(9,
               { plan0 with
                 state := .running, image := [0x4d00000109, 0x7a120, 0, 0x2d00ab0000, 9], bytes := 40,
                 crc := 0xc7df3543, epochNext := 65535, nextT := 0x3e8 })] }

def w201 : State := on w172 fun l =>
  { l with
    rf := [],
    time := { l.time with
              acc := 0x7d00000000,
              peers := [(0, { peer0 with lock := true, hist := [true] }),
                        (3, { peer0 with lock := true, hist := [true] })],
              cmps := [⟨.cuts 9, 0x3e8, 500000⟩] },
    plans := [(9,
               { plan0 with
                 state := .running, image := words20, bytes := 384, crc := 0xe23345fb, d := 0xfa0,
                 epochNext := 7, nextT := 0x3e8, rejBuoys := [(7, 0)] })] }

def w202 : State := on w198 fun l =>
  { l with
    plans := [(9,
               { plan0 with
                 state := .running, image := [0x4d00000109, 0x7a120, 0, 0xe0001, 9], bytes := 40,
                 crc := 0x426c7855, nextT := 0x3e8,
                 kept := some ⟨0x3e8, 5, [0x7b, 9, 0x2000000000000], [], false, false, false, none⟩ })] }

def w203 : State := on w198 fun l =>
  { l with
    plans := [(9,
               { plan0 with
                 state := .running, image := [0x4d00000109, 0x7a120, 0, 0x2d00ab0000, 9], bytes := 40,
                 crc := 0xc7df3543, nextT := 0x3e8,
                 kept := some ⟨0x3e8, 6, [0x7b, 9, 0x2000000000000], [], false, false, true, none⟩ })] }

def w204 : State := on w201 fun l => { l with time := { l.time with acc := 0x3840000000 } }

def w205 : State := on w204 fun l =>
  { l with
    time := { l.time with cmps := [] },
    plans := [(9,
               { plan0 with
                 state := .running, image := words20, bytes := 384, crc := 0xe23345fb, d := 0xfa0,
                 epochNext := 7, nextT := 0x3e8,
                 oc := some ⟨0x3e8, 5, [(0, .waiting), (3, .waiting), (5, .unsampled), (6, .absent)], [],
                             [], false, part0, part0, 0, [], none, [], [], [], ⟨0, 0, 0, none⟩, false,
                             part0, part0, false, 0⟩, rejBuoys := [(7, 0)] })] }

def w206 : State := on w205 fun l => { l with time := { l.time with acc := 0x7d00000000 } }

def w207 : State := on w205 fun l => { l with time := { l.time with acc := 0x9c400000000 } }

def w208 : State := on w201 fun l =>
  { l with
    time := { l.time with acc := 0x30d400000000 },
    plans := [(9,
               { plan0 with
                 state := .running, image := words21, bytes := 384, crc := 0x6650ac6f, d := 0xfa0,
                 tdEn := true, epochNext := 7, nextT := 0x3e8, rejBuoys := [(7, 0)] })] }

def w209 : State := on w205 fun l =>
  { l with
    plans := [(9,
               { plan0 with
                 state := .running, image := words20, bytes := 384, crc := 0xe23345fb, d := 0xfa0,
                 epochNext := 7, nextT := 0x3e8,
                 oc := some ⟨0x3e8, 5, [(3, .present), (4, .absent)], [], [], true,
                             { part0 with
                               expect := 4, unsampled := 1,
                               items := [⟨0, 31, 2, 0, 0, 0, none, none, List.replicate 32 0, []⟩,
                                         ⟨1, 3, 0, 0, 0, 0, none, none, List.replicate 32 0, []⟩] },
                             part0, 1, [], none, [], [], [], ⟨0, 0, 0, none⟩, false, part0, part0, false,
                             0⟩, rejBuoys := [(7, 0)] })] }

def w210 : State := on w209 fun l => { l with time := { l.time with acc := 0x9c400000000 } }

def w211 : State := on w208 fun l =>
  { l with
    time := { l.time with cmps := [] },
    plans := [(9,
               { plan0 with
                 state := .running, image := words20, bytes := 384, crc := 0xe23345fb, d := 0xfa0,
                 epochNext := 7, nextT := 0x3e8,
                 oc := some ⟨0x3e8, 5, [(3, .present)], [], [], true,
                             { part0 with
                               expect := 4, unsampled := 1,
                               items := [⟨0, 31, 2, 0, 0, 0, none, none, List.replicate 32 0, []⟩,
                                         ⟨1, 3, 0, 0, 0, 0, none, none, List.replicate 32 0, []⟩] },
                             { part0 with
                               expect := 4, unsampled := 1,
                               items := [⟨0, 31, 2, 0, 0, 0, none, none, List.replicate 32 0, []⟩,
                                         ⟨1, 3, 0, 0, 0, 0, none, none, List.replicate 32 0, []⟩] }, 4,
                             [], none, [], [], [⟨0, false, 0, []⟩], ⟨0, 0, 0, none⟩, false,
                             { part0 with
                               expect := 4, unsampled := 1,
                               items := [⟨0, 31, 2, 0, 0, 0, none, none, List.replicate 32 0, []⟩,
                                         ⟨1, 3, 0, 0, 0, 0, none, none, List.replicate 32 0, []⟩] },
                             part0, true, 1⟩, rejBuoys := [(7, 0)] })] }

def w212 : State := on w205 fun l =>
  { l with
    plans := [(9,
               { plan0 with
                 state := .running, image := words20, bytes := 384, crc := 0xe23345fb, d := 0xfa0,
                 epochNext := 7, nextT := 0x3e8,
                 oc := some ⟨0x3e8, 5, [(3, .present), (4, .absent)], [], [], true,
                             { part0 with
                               expect := 4, unsampled := 1,
                               items := [⟨0, 31, 2, 0, 0, 0, none, none, List.replicate 32 0, []⟩,
                                         ⟨1, 3, 0, 0, 0, 0, none, none, List.replicate 32 0, []⟩] },
                             { part0 with
                               expect := 4, unsampled := 1,
                               items := [⟨0, 31, 2, 0, 0, 0, none, none, List.replicate 32 0, []⟩,
                                         ⟨1, 3, 0, 0, 0, 0, none, none, List.replicate 32 0, []⟩] }, 4,
                             [], some [⟨0, false, true, false, 5, 0⟩], [], [], [⟨0, false, 0, []⟩],
                             ⟨0, 0, 0, none⟩, false, part0, part0, false, 0⟩, rejBuoys := [(7, 0)] })] }

def w213 : State := on w207 fun l =>
  { l with
    plans := [(9,
               { plan0 with
                 state := .running, image := words22, bytes := 384, crc := 0x75b357fe, d := 0xfa0,
                 epochNext := 7, nextT := 0x3e8,
                 oc := some ⟨0x3e8, 5, [(3, .present)], [], [], true,
                             { part0 with
                               expect := 4, unsampled := 1,
                               items := [⟨0, 31, 2, 0, 0, 0, none, none, List.replicate 32 0, []⟩,
                                         ⟨1, 3, 0, 0, 0, 0, none, none, List.replicate 32 0, []⟩] },
                             { part0 with
                               expect := 4, unsampled := 1,
                               items := [⟨0, 31, 2, 0, 0, 0, none, none, List.replicate 32 0, []⟩,
                                         ⟨1, 3, 0, 0, 0, 0, none, none, List.replicate 32 0, []⟩] }, 4,
                             [], none, [7], [], [], ⟨0, 0, 0, none⟩, false, part0, part0, false, 0⟩,
                 rejBuoys := [(7, 0)] })] }

def w214 : State := on w205 fun l =>
  { l with
    plans := [(9,
               { plan0 with
                 state := .running, image := words21, bytes := 384, crc := 0x6650ac6f, d := 0xfa0,
                 epochNext := 7, nextT := 0x3e8,
                 oc := some ⟨0x3e8, 5, [(3, .present), (4, .absent)], [], [], true,
                             { part0 with
                               expect := 4, unsampled := 1,
                               items := [⟨0, 31, 2, 0, 0, 0, none, none, List.replicate 32 0, []⟩,
                                         ⟨1, 3, 0, 0, 0, 0, none, none, List.replicate 32 0, []⟩] },
                             part0, 1, [], none, [], [], [], ⟨0, 0, 0, none⟩, false, part0, part0, false,
                             0⟩, rejBuoys := [(7, 0)] })] }

def w215 : State := on w205 fun l =>
  { l with
    time := { l.time with acc := 0x111700000000 },
    plans := [(9,
               { plan0 with
                 state := .running, image := words20, bytes := 384, crc := 0xe23345fb, d := 0xfa0,
                 epochNext := 7, nextT := 0x3e8,
                 oc := some ⟨0x3e8, 5, [(3, .present)], [], [], true,
                             { part0 with
                               expect := 4, unsampled := 1,
                               items := [⟨0, 31, 2, 0, 0, 0, none, none, List.replicate 32 0, []⟩,
                                         ⟨1, 3, 0, 0, 0, 0, none, none, List.replicate 32 0, []⟩] },
                             { part0 with
                               expect := 4, unsampled := 1,
                               items := [⟨0, 31, 2, 0, 0, 0, none, none, List.replicate 32 0, []⟩,
                                         ⟨1, 3, 0, 0, 0, 0, none, none, List.replicate 32 0, []⟩] }, 4,
                             [], none, [7], [], [], ⟨0, 0, 0, none⟩, false, part0, part0, false, 0⟩,
                 rejBuoys := [(7, 0)] })] }

def w216 : State :=
  { on w70 fun l =>
    { l with
      rf := [],
      plans := [(9,
                 { plan0 with
                   state := .running, image := words23, bytes := 400, crc := 0x69219e94,
                   occs := [⟨0, 5, false, false,
                             { part0 with
                               expect := 256, present := 250, absent := 6,
                               items := [⟨0, 31, 2, 0, 0, 0, none, none, List.replicate 32 0, []⟩] },
                             [(3, [5, 7])], 1, 20⟩] })],
      links := [(2, { link0 with st := .up }), (3, { link0 with st := .up }),
                (4, { link0 with st := .up })],
      eng := { l.eng with
               trees := [(1, { slot0 with image := [0, 5] })],
               seqs := [(2, { slot0 with image := [0x8000020000, 0, 0, 0, 0, 0, 0, 0] })], job := none,
               live := [(147520, ⟨0xfa, [], 0⟩)] },
      trace := { l.trace with syncs := [(3, ⟨0, 9, 1, 0⟩)] } } with
    build := { w70.build with form := .lantern } }

def w217 : State := on w216 fun l =>
  { l with
    plans := [(9,
               { plan0 with
                 state := .running, image := words24, bytes := 400, crc := 0x3f175468,
                 due := [⟨0, 5, false, false,
                          { part0 with
                            expect := 256, present := 250, absent := 6,
                            items := [⟨0, 31, 2, 0, 0, 0, none, none, List.replicate 32 0, []⟩] },
                          [(3, [5, 7])], 1, 20⟩] })],
    ser := { l.ser with
             sers := [(0, { ser0 with on := true, commit := 0x100, ring := [(0, ⟨words2, true⟩)] })] },
    eng := { l.eng with live := [(147520, ⟨0, [], 0⟩)] },
    trace := { l.trace with syncs := [(3, ⟨0, 9, 2, 0⟩)] } }

def w218 : State := on w217 fun l =>
  { l with
    plans := [(9,
               { plan0 with
                 state := .running, image := words23, bytes := 400, crc := 0x69219e94,
                 due := [⟨0, 5, false, false,
                          { part0 with
                            expect := 256, present := 250, absent := 6,
                            items := [⟨0, 31, 2, 0, 0, 0, none, none, List.replicate 32 0, []⟩] },
                          [(3, [5, 7])], 1, 20⟩] })] }

def w219 : State := on w217 fun l =>
  { l with
    plans := [(9,
               { plan0 with
                 state := .running, image := words25, bytes := 400, crc := 0xbded3ff9,
                 due := [⟨2, 5, true, false,
                          { part0 with
                            expect := 256, present := 250, absent := 6,
                            items := [⟨0, 31, 2, 0, 0, 0, none, none, List.replicate 32 0, []⟩] },
                          [(3, [5, 7])], 1, 18⟩],
                 occs := [⟨0, 5, true, false,
                           { part0 with
                             expect := 256, present := 250, absent := 6,
                             items := [⟨0, 31, 2, 0, 0, 0, none, none, List.replicate 32 0, []⟩] },
                           [(3, [5, 7])], 1, 20⟩,
                          ⟨0, 5, true, false,
                           { part0 with
                             expect := 256, present := 250, absent := 6,
                             items := [⟨0, 31, 2, 0, 0, 0, none, none, List.replicate 32 0, []⟩] },
                           [(3, [5, 7])], 1, 20⟩,
                          ⟨0, 5, true, false,
                           { part0 with
                             expect := 256, present := 250, absent := 6,
                             items := [⟨0, 31, 2, 0, 0, 0, none, none, List.replicate 32 0, []⟩] },
                           [(3, [5, 7])], 1, 20⟩,
                          ⟨0, 5, true, false,
                           { part0 with
                             expect := 256, present := 250, absent := 6,
                             items := [⟨0, 31, 2, 0, 0, 0, none, none, List.replicate 32 0, []⟩] },
                           [(3, [5, 7])], 1, 20⟩,
                          ⟨1, 5, false, false,
                           { part0 with
                             expect := 256, present := 250, absent := 6,
                             items := [⟨0, 31, 2, 0, 0, 0, none, none, List.replicate 32 0, []⟩] },
                           [(3, [5, 7])], 1, 19⟩,
                          ⟨1, 5, false, false,
                           { part0 with
                             expect := 256, present := 250, absent := 6,
                             items := [⟨0, 31, 2, 0, 0, 0, none, none, List.replicate 32 0, []⟩] },
                           [(3, [5, 7])], 1, 19⟩,
                          ⟨1, 5, false, false,
                           { part0 with
                             expect := 256, present := 250, absent := 6,
                             items := [⟨0, 31, 2, 0, 0, 0, none, none, List.replicate 32 0, []⟩] },
                           [(3, [5, 7])], 1, 19⟩,
                          ⟨1, 5, false, false,
                           { part0 with
                             expect := 256, present := 250, absent := 6,
                             items := [⟨0, 31, 2, 0, 0, 0, none, none, List.replicate 32 0, []⟩] },
                           [(3, [5, 7])], 1, 19⟩] })] }

def w220 : State := on w217 fun l =>
  { l with
    plans := [(9,
               { plan0 with
                 state := .running, image := words23, bytes := 400, crc := 0x69219e94,
                 occs := [⟨0, 5, true, false,
                           { part0 with
                             expect := 256, present := 250, absent := 6,
                             items := [⟨0, 31, 2, 0, 0, 0, none, none, List.replicate 32 0, []⟩] },
                           [(3, [5, 7])], 1, 20⟩] })] }

def w221 : State := on w216 fun l =>
  { l with
    eng := { l.eng with live := [(147520, ⟨0, [], 0⟩)] },
    trace := { l.trace with syncs := [(3, ⟨0, 9, 2, 0⟩)] },
    mem := { l.mem with bad := [⟨.rows 9 0 5 0, 4, 8⟩] } }

def w222 : State := on w221 fun l =>
  { l with
    ser := { l.ser with
             sers := [(0, { ser0 with on := true, commit := 0x100, ring := [(0, ⟨words2, true⟩)] })] },
    mem := { l.mem with bad := [] } }

def w223 : State := on w217 fun l =>
  { l with
    plans := [(9,
               { plan0 with
                 state := .running, image := words23, bytes := 400, crc := 0x69219e94,
                 occs := [⟨2, 5, false, false,
                           { part0 with
                             expect := 256, present := 250, absent := 6,
                             items := [⟨0, 31, 2, 0, 0, 0, none, none, List.replicate 32 0, []⟩] },
                           [(3, [5, 7])], 1, 18⟩] })] }

def w224 : State := on w223 fun l =>
  { l with
    ser := { l.ser with
             sers := [(0, { ser0 with on := true, commit := 0x100, ring := [(0, ⟨words2, false⟩)] })] },
    eng := { l.eng with live := [(147520, ⟨0xfa, [], 0⟩)] },
    trace := { l.trace with syncs := [(3, ⟨0, 9, 1, 0⟩)] } }

def w225 : State := on w217 fun l =>
  { l with
    plans := [(9,
               { plan0 with
                 state := .running, image := words23, bytes := 400, crc := 0x69219e94,
                 occs := [⟨1, 5, false, false,
                           { part0 with
                             expect := 256, present := 250, absent := 6,
                             items := [⟨0, 31, 2, 0, 0, 0, none, none, List.replicate 32 0, []⟩] },
                           [(3, [5, 7])], 1, 19⟩] })] }

def w226 : State := on w217 fun l =>
  { l with
    plans := [(9,
               { plan0 with
                 state := .running, image := words26, bytes := 400, crc := 0x88697deb,
                 occs := [⟨1, 5, false, false,
                           { part0 with
                             expect := 256, present := 250, absent := 6,
                             items := [⟨0, 31, 2, 0, 0, 0, none, none, List.replicate 32 0, []⟩] },
                           [(3, [5, 7])], 1, 19⟩] })] }

def w227 : State := on w225 fun l =>
  { l with
    ser := { l.ser with
             sers := [(0, { ser0 with on := true, commit := 0x100, ring := [(0, ⟨words2, false⟩)] })] },
    eng := { l.eng with live := [(147520, ⟨0xfa, [], 0⟩)] },
    trace := { l.trace with syncs := [(3, ⟨0, 9, 1, 0⟩)] } }

def w228 : State := on w135 fun l =>
  { l with ser := { l.ser with sers := [(0, { ser0 with on := true }), (9, ser0)] } }

def w229 : State := on w135 fun l => { l with ser := { l.ser with events := [(0, .int (-5) false)] } }

def w230 : State := on w228 fun l => { l with ser := { l.ser with events := [(0, .f32 0x3f800000)] } }

def w231 : State := on w228 fun l => { l with ser := { l.ser with events := [(0, .int (-5) false)] } }

def w232 : State := on w228 fun l =>
  { l with ser := { l.ser with events := [(0, .int 1099511627776 false)] } }

def w233 : State := on w231 fun l => { l with rf := regs [(F.SER_CFG_XFORM, 0, 1)] }

def w234 : State := on w233 fun l =>
  { l with
    ser := { l.ser with
             sers := [(0, { ser0 with on := true, next := 5, prev := some 77, cur := [1, 2] }),
                      (9, ser0)] } }

def w235 : State := on w228 fun l => { l with ser := { l.ser with events := [(0, .fill 1)] } }

def w236 : State := on w135 fun l =>
  { l with
    ser := { l.ser with
             sers := [(0,
                       { ser0 with
                         on := true, coding := [⟨3, List.replicate 256 9⟩, ⟨4, []⟩],
                         writing := [⟨2, ⟨[5, 6], false⟩, true⟩] }), (9, ser0)] } }

def w237 : State := on w135 fun l =>
  { l with
    ser := { l.ser with
             sers := [(0, { ser0 with writing := [⟨2, ⟨[5, 6], false⟩, false⟩] }), (9, ser0)] } }

def w238 : State := on w145 fun l =>
  { l with
    time := { l.time with state := .free, trunk := some 5 },
    shape := { l.shape with sampleAt := some 0x1388 } }

def w239 : State := on w238 fun l =>
  { l with
    rf := regs [(F.SHP_CIR_CIR, 0, 65536), (F.SHP_CIR_CIR, 1, 65536), (F.SHP_CIR_CIR, 2, 65536),
                (F.SHP_CIR_CIR, 3, 65536), (F.SHP_CBS_CBS, 0, 5000), (F.SHP_CBS_CBS, 1, 5000),
                (F.SHP_CBS_CBS, 2, 5000), (F.SHP_CBS_CBS, 3, 5000), (F.SHP_PIR_PIR, 0, 65536),
                (F.SHP_PIR_PIR, 1, 65536), (F.SHP_PIR_PIR, 2, 65536), (F.SHP_PIR_PIR, 3, 65536),
                (F.SHP_PBS_PBS, 0, 5000), (F.SHP_PBS_PBS, 1, 5000), (F.SHP_PBS_PBS, 2, 5000),
                (F.SHP_PBS_PBS, 3, 5000)],
    ques := [(1,
              { que0 with
                recs := [⟨rec3, 0xa, false, 0, none⟩, ⟨rec4, 0xa, false, 40, none⟩], tail := 72,
                head := some (50, 0) })],
    shape := { l.shape with
               cred := [(0, ⟨-100000000, 5⟩), (2, ⟨327680, -7⟩)], ftPrev := 0x384, sampleAt := none } }

def w240 : State := on w239 fun l =>
  { l with
    qws := [(0, { qw0 with en := true, s := 0x1f4, active := true })],
    shape := { l.shape with cred := [] } }

def w241 : State := on w240 fun l => { l with qws := [] }

def w242 : State := on w241 fun l =>
  { l with ques := [], shape := { l.shape with sampleAt := some 0x1388 } }

def w243 : State := on w242 fun l => { l with shape := { l.shape with sampleAt := some 0x3de } }

def w244 : State := on w241 fun l => { l with created := [(5, rec5), (6, rec4)], ques := [] }

def w245 : State := on w241 fun l =>
  { l with
    rf := regs [(F.SHP_CIR_CIR, 0, 65536), (F.SHP_CIR_CIR, 1, 65536), (F.SHP_CIR_CIR, 2, 65536),
                (F.SHP_CIR_CIR, 3, 65536), (F.SHP_CBS_CBS, 0, 5000), (F.SHP_CBS_CBS, 1, 5000),
                (F.SHP_CBS_CBS, 2, 5000), (F.SHP_CBS_CBS, 3, 5000), (F.SHP_PIR_PIR, 0, 65536),
                (F.SHP_PIR_PIR, 1, 65536), (F.SHP_PIR_PIR, 2, 65536), (F.SHP_PIR_PIR, 3, 65536),
                (F.SHP_PBS_PBS, 0, 5000), (F.SHP_PBS_PBS, 1, 5000), (F.SHP_PBS_PBS, 2, 5000),
                (F.SHP_PBS_PBS, 3, 5000), (F.QUE_CFG_CAP, 5, 4)], created := [(5, rec6), (6, rec7)],
    ques := [(5,
              { que0 with
                recs := [⟨rec8, 0, true, 0, none⟩, ⟨rec8, 0, false, 504, none⟩,
                         ⟨rec8, 0, true, 1008, none⟩, ⟨rec8, 0, false, 1512, none⟩], tail := 2016 })] }

def w246 : State := on w245 fun l => { l with created := [(5, rec9), (6, rec7)] }

def w247 : State := on w38 fun l =>
  { l with
    rf := regs [(F.QUE_SEL_QUEUE, 0, 1030), (F.CEL_QLIM_LIM, 0, 4)],
    boot := { l.boot with st := { l.boot.st with celPresent := 3 } }, created := [(1030, rec10)],
    celFail := [1] }

def w248 : State := on w244 fun l =>
  { l with
    ques := [(5,
              { que0 with
                recs := [⟨rec8, 0, true, 0, none⟩, ⟨rec8, 0, false, 504, none⟩,
                         ⟨rec8, 0, true, 1008, none⟩, ⟨rec8, 0, false, 1512, none⟩], tail := 2016 })] }

def w249 : State :=
  { on w95 fun l =>
    { l with
      rf := regs [(F.UNIT_EN_B_SPILL, 0, 1), (F.EGQ_SEL_QUEUE, 0, 5), (F.QUE_MID_MID_BASE, 7, 3),
                  (F.QUE_MIDLEN_MID_PAGES, 7, 100), (F.QMAP_SEL_ENTRY, 0, 9)] } with
    build := { w95.build with spillEn := true } }

def w250 : State := on w95 fun l => { l with rf := regs [(F.EGQ_SEL_QUEUE, 0, 5)] }

def w251 : State := on w249 fun l => { l with rf := [], spillFail := true }

def w252 : State := on w249 fun l =>
  { l with
    rf := regs [(F.UNIT_EN_B_SPILL, 0, 1), (F.EGQ_SEL_QUEUE, 0, 5), (F.QUE_MID_MID_BASE, 5, 3),
                (F.QUE_MIDLEN_MID_PAGES, 5, 100)],
    ques := [(5,
              { que0 with
                recs := [⟨rec8, 0, false, 0, none⟩, ⟨rec8, 0, false, 504, none⟩,
                         ⟨rec8, 0, false, 1008, none⟩, ⟨rec8, 0, false, 1512, none⟩,
                         ⟨rec8, 0, false, 2016, none⟩, ⟨rec8, 0, false, 2520, none⟩,
                         ⟨rec8, 0, false, 3024, none⟩, ⟨rec8, 0, false, 3528, none⟩,
                         ⟨rec8, 0, false, 4032, none⟩, ⟨rec8, 0, false, 4536, none⟩,
                         ⟨rec8, 0, false, 5040, none⟩, ⟨rec8, 0, false, 5544, none⟩,
                         ⟨rec8, 0, false, 6048, none⟩, ⟨rec8, 0, false, 6552, none⟩,
                         ⟨rec8, 0, false, 7056, none⟩, ⟨rec8, 0, false, 7560, none⟩,
                         ⟨rec8, 0, false, 8064, none⟩, ⟨rec8, 0, false, 8568, none⟩,
                         ⟨rec8, 0, false, 9072, none⟩, ⟨rec8, 0, false, 9576, none⟩], tail := 10080,
                midLo := 7, midHi := 12 }),
             (6,
              { que0 with
                recs := [⟨rec8, 0, false, 0, none⟩, ⟨rec8, 0, false, 504, none⟩,
                         ⟨rec8, 0, false, 1008, none⟩, ⟨rec8, 0, false, 1512, none⟩,
                         ⟨rec8, 0, false, 2016, none⟩, ⟨rec8, 0, false, 2520, none⟩,
                         ⟨rec8, 0, false, 3024, none⟩, ⟨rec8, 0, false, 3528, none⟩,
                         ⟨rec8, 0, false, 4032, none⟩, ⟨rec8, 0, false, 4536, none⟩,
                         ⟨rec8, 0, false, 5040, none⟩, ⟨rec8, 0, false, 5544, none⟩,
                         ⟨rec8, 0, false, 6048, none⟩, ⟨rec8, 0, false, 6552, none⟩,
                         ⟨rec8, 0, false, 7056, none⟩, ⟨rec8, 0, false, 7560, none⟩,
                         ⟨rec8, 0, false, 8064, none⟩, ⟨rec8, 0, false, 8568, none⟩,
                         ⟨rec8, 0, false, 9072, none⟩, ⟨rec8, 0, false, 9576, none⟩], tail := 10080,
                midLo := 7, midHi := 8 })] }

def w253 : State := on w38 fun l =>
  { l with
    rf := regs [(F.UNIT_EN_LNK_LNK, 2, 1), (F.LNK_ROLE_ROLE, 4, 1), (F.LNK_ROLE_ROLE, 5, 3),
                (F.LNK_ROLE_DIR, 4, 1)], links := [(2, link0)] }

def w254 : State := on w253 fun l =>
  { l with
    plans := [(9,
               { plan0 with
                 state := .running, image := words27, bytes := 312, crc := 0x36b41a39, armSeq := 1 })] }

def w255 : State := on w253 fun l =>
  { l with
    rf := regs [(F.LNK_ROLE_ROLE, 4, 1), (F.LNK_ROLE_ROLE, 5, 3), (F.LNK_ROLE_DIR, 4, 1)],
    time := { l.time with acc := 0x1312d000000000, trunk := some 5 } }

def w256 : State := on w255 fun l =>
  { l with
    rf := regs [(F.LNK_ROLE_ROLE, 2, 1), (F.LNK_ROLE_ROLE, 4, 1), (F.LNK_ROLE_ROLE, 5, 3),
                (F.LNK_ROLE_DIR, 4, 1)] }

def w257 : State := on w255 fun l =>
  { l with
    rf := regs [(F.LNK_ROLE_ROLE, 2, 1), (F.LNK_ROLE_ROLE, 4, 1), (F.LNK_ROLE_ROLE, 5, 3),
                (F.LNK_ROLE_DIR, 2, 6), (F.LNK_ROLE_DIR, 4, 1)] }

def w258 : State := on w255 fun l => { l with links := [(2, { link0 with st := .training })] }

def w259 : State := on w255 fun l => { l with links := [(2, { link0 with st := .init })] }

def w260 : State := on w255 fun l =>
  { l with
    links := [(2,
               { link0 with
                 st := .up,
                 unacked := [⟨5, 2, [0xcc050300280001, 7, 7, 7, 0x61e14f6a], 0x637bf78600001405,
                              some rec4, none, 4, none⟩] })] }

def w261 : State := on w255 fun l => { l with links := [(2, { link0 with st := .up })] }

def w262 : State := on w255 fun l =>
  { l with
    links := [(2,
               { link0 with
                 st := .up,
                 unacked := [⟨5, 2, [0xcc050300280001, 7, 7, 7, 0x61e14f6a], 0x637bf78600001405,
                              some rec4, none, 32, none⟩,
                             ⟨6, 2, [0xcc050300280001, 7, 7, 7, 0x61e14f6a], 0x71fb033500000406,
                              some rec4, none, 0, none⟩], replays := 16,
                 pln := [⟨[0xcc050300280001, 7, 7, 7, 0x61e14f6a], some rec4, some (9, 1, 0, 0), 0, 0x64,
                          none⟩] })] }

def w263 : State := on w255 fun l =>
  { l with
    links := [(2,
               { link0 with
                 unacked := [⟨5, 2, [0xcc050300280001, 7, 7, 7, 0x61e14f6a], 0x637bf78600001405,
                              some rec4, none, 32, none⟩,
                             ⟨6, 2, [0xcc050300280001, 7, 7, 7, 0x61e14f6a], 0x71fb033500000406,
                              some rec4, none, 0, none⟩], replays := 16,
                 pln := [⟨[0xcc050300280001, 7, 7, 7, 0x61e14f6a], some rec4, some (9, 1, 0, 0), 0, 0x64,
                          none⟩] })] }

def w264 : State := on w255 fun l =>
  { l with
    links := [(2,
               { link0 with
                 ctl := [⟨[0x1405030028000f, 0x100000007, 7, 7, 0x551c20b2], some rec11, none, 3, 0x64,
                          none⟩,
                         ⟨[0xcc050300280001, 7, 7, 7, 0x61e14f6a], some rec4, none, 3, 0x64, none⟩] })] }

def w265 : State := on w255 fun l =>
  { l with
    rf := regs [(F.UNIT_EN_LNK_LNK, 2, 1), (F.LNK_ROLE_ROLE, 2, 2), (F.LNK_ROLE_ROLE, 4, 1),
                (F.LNK_ROLE_ROLE, 5, 3), (F.LNK_ROLE_DIR, 2, 3), (F.LNK_ROLE_DIR, 4, 1)],
    time := { l.time with acc := 0x1f40000000 },
    links := [(2, { link0 with st := .up }), (4, { link0 with st := .up }),
              (5, { link0 with st := .up })] }

def w266 : State := on w265 fun l =>
  { l with
    rf := regs [(F.UNIT_EN_LNK_LNK, 2, 1), (F.LNK_ROLE_ROLE, 2, 1), (F.LNK_ROLE_ROLE, 4, 1),
                (F.LNK_ROLE_ROLE, 5, 3), (F.LNK_ROLE_DIR, 2, 3), (F.LNK_ROLE_DIR, 4, 1)] }

def w267 : State := on w266 fun l =>
  { l with
    links := [(2,
               { link0 with
                 st := .up,
                 unacked := [⟨5, 2, [0xcc050300280001, 7, 7, 7, 0x61e14f6a], 0x637bf78600001405,
                              some rec4, none, 4, none⟩], replay := 1 }), (4, { link0 with st := .up })] }

def w268 : State := on w266 fun l =>
  { l with links := [(2, { link0 with st := .up, statusDue := true }), (4, { link0 with st := .up })] }

def w269 : State := on w266 fun l =>
  { l with links := [(2, { link0 with st := .up }), (4, { link0 with st := .up })] }

def w270 : State := on w266 fun l =>
  { l with
    links := [(2,
               { link0 with
                 st := .up,
                 ctl := [⟨[0xcc050300280001, 7, 7, 7, 0x61e14f6a], some rec4, none, 3, 0x64, none⟩] }),
              (4, { link0 with st := .up })] }

def w271 : State := on w266 fun l =>
  { l with
    links := [(2,
               { link0 with
                 st := .up, peerCtl := 20, peerFwd := 20,
                 ctl := [⟨[0xcc050300280001, 7, 7, 7, 0x61e14f6a], some rec4, none, 3, 0x64, none⟩] }),
              (4, { link0 with st := .up })] }

def w272 : State := on w266 fun l =>
  { l with
    ques := [(34,
              { que0 with
                recs := [⟨rec4, 0xa, false, 0, none⟩, ⟨rec4, 0x14, false, 40, none⟩], tail := 80,
                head := some (1, 0) })],
    links := [(2, { link0 with st := .up, peerCtl := 20, peerFwd := 20 }), (4, { link0 with st := .up })] }

def w273 : State := on w272 fun l =>
  { l with links := [(2, { link0 with st := .up }), (4, { link0 with st := .up })] }

/-- A run of one command, as `CommandsRunInOrderAndNeverStop` supposes. -/
theorem meets_CommandsRunInOrderAndNeverStop : ∃ (s : State) (cs : List Instr) (l : Live),
    after cs.length { s with pending := cs } = some { s with live := l, pending := [] } :=
  ⟨buoy, [.coldReset], Live.cold, by decide +kernel⟩

/-- A command that does not set clocks completes, as `OtherCommandsLeaveClocksCalibrationAndPulses` supposes. -/
theorem meets_OtherCommandsLeaveClocksCalibrationAndPulses : ∃ (c : Instr) (s : State) (l : Live),
    sets c = false ∧ Gives c s l :=
  ⟨.nop (packetOf 0), buoy, (match exec (.nop (packetOf 0)) buoy with | .next t => t.live | _ => ready), rfl, rfl⟩

/-- A step from a canonical state, as `StepKeepsTablesCanonical` supposes. -/
theorem meets_StepKeepsTablesCanonical : ∃ s t : State, Safety.Canonical s.live ∧ step s = .next t :=
  ⟨{ buoy with pending := [.coldReset] }, coldBuoy, by constructor <;> decide +kernel, rfl⟩

set_option maxRecDepth 20000 in
/-- States and operands that meet the hypotheses of `StepRunsFrontCommand`, for each of its clauses. -/
theorem meets_StepRunsFrontCommand :
    (∃ (s : State) (c : Instr) (rest : List Instr), s.pending = c :: rest) ∧
    (∃ (s : State), s.pending = [] ∧ s.startReg = none ∧ s.startHeld = none) ∧
    (∃ (s : State) (a : Nat) (c : Instr) (t : List (Nat × Instr)), s.pending = [] ∧ s.live.regOpen = true
      ∧ s.live.cmd.regHeld = (a, c) :: t ∧ s.live.regWaits s.build a = false) ∧
    (∃ (s : State) (a : Nat) (c : Instr) (t : List (Nat × Instr)), s.pending = [] ∧ s.live.regOpen = true
      ∧ s.live.cmd.regHeld = (a, c) :: t ∧ s.live.regWaits s.build a = true) ∧
    (∃ (s : State) (t : State) (c : Instr), s.pending = [] ∧ s.startReg = none ∧ s.startHeld = some (c,
      t)) ∧
    (∃ (s : State) (x : Busy) (y : Busy), s.live.accepts s.build Port.mgmt = true ∧ s.live.waiting = [x,
      y] ∧ s.live.blocked y.r.port y.c = false ∧ s.live.blocked x.r.port x.c = false) ∧
    (∃ (s : State) (x : Busy) (y : Busy), s.live.accepts s.build Port.mgmt = true ∧ s.live.waiting = [x,
      y] ∧ s.live.blocked y.r.port y.c = false ∧ s.live.blocked x.r.port x.c = true ∧ y.r.port =
      x.r.port) ∧
    (∃ (s : State) (x : Busy) (y : Busy), s.live.accepts s.build Port.mgmt = true ∧ s.live.waiting = [x,
      y] ∧ s.live.blocked y.r.port y.c = false ∧ s.live.blocked x.r.port x.c = true ∧ y.r.port ≠
      x.r.port) :=
  ⟨⟨w1, .swtrig, [.tinValidLow], by decide +kernel⟩,
   ⟨w2, by decide +kernel⟩,
   ⟨w3, 0, .swtrig, [], by decide +kernel⟩,
   ⟨w4, 0, .swtrig, [], by decide +kernel⟩,
   ⟨on buoy fun l =>
    { l with cmd := { l.cmd with held := [⟨⟨.mgmt, 1, 0, false, 0, 0, false, 0⟩, .nop (packetOf 0)⟩] } },
    on buoy fun l =>
    { l with cmd := { l.cmd with starting := some ⟨.mgmt, 1, 0, false, 0, 0, false, 0⟩ } },
    .nop (packetOf 0), by decide +kernel⟩,
   ⟨w5, v1, v2, by decide +kernel⟩,
   ⟨on buoy fun l =>
    { l with
      boot := { l.boot with bmonRst := true },
      cmd := { l.cmd with
               mgmtBuf := some ⟨⟨.mgmt, 1, 0, false, 0, 0, false, 0⟩, .hangDump (packetOf 0)⟩,
               held := [⟨⟨.mgmt, 1, 0, false, 0, 0, false, 0⟩, .nop (packetOf 0)⟩] } },
    ⟨⟨.mgmt, 1, 0, false, 0, 0, false, 0⟩, .hangDump (packetOf 0)⟩,
    ⟨⟨.mgmt, 1, 0, false, 0, 0, false, 0⟩, .nop (packetOf 0)⟩, by decide +kernel⟩,
   ⟨w6, v1, v2, by decide +kernel⟩⟩

set_option maxRecDepth 20000 in
/-- States and operands that meet the hypotheses of `ResetKindsLeaveTheirState`, for each of its clauses. -/
theorem meets_ResetKindsLeaveTheirState :
    (∃ (s : State), s.live.boot.held = true) ∧
    (∃ (s : State), s.live.boot.held = false ∧ s.live.pwr.target = none ∧ s.live.pwr.st = PwrSt.off) ∧
    (∃ (s : State), s.live.regOpen = true ∧ InTurn s) :=
  ⟨⟨coldBuoy, by decide +kernel⟩,
   ⟨w7, by decide +kernel⟩,
   ⟨w1, by decide +kernel⟩⟩

set_option maxRecDepth 20000 in
/-- States and operands that meet the hypotheses of `BootChecksLeadOnOrFail`, for each of its clauses. -/
theorem meets_BootChecksLeadOnOrFail :
    (∃ (s : State), s.live.boot.held = false ∧ s.live.boot.phase = 1 ∧ s.live.boot.st.calPresent = true)
      ∧
    (∃ (s : State), s.live.boot.held = false ∧ s.live.boot.phase = 1 ∧ s.live.boot.st.calPresent = false
      ∧ s.live.boot.calIdx = none ∧ s.live.cal.calf = none ∧ s.live.cal.calu = [] ∧ s.live.clk.switches =
      [] ∧ s.live.clk.coreOn = false ∧ s.live.clk.coreQual = false ∧ s.live.get s.build
      F.GLB_BOOT_CORE_OSC = 0) ∧
    (∃ (s : State), s.live.boot.held = false ∧ s.live.boot.phase = 4) ∧
    (∃ (s : State), s.live.boot.held = false ∧ s.live.boot.phase = 5) ∧
    (∃ (s : State), s.live.boot.held = false ∧ s.live.boot.phase = 5 ∧ s.build.form = Form.lantern) :=
  ⟨⟨w8, by decide +kernel⟩,
   ⟨w9, by decide +kernel⟩,
   ⟨w10, by decide +kernel⟩,
   ⟨w11, by decide +kernel⟩,
   ⟨w12, by decide +kernel⟩⟩

set_option maxRecDepth 20000 in
/-- States and operands that meet the hypotheses of `ReadyAfterMarchTest`, for each of its clauses. -/
theorem meets_ReadyAfterMarchTest :
    ∃ (s : State), s.live.boot.held = false ∧ s.live.boot.phase = 5 ∧ s.live.boot.kind = BootKind.cold ∧
      s.live.boot.early = [] ∧ s.live.log.attic = [] ∧ s.live.get s.build F.LOG_ATTIC_EN = 0 ∧ s.live.get
      s.build F.LOG_CFG_FOG_SEV = 0 ∧ s.live.pwr.st = PwrSt.run ∧ s.live.pwr.target = none ∧ s.live.get
      s.build F.TIME_CFG_FREERUN = 0 ∧ Tab.wf s.live.rf = true :=
  ⟨w11, by decide +kernel⟩

set_option maxRecDepth 20000 in
/-- States and operands that meet the hypotheses of `CalibrationIntakeReadsAllWordsOrNone`, for each of its clauses. -/
theorem meets_CalibrationIntakeReadsAllWordsOrNone :
    (∃ (s : State) (i : Nat), s.live.boot.calIdx = some i ∧ i < 255) ∧
    (∃ (s : State) (w : Word), s.live.boot.calIdx = some 255 ∧ InPhase2 s ∧ (BitVec.toNat (Tab.getD
      (Tab.insert s.live.cal.intake 255 w) 0 0) / 256 % 256 = if s.build.buoy = true then 1 else 2) ∧
      Tab.getD (Tab.insert s.live.cal.intake 255 w) 255 0 = intakeCrc (Tab.insert s.live.cal.intake 255
      w)) ∧
    (∃ (s : State) (w : Word), s.live.boot.calIdx = some 255 ∧ InPhase2 s ∧ s.live.cal.calf = none ∧
      ((BitVec.toNat (Tab.getD (Tab.insert s.live.cal.intake 255 w) 0 0) / 256 % 256 ≠ if s.build.buoy =
      true then 1 else 2) ∨ Tab.getD (Tab.insert s.live.cal.intake 255 w) 255 0 ≠ intakeCrc (Tab.insert
      s.live.cal.intake 255 w))) ∧
    (∃ (s : State) (i : Nat), s.live.boot.calIdx = some i ∧ InPhase2 s) ∧
    (∃ (s : State), s.live.boot.calIdx = none) :=
  ⟨⟨w13, 3, by decide +kernel⟩,
   ⟨w14, 0xe39df33f, by decide +kernel⟩,
   ⟨w15, 0, by decide +kernel⟩,
   ⟨w13, 3, by decide +kernel⟩,
   ⟨w16, by decide +kernel⟩⟩

set_option maxRecDepth 20000 in
/-- States and operands that meet the hypotheses of `PortClocksQualifySwitchAndFallBack`, for each of its clauses. -/
theorem meets_PortClocksQualifySwitchAndFallBack :
    (∃ (s : State), s.live.aonOn = true ∧ s.live.boot.phase ≠ 3) ∧
    (∃ (s : State), s.live.aonOn = true ∧ s.live.boot.phase = 3 ∧ s.live.clk.switches = [] ∧
      s.live.clk.coreOn = false ∧ s.live.get s.build F.GLB_BOOT_CORE_OSC = 0) ∧
    (∃ (s : State), s.live.boot.held = false ∧ s.live.boot.phase = 3 ∧ s.live.clk.coreQual = false ∧
      s.live.get s.build F.GLB_BOOT_CORE_OSC = 0 ∧ s.live.clk.regOn = false ∧ s.live.clk.regQual = false
      ∧ s.live.get s.build F.GLB_BOOT_REG_OSC = 0 ∧ s.live.log.live = false ∧ s.live.boot.early = [] ∧
      Tab.wf s.live.rf = true) ∧
    (∃ (s : State), s.live.boot.held = false ∧ s.live.boot.phase = 3 ∧ s.live.clk.coreQual = false ∧
      s.live.clk.coreOn = false ∧ s.live.get s.build F.GLB_BOOT_CORE_OSC = 0 ∧ s.live.clk.regQual = false
      ∧ s.live.get s.build F.GLB_BOOT_REG_OSC = 0 ∧ s.live.log.live = false ∧ s.live.boot.early = [] ∧
      Tab.wf s.live.rf = true) ∧
    (∃ (s : State) (i : SwIsland) (port : Bool), s.live.clk.switches = [(i, port)] ∧ s.live.clk.waiting =
      none ∧ s.live.boot.phase ≠ 3) ∧
    (∃ (s : State) (i : SwIsland), s.live.aonOn = true ∧ s.live.clk.on i = true ∧ s.live.clk.switches =
      [] ∧ s.live.clk.waiting = none ∧ s.live.boot.phase = 6) ∧
    (∃ (s : State) (i : SwIsland), s.live.aonOn = true ∧ s.live.clk.on i = false) ∧
    (∃ (s : State) (i : SwIsland), s.live.aonOn = true ∧ s.live.clk.on i = true) :=
  ⟨⟨w16, by decide +kernel⟩,
   ⟨w17, by decide +kernel⟩,
   ⟨w17, by decide +kernel⟩,
   ⟨w17, by decide +kernel⟩,
   ⟨w18, .core, true, by decide +kernel⟩,
   ⟨w19, .core, by decide +kernel⟩,
   ⟨w16, .reg, by decide +kernel⟩,
   ⟨w19, .core, by decide +kernel⟩⟩

set_option maxRecDepth 20000 in
/-- States and operands that meet the hypotheses of `ClkSelWritesRejectWaitOrSwitch`, for each of its clauses. -/
theorem meets_ClkSelWritesRejectWaitOrSwitch :
    (∃ (s : State), Served s ∧ s.live.clk.switches = []) ∧
    (∃ (l : Live) (v : Word), (BitVec.getLsbD v 0 = true ∧ l.clk.coreQual = false ∨ BitVec.getLsbD v 1 =
      true ∧ l.clk.regQual = false)) ∧
    (∃ (s : State), Served s ∧ s.live.clk.switches ≠ []) ∧
    (∃ (s : State) (i : SwIsland) (port : Bool) (v : Word), s.live.clk.switches = [(i, port)] ∧
      s.live.clk.waiting = some v ∧ s.live.boot.phase ≠ 3) ∧
    (∃ (s : State) (i : SwIsland) (port : Bool) (v : Word), s.live.clk.switches = [(i, port)] ∧
      s.live.clk.waiting = some v) ∧
    (∃ (s : State) (v : Word), Served s ∧ s.live.clk.switches = [] ∧ (BitVec.getLsbD v 0 = true →
      s.live.clk.coreQual = true) ∧ (BitVec.getLsbD v 1 = true → s.live.clk.regQual = true) ∧ Tab.wf
      s.live.rf = true) :=
  ⟨⟨w20, by decide +kernel⟩,
   ⟨v3, 1, by decide +kernel⟩,
   ⟨w18, by decide +kernel⟩,
   ⟨w21, .reg, true, 3, by decide +kernel⟩,
   ⟨w21, .reg, true, 3, by decide +kernel⟩,
   ⟨w22, 0x40000000, by decide +kernel⟩⟩

set_option maxRecDepth 20000 in
/-- States and operands that meet the hypotheses of `TrimAcquiresAndTracks`, for each of its clauses. -/
theorem meets_TrimAcquiresAndTracks :
    (∃ (s : State), s.live.aonOn = true ∧ TrimBy s TrimSrc.ftTick ∧ s.live.clk.spoilt = some
      TrimSrc.ftTick) ∧
    (∃ (s : State) (i : Nat), s.live.aonOn = true ∧ TrimBy s TrimSrc.ftTick ∧ s.live.clk.spoilt ≠ some
      TrimSrc.ftTick ∧ s.live.clk.acq = true ∧ s.live.clk.bit = i + 1) ∧
    (∃ (s : State), s.live.aonOn = true ∧ TrimBy s TrimSrc.ftTick ∧ s.live.clk.spoilt ≠ some
      TrimSrc.ftTick ∧ s.live.clk.acq = true ∧ s.live.clk.bit = 0 ∧ s.live.get s.build F.OSC_CFG_QMODE =
      0) ∧
    (∃ (s : State), s.live.aonOn = true ∧ TrimBy s TrimSrc.ftTick ∧ s.live.clk.spoilt ≠ some
      TrimSrc.ftTick ∧ s.live.clk.acq = false ∧ 0 < s.live.clk.code ∧ s.live.clk.code < 1023) ∧
    (∃ (s : State) (n : Nat), s.live.aonOn = true ∧ TrimBy s TrimSrc.ftTick ∧ s.live.clk.spoilt ≠ some
      TrimSrc.ftTick ∧ s.live.clk.acq = false ∧ (s.live.clk.code = 0 ∧ s.live.get s.build
      F.OSC_TGT_TARGET + s.live.get s.build F.OSC_TGT_TARGET / 1024 < n ∨ s.live.clk.code = 1023 ∧ n +
      s.live.get s.build F.OSC_TGT_TARGET / 1024 < s.live.get s.build F.OSC_TGT_TARGET)) ∧
    (∃ (s : State), s.live.aonOn = true) ∧
    (∃ (s : State) (v : Word), Served s ∧ Tab.wf s.live.rf = true ∧ BitVec.getLsbD v 2 = false ∧
      BitVec.toNat v % 4 ≠ s.live.get s.build F.OSC_CFG_SRC) :=
  ⟨⟨w23, by decide +kernel⟩,
   ⟨w24, 0, by decide +kernel⟩,
   ⟨w25, by decide +kernel⟩,
   ⟨w26, by decide +kernel⟩,
   ⟨w27, 70000, by decide +kernel⟩,
   ⟨w16, by decide +kernel⟩,
   ⟨w28, 0, by decide +kernel⟩⟩

set_option maxRecDepth 20000 in
/-- States and operands that meet the hypotheses of `WindowCheckFailsOutsideTwoPercent`, for each of its clauses. -/
theorem meets_WindowCheckFailsOutsideTwoPercent :
    (∃ (s : State) (v : Word), Served s ∧ Tab.wf s.live.rf = true ∧ BitVec.getLsbD v 2 = true ∧
      BitVec.getLsbD v 3 = true) ∧
    (∃ (s : State) (v : Word), Served s ∧ Tab.wf s.live.rf = true ∧ (BitVec.getLsbD v 2 = false ∨
      BitVec.getLsbD v 3 = false)) :=
  ⟨⟨w28, 0xd, by decide +kernel⟩,
   ⟨w28, 0, by decide +kernel⟩⟩

set_option maxRecDepth 20000 in
/-- States and operands that meet the hypotheses of `EnablesReadBackAndTimeoutsAnswerZero`, for each of its clauses. -/
theorem meets_EnablesReadBackAndTimeoutsAnswerZero :
    (∃ (s : State), s.live.regOpen = true) ∧
    (∃ (s : State), Served s ∧ s.build.form = Form.lantern ∧ Tab.wf s.live.rf = true ∧ s.live.plans = []
      ∧ (∀ (i : Nat), i < 12 → s.live.flag s.build F.UNIT_EN_CEL_CEL 0 i = true →
      s.live.boot.st.celPresent.getLsbD i = true)) :=
  ⟨⟨w16, by decide +kernel⟩,
   ⟨w29, by decide +kernel⟩⟩

set_option maxRecDepth 20000 in
/-- States and operands that meet the hypotheses of `TimeIncFreerunAndHoldover`, for each of its clauses. -/
theorem meets_TimeIncFreerunAndHoldover :
    (∃ (s : State), Served s ∧ s.live.time.state = TState.free) ∧
    (∃ (s : State), Served s ∧ s.live.time.state ≠ TState.free) ∧
    (∃ (s : State) (v : Word), Served s ∧ s.build.form = Form.lantern ∧ s.live.boot.ready = true ∧
      BitVec.getLsbD v 24 = true ∧ Tab.wf s.live.rf = true) ∧
    (∃ (s : State), s.live.timeOn = true ∧ s.build.form = Form.lantern ∧ s.live.time.state =
      TState.locked ∧ s.live.freerun s.build = false) ∧
    (∃ (s : State), s.live.timeOn = true ∧ s.live.time.state = TState.locked ∧ s.live.freerun s.build =
      false) ∧
    (∃ (s : State), s.live.timeOn = true ∧ s.live.time.slew ≠ 0 ∧ s.live.time.slew.natAbs ≤ s.live.get
      s.build F.TIME_INC_INC * 200 / 1000000) ∧
    (∃ (s : State), (s.live.time.slew = 0 ∨ s.live.get s.build F.TIME_INC_INC * 200 / 1000000 <
      s.live.time.slew.natAbs)) ∧
    (∃ (s : State), s.live.timeOn = true ∧ s.live.time.everLocked = true ∧ 268435456000000 ≤
      s.live.time.msAcc) :=
  ⟨⟨w30, by decide +kernel⟩,
   ⟨w31, by decide +kernel⟩,
   ⟨w32, 0xffffffff, by decide +kernel⟩,
   ⟨w33, by decide +kernel⟩,
   ⟨w34, by decide +kernel⟩,
   ⟨w35, by decide +kernel⟩,
   ⟨w2, by decide +kernel⟩,
   ⟨w35, by decide +kernel⟩⟩

set_option maxRecDepth 20000 in
/-- States and operands that meet the hypotheses of `PhaseEdgeStepsOrSlews`, for each of its clauses. -/
theorem meets_PhaseEdgeStepsOrSlews :
    (∃ (s : State), Listens s ∧ s.live.time.state = TState.free) ∧
    (∃ (s : State) (ns : Word), Listens s ∧ s.live.time.state ≠ TState.free ∧ s.live.get s.build
      F.TIME_CFG_STEP_THR < (phaseError s ns).natAbs ∧ 20 < (phaseError s ns).natAbs) ∧
    (∃ (s : State) (ns : Word), Listens s ∧ s.live.time.state ≠ TState.free ∧ (phaseError s ns).natAbs ≤
      s.live.get s.build F.TIME_CFG_STEP_THR ∧ (20 < (phaseError s ns).natAbs ∨ s.live.time.good < 3)) ∧
    (∃ (s : State) (ns : Word), Listens s ∧ s.live.time.state ≠ TState.free ∧ (phaseError s ns).natAbs ≤
      s.live.get s.build F.TIME_CFG_STEP_THR ∧ (phaseError s ns).natAbs ≤ 20 ∧ 3 ≤ s.live.time.good) ∧
    (∃ (s : State), s.live.freerun s.build = true) :=
  ⟨⟨w16, by decide +kernel⟩,
   ⟨w36, 0x40000000, by decide +kernel⟩,
   ⟨w36, 0, by decide +kernel⟩,
   ⟨w37, 0x40000000, by decide +kernel⟩,
   ⟨w38, by decide +kernel⟩⟩

set_option maxRecDepth 20000 in
/-- States and operands that meet the hypotheses of `LanternExchangesTime`, for each of its clauses. -/
theorem meets_LanternExchangesTime :
    (∃ (s : State), s.live.awake = true ∧ s.build.form = Form.lantern ∧ s.live.time.state ≠ TState.free ∧
      Tab.wf s.live.time.peers = true) ∧
    (∃ (s : State), s.live.awake = true ∧ (s.build.form = Form.buoy ∨ s.live.time.state = TState.free)) ∧
    (∃ (s : State) (n : BitVec 5) (r : Rec), s.live.awake = true ∧ s.build.form = Form.lantern ∧
      s.live.isUp n.toNat = true ∧ s.live.role s.build n.toNat = 2 ∧ Tab.wf s.live.time.peers = true ∧
      r.ty = 14 ∧ r.body.length = 4 ∧ r.poison = false ∧ txKind r = 2 ∧ (s.live.peer (txDst r)).answered
      = false ∧ (s.live.peer (txDst r)).tx = some (txT1 r) ∧ txSeq r = ((s.live.peer (txDst r)).xseq +
      255) % 256) ∧
    (∃ (s : State) (n : BitVec 5) (r : Rec), s.live.awake = true ∧ (s.live.isUp n.toNat = false ∨
      s.live.role s.build n.toNat ≠ 2 ∨ r.poison = true ∨ txKind r ≠ 2 ∨ (s.live.peer (txDst r)).answered
      = true ∨ (s.live.peer (txDst r)).tx ≠ some (txT1 r) ∨ txSeq r ≠ ((s.live.peer (txDst r)).xseq +
      255) % 256)) :=
  ⟨⟨w33, by decide +kernel⟩,
   ⟨buoy, by decide +kernel⟩,
   ⟨w39, 2, rec12, by decide +kernel⟩,
   ⟨buoy, 0, rec13, by decide +kernel⟩⟩

set_option maxRecDepth 20000 in
/-- States and operands that meet the hypotheses of `BuoyAnswersTimeRequests`, for each of its clauses. -/
theorem meets_BuoyAnswersTimeRequests :
    (∃ (s : State) (r : Rec), ReqAt s r ∧ s.live.time.state = TState.free) ∧
    (∃ (s : State) (r : Rec), ReqAt s r ∧ s.live.time.state ≠ TState.free ∧ (txCorr r).natAbs ≤
      s.live.get s.build F.TIME_CFG_STEP_THR) ∧
    (∃ (s : State) (r : Rec), ReqAt s r ∧ s.live.time.state ≠ TState.free ∧ s.live.get s.build
      F.TIME_CFG_STEP_THR < (txCorr r).natAbs) ∧
    (∃ (s : State) (r : Rec), s.live.awake = true ∧ s.build.form = Form.buoy ∧ r.ty = 14 ∧ r.body.length
      = 4 ∧ (txKind r = 1 ∧ txDst r ≠ s.live.boot.st.idLocal.toNat ∨ txKind r ≠ 1 ∧ txKind r ≠ 2)) ∧
    (∃ (s : State) (r : Rec), s.live.awake = true ∧ s.build.form = Form.buoy ∧ r.ty = 14 ∧ (r.body.length
      ≠ 4 ∨ txKind r = 2 ∨ txKind r = 1 ∧ txDst r = s.live.boot.st.idLocal.toNat ∧ r.poison = true)) :=
  ⟨⟨buoy, rec13, by decide +kernel⟩,
   ⟨w31, rec13, by decide +kernel⟩,
   ⟨w31, rec14, by decide +kernel⟩,
   ⟨w40, rec15, by decide +kernel⟩,
   ⟨buoy, rec12, by decide +kernel⟩⟩

set_option maxRecDepth 20000 in
/-- States and operands that meet the hypotheses of `ArmedCountsFireWhenReached`, for each of its clauses. -/
theorem meets_ArmedCountsFireWhenReached :
    (∃ (s : State) (i : Nat) (c : Cmp), (∀ (n : Nat), c.owner ≠ Owner.pulse n) ∧ s.live.time.cmps[i]? =
      some c ∧ s.live.timeOn = true ∧ s.live.pwr.st ≠ PwrSt.idle ∧ reached s.live.ft c.count = true ∧
      c.period = 0 ∧ c.owner ≠ Owner.wake) ∧
    (∃ (s : State) (i : Nat) (c : Cmp), (∀ (n : Nat), c.owner ≠ Owner.pulse n) ∧ s.live.time.cmps[i]? =
      some c ∧ s.live.timeOn = true ∧ s.live.pwr.st ≠ PwrSt.idle ∧ reached s.live.ft c.count = true ∧
      c.period ≠ 0 ∧ c.owner ≠ Owner.wake) ∧
    (∃ (s : State) (i : Nat) (c : Cmp), s.live.time.cmps[i]? = some c ∧ reached s.live.ft c.count =
      false) :=
  ⟨⟨w41, 0, ⟨.start 3, 0x64, 0⟩, nofun, by decide +kernel⟩,
   ⟨w28, 0, ⟨.cuts 2, 0x64, 1000⟩, nofun, by decide +kernel⟩,
   ⟨w42, 0, ⟨.start 3, 0x190, 0⟩, by decide +kernel⟩⟩

set_option maxRecDepth 20000 in
/-- States and operands that meet the hypotheses of `ForwardStepFiresPassedCountsLate`, for each of its clauses. -/
theorem meets_ForwardStepFiresPassedCountsLate :
    (∃ (l : Live) (b : Build) (c : Cmp) (e : Nat), l.time.cmps = [c] ∧ 0 < e ∧ e < 2 ^ 31 ∧ c.period = 0
      ∧ l.qws = [] ∧ l.get b F.SCH_CTL_GRID_EN = 0 ∧ reached l.ft c.count = false ∧ reached (l.ft +
      BitVec.ofNat 32 e) c.count = true ∧ Tab.wf l.rf = true ∧ l.log.live = true) ∧
    (∃ (e : Int), e ≤ 0) :=
  ⟨⟨v5, ⟨.buoy, false, true, .gib64⟩, ⟨.start 3, 0x190, 0⟩, 255, by decide +kernel⟩,
   ⟨0, by decide +kernel⟩⟩

set_option maxRecDepth 20000 in
/-- States and operands that meet the hypotheses of `PulsesRiseAndFall`, for each of its clauses. -/
theorem meets_PulsesRiseAndFall :
    (∃ (s : State) (n : BitVec 3) (t : Word), s.live.timeOn = true ∧ s.live.pulseOn s.build = true ∧
      (s.live.pulse n.toNat).level = false ∧ (s.live.pulse n.toNat).lateRise = false ∧ s.live.firedOf
      (Owner.pulse n.toNat) = some { owner := Owner.pulse n.toNat, count := t } ∧ Tab.wf s.live.pulses =
      true) ∧
    (∃ (s : State) (n : BitVec 3), s.live.timeOn = true ∧ s.live.pulseOn s.build = true ∧ (s.live.pulse
      n.toNat).level = false ∧ (s.live.pulse n.toNat).lateRise = true ∧ Tab.wf s.live.pulses = true ∧
      Tab.wf s.live.rf = true) ∧
    (∃ (s : State) (n : BitVec 3), s.live.timeOn = true ∧ s.live.pulseOn s.build = true ∧ (s.live.pulse
      n.toNat).level = true ∧ reached s.live.ft (s.live.pulse n.toNat).fall = true ∧ (s.live.pulse
      n.toNat).deferred = none ∧ s.live.holdsCmp (Owner.pulse n.toNat) = false) ∧
    (∃ (s : State) (n : BitVec 3) (t : Word) (per : Nat), s.live.timeOn = true ∧ s.live.pulseOn s.build =
      true ∧ (s.live.pulse n.toNat).level = true ∧ reached s.live.ft (s.live.pulse n.toNat).fall = true ∧
      (s.live.pulse n.toNat).deferred = some (t, per, 0) ∧ Tab.wf s.live.pulses = true) ∧
    (∃ (s : State) (n : BitVec 3) (t : Word) (per : Nat) (w : Nat), s.live.timeOn = true ∧ s.live.pulseOn
      s.build = true ∧ (s.live.pulse n.toNat).level = true ∧ reached s.live.ft (s.live.pulse
      n.toNat).fall = true ∧ (s.live.pulse n.toNat).deferred = some (t, per, w) ∧ w ≠ 0 ∧ reached
      s.live.ft t = false ∧ Tab.wf s.live.pulses = true) :=
  ⟨⟨w43, 0, 0x64, by decide +kernel⟩,
   ⟨w44, 1, by decide +kernel⟩,
   ⟨w45, 0, by decide +kernel⟩,
   ⟨w46, 0, 3, 0, by decide +kernel⟩,
   ⟨w47, 1, 0x40000000, 0, 5, by decide +kernel⟩⟩

set_option maxRecDepth 20000 in
/-- States and operands that meet the hypotheses of `QuietWindowsOpenCloseAndArm`, for each of its clauses. -/
theorem meets_QuietWindowsOpenCloseAndArm :
    (∃ (s : State) (k : BitVec 2), s.live.timeOn = true ∧ s.build.form = Form.buoy ∧ (s.live.qw
      k.toNat).en = true ∧ (s.live.qw k.toNat).active = false ∧ reached s.live.ft (s.live.qw k.toNat).s =
      true) ∧
    (∃ (s : State) (k : BitVec 2), s.live.timeOn = true ∧ s.build.form = Form.buoy ∧ (s.live.qw
      k.toNat).active = true ∧ reached s.live.ft ((s.live.qw k.toNat).s + BitVec.ofNat 32 (s.live.get
      s.build F.QW_LEN_LEN k.toNat)) = true) ∧
    (∃ (s : State) (k : Nat), k < 4 ∧ Served s ∧ s.build.form = Form.buoy ∧ Tab.wf s.live.qws = true ∧ (∀
      (j : Fin 4), (s.live.qw ↑j).owner = 0 ∧ (s.live.qw ↑j).en = false) ∧ Tab.wf s.live.rf = true) ∧
    (∃ (s : State) (v : Word), Served s ∧ s.build.form = Form.buoy ∧ (∀ (j : Fin 4), (s.live.qw ↑j).owner
      = 0) ∧ BitVec.toNat v % 16 = 0 ∧ Tab.wf s.live.qws = true) :=
  ⟨⟨w48, 0, by decide +kernel⟩,
   ⟨w49, 1, by decide +kernel⟩,
   ⟨w2, 0, by decide +kernel⟩,
   ⟨w50, 0x40000000, by decide +kernel⟩⟩

set_option maxRecDepth 20000 in
/-- States and operands that meet the hypotheses of `RequestPacketsWaitAndFailTheirFirstChecks`, for each of its clauses. -/
theorem meets_RequestPacketsWaitAndFailTheirFirstChecks :
    (∃ (s : State) (c : Instr) (opc : Nat) (p : Packet), requestOf c = some (opc, p) ∧
      s.live.cmd.starting = none ∧ s.live.accepts s.build p.port = false) ∧
    (∃ (s : State) (c : Instr) (opc : Nat) (p : Packet), requestOf c = some (opc, p) ∧
      s.live.cmd.starting = none ∧ s.live.accepts s.build p.port = true ∧ s.live.mine s.build p = false)
      ∧
    (∃ (s : State) (c : Instr) (opc : Nat) (p : Packet), requestOf c = some (opc, p) ∧
      s.live.cmd.starting = none ∧ s.live.accepts s.build p.port = true ∧ s.live.mine s.build p = true ∧
      s.live.portWaits p.port c = true) ∧
    (∃ (s : State) (c : Instr) (opc : Nat) (p : Packet), requestOf c = some (opc, p) ∧ Starts c s p ∧
      p.words.length ≠ p.len.toNat) ∧
    (∃ (s : State) (c : Instr) (opc : Nat) (p : Packet), requestOf c = some (opc, p) ∧ Starts c s p ∧
      p.words.length = p.len.toNat ∧ p.pchk = true ∧ p.checks opc = false) :=
  ⟨⟨lantern, .nop ⟨.fab, 1, 0x503, true, 0x12345678, 0x5a, 0, false, 0, 0, []⟩, 1,
    ⟨.fab, 1, 0x503, true, 0x12345678, 0x5a, 0, false, 0, 0, []⟩, by decide +kernel⟩,
   ⟨buoy, .nop ⟨.fab, 1, 0x503, true, 0x12345678, 0x5a, 0, false, 0, 0, []⟩, 1,
    ⟨.fab, 1, 0x503, true, 0x12345678, 0x5a, 0, false, 0, 0, []⟩, by decide +kernel⟩,
   ⟨w51, .nop ⟨.mgmt, 1, 0, false, 0x12345678, 0x5a, 1, false, 0, 0, []⟩, 1,
    ⟨.mgmt, 1, 0, false, 0x12345678, 0x5a, 1, false, 0, 0, []⟩, by decide +kernel⟩,
   ⟨buoy, .nop ⟨.mgmt, 1, 0, false, 0x12345678, 0x5a, 1, false, 0, 0, []⟩, 1,
    ⟨.mgmt, 1, 0, false, 0x12345678, 0x5a, 1, false, 0, 0, []⟩, by decide +kernel⟩,
   ⟨buoy, .nop ⟨.mgmt, 1, 0, false, 0x12345678, 0x5a, 1, true, 0, 0, [0xddc19c79]⟩, 1,
    ⟨.mgmt, 1, 0, false, 0x12345678, 0x5a, 1, true, 0, 0, [0xddc19c79]⟩, by decide +kernel⟩⟩

set_option maxRecDepth 20000 in
/-- States and operands that meet the hypotheses of `FormPrivilegeAndLengthChecks`, for each of its clauses. -/
theorem meets_FormPrivilegeAndLengthChecks :
    (∃ (s : State) (opc : BitVec 8) (p : Packet), (¬opc.toNat ∈ opcodes) ∧ Starts (Instr.unknownOpcode
      opc p) s p ∧ p.words.length = p.len.toNat ∧ (p.pchk = true → p.checks opc.toNat = true)) ∧
    (∃ (s : State) (p : Packet), s.build.form = Form.lantern ∧ Starts (Instr.unitRemap p) s p ∧
      p.words.length = p.len.toNat ∧ (p.pchk = true → p.checks 74 = true)) ∧
    (∃ (s : State) (p : Packet), s.build.form = Form.buoy ∧ Starts (Instr.seqQuery p) s p ∧
      p.words.length = p.len.toNat ∧ (p.pchk = true → p.checks 42 = true)) ∧
    (∃ (s : State) (p : Packet), Starts (Instr.regRead p) s p ∧ p.words.length = p.len.toNat ∧ (p.pchk =
      true → p.checks 8 = true) ∧ p.port ≠ Port.mgmt) ∧
    (∃ (s : State) (p : Packet), Starts (Instr.nop p) s p ∧ p.words.length = p.len.toNat ∧ (p.pchk = true
      → p.checks 1 = true) ∧ p.data ≠ []) :=
  ⟨⟨buoy, 0, ⟨.mgmt, 1, 0, false, 0x12345678, 0x5a, 0, false, 0, 0, []⟩, by decide +kernel⟩,
   ⟨lantern, ⟨.mgmt, 1, 0, false, 0x12345678, 0x5a, 0, false, 0, 0, []⟩, by decide +kernel⟩,
   ⟨buoy, ⟨.mgmt, 1, 0, false, 0x12345678, 0x5a, 0, false, 0, 0, []⟩, by decide +kernel⟩,
   ⟨buoy, ⟨.fab, 1, 0x503, false, 0x12345678, 0x5a, 0, false, 0, 0, []⟩, by decide +kernel⟩,
   ⟨buoy, ⟨.mgmt, 1, 0, false, 0x12345678, 0x5a, 1, false, 0, 1, [0]⟩, by decide +kernel⟩⟩

set_option maxRecDepth 20000 in
/-- States and operands that meet the hypotheses of `RepliesLeaveByTheirPort`, for each of its clauses. -/
theorem meets_RepliesLeaveByTheirPort :
    (∃ (status : Nat) (ws : List DWord), status < 256 ∧ ws.length < 4096) ∧
    (∃ (status : Nat) (ws : List DWord), status < 256 ∧ ws.length < 4095) ∧
    (∃ (r : Ret), r.port = Port.mgmt) ∧
    (∃ (b : Build) (r : Ret), b.form = Form.buoy ∧ r.port = Port.fab) ∧
    (∃ (l : Live) (b : Build) (r : Ret) (n : BitVec 5), b.form = Form.lantern ∧ r.port = Port.link n ∧
      l.cmd.order = [{ r := r, reply := none }] ∧ Tab.wf l.links = true) :=
  ⟨⟨0, [], by decide +kernel⟩,
   ⟨0, [], by decide +kernel⟩,
   ⟨⟨.mgmt, 1, 0x503, true, 0x1234, 7, true, 5⟩, by decide +kernel⟩,
   ⟨⟨.buoy, false, true, .gib64⟩, ⟨.fab, 1, 0x503, false, 0x1234, 7, true, 5⟩, by decide +kernel⟩,
   ⟨v7, ⟨.lantern, false, true, .gib64⟩, ⟨.link 2, 1, 0x503, true, 0x1234, 7, false, 5⟩, 2,
    by decide +kernel⟩⟩

set_option maxRecDepth 20000 in
/-- States and operands that meet the hypotheses of `NopIdentAndReplySend`, for each of its clauses. -/
theorem meets_NopIdentAndReplySend :
    (∃ (s : State) (p : Packet), Takes (Instr.nop p) s p 1 0 ∧ p.data = []) ∧
    (∃ (s : State) (p : Packet), Takes (Instr.ident p) s p 2 0 ∧ p.data = []) ∧
    (∃ (s : State) (ws : List DWord) (rest : List (List DWord)), s.live.cmd.mgmtReplies = ws :: rest) ∧
    (∃ (s : State), s.live.cmd.mgmtReplies = []) :=
  ⟨⟨buoy, ⟨.mgmt, 1, 0, false, 0x12345678, 0x5a, 0, false, 0, 0, []⟩, by decide +kernel⟩,
   ⟨buoy, ⟨.mgmt, 1, 0, false, 0x12345678, 0x5a, 0, false, 0, 0, []⟩, by decide +kernel⟩,
   ⟨w52, [5], [[6]], by decide +kernel⟩,
   ⟨buoy, by decide +kernel⟩⟩

set_option maxRecDepth 20000 in
/-- States and operands that meet the hypotheses of `RegReadAndWriteOneRegister`, for each of its clauses. -/
theorem meets_RegReadAndWriteOneRegister :
    (∃ (s : State) (p : Packet), Takes (Instr.regRead p) s p 8 2 ∧ p.data = [] ∧ BitVec.toNat p.arg <
      65536 ∧ (findReg s.build (BitVec.toNat p.arg)).isNone = true) ∧
    (∃ (s : State) (p : Packet), Takes (Instr.regRead p) s p 8 2 ∧ p.data = [] ∧ BitVec.toNat p.arg <
      65536 ∧ (findReg s.build (BitVec.toNat p.arg)).isSome = true ∧ s.live.mem.bad = []) ∧
    (∃ (s : State) (p : Packet), Takes (Instr.regWrite p) s p 9 2 ∧ p.data.length = 1 ∧ BitVec.toNat
      p.arg < 65536 ∧ (findReg s.build (BitVec.toNat p.arg)).isNone = true) ∧
    (∃ (s : State) (p : Packet), Takes (Instr.regWrite p) s p 9 2 ∧ p.data.length = 1 ∧ BitVec.toNat
      p.arg < 65536 ∧ (findReg s.build (BitVec.toNat p.arg)).isSome = true ∧ BitVec.toNat p.arg ≠ 16) ∧
    (∃ (s : State) (p : Packet), Takes (Instr.regWrite p) s p 9 2 ∧ p.data.length = 1 ∧ p.arg = 16 ∧ fld
      (wordAt p.data 0) 0 1 = 1) :=
  ⟨⟨buoy, ⟨.mgmt, 1, 0, false, 0x12345678, 0x5a, 0, false, 0, 1, []⟩, by decide +kernel⟩,
   ⟨buoy, ⟨.mgmt, 1, 0, false, 0x12345678, 0x5a, 0, false, 0, 0, []⟩, by decide +kernel⟩,
   ⟨buoy, ⟨.mgmt, 1, 0, false, 0x12345678, 0x5a, 1, false, 0, 1, [0]⟩, by decide +kernel⟩,
   ⟨buoy, ⟨.mgmt, 1, 0, false, 0x12345678, 0x5a, 1, false, 0, 0x48, [0]⟩, by decide +kernel⟩,
   ⟨buoy, v8, by decide +kernel⟩⟩

set_option maxRecDepth 20000 in
/-- States and operands that meet the hypotheses of `CalWriteAndWordTimeout`, for each of its clauses. -/
theorem meets_CalWriteAndWordTimeout :
    (∃ (s : State) (p : Packet), Takes (Instr.calWrite p) s p 80 2 ∧ p.data.length = 1 ∧ calUsable
      s.build (BitVec.toNat p.arg % 256) = true ∧ (BitVec.toNat p.arg % 256 ≠ 1 ∧ BitVec.toNat p.arg %
      256 ≠ 2 ∨ s.live.trimSrc s.build ≠ none ∨ s.live.clk.acqDone = true)) ∧
    (∃ (s : State) (p : Packet), Takes (Instr.calWrite p) s p 80 2 ∧ p.data.length = 1 ∧ (BitVec.toNat
      p.arg % 256 = 1 ∨ BitVec.toNat p.arg % 256 = 2) ∧ s.live.trimSrc s.build = none ∧
      s.live.clk.acqDone = false) ∧
    (∃ (s : State) (p : Packet), Takes (Instr.calWrite p) s p 80 2 ∧ p.data.length = 1 ∧ calUsable
      s.build (BitVec.toNat p.arg % 256) = false) ∧
    (∃ (s : State), s.live.mgmtRxReady s.build = true ∧ s.live.pwr.st = PwrSt.run ∧ s.live.portBusy
      Port.mgmt = false ∧ (∀ (x : Busy), x ∈ s.live.cmd.held → x.r.port ≠ Port.mgmt) ∧
      s.live.cmd.starting = none ∧ s.live.get s.build F.CMD_CFG_WTMO ≠ 0) ∧
    (∃ (s : State), s.live.mgmtRxReady s.build = true ∧ (s.live.portBusy Port.mgmt = true ∨ ∃ x, x ∈
      s.live.cmd.held ∧ x.r.port = Port.mgmt) ∧ s.live.cmd.starting = none ∧ s.live.get s.build
      F.CMD_CFG_WTMO ≠ 0) ∧
    (∃ (s : State), (s.live.get s.build F.CMD_CFG_WTMO = 0 ∨ s.live.mgmtRxReady s.build = false)) :=
  ⟨⟨buoy, ⟨.mgmt, 1, 0, false, 0x12345678, 0x5a, 1, false, 0, 0x10, [0]⟩, by decide +kernel⟩,
   ⟨buoy, ⟨.mgmt, 1, 0, false, 0x12345678, 0x5a, 1, false, 0, 1, [0]⟩, by decide +kernel⟩,
   ⟨buoy, ⟨.mgmt, 1, 0, false, 0x12345678, 0x5a, 1, false, 0, 0x48, [0]⟩, by decide +kernel⟩,
   ⟨buoy, by decide +kernel⟩,
   ⟨w51, by decide +kernel⟩,
   ⟨coldBuoy, by decide +kernel⟩⟩

set_option maxRecDepth 20000 in
/-- States and operands that meet the hypotheses of `PulseArmChecksThenArms`, for each of its clauses. -/
theorem meets_PulseArmChecksThenArms :
    (∃ (s : State) (p : Packet), Takes (Instr.pulseArm p) s p 112 2 ∧ p.data.length = 2 ∧ s.live.pulseOn
      s.build = true ∧ BitVec.toNat p.arg % 8 < s.build.pulses ∧ (s.live.pulse (BitVec.toNat p.arg %
      8)).deferred = none ∧ (0 < fld (wordAt p.data 1) 0 24 ∧ fld (wordAt p.data 1) 0 24 < 8 ∨ 0 < fld
      (wordAt p.data 1) 0 24 ∧ 0 < fld (wordAt p.data 0) 32 32 ∧ (fld (wordAt p.data 0) 32 32 < 1000 ∨
      fld (wordAt p.data 0) 32 32 < fld (wordAt p.data 1) 0 24 + 8))) ∧
    (∃ (s : State) (p : Packet), Takes (Instr.pulseArm p) s p 112 2 ∧ p.data.length = 2 ∧ s.live.pulseOn
      s.build = true ∧ BitVec.toNat p.arg % 8 < s.build.pulses ∧ (s.live.pulse (BitVec.toNat p.arg %
      8)).deferred = none ∧ 8 ≤ fld (wordAt p.data 1) 0 24 ∧ (fld (wordAt p.data 0) 32 32 = 0 ∨ 1000 ≤
      fld (wordAt p.data 0) 32 32 ∧ fld (wordAt p.data 1) 0 24 + 8 ≤ fld (wordAt p.data 0) 32 32) ∧
      (s.live.time.state = TState.free ∨ s.live.time.state = TState.acquire)) ∧
    (∃ (s : State) (p : Packet), Takes (Instr.pulseArm p) s p 112 2 ∧ p.data.length = 2 ∧ s.live.pulseOn
      s.build = true ∧ BitVec.toNat p.arg % 8 < s.build.pulses ∧ (s.live.pulse (BitVec.toNat p.arg %
      8)).deferred = none ∧ 8 ≤ fld (wordAt p.data 1) 0 24 ∧ (fld (wordAt p.data 0) 32 32 = 0 ∨ 1000 ≤
      fld (wordAt p.data 0) 32 32 ∧ fld (wordAt p.data 1) 0 24 + 8 ≤ fld (wordAt p.data 0) 32 32) ∧
      (s.live.time.state = TState.locked ∨ s.live.time.state = TState.holdover) ∧ (BitVec.toNat
      (BitVec.ofNat 32 (fld (wordAt p.data 0) 0 32) - s.live.ft) < 1000000 ∨ 2000000000 < BitVec.toNat
      (BitVec.ofNat 32 (fld (wordAt p.data 0) 0 32) - s.live.ft))) ∧
    (∃ (s : State) (p : Packet), Takes (Instr.pulseArm p) s p 112 2 ∧ p.data.length = 2 ∧ s.live.pulseOn
      s.build = true ∧ BitVec.toNat p.arg % 8 < s.build.pulses ∧ (s.live.pulse (BitVec.toNat p.arg %
      8)).deferred = none ∧ 8 ≤ fld (wordAt p.data 1) 0 24 ∧ (fld (wordAt p.data 0) 32 32 = 0 ∨ 1000 ≤
      fld (wordAt p.data 0) 32 32 ∧ fld (wordAt p.data 1) 0 24 + 8 ≤ fld (wordAt p.data 0) 32 32) ∧
      (s.live.time.state = TState.locked ∨ s.live.time.state = TState.holdover) ∧ 1000000 ≤ BitVec.toNat
      (BitVec.ofNat 32 (fld (wordAt p.data 0) 0 32) - s.live.ft) ∧ BitVec.toNat (BitVec.ofNat 32 (fld
      (wordAt p.data 0) 0 32) - s.live.ft) ≤ 2000000000 ∧ s.live.cmpFree s.build = false ∧
      s.live.holdsCmp (Owner.pulse (BitVec.toNat p.arg % 8)) = false) ∧
    (∃ (s : State) (p : Packet), Takes (Instr.pulseArm p) s p 112 2 ∧ p.data.length = 2 ∧ s.live.pulseOn
      s.build = true ∧ BitVec.toNat p.arg % 8 < s.build.pulses ∧ (s.live.pulse (BitVec.toNat p.arg %
      8)).deferred = none ∧ 8 ≤ fld (wordAt p.data 1) 0 24 ∧ (fld (wordAt p.data 0) 32 32 = 0 ∨ 1000 ≤
      fld (wordAt p.data 0) 32 32 ∧ fld (wordAt p.data 1) 0 24 + 8 ≤ fld (wordAt p.data 0) 32 32) ∧
      (s.live.time.state = TState.locked ∨ s.live.time.state = TState.holdover) ∧ 1000000 ≤ BitVec.toNat
      (BitVec.ofNat 32 (fld (wordAt p.data 0) 0 32) - s.live.ft) ∧ BitVec.toNat (BitVec.ofNat 32 (fld
      (wordAt p.data 0) 0 32) - s.live.ft) ≤ 2000000000 ∧ (s.live.cmpFree s.build = true ∨
      s.live.holdsCmp (Owner.pulse (BitVec.toNat p.arg % 8)) = true) ∧ (s.live.pulse (BitVec.toNat p.arg
      % 8)).level = true) ∧
    (∃ (s : State) (p : Packet), Takes (Instr.pulseArm p) s p 112 2 ∧ p.data.length = 2 ∧ s.live.pulseOn
      s.build = true ∧ BitVec.toNat p.arg % 8 < s.build.pulses ∧ (s.live.pulse (BitVec.toNat p.arg %
      8)).deferred = none ∧ 8 ≤ fld (wordAt p.data 1) 0 24 ∧ (fld (wordAt p.data 0) 32 32 = 0 ∨ 1000 ≤
      fld (wordAt p.data 0) 32 32 ∧ fld (wordAt p.data 1) 0 24 + 8 ≤ fld (wordAt p.data 0) 32 32) ∧
      (s.live.time.state = TState.locked ∨ s.live.time.state = TState.holdover) ∧ 1000000 ≤ BitVec.toNat
      (BitVec.ofNat 32 (fld (wordAt p.data 0) 0 32) - s.live.ft) ∧ BitVec.toNat (BitVec.ofNat 32 (fld
      (wordAt p.data 0) 0 32) - s.live.ft) ≤ 2000000000 ∧ (s.live.cmpFree s.build = true ∨
      s.live.holdsCmp (Owner.pulse (BitVec.toNat p.arg % 8)) = true) ∧ (s.live.pulse (BitVec.toNat p.arg
      % 8)).level = false ∧ s.live.hasFired (Owner.pulse (BitVec.toNat p.arg % 8)) = false ∧ Tab.wf
      s.live.pulses = true) ∧
    (∃ (s : State) (p : Packet), Takes (Instr.pulseArm p) s p 112 2 ∧ p.data.length = 2 ∧ s.live.pulseOn
      s.build = true ∧ BitVec.toNat p.arg % 8 < s.build.pulses ∧ (s.live.pulse (BitVec.toNat p.arg %
      8)).deferred = none ∧ fld (wordAt p.data 1) 0 24 = 0 ∧ (s.live.pulse (BitVec.toNat p.arg %
      8)).level = false) :=
  ⟨⟨buoy, ⟨.mgmt, 1, 0, false, 0x12345678, 0x5a, 2, false, 0, 1, [0x64, 7]⟩, by decide +kernel⟩,
   ⟨buoy, ⟨.mgmt, 1, 0, false, 0x12345678, 0x5a, 2, false, 0, 1, [0x64, 0xa]⟩, by decide +kernel⟩,
   ⟨w2, ⟨.mgmt, 1, 0, false, 0x12345678, 0x5a, 2, false, 0, 1, [0x64, 0xa]⟩, by decide +kernel⟩,
   ⟨w53, v9, by decide +kernel⟩,
   ⟨w54, v9, by decide +kernel⟩,
   ⟨w2, v9, by decide +kernel⟩,
   ⟨buoy, v10, by decide +kernel⟩⟩

set_option maxRecDepth 20000 in
/-- States and operands that meet the hypotheses of `InBandCommandsAreForwarded`, for each of its clauses. -/
theorem meets_InBandCommandsAreForwarded :
    (∃ (s : State) (n : BitVec 5) (r : Rec) (i : Nat) (m : Nat), s.live.awake = true ∧ s.live.pwr.st =
      PwrSt.run ∧ s.build.form = Form.lantern ∧ s.live.isUp n.toNat = true ∧ r.ty = 15 ∧ 2 ≤
      r.body.length ∧ fld (wordAt r.body 0) 0 8 = 1 ∧ bit (wordAt r.body 0) 28 = false ∧ (BitVec.ofNat 18
      (fld (wordAt r.body 0) 10 18)).toNat / 256 = s.live.boot.st.idTrunk.toNat ∧ s.live.fwdFree = some i
      ∧ s.live.pickLink (s.live.linksOf s.build 2) ((BitVec.ofNat 18 (fld (wordAt r.body 0) 10 18)).toNat
      % 256) = some m ∧ Tab.wf s.live.links = true) ∧
    (∃ (s : State) (n : BitVec 5) (r : Rec), s.live.awake = true ∧ s.live.pwr.st = PwrSt.run ∧
      s.build.form = Form.lantern ∧ s.live.isUp n.toNat = true ∧ r.ty = 15 ∧ 2 ≤ r.body.length ∧ fld
      (wordAt r.body 0) 0 8 = 1 ∧ bit (wordAt r.body 0) 28 = false ∧ s.live.fwdFree = none) ∧
    (∃ (s : State) (n : BitVec 5) (m : BitVec 5) (r : Rec) (e : Fwd) (o : Ret), s.live.awake = true ∧
      s.build.form = Form.lantern ∧ s.live.isUp n.toNat = true ∧ r.ty = 15 ∧ 2 ≤ r.body.length ∧ fld
      (wordAt r.body 0) 0 8 = 2 ∧ s.live.lateFor (BitVec.ofNat 32 (fld (wordAt r.body 0) 32 32))
      (BitVec.ofNat 18 (fld (wordAt r.body 0) 10 18)) (bit (wordAt r.body 0) 28) = none ∧ s.live.entryOf
      (BitVec.ofNat 32 (fld (wordAt r.body 0) 32 32)) (BitVec.ofNat 18 (fld (wordAt r.body 0) 10 18))
      (bit (wordAt r.body 0) 28) = some e ∧ e.origin = some o ∧ o.port = Port.link m ∧ s.live.cmd.order =
      [{ r := o, reply := none }] ∧ Tab.wf s.live.links = true ∧ r.src ≠ s.live.src s.build) ∧
    (∃ (s : State) (n : BitVec 5) (r : Rec), s.live.awake = true ∧ s.build.form = Form.lantern ∧
      s.live.isUp n.toNat = true ∧ r.ty = 15 ∧ 2 ≤ r.body.length ∧ fld (wordAt r.body 0) 0 8 = 2 ∧
      s.live.lateFor (BitVec.ofNat 32 (fld (wordAt r.body 0) 32 32)) (BitVec.ofNat 18 (fld (wordAt r.body
      0) 10 18)) (bit (wordAt r.body 0) 28) = none ∧ s.live.entryOf (BitVec.ofNat 32 (fld (wordAt r.body
      0) 32 32)) (BitVec.ofNat 18 (fld (wordAt r.body 0) 10 18)) (bit (wordAt r.body 0) 28) = none) ∧
    (∃ (s : State) (n : BitVec 5) (r : Rec) (e : Fwd), s.live.awake = true ∧ s.build.form = Form.lantern
      ∧ s.live.isUp n.toNat = true ∧ r.ty = 15 ∧ 2 ≤ r.body.length ∧ fld (wordAt r.body 0) 0 8 = 2 ∧
      s.live.lateFor (BitVec.ofNat 32 (fld (wordAt r.body 0) 32 32)) (BitVec.ofNat 18 (fld (wordAt r.body
      0) 10 18)) (bit (wordAt r.body 0) 28) = some e) ∧
    (∃ (s : State) (n : BitVec 5) (r : Rec) (e : Fwd), s.live.awake = true ∧ s.build.form = Form.lantern
      ∧ s.live.isUp n.toNat = true ∧ r.ty = 15 ∧ 2 ≤ r.body.length ∧ fld (wordAt r.body 0) 0 8 = 2 ∧
      s.live.lateFor (BitVec.ofNat 32 (fld (wordAt r.body 0) 32 32)) (BitVec.ofNat 18 (fld (wordAt r.body
      0) 10 18)) (bit (wordAt r.body 0) 28) = none ∧ s.live.entryOf (BitVec.ofNat 32 (fld (wordAt r.body
      0) 32 32)) (BitVec.ofNat 18 (fld (wordAt r.body 0) 10 18)) (bit (wordAt r.body 0) 28) = some e ∧
      e.origin = none ∧ r.poison = true) ∧
    (∃ (s : State) (dst : BitVec 18) (dlan : Bool) (e : Fwd) (o : Ret), s.live.awake = true ∧ (List.find?
      (fun e => decide (e.dst = dst ∧ e.dlan = dlan)) s.live.cmd.fwd = some e) ∧ e.origin = some o) :=
  ⟨⟨w55, 2, rec16, 0, 4, by decide +kernel⟩,
   ⟨w56, 2, rec16, by decide +kernel⟩,
   ⟨w57, 2, 2, { rec 0xf 0x63 1 0 0 [0x140d02, 0x901] with poison := true }, v11,
    ⟨.link 2, 1, 0x503, false, 0x309, 9, false, 5⟩, by decide +kernel⟩,
   ⟨w55, 2, { rec 0xf 0x63 1 0 0 [0x140d02, 0x901] with poison := true }, by decide +kernel⟩,
   ⟨w58, 2, { rec 0xf 0x63 1 0 0 [0x140d02, 0x901] with poison := true }, v11, by decide +kernel⟩,
   ⟨w59, 2, { rec 0xf 0x63 1 0 0 [0x140d02, 0x901] with poison := true },
    ⟨0, 0x503, false, 0x309, 9, false, none, none⟩, by decide +kernel⟩,
   ⟨w57, 0x503, false, v11, ⟨.link 2, 1, 0x503, false, 0x309, 9, false, 5⟩, by decide +kernel⟩⟩

set_option maxRecDepth 20000 in
/-- States and operands that meet the hypotheses of `FabricRecordsAreChecked`, for each of its clauses. -/
theorem meets_FabricRecordsAreChecked :
    (∃ (s : State) (ws : List DWord), s.live.awake = true ∧ s.build.form = Form.buoy ∧ (ws.length < 3 ∨
      fld (wordAt ws 0) 16 16 ≠ 8 * ws.length)) ∧
    (∃ (s : State) (ws : List DWord), s.live.awake = true ∧ s.build.form = Form.buoy ∧ 3 ≤ ws.length ∧
      fld (wordAt ws 0) 16 16 = 8 * ws.length ∧ fld (wordAt ws (ws.length - 1)) 0 32 ≠ BitVec.toNat
      (crcWords (List.take (ws.length - 1) ws))) ∧
    (∃ (s : State) (ws : List DWord) (r : Rec), s.live.awake = true ∧ s.build.form = Form.buoy ∧ 3 ≤
      ws.length ∧ fld (wordAt ws 0) 16 16 = 8 * ws.length ∧ recOfWords ws = some r ∧ (r.ty = 0 ∨ 16 ≤
      r.ty.toNat)) ∧
    (∃ (s : State) (ws : List DWord) (r : Rec), s.live.awake = true ∧ s.build.form = Form.buoy ∧ 3 ≤
      ws.length ∧ fld (wordAt ws 0) 16 16 = 8 * ws.length ∧ recOfWords ws = some r ∧ r.ty ≠ 0 ∧
      r.ty.toNat < 14) :=
  ⟨⟨buoy, [], by decide +kernel⟩,
   ⟨buoy, [0x180000, 0, 0], by decide +kernel⟩,
   ⟨buoy, [0x180000, 5, 0xd39bdb27], rec17, by decide +kernel⟩,
   ⟨buoy, [0x180001, 5, 0x2197d6d9], rec18, by decide +kernel⟩⟩

set_option maxRecDepth 20000 in
/-- States and operands that meet the hypotheses of `CounterCommandsActOnTheirRange`, for each of its clauses. -/
theorem meets_CounterCommandsActOnTheirRange :
    (∃ (s : State) (p : Packet), s.build.form = Form.buoy ∧ (p.port = Port.mgmt ∨ p.aBits 10 11 + b2n
      p.pchk ≤ 254) ∧ (∀ i < p.aBits 0 10 + p.aBits 10 11, p.aBits 0 10 ≤ i → s.live.tapGated s.build
      (s.live.ctr i).cfg = false) ∧ Tab.wf s.live.samp.ctrs = true ∧ Takes (Instr.ctrRead p) s p 32 1 ∧
      p.data = [] ∧ (p.aBits 10 11 = 0 ∨ 1024 < p.aBits 0 10 + p.aBits 10 11)) ∧
    (∃ (s : State) (p : Packet), s.build.form = Form.buoy ∧ (p.port = Port.mgmt ∨ p.aBits 10 11 + b2n
      p.pchk ≤ 254) ∧ (∀ i < p.aBits 0 10 + p.aBits 10 11, p.aBits 0 10 ≤ i → s.live.tapGated s.build
      (s.live.ctr i).cfg = false) ∧ Tab.wf s.live.samp.ctrs = true ∧ Takes (Instr.ctrRead p) s p 32 1 ∧
      p.data = [] ∧ 0 < p.aBits 10 11 ∧ p.aBits 0 10 + p.aBits 10 11 ≤ 1024 ∧ p.aBits 31 1 = 0 ∧ (∀ i <
      p.aBits 0 10 + p.aBits 10 11, p.aBits 0 10 ≤ i → (s.live.ctr i).snap.isSome = true → s.live.bad
      (Holder.ctr i) = false)) ∧
    (∃ (s : State) (p : Packet), s.build.form = Form.buoy ∧ (p.port = Port.mgmt ∨ p.aBits 10 11 + b2n
      p.pchk ≤ 254) ∧ (∀ i < p.aBits 0 10 + p.aBits 10 11, p.aBits 0 10 ≤ i → s.live.tapGated s.build
      (s.live.ctr i).cfg = false) ∧ Tab.wf s.live.samp.ctrs = true ∧ Takes (Instr.ctrRead p) s p 32 1 ∧
      p.data = [] ∧ 0 < p.aBits 10 11 ∧ p.aBits 0 10 + p.aBits 10 11 ≤ 1024 ∧ p.aBits 31 1 = 0 ∧ p.port =
      Port.mgmt ∧ (∃ i : Fin 1024, p.aBits 0 10 ≤ ↑i ∧ ↑i < p.aBits 0 10 + p.aBits 10 11 ∧ (s.live.ctr
      ↑i).snap.isSome = true ∧ s.live.bad (Holder.ctr ↑i) = true)) ∧
    (∃ (s : State) (p : Packet), s.build.form = Form.buoy ∧ (p.port = Port.mgmt ∨ p.aBits 10 11 + b2n
      p.pchk ≤ 254) ∧ (∀ i < p.aBits 0 10 + p.aBits 10 11, p.aBits 0 10 ≤ i → s.live.tapGated s.build
      (s.live.ctr i).cfg = false) ∧ Tab.wf s.live.samp.ctrs = true ∧ Takes (Instr.ctrRead p) s p 32 1 ∧
      p.data = [] ∧ 0 < p.aBits 10 11 ∧ p.aBits 0 10 + p.aBits 10 11 ≤ 1024 ∧ p.aBits 31 1 = 1 ∧ (∀ i <
      p.aBits 0 10 + p.aBits 10 11, p.aBits 0 10 ≤ i → (s.live.ctr i).snap = none ∧ s.live.ctrInPlan i =
      false)) ∧
    (∃ (s : State) (p : Packet), s.build.form = Form.buoy ∧ (p.port = Port.mgmt ∨ p.aBits 10 11 + b2n
      p.pchk ≤ 254) ∧ (∀ i < p.aBits 0 10 + p.aBits 10 11, p.aBits 0 10 ≤ i → s.live.tapGated s.build
      (s.live.ctr i).cfg = false) ∧ Tab.wf s.live.samp.ctrs = true ∧ Takes (Instr.ctrConfig p) s p 33 1 ∧
      p.data.length = p.aBits 10 11 ∧ 0 < p.aBits 10 11 ∧ p.aBits 0 10 + p.aBits 10 11 ≤ 1024 ∧ (∀ (i :
      Nat), i < p.aBits 10 11 → fld (wordAt p.data i) 0 4 < 8 ∧ fld (wordAt p.data i) 8 10 = 1023 ∧
      s.live.tapGated s.build (wordAt p.data i) = false ∧ (s.live.ctr (p.aBits 0 10 + i)).snap = none ∧
      s.live.ctrInPlan (p.aBits 0 10 + i) = false)) ∧
    (∃ (s : State) (p : Packet), s.build.form = Form.buoy ∧ (p.port = Port.mgmt ∨ p.aBits 10 11 + b2n
      p.pchk ≤ 254) ∧ (∀ i < p.aBits 0 10 + p.aBits 10 11, p.aBits 0 10 ≤ i → s.live.tapGated s.build
      (s.live.ctr i).cfg = false) ∧ Tab.wf s.live.samp.ctrs = true ∧ Takes (Instr.ctrFreeze p) s p 34 1 ∧
      p.data = [] ∧ 0 < p.aBits 10 11 ∧ p.aBits 0 10 + p.aBits 10 11 ≤ 1024) ∧
    (∃ (s : State) (p : Packet), s.build.form = Form.buoy ∧ (p.port = Port.mgmt ∨ p.aBits 10 11 + b2n
      p.pchk ≤ 254) ∧ (∀ i < p.aBits 0 10 + p.aBits 10 11, p.aBits 0 10 ≤ i → s.live.tapGated s.build
      (s.live.ctr i).cfg = false) ∧ Tab.wf s.live.samp.ctrs = true ∧ Takes (Instr.ctrThaw p) s p 35 1 ∧
      p.data = [] ∧ 0 < p.aBits 10 11 ∧ p.aBits 0 10 + p.aBits 10 11 ≤ 1024) :=
  ⟨⟨buoy, ⟨.mgmt, 1, 0, false, 0x12345678, 0x5a, 0, false, 0, 0xbff, []⟩, by decide +kernel⟩,
   ⟨buoy, ⟨.mgmt, 1, 0, false, 0x12345678, 0x5a, 0, false, 0, 0x401, []⟩, by decide +kernel⟩,
   ⟨w60, ⟨.mgmt, 1, 0, false, 0x12345678, 0x5a, 0, false, 0, 0x801, []⟩, by decide +kernel⟩,
   ⟨buoy, ⟨.mgmt, 1, 0, false, 0x12345678, 0x5a, 0, false, 0, 0x80000401, []⟩, by decide +kernel⟩,
   ⟨buoy, ⟨.mgmt, 1, 0, false, 0x12345678, 0x5a, 1, false, 0, 0x401, [0xfff01]⟩, by decide +kernel⟩,
   ⟨buoy, ⟨.mgmt, 1, 0, false, 0x12345678, 0x5a, 0, false, 0, 0x401, []⟩, by decide +kernel⟩,
   ⟨buoy, ⟨.mgmt, 1, 0, false, 0x12345678, 0x5a, 0, false, 0, 0x401, []⟩, by decide +kernel⟩⟩

set_option maxRecDepth 20000 in
/-- States and operands that meet the hypotheses of `PlanLoadReadsOrAssembles`, for each of its clauses. -/
theorem meets_PlanLoadReadsOrAssembles :
    (∃ (s : State) (p : Packet), s.build.form = Form.lantern ∧ Takes (Instr.planLoad p) s p 16 1 ∧
      p.data.length = 2 ∧ (fld (wordAt p.data 1) 0 32 = 0 ∨ fld (wordAt p.data 1) 0 32 % 8 ≠ 0 ∨ 2097152
      < fld (wordAt p.data 1) 0 32)) ∧
    (∃ (s : State) (p : Packet), s.build.form = Form.lantern ∧ Takes (Instr.planLoad p) s p 16 1 ∧
      p.data.length = 2 ∧ 0 < fld (wordAt p.data 1) 0 32 ∧ fld (wordAt p.data 1) 0 32 % 8 = 0 ∧ fld
      (wordAt p.data 1) 0 32 ≤ 2097152 ∧ s.live.hostUp s.build = []) ∧
    (∃ (s : State) (p : Packet), s.build.form = Form.lantern ∧ Takes (Instr.planLoad p) s p 16 1 ∧
      p.data.length = 2 ∧ 0 < fld (wordAt p.data 1) 0 32 ∧ fld (wordAt p.data 1) 0 32 % 8 = 0 ∧ fld
      (wordAt p.data 1) 0 32 ≤ 2097152 ∧ s.live.hostUp s.build ≠ []) ∧
    (∃ (s : State) (p : Packet) (n : Nat), s.build.form = Form.lantern ∧ Takes (Instr.planLoad p) s p 16
      1 ∧ p.data.length = 2 ∧ 0 < fld (wordAt p.data 1) 0 32 ∧ fld (wordAt p.data 1) 0 32 % 8 = 0 ∧ fld
      (wordAt p.data 1) 0 32 ≤ 4096 ∧ s.live.hostUp s.build = [n] ∧ s.live.loads = [] ∧ (∀ (e : Nat ×
      Link), e ∈ s.live.links → e.snd.loads = []) ∧ Tab.wf s.live.links = true) ∧
    (∃ (s : State) (p : Packet), s.build.form = Form.buoy ∧ Takes (Instr.planLoad p) s p 16 1 ∧ p.port ≠
      Port.mgmt ∧ p.data ≠ [] ∧ p.aBits 0 8 ≠ 0 ∧ p.aBits 8 23 = 0 ∧ (s.live.plan (p.aBits 0 8)).owns =
      false ∧ (s.live.plan (p.aBits 0 8)).state ≠ PState.loading ∧ s.live.planRoom s.build (p.aBits 0 8)
      = true ∧ Tab.wf s.live.plans = true ∧ p.data.length ≤ 254 ∧ (BitVec.toNat p.arg).testBit 31 =
      false) ∧
    (∃ (s : State) (p : Packet) (ws : List DWord), s.build.form = Form.buoy ∧ Takes (Instr.planLoad p) s
      p 16 1 ∧ p.port ≠ Port.mgmt ∧ p.data ≠ [] ∧ p.aBits 0 8 ≠ 0 ∧ p.aBits 8 23 = 0 ∧ (s.live.plan
      (p.aBits 0 8)).owns = false ∧ (s.live.plan (p.aBits 0 8)).state ≠ PState.loading ∧ s.live.planRoom
      s.build (p.aBits 0 8) = true ∧ Tab.wf s.live.plans = true ∧ p.data.length ≤ 254 ∧ (BitVec.toNat
      p.arg).testBit 31 = true ∧ ws = p.data.dropLast ∧ fld (p.data.getLastD 0) 0 32 = BitVec.toNat
      (crcWords ws)) ∧
    (∃ (s : State) (p : Packet) (ws : List DWord), s.build.form = Form.buoy ∧ Takes (Instr.planLoad p) s
      p 16 1 ∧ p.port ≠ Port.mgmt ∧ p.data ≠ [] ∧ p.aBits 0 8 ≠ 0 ∧ p.aBits 8 23 = 0 ∧ (s.live.plan
      (p.aBits 0 8)).owns = false ∧ (s.live.plan (p.aBits 0 8)).state ≠ PState.loading ∧ s.live.planRoom
      s.build (p.aBits 0 8) = true ∧ Tab.wf s.live.plans = true ∧ p.data.length ≤ 254 ∧ (BitVec.toNat
      p.arg).testBit 31 = true ∧ ws = p.data.dropLast ∧ fld (p.data.getLastD 0) 0 32 ≠ BitVec.toNat
      (crcWords ws)) :=
  ⟨⟨lantern, v12, by decide +kernel⟩,
   ⟨lantern, v13, by decide +kernel⟩,
   ⟨w61, v13, by decide +kernel⟩,
   ⟨w61, v14, 3, by decide +kernel⟩,
   ⟨buoy, v15, by decide +kernel⟩,
   ⟨buoy, v16, [4, 5], by decide +kernel⟩,
   ⟨buoy, v17, [1, 2], by decide +kernel⟩⟩

set_option maxRecDepth 20000 in
/-- States and operands that meet the hypotheses of `LoadsEndWithTheirImage`, for each of its clauses. -/
theorem meets_LoadsEndWithTheirImage :
    (∃ (s : State) (n : BitVec 5) (rtag : BitVec 8) (err : Bool) (data : List DWord) (e : RdEnt) (rest :
      List RdEnt), s.live.awake = true ∧ s.build.form = Form.lantern ∧ s.live.role s.build n.toNat = 3 ∧
      s.live.isUp n.toNat = true ∧ (s.live.link n.toNat).resync = false ∧ (s.live.link n.toNat).loads = e
      :: rest ∧ (e.tag ≠ rtag ∨ 8 * data.length ≠ if err = true then 0 else e.len)) ∧
    (∃ (s : State) (n : BitVec 5) (e : RdEnt) (d : Load), s.live.awake = true ∧ s.build.form =
      Form.lantern ∧ s.live.role s.build n.toNat = 3 ∧ s.live.isUp n.toNat = true ∧ (s.live.link
      n.toNat).resync = false ∧ (s.live.link n.toNat).loads = [e] ∧ s.live.loads = [d] ∧ d.r.seqNo =
      e.load ∧ d.model = none) ∧
    (∃ (s : State) (n : BitVec 5) (data : List DWord) (e : RdEnt) (d : Load), s.live.awake = true ∧
      s.build.form = Form.lantern ∧ s.live.role s.build n.toNat = 3 ∧ s.live.isUp n.toNat = true ∧
      (s.live.link n.toNat).resync = false ∧ (s.live.link n.toNat).loads = [e] ∧ s.live.loads = [d] ∧
      d.r.seqNo = e.load ∧ d.model = none ∧ e.ofs = 0 ∧ e.len = 8 * data.length ∧ d.len = 8 * data.length
      ∧ d.got = [] ∧ data ≠ [] ∧ d.crc = crcWords data ∧ imgPlan data ≠ 0 ∧ (s.live.plan (imgPlan
      data)).active = false ∧ (s.live.plan (imgPlan data)).collecting = false ∧ s.live.planRoom s.build
      (imgPlan data) = true ∧ s.live.storeUsed (imgPlan data) + d.len ≤ 6291456 ∧ imgSec data 9 = none ∧
      Tab.wf s.live.plans = true) ∧
    (∃ (s : State) (p : Packet), s.build.form = Form.lantern ∧ Takes (Instr.modelLoad p) s p 41 1 ∧
      p.port = Port.mgmt ∧ p.data.length = 2 ∧ fld (wordAt p.data 1) 0 64 = 0 ∧ s.live.loads = [] ∧
      s.live.planUse s.build (decide (p.aBits 4 1 = 1)) (p.aBits 0 4) = false ∧ s.live.slotBusy (decide
      (p.aBits 4 1 = 1)) (p.aBits 0 4) = false ∧ (∀ (e : Nat × Link), e ∈ s.live.links → e.snd.loads =
      []) ∧ Tab.wf s.live.eng.trees = true ∧ Tab.wf s.live.eng.seqs = true) ∧
    (∃ (s : State) (isSeq : Bool) (slot : BitVec 4) (d : Load), s.live.awake = true ∧ s.live.loads = [d]
      ∧ d.model = some (isSeq, slot.toNat) ∧ d.phase = 1 ∧ d.len = 8 * (prefixWords d.got 0).length ∧
      d.crc = crcWords (prefixWords d.got 0) ∧ Tab.wf s.live.eng.trees = true ∧ Tab.wf s.live.eng.seqs =
      true ∧ s.live.slotBusy isSeq slot.toNat = true) ∧
    (∃ (s : State) (isSeq : Bool) (slot : BitVec 4) (d : Load), s.live.awake = true ∧ s.live.loads = [d]
      ∧ d.model = some (isSeq, slot.toNat) ∧ d.phase = 1 ∧ d.len = 8 * (prefixWords d.got 0).length ∧
      d.crc = crcWords (prefixWords d.got 0) ∧ Tab.wf s.live.eng.trees = true ∧ Tab.wf s.live.eng.seqs =
      true ∧ s.live.slotBusy isSeq slot.toNat = false ∧ (if isSeq = true then modBad6 (prefixWords d.got
      0) = false ∧ s.live.modErr s.build slot.toNat d.len (prefixWords d.got 0) = none else ensBad7
      s.build (prefixWords d.got 0) = false ∧ s.live.ensErr s.build slot.toNat d.len (prefixWords d.got
      0) = none) ∧ prefixWords d.got 0 ≠ []) :=
  ⟨⟨w62, 3, 3, true, [], ⟨9, 50, 0, 88⟩, [], by decide +kernel⟩,
   ⟨w63, 3, ⟨9, 50, 0, 64⟩, ⟨⟨.mgmt, 0, 0, false, 0, 7, true, 50⟩, none, 0, 64, 0x7e22b89f, [], 0⟩,
    by decide +kernel⟩,
   ⟨w63, 3, [0x90000, 0x4d01400005, 0, 0, 0, 0, 0, 0], ⟨9, 50, 0, 64⟩,
    ⟨⟨.mgmt, 0, 0, false, 0, 7, true, 50⟩, none, 0, 64, 0x7e22b89f, [], 0⟩, by decide +kernel⟩,
   ⟨lantern, ⟨.mgmt, 1, 0, false, 0x12345678, 0x5a, 2, false, 0, 0, [0x1000, 0]⟩, by decide +kernel⟩,
   ⟨w64, true, 3, v18, by decide +kernel⟩,
   ⟨w65, true, 3, v19, by decide +kernel⟩⟩

set_option maxRecDepth 20000 in
/-- States and operands that meet the hypotheses of `QueriesRunAndAnswer`, for each of its clauses. -/
theorem meets_QueriesRunAndAnswer :
    (∃ (s : State) (p : Packet), Takes (Instr.treeQuery p) s p 40 0 ∧ p.data.length = 1 + fld (wordAt
      p.data 0) 16 16 * ((fld (wordAt p.data 0) 0 11 + 63) / 64 + (fld (wordAt p.data 0) 0 11 + 1) / 2) ∧
      0 < fld (wordAt p.data 0) 16 16 ∧ 0 < fld (wordAt p.data 0) 0 11 ∧ fld (wordAt p.data 0) 0 11 ≤
      1024 ∧ (s.build.form = Form.buoy → p.aBits 0 4 = 0 ∧ s.live.pipeOn s.build 0 = true ∧ (p.port =
      Port.mgmt ∨ 2 * fld (wordAt p.data 0) 16 16 + b2n p.pchk ≤ 254)) ∧ (s.live.tree (p.aBits 0
      4)).ready = false) ∧
    (∃ (s : State) (p : Packet), Takes (Instr.treeQuery p) s p 40 0 ∧ p.data.length = 1 + fld (wordAt
      p.data 0) 16 16 * ((fld (wordAt p.data 0) 0 11 + 63) / 64 + (fld (wordAt p.data 0) 0 11 + 1) / 2) ∧
      0 < fld (wordAt p.data 0) 16 16 ∧ 0 < fld (wordAt p.data 0) 0 11 ∧ fld (wordAt p.data 0) 0 11 ≤
      1024 ∧ (s.build.form = Form.buoy → p.aBits 0 4 = 0 ∧ s.live.pipeOn s.build 0 = true ∧ (p.port =
      Port.mgmt ∨ 2 * fld (wordAt p.data 0) 16 16 + b2n p.pchk ≤ 254)) ∧ (s.live.tree (p.aBits 0
      4)).ready = true ∧ fld (wordAt p.data 0) 0 11 = ensNFeat (s.live.tree (p.aBits 0 4)).image ∧ (∀ (q
      : Nat), q ∈ ensPipes s.build (s.live.tree (p.aBits 0 4)).image → s.live.pipeOn s.build q = true)) ∧
    (∃ (s : State) (k : BitVec 4) (j : TreeJob) (rest : List TreeJob), s.live.awake = true ∧
      s.live.eng.treeJobs = j :: rest ∧ j.slot = k.toNat ∧ (∀ (q : Nat), q ∈ ensPipes s.build
      (s.live.tree j.slot).image → s.live.pipeOn s.build q = true) ∧ (∀ (i : Nat), i < j.feats.length →
      s.live.sampleBad s.build j.slot i (j.feats.getD i []) (Holder.query j.r.seqNo i) = [])) ∧
    (∃ (s : State) (k : BitVec 4) (j : TreeJob) (rest : List TreeJob), s.live.awake = true ∧
      s.live.eng.treeJobs = j :: rest ∧ j.slot = k.toNat ∧ (∀ (q : Nat), q ∈ ensPipes s.build
      (s.live.tree j.slot).image → s.live.pipeOn s.build q = true) ∧ 0 < (List.filter (fun i => decide
      (s.live.sampleBad s.build j.slot i (j.feats.getD i []) (Holder.query j.r.seqNo i) ≠ []))
      (List.range j.feats.length)).length ∧ Tab.wf s.live.rf = true) ∧
    (∃ (s : State) (p : Packet), s.build.form = Form.lantern ∧ Takes (Instr.seqQuery p) s p 42 0 ∧ 0 <
      fld (wordAt p.data 1) 0 23 ∧ fld (wordAt p.data 1) 0 23 ≤ 4194304 ∧ ((p.aBits 0 3 = 1 ∨ p.aBits 0 3
      = 2 ∨ p.aBits 0 3 = 4) ∧ p.data.length = 2 ∨ p.aBits 0 3 = 3 ∧ p.data.length = 3 + ((querySamples
      p).length + 1) / 2 ∧ 0 < (querySamples p).length ∧ (querySamples p).length ≤ 4096 ∧ (querySamples
      p).length ≤ fld (wordAt p.data 1) 0 23 ∧ (querySamples p).all f32Finite = true ∧ queryFlat
      (querySamples p) = false) ∧ s.live.flag s.build F.UNIT_EN_L_SEQ = true ∧ s.live.eng.job = none ∧
      s.live.eng.waits = [] ∧ (∀ (e : Nat × Plan), e ∈ s.live.plans → e.snd.seqReady = false) ∧
      (s.live.sery (fld (wordAt p.data 0) 0 16)).on = false ∧ s.live.cmd.busy = []) ∧
    (∃ (s : State) (p : Packet), s.build.form = Form.lantern ∧ Takes (Instr.seqQuery p) s p 42 0 ∧ 0 <
      fld (wordAt p.data 1) 0 23 ∧ fld (wordAt p.data 1) 0 23 ≤ 4194304 ∧ ((p.aBits 0 3 = 1 ∨ p.aBits 0 3
      = 2 ∨ p.aBits 0 3 = 4) ∧ p.data.length = 2 ∨ p.aBits 0 3 = 3 ∧ p.data.length = 3 + ((querySamples
      p).length + 1) / 2 ∧ 0 < (querySamples p).length ∧ (querySamples p).length ≤ 4096 ∧ (querySamples
      p).length ≤ fld (wordAt p.data 1) 0 23 ∧ (querySamples p).all f32Finite = true ∧ queryFlat
      (querySamples p) = false) ∧ s.live.flag s.build F.UNIT_EN_L_SEQ = true ∧ s.live.eng.job = none ∧
      s.live.eng.waits = [] ∧ (∀ (e : Nat × Plan), e ∈ s.live.plans → e.snd.seqReady = false) ∧
      (s.live.sery (fld (wordAt p.data 0) 0 16)).on = true ∧ s.live.readable s.build (fld (wordAt p.data
      0) 0 16) (s.live.sampleOf (fld (wordAt p.data 0) 0 16) (fld (wordAt p.data 0) 16 24)) (fld (wordAt
      p.data 1) 0 23) = true ∧ (p.aBits 0 3 ≠ 3 → s.live.slotLoading true (p.aBits 4 4) = false ∧
      (s.live.seqm (p.aBits 4 4)).ready = true ∧ modKind (s.live.seqm (p.aBits 4 4)).image = if p.aBits 0
      3 = 4 then 4 else p.aBits 0 3 + 1)) ∧
    (∃ (s : State) (j : SeqJob), s.live.awake = true ∧ s.live.eng.job = some j ∧ s.live.eng.waits = [] ∧
      s.live.flag s.build F.UNIT_EN_L_SEQ = true ∧ (j.mode ≠ 3 → s.live.bad (Holder.seq j.slot) = false)
      ∧ (s.live.serRead s.build j.series j.gen j.first j.len).poison = true) ∧
    (∃ (s : State) (j : SeqJob), s.live.awake = true ∧ s.live.eng.job = some j ∧ s.live.eng.waits = [] ∧
      s.live.flag s.build F.UNIT_EN_L_SEQ = true ∧ (j.mode ≠ 3 → s.live.bad (Holder.seq j.slot) = false)
      ∧ (s.live.serRead s.build j.series j.gen j.first j.len).poison = false ∧ ((s.live.serRead s.build
      j.series j.gen j.first j.len).stale = true ∨ j.lost = true)) ∧
    (∃ (s : State) (j : SeqJob), s.live.awake = true ∧ s.live.eng.job = some j ∧ s.live.eng.waits = [] ∧
      s.live.flag s.build F.UNIT_EN_L_SEQ = true ∧ (j.mode ≠ 3 → s.live.bad (Holder.seq j.slot) = false)
      ∧ (s.live.serRead s.build j.series j.gen j.first j.len).poison = false ∧ (s.live.serRead s.build
      j.series j.gen j.first j.len).stale = false ∧ j.lost = false) :=
  ⟨⟨buoy, v20, by decide +kernel⟩,
   ⟨w66, v20, by decide +kernel⟩,
   ⟨w66, 0, ⟨⟨.mgmt, 0, 0, false, 0, 7, true, 50⟩, 0, [[some 5, none]]⟩, [], by decide +kernel⟩,
   ⟨w67, 0, ⟨⟨.mgmt, 0, 0, false, 0, 7, true, 50⟩, 0, [[some 5, none]]⟩, [], by decide +kernel⟩,
   ⟨lantern, v12, by decide +kernel⟩,
   ⟨w68, v21, by decide +kernel⟩,
   ⟨w69, v22, by decide +kernel⟩,
   ⟨w70, v22, by decide +kernel⟩,
   ⟨w71, v23, by decide +kernel⟩⟩

set_option maxRecDepth 20000 in
/-- States and operands that meet the hypotheses of `RemapsAndStepMarksKeepClearOfCuts`, for each of its clauses. -/
theorem meets_RemapsAndStepMarksKeepClearOfCuts :
    (∃ (s : State) (p : Packet), s.build.form = Form.buoy ∧ Takes (Instr.unitRemap p) s p 74 2 ∧ p.data =
      [] ∧ p.aBits 0 10 ≠ 1023 ∧ (∀ (g : Nat), g ∈ s.live.groups (p.aBits 10 10) → s.live.tapOn s.build
      (g / 8) = true) ∧ s.live.spare (p.aBits 10 10) = false) ∧
    (∃ (s : State) (p : Packet), s.build.form = Form.buoy ∧ Takes (Instr.unitRemap p) s p 74 2 ∧ p.data =
      [] ∧ p.aBits 0 10 ≠ 1023 ∧ (∀ (g : Nat), g ∈ s.live.groups (p.aBits 10 10) → s.live.tapOn s.build
      (g / 8) = true) ∧ s.live.groups (p.aBits 10 10) ≠ [] ∧ s.live.spare (p.aBits 10 10) = true ∧
      ((s.live.presents (p.aBits 10 10)).isSome = true ∨ p.aBits 10 10 ∈ s.live.samp.retired)) ∧
    (∃ (s : State) (p : Packet), s.build.form = Form.buoy ∧ Takes (Instr.unitRemap p) s p 74 2 ∧ p.data =
      [] ∧ p.aBits 0 10 ≠ 1023 ∧ (∀ (g : Nat), g ∈ s.live.groups (p.aBits 10 10) → s.live.tapOn s.build
      (g / 8) = true) ∧ s.live.groups (p.aBits 10 10) ≠ [] ∧ s.live.spare (p.aBits 10 10) = true ∧
      s.live.presents (p.aBits 10 10) = none ∧ (¬p.aBits 10 10 ∈ s.live.samp.retired) ∧ (∀ (o : Nat),
      s.live.resolve (p.aBits 0 10) = some o → (s.live.groups o).length ≤ (s.live.groups (p.aBits 10
      10)).length) ∧ s.live.remapSlot (p.aBits 0 10) = none) ∧
    (∃ (s : State) (p : Packet) (e : Nat), s.build.form = Form.buoy ∧ Takes (Instr.unitRemap p) s p 74 2
      ∧ p.data = [] ∧ p.aBits 0 10 ≠ 1023 ∧ (∀ (g : Nat), g ∈ s.live.groups (p.aBits 10 10) →
      s.live.tapOn s.build (g / 8) = true) ∧ s.live.groups (p.aBits 10 10) ≠ [] ∧ s.live.spare (p.aBits
      10 10) = true ∧ s.live.presents (p.aBits 10 10) = none ∧ (¬p.aBits 10 10 ∈ s.live.samp.retired) ∧
      (∀ (o : Nat), s.live.resolve (p.aBits 0 10) = some o → (s.live.groups o).length ≤ (s.live.groups
      (p.aBits 10 10)).length) ∧ s.live.remapSlot (p.aBits 0 10) = some e) ∧
    (∃ (s : State) (j : RemapJob), s.live.awake = true ∧ s.live.samp.job = some j ∧ j.switched = false ∧
      Tab.wf s.live.gens = true ∧ (s.live.cutNear = true ∨ ∃ k, k ∈ s.live.samp.stepJobs ∧ k.u = j.u ∧
      k.r.seqNo < j.r.seqNo)) ∧
    (∃ (s : State) (j : RemapJob), s.live.awake = true ∧ s.live.samp.job = some j ∧ j.switched = false ∧
      Tab.wf s.live.gens = true ∧ s.live.cutNear = false ∧ (∀ (k : StepJob), k ∈ s.live.samp.stepJobs →
      k.u = j.u → j.r.seqNo ≤ k.r.seqNo)) ∧
    (∃ (s : State) (j : RemapJob), s.live.awake = true ∧ s.live.samp.job = some j ∧ j.switched = false ∧
      Tab.wf s.live.gens = true ∧ (∀ (k : StepJob), k ∈ s.live.samp.stepJobs → j.r.seqNo < k.r.seqNo)) ∧
    (∃ (s : State) (j : RemapJob), s.live.awake = true ∧ s.live.samp.job = some j ∧ j.switched = true) ∧
    (∃ (s : State) (p : Packet), s.build.form = Form.buoy ∧ Takes (Instr.stepMark p) s p 97 1 ∧ p.data =
      [] ∧ p.aBits 0 10 ≠ 1023 ∧ s.live.resolve (p.aBits 0 10) = none) ∧
    (∃ (s : State) (p : Packet), s.build.form = Form.buoy ∧ Takes (Instr.stepMark p) s p 97 1 ∧ p.data =
      [] ∧ p.aBits 0 10 ≠ 1023 ∧ (s.live.resolve (p.aBits 0 10)).isSome = true ∧ (p.aBits 16 16 ≠ 0 ∨
      s.live.stepOpen (p.aBits 0 10) = true)) ∧
    (∃ (s : State) (j : StepJob), s.live.awake = true ∧ List.find? (fun k => !s.live.stepBehind k)
      s.live.samp.stepJobs = some j ∧ Tab.wf s.live.samp.steps = true ∧ Tab.wf s.live.gens = true ∧
      s.live.cutNear = true) ∧
    (∃ (s : State) (j : StepJob), s.live.awake = true ∧ List.find? (fun k => !s.live.stepBehind k)
      s.live.samp.stepJobs = some j ∧ Tab.wf s.live.samp.steps = true ∧ Tab.wf s.live.gens = true ∧
      s.live.cutNear = false) ∧
    (∃ (s : State), s.live.awake = true ∧ (∀ (k : StepJob), k ∈ s.live.samp.stepJobs → s.live.stepBehind
      k = true)) ∧
    (∃ (s : State) (j : StepJob) (t : List StepJob), s.live.awake = true ∧ s.live.samp.stepJobs = j :: t
      ∧ (∀ (x : RemapJob), s.live.samp.job = some x → x.switched = true ∨ ∃ k, k ∈ j :: t ∧ k.r.seqNo ≤
      x.r.seqNo)) :=
  ⟨⟨w72, ⟨.mgmt, 1, 0, false, 0x12345678, 0x5a, 0, false, 0, 0x10009, []⟩, by decide +kernel⟩,
   ⟨w73, ⟨.mgmt, 1, 0, false, 0x12345678, 0x5a, 0, false, 0, 0x2009, []⟩, by decide +kernel⟩,
   ⟨w74, ⟨.mgmt, 1, 0, false, 0x12345678, 0x5a, 0, false, 0, 0x1c09, []⟩, by decide +kernel⟩,
   ⟨w73, ⟨.mgmt, 1, 0, false, 0x12345678, 0x5a, 0, false, 0, 0x1c09, []⟩, 0, by decide +kernel⟩,
   ⟨w75, ⟨⟨.mgmt, 0, 0, false, 0, 7, true, 50⟩, 5, 7, 2, false, false, false⟩, by decide +kernel⟩,
   ⟨w76, ⟨⟨.mgmt, 0, 0, false, 0, 7, true, 50⟩, 5, 7, 2, false, false, false⟩, by decide +kernel⟩,
   ⟨w75, ⟨⟨.mgmt, 0, 0, false, 0, 7, true, 50⟩, 5, 7, 2, false, false, false⟩, by decide +kernel⟩,
   ⟨w77, ⟨⟨.mgmt, 0, 0, false, 0, 7, true, 50⟩, 5, 7, 2, true, true, false⟩, by decide +kernel⟩,
   ⟨w72, ⟨.mgmt, 1, 0, false, 0x12345678, 0x5a, 0, false, 0, 0x10009, []⟩, by decide +kernel⟩,
   ⟨w73, ⟨.mgmt, 1, 0, false, 0x12345678, 0x5a, 0, false, 0, 0x60005, []⟩, by decide +kernel⟩,
   ⟨w78, ⟨⟨.mgmt, 0, 0, false, 0, 7, true, 50⟩, 5, 0⟩, by decide +kernel⟩,
   ⟨w79, ⟨⟨.mgmt, 0, 0, false, 0, 7, true, 50⟩, 5, 3⟩, by decide +kernel⟩,
   ⟨buoy, by decide +kernel⟩,
   ⟨w79, ⟨⟨.mgmt, 0, 0, false, 0, 7, true, 50⟩, 5, 3⟩, [], by decide +kernel⟩⟩

set_option maxRecDepth 20000 in
/-- States and operands that meet the hypotheses of `SamplesAreTakenAndKept`, for each of its clauses. -/
theorem meets_SamplesAreTakenAndKept :
    (∃ (s : State) (i : BitVec 6), Served s ∧ s.build.form = Form.buoy ∧ s.live.tapOn s.build (i.toNat /
      8) = true ∧ Tab.find? s.live.samp.binds i.toNat = none) ∧
    (∃ (s : State) (i : BitVec 6), Served s ∧ s.build.form = Form.buoy ∧ s.live.tapOn s.build (i.toNat /
      8) = true ∧ (Tab.find? s.live.samp.binds i.toNat).isSome = true) ∧
    (∃ (s : State), Served s ∧ s.build.form = Form.buoy ∧ Tab.wf s.live.rf = true ∧ Tab.wf
      s.live.samp.pcs = true ∧ s.live.flag s.build F.UNIT_EN_B_PCS = true) ∧
    (∃ (s : State) (k : BitVec 2) (stall : BitVec 3), s.live.awake = true ∧ s.build.form = Form.buoy ∧
      s.live.flag s.build F.UNIT_EN_B_PCS = true ∧ s.live.flag s.build F.PCS_CFG_EN k.toNat = true ∧
      stall = 7) ∧
    (∃ (s : State) (k : BitVec 2) (unit : BitVec 10) (stall : BitVec 3), s.live.awake = true ∧
      s.build.form = Form.buoy ∧ s.live.flag s.build F.UNIT_EN_B_PCS = true ∧ s.live.flag s.build
      F.PCS_CFG_EN k.toNat = true ∧ stall ≠ 7 ∧ s.live.presents unit.toNat = none ∧ (¬unit.toNat ∈
      s.live.samp.retired)) ∧
    (∃ (s : State) (k : BitVec 2) (unit : BitVec 10) (stall : BitVec 3) (u : Nat), s.live.awake = true ∧
      s.build.form = Form.buoy ∧ s.live.flag s.build F.UNIT_EN_B_PCS = true ∧ s.live.flag s.build
      F.PCS_CFG_EN k.toNat = true ∧ stall ≠ 7 ∧ s.live.presents unit.toNat = some u ∧ s.live.get s.build
      F.PCS_CFG_DIV k.toNat = 0 ∧ s.live.flag s.build F.PCS_CFG_UFILT k.toNat = false ∧ s.live.flag
      s.build F.PCS_CFG_STALL_ONLY k.toNat = false ∧ s.live.pcsSealed k.toNat < 2 ∧ (s.live.pcs
      k.toNat).buf.length < 63 ∧ Tab.wf s.live.samp.pcs = true) ∧
    (∃ (s : State) (k : BitVec 2) (e : PcEnt) (t : List PcEnt), s.live.awake = true ∧ s.build.form =
      Form.buoy ∧ (s.live.pcs k.toNat).buf = e :: t ∧ s.live.get s.build F.PCS_CFG_FLUSH k.toNat ≠ 0 ∧
      Tab.wf s.live.samp.pcs = true ∧ reached s.live.ft (e.ft + BitVec.ofNat 32 (1000 * s.live.get
      s.build F.PCS_CFG_FLUSH k.toNat)) = true) ∧
    (∃ (s : State) (temps : List (BitVec 12)) (volts : List (BitVec 12)), s.live.awake = true ∧
      s.build.form = Form.buoy ∧ s.live.flag s.build F.UNIT_EN_B_SENS = true ∧ temps.length = 16 ∧
      volts.length = 8 ∧ Tab.wf s.live.rf = true) ∧
    (∃ (s : State) (p : BitVec 8) (set : BitVec 3) (g : SampSet) (t : Word), s.live.awake = true ∧
      s.build.form = Form.buoy ∧ (s.live.plan p.toNat).state = PState.running ∧ Tab.wf s.live.plans =
      true ∧ (secSamp (s.live.plan p.toNat).image).fst[set.toNat]? = some g ∧ (s.live.plan
      p.toNat).sampNext[set.toNat]? = some t ∧ reached s.live.ft t = false) ∧
    (∃ (s : State) (p : BitVec 8) (set : BitVec 3) (g : SampSet) (t : Word), s.live.awake = true ∧
      s.build.form = Form.buoy ∧ (s.live.plan p.toNat).state = PState.running ∧ Tab.wf s.live.plans =
      true ∧ (secSamp (s.live.plan p.toNat).image).fst[set.toNat]? = some g ∧ (s.live.plan
      p.toNat).sampNext[set.toNat]? = some t ∧ reached s.live.ft t = true) :=
  ⟨⟨w72, 0x14, by decide +kernel⟩,
   ⟨w80, 1, by decide +kernel⟩,
   ⟨w81, by decide +kernel⟩,
   ⟨w82, 1, 7, by decide +kernel⟩,
   ⟨w82, 1, 0, 0, by decide +kernel⟩,
   ⟨w82, 1, 5, 0, 5, by decide +kernel⟩,
   ⟨w83, 1, ⟨7, 0, 5, 1, 0⟩, [⟨7, 4, 5, 1, 0⟩], by decide +kernel⟩,
   ⟨w81, List.replicate 16 5, List.replicate 8 0x7ff, by decide +kernel⟩,
   ⟨w84, 9, 0, ⟨5, 1000, 5, 1911, 2, [(0, 1), (2, 3)]⟩, 0x64, by decide +kernel⟩,
   ⟨w85, 9, 0, ⟨5, 1000, 5, 1911, 2, [(0, 1), (2, 3)]⟩, 0x64, by decide +kernel⟩⟩

set_option maxRecDepth 20000 in
/-- States and operands that meet the hypotheses of `PowerStatesAreEnteredAndLeft`, for each of its clauses. -/
theorem meets_PowerStatesAreEnteredAndLeft :
    (∃ (s : State) (p : Packet), Takes (Instr.pwrState p) s p 72 2 ∧ p.data = [] ∧ pwrTarget (p.aBits 0
      3) = none) ∧
    (∃ (s : State) (p : Packet) (st : PwrSt) (c : Nat), Takes (Instr.pwrState p) s p 72 2 ∧ p.data = [] ∧
      pwrTarget (p.aBits 0 3) = some st ∧ s.live.refuser s.build (retOf s p) (p.aBits 0 3) = some c) ∧
    (∃ (s : State) (p : Packet) (st : PwrSt), Takes (Instr.pwrState p) s p 72 2 ∧ p.data = [] ∧ pwrTarget
      (p.aBits 0 3) = some st ∧ s.live.refuser s.build (retOf s p) (p.aBits 0 3) = none) ∧
    (∃ (s : State), s.live.boot.ready = true ∧ s.live.cmd.mgmtReplies = [] ∧ s.live.pwr.wakePend = 0 ∧
      s.live.pwr.target = some PwrSt.idle) ∧
    (∃ (s : State), s.live.boot.ready = true ∧ s.live.cmd.mgmtReplies = [] ∧ s.live.pwr.wakePend = 0 ∧
      s.live.pwr.target = some PwrSt.off) ∧
    (∃ (s : State), s.live.boot.ready = true ∧ s.live.cmd.mgmtReplies = [] ∧ s.live.pwr.wakePend = 0 ∧
      s.live.pwr.target = some PwrSt.deep) ∧
    (∃ (s : State), s.live.boot.ready = true ∧ s.live.cmd.mgmtReplies = [] ∧ s.live.pwr.wakePend = 0 ∧
      s.live.pwr.target = some PwrSt.sleep) ∧
    (∃ (s : State), s.live.boot.held = false ∧ s.live.pwr.target = none ∧ s.live.pwr.st = PwrSt.idle) ∧
    (∃ (s : State), s.live.boot.held = false ∧ s.live.pwr.target = none ∧ s.live.pwr.st = PwrSt.deep ∧
      s.live.flag s.build F.PWR_CFG_WAKE_MGMT = true) ∧
    (∃ (s : State), s.live.boot.held = false ∧ s.live.pwr.target = none ∧ s.live.pwr.st = PwrSt.sleep ∧
      s.live.get s.build F.PWR_WAKE_CTL_TMR ≠ 0) ∧
    (∃ (s : State), s.live.boot.held = false ∧ s.live.pwr.target = none ∧ s.live.pwr.st = PwrSt.off) ∧
    (∃ (s : State), s.live.flag s.build F.PWR_CFG_WAKE_MGMT = false) ∧
    (∃ (s : State), s.live.get s.build F.PWR_WAKE_CTL_TMR = 0) ∧
    (∃ (s : State) (v : Word), Served s ∧ BitVec.toNat v % 4 = 1 ∧ Tab.wf s.live.rf = true ∧
      s.live.holdsCmp Owner.wake = false) ∧
    (∃ (s : State), s.live.boot.ready = true ∧ s.live.pwr.st = PwrSt.run ∧ s.live.pwr.target = none ∧
      s.live.pwr.wasIdle = true ∧ s.live.flag s.build F.PWR_CFG_AUTO_IDLE = true ∧ s.live.cmd.busy = [])
      ∧
    (∃ (s : State), s.live.pwr.ramping = false) ∧
    (∃ (s : State), s.live.pwr.ramping = true) :=
  ⟨⟨buoy, ⟨.mgmt, 1, 0, false, 0x12345678, 0x5a, 0, false, 0, 0, []⟩, by decide +kernel⟩,
   ⟨w86, ⟨.mgmt, 1, 0, false, 0x12345678, 0x5a, 0, false, 0, 4, []⟩, .off, 2, by decide +kernel⟩,
   ⟨buoy, ⟨.mgmt, 1, 0, false, 0x12345678, 0x5a, 0, false, 0, 4, []⟩, .off, by decide +kernel⟩,
   ⟨w87, by decide +kernel⟩,
   ⟨w88, by decide +kernel⟩,
   ⟨w89, by decide +kernel⟩,
   ⟨w90, by decide +kernel⟩,
   ⟨w91, by decide +kernel⟩,
   ⟨w92, by decide +kernel⟩,
   ⟨w93, by decide +kernel⟩,
   ⟨w94, by decide +kernel⟩,
   ⟨w95, by decide +kernel⟩,
   ⟨buoy, by decide +kernel⟩,
   ⟨buoy, 1, by decide +kernel⟩,
   ⟨w96, by decide +kernel⟩,
   ⟨buoy, by decide +kernel⟩,
   ⟨w94, by decide +kernel⟩⟩

set_option maxRecDepth 20000 in
/-- States and operands that meet the hypotheses of `HostUnitRequestsAreAnsweredInOrder`, for each of its clauses. -/
theorem meets_HostUnitRequestsAreAnsweredInOrder :
    (∃ (s : State) (p : Packet), s.build.form = Form.buoy ∧ Takes (Instr.unitAdjust p) s p 73 2 ∧ p.data
      = [] ∧ s.live.flag s.build F.UNIT_EN_B_PWRQ = true ∧ p.aBits 0 10 ≠ 1023 ∧ (p.aBits 10 2 = 0 ∨
      p.aBits 10 2 = 3)) ∧
    (∃ (s : State) (p : Packet), s.build.form = Form.buoy ∧ Takes (Instr.unitAdjust p) s p 73 2 ∧ p.data
      = [] ∧ s.live.flag s.build F.UNIT_EN_B_PWRQ = true ∧ p.aBits 0 10 ≠ 1023 ∧ (p.aBits 10 2 = 1 ∨
      p.aBits 10 2 = 2) ∧ s.live.resolve (p.aBits 0 10) = none) ∧
    (∃ (s : State) (p : Packet) (q : Nat), s.build.form = Form.buoy ∧ Takes (Instr.unitAdjust p) s p 73 2
      ∧ p.data = [] ∧ s.live.flag s.build F.UNIT_EN_B_PWRQ = true ∧ p.aBits 0 10 ≠ 1023 ∧ (p.aBits 10 2 =
      1 ∨ p.aBits 10 2 = 2) ∧ s.live.resolve (p.aBits 0 10) = some q ∧ s.live.pwr.reqs = []) ∧
    (∃ (s : State) (p : Packet) (q : Nat) (x : PwrReq) (t : List PwrReq), s.build.form = Form.buoy ∧
      Takes (Instr.unitAdjust p) s p 73 2 ∧ p.data = [] ∧ s.live.flag s.build F.UNIT_EN_B_PWRQ = true ∧
      p.aBits 0 10 ≠ 1023 ∧ (p.aBits 10 2 = 1 ∨ p.aBits 10 2 = 2) ∧ s.live.resolve (p.aBits 0 10) = some
      q ∧ s.live.pwr.reqs = x :: t ∧ x.sent = true) ∧
    (∃ (s : State), s.live.awake = true ∧ s.live.flag s.build F.UNIT_EN_B_PWRQ = false ∧ s.build.form =
      Form.buoy) ∧
    (∃ (s : State), s.live.awake = true ∧ s.build.form = Form.buoy ∧ s.live.flag s.build F.UNIT_EN_B_PWRQ
      = true ∧ s.live.pwr.lateAck = true) ∧
    (∃ (s : State) (v : BitVec 2) (q : PwrReq) (t : List PwrReq), s.live.awake = true ∧ s.build.form =
      Form.buoy ∧ s.live.flag s.build F.UNIT_EN_B_PWRQ = true ∧ s.live.pwr.lateAck = false ∧
      s.live.pwr.reqs = q :: t ∧ v ≠ 2 ∧ v ≠ 3) ∧
    (∃ (s : State) (v : BitVec 2) (q : PwrReq) (t : List PwrReq), s.live.awake = true ∧ s.build.form =
      Form.buoy ∧ s.live.flag s.build F.UNIT_EN_B_PWRQ = true ∧ s.live.pwr.lateAck = false ∧
      s.live.pwr.reqs = q :: t ∧ (v = 2 ∨ v = 3)) ∧
    (∃ (s : State) (q : PwrReq) (t : List PwrReq), s.live.awake = true ∧ s.live.pwr.reqs = q :: t ∧
      s.build.form = Form.buoy ∧ s.live.flag s.build F.UNIT_EN_B_PWRQ = true ∧ t = []) ∧
    (∃ (s : State) (q : PwrReq) (t : List PwrReq) (x : PwrReq) (rest : List PwrReq), s.live.awake = true
      ∧ s.live.pwr.reqs = q :: t ∧ s.build.form = Form.buoy ∧ s.live.flag s.build F.UNIT_EN_B_PWRQ = true
      ∧ t = x :: rest ∧ x.sent = false) :=
  ⟨⟨buoy, ⟨.mgmt, 1, 0, false, 0x12345678, 0x5a, 0, false, 0, 0, []⟩, by decide +kernel⟩,
   ⟨buoy, ⟨.mgmt, 1, 0, false, 0x12345678, 0x5a, 0, false, 0, 0x405, []⟩, by decide +kernel⟩,
   ⟨w97, ⟨.mgmt, 1, 0, false, 0x12345678, 0x5a, 0, false, 0, 0x405, []⟩, 5, by decide +kernel⟩,
   ⟨w98, ⟨.mgmt, 1, 0, false, 0x12345678, 0x5a, 0, false, 0, 0x405, []⟩, 5,
    ⟨⟨.mgmt, 0, 0, false, 0, 7, true, 50⟩, 5, 1, true⟩, [], by decide +kernel⟩,
   ⟨w86, by decide +kernel⟩,
   ⟨w97, by decide +kernel⟩,
   ⟨w98, 0, ⟨⟨.mgmt, 0, 0, false, 0, 7, true, 50⟩, 5, 1, true⟩, [], by decide +kernel⟩,
   ⟨w98, 2, ⟨⟨.mgmt, 0, 0, false, 0, 7, true, 50⟩, 5, 1, true⟩, [], by decide +kernel⟩,
   ⟨w98, ⟨⟨.mgmt, 0, 0, false, 0, 7, true, 50⟩, 5, 1, true⟩, [], by decide +kernel⟩,
   ⟨w99, ⟨⟨.mgmt, 0, 0, false, 0, 7, true, 50⟩, 5, 1, true⟩,
    [⟨⟨.mgmt, 0, 0, false, 0, 7, true, 50⟩, 5, 1, false⟩],
    ⟨⟨.mgmt, 0, 0, false, 0, 7, true, 50⟩, 5, 1, false⟩, [], by decide +kernel⟩⟩

set_option maxRecDepth 20000 in
/-- States and operands that meet the hypotheses of `MeteringReadsInTurn`, for each of its clauses. -/
theorem meets_MeteringReadsInTurn :
    (∃ (s : State), s.live.awake = true ∧ s.build.form = Form.lantern ∧ s.live.flag s.build
      F.UNIT_EN_L_PMB = true ∧ s.live.flag s.build F.PMB_CFG_EN = true ∧ s.live.pwr.poll ≠ []) ∧
    (∃ (s : State) (x : Nat × Nat) (t : List (Nat × Nat)), s.live.awake = true ∧ s.build.form =
      Form.lantern ∧ s.live.flag s.build F.UNIT_EN_L_PMB = true ∧ s.live.flag s.build F.PMB_CFG_EN = true
      ∧ s.live.pwr.poll = [] ∧ s.live.pmbCycle s.build = x :: t) ∧
    (∃ (s : State) (d : Nat) (r : Nat) (t : List (Nat × Nat)), s.live.awake = true ∧ s.build.form =
      Form.lantern ∧ s.live.flag s.build F.UNIT_EN_L_PMB = true ∧ s.live.pwr.poll = (d, r) :: t ∧ r ≠ 0 ∧
      r ≠ 4) ∧
    (∃ (s : State) (d : Nat) (t : List (Nat × Nat)), s.live.awake = true ∧ s.build.form = Form.lantern ∧
      s.live.flag s.build F.UNIT_EN_L_PMB = true ∧ s.live.pwr.poll = (d, 0) :: t ∧ Tab.wf s.live.pwr.devs
      = true) ∧
    (∃ (s : State) (d : Nat) (x : Nat × Nat) (t : List (Nat × Nat)), s.live.awake = true ∧ s.build.form =
      Form.lantern ∧ s.live.flag s.build F.UNIT_EN_L_PMB = true ∧ s.live.pwr.poll = (d, 4) :: x :: t ∧
      Tab.wf s.live.pwr.devs = true) ∧
    (∃ (s : State) (d : Nat) (r : Nat) (t : List (Nat × Nat)), s.live.awake = true ∧ s.build.form =
      Form.lantern ∧ s.live.flag s.build F.UNIT_EN_L_PMB = true ∧ s.live.pwr.poll = (d, r) :: t ∧ 8 * d +
      r ∈ s.live.pwr.failing) ∧
    (∃ (s : State) (d : Nat) (r : Nat) (t : List (Nat × Nat)), s.live.awake = true ∧ s.build.form =
      Form.lantern ∧ s.live.flag s.build F.UNIT_EN_L_PMB = true ∧ s.live.pwr.poll = (d, r) :: t ∧ (¬8 * d
      + r ∈ s.live.pwr.failing)) :=
  ⟨⟨w100, by decide +kernel⟩,
   ⟨w101, (2, 0), [(2, 1), (2, 2), (2, 3), (2, 4)], by decide +kernel⟩,
   ⟨w100, 2, 1, [], by decide +kernel⟩,
   ⟨w102, 2, [(2, 1)], by decide +kernel⟩,
   ⟨w103, 2, (2, 0), [], by decide +kernel⟩,
   ⟨w104, 2, 3, [], by decide +kernel⟩,
   ⟨w100, 2, 1, [], by decide +kernel⟩⟩

set_option maxRecDepth 20000 in
/-- States and operands that meet the hypotheses of `RegisterAccessesFollowTheirCodes`, for each of its clauses. -/
theorem meets_RegisterAccessesFollowTheirCodes :
    (∃ (s : State) (a : BitVec 16), s.live.regOpen = true ∧ InTurn s ∧ (findReg s.build a.toNat).isNone =
      true) ∧
    (∃ (s : State) (a : BitVec 16), s.live.regOpen = true ∧ InTurn s ∧ (findReg s.build a.toNat).isSome =
      true ∧ s.live.openReg s.build a.toNat = none ∧ a ≠ 16) ∧
    (∃ (s : State), s.live.cmd.regGo = false ∧ s.live.boot.held = false ∧ (s.live.cmd.regHeld ≠ [] ∨
      s.live.boot.phase < 2 ∨ s.live.switching SwIsland.reg = true)) ∧
    (∃ (s : State) (a : BitVec 16) (r : RegRow) (e : Nat), Served s ∧ s.live.openReg s.build a.toNat =
      some (r, e) ∧ s.live.regPoison s.build r e = true) ∧
    (∃ (s : State) (a : BitVec 16) (r : RegRow) (e : Nat), Served s ∧ s.live.openReg s.build a.toNat =
      some (r, e) ∧ s.live.regPoison s.build r e = false ∧ Tab.wf s.live.rf = true ∧ s.live.pairOf
      s.build r.off e = none) ∧
    (∃ (s : State), Served s ∧ Tab.wf s.live.rf = true ∧ s.live.time.wraps < 4294967296) ∧
    (∃ (s : State) (i : Nat), Served s ∧ s.build.form = Form.buoy ∧ i < 1024 ∧ ((s.live.ctr
      i).snap.isSome = true → s.live.bad (Holder.ctr i) = false) ∧ Tab.wf s.live.rf = true) ∧
    (∃ (s : State) (a : BitVec 16) (r : RegRow) (e : Nat), Served s ∧ s.live.openReg s.build a.toNat =
      some (r, e) ∧ Tab.wf s.live.rf = true ∧ a ≠ 16 ∧ (∀ (x : Nat × (Live → Build → Nat → Word → Live)),
      x ∈ writers1 ++ writers2 → x.fst ≠ r.off)) :=
  ⟨⟨buoy, 0x68, by decide +kernel⟩,
   ⟨w105, 0x44, by decide +kernel⟩,
   ⟨w106, by decide +kernel⟩,
   ⟨w107, 0x4000, ⟨16384, 8, 1024, 0, .none, .none, [⟨16384, 0, 32, .ro, 0, 0⟩]⟩, 0, by decide +kernel⟩,
   ⟨buoy, 0x10, ⟨16, 0, 1, 1, .none, .none, [⟨16, 0, 1, .wo, 0, 0⟩]⟩, 0, by decide +kernel⟩,
   ⟨buoy, by decide +kernel⟩,
   ⟨buoy, 0, by decide +kernel⟩,
   ⟨buoy, 0x3000, ⟨12288, 4, 256, 256, .none, .none, [⟨12288, 0, 32, .ro, 0, 0⟩]⟩, 0, by decide +kernel⟩⟩

set_option maxRecDepth 20000 in
/-- States and operands that meet the hypotheses of `EventsGoToTheLogbookOnly`, for each of its clauses. -/
theorem meets_EventsGoToTheLogbookOnly :
    (∃ (l : Live) (code : Nat) (sev : Nat) (plan : Nat) (status : Nat) (args : List Nat) (e : LogEnt) (t
      : List LogEnt), l.log.live = true ∧ l.log.ents = t ++ [e] ∧ e.ev =
      { code := code, sev := sev, plan := plan, status := status, args := args } ∧ e.rep < 4294967295 ∧
      e.sel = false ∧ e.lseq = l.log.newest ∧ (∀ (a : LogEnt), a ∈ t → a.lseq ≠ e.lseq)) ∧
    (∃ (l : Live) (b : Build) (code : Nat) (sev : Nat) (plan : Nat) (status : Nat) (args : List Nat),
      l.log.live = true ∧ (∀ (e : LogEnt), e ∈ l.log.ents.getLast? → e.ev ≠
      { code := code, sev := sev, plan := plan, status := status, args := args } ∨ e.lseq ≠ l.log.newest)
      ∧ 2 + args.length ≤ b.logWords - usedWords l.log.ents) ∧
    (∃ (l : Live) (b : Build) (code : Nat) (sev : Nat) (plan : Nat) (status : Nat) (args : List Nat),
      l.log.live = true ∧ (∀ (e : LogEnt), e ∈ l.log.ents.getLast? → e.ev ≠
      { code := code, sev := sev, plan := plan, status := status, args := args } ∨ e.lseq ≠ l.log.newest)
      ∧ b.logWords - usedWords l.log.ents < 2 + args.length ∧ Tab.wf l.rf = true ∧ (∀ (e : LogEnt), e ∈
      l.log.ents → e.sel = true ∨ sev < e.ev.sev)) ∧
    (∃ (l : Live), l.log.live = false ∧ l.boot.early.length < 4) :=
  ⟨⟨v24, 2561, 2, 0, 0, [1, 2], ⟨2, ⟨2561, 2, 0, 0, [1, 2]⟩, false, 3, false, none⟩, v25,
    by decide +kernel⟩,
   ⟨v6, ⟨.buoy, false, true, .gib64⟩, 2561, 2561, 2561, 2, [], by decide +kernel⟩,
   ⟨v26, ⟨.buoy, false, true, .gib64⟩, 0, 0, 0, 0, [7], by decide +kernel⟩,
   ⟨v27, by decide +kernel⟩⟩

set_option maxRecDepth 20000 in
/-- States and operands that meet the hypotheses of `TheLogbookIsReadDrainedAndCopied`, for each of its clauses. -/
theorem meets_TheLogbookIsReadDrainedAndCopied :
    (∃ (s : State) (p : Packet), Takes (Instr.logRead p) s p 56 1 ∧ p.data = [] ∧ (3 < p.aBits 0 3 ∨
      p.aBits 4 12 = 0)) ∧
    (∃ (s : State) (p : Packet), Takes (Instr.logRead p) s p 56 1 ∧ p.data = [] ∧ p.aBits 0 3 ≤ 3 ∧ 0 <
      p.aBits 4 12 ∧ s.live.flag s.build F.LOG_CFG_DRAIN_EN = true) ∧
    (∃ (s : State) (p : Packet), Takes (Instr.logRead p) s p 56 1 ∧ p.data = [] ∧ p.aBits 0 3 ≤ 3 ∧ 0 <
      p.aBits 4 12 ∧ s.live.flag s.build F.LOG_CFG_DRAIN_EN = false ∧ (∀ (e : LogEnt), e ∈ takeEnts (max
      1 (p.aBits 0 3)) (p.aBits 4 12) ((if s.build.form = Form.buoy ∧ p.port ≠ Port.mgmt then 254 else
      4095) - b2n p.pchk) s.live.log.ents → e.bad = none)) ∧
    (∃ (s : State) (p : Packet) (e : LogEnt), Takes (Instr.logRead p) s p 56 1 ∧ p.data = [] ∧ p.aBits 0
      3 ≤ 3 ∧ 0 < p.aBits 4 12 ∧ s.live.flag s.build F.LOG_CFG_DRAIN_EN = false ∧ (List.find? (fun x =>
      x.bad.isSome) (takeEnts (max 1 (p.aBits 0 3)) (p.aBits 4 12) ((if s.build.form = Form.buoy ∧ p.port
      ≠ Port.mgmt then 254 else 4095) - b2n p.pchk) s.live.log.ents) = some e)) ∧
    (∃ (s : State), s.live.awake = true ∧ (∀ (e : LogEnt), e ∈ s.live.log.ents → e.sel = false) ∧ (∀ (e :
      LogEnt), e ∈ s.live.log.ents → e.bad = none) ∧ s.live.flag s.build F.LOG_CFG_DRAIN_EN = false) ∧
    (∃ (s : State), s.live.awake = true ∧ (∀ (e : LogEnt), e ∈ s.live.log.ents → e.sel = false) ∧ (∀ (e :
      LogEnt), e ∈ s.live.log.ents → e.bad = none) ∧ s.live.flag s.build F.LOG_CFG_DRAIN_EN = true ∧
      takeEnts (max 1 (s.live.get s.build F.LOG_CFG_DRAIN_MIN)) 127 255 s.live.log.ents = []) ∧
    (∃ (s : State), s.live.awake = true ∧ (∀ (e : LogEnt), e ∈ s.live.log.ents → e.sel = false) ∧ (∀ (e :
      LogEnt), e ∈ s.live.log.ents → e.bad = none) ∧ s.live.flag s.build F.LOG_CFG_DRAIN_EN = true ∧
      takeEnts (max 1 (s.live.get s.build F.LOG_CFG_DRAIN_MIN)) 127 255 s.live.log.ents ≠ [] ∧
      (s.live.fits s.build s.build.mgmtQueue (32 + 8 * usedWords (takeEnts (max 1 (s.live.get s.build
      F.LOG_CFG_DRAIN_MIN)) 127 255 s.live.log.ents)) false).isSome = true) ∧
    (∃ (s : State) (v : Word), Served s ∧ Tab.wf s.live.rf = true ∧ s.live.flag s.build F.LOG_ATTIC_EN =
      true ∧ (BitVec.toNat v).testBit 0 = false) ∧
    (∃ (s : State) (v : Word), Served s ∧ Tab.wf s.live.rf = true ∧ s.live.flag s.build F.LOG_ATTIC_EN =
      true ∧ (BitVec.toNat v).testBit 0 = true) ∧
    (∃ (s : State) (v : Word), Served s ∧ Tab.wf s.live.rf = true ∧ s.live.flag s.build F.LOG_ATTIC_EN =
      false ∧ (BitVec.toNat v).testBit 0 = true) :=
  ⟨⟨buoy, ⟨.mgmt, 1, 0, false, 0x12345678, 0x5a, 0, false, 0, 0x14, []⟩, by decide +kernel⟩,
   ⟨w108, ⟨.mgmt, 1, 0, false, 0x12345678, 0x5a, 0, false, 0, 0x10, []⟩, by decide +kernel⟩,
   ⟨buoy, ⟨.mgmt, 1, 0, false, 0x12345678, 0x5a, 0, false, 0, 0x10, []⟩, by decide +kernel⟩,
   ⟨w109, ⟨.mgmt, 1, 0, false, 0x12345678, 0x5a, 0, false, 0, 0x10, []⟩,
    ⟨0, ⟨2561, 2, 0, 0, [7]⟩, false, 3, false, some 64⟩, by decide +kernel⟩,
   ⟨buoy, by decide +kernel⟩,
   ⟨w108, by decide +kernel⟩,
   ⟨w110, by decide +kernel⟩,
   ⟨w111, 0, by decide +kernel⟩,
   ⟨w111, 1, by decide +kernel⟩,
   ⟨buoy, 1, by decide +kernel⟩⟩

set_option maxRecDepth 20000 in
/-- States and operands that meet the hypotheses of `ScrubbingCountsAndAnswers`, for each of its clauses. -/
theorem meets_ScrubbingCountsAndAnswers :
    (∃ (s : State) (m : BitVec 8), s.live.awake = true ∧ m.toNat ≠ 32 ∧ s.live.memBytes s.build m.toNat ≠
      0 ∧ s.live.flag s.build F.MEM_SCRUB_EN m.toNat = true ∧ s.live.memGated s.build m.toNat (Tab.getD
      s.live.mem.walk m.toNat 0) = false ∧ s.live.knownBad m.toNat (Tab.getD s.live.mem.walk m.toNat 0) =
      false ∧ Tab.wf s.live.mem.walk = true ∧ Tab.wf s.live.mem.lapCe = true ∧ Tab.wf s.live.rf = true ∧
      Tab.getD s.live.mem.walk m.toNat 0 + 8 < s.live.memBytes s.build m.toNat ∧ m ≠ 0) ∧
    (∃ (s : State) (m : BitVec 8), s.live.awake = true ∧ m.toNat ≠ 32 ∧ s.live.memBytes s.build m.toNat ≠
      0 ∧ s.live.flag s.build F.MEM_SCRUB_EN m.toNat = true ∧ s.live.memGated s.build m.toNat (Tab.getD
      s.live.mem.walk m.toNat 0) = false ∧ s.live.knownBad m.toNat (Tab.getD s.live.mem.walk m.toNat 0) =
      false ∧ Tab.wf s.live.mem.walk = true ∧ Tab.wf s.live.mem.lapCe = true ∧ Tab.wf s.live.rf = true ∧
      s.live.memBytes s.build m.toNat ≤ Tab.getD s.live.mem.walk m.toNat 0 + 8) ∧
    (∃ (s : State) (p : Packet), Takes (Instr.scrubRange p) s p 64 2 ∧ p.data.length = 2 ∧
      (s.live.memBytes s.build (p.aBits 0 8) = 0 ∨ BitVec.toNat (wordAt p.data 0) % 8 ≠ 0 ∨ BitVec.toNat
      (wordAt p.data 1) % 8 ≠ 0 ∨ BitVec.toNat (wordAt p.data 1) = 0 ∨ s.live.memBytes s.build (p.aBits 0
      8) < BitVec.toNat (wordAt p.data 0) + BitVec.toNat (wordAt p.data 1))) ∧
    (∃ (s : State) (p : Packet), Takes (Instr.scrubRange p) s p 64 2 ∧ p.data.length = 2 ∧ BitVec.toNat
      (wordAt p.data 0) % 8 = 0 ∧ BitVec.toNat (wordAt p.data 1) % 8 = 0 ∧ 0 < BitVec.toNat (wordAt
      p.data 1) ∧ BitVec.toNat (wordAt p.data 1) ≤ 2 ^ 32 ∧ BitVec.toNat (wordAt p.data 0) + BitVec.toNat
      (wordAt p.data 1) ≤ s.live.memBytes s.build (p.aBits 0 8) ∧ (memShares (p.aBits 0 8) (BitVec.toNat
      (wordAt p.data 0)) (BitVec.toNat (wordAt p.data 1))).any (s.live.memGated s.build (p.aBits 0 8)) =
      true) ∧
    (∃ (s : State) (p : Packet), Takes (Instr.scrubRange p) s p 64 2 ∧ p.data.length = 2 ∧ BitVec.toNat
      (wordAt p.data 0) % 8 = 0 ∧ BitVec.toNat (wordAt p.data 1) % 8 = 0 ∧ 0 < BitVec.toNat (wordAt
      p.data 1) ∧ BitVec.toNat (wordAt p.data 1) ≤ 2 ^ 32 ∧ BitVec.toNat (wordAt p.data 0) + BitVec.toNat
      (wordAt p.data 1) ≤ s.live.memBytes s.build (p.aBits 0 8) ∧ (memShares (p.aBits 0 8) (BitVec.toNat
      (wordAt p.data 0)) (BitVec.toNat (wordAt p.data 1))).any (s.live.memGated s.build (p.aBits 0 8)) =
      false) ∧
    (∃ (s : State) (j : ScrubJob) (ce : Nat), s.live.awake = true ∧ s.live.mem.jobs = [j] ∧ j.mem ≠ 32 ∧
      ce ≤ BitVec.toNat j.len / 8 ∧ ce < 4294967296 ∧ s.live.boot.ready = true ∧ s.live.knownWords j.mem
      (BitVec.toNat j.start) (BitVec.toNat j.len) = []) ∧
    (∃ (s : State) (j : ScrubJob) (f : DWord) (ce : Nat), s.live.awake = true ∧ s.live.mem.jobs = [j] ∧
      j.mem ≠ 32 ∧ j.mem ≠ 0 ∧ ce + 1 ≤ BitVec.toNat j.len / 8 ∧ ce < 4294967296 ∧ s.live.boot.ready =
      true ∧ s.live.knownWords j.mem (BitVec.toNat j.start) (BitVec.toNat j.len) = [] ∧ BitVec.toNat
      j.start ≤ BitVec.toNat f ∧ BitVec.toNat f + 8 ≤ BitVec.toNat j.start + BitVec.toNat j.len ∧
      BitVec.toNat f % 8 = 0 ∧ j.r.port = Port.mgmt) ∧
    (∃ (s : State) (p : BitVec 8), s.live.awake = true ∧ s.live.canaryOf s.build p.toNat = none) ∧
    (∃ (s : State) (p : BitVec 8) (o : OpenCut), s.live.awake = true ∧ s.build.form = Form.lantern ∧
      s.live.canaryOf s.build p.toNat = some (o.epoch, o.t) ∧ (s.live.plan p.toNat).oc = some o ∧ Tab.wf
      s.live.plans = true ∧ Tab.wf s.live.rf = true ∧ reached s.live.ft (o.t + BitVec.ofNat 32 (500 *
      imgPbClose (s.live.plan p.toNat).image)) = false) :=
  ⟨⟨buoy, 1, by decide +kernel⟩,
   ⟨w112, 1, by decide +kernel⟩,
   ⟨buoy, ⟨.mgmt, 1, 0, false, 0x12345678, 0x5a, 2, false, 0, 3, [8, 0]⟩, by decide +kernel⟩,
   ⟨w113, ⟨.mgmt, 1, 0, false, 0x12345678, 0x5a, 2, false, 0, 5, [0, 0x40]⟩, by decide +kernel⟩,
   ⟨buoy, ⟨.mgmt, 1, 0, false, 0x12345678, 0x5a, 2, false, 0, 3, [0, 0x50]⟩, by decide +kernel⟩,
   ⟨w114, ⟨⟨.mgmt, 0, 0, false, 0, 7, true, 50⟩, 3, 0, 0x50, true⟩, 0, by decide +kernel⟩,
   ⟨w114, ⟨⟨.mgmt, 0, 0, false, 0, 7, true, 50⟩, 3, 0, 0x50, true⟩, 0, 0, by decide +kernel⟩,
   ⟨buoy, 0, by decide +kernel⟩,
   ⟨w115, 9, v28, by decide +kernel⟩⟩

set_option maxRecDepth 20000 in
/-- States and operands that meet the hypotheses of `TheRecorderIsArmedStoppedAndRead`, for each of its clauses. -/
theorem meets_TheRecorderIsArmedStoppedAndRead :
    (∃ (s : State) (p : Packet), s.build.form = Form.buoy ∧ Takes (Instr.traceArm p) s p 48 1 ∧
      p.data.length = 9 ∧ s.live.flag s.build F.UNIT_EN_B_BMON = true ∧ s.live.trace.clkStop = false ∧
      p.aBits 0 1 = 1 ∧ trBad p.data = true) ∧
    (∃ (s : State) (p : Packet), s.build.form = Form.buoy ∧ Takes (Instr.traceArm p) s p 48 1 ∧
      p.data.length = 9 ∧ s.live.flag s.build F.UNIT_EN_B_BMON = true ∧ s.live.trace.clkStop = false ∧
      p.aBits 0 1 = 1 ∧ trBad p.data = false) ∧
    (∃ (s : State) (p : Packet), s.build.form = Form.buoy ∧ Takes (Instr.traceDisarm p) s p 48 1 ∧
      p.data.length = 9 ∧ p.aBits 0 1 = 0 ∧ (s.live.trace.st = TrSt.off ∨ s.live.trace.st =
      TrSt.stopped)) ∧
    (∃ (s : State) (p : Packet), s.build.form = Form.buoy ∧ Takes (Instr.traceDisarm p) s p 48 1 ∧
      p.data.length = 9 ∧ p.aBits 0 1 = 0 ∧ (s.live.trace.st = TrSt.armed ∨ s.live.trace.st =
      TrSt.counting) ∧ s.live.trace.slots.length < 512 ∧ s.live.trace.opn ≠ []) ∧
    (∃ (s : State) (p : Packet), s.build.form = Form.buoy ∧ Takes (Instr.traceArm p) s p 48 1 ∧
      p.data.length = 9 ∧ p.aBits 0 1 = 1 ∧ s.live.flag s.build F.UNIT_EN_B_BMON = false) ∧
    (∃ (s : State) (p : Packet), s.build.form = Form.buoy ∧ Takes (Instr.traceArm p) s p 48 1 ∧
      p.data.length = 9 ∧ p.aBits 0 1 = 1 ∧ s.live.flag s.build F.UNIT_EN_B_BMON = true ∧
      s.live.trace.clkStop = true) ∧
    (∃ (s : State) (p : Packet), s.build.form = Form.buoy ∧ Takes (Instr.traceRead p) s p 49 1 ∧ p.data =
      [] ∧ (p.port = Port.mgmt ∨ p.aBits 0 16 + b2n p.pchk ≤ 254) ∧ s.live.flag s.build F.UNIT_EN_B_BMON
      = true ∧ s.live.trace.clkStop = false ∧ p.aBits 0 16 = 0) ∧
    (∃ (s : State) (p : Packet), s.build.form = Form.buoy ∧ Takes (Instr.traceRead p) s p 49 1 ∧ p.data =
      [] ∧ (p.port = Port.mgmt ∨ p.aBits 0 16 + b2n p.pchk ≤ 254) ∧ s.live.flag s.build F.UNIT_EN_B_BMON
      = true ∧ s.live.trace.clkStop = false ∧ 0 < p.aBits 0 16 ∧ s.live.trace.st ≠ TrSt.stopped) ∧
    (∃ (s : State) (p : Packet) (es : List TrEnt) (trig : Bool) (stopped : Bool) (arm : Nat) (ft : Word)
      (a : Nat) (rest : List TrSlot), s.build.form = Form.buoy ∧ Takes (Instr.traceRead p) s p 49 1 ∧
      p.data = [] ∧ (p.port = Port.mgmt ∨ p.aBits 0 16 + b2n p.pchk ≤ 254) ∧ s.live.flag s.build
      F.UNIT_EN_B_BMON = true ∧ s.live.trace.clkStop = false ∧ s.live.trace.st = TrSt.stopped ∧ fld
      (wordAt s.live.trace.arm 0) 52 1 = 0 ∧ s.live.trace.slots = TrSlot.block es trig stopped arm ft
      (some a) :: rest ∧ es.length ≤ 42 ∧ p.aBits 0 16 = 5 + 3 * es.length) ∧
    (∃ (s : State) (p : Packet) (es : List TrEnt) (trig : Bool) (stopped : Bool) (arm : Nat) (ft : Word)
      (rest : List TrSlot), s.build.form = Form.buoy ∧ Takes (Instr.traceRead p) s p 49 1 ∧ p.data = [] ∧
      (p.port = Port.mgmt ∨ p.aBits 0 16 + b2n p.pchk ≤ 254) ∧ s.live.flag s.build F.UNIT_EN_B_BMON =
      true ∧ s.live.trace.clkStop = false ∧ s.live.trace.st = TrSt.stopped ∧ fld (wordAt s.live.trace.arm
      0) 52 1 = 0 ∧ s.live.trace.slots = TrSlot.block es trig stopped arm ft none :: rest ∧ es.length ≤
      42 ∧ p.aBits 0 16 = 5 + 3 * es.length) :=
  ⟨⟨w116, ⟨.mgmt, 1, 0, false, 0x12345678, 0x5a, 9, false, 0, 1, words28⟩, by decide +kernel⟩,
   ⟨w116, ⟨.mgmt, 1, 0, false, 0x12345678, 0x5a, 9, false, 0, 1, words29⟩, by decide +kernel⟩,
   ⟨w116, ⟨.mgmt, 1, 0, false, 0x12345678, 0x5a, 9, false, 0, 0, words28⟩, by decide +kernel⟩,
   ⟨w117, ⟨.mgmt, 1, 0, false, 0x12345678, 0x5a, 9, false, 0, 0, words29⟩, by decide +kernel⟩,
   ⟨w118, ⟨.mgmt, 1, 0, false, 0x12345678, 0x5a, 9, false, 0, 1, words29⟩, by decide +kernel⟩,
   ⟨w119, ⟨.mgmt, 1, 0, false, 0x12345678, 0x5a, 9, false, 0, 1, words28⟩, by decide +kernel⟩,
   ⟨w116, ⟨.mgmt, 1, 0, false, 0x12345678, 0x5a, 0, false, 0, 0, []⟩, by decide +kernel⟩,
   ⟨w116, ⟨.mgmt, 1, 0, false, 0x12345678, 0x5a, 1, true, 0, 0xb, [0xc0d11a8a]⟩, by decide +kernel⟩,
   ⟨w120, ⟨.mgmt, 1, 0, false, 0x12345678, 0x5a, 1, true, 0, 0xb, [0xc0d11a8a]⟩, v29, true, true, 5, 9, 8,
    [], by decide +kernel⟩,
   ⟨w121, ⟨.mgmt, 1, 0, false, 0x12345678, 0x5a, 1, true, 0, 0xb, [0xc0d11a8a]⟩, v29, true, true, 5, 9,
    [], by decide +kernel⟩⟩

set_option maxRecDepth 20000 in
/-- States and operands that meet the hypotheses of `AccessesAreRecordedAndTrigger`, for each of its clauses. -/
theorem meets_AccessesAreRecordedAndTrigger :
    (∃ (s : State) (a : Access) (u : Nat), Monitors s ∧ a.also = 0 ∧ s.live.trace.fogHi = s.live.fogOut
      s.build ∧ s.live.presents a.unit.toNat = some u ∧ fld (wordAt s.live.trace.arm 0) 52 1 = 0 ∧
      s.live.trace.opn.length < 41 ∧ (s.live.trace.st = TrSt.off ∨ s.live.trace.st = TrSt.stopped ∧
      trHits s.live.trace.arm a = false)) ∧
    (∃ (s : State) (a : Access) (u : Nat), Monitors s ∧ a.also = 0 ∧ s.live.trace.fogHi = s.live.fogOut
      s.build ∧ s.live.presents a.unit.toNat = some u ∧ fld (wordAt s.live.trace.arm 0) 52 1 = 0 ∧
      s.live.trace.opn.length < 41 ∧ s.live.trace.st = TrSt.armed ∧ trHits s.live.trace.arm a = false ∧
      trKeeps s.live.trace.arm a u = false) ∧
    (∃ (s : State) (a : Access) (u : Nat), Monitors s ∧ a.also = 0 ∧ s.live.trace.fogHi = s.live.fogOut
      s.build ∧ s.live.presents a.unit.toNat = some u ∧ fld (wordAt s.live.trace.arm 0) 52 1 = 0 ∧
      s.live.trace.opn.length < 41 ∧ s.live.trace.st = TrSt.armed ∧ trHits s.live.trace.arm a = false ∧
      trKeeps s.live.trace.arm a u = true) ∧
    (∃ (s : State) (a : Access) (u : Nat), Monitors s ∧ a.also = 0 ∧ s.live.trace.fogHi = s.live.fogOut
      s.build ∧ s.live.presents a.unit.toNat = some u ∧ fld (wordAt s.live.trace.arm 0) 52 1 = 0 ∧
      s.live.trace.opn.length < 41 ∧ s.live.trace.st = TrSt.armed ∧ trHits s.live.trace.arm a = true ∧
      fld (wordAt s.live.trace.arm 0) 0 32 ≠ 0) ∧
    (∃ (s : State) (a : Access) (u : Nat), Monitors s ∧ a.also = 0 ∧ s.live.trace.fogHi = s.live.fogOut
      s.build ∧ s.live.presents a.unit.toNat = some u ∧ fld (wordAt s.live.trace.arm 0) 52 1 = 0 ∧
      s.live.trace.opn.length < 41 ∧ s.live.trace.st = TrSt.counting ∧ trHits s.live.trace.arm a = false
      ∧ trKeeps s.live.trace.arm a u = true ∧ fld (wordAt s.live.trace.arm 0) 0 32 ≠ 4294967295 ∧ 1 <
      s.live.trace.cnt) ∧
    (∃ (s : State) (a : Access) (u : Nat), Monitors s ∧ a.also = 0 ∧ s.live.trace.fogHi = s.live.fogOut
      s.build ∧ s.live.presents a.unit.toNat = some u ∧ fld (wordAt s.live.trace.arm 0) 52 1 = 0 ∧
      s.live.trace.opn.length < 41 ∧ s.live.trace.st = TrSt.counting ∧ trHits s.live.trace.arm a = false
      ∧ trKeeps s.live.trace.arm a u = true ∧ fld (wordAt s.live.trace.arm 0) 0 32 ≠ 4294967295 ∧
      s.live.trace.cnt = 1 ∧ s.live.trace.slots.length < 512) ∧
    (∃ (s : State) (a : Access) (u : Nat), Monitors s ∧ s.live.presents a.unit.toNat = some u ∧
      s.live.trace.st = TrSt.stopped ∧ s.live.trace.fogHi = s.live.fogOut s.build ∧ (trHits
      s.live.trace.arm a = true ∨ ∃ i, i ∈ s.live.trace.pend ∧ a.also.toNat.testBit i = true ∧ trMask
      s.live.trace.arm i = true)) ∧
    (∃ (w : Watch) (a : Access), w.en = true ∧ a.addr = w.addr ∧ a.size = 3 ∧ a.wr = true) ∧
    (∃ (w : Watch) (a : Access), w.en = true ∧ a.addr = w.addr ∧ a.size = 3 ∧ a.wr = false) ∧
    (∃ (s : State), Served s ∧ Monitors s ∧ (¬4 ∈ s.live.trace.pend)) ∧
    (∃ (s : State), Served s ∧ Monitors s ∧ 4 ∈ s.live.trace.pend) ∧
    (∃ (s : State) (srcs : BitVec 8), Monitors s ∧ s.live.trace.fogHi = s.live.fogOut s.build ∧ (∀ (i :
      Nat), i ∈ s.live.trace.pend → srcs.toNat.testBit i = true → trMask s.live.trace.arm i = false)) ∧
    (∃ (s : State) (srcs : BitVec 8), Monitors s ∧ s.live.trace.fogHi = s.live.fogOut s.build ∧ (∃ i, i ∈
      s.live.trace.pend ∧ srcs.toNat.testBit i = true ∧ trMask s.live.trace.arm i = true) ∧
      s.live.trace.st = TrSt.armed ∧ fld (wordAt s.live.trace.arm 0) 0 32 ≠ 0) ∧
    (∃ (s : State) (srcs : BitVec 8), Monitors s ∧ s.live.trace.fogHi = s.live.fogOut s.build ∧ (∃ i, i ∈
      s.live.trace.pend ∧ srcs.toNat.testBit i = true ∧ trMask s.live.trace.arm i = true) ∧
      (s.live.trace.st = TrSt.counting ∨ s.live.trace.st = TrSt.stopped)) ∧
    (∃ (s : State), Monitors s) ∧
    (∃ (s : State), s.live.awake = true ∧ s.build.form = Form.buoy ∧ s.live.flag s.build F.UNIT_EN_B_BMON
      = true ∧ s.live.trace.clkStop = true ∧ s.live.pwr.st = PwrSt.run ∧ s.live.trace.slots.length < 511
      ∧ s.live.boot.bmonRst = false ∧ s.live.trace.markDue = false) ∧
    (∃ (s : State), s.live.awake = true ∧ s.build.form = Form.buoy ∧ s.live.flag s.build F.UNIT_EN_B_BMON
      = true ∧ s.live.trace.clkStop = true ∧ s.live.pwr.st = PwrSt.run ∧ s.live.trace.slots.length < 511
      ∧ s.live.boot.bmonRst = false ∧ s.live.trace.markDue = true ∧ s.live.trace.entryDue = true ∧
      s.live.trace.on = true ∧ s.live.trace.opn = []) ∧
    (∃ (s : State), s.build.form = Form.buoy ∧ s.live.trace.clkStop = true ∧ s.live.boot.bmonRst = true ∧
      s.live.boot.held = false) ∧
    (∃ (s : State) (v : Word), Served s ∧ s.build.form = Form.buoy ∧ s.live.flag s.build F.UNIT_EN_B_SYNC
      = true ∧ s.live.get s.build F.SYNC_SEL_OBJ < 256 ∧ Tab.wf s.live.trace.watches = true ∧
      (BitVec.toNat v).testBit 5 = false ∧ (BitVec.toNat v).testBit 0 = false) ∧
    (∃ (s : State) (v : Word), Served s ∧ s.build.form = Form.buoy ∧ s.live.flag s.build F.UNIT_EN_B_SYNC
      = true ∧ s.live.get s.build F.SYNC_SEL_OBJ < 256 ∧ Tab.wf s.live.trace.watches = true ∧
      (BitVec.toNat v).testBit 5 = false ∧ (BitVec.toNat v).testBit 0 = true ∧ (s.live.watch (s.live.get
      s.build F.SYNC_SEL_OBJ)).en = false ∧ BitVec.toNat (s.live.watch (s.live.get s.build
      F.SYNC_SEL_OBJ)).addr % 8 ≠ 0) ∧
    (∃ (s : State) (v : Word), Served s ∧ s.build.form = Form.buoy ∧ s.live.flag s.build F.UNIT_EN_B_SYNC
      = true ∧ s.live.get s.build F.SYNC_SEL_OBJ < 256 ∧ Tab.wf s.live.trace.watches = true ∧
      (BitVec.toNat v).testBit 5 = false ∧ (BitVec.toNat v).testBit 0 = true ∧ (s.live.watch (s.live.get
      s.build F.SYNC_SEL_OBJ)).en = false ∧ BitVec.toNat (s.live.watch (s.live.get s.build
      F.SYNC_SEL_OBJ)).addr % 8 = 0) :=
  ⟨⟨w122, ⟨0x1000, true, 3, 5, 0x105, 0⟩, 5, by decide +kernel⟩,
   ⟨w123, ⟨0x1000, true, 3, 5, 0x109, 0⟩, 5, by decide +kernel⟩,
   ⟨w124, ⟨0x3000, false, 2, 5, 7, 0⟩, 5, by decide +kernel⟩,
   ⟨w125, ⟨0x1000, true, 3, 5, 0x109, 0⟩, 5, by decide +kernel⟩,
   ⟨w126, ⟨0x3000, false, 2, 5, 7, 0⟩, 5, by decide +kernel⟩,
   ⟨w127, ⟨0x1000, true, 3, 5, 0x105, 0⟩, 5, by decide +kernel⟩,
   ⟨w128, ⟨0x1004, false, 2, 5, 7, 0⟩, 5, by decide +kernel⟩,
   ⟨v30, ⟨0x1000, true, 3, 5, 0x105, 0⟩, by decide +kernel⟩,
   ⟨v30, ⟨0x1000, false, 3, 5, 7, 0⟩, by decide +kernel⟩,
   ⟨w116, by decide +kernel⟩,
   ⟨w129, by decide +kernel⟩,
   ⟨w116, 0x40, by decide +kernel⟩,
   ⟨w117, 0xff, by decide +kernel⟩,
   ⟨w130, 0xff, by decide +kernel⟩,
   ⟨w116, by decide +kernel⟩,
   ⟨w119, by decide +kernel⟩,
   ⟨w131, by decide +kernel⟩,
   ⟨w132, by decide +kernel⟩,
   ⟨w119, 0, by decide +kernel⟩,
   ⟨w133, 1, by decide +kernel⟩,
   ⟨w116, 5, by decide +kernel⟩⟩

set_option maxRecDepth 20000 in
/-- States and operands that meet the hypotheses of `HangDumpsAreTakenAndNumbered`, for each of its clauses. -/
theorem meets_HangDumpsAreTakenAndNumbered :
    (∃ (s : State) (p : Packet), Takes (Instr.hangDump p) s p 88 1 ∧ p.data = [] ∧ s.live.syncOn s.build
      = true ∧ s.live.trace.hang.isSome = true) ∧
    (∃ (s : State) (p : Packet), s.build.form = Form.buoy ∧ Takes (Instr.hangDump p) s p 88 1 ∧ p.data =
      [] ∧ s.live.syncOn s.build = true ∧ s.live.trace.hang = none ∧ s.live.flag s.build F.UNIT_EN_B_BMON
      = false) ∧
    (∃ (s : State) (p : Packet), s.build.form = Form.buoy ∧ Takes (Instr.hangDump p) s p 88 1 ∧ p.data =
      [] ∧ s.live.syncOn s.build = true ∧ s.live.trace.hang = none ∧ s.live.flag s.build F.UNIT_EN_B_BMON
      = true ∧ s.live.trace.clkStop = true) ∧
    (∃ (s : State) (p : Packet), s.build.form = Form.buoy ∧ Takes (Instr.hangDump p) s p 88 1 ∧ p.data =
      [] ∧ s.live.syncOn s.build = true ∧ s.live.trace.hang = none ∧ s.live.flag s.build F.UNIT_EN_B_BMON
      = true ∧ s.live.trace.clkStop = false) ∧
    (∃ (l : Live) (b : Build) (r : Ret) (n : Nat), l.trace.dumps = [(r, n)] ∧ l.dumpWaits b = true) ∧
    (∃ (l : Live) (b : Build) (r : Ret) (n : Nat), l.trace.dumps = [(r, n)] ∧ l.dumpWaits b = false ∧
      r.port = Port.mgmt) ∧
    (∃ (s : State) (p : Packet), s.build.form = Form.lantern ∧ Takes (Instr.hangDump p) s p 88 1 ∧ p.data
      = [] ∧ s.live.syncOn s.build = true ∧ s.live.trace.hang = none) ∧
    (∃ (s : State) (p : Packet), s.build.form = Form.lantern ∧ Takes (Instr.hangDump p) s p 88 1 ∧ p.data
      = [] ∧ s.live.syncOn s.build = true ∧ s.live.trace.hang = none ∧ s.live.mirrors = []) ∧
    (∃ (s : State) (h : Hang), s.live.awake = true ∧ s.build.form = Form.lantern ∧ s.live.trace.hang =
      some h ∧ h.waiting ≠ []) ∧
    (∃ (s : State) (h : Hang), s.live.awake = true ∧ s.build.form = Form.lantern ∧ s.live.trace.hang =
      some h ∧ h.waiting = []) :=
  ⟨⟨w134, ⟨.mgmt, 1, 0, false, 0x12345678, 0x5a, 0, false, 0, 0, []⟩, by decide +kernel⟩,
   ⟨w118, ⟨.mgmt, 1, 0, false, 0x12345678, 0x5a, 0, false, 0, 0, []⟩, by decide +kernel⟩,
   ⟨w119, ⟨.mgmt, 1, 0, false, 0x12345678, 0x5a, 0, false, 0, 0, []⟩, by decide +kernel⟩,
   ⟨w116, ⟨.mgmt, 1, 0, false, 0x12345678, 0x5a, 0, false, 0, 0, []⟩, by decide +kernel⟩,
   ⟨{ ready with
      trace := { ready.trace with dumps := [(⟨.mgmt, 1, 0, false, 0, 0, false, 0⟩, 0)] },
      created := [(0, rec 0x0B (ready.src buoy.build) 0x3300 0 0 [])] }, buoy.build,
    ⟨.mgmt, 1, 0, false, 0, 0, false, 0⟩, 0, by decide +kernel⟩,
   ⟨v31, ⟨.buoy, false, true, .gib64⟩, ⟨.mgmt, 0, 0, false, 0, 7, true, 50⟩, 3, by decide +kernel⟩,
   ⟨w135, ⟨.mgmt, 1, 0, false, 0x12345678, 0x5a, 0, false, 0, 0, []⟩, by decide +kernel⟩,
   ⟨w135, ⟨.mgmt, 1, 0, false, 0x12345678, 0x5a, 0, false, 0, 0, []⟩, by decide +kernel⟩,
   ⟨w136, ⟨⟨.mgmt, 0, 0, false, 0, 7, true, 50⟩, [4], 0, []⟩, by decide +kernel⟩,
   ⟨w134, ⟨⟨.mgmt, 0, 0, false, 0, 7, true, 50⟩, [], 0, []⟩, by decide +kernel⟩⟩

set_option maxRecDepth 20000 in
/-- States and operands that meet the hypotheses of `LogsAreWrittenAndReplayed`, for each of its clauses. -/
theorem meets_LogsAreWrittenAndReplayed :
    (∃ (s : State) (p : Packet), s.build.form = Form.lantern ∧ Takes (Instr.replayCtlStop p) s p 96 2 ∧
      p.data.length = 2 ∧ p.aBits 0 2 = 0 ∧ s.live.flt.rpl.st = RplSt.off) ∧
    (∃ (s : State) (p : Packet), s.build.form = Form.lantern ∧ Takes (Instr.replayCtlStop p) s p 96 2 ∧
      p.data.length = 2 ∧ p.aBits 0 2 = 0 ∧ s.live.flt.rpl.st = RplSt.logging ∧ s.live.flt.rpl.reply =
      none ∧ s.live.flt.rpl.started = false ∧ p.port = Port.mgmt) ∧
    (∃ (s : State) (p : Packet), s.build.form = Form.lantern ∧ Takes (Instr.replayCtlLog p) s p 96 2 ∧
      p.data.length = 2 ∧ p.aBits 0 2 = 1 ∧ s.live.rangeGated s.build (BitVec.toNat (wordAt p.data 0))
      (BitVec.toNat (wordAt p.data 1)) = false ∧ (BitVec.toNat (wordAt p.data 0) % 8 ≠ 0 ∨ BitVec.toNat
      (wordAt p.data 1) % 8 ≠ 0 ∨ BitVec.toNat (wordAt p.data 1) < 64 ∨ s.live.celBytes s.build <
      BitVec.toNat (wordAt p.data 0) + BitVec.toNat (wordAt p.data 1))) ∧
    (∃ (s : State) (p : Packet), s.build.form = Form.lantern ∧ Takes (Instr.replayCtlLog p) s p 96 2 ∧
      p.data.length = 2 ∧ p.aBits 0 2 = 1 ∧ s.live.rangeGated s.build (BitVec.toNat (wordAt p.data 0))
      (BitVec.toNat (wordAt p.data 1)) = false ∧ BitVec.toNat (wordAt p.data 0) % 8 = 0 ∧ BitVec.toNat
      (wordAt p.data 1) % 8 = 0 ∧ 64 ≤ BitVec.toNat (wordAt p.data 1) ∧ BitVec.toNat (wordAt p.data 1) <
      4294967296 ∧ BitVec.toNat (wordAt p.data 0) + BitVec.toNat (wordAt p.data 1) ≤ s.live.celBytes
      s.build ∧ regionsMeet (BitVec.toNat (wordAt p.data 0), BitVec.toNat (wordAt p.data 0) +
      BitVec.toNat (wordAt p.data 1)) (s.live.queueArea s.build) = false ∧ regionsMeet (BitVec.toNat
      (wordAt p.data 0), BitVec.toNat (wordAt p.data 0) + BitVec.toNat (wordAt p.data 1))
      (s.live.stageArea s.build) = false ∧ s.live.meetsSeries s.build (BitVec.toNat (wordAt p.data 0),
      BitVec.toNat (wordAt p.data 0) + BitVec.toNat (wordAt p.data 1)) 65536 = false ∧ s.live.meetsCopies
      s.build (BitVec.toNat (wordAt p.data 0), BitVec.toNat (wordAt p.data 0) + BitVec.toNat (wordAt
      p.data 1)) 4 = false ∧ (s.live.plan (p.aBits 8 8)).state ≠ PState.running) ∧
    (∃ (s : State) (p : Packet), s.build.form = Form.lantern ∧ Takes (Instr.replayCtlLog p) s p 96 2 ∧
      p.data.length = 2 ∧ p.aBits 0 2 = 1 ∧ s.live.rangeGated s.build (BitVec.toNat (wordAt p.data 0))
      (BitVec.toNat (wordAt p.data 1)) = false ∧ BitVec.toNat (wordAt p.data 0) % 8 = 0 ∧ BitVec.toNat
      (wordAt p.data 1) % 8 = 0 ∧ 64 ≤ BitVec.toNat (wordAt p.data 1) ∧ BitVec.toNat (wordAt p.data 1) <
      4294967296 ∧ BitVec.toNat (wordAt p.data 0) + BitVec.toNat (wordAt p.data 1) ≤ s.live.celBytes
      s.build ∧ regionsMeet (BitVec.toNat (wordAt p.data 0), BitVec.toNat (wordAt p.data 0) +
      BitVec.toNat (wordAt p.data 1)) (s.live.queueArea s.build) = false ∧ regionsMeet (BitVec.toNat
      (wordAt p.data 0), BitVec.toNat (wordAt p.data 0) + BitVec.toNat (wordAt p.data 1))
      (s.live.stageArea s.build) = false ∧ s.live.meetsSeries s.build (BitVec.toNat (wordAt p.data 0),
      BitVec.toNat (wordAt p.data 0) + BitVec.toNat (wordAt p.data 1)) 65536 = false ∧ s.live.meetsCopies
      s.build (BitVec.toNat (wordAt p.data 0), BitVec.toNat (wordAt p.data 0) + BitVec.toNat (wordAt
      p.data 1)) 4 = false ∧ (s.live.plan (p.aBits 8 8)).state = PState.running ∧ s.live.flt.rpl.st =
      RplSt.off) ∧
    (∃ (s : State) (p : Packet), s.build.form = Form.lantern ∧ Takes (Instr.replayCtlReplay p) s p 96 2 ∧
      p.data.length = 2 ∧ p.aBits 0 2 = 2 ∧ s.live.rangeGated s.build (BitVec.toNat (wordAt p.data 0))
      (BitVec.toNat (wordAt p.data 1)) = true) ∧
    (∃ (s : State) (p : Packet), s.build.form = Form.lantern ∧ Takes (Instr.replayCtlReplay p) s p 96 2 ∧
      p.data.length = 2 ∧ p.aBits 0 2 = 2 ∧ s.live.rangeGated s.build (BitVec.toNat (wordAt p.data 0))
      (BitVec.toNat (wordAt p.data 1)) = false ∧ s.live.flt.rpl.st ≠ RplSt.off) ∧
    (∃ (s : State) (p : Packet) (a : Rec) (b : Rec), s.build.form = Form.lantern ∧ Takes
      (Instr.replayCtlReplay p) s p 96 2 ∧ p.port = Port.mgmt ∧ p.data.length = 2 ∧ p.aBits 0 2 = 2 ∧
      s.live.flt.rpl.st = RplSt.off ∧ s.live.logAt (BitVec.toNat (wordAt p.data 0)) (BitVec.toNat (wordAt
      p.data 1)) = [a, b] ∧ rplKind a = 1 ∧ rplKind b = 6 ∧ a.poison = false ∧ b.poison = false ∧
      s.live.rangeGated s.build (BitVec.toNat (wordAt p.data 0)) (BitVec.toNat (wordAt p.data 1)) = false
      ∧ (s.live.readLog s.build (BitVec.toNat (wordAt p.data 0)) (a.len + b.len)).snd = false ∧ fld
      (wordAt a.body 0) 32 10 = s.live.trunk s.build ∧ fld (wordAt a.body 0) 8 8 = p.aBits 8 8 ∧ fld
      (wordAt a.body 1) 0 32 = BitVec.toNat (s.live.plan (p.aBits 8 8)).crc ∧ (s.live.plan (p.aBits 8
      8)).state = PState.verified ∧ (∀ (e : Nat × Plan), e ∈ s.live.plans → e.snd.active = false) ∧
      s.live.engReady s.build (s.live.plan (p.aBits 8 8)).image = true ∧ Tab.wf s.live.plans = true) ∧
    (∃ (s : State), s.live.awake = true ∧ s.live.flt.rpl.st ≠ RplSt.replaying) ∧
    (∃ (s : State) (r : Ret), s.live.awake = true ∧ s.live.flt.rpl.st = RplSt.replaying ∧ s.live.rplNext
      = none ∧ (s.live.plan s.live.flt.rpl.plan).due = [] ∧ (s.live.plan s.live.flt.rpl.plan).occs = [] ∧
      s.live.flt.rpl.reply = some r ∧ r.port = Port.mgmt) :=
  ⟨⟨w137, ⟨.mgmt, 1, 0, false, 0x12345678, 0x5a, 2, false, 0, 0x900, [0, 0]⟩, by decide +kernel⟩,
   ⟨w138, ⟨.mgmt, 1, 0, false, 0x12345678, 0x5a, 2, false, 0, 0x900, [0, 0]⟩, by decide +kernel⟩,
   ⟨w137, v32, by decide +kernel⟩,
   ⟨w135, v33, by decide +kernel⟩,
   ⟨w139, v33, by decide +kernel⟩,
   ⟨w140, v34, by decide +kernel⟩,
   ⟨w138, v34, by decide +kernel⟩,
   ⟨w141, v34, rec1, rec2, by decide +kernel⟩,
   ⟨w119, by decide +kernel⟩,
   ⟨w142, ⟨.mgmt, 0, 0, false, 0, 7, true, 50⟩, by decide +kernel⟩⟩

set_option maxRecDepth 20000 in
/-- States and operands that meet the hypotheses of `CopiesAreKeptAndRestored`, for each of its clauses. -/
theorem meets_CopiesAreKeptAndRestored :
    (∃ (s : State) (n : BitVec 5) (r : Rec) (k : Nat), s.live.copyHere s.build n r = true ∧
      s.live.flt.rest = none ∧ s.live.holdsFor s.build (r.src.toNat / 256) = some k ∧ Tab.wf
      s.live.flt.regions = true ∧ Tab.wf (s.live.region s.build k).defs = true ∧ Tab.wf (s.live.region
      s.build k).blks = true ∧ rplKind r = 17) ∧
    (∃ (s : State) (n : BitVec 5) (r : Rec) (k : Nat) (o : Nat), s.live.copyHere s.build n r = true ∧
      s.live.flt.rest = none ∧ s.live.holdsFor s.build (r.src.toNat / 256) = some k ∧ Tab.wf
      s.live.flt.regions = true ∧ Tab.wf (s.live.region s.build k).defs = true ∧ Tab.wf (s.live.region
      s.build k).blks = true ∧ rplKind r = 16 ∧ s.live.copyOfs s.build k (BitVec.toNat (wordAt r.body 1))
      = some o) ∧
    (∃ (s : State) (n : BitVec 5) (r : Rec) (k : Nat), s.live.copyHere s.build n r = true ∧
      s.live.flt.rest = none ∧ s.live.holdsFor s.build (r.src.toNat / 256) = some k ∧ Tab.wf
      s.live.flt.regions = true ∧ Tab.wf (s.live.region s.build k).defs = true ∧ Tab.wf (s.live.region
      s.build k).blks = true ∧ rplKind r = 16 ∧ s.live.copyOfs s.build k (BitVec.toNat (wordAt r.body 1))
      = none) ∧
    (∃ (s : State) (v : Word), Served s ∧ s.build.form = Form.lantern ∧ Tab.wf s.live.rf = true ∧
      (BitVec.toNat v).testBit 10 = false) ∧
    (∃ (s : State) (k : BitVec 2) (v : Word), Served s ∧ s.build.form = Form.lantern ∧ Tab.wf s.live.rf =
      true ∧ (BitVec.toNat v).testBit 10 = true ∧ s.live.flag s.build F.PCOPY_VALID k.toNat = false ∧
      s.live.celBytes s.build < (s.live.copyRegion s.build k.toNat).snd) ∧
    (∃ (s : State) (n : BitVec 5) (r : Rec), s.live.copyHere s.build n r = true ∧ rplKind r = 18 ∧
      r.poison = false ∧ s.live.holdsFor s.build (r.src.toNat / 256) = none) ∧
    (∃ (s : State) (n : BitVec 5) (r : Rec) (k : Nat), s.live.copyHere s.build n r = true ∧ rplKind r =
      18 ∧ r.poison = false ∧ s.live.holdsFor s.build (r.src.toNat / 256) = some k) ∧
    (∃ (s : State) (v : Word), Served s ∧ s.build.form = Form.lantern ∧ Tab.wf s.live.rf = true ∧
      (BitVec.toNat v).testBit 10 = true ∧ ((List.any s.live.ser.sers fun e => e.snd.on) = true ∨
      (List.any s.live.plans fun e => e.snd.active) = true ∨ s.live.flt.rest.isSome = true)) ∧
    (∃ (s : State) (v : Word), Served s ∧ s.build.form = Form.lantern ∧ Tab.wf s.live.rf = true ∧
      (BitVec.toNat v).testBit 10 = true ∧ (∀ (e : Nat × Ser), e ∈ s.live.ser.sers → e.snd.on = false) ∧
      (∀ (e : Nat × Plan), e ∈ s.live.plans → e.snd.active = false) ∧ s.live.flt.rest = none) ∧
    (∃ (s : State) (n : BitVec 5) (r : Rec) (q : Restore), s.live.copyHere s.build n r = true ∧
      s.live.fromHolder s.build r = true ∧ s.live.flt.rest = some q ∧ rplKind r = 17 ∧ r.poison = false ∧
      (¬copySer r ∈ q.restored) ∧ q.blks = [] ∧ (defEnt (List.drop 1 r.body)).window ≠ []) ∧
    (∃ (s : State) (n : BitVec 5) (r : Rec) (q : Restore), s.live.copyHere s.build n r = true ∧
      s.live.fromHolder s.build r = true ∧ s.live.flt.rest = some q ∧ rplKind r = 19 ∧ q.defs = []) ∧
    (∃ (s : State), s.live.awake = true ∧ s.live.flt.rest = none) ∧
    (∃ (s : State) (q : Restore), s.live.awake = true ∧ s.live.flt.rest = some q) :=
  ⟨⟨w143, 2, rec19, 1, by decide +kernel⟩,
   ⟨w143, 2, rec20, 1, 2098176, by decide +kernel⟩,
   ⟨w143, 2, v35, 1, by decide +kernel⟩,
   ⟨w137, 5, by decide +kernel⟩,
   ⟨w137, 0, 0x401, by decide +kernel⟩,
   ⟨w143, 2, rec21, by decide +kernel⟩,
   ⟨w143, 2, rec22, 1, by decide +kernel⟩,
   ⟨w144, 0x401, by decide +kernel⟩,
   ⟨w137, 0x401, by decide +kernel⟩,
   ⟨w144, 2, rec23, ⟨[], [], []⟩, by decide +kernel⟩,
   ⟨w144, 2, rec24, ⟨[], [], []⟩, by decide +kernel⟩,
   ⟨w119, by decide +kernel⟩,
   ⟨w144, ⟨[], [], []⟩, by decide +kernel⟩⟩

set_option maxRecDepth 20000 in
/-- States and operands that meet the hypotheses of `PlanCommandsFollowTheEntry`, for each of its clauses. -/
theorem meets_PlanCommandsFollowTheEntry :
    (∃ (s : State) (p : Packet), Tab.wf s.live.plans = true ∧ Takes (Instr.planVerify p) s p 17 1 ∧
      p.data = [] ∧ (s.live.plan (p.aBits 0 8)).state ≠ PState.loaded ∧ (s.live.plan (p.aBits 0 8)).state
      ≠ PState.verified) ∧
    (∃ (s : State) (p : Packet) (e : Nat × Nat), Tab.wf s.live.plans = true ∧ Takes (Instr.planVerify p)
      s p 17 1 ∧ p.data = [] ∧ ((s.live.plan (p.aBits 0 8)).state = PState.loaded ∨ (s.live.plan (p.aBits
      0 8)).state = PState.verified) ∧ (s.live.plan (p.aBits 0 8)).collecting = false ∧ s.live.bad
      (Holder.plan (p.aBits 0 8)) = false ∧ s.build.form = Form.buoy ∧ secBad (s.live.plan (p.aBits 0
      8)).image (p.aBits 0 8) = some e) ∧
    (∃ (s : State) (p : Packet), Tab.wf s.live.plans = true ∧ Takes (Instr.planVerify p) s p 17 1 ∧
      p.data = [] ∧ ((s.live.plan (p.aBits 0 8)).state = PState.loaded ∨ (s.live.plan (p.aBits 0
      8)).state = PState.verified) ∧ (s.live.plan (p.aBits 0 8)).collecting = false ∧ s.live.bad
      (Holder.plan (p.aBits 0 8)) = false ∧ s.build.form = Form.buoy ∧ secBad (s.live.plan (p.aBits 0
      8)).image (p.aBits 0 8) = none ∧ s.live.ownedBad s.build (p.aBits 0 8) = none) ∧
    (∃ (s : State) (p : Packet) (e : Nat × Nat), Tab.wf s.live.plans = true ∧ Takes (Instr.planVerify p)
      s p 17 1 ∧ p.data = [] ∧ ((s.live.plan (p.aBits 0 8)).state = PState.loaded ∨ (s.live.plan (p.aBits
      0 8)).state = PState.verified) ∧ (s.live.plan (p.aBits 0 8)).collecting = false ∧ s.live.bad
      (Holder.plan (p.aBits 0 8)) = false ∧ s.build.form = Form.lantern ∧ s.live.imgBad s.build (p.aBits
      0 8) = some e) ∧
    (∃ (s : State) (p : Packet), Tab.wf s.live.plans = true ∧ Takes (Instr.planVerify p) s p 17 1 ∧
      p.data = [] ∧ ((s.live.plan (p.aBits 0 8)).state = PState.loaded ∨ (s.live.plan (p.aBits 0
      8)).state = PState.verified) ∧ (s.live.plan (p.aBits 0 8)).collecting = false ∧ s.live.bad
      (Holder.plan (p.aBits 0 8)) = false ∧ s.build.form = Form.lantern ∧ s.live.imgBad s.build (p.aBits
      0 8) = none ∧ imgNamed (s.live.plan (p.aBits 0 8)).image = []) ∧
    (∃ (s : State) (p : Packet), Tab.wf s.live.plans = true ∧ Takes (Instr.planVerify p) s p 17 1 ∧
      p.data = [] ∧ ((s.live.plan (p.aBits 0 8)).state = PState.loaded ∨ (s.live.plan (p.aBits 0
      8)).state = PState.verified) ∧ (s.live.plan (p.aBits 0 8)).collecting = false ∧ s.live.bad
      (Holder.plan (p.aBits 0 8)) = false ∧ s.build.form = Form.lantern ∧ s.live.imgBad s.build (p.aBits
      0 8) = none ∧ imgNamed (s.live.plan (p.aBits 0 8)).image ≠ []) ∧
    (∃ (s : State) (p : Packet), Tab.wf s.live.plans = true ∧ Takes (Instr.planAbort p) s p 19 1 ∧ p.data
      = [] ∧ (s.live.plan (p.aBits 0 8)).active = false) ∧
    (∃ (s : State) (p : Packet) (n : Nat), Tab.wf s.live.plans = true ∧ Takes (Instr.planAbort p) s p 19
      1 ∧ p.data = [] ∧ (s.live.plan (p.aBits 0 8)).active = true ∧ p.aBits 0 8 ≠ 0 ∧ (s.live.plan
      (p.aBits 0 8)).armReply = none ∧ (s.live.plan (p.aBits 0 8)).cutReplies = [] ∧ s.live.flt.rpl.st =
      RplSt.off ∧ (∀ (e : Nat × Plan), e ∈ s.live.plans → e.snd.cond ≠ some (p.aBits 0 8)) ∧ imgNamed
      (s.live.plan (p.aBits 0 8)).image = [] ∧ p.port = Port.mgmt ∧ imgBcastLinks (s.live.plan (p.aBits 0
      8)).image = [n] ∧ s.live.isRoot s.build (s.live.plan (p.aBits 0 8)) = true ∧ (s.live.link n).pln =
      []) ∧
    (∃ (s : State) (p : Packet), Tab.wf s.live.plans = true ∧ Takes (Instr.planAbort p) s p 19 1 ∧ p.data
      = [] ∧ (s.live.plan (p.aBits 0 8)).active = true ∧ p.aBits 0 8 ≠ 0 ∧ (s.live.plan (p.aBits 0
      8)).armReply = none ∧ (s.live.plan (p.aBits 0 8)).cutReplies = [] ∧ s.live.flt.rpl.st = RplSt.off ∧
      (∀ (e : Nat × Plan), e ∈ s.live.plans → e.snd.cond ≠ some (p.aBits 0 8)) ∧ imgNamed (s.live.plan
      (p.aBits 0 8)).image = [] ∧ p.port = Port.mgmt ∧ s.live.isRoot s.build (s.live.plan (p.aBits 0 8))
      = false) ∧
    (∃ (s : State) (p : Packet), Tab.wf s.live.plans = true ∧ Takes (Instr.planTeardown p) s p 20 1 ∧
      p.data = [] ∧ ((s.live.plan (p.aBits 0 8)).state = PState.loading ∨ (s.live.plan (p.aBits 0
      8)).state = PState.loaded ∨ (s.live.plan (p.aBits 0 8)).state = PState.verified) ∧ (s.live.plan
      (p.aBits 0 8)).collecting = false) ∧
    (∃ (s : State) (p : Packet), Tab.wf s.live.plans = true ∧ Takes (Instr.planTeardown p) s p 20 1 ∧
      p.data = [] ∧ ((s.live.plan (p.aBits 0 8)).state = PState.empty ∨ (s.live.plan (p.aBits 0
      8)).active = true)) ∧
    (∃ (s : State) (p : Packet), Tab.wf s.live.plans = true ∧ Takes (Instr.planTeardown p) s p 20 1 ∧
      p.data.length = 1 ∧ (s.live.plan (p.aBits 0 8)).owns = false) ∧
    (∃ (s : State) (p : Packet), Tab.wf s.live.plans = true ∧ Takes (Instr.planTeardown p) s p 20 1 ∧
      p.data.length = 1 ∧ s.build.form = Form.lantern ∧ s.live.isRoot s.build (s.live.plan (p.aBits 0 8))
      = false) ∧
    (∃ (s : State) (p : Packet), Tab.wf s.live.plans = true ∧ Takes (Instr.planTeardown p) s p 20 1 ∧
      p.data.length = 1 ∧ (s.live.plan (p.aBits 0 8)).tdEn = true ∧ 0 < ftDiff (BitVec.ofNat 32 (fld
      (wordAt p.data 0) 0 32)) (s.live.plan (p.aBits 0 8)).d) ∧
    (∃ (s : State) (p : Packet), Tab.wf s.live.plans = true ∧ Takes (Instr.planTeardown p) s p 20 1 ∧
      p.data.length = 1 ∧ s.build.form = Form.buoy ∧ (s.live.plan (p.aBits 0 8)).owns = true ∧
      s.live.timed = true ∧ ((s.live.plan (p.aBits 0 8)).tdEn = true → ftDiff (BitVec.ofNat 32 (fld
      (wordAt p.data 0) 0 32)) (s.live.plan (p.aBits 0 8)).d ≤ 0) ∧ s.live.inWindow (BitVec.ofNat 32 (fld
      (wordAt p.data 0) 0 32)) = false) ∧
    (∃ (s : State) (p : Packet), Tab.wf s.live.plans = true ∧ Takes (Instr.planTeardown p) s p 20 1 ∧
      p.data.length = 1 ∧ s.build.form = Form.buoy ∧ (s.live.plan (p.aBits 0 8)).owns = true ∧
      s.live.timed = true ∧ ((s.live.plan (p.aBits 0 8)).tdEn = true → ftDiff (BitVec.ofNat 32 (fld
      (wordAt p.data 0) 0 32)) (s.live.plan (p.aBits 0 8)).d ≤ 0) ∧ s.live.inWindow (BitVec.ofNat 32 (fld
      (wordAt p.data 0) 0 32)) = true ∧ s.live.holdsCmp (Owner.teardown (p.aBits 0 8)) = false ∧
      s.live.cmpFree s.build = false) ∧
    (∃ (s : State) (p : Packet), Tab.wf s.live.plans = true ∧ Takes (Instr.planTeardown p) s p 20 1 ∧
      p.data.length = 1 ∧ s.build.form = Form.buoy ∧ (s.live.plan (p.aBits 0 8)).owns = true ∧
      s.live.timed = true ∧ ((s.live.plan (p.aBits 0 8)).tdEn = true → ftDiff (BitVec.ofNat 32 (fld
      (wordAt p.data 0) 0 32)) (s.live.plan (p.aBits 0 8)).d ≤ 0) ∧ s.live.inWindow (BitVec.ofNat 32 (fld
      (wordAt p.data 0) 0 32)) = true ∧ (s.live.holdsCmp (Owner.teardown (p.aBits 0 8)) = true ∨
      s.live.cmpFree s.build = true) ∧ ((s.live.plan (p.aBits 0 8)).tdEn = true → BitVec.ofNat 32 (fld
      (wordAt p.data 0) 0 32) ≠ (s.live.plan (p.aBits 0 8)).d)) :=
  ⟨⟨w145, ⟨.mgmt, 1, 0, false, 0x12345678, 0x5a, 0, false, 0, 9, []⟩, by decide +kernel⟩,
   ⟨w146, ⟨.mgmt, 1, 0, false, 0x12345678, 0x5a, 0, false, 0, 9, []⟩, (5, 0), by decide +kernel⟩,
   ⟨w147, ⟨.mgmt, 1, 0, false, 0x12345678, 0x5a, 0, false, 0, 9, []⟩, by decide +kernel⟩,
   ⟨w148, ⟨.mgmt, 1, 0, false, 0x12345678, 0x5a, 0, false, 0, 9, []⟩, (5, 24), by decide +kernel⟩,
   ⟨w149, ⟨.mgmt, 1, 0, false, 0x12345678, 0x5a, 0, false, 0, 9, []⟩, by decide +kernel⟩,
   ⟨w150, ⟨.mgmt, 1, 0, false, 0x12345678, 0x5a, 0, false, 0, 9, []⟩, by decide +kernel⟩,
   ⟨w145, ⟨.mgmt, 1, 0, false, 0x12345678, 0x5a, 0, false, 0, 9, []⟩, by decide +kernel⟩,
   ⟨w151, ⟨.mgmt, 1, 0, false, 0x12345678, 0x5a, 0, false, 0, 9, []⟩, 2, by decide +kernel⟩,
   ⟨w152, ⟨.mgmt, 1, 0, false, 0x12345678, 0x5a, 0, false, 0, 9, []⟩, by decide +kernel⟩,
   ⟨w153, ⟨.mgmt, 1, 0, false, 0x12345678, 0x5a, 0, false, 0, 9, []⟩, by decide +kernel⟩,
   ⟨w145, ⟨.mgmt, 1, 0, false, 0x12345678, 0x5a, 0, false, 0, 9, []⟩, by decide +kernel⟩,
   ⟨w154, ⟨.mgmt, 1, 0, false, 0x12345678, 0x5a, 1, false, 0, 9, [0x2dc6c0]⟩, by decide +kernel⟩,
   ⟨w154, ⟨.mgmt, 1, 0, false, 0x12345678, 0x5a, 1, false, 0, 9, [0x2dc6c0]⟩, by decide +kernel⟩,
   ⟨w155, ⟨.mgmt, 1, 0, false, 0x12345678, 0x5a, 1, false, 0, 9, [0x5b8d80]⟩, by decide +kernel⟩,
   ⟨w156, ⟨.mgmt, 1, 0, false, 0x12345678, 0x5a, 1, false, 0, 9, [4]⟩, by decide +kernel⟩,
   ⟨w157, ⟨.mgmt, 1, 0, false, 0x12345678, 0x5a, 1, false, 0, 9, [0x2dc6c0]⟩, by decide +kernel⟩,
   ⟨w156, ⟨.mgmt, 1, 0, false, 0x12345678, 0x5a, 1, false, 0, 9, [0x2dc6c0]⟩, by decide +kernel⟩⟩

set_option maxRecDepth 20000 in
/-- States and operands that meet the hypotheses of `PlansAreArmedAndCutByCommand`, for each of its clauses. -/
theorem meets_PlansAreArmedAndCutByCommand :
    (∃ (s : State) (p : Packet), Tab.wf s.live.plans = true ∧ Tab.wf s.live.links = true ∧ p.aBits 0 8 ≠
      0 ∧ Takes (Instr.planArm p) s p 18 1 ∧ p.data.length = 2 ∧ s.live.planGated s.build (s.live.plan
      (p.aBits 0 8)) = true) ∧
    (∃ (s : State) (p : Packet), Tab.wf s.live.plans = true ∧ Tab.wf s.live.links = true ∧ p.aBits 0 8 ≠
      0 ∧ Takes (Instr.planArm p) s p 18 1 ∧ p.data.length = 2 ∧ s.live.planGated s.build (s.live.plan
      (p.aBits 0 8)) = false ∧ bit (wordAt p.data 1) 0 = true ∧ ftDiff (BitVec.ofNat 32 (fld (wordAt
      p.data 0) 32 32)) (BitVec.ofNat 32 (fld (wordAt p.data 0) 0 32)) ≤ 0) ∧
    (∃ (s : State) (p : Packet), Tab.wf s.live.plans = true ∧ Tab.wf s.live.links = true ∧ p.aBits 0 8 ≠
      0 ∧ Takes (Instr.planArm p) s p 18 1 ∧ p.data.length = 2 ∧ s.live.planGated s.build (s.live.plan
      (p.aBits 0 8)) = false ∧ s.build.form = Form.buoy ∧ (bit (wordAt p.data 1) 0 = true → 0 < ftDiff
      (BitVec.ofNat 32 (fld (wordAt p.data 0) 32 32)) (BitVec.ofNat 32 (fld (wordAt p.data 0) 0 32))) ∧
      ((s.live.plan (p.aBits 0 8)).state ≠ PState.verified ∨ s.live.timed = false)) ∧
    (∃ (s : State) (p : Packet), Tab.wf s.live.plans = true ∧ Tab.wf s.live.links = true ∧ p.aBits 0 8 ≠
      0 ∧ Takes (Instr.planArm p) s p 18 1 ∧ p.data.length = 2 ∧ s.live.planGated s.build (s.live.plan
      (p.aBits 0 8)) = false ∧ s.build.form = Form.buoy ∧ (bit (wordAt p.data 1) 0 = true → 0 < ftDiff
      (BitVec.ofNat 32 (fld (wordAt p.data 0) 32 32)) (BitVec.ofNat 32 (fld (wordAt p.data 0) 0 32))) ∧
      s.live.cutvecHeld s.build (s.live.plan (p.aBits 0 8)).image = true) ∧
    (∃ (s : State) (p : Packet), Tab.wf s.live.plans = true ∧ Tab.wf s.live.links = true ∧ p.aBits 0 8 ≠
      0 ∧ Takes (Instr.planArm p) s p 18 1 ∧ p.data.length = 2 ∧ s.live.planGated s.build (s.live.plan
      (p.aBits 0 8)) = false ∧ s.build.form = Form.buoy ∧ (bit (wordAt p.data 1) 0 = true → 0 < ftDiff
      (BitVec.ofNat 32 (fld (wordAt p.data 0) 32 32)) (BitVec.ofNat 32 (fld (wordAt p.data 0) 0 32))) ∧
      (s.live.plan (p.aBits 0 8)).state = PState.verified ∧ s.live.timed = true ∧ (s.live.plan (p.aBits 0
      8)).collecting = false ∧ s.live.cutvecHeld s.build (s.live.plan (p.aBits 0 8)).image = false ∧
      s.live.inWindow (BitVec.ofNat 32 (fld (wordAt p.data 0) 0 32)) = false) ∧
    (∃ (s : State) (p : Packet), Tab.wf s.live.plans = true ∧ Tab.wf s.live.links = true ∧ p.aBits 0 8 ≠
      0 ∧ Takes (Instr.planArm p) s p 18 1 ∧ p.data.length = 2 ∧ s.live.planGated s.build (s.live.plan
      (p.aBits 0 8)) = false ∧ s.build.form = Form.buoy ∧ (bit (wordAt p.data 1) 0 = true → 0 < ftDiff
      (BitVec.ofNat 32 (fld (wordAt p.data 0) 32 32)) (BitVec.ofNat 32 (fld (wordAt p.data 0) 0 32))) ∧
      (s.live.plan (p.aBits 0 8)).state = PState.verified ∧ s.live.timed = true ∧ (s.live.plan (p.aBits 0
      8)).collecting = false ∧ s.live.cutvecHeld s.build (s.live.plan (p.aBits 0 8)).image = false ∧
      s.live.inWindow (BitVec.ofNat 32 (fld (wordAt p.data 0) 0 32)) = true ∧ (bit (wordAt p.data 1) 0 =
      true → s.live.inWindow (BitVec.ofNat 32 (fld (wordAt p.data 0) 32 32)) = true) ∧ (32 <
      s.live.cmpUsed + 1 + b2n (bit (wordAt p.data 1) 0) ∨ s.live.armClash s.build (p.aBits 0 8)
      (BitVec.ofNat 32 (fld (wordAt p.data 0) 0 32)) = true)) ∧
    (∃ (s : State) (p : Packet), Tab.wf s.live.plans = true ∧ Tab.wf s.live.links = true ∧ p.aBits 0 8 ≠
      0 ∧ Takes (Instr.planArm p) s p 18 1 ∧ p.data.length = 2 ∧ s.live.planGated s.build (s.live.plan
      (p.aBits 0 8)) = false ∧ s.build.form = Form.buoy ∧ (bit (wordAt p.data 1) 0 = true → 0 < ftDiff
      (BitVec.ofNat 32 (fld (wordAt p.data 0) 32 32)) (BitVec.ofNat 32 (fld (wordAt p.data 0) 0 32))) ∧
      (s.live.plan (p.aBits 0 8)).state = PState.verified ∧ s.live.timed = true ∧ (s.live.plan (p.aBits 0
      8)).collecting = false ∧ s.live.cutvecHeld s.build (s.live.plan (p.aBits 0 8)).image = false ∧
      s.live.inWindow (BitVec.ofNat 32 (fld (wordAt p.data 0) 0 32)) = true ∧ (bit (wordAt p.data 1) 0 =
      true → s.live.inWindow (BitVec.ofNat 32 (fld (wordAt p.data 0) 32 32)) = true) ∧ s.live.cmpUsed + 1
      + b2n (bit (wordAt p.data 1) 0) ≤ 32 ∧ s.live.activeCount < 16 ∧ s.live.bad (Holder.plan (p.aBits 0
      8)) = false ∧ s.live.armClash s.build (p.aBits 0 8) (BitVec.ofNat 32 (fld (wordAt p.data 0) 0 32))
      = false ∧ Tab.wf s.live.qws = true ∧ s.live.holdsCmp (Owner.start (p.aBits 0 8)) = false ∧
      s.live.holdsCmp (Owner.teardown (p.aBits 0 8)) = false ∧ p.port = Port.mgmt) ∧
    (∃ (s : State) (p : Packet), Tab.wf s.live.plans = true ∧ Tab.wf s.live.links = true ∧ p.aBits 0 8 ≠
      0 ∧ Takes (Instr.planArm p) s p 18 1 ∧ p.data.length = 2 ∧ s.live.planGated s.build (s.live.plan
      (p.aBits 0 8)) = false ∧ s.build.form = Form.lantern ∧ bit (wordAt p.data 1) 0 = false ∧
      s.live.flag s.build F.SCH_CTL_GRID_EN = true ∧ s.live.cellBoundary s.build (BitVec.ofNat 32 (fld
      (wordAt p.data 0) 0 32)) = false) ∧
    (∃ (s : State) (p : Packet), Tab.wf s.live.plans = true ∧ Tab.wf s.live.links = true ∧ p.aBits 0 8 ≠
      0 ∧ Takes (Instr.planArm p) s p 18 1 ∧ p.data.length = 2 ∧ s.live.planGated s.build (s.live.plan
      (p.aBits 0 8)) = false ∧ s.build.form = Form.lantern ∧ bit (wordAt p.data 1) 0 = false ∧
      s.live.flag s.build F.SCH_CTL_GRID_EN = false) ∧
    (∃ (s : State) (p : Packet), Tab.wf s.live.plans = true ∧ Tab.wf s.live.links = true ∧ p.aBits 0 8 ≠
      0 ∧ Takes (Instr.planArm p) s p 18 1 ∧ p.data.length = 2 ∧ s.live.planGated s.build (s.live.plan
      (p.aBits 0 8)) = false ∧ s.build.form = Form.lantern ∧ bit (wordAt p.data 1) 0 = false ∧
      s.live.flag s.build F.SCH_CTL_GRID_EN = true ∧ s.live.cellBoundary s.build (BitVec.ofNat 32 (fld
      (wordAt p.data 0) 0 32)) = true ∧ s.live.isRoot s.build (s.live.plan (p.aBits 0 8)) = false) ∧
    (∃ (s : State) (p : Packet), Tab.wf s.live.plans = true ∧ Tab.wf s.live.links = true ∧ p.aBits 0 8 ≠
      0 ∧ Takes (Instr.planArm p) s p 18 1 ∧ p.data.length = 2 ∧ s.live.planGated s.build (s.live.plan
      (p.aBits 0 8)) = false ∧ s.build.form = Form.lantern ∧ bit (wordAt p.data 1) 0 = false ∧
      s.live.flag s.build F.SCH_CTL_GRID_EN = true ∧ s.live.cellBoundary s.build (BitVec.ofNat 32 (fld
      (wordAt p.data 0) 0 32)) = true ∧ s.live.isRoot s.build (s.live.plan (p.aBits 0 8)) = true ∧
      (s.live.plan (p.aBits 0 8)).state = PState.verified ∧ s.live.timed = true ∧ (s.live.plan (p.aBits 0
      8)).collecting = false ∧ s.live.engReady s.build (s.live.plan (p.aBits 0 8)).image = true ∧
      BitVec.toNat (BitVec.ofNat 32 (fld (wordAt p.data 0) 0 32) - s.live.ft) < 60000000) ∧
    (∃ (s : State) (p : Packet) (n : Nat), Tab.wf s.live.plans = true ∧ Tab.wf s.live.links = true ∧
      p.aBits 0 8 ≠ 0 ∧ Takes (Instr.planArm p) s p 18 1 ∧ p.data.length = 2 ∧ s.live.planGated s.build
      (s.live.plan (p.aBits 0 8)) = false ∧ s.build.form = Form.lantern ∧ bit (wordAt p.data 1) 0 = false
      ∧ s.live.flag s.build F.SCH_CTL_GRID_EN = true ∧ s.live.cellBoundary s.build (BitVec.ofNat 32 (fld
      (wordAt p.data 0) 0 32)) = true ∧ s.live.isRoot s.build (s.live.plan (p.aBits 0 8)) = true ∧
      (s.live.plan (p.aBits 0 8)).state = PState.verified ∧ s.live.timed = true ∧ (s.live.plan (p.aBits 0
      8)).collecting = false ∧ s.live.engReady s.build (s.live.plan (p.aBits 0 8)).image = true ∧
      60000000 ≤ BitVec.toNat (BitVec.ofNat 32 (fld (wordAt p.data 0) 0 32) - s.live.ft) ∧
      s.live.inWindow (BitVec.ofNat 32 (fld (wordAt p.data 0) 0 32)) = true ∧ s.live.armSlot s.build
      (p.aBits 0 8) (BitVec.ofNat 32 (fld (wordAt p.data 0) 0 32)) false = false ∧ s.live.bad
      (Holder.plan (p.aBits 0 8)) = false ∧ (s.live.plan (p.aBits 0 8)).buoyOk = [] ∧ imgBcastLinks
      (s.live.plan (p.aBits 0 8)).image = [n]) ∧
    (∃ (s : State) (p : Packet) (q : Nat), Tab.wf s.live.plans = true ∧ Tab.wf s.live.links = true ∧
      p.aBits 0 8 ≠ 0 ∧ Takes (Instr.cutAt p) s p 24 1 ∧ p.data.length = 1 ∧ s.build.form = Form.buoy ∧
      (s.live.plan (p.aBits 0 8)).lastLatched = some q ∧ (s.live.plan (p.aBits 0 8)).owns = true ∧
      epochLater (fld (wordAt p.data 0) 32 16) q = false) ∧
    (∃ (s : State) (p : Packet), Tab.wf s.live.plans = true ∧ Tab.wf s.live.links = true ∧ p.aBits 0 8 ≠
      0 ∧ Takes (Instr.cutAt p) s p 24 1 ∧ p.data.length = 1 ∧ s.build.form = Form.buoy ∧ (∀ (q : Nat),
      (s.live.plan (p.aBits 0 8)).lastLatched = some q → epochLater (fld (wordAt p.data 0) 32 16) q =
      true) ∧ ((s.live.plan (p.aBits 0 8)).owns = false ∨ secCmdCut (s.live.plan (p.aBits 0 8)).image =
      false ∨ s.live.timed = false)) ∧
    (∃ (s : State) (p : Packet), Tab.wf s.live.plans = true ∧ Tab.wf s.live.links = true ∧ p.aBits 0 8 ≠
      0 ∧ Takes (Instr.cutAt p) s p 24 1 ∧ p.data.length = 1 ∧ s.build.form = Form.buoy ∧ (∀ (q : Nat),
      (s.live.plan (p.aBits 0 8)).lastLatched = some q → epochLater (fld (wordAt p.data 0) 32 16) q =
      true) ∧ (s.live.plan (p.aBits 0 8)).owns = true ∧ secCmdCut (s.live.plan (p.aBits 0 8)).image =
      true ∧ s.live.timed = true ∧ s.live.inWindow (BitVec.ofNat 32 (fld (wordAt p.data 0) 0 32)) =
      false) ∧
    (∃ (s : State) (p : Packet), Tab.wf s.live.plans = true ∧ Tab.wf s.live.links = true ∧ p.aBits 0 8 ≠
      0 ∧ Takes (Instr.cutAt p) s p 24 1 ∧ p.data.length = 1 ∧ s.build.form = Form.buoy ∧ (∀ (q : Nat),
      (s.live.plan (p.aBits 0 8)).lastLatched = some q → epochLater (fld (wordAt p.data 0) 32 16) q =
      true) ∧ (s.live.plan (p.aBits 0 8)).owns = true ∧ secCmdCut (s.live.plan (p.aBits 0 8)).image =
      true ∧ s.live.timed = true ∧ s.live.inWindow (BitVec.ofNat 32 (fld (wordAt p.data 0) 0 32)) = true
      ∧ s.live.cmpFree s.build = false) ∧
    (∃ (s : State) (p : Packet), Tab.wf s.live.plans = true ∧ Tab.wf s.live.links = true ∧ p.aBits 0 8 ≠
      0 ∧ Takes (Instr.cutAt p) s p 24 1 ∧ p.data.length = 1 ∧ s.build.form = Form.buoy ∧ (∀ (q : Nat),
      (s.live.plan (p.aBits 0 8)).lastLatched = some q → epochLater (fld (wordAt p.data 0) 32 16) q =
      true) ∧ (s.live.plan (p.aBits 0 8)).owns = true ∧ secCmdCut (s.live.plan (p.aBits 0 8)).image =
      true ∧ s.live.timed = true ∧ s.live.inWindow (BitVec.ofNat 32 (fld (wordAt p.data 0) 0 32)) = true
      ∧ s.live.cmpFree s.build = true ∧ s.live.holdsCmp (Owner.cut (p.aBits 0 8) (fld (wordAt p.data 0)
      32 16)) = false) ∧
    (∃ (s : State) (p : Packet) (q : Word), Tab.wf s.live.plans = true ∧ Tab.wf s.live.links = true ∧
      p.aBits 0 8 ≠ 0 ∧ Takes (Instr.cutAt p) s p 24 1 ∧ p.data.length = 1 ∧ s.build.form = Form.lantern
      ∧ (s.live.plan (p.aBits 0 8)).lastT = some q ∧ ftDiff (BitVec.ofNat 32 (fld (wordAt p.data 0) 0
      32)) q < 500000) ∧
    (∃ (s : State) (p : Packet), (∀ (q : Word), q ∈ (s.live.plan (p.aBits 0 8)).lastT → 500000 ≤ ftDiff
      (BitVec.ofNat 32 (fld (wordAt p.data 0) 0 32)) q) ∧ Tab.wf s.live.plans = true ∧ Tab.wf
      s.live.links = true ∧ p.aBits 0 8 ≠ 0 ∧ Takes (Instr.cutAt p) s p 24 1 ∧ p.data.length = 1 ∧
      s.build.form = Form.lantern ∧ ((s.live.plan (p.aBits 0 8)).owns = false ∨ imgCmdCut (s.live.plan
      (p.aBits 0 8)).image = false ∨ s.live.isRoot s.build (s.live.plan (p.aBits 0 8)) = false ∨
      (s.live.plan (p.aBits 0 8)).tdEn = true ∧ ftDiff (s.live.plan (p.aBits 0 8)).d (BitVec.ofNat 32
      (fld (wordAt p.data 0) 0 32)) ≤ 0)) ∧
    (∃ (s : State) (p : Packet), (∀ (q : Word), q ∈ (s.live.plan (p.aBits 0 8)).lastT → 500000 ≤ ftDiff
      (BitVec.ofNat 32 (fld (wordAt p.data 0) 0 32)) q) ∧ Tab.wf s.live.plans = true ∧ Tab.wf
      s.live.links = true ∧ p.aBits 0 8 ≠ 0 ∧ Takes (Instr.cutAt p) s p 24 1 ∧ p.data.length = 1 ∧
      s.build.form = Form.lantern ∧ (s.live.plan (p.aBits 0 8)).owns = true ∧ imgCmdCut (s.live.plan
      (p.aBits 0 8)).image = true ∧ s.live.isRoot s.build (s.live.plan (p.aBits 0 8)) = true ∧
      s.live.timed = true ∧ (s.live.plan (p.aBits 0 8)).tdEn = false ∧ (BitVec.toNat (BitVec.ofNat 32
      (fld (wordAt p.data 0) 0 32) - s.live.ft) < 2000000 ∨ 2000000000 < BitVec.toNat (BitVec.ofNat 32
      (fld (wordAt p.data 0) 0 32) - s.live.ft))) ∧
    (∃ (s : State) (p : Packet), (∀ (q : Word), q ∈ (s.live.plan (p.aBits 0 8)).lastT → 500000 ≤ ftDiff
      (BitVec.ofNat 32 (fld (wordAt p.data 0) 0 32)) q) ∧ Tab.wf s.live.plans = true ∧ Tab.wf
      s.live.links = true ∧ p.aBits 0 8 ≠ 0 ∧ Takes (Instr.cutAt p) s p 24 1 ∧ p.data.length = 1 ∧
      s.build.form = Form.lantern ∧ (s.live.plan (p.aBits 0 8)).owns = true ∧ imgCmdCut (s.live.plan
      (p.aBits 0 8)).image = true ∧ s.live.isRoot s.build (s.live.plan (p.aBits 0 8)) = true ∧
      s.live.timed = true ∧ (s.live.plan (p.aBits 0 8)).tdEn = false ∧ 2000000 ≤ BitVec.toNat
      (BitVec.ofNat 32 (fld (wordAt p.data 0) 0 32) - s.live.ft) ∧ BitVec.toNat (BitVec.ofNat 32 (fld
      (wordAt p.data 0) 0 32) - s.live.ft) ≤ 2000000000 ∧ (4 ≤ (s.live.plan (p.aBits 0
      8)).pendCuts.length ∨ s.live.cmpFree s.build = false)) ∧
    (∃ (s : State) (p : Packet) (n : Nat), (∀ (q : Word), q ∈ (s.live.plan (p.aBits 0 8)).lastT → 500000
      ≤ ftDiff (BitVec.ofNat 32 (fld (wordAt p.data 0) 0 32)) q) ∧ Tab.wf s.live.plans = true ∧ Tab.wf
      s.live.links = true ∧ p.aBits 0 8 ≠ 0 ∧ Takes (Instr.cutAt p) s p 24 1 ∧ p.data.length = 1 ∧
      s.build.form = Form.lantern ∧ (s.live.plan (p.aBits 0 8)).owns = true ∧ imgCmdCut (s.live.plan
      (p.aBits 0 8)).image = true ∧ s.live.isRoot s.build (s.live.plan (p.aBits 0 8)) = true ∧
      s.live.timed = true ∧ (s.live.plan (p.aBits 0 8)).tdEn = false ∧ 2000000 ≤ BitVec.toNat
      (BitVec.ofNat 32 (fld (wordAt p.data 0) 0 32) - s.live.ft) ∧ BitVec.toNat (BitVec.ofNat 32 (fld
      (wordAt p.data 0) 0 32) - s.live.ft) ≤ 2000000000 ∧ (s.live.plan (p.aBits 0 8)).pendCuts.length < 4
      ∧ s.live.cmpFree s.build = true ∧ imgNamed (s.live.plan (p.aBits 0 8)).image = [] ∧ (s.live.plan
      (p.aBits 0 8)).cutReplies = [] ∧ (s.live.plan (p.aBits 0 8)).armReply = none ∧ (s.live.plan
      (p.aBits 0 8)).epochNext < 65536 ∧ imgBcastLinks (s.live.plan (p.aBits 0 8)).image = [n]) :=
  ⟨⟨w158, ⟨.mgmt, 1, 0, false, 0x12345678, 0x5a, 2, false, 0, 9, [0x2dc6c0, 0]⟩, by decide +kernel⟩,
   ⟨w159, v36, by decide +kernel⟩,
   ⟨w160, ⟨.mgmt, 1, 0, false, 0x12345678, 0x5a, 2, false, 0, 9, [0x2dc6c0, 0]⟩, by decide +kernel⟩,
   ⟨w161, ⟨.mgmt, 1, 0, false, 0x12345678, 0x5a, 2, false, 0, 9, [0x2dc6c0, 0]⟩, by decide +kernel⟩,
   ⟨w162, ⟨.mgmt, 1, 0, false, 0x12345678, 0x5a, 2, false, 0, 9, [4, 0]⟩, by decide +kernel⟩,
   ⟨w163, v37, by decide +kernel⟩,
   ⟨w162, ⟨.mgmt, 1, 0, false, 0x12345678, 0x5a, 2, false, 0, 9, [0x2dc6c0, 0]⟩, by decide +kernel⟩,
   ⟨w164, ⟨.mgmt, 1, 0, false, 0x12345678, 0x5a, 2, false, 0, 9, [4, 0]⟩, by decide +kernel⟩,
   ⟨w165, ⟨.mgmt, 1, 0, false, 0x12345678, 0x5a, 2, false, 0, 9, [0x2dc6c0, 0]⟩, by decide +kernel⟩,
   ⟨w166, ⟨.mgmt, 1, 0, false, 0x12345678, 0x5a, 2, false, 0, 9, [0x2dc6c0, 0]⟩, by decide +kernel⟩,
   ⟨w164, ⟨.mgmt, 1, 0, false, 0x12345678, 0x5a, 2, false, 0, 9, [0x2dc6c0, 0]⟩, by decide +kernel⟩,
   ⟨w167, ⟨.mgmt, 1, 0, false, 0x12345678, 0x5a, 2, false, 0, 9, [0x42c1d80, 0]⟩, 2, by decide +kernel⟩,
   ⟨w168, ⟨.mgmt, 1, 0, false, 0x12345678, 0x5a, 1, false, 0, 9, [0x2dc6c0]⟩, 3, by decide +kernel⟩,
   ⟨w158, ⟨.mgmt, 1, 0, false, 0x12345678, 0x5a, 1, false, 0, 9, [0x2dc6c0]⟩, by decide +kernel⟩,
   ⟨w156, ⟨.mgmt, 1, 0, false, 0x12345678, 0x5a, 1, false, 0, 9, [0x4000f4240]⟩, by decide +kernel⟩,
   ⟨w157, ⟨.mgmt, 1, 0, false, 0x12345678, 0x5a, 1, false, 0, 9, [0x2dc6c0]⟩, by decide +kernel⟩,
   ⟨w156, ⟨.mgmt, 1, 0, false, 0x12345678, 0x5a, 1, false, 0, 9, [0x2dc6c0]⟩, by decide +kernel⟩,
   ⟨w169, ⟨.mgmt, 1, 0, false, 0x12345678, 0x5a, 1, false, 0, 9, [0x4000f4240]⟩, 0x927c0,
    by decide +kernel⟩,
   ⟨w165, ⟨.mgmt, 1, 0, false, 0x12345678, 0x5a, 1, false, 0, 9, [0x2dc6c0]⟩,
    all_some (by decide +kernel), by decide +kernel⟩,
   ⟨w170, ⟨.mgmt, 1, 0, false, 0x12345678, 0x5a, 1, false, 0, 9, [0x40016e360]⟩,
    all_some (by decide +kernel), by decide +kernel⟩,
   ⟨w171, ⟨.mgmt, 1, 0, false, 0x12345678, 0x5a, 1, false, 0, 9, [0x2dc6c0]⟩,
    all_some (by decide +kernel), by decide +kernel⟩,
   ⟨w170, ⟨.mgmt, 1, 0, false, 0x12345678, 0x5a, 1, false, 0, 9, [0x2dc6c0]⟩, 2,
    all_some (by decide +kernel), by decide +kernel⟩⟩

set_option maxRecDepth 20000 in
/-- States and operands that meet the hypotheses of `FleetMessagesAreForwardedOnceAndActedOn`, for each of its clauses. -/
theorem meets_FleetMessagesAreForwardedOnceAndActedOn :
    (∃ (s : State) (n : BitVec 5) (m : CtlMsg), s.build.form = Form.lantern ∧ s.live.awake = true ∧
      s.live.isUp n.toNat = true ∧ Tab.wf s.live.plans = true ∧ Tab.wf s.live.links = true ∧ m.kind = 1 ∧
      (1, m.armSeq, 0) ∈ (s.live.plan m.plan).seen) ∧
    (∃ (s : State) (n : BitVec 5) (m : CtlMsg), s.build.form = Form.lantern ∧ s.live.awake = true ∧
      s.live.isUp n.toNat = true ∧ Tab.wf s.live.plans = true ∧ Tab.wf s.live.links = true ∧ m.kind = 3 ∧
      (3, m.armSeq, 0) ∈ (s.live.plan m.plan).seen) ∧
    (∃ (s : State) (n : BitVec 5) (m : CtlMsg), s.build.form = Form.lantern ∧ s.live.awake = true ∧
      s.live.isUp n.toNat = true ∧ Tab.wf s.live.plans = true ∧ Tab.wf s.live.links = true ∧ m.kind = 4 ∧
      fld m.w3 0 32 ≠ 8 ∧ (4, m.armSeq, 0) ∈ (s.live.plan m.plan).seen) ∧
    (∃ (s : State) (n : BitVec 5) (m : CtlMsg), s.build.form = Form.lantern ∧ s.live.awake = true ∧
      s.live.isUp n.toNat = true ∧ Tab.wf s.live.plans = true ∧ Tab.wf s.live.links = true ∧ m.kind = 5 ∧
      (5, m.armSeq, 0) ∈ (s.live.plan m.plan).seen) ∧
    (∃ (s : State) (n : BitVec 5) (m : CtlMsg), s.build.form = Form.lantern ∧ s.live.awake = true ∧
      s.live.isUp n.toNat = true ∧ Tab.wf s.live.plans = true ∧ Tab.wf s.live.links = true ∧ m.kind = 6 ∧
      (6, m.armSeq, m.c2 % 65536) ∈ (s.live.plan m.plan).seen) ∧
    (∃ (s : State) (n : BitVec 5) (m : CtlMsg) (k : Nat) (u : Nat), s.build.form = Form.lantern ∧
      s.live.awake = true ∧ s.live.isUp n.toNat = true ∧ Tab.wf s.live.plans = true ∧ Tab.wf s.live.links
      = true ∧ m.kind = 1 ∧ (¬(1, m.armSeq, 0) ∈ (s.live.plan m.plan).seen) ∧ imgBcastLinks (s.live.plan
      m.plan).image = [k] ∧ (s.live.plan m.plan).active = false ∧ (s.live.plan m.plan).buoyOk = [] ∧
      imgKids (s.live.plan m.plan).image = [] ∧ s.live.isRoot s.build (s.live.plan m.plan) = false ∧
      upLink (s.live.plan m.plan).image = some u ∧ u ≠ k ∧ s.live.armMsgErr s.build m.plan m.setId
      (BitVec.ofNat 32 m.c1) (BitVec.ofNat 32 m.c2) (bit m.w2 0) = none) ∧
    (∃ (s : State) (n : BitVec 5) (m : CtlMsg) (k : Nat) (u : Nat) (w : Nat), s.build.form = Form.lantern
      ∧ s.live.awake = true ∧ s.live.isUp n.toNat = true ∧ Tab.wf s.live.plans = true ∧ Tab.wf
      s.live.links = true ∧ m.kind = 1 ∧ (¬(1, m.armSeq, 0) ∈ (s.live.plan m.plan).seen) ∧ imgBcastLinks
      (s.live.plan m.plan).image = [k] ∧ (s.live.plan m.plan).active = false ∧ (s.live.plan
      m.plan).buoyOk = [] ∧ imgKids (s.live.plan m.plan).image = [] ∧ s.live.isRoot s.build (s.live.plan
      m.plan) = false ∧ upLink (s.live.plan m.plan).image = some u ∧ u ≠ k ∧ s.live.armMsgErr s.build
      m.plan m.setId (BitVec.ofNat 32 m.c1) (BitVec.ofNat 32 m.c2) (bit m.w2 0) = some w ∧ w ≠ 8) ∧
    (∃ (s : State) (n : BitVec 5) (m : CtlMsg) (k : Nat), s.build.form = Form.lantern ∧ s.live.awake =
      true ∧ s.live.isUp n.toNat = true ∧ Tab.wf s.live.plans = true ∧ Tab.wf s.live.links = true ∧
      m.kind = 3 ∧ (¬(3, m.armSeq, 0) ∈ (s.live.plan m.plan).seen) ∧ (s.live.plan m.plan).state =
      PState.arming ∧ s.live.flt.rpl.st = RplSt.off ∧ (s.live.plan m.plan).armSeq = m.armSeq ∧
      imgBcastLinks (s.live.plan m.plan).image = [k] ∧ s.live.bad (Holder.plan m.plan) = false) ∧
    (∃ (s : State) (n : BitVec 5) (m : CtlMsg), s.build.form = Form.lantern ∧ s.live.awake = true ∧
      s.live.isUp n.toNat = true ∧ Tab.wf s.live.plans = true ∧ Tab.wf s.live.links = true ∧ m.kind = 3 ∧
      (¬(3, m.armSeq, 0) ∈ (s.live.plan m.plan).seen) ∧ (s.live.plan m.plan).state = PState.arming ∧
      s.live.flt.rpl.st = RplSt.off ∧ (s.live.plan m.plan).armSeq ≠ m.armSeq ∧ imgNamed (s.live.plan
      m.plan).image = [] ∧ (s.live.plan m.plan).armReply = none ∧ (s.live.plan m.plan).cutReplies = []) ∧
    (∃ (s : State) (n : BitVec 5) (m : CtlMsg), s.build.form = Form.lantern ∧ s.live.awake = true ∧
      s.live.isUp n.toNat = true ∧ Tab.wf s.live.plans = true ∧ Tab.wf s.live.links = true ∧ m.kind = 3 ∧
      (¬(3, m.armSeq, 0) ∈ (s.live.plan m.plan).seen) ∧ (s.live.plan m.plan).image = [] ∧ (s.live.plan
      m.plan).active = false) ∧
    (∃ (s : State) (n : BitVec 5) (m : CtlMsg) (k : Nat), s.build.form = Form.lantern ∧ s.live.awake =
      true ∧ s.live.isUp n.toNat = true ∧ Tab.wf s.live.plans = true ∧ Tab.wf s.live.links = true ∧
      m.kind = 4 ∧ (¬(4, m.armSeq, 0) ∈ (s.live.plan m.plan).seen) ∧ fld m.w3 0 32 ≠ 8 ∧ (s.live.plan
      m.plan).active = true ∧ (s.live.plan m.plan).armSeq = m.armSeq ∧ imgBcastLinks (s.live.plan
      m.plan).image = [k] ∧ imgNamed (s.live.plan m.plan).image = [] ∧ m.plan ≠ 0 ∧ s.live.flt.rpl.st =
      RplSt.off ∧ (s.live.plan m.plan).armReply = none ∧ (s.live.plan m.plan).cutReplies = [] ∧ (∀ (a :
      Nat × Plan), a ∈ s.live.plans → a.snd.cond ≠ some m.plan)) ∧
    (∃ (s : State) (n : BitVec 5) (m : CtlMsg) (k : Nat), s.build.form = Form.lantern ∧ s.live.awake =
      true ∧ s.live.isUp n.toNat = true ∧ Tab.wf s.live.plans = true ∧ Tab.wf s.live.links = true ∧
      m.kind = 5 ∧ (¬(5, m.armSeq, 0) ∈ (s.live.plan m.plan).seen) ∧ (s.live.plan m.plan).active = true ∧
      (s.live.plan m.plan).armSeq = m.armSeq ∧ imgBcastLinks (s.live.plan m.plan).image = [k] ∧ imgNamed
      (s.live.plan m.plan).image = [] ∧ s.live.flt.rpl.st = RplSt.off ∧ ((s.live.plan m.plan).tdEn = true
      → ftDiff (BitVec.ofNat 32 m.c1) (s.live.plan m.plan).d < 0) ∧ (s.live.holdsCmp (Owner.teardown
      m.plan) = true ∨ s.live.cmpFree s.build = true)) ∧
    (∃ (s : State) (n : BitVec 5) (m : CtlMsg) (k : Nat), s.build.form = Form.lantern ∧ s.live.awake =
      true ∧ s.live.isUp n.toNat = true ∧ Tab.wf s.live.plans = true ∧ Tab.wf s.live.links = true ∧
      m.kind = 5 ∧ (¬(5, m.armSeq, 0) ∈ (s.live.plan m.plan).seen) ∧ (s.live.plan m.plan).active = true ∧
      (s.live.plan m.plan).armSeq = m.armSeq ∧ imgBcastLinks (s.live.plan m.plan).image = [k] ∧ imgNamed
      (s.live.plan m.plan).image = [] ∧ s.live.flt.rpl.st = RplSt.off ∧ ((s.live.plan m.plan).tdEn = true
      → ftDiff (BitVec.ofNat 32 m.c1) (s.live.plan m.plan).d < 0) ∧ s.live.holdsCmp (Owner.teardown
      m.plan) = false ∧ s.live.cmpFree s.build = false ∧ (s.live.plan m.plan).armReply = none ∧
      (s.live.plan m.plan).cutReplies = []) ∧
    (∃ (s : State) (n : BitVec 5) (m : CtlMsg) (k : Nat), s.build.form = Form.lantern ∧ s.live.awake =
      true ∧ s.live.isUp n.toNat = true ∧ Tab.wf s.live.plans = true ∧ Tab.wf s.live.links = true ∧
      m.kind = 6 ∧ (¬(6, m.armSeq, m.c2 % 65536) ∈ (s.live.plan m.plan).seen) ∧ (s.live.plan m.plan).owns
      = true ∧ (s.live.plan m.plan).armSeq = m.armSeq ∧ imgBcastLinks (s.live.plan m.plan).image = [k] ∧
      imgNamed (s.live.plan m.plan).image = [] ∧ s.live.flt.rpl.st = RplSt.off ∧ s.live.cmpFree s.build =
      true ∧ s.live.holdsCmp (Owner.cut m.plan (m.c2 % 65536)) = false ∧ s.live.bad (Holder.plan m.plan)
      = false) ∧
    (∃ (s : State) (n : BitVec 5) (m : CtlMsg) (k : Nat), s.build.form = Form.lantern ∧ s.live.awake =
      true ∧ s.live.isUp n.toNat = true ∧ Tab.wf s.live.plans = true ∧ Tab.wf s.live.links = true ∧
      m.kind = 6 ∧ (¬(6, m.armSeq, m.c2 % 65536) ∈ (s.live.plan m.plan).seen) ∧ (s.live.plan m.plan).owns
      = true ∧ (s.live.plan m.plan).armSeq = m.armSeq ∧ imgBcastLinks (s.live.plan m.plan).image = [k] ∧
      imgNamed (s.live.plan m.plan).image = [] ∧ s.live.flt.rpl.st = RplSt.off ∧ s.live.cmpFree s.build =
      false) :=
  ⟨⟨w172, 4, ⟨0x4d00010109, 0x55d4a800433bea0, 1, 0⟩, by decide +kernel⟩,
   ⟨w172, 4, ⟨0x4d00010309, 0, 0, 0⟩, by decide +kernel⟩,
   ⟨w172, 4, ⟨0x4d00010409, 0, 0, 0xc⟩, by decide +kernel⟩,
   ⟨w172, 4, ⟨0x4d00010509, 0x2dc6c0, 0x902, 0⟩, by decide +kernel⟩,
   ⟨w172, 4, ⟨0x4d00010609, 0x10007002dc6c0, 0, 0⟩, by decide +kernel⟩,
   ⟨w173, 2, ⟨0x4d00010109, 0x42c1d80, 0, 0⟩, 2, 3, by decide +kernel⟩,
   ⟨w173, 2, ⟨0x4e00010109, 0x42c1d80, 0, 0⟩, 2, 3, 7, by decide +kernel⟩,
   ⟨w174, 2, ⟨0x4d00010309, 0, 0, 0⟩, 2, by decide +kernel⟩,
   ⟨w175, 2, ⟨0x4d00010309, 0, 0, 0⟩, by decide +kernel⟩,
   ⟨w176, 2, ⟨0x4d00010309, 0, 0, 0⟩, by decide +kernel⟩,
   ⟨w177, 2, ⟨0x4d00010409, 0, 0, 0xc⟩, 2, by decide +kernel⟩,
   ⟨w178, 4, ⟨0x4d00010509, 0x2dc6c0, 0, 0⟩, 2, by decide +kernel⟩,
   ⟨w179, 2, ⟨0x4d00010509, 0x2dc6c0, 0, 0⟩, 2, by decide +kernel⟩,
   ⟨w177, 2, ⟨0x4d00010609, 0x7002dc6c0, 0, 0⟩, 2, by decide +kernel⟩,
   ⟨w179, 2, ⟨0x4d00010609, 0x7002dc6c0, 0, 0⟩, 2, by decide +kernel⟩⟩

set_option maxRecDepth 20000 in
/-- States and operands that meet the hypotheses of `PlansLaunchAndEndTogether`, for each of its clauses. -/
theorem meets_PlansLaunchAndEndTogether :
    (∃ (s : State) (n : BitVec 5) (m : CtlMsg) (u : Nat) (kid : Nat × Nat × Child), s.build.form =
      Form.lantern ∧ s.live.awake = true ∧ s.live.isUp n.toNat = true ∧ m.kind = 2 ∧ Tab.wf s.live.plans
      = true ∧ Tab.wf s.live.links = true ∧ (s.live.plan m.plan).state = PState.arming ∧ (s.live.plan
      m.plan).armSeq = m.armSeq ∧ s.live.bad (Holder.plan m.plan) = false ∧ imgKids (s.live.plan
      m.plan).image = [kid] ∧ kid.snd.snd.link = n.toNat ∧ (s.live.plan m.plan).reported = [] ∧
      (s.live.plan m.plan).sentReport = false ∧ s.live.isRoot s.build (s.live.plan m.plan) = false ∧
      (s.live.plan m.plan).coll.waiting = [] ∧ upLink (s.live.plan m.plan).image = some u) ∧
    (∃ (s : State) (n : BitVec 5) (m : CtlMsg), s.build.form = Form.lantern ∧ s.live.awake = true ∧
      s.live.isUp n.toNat = true ∧ m.kind = 2 ∧ Tab.wf s.live.plans = true ∧ Tab.wf s.live.links = true ∧
      (s.live.plan m.plan).active = false ∧ (∀ (c : Nat × Nat × Child), c ∈ imgKids (s.live.plan
      m.plan).image → c.snd.snd.link ≠ n.toNat)) ∧
    (∃ (s : State) (plan : BitVec 8), s.build.form = Form.lantern ∧ s.live.awake = true ∧ Tab.wf
      s.live.plans = true ∧ Tab.wf s.live.links = true ∧ reached s.live.ft ((s.live.plan plan.toNat).s -
      51000000) = false) ∧
    (∃ (s : State) (plan : BitVec 8) (u : Nat), s.build.form = Form.lantern ∧ s.live.awake = true ∧
      Tab.wf s.live.plans = true ∧ Tab.wf s.live.links = true ∧ reached s.live.ft ((s.live.plan
      plan.toNat).s - 51000000) = true ∧ (s.live.plan plan.toNat).state = PState.arming ∧ (s.live.plan
      plan.toNat).sentReport = false ∧ s.live.isRoot s.build (s.live.plan plan.toNat) = false ∧ upLink
      (s.live.plan plan.toNat).image = some u) ∧
    (∃ (s : State) (plan : BitVec 8) (u : Nat), s.build.form = Form.lantern ∧ s.live.awake = true ∧
      Tab.wf s.live.plans = true ∧ Tab.wf s.live.links = true ∧ reached s.live.ft ((s.live.plan
      plan.toNat).s - 50000000) = true ∧ (s.live.plan plan.toNat).state = PState.arming ∧ s.live.isRoot
      s.build (s.live.plan plan.toNat) = true ∧ imgBcastLinks (s.live.plan plan.toNat).image = [u] ∧
      imgNamed (s.live.plan plan.toNat).image = [] ∧ (s.live.plan plan.toNat).cutReplies = [] ∧
      s.live.flt.rpl.st = RplSt.off ∧ (s.live.plan plan.toNat).lant < 2048 ∧ Tab.wf s.live.rf = true ∧
      (s.live.plan plan.toNat).lant = imgFleet (s.live.plan plan.toNat).image ∧ (s.live.plan
      plan.toNat).nogo = 0) ∧
    (∃ (s : State) (plan : BitVec 8) (u : Nat), s.build.form = Form.lantern ∧ s.live.awake = true ∧
      Tab.wf s.live.plans = true ∧ Tab.wf s.live.links = true ∧ reached s.live.ft ((s.live.plan
      plan.toNat).s - 50000000) = true ∧ (s.live.plan plan.toNat).state = PState.arming ∧ s.live.isRoot
      s.build (s.live.plan plan.toNat) = true ∧ imgBcastLinks (s.live.plan plan.toNat).image = [u] ∧
      imgNamed (s.live.plan plan.toNat).image = [] ∧ (s.live.plan plan.toNat).cutReplies = [] ∧
      s.live.flt.rpl.st = RplSt.off ∧ (s.live.plan plan.toNat).lant < 2048 ∧ Tab.wf s.live.rf = true ∧
      ((s.live.plan plan.toNat).lant ≠ imgFleet (s.live.plan plan.toNat).image ∨ (s.live.plan
      plan.toNat).nogo ≠ 0) ∧ (s.live.plan plan.toNat).armReply = none) ∧
    (∃ (s : State) (plan : BitVec 8), s.build.form = Form.lantern ∧ s.live.awake = true ∧ Tab.wf
      s.live.plans = true ∧ Tab.wf s.live.links = true ∧ reached s.live.ft ((s.live.plan plan.toNat).s -
      10000000) = true ∧ (s.live.plan plan.toNat).state = PState.arming ∧ imgNamed (s.live.plan
      plan.toNat).image = [] ∧ (s.live.plan plan.toNat).armReply = none ∧ (s.live.plan
      plan.toNat).cutReplies = [] ∧ s.live.flt.rpl.st = RplSt.off ∧ plan.toNat ≠ 0 ∧ (∀ (a : Nat × Plan),
      a ∈ s.live.plans → a.snd.cond ≠ some plan.toNat)) ∧
    (∃ (s : State) (plan : BitVec 8), s.live.awake = true ∧ Tab.wf s.live.plans = true ∧
      s.live.time.fired = [] ∧ (s.live.plan plan.toNat).state = PState.armed ∧ s.live.time.cmps =
      [{ owner := Owner.start plan.toNat, count := (s.live.plan plan.toNat).s, period := 0 }] ∧ reached
      s.live.ft (s.live.plan plan.toNat).s = true ∧ s.live.bad (Holder.plan plan.toNat) = false ∧ (if
      s.build.buoy = true then secPeriod (s.live.plan plan.toNat).image else imgPeriod (s.live.plan
      plan.toNat).image) ≠ 0 ∧ (if s.build.buoy = true then secNbi (s.live.plan plan.toNat).image else
      imgNItems (s.live.plan plan.toNat).image) ≠ 0) ∧
    (∃ (s : State) (plan : BitVec 8), s.live.awake = true ∧ Tab.wf s.live.plans = true ∧
      s.live.time.fired = [] ∧ (s.live.plan plan.toNat).state = PState.armed ∧ s.live.time.cmps =
      [{ owner := Owner.start plan.toNat, count := (s.live.plan plan.toNat).s, period := 0 }] ∧ reached
      s.live.ft (s.live.plan plan.toNat).s = true ∧ s.live.bad (Holder.plan plan.toNat) = false ∧ (if
      s.build.buoy = true then secPeriod (s.live.plan plan.toNat).image else imgPeriod (s.live.plan
      plan.toNat).image) = 0) ∧
    (∃ (s : State) (plan : BitVec 8), s.live.awake = true ∧ Tab.wf s.live.plans = true ∧
      s.live.time.fired = [] ∧ s.live.time.cmps =
      [{ owner := Owner.start plan.toNat, count := (s.live.plan plan.toNat).s, period := 0 }] ∧ reached
      s.live.ft (s.live.plan plan.toNat).s = false) ∧
    (∃ (s : State) (plan : BitVec 8), s.live.awake = true ∧ Tab.wf s.live.plans = true ∧
      s.live.time.fired = [] ∧ s.live.time.cmps =
      [{ owner := Owner.teardown plan.toNat, count := (s.live.plan plan.toNat).d, period := 0 }] ∧
      reached s.live.ft (s.live.plan plan.toNat).d = true ∧ (s.live.plan plan.toNat).owns = true ∧
      plan.toNat ≠ 0 ∧ s.live.flt.rpl.st = RplSt.off ∧ (s.live.plan plan.toNat).armReply = none ∧
      (s.live.plan plan.toNat).cutReplies = [] ∧ (s.live.plan plan.toNat).cond = none) ∧
    (∃ (s : State) (plan : BitVec 8) (q : Nat), s.live.awake = true ∧ Tab.wf s.live.plans = true ∧
      s.live.time.fired = [] ∧ s.live.time.cmps =
      [{ owner := Owner.teardown plan.toNat, count := (s.live.plan plan.toNat).d, period := 0 }] ∧
      reached s.live.ft (s.live.plan plan.toNat).d = true ∧ (s.live.plan plan.toNat).owns = true ∧
      plan.toNat ≠ 0 ∧ s.live.flt.rpl.st = RplSt.off ∧ (s.live.plan plan.toNat).armReply = none ∧
      (s.live.plan plan.toNat).cutReplies = [] ∧ (s.live.plan plan.toNat).cond = some q ∧ q ≠ plan.toNat
      ∧ (s.live.plan q).state = PState.verified) ∧
    (∃ (s : State) (n : BitVec 5) (m : CtlMsg) (u : Nat), s.build.form = Form.lantern ∧ s.live.awake =
      true ∧ s.live.isUp n.toNat = true ∧ isChildLink (s.live.plan m.plan).image n.toNat = true ∧
      (s.live.plan m.plan).armSeq = m.armSeq ∧ Tab.wf s.live.plans = true ∧ Tab.wf s.live.links = true ∧
      m.kind = 4 ∧ fld m.w3 0 32 = 8 ∧ s.live.isRoot s.build (s.live.plan m.plan) = false ∧ upLink
      (s.live.plan m.plan).image = some u ∧ (s.live.plan m.plan).upAbort = false) ∧
    (∃ (s : State) (n : BitVec 5) (m : CtlMsg), s.build.form = Form.lantern ∧ s.live.awake = true ∧
      s.live.isUp n.toNat = true ∧ isChildLink (s.live.plan m.plan).image n.toNat = true ∧ (s.live.plan
      m.plan).armSeq = m.armSeq ∧ Tab.wf s.live.plans = true ∧ Tab.wf s.live.links = true ∧ m.kind = 4 ∧
      fld m.w3 0 32 = 8 ∧ s.live.isRoot s.build (s.live.plan m.plan) = false ∧ (s.live.plan
      m.plan).upAbort = true) ∧
    (∃ (s : State) (n : BitVec 5) (m : CtlMsg) (u : Nat), s.build.form = Form.lantern ∧ s.live.awake =
      true ∧ s.live.isUp n.toNat = true ∧ isChildLink (s.live.plan m.plan).image n.toNat = true ∧
      (s.live.plan m.plan).armSeq = m.armSeq ∧ Tab.wf s.live.plans = true ∧ Tab.wf s.live.links = true ∧
      m.kind = 4 ∧ fld m.w3 0 32 = 8 ∧ s.live.isRoot s.build (s.live.plan m.plan) = true ∧ (s.live.plan
      m.plan).active = true ∧ imgBcastLinks (s.live.plan m.plan).image = [u] ∧ imgNamed (s.live.plan
      m.plan).image = [] ∧ s.live.flt.rpl.st = RplSt.off ∧ (s.live.plan m.plan).armReply = none ∧
      (s.live.plan m.plan).cutReplies = []) ∧
    (∃ (s : State) (n : BitVec 5) (m : CtlMsg) (u : Nat), s.build.form = Form.lantern ∧ s.live.awake =
      true ∧ s.live.isUp n.toNat = true ∧ isChildLink (s.live.plan m.plan).image n.toNat = true ∧
      (s.live.plan m.plan).armSeq = m.armSeq ∧ Tab.wf s.live.plans = true ∧ Tab.wf s.live.links = true ∧
      m.kind = 7 ∧ s.live.isRoot s.build (s.live.plan m.plan) = false ∧ (¬m.c1 % 1024 ∈ (s.live.plan
      m.plan).lostUp) ∧ upLink (s.live.plan m.plan).image = some u) ∧
    (∃ (s : State) (n : BitVec 5) (m : CtlMsg), s.build.form = Form.lantern ∧ s.live.awake = true ∧
      s.live.isUp n.toNat = true ∧ isChildLink (s.live.plan m.plan).image n.toNat = true ∧ (s.live.plan
      m.plan).armSeq = m.armSeq ∧ Tab.wf s.live.plans = true ∧ Tab.wf s.live.links = true ∧ m.kind = 7 ∧
      s.live.isRoot s.build (s.live.plan m.plan) = false ∧ m.c1 % 1024 ∈ (s.live.plan m.plan).lostUp) ∧
    (∃ (s : State) (n : BitVec 5) (m : CtlMsg), s.build.form = Form.lantern ∧ s.live.awake = true ∧
      s.live.isUp n.toNat = true ∧ isChildLink (s.live.plan m.plan).image n.toNat = true ∧ (s.live.plan
      m.plan).armSeq = m.armSeq ∧ Tab.wf s.live.plans = true ∧ Tab.wf s.live.links = true ∧ m.kind = 7 ∧
      s.live.isRoot s.build (s.live.plan m.plan) = true ∧ (s.live.plan m.plan).state = PState.running ∧
      (¬m.c1 % 1024 ∈ (s.live.plan m.plan).lostSet) ∧ (s.live.plan m.plan).lostSet.length < 16 ∧
      (s.live.plan m.plan).switchPend = none ∧ (s.live.plan m.plan).lostOvf = false ∧ chooseDom
      (s.live.plan m.plan).image ((s.live.plan m.plan).lostSet ++ [m.c1 % 1024]) = none) ∧
    (∃ (s : State) (n : BitVec 5) (m : CtlMsg) (d : DomEnt), s.build.form = Form.lantern ∧ s.live.awake =
      true ∧ s.live.isUp n.toNat = true ∧ isChildLink (s.live.plan m.plan).image n.toNat = true ∧
      (s.live.plan m.plan).armSeq = m.armSeq ∧ Tab.wf s.live.plans = true ∧ Tab.wf s.live.links = true ∧
      m.kind = 7 ∧ s.live.isRoot s.build (s.live.plan m.plan) = true ∧ (s.live.plan m.plan).state =
      PState.running ∧ (¬m.c1 % 1024 ∈ (s.live.plan m.plan).lostSet) ∧ (s.live.plan
      m.plan).lostSet.length < 16 ∧ (s.live.plan m.plan).switchPend = none ∧ (s.live.plan m.plan).lostOvf
      = false ∧ chooseDom (s.live.plan m.plan).image ((s.live.plan m.plan).lostSet ++ [m.c1 % 1024]) =
      some d ∧ d.standby ≠ 0 ∧ d.standby ≠ m.plan ∧ (s.live.plan d.standby).state = PState.verified ∧
      (s.live.plan d.standby).standby = true ∧ s.live.flag s.build F.FO_CFG_AUTO = false ∧
      s.live.log.live = true ∧ Tab.wf s.live.rf = true) ∧
    (∃ (s : State) (n : BitVec 5) (m : CtlMsg), s.build.form = Form.lantern ∧ s.live.awake = true ∧
      s.live.isUp n.toNat = true ∧ isChildLink (s.live.plan m.plan).image n.toNat = true ∧ (s.live.plan
      m.plan).armSeq = m.armSeq ∧ Tab.wf s.live.plans = true ∧ Tab.wf s.live.links = true ∧ m.kind = 7 ∧
      s.live.isRoot s.build (s.live.plan m.plan) = true ∧ (s.live.plan m.plan).state = PState.running ∧
      (¬m.c1 % 1024 ∈ (s.live.plan m.plan).lostSet) ∧ (s.live.plan m.plan).lostSet.length = 16) ∧
    (∃ (s : State) (v : Word), Served s ∧ s.build.form = Form.lantern ∧ s.live.flag s.build
      F.SCH_CTL_GRID_EN = false ∧ (BitVec.toNat v).testBit 0 = true ∧ Tab.wf s.live.rf = true ∧
      s.live.timed = true ∧ s.live.inWindow (BitVec.ofNat 32 (s.live.get s.build F.SCH_GRID_ORG_ORG)) =
      true) ∧
    (∃ (s : State) (v : Word), Served s ∧ s.build.form = Form.lantern ∧ s.live.flag s.build
      F.SCH_CTL_GRID_EN = false ∧ (BitVec.toNat v).testBit 0 = true ∧ Tab.wf s.live.rf = true ∧
      s.live.inWindow (BitVec.ofNat 32 (s.live.get s.build F.SCH_GRID_ORG_ORG)) = false) :=
  ⟨⟨w180, 4, ⟨0x4d00000209, 0, 0x500000003, 1⟩, 3, (1, 0, ⟨6, 4, 256⟩), by decide +kernel⟩,
   ⟨w176, 2, ⟨0x4d00000209, 0, 0x500000003, 1⟩, by decide +kernel⟩,
   ⟨w181, 9, by decide +kernel⟩,
   ⟨w182, 9, 3, by decide +kernel⟩,
   ⟨w183, 9, 2, by decide +kernel⟩,
   ⟨w184, 9, 2, by decide +kernel⟩,
   ⟨w185, 9, by decide +kernel⟩,
   ⟨w186, 9, by decide +kernel⟩,
   ⟨w187, 9, by decide +kernel⟩,
   ⟨w188, 9, by decide +kernel⟩,
   ⟨w189, 9, by decide +kernel⟩,
   ⟨w190, 9, 10, by decide +kernel⟩,
   ⟨w182, 4, ⟨0x4d00000409, 0, 0, 8⟩, 3, by decide +kernel⟩,
   ⟨w191, 4, ⟨0x4d00000409, 0, 0, 8⟩, by decide +kernel⟩,
   ⟨w192, 4, ⟨0x4d00000409, 0, 0, 8⟩, 2, by decide +kernel⟩,
   ⟨w182, 4, ⟨0x4d00000709, 0x500000007, 0, 0⟩, 3, by decide +kernel⟩,
   ⟨w191, 4, ⟨0x4d00000709, 0x500000007, 0, 0⟩, by decide +kernel⟩,
   ⟨w193, 4, ⟨0x4d00000709, 0x500000007, 0, 0⟩, by decide +kernel⟩,
   ⟨w194, 4, ⟨0x4d00000709, 0x500000007, 0, 0⟩, ⟨0, 7, 10⟩, by decide +kernel⟩,
   ⟨w195, 4, ⟨0x4d00000709, 0x500000007, 0, 0⟩, by decide +kernel⟩,
   ⟨w196, 1, by decide +kernel⟩,
   ⟨w197, 1, by decide +kernel⟩⟩

set_option maxRecDepth 20000 in
/-- States and operands that meet the hypotheses of `CutsAreLatchedAndGathered`, for each of its clauses. -/
theorem meets_CutsAreLatchedAndGathered :
    (∃ (s : State) (plan : BitVec 8), s.live.awake = true ∧ (s.live.plan plan.toNat).state =
      PState.running ∧ (s.live.plan plan.toNat).pendCuts = [] ∧ s.live.time.fired = [] ∧
      (s.live.time.cmps =
      [{ owner := Owner.cuts plan.toNat, count := (s.live.plan plan.toNat).nextT, period := if s.build.buoy = true then secPeriod (s.live.plan plan.toNat).image else imgPeriod (s.live.plan plan.toNat).image }])
      ∧ (0 < if s.build.buoy = true then secPeriod (s.live.plan plan.toNat).image else imgPeriod
      (s.live.plan plan.toNat).image) ∧ (s.live.plan plan.toNat).epochNext < 65536 ∧ s.live.flt.rpl.st =
      RplSt.off ∧ Tab.wf s.live.plans = true ∧ (s.build.form = Form.lantern → s.live.bad (Holder.plan
      plan.toNat) = false) ∧ reached s.live.ft (s.live.plan plan.toNat).nextT = false) ∧
    (∃ (s : State) (plan : BitVec 8), s.live.awake = true ∧ (s.live.plan plan.toNat).state =
      PState.running ∧ (s.live.plan plan.toNat).pendCuts = [] ∧ s.live.time.fired = [] ∧
      (s.live.time.cmps =
      [{ owner := Owner.cuts plan.toNat, count := (s.live.plan plan.toNat).nextT, period := if s.build.buoy = true then secPeriod (s.live.plan plan.toNat).image else imgPeriod (s.live.plan plan.toNat).image }])
      ∧ (0 < if s.build.buoy = true then secPeriod (s.live.plan plan.toNat).image else imgPeriod
      (s.live.plan plan.toNat).image) ∧ (s.live.plan plan.toNat).epochNext < 65536 ∧ s.live.flt.rpl.st =
      RplSt.off ∧ Tab.wf s.live.plans = true ∧ (s.build.form = Form.lantern → s.live.bad (Holder.plan
      plan.toNat) = false) ∧ reached s.live.ft (s.live.plan plan.toNat).nextT = true ∧ (s.live.plan
      plan.toNat).tdEn = true ∧ (ftDiff (s.live.plan plan.toNat).d ((s.live.plan plan.toNat).nextT +
      BitVec.ofNat 32 (500 * if s.build.buoy = true then secPbClose (s.live.plan plan.toNat).image else
      imgLastDl (s.live.plan plan.toNat).image)) < 1)) ∧
    (∃ (s : State) (plan : BitVec 8), s.live.awake = true ∧ (s.live.plan plan.toNat).state =
      PState.running ∧ (s.live.plan plan.toNat).pendCuts = [] ∧ s.live.time.fired = [] ∧
      (s.live.time.cmps =
      [{ owner := Owner.cuts plan.toNat, count := (s.live.plan plan.toNat).nextT, period := if s.build.buoy = true then secPeriod (s.live.plan plan.toNat).image else imgPeriod (s.live.plan plan.toNat).image }])
      ∧ (0 < if s.build.buoy = true then secPeriod (s.live.plan plan.toNat).image else imgPeriod
      (s.live.plan plan.toNat).image) ∧ (s.live.plan plan.toNat).epochNext < 65536 ∧ s.live.flt.rpl.st =
      RplSt.off ∧ Tab.wf s.live.plans = true ∧ (s.build.form = Form.lantern → s.live.bad (Holder.plan
      plan.toNat) = false) ∧ reached s.live.ft (s.live.plan plan.toNat).nextT = true ∧ (s.live.plan
      plan.toNat).tdEn = false ∧ s.build.form = Form.buoy) ∧
    (∃ (s : State) (plan : BitVec 8), s.live.awake = true ∧ (s.live.plan plan.toNat).state =
      PState.running ∧ (s.live.plan plan.toNat).pendCuts = [] ∧ s.live.time.fired = [] ∧
      (s.live.time.cmps =
      [{ owner := Owner.cuts plan.toNat, count := (s.live.plan plan.toNat).nextT, period := if s.build.buoy = true then secPeriod (s.live.plan plan.toNat).image else imgPeriod (s.live.plan plan.toNat).image }])
      ∧ (0 < if s.build.buoy = true then secPeriod (s.live.plan plan.toNat).image else imgPeriod
      (s.live.plan plan.toNat).image) ∧ (s.live.plan plan.toNat).epochNext < 65536 ∧ s.live.flt.rpl.st =
      RplSt.off ∧ Tab.wf s.live.plans = true ∧ (s.build.form = Form.lantern → s.live.bad (Holder.plan
      plan.toNat) = false) ∧ reached s.live.ft (s.live.plan plan.toNat).nextT = true ∧ (s.live.plan
      plan.toNat).tdEn = false ∧ s.build.form = Form.lantern) ∧
    (∃ (s : State) (plan : BitVec 8) (k : Kept), s.live.awake = true ∧ s.build.form = Form.buoy ∧
      (s.live.plan plan.toNat).state = PState.running ∧ (s.live.plan plan.toNat).kept = some k ∧
      k.assembled = false ∧ Tab.wf s.live.plans = true ∧ s.live.isSampled s.build (s.live.plan
      plan.toNat).image k.epoch = false) ∧
    (∃ (s : State) (plan : BitVec 8) (k : Kept), s.live.awake = true ∧ s.build.form = Form.buoy ∧
      (s.live.plan plan.toNat).state = PState.running ∧ (s.live.plan plan.toNat).kept = some k ∧
      k.assembled = false ∧ Tab.wf s.live.plans = true ∧ s.live.isSampled s.build (s.live.plan
      plan.toNat).image k.epoch = true) ∧
    (∃ (s : State) (n : BitVec 5) (r : Rec), s.build.form = Form.lantern ∧ s.live.awake = true ∧
      s.live.isUp n.toNat = true ∧ r.ty = 2 ∧ s.live.cvPlan r.stream.toNat = none) ∧
    (∃ (s : State) (n : BitVec 5) (r : Rec) (p : Nat) (loc : Nat) (o : OpenCut), s.build.form =
      Form.lantern ∧ s.live.awake = true ∧ s.live.isUp n.toNat = true ∧ r.ty = 2 ∧ s.live.cvPlan
      r.stream.toNat = some p ∧ (s.live.plan p).oc = some o ∧ r.src.toNat = s.live.trunk s.build * 256 +
      loc ∧ loc < 256 ∧ Tab.wf s.live.plans = true ∧ s.live.flt.rpl.st = RplSt.off ∧ (o.t ≠ r.ft ∨
      o.leafDone = true ∨ 500 * imgLeafClose (s.live.plan p).image < BitVec.toNat (s.live.ft - o.t) ∨
      (Tab.find? o.cls loc).isNone = true ∨ (Tab.find? o.vecs loc).isSome = true)) ∧
    (∃ (s : State) (n : BitVec 5) (r : Rec) (p : Nat) (loc : Nat) (o : OpenCut), s.build.form =
      Form.lantern ∧ s.live.awake = true ∧ s.live.isUp n.toNat = true ∧ r.ty = 2 ∧ s.live.cvPlan
      r.stream.toNat = some p ∧ (s.live.plan p).oc = some o ∧ r.src.toNat = s.live.trunk s.build * 256 +
      loc ∧ loc < 256 ∧ Tab.wf s.live.plans = true ∧ s.live.flt.rpl.st = RplSt.off ∧ o.t = r.ft ∧
      o.leafDone = false ∧ BitVec.toNat (s.live.ft - o.t) ≤ 500 * imgLeafClose (s.live.plan p).image ∧
      Tab.find? o.cls loc = some BClass.waiting ∧ (Tab.find? o.vecs loc).isNone = true ∧ r.poison =
      false) ∧
    (∃ (s : State) (n : BitVec 5) (r : Rec) (p : Nat) (loc : Nat) (o : OpenCut), s.build.form =
      Form.lantern ∧ s.live.awake = true ∧ s.live.isUp n.toNat = true ∧ r.ty = 2 ∧ s.live.cvPlan
      r.stream.toNat = some p ∧ (s.live.plan p).oc = some o ∧ r.src.toNat = s.live.trunk s.build * 256 +
      loc ∧ loc < 256 ∧ Tab.wf s.live.plans = true ∧ s.live.flt.rpl.st = RplSt.off ∧ o.t = r.ft ∧
      o.leafDone = false ∧ BitVec.toNat (s.live.ft - o.t) ≤ 500 * imgLeafClose (s.live.plan p).image ∧
      Tab.find? o.cls loc = some BClass.waiting ∧ (Tab.find? o.vecs loc).isNone = true ∧ r.poison = true
      ∧ s.live.time.cmps = [] ∧ s.live.time.fired = [] ∧ s.live.isRoot s.build (s.live.plan p) = false ∧
      imgNamed (s.live.plan p).image = [loc] ∧ (s.live.plan p).armReply = none ∧ (s.live.plan
      p).cutReplies = []) ∧
    (∃ (s : State) (plan : BitVec 8) (o : OpenCut), s.live.awake = true ∧ s.build.form = Form.lantern ∧
      (s.live.plan plan.toNat).oc = some o ∧ (s.live.plan plan.toNat).state = PState.running ∧ o.leafDone
      = false ∧ Tab.wf s.live.plans = true ∧ s.live.flt.rpl.st = RplSt.off ∧ reached s.live.ft (o.t +
      BitVec.ofNat 32 (500 * imgLeafClose (s.live.plan plan.toNat).image)) = false) ∧
    (∃ (s : State) (plan : BitVec 8) (o : OpenCut), s.live.awake = true ∧ s.build.form = Form.lantern ∧
      (s.live.plan plan.toNat).oc = some o ∧ (s.live.plan plan.toNat).state = PState.running ∧ o.leafDone
      = false ∧ Tab.wf s.live.plans = true ∧ s.live.flt.rpl.st = RplSt.off ∧ reached s.live.ft (o.t +
      BitVec.ofNat 32 (500 * imgLeafClose (s.live.plan plan.toNat).image)) = true ∧ s.live.bad
      (Holder.plan plan.toNat) = false ∧ (((stageKids (s.live.plan plan.toNat).image 1).any fun k =>
      !o.wholeA 1 k.fst) = true)) ∧
    (∃ (s : State) (r : Rec) (k : Kept), s.live.awake = true ∧ s.build.form = Form.buoy ∧ r.ty = 4 ∧
      (descOf r.body).kind = 1 ∧ (s.live.plan (descOf r.body).plan).state = PState.running ∧ (s.live.plan
      (descOf r.body).plan).kept = some k ∧ k.epoch = (descOf r.body).epoch ∧ k.can = none ∧ Tab.wf
      s.live.plans = true ∧ (k.pbSent = true ∨ reached s.live.ft (k.t + BitVec.ofNat 32 (500 * secPbClose
      (s.live.plan (descOf r.body).plan).image)) = true)) ∧
    (∃ (s : State) (r : Rec) (k : Kept), s.live.awake = true ∧ s.build.form = Form.buoy ∧ r.ty = 4 ∧
      (descOf r.body).kind = 1 ∧ (s.live.plan (descOf r.body).plan).state = PState.running ∧ (s.live.plan
      (descOf r.body).plan).kept = some k ∧ k.epoch = (descOf r.body).epoch ∧ k.can = none ∧ Tab.wf
      s.live.plans = true ∧ k.pbSent = false ∧ reached s.live.ft (k.t + BitVec.ofNat 32 (500 * secPbClose
      (s.live.plan (descOf r.body).plan).image)) = false) :=
  ⟨⟨w198, 9, by decide +kernel⟩,
   ⟨w199, 9, by decide +kernel⟩,
   ⟨w200, 9, by decide +kernel⟩,
   ⟨w201, 9, by decide +kernel⟩,
   ⟨w202, 9, ⟨0x3e8, 5, [0x7b, 9, 0x2000000000000], [], false, false, false, none⟩, by decide +kernel⟩,
   ⟨w203, 9, ⟨0x3e8, 6, [0x7b, 9, 0x2000000000000], [], false, false, true, none⟩, by decide +kernel⟩,
   ⟨w204, 4, { rec 2 0x503 0x78 7 0x3e8 [1, 2] with poison := true }, by decide +kernel⟩,
   ⟨w205, 4, { rec 2 0x503 0x77 7 0x3e8 [1, 2] with poison := true }, 9, 3, v38, by decide +kernel⟩,
   ⟨w206, 4, rec25, 9, 3, v38, by decide +kernel⟩,
   ⟨w206, 4, { rec 2 0x503 0x77 7 0x3e8 [1, 2] with poison := true }, 9, 3, v38, by decide +kernel⟩,
   ⟨w205, 9, v38, by decide +kernel⟩,
   ⟨w207, 9, v38, by decide +kernel⟩,
   ⟨w203, rec26, ⟨0x3e8, 6, [0x7b, 9, 0x2000000000000], [], false, false, true, none⟩, by decide +kernel⟩,
   ⟨w202, rec27, ⟨0x3e8, 5, [0x7b, 9, 0x2000000000000], [], false, false, false, none⟩, by decide +kernel⟩⟩

set_option maxRecDepth 20000 in
/-- States and operands that meet the hypotheses of `ReductionsClimb`, for each of its clauses. -/
theorem meets_ReductionsClimb :
    (∃ (s : State) (n : BitVec 5) (r : Rec) (st : Nat) (i : Nat) (c : Child), s.build.form = Form.lantern
      ∧ s.live.awake = true ∧ s.live.isUp n.toNat = true ∧ r.ty = 3 ∧ (s.live.plan (descOf
      r.body).plan).state = PState.running ∧ ((descOf r.body).kind = 0 ∨ (descOf r.body).kind = 2 ∨
      (descOf r.body).kind = 3) ∧ childAt (s.live.plan (descOf r.body).plan).image n.toNat (r.src.toNat /
      256) = some (st, i, c) ∧ s.live.flt.rpl.st = RplSt.off ∧ Tab.wf s.live.plans = true ∧ Tab.wf
      s.live.links = true ∧ s.live.bad (Holder.plan (descOf r.body).plan) = false ∧ s.live.bad
      (Holder.part (descOf r.body).plan) = false ∧ (s.live.plan (descOf r.body).plan).oc = none) ∧
    (∃ (s : State) (n : BitVec 5) (r : Rec) (st : Nat) (i : Nat) (c : Child) (o : OpenCut), s.build.form
      = Form.lantern ∧ s.live.awake = true ∧ s.live.isUp n.toNat = true ∧ r.ty = 3 ∧ (s.live.plan (descOf
      r.body).plan).state = PState.running ∧ ((descOf r.body).kind = 0 ∨ (descOf r.body).kind = 2 ∨
      (descOf r.body).kind = 3) ∧ childAt (s.live.plan (descOf r.body).plan).image n.toNat (r.src.toNat /
      256) = some (st, i, c) ∧ s.live.flt.rpl.st = RplSt.off ∧ Tab.wf s.live.plans = true ∧ Tab.wf
      s.live.links = true ∧ s.live.bad (Holder.plan (descOf r.body).plan) = false ∧ s.live.bad
      (Holder.part (descOf r.body).plan) = false ∧ (s.live.plan (descOf r.body).plan).oc = some o ∧
      epochLater (descOf r.body).epoch o.epoch = true) ∧
    (∃ (s : State) (n : BitVec 5) (r : Rec) (st : Nat) (i : Nat) (c : Child) (o : OpenCut), s.build.form
      = Form.lantern ∧ s.live.awake = true ∧ s.live.isUp n.toNat = true ∧ r.ty = 3 ∧ (s.live.plan (descOf
      r.body).plan).state = PState.running ∧ ((descOf r.body).kind = 0 ∨ (descOf r.body).kind = 2 ∨
      (descOf r.body).kind = 3) ∧ childAt (s.live.plan (descOf r.body).plan).image n.toNat (r.src.toNat /
      256) = some (st, i, c) ∧ s.live.flt.rpl.st = RplSt.off ∧ Tab.wf s.live.plans = true ∧ Tab.wf
      s.live.links = true ∧ s.live.bad (Holder.plan (descOf r.body).plan) = false ∧ s.live.bad
      (Holder.part (descOf r.body).plan) = false ∧ (s.live.plan (descOf r.body).plan).oc = some o ∧
      epochLater (descOf r.body).epoch o.epoch = false ∧ (o.epoch ≠ (descOf r.body).epoch ∨ st < if
      (descOf r.body).kind = 0 then o.stage else o.bStage)) ∧
    (∃ (s : State) (n : BitVec 5) (r : Rec) (st : Nat) (i : Nat) (c : Child) (o : OpenCut), s.build.form
      = Form.lantern ∧ s.live.awake = true ∧ s.live.isUp n.toNat = true ∧ r.ty = 3 ∧ (s.live.plan (descOf
      r.body).plan).state = PState.running ∧ ((descOf r.body).kind = 0 ∨ (descOf r.body).kind = 2 ∨
      (descOf r.body).kind = 3) ∧ childAt (s.live.plan (descOf r.body).plan).image n.toNat (r.src.toNat /
      256) = some (st, i, c) ∧ s.live.flt.rpl.st = RplSt.off ∧ Tab.wf s.live.plans = true ∧ Tab.wf
      s.live.links = true ∧ s.live.bad (Holder.plan (descOf r.body).plan) = false ∧ s.live.bad
      (Holder.part (descOf r.body).plan) = false ∧ (s.live.plan (descOf r.body).plan).oc = some o ∧
      o.epoch = (descOf r.body).epoch ∧ (if (descOf r.body).kind = 0 then o.stage else o.bStage) ≤ st ∧
      r.poison = false ∧ ((descOf r.body).kind = 0 → o.leafDone = false) ∧ ((descOf r.body).kind ≠ 0 →
      o.bClosed = false)) ∧
    (∃ (s : State) (n : BitVec 5) (r : Rec) (st : Nat) (i : Nat) (c : Child) (o : OpenCut), s.build.form
      = Form.lantern ∧ s.live.awake = true ∧ s.live.isUp n.toNat = true ∧ r.ty = 3 ∧ (s.live.plan (descOf
      r.body).plan).state = PState.running ∧ ((descOf r.body).kind = 0 ∨ (descOf r.body).kind = 2 ∨
      (descOf r.body).kind = 3) ∧ childAt (s.live.plan (descOf r.body).plan).image n.toNat (r.src.toNat /
      256) = some (st, i, c) ∧ s.live.flt.rpl.st = RplSt.off ∧ Tab.wf s.live.plans = true ∧ Tab.wf
      s.live.links = true ∧ s.live.bad (Holder.plan (descOf r.body).plan) = false ∧ s.live.bad
      (Holder.part (descOf r.body).plan) = false ∧ (s.live.plan (descOf r.body).plan).oc = some o ∧
      o.epoch = (descOf r.body).epoch ∧ (descOf r.body).kind = 0 ∧ st = 1 ∧ o.stage = 1 ∧ o.leafDone =
      true ∧ r.poison = false ∧ (descOf r.body).frags = 1 ∧ o.frags = [] ∧ stageKids (s.live.plan (descOf
      r.body).plan).image 1 = [(i, c)] ∧ (imgStage (s.live.plan (descOf r.body).plan).image 1).hasParent
      = true ∧ s.live.isRoot s.build (s.live.plan (descOf r.body).plan) = false ∧ (s.live.plan (descOf
      r.body).plan).miss = []) ∧
    (∃ (s : State) (plan : BitVec 8) (stage : BitVec 2) (o : OpenCut) (b : Bool), s.build.form =
      Form.lantern ∧ s.live.awake = true ∧ 0 < stage.toNat ∧ (s.live.plan plan.toNat).oc = some o ∧
      (s.live.plan plan.toNat).state = PState.running ∧ s.live.flt.rpl.st = RplSt.off ∧ Tab.wf
      s.live.plans = true ∧ Tab.wf s.live.links = true ∧ s.live.bad (Holder.plan plan.toNat) = false ∧
      s.live.bad (Holder.part plan.toNat) = false ∧ (reached s.live.ft (o.t + BitVec.ofNat 32 (500 * if b
      = true then (imgStage (s.live.plan plan.toNat).image stage.toNat).dlB else (imgStage (s.live.plan
      plan.toNat).image stage.toNat).dlA)) = false)) ∧
    (∃ (s : State) (plan : BitVec 8) (stage : BitVec 2) (o : OpenCut) (c : Child), s.build.form =
      Form.lantern ∧ s.live.awake = true ∧ 0 < stage.toNat ∧ (s.live.plan plan.toNat).oc = some o ∧
      (s.live.plan plan.toNat).state = PState.running ∧ s.live.flt.rpl.st = RplSt.off ∧ Tab.wf
      s.live.plans = true ∧ Tab.wf s.live.links = true ∧ s.live.bad (Holder.plan plan.toNat) = false ∧
      s.live.bad (Holder.part plan.toNat) = false ∧ reached s.live.ft (o.t + BitVec.ofNat 32 (500 *
      (imgStage (s.live.plan plan.toNat).image stage.toNat).dlA)) = true ∧ o.leafDone = true ∧ o.stage =
      stage.toNat ∧ stageKids (s.live.plan plan.toNat).image stage.toNat = [(0, c)] ∧ o.wholeA
      stage.toNat 0 = false ∧ Tab.getD (s.live.plan plan.toNat).miss (2 * stage.toNat) 0 + 1 <
      s.live.missN s.build ∧ (imgStage (s.live.plan plan.toNat).image stage.toNat).hasParent = true) ∧
    (∃ (s : State) (plan : BitVec 8) (stage : BitVec 2) (o : OpenCut) (c : Child), s.build.form =
      Form.lantern ∧ s.live.awake = true ∧ 0 < stage.toNat ∧ (s.live.plan plan.toNat).oc = some o ∧
      (s.live.plan plan.toNat).state = PState.running ∧ s.live.flt.rpl.st = RplSt.off ∧ Tab.wf
      s.live.plans = true ∧ Tab.wf s.live.links = true ∧ s.live.bad (Holder.plan plan.toNat) = false ∧
      s.live.bad (Holder.part plan.toNat) = false ∧ reached s.live.ft (o.t + BitVec.ofNat 32 (500 *
      (imgStage (s.live.plan plan.toNat).image stage.toNat).dlB)) = true ∧ o.bClosed = true ∧ o.bStage =
      stage.toNat ∧ stageKids (s.live.plan plan.toNat).image stage.toNat = [(0, c)] ∧ o.frags = [] ∧
      (imgStage (s.live.plan plan.toNat).image stage.toNat).hasParent = true ∧ imgNStrag (s.live.plan
      plan.toNat).image ≠ 0) ∧
    (∃ (s : State) (n : BitVec 5) (r : Rec) (o : OpenCut), s.build.form = Form.lantern ∧ s.live.awake =
      true ∧ s.live.isUp n.toNat = true ∧ r.ty = 4 ∧ (descOf r.body).kind = 1 ∧ (s.live.plan (descOf
      r.body).plan).state = PState.running ∧ (s.live.plan (descOf r.body).plan).oc = some o ∧ o.epoch =
      (descOf r.body).epoch ∧ s.live.flt.rpl.st = RplSt.off ∧ Tab.wf s.live.plans = true ∧ Tab.wf
      s.live.links = true ∧ s.live.bad (Holder.plan (descOf r.body).plan) = false ∧ (o.thr.isSome = true
      ∨ o.bClosed = true)) ∧
    (∃ (s : State) (n : BitVec 5) (r : Rec) (u : Nat) (loc : Nat) (o : OpenCut), s.build.form =
      Form.lantern ∧ s.live.awake = true ∧ s.live.isUp n.toNat = true ∧ r.ty = 4 ∧ (descOf r.body).kind =
      1 ∧ (s.live.plan (descOf r.body).plan).state = PState.running ∧ (s.live.plan (descOf
      r.body).plan).oc = some o ∧ o.epoch = (descOf r.body).epoch ∧ s.live.flt.rpl.st = RplSt.off ∧
      Tab.wf s.live.plans = true ∧ Tab.wf s.live.links = true ∧ s.live.bad (Holder.plan (descOf
      r.body).plan) = false ∧ o.thr = none ∧ o.bClosed = false ∧ r.poison = false ∧ imgBcastLinks
      (s.live.plan (descOf r.body).plan).image = [u] ∧ s.live.linksOf s.build 2 = [] ∧ List.filter (fun e
      => decide (e.snd = BClass.present)) o.cls = [(loc, BClass.present)] ∧ u ≠ waitLink) ∧
    (∃ (s : State) (n : BitVec 5) (r : Rec) (loc : Nat) (o : OpenCut), s.build.form = Form.lantern ∧
      s.live.awake = true ∧ s.live.isUp n.toNat = true ∧ r.ty = 3 ∧ (descOf r.body).stage = 16 ∧
      (s.live.plan (descOf r.body).plan).state = PState.running ∧ (s.live.plan (descOf r.body).plan).oc =
      some o ∧ o.epoch = (descOf r.body).epoch ∧ r.src.toNat = s.live.trunk s.build * 256 + loc ∧ loc <
      256 ∧ o.leafDone = true ∧ secCvStream (imgBuoySec (s.live.plan (descOf r.body).plan).image) =
      r.stream.toNat ∧ s.live.flt.rpl.st = RplSt.off ∧ s.live.bad (Holder.plan (descOf r.body).plan) =
      false ∧ (Tab.getD o.cls loc BClass.absent ≠ BClass.present ∨ o.bClosed = true)) ∧
    (∃ (s : State) (n : BitVec 5) (r : Rec) (loc : Nat) (o : OpenCut), s.build.form = Form.lantern ∧
      s.live.awake = true ∧ s.live.isUp n.toNat = true ∧ r.ty = 3 ∧ (descOf r.body).stage = 16 ∧
      (s.live.plan (descOf r.body).plan).state = PState.running ∧ (s.live.plan (descOf r.body).plan).oc =
      some o ∧ o.epoch = (descOf r.body).epoch ∧ r.src.toNat = s.live.trunk s.build * 256 + loc ∧ loc <
      256 ∧ o.leafDone = true ∧ secCvStream (imgBuoySec (s.live.plan (descOf r.body).plan).image) =
      r.stream.toNat ∧ s.live.flt.rpl.st = RplSt.off ∧ s.live.bad (Holder.plan (descOf r.body).plan) =
      false ∧ Tab.getD o.cls loc BClass.absent = BClass.present ∧ o.bClosed = false ∧ r.poison = false ∧
      (descOf r.body).kind = 2 ∧ o.thr.isSome = true ∧ (¬loc ∈ o.bPresent)) ∧
    (∃ (s : State) (n : BitVec 5) (r : Rec) (loc : Nat) (o : OpenCut), s.build.form = Form.lantern ∧
      s.live.awake = true ∧ s.live.isUp n.toNat = true ∧ r.ty = 3 ∧ (descOf r.body).stage = 16 ∧
      (s.live.plan (descOf r.body).plan).state = PState.running ∧ (s.live.plan (descOf r.body).plan).oc =
      some o ∧ o.epoch = (descOf r.body).epoch ∧ r.src.toNat = s.live.trunk s.build * 256 + loc ∧ loc <
      256 ∧ o.leafDone = true ∧ secCvStream (imgBuoySec (s.live.plan (descOf r.body).plan).image) =
      r.stream.toNat ∧ s.live.flt.rpl.st = RplSt.off ∧ s.live.bad (Holder.plan (descOf r.body).plan) =
      false ∧ Tab.getD o.cls loc BClass.absent = BClass.present ∧ o.bClosed = false ∧ r.poison = false ∧
      (descOf r.body).kind = 3 ∧ canaryEpoch (s.live.plan (descOf r.body).plan).image o.epoch = true ∧
      (¬loc ∈ o.cPresent)) ∧
    (∃ (s : State) (plan : BitVec 8) (o : OpenCut), s.live.awake = true ∧ (s.live.plan plan.toNat).oc =
      some o ∧ (s.live.plan plan.toNat).state = PState.running ∧ s.live.flt.rpl.st = RplSt.off ∧ Tab.wf
      s.live.plans = true ∧ s.live.bad (Holder.plan plan.toNat) = false ∧ s.live.bad (Holder.part
      plan.toNat) = false ∧ (o.bClosed = true ∨ o.stage ≠ 4 ∨ reached s.live.ft (o.t + BitVec.ofNat 32
      (500 * imgPbClose (s.live.plan plan.toNat).image)) = false)) ∧
    (∃ (s : State) (plan : BitVec 8) (o : OpenCut), s.live.awake = true ∧ (s.live.plan plan.toNat).oc =
      some o ∧ (s.live.plan plan.toNat).state = PState.running ∧ s.live.flt.rpl.st = RplSt.off ∧ Tab.wf
      s.live.plans = true ∧ s.live.bad (Holder.plan plan.toNat) = false ∧ s.live.bad (Holder.part
      plan.toNat) = false ∧ o.bClosed = false ∧ o.stage = 4 ∧ imgNStrag (s.live.plan plan.toNat).image ≠
      0 ∧ imgCanary (s.live.plan plan.toNat).image = 0 ∧ reached s.live.ft (o.t + BitVec.ofNat 32 (500 *
      imgPbClose (s.live.plan plan.toNat).image)) = true ∧ (((stageKids (s.live.plan plan.toNat).image
      1).any fun k => !o.wholeB (s.live.plan plan.toNat).image 1 k.fst) = true)) :=
  ⟨⟨w208, 4, rec28, 1, 0, ⟨6, 4, 256⟩, by decide +kernel⟩,
   ⟨w205, 4, rec29, 1, 0, ⟨6, 4, 256⟩, v38, by decide +kernel⟩,
   ⟨w205, 4, rec30, 1, 0, ⟨6, 4, 256⟩, v38, by decide +kernel⟩,
   ⟨w205, 4, rec31, 1, 0, ⟨6, 4, 256⟩, v38, by decide +kernel⟩,
   ⟨w209, 4, rec32, 1, 0, ⟨6, 4, 256⟩, v39, by decide +kernel⟩,
   ⟨w205, 9, 1, v38, true, by decide +kernel⟩,
   ⟨w210, 9, 1, v39, ⟨6, 4, 256⟩, by decide +kernel⟩,
   ⟨w211, 9, 1, v40, ⟨6, 4, 256⟩, by decide +kernel⟩,
   ⟨w212, 4, rec27, v41, by decide +kernel⟩,
   ⟨w209, 4, rec27, 2, 3, v39, by decide +kernel⟩,
   ⟨w213, 4, rec33, 4, v42, by decide +kernel⟩,
   ⟨w212, 4, rec34, 3, v41, by decide +kernel⟩,
   ⟨w214, 4, rec35, 3, v39, by decide +kernel⟩,
   ⟨w205, 9, v38, by decide +kernel⟩,
   ⟨w215, 9, v42, by decide +kernel⟩⟩

set_option maxRecDepth 20000 in
/-- States and operands that meet the hypotheses of `ActionsRunWhenDueAndReady`, for each of its clauses. -/
theorem meets_ActionsRunWhenDueAndReady :
    (∃ (s : State) (plan : BitVec 8) (entry : BitVec 8), s.live.awake = true ∧ s.live.flt.rpl.st =
      RplSt.off ∧ Tab.wf s.live.plans = true ∧ s.live.bad (Holder.plan plan.toNat) = false ∧ (∀ (c :
      Occ), c ∈ (s.live.plan plan.toNat).due → c.entry ≠ entry.toNat)) ∧
    (∃ (s : State) (plan : BitVec 8) (entry : BitVec 8) (o : Occ) (rest : List Occ), s.live.awake = true
      ∧ s.live.flt.rpl.st = RplSt.off ∧ Tab.wf s.live.plans = true ∧ s.live.bad (Holder.plan plan.toNat)
      = false ∧ (s.live.plan plan.toNat).due = o :: rest ∧ o.entry = entry.toNat ∧ 0 < (imgAction
      (s.live.plan plan.toNat).image entry.toNat).every ∧ (Tab.getD (s.live.plan plan.toNat).trig
      entry.toNat 0 + 1) % (imgAction (s.live.plan plan.toNat).image entry.toNat).every ≠ 0) ∧
    (∃ (s : State) (plan : BitVec 8) (entry : BitVec 8) (o : Occ) (rest : List Occ), s.live.awake = true
      ∧ s.live.flt.rpl.st = RplSt.off ∧ Tab.wf s.live.plans = true ∧ s.live.bad (Holder.plan plan.toNat)
      = false ∧ (s.live.plan plan.toNat).due = o :: rest ∧ o.entry = entry.toNat ∧ 0 < (imgAction
      (s.live.plan plan.toNat).image entry.toNat).every ∧ (Tab.getD (s.live.plan plan.toNat).trig
      entry.toNat 0 + 1) % (imgAction (s.live.plan plan.toNat).image entry.toNat).every = 0 ∧
      s.live.runsHere s.build (s.live.plan plan.toNat) (imgAction (s.live.plan plan.toNat).image
      entry.toNat) = true ∧ engineOccs (s.live.plan plan.toNat) (imgAction (s.live.plan plan.toNat).image
      entry.toNat).engine < 4) ∧
    (∃ (s : State) (plan : BitVec 8) (entry : BitVec 8) (o : Occ) (rest : List Occ), s.live.awake = true
      ∧ s.live.flt.rpl.st = RplSt.off ∧ Tab.wf s.live.plans = true ∧ s.live.bad (Holder.plan plan.toNat)
      = false ∧ (s.live.plan plan.toNat).due = o :: rest ∧ o.entry = entry.toNat ∧ 0 < (imgAction
      (s.live.plan plan.toNat).image entry.toNat).every ∧ (Tab.getD (s.live.plan plan.toNat).trig
      entry.toNat 0 + 1) % (imgAction (s.live.plan plan.toNat).image entry.toNat).every = 0 ∧
      s.live.runsHere s.build (s.live.plan plan.toNat) (imgAction (s.live.plan plan.toNat).image
      entry.toNat) = true ∧ 4 ≤ engineOccs (s.live.plan plan.toNat) (imgAction (s.live.plan
      plan.toNat).image entry.toNat).engine ∧ (s.live.plan plan.toNat).state = PState.running ∧
      s.build.form = Form.lantern ∧ imgNamed (s.live.plan plan.toNat).image = [] ∧ (s.live.plan
      plan.toNat).armReply = none ∧ (s.live.plan plan.toNat).cutReplies = [] ∧ Tab.wf s.live.rf = true) ∧
    (∃ (s : State) (plan : BitVec 8) (entry : BitVec 8) (o : Occ) (rest : List Occ), s.live.awake = true
      ∧ s.build.form = Form.lantern ∧ (imgAction (s.live.plan plan.toNat).image entry.toNat).engine = 0 ∧
      (s.live.plan plan.toNat).occs = o :: rest ∧ o.entry = entry.toNat ∧ s.live.flt.rpl.st = RplSt.off ∧
      Tab.wf s.live.plans = true ∧ s.live.bad (Holder.plan plan.toNat) = false ∧ o.waiting = true) ∧
    (∃ (s : State) (plan : BitVec 8) (entry : BitVec 8) (o : Occ) (rest : List Occ) (j : Nat),
      s.live.awake = true ∧ s.build.form = Form.lantern ∧ (imgAction (s.live.plan plan.toNat).image
      entry.toNat).engine = 0 ∧ (s.live.plan plan.toNat).occs = o :: rest ∧ o.entry = entry.toNat ∧
      s.live.flt.rpl.st = RplSt.off ∧ Tab.wf s.live.plans = true ∧ s.live.bad (Holder.plan plan.toNat) =
      false ∧ o.waiting = false ∧ j < (s.live.treeSamples s.build (s.live.plan plan.toNat).image (treeBlk
      (s.live.plan plan.toNat).image (imgAction (s.live.plan plan.toNat).image entry.toNat)) (s.live.tree
      (imgAction (s.live.plan plan.toNat).image entry.toNat).slot).image o).length ∧ s.live.sampleBad
      s.build (imgAction (s.live.plan plan.toNat).image entry.toNat).slot j ((List.map (fun x => x.snd)
      (s.live.treeSamples s.build (s.live.plan plan.toNat).image (treeBlk (s.live.plan plan.toNat).image
      (imgAction (s.live.plan plan.toNat).image entry.toNat)) (s.live.tree (imgAction (s.live.plan
      plan.toNat).image entry.toNat).slot).image o)).getD j []) (Holder.rows plan.toNat o.entry o.epoch
      j) ≠ [] ∧ (s.live.plan plan.toNat).state = PState.running ∧ s.live.time.cmps = [] ∧
      s.live.time.fired = [] ∧ imgNamed (s.live.plan plan.toNat).image = [] ∧ (s.live.plan
      plan.toNat).armReply = none ∧ (s.live.plan plan.toNat).cutReplies = []) ∧
    (∃ (s : State) (plan : BitVec 8) (entry : BitVec 8) (o : Occ) (rest : List Occ), s.live.awake = true
      ∧ s.build.form = Form.lantern ∧ (imgAction (s.live.plan plan.toNat).image entry.toNat).engine = 0 ∧
      (s.live.plan plan.toNat).occs = o :: rest ∧ o.entry = entry.toNat ∧ s.live.flt.rpl.st = RplSt.off ∧
      Tab.wf s.live.plans = true ∧ s.live.bad (Holder.plan plan.toNat) = false ∧ o.waiting = false ∧ (∀
      (j : Nat), j < (s.live.treeSamples s.build (s.live.plan plan.toNat).image (treeBlk (s.live.plan
      plan.toNat).image (imgAction (s.live.plan plan.toNat).image entry.toNat)) (s.live.tree (imgAction
      (s.live.plan plan.toNat).image entry.toNat).slot).image o).length → s.live.sampleBad s.build
      (imgAction (s.live.plan plan.toNat).image entry.toNat).slot j ((List.map (fun x => x.snd)
      (s.live.treeSamples s.build (s.live.plan plan.toNat).image (treeBlk (s.live.plan plan.toNat).image
      (imgAction (s.live.plan plan.toNat).image entry.toNat)) (s.live.tree (imgAction (s.live.plan
      plan.toNat).image entry.toNat).slot).image o)).getD j []) (Holder.rows plan.toNat o.entry o.epoch
      j) = []) ∧ (imgAction (s.live.plan plan.toNat).image entry.toNat).sigEn = false) ∧
    (∃ (s : State) (plan : BitVec 8) (entry : BitVec 8) (o : Occ) (rest : List Occ) (y : Sync),
      s.live.awake = true ∧ s.build.form = Form.lantern ∧ (imgAction (s.live.plan plan.toNat).image
      entry.toNat).engine = 0 ∧ (s.live.plan plan.toNat).occs = o :: rest ∧ o.entry = entry.toNat ∧
      s.live.flt.rpl.st = RplSt.off ∧ Tab.wf s.live.plans = true ∧ s.live.bad (Holder.plan plan.toNat) =
      false ∧ o.waiting = false ∧ (∀ (j : Nat), j < (s.live.treeSamples s.build (s.live.plan
      plan.toNat).image (treeBlk (s.live.plan plan.toNat).image (imgAction (s.live.plan plan.toNat).image
      entry.toNat)) (s.live.tree (imgAction (s.live.plan plan.toNat).image entry.toNat).slot).image
      o).length → s.live.sampleBad s.build (imgAction (s.live.plan plan.toNat).image entry.toNat).slot j
      ((List.map (fun x => x.snd) (s.live.treeSamples s.build (s.live.plan plan.toNat).image (treeBlk
      (s.live.plan plan.toNat).image (imgAction (s.live.plan plan.toNat).image entry.toNat)) (s.live.tree
      (imgAction (s.live.plan plan.toNat).image entry.toNat).slot).image o)).getD j []) (Holder.rows
      plan.toNat o.entry o.epoch j) = []) ∧ (imgAction (s.live.plan plan.toNat).image entry.toNat).sigEn
      = true ∧ Tab.find? s.live.trace.syncs (imgAction (s.live.plan plan.toNat).image entry.toNat).sig =
      some y ∧ y.plan = plan.toNat ∧ y.ty = 0 ∧ Tab.wf s.live.trace.syncs = true ∧ y.count + 1 < y.init)
      ∧
    (∃ (s : State) (plan : BitVec 8) (entry : BitVec 8) (o : Occ) (rest : List Occ) (y : Sync),
      s.live.awake = true ∧ s.build.form = Form.lantern ∧ (imgAction (s.live.plan plan.toNat).image
      entry.toNat).engine = 0 ∧ (s.live.plan plan.toNat).occs = o :: rest ∧ o.entry = entry.toNat ∧
      s.live.flt.rpl.st = RplSt.off ∧ Tab.wf s.live.plans = true ∧ s.live.bad (Holder.plan plan.toNat) =
      false ∧ o.waiting = false ∧ (∀ (j : Nat), j < (s.live.treeSamples s.build (s.live.plan
      plan.toNat).image (treeBlk (s.live.plan plan.toNat).image (imgAction (s.live.plan plan.toNat).image
      entry.toNat)) (s.live.tree (imgAction (s.live.plan plan.toNat).image entry.toNat).slot).image
      o).length → s.live.sampleBad s.build (imgAction (s.live.plan plan.toNat).image entry.toNat).slot j
      ((List.map (fun x => x.snd) (s.live.treeSamples s.build (s.live.plan plan.toNat).image (treeBlk
      (s.live.plan plan.toNat).image (imgAction (s.live.plan plan.toNat).image entry.toNat)) (s.live.tree
      (imgAction (s.live.plan plan.toNat).image entry.toNat).slot).image o)).getD j []) (Holder.rows
      plan.toNat o.entry o.epoch j) = []) ∧ (imgAction (s.live.plan plan.toNat).image entry.toNat).sigEn
      = true ∧ Tab.find? s.live.trace.syncs (imgAction (s.live.plan plan.toNat).image entry.toNat).sig =
      some y ∧ y.plan = plan.toNat ∧ y.ty = 0 ∧ Tab.wf s.live.trace.syncs = true ∧ y.init ≤ y.count + 1)
      ∧
    (∃ (s : State) (plan : BitVec 8) (entry : BitVec 8) (o : Occ) (rest : List Occ), s.live.awake = true
      ∧ s.build.form = Form.lantern ∧ (imgAction (s.live.plan plan.toNat).image entry.toNat).engine = 1 ∧
      (s.live.plan plan.toNat).occs = o :: rest ∧ o.entry = entry.toNat ∧ o.waiting = false ∧
      s.live.seqOldest o = true ∧ (seqBlk (s.live.plan plan.toNat).image (imgAction (s.live.plan
      plan.toNat).image entry.toNat)).nser = 1 ∧ (imgAction (s.live.plan plan.toNat).image
      entry.toNat).sigEn = false ∧ s.live.flt.rpl.st = RplSt.off ∧ Tab.wf s.live.plans = true ∧
      s.live.bad (Holder.plan plan.toNat) = false ∧ s.live.bad (Holder.seq (imgAction (s.live.plan
      plan.toNat).image entry.toNat).slot) = false ∧ s.live.bad (Holder.live (liveKey plan.toNat
      entry.toNat 0)) = false ∧ ((seqBlk (s.live.plan plan.toNat).image (imgAction (s.live.plan
      plan.toNat).image entry.toNat)).mode ≤ 2 → (s.live.sery ((seqBlk (s.live.plan plan.toNat).image
      (imgAction (s.live.plan plan.toNat).image entry.toNat)).sers.getD 0 0)).on = true → (Tab.find?
      s.live.eng.live (liveKey plan.toNat entry.toNat 0)).isSome = true ∧ (Tab.getD s.live.eng.live
      (liveKey plan.toNat entry.toNat 0) { p := 0, st := [], gen := 0 }).gen = s.live.gen ((seqBlk
      (s.live.plan plan.toNat).image (imgAction (s.live.plan plan.toNat).image entry.toNat)).sers.getD 0
      0) ∧ sampBefore (Tab.getD s.live.eng.live (liveKey plan.toNat entry.toNat 0)
      { p := 0, st := [], gen := 0 }).p (s.live.serFirst s.build ((seqBlk (s.live.plan plan.toNat).image
      (imgAction (s.live.plan plan.toNat).image entry.toNat)).sers.getD 0 0)) = false) ∧ (s.live.sery
      ((seqBlk (s.live.plan plan.toNat).image (imgAction (s.live.plan plan.toNat).image
      entry.toNat)).sers.getD 0 0)).on = true ∧ ((s.live.serRead s.build ((seqBlk (s.live.plan
      plan.toNat).image (imgAction (s.live.plan plan.toNat).image entry.toNat)).sers.getD 0 0)
      (s.live.gen ((seqBlk (s.live.plan plan.toNat).image (imgAction (s.live.plan plan.toNat).image
      entry.toNat)).sers.getD 0 0)) ((s.live.sery ((seqBlk (s.live.plan plan.toNat).image (imgAction
      (s.live.plan plan.toNat).image entry.toNat)).sers.getD 0 0)).commit - BitVec.ofNat 32 (if (seqBlk
      (s.live.plan plan.toNat).image (imgAction (s.live.plan plan.toNat).image entry.toNat)).mode ≤ 2 ∧
      (s.live.sery ((seqBlk (s.live.plan plan.toNat).image (imgAction (s.live.plan plan.toNat).image
      entry.toNat)).sers.getD 0 0)).on = false then 0 else if (seqBlk (s.live.plan plan.toNat).image
      (imgAction (s.live.plan plan.toNat).image entry.toNat)).mode ≤ 2 then BitVec.toNat ((s.live.sery
      ((seqBlk (s.live.plan plan.toNat).image (imgAction (s.live.plan plan.toNat).image
      entry.toNat)).sers.getD 0 0)).commit - (Tab.getD s.live.eng.live (liveKey plan.toNat entry.toNat 0)
      { p := 0, st := [], gen := 0 }).p) else min (seqBlk (s.live.plan plan.toNat).image (imgAction
      (s.live.plan plan.toNat).image entry.toNat)).wlen (BitVec.toNat ((s.live.sery ((seqBlk (s.live.plan
      plan.toNat).image (imgAction (s.live.plan plan.toNat).image entry.toNat)).sers.getD 0 0)).commit -
      s.live.serFirst s.build ((seqBlk (s.live.plan plan.toNat).image (imgAction (s.live.plan
      plan.toNat).image entry.toNat)).sers.getD 0 0))))) (if (seqBlk (s.live.plan plan.toNat).image
      (imgAction (s.live.plan plan.toNat).image entry.toNat)).mode ≤ 2 ∧ (s.live.sery ((seqBlk
      (s.live.plan plan.toNat).image (imgAction (s.live.plan plan.toNat).image entry.toNat)).sers.getD 0
      0)).on = false then 0 else if (seqBlk (s.live.plan plan.toNat).image (imgAction (s.live.plan
      plan.toNat).image entry.toNat)).mode ≤ 2 then BitVec.toNat ((s.live.sery ((seqBlk (s.live.plan
      plan.toNat).image (imgAction (s.live.plan plan.toNat).image entry.toNat)).sers.getD 0 0)).commit -
      (Tab.getD s.live.eng.live (liveKey plan.toNat entry.toNat 0) { p := 0, st := [], gen := 0 }).p)
      else min (seqBlk (s.live.plan plan.toNat).image (imgAction (s.live.plan plan.toNat).image
      entry.toNat)).wlen (BitVec.toNat ((s.live.sery ((seqBlk (s.live.plan plan.toNat).image (imgAction
      (s.live.plan plan.toNat).image entry.toNat)).sers.getD 0 0)).commit - s.live.serFirst s.build
      ((seqBlk (s.live.plan plan.toNat).image (imgAction (s.live.plan plan.toNat).image
      entry.toNat)).sers.getD 0 0))))).poison = true) ∧ (s.live.plan plan.toNat).state = PState.running ∧
      s.live.time.cmps = [] ∧ s.live.time.fired = [] ∧ imgNamed (s.live.plan plan.toNat).image = [] ∧
      (s.live.plan plan.toNat).armReply = none ∧ (s.live.plan plan.toNat).cutReplies = []) ∧
    (∃ (s : State) (plan : BitVec 8) (entry : BitVec 8) (o : Occ) (rest : List Occ), s.live.awake = true
      ∧ s.build.form = Form.lantern ∧ (imgAction (s.live.plan plan.toNat).image entry.toNat).engine = 1 ∧
      (s.live.plan plan.toNat).occs = o :: rest ∧ o.entry = entry.toNat ∧ o.waiting = false ∧
      s.live.seqOldest o = true ∧ (seqBlk (s.live.plan plan.toNat).image (imgAction (s.live.plan
      plan.toNat).image entry.toNat)).nser = 1 ∧ (imgAction (s.live.plan plan.toNat).image
      entry.toNat).sigEn = false ∧ s.live.flt.rpl.st = RplSt.off ∧ Tab.wf s.live.plans = true ∧
      s.live.bad (Holder.plan plan.toNat) = false ∧ s.live.bad (Holder.seq (imgAction (s.live.plan
      plan.toNat).image entry.toNat).slot) = false ∧ s.live.bad (Holder.live (liveKey plan.toNat
      entry.toNat 0)) = false ∧ ((seqBlk (s.live.plan plan.toNat).image (imgAction (s.live.plan
      plan.toNat).image entry.toNat)).mode ≤ 2 → (s.live.sery ((seqBlk (s.live.plan plan.toNat).image
      (imgAction (s.live.plan plan.toNat).image entry.toNat)).sers.getD 0 0)).on = true → (Tab.find?
      s.live.eng.live (liveKey plan.toNat entry.toNat 0)).isSome = true ∧ (Tab.getD s.live.eng.live
      (liveKey plan.toNat entry.toNat 0) { p := 0, st := [], gen := 0 }).gen = s.live.gen ((seqBlk
      (s.live.plan plan.toNat).image (imgAction (s.live.plan plan.toNat).image entry.toNat)).sers.getD 0
      0) ∧ sampBefore (Tab.getD s.live.eng.live (liveKey plan.toNat entry.toNat 0)
      { p := 0, st := [], gen := 0 }).p (s.live.serFirst s.build ((seqBlk (s.live.plan plan.toNat).image
      (imgAction (s.live.plan plan.toNat).image entry.toNat)).sers.getD 0 0)) = false) ∧ ((s.live.sery
      ((seqBlk (s.live.plan plan.toNat).image (imgAction (s.live.plan plan.toNat).image
      entry.toNat)).sers.getD 0 0)).on = false ∨ (s.live.serRead s.build ((seqBlk (s.live.plan
      plan.toNat).image (imgAction (s.live.plan plan.toNat).image entry.toNat)).sers.getD 0 0)
      (s.live.gen ((seqBlk (s.live.plan plan.toNat).image (imgAction (s.live.plan plan.toNat).image
      entry.toNat)).sers.getD 0 0)) ((s.live.sery ((seqBlk (s.live.plan plan.toNat).image (imgAction
      (s.live.plan plan.toNat).image entry.toNat)).sers.getD 0 0)).commit - BitVec.ofNat 32 (if (seqBlk
      (s.live.plan plan.toNat).image (imgAction (s.live.plan plan.toNat).image entry.toNat)).mode ≤ 2 ∧
      (s.live.sery ((seqBlk (s.live.plan plan.toNat).image (imgAction (s.live.plan plan.toNat).image
      entry.toNat)).sers.getD 0 0)).on = false then 0 else if (seqBlk (s.live.plan plan.toNat).image
      (imgAction (s.live.plan plan.toNat).image entry.toNat)).mode ≤ 2 then BitVec.toNat ((s.live.sery
      ((seqBlk (s.live.plan plan.toNat).image (imgAction (s.live.plan plan.toNat).image
      entry.toNat)).sers.getD 0 0)).commit - (Tab.getD s.live.eng.live (liveKey plan.toNat entry.toNat 0)
      { p := 0, st := [], gen := 0 }).p) else min (seqBlk (s.live.plan plan.toNat).image (imgAction
      (s.live.plan plan.toNat).image entry.toNat)).wlen (BitVec.toNat ((s.live.sery ((seqBlk (s.live.plan
      plan.toNat).image (imgAction (s.live.plan plan.toNat).image entry.toNat)).sers.getD 0 0)).commit -
      s.live.serFirst s.build ((seqBlk (s.live.plan plan.toNat).image (imgAction (s.live.plan
      plan.toNat).image entry.toNat)).sers.getD 0 0))))) (if (seqBlk (s.live.plan plan.toNat).image
      (imgAction (s.live.plan plan.toNat).image entry.toNat)).mode ≤ 2 ∧ (s.live.sery ((seqBlk
      (s.live.plan plan.toNat).image (imgAction (s.live.plan plan.toNat).image entry.toNat)).sers.getD 0
      0)).on = false then 0 else if (seqBlk (s.live.plan plan.toNat).image (imgAction (s.live.plan
      plan.toNat).image entry.toNat)).mode ≤ 2 then BitVec.toNat ((s.live.sery ((seqBlk (s.live.plan
      plan.toNat).image (imgAction (s.live.plan plan.toNat).image entry.toNat)).sers.getD 0 0)).commit -
      (Tab.getD s.live.eng.live (liveKey plan.toNat entry.toNat 0) { p := 0, st := [], gen := 0 }).p)
      else min (seqBlk (s.live.plan plan.toNat).image (imgAction (s.live.plan plan.toNat).image
      entry.toNat)).wlen (BitVec.toNat ((s.live.sery ((seqBlk (s.live.plan plan.toNat).image (imgAction
      (s.live.plan plan.toNat).image entry.toNat)).sers.getD 0 0)).commit - s.live.serFirst s.build
      ((seqBlk (s.live.plan plan.toNat).image (imgAction (s.live.plan plan.toNat).image
      entry.toNat)).sers.getD 0 0))))).poison = false ∧ (s.live.serRead s.build ((seqBlk (s.live.plan
      plan.toNat).image (imgAction (s.live.plan plan.toNat).image entry.toNat)).sers.getD 0 0)
      (s.live.gen ((seqBlk (s.live.plan plan.toNat).image (imgAction (s.live.plan plan.toNat).image
      entry.toNat)).sers.getD 0 0)) ((s.live.sery ((seqBlk (s.live.plan plan.toNat).image (imgAction
      (s.live.plan plan.toNat).image entry.toNat)).sers.getD 0 0)).commit - BitVec.ofNat 32 (if (seqBlk
      (s.live.plan plan.toNat).image (imgAction (s.live.plan plan.toNat).image entry.toNat)).mode ≤ 2 ∧
      (s.live.sery ((seqBlk (s.live.plan plan.toNat).image (imgAction (s.live.plan plan.toNat).image
      entry.toNat)).sers.getD 0 0)).on = false then 0 else if (seqBlk (s.live.plan plan.toNat).image
      (imgAction (s.live.plan plan.toNat).image entry.toNat)).mode ≤ 2 then BitVec.toNat ((s.live.sery
      ((seqBlk (s.live.plan plan.toNat).image (imgAction (s.live.plan plan.toNat).image
      entry.toNat)).sers.getD 0 0)).commit - (Tab.getD s.live.eng.live (liveKey plan.toNat entry.toNat 0)
      { p := 0, st := [], gen := 0 }).p) else min (seqBlk (s.live.plan plan.toNat).image (imgAction
      (s.live.plan plan.toNat).image entry.toNat)).wlen (BitVec.toNat ((s.live.sery ((seqBlk (s.live.plan
      plan.toNat).image (imgAction (s.live.plan plan.toNat).image entry.toNat)).sers.getD 0 0)).commit -
      s.live.serFirst s.build ((seqBlk (s.live.plan plan.toNat).image (imgAction (s.live.plan
      plan.toNat).image entry.toNat)).sers.getD 0 0))))) (if (seqBlk (s.live.plan plan.toNat).image
      (imgAction (s.live.plan plan.toNat).image entry.toNat)).mode ≤ 2 ∧ (s.live.sery ((seqBlk
      (s.live.plan plan.toNat).image (imgAction (s.live.plan plan.toNat).image entry.toNat)).sers.getD 0
      0)).on = false then 0 else if (seqBlk (s.live.plan plan.toNat).image (imgAction (s.live.plan
      plan.toNat).image entry.toNat)).mode ≤ 2 then BitVec.toNat ((s.live.sery ((seqBlk (s.live.plan
      plan.toNat).image (imgAction (s.live.plan plan.toNat).image entry.toNat)).sers.getD 0 0)).commit -
      (Tab.getD s.live.eng.live (liveKey plan.toNat entry.toNat 0) { p := 0, st := [], gen := 0 }).p)
      else min (seqBlk (s.live.plan plan.toNat).image (imgAction (s.live.plan plan.toNat).image
      entry.toNat)).wlen (BitVec.toNat ((s.live.sery ((seqBlk (s.live.plan plan.toNat).image (imgAction
      (s.live.plan plan.toNat).image entry.toNat)).sers.getD 0 0)).commit - s.live.serFirst s.build
      ((seqBlk (s.live.plan plan.toNat).image (imgAction (s.live.plan plan.toNat).image
      entry.toNat)).sers.getD 0 0))))).stale = true)) ∧
    (∃ (s : State) (plan : BitVec 8) (entry : BitVec 8) (o : Occ) (rest : List Occ), s.live.awake = true
      ∧ s.build.form = Form.lantern ∧ (imgAction (s.live.plan plan.toNat).image entry.toNat).engine = 1 ∧
      (s.live.plan plan.toNat).occs = o :: rest ∧ o.entry = entry.toNat ∧ o.waiting = false ∧
      s.live.seqOldest o = true ∧ (seqBlk (s.live.plan plan.toNat).image (imgAction (s.live.plan
      plan.toNat).image entry.toNat)).nser = 1 ∧ (imgAction (s.live.plan plan.toNat).image
      entry.toNat).sigEn = false ∧ s.live.flt.rpl.st = RplSt.off ∧ Tab.wf s.live.plans = true ∧
      s.live.bad (Holder.plan plan.toNat) = false ∧ s.live.bad (Holder.seq (imgAction (s.live.plan
      plan.toNat).image entry.toNat).slot) = false ∧ s.live.bad (Holder.live (liveKey plan.toNat
      entry.toNat 0)) = false ∧ ((seqBlk (s.live.plan plan.toNat).image (imgAction (s.live.plan
      plan.toNat).image entry.toNat)).mode ≤ 2 → (s.live.sery ((seqBlk (s.live.plan plan.toNat).image
      (imgAction (s.live.plan plan.toNat).image entry.toNat)).sers.getD 0 0)).on = true → (Tab.find?
      s.live.eng.live (liveKey plan.toNat entry.toNat 0)).isSome = true ∧ (Tab.getD s.live.eng.live
      (liveKey plan.toNat entry.toNat 0) { p := 0, st := [], gen := 0 }).gen = s.live.gen ((seqBlk
      (s.live.plan plan.toNat).image (imgAction (s.live.plan plan.toNat).image entry.toNat)).sers.getD 0
      0) ∧ sampBefore (Tab.getD s.live.eng.live (liveKey plan.toNat entry.toNat 0)
      { p := 0, st := [], gen := 0 }).p (s.live.serFirst s.build ((seqBlk (s.live.plan plan.toNat).image
      (imgAction (s.live.plan plan.toNat).image entry.toNat)).sers.getD 0 0)) = false) ∧ ((s.live.serRead
      s.build ((seqBlk (s.live.plan plan.toNat).image (imgAction (s.live.plan plan.toNat).image
      entry.toNat)).sers.getD 0 0) (s.live.gen ((seqBlk (s.live.plan plan.toNat).image (imgAction
      (s.live.plan plan.toNat).image entry.toNat)).sers.getD 0 0)) ((s.live.sery ((seqBlk (s.live.plan
      plan.toNat).image (imgAction (s.live.plan plan.toNat).image entry.toNat)).sers.getD 0 0)).commit -
      BitVec.ofNat 32 (if (seqBlk (s.live.plan plan.toNat).image (imgAction (s.live.plan
      plan.toNat).image entry.toNat)).mode ≤ 2 ∧ (s.live.sery ((seqBlk (s.live.plan plan.toNat).image
      (imgAction (s.live.plan plan.toNat).image entry.toNat)).sers.getD 0 0)).on = false then 0 else if
      (seqBlk (s.live.plan plan.toNat).image (imgAction (s.live.plan plan.toNat).image entry.toNat)).mode
      ≤ 2 then BitVec.toNat ((s.live.sery ((seqBlk (s.live.plan plan.toNat).image (imgAction (s.live.plan
      plan.toNat).image entry.toNat)).sers.getD 0 0)).commit - (Tab.getD s.live.eng.live (liveKey
      plan.toNat entry.toNat 0) { p := 0, st := [], gen := 0 }).p) else min (seqBlk (s.live.plan
      plan.toNat).image (imgAction (s.live.plan plan.toNat).image entry.toNat)).wlen (BitVec.toNat
      ((s.live.sery ((seqBlk (s.live.plan plan.toNat).image (imgAction (s.live.plan plan.toNat).image
      entry.toNat)).sers.getD 0 0)).commit - s.live.serFirst s.build ((seqBlk (s.live.plan
      plan.toNat).image (imgAction (s.live.plan plan.toNat).image entry.toNat)).sers.getD 0 0))))) (if
      (seqBlk (s.live.plan plan.toNat).image (imgAction (s.live.plan plan.toNat).image entry.toNat)).mode
      ≤ 2 ∧ (s.live.sery ((seqBlk (s.live.plan plan.toNat).image (imgAction (s.live.plan
      plan.toNat).image entry.toNat)).sers.getD 0 0)).on = false then 0 else if (seqBlk (s.live.plan
      plan.toNat).image (imgAction (s.live.plan plan.toNat).image entry.toNat)).mode ≤ 2 then
      BitVec.toNat ((s.live.sery ((seqBlk (s.live.plan plan.toNat).image (imgAction (s.live.plan
      plan.toNat).image entry.toNat)).sers.getD 0 0)).commit - (Tab.getD s.live.eng.live (liveKey
      plan.toNat entry.toNat 0) { p := 0, st := [], gen := 0 }).p) else min (seqBlk (s.live.plan
      plan.toNat).image (imgAction (s.live.plan plan.toNat).image entry.toNat)).wlen (BitVec.toNat
      ((s.live.sery ((seqBlk (s.live.plan plan.toNat).image (imgAction (s.live.plan plan.toNat).image
      entry.toNat)).sers.getD 0 0)).commit - s.live.serFirst s.build ((seqBlk (s.live.plan
      plan.toNat).image (imgAction (s.live.plan plan.toNat).image entry.toNat)).sers.getD 0 0))))).poison
      = false) ∧ ((s.live.serRead s.build ((seqBlk (s.live.plan plan.toNat).image (imgAction (s.live.plan
      plan.toNat).image entry.toNat)).sers.getD 0 0) (s.live.gen ((seqBlk (s.live.plan plan.toNat).image
      (imgAction (s.live.plan plan.toNat).image entry.toNat)).sers.getD 0 0)) ((s.live.sery ((seqBlk
      (s.live.plan plan.toNat).image (imgAction (s.live.plan plan.toNat).image entry.toNat)).sers.getD 0
      0)).commit - BitVec.ofNat 32 (if (seqBlk (s.live.plan plan.toNat).image (imgAction (s.live.plan
      plan.toNat).image entry.toNat)).mode ≤ 2 ∧ (s.live.sery ((seqBlk (s.live.plan plan.toNat).image
      (imgAction (s.live.plan plan.toNat).image entry.toNat)).sers.getD 0 0)).on = false then 0 else if
      (seqBlk (s.live.plan plan.toNat).image (imgAction (s.live.plan plan.toNat).image entry.toNat)).mode
      ≤ 2 then BitVec.toNat ((s.live.sery ((seqBlk (s.live.plan plan.toNat).image (imgAction (s.live.plan
      plan.toNat).image entry.toNat)).sers.getD 0 0)).commit - (Tab.getD s.live.eng.live (liveKey
      plan.toNat entry.toNat 0) { p := 0, st := [], gen := 0 }).p) else min (seqBlk (s.live.plan
      plan.toNat).image (imgAction (s.live.plan plan.toNat).image entry.toNat)).wlen (BitVec.toNat
      ((s.live.sery ((seqBlk (s.live.plan plan.toNat).image (imgAction (s.live.plan plan.toNat).image
      entry.toNat)).sers.getD 0 0)).commit - s.live.serFirst s.build ((seqBlk (s.live.plan
      plan.toNat).image (imgAction (s.live.plan plan.toNat).image entry.toNat)).sers.getD 0 0))))) (if
      (seqBlk (s.live.plan plan.toNat).image (imgAction (s.live.plan plan.toNat).image entry.toNat)).mode
      ≤ 2 ∧ (s.live.sery ((seqBlk (s.live.plan plan.toNat).image (imgAction (s.live.plan
      plan.toNat).image entry.toNat)).sers.getD 0 0)).on = false then 0 else if (seqBlk (s.live.plan
      plan.toNat).image (imgAction (s.live.plan plan.toNat).image entry.toNat)).mode ≤ 2 then
      BitVec.toNat ((s.live.sery ((seqBlk (s.live.plan plan.toNat).image (imgAction (s.live.plan
      plan.toNat).image entry.toNat)).sers.getD 0 0)).commit - (Tab.getD s.live.eng.live (liveKey
      plan.toNat entry.toNat 0) { p := 0, st := [], gen := 0 }).p) else min (seqBlk (s.live.plan
      plan.toNat).image (imgAction (s.live.plan plan.toNat).image entry.toNat)).wlen (BitVec.toNat
      ((s.live.sery ((seqBlk (s.live.plan plan.toNat).image (imgAction (s.live.plan plan.toNat).image
      entry.toNat)).sers.getD 0 0)).commit - s.live.serFirst s.build ((seqBlk (s.live.plan
      plan.toNat).image (imgAction (s.live.plan plan.toNat).image entry.toNat)).sers.getD 0 0))))).stale
      = false) ∧ (s.live.sery ((seqBlk (s.live.plan plan.toNat).image (imgAction (s.live.plan
      plan.toNat).image entry.toNat)).sers.getD 0 0)).on = true) :=
  ⟨⟨w216, 9, 9, by decide +kernel⟩,
   ⟨w217, 9, 0, v44, [], by decide +kernel⟩,
   ⟨w218, 9, 0, v44, [], by decide +kernel⟩,
   ⟨w219, 9, 2, v45, [], by decide +kernel⟩,
   ⟨w220, 9, 0, v43, [], by decide +kernel⟩,
   ⟨w221, 9, 0, v44, [], 0, by decide +kernel⟩,
   ⟨w222, 9, 0, v44, [], by decide +kernel⟩,
   ⟨w223, 9, 2, v46, [], ⟨0, 9, 2, 0⟩, by decide +kernel⟩,
   ⟨w224, 9, 2, v46, [], ⟨0, 9, 1, 0⟩, by decide +kernel⟩,
   ⟨w225, 9, 1, v47, [], by decide +kernel⟩,
   ⟨w226, 9, 1, v47, [], by decide +kernel⟩,
   ⟨w227, 9, 1, v47, [], by decide +kernel⟩⟩

set_option maxRecDepth 20000 in
/-- States and operands that meet the hypotheses of `SeriesTakeSamplesAndCommitBlocks`, for each of its clauses. -/
theorem meets_SeriesTakeSamplesAndCommitBlocks :
    (∃ (s : State) (v : Word), Served s ∧ s.build.form = Form.lantern ∧ Tab.wf s.live.rf = true ∧ Tab.wf
      s.live.ser.sers = true ∧ (s.live.sery (s.live.get s.build F.SER_SEL_SERIES)).on = true ∧
      (BitVec.toNat v).testBit 0 = true) ∧
    (∃ (s : State) (v : Word), Served s ∧ s.build.form = Form.lantern ∧ Tab.wf s.live.rf = true ∧ Tab.wf
      s.live.ser.sers = true ∧ (s.live.sery (s.live.get s.build F.SER_SEL_SERIES)).on = true ∧
      (BitVec.toNat v).testBit 0 = false) ∧
    (∃ (s : State), Served s ∧ s.build.form = Form.lantern ∧ Tab.wf s.live.rf = true ∧ Tab.wf
      s.live.ser.sers = true ∧ (s.live.sery (s.live.get s.build F.SER_SEL_SERIES)).on = false) ∧
    (∃ (s : State) (k : Nat) (v : SVal) (rest : List (Nat × SVal)), s.live.awake = true ∧ s.build.form =
      Form.lantern ∧ s.live.ser.events = (k, v) :: rest ∧ Tab.wf s.live.ser.sers = true ∧ (s.live.sery
      k).on = false) ∧
    (∃ (s : State) (k : Nat) (v : SVal) (rest : List (Nat × SVal)) (w : Word), s.live.awake = true ∧
      s.build.form = Form.lantern ∧ s.live.ser.events = (k, v) :: rest ∧ Tab.wf s.live.ser.sers = true ∧
      (s.live.sery k).on = true ∧ BitVec.toNat (s.live.sery k).next % 256 ≠ 255 ∧ (s.live.sery
      k).overrunAt (BitVec.toNat (s.live.sery k).next / 256) = false ∧ v = SVal.f32 w ∧ f32Canon w ≠
      fillWord (s.live.get s.build F.SER_CFG_TYPE k)) ∧
    (∃ (s : State) (k : Nat) (v : SVal) (rest : List (Nat × SVal)) (d : Int), s.live.awake = true ∧
      s.build.form = Form.lantern ∧ s.live.ser.events = (k, v) :: rest ∧ Tab.wf s.live.ser.sers = true ∧
      (s.live.sery k).on = true ∧ BitVec.toNat (s.live.sery k).next % 256 ≠ 255 ∧ (s.live.sery
      k).overrunAt (BitVec.toNat (s.live.sery k).next / 256) = false ∧ v = SVal.int d false ∧ s.live.get
      s.build F.SER_CFG_SHIFT k = 0 ∧ s.live.get s.build F.SER_CFG_TYPE k = 0 ∧ s.live.get s.build
      F.SER_CFG_XFORM k = 0 ∧ d.natAbs < 2147483648) ∧
    (∃ (s : State) (k : Nat) (v : SVal) (rest : List (Nat × SVal)) (d : Int), s.live.awake = true ∧
      s.build.form = Form.lantern ∧ s.live.ser.events = (k, v) :: rest ∧ Tab.wf s.live.ser.sers = true ∧
      (s.live.sery k).on = true ∧ BitVec.toNat (s.live.sery k).next % 256 ≠ 255 ∧ (s.live.sery
      k).overrunAt (BitVec.toNat (s.live.sery k).next / 256) = false ∧ v = SVal.int d false ∧ s.live.get
      s.build F.SER_CFG_SHIFT k = 0 ∧ s.live.get s.build F.SER_CFG_TYPE k = 0 ∧ s.live.get s.build
      F.SER_CFG_XFORM k = 0 ∧ 2147483648 ≤ d) ∧
    (∃ (s : State) (k : Nat) (v : SVal) (rest : List (Nat × SVal)) (d : Int), s.live.awake = true ∧
      s.build.form = Form.lantern ∧ s.live.ser.events = (k, v) :: rest ∧ Tab.wf s.live.ser.sers = true ∧
      (s.live.sery k).on = true ∧ BitVec.toNat (s.live.sery k).next % 256 ≠ 255 ∧ (s.live.sery
      k).overrunAt (BitVec.toNat (s.live.sery k).next / 256) = false ∧ v = SVal.int d false ∧ s.live.get
      s.build F.SER_CFG_SHIFT k = 0 ∧ s.live.get s.build F.SER_CFG_TYPE k = 0 ∧ s.live.get s.build
      F.SER_CFG_XFORM k = 1 ∧ (s.live.sery k).prev = none) ∧
    (∃ (s : State) (k : Nat) (v : SVal) (rest : List (Nat × SVal)) (d : Int) (o : Int), s.live.awake =
      true ∧ s.build.form = Form.lantern ∧ s.live.ser.events = (k, v) :: rest ∧ Tab.wf s.live.ser.sers =
      true ∧ (s.live.sery k).on = true ∧ BitVec.toNat (s.live.sery k).next % 256 ≠ 255 ∧ (s.live.sery
      k).overrunAt (BitVec.toNat (s.live.sery k).next / 256) = false ∧ v = SVal.int d false ∧ s.live.get
      s.build F.SER_CFG_SHIFT k = 0 ∧ s.live.get s.build F.SER_CFG_TYPE k = 0 ∧ s.live.get s.build
      F.SER_CFG_XFORM k = 1 ∧ (s.live.sery k).prev = some o ∧ (d - o).natAbs < 2147483648) ∧
    (∃ (s : State) (k : Nat) (v : SVal) (rest : List (Nat × SVal)), s.live.awake = true ∧ s.build.form =
      Form.lantern ∧ s.live.ser.events = (k, v) :: rest ∧ Tab.wf s.live.ser.sers = true ∧ (s.live.sery
      k).on = true ∧ BitVec.toNat (s.live.sery k).next % 256 ≠ 255 ∧ (s.live.sery k).overrunAt
      (BitVec.toNat (s.live.sery k).next / 256) = false ∧ v = SVal.fill 1) ∧
    (∃ (s : State) (series : BitVec 16), s.live.awake = true ∧ Tab.wf s.live.ser.sers = true ∧
      (s.live.sery series.toNat).coding = []) ∧
    (∃ (s : State) (series : BitVec 16) (c : Staged) (rest : List Staged), s.live.awake = true ∧ Tab.wf
      s.live.ser.sers = true ∧ (s.live.sery series.toNat).coding = c :: rest ∧ c.samples.length = 256 ∧
      coderOk (s.live.get s.build F.SER_CFG_TYPE series.toNat) c.samples (codeBlock (s.live.get s.build
      F.SER_CFG_TYPE series.toNat) (s.live.get s.build F.SER_CFG_RATIO series.toNat) (s.live.get s.build
      F.SER_CFG_EFFORT series.toNat) (s.live.gen series.toNat) c.blockNo c.samples) = true ∧
      s.live.celSpoilt s.build (s.live.stageAddr s.build series.toNat c.blockNo) 1024 = false) ∧
    (∃ (s : State) (series : BitVec 16), s.live.awake = true ∧ Tab.wf s.live.ser.sers = true ∧
      (s.live.sery series.toNat).writing = []) ∧
    (∃ (s : State) (series : BitVec 16) (w : Writing) (rest : List Writing), s.live.awake = true ∧ Tab.wf
      s.live.ser.sers = true ∧ (s.live.sery series.toNat).writing = w :: rest ∧ (w.sent = false ∨
      s.live.celDead s.build (s.live.serAddr s.build series.toNat w.no) = true)) ∧
    (∃ (s : State) (series : BitVec 16) (w : Writing) (rest : List Writing), s.live.awake = true ∧ Tab.wf
      s.live.ser.sers = true ∧ (s.live.sery series.toNat).writing = w :: rest ∧ w.sent = true ∧
      s.live.celDead s.build (s.live.serAddr s.build series.toNat w.no) = false) :=
  ⟨⟨w228, 1, by decide +kernel⟩,
   ⟨w228, 0, by decide +kernel⟩,
   ⟨w135, by decide +kernel⟩,
   ⟨w229, 0, .int (-5) false, [], by decide +kernel⟩,
   ⟨w230, 0, .f32 0x3f800000, [], 0x3f800000, by decide +kernel⟩,
   ⟨w231, 0, .int (-5) false, [], -5, by decide +kernel⟩,
   ⟨w232, 0, .int 1099511627776 false, [], 1099511627776, by decide +kernel⟩,
   ⟨w233, 0, .int (-5) false, [], -5, by decide +kernel⟩,
   ⟨w234, 0, .int (-5) false, [], -5, 77, by decide +kernel⟩,
   ⟨w235, 0, .fill 1, [], by decide +kernel⟩,
   ⟨w135, 0, by decide +kernel⟩,
   ⟨w236, 0, ⟨3, List.replicate 256 9⟩, [⟨4, []⟩], by decide +kernel⟩,
   ⟨w135, 0, by decide +kernel⟩,
   ⟨w237, 0, ⟨2, ⟨[5, 6], false⟩, false⟩, [], by decide +kernel⟩,
   ⟨w236, 0, ⟨2, ⟨[5, 6], false⟩, true⟩, [], by decide +kernel⟩⟩

set_option maxRecDepth 20000 in
/-- States and operands that meet the hypotheses of `EgressSelectsByClassAndTag`, for each of its clauses. -/
theorem meets_EgressSelectsByClassAndTag :
    (∃ (s : State), s.live.awake = true ∧ s.build.form = Form.buoy ∧ Tab.wf s.live.rf = true ∧ Tab.wf
      s.live.ques = true ∧ s.live.heads = []) ∧
    (∃ (s : State) (h : Nat × Nat × Nat), s.live.awake = true ∧ s.build.form = Form.buoy ∧ Tab.wf
      s.live.rf = true ∧ Tab.wf s.live.ques = true ∧ s.live.heads = [h] ∧ (s.live.refill
      s.build).admitted s.build h.snd.snd = false) ∧
    (∃ (s : State), s.live.awake = true ∧ s.build.form = Form.buoy ∧ Tab.wf s.live.rf = true ∧ Tab.wf
      s.live.ques = true ∧ s.live.heads ≠ [] ∧ (∀ (h : Nat × Nat × Nat), h ∈ s.live.heads →
      (s.live.refill s.build).admitted s.build h.snd.snd = true) ∧ s.live.mayStart s.build = false) ∧
    (∃ (s : State) (q : Nat) (tag : Nat) (c : Nat) (r : QRec), s.live.awake = true ∧ s.build.form =
      Form.buoy ∧ Tab.wf s.live.rf = true ∧ Tab.wf s.live.ques = true ∧ s.live.heads ≠ [] ∧ (∀ (h : Nat ×
      Nat × Nat), h ∈ s.live.heads → (s.live.refill s.build).admitted s.build h.snd.snd = true) ∧
      s.live.mayStart s.build = true ∧ (q, tag, c) ∈ s.live.heads ∧ (∀ (h : Nat × Nat × Nat), h ∈
      s.live.heads → (c ≠ 0 → h.snd.snd ≠ 0) ∧ (h ≠ (q, tag, c) → (c = 0 → h.snd.snd = 0) → tag <
      h.snd.fst ∨ tag = h.snd.fst ∧ q < h.fst)) ∧ (s.live.que q).headRec = some r ∧ r.bad = none ∧ (∀ (e
      : Nat), e ∈ s.live.entriesOf s.build q → (s.live.qrun e).mark = false) ∧ (s.live.que q).marks = [])
      ∧
    (∃ (s : State) (t : Word), s.live.awake = true ∧ s.build.form = Form.buoy ∧ s.live.shape.sampleAt =
      some t ∧ Tab.wf s.live.rf = true ∧ Tab.wf s.live.ques = true ∧ reached s.live.ft t = false) ∧
    (∃ (s : State) (t : Word), s.live.awake = true ∧ s.build.form = Form.buoy ∧ s.live.shape.sampleAt =
      some t ∧ Tab.wf s.live.rf = true ∧ Tab.wf s.live.ques = true ∧ reached s.live.ft t = true) :=
  ⟨⟨w238, by decide +kernel⟩,
   ⟨w239, (1, 50, 0), by decide +kernel⟩,
   ⟨w240, by decide +kernel⟩,
   ⟨w241, 1, 50, 0, ⟨rec3, 0xa, false, 0, none⟩, by decide +kernel⟩,
   ⟨w242, 0x1388, by decide +kernel⟩,
   ⟨w243, 0x3de, by decide +kernel⟩⟩

set_option maxRecDepth 20000 in
/-- States and operands that meet the hypotheses of `QueuesTakeHoldAndRelease`, for each of its clauses. -/
theorem meets_QueuesTakeHoldAndRelease :
    (∃ (s : State) (q : Nat) (r : Rec) (rest : List (Nat × Rec)) (k : Nat), s.live.awake = true ∧
      s.build.form = Form.buoy ∧ s.live.created = (q, r) :: rest ∧ s.live.trace.dumps = [] ∧ (∀ (e :
      Nat), s.live.mapEntry s.build r.stream.toNat = some e → (s.live.qrun e).count = 0) ∧ Tab.wf
      s.live.ques = true ∧ Tab.wf s.live.rf = true ∧ k ≠ q ∧ (∀ (e : Nat × Rec), e ∈ s.live.created →
      e.fst ≠ k) ∧ trStream s.live.trace.arm = false) ∧
    (∃ (s : State) (q : Nat) (r : Rec) (rest : List (Nat × Rec)) (m : Nat × Nat × Nat), s.live.awake =
      true ∧ s.build.form = Form.buoy ∧ s.live.created = (q, r) :: rest ∧ s.live.trace.dumps = [] ∧ (∀ (e
      : Nat), s.live.mapEntry s.build r.stream.toNat = some e → (s.live.qrun e).count = 0) ∧ Tab.wf
      s.live.ques = true ∧ Tab.wf s.live.rf = true ∧ s.live.fits s.build q r.len false = some m ∧ m.fst =
      m.snd.fst ∧ (s.live.que q).recs = [] ∧ (s.live.que q).marks = [] ∧ (s.live.que q).midHi = 0 ∧
      (s.live.que q).midLo = 0 ∧ s.live.fits s.build q r.len true = some m) ∧
    (∃ (s : State) (q : Nat) (r : Rec) (rest : List (Nat × Rec)), s.live.awake = true ∧ s.build.form =
      Form.buoy ∧ s.live.created = (q, r) :: rest ∧ s.live.trace.dumps = [] ∧ (∀ (e : Nat),
      s.live.mapEntry s.build r.stream.toNat = some e → (s.live.qrun e).count = 0) ∧ Tab.wf s.live.ques =
      true ∧ Tab.wf s.live.rf = true ∧ s.live.fits s.build q r.len false = none ∧ s.live.flag s.build
      F.QUE_CFG_NOTICE q = false ∧ s.live.flag s.build F.QUE_CFG_MODE q = false ∧ r.ty ≠ 2 ∧ r.ty ≠ 3) ∧
    (∃ (s : State) (q : Nat) (r : Rec) (rest : List (Nat × Rec)), s.live.awake = true ∧ s.build.form =
      Form.buoy ∧ s.live.created = (q, r) :: rest ∧ s.live.trace.dumps = [] ∧ (∀ (e : Nat),
      s.live.mapEntry s.build r.stream.toNat = some e → (s.live.qrun e).count = 0) ∧ Tab.wf s.live.ques =
      true ∧ Tab.wf s.live.rf = true ∧ s.live.fits s.build q r.len false = none ∧ s.live.flag s.build
      F.QUE_CFG_NOTICE q = false ∧ s.live.flag s.build F.QUE_CFG_MODE q = false ∧ r.ty = 2) ∧
    (∃ (s : State) (q : Nat) (r : Rec) (rest : List (Nat × Rec)), s.live.awake = true ∧ s.build.form =
      Form.lantern ∧ 1024 ≤ q ∧ s.live.created = (q, r) :: rest ∧ s.live.waysOf s.build r = [] ∧ r.ty ≠
      10 ∧ s.live.trace.dumps = [] ∧ Tab.wf s.live.rf = true ∧ Tab.wf s.live.runs = true) ∧
    (∃ (s : State) (q : BitVec 12), s.live.awake = true ∧ Tab.wf s.live.ques = true ∧ (∀ (r : QRec), r ∈
      (s.live.que q.toNat).recs → r.held = false)) ∧
    (∃ (s : State) (q : BitVec 12), s.live.awake = true ∧ Tab.wf s.live.ques = true ∧ (∃ r, r ∈
      (s.live.que q.toNat).recs ∧ r.held = true) ∧ (s.live.que q.toNat).marks = []) ∧
    (∃ (s : State) (base : Word) (len : Word), Served s ∧ Tab.wf s.live.rf = true ∧ (s.live.que
      (s.live.shownQueue s.build)).recs = [] ∧ s.live.get s.build F.QUE_MIDLEN_MID_PAGES
      (s.live.shownQueue s.build) = 0 ∧ s.build.ownQueue (s.live.shownQueue s.build) = true ∧
      (s.build.form = Form.buoy → s.build.spillEn = true) ∧ (BitVec.toNat len % 2 ^ 24 = 0 ∨
      (s.live.midArea s.build).fst ≤ (midRegion s.build (BitVec.toNat base) (BitVec.toNat len % 2 ^
      24)).fst ∧ (midRegion s.build (BitVec.toNat base) (BitVec.toNat len % 2 ^ 24)).snd ≤
      (s.live.midArea s.build).snd ∧ s.live.midClash s.build (s.live.shownQueue s.build) (midRegion
      s.build (BitVec.toNat base) (BitVec.toNat len % 2 ^ 24)) = false)) ∧
    (∃ (s : State), Served s ∧ Tab.wf s.live.rf = true ∧ (s.live.que (s.live.shownQueue s.build)).recs =
      [] ∧ s.live.get s.build F.QUE_MIDLEN_MID_PAGES (s.live.shownQueue s.build) = 0 ∧ (s.build.ownQueue
      (s.live.shownQueue s.build) = false ∨ s.build.form = Form.buoy ∧ s.build.spillEn = false)) ∧
    (∃ (s : State) (v : Word), Served s ∧ (s.live.get s.build F.QMAP_SEL_ENTRY < if s.build.buoy = true
      then 128 else 2048) ∧ Tab.wf s.live.rf = true ∧ (s.live.planStream s.build (s.live.get s.build
      F.QMAP_STREAM (s.live.get s.build F.QMAP_SEL_ENTRY)) = true ∨ s.live.planStream s.build
      (BitVec.toNat v % 2 ^ 14) = true)) ∧
    (∃ (s : State) (v : Word), Served s ∧ (s.live.get s.build F.QMAP_SEL_ENTRY < if s.build.buoy = true
      then 128 else 2048) ∧ Tab.wf s.live.rf = true ∧ s.live.planStream s.build (s.live.get s.build
      F.QMAP_STREAM (s.live.get s.build F.QMAP_SEL_ENTRY)) = false ∧ s.live.planStream s.build
      (BitVec.toNat v % 2 ^ 14) = false ∧ s.build.ownQueue (BitVec.toNat v / 2 ^ 14 % 2 ^ 12) = true ∧
      s.live.mapEntry s.build (BitVec.toNat v % 2 ^ 14) = none) ∧
    (∃ (s : State) (v : Word), Served s ∧ (s.live.get s.build F.QMAP_SEL_ENTRY < if s.build.buoy = true
      then 128 else 2048) ∧ Tab.wf s.live.rf = true ∧ (BitVec.toNat v).testBit 26 = true ∧
      s.build.ownQueue (BitVec.toNat v / 2 ^ 14 % 2 ^ 12) = false) ∧
    (∃ (s : State) (q : BitVec 12), s.live.awake = true ∧ s.build.form = Form.buoy ∧ Tab.wf s.live.ques =
      true ∧ (s.live.que q.toNat).midHi ≤ (s.live.que q.toNat).midLo) ∧
    (∃ (s : State) (q : BitVec 12) (bad : BitVec 16), s.live.awake = true ∧ s.build.form = Form.buoy ∧
      Tab.wf s.live.ques = true ∧ (s.live.que q.toNat).midLo < (s.live.que q.toNat).midHi ∧ (s.live.que
      q.toNat).midLo < (s.live.que q.toNat).front + 8 ∧ s.live.spillShut s.build = false ∧
      s.live.spillFail = false ∧ (s.live.que q.toNat).marks = [] ∧ bad = 0) ∧
    (∃ (s : State) (q : BitVec 12) (bad : BitVec 16), s.live.awake = true ∧ s.build.form = Form.buoy ∧
      Tab.wf s.live.ques = true ∧ (s.live.que q.toNat).midLo < (s.live.que q.toNat).midHi ∧ (s.live.que
      q.toNat).midLo < (s.live.que q.toNat).front + 8 ∧ s.live.spillShut s.build = false ∧
      s.live.spillFail = false ∧ (s.live.que q.toNat).marks = [] ∧ bad.toNat.testBit 0 = false ∧ (∀ (r :
      QRec), r ∈ (s.live.que q.toNat).recs → hitBy bad.toNat (s.live.que q.toNat).midLo r.pos (r.pos +
      16) = false)) ∧
    (∃ (s : State) (m : BitVec 4), s.live.awake = true ∧ s.build.form = Form.lantern ∧
      s.live.celPorts.contains m.toNat = true ∧ m.toNat ∈ s.live.celFail) ∧
    (∃ (s : State) (m : BitVec 4), s.live.awake = true ∧ s.build.form = Form.lantern ∧
      s.live.celPorts.contains m.toNat = true ∧ (¬m.toNat ∈ s.live.celFail)) ∧
    (∃ (s : State), s.live.awake = true ∧ s.build.form = Form.buoy ∧ s.build.spillEn = true ∧
      s.live.spillFail = true) ∧
    (∃ (s : State), s.live.awake = true ∧ s.build.form = Form.buoy ∧ s.build.spillEn = true ∧
      s.live.spillFail = false) :=
  ⟨⟨w244, 5, rec5, [(6, rec4)], 1, by decide +kernel⟩,
   ⟨w244, 5, rec5, [(6, rec4)], (0, 0, 1), by decide +kernel⟩,
   ⟨w245, 5, rec6, [(6, rec7)], by decide +kernel⟩,
   ⟨w246, 5, rec9, [(6, rec7)], by decide +kernel⟩,
   ⟨w247, 1030, rec10, [], by decide +kernel⟩,
   ⟨w247, 6, by decide +kernel⟩,
   ⟨w248, 5, by decide +kernel⟩,
   ⟨w249, 0x3de, 0x3de, by decide +kernel⟩,
   ⟨w250, by decide +kernel⟩,
   ⟨on lantern fun l => { l with plans := [(0, { plan0 with state := .running })] }, 0x3000,
    by decide +kernel⟩,
   ⟨w251, 0x4014077, by decide +kernel⟩,
   ⟨w247, 0x4014077, by decide +kernel⟩,
   ⟨w250, 7, by decide +kernel⟩,
   ⟨w252, 5, 0, by decide +kernel⟩,
   ⟨w252, 5, 0, by decide +kernel⟩,
   ⟨w247, 1, by decide +kernel⟩,
   ⟨w247, 0, by decide +kernel⟩,
   ⟨w251, by decide +kernel⟩,
   ⟨w249, by decide +kernel⟩⟩

set_option maxRecDepth 20000 in
/-- States and operands that meet the hypotheses of `LinksComeUpCarryUnitsAndFail`, for each of its clauses. -/
theorem meets_LinksComeUpCarryUnitsAndFail :
    (∃ (s : State) (n : BitVec 5) (v : Word), Served s ∧ s.build.form = Form.lantern ∧ Tab.wf s.live.rf =
      true ∧ Tab.wf s.live.links = true ∧ s.live.role s.build n.toNat = BitVec.toNat v % 4 ∧ s.live.get
      s.build F.LNK_ROLE_ONE_LANE n.toNat = BitVec.toNat v / 4 % 2 ∧ s.live.get s.build F.LNK_ROLE_DIR
      n.toNat = BitVec.toNat v / 8 % 8) ∧
    (∃ (s : State) (n : BitVec 5) (v : Word), Served s ∧ s.build.form = Form.lantern ∧ Tab.wf s.live.rf =
      true ∧ Tab.wf s.live.links = true ∧ s.live.role s.build n.toNat ≠ BitVec.toNat v % 4 ∧
      s.live.linkNamed n.toNat = true) ∧
    (∃ (s : State) (n : BitVec 5) (v : Word), Served s ∧ s.build.form = Form.lantern ∧ Tab.wf s.live.rf =
      true ∧ Tab.wf s.live.links = true ∧ s.live.role s.build n.toNat ≠ BitVec.toNat v % 4 ∧
      s.live.linkNamed n.toNat = false) ∧
    (∃ (s : State) (n : BitVec 5), s.live.awake = true ∧ s.build.form = Form.lantern ∧ Tab.wf
      s.live.links = true ∧ Tab.wf s.live.rf = true ∧ (s.live.role s.build n.toNat = 0 ∨ s.live.flag
      s.build F.UNIT_EN_LNK_LNK 0 n.toNat = false)) ∧
    (∃ (s : State) (n : BitVec 5), s.live.awake = true ∧ s.build.form = Form.lantern ∧ Tab.wf
      s.live.links = true ∧ Tab.wf s.live.rf = true ∧ (s.live.link n.toNat).st = LState.down ∧
      s.live.role s.build n.toNat ≠ 0 ∧ s.live.flag s.build F.UNIT_EN_LNK_LNK 0 n.toNat = true ∧
      s.live.badDir s.build n.toNat = false) ∧
    (∃ (s : State) (n : BitVec 5), s.live.awake = true ∧ s.build.form = Form.lantern ∧ Tab.wf
      s.live.links = true ∧ Tab.wf s.live.rf = true ∧ (s.live.link n.toNat).st = LState.down ∧
      s.live.role s.build n.toNat ≠ 0 ∧ s.live.flag s.build F.UNIT_EN_LNK_LNK 0 n.toNat = true ∧
      s.live.badDir s.build n.toNat = true) ∧
    (∃ (s : State) (n : BitVec 5), s.live.awake = true ∧ s.build.form = Form.lantern ∧ Tab.wf
      s.live.links = true ∧ Tab.wf s.live.rf = true ∧ (s.live.link n.toNat).st = LState.training) ∧
    (∃ (s : State) (n : BitVec 5), s.live.awake = true ∧ s.build.form = Form.lantern ∧ Tab.wf
      s.live.links = true ∧ Tab.wf s.live.rf = true ∧ (s.live.link n.toNat).st ≠ LState.training) ∧
    (∃ (s : State) (n : BitVec 5), s.live.awake = true ∧ s.build.form = Form.lantern ∧ Tab.wf
      s.live.links = true ∧ Tab.wf s.live.rf = true ∧ (s.live.link n.toNat).st = LState.init) ∧
    (∃ (s : State) (n : BitVec 5), s.live.awake = true ∧ s.build.form = Form.lantern ∧ Tab.wf
      s.live.links = true ∧ Tab.wf s.live.rf = true ∧ (s.live.link n.toNat).st ≠ LState.init) ∧
    (∃ (s : State) (n : BitVec 5) (u : TxUnit) (r : Rec), s.live.awake = true ∧ s.build.form =
      Form.lantern ∧ Tab.wf s.live.links = true ∧ Tab.wf s.live.rf = true ∧ (s.live.link n.toNat).st =
      LState.up ∧ (s.live.link n.toNat).unacked = [u] ∧ (s.live.link n.toNat).ctl = [] ∧ (s.live.link
      n.toNat).loads = [] ∧ tailClass u.tail = 2 ∧ u.r = some r ∧ isCmd r = false ∧ r.ty ≠ 10 ∧ u.src <
      32 ∧ s.live.ques = []) ∧
    (∃ (s : State) (n : BitVec 5), s.live.awake = true ∧ s.build.form = Form.lantern ∧ Tab.wf
      s.live.links = true ∧ Tab.wf s.live.rf = true ∧ (s.live.link n.toNat).st = LState.up ∧ (s.live.link
      n.toNat).unacked = []) ∧
    (∃ (s : State) (n : BitVec 5), s.live.awake = true ∧ s.build.form = Form.lantern ∧ Tab.wf
      s.live.links = true ∧ Tab.wf s.live.rf = true ∧ (s.live.link n.toNat).st = LState.up ∧ (s.live.link
      n.toNat).unacked ≠ [] ∧ (s.live.link n.toNat).replays < 16) ∧
    (∃ (s : State) (n : BitVec 5), s.live.awake = true ∧ s.build.form = Form.lantern ∧ Tab.wf
      s.live.links = true ∧ Tab.wf s.live.rf = true ∧ (s.live.link n.toNat).st = LState.up ∧ (s.live.link
      n.toNat).unacked ≠ [] ∧ 16 ≤ (s.live.link n.toNat).replays) ∧
    (∃ (s : State) (n : BitVec 5), s.live.awake = true ∧ s.build.form = Form.lantern ∧ Tab.wf
      s.live.links = true ∧ Tab.wf s.live.rf = true ∧ (∀ (i : LinkItem), i ∈ (s.live.link n.toNat).pln →
      s.live.planLate n.toNat i = false)) ∧
    (∃ (s : State) (n : BitVec 5) (i : LinkItem) (rest : List LinkItem), s.live.awake = true ∧
      s.build.form = Form.lantern ∧ Tab.wf s.live.links = true ∧ Tab.wf s.live.rf = true ∧ (s.live.link
      n.toNat).pln = i :: rest ∧ s.live.planLate n.toNat i = true ∧ s.live.flt.rpl.st = RplSt.off) ∧
    (∃ (s : State) (n : BitVec 5) (i : LinkItem) (rest : List LinkItem) (r : Rec), s.live.awake = true ∧
      s.build.form = Form.lantern ∧ Tab.wf s.live.links = true ∧ Tab.wf s.live.rf = true ∧ (s.live.link
      n.toNat).ctl = i :: rest ∧ i.r = some r ∧ r.ty ≠ 10 ∧ s.live.ageMax s.build < BitVec.toNat
      (s.live.ft - i.stamp)) ∧
    (∃ (s : State), Tab.wf s.live.routes = true) ∧
    (∃ (s : State) (n : BitVec 5) (u : RxUnit), s.live.awake = true ∧ s.build.form = Form.lantern ∧
      Tab.wf s.live.links = true ∧ Tab.wf s.live.rf = true ∧ Tab.wf s.live.ques = true ∧ ((s.live.link
      n.toNat).st = LState.init ∨ (s.live.link n.toNat).st = LState.up) ∧ (s.live.link n.toNat).resync =
      false ∧ isStatus u.body = true ∧ u.cut = false ∧ goodUnit u = false) ∧
    (∃ (s : State) (n : BitVec 5) (u : RxUnit), s.live.awake = true ∧ s.build.form = Form.lantern ∧
      Tab.wf s.live.links = true ∧ Tab.wf s.live.rf = true ∧ Tab.wf s.live.ques = true ∧ ((s.live.link
      n.toNat).st = LState.init ∨ (s.live.link n.toNat).st = LState.up) ∧ (s.live.link n.toNat).resync =
      false ∧ isStatus u.body = true ∧ u.cut = false ∧ goodUnit u = true ∧ u.body.length = 3 ∧ (tailSq
      u.tail = true ∨ tailClass u.tail = 3 ∨ tailClass u.tail = 1 ∧ s.live.role s.build n.toNat = 2)) ∧
    (∃ (s : State) (n : BitVec 5) (u : RxUnit), s.live.awake = true ∧ s.build.form = Form.lantern ∧
      Tab.wf s.live.links = true ∧ Tab.wf s.live.rf = true ∧ Tab.wf s.live.ques = true ∧ ((s.live.link
      n.toNat).st = LState.init ∨ (s.live.link n.toNat).st = LState.up) ∧ (s.live.link n.toNat).resync =
      false ∧ isStatus u.body = true ∧ u.cut = false ∧ goodUnit u = true ∧ u.body.length = 3 ∧ tailSq
      u.tail = false ∧ tailClass u.tail ≠ 3 ∧ (tailClass u.tail = 1 → s.live.role s.build n.toNat ≠ 2) ∧
      (s.live.link waitLink).ctl = [] ∧ n.toNat ≠ waitLink ∧ fld (wordAt u.body 0) 16 1 = 0) ∧
    (∃ (s : State) (n : BitVec 5) (u : RxUnit), s.live.awake = true ∧ s.build.form = Form.lantern ∧
      Tab.wf s.live.links = true ∧ Tab.wf s.live.rf = true ∧ Tab.wf s.live.ques = true ∧ ((s.live.link
      n.toNat).st = LState.init ∨ (s.live.link n.toNat).st = LState.up) ∧ (s.live.link n.toNat).resync =
      false ∧ isStatus u.body = true ∧ u.cut = false ∧ goodUnit u = true ∧ u.body.length = 3 ∧ tailSq
      u.tail = false ∧ tailClass u.tail ≠ 3 ∧ (tailClass u.tail = 1 → s.live.role s.build n.toNat ≠ 2) ∧
      (s.live.link waitLink).ctl = [] ∧ n.toNat ≠ waitLink ∧ fld (wordAt u.body 0) 16 1 = 1 ∧
      (s.live.link n.toNat).replays < 16 ∧ (∀ (t : TxUnit), t ∈ (s.live.link n.toNat).unacked → covers
      (fld (wordAt u.body 0) 17 10) t.fseq = false)) ∧
    (∃ (s : State) (n : BitVec 5) (u : RxUnit), s.live.awake = true ∧ s.build.form = Form.lantern ∧
      Tab.wf s.live.links = true ∧ Tab.wf s.live.rf = true ∧ Tab.wf s.live.ques = true ∧ ((s.live.link
      n.toNat).st = LState.init ∨ (s.live.link n.toNat).st = LState.up) ∧ (s.live.link n.toNat).resync =
      false ∧ isStatus u.body = false ∧ s.live.badUnit s.build n.toNat u = true) ∧
    (∃ (s : State) (n : BitVec 5) (u : RxUnit), s.live.awake = true ∧ s.build.form = Form.lantern ∧
      Tab.wf s.live.links = true ∧ Tab.wf s.live.rf = true ∧ Tab.wf s.live.ques = true ∧ ((s.live.link
      n.toNat).st = LState.init ∨ (s.live.link n.toNat).st = LState.up) ∧ (s.live.link n.toNat).resync =
      false ∧ isStatus u.body = false ∧ s.live.badUnit s.build n.toNat u = false ∧ goodUnit u = false) ∧
    (∃ (s : State) (n : BitVec 5) (u : RxUnit), s.live.awake = true ∧ s.build.form = Form.lantern ∧
      Tab.wf s.live.links = true ∧ Tab.wf s.live.rf = true ∧ Tab.wf s.live.ques = true ∧ ((s.live.link
      n.toNat).st = LState.init ∨ (s.live.link n.toNat).st = LState.up) ∧ (s.live.link n.toNat).resync =
      false ∧ isStatus u.body = false ∧ s.live.badUnit s.build n.toNat u = false ∧ goodUnit u = true ∧
      (s.live.link n.toNat).rxExp < 1024 ∧ ((s.live.link n.toNat).rxExp + 1024 - tailFseq u.tail) % 1024
      ≠ 0 ∧ ((s.live.link n.toNat).rxExp + 1024 - tailFseq u.tail) % 1024 ≤ 512) ∧
    (∃ (s : State) (n : BitVec 5) (u : RxUnit), s.live.awake = true ∧ s.build.form = Form.lantern ∧
      Tab.wf s.live.links = true ∧ Tab.wf s.live.rf = true ∧ Tab.wf s.live.ques = true ∧ ((s.live.link
      n.toNat).st = LState.init ∨ (s.live.link n.toNat).st = LState.up) ∧ (s.live.link n.toNat).resync =
      false ∧ isStatus u.body = false ∧ s.live.badUnit s.build n.toNat u = false ∧ goodUnit u = true ∧
      (s.live.link n.toNat).rxExp < 1024 ∧ 512 < ((s.live.link n.toNat).rxExp + 1024 - tailFseq u.tail) %
      1024) ∧
    (∃ (s : State) (n : BitVec 5) (u : RxUnit) (r : Rec) (c : Nat) (m : Nat × Nat × Nat), s.live.awake =
      true ∧ s.build.form = Form.lantern ∧ Tab.wf s.live.links = true ∧ Tab.wf s.live.rf = true ∧ Tab.wf
      s.live.ques = true ∧ ((s.live.link n.toNat).st = LState.init ∨ (s.live.link n.toNat).st =
      LState.up) ∧ (s.live.link n.toNat).resync = false ∧ isStatus u.body = false ∧ s.live.badUnit
      s.build n.toNat u = false ∧ goodUnit u = true ∧ (s.live.link n.toNat).rxExp < 1024 ∧ tailFseq
      u.tail = (s.live.link n.toNat).rxExp ∧ recOfWords u.body = some r ∧ tailClass u.tail = 2 ∧
      s.live.role s.build n.toNat = 1 ∧ s.live.consumed s.build r = false ∧ s.live.waysOf s.build r = [c]
      ∧ s.live.isUp c = true ∧ s.live.created = [] ∧ s.live.fits s.build (32 * n.toNat + c) r.len (decide
      (r.ty = 10)) = some m ∧ (s.live.que (32 * n.toNat + c)).marks = []) ∧
    (∃ (s : State) (n : BitVec 5) (u : TxUnit), s.live.awake = true ∧ s.build.form = Form.lantern ∧
      (s.live.link n.toNat).st = LState.up ∧ Tab.wf s.live.links = true ∧ Tab.wf s.live.ques = true ∧ 0 <
      (s.live.link n.toNat).replay ∧ (s.live.link n.toNat).unacked[(s.live.link n.toNat).unacked.length -
      (s.live.link n.toNat).replay]? = some u ∧ u.bad = none ∧ (∀ (w : TxUnit), w ∈ (s.live.link
      n.toNat).unacked → w.fseq = u.fseq → w = u)) ∧
    (∃ (s : State) (n : BitVec 5), s.live.awake = true ∧ s.build.form = Form.lantern ∧ (s.live.link
      n.toNat).st = LState.up ∧ Tab.wf s.live.links = true ∧ Tab.wf s.live.ques = true ∧ (s.live.link
      n.toNat).replay = 0 ∧ s.live.statusGo n.toNat = true) ∧
    (∃ (s : State) (n : BitVec 5), s.live.awake = true ∧ s.build.form = Form.lantern ∧ (s.live.link
      n.toNat).st = LState.up ∧ Tab.wf s.live.links = true ∧ Tab.wf s.live.ques = true ∧ (s.live.link
      n.toNat).replay = 0 ∧ s.live.statusGo n.toNat = false ∧ (s.live.link n.toNat).pln = [] ∧
      s.live.ques = [] ∧ (s.live.link n.toNat).unacked.length < 511 ∧ (s.live.link n.toNat).ctl = []) ∧
    (∃ (s : State) (n : BitVec 5) (i : LinkItem) (rest : List LinkItem), s.live.awake = true ∧
      s.build.form = Form.lantern ∧ (s.live.link n.toNat).st = LState.up ∧ Tab.wf s.live.links = true ∧
      Tab.wf s.live.ques = true ∧ (s.live.link n.toNat).replay = 0 ∧ s.live.statusGo n.toNat = false ∧
      (s.live.link n.toNat).pln = [] ∧ s.live.ques = [] ∧ (s.live.link n.toNat).unacked.length < 511 ∧
      (s.live.link n.toNat).ctl = i :: rest ∧ s.live.itemHeld n.toNat i = false ∧ ((s.live.link
      n.toNat).room (flitsOf i.body.length) = false ∨ s.live.mayRun s.build n.toNat (flitsOf
      i.body.length) = false ∨ creditFor (s.live.link n.toNat).peerCtl (s.live.link n.toNat).sentCtl
      (flitsOf i.body.length) = false)) ∧
    (∃ (s : State) (n : BitVec 5) (i : LinkItem) (rest : List LinkItem) (r : Rec), s.live.awake = true ∧
      s.build.form = Form.lantern ∧ (s.live.link n.toNat).st = LState.up ∧ Tab.wf s.live.links = true ∧
      Tab.wf s.live.ques = true ∧ (s.live.link n.toNat).replay = 0 ∧ s.live.statusGo n.toNat = false ∧
      (s.live.link n.toNat).pln = [] ∧ s.live.ques = [] ∧ (s.live.link n.toNat).unacked.length < 511 ∧
      (s.live.link n.toNat).ctl = i :: rest ∧ s.live.itemHeld n.toNat i = false ∧ i.r = some r ∧ i.bad =
      none ∧ r.ty ≠ 14 ∧ (s.live.link n.toNat).room (flitsOf i.body.length) = true ∧ s.live.mayRun
      s.build n.toNat (flitsOf i.body.length) = true ∧ creditFor (s.live.link n.toNat).peerCtl
      (s.live.link n.toNat).sentCtl (flitsOf i.body.length) = true) ∧
    (∃ (s : State) (n : BitVec 5) (i : Nat) (q : Nat) (h : QRec), s.live.awake = true ∧ s.build.form =
      Form.lantern ∧ (s.live.link n.toNat).st = LState.up ∧ Tab.wf s.live.links = true ∧ Tab.wf
      s.live.ques = true ∧ (s.live.link n.toNat).replay = 0 ∧ s.live.statusGo n.toNat = false ∧
      (s.live.link n.toNat).pln = [] ∧ (s.live.link n.toNat).ctl = [] ∧ List.map (fun x => x.fst)
      s.live.ques = [q] ∧ q % 32 = n.toNat ∧ q < 1024 ∧ i = q / 32 ∧ i ≠ n.toNat ∧ (s.live.que q).headRec
      = some h ∧ h.bad = none ∧ (s.live.que q).marks = [] ∧ s.live.onHold h.r n.toNat = false ∧
      s.live.created = [] ∧ (s.live.link n.toNat).room (flitsOf h.r.words.length) = true ∧ s.live.mayRun
      s.build n.toNat (flitsOf h.r.words.length) = true ∧ creditFor (s.live.link n.toNat).peerFwd
      (s.live.link n.toNat).sentFwd (flitsOf h.r.words.length) = true) ∧
    (∃ (s : State) (n : BitVec 5) (i : Nat) (q : Nat) (h : QRec), s.live.awake = true ∧ s.build.form =
      Form.lantern ∧ (s.live.link n.toNat).st = LState.up ∧ Tab.wf s.live.links = true ∧ Tab.wf
      s.live.ques = true ∧ (s.live.link n.toNat).replay = 0 ∧ s.live.statusGo n.toNat = false ∧
      (s.live.link n.toNat).pln = [] ∧ (s.live.link n.toNat).ctl = [] ∧ List.map (fun x => x.fst)
      s.live.ques = [q] ∧ q % 32 = n.toNat ∧ q < 1024 ∧ i = q / 32 ∧ i ≠ n.toNat ∧ (s.live.que q).headRec
      = some h ∧ h.bad = none ∧ (s.live.que q).marks = [] ∧ s.live.onHold h.r n.toNat = false ∧
      s.live.created = [] ∧ creditFor (s.live.link n.toNat).peerFwd (s.live.link n.toNat).sentFwd
      (flitsOf h.r.words.length) = false) :=
  ⟨⟨w253, 2, 0, by decide +kernel⟩,
   ⟨w254, 2, 1, by decide +kernel⟩,
   ⟨w253, 2, 1, by decide +kernel⟩,
   ⟨w255, 2, by decide +kernel⟩,
   ⟨w256, 2, by decide +kernel⟩,
   ⟨w257, 2, by decide +kernel⟩,
   ⟨w258, 2, by decide +kernel⟩,
   ⟨w255, 2, by decide +kernel⟩,
   ⟨w259, 2, by decide +kernel⟩,
   ⟨w255, 2, by decide +kernel⟩,
   ⟨w260, 2, v48, rec4, by decide +kernel⟩,
   ⟨w261, 2, by decide +kernel⟩,
   ⟨w260, 2, by decide +kernel⟩,
   ⟨w262, 2, by decide +kernel⟩,
   ⟨w255, 2, by decide +kernel⟩,
   ⟨w263, 2, v49, [], by decide +kernel⟩,
   ⟨w264, 2, v50, v51, rec11, by decide +kernel⟩,
   ⟨buoy, by decide +kernel⟩,
   ⟨w265, 2, ⟨[0xa0100, 0x7d0012c, 0], 0, false⟩, by decide +kernel⟩,
   ⟨w265, 2, ⟨[0xa0100, 0x7d0012c, 0], 0x3e8e329000000400, false⟩, by decide +kernel⟩,
   ⟨w265, 2, ⟨[0xa0100, 0x7d0012c, 0], 0xa050968a00000000, false⟩, by decide +kernel⟩,
   ⟨w265, 2, ⟨[0x4b10100, 0x7d0012c, 0], 0xe5b9bd1700000000, false⟩, by decide +kernel⟩,
   ⟨w265, 2, v52, by decide +kernel⟩,
   ⟨w265, 2, v53, by decide +kernel⟩,
   ⟨w265, 2, v54, by decide +kernel⟩,
   ⟨w265, 2, v55, by decide +kernel⟩,
   ⟨w266, 2, v56, rec36, 5, (0, 0, 1), by decide +kernel⟩,
   ⟨w267, 2, v48, by decide +kernel⟩,
   ⟨w268, 2, by decide +kernel⟩,
   ⟨w269, 2, by decide +kernel⟩,
   ⟨w270, 2, v57, [], by decide +kernel⟩,
   ⟨w271, 2, v57, [], rec4, by decide +kernel⟩,
   ⟨w272, 2, 1, 34, ⟨rec4, 0xa, false, 0, none⟩, by decide +kernel⟩,
   ⟨w273, 2, 1, 34, ⟨rec4, 0xa, false, 0, none⟩, by decide +kernel⟩⟩

end Sys2Proof.Tests
end

section
/-! PROOFS. Records at the fabric port of a buoy (spec/02 R74): which check a record fails, and what its drop
counts. The drop is read off `Live.fabBad`, so each clause of the statement is one lemma about that function. -/

namespace Sys2Proof.Proofs

open Sys2Proof Sys2Proof.Machine Sys2Proof.Claims

variable {s : State} {ws : List DWord} {r : Rec}

/-! ### The command, given the verdict on its record -/

theorem exec_fabRxBadRecord (ws : List DWord) (s : State) :
    exec (.fabRxBadRecord ws) s = execFabRxBadRecord ws s := rfl

/-- A record with a fault counts once, in the field of its fault. -/
theorem gives_bump_of_fabBad (hawake : s.live.awake = true) (hbuoy : s.build.form = .buoy) {f : Fld}
    (hbad : s.live.fabBad s.build ws = some f) :
    Gives (.fabRxBadRecord ws) s (s.live.bump s.build f) := by
  rw [Gives, exec_fabRxBadRecord, execFabRxBadRecord, State.runAwake_awake hawake]
  simp [Build.lantern, hbuoy, hbad]

/-- A record without a fault leaves the block as it was. -/
theorem gives_live_of_fabBad_none (hawake : s.live.awake = true) (hbuoy : s.build.form = .buoy)
    (hgood : s.live.fabBad s.build ws = none) : Gives (.fabRxBadRecord ws) s s.live := by
  rw [Gives, exec_fabRxBadRecord, execFabRxBadRecord, State.runAwake_awake hawake]
  simp [Build.lantern, hbuoy, hgood]

/-! ### The verdict on a record -/

/-- Words whose CRC-32C does not hold spell no record. -/
theorem recOfWords_eq_none_of_crc
    (hcrc : fld (wordAt ws (ws.length - 1)) 0 32 ≠ (crcWords (ws.take (ws.length - 1))).toNat) :
    recOfWords ws = none := by
  simp [recOfWords, hcrc]

/-- The length comes first: below 24 bytes, or not what LEN says. -/
theorem fabBad_eq_len (l : Live) (b : Build)
    (h : ws.length < 3 ∨ fld (wordAt ws 0) 16 16 ≠ 8 * ws.length) :
    l.fabBad b ws = some F.FAB_RX_BAD_LEN := by
  have hlen : 8 * ws.length < 24 ∨ fld (wordAt ws 0) 16 16 ≠ 8 * ws.length :=
    h.imp_left fun _ => by omega
  exact if_pos hlen

/-- The length check as the machine makes it, in bytes, passes a whole record. -/
theorem not_lenBad (hshort : 3 ≤ ws.length) (hlen : fld (wordAt ws 0) 16 16 = 8 * ws.length) :
    ¬(8 * ws.length < 24 ∨ fld (wordAt ws 0) 16 16 ≠ 8 * ws.length) := by
  omega

/-- Past the length check, words that spell no record fail the CRC check. -/
theorem fabBad_eq_crc (l : Live) (b : Build) (hshort : 3 ≤ ws.length)
    (hlen : fld (wordAt ws 0) 16 16 = 8 * ws.length) (hrec : recOfWords ws = none) :
    l.fabBad b ws = some F.FAB_RX_BAD_CRC := by
  simp only [Live.fabBad, not_lenBad hshort hlen, hrec, if_false]

/-- A record that passes both checks, of a TYPE that Table 1.9 does not have. -/
theorem fabBad_eq_kind (l : Live) (b : Build) (hshort : 3 ≤ ws.length)
    (hlen : fld (wordAt ws 0) 16 16 = 8 * ws.length) (hrec : recOfWords ws = some r)
    (hty : r.ty = 0 ∨ 0x10 ≤ r.ty.toNat) : l.fabBad b ws = some F.FAB_RX_BAD_KIND := by
  simp only [Live.fabBad, not_lenBad hshort hlen, hrec, hty, if_false, if_true]

/-- A record that passes both checks, of a TYPE of Table 1.9 below TIMEX (0x0E) and CMD (0x0F). -/
theorem fabBad_eq_none (l : Live) (b : Build) (hshort : 3 ≤ ws.length)
    (hlen : fld (wordAt ws 0) 16 16 = 8 * ws.length) (hrec : recOfWords ws = some r)
    (hzero : r.ty ≠ 0) (hty : r.ty.toNat < 0x0E) : l.fabBad b ws = none := by
  have htable : ¬(r.ty = 0 ∨ 0x10 ≤ r.ty.toNat) := by
    rintro (h | h)
    · exact hzero h
    · omega
  have hcmd : r.ty ≠ 0x0F := fun h => by simp [h] at hty
  have htimex : r.ty ≠ 0x0E := fun h => by simp [h] at hty
  simp only [Live.fabBad, not_lenBad hshort hlen, hrec, htable, hcmd, htimex, false_and, if_false]

/-- Settles O27: each clause is the command at one verdict on its record. -/
theorem fabricRecordsAreChecked : Obligations.FabricRecordsAreChecked := by
  unfold Obligations.FabricRecordsAreChecked
  refine ⟨fun s ws hawake hbuoy hbad => ?_, fun s ws hawake hbuoy hshort hlen hcrc => ?_,
    fun s ws r hawake hbuoy hshort hlen hrec => ⟨fun hty => ?_, fun hzero hty => ?_⟩⟩
  · exact gives_bump_of_fabBad hawake hbuoy (fabBad_eq_len s.live s.build hbad)
  · exact gives_bump_of_fabBad hawake hbuoy
      (fabBad_eq_crc s.live s.build hshort hlen (recOfWords_eq_none_of_crc hcrc))
  · exact gives_bump_of_fabBad hawake hbuoy (fabBad_eq_kind s.live s.build hshort hlen hrec hty)
  · exact gives_live_of_fabBad_none hawake hbuoy (fabBad_eq_none s.live s.build hshort hlen hrec hzero hty)

end Sys2Proof.Proofs
end

section
/-! PROOFS. Writes to CLK_SEL (spec/03 R96): a value is rejected, waits for the switch in progress, or is shown in
CLK_SEL and starts the switches it asks for. What a write does is `Live.applyClkSel`, and its two outcomes are one
lemma each; whether it does that now or waits is read off the switches in progress. -/

namespace Sys2Proof.Proofs

open Sys2Proof Sys2Proof.Machine Sys2Proof.Claims

variable {s : State} {l : Live} {b : Build} {v : Word}

/-! ### The source fields of CLK_SEL -/

/-- The source that a value of CLK_SEL selects for an island: its port clock, or the oscillator. -/
def selected (v : Word) : SwIsland → Bool
  | .core => v.getLsbD 0
  | .reg => v.getLsbD 1

/-- CLK_SEL shows the sources that `v` selects, in a register file in canonical form. -/
def ShowsSel (b : Build) (v : Word) (l : Live) : Prop :=
  Tab.wf l.rf = true ∧ ∀ i, l.get b (srcFld i) = b2n (selected v i)

/-- Each source field holds one bit. -/
theorem b2n_mod_srcFld (p : Bool) (i : SwIsland) : b2n p % 2 ^ (srcFld i).w = b2n p := by
  cases p <;> cases i <;> rfl

theorem srcFld_key_ne {i j : SwIsland} (h : i ≠ j) : (srcFld i).key 0 ≠ (srcFld j).key 0 := by
  match i, j with
  | .core, .core | .reg, .reg => exact absurd rfl h
  | .core, .reg | .reg, .core => decide

/-- A source written for one island leaves the other island's field as it was. -/
theorem get_put_srcFld (hw : Tab.wf l.rf = true) (i j : SwIsland) (p : Bool) :
    (l.put b (srcFld i) (b2n p)).get b (srcFld j) = if j = i then b2n p else l.get b (srcFld j) := by
  split
  · next h => rw [h, Live.get_put_same hw, b2n_mod_srcFld]
  · next h => exact Live.get_put_ne hw (srcFld_key_ne (Ne.symm h)) _

/-- The capture of a value shows it in CLK_SEL. -/
theorem showsSel_capture (hw : Tab.wf l.rf = true) :
    ShowsSel b v ((l.put b (srcFld .core) (b2n (selected v .core))).put b (srcFld .reg)
      (b2n (selected v .reg))) := by
  have hw' := Live.put_wf (b := b) hw (srcFld .core) (b2n (selected v .core)) 0
  refine ⟨Live.put_wf hw' _ _ _, fun i => ?_⟩
  cases i <;> simp [get_put_srcFld hw', get_put_srcFld hw]

/-! ### Starting the switch of an island -/

theorem startSwitch_eq (l : Live) (b : Build) (i : SwIsland) (port : Bool) :
    l.startSwitch b i port = { l.put b (srcFld i) (b2n port) with
      clk := { l.clk with switches := l.clk.switches ++ [(i, port)] } } := by
  cases i <;> rfl

/-- A switch to the source that CLK_SEL shows changes no field of it. -/
theorem ShowsSel.startSwitch (h : ShowsSel b v l) (i : SwIsland) :
    ShowsSel b v (l.startSwitch b i (selected v i)) := by
  obtain ⟨hw, hget⟩ := h
  rw [startSwitch_eq]
  refine ⟨Live.put_wf hw _ _ _, fun j => (get_put_srcFld hw i j _).trans ?_⟩
  split
  · next h => rw [h]
  · exact hget j

/-- The switch of an island is started where its source differs. -/
def switchTo (l : Live) (b : Build) (i : SwIsland) (port : Bool) : Live :=
  if port = l.clk.on i then l else l.startSwitch b i port

/-- The switch that leads an island from source `on` to source `port`, if they differ. -/
def switchOf (i : SwIsland) (port on : Bool) : List (SwIsland × Bool) :=
  if port = on then [] else [(i, port)]

theorem ShowsSel.switchTo (h : ShowsSel b v l) (i : SwIsland) :
    ShowsSel b v (switchTo l b i (selected v i)) := by
  unfold Proofs.switchTo
  split
  · exact h
  · exact h.startSwitch i

/-- Only CLK_SEL and the switches to come change. -/
theorem switchTo_frame (l : Live) (b : Build) (i : SwIsland) (port : Bool) :
    switchTo l b i port = { l with
      rf := (switchTo l b i port).rf,
      clk := { l.clk with switches := l.clk.switches ++ switchOf i port (l.clk.on i) } } := by
  unfold switchTo switchOf
  split
  · simp
  · rw [startSwitch_eq]; rfl

/-! ### The two outcomes of a value -/

/-- The value selects a port clock that is not qualified. -/
abbrev SelectsUnqualified (v : Word) (c : Clk) : Prop :=
  (v.getLsbD 0 = true ∧ c.coreQual = false) ∨ (v.getLsbD 1 = true ∧ c.regQual = false)

/-- The test that the machine makes on a value, as a proposition. -/
theorem selectsUnqualified_iff (v : Word) (c : Clk) :
    ((v.getLsbD 0 && !c.coreQual) || (v.getLsbD 1 && !c.regQual)) = true ↔ SelectsUnqualified v c := by
  simp only [Bool.or_eq_true, Bool.and_eq_true, Bool.not_eq_true']

theorem applyClkSel_rejected (h : SelectsUnqualified v l.clk) :
    l.applyClkSel b v = (l.put b F.CLK_STAT_SW_REJ 1).logE b 0x0201 2 [v.toNat] :=
  if_pos ((selectsUnqualified_iff v l.clk).mpr h)

theorem applyClkSel_accepted (h : ¬SelectsUnqualified v l.clk) :
    l.applyClkSel b v =
      switchTo (switchTo ((l.put b (srcFld .core) (b2n (selected v .core))).put b (srcFld .reg)
        (b2n (selected v .reg))) b .core (selected v .core)) b .reg (selected v .reg) :=
  if_neg fun hrej => h ((selectsUnqualified_iff v l.clk).mp hrej)

/-- An accepted value is what CLK_SEL then shows. -/
theorem showsSel_applyClkSel (hw : Tab.wf l.rf = true) (h : ¬SelectsUnqualified v l.clk) :
    ShowsSel b v (l.applyClkSel b v) := by
  rw [applyClkSel_accepted h]
  exact ((showsSel_capture hw).switchTo .core).switchTo .reg

/-- An accepted value changes CLK_SEL and starts the switches it asks for, CORE first. -/
theorem applyClkSel_frame (h : ¬SelectsUnqualified v l.clk) :
    l.applyClkSel b v = { l with
      rf := (l.applyClkSel b v).rf,
      clk := { l.clk with
        switches := l.clk.switches ++ switchOf .core (selected v .core) l.clk.coreOn ++
          switchOf .reg (selected v .reg) l.clk.regOn } } := by
  rw [applyClkSel_accepted h, switchTo_frame _ b .reg, switchTo_frame _ b .core]
  rfl

@[simp] theorem applyClkSel_phase (l : Live) (b : Build) (v : Word) :
    (l.applyClkSel b v).boot.phase = l.boot.phase := by
  by_cases h : SelectsUnqualified v l.clk
  · simp [applyClkSel_rejected h]
  · rw [applyClkSel_frame h]

/-! ### The write at the register port -/

/-- CLK_SEL is one register in both forms, without a gate. -/
theorem findReg_clkSel (b : Build) : findReg b 0x40 =
    some (⟨0x40, 0, 1, 1, .none, .none, [F.CLK_SEL_CORE_SRC, F.CLK_SEL_REG_SRC]⟩, 0) := by
  rw [findReg_form]
  cases b.form <;> decide +kernel

/-- A port that serves its map does not hold back a write to CLK_SEL. -/
theorem regHolds_clkSel (h : Served s) : s.live.regHolds s.build 0x40 = false := by
  obtain ⟨-, -, hgo | ⟨hheld, hphase, hreg, hbmon⟩⟩ := h
  · simp [Live.regHolds, hgo]
  · have hwaits : s.live.regWaits s.build 0x40 = false := by
      simp [Live.regWaits, hreg, hbmon, Nat.not_lt.mpr hphase]
    simp [Live.regHolds, hheld, hwaits]

theorem gives_writeClkSel (h : Served s) :
    Gives (.clkSelWrite v) s ((written s).writeClkSel s.build v) := by
  have ⟨hopen, hphase, _⟩ := h
  exact State.portWrite_plain _ v (regHolds_clkSel h) hopen (findReg_clkSel s.build) rfl rfl hphase (by decide)

theorem writeClkSel_idle (h : l.clk.switches = []) : l.writeClkSel b v = l.applyClkSel b v := by
  simp [Live.writeClkSel, h]

theorem writeClkSel_busy (h : l.clk.switches ≠ []) :
    l.writeClkSel b v = { l with clk := { l.clk with waiting := some v } } := by
  simp [Live.writeClkSel, h]

theorem gives_applyClkSel (h : Served s) (hidle : s.live.clk.switches = []) :
    Gives (.clkSelWrite v) s ((written s).applyClkSel s.build v) :=
  writeClkSel_idle (l := written s) hidle ▸ gives_writeClkSel h

/-! ### The end of the last switch -/

theorem bootStep_of_phase_ne (h : l.boot.phase ≠ 3) : l.bootStep b = l :=
  if_pos (.inl h)

theorem switchesDone_of_waiting (hidle : l.clk.switches = []) (hwait : l.clk.waiting = some v) :
    l.switchesDone b = ({ l with clk := { l.clk with waiting := none } }.applyClkSel b v).bootStep b := by
  simp [Live.switchesDone, hidle, hwait]

theorem gives_waiting_applyClkSel {i : SwIsland} {port : Bool} (hlast : s.live.clk.switches = [(i, port)])
    (hwait : s.live.clk.waiting = some v) :
    Gives .clockSwitchDone s (({ s.live with clk := { s.live.clk.setOn i port with
      switches := [], waiting := none } }.applyClkSel s.build v).bootStep s.build) := by
  have hwait' : (s.live.clk.setOn i port).waiting = some v := by cases i <;> exact hwait
  have hexec : exec .clockSwitchDone s = execClockSwitchDone s := rfl
  simp only [Gives, hexec, execClockSwitchDone, State.run_eq, hlast]
  rw [switchesDone_of_waiting rfl hwait']

/-- Settles O7: a write does what its value asks for, or waits, by the switches in progress; a value that waited
is applied in the state that the last switch leaves. -/
theorem clkSelWritesRejectWaitOrSwitch : Obligations.ClkSelWritesRejectWaitOrSwitch := by
  unfold Obligations.ClkSelWritesRejectWaitOrSwitch
  refine ⟨fun s v hserved hidle => gives_applyClkSel hserved hidle,
    fun l b v hunqual => applyClkSel_rejected hunqual, fun s v hserved hbusy => ?_,
    fun s i port v hlast hwait hphase => ?_,
    fun s i port v hlast hwait => gives_waiting_applyClkSel hlast hwait,
    fun s v hserved hidle hcore hreg hw => ?_⟩
  · have hwrite := gives_writeClkSel (v := v) hserved
    rwa [writeClkSel_busy (l := written s) hbusy] at hwrite
  · have hdone := gives_waiting_applyClkSel hlast hwait
    rwa [bootStep_of_phase_ne (by rwa [applyClkSel_phase])] at hdone
  · have hqual : ¬SelectsUnqualified v (written s).clk := by
      rintro (⟨hsel, hno⟩ | ⟨hsel, hno⟩)
      · exact Bool.false_ne_true (hno.symm.trans (hcore hsel))
      · exact Bool.false_ne_true (hno.symm.trans (hreg hsel))
    obtain ⟨-, hshows⟩ := showsSel_applyClkSel (l := written s) (b := s.build) hw hqual
    have hframe := applyClkSel_frame (b := s.build) hqual
    have hnone : (written s).clk.switches = [] := hidle
    rw [hnone, List.nil_append] at hframe
    exact ⟨_, gives_applyClkSel hserved hidle, hshows .core, hshows .reg, hframe⟩

end Sys2Proof.Proofs
end

section
/-! PROOFS. One walk over the operations of the model: what each keeps of the tables, and what only the commands of
`sets` change (O59). -/

namespace Sys2Proof.Proofs

open Sys2Proof Sys2Proof.Machine Sys2Proof.Claims

/-- What the walk over the operations keeps, counted from the live part `l₀`: the tables are in canonical form if `C`
holds, and what only the commands of `sets` may change is as in `l₀` if `Q` holds. -/
structure Steady (C Q : Prop) (l₀ l : Live) : Prop where
  rf : C → Tab.wf l.rf = true
  pulses : C → Tab.wf l.pulses = true
  qws : C → Tab.wf l.qws = true
  gens : C → Tab.wf l.gens = true
  seqs : C → Tab.wf l.seqs = true
  plans : C → Tab.wf l.plans = true
  ques : C → Tab.wf l.ques = true
  runs : C → Tab.wf l.runs = true
  links : C → Tab.wf l.links = true
  routes : C → Tab.wf l.routes = true
  calIntake : C → Tab.wf l.cal.intake = true
  calu : C → Tab.wf l.cal.calu = true
  peers : C → Tab.wf l.time.peers = true
  binds : C → Tab.wf l.samp.binds = true
  remaps : C → Tab.wf l.samp.remaps = true
  steps : C → Tab.wf l.samp.steps = true
  ctrs : C → Tab.wf l.samp.ctrs = true
  pcs : C → Tab.wf l.samp.pcs = true
  lastPc : C → Tab.wf l.samp.lastPc = true
  sensT : C → Tab.wf l.samp.sensT = true
  sensV : C → Tab.wf l.samp.sensV = true
  cred : C → Tab.wf l.shape.cred = true
  sers : C → Tab.wf l.ser.sers = true
  trees : C → Tab.wf l.eng.trees = true
  eseqs : C → Tab.wf l.eng.seqs = true
  live : C → Tab.wf l.eng.live = true
  watches : C → Tab.wf l.trace.watches = true
  syncs : C → Tab.wf l.trace.syncs = true
  walk : C → Tab.wf l.mem.walk = true
  lapCe : C → Tab.wf l.mem.lapCe = true
  regions : C → Tab.wf l.flt.regions = true
  devs : C → Tab.wf l.pwr.devs = true
  vals : C → Tab.wf l.pwr.vals = true
  clk : Q → l.clk = l₀.clk
  cal : Q → l.cal = l₀.cal
  pulsesSame : Q → l.pulses = l₀.pulses
  shape : Q → l.shape = l₀.shape
  table : Q → l.table = l₀.table
  gensSame : Q → l.gens = l₀.gens
  genBase : Q → l.genBase = l₀.genBase
  celFail : Q → l.celFail = l₀.celFail
  spillFail : Q → l.spillFail = l₀.spillFail

variable {C Q : Prop} {l₀ l : Live} {b : Build}

/-- Canonical tables are a start of the walk, where nothing is compared. -/
theorem Steady.of_canonical (h : C → Safety.Canonical l) : Steady C False l₀ l where
  rf c := (h c).rf
  pulses c := (h c).pulses
  qws c := (h c).qws
  gens c := (h c).gens
  seqs c := (h c).seqs
  plans c := (h c).plans
  ques c := (h c).ques
  runs c := (h c).runs
  links c := (h c).links
  routes c := (h c).routes
  calIntake c := (h c).intake
  calu c := (h c).calu
  peers c := (h c).peers
  binds c := (h c).binds
  remaps c := (h c).remaps
  steps c := (h c).steps
  ctrs c := (h c).ctrs
  pcs c := (h c).pcs
  lastPc c := (h c).lastPc
  sensT c := (h c).sensT
  sensV c := (h c).sensV
  cred c := (h c).cred
  sers c := (h c).sers
  trees c := (h c).trees
  eseqs c := (h c).eseqs
  live c := (h c).live
  watches c := (h c).watches
  syncs c := (h c).syncs
  walk c := (h c).walk
  lapCe c := (h c).lapCe
  regions c := (h c).regions
  devs c := (h c).devs
  vals c := (h c).vals
  clk := nofun
  cal := nofun
  pulsesSame := nofun
  shape := nofun
  table := nofun
  gensSame := nofun
  genBase := nofun
  celFail := nofun
  spillFail := nofun

/-- The live part itself is a start of the walk. -/
theorem Steady.refl (l : Live) : Steady (Safety.Canonical l) Q l l :=
  { Steady.of_canonical (l₀ := l) id with
    clk := fun _ => rfl, cal := fun _ => rfl, pulsesSame := fun _ => rfl, shape := fun _ => rfl,
    table := fun _ => rfl, gensSame := fun _ => rfl, genBase := fun _ => rfl, celFail := fun _ => rfl,
    spillFail := fun _ => rfl }

theorem Steady.canonical (h : Steady C Q l₀ l) (c : C) : Safety.Canonical l where
  rf := h.rf c
  pulses := h.pulses c
  qws := h.qws c
  gens := h.gens c
  seqs := h.seqs c
  plans := h.plans c
  ques := h.ques c
  runs := h.runs c
  links := h.links c
  routes := h.routes c
  intake := h.calIntake c
  calu := h.calu c
  peers := h.peers c
  binds := h.binds c
  remaps := h.remaps c
  steps := h.steps c
  ctrs := h.ctrs c
  pcs := h.pcs c
  lastPc := h.lastPc c
  sensT := h.sensT c
  sensV := h.sensV c
  cred := h.cred c
  sers := h.sers c
  trees := h.trees c
  eseqs := h.eseqs c
  live := h.live c
  watches := h.watches c
  syncs := h.syncs c
  walk := h.walk c
  lapCe := h.lapCe c
  regions := h.regions c
  devs := h.devs c
  vals := h.vals c

theorem Steady.ite {c : Prop} [Decidable c] {m n : Live} (hm : Steady C Q l₀ m) (hn : Steady C Q l₀ n) :
    Steady C Q l₀ (if c then m else n) := by
  split
  · exact hm
  · exact hn

theorem Steady.foldl {α : Type} {f : Live → α → Live}
    (hf : ∀ l a, Steady C Q l₀ l → Steady C Q l₀ (f l a)) {l : Live} {as : List α} (hs : Steady C Q l₀ l) :
    Steady C Q l₀ (as.foldl f l) := by
  induction as generalizing l with
  | nil => exact hs
  | cons a as ih => exact ih (hf l a hs)

theorem Steady.when {c : Bool} {f : Live → Live} (hs : Steady C Q l₀ l)
    (hf : ∀ l, Steady C Q l₀ l → Steady C Q l₀ (f l)) : Steady C Q l₀ (l.when c f) :=
  .ite (hf l hs) hs

/-! Parts that the walk does not look at. -/

theorem Steady.setFired {xs : List Fired} (hs : Steady C Q l₀ l) :
    Steady C Q l₀ { l with time := { l.time with fired := xs } } :=
  { hs with }

theorem Steady.setLog {x : Log} (hs : Steady C Q l₀ l) : Steady C Q l₀ { l with log := x } :=
  { hs with }

theorem Steady.setMemRuns {n : Nat} (hs : Steady C Q l₀ l) : Steady C Q l₀
  { l with mem := { l.mem with runs := n } } :=
  { hs with }

theorem Steady.setRpl {x : Rpl} (hs : Steady C Q l₀ l) : Steady C Q l₀ { l with flt := { l.flt with rpl := x } } :=
  { hs with }

theorem Steady.setCmd {x : Cmd} (hs : Steady C Q l₀ l) : Steady C Q l₀ { l with cmd := x } :=
  { hs with }

theorem Steady.setBoot {x : Boot} (hs : Steady C Q l₀ l) : Steady C Q l₀ { l with boot := x } :=
  { hs with }

theorem Steady.setClk {x : Clk} (hs : Steady C False l₀ l) : Steady C False l₀ { l with clk := x } :=
  { hs with clk := nofun }

theorem Steady.setFtPrev {t : Word} (hs : Steady C False l₀ l) :
    Steady C False l₀ { l with shape := { l.shape with ftPrev := t } } :=
  { hs with shape := nofun }

/-- A table changed value by value keeps its indices. -/
theorem wf_mapVal {α β : Type} {f : Nat → α → β} {t : Tab α} (h : Tab.wf t = true) :
    Tab.wf (Tab.mapVal f t) = true :=
  (Tab.sortedFrom_mapVal f 0 t).trans h

theorem pick_mem {α : Type} {n : Nat} {xs : List α} {a : α} (h : pick n xs = some a) : a ∈ xs :=
  List.mem_of_getElem? h

theorem Steady.put {f : Fld} {v e : Nat} (hs : Steady C Q l₀ l) : Steady C Q l₀ (l.put b f v e) :=
  { hs with rf := fun c => Tab.wf_set (hs.rf c) _ _ _ }

theorem Steady.setBit {f : Fld} {e i : Nat} (hs : Steady C Q l₀ l) : Steady C Q l₀ (l.setBit b f e i) :=
  .put hs

theorem Steady.clrBit {f : Fld} {e i : Nat} (hs : Steady C Q l₀ l) : Steady C Q l₀ (l.clrBit b f e i) :=
  .put hs

theorem Steady.bump {f : Fld} {e n : Nat} (hs : Steady C Q l₀ l) : Steady C Q l₀ (l.bump b f e n) :=
  .put hs

theorem Steady.emit {o : Out} (hs : Steady C Q l₀ l) : Steady C Q l₀ (l.emit o) :=
  { hs with }

theorem Steady.dropCmp {o : Owner} (hs : Steady C Q l₀ l) : Steady C Q l₀ (l.dropCmp o) :=
  { hs with }

theorem Steady.armCmp {o : Owner} {t : Word} {per : Nat} (hs : Steady C Q l₀ l) : Steady C Q l₀ (l.armCmp o t per) :=
  { (.dropCmp hs : Steady C Q l₀ (l.dropCmp o)) with }

theorem Steady.dropPlanCmps {p : Nat} (hs : Steady C Q l₀ l) : Steady C Q l₀ (l.dropPlanCmps p) :=
  { hs with }

theorem Steady.atticDrop {gone : List LogEnt} (hs : Steady C Q l₀ l) : Steady C Q l₀ (l.atticDrop gone) :=
  { hs with }

theorem Steady.atticAdd {e : LogEnt} (hs : Steady C Q l₀ l) : Steady C Q l₀ (l.atticAdd b e) := by
  refine .ite ?_ hs
  split
  · exact .setBit hs
  · exact .when { hs with } (fun _ hs => .setBit hs)

theorem Steady.logFog {sev : Nat} (hs : Steady C Q l₀ l) : Steady C Q l₀ (l.logFog b sev) :=
  .when hs (fun _ hs => .setBit hs)

theorem Steady.logNew {ev : LogEv} (hs : Steady C Q l₀ l) : Steady C Q l₀ (l.logNew b ev) := by
  unfold Live.logNew
  dsimp only
  split
  · exact .bump { hs with }
  · exact .logFog (.atticAdd (.atticDrop (.foldl (fun _ _ hs => .bump hs) { hs with })))

theorem Steady.logWrite {ev : LogEv} (hs : Steady C Q l₀ l) : Steady C Q l₀ (l.logWrite b ev) := by
  unfold Live.logWrite
  split
  · exact .ite (.logFog { hs with }) (.logNew hs)
  · exact .logNew hs

theorem Steady.logEv {ev : LogEv} (hs : Steady C Q l₀ l) : Steady C Q l₀ (l.logEv b ev) :=
  .ite (.logWrite hs) (.ite { hs with } (.bump { hs with }))

theorem Steady.logE {code sev : Nat} {args : List Nat} {plan status : Nat} (hs : Steady C Q l₀ l) :
    Steady C Q l₀ (l.logE b code sev args plan status) :=
  .logEv hs

/-- A change of the GEN table alone. -/
theorem Steady.setGens {t : Tab Nat} (hs : Steady C False l₀ l) (ht : C → Tab.wf t = true) :
    Steady C False l₀ { l with gens := t } :=
  { hs with gens := ht, gensSame := nofun }

theorem Steady.genInc {i : Nat} (hs : Steady C False l₀ l) : Steady C False l₀ (l.genInc i) :=
  .setGens hs fun c => Tab.wf_upd (hs.gens c) _ _ _

theorem Steady.resume {r : Rec} (hs : Steady C Q l₀ l) : Steady C Q l₀ (l.resume r).1 := by
  unfold Live.resume
  split
  · exact { hs with }
  · exact hs

/-- A change of the SEQ of the streams alone. -/
theorem Steady.setSeqs {t : Tab Nat} (hs : Steady C Q l₀ l) (ht : C → Tab.wf t = true) :
    Steady C Q l₀ { l with seqs := t } :=
  { hs with seqs := ht }

theorem Steady.number {r : Rec} (hs : Steady C Q l₀ l) : Steady C Q l₀ (l.number r).1 :=
  .resume (.setSeqs hs fun c => Tab.wf_set (hs.seqs c) _ _ _)

theorem Steady.create {r : Rec} (hs : Steady C Q l₀ l) : Steady C Q l₀ (l.create b r) :=
  { (.number hs : Steady C Q l₀ ((l.number r).1)) with }

theorem Steady.ueSeen {id a : Nat} (hs : Steady C Q l₀ l) : Steady C Q l₀ (l.ueSeen b id a) :=
  .logE (.put (.put (.put (.bump hs))))

theorem Steady.meet {h : Holder} (hs : Steady C Q l₀ l) : Steady C Q l₀ (l.meet b h) :=
  .foldl (fun _ _ hs => .ueSeen hs) hs

theorem Steady.clean {h : Holder} (hs : Steady C Q l₀ l) : Steady C Q l₀ (l.clean h) :=
  { hs with }

theorem Steady.cleanPlan {p : Nat} (hs : Steady C Q l₀ l) : Steady C Q l₀ (l.cleanPlan p) :=
  { hs with }

theorem Steady.setPlan {p : Nat} {x : Plan} (hs : Steady C Q l₀ l) : Steady C Q l₀ (l.setPlan p x) :=
  { hs with plans := fun c => Tab.wf_set (hs.plans c) _ _ _ }

theorem Steady.updPlan {p : Nat} {f : Plan → Plan} (hs : Steady C Q l₀ l) : Steady C Q l₀ (l.updPlan p f) :=
  .setPlan hs

theorem Steady.updLink {n : Nat} {f : Link → Link} (hs : Steady C Q l₀ l) : Steady C Q l₀ (l.updLink n f) :=
  { hs with links := fun c => Tab.wf_upd (hs.links c) _ _ _ }

theorem Steady.noteKey {k c : Nat} (hs : Steady C Q l₀ l) : Steady C Q l₀ (l.noteKey k c) := by
  unfold Live.noteKey
  split
  · exact .ite hs { hs with routes := fun c => Tab.wf_insert (hs.routes c) _ _ }
  · exact { hs with routes := fun c => Tab.wf_insert (hs.routes c) _ _ }

theorem Steady.queueBuoy {i : LinkItem} (hs : Steady C Q l₀ l) : Steady C Q l₀ (l.queueBuoy b i) := by
  unfold Live.queueBuoy
  split
  · exact .updLink hs
  · refine .updLink ?_
    split
    · exact .noteKey hs
    · exact hs

theorem Steady.toBuoy {loc : Nat} {r : Rec} (hs : Steady C Q l₀ l) : Steady C Q l₀ (l.toBuoy b loc r) :=
  .queueBuoy hs

theorem Steady.releaseBuoys (hs : Steady C Q l₀ l) : Steady C Q l₀ (l.releaseBuoys b) :=
  .ite hs (.foldl (fun _ _ hs => .queueBuoy hs) (.updLink hs))

theorem Steady.toLink {n : Nat} {r : Rec} (hs : Steady C Q l₀ l) : Steady C Q l₀ (l.toLink n r) :=
  .updLink hs

/-- A change of what waits for a queue, of the queues and of the links. -/
theorem Steady.setRecs {xs : List (Nat × Rec)} {t : Tab Que} {u : Tab Link} (hs : Steady C Q l₀ l)
    (ht : C → Tab.wf t = true) (hu : C → Tab.wf u = true) :
    Steady C Q l₀ { l with created := xs, ques := t, links := u } :=
  { hs with ques := ht, links := hu }

theorem Steady.mapRecs {f : Rec → Rec} (hs : Steady C Q l₀ l) : Steady C Q l₀ (l.mapRecs f) :=
  .setRecs hs (fun c => wf_mapVal (hs.ques c)) fun c => wf_mapVal (hs.links c)

theorem Steady.skip {r : Rec} (hs : Steady C Q l₀ l) : Steady C Q l₀ (l.skip r) := by
  unfold Live.skip
  split
  · exact .mapRecs hs
  · exact .ite hs { hs with }

/-- Which beats of the cellar are poisoned is no part of a table. -/
theorem Steady.setCel {cel : List Nat} (hs : Steady C Q l₀ l) :
    Steady C Q l₀ { l with mem := { l.mem with cel := cel } } :=
  { hs with }

/-- The port is generalized before the two cases are read off: to compute it, the kernel would count the bytes of
the cellar space in unary. -/
theorem Steady.celBurst {wr : Bool} {a n : Nat} {data : List DWord} (hs : Steady C Q l₀ l) :
    Steady C Q l₀ (l.celBurst b wr a n data) := by
  conv in @Live.celBurst => delta Live.celBurst
  generalize l.celPort b a = port
  cases port with
  | none => exact hs
  | some m => exact .ite (.setCel hs) (.emit (.setCel hs))

theorem Steady.celWrite {a : Nat} {ws : List DWord} (hs : Steady C Q l₀ l) : Steady C Q l₀ (l.celWrite b a ws) :=
  .foldl (fun _ _ hs => .celBurst hs) hs

theorem Steady.celRead {a n : Nat} (hs : Steady C Q l₀ l) : Steady C Q l₀ (l.celRead b a n) :=
  .foldl (fun _ _ hs => .ueSeen hs) (.celBurst hs)

theorem Steady.toLinkReply {n : Nat} {x : Rec} (hs : Steady C Q l₀ l) : Steady C Q l₀ (l.toLinkReply b n x) :=
  .ite (.toLink (.number hs)) (.toLink hs)

theorem Steady.answerLink {n : BitVec 5} {no : Nat} {x : Rec} (hs : Steady C Q l₀ l) :
    Steady C Q l₀ (l.answerLink b n no x) :=
  .foldl (fun _ _ hs => .toLinkReply hs) { hs with }

theorem Steady.reply {r : Ret} {status arg : Nat} {ws : List DWord} (hs : Steady C Q l₀ l) :
    Steady C Q l₀ (l.reply b r status arg ws) := by
  unfold Live.reply
  dsimp only
  split
  · exact { hs with }
  · exact .create { hs with }
  · exact .answerLink { hs with }

theorem Steady.replyAll {rs : List Ret} {status : Nat} (hs : Steady C Q l₀ l) :
    Steady C Q l₀ (l.replyAll b rs status) :=
  .foldl (fun _ _ hs => .reply hs) hs

theorem Steady.idleExit {src : Nat} (hs : Steady C Q l₀ l) : Steady C Q l₀ (l.idleExit b src) :=
  .ite (.logE { hs with }) hs

theorem Steady.wakeIdle (hs : Steady C Q l₀ l) : Steady C Q l₀ (l.wakeIdle b) :=
  .idleExit hs

theorem Steady.arrive {p : Packet} (hs : Steady C Q l₀ l) : Steady C Q l₀ (l.arrive p).1 :=
  { hs with }

theorem Steady.park {c : Instr} {p : Packet} (hs : Steady C Q l₀ l) : Steady C Q l₀ (l.park c p) :=
  .ite ({ (.arrive hs : Steady C Q l₀ ((l.arrive p).1)) with })
    ({ (.arrive hs : Steady C Q l₀ ((l.arrive p).1)) with })

theorem Steady.begin {p : Packet} (hs : Steady C Q l₀ l) : Steady C Q l₀ (l.begin p).1 := by
  unfold Live.begin
  split
  · exact { hs with }
  · exact .arrive hs

theorem Steady.packet {c : Instr} {p : Packet} {run : Live → Ret → Live} (hs : Steady C Q l₀ l)
    (hrun : ∀ l r, Steady C Q l₀ l → Steady C Q l₀ (run l r)) : Steady C Q l₀ (l.packet b c p run) :=
  .ite (hrun _ _ (.begin (.wakeIdle hs))) (.ite hs (.ite (.ite (.bump hs) hs) (.park hs)))

theorem Steady.checked {o : OpRow} {p : Packet} {r : Ret} {run : Live → Ret → Live} (hs : Steady C Q l₀ l)
    (hrun : ∀ l r, Steady C Q l₀ l → Steady C Q l₀ (run l r)) : Steady C Q l₀ (l.checked b o p r run) := by
  unfold Live.checked
  split
  · exact .reply (.when hs fun _ hs => .bump hs)
  · exact hrun _ _ hs

theorem Steady.command {c : Instr} {o : OpRow} {p : Packet} {run : Live → Ret → Live} (hs : Steady C Q l₀ l)
    (hrun : ∀ l r, Steady C Q l₀ l → Steady C Q l₀ (run l r)) : Steady C Q l₀ (l.command b c o p run) :=
  .packet hs fun _ _ hs => .checked hs hrun

theorem Steady.hold {r : Ret} {c : Instr} (hs : Steady C Q l₀ l) : Steady C Q l₀ (l.hold r c) :=
  { hs with }

theorem Steady.setWaiting {xs : List Busy} (hs : Steady C Q l₀ l) : Steady C Q l₀ (l.setWaiting xs) :=
  { hs with }

theorem Steady.ownCmd {loc : Nat} {use : OwnUse} {plan opc arg : Nat} {ws : List DWord} (hs : Steady C Q l₀ l) :
    Steady C Q l₀ (l.ownCmd b loc use plan opc arg ws) := by
  have hn : ∀ r, Steady C Q l₀ ({ l with free := l.free + 1 }.number r).1 := fun _ => .number { hs with }
  exact .toBuoy { hn _ with }

theorem Steady.ownCmds {locs : List Nat} {use : OwnUse} {plan opc arg : Nat} {ws : List DWord}
    (hs : Steady C Q l₀ l) :
    Steady C Q l₀ (l.ownCmds b locs use plan opc arg ws) :=
  .foldl (fun _ _ hs => .ownCmd hs) hs

theorem Steady.updSer {s : Nat} {f : Ser → Ser} (hs : Steady C Q l₀ l) : Steady C Q l₀ (l.updSer s f) :=
  { hs with sers := fun c => Tab.wf_upd (hs.sers c) _ _ _ }

theorem Steady.setSlot {isSeq : Bool} {k : Nat} {x : Slot} (hs : Steady C Q l₀ l) :
    Steady C Q l₀ (l.setSlot isSeq k x) :=
  .ite { hs with eseqs := fun c => Tab.wf_set (hs.eseqs c) _ _ _ }
    { hs with trees := fun c => Tab.wf_set (hs.trees c) _ _ _ }

theorem Steady.seqNext {fuel : Nat} (hs : Steady C Q l₀ l) : Steady C Q l₀ (l.seqNext b fuel) := by
  induction fuel generalizing l with
  | zero => exact hs
  | succ fuel ih =>
    unfold Live.seqNext
    split
    · dsimp only
      split
      · exact ih (.reply { hs with })
      · exact { hs with }
    · exact hs

theorem Steady.seqTurn (hs : Steady C Q l₀ l) : Steady C Q l₀ (l.seqTurn b) :=
  .seqNext hs

theorem Steady.logInit (hs : Steady C Q l₀ l) : Steady C Q l₀ (l.logInit b) :=
  .foldl (fun _ _ hs => .logWrite hs) { hs with }

theorem Steady.setTState {t : TState} (hs : Steady C Q l₀ l) : Steady C Q l₀ (l.setTState t) :=
  { hs with }

theorem Steady.enterLocked (hs : Steady C Q l₀ l) : Steady C Q l₀ (l.enterLocked b) :=
  .ite hs ({ (.logE hs : Steady C Q l₀ (l.logE b 773 1 [l.time.state.code])) with })

theorem Steady.applyFreerun (hs : Steady C Q l₀ l) : Steady C Q l₀ (l.applyFreerun b) :=
  .ite (.enterLocked { hs with }) hs

theorem Steady.ready {cycles : Nat} (hs : Steady C False l₀ l) : Steady C False l₀ (l.ready b cycles) := by
  unfold Live.ready
  extract_lets l₁ l₂ l₃ l₄ l₅ _ _ _ l₆
  have h₄ : Steady C False l₀ l₄ := .logInit (.put (.put (.put hs)))
  have h₅ : Steady C False l₀ l₅ := .ite h₄ { h₄ with genBase := nofun }
  have h₆ : Steady C False l₀ l₆ := { h₅ with }
  exact .applyFreerun (.logE h₆)

theorem Steady.bootFail {fs : List Fld} (hs : Steady C Q l₀ l) : Steady C Q l₀ (l.bootFail b fs) :=
  { (.foldl (fun _ _ hs => .put hs) hs : Steady C Q l₀ (List.foldl (fun l f => l.put b f 1) l fs)) with }

theorem Steady.spoilWindow (hs : Steady C False l₀ l) : Steady C False l₀ (l.spoilWindow b) := by
  unfold Live.spoilWindow
  split
  · exact { hs with clk := nofun }
  · exact hs

theorem Steady.startSwitch {i : SwIsland} {port : Bool} (hs : Steady C False l₀ l) :
    Steady C False l₀ (l.startSwitch b i port) :=
  { (.put hs : Steady C False l₀ (l.put b
  (match i with
  | SwIsland.core => F.CLK_SEL_CORE_SRC
  | SwIsland.reg => F.CLK_SEL_REG_SRC)
  (b2n port))) with clk := nofun }

theorem Steady.bootStep (hs : Steady C False l₀ l) : Steady C False l₀ (l.bootStep b) :=
  .ite hs (.ite (.ite (.startSwitch hs) hs)
    (.ite (.ite (.startSwitch hs) hs) (.ite (.ready { hs with }) { hs with })))

theorem Steady.calDone (hs : Steady C False l₀ l) : Steady C False l₀ (l.calDone b) :=
  .bootStep { hs with clk := nofun, cal := nofun, calIntake := fun _ => rfl }

/-- The tables of a cold reset are empty, or listed in the order of their indices. -/
theorem cold_canonical : Safety.Canonical Live.cold := by
  constructor <;> rfl

theorem Steady.cold : Steady C False l₀ Live.cold :=
  .of_canonical fun _ => cold_canonical

theorem Steady.coldReset : Steady C False l₀ l.coldReset :=
  { Steady.cold (C := C) (l₀ := l₀) with }

theorem Steady.release {st : Statics} (hs : Steady C Q l₀ l) : Steady C Q l₀ (l.release st) :=
  { hs with }

theorem wf_aonFields {t : Tab Nat} (h : Tab.wf t = true) : Tab.wf (aonFields t) = true :=
  Tab.sortedFrom_filter _ _ _ h

theorem Steady.aonKept {k : BootKind} (hs : Steady C False l₀ l) : Steady C False l₀ (l.aonKept b k) :=
  .put { Steady.cold (C := C) (l₀ := l₀) with
    rf := fun c => wf_aonFields (hs.rf c), gens := hs.gens, calIntake := hs.calIntake, calu := hs.calu,
    clk := nofun, cal := nofun, gensSame := nofun, genBase := nofun }

theorem Steady.softReset (hs : Steady C False l₀ l) : Steady C False l₀ (l.softReset b) :=
  .bootStep (.aonKept hs)

theorem Steady.setFull {v : ℤ} (hs : Steady C Q l₀ l) : Steady C Q l₀ (l.setFull v) :=
  { hs with }

theorem Steady.gridFollow (hs : Steady C Q l₀ l) : Steady C Q l₀ (l.gridFollow b) :=
  .ite (.put hs) hs

theorem Steady.accumulate {d : ℤ} (hs : Steady C Q l₀ l) : Steady C Q l₀ (l.accumulate b d) :=
  .gridFollow ({ (.setFull hs : Steady C Q l₀ (l.setFull (l.ftFull + d))) with })

theorem Steady.timeEdge (hs : Steady C Q l₀ l) : Steady C Q l₀ (l.timeEdge b) :=
  .accumulate { hs with }

theorem Steady.updQw {k : Nat} {f : Qw → Qw} (hs : Steady C Q l₀ l) : Steady C Q l₀ (l.updQw k f) :=
  { hs with qws := fun c => Tab.wf_upd (hs.qws c) _ _ _ }

theorem Steady.qwEnd {k : Nat} (hs : Steady C Q l₀ l) : Steady C Q l₀ (l.qwEnd b k) :=
  .updQw hs

theorem Steady.qwStep {k : Nat} (hs : Steady C Q l₀ l) : Steady C Q l₀ (l.qwStep b k) :=
  .ite hs (.updQw hs)

theorem Steady.qwEnable {k : Nat} (hs : Steady C Q l₀ l) : Steady C Q l₀ (l.qwEnable b k) :=
  .ite (.updQw hs) (.setBit hs)

theorem Steady.qwDisable {k : Nat} (hs : Steady C Q l₀ l) : Steady C Q l₀ (l.qwDisable k) :=
  .updQw hs

theorem Steady.writeQwCtl {v : Nat} (hs : Steady C Q l₀ l) : Steady C Q l₀ (l.writeQwCtl b v) :=
  .foldl (fun _ _ hs => .ite (.ite hs (.setBit hs))
    (.ite (.qwEnable hs) (.ite (.updQw hs) (.ite (.qwDisable hs) hs)))) (.put hs)

theorem Steady.updPulse {n : Nat} {f : Pulse → Pulse} (hs : Steady C False l₀ l) :
    Steady C False l₀ (l.updPulse n f) :=
  { hs with pulses := fun c => Tab.wf_upd (hs.pulses c) _ _ _, pulsesSame := nofun }

theorem Steady.useFired {o : Owner} (hs : Steady C Q l₀ l) : Steady C Q l₀ (l.useFired o) :=
  { hs with }

theorem Steady.pulseDisarm {n : Nat} (hs : Steady C False l₀ l) : Steady C False l₀ (l.pulseDisarm n) :=
  .setFired (.updPulse (.dropCmp hs))

theorem Steady.pulseArm {n : Nat} {t : Word} {per w : Nat} (hs : Steady C False l₀ l) :
    Steady C False l₀ (l.pulseArm n t per w) :=
  .armCmp (.updPulse (.pulseDisarm hs))

theorem Steady.pulseUp {n : Nat} {t : Word} (hs : Steady C False l₀ l) : Steady C False l₀ (l.pulseUp n t) :=
  .emit (.updPulse hs)

theorem Steady.late {c : Word} (hs : Steady C Q l₀ l) : Steady C Q l₀ (l.late b c) :=
  .logE (.bump hs)

theorem Steady.fire {c : Cmp} (hs : Steady C Q l₀ l) : Steady C Q l₀ (l.fire c) :=
  { hs with }

theorem Steady.fireCmp {i : Nat} {c : Cmp} (hs : Steady C Q l₀ l) : Steady C Q l₀ (l.fireCmp i c) :=
  .fire { hs with }

theorem Steady.fireLate {old : Word} (hs : Steady C Q l₀ l) : Steady C Q l₀ (l.fireLate b old) :=
  .foldl (fun _ _ hs => .late (.fire hs)) { hs with }

theorem Steady.ftLoad {e : ℤ} (hs : Steady C False l₀ l) : Steady C False l₀ (l.ftLoad b e) :=
  .ite (.fireLate (.gridFollow
    (.foldl (fun _ _ hs => .qwStep hs)
    (.spoilWindow ({ (.setFull hs : Steady C False l₀ (l.setFull (l.ftFull + e * nsUnit))) with })))))
    (.spoilWindow ({ (.setFull hs : Steady C False l₀ (l.setFull (l.ftFull + e * nsUnit))) with }))

theorem Steady.ftStep {e : ℤ} (hs : Steady C False l₀ l) : Steady C False l₀ (l.ftStep b e) :=
  .ftLoad (.ite { hs with } (.logE (.bump { hs with })))

theorem Steady.enterHoldover {why : Nat} (hs : Steady C Q l₀ l) : Steady C Q l₀ (l.enterHoldover b why) :=
  .logE ({ (.setTState hs : Steady C Q l₀ (l.setTState TState.holdover)) with })

theorem Steady.correct {e : ℤ} (hs : Steady C False l₀ l) : Steady C False l₀ (l.correct b e) :=
  .ite (.setTState (.ftStep hs)) { hs with }

theorem Steady.writeTimeInc {v : Word} (hs : Steady C Q l₀ l) : Steady C Q l₀ (l.writeTimeInc b v) :=
  .ite (.put hs) hs

theorem Steady.tinHoldover (hs : Steady C Q l₀ l) : Steady C Q l₀ (l.tinHoldover b) :=
  .ite (.enterHoldover hs) hs

theorem Steady.writeTimeCfg {v : Word} (hs : Steady C Q l₀ l) : Steady C Q l₀ (l.writeTimeCfg b v) :=
  .ite (.put hs) (.tinHoldover (.applyFreerun (.put (.put (.put hs)))))

theorem Steady.pulseDeferred {n : Nat} {d : Word × Nat × Nat} (hs : Steady C False l₀ l) :
    Steady C False l₀ (l.pulseDeferred n d) :=
  .ite (.pulseDisarm hs) (.ite (.ite (.dropCmp (.updPulse (.pulseArm hs))) (.armCmp (.updPulse (.pulseArm hs))))
    (.pulseArm hs))

theorem Steady.sendCtl {n : Nat} {m : CtlMsg} (hs : Steady C Q l₀ l) : Steady C Q l₀ (l.sendCtl n m) :=
  .updLink hs

theorem Steady.bcast {p : Nat} {m : CtlMsg} (hs : Steady C Q l₀ l) : Steady C Q l₀ (l.bcast p m) :=
  .foldl (fun _ _ hs => .sendCtl hs) hs

theorem Steady.answerLeft {p : Nat} (hs : Steady C Q l₀ l) : Steady C Q l₀ (l.answerLeft b p) := by
  unfold Live.answerLeft
  dsimp only
  split
  · exact .ite (.foldl (fun _ _ hs => .reply hs) (.updPlan hs))
      (.reply (.updPlan (.foldl (fun _ _ hs => .reply hs) (.updPlan hs))))
  · exact .foldl (fun _ _ hs => .reply hs) (.updPlan hs)

theorem Steady.rplPut {r : Rec} (hs : Steady C Q l₀ l) : Steady C Q l₀ (l.rplPut b r) :=
  .celWrite ({ (.number hs : Steady C Q l₀ ((l.number r).1)) with })

theorem Steady.rplEnd {status : Nat} (hs : Steady C Q l₀ l) : Steady C Q l₀ (l.rplEnd b status) := by
  unfold Live.rplEnd
  extract_lets q r l₁ bytes _ _ l₂ l₃
  have h₁ : Steady C Q l₀ l₁ := .rplPut hs
  have h₂ : Steady C Q l₀ l₂ := { h₁ with }
  have h₃ : Steady C Q l₀ l₃ := .ite h₂ (.logE h₂)
  split
  · exact .reply h₃
  · exact h₃

theorem Steady.rplLog {p kind epoch argw : Nat} {body : List DWord} (hs : Steady C Q l₀ l) :
    Steady C Q l₀ (l.rplLog b p kind epoch argw body) :=
  .ite hs (.ite (.rplEnd hs) (.rplPut hs))

theorem Steady.rplEpochDone {p e : Nat} (hs : Steady C Q l₀ l) : Steady C Q l₀ (l.rplEpochDone b p e) :=
  .ite hs (.ite (.rplEnd { hs with }) { hs with })

theorem Steady.addDue {p : Nat} {os : List Occ} (hs : Steady C Q l₀ l) : Steady C Q l₀ (l.addDue p os) := by
  unfold Live.addDue
  exact .updPlan { hs with }

theorem wf_mapSnd {α : Type} {f : Nat × α → α} : ∀ {lo : Nat} {t : Tab α}, Tab.sortedFrom lo t = true →
    Tab.sortedFrom lo (t.map fun e => (e.1, f e)) = true
  | _, [], h => h
  | _, (j, _) :: _, h => by
    simp only [List.map, Tab.sortedFrom, Bool.and_eq_true] at h ⊢
    exact ⟨h.1, wf_mapSnd h.2⟩

theorem Steady.dropPln {p : Nat} (hs : Steady C Q l₀ l) : Steady C Q l₀ (l.dropPln p) :=
  .foldl (fun _ _ hs => .skip hs) { hs with links := fun c => wf_mapSnd (hs.links c) }

theorem Steady.freePlan {p : Nat} (hs : Steady C Q l₀ l) : Steady C Q l₀ (l.freePlan p) := by
  unfold Live.freePlan
  extract_lets l₁ l₂ l₃ eng trace
  have h₂ : Steady C Q l₀ l₂ :=
    .foldl (fun _ _ hs => .ite (.qwDisable (.updQw hs)) hs) (.dropPlanCmps (.cleanPlan hs))
  clear_value l₂
  have h₃ : Steady C Q l₀ l₃ := .dropPln h₂
  clear_value l₃
  exact { h₃ with
    trees := h₂.trees, eseqs := h₂.eseqs, watches := h₂.watches,
    syncs := fun c => Tab.sortedFrom_filter _ _ _ (h₂.syncs c)
    live := fun c => Tab.sortedFrom_filter _ _ _ (h₂.live c) }

theorem Steady.ownSyncs {p : Nat} {g : Image} (hs : Steady C Q l₀ l) : Steady C Q l₀ (l.ownSyncs p g) := by
  refine .foldl (fun l o hs => ?_) hs
  dsimp only
  split
  · exact hs
  · exact { hs with syncs := fun c => Tab.wf_insert (hs.syncs c) _ _ }

theorem Steady.claim {p : Nat} (hs : Steady C Q l₀ l) : Steady C Q l₀ (l.claim b p) :=
  .ite (.foldl (fun _ _ hs => .updQw hs) hs) (.ownSyncs hs)

theorem Steady.claimAll (hs : Steady C Q l₀ l) : Steady C Q l₀ (l.claimAll b) :=
  .foldl (fun _ _ hs => .ite (.claim hs) hs) hs

theorem Steady.dropCond {p : Nat} (hs : Steady C Q l₀ l) : Steady C Q l₀ (l.dropCond p) :=
  .foldl (fun _ _ hs => .updPlan (.dropCmp hs)) hs

theorem Steady.endPlan {p status why : Nat} (hs : Steady C Q l₀ l) : Steady C Q l₀ (l.endPlan b p status why) := by
  refine .seqTurn (.foldl (fun _ _ hs => .reply hs) ?_)
  split
  · exact .reply (.claimAll (.updPlan (.freePlan (.ite (.dropCond (.ite (.rplEnd hs) hs)) (.ite (.rplEnd hs) hs)))))
  · exact .claimAll (.updPlan (.freePlan (.ite (.dropCond (.ite (.rplEnd hs) hs)) (.ite (.rplEnd hs) hs))))

theorem Steady.abortCopy {p why : Nat} (hs : Steady C Q l₀ l) : Steady C Q l₀ (l.abortCopy b p why) :=
  .ite (.ownCmds (.endPlan hs)) (.endPlan hs)

theorem Steady.abortPlan {p reason : Nat} (hs : Steady C Q l₀ l) : Steady C Q l₀ (l.abortPlan b p reason) :=
  .ite hs (.abortCopy (.ite (.bcast (.updPlan hs)) hs))

theorem Steady.abortUp {p : Nat} (hs : Steady C Q l₀ l) : Steady C Q l₀ (l.abortUp p) := by
  unfold Live.abortUp
  dsimp only
  split
  · exact .sendCtl (.updPlan hs)
  · exact hs

theorem Steady.poison {p what : Nat} (hs : Steady C Q l₀ l) : Steady C Q l₀ (l.poison b p what) :=
  .ite hs (.ite (.logE hs) (.ite (.abortPlan (.logE hs)) (.abortCopy (.abortUp (.logE hs)))))

theorem Steady.readsPlan {p : Nat} {f : Live → Live} (hs : Steady C Q l₀ l)
    (hf : ∀ l, Steady C Q l₀ l → Steady C Q l₀ (f l)) : Steady C Q l₀ (l.readsPlan b p f) :=
  .ite (.poison (.meet hs)) (hf _ hs)

theorem Steady.readsPart {p : Nat} {f : Live → Live} (hs : Steady C Q l₀ l)
    (hf : ∀ l, Steady C Q l₀ l → Steady C Q l₀ (f l)) : Steady C Q l₀ (l.readsPart b p f) :=
  .ite (.poison (.meet hs)) (hf _ hs)

theorem Steady.subject {k : Nat × Nat} {bad : Bool} {f : Live → Live} (hs : Steady C Q l₀ l)
    (hf : ∀ l, Steady C Q l₀ l → Steady C Q l₀ (f l)) : Steady C Q l₀ (l.subject k bad f) :=
  .ite (.ite hs (hf _ { hs with })) { hs with }

theorem Steady.checkBuoys (hs : Steady C Q l₀ l) : Steady C Q l₀ (l.checkBuoys b) :=
  .ite hs (.foldl (fun _ _ hs => .subject hs (fun _ hs => .logE hs)) hs)

theorem Steady.updCtr {i : Nat} {f : Ctr → Ctr} (hs : Steady C Q l₀ l) : Steady C Q l₀ (l.updCtr i f) :=
  { hs with ctrs := fun c => Tab.wf_upd (hs.ctrs c) _ _ _ }

/-- A change of the counters, which may take free values. -/
theorem Steady.setCtrs {t : Tab Ctr} {n : Nat} (hs : Steady C Q l₀ l) (ht : C → Tab.wf t = true) :
    Steady C Q l₀ { l with samp := { l.samp with ctrs := t }, free := n } :=
  { hs with ctrs := ht }

theorem Steady.tapEdge (hs : Steady C Q l₀ l) : Steady C Q l₀ (l.tapEdge b) :=
  .setCtrs hs fun c => wf_mapVal (hs.ctrs c)

theorem Steady.ctrDone {r : Ret} {lost arg : Nat} {ws : List DWord} (hs : Steady C Q l₀ l) :
    Steady C Q l₀ (l.ctrDone b r lost arg ws) :=
  .ite (.reply hs) (.reply (.bump hs))

theorem Steady.ctrRead {p : Packet} {silent : List Nat} {r : Ret} (hs : Steady C Q l₀ l) :
    Steady C Q l₀ (l.ctrRead b p silent r) := by
  unfold Live.ctrRead
  dsimp only
  split
  · exact .reply hs
  · exact .ite (.reply (.foldl (fun _ _ hs => .meet hs) hs))
      (.ctrDone (.ite (.foldl (fun _ _ hs => .ite hs (.updCtr hs)) hs) hs))

theorem Steady.ctrSetup {i : Nat} {w : DWord} (hs : Steady C Q l₀ l) : Steady C Q l₀ (l.ctrSetup i w) :=
  { (.updCtr hs : Steady C Q l₀ (l.updCtr i fun c =>
  { cfg := w, val := 0, ovf := false,
    prev :=
      match l.cfgLine w with
      | some x => Config.tapLine l.free x
      | none => false,
    snap := c.snap })) with }

theorem Steady.ctrConfig {p : Packet} {silent : List Nat} {r : Ret} (hs : Steady C Q l₀ l) :
    Steady C Q l₀ (l.ctrConfig b p silent r) := by
  unfold Live.ctrConfig
  dsimp only
  split
  · exact .reply hs
  · exact .ctrDone (.foldl (fun _ _ hs => .ite hs (.ctrSetup hs)) hs)

theorem Steady.ctrFreeze {p : Packet} {silent : List Nat} {f : Ctr → Ctr} {r : Ret} (hs : Steady C Q l₀ l) :
    Steady C Q l₀ (l.ctrFreeze b p silent f r) := by
  unfold Live.ctrFreeze
  dsimp only
  split
  · exact .reply hs
  · exact .ctrDone (.foldl (fun _ _ hs => .ite hs (.updCtr (.clean hs))) hs)

theorem Steady.updPcs {k : Nat} {f : Pcs → Pcs} (hs : Steady C Q l₀ l) : Steady C Q l₀ (l.updPcs k f) :=
  { hs with pcs := fun c => Tab.wf_upd (hs.pcs c) _ _ _ }

theorem Steady.pcsSeal {k : Nat} (hs : Steady C Q l₀ l) : Steady C Q l₀ (l.pcsSeal b k) :=
  .create (.updPcs hs)

theorem Steady.checkRetired {unit : Nat} (hs : Steady C Q l₀ l) : Steady C Q l₀ (l.checkRetired b unit) :=
  .ite (.subject hs (fun _ hs => .logE hs)) hs

theorem Steady.pcsKeep {k : Nat} {e : PcEnt} (hs : Steady C Q l₀ l) : Steady C Q l₀ (l.pcsKeep b k e) :=
  .ite (.updPcs hs) (.ite (.updPcs (.bump (.updPcs hs))) (.ite (.pcsSeal (.updPcs (.updPcs hs)))
    (.updPcs (.updPcs hs))))

theorem Steady.writePcsCfg {k v : Nat} (hs : Steady C Q l₀ l) : Steady C Q l₀ (l.writePcsCfg b k v) :=
  .ite (.put (.put (.put (.put (.put (.put hs)))))) (.updPcs (.put (.put (.put (.put (.put (.put hs)))))))

/-- A change of the watch objects. -/
theorem Steady.setWatches {t : Tab Watch} (hs : Steady C Q l₀ l) (ht : C → Tab.wf t = true) :
    Steady C Q l₀ { l with trace := { l.trace with watches := t } } :=
  { hs with watches := ht }

theorem Steady.retireWatch {p : Nat} (hs : Steady C Q l₀ l) : Steady C Q l₀ (l.retireWatch p) :=
  .setWatches hs fun c => wf_mapVal (hs.watches c)

theorem Steady.sourcesSwitch {u : Nat} (hs : Steady C Q l₀ l) : Steady C Q l₀ (l.sourcesSwitch u) :=
  .setCtrs hs fun c => wf_mapVal (hs.ctrs c)

theorem Steady.remapDone {j : RemapJob} (hs : Steady C Q l₀ l) : Steady C Q l₀ (l.remapDone b j) :=
  .reply (.ite { hs with remaps := fun c => Tab.wf_insert (hs.remaps c) _ _ }
    (.sourcesSwitch { hs with remaps := fun c => Tab.wf_insert (hs.remaps c) _ _ }))

theorem Steady.remapLost {j : RemapJob} (hs : Steady C Q l₀ l) : Steady C Q l₀ (l.remapLost b j) :=
  .remapDone (.logE (.setCtrs hs fun c => wf_mapVal (hs.ctrs c)))

theorem Steady.writeTapBind {i : Nat} {v : Word} (hs : Steady C Q l₀ l) : Steady C Q l₀ (l.writeTapBind i v) := by
  unfold Live.writeTapBind
  split
  · exact hs
  · exact { hs with binds := fun c => Tab.wf_insert (hs.binds c) _ _ }

theorem Steady.countRead {s : Nat} {x : SerRead} (hs : Steady C Q l₀ l) : Steady C Q l₀ (l.countRead b s x) :=
  .foldl (fun _ _ hs => .logE (.bump hs)) (.when (.foldl (fun _ _ hs => .celRead hs) hs) (fun _ hs => .bump hs))

theorem Steady.offer {f : Nat → Nat → List SVal} (hs : Steady C Q l₀ l) : Steady C Q l₀ (l.offer b f) := by
  unfold Live.offer
  dsimp only
  split
  · exact .bump { hs with }
  · exact { hs with }

theorem Steady.startLives {p : Nat} (hs : Steady C Q l₀ l) : Steady C Q l₀ (l.startLives b p) := by
  refine .foldl (fun l i hs => .ite (.foldl (fun l j hs => ?_) hs) hs) hs
  exact { hs with live := fun c => Tab.wf_insert (hs.live c) _ _ }

theorem Steady.armCounts {p : Nat} {s d : Word} {td : Bool} (hs : Steady C Q l₀ l) :
    Steady C Q l₀ (l.armCounts p s d td) :=
  .ite (.armCmp (.armCmp hs)) (.armCmp hs)

theorem Steady.enterArmed {p : Nat} (hs : Steady C Q l₀ l) : Steady C Q l₀ (l.enterArmed b p) :=
  .claim (.updPlan hs)

theorem Steady.enterArming {p : Nat} {s d : Word} {td : Bool} (hs : Steady C Q l₀ l) :
    Steady C Q l₀ (l.enterArming b p s d td) :=
  .ownCmds (.armCounts (.setPlan hs))

theorem Steady.rootArm {p : Nat} {s d : Word} {td auto : Bool} (hs : Steady C Q l₀ l) :
    Steady C Q l₀ (l.rootArm b p s d td auto) :=
  .bcast (.updPlan (.enterArming (.updPlan hs)))

theorem Steady.seqMismatch {m : CtlMsg} (hs : Steady C Q l₀ l) : Steady C Q l₀ (l.seqMismatch b m) :=
  .ite (.abortCopy (.logE hs)) hs

theorem Steady.takeBcast {m : CtlMsg} {epoch : Nat} {act : Live → Live} (hs : Steady C Q l₀ l)
    (hact : ∀ l, Steady C Q l₀ l → Steady C Q l₀ (act l)) : Steady C Q l₀ (l.takeBcast b m epoch act) :=
  .ite (.bump hs) (hact _ (.seqMismatch (.ite (.updPlan hs) (.bcast (.updPlan hs)))))

theorem Steady.sendReport {p : Nat} (hs : Steady C Q l₀ l) : Steady C Q l₀ (l.sendReport b p) := by
  refine .ite hs ?_
  split
  · exact .sendCtl (.updPlan hs)
  · exact .updPlan hs

theorem Steady.tryReport {p : Nat} (hs : Steady C Q l₀ l) : Steady C Q l₀ (l.tryReport b p) :=
  .ite (.sendReport hs) hs

theorem Steady.pull {o : Owner} (hs : Steady C Q l₀ l) : Steady C Q l₀ (l.pull o) := by
  refine .ite hs ?_
  split
  · exact .fireCmp hs
  · exact hs

theorem Steady.tearDue {p : Nat} (hs : Steady C Q l₀ l) : Steady C Q l₀ (l.tearDue b p) := by
  unfold Live.tearDue
  dsimp only
  split
  · exact .pull hs
  · split
    · exact .ite (.endPlan (.useFired (.pull hs))) (.updPlan (.useFired (.pull hs)))
    · exact .endPlan (.useFired (.pull hs))

theorem Steady.startQw {p : Nat} {st : Word} (hs : Steady C Q l₀ l) : Steady C Q l₀ (l.startQw b p st) :=
  .foldl (fun _ _ hs => .updQw (.put (.put (.put hs)))) hs

theorem Steady.startCuts {p : Nat} {st : Word} (hs : Steady C Q l₀ l) : Steady C Q l₀ (l.startCuts b p st) :=
  .ite (.updPlan hs) (.armCmp (.updPlan hs))

theorem Steady.armTeardown {p : Nat} {d : Word} {cond : Option Nat} (hs : Steady C Q l₀ l) :
    Steady C Q l₀ (l.armTeardown p d cond) :=
  .updPlan (.armCmp hs)

theorem Steady.passTeardown {p : Nat} {d : Word} (hs : Steady C Q l₀ l) : Steady C Q l₀ (l.passTeardown b p d) :=
  .ownCmds hs

theorem Steady.teardownAt {p : Nat} {d : Word} {cond : Option Nat} (hs : Steady C Q l₀ l) :
    Steady C Q l₀ (l.teardownAt b p d cond) :=
  .ite (.armTeardown hs) (.passTeardown (.bcast (.updPlan (.armTeardown hs))))

theorem Steady.buoyMissed {p loc status : Nat} (hs : Steady C Q l₀ l) : Steady C Q l₀ (l.buoyMissed b p loc status) :=
  .logE (.updPlan hs)

theorem Steady.answerLoads {p : Nat} (hs : Steady C Q l₀ l) : Steady C Q l₀ (l.answerLoads b p) := by
  refine .ite hs ?_
  split
  · refine .reply ?_
    split
    · exact .reply (.updPlan hs)
    · exact .updPlan hs
  · split
    · exact .reply (.updPlan hs)
    · exact .updPlan hs

theorem Steady.planAnswer {use : OwnUse} {p loc status : Nat} (hs : Steady C Q l₀ l) :
    Steady C Q l₀ (l.planAnswer b use p loc status) := by
  unfold Live.planAnswer
  split
  · exact hs
  · exact .answerLoads (.updPlan (.ite hs (.buoyMissed hs)))
  · exact .answerLoads (.updPlan (.ite (.updPlan hs) (.buoyMissed hs)))
  · exact .ite hs (.tryReport (.updPlan (.ite (.updPlan hs) (.logE hs))))
  · exact hs
  · exact .ite hs (.ownCmd hs)
  · refine .ite hs ?_
    extract_lets l gone
    have h : Steady C Q l₀ l := .ite hs (.bump hs)
    split
    · exact .ite (.updPlan h) h
    · exact .updPlan h
  · exact hs

theorem Steady.endGated {reg : Nat} {f : Fld} {i : Nat} (hs : Steady C Q l₀ l) :
    Steady C Q l₀ (l.endGated b reg f i) :=
  .foldl (fun _ _ hs => .ite (.abortPlan (.logE hs)) hs) hs

theorem Steady.autoSwitch {p q : Nat} (hs : Steady C Q l₀ l) : Steady C Q l₀ (l.autoSwitch b p q) := by
  unfold Live.autoSwitch
  dsimp only
  split
  · exact .logE hs
  · exact .rootArm (.teardownAt hs)

theorem Steady.addLost {p t : Nat} (hs : Steady C Q l₀ l) : Steady C Q l₀ (l.addLost b p t) := by
  refine .ite hs (.ite (.updPlan hs) (.ite (.updPlan hs) ?_))
  split
  · exact .ite (.ite (.autoSwitch (.logE (.updPlan (.updPlan hs)))) (.logE (.updPlan (.updPlan hs))))
      (.logE (.updPlan hs))
  · exact .logE (.updPlan hs)

theorem Steady.lossUp {p t epoch : Nat} (hs : Steady C Q l₀ l) : Steady C Q l₀ (l.lossUp p t epoch) := by
  refine .ite hs ?_
  split
  · exact .sendCtl (.updPlan hs)
  · exact .updPlan hs

theorem Steady.lossAt {p t epoch : Nat} (hs : Steady C Q l₀ l) : Steady C Q l₀ (l.lossAt b p t epoch) :=
  .ite (.addLost hs) (.lossUp hs)

theorem Steady.childMissed {p stage place : Nat} {c : Child} {epoch : Nat} (hs : Steady C Q l₀ l) :
    Steady C Q l₀ (l.childMissed b p stage place c epoch) :=
  .ite (.lossAt (.logE (.updPlan (.updPlan hs)))) (.updPlan hs)

theorem Steady.childHeard {p stage place : Nat} (hs : Steady C Q l₀ l) : Steady C Q l₀ (l.childHeard p stage place) :=
  .updPlan hs

theorem Steady.sendPlan {p n use epoch : Nat} {r : Rec} (hs : Steady C Q l₀ l) :
    Steady C Q l₀ (l.sendPlan b p n use epoch r) :=
  .ite (.create hs) (.updLink (.number hs))

theorem Steady.updCut {p : Nat} {f : OpenCut → OpenCut} (hs : Steady C Q l₀ l) : Steady C Q l₀ (l.updCut p f) :=
  .updPlan hs

theorem Steady.settle {p e : Nat} (hs : Steady C Q l₀ l) : Steady C Q l₀ (l.settle b p e) :=
  .ite (.rplEpochDone hs) hs

theorem Steady.occur {p trg : Nat} (hs : Steady C Q l₀ l) : Steady C Q l₀ (l.occur p trg) := by
  unfold Live.occur
  split
  · exact .addDue hs
  · exact hs

theorem Steady.phaseALeft {p e absent still : Nat} (hs : Steady C Q l₀ l) :
    Steady C Q l₀ (l.phaseALeft b p e absent still) := by
  unfold Live.phaseALeft
  dsimp only
  split
  · exact .ite (.occur (.ite (.logE (.bump (.put (.updPlan hs)))) (.put (.updPlan hs))))
      (.ite (.logE (.bump (.put (.updPlan hs)))) (.put (.updPlan hs)))
  · exact .ite (.logE (.bump (.put (.updPlan hs)))) (.put (.updPlan hs))

theorem Steady.phaseBLeft {p e : Nat} (hs : Steady C Q l₀ l) : Steady C Q l₀ (l.phaseBLeft p e) := by
  unfold Live.phaseBLeft
  split
  · exact .ite (.occur hs) hs
  · exact hs

theorem Steady.leftAtOnce {p : Nat} {phaseB : Bool} (hs : Steady C Q l₀ l) :
    Steady C Q l₀ (l.leftAtOnce b p phaseB) := by
  unfold Live.leftAtOnce
  dsimp only
  split
  · exact .settle (.ite hs (.ite (.phaseBLeft hs) (.phaseALeft hs)))
  · exact hs

theorem Steady.epochComplete {p : Nat} {root : Bool} (hs : Steady C Q l₀ l) :
    Steady C Q l₀ (l.epochComplete b p root) := by
  unfold Live.epochComplete
  split
  · exact .ite hs (.ite (.offer (.offer hs)) (.offer hs))
  · exact hs

theorem Steady.sendResult {p use epoch : Nat} {a : Machine.Part} {body : List DWord} (hs : Steady C Q l₀ l) :
    Steady C Q l₀ (l.sendResult b p use epoch a body) :=
  .foldl (fun _ _ hs => .sendPlan hs) hs

theorem Steady.giveThresholds {p : Nat} {thr : List Thr} {r : Rec} (hs : Steady C Q l₀ l) :
    Steady C Q l₀ (l.giveThresholds b p thr r) := by
  unfold Live.giveThresholds
  dsimp only
  split
  · exact .ite (.updCut hs) (.foldl (fun _ _ hs => .toBuoy hs) (.updCut hs))
  · exact hs

theorem Steady.rootThresholds {p : Nat} (hs : Steady C Q l₀ l) : Steady C Q l₀ (l.rootThresholds b p) := by
  unfold Live.rootThresholds
  dsimp only
  split
  · refine .ite hs (.ite (.giveThresholds (.sendResult hs)) (.giveThresholds (.foldl (fun _ _ hs => .updLink hs) ?_)))
    split
    · exact .foldl (fun _ _ hs => .sendPlan hs) (.updLink (.number hs))
    · exact .number hs
  · exact hs

theorem Steady.rootA {p : Nat} (hs : Steady C Q l₀ l) : Steady C Q l₀ (l.rootA b p) := by
  unfold Live.rootA
  split
  · exact .leftAtOnce (.epochComplete (.rootThresholds (.foldl (fun _ _ hs => .sendResult hs) hs)))
  · exact hs

theorem Steady.rootB {p : Nat} (hs : Steady C Q l₀ l) : Steady C Q l₀ (l.rootB b p) := by
  unfold Live.rootB
  dsimp only
  split
  · exact .leftAtOnce (.ite (.sendResult (.ite hs (.sendResult hs))) (.ite hs (.sendResult hs)))
  · exact hs

theorem Steady.logStage {p : Nat} {o : OpenCut} {st : Nat} {phaseB : Bool} {arrived : Nat → Bool}
    (hs : Steady C Q l₀ l) :
    Steady C Q l₀ (l.logStage b p o st phaseB arrived) :=
  .rplLog hs

theorem Steady.decideA {p st : Nat} {arrived : Nat → Bool} (hs : Steady C Q l₀ l) :
    Steady C Q l₀ (l.decideA b p st arrived) := by
  refine .readsPart hs fun l hs => ?_
  extract_lets x g kids s
  split
  · exact hs
  · extract_lets l₁ part l₂ l₃ l₄ l₅
    have h₂ : Steady C Q l₀ l₂ := .updCut (.logStage hs)
    have h₃ : Steady C Q l₀ l₃ := .ite h₂ (.foldl (fun _ _ hs => .ite (.childHeard hs) (.childMissed hs)) h₂)
    exact .ite (.leftAtOnce (.epochComplete (.foldl (fun _ _ hs => .sendPlan hs) (.updCut h₃)))) (.ite (.rootA h₃) h₃)

theorem Steady.climbA {p n : Nat} (hs : Steady C Q l₀ l) : Steady C Q l₀ (l.climbA b p n) := by
  induction n generalizing l with
  | zero => exact hs
  | succ n ih =>
    unfold Live.climbA
    split
    · exact .ite (ih (.decideA hs)) hs
    · exact hs

theorem Steady.decideB {p st : Nat} {arrived : Nat → Nat → Bool} (hs : Steady C Q l₀ l) :
    Steady C Q l₀ (l.decideB b p st arrived) := by
  refine .readsPart hs fun l hs => ?_
  dsimp only
  split
  · exact hs
  · refine .ite (.leftAtOnce (.ite (.sendPlan ?_) ?_)) (.ite (.rootB (.updCut (.logStage hs)))
      (.updCut (.logStage hs)))
    · exact .ite (.sendPlan (.updCut (.updCut (.logStage hs)))) (.updCut (.updCut (.logStage hs)))
    · exact .ite (.sendPlan (.updCut (.updCut (.logStage hs)))) (.updCut (.updCut (.logStage hs)))

theorem Steady.climbB {p n : Nat} (hs : Steady C Q l₀ l) : Steady C Q l₀ (l.climbB b p n) := by
  induction n generalizing l with
  | zero => exact hs
  | succ n ih =>
    unfold Live.climbB
    split
    · exact .ite (ih (.decideB hs)) hs
    · exact hs

theorem Steady.closeLeaf {p : Nat} {present : Nat → Bool} (hs : Steady C Q l₀ l) :
    Steady C Q l₀ (l.closeLeaf b p present) := by
  unfold Live.closeLeaf
  dsimp only
  split
  · exact hs
  · exact .climbA (.ite (.rplLog (.rplLog (.updCut hs))) (.offer (.rplLog (.rplLog (.updCut hs)))))

theorem Steady.canaryNotRun {p e : Nat} (hs : Steady C Q l₀ l) : Steady C Q l₀ (l.canaryNotRun b p e) :=
  .logE (.put hs)

theorem Steady.closeB {p : Nat} (hs : Steady C Q l₀ l) : Steady C Q l₀ (l.closeB b p) := by
  unfold Live.closeB
  dsimp only
  split
  · exact hs
  · exact .climbB (.rplLog (.updCut (.ite (.canaryNotRun hs) hs)))

theorem Steady.armCut {p : Nat} {t : Word} {e : Nat} (hs : Steady C Q l₀ l) : Steady C Q l₀ (l.armCut p t e) :=
  .updPlan (.armCmp hs)

theorem Steady.callBuoys {p : Nat} {t : Word} {e : Nat} (hs : Steady C Q l₀ l) :
    Steady C Q l₀ (l.callBuoys b p t e) :=
  .ownCmds hs

theorem Steady.cutAtBuoy {p : Nat} {t : Word} {e : Nat} {r : Ret} (hs : Steady C Q l₀ l) :
    Steady C Q l₀ (l.cutAtBuoy b p t e r) := by
  unfold Live.cutAtBuoy
  dsimp only
  split
  · exact .reply hs
  · exact .reply (.armCut hs)

theorem Steady.cutAtRoot {p : Nat} {t : Word} {r : Ret} {c : Instr} (hs : Steady C Q l₀ l) :
    Steady C Q l₀ (l.cutAtRoot b p t r c) := by
  unfold Live.cutAtRoot
  dsimp only
  split
  · exact .reply hs
  · exact .answerLeft (.callBuoys (.bcast (.updPlan (.armCut (.hold hs)))))

theorem Steady.latchBuoy {p : Nat} {t : Word} {e : Nat} (hs : Steady C Q l₀ l) : Steady C Q l₀ (l.latchBuoy p t e) :=
  by
  unfold Live.latchBuoy
  exact .updPlan (.clean hs)

theorem Steady.openCut {p : Nat} {t : Word} {e : Nat} {litems : List Word} (hs : Steady C Q l₀ l) :
    Steady C Q l₀ (l.openCut b p t e litems) := by
  unfold Live.openCut
  exact .updPlan (.clean hs)

theorem Steady.rplStart {p : Nat} {t : Word} {e : Nat} (hs : Steady C Q l₀ l) : Steady C Q l₀ (l.rplStart b p t e) :=
  by
  refine .ite hs (.ite (.foldl (fun _ _ hs => .rplLog hs)
    (.foldl (fun _ _ hs => .ite (.foldl (fun _ _ hs => ?_) hs) hs) (.rplLog { hs with })))
    (.foldl (fun _ _ hs => .ite (.foldl (fun _ _ hs => ?_) hs) hs) (.rplLog { hs with })))
  · split
    · exact .rplLog hs
    · exact hs
  · split
    · exact .rplLog hs
    · exact hs

theorem Steady.cutItemsStale {p tap : Nat} (hs : Steady C Q l₀ l) : Steady C Q l₀ (l.cutItemsStale b p tap) := by
  unfold Live.cutItemsStale
  dsimp only
  split
  · exact .ite hs (.updPlan (.bump hs))
  · exact hs

theorem Steady.readLatch {p : Nat} (hs : Steady C Q l₀ l) : Steady C Q l₀ (l.readLatch b p).1 :=
  .meet (.meet hs)

theorem Steady.takeVec {p loc : Nat} {r : Rec} (hs : Steady C Q l₀ l) : Steady C Q l₀ (l.takeVec b p loc r) :=
  .updCut (.rplLog hs)

theorem Steady.takeFrag {p st i : Nat} {r : Rec} (hs : Steady C Q l₀ l) : Steady C Q l₀ (l.takeFrag b p st i r) :=
  .ite (.updCut (.rplLog hs)) (.ite (.climbA (.updCut (.rplLog hs))) (.climbB (.updCut (.rplLog hs))))

theorem Steady.buoyB {p kind : Nat} {k : Kept} {poison : Bool} {n : Nat} {body : List DWord} (hs : Steady C Q l₀ l) :
    Steady C Q l₀ (l.buoyB b p kind k poison n body) :=
  .create hs

theorem Steady.buoyCan {p : Nat} {k : Kept} {c : CanOut} (hs : Steady C Q l₀ l) : Steady C Q l₀ (l.buoyCan b p k c) :=
  .buoyB (.readLatch hs)

theorem Steady.issueRead {n : Nat} {d : Load} {o : Nat} (hs : Steady C Q l₀ l) : Steady C Q l₀ (l.issueRead n d o) :=
  .updLink { hs with }

theorem Steady.issueReads {fuel : Nat} (hs : Steady C Q l₀ l) : Steady C Q l₀ (l.issueReads b fuel) := by
  induction fuel generalizing l with
  | zero => exact hs
  | succ fuel ih =>
    unfold Live.issueReads
    dsimp only
    split
    · exact ih (.issueRead hs)
    · exact hs

theorem Steady.updLoad {no : Nat} {f : Load → Load} (hs : Steady C Q l₀ l) : Steady C Q l₀ (l.updLoad no f) :=
  { hs with }

theorem Steady.endLoad {d : Load} {status arg : Nat} (hs : Steady C Q l₀ l) :
    Steady C Q l₀ (l.endLoad b d status arg) := by
  refine .reply ?_
  split
  · exact .ite { hs with } (.ite (.setSlot (.bump { hs with })) (.bump { hs with }))
  · exact { hs with }

theorem Steady.sendSection {p : Nat} {ks : List Nat} {ws : List DWord} {crc : Nat} (hs : Steady C Q l₀ l) :
    Steady C Q l₀ (l.sendSection b p ks ws crc) :=
  .foldl (fun _ _ hs => .ownCmds hs) hs

theorem Steady.planLoaded {d : Load} (hs : Steady C Q l₀ l) : Steady C Q l₀ (l.planLoaded b d) := by
  unfold Live.planLoaded
  dsimp only
  split
  · exact .endLoad hs
  · split
    · exact .ite (.endLoad (.setPlan (.clean hs)))
        (.sendSection (.setPlan
        ({ (.clean hs : Steady C Q l₀ (l.clean (Holder.plan (imgPlan (prefixWords d.got 0))))) with })))
    · exact .endLoad (.setPlan (.clean hs))

theorem Steady.planData {d : Load} (hs : Steady C Q l₀ l) : Steady C Q l₀ (l.planData b d) := by
  refine .ite (.planLoaded hs) (.ite hs ?_)
  split
  · exact .endLoad hs
  · exact hs

theorem Steady.modelFill {d : Load} {isSeq : Bool} {k : Nat} (hs : Steady C Q l₀ l) :
    Steady C Q l₀ (l.modelFill b d isSeq k) := by
  refine .ite hs ?_
  split
  · exact .endLoad hs
  · exact .endLoad (.setSlot hs)

theorem Steady.modelStart {d : Load} {isSeq : Bool} {k : Nat} (hs : Steady C Q l₀ l) :
    Steady C Q l₀ (l.modelStart b d isSeq k) :=
  .ite (.updLoad hs) (.modelFill (.setSlot (.updLoad (.clean hs))))

theorem Steady.modelGo {d : Load} {isSeq : Bool} {k : Nat} (hs : Steady C Q l₀ l) :
    Steady C Q l₀ (l.modelGo b d isSeq k) := by
  unfold Live.modelGo
  dsimp only
  split
  · exact .endLoad hs
  · exact .modelStart hs

theorem Steady.modelData {d : Load} {isSeq : Bool} {k : Nat} (hs : Steady C Q l₀ l) :
    Steady C Q l₀ (l.modelData b d isSeq k) := by
  refine .ite hs (.ite (.modelFill hs) (.ite (.ite hs ?_) (.ite hs ?_)))
  · split
    · exact .endLoad hs
    · exact .modelStart hs
  · split
    · exact .endLoad hs
    · exact .modelStart hs

theorem Steady.loadData {no : Nat} (hs : Steady C Q l₀ l) : Steady C Q l₀ (l.loadData b no) := by
  unfold Live.loadData
  split
  · exact hs
  · split
    · exact .planData hs
    · exact .modelData hs

theorem Steady.beginLoad {r : Ret} {c : Instr} {p : Packet} {model : Option (Bool × Nat)} (hs : Steady C Q l₀ l) :
    Steady C Q l₀ (l.beginLoad b r c p model) := by
  have h : Steady C Q l₀ (l.hold r c) := .hold hs
  exact .issueReads { h with }

theorem Steady.planLoadL {p : Packet} {r : Ret} (hs : Steady C Q l₀ l) : Steady C Q l₀ (l.planLoadL b p r) := by
  unfold Live.planLoadL
  dsimp only
  split
  · exact .reply hs
  · exact .beginLoad hs

theorem Steady.rejectModel {r : Ret} {isSeq : Bool} {e : Nat} (hs : Steady C Q l₀ l) :
    Steady C Q l₀ (l.rejectModel b r isSeq e) :=
  .reply (.bump hs)

theorem Steady.modelLoadL {p : Packet} {r : Ret} (hs : Steady C Q l₀ l) : Steady C Q l₀ (l.modelLoadL b p r) := by
  unfold Live.modelLoadL
  dsimp only
  split
  · exact .rejectModel hs
  · refine .ite (.beginLoad hs) ?_
    split
    · exact .modelStart (.beginLoad hs)
    · exact .beginLoad hs

theorem Steady.planLoadB {p : Packet} {r : Ret} (hs : Steady C Q l₀ l) : Steady C Q l₀ (l.planLoadB b p r) := by
  unfold Live.planLoadB
  dsimp only
  split
  · exact .reply (.ite (.ite (.setPlan hs) hs) hs)
  · exact .ite (.reply (.setPlan hs))
      (.ite (.reply (.setPlan (.clean hs))) (.ite (.reply (.setPlan (.clean hs))) (.reply (.setPlan (.clean hs)))))

theorem Steady.modelFinalB {p : Packet} {r : Ret} {g : List DWord} {crc : Word} (hs : Steady C Q l₀ l) :
    Steady C Q l₀ (l.modelFinalB b p r g crc) := by
  unfold Live.modelFinalB
  extract_lets _ l₁ len d go
  have h₁ : Steady C Q l₀ l₁ := { hs with }
  have hgo : Steady C Q l₀ (go ()) := .modelStart (.hold { h₁ with })
  refine .ite (.rejectModel h₁) (.ite hgo ?_)
  split
  · exact .rejectModel h₁
  · exact hgo

theorem Steady.modelLoadB {p : Packet} {r : Ret} (hs : Steady C Q l₀ l) : Steady C Q l₀ (l.modelLoadB b p r) :=
  .ite (.rejectModel { hs with }) (.ite (.modelFinalB hs) (.reply { hs with }))

theorem Steady.frameErr {n : Nat} (hs : Steady C Q l₀ l) : Steady C Q l₀ (l.frameErr b n) :=
  .updLink (.bump hs)

theorem Steady.readsLost {n : Nat} (hs : Steady C Q l₀ l) : Steady C Q l₀ (l.readsLost b n) :=
  .ite (.foldl (fun _ _ hs => .endLoad hs) (.updLink hs)) (.issueReads (.updLink hs))

theorem Steady.writeSchCtl {v : Word} (hs : Steady C Q l₀ l) : Steady C Q l₀ (l.writeSchCtl b v) :=
  .ite (.put hs) (.ite hs (.ite (.put (.put hs)) (.put hs)))

theorem Steady.backlog {p engine : Nat} (hs : Steady C Q l₀ l) : Steady C Q l₀ (l.backlog b p engine) :=
  .abortPlan (.logE (.bump hs))

theorem Steady.freeBarrier {p k : Nat} {o : Occ} {shut : Nat → Bool} (hs : Steady C Q l₀ l) :
    Steady C Q l₀ (l.freeBarrier p k o shut) :=
  .addDue (.updPlan hs)

theorem Steady.arriveAt {p k : Nat} {o : Occ} (hs : Steady C Q l₀ l) : Steady C Q l₀ (l.arriveAt p k o) := by
  unfold Live.arriveAt
  split
  · exact .ite hs (.ite (.freeBarrier { hs with syncs := fun c => Tab.wf_insert (hs.syncs c) _ _ })
      { hs with syncs := fun c => Tab.wf_insert (hs.syncs c) _ _ })
  · exact hs

theorem Steady.actionDone {p : Nat} {o : Occ} {rest : List Occ} (hs : Steady C Q l₀ l) :
    Steady C Q l₀ (l.actionDone b p o rest) := by
  unfold Live.actionDone
  extract_lets a l₁ _ l₂ l₃
  have h₁ : Steady C Q l₀ l₁ := .updPlan hs
  have h₂ : Steady C Q l₀ l₂ := { h₁ with }
  exact .seqTurn (.settle (.ite (.arriveAt h₂) h₂))

theorem Steady.sendAction {p ty stream : Nat} {inex : Bool} {body : List DWord} (hs : Steady C Q l₀ l) :
    Steady C Q l₀ (l.sendAction b p ty stream inex body) :=
  .create hs

theorem Steady.rplStop {status : Nat} (hs : Steady C Q l₀ l) : Steady C Q l₀ (l.rplStop b status) := by
  refine .seqTurn ?_
  split
  · exact .reply (.updPlan (.freePlan (.ite { hs with } (.logE { hs with }))))
  · exact .updPlan (.freePlan (.ite { hs with } (.logE { hs with })))

theorem Steady.actionPoison {p : Nat} (hs : Steady C Q l₀ l) : Steady C Q l₀ (l.actionPoison b p) :=
  .ite (.rplStop hs) (.poison hs)

/-- A fold whose state carries a flag beside the live part. -/
theorem Steady.foldlPair {α β : Type} {f : Live × β → α → Live × β}
    (hf : ∀ q a, Steady C Q l₀ q.1 → Steady C Q l₀ (f q a).1) {q : Live × β} {as : List α} (hs : Steady C Q l₀ q.1) :
    Steady C Q l₀ (as.foldl f q).1 := by
  induction as generalizing q with
  | nil => exact hs
  | cons a as ih => exact ih (hf q a hs)

theorem Steady.readSamples {k : Nat} {xs : List (List (Option Word))} {own : Nat → Holder} (hs : Steady C Q l₀ l) :
    Steady C Q l₀ (l.readSamples b k xs own).1 := by
  refine .foldlPair (fun q i hq => ?_) hs
  split
  · exact hq
  · exact .bump (.foldl (fun _ _ hs => .ueSeen hs) hq)

theorem Steady.serRun {p : Nat} {a : Action} {k : SeqBlk} {epoch s gen : Nat} {first : Word} {len : Nat}
    {h : List Word} (hs : Steady C Q l₀ l) : Steady C Q l₀ (l.serRun b p a k epoch s gen first len h).1 := by
  unfold Live.serRun
  dsimp only
  have hm : Steady C Q l₀ ((l.blkHeads b s (blocksIn first len)).foldl (fun l w => l.rplLog b p 4 epoch s w) l) :=
    .foldl (fun _ _ hs => .rplLog hs) hs
  split
  · exact hs
  · split
    · exact .meet (.countRead hm)
    · split
      · exact .meet (.countRead hm)
      · exact .meet (.countRead hm)

theorem Steady.liveRun {p entry : Nat} {a : Action} {k : SeqBlk} {epoch j s : Nat} (hs : Steady C Q l₀ l) :
    Steady C Q l₀ (l.liveRun b p entry a k epoch j s).1 := by
  unfold Live.liveRun
  extract_lets g key x on
  split
  extract_lets lag l₁ fresh first h
  have h₁ : Steady C Q l₀ l₁ := .when hs fun _ hs => .bump hs
  split
  · exact .meet h₁
  · have hr (gen len) : Steady C Q l₀ ((l₁.clean (.live key)).serRun b p a k epoch s gen first len h).1 :=
      .serRun (.clean h₁)
    exact { hr _ _ with live := fun c => Tab.wf_insert ((hr _ _).live c) _ _ }

theorem Steady.windowRun {p : Nat} {a : Action} {k : SeqBlk} {epoch s : Nat} (hs : Steady C Q l₀ l) :
    Steady C Q l₀ (l.windowRun b p a k epoch s).1 :=
  .serRun hs

theorem Steady.canaryRan {p e units pipes bin : Nat} (hs : Steady C Q l₀ l) :
    Steady C Q l₀ (l.canaryRan b p e units pipes bin) := by
  unfold Live.canaryRan
  extract_lets _ _ _ _ _ _ l
  have h : Steady C Q l₀ l := .put (.put (.setMemRuns (.put (.put (.put hs)))))
  exact .ite (.bump h) (.logE (.put (.put (.bump h))))

theorem Steady.keepCanary {p : Nat} {c : CanOut} (hs : Steady C Q l₀ l) : Steady C Q l₀ (l.keepCanary b p c) := by
  unfold Live.keepCanary
  split
  · exact .ite (.buoyCan (.updPlan hs)) (.updPlan hs)
  · exact hs

theorem Steady.noteRoute {r : Rec} {c : Nat} (hs : Steady C Q l₀ l) : Steady C Q l₀ (l.noteRoute r c) :=
  .noteKey hs

theorem Steady.updQue {q : Nat} {f : Que → Que} (hs : Steady C Q l₀ l) : Steady C Q l₀ (l.updQue q f) :=
  { hs with ques := fun c => Tab.wf_upd (hs.ques c) _ _ _ }

theorem Steady.midWrite {q k : Nat} (hs : Steady C Q l₀ l) : Steady C Q l₀ (l.midWrite b q k) :=
  .ite (.ite hs (.emit hs)) (.celWrite hs)

theorem Steady.midRead {q k : Nat} (hs : Steady C Q l₀ l) : Steady C Q l₀ (l.midRead b q k) :=
  .ite (.ite hs (.emit hs)) (.celRead hs)

theorem Steady.readRec {x : QRec} (hs : Steady C Q l₀ l) : Steady C Q l₀ (l.readRec b x).1 := by
  unfold Live.readRec
  split
  · exact .ueSeen hs
  · exact hs

theorem Steady.readPage {q k : Nat} (hs : Steady C Q l₀ l) : Steady C Q l₀ (l.readPage b q k) :=
  .ite hs (.updQue (.foldl (fun _ _ hs => .readRec hs) hs))

theorem Steady.updRun {e : Nat} {f : QRun → QRun} (hs : Steady C Q l₀ l) : Steady C Q l₀ (l.updRun e f) :=
  { hs with runs := fun c => Tab.wf_upd (hs.runs c) _ _ _ }

theorem Steady.tagHead {q : Nat} (hs : Steady C Q l₀ l) : Steady C Q l₀ (l.tagHead b q) := by
  unfold Live.tagHead
  dsimp only
  split
  · exact .ite hs (.updQue hs)
  · exact hs

theorem Steady.settleQue {q : Nat} (hs : Steady C Q l₀ l) : Steady C Q l₀ (l.settleQue b q) :=
  .tagHead (.ite (.foldl (fun _ _ hs => .updRun hs) (.updQue hs)) hs)

theorem Steady.popHead {n : Nat} (hs : Steady C Q l₀ l) : Steady C Q l₀ (l.popHead b n).1 := by
  unfold Live.popHead
  split
  · exact hs
  · next r _ =>
    extract_lets l₁ l₂ a l₃ h
    have h₁ : Steady C Q l₀ l₁ := .updQue hs
    have h₃ : Steady C Q l₀ l₃ := .readRec (.ite (.updQue h₁) h₁)
    split
    · split
      · exact .settleQue (.updRun h₃)
      · exact .settleQue h₃
    · exact .settleQue h₃

theorem Steady.vecDropped {r : Rec} (hs : Steady C Q l₀ l) : Steady C Q l₀ (l.vecDropped b r) := by
  refine .ite ?_ hs
  split
  · exact .bump hs
  · exact hs

theorem Steady.discardAt {q i cause : Nat} (hs : Steady C Q l₀ l) : Steady C Q l₀ (l.discardAt b q i cause) := by
  unfold Live.discardAt
  split
  · exact hs
  · exact .settleQue (.vecDropped (.bump (.updQue hs)))

theorem Steady.makeRoom {n len k : Nat} (hs : Steady C Q l₀ l) : Steady C Q l₀ (l.makeRoom b n len k) := by
  induction k generalizing l with
  | zero => exact hs
  | succ k ih =>
    unfold Live.makeRoom
    refine .ite hs ?_
    extract_lets x
    split
    · exact ih (.discardAt hs)
    · exact hs

theorem Steady.append {q : Nat} {r : Rec} {held : Bool} {m : Nat × Nat × Nat} (hs : Steady C Q l₀ l) :
    Steady C Q l₀ (l.append b q r held m) :=
  .settleQue (.foldl (fun _ _ hs => .midWrite (.readPage hs)) (.updQue hs))

theorem Steady.release_ {q : Nat} (hs : Steady C Q l₀ l) : Steady C Q l₀ (l.release_ b q) :=
  .settleQue (.updQue hs)

theorem Steady.notice {q : Nat} {f : Fld} (hs : Steady C Q l₀ l) : Steady C Q l₀ (l.notice b q f) :=
  .release_ (.bump hs)

theorem Steady.enter {q : Nat} {r : Rec} {cycles : Nat} {m : Nat × Nat × Nat} (hs : Steady C Q l₀ l) :
    Steady C Q l₀ (l.enter b q r cycles m) :=
  .ite (.release_ (.append hs)) (.ite (.notice (.append hs)) (.ite (.notice (.append hs)) (.append hs)))

theorem Steady.joinRun {e : Nat} {r : Rec} (hs : Steady C Q l₀ l) : Steady C Q l₀ (l.joinRun e r) :=
  .updRun hs

theorem Steady.fullNotice {q : Nat} (hs : Steady C Q l₀ l) : Steady C Q l₀ (l.fullNotice b q) :=
  .ite (.notice hs) hs

theorem Steady.tailGap {n : Nat} {r : Rec} {cause : Nat} (hs : Steady C Q l₀ l) :
    Steady C Q l₀ (l.tailGap b n r cause).1 := by
  unfold Live.tailGap
  dsimp only
  split
  · split
    · exact .updQue hs
    · split
      · exact .append hs
      · exact hs
  · split
    · exact .append hs
    · exact hs

theorem Steady.loseRec {n : Nat} {r : Rec} (hs : Steady C Q l₀ l) : Steady C Q l₀ (l.loseRec b n r) := by
  have hl : Steady C Q l₀ ((l.bump b F.QUE_STAT_LOST n).vecDropped b r) := .vecDropped (.bump hs)
  have hg : ∀ (c : Prop) [Decidable c], Steady C Q l₀ (if c then ((l.bump b F.QUE_STAT_LOST n).vecDropped b r, false)
      else ((l.bump b F.QUE_STAT_LOST n).vecDropped b r).tailGap b n r 1).1 := by
    intro c _
    split
    · exact hl
    · exact .tailGap hl
  refine .ite (hg _) ?_
  split
  · exact .joinRun (hg _)
  · exact .skip (hg _)

theorem Steady.loseCreated {q : Nat} {r : Rec} (hs : Steady C Q l₀ l) : Steady C Q l₀ (l.loseCreated b q r) := by
  unfold Live.loseCreated
  dsimp only
  split
  · exact .joinRun (.bump (.bump hs))
  · exact .skip (.bump (.bump hs))

theorem Steady.admitTo {n : Nat} {r : Rec} {cycles : Nat} (hs : Steady C Q l₀ l) :
    Steady C Q l₀ (l.admitTo b n r cycles).1 := by
  unfold Live.admitTo
  extract_lets e run len l₁ l₂ _ l₃
  have h₁ : Steady C Q l₀ l₁ := .ite hs (.fullNotice hs)
  have h₂ : Steady C Q l₀ l₂ := .ite (.makeRoom h₁) h₁
  have h₃ : Steady C Q l₀ l₃ := by
    dsimp only [l₃]
    split
    · exact .ite h₂ (.enter (.updRun h₂))
    · exact h₂
  split
  · split
    · exact .loseRec h₂
    · exact h₂
  · split
    · exact .enter h₃
    · exact h₃

theorem Steady.vecQueued {r : Rec} (hs : Steady C Q l₀ l) : Steady C Q l₀ (l.vecQueued b r) := by
  refine .ite ?_ hs
  split
  · exact .updPlan hs
  · exact hs

theorem Steady.flushGaps {n k : Nat} (hs : Steady C Q l₀ l) : Steady C Q l₀ (l.flushGaps b n k) := by
  induction k generalizing l with
  | zero => exact hs
  | succ k ih =>
    unfold Live.flushGaps
    split
    · exact hs
    · split
      · exact hs
      · refine ih (.ite (.append ?_) (.updLink (.append ?_)))
        · exact { hs with }
        · exact { hs with }

theorem Steady.transit {n : Nat} {r : Rec} (hs : Steady C Q l₀ l) : Steady C Q l₀ (l.transit b n r) := by
  unfold Live.transit
  extract_lets l₁ waits lost l₂ g l₃
  have h₁ : Steady C Q l₀ l₁ := .flushGaps hs
  have h₂ : Steady C Q l₀ l₂ := .when h₁ fun _ hs => .bump hs
  have hg : Steady C Q l₀ g.1 := by
    dsimp only [g]
    split
    · exact h₂
    · exact .tailGap h₂
  split
  · exact .append h₁
  · exact .ite h₂ (.ite hg { Steady.bump (b := b) (f := F.QUE_STAT_GAP_STALL) (e := n) (n := 1) hg with })

theorem Steady.spoilBeats {xs : List Nat} (hs : Steady C Q l₀ l) : Steady C Q l₀ (l.spoilBeats xs) :=
  { hs with }

theorem Steady.pageBack {q bad : Nat} (hs : Steady C Q l₀ l) : Steady C Q l₀ (l.pageBack b q bad) :=
  .settleQue (.updQue (.bump (.ite (.bump (.midRead (.ite hs (.spoilBeats hs))))
    (.bump (.midRead (.ite hs (.spoilBeats hs)))))))

theorem Steady.writeMid {q base pages : Nat} (hs : Steady C Q l₀ l) : Steady C Q l₀ (l.writeMid b q base pages) :=
  .ite (.put hs) (.put (.put hs))

theorem Steady.writeQmap {shown e : Nat} {v : Word} (hs : Steady C Q l₀ l) :
    Steady C Q l₀ (l.writeQmap b shown e v) :=
  .ite (.put hs) (.ite (.put (.put (.put hs))) (.updRun (.put (.put (.put hs)))))

/-- The watch objects and the synchronisation objects of `t` are those of `t₀`. -/
structure SameObjects (t₀ t : Trace) : Prop where
  watches : t.watches = t₀.watches
  syncs : t.syncs = t₀.syncs

section
variable {t₀ t : Trace}

theorem SameObjects.ite {c : Prop} [Decidable c] {t u : Trace} (ht : SameObjects t₀ t) (hu : SameObjects t₀ u) :
    SameObjects t₀ (if c then t else u) := by
  split
  · exact ht
  · exact hu

theorem SameObjects.overwrite (h : SameObjects t₀ t) : SameObjects t₀ t.overwrite := by
  unfold Trace.overwrite
  split
  · exact { h with }
  · exact { h with }
  · exact h

theorem SameObjects.putSlot {x : TrSlot} (h : SameObjects t₀ t) : SameObjects t₀ (t.putSlot x) :=
  .ite { h with } (.ite { h with } { h.overwrite with })

theorem SameObjects.seal {stopped : Bool} (h : SameObjects t₀ t) : SameObjects t₀ (t.seal stopped) := by
  have hput : ∀ x, SameObjects t₀ (t.putSlot x) := fun _ => .putSlot h
  exact .ite h { hput _ with }

theorem SameObjects.halt (h : SameObjects t₀ t) : SameObjects t₀ t.halt :=
  { h.seal (stopped := true) with }

theorem SameObjects.addEnt {e : TrEnt} (h : SameObjects t₀ t) : SameObjects t₀ (t.addEnt e).1 := by
  unfold Trace.addEnt
  split
  · exact { h with }
  · exact { h with }

theorem SameObjects.sealFull (h : SameObjects t₀ t) : SameObjects t₀ t.sealFull :=
  .ite (.seal h) h

theorem SameObjects.countEnt (h : SameObjects t₀ t) : SameObjects t₀ t.countEnt :=
  .ite (.sealFull h) (.ite (.halt { h with }) (.sealFull { h with }))

theorem SameObjects.fire {ft : Word} (h : SameObjects t₀ t) : SameObjects t₀ (t.fire ft) :=
  { h with }

end

/-- A change of the bus monitors that leaves their watch objects and the synchronisation objects alone. -/
theorem Steady.updTrace {f : Trace → Trace} (hs : Steady C Q l₀ l)
    (hf : ∀ t, SameObjects t (f t) := by exact fun _ => ⟨rfl, rfl⟩) : Steady C Q l₀ (l.updTrace f) :=
  { hs with watches := fun c => (congrArg Tab.wf (hf _).watches).trans (hs.watches c),
            syncs := fun c => (congrArg Tab.wf (hf _).syncs).trans (hs.syncs c) }

theorem Steady.record {a : Access} {u : Option Nat} {other : Bool} (hs : Steady C Q l₀ l) :
    Steady C Q l₀ (l.record b a u other) := by
  have hrfl : ∀ t, SameObjects t t := fun _ => ⟨rfl, rfl⟩
  unfold Live.record
  extract_lets t hit keep l₁
  have h₁ : Steady C Q l₀ l₁ := .when hs fun _ hs => .bump hs
  split
  · exact hs
  · exact h₁
  · refine .ite (.updTrace hs fun t => ?_) (.ite (.updTrace hs fun t => .sealFull (.addEnt (hrfl t))) hs)
    have hfire : SameObjects t (t.fire l.ft) := .fire (hrfl t)
    exact .ite (.halt (.ite (.addEnt hfire) hfire)) (.sealFull (.ite (.addEnt hfire) hfire))
  · exact .ite (.updTrace h₁ fun t => .ite (.countEnt (.addEnt (hrfl t))) (.addEnt (hrfl t))) h₁

theorem Steady.updWatch {o : Nat} {f : Watch → Watch} (hs : Steady C Q l₀ l) : Steady C Q l₀ (l.updWatch o f) :=
  .setWatches hs fun c => Tab.wf_upd (hs.watches c) _ _ _

theorem Steady.watchAll {a : Access} (hs : Steady C Q l₀ l) : Steady C Q l₀ (l.watchAll b a) := by
  unfold Live.watchAll
  refine .ite hs ?_
  split
  · exact hs
  · exact .setWatches hs fun c => wf_mapVal (hs.watches c)

theorem Steady.raiseTrig {i : Nat} (hs : Steady C Q l₀ l) : Steady C Q l₀ (l.raiseTrig b i) :=
  .ite (.updTrace hs) hs

theorem Steady.fogSeen (hs : Steady C Q l₀ l) : Steady C Q l₀ (l.fogSeen b) := by
  unfold Live.fogSeen
  exact .updTrace (.ite (.raiseTrig hs) hs)

theorem Steady.reachBmon {srcs : BitVec 8} (hs : Steady C Q l₀ l) : Steady C Q l₀ (l.reachBmon b srcs).1 := by
  unfold Live.reachBmon
  dsimp only
  exact .updTrace (.fogSeen hs)

theorem Steady.raiseRise {n : Nat} (hs : Steady C Q l₀ l) : Steady C Q l₀ (l.raiseRise b n) :=
  .ite (.raiseTrig hs) hs

theorem Steady.pulseRise {n : Nat} (hs : Steady C False l₀ l) : Steady C False l₀ (l.pulseRise b n) := by
  refine .ite (.raiseRise (.late (.pulseUp hs))) ?_
  split
  · exact hs
  · exact .raiseRise (.pulseUp (.useFired hs))

theorem Steady.trigger (hs : Steady C Q l₀ l) : Steady C Q l₀ (l.trigger b) := by
  unfold Live.trigger
  split
  · exact hs
  · exact .updTrace hs fun _ => .ite (.halt ⟨rfl, rfl⟩) ⟨rfl, rfl⟩
  · exact .bump hs

theorem Steady.markEntry (hs : Steady C Q l₀ l) : Steady C Q l₀ l.markEntry := by
  refine .updTrace hs fun t => ?_
  have hput : ∀ x, SameObjects t (({ t with pend := [] }.seal false).putSlot x) :=
    fun _ => .putSlot (.seal ⟨rfl, rfl⟩)
  exact .ite { hput _ with } ⟨rfl, rfl⟩

theorem Steady.markExit (hs : Steady C Q l₀ l) : Steady C Q l₀ (l.markExit b) := by
  refine .ite (.updTrace hs fun t => ?_) hs
  extract_lets t'
  have h : SameObjects t t' := .ite (.putSlot (.seal ⟨rfl, rfl⟩)) ⟨rfl, rfl⟩
  have hput : SameObjects t (if t'.on then t'.putSlot (.mark true none) else t') := .ite (.putSlot h) h
  exact { hput with }

theorem Steady.slotOut {r : Rec} {m : Live} (h : l.slotOut b = some (r, m)) (hs : Steady C Q l₀ l) :
    Steady C Q l₀ m := by
  unfold Live.slotOut at h
  split at h
  · contradiction
  · split at h
    · obtain ⟨-, rfl⟩ := Prod.mk.inj (Option.some.inj h)
      exact .number (.updTrace hs)
    · obtain ⟨-, rfl⟩ := Prod.mk.inj (Option.some.inj h)
      exact .number (.updTrace hs)

theorem Steady.readSlots {xs : List TrSlot} (hs : Steady C Q l₀ l) : Steady C Q l₀ (l.readSlots b xs) :=
  .foldl (fun _ _ hs => .ueSeen hs) hs

theorem Steady.slotsOut {k n : Nat} (hs : Steady C Q l₀ l) : Steady C Q l₀ (l.slotsOut b k n).2 := by
  induction k generalizing l n with
  | zero => exact hs
  | succ k ih =>
    unfold Live.slotsOut
    split
    · exact hs
    · split
      · exact hs
      · split
        · exact hs
        · next h => exact ih (.slotOut h hs)

theorem Steady.toBmon {r : Ret} {f : Live → Live} (hs : Steady C Q l₀ l)
    (hf : ∀ l, Steady C Q l₀ l → Steady C Q l₀ (f l)) : Steady C Q l₀ (l.toBmon b r f) :=
  .ite (.reply hs) (.ite (.reply (.bump hs)) (hf _ hs))

theorem Steady.traceCmd {p : Packet} {r : Ret} (hs : Steady C Q l₀ l) : Steady C Q l₀ (l.traceCmd b p r) :=
  .ite (.reply (.ite (.updTrace hs fun _ => .halt ⟨rfl, rfl⟩) hs))
    (.toBmon hs fun _ hs => .ite (.reply hs) (.reply (.updTrace hs)))

theorem Steady.dumpsDone (hs : Steady C Q l₀ l) : Steady C Q l₀ (l.dumpsDone b) :=
  .ite hs (.foldl (fun _ _ hs => .reply hs) (.updTrace hs))

theorem Steady.writeTrcCtl {v : Word} (hs : Steady C Q l₀ l) : Steady C Q l₀ (l.writeTrcCtl b v) :=
  .ite (.raiseTrig hs) hs

theorem Steady.writeSyncCfg {o : Nat} {v : Word} (hs : Steady C Q l₀ l) : Steady C Q l₀ (l.writeSyncCfg b o v) :=
  .ite (.updWatch (.when hs (fun _ hs => .put hs)))
    (.ite (.when hs (fun _ hs => .put hs)) (.ite (.put (.when hs (fun _ hs => .put hs)))
    (.updWatch (.when hs (fun _ hs => .put hs)))))

theorem Steady.writeWatch {o : Nat} {f : Watch → Watch} (hs : Steady C Q l₀ l) : Steady C Q l₀ (l.writeWatch o f) :=
  .ite hs (.updWatch hs)

theorem Steady.removeEnts {gone : List LogEnt} (hs : Steady C Q l₀ l) : Steady C Q l₀ (l.removeEnts gone) :=
  .atticDrop { hs with }

theorem Steady.discardEnt {e : LogEnt} (hs : Steady C Q l₀ l) : Steady C Q l₀ (l.discardEnt b e) := by
  refine .logE (.bump (.removeEnts ?_))
  split
  · exact .ueSeen hs
  · exact hs

theorem Steady.drainPoison (hs : Steady C Q l₀ l) : Steady C Q l₀ (l.drainPoison b) :=
  .foldl (fun _ _ hs => .discardEnt hs) hs

theorem Steady.drainRec {es : List LogEnt} (hs : Steady C Q l₀ l) : Steady C Q l₀ (l.drainRec b es) :=
  .create { hs with }

theorem Steady.logQueued {r : Rec} (hs : Steady C Q l₀ l) : Steady C Q l₀ (l.logQueued r) :=
  .ite (.removeEnts hs) hs

theorem Steady.writeAttic {v : Word} (hs : Steady C Q l₀ l) : Steady C Q l₀ (l.writeAttic b v) :=
  .ite (.ite hs (.setLog (.put hs))) (.ite (.put (.put (.put hs))) (.ite (.put (.put (.put (.put hs))))
    (.setLog (.put (.put (.put (.put hs)))))))

theorem Steady.admitNext {i cycles : Nat} (hs : Steady C Q l₀ l) : Steady C Q l₀ (l.admitNext b i cycles) := by
  unfold Live.admitNext
  split
  · exact hs
  · refine .ite (.dumpsDone (.logQueued (.loseCreated { hs with }))) ?_
    next e _ =>
    have ha : Steady C Q l₀ (l.admitTo b i e.2 cycles).1 := .admitTo hs
    dsimp only
    split
    · exact ha
    · exact .dumpsDone (.logQueued (.when { ha with } fun _ hs => .vecQueued hs))

theorem Steady.admitSlot {i cycles : Nat} (hs : Steady C Q l₀ l) : Steady C Q l₀ (l.admitSlot b i cycles) := by
  unfold Live.admitSlot
  split
  · exact hs
  · next r gone h =>
    have ha : Steady C Q l₀ (gone.admitTo b i r cycles).1 := .admitTo (.slotOut h hs)
    exact .ite { ha with seqs := hs.seqs, watches := hs.watches, syncs := hs.syncs } (.readSlots ha)

theorem Steady.applyClkSel {v : Word} (hs : Steady C False l₀ l) : Steady C False l₀ (l.applyClkSel b v) :=
  .ite (.logE (.put hs)) (.ite (.ite (.put (.put hs)) (.startSwitch (.put (.put hs))))
    (.startSwitch (.ite (.put (.put hs)) (.startSwitch (.put (.put hs))))))

theorem Steady.writeClkSel {v : Word} (hs : Steady C False l₀ l) : Steady C False l₀ (l.writeClkSel b v) :=
  .ite (.applyClkSel hs) { hs with clk := nofun }

theorem Steady.switchesDone (hs : Steady C False l₀ l) : Steady C False l₀ (l.switchesDone b) := by
  refine .ite hs (.bootStep ?_)
  split
  · exact .applyClkSel { hs with clk := nofun }
  · exact hs

theorem Steady.fallback {i : SwIsland} (hs : Steady C False l₀ l) : Steady C False l₀ (l.fallback b i) :=
  .switchesDone (.ite (.put (.logE (.put (.put { hs with clk := nofun }))))
    (.logE (.put (.put { hs with clk := nofun }))))

theorem Steady.windowCheck {count : Nat} (hs : Steady C Q l₀ l) : Steady C Q l₀ (l.windowCheck b count) :=
  .ite hs (.logE (.put hs))

theorem Steady.writeOscCfg {v : Word} {count : Option Nat} (hs : Steady C False l₀ l) :
    Steady C False l₀ (l.writeOscCfg b v count) := by
  unfold Live.writeOscCfg
  extract_lets n old l₁ l₂ l₃ l₄ l₅ new l₆
  have h₅ : Steady C False l₀ l₅ := .put (.put (.put (.put (.put hs))))
  have h₆ : Steady C False l₀ l₆ := .ite h₅ { h₅ with clk := nofun }
  refine .ite ?_ h₆
  split
  · exact .windowCheck h₆
  · exact .windowCheck { h₆ with }

theorem Steady.acquire {count winCount : Nat} (hs : Steady C False l₀ l) :
    Steady C False l₀ (l.acquire b count winCount) :=
  .ite (.ite (.windowCheck { hs with clk := nofun }) { hs with clk := nofun }) { hs with clk := nofun }

theorem Steady.trimLim (hs : Steady C False l₀ l) : Steady C False l₀ (l.trimLim b) :=
  { (.logE (.put hs) : Steady C False l₀ ((l.put b F.OSC_STAT_TRIM_LIM 1).logE b 516 2 [l.clk.code])) with clk := nofun }

theorem Steady.track {count : Nat} (hs : Steady C False l₀ l) : Steady C False l₀ (l.track b count) :=
  .ite (.ite (.trimLim hs) { hs with clk := nofun }) (.ite (.ite (.trimLim hs) { hs with clk := nofun }) hs)

theorem Steady.sendReq {loc : Nat} (hs : Steady C Q l₀ l) : Steady C Q l₀ (l.sendReq b loc) :=
  .toBuoy (.number { hs with peers := fun c => Tab.wf_set (hs.peers c) _ _ _ })

theorem Steady.noteTx {r : Rec} {t : Word} (hs : Steady C Q l₀ l) : Steady C Q l₀ (l.noteTx r t) :=
  .ite { hs with peers := fun c => Tab.wf_set (hs.peers c) _ _ _ } hs

theorem Steady.takeReq {r : Rec} (hs : Steady C False l₀ l) : Steady C False l₀ (l.takeReq b r).1 := by
  unfold Live.takeReq
  extract_lets t2 lock _ l₁
  have h₁ : Steady C False l₀ l₁ := { hs with }
  split
  · refine .when (.setTState (.ftStep ?_)) fun _ hs => .enterLocked hs
    exact { h₁ with }
  · refine .ite (.enterLocked ?_) (.ite (.enterHoldover ?_) ?_)
    all_goals exact .ite h₁ (.correct { h₁ with })

theorem Steady.sendRsp {r : Rec} {t2 : Word} (hs : Steady C Q l₀ l) : Steady C Q l₀ (l.sendRsp b r t2) :=
  .create hs

theorem Steady.gapInOrder {q : Nat} {g : Rec} (hs : Steady C Q l₀ l) : Steady C Q l₀ (l.gapInOrder b q g) := by
  unfold Live.gapInOrder
  dsimp only
  split
  · exact .ite (.settleQue (.updQue hs)) { hs with }
  · exact { hs with }

theorem Steady.ctlLost {n dest cause : Nat} {r : Rec} (hs : Steady C Q l₀ l) :
    Steady C Q l₀ (l.ctlLost b n dest cause r) :=
  .ite hs (.ite (.toBuoy hs) (.gapInOrder hs))

theorem Steady.gapFront {q : Nat} {r : Rec} {cause : Nat} (hs : Steady C Q l₀ l) :
    Steady C Q l₀ (l.gapFront b q r cause) :=
  .settleQue (.updQue (.bump hs))

theorem Steady.unitLost {n : Nat} {u : TxUnit} (hs : Steady C Q l₀ l) : Steady C Q l₀ (l.unitLost b n u) := by
  unfold Live.unitLost
  split
  · exact .ctlLost hs
  · exact .ite hs (.gapFront hs)
  · exact .skip hs
  · exact hs

theorem Steady.gapAll {n cause k : Nat} (hs : Steady C Q l₀ l) : Steady C Q l₀ (l.gapAll b n cause k) := by
  induction k generalizing l with
  | zero => exact hs
  | succ k ih =>
    unfold Live.gapAll
    split
    · exact ih (.discardAt hs)
    · exact hs

theorem Steady.linkReset {n : Nat} (hs : Steady C Q l₀ l) : Steady C Q l₀ (l.linkReset b n) := by
  refine .readsLost (.foldl (fun _ _ hs => .unitLost hs) (.foldl (fun _ _ hs => ?_)
    (.foldl (fun _ _ hs => .unitLost hs) (.foldl (fun _ _ hs => .gapAll hs) (.updLink hs)))))
  split
  · exact .ctlLost hs
  · exact hs

theorem Steady.linkDown {n why : Nat} (hs : Steady C Q l₀ l) : Steady C Q l₀ (l.linkDown b n why) :=
  .ite hs (.ite (.logE (.bump (.linkReset hs))) (.linkReset hs))

theorem Steady.writeRole {n : Nat} {v : Word} (hs : Steady C Q l₀ l) : Steady C Q l₀ (l.writeRole b n v) :=
  .ite hs (.ite (.put hs) (.ite (.put (.put (.put (.put (.linkReset hs))))) (.put (.put (.put (.linkReset hs))))))

theorem Steady.startReplay {n : Nat} (hs : Steady C Q l₀ l) : Steady C Q l₀ (l.startReplay b n) :=
  .ite (.linkDown hs) (.updLink (.bump hs))

theorem Steady.sendStatus {n : Nat} (hs : Steady C Q l₀ l) : Steady C Q l₀ (l.sendStatus n) :=
  .emit (.updLink hs)

theorem Steady.sendUnit {n cls loc arm : Nat} {body : List DWord} {r : Option Rec}
  {plan : Option (Nat × Nat × Nat × Nat)} {src : Nat}
    (hs : Steady C Q l₀ l) :
    Steady C Q l₀ (l.sendUnit n cls loc arm body r plan src) :=
  .emit (.updLink hs)

theorem Steady.readItem {i : LinkItem} (hs : Steady C Q l₀ l) : Steady C Q l₀ (l.readItem b i).1 := by
  unfold Live.readItem
  split
  · exact .ueSeen hs
  · exact hs

theorem Steady.readUnit {u : TxUnit} (hs : Steady C Q l₀ l) : Steady C Q l₀ (l.readUnit b u).1 := by
  unfold Live.readUnit
  split
  · exact .ueSeen hs
  · exact hs

theorem Steady.planLeft {n : Nat} {i : LinkItem} (hs : Steady C Q l₀ l) : Steady C Q l₀ (l.planLeft b n i) :=
  .settle (.ite hs (.ite (.phaseALeft hs) (.ite (.phaseBLeft hs) hs)))

theorem Steady.sendPln {n : Nat} {i : LinkItem} (hs : Steady C Q l₀ l) : Steady C Q l₀ (l.sendPln b n i) := by
  unfold Live.sendPln
  dsimp only
  split
  · exact .planLeft (.sendUnit (.readItem (.updLink hs)))
  · exact .readItem (.updLink hs)

theorem Steady.sendCtlUnit {n : Nat} {i : LinkItem} (hs : Steady C Q l₀ l) : Steady C Q l₀ (l.sendCtlUnit b n i) := by
  unfold Live.sendCtlUnit
  dsimp only
  split
  · exact .ite (.sendUnit (.noteTx (.readItem (.updLink hs)))) (.sendUnit (.readItem (.updLink hs)))
  · exact .ite (.answerLeft (.sendUnit (.readItem (.updLink hs)))) (.sendUnit (.readItem (.updLink hs)))

theorem Steady.noteHeads {n : Nat} (hs : Steady C Q l₀ l) : Steady C Q l₀ (l.noteHeads b n) :=
  .foldl (fun _ _ hs => .noteRoute hs) hs

theorem Steady.sendFwd {n i q : Nat} (hs : Steady C Q l₀ l) : Steady C Q l₀ (l.sendFwd b n i q) := by
  unfold Live.sendFwd
  dsimp only
  split
  · exact hs
  · exact .ite (.flushGaps (.sendUnit (.updLink (.popHead hs)))) (.sendUnit (.updLink (.popHead hs)))

theorem Steady.dropHead {q : Nat} (hs : Steady C Q l₀ l) : Steady C Q l₀ (l.dropHead b q) := by
  unfold Live.dropHead
  dsimp only
  split
  · exact .skip (.bump (.bump (.popHead hs)))
  · exact .bump (.bump (.popHead hs))

theorem Steady.dropLost (hs : Steady C Q l₀ l) : Steady C Q l₀ (l.dropLost b) :=
  .foldl (fun _ _ hs => .dropHead hs) hs

theorem Steady.transmitFree {n : Nat} (hs : Steady C Q l₀ l) : Steady C Q l₀ (l.transmitFree b n) := by
  unfold Live.transmitFree
  dsimp only
  split
  · refine .ite (.sendCtlUnit hs) ?_
    split
    · exact .ite (.sendFwd hs) hs
    · exact hs
  · split
    · exact .ite (.sendFwd hs) hs
    · exact hs

theorem Steady.sendAgain {n : Nat} {u : TxUnit} (hs : Steady C Q l₀ l) : Steady C Q l₀ (l.sendAgain b n u) :=
  .emit (.updLink (.readUnit hs))

theorem Steady.forward {n : Nat} {r : Rec} (hs : Steady C Q l₀ l) : Steady C Q l₀ (l.forward b n r) := by
  unfold Live.forward
  dsimp only
  split
  · exact .ite (.transit hs) (.ite (.bump hs) (.skip (.bump hs)))
  · split
    · exact .transit (.noteRoute (.resume hs))
    · exact .transit (.resume hs)

theorem Steady.badRecord {n : Nat} {u : RxUnit} (hs : Steady C Q l₀ l) : Steady C Q l₀ (l.badRecord b n u) := by
  refine .ite (.logE (.bump hs)) (.ite ?_ (.ite (.logE (.bump hs)) (.forward (.logE (.bump hs)))))
  split
  · exact .gapInOrder (.logE (.bump hs))
  · exact .logE (.bump hs)

theorem Steady.planRecord {n : Nat} {u : RxUnit} {r : Rec} (hs : Steady C Q l₀ l) :
    Steady C Q l₀ (l.planRecord b n u r) :=
  .ite (.bump (.subject (.updLink hs) (fun _ hs => .logE hs))) (.subject (.updLink hs) (fun _ hs => .logE hs))

theorem Steady.copySeries {r : Rec} (hs : Steady C Q l₀ l) : Steady C Q l₀ (l.copySeries b r) := by
  unfold Live.copySeries
  refine .ite hs ?_
  extract_lets l₁
  have h₁ : Steady C Q l₀ l₁ := by
    refine .foldl (fun l e hs => .updSer ?_) hs
    exact { hs with }
  split
  · exact .bump h₁
  · exact h₁

theorem Steady.keepGraph {r : Rec} (hs : Steady C Q l₀ l) : Steady C Q l₀ (l.keepGraph b r) := by
  unfold Live.keepGraph
  split
  · exact .ite { hs with } hs
  · exact hs

theorem Steady.passRecord {n : Nat} {r : Rec} (hs : Steady C Q l₀ l) : Steady C Q l₀ (l.passRecord b n r) :=
  .ite (.ite (.keepGraph (.copySeries hs)) hs) (.forward (.ite (.keepGraph (.copySeries hs)) hs))

theorem Steady.acceptUnit {n : Nat} {u : RxUnit} {stalled : Bool} (hs : Steady C Q l₀ l) :
    Steady C Q l₀ (l.acceptUnit n u stalled) :=
  .updLink hs

theorem Steady.takeUnit {n : Nat} {u : RxUnit} (hs : Steady C Q l₀ l) : Steady C Q l₀ (l.takeUnit b n u) := by
  refine .ite hs ?_
  split
  · exact .badRecord hs
  · exact .ite (.planRecord hs) (.passRecord hs)

theorem Steady.resyncAt {n : Nat} (hs : Steady C Q l₀ l) : Steady C Q l₀ (l.resyncAt n) :=
  .updLink hs

theorem Steady.ageCtl {n : Nat} (hs : Steady C Q l₀ l) : Steady C Q l₀ (l.ageCtl b n) := by
  unfold Live.ageCtl
  dsimp only
  split
  · exact .ite (.updLink (.bump hs)) (.gapInOrder (.updLink (.bump hs)))
  · exact hs

theorem Steady.writeCalu {i : Nat} {v : Word} (hs : Steady C False l₀ l) :
    Steady C False l₀ (l.writeCalu b i v) := by
  unfold Live.writeCalu
  extract_lets _ l₁
  have h₁ : Steady C False l₀ l₁ := { hs with calu := fun c => Tab.wf_set (hs.calu c) _ _ _, cal := nofun }
  exact .ite hs (.ite { h₁ with clk := nofun } h₁)

theorem Steady.dropLate {idx : Nat} (hs : Steady C Q l₀ l) : Steady C Q l₀ (l.dropLate idx) :=
  { hs with }

theorem Steady.sendOn {n : Nat} {r : Rec} (hs : Steady C Q l₀ l) : Steady C Q l₀ (l.sendOn b n r) :=
  .ite (.toBuoy hs) (.forward hs)

theorem Steady.hangAnswer {loc : Nat} {silent : Bool} (hs : Steady C Q l₀ l) :
    Steady C Q l₀ (l.hangAnswer loc silent) := by
  unfold Live.hangAnswer
  split
  · exact { hs with }
  · exact hs

theorem Steady.ownAnswer {u : OwnUse × Nat} {loc status : Nat} {silent : Bool} (hs : Steady C Q l₀ l) :
    Steady C Q l₀ (l.ownAnswer b u loc status silent) :=
  .ite (.hangAnswer hs) (.planAnswer hs)

theorem Steady.dropFwd {e : Fwd} (hs : Steady C Q l₀ l) : Steady C Q l₀ (l.dropFwd e) :=
  { hs with }

theorem Steady.setCred {c : Nat} {x : Cred} (hs : Steady C False l₀ l) : Steady C False l₀ (l.setCred c x) :=
  { hs with shape := nofun, cred := fun c => Tab.wf_insert (hs.cred c) _ _ }

theorem Steady.fillClass {dt c : Nat} (hs : Steady C False l₀ l) : Steady C False l₀ (l.fillClass b dt c) :=
  .setCred hs

theorem Steady.refill (hs : Steady C False l₀ l) : Steady C False l₀ (l.refill b) :=
  .setFtPrev (.foldl (fun _ _ hs => .fillClass hs) hs)

theorem Steady.writeBucket {f : Fld} {c v : Nat} (hs : Steady C False l₀ l) :
    Steady C False l₀ (l.writeBucket b f c v) :=
  .put (.setCred hs)

/-- A change of the shaper and of the queues. -/
theorem Steady.setShape {x : Shape} {t : Tab Que} (hs : Steady C False l₀ l) (hx : C → Tab.wf x.cred = true)
    (ht : C → Tab.wf t = true) : Steady C False l₀ { l with shape := x, ques := t } :=
  { hs with cred := hx, shape := nofun, ques := ht }

theorem Steady.shapeReset (hs : Steady C False l₀ l) : Steady C False l₀ (l.shapeReset b) := by
  unfold Live.shapeReset
  dsimp only
  exact .setShape hs (fun _ => rfl) fun c => wf_mapVal (hs.ques c)

theorem Steady.select {q tag c : Nat} (hs : Steady C False l₀ l) : Steady C False l₀ (l.select b q tag c) := by
  unfold Live.select
  split
  · exact hs
  · exact .emit (.put (.updQue (.popHead (.setCred { hs with shape := nofun }))))

theorem Steady.holdCounts {xs : List (Nat × Nat × Nat)} (hs : Steady C Q l₀ l) :
    Steady C Q l₀ (l.holdCounts b xs) :=
  .foldl (fun _ _ hs => .ite (.bump hs) hs) hs

theorem Steady.sampleQueues (hs : Steady C Q l₀ l) : Steady C Q l₀ (l.sampleQueues b) :=
  .foldl (fun _ _ hs => .updQue (.put (.put hs))) hs

theorem Steady.writeSmp {v : Nat} (hs : Steady C False l₀ l) : Steady C False l₀ (l.writeSmp b v) :=
  { (.put hs : Steady C False l₀ (l.put b F.SHP_SMP_PERIOD v)) with shape := nofun }

theorem Steady.hangRecs {ty ncyc noAns : Nat} {ps : List (Nat × List DWord × List Nat)} (hs : Steady C Q l₀ l) :
    Steady C Q l₀ (l.hangRecs b ty ncyc noAns ps) :=
  .foldl (fun _ _ hs => .create (.foldl (fun _ _ hs => .meet hs) hs)) hs

theorem Steady.dump {r : Ret} {remote : List HEdge} {noAns : Nat} (hs : Steady C Q l₀ l) :
    Steady C Q l₀ (l.dump b r remote noAns) := by
  unfold Live.dump
  exact .updTrace (.ite (.hangRecs { hs with }) (.hangRecs (.hangRecs { hs with })))

theorem Steady.mark {id a : Nat} {h : Holder} (hs : Steady C Q l₀ l) : Steady C Q l₀ (l.mark id a h) :=
  { hs with }

/-- What spoils one of a list of items keeps the tables. -/
def SteadyAll (C Q : Prop) (l₀ : Live) (fs : List (Live → Live)) : Prop :=
  ∀ f ∈ fs, ∀ l, Steady C Q l₀ l → Steady C Q l₀ (f l)

theorem SteadyAll.append {fs gs : List (Live → Live)} (hf : SteadyAll C Q l₀ fs) (hg : SteadyAll C Q l₀ gs) :
    SteadyAll C Q l₀ (fs ++ gs) :=
  fun f hmem => (List.mem_append.mp hmem).elim (hf f) (hg f)

theorem SteadyAll.flatMap {α : Type} {xs : List α} {g : α → List (Live → Live)}
    (hg : ∀ x, SteadyAll C Q l₀ (g x)) : SteadyAll C Q l₀ (xs.flatMap g) := by
  intro f hmem
  obtain ⟨x, -, hx⟩ := List.mem_flatMap.mp hmem
  exact hg x f hx

theorem SteadyAll.spoils {α : Type} {xs : List α} {f : Nat → Live → Live}
    (hf : ∀ i l, Steady C Q l₀ l → Steady C Q l₀ (f i l)) : SteadyAll C Q l₀ (spoils xs f) := by
  intro g hmem
  obtain ⟨i, -, rfl⟩ := List.mem_map.mp hmem
  exact hf i

theorem SteadyAll.marks {id a : Nat} {xs : List Holder} :
    SteadyAll C Q l₀ (xs.map fun h (l : Live) => l.mark id a h) := by
  intro g hmem
  obtain ⟨x, -, rfl⟩ := List.mem_map.mp hmem
  exact fun _ hs => { hs with }

theorem SteadyAll.queSpoils {a : Nat} : SteadyAll C Q l₀ (l.queSpoils a) :=
  .flatMap fun _ => .spoils fun _ _ hs => .updQue hs

theorem SteadyAll.linkSpoils {a : Nat} : SteadyAll C Q l₀ (l.linkSpoils a) :=
  .flatMap fun _ => .append (.append (.spoils fun _ _ hs => .updLink hs) (.spoils fun _ _ hs => .updLink hs))
    (.spoils fun _ _ hs => .updLink hs)

theorem SteadyAll.waitSpoils : SteadyAll C Q l₀ l.waitSpoils :=
  .spoils fun _ _ hs => { hs with }

theorem SteadyAll.ite {c : Prop} [Decidable c] {fs gs : List (Live → Live)} (hf : SteadyAll C Q l₀ fs)
    (hg : SteadyAll C Q l₀ gs) : SteadyAll C Q l₀ (if c then fs else gs) := by
  split
  · exact hf
  · exact hg

theorem SteadyAll.spoilable {id a : Nat} : SteadyAll C Q l₀ (l.spoilable b id a) :=
  .ite .marks <| .ite (.append .queSpoils (.ite nofun (.append (.append .linkSpoils .waitSpoils) .marks))) <|
    .ite (.spoils fun _ _ hs => { hs with }) <| .ite (.append .waitSpoils .marks) <|
    .ite (.spoils fun _ _ hs => .updTrace hs) <| .ite (.spoils fun _ _ hs => { hs with }) nofun

theorem Steady.spoil {id a n : Nat} (hs : Steady C Q l₀ l) : Steady C Q l₀ (l.spoil b id a n) := by
  unfold Live.spoil
  refine .ite hs (.ite (.spoilBeats hs) ?_)
  split
  · split
    · exact .mark hs
    · exact hs
  · split
    · next f h => exact SteadyAll.spoilable f (pick_mem h) _ hs
    · exact hs

theorem Steady.uncorrectable {id a : Nat} (hs : Steady C False l₀ l) : Steady C False l₀ (l.uncorrectable b id a) :=
  .ite hs (.ite (.softReset (.logE (.ueSeen hs)))
    (.spoil ({ (.ueSeen hs : Steady C False l₀ (l.ueSeen b id a)) with })))

theorem Steady.corrected {id n : Nat} (hs : Steady C Q l₀ l) : Steady C Q l₀ (l.corrected b id n) :=
  .bump hs

/-- A change of the corrections counted in the lap. -/
theorem Steady.setLapCe {t : Tab Nat} (hs : Steady C Q l₀ l) (ht : C → Tab.wf t = true) :
    Steady C Q l₀ { l with mem := { l.mem with lapCe := t } } :=
  { hs with lapCe := ht }

theorem Steady.lapEnd {id lapMs : Nat} (hs : Steady C Q l₀ l) : Steady C Q l₀ (l.lapEnd b id lapMs) := by
  unfold Live.lapEnd
  extract_lets ce l₁ l₂ _ l₃
  have h₂ : Steady C Q l₀ l₂ := .put (.put hs)
  have h₃ : Steady C Q l₀ l₃ := .setLapCe h₂ fun c => Tab.wf_set (h₂.lapCe c) _ _ _
  exact .ite h₃ (.logE h₃)

/-- A change of the walker's places. -/
theorem Steady.setWalk {t : Tab Nat} (hs : Steady C Q l₀ l) (ht : C → Tab.wf t = true) :
    Steady C Q l₀ { l with mem := { l.mem with walk := t } } :=
  { hs with walk := ht }

theorem Steady.walkOn {id n lapMs : Nat} (hs : Steady C Q l₀ l) : Steady C Q l₀ (l.walkOn b id n lapMs) :=
  .ite (.lapEnd (.setWalk hs fun c => Tab.wf_set (hs.walk c) _ _ _))
    (.setWalk hs fun c => Tab.wf_set (hs.walk c) _ _ _)

theorem Steady.cleanQuery {no : Nat} (hs : Steady C Q l₀ l) : Steady C Q l₀ (l.cleanQuery no) :=
  { hs with }

theorem Steady.sendCopy {kind s : Nat} {body : List DWord} (hs : Steady C Q l₀ l) :
    Steady C Q l₀ (l.sendCopy b kind s body) :=
  .ite (.create { hs with }) hs

theorem Steady.serStop {s : Nat} (hs : Steady C Q l₀ l) : Steady C Q l₀ (l.serStop s) :=
  { hs with sers := fun c => Tab.wf_erase (hs.sers c) _ }

theorem Steady.serStart {s : Nat} (hs : Steady C Q l₀ l) : Steady C Q l₀ (l.serStart s) :=
  .updSer hs

theorem Steady.writeSerCfg {s : Nat} {v : Word} (hs : Steady C Q l₀ l) : Steady C Q l₀ (l.writeSerCfg b s v) :=
  .ite (.ite hs (.serStop hs)) (.ite (.put (.put (.put (.put (.put (.put (.put hs)))))))
    (.ite (.put (.put (.put (.put (.put (.put (.put (.put hs))))))))
    (.sendCopy (.serStart (.put (.put (.put (.put (.put (.put (.put hs)))))))))))

theorem Steady.stage {s : Nat} {v : Word} (hs : Steady C Q l₀ l) : Steady C Q l₀ (l.stage b s v) :=
  .updSer (.when (.when (.when hs (fun _ hs => .bump hs)) (fun _ hs => .bump hs)) (fun _ hs => .celWrite hs))

theorem Steady.stageFills {s m : Nat} (hs : Steady C Q l₀ l) : Steady C Q l₀ (l.stageFills b s m) := by
  induction m generalizing l with
  | zero => exact hs
  | succ m ih => exact ih (.stage hs)

theorem Steady.fillRun {s m : Nat} (hs : Steady C Q l₀ l) : Steady C Q l₀ (l.fillRun b s m) :=
  .ite (.stageFills hs) (.stageFills (.updSer (.bump (.stageFills hs))))

theorem Steady.intake {s : Nat} {v : SVal} (hs : Steady C Q l₀ l) : Steady C Q l₀ (l.intake b s v) := by
  unfold Live.intake
  split
  · exact .fillRun (.updSer hs)
  · exact .stage hs
  · extract_lets x ty l₁ l₂ go
    have h₂ : Steady C Q l₀ l₂ := .updSer (.when hs fun _ hs => .bump hs)
    have hgo : ∀ d, Steady C Q l₀ (go d) := fun _ => .stage (.when h₂ fun _ hs => .bump hs)
    refine .ite (hgo _) ?_
    split
    · exact hgo _
    · exact .fillRun h₂

theorem Steady.readStage {s no : Nat} (hs : Steady C Q l₀ l) : Steady C Q l₀ (l.readStage b s no).1 :=
  .celRead hs

theorem Steady.updRegion {k : Nat} {f : Region → Region} (hs : Steady C Q l₀ l) : Steady C Q l₀ (l.updRegion b k f) :=
  { hs with regions := fun c => Tab.wf_upd (hs.regions c) _ _ _ }

theorem Steady.writePcopy {k : Nat} {v : Word} (hs : Steady C Q l₀ l) : Steady C Q l₀ (l.writePcopy b k v) :=
  .ite (.put (.put hs)) (.ite (.put hs) (.ite (.put (.put hs)) (.put (.put hs))))

theorem Steady.copyDef {k : Nat} {r : Rec} (hs : Steady C Q l₀ l) : Steady C Q l₀ (l.copyDef b k r) :=
  .updRegion (.celWrite hs)

theorem Steady.copyBlk {k : Nat} {r : Rec} (hs : Steady C Q l₀ l) : Steady C Q l₀ (l.copyBlk b k r) := by
  conv in @Live.copyBlk => delta Live.copyBlk
  cases h : l.copyOfs b k (wordAt r.body 1).toNat with
  | none =>
    simp only [h]
    exact .bump hs
  | some o =>
    simp only [h]
    split
    · exact .updRegion (.celWrite hs)
    · exact .updRegion (.celWrite (.updRegion (.celWrite hs)))

/-- A part of the free choices is used. -/
theorem Steady.setFree {n : Nat} (hs : Steady C Q l₀ l) : Steady C Q l₀ { l with free := n } :=
  { hs with }

theorem Steady.copyAt {k a size : Nat} (hs : Steady C Q l₀ l) : Steady C Q l₀ (l.copyAt b k a size).1 := by
  conv in @Live.copyAt => delta Live.copyAt
  generalize l.copyOfs b k a = o
  cases o with
  | none => exact hs
  | some o => exact .celRead (.setFree hs)

theorem Steady.sendBlk {k t s : Nat} {d : DefEnt} {no : Nat} (hs : Steady C Q l₀ l) :
    Steady C Q l₀ (l.sendBlk b k t s d no) := by
  have h : Steady C Q l₀ (l.copyAt b k (d.addr no) (blkSize d.ratio)).1 := .copyAt hs
  conv in @Live.sendBlk => delta Live.sendBlk
  generalize l.copyAt b k (d.addr no) (blkSize d.ratio) = x at h ⊢
  obtain ⟨m, blk⟩ := x
  exact .create h

theorem Steady.sendSeries {k t s : Nat} {d : DefEnt} (hs : Steady C Q l₀ l) :
    Steady C Q l₀ (l.sendSeries b k t s d) :=
  .foldl (fun _ _ hs => .sendBlk hs) (.create (.celRead hs))

theorem Steady.writeRestCtl {v : Word} (hs : Steady C Q l₀ l) : Steady C Q l₀ (l.writeRestCtl b v) :=
  .ite (.put hs) (.ite (.put (.put hs))
    (.create ({ (.put hs : Steady C Q l₀ (l.put b F.REST_CTL_HOLDER (BitVec.toNat v))) with })))

theorem Steady.defRegs {s : Nat} {d : DefEnt} (hs : Steady C Q l₀ l) : Steady C Q l₀ (l.defRegs b s d) :=
  .put (.put (.put (.put (.put (.put (.put (.put (.put (.put (.put (.put hs)))))))))))

theorem Steady.setGen {s g : Nat} (hs : Steady C False l₀ l) : Steady C False l₀ (l.setGen s g) :=
  { hs with gens := fun c => Tab.wf_set (hs.gens c) _ _ _, gensSame := nofun }

theorem Steady.restoreSer {s : Nat} {d : DefEnt} {xs : List (Nat × Blk)} (hs : Steady C False l₀ l) :
    Steady C False l₀ (l.restoreSer b s d xs) := by
  unfold Live.restoreSer
  extract_lets l₁ no fill ring next _ l₂ l₃ l₄ l₅
  have h₂ : Steady C False l₀ l₂ := .updSer (.setGen (.defRegs hs))
  have h₅ : Steady C False l₀ l₅ := .sendCopy (.sendCopy (.bump (.celWrite h₂)))
  clear_value l₅
  exact { h₅ with }

theorem Steady.tryRestore {s : Nat} (hs : Steady C False l₀ l) : Steady C False l₀ (l.tryRestore b s) := by
  unfold Live.tryRestore
  split
  · exact hs
  · refine .ite hs ?_
    split
    · exact hs
    · split
      · exact .restoreSer hs
      · exact hs

theorem Steady.checkRestored {s a : Nat} {d : DefEnt} {x : Blk} (hs : Steady C Q l₀ l) :
    Steady C Q l₀ (l.checkRestored b s a d x) := by
  unfold Live.checkRestored
  split
  · exact hs
  · split
    · exact .logE (.bump hs)
    · exact .bump hs
    · exact hs

theorem Steady.restartSer {s : Nat} {d : DefEnt} (hs : Steady C False l₀ l) :
    Steady C False l₀ (l.restartSer b s d) := by
  unfold Live.restartSer
  exact .create (.sendCopy (.serStart (.setGen (.defRegs hs))))

theorem Steady.restoreEnd {late : Bool} (hs : Steady C False l₀ l) : Steady C False l₀ (l.restoreEnd b late) := by
  unfold Live.restoreEnd
  split
  · exact hs
  · exact .ite (.logE (.foldl (fun _ _ hs => .restartSer hs) { hs with }))
      (.logE (.foldl (fun _ _ hs => .restartSer hs) { hs with }))

theorem Steady.rplCtlStop {r : Ret} {c : Instr} (hs : Steady C Q l₀ l) : Steady C Q l₀ (l.rplCtlStop b r c) :=
  .ite (.reply hs) (.ite (.rplStop ({ (.hold hs : Steady C Q l₀ (l.hold r c)) with }))
    (.ite ({ (.hold hs : Steady C Q l₀ (l.hold r c)) with })
    (.rplEnd ({ (.hold hs : Steady C Q l₀ (l.hold r c)) with }))))

theorem Steady.rplCtlLog {p : Packet} {r : Ret} (hs : Steady C Q l₀ l) : Steady C Q l₀ (l.rplCtlLog b p r) := by
  unfold Live.rplCtlLog
  dsimp only
  split
  · exact .reply hs
  · exact .reply { hs with }

theorem Steady.readLog {a n : Nat} (hs : Steady C Q l₀ l) : Steady C Q l₀ (l.readLog b a n).1 :=
  .foldl (fun _ _ hs => .celRead hs) hs

theorem Steady.rplCtlReplay {p : Packet} {r : Ret} (hs : Steady C Q l₀ l) : Steady C Q l₀ (l.rplCtlReplay b p r) :=
  .ite (.reply hs) (.ite (.reply hs)
    (.ite (.reply (.readLog hs)) (.reply (.updPlan (.ownSyncs (.setRpl (.readLog hs)))))))

theorem Steady.rplCut {p e : Nat} (hs : Steady C Q l₀ l) : Steady C Q l₀ (l.rplCut b p e) := by
  unfold Live.rplCut
  split
  · exact .ite hs (.openCut hs)
  · exact .openCut hs

theorem Steady.rplInput {p e arg : Nat} {ws : List DWord} (hs : Steady C Q l₀ l) :
    Steady C Q l₀ (l.rplInput b p e arg ws) := by
  refine .ite (.updPlan hs) ?_
  split
  · exact hs
  · refine .ite (.updCut (.rplCut hs)) (.ite (.giveThresholds (.rplCut hs)) (.ite (.updCut (.rplCut hs)) ?_))
    split
    · exact .takeFrag (.rplCut hs)
    · exact .rplCut hs

theorem Steady.rplDecide {p e arg : Nat} {ws : List DWord} (hs : Steady C Q l₀ l) :
    Steady C Q l₀ (l.rplDecide b p e arg ws) := by
  unfold Live.rplDecide
  dsimp only
  split
  · exact .rplCut hs
  · exact .ite (.ite (.rplCut hs) (.closeLeaf (.rplCut hs)))
      (.ite (.ite (.rplCut hs) (.closeB (.updCut (.rplCut hs)))) (.ite (.ite (.decideA (.rplCut hs)) (.rplCut hs))
      (.ite (.decideB (.rplCut hs)) (.rplCut hs))))

theorem Steady.rplState {p arg : Nat} {ws : List DWord} (hs : Steady C Q l₀ l) :
    Steady C Q l₀ (l.rplState p arg ws) := by
  unfold Live.rplState
  dsimp only
  split
  · exact hs
  · exact { hs with live := fun c => Tab.wf_insert (hs.live c) _ _ }

theorem Steady.rplApply {r : Rec} (hs : Steady C Q l₀ l) : Steady C Q l₀ (l.rplApply b r) :=
  .ite hs (.ite (.rplInput hs) (.ite (.rplDecide hs) (.ite (.rplState hs) (.ite (.updCut (.rplCut hs)) hs))))

theorem Steady.rplStep (hs : Steady C Q l₀ l) : Steady C Q l₀ (l.rplStep b) := by
  unfold Live.rplStep
  split
  · exact hs
  · exact .rplApply { hs with }

theorem Steady.rplCtl {p : Packet} {r : Ret} {c : Instr} (hs : Steady C Q l₀ l) : Steady C Q l₀ (l.rplCtl b p r c) :=
  .ite (.rplCtlStop hs) (.ite (.rplCtlLog hs) (.ite (.rplCtlReplay hs) (.reply hs)))

theorem Steady.sleepExit {src : Nat} (hs : Steady C False l₀ l) : Steady C False l₀ (l.sleepExit b src) :=
  .logE (.markExit (.shapeReset { hs with }))

theorem Steady.deepExit {src : Nat} (hs : Steady C Q l₀ l) : Steady C Q l₀ (l.deepExit b src) :=
  .logE { hs with }

theorem Steady.offExit {src : Nat} : Steady C False l₀ (l.offExit b src) := by
  have h : Steady C False l₀ (l.coldReset.release l.boot.st) := .release .coldReset
  exact .logE (.put { h with })

theorem Steady.pwrExit {src : Nat} (hs : Steady C False l₀ l) : Steady C False l₀ (l.pwrExit b src) := by
  unfold Live.pwrExit
  split
  · exact hs
  · exact .idleExit hs
  · exact .sleepExit hs
  · exact .deepExit hs
  · exact .offExit

theorem Steady.wakeEvent {src : Nat} (hs : Steady C False l₀ l) : Steady C False l₀ (l.wakeEvent b src) := by
  refine .ite hs ?_
  split
  · exact .ite { hs with } hs
  · exact .ite (.pwrExit hs) hs

theorem Steady.deepEntry (hs : Steady C False l₀ l) : Steady C False l₀ (l.deepEntry b) := by
  unfold Live.deepEntry
  exact .when ({ (.aonKept hs : Steady C False l₀ (l.aonKept b BootKind.deep)) with }) (fun _ hs => .setBit hs)

theorem Steady.offEntry : Steady C False l₀ l.offEntry :=
  { Steady.coldReset (C := C) (l₀ := l₀) (l := l) with }

theorem Steady.writeWakeCtl {v : Word} (hs : Steady C Q l₀ l) : Steady C Q l₀ (l.writeWakeCtl b v) :=
  .ite (.dropCmp (.when (.put hs) (fun _ hs => .put hs))) (.ite (.when (.put hs) (fun _ hs => .put hs))
    (.ite (.armCmp (.when (.put hs) (fun _ hs => .put hs))) (.put (.when (.put hs) (fun _ hs => .put hs)))))

theorem Steady.raiseReq (hs : Steady C Q l₀ l) : Steady C Q l₀ (l.raiseReq b) := by
  unfold Live.raiseReq
  split
  · exact hs
  · exact .ite hs (.emit { hs with })

theorem Steady.pmbNext (hs : Steady C Q l₀ l) : Steady C Q l₀ (l.pmbNext) := by
  unfold Live.pmbNext
  split
  · exact hs
  · exact .emit hs

theorem Steady.updPmb {d : Nat} {f : PmbDev → PmbDev} (hs : Steady C Q l₀ l) : Steady C Q l₀ (l.updPmb d f) :=
  { hs with devs := fun c => Tab.wf_upd (hs.devs c) _ _ _ }

theorem Steady.vinSeen {d : Nat} {v : Word} (hs : Steady C Q l₀ l) : Steady C Q l₀ (l.vinSeen b d v) :=
  .ite (.ite (.logE (.updPmb hs)) (.updPmb hs)) (.updPmb hs)

theorem Steady.statusSeen {d w : Nat} (hs : Steady C Q l₀ l) : Steady C Q l₀ (l.statusSeen b d w) :=
  .ite (.logE (.updPmb hs)) (.updPmb hs)

theorem Steady.readEffects {r : RegRow} {e : Nat} (hs : Steady C Q l₀ l) : Steady C Q l₀ (l.readEffects b r e) := by
  refine .foldl (fun _ _ hs => .ite (.put hs) hs) ?_
  split
  · exact .put hs
  · exact hs

theorem Steady.regMeet {r : RegRow} {e : Nat} (hs : Steady C Q l₀ l) : Steady C Q l₀ (l.regMeet b r e) := by
  unfold Live.regMeet
  split
  · exact .meet hs
  · exact hs

theorem Steady.readReg {a : Nat} (hs : Steady C Q l₀ l) : Steady C Q l₀ (l.readReg b a).1 := by
  unfold Live.readReg
  split
  · split
    · exact .regMeet hs
    · exact .readEffects hs
  · exact hs

theorem Steady.writeField {e v : Nat} {f : Fld} (hs : Steady C Q l₀ l) : Steady C Q l₀ (l.writeField b e v f) := by
  unfold Live.writeField
  dsimp only
  split
  · exact .put hs
  · exact .put hs
  · exact hs

theorem Steady.writeFields {fs : List Fld} {e v : Nat} (hs : Steady C Q l₀ l) :
    Steady C Q l₀ (l.writeFields b fs e v) :=
  .foldl (fun _ _ hs => .writeField hs) hs

theorem Steady.unitOff {reg : Nat} {f : Fld} {i : Nat} (hs : Steady C Q l₀ l) : Steady C Q l₀ (l.unitOff b reg f i) :=
  .endGated (.ite (.markEntry (.clrBit hs)) (.ite (.linkDown (.clrBit hs)) (.clrBit hs)))

theorem Steady.unitOn {f : Fld} {i : Nat} (hs : Steady C Q l₀ l) : Steady C Q l₀ (l.unitOn b f i) :=
  .ite (.markExit (.setBit hs)) (.ite (.raiseReq (.setBit hs)) (.setBit hs))

theorem Steady.writeEn {reg : Nat} {v : Word} (hs : Steady C Q l₀ l) : Steady C Q l₀ (l.writeEn b reg v) :=
  .foldl (fun _ _ hs => .foldl (fun _ _ hs => .ite hs (.ite (.unitOn hs) (.unitOff hs))) hs) hs

theorem Steady.writeQw {k : Nat} {f : Fld} {v : Word} (hs : Steady C Q l₀ l) : Steady C Q l₀ (l.writeQw b k f v) :=
  .ite hs (.put hs)

theorem Steady.writeSer {s : Nat} {fs : List Fld} {v : Word} (hs : Steady C Q l₀ l) :
    Steady C Q l₀ (l.writeSer b s fs v) :=
  .ite hs (.writeFields hs)

theorem Steady.writeEgq {q : Nat} {v : Word} (hs : Steady C Q l₀ l) : Steady C Q l₀ (l.writeEgq b q v) :=
  .ite (.put hs) (.put (.put hs))

theorem Steady.writeQue {q : Nat} {v : Word} (hs : Steady C Q l₀ l) : Steady C Q l₀ (l.writeQue b q v) :=
  .ite (.writeFields (.writeFields hs)) (.writeFields hs)

theorem Steady.writeHalf {off o : Nat} {v : Word} (hs : Steady C Q l₀ l) : Steady C Q l₀ (l.writeHalf b off o v) :=
  .ite hs (.ite (.writeWatch hs) (.ite (.writeWatch hs) (.writeWatch hs)))

theorem Steady.writeSync {o : Nat} {v : Word} (hs : Steady C Q l₀ l) : Steady C Q l₀ (l.writeSync b o v) :=
  .ite hs (.ite (.clean (.writeSyncCfg hs)) (.writeSyncCfg hs))

theorem Steady.writeMask {d : Nat} {v : Word} (hs : Steady C Q l₀ l) : Steady C Q l₀ (l.writeMask b d v) := by
  unfold Live.writeMask
  dsimp only
  split
  · exact .statusSeen (.put hs)
  · exact .put hs

/-- A write that keeps the tables. -/
def SteadyWrite (C : Prop) (l₀ : Live) (x : Nat × (Live → Build → Nat → Word → Live)) : Prop :=
  ∀ l b e v, Steady C False l₀ l → Steady C False l₀ (x.2 l b e v)

theorem SteadyWrite.of {n : Nat} {f : Live → Build → Nat → Word → Live}
    (hf : ∀ {l b e v}, Steady C False l₀ l → Steady C False l₀ (f l b e v)) : SteadyWrite C l₀ (n, f) :=
  fun _ _ _ _ hs => hf hs

theorem steadyWrite_writers1 : ∀ x ∈ writers1, SteadyWrite C l₀ x := by
  simp only [writers1, List.forall_mem_cons]
  exact ⟨.of fun hs => .ite (.softReset hs) hs, .of fun hs => .writeEn hs, .of fun hs => .writeEn hs,
    .of fun hs => .writeEn hs, .of fun hs => .writeClkSel hs, .of fun hs => .writeOscCfg hs,
    .of fun hs => .writeFields hs, .of fun hs => .writeTimeInc hs, .of fun hs => .writeTimeCfg hs,
    .of fun hs => .writeQw hs, .of fun hs => .writeQw hs, .of fun hs => .writeQw hs,
    .of fun hs => .writeQwCtl hs, .of fun hs => .ite hs (.put hs), .of fun hs => .writeSchCtl hs,
    .of fun hs => .writeTapBind hs, .of fun hs => .writePcsCfg hs, .of fun hs => .writeSmp hs,
    .of fun hs => .writeBucket hs, .of fun hs => .writeBucket hs, .of fun hs => .writeBucket hs,
    .of fun hs => .writeBucket hs, .of fun hs => .writeEgq hs, .of fun hs => .writeQue hs,
    .of fun hs => .writeMid hs, .of fun hs => .writeMid hs, .of fun hs => .writeQmap hs,
    .of fun hs => .ite hs (.put hs), .of fun hs => .ite hs (.put hs), .of fun hs => .ite hs (.put hs),
    .of fun hs => .writeRole hs, nofun⟩

theorem steadyWrite_writers2 : ∀ x ∈ writers2, SteadyWrite C l₀ x := by
  simp only [writers2, List.forall_mem_cons]
  exact ⟨.of fun hs => .writeSerCfg hs, .of fun hs => .writeSer hs, .of fun hs => .writeSer hs,
    .of fun hs => .writeTrcCtl hs, .of fun hs => .writeSync hs, .of fun hs => .writeHalf hs,
    .of fun hs => .writeHalf hs, .of fun hs => .writeHalf hs, .of fun hs => .writeHalf hs,
    .of fun hs => .writeHalf hs, .of fun hs => .writeHalf hs, .of fun hs => .writeAttic hs,
    .of fun hs => .writePcopy hs, .of fun hs => .ite hs (.put hs), .of fun hs => .writeFields hs,
    .of fun hs => .writeRestCtl hs, .of fun hs => .writeWakeCtl hs, .of fun hs => .put hs,
    .of fun hs => .writeMask hs, .of fun hs => .writeCalu hs, nofun⟩

theorem Steady.writeRow {r : RegRow} {e : Nat} {v : Word} (hs : Steady C False l₀ l) :
    Steady C False l₀ (l.writeRow b r e v) := by
  have hrows : ∀ x ∈ (if r.off < 0x1800 then writers1 else writers2), SteadyWrite C l₀ x := by
    split
    · exact steadyWrite_writers1
    · exact steadyWrite_writers2
  unfold Live.writeRow
  split
  · next x h => exact hrows x (List.mem_of_find?_eq_some h) _ _ _ _ hs
  · exact .writeFields hs

theorem Steady.writeReg {a : Nat} {v : Word} (hs : Steady C False l₀ l) : Steady C False l₀ (l.writeReg b a v) := by
  refine .ite (.ite (.softReset hs) hs) ?_
  split
  · exact .writeRow hs
  · exact hs

theorem Steady.inTurn (hs : Steady C Q l₀ l) : Steady C Q l₀ (l.inTurn) :=
  { hs with }

theorem Steady.rangeMeet {as : List Nat} (hs : Steady C Q l₀ l) : Steady C Q l₀ (l.rangeMeet b as) := by
  refine .foldl (fun _ _ hs => ?_) hs
  split
  · exact .regMeet hs
  · exact hs

theorem Steady.readAll {as : List Nat} (hs : Steady C Q l₀ l) : Steady C Q l₀ (l.readAll b as).1 := by
  induction as generalizing l with
  | nil => exact hs
  | cons a as ih => exact ih (.readReg hs)

theorem Steady.writeAll {ws : List DWord} {as : List Nat} {first : Nat} (hs : Steady C False l₀ l) :
    Steady C False l₀ (l.writeAll b ws as first) :=
  .foldl (fun _ _ hs => .writeReg hs) hs

theorem Steady.noAck (hs : Steady C Q l₀ l) : Steady C Q l₀ (l.noAck b) :=
  .bump hs

theorem Steady.cmdNoAck {u : HsUse} {opc : Nat} {p : Packet} (hs : Steady C Q l₀ l) :
    Steady C Q l₀ (l.cmdNoAck b u opc p) := by
  unfold Live.cmdNoAck
  split
  · exact hs
  · exact .command (.when hs (fun _ hs => .bump hs)) (fun _ _ hs => .reply (.when (.noAck hs) (fun _ hs => .bump hs)))

theorem Steady.ctrNoAck {u : HsUse} {op : CtrOp} {p : Packet} {silent : List Nat} (hs : Steady C Q l₀ l) :
    Steady C Q l₀ (l.ctrNoAck b u op p silent) := by
  unfold Live.ctrNoAck
  dsimp only
  split
  · exact .command hs (fun _ _ hs => .ctrRead hs)
  · exact .command hs (fun _ _ hs => .ctrConfig hs)
  · exact .command hs (fun _ _ hs => .ctrFreeze hs)
  · exact .command hs (fun _ _ hs => .ctrFreeze hs)

theorem Steady.forgetReq {no : Nat} (hs : Steady C Q l₀ l) : Steady C Q l₀ (l.forgetReq no) :=
  { hs with }

/-- A change of the plans. -/
theorem Steady.setPlans {t : Tab Plan} (hs : Steady C Q l₀ l) (ht : C → Tab.wf t = true) :
    Steady C Q l₀ { l with plans := t } :=
  { hs with plans := ht }

theorem Steady.forget {no : Nat} (hs : Steady C Q l₀ l) : Steady C Q l₀ (l.forget b no) := by
  unfold Live.forget
  extract_lets ne _ l₁ _ l₂ _ l₃ l₄ _ l₅ _ _ l₆ l₇
  have h₃ : Steady C Q l₀ l₃ := { hs with }
  have h₄ : Steady C Q l₀ l₄ := .setPlans h₃ fun c => wf_mapVal (h₃.plans c)
  have h₆ : Steady C Q l₀ l₆ := { h₄ with }
  exact .seqNext (.raiseReq (.forgetReq h₆))

theorem Steady.waitNoAck {q : Port} (hs : Steady C Q l₀ l) : Steady C Q l₀ (l.waitNoAck b q) := by
  unfold Live.waitNoAck
  split
  · exact hs
  · refine .ite hs ?_
    split
    · exact .endLoad (.noAck hs)
    · exact .reply (.forget (.noAck hs))

theorem Steady.hsTimeout {u : HsUse} (hs : Steady C Q l₀ l) : Steady C Q l₀ (l.hsTimeout b u) := by
  unfold Live.hsTimeout
  split
  · exact hs
  · exact hs
  · exact .cmdNoAck hs
  · exact .ctrNoAck hs
  · exact .ite (.waitNoAck hs) hs
  · split
    · exact .ite hs (.reply (.noAck { hs with }))
    · exact hs
  · split
    · exact .ite (.remapLost (.noAck hs)) hs
    · exact hs
  · exact .ite hs (.cutItemsStale (.noAck hs))

theorem Steady.edge (hs : Steady C False l₀ l) : Steady C False l₀ (l.edge b) :=
  .when (.when hs (fun _ hs => .timeEdge hs)) (fun _ hs => .fogSeen (.refill (.tapEdge hs)))

theorem Steady.idleTick (hs : Steady C False l₀ l) : Steady C False l₀ (l.idleTick b) :=
  .ite (.rplStep hs) (.edge hs)

end Sys2Proof.Proofs
end

section
/-! PROOFS. The walk over the commands, which settles O57 to O60. -/

namespace Sys2Proof.Proofs

open Sys2Proof Sys2Proof.Machine Sys2Proof.Claims

variable {C Q : Prop} {l₀ l : Live} {b : Build} {s : State}

/-- An outcome that completes, with a live part that satisfies `P`; build and queue stay. -/
def Ends (s : State) (o : Host.Outcome State Fault Refusal) (P : Live → Prop) : Prop :=
  ∃ l, o = .next { s with live := l } ∧ P l

theorem Ends.run {P : Live → Prop} {f : Build → Live → Live} (h : P (f s.build s.live)) : Ends s (s.run f) P :=
  ⟨_, rfl, h⟩

theorem Ends.runAwake {f : Build → Live → Live} (hs : Steady C Q l₀ s.live)
    (h : Steady C Q l₀ (f s.build s.live)) : Ends s (s.runAwake f) (Steady C Q l₀) :=
  .run (.ite h hs)

theorem Ends.onLink {n : BitVec 5} {f : Build → Nat → Live → Live} (hs : Steady C Q l₀ s.live)
    (h : Steady C Q l₀ (f s.build n.toNat s.live)) : Ends s (s.onLink n f) (Steady C Q l₀) :=
  .runAwake hs (.ite hs h)

theorem Ends.onPort {c : Instr} {a : Nat} {f : Build → Live → Live} (hs : Steady C Q l₀ s.live)
    (hf : ∀ l, Steady C Q l₀ l → Steady C Q l₀ (f s.build l)) : Ends s (s.onPort c a f) (Steady C Q l₀) :=
  have h : Steady C Q l₀ s.live.inTurn := { hs with }
  .run (.ite { hs with } (.ite h (.ite (.emit h) (hf _ h))))

theorem Ends.portRead {c : Instr} {a : Nat} (hs : Steady C Q l₀ s.live) :
    Ends s (s.portRead c a) (Steady C Q l₀) :=
  .onPort hs fun _ hs => .emit (.readReg hs)

theorem Ends.portWriteBy {c : Instr} {a : Nat} {f : Build → Live → Live} (hs : Steady C Q l₀ s.live)
    (hf : ∀ l, Steady C Q l₀ l → Steady C Q l₀ (f s.build l)) : Ends s (s.portWriteBy c a f) (Steady C Q l₀) :=
  .onPort hs fun _ hs => hf _ (.emit hs)

theorem Ends.portWrite {c : Instr} {a : Nat} {v : Word} (hs : Steady C False l₀ s.live) :
    Ends s (s.portWrite c a v) (Steady C False l₀) :=
  .portWriteBy hs fun _ hs => .writeReg hs

theorem Steady.setRoutes {t : Tab Route} (hs : Steady C Q l₀ l) (ht : C → Tab.wf t = true) :
    Steady C Q l₀ { l with routes := t } :=
  { hs with routes := ht }

theorem Steady.setMsAcc {n : Nat} (hs : Steady C Q l₀ l) :
    Steady C Q l₀ { l with time := { l.time with msAcc := n } } :=
  { hs with }

theorem Steady.setSamples {n : Nat} (hs : Steady C Q l₀ l) :
    Steady C Q l₀ { l with eng := { l.eng with samples := n } } :=
  { hs with }

theorem Steady.setJobsDone {n : Nat} (hs : Steady C Q l₀ l) :
    Steady C Q l₀ { l with eng := { l.eng with jobsDone := n } } :=
  { hs with }

/-- The runs of the series of one sequence action. -/
theorem Steady.seqRuns {α : Type} {f : Live × List α → Nat → Live × List α}
    (hf : ∀ q j, Steady C Q l₀ q.1 → Steady C Q l₀ (f q j).1) {js : List Nat} :
    ∀ {q : Live × List α}, Steady C Q l₀ q.1 → Steady C Q l₀ (js.foldl f q).1 := by
  induction js with
  | nil => exact fun h => h
  | cons j js ih => exact fun h => ih (hf _ j h)

/-- A table that is filled in the order of its indices is in canonical form. -/
theorem sortedFrom_map_range' {α : Type} (f : Nat → α) (n : Nat) :
    ∀ m, Tab.sortedFrom m ((List.range' m n).map fun j => (j, f j)) = true := by
  induction n with
  | zero => exact fun _ => rfl
  | succ n ih => exact fun m => by simp [List.range'_succ, Tab.sortedFrom, ih]

theorem wf_sensTab {base : Nat} {raws : List (BitVec 12)} : Tab.wf (l.sensTab b base raws) = true := by
  rw [Live.sensTab, List.range_eq_range']
  exact sortedFrom_map_range' _ _ _

theorem Ends.execColdReset : Ends s (execColdReset s) (Steady C False l₀) :=
  .run .coldReset

theorem Ends.execResetRelease {st : Statics} (hs : Steady C Q l₀ s.live) :
    Ends s (execResetRelease st s) (Steady C Q l₀) :=
  .run (.ite (.release hs) hs)

theorem Ends.execOscQualified (hs : Steady C False l₀ s.live) :
    Ends s (execOscQualified s) (Steady C False l₀) := by
  have h : Steady C False l₀ { s.live with
      clk := { s.live.clk with oscQual := true, refOk := true }, boot := { s.live.boot with phase := 2 } } :=
    { hs with clk := nofun }
  exact .run (.ite hs (.ite (.emit (.setBoot h)) (.calDone h)))

theorem Ends.execCalWordAck {w : Word} (hs : Steady C False l₀ s.live) :
    Ends s (execCalWordAck w s) (Steady C False l₀) := by
  refine .run ?_
  split
  · exact hs
  · next i _ =>
    extract_lets t _ l form badForm badCrc l'
    have h : Steady C False l₀ l := { hs with calIntake := fun c => Tab.wf_insert (hs.calIntake c) _ _, cal := nofun }
    exact .ite (.emit (.setBoot h)) (.ite (.calDone (.logE (.put h))) (.calDone { h with cal := nofun }))

theorem Ends.execCalIntakeTimeout (hs : Steady C False l₀ s.live) :
    Ends s (execCalIntakeTimeout s) (Steady C False l₀) := by
  refine .run ?_
  split
  · exact hs
  · exact .calDone (.logE hs)

theorem Ends.execClockQualified {i : SwIsland} (hs : Steady C False l₀ s.live) :
    Ends s (execClockQualified i s) (Steady C False l₀) := by
  refine .run (.ite hs ?_)
  split
  · exact .bootStep { hs with clk := nofun }
  · exact .bootStep { hs with clk := nofun }

theorem Ends.execClockQualTimeout {i : SwIsland} (hs : Steady C False l₀ s.live) :
    Ends s (execClockQualTimeout i s) (Steady C False l₀) := by
  refine .run (.ite hs ?_)
  split
  · exact .ite hs (.bootStep (.logE (.put hs)))
  · exact .ite hs (.bootStep (.logE (.put hs)))

theorem Ends.execRomCheck {romOk eccOk : Bool} (hs : Steady C Q l₀ s.live) :
    Ends s (execRomCheck romOk eccOk s) (Steady C Q l₀) :=
  .run (.ite hs (.ite { hs with } (.bootFail hs)))

theorem Ends.execSramTest {ok : Bool} {aonCycles : Nat} (hs : Steady C False l₀ s.live) :
    Ends s (execSramTest ok aonCycles s) (Steady C False l₀) :=
  .run (.ite hs (.ite (.ready hs) (.bootFail hs)))

theorem Ends.execEngWaitTimeout (hs : Steady C Q l₀ s.live) : Ends s (execEngWaitTimeout s) (Steady C Q l₀) :=
  .run (.ite hs (.ite (.bootFail hs) hs))

theorem Ends.execHallPhaseEdge {tinValid : Bool} {tinNs : Word} (hs : Steady C False l₀ s.live) :
    Ends s (execHallPhaseEdge tinValid tinNs s) (Steady C False l₀) := by
  have h : Steady C False l₀
      (if tinValid then { s.live with time := { s.live.time with tinLow := false } } else s.live) :=
    .ite { hs with } hs
  refine .run ?_
  extract_lets _ l e _ l₁ _ l₂ good _ l₃
  have h₁ : Steady C False l₀ l₁ := { h with }
  have h₃ : Steady C False l₀ l₃ := { h₁.correct with }
  exact .ite h (.ite (.setTState (.ftStep { h₁ with })) (.ite (.enterLocked h₃) h₃))

theorem Ends.execSlewAbsorbed (hs : Steady C Q l₀ s.live) : Ends s (execSlewAbsorbed s) (Steady C Q l₀) :=
  .run (.ite hs (.accumulate { hs with }))

theorem Ends.execTinValidLow (hs : Steady C Q l₀ s.live) : Ends s (execTinValidLow s) (Steady C Q l₀) :=
  .run (.ite (.tinHoldover { hs with }) { hs with })

theorem Ends.execHoldoverTimeout (hs : Steady C Q l₀ s.live) : Ends s (execHoldoverTimeout s) (Steady C Q l₀) :=
  .run (.ite (.enterHoldover hs) hs)

theorem Ends.execFtMsTick (hs : Steady C Q l₀ s.live) : Ends s (execFtMsTick s) (Steady C Q l₀) :=
  .run (.ite (.setMsAcc hs) hs)

theorem Ends.execPulseFall {n : BitVec 3} (hs : Steady C False l₀ s.live) :
    Ends s (execPulseFall n s) (Steady C False l₀) := by
  refine .run (.ite hs ?_)
  extract_lets l
  have h : Steady C False l₀ l := .emit (.updPulse hs)
  split
  · exact .pulseDeferred h
  · split
    · exact .updPulse h
    · exact h

theorem Ends.execQwWindowStart {k : BitVec 2} (hs : Steady C Q l₀ s.live) :
    Ends s (execQwWindowStart k s) (Steady C Q l₀) :=
  .run (.ite (.updQw hs) hs)

theorem Ends.execQwWindowEnd {k : BitVec 2} (hs : Steady C Q l₀ s.live) :
    Ends s (execQwWindowEnd k s) (Steady C Q l₀) :=
  .run (.ite (.qwEnd hs) hs)

theorem Ends.execCtrRead {p : Packet} (hs : Steady C Q l₀ s.live) : Ends s (execCtrRead p s) (Steady C Q l₀) :=
  .run (.command hs (fun _ _ hs => .ctrRead hs))

theorem Ends.execCtrConfig {p : Packet} (hs : Steady C Q l₀ s.live) : Ends s (execCtrConfig p s) (Steady C Q l₀) :=
  .run (.command hs (fun _ _ hs => .ctrConfig hs))

theorem Ends.execCtrFreeze {p : Packet} (hs : Steady C Q l₀ s.live) : Ends s (execCtrFreeze p s) (Steady C Q l₀) :=
  .run (.command hs (fun _ _ hs => .ctrFreeze hs))

theorem Ends.execCtrThaw {p : Packet} (hs : Steady C Q l₀ s.live) : Ends s (execCtrThaw p s) (Steady C Q l₀) :=
  .run (.command hs (fun _ _ hs => .ctrFreeze hs))

theorem Ends.execSensorSetTaken {temps volts : List (BitVec 12)} {merged : Nat} (hs : Steady C Q l₀ s.live) :
    Ends s (execSensorSetTaken temps volts merged s) (Steady C Q l₀) := by
  refine .runAwake hs (.ite hs ?_)
  extract_lets sT sV talm _ l₁ l₂ l₃ l₄
  have h₁ : Steady C Q l₀ l₁ :=
    { hs with sensT := fun _ => wf_sensTab, sensV := fun _ => wf_sensTab }
  have h₄ : Steady C Q l₀ l₄ := .ite (.put (.put (.bump h₁))) (.put (.bump h₁))
  exact .ite (.create h₄) h₄

theorem Ends.execSampleTake {plan : BitVec 8} {set : BitVec 3} (hs : Steady C Q l₀ s.live) :
    Ends s (execSampleTake plan set s) (Steady C Q l₀) := by
  refine .runAwake hs ?_
  dsimp only
  split
  · exact .ite hs (.updPlan (.create hs))
  · exact hs

theorem Ends.execPcsSample {k : BitVec 2} {pc : DWord} {unit : BitVec 10} {stall : BitVec 3}
    (hs : Steady C Q l₀ s.live) :
    Ends s (execPcsSample k pc unit stall s) (Steady C Q l₀) := by
  refine .runAwake hs (.ite hs (.ite (.bump hs) ?_))
  split
  · exact .checkRetired (.bump hs)
  · exact .ite { hs with lastPc := fun c => Tab.wf_insert (hs.lastPc c) _ _ }
      (.pcsKeep { hs with lastPc := fun c => Tab.wf_insert (hs.lastPc c) _ _ })

theorem Ends.execPcsampFlushTimeout {k : BitVec 2} (hs : Steady C Q l₀ s.live) :
    Ends s (execPcsampFlushTimeout k s) (Steady C Q l₀) := by
  refine .runAwake hs ?_
  dsimp only
  split
  · exact .ite hs (.pcsSeal hs)
  · exact hs

theorem Ends.execUnitRemap {p : Packet} (hs : Steady C Q l₀ s.live) : Ends s (execUnitRemap p s) (Steady C Q l₀) := by
  refine .run (.command hs (fun _ _ hs => ?_))
  dsimp only
  split
  · exact .reply hs
  · exact .hold { hs with }

theorem Ends.execRemapSwitch (hs : Steady C False l₀ s.live) : Ends s (execRemapSwitch s) (Steady C False l₀) := by
  refine .runAwake hs ?_
  split
  · refine .ite hs ?_
    extract_lets put l
    have hput {l : Live} {r : List Nat} {t m : Bool} (h : Steady C False l₀ l) : Steady C False l₀ (put l r t m) :=
      { h with remaps := fun c => Tab.wf_insert (h.remaps c) _ _ }
    have hl : Steady C False l₀ l := by
      unfold l
      split
      · exact .ite (.sourcesSwitch (hput (.retireWatch hs))) (hput (.retireWatch hs))
      · exact hput hs
    exact .genInc hl
  · exact hs

theorem Ends.execRemapHandoverDone (hs : Steady C Q l₀ s.live) : Ends s (execRemapHandoverDone s)
  (Steady C Q l₀) := by
  refine .runAwake hs ?_
  split
  · exact .ite (.remapDone hs) hs
  · exact hs

theorem Ends.execRemapWaitTimeout (hs : Steady C Q l₀ s.live) : Ends s (execRemapWaitTimeout s) (Steady C Q l₀) := by
  refine .runAwake hs ?_
  dsimp only
  split
  · exact .reply { hs with }
  · exact .reply { hs with }
  · exact hs

theorem Ends.execStepMark {p : Packet} (hs : Steady C Q l₀ s.live) : Ends s (execStepMark p s) (Steady C Q l₀) := by
  refine .run (.command hs (fun _ _ hs => ?_))
  dsimp only
  split
  · exact .reply hs
  · exact .hold { hs with }

theorem Ends.execStepMarkApply (hs : Steady C False l₀ s.live) :
    Ends s (execStepMarkApply s) (Steady C False l₀) := by
  refine .runAwake hs ?_
  split
  · next j _ =>
    refine .ite hs ?_
    extract_lets _ l₁ l₂ old new _ l₃
    have h₁ : Steady C False l₀ l₁ := { hs with }
    have h₂ : Steady C False l₀ l₂ := .ite h₁ (.genInc h₁)
    have h₃ : Steady C False l₀ l₃ := { h₂ with steps := fun c => Tab.wf_set (h₂.steps c) _ _ _ }
    exact .reply (.logE h₃)
  · exact hs

theorem Ends.execPlanArm {p : Packet} (hs : Steady C Q l₀ s.live) : Ends s (execPlanArm p s) (Steady C Q l₀) := by
  refine .run (.command hs (fun _ _ hs => ?_))
  dsimp only
  split
  · exact .reply (.when hs (fun _ hs => .meet hs))
  · exact .ite (.reply (.enterArmed (.armCounts (.updPlan hs)))) (.updPlan (.hold (.rootArm hs)))

theorem Ends.execArmReceive {n : BitVec 5} {m : CtlMsg} (hs : Steady C Q l₀ s.live) :
    Ends s (execArmReceive n m s) (Steady C Q l₀) := by
  refine .run (.ite hs (.takeBcast hs (fun _ hs => ?_)))
  dsimp only
  split
  · exact .tryReport (.enterArming (.updPlan hs))
  · exact .ite (.logE (.when (.updPlan hs) (fun _ hs => .meet hs)))
      (.tryReport (.setPlan (.logE (.when (.updPlan hs) (fun _ hs => .meet hs)))))

theorem Ends.execReportReceive {n : BitVec 5} {m : CtlMsg} (hs : Steady C Q l₀ s.live) :
    Ends s (execReportReceive n m s) (Steady C Q l₀) := by
  refine .run (.ite hs (.readsPlan (.seqMismatch hs) (fun _ hs => ?_)))
  dsimp only
  split
  · exact .ite hs (.tryReport (.setPlan hs))
  · exact hs

theorem Ends.execReportDeadline {plan : BitVec 8} (hs : Steady C Q l₀ s.live) :
    Ends s (execReportDeadline plan s) (Steady C Q l₀) :=
  .runAwake hs (.ite (.sendReport hs) hs)

theorem Ends.execGoDecision {plan : BitVec 8} (hs : Steady C Q l₀ s.live) :
    Ends s (execGoDecision plan s) (Steady C Q l₀) :=
  .runAwake hs (.ite hs (.ite (.answerLeft (.enterArmed (.bcast (.updPlan (.put (.put (.put hs)))))))
    (.abortPlan (.put (.put (.put hs))))))

theorem Ends.execGoReceive {n : BitVec 5} {m : CtlMsg} (hs : Steady C Q l₀ s.live) :
    Ends s (execGoReceive n m s) (Steady C Q l₀) :=
  .run (.ite hs (.takeBcast hs (fun _ hs => .ite (.readsPlan hs (fun _ hs => .enterArmed hs)) hs)))

theorem Ends.execArmingTimeout {plan : BitVec 8} (hs : Steady C Q l₀ s.live) :
    Ends s (execArmingTimeout plan s) (Steady C Q l₀) :=
  .runAwake hs (.ite (.abortCopy (.logE hs)) hs)

theorem Ends.execPlanTeardownReached {plan : BitVec 8} (hs : Steady C Q l₀ s.live) :
    Ends s (execPlanTeardownReached plan s) (Steady C Q l₀) :=
  .runAwake hs (.tearDue hs)

theorem Ends.execPlanStart {plan : BitVec 8} (hs : Steady C Q l₀ s.live) :
    Ends s (execPlanStart plan s) (Steady C Q l₀) :=
  .runAwake hs (.ite (.pull hs)
    (.readsPlan (.pull hs)
    (fun _ hs => .checkBuoys
    (.startCuts (.ite (.startQw (.updPlan (.useFired (.foldl (fun _ _ hs => .ite hs (.tearDue hs)) hs))))
    (.startLives (.updPlan (.updPlan (.useFired (.foldl (fun _ _ hs => .ite hs (.tearDue hs)) hs))))))))))

theorem Ends.execPlanTeardown {p : Packet} (hs : Steady C Q l₀ s.live) :
    Ends s (execPlanTeardown p s) (Steady C Q l₀) := by
  refine .run (.command hs (fun _ _ hs => .ite (.ite (.reply (.setPlan (.replyAll hs))) (.reply hs)) ?_))
  dsimp only
  split
  · exact .reply hs
  · exact .ite (.reply hs) (.reply (.teardownAt hs))

theorem Ends.execTeardownReceive {n : BitVec 5} {m : CtlMsg} (hs : Steady C Q l₀ s.live) :
    Ends s (execTeardownReceive n m s) (Steady C Q l₀) :=
  .run (.ite hs (.takeBcast hs
    (fun _ hs => .ite hs (.ite (.abortCopy (.logE hs)) (.passTeardown (.armTeardown hs))))))

theorem Ends.execPlanAbort {p : Packet} (hs : Steady C Q l₀ s.live) : Ends s (execPlanAbort p s) (Steady C Q l₀) :=
  .run (.command hs (fun _ _ hs => .ite (.reply hs) (.reply (.abortPlan hs))))

theorem Ends.execAbortReceive {n : BitVec 5} {m : CtlMsg} (hs : Steady C Q l₀ s.live) :
    Ends s (execAbortReceive n m s) (Steady C Q l₀) :=
  .run (.ite hs (.takeBcast hs fun _ hs => .ite (.abortCopy hs)
    (.setPlans hs fun c => Tab.wf_upd (hs.plans c) _ _ _)))

theorem Ends.execUpwardAbortReceive {n : BitVec 5} {m : CtlMsg} (hs : Steady C Q l₀ s.live) :
    Ends s (execUpwardAbortReceive n m s) (Steady C Q l₀) :=
  .run (.ite hs (.ite (.seqMismatch hs) (.ite (.ite (.abortPlan (.logE (.seqMismatch hs))) (.seqMismatch hs))
    (.abortUp (.seqMismatch hs)))))

theorem Ends.execLossReceive {n : BitVec 5} {m : CtlMsg} (hs : Steady C Q l₀ s.live) :
    Ends s (execLossReceive n m s) (Steady C Q l₀) :=
  .run (.ite hs (.ite (.seqMismatch hs) (.lossAt (.seqMismatch hs))))

theorem Ends.execCutAt {p : Packet} (hs : Steady C Q l₀ s.live) : Ends s (execCutAt p s) (Steady C Q l₀) :=
  .run (.command hs (fun _ _ hs => .ite (.cutAtBuoy hs) (.cutAtRoot hs)))

theorem Ends.execCutcallReceive {n : BitVec 5} {m : CtlMsg} (hs : Steady C Q l₀ s.live) :
    Ends s (execCutcallReceive n m s) (Steady C Q l₀) :=
  .run (.ite hs (.takeBcast hs (fun _ hs => .ite hs (.readsPlan hs (fun _ hs => .callBuoys (.armCut (.rplLog hs)))))))

theorem Ends.execCutLatch {plan : BitVec 8} (hs : Steady C Q l₀ s.live) :
    Ends s (execCutLatch plan s) (Steady C Q l₀) := by
  refine .runAwake hs ?_
  dsimp only
  split
  · exact .foldl (fun _ _ hs => .pull hs) (.pull hs)
  · exact .ite (.foldl (fun _ _ hs => .pull hs) (.pull hs))
      (.ite (.updPlan (.useFired (.foldl (fun _ _ hs => .pull hs) (.pull hs))))
      (.readsPlan (.updPlan (.useFired (.foldl (fun _ _ hs => .pull hs) (.pull hs))))
      (fun _ hs => .ite (.latchBuoy (.updPlan hs)) (.openCut (.rplStart (.updPlan hs))))))

theorem Ends.execCutvecAssembled {plan : BitVec 8} (hs : Steady C Q l₀ s.live) :
    Ends s (execCutvecAssembled plan s) (Steady C Q l₀) := by
  refine .runAwake hs ?_
  dsimp only
  split
  · exact .ite hs (.create (.readLatch (.updPlan hs)))
  · exact hs

theorem Ends.execCutvecReceive {n : BitVec 5} {r : Rec} (hs : Steady C Q l₀ s.live) :
    Ends s (execCutvecReceive n r s) (Steady C Q l₀) := by
  refine .run (.ite hs ?_)
  dsimp only
  split
  · exact .bump hs
  · split
    · split
      · exact .bump hs
      · exact .ite (.bump hs) (.ite hs (.ite (.poison hs) (.takeVec hs)))
    · exact .bump hs

theorem Ends.execLeafClose {plan : BitVec 8} (hs : Steady C Q l₀ s.live) :
    Ends s (execLeafClose plan s) (Steady C Q l₀) := by
  refine .runAwake hs ?_
  dsimp only
  split
  · exact .ite hs (.readsPlan hs (fun _ hs => .checkBuoys (.closeLeaf hs)))
  · exact hs

theorem Ends.execPartialReceive {n : BitVec 5} {r : Rec} (hs : Steady C Q l₀ s.live) :
    Ends s (execPartialReceive n r s) (Steady C Q l₀) := by
  refine .run (.ite hs ?_)
  split
  · exact hs
  · split
    · exact .bump hs
    · exact .ite hs (.ite (.bump hs) (.ite (.poison hs) (.readsPlan hs (fun _ hs => .takeFrag hs))))

theorem Ends.execStageDeadline {plan : BitVec 8} {stage : BitVec 2} {phaseB : Bool} (hs : Steady C Q l₀ s.live) :
    Ends s (execStageDeadline plan stage phaseB s) (Steady C Q l₀) := by
  refine .runAwake hs ?_
  dsimp only
  split
  · exact .ite hs (.readsPlan hs (fun _ hs => .ite (.ite (.climbB (.decideB hs)) hs)
      (.ite (.climbA (.decideA hs)) hs)))
  · exact hs

theorem Ends.execThresholdsReceive {n : BitVec 5} {r : Rec} (hs : Steady C Q l₀ s.live) :
    Ends s (execThresholdsReceive n r s) (Steady C Q l₀) := by
  refine .run ?_
  dsimp only
  split
  · exact .ite hs (.ite (.poison hs)
      (.readsPlan hs (fun _ hs => .giveThresholds (.foldl (fun _ _ hs => .updLink hs) (.rplLog hs)))))
  · exact hs

theorem Ends.execBuoyThresholds {r : Rec} (hs : Steady C Q l₀ s.live) :
    Ends s (execBuoyThresholds r s) (Steady C Q l₀) := by
  refine .runAwake hs ?_
  dsimp only
  split
  · refine .ite hs ?_
    split
    · exact .buoyCan (.buoyB (.readLatch (.updPlan hs)))
    · exact .buoyB (.readLatch (.updPlan hs))
  · exact hs

theorem Ends.execPhaseBReceive {n : BitVec 5} {r : Rec} (hs : Steady C Q l₀ s.live) :
    Ends s (execPhaseBReceive n r s) (Steady C Q l₀) := by
  refine .run ?_
  dsimp only
  split
  · exact .ite hs (.ite (.poison hs) (.readsPlan hs (fun _ hs => .updCut (.rplLog hs))))
  · exact hs

theorem Ends.execPhaseBClose {plan : BitVec 8} (hs : Steady C Q l₀ s.live) :
    Ends s (execPhaseBClose plan s) (Steady C Q l₀) := by
  refine .runAwake hs ?_
  dsimp only
  split
  · exact .ite hs (.readsPlan hs (fun _ hs => .readsPart hs (fun _ hs => .closeB hs)))
  · exact hs

theorem Ends.execPlanLoad {p : Packet} (hs : Steady C Q l₀ s.live) : Ends s (execPlanLoad p s) (Steady C Q l₀) :=
  .run (.command hs (fun _ _ hs => .ite (.planLoadB hs) (.planLoadL hs)))

theorem Ends.execModelLoad {p : Packet} (hs : Steady C Q l₀ s.live) : Ends s (execModelLoad p s) (Steady C Q l₀) :=
  .run (.command (.when hs (fun _ hs => .bump hs)) (fun _ _ hs => .ite (.modelLoadB hs) (.modelLoadL hs)))

theorem Ends.execModelLoadSlotFree {isSeq : Bool} {slot : BitVec 4} (hs : Steady C Q l₀ s.live) :
    Ends s (execModelLoadSlotFree isSeq slot s) (Steady C Q l₀) := by
  refine .runAwake hs ?_
  dsimp only
  split
  · exact .ite hs (.issueReads (.modelGo hs))
  · exact hs

theorem Ends.execLoaddatReceive {n : BitVec 5} {rtag : BitVec 8} {err : Bool} {data : List DWord}
    (hs : Steady C Q l₀ s.live) :
    Ends s (execLoaddatReceive n rtag err data s) (Steady C Q l₀) := by
  refine .runAwake hs (.ite hs ?_)
  split
  · exact .frameErr hs
  · refine .ite (.frameErr hs) (.issueReads ?_)
    split
    · exact .updLink hs
    · exact .ite (.endLoad (.updLink hs)) (.loadData (.updLoad (.updLink hs)))

theorem Ends.execPlanVerify {p : Packet} (hs : Steady C False l₀ s.live) :
    Ends s (execPlanVerify p s) (Steady C False l₀) := by
  refine .run (.command hs (fun _ _ hs => .ite (.reply hs) (.ite (.reply (.setPlan (.meet hs))) ?_)))
  dsimp only
  split
  · exact .reply (.setPlan hs)
  · exact .ite (.reply (.setPlan hs)) (.ite (.reply (.setPlan { hs with table := nofun }))
      (.ownCmds (.hold (.setPlan { hs with table := nofun }))))

theorem Ends.execActionTrigger {plan entry : BitVec 8} (hs : Steady C Q l₀ s.live) :
    Ends s (execActionTrigger plan entry s) (Steady C Q l₀) := by
  refine .runAwake hs ?_
  dsimp only
  split
  · exact hs
  · exact .readsPlan hs (fun _ hs => .ite (.settle (.setPlan hs))
      (.ite (.backlog (.setPlan hs)) (.updPlan (.setPlan hs))))

theorem Ends.execTreeActionRun {plan entry : BitVec 8} (hs : Steady C Q l₀ s.live) :
    Ends s (execTreeActionRun plan entry s) (Steady C Q l₀) := by
  refine .runAwake hs ?_
  dsimp only
  split
  · exact hs
  · refine .ite hs (.readsPlan hs fun l hs => .ite (.actionPoison (.readSamples hs))
      (.actionDone (.setSamples (.sendAction ?_))))
    exact .readSamples hs

theorem Ends.execSeqActionRun {plan entry : BitVec 8} (hs : Steady C Q l₀ s.live) :
    Ends s (execSeqActionRun plan entry s) (Steady C Q l₀) := by
  refine .runAwake hs ?_
  dsimp only
  split
  · exact hs
  · refine .ite hs (.readsPlan hs fun l hs => .ite (.rplStop hs) (.ite (.actionPoison (.bump (.seqRuns ?_ hs)))
      (.actionDone (.setJobsDone (.foldl (fun _ _ hs => .sendAction hs) (.seqRuns ?_ hs))))))
    all_goals
      intro q j hq
      dsimp only
      split
      · exact .liveRun hq
      · exact .windowRun hq

theorem Ends.execCanaryRunDone {plan units : BitVec 8} {pipes : BitVec 16} {ended : Bool} {load : CanLoad}
    (hs : Steady C Q l₀ s.live) :
    Ends s (execCanaryRunDone plan units pipes ended load s) (Steady C Q l₀) := by
  refine .runAwake hs ?_
  dsimp only
  split
  · exact hs
  · exact .ite (.keepCanary (.ite (.canaryRan hs) (.canaryNotRun hs)))
      (.updCut (.ite (.canaryRan hs) (.canaryNotRun hs)))

theorem Ends.execRerouteHoldExpiry {src : BitVec 18} {stream : BitVec 14} (hs : Steady C Q l₀ s.live) :
    Ends s (execRerouteHoldExpiry src stream s) (Steady C Q l₀) :=
  .run (.setRoutes hs fun c => wf_mapVal (hs.routes c))

theorem Ends.execQueueIdleTimeout {q : BitVec 12} (hs : Steady C Q l₀ s.live) :
    Ends s (execQueueIdleTimeout q s) (Steady C Q l₀) :=
  .runAwake hs (.ite hs (.notice hs))

theorem Ends.execMiddlePageReturn {q : BitVec 12} {poisoned : BitVec 16} (hs : Steady C Q l₀ s.live) :
    Ends s (execMiddlePageReturn q poisoned s) (Steady C Q l₀) :=
  .runAwake hs (.ite hs (.pageBack hs))

theorem Ends.execSpillTimeout (hs : Steady C False l₀ s.live) : Ends s (execSpillTimeout s) (Steady C False l₀) :=
  .runAwake hs (.ite hs (.logE { hs with spillFail := nofun }))

theorem Ends.execCellarTimeout {m : BitVec 4} (hs : Steady C False l₀ s.live) :
    Ends s (execCellarTimeout m s) (Steady C False l₀) :=
  .runAwake hs (.ite hs (.logE { hs with celFail := nofun }))

theorem Ends.execBmonAccess {a : Access} (hs : Steady C Q l₀ s.live) :
    Ends s (execBmonAccess a s) (Steady C Q l₀) :=
  .runAwake hs (.ite hs (.watchAll (.record (.reachBmon (.ite (.checkRetired (.bump hs)) hs)))))

theorem Ends.execPulseRise {n : BitVec 3} (hs : Steady C False l₀ s.live) :
    Ends s (execPulseRise n s) (Steady C False l₀) :=
  .run (.ite hs (.pulseRise hs))

theorem Ends.execTraceTriggerEvent {srcs : BitVec 8} (hs : Steady C Q l₀ s.live) :
    Ends s (execTraceTriggerEvent srcs s) (Steady C Q l₀) :=
  .runAwake hs (.ite hs (.ite (.trigger (.reachBmon hs)) (.reachBmon hs)))

theorem Ends.execBmonClockStop (hs : Steady C Q l₀ s.live) : Ends s (execBmonClockStop s) (Steady C Q l₀) :=
  .run (.ite hs (.ite (.updTrace hs) (.updTrace hs)))

theorem Ends.execBmonClockResume (hs : Steady C Q l₀ s.live) :
    Ends s (execBmonClockResume s) (Steady C Q l₀) := by
  have h : Steady C Q l₀ (s.live.updTrace fun t => { t with clkStop := false }) := .updTrace hs
  exact .run (.ite hs (.ite (.setBoot h) (.markExit (.setBoot h))))

theorem Ends.execTraceArm {p : Packet} (hs : Steady C Q l₀ s.live) : Ends s (execTraceArm p s) (Steady C Q l₀) :=
  .run (.command hs (fun _ _ hs => .traceCmd hs))

theorem Ends.execTraceDisarm {p : Packet} (hs : Steady C Q l₀ s.live) :
    Ends s (execTraceDisarm p s) (Steady C Q l₀) :=
  .run (.command hs (fun _ _ hs => .traceCmd hs))

theorem Ends.execTraceRead {p : Packet} (hs : Steady C Q l₀ s.live) :
    Ends s (execTraceRead p s) (Steady C Q l₀) := by
  refine .run (.command hs fun _ _ hs => .ite (.reply hs) (.toBmon hs fun l hs => ?_))
  split
  · exact .reply hs
  · exact .ite (.reply (.readSlots hs)) (.reply (.slotsOut hs))

theorem Ends.execLogRead {p : Packet} (hs : Steady C Q l₀ s.live) : Ends s (execLogRead p s) (Steady C Q l₀) := by
  refine .run (.command hs (fun _ _ hs => ?_))
  dsimp only
  split
  · exact .reply hs
  · split
    · exact .discardEnt (.reply hs)
    · exact .reply (.removeEnts hs)

theorem Ends.execLogDrain (hs : Steady C Q l₀ s.live) : Ends s (execLogDrain s) (Steady C Q l₀) :=
  .runAwake hs (.ite hs (.ite (.drainPoison hs) (.drainRec (.drainPoison hs))))

theorem Ends.execQueueAdmit {i cycles : Nat} (hs : Steady C Q l₀ s.live) :
    Ends s (execQueueAdmit i cycles s) (Steady C Q l₀) :=
  .runAwake hs (.ite (.flushGaps hs) (.ite (.admitNext hs) (.ite (.admitSlot hs) hs)))

theorem Ends.execClockSwitchDone (hs : Steady C False l₀ s.live) :
    Ends s (execClockSwitchDone s) (Steady C False l₀) := by
  refine .run ?_
  split
  · exact hs
  · exact .switchesDone { hs with clk := nofun }

theorem Ends.execClockFallback {i : SwIsland} (hs : Steady C False l₀ s.live) :
    Ends s (execClockFallback i s) (Steady C False l₀) :=
  .run (.ite hs (.fallback hs))

theorem Ends.execPortClockQualLost {i : SwIsland} (hs : Steady C False l₀ s.live) :
    Ends s (execPortClockQualLost i s) (Steady C False l₀) :=
  .run (.ite hs (.ite (.fallback hs) { hs with clk := nofun }))

theorem Ends.execTrimWindow {src : TrimSrc} {count winCount : Nat} (hs : Steady C False l₀ s.live) :
    Ends s (execTrimWindow src count winCount s) (Steady C False l₀) := by
  have h : Steady C False l₀
      (if src = .clkRef then { s.live with clk := { s.live.clk with refOk := true } } else s.live) :=
    .ite (.setClk hs) hs
  exact .run (.ite hs (.ite h (.ite (.setClk h) (.ite (.acquire (.setClk h)) (.track (.setClk h))))))

theorem Ends.execClkRefLost (hs : Steady C False l₀ s.live) : Ends s (execClkRefLost s) (Steady C False l₀) :=
  .run (.ite hs (.setClk (.when hs fun _ hs => .spoilWindow hs)))

theorem Ends.execTimexInterval (hs : Steady C Q l₀ s.live) : Ends s (execTimexInterval s) (Steady C Q l₀) :=
  .runAwake hs (.ite hs (.checkBuoys (.foldl (fun _ _ hs => .sendReq hs) hs)))

theorem Ends.execTimexRsp {n : BitVec 5} {r : Rec} (hs : Steady C Q l₀ s.live) :
    Ends s (execTimexRsp n r s) (Steady C Q l₀) :=
  .runAwake hs (.ite hs (.checkBuoys { hs with peers := fun c => Tab.wf_set (hs.peers c) _ _ _ }))

theorem Ends.execTimexReq {r : Rec} (hs : Steady C False l₀ s.live) :
    Ends s (execTimexReq r s) (Steady C False l₀) :=
  .runAwake hs (.ite hs (.ite (.bump hs) (.ite hs (.sendRsp (.takeReq hs)))))

theorem Ends.execRetrainTimer {n : BitVec 5} (hs : Steady C Q l₀ s.live) :
    Ends s (execRetrainTimer n s) (Steady C Q l₀) :=
  .onLink hs (.ite hs (.ite (.put hs) (.updLink hs)))

theorem Ends.execLanesUp {n : BitVec 5} (hs : Steady C Q l₀ s.live) : Ends s (execLanesUp n s) (Steady C Q l₀) :=
  .onLink hs (.ite hs (.updLink hs))

theorem Ends.execTrainingTimeout {n : BitVec 5} (hs : Steady C Q l₀ s.live) :
    Ends s (execTrainingTimeout n s) (Steady C Q l₀) :=
  .onLink hs (.ite hs (.ite (.logE (.bump (.updLink hs))) (.bump (.updLink hs))))

theorem Ends.execInitTimeout {n : BitVec 5} (hs : Steady C Q l₀ s.live) :
    Ends s (execInitTimeout n s) (Steady C Q l₀) :=
  .onLink hs (.ite hs (.bump (.linkReset hs)))

theorem Ends.execStatusRepeat {n : BitVec 5} (hs : Steady C Q l₀ s.live) :
    Ends s (execStatusRepeat n s) (Steady C Q l₀) :=
  .onLink hs (.ite hs (.updLink hs))

theorem Ends.execLanesDown {n : BitVec 5} (hs : Steady C Q l₀ s.live) :
    Ends s (execLanesDown n s) (Steady C Q l₀) :=
  .onLink hs (.linkDown hs)

theorem Ends.execReplayTimeout {n : BitVec 5} (hs : Steady C Q l₀ s.live) :
    Ends s (execReplayTimeout n s) (Steady C Q l₀) :=
  .onLink hs (.ite hs (.startReplay hs))

theorem Ends.execStatusReceive {n : BitVec 5} {u : RxUnit} (hs : Steady C Q l₀ s.live) :
    Ends s (execStatusReceive n u s) (Steady C Q l₀) :=
  .onLink hs (.ite hs (.ite (.frameErr hs)
    (.ite (.bump hs) (.ite (.frameErr hs) (.ite (.startReplay (.releaseBuoys (.updLink (.updLink hs))))
    (.releaseBuoys (.updLink (.updLink hs))))))))

theorem Ends.execPlanUnitLate {n : BitVec 5} (hs : Steady C Q l₀ s.live) :
    Ends s (execPlanUnitLate n s) (Steady C Q l₀) := by
  refine .onLink hs ?_
  split
  · exact hs
  · refine .settle (.bump ?_)
    split
    · exact .skip (.updLink hs)
    · exact .updLink hs

theorem Ends.execLinkTransmit {n : BitVec 5} (hs : Steady C Q l₀ s.live) :
    Ends s (execLinkTransmit n s) (Steady C Q l₀) := by
  refine .onLink hs (.ite (.ite (.sendStatus hs) hs) (.ite hs (.ite ?_ (.ite (.sendStatus hs) ?_))))
  · split
    · exact .sendAgain hs
    · exact hs
  · split
    · exact .ite (.sendPln hs) (.transmitFree (.noteHeads (.dropLost hs)))
    · exact .transmitFree (.noteHeads (.dropLost hs))

theorem Ends.execUnitReceive {n : BitVec 5} {u : RxUnit} (hs : Steady C Q l₀ s.live) :
    Ends s (execUnitReceive n u s) (Steady C Q l₀) :=
  .onLink hs (.ite hs (.ite (.frameErr hs)
    (.ite (.resyncAt (.bump hs)) (.ite (.updLink hs) (.ite (.resyncAt hs) (.ite hs (.acceptUnit (.takeUnit hs))))))))

theorem Ends.execLinkResynchronisationEnd {n : BitVec 5} (hs : Steady C Q l₀ s.live) :
    Ends s (execLinkResynchronisationEnd n s) (Steady C Q l₀) :=
  .onLink hs (.updLink hs)

theorem Ends.execRecordAged {a : AgeAt} (hs : Steady C False l₀ s.live) :
    Ends s (execRecordAged a s) (Steady C False l₀) := by
  refine .runAwake hs (.ite hs ?_)
  split
  · exact .ite (.ageCtl hs) (.ageCtl hs)
  · dsimp only
    split
    · exact .bump (.discardAt hs)
    · exact hs

theorem Ends.execNop {p : Packet} (hs : Steady C Q l₀ s.live) : Ends s (execNop p s) (Steady C Q l₀) :=
  .run (.command hs (fun _ _ hs => .reply hs))

theorem Ends.execUnknownOpcode {opc : BitVec 8} {p : Packet} (hs : Steady C Q l₀ s.live) :
    Ends s (execUnknownOpcode opc p s) (Steady C Q l₀) :=
  .run (.ite hs (.packet hs (fun _ _ hs => .ite (.reply hs) (.ite (.reply (.bump hs)) (.reply hs)))))

theorem Ends.execCalWrite {p : Packet} (hs : Steady C False l₀ s.live) :
    Ends s (execCalWrite p s) (Steady C False l₀) :=
  .run (.command hs (fun _ _ hs => .ite (.reply hs) (.reply (.writeCalu hs))))

theorem Ends.execPulseArm {p : Packet} (hs : Steady C False l₀ s.live) :
    Ends s (execPulseArm p s) (Steady C False l₀) := by
  refine .run (.command hs (fun _ _ hs => ?_))
  dsimp only
  split
  · exact .reply hs
  · exact .reply (.ite (.updPulse hs) (.ite (.pulseDisarm hs) (.pulseArm hs)))

theorem Ends.execWordTimeout {h : CutOff} (hs : Steady C Q l₀ s.live) :
    Ends s (execWordTimeout h s) (Steady C Q l₀) :=
  .runAwake hs (.ite hs (.packet (.bump hs) (fun _ _ hs => .reply hs)))

theorem Ends.execMgmtReplySend (hs : Steady C Q l₀ s.live) : Ends s (execMgmtReplySend s) (Steady C Q l₀) := by
  refine .run ?_
  split
  · exact .emit { hs with }
  · exact hs

theorem Ends.execFabRxBadRecord {ws : List DWord} (hs : Steady C Q l₀ s.live) :
    Ends s (execFabRxBadRecord ws s) (Steady C Q l₀) := by
  refine .runAwake hs (.ite hs ?_)
  split
  · exact .bump hs
  · exact hs

theorem Ends.execInbandCmdForward {n : BitVec 5} {r : Rec} (hs : Steady C Q l₀ s.live) :
    Ends s (execInbandCmdForward n r s) (Steady C Q l₀) := by
  refine .runAwake hs (.ite hs ?_)
  extract_lets h ret tag p a
  have ha : Steady C Q l₀ a.1 := .arrive (.wakeIdle hs)
  split
  · exact .reply ha
  · exact .sendOn (.setCmd (.dropLate ha))

theorem Ends.execInbandReplyReturn {n : BitVec 5} {r : Rec} (hs : Steady C Q l₀ s.live) :
    Ends s (execInbandReplyReturn n r s) (Steady C Q l₀) := by
  refine .runAwake hs (.ite hs ?_)
  split
  · exact .bump (.dropLate hs)
  · exact .bump hs
  · refine .ite hs ?_
    split
    · split
      · exact .answerLink (.dropFwd hs)
      · exact .dropFwd hs
    · exact .ownAnswer (.dropFwd hs)
    · exact .dropFwd hs

theorem Ends.execForwardTimeout {dst : BitVec 18} {dlan : Bool} (hs : Steady C Q l₀ s.live) :
    Ends s (execForwardTimeout dst dlan s) (Steady C Q l₀) := by
  refine .runAwake hs ?_
  split
  · exact hs
  · next e _ =>
    have h : Steady C Q l₀ ((s.live.dropFwd e).bump s.build F.CMD_STAT_FWD_TMO_CNT) := .bump (.dropFwd hs)
    dsimp only
    split
    · exact .reply (.setCmd h)
    · exact .ownAnswer h
    · exact h

theorem Ends.execEgressSelect {inWindow : List Word} (hs : Steady C False l₀ s.live) :
    Ends s (execEgressSelect inWindow s) (Steady C False l₀) := by
  refine .runAwake hs (.ite hs (.ite (.holdCounts (.refill hs)) (.ite (.bump (.holdCounts (.refill hs))) ?_)))
  dsimp only
  split
  · exact .holdCounts (.refill hs)
  · exact .foldl (fun _ _ hs => .logE (.bump hs)) (.select (.holdCounts (.refill hs)))

theorem Ends.execShaperSample (hs : Steady C False l₀ s.live) :
    Ends s (execShaperSample s) (Steady C False l₀) := by
  refine .runAwake hs ?_
  split
  · refine .ite hs ?_
    extract_lets l next
    have h : Steady C False l₀ l := .sampleQueues hs
    clear_value l
    exact { h with shape := nofun }
  · exact hs

theorem Ends.execHangDump {p : Packet} (hs : Steady C Q l₀ s.live) : Ends s (execHangDump p s) (Steady C Q l₀) := by
  refine .run (.command hs (fun _ _ hs => ?_))
  split
  · exact .reply hs
  · exact .ite (.toBmon hs (fun _ hs => .raiseTrig (.dump (.hold hs)))) (.hold (.ownCmds { hs with }))

theorem Ends.execHangSnapshot (hs : Steady C Q l₀ s.live) : Ends s (execHangSnapshot s) (Steady C Q l₀) := by
  refine .runAwake hs ?_
  split
  · exact hs
  · exact .ite hs (.dump { hs with })

theorem Ends.execScrubWalkerRead {mem : BitVec 8} {e : EccOutcome} {lapMs : Nat} (hs : Steady C False l₀ s.live) :
    Ends s (execScrubWalkerRead mem e lapMs s) (Steady C False l₀) :=
  .runAwake hs (.ite hs (.ite (.walkOn hs) (.ite (.uncorrectable (.walkOn hs))
    (.ite (.walkOn (.setLapCe (.corrected hs) fun c => Tab.wf_upd (hs.corrected.lapCe c) _ _ _)) (.walkOn hs)))))

theorem Ends.execScrubRange {p : Packet} (hs : Steady C Q l₀ s.live) :
    Ends s (execScrubRange p s) (Steady C Q l₀) := by
  refine .run (.command hs (fun _ _ hs => ?_))
  dsimp only
  split
  · exact .reply hs
  · exact .hold { hs with }

theorem Ends.execScrubRangeDone {corrected uncorrectable : Nat} {first : DWord} (hs : Steady C False l₀ s.live) :
    Ends s (execScrubRangeDone corrected uncorrectable first s) (Steady C False l₀) := by
  refine .runAwake hs ?_
  split
  · exact hs
  · exact .ite hs (.ite (.foldl (fun _ _ hs => .uncorrectable hs)
      (.foldl (fun _ _ hs => .ueSeen hs) (.corrected { hs with })))
      (.reply (.foldl (fun _ _ hs => .uncorrectable hs)
      (.foldl (fun _ _ hs => .ueSeen hs) (.corrected { hs with })))))

theorem Ends.execTreeQuery {p : Packet} (hs : Steady C Q l₀ s.live) :
    Ends s (execTreeQuery p s) (Steady C Q l₀) := by
  refine .run (.command hs fun _ _ hs => ?_)
  dsimp only
  split
  · exact .reply hs
  · exact { (Steady.hold hs) with }

theorem Ends.execTreeQueryDone {slot : BitVec 4} (hs : Steady C Q l₀ s.live) :
    Ends s (execTreeQueryDone slot s) (Steady C Q l₀) := by
  refine .runAwake hs ?_
  dsimp only
  split
  · exact hs
  · exact .ite hs (.ite (.reply (.cleanQuery (.readSamples { hs with })))
      (.reply (.cleanQuery (.readSamples { hs with }))))

theorem Ends.execSeqQuery {p : Packet} (hs : Steady C Q l₀ s.live) :
    Ends s (execSeqQuery p s) (Steady C Q l₀) :=
  .run (.command hs fun l r hs =>
    have h : Steady C Q l₀ (l.hold r (.seqQuery p)) := .hold hs
    .seqTurn { h with })

theorem Ends.execSeqJobDone (hs : Steady C Q l₀ s.live) : Ends s (execSeqJobDone s) (Steady C Q l₀) := by
  refine .runAwake hs ?_
  split
  · exact hs
  · refine .ite hs ?_
    extract_lets rd l₁ l₂ res _ l₃ l₄ l₅
    have h₂ : Steady C Q l₀ l₂ := .ite (.countRead hs) (.meet (.countRead hs))
    have h₃ : Steady C Q l₀ l₃ := { h₂ with }
    exact .seqTurn (.reply (.when h₃ fun _ hs => .bump hs))

theorem Ends.execSeriesSample (hs : Steady C Q l₀ s.live) : Ends s (execSeriesSample s) (Steady C Q l₀) := by
  refine .runAwake hs ?_
  split
  · exact hs
  · exact .ite { hs with } (.intake { hs with })

theorem Ends.execBlockCode {series : BitVec 16} (hs : Steady C Q l₀ s.live) :
    Ends s (execBlockCode series s) (Steady C Q l₀) := by
  refine .runAwake hs ?_
  dsimp only
  split
  · exact hs
  · refine .celWrite (.updSer (.when ?_ fun _ hs => .logE (.bump hs)))
    split
    · exact hs
    · exact .readStage hs

theorem Ends.execBlockCommit {series : BitVec 16} (hs : Steady C Q l₀ s.live) :
    Ends s (execBlockCommit series s) (Steady C Q l₀) := by
  refine .runAwake hs ?_
  dsimp only
  split
  · exact hs
  · exact .ite hs (.sendCopy (.updSer hs))

theorem Ends.execCopyRecordReceive {n : BitVec 5} {r : Rec} (hs : Steady C Q l₀ s.live) :
    Ends s (execCopyRecordReceive n r s) (Steady C Q l₀) := by
  refine .run (.ite hs ?_)
  split
  · exact hs
  · exact .ite (.copyDef hs) (.ite (.copyBlk hs) hs)

theorem Ends.execRestoreReqReceive {n : BitVec 5} {r : Rec} (hs : Steady C Q l₀ s.live) :
    Ends s (execRestoreReqReceive n r s) (Steady C Q l₀) :=
  .run (.ite hs (.create (.foldl (fun _ _ hs => .sendSeries hs) hs)))

theorem Ends.execRestoreRecordReceive {n : BitVec 5} {r : Rec} (hs : Steady C False l₀ s.live) :
    Ends s (execRestoreRecordReceive n r s) (Steady C False l₀) := by
  refine .run (.ite hs ?_)
  split
  · exact hs
  · refine .ite (.ite hs (.tryRestore { hs with })) (.ite (.tryRestore (.celWrite ?_)) hs)
    split
    · exact .checkRestored { hs with }
    · exact { hs with }

theorem Ends.execRestoreDone {n : BitVec 5} {r : Rec} (hs : Steady C False l₀ s.live) :
    Ends s (execRestoreDone n r s) (Steady C False l₀) :=
  .run (.ite (.restoreEnd hs) hs)

theorem Ends.execRestoreTimeout (hs : Steady C False l₀ s.live) :
    Ends s (execRestoreTimeout s) (Steady C False l₀) :=
  .runAwake hs (.restoreEnd hs)

theorem Ends.execReplayCtlStop {p : Packet} (hs : Steady C Q l₀ s.live) :
    Ends s (execReplayCtlStop p s) (Steady C Q l₀) :=
  .run (.command hs (fun _ _ hs => .rplCtl hs))

theorem Ends.execReplayCtlLog {p : Packet} (hs : Steady C Q l₀ s.live) :
    Ends s (execReplayCtlLog p s) (Steady C Q l₀) :=
  .run (.command hs (fun _ _ hs => .rplCtl hs))

theorem Ends.execReplayCtlReplay {p : Packet} (hs : Steady C Q l₀ s.live) :
    Ends s (execReplayCtlReplay p s) (Steady C Q l₀) :=
  .run (.command hs (fun _ _ hs => .rplCtl hs))

theorem Ends.execReplayFinish (hs : Steady C Q l₀ s.live) : Ends s (execReplayFinish s) (Steady C Q l₀) :=
  .runAwake hs (.ite hs (.rplStop hs))

theorem Ends.execPwrState {p : Packet} (hs : Steady C Q l₀ s.live) :
    Ends s (execPwrState p s) (Steady C Q l₀) := by
  refine .run (.command hs fun l r hs => ?_)
  dsimp only
  split
  · exact .reply hs
  · split
    · exact .reply (.logE (.bump (.put hs)))
    · have h : Steady C Q l₀ (l.reply s.build r 0) := .reply hs
      exact { h with }

theorem Ends.execPwrEntry (hs : Steady C False l₀ s.live) : Ends s (execPwrEntry s) (Steady C False l₀) := by
  refine .run ?_
  split
  · exact hs
  · refine .ite hs ?_
    extract_lets w _ l₁ _ _ l₂
    have h₁ : Steady C False l₀ l₁ := { hs with }
    have h₂ : Steady C False l₀ l₂ := by
      unfold l₂
      split
      · exact h₁
      · exact { h₁ with }
      · exact { h₁.markEntry with }
      · exact .deepEntry h₁
      · exact .offEntry
    exact .ite h₂ (.pwrExit h₂)

theorem Ends.execWakeIn (hs : Steady C False l₀ s.live) : Ends s (execWakeIn s) (Steady C False l₀) :=
  .run (.wakeEvent hs)

theorem Ends.execKeeperWorkWake (hs : Steady C False l₀ s.live) :
    Ends s (execKeeperWorkWake s) (Steady C False l₀) :=
  .run (.wakeEvent hs)

theorem Ends.execMgmtWake (hs : Steady C False l₀ s.live) : Ends s (execMgmtWake s) (Steady C False l₀) :=
  .run (.ite (.wakeEvent hs) hs)

theorem Ends.execAonWakeTimer (hs : Steady C False l₀ s.live) : Ends s (execAonWakeTimer s) (Steady C False l₀) :=
  .run (.ite hs (.wakeEvent hs))

theorem Ends.execSupplyRampDone (hs : Steady C False l₀ s.live) :
    Ends s (execSupplyRampDone s) (Steady C False l₀) :=
  .run (.ite hs (.bootStep { hs with }))

theorem Ends.execAutoIdleTimeout (hs : Steady C Q l₀ s.live) : Ends s (execAutoIdleTimeout s) (Steady C Q l₀) :=
  .run (.ite { hs with } hs)

theorem Ends.execCountReached {i : Nat} (hs : Steady C False l₀ s.live) :
    Ends s (execCountReached i s) (Steady C False l₀) := by
  refine .run ?_
  split
  · exact hs
  · refine .ite hs ?_
    split
    · exact .ite hs (.fireCmp (.wakeIdle hs))
    · exact .wakeEvent { hs with }
    · exact .fireCmp (.wakeIdle hs)

theorem Ends.execUnitAdjust {p : Packet} (hs : Steady C Q l₀ s.live) :
    Ends s (execUnitAdjust p s) (Steady C Q l₀) := by
  refine .run (.command hs fun l r hs => ?_)
  dsimp only
  split
  · exact .reply hs
  · have h : Steady C Q l₀ (l.hold r (.unitAdjust p)) := .hold hs
    exact .raiseReq { h with }

theorem Ends.execPwrAck {status : BitVec 2} (hs : Steady C Q l₀ s.live) :
    Ends s (execPwrAck status s) (Steady C Q l₀) := by
  refine .runAwake hs (.ite hs (.ite (.bump { hs with }) ?_))
  split
  · exact hs
  · exact .raiseReq (.reply (.when { hs with } (fun _ hs => .logE (.bump hs))))

theorem Ends.execPwrReqTimeout (hs : Steady C Q l₀ s.live) : Ends s (execPwrReqTimeout s) (Steady C Q l₀) := by
  refine .runAwake hs ?_
  split
  · exact hs
  · exact .ite hs (.raiseReq (.reply (.bump { hs with })))

theorem Ends.execPmbusPollTick (hs : Steady C Q l₀ s.live) : Ends s (execPmbusPollTick s) (Steady C Q l₀) :=
  .runAwake hs (.ite hs (.ite (.bump hs) (.pmbNext { hs with })))

theorem Ends.execPmbusReadDone {word : BitVec 16} (hs : Steady C Q l₀ s.live) :
    Ends s (execPmbusReadDone word s) (Steady C Q l₀) := by
  refine .runAwake hs ?_
  split
  · exact hs
  · exact .ite hs (.pmbNext (.ite (.vinSeen (.offer { hs with vals := fun c => Tab.wf_insert (hs.vals c) _ _ }))
      (.ite (.statusSeen (.offer { hs with vals := fun c => Tab.wf_insert (hs.vals c) _ _ }))
      (.offer { hs with vals := fun c => Tab.wf_insert (hs.vals c) _ _ }))))

theorem Ends.execPmbusReadTimeout {why : PmbFail} (hs : Steady C Q l₀ s.live) :
    Ends s (execPmbusReadTimeout why s) (Steady C Q l₀) := by
  refine .runAwake hs ?_
  split
  · exact hs
  · exact .ite hs (.pmbNext (.offer (.when (.bump { hs with }) (fun _ hs => .logE hs))))

theorem Ends.execPmbusAlert (hs : Steady C Q l₀ s.live) : Ends s (execPmbusAlert s) (Steady C Q l₀) :=
  .runAwake hs (.ite (.put hs) hs)

theorem Ends.execSoftReset (hs : Steady C False l₀ s.live) : Ends s (execSoftReset s) (Steady C False l₀) :=
  .portWriteBy hs fun _ hs => .softReset hs

theorem Ends.execLatchedPairRead {addr : BitVec 16} (hs : Steady C Q l₀ s.live) :
    Ends s (execLatchedPairRead addr s) (Steady C Q l₀) :=
  .portRead hs

theorem Ends.execCounterWindowRead {addr : BitVec 16} (hs : Steady C Q l₀ s.live) :
    Ends s (execCounterWindowRead addr s) (Steady C Q l₀) :=
  .portRead hs

theorem Ends.execRegisterReadClear {addr : BitVec 16} (hs : Steady C Q l₀ s.live) :
    Ends s (execRegisterReadClear addr s) (Steady C Q l₀) :=
  .portRead hs

theorem Ends.execRegisterWrite {addr : BitVec 16} {v : Word} (hs : Steady C False l₀ s.live) :
    Ends s (execRegisterWrite addr v s) (Steady C False l₀) :=
  .portWrite hs

theorem Ends.execClkSelWrite {v : Word} (hs : Steady C False l₀ s.live) :
    Ends s (execClkSelWrite v s) (Steady C False l₀) :=
  .portWrite hs

theorem Ends.execWindowCheck {v : Word} {count : Nat} (hs : Steady C False l₀ s.live) :
    Ends s (execWindowCheck v count s) (Steady C False l₀) :=
  .portWriteBy hs fun _ hs => .ite (.writeOscCfg hs) hs

theorem Ends.execTrimSourceWrite {v : Word} (hs : Steady C False l₀ s.live) :
    Ends s (execTrimSourceWrite v s) (Steady C False l₀) :=
  .portWrite hs

theorem Ends.execUnitEnWrite {r : EnReg} {v : Word} (hs : Steady C False l₀ s.live) :
    Ends s (execUnitEnWrite r v s) (Steady C False l₀) :=
  .portWrite hs

theorem Ends.execTimeIncWrite {v : Word} (hs : Steady C False l₀ s.live) :
    Ends s (execTimeIncWrite v s) (Steady C False l₀) :=
  .portWrite hs

theorem Ends.execTimeFreerunWrite {v : Word} (hs : Steady C False l₀ s.live) :
    Ends s (execTimeFreerunWrite v s) (Steady C False l₀) :=
  .portWrite hs

theorem Ends.execQwEnable {v : Word} (hs : Steady C False l₀ s.live) :
    Ends s (execQwEnable v s) (Steady C False l₀) :=
  .portWrite hs

theorem Ends.execQwDisable {v : Word} (hs : Steady C False l₀ s.live) :
    Ends s (execQwDisable v s) (Steady C False l₀) :=
  .portWrite hs

theorem Ends.execTapBindWrite {i : BitVec 6} {v : Word} (hs : Steady C False l₀ s.live) :
    Ends s (execTapBindWrite i v s) (Steady C False l₀) :=
  .portWrite hs

theorem Ends.execPcsCfgWrite {k : BitVec 2} {v : Word} (hs : Steady C False l₀ s.live) :
    Ends s (execPcsCfgWrite k v s) (Steady C False l₀) :=
  .portWrite hs

theorem Ends.execGridEnable {v : Word} (hs : Steady C False l₀ s.live) :
    Ends s (execGridEnable v s) (Steady C False l₀) :=
  .portWrite hs

theorem Ends.execLnkRoleWrite {n : BitVec 5} {v : Word} (hs : Steady C False l₀ s.live) :
    Ends s (execLnkRoleWrite n v s) (Steady C False l₀) :=
  .portWrite hs

theorem Ends.execQueMidWrite {base len : Word} (hs : Steady C False l₀ s.live) :
    Ends s (execQueMidWrite base len s) (Steady C False l₀) :=
  .portWriteBy hs fun _ hs => .writeReg (.emit (.writeReg hs))

theorem Ends.execQmapWrite {v : Word} (hs : Steady C False l₀ s.live) :
    Ends s (execQmapWrite v s) (Steady C False l₀) :=
  .portWrite hs

theorem Ends.execSeriesEnable {v : Word} (hs : Steady C False l₀ s.live) :
    Ends s (execSeriesEnable v s) (Steady C False l₀) :=
  .portWrite hs

theorem Ends.execSeriesDisable {v : Word} (hs : Steady C False l₀ s.live) :
    Ends s (execSeriesDisable v s) (Steady C False l₀) :=
  .portWrite hs

theorem Ends.execSwtrig (hs : Steady C False l₀ s.live) : Ends s (execSwtrig s) (Steady C False l₀) :=
  .portWrite hs

theorem Ends.execWatchEnable {v : Word} (hs : Steady C False l₀ s.live) :
    Ends s (execWatchEnable v s) (Steady C False l₀) :=
  .portWrite hs

theorem Ends.execAtticEnable {v : Word} (hs : Steady C False l₀ s.live) :
    Ends s (execAtticEnable v s) (Steady C False l₀) :=
  .portWrite hs

theorem Ends.execAtticDisable {v : Word} (hs : Steady C False l₀ s.live) :
    Ends s (execAtticDisable v s) (Steady C False l₀) :=
  .portWrite hs

theorem Ends.execPcopyEnable {k : BitVec 2} {v : Word} (hs : Steady C False l₀ s.live) :
    Ends s (execPcopyEnable k v s) (Steady C False l₀) :=
  .portWrite hs

theorem Ends.execRestoreGo {v : Word} (hs : Steady C False l₀ s.live) :
    Ends s (execRestoreGo v s) (Steady C False l₀) :=
  .portWrite hs

theorem Ends.execWakeCountArm {v : Word} (hs : Steady C False l₀ s.live) :
    Ends s (execWakeCountArm v s) (Steady C False l₀) :=
  .portWrite hs

theorem Ends.execIdent {p : Packet} (hs : Steady C Q l₀ s.live) : Ends s (execIdent p s) (Steady C Q l₀) :=
  .run (.command hs (fun _ _ hs => .reply hs))

theorem Ends.execRegRead {p : Packet} (hs : Steady C Q l₀ s.live) : Ends s (execRegRead p s) (Steady C Q l₀) :=
  .run (.command hs (fun _ _ hs => .ite (.reply hs) (.ite (.reply (.rangeMeet hs)) (.reply (.readAll hs)))))

theorem Ends.execRegWrite {p : Packet} (hs : Steady C False l₀ s.live) :
    Ends s (execRegWrite p s) (Steady C False l₀) :=
  .run (.command hs (fun _ _ hs => .ite (.reply hs) (.ite (.softReset (.emit (.writeAll hs)))
    (.reply (.writeAll hs)))))

theorem Ends.execHandshakeTimeout {u : HsUse} (hs : Steady C Q l₀ s.live) :
    Ends s (execHandshakeTimeout u s) (Steady C Q l₀) :=
  .run (.ite (.ite (.emit (.noAck hs)) hs) (.hsTimeout hs))

variable {C Q : Prop} {l₀ l : Live} {s : State}

/-- Before a command that may set everything, only the tables matter. -/
theorem Steady.only (hs : Steady C Q l₀ l) : Steady C False l₀ l :=
  { hs with
    clk := nofun, cal := nofun, pulsesSame := nofun, shape := nofun, table := nofun, gensSame := nofun,
    genBase := nofun, celFail := nofun, spillFail := nofun }

/-- After one of the commands of `sets` only the tables are kept. -/
theorem Ends.set {o : Host.Outcome State Fault Refusal} (h : Ends s o (Steady C False l₀)) :
    Ends s o (Steady C (true = false) l₀) := by
  obtain ⟨l, ho, hl⟩ := h
  exact ⟨l, ho, { hl with
    clk := nofun, cal := nofun, pulsesSame := nofun, shape := nofun, table := nofun, gensSame := nofun,
    genBase := nofun, celFail := nofun, spillFail := nofun }⟩

/-- Every command keeps the tables canonical, and one outside `sets` what only those commands may change. -/
theorem exec_steady (c : Instr) (hs : Steady C (sets c = false) l₀ s.live) :
    Ends s (exec c s) (Steady C (sets c = false) l₀) :=
  match c with
  | .coldReset => .set (.execColdReset)
  | .wakeIn => .set (.execWakeIn hs.only)
  | .softReset => .set (.execSoftReset hs.only)
  | .oscQualified => .set (.execOscQualified hs.only)
  | .calWordAck _ => .set (.execCalWordAck hs.only)
  | .calIntakeTimeout => .set (.execCalIntakeTimeout hs.only)
  | .clockQualified _ => .set (.execClockQualified hs.only)
  | .clockQualTimeout _ => .set (.execClockQualTimeout hs.only)
  | .romCheck _ _ => .execRomCheck hs
  | .sramTest _ _ => .set (.execSramTest hs.only)
  | .engWaitTimeout => .execEngWaitTimeout hs
  | .clkSelWrite _ => .set (.execClkSelWrite hs.only)
  | .clockSwitchDone => .set (.execClockSwitchDone hs.only)
  | .clockFallback _ => .set (.execClockFallback hs.only)
  | .handshakeTimeout _ => .execHandshakeTimeout hs
  | .windowCheck _ _ => .set (.execWindowCheck hs.only)
  | .trimSourceWrite _ => .set (.execTrimSourceWrite hs.only)
  | .trimWindow _ _ _ => .set (.execTrimWindow hs.only)
  | .unitEnWrite _ _ => .set (.execUnitEnWrite hs.only)
  | .timeIncWrite _ => .set (.execTimeIncWrite hs.only)
  | .hallPhaseEdge _ _ => .set (.execHallPhaseEdge hs.only)
  | .slewAbsorbed => .execSlewAbsorbed hs
  | .tinValidLow => .execTinValidLow hs
  | .holdoverTimeout => .execHoldoverTimeout hs
  | .ftMsTick => .execFtMsTick hs
  | .timexInterval => .execTimexInterval hs
  | .timexReq _ => .set (.execTimexReq hs.only)
  | .timexRsp _ _ => .execTimexRsp hs
  | .countReached _ => .set (.execCountReached hs.only)
  | .pulseRise _ => .set (.execPulseRise hs.only)
  | .pulseFall _ => .set (.execPulseFall hs.only)
  | .qwWindowStart _ => .execQwWindowStart hs
  | .qwWindowEnd _ => .execQwWindowEnd hs
  | .qwEnable _ => .set (.execQwEnable hs.only)
  | .qwDisable _ => .set (.execQwDisable hs.only)
  | .nop _ => .execNop hs
  | .ident _ => .execIdent hs
  | .regRead _ => .execRegRead hs
  | .regWrite _ => .set (.execRegWrite hs.only)
  | .planLoad _ => .execPlanLoad hs
  | .planVerify _ => .set (.execPlanVerify hs.only)
  | .planArm _ => .execPlanArm hs
  | .planAbort _ => .execPlanAbort hs
  | .planTeardown _ => .execPlanTeardown hs
  | .cutAt _ => .execCutAt hs
  | .ctrRead _ => .execCtrRead hs
  | .ctrConfig _ => .execCtrConfig hs
  | .ctrFreeze _ => .execCtrFreeze hs
  | .ctrThaw _ => .execCtrThaw hs
  | .treeQuery _ => .execTreeQuery hs
  | .modelLoad _ => .execModelLoad hs
  | .modelLoadSlotFree _ _ => .execModelLoadSlotFree hs
  | .seqQuery _ => .execSeqQuery hs
  | .seqJobDone => .execSeqJobDone hs
  | .traceArm _ => .execTraceArm hs
  | .traceDisarm _ => .execTraceDisarm hs
  | .traceRead _ => .execTraceRead hs
  | .logRead _ => .execLogRead hs
  | .scrubRange _ => .execScrubRange hs
  | .pwrState _ => .execPwrState hs
  | .unitAdjust _ => .execUnitAdjust hs
  | .unitRemap _ => .execUnitRemap hs
  | .calWrite _ => .set (.execCalWrite hs.only)
  | .hangDump _ => .execHangDump hs
  | .hangSnapshot => .execHangSnapshot hs
  | .replayCtlStop _ => .execReplayCtlStop hs
  | .replayCtlLog _ => .execReplayCtlLog hs
  | .replayCtlReplay _ => .execReplayCtlReplay hs
  | .replayFinish => .execReplayFinish hs
  | .stepMark _ => .execStepMark hs
  | .stepMarkApply => .set (.execStepMarkApply hs.only)
  | .pulseArm _ => .set (.execPulseArm hs.only)
  | .wordTimeout _ => .execWordTimeout hs
  | .mgmtReplySend => .execMgmtReplySend hs
  | .inbandCmdForward _ _ => .execInbandCmdForward hs
  | .inbandReplyReturn _ _ => .execInbandReplyReturn hs
  | .forwardTimeout _ _ => .execForwardTimeout hs
  | .fabRxBadRecord _ => .execFabRxBadRecord hs
  | .tapBindWrite _ _ => .set (.execTapBindWrite hs.only)
  | .remapSwitch => .set (.execRemapSwitch hs.only)
  | .remapWaitTimeout => .execRemapWaitTimeout hs
  | .remapHandoverDone => .execRemapHandoverDone hs
  | .pcsCfgWrite _ _ => .set (.execPcsCfgWrite hs.only)
  | .pcsSample _ _ _ _ => .execPcsSample hs
  | .pcsampFlushTimeout _ => .execPcsampFlushTimeout hs
  | .sensorSetTaken _ _ _ => .execSensorSetTaken hs
  | .sampleTake _ _ => .execSampleTake hs
  | .cutLatch _ => .execCutLatch hs
  | .cutvecAssembled _ => .execCutvecAssembled hs
  | .cutvecReceive _ _ => .execCutvecReceive hs
  | .leafClose _ => .execLeafClose hs
  | .partialReceive _ _ => .execPartialReceive hs
  | .stageDeadline _ _ _ => .execStageDeadline hs
  | .thresholdsReceive _ _ => .execThresholdsReceive hs
  | .buoyThresholds _ => .execBuoyThresholds hs
  | .phaseBReceive _ _ => .execPhaseBReceive hs
  | .phaseBClose _ => .execPhaseBClose hs
  | .cutcallReceive _ _ => .execCutcallReceive hs
  | .loaddatReceive _ _ _ _ => .execLoaddatReceive hs
  | .armReceive _ _ => .execArmReceive hs
  | .reportReceive _ _ => .execReportReceive hs
  | .reportDeadline _ => .execReportDeadline hs
  | .goDecision _ => .execGoDecision hs
  | .goReceive _ _ => .execGoReceive hs
  | .armingTimeout _ => .execArmingTimeout hs
  | .planStart _ => .execPlanStart hs
  | .planTeardownReached _ => .execPlanTeardownReached hs
  | .abortReceive _ _ => .execAbortReceive hs
  | .upwardAbortReceive _ _ => .execUpwardAbortReceive hs
  | .teardownReceive _ _ => .execTeardownReceive hs
  | .lossReceive _ _ => .execLossReceive hs
  | .gridEnable _ => .set (.execGridEnable hs.only)
  | .actionTrigger _ _ => .execActionTrigger hs
  | .treeActionRun _ _ => .execTreeActionRun hs
  | .seqActionRun _ _ => .execSeqActionRun hs
  | .egressSelect _ => .set (.execEgressSelect hs.only)
  | .shaperSample => .set (.execShaperSample hs.only)
  | .lnkRoleWrite _ _ => .set (.execLnkRoleWrite hs.only)
  | .retrainTimer _ => .execRetrainTimer hs
  | .lanesUp _ => .execLanesUp hs
  | .trainingTimeout _ => .execTrainingTimeout hs
  | .initTimeout _ => .execInitTimeout hs
  | .statusRepeat _ => .execStatusRepeat hs
  | .lanesDown _ => .execLanesDown hs
  | .statusReceive _ _ => .execStatusReceive hs
  | .unitReceive _ _ => .execUnitReceive hs
  | .linkTransmit _ => .execLinkTransmit hs
  | .replayTimeout _ => .execReplayTimeout hs
  | .planUnitLate _ => .execPlanUnitLate hs
  | .recordAged _ => .set (.execRecordAged hs.only)
  | .rerouteHoldExpiry _ _ => .execRerouteHoldExpiry hs
  | .queueAdmit _ _ => .execQueueAdmit hs
  | .queueIdleTimeout _ => .execQueueIdleTimeout hs
  | .queMidWrite _ _ => .set (.execQueMidWrite hs.only)
  | .qmapWrite _ => .set (.execQmapWrite hs.only)
  | .middlePageReturn _ _ => .execMiddlePageReturn hs
  | .cellarTimeout _ => .set (.execCellarTimeout hs.only)
  | .spillTimeout => .set (.execSpillTimeout hs.only)
  | .seriesEnable _ => .set (.execSeriesEnable hs.only)
  | .seriesDisable _ => .set (.execSeriesDisable hs.only)
  | .seriesSample => .execSeriesSample hs
  | .blockCode _ => .execBlockCode hs
  | .blockCommit _ => .execBlockCommit hs
  | .bmonAccess _ => .execBmonAccess hs
  | .swtrig => .set (.execSwtrig hs.only)
  | .traceTriggerEvent _ => .execTraceTriggerEvent hs
  | .bmonClockStop => .execBmonClockStop hs
  | .bmonClockResume => .execBmonClockResume hs
  | .watchEnable _ => .set (.execWatchEnable hs.only)
  | .logDrain => .execLogDrain hs
  | .atticEnable _ => .set (.execAtticEnable hs.only)
  | .atticDisable _ => .set (.execAtticDisable hs.only)
  | .scrubWalkerRead _ _ _ => .set (.execScrubWalkerRead hs.only)
  | .canaryRunDone _ _ _ _ _ => .execCanaryRunDone hs
  | .copyRecordReceive _ _ => .execCopyRecordReceive hs
  | .pcopyEnable _ _ => .set (.execPcopyEnable hs.only)
  | .restoreGo _ => .set (.execRestoreGo hs.only)
  | .restoreReqReceive _ _ => .execRestoreReqReceive hs
  | .restoreRecordReceive _ _ => .set (.execRestoreRecordReceive hs.only)
  | .restoreDone _ _ => .set (.execRestoreDone hs.only)
  | .restoreTimeout => .set (.execRestoreTimeout hs.only)
  | .pwrEntry => .set (.execPwrEntry hs.only)
  | .mgmtWake => .set (.execMgmtWake hs.only)
  | .aonWakeTimer => .set (.execAonWakeTimer hs.only)
  | .wakeCountArm _ => .set (.execWakeCountArm hs.only)
  | .supplyRampDone => .set (.execSupplyRampDone hs.only)
  | .keeperWorkWake => .set (.execKeeperWorkWake hs.only)
  | .autoIdleTimeout => .execAutoIdleTimeout hs
  | .pwrAck _ => .execPwrAck hs
  | .pwrReqTimeout => .execPwrReqTimeout hs
  | .pmbusPollTick => .execPmbusPollTick hs
  | .pmbusReadDone _ => .execPmbusReadDone hs
  | .pmbusReadTimeout _ => .execPmbusReadTimeout hs
  | .pmbusAlert => .execPmbusAlert hs
  | .latchedPairRead _ => .execLatchedPairRead hs
  | .counterWindowRead _ => .execCounterWindowRead hs
  | .registerReadClear _ => .execRegisterReadClear hs
  | .registerWrite _ _ => .set (.execRegisterWrite hs.only)
  | .resetRelease _ => .execResetRelease hs
  | .unknownOpcode _ _ => .execUnknownOpcode hs
  | .portClockQualLost _ => .set (.execPortClockQualLost hs.only)
  | .clkRefLost => .set (.execClkRefLost hs.only)
  | .timeFreerunWrite _ => .set (.execTimeFreerunWrite hs.only)
  | .linkResynchronisationEnd _ => .execLinkResynchronisationEnd hs
  | .scrubRangeDone _ _ _ => .set (.execScrubRangeDone hs.only)
  | .treeQueryDone _ => .execTreeQueryDone hs

/-- Every command keeps the tables canonical. -/
theorem exec_canonical {c : Instr} {t : State} (hs : Safety.Canonical s.live) (h : exec c s = .next t) :
    Safety.Canonical t.live := by
  obtain ⟨l, ho, hl⟩ := exec_steady c (.refl s.live)
  obtain rfl : t = { s with live := l } := by simpa [ho] using h.symm
  exact hl.canonical hs

/-- A request that was held at the register port starts with the tables as they are. -/
theorem startReg_canonical {c : Instr} {t : State} (hs : Safety.Canonical s.live) (h : s.startReg = some (c, t)) :
    Safety.Canonical t.live := by
  unfold State.startReg at h
  split at h
  · split at h
    · obtain ⟨rfl, rfl⟩ : c = _ ∧ t = _ := by simpa [eq_comm] using h
      exact { hs with }
    · cases h
  · cases h

/-- A command that waited at its port starts with the tables as they are. -/
theorem startHeld_canonical {c : Instr} {t : State} (hs : Safety.Canonical s.live)
    (h : s.startHeld = some (c, t)) : Safety.Canonical t.live := by
  unfold State.startHeld at h
  split at h
  · cases h
  · obtain ⟨x, -, hx⟩ := Option.map_eq_some_iff.mp h
    obtain ⟨rfl, rfl⟩ := Prod.mk.inj hx
    exact { hs with }

/-- Settles O59: one walk over the operations of the model (`Steady`) covers every command, and the idle step. -/
theorem stepKeepsTablesCanonical : Obligations.StepKeepsTablesCanonical := by
  intro s t hs h
  unfold step at h
  split at h
  · next rest _ => exact exec_canonical (s := { s with pending := rest }) hs h
  · split at h
    · next c u hu =>
      refine exec_canonical ?_ h
      cases hr : s.startReg with
      | none => exact startHeld_canonical hs (by simpa [hr] using hu)
      | some x => exact startReg_canonical hs (by simpa [hr] using hu)
    · obtain rfl : t = _ := by simpa [eq_comm] using h
      exact (Steady.idleTick (.refl s.live)).canonical hs

/-- Settles O60: the cold reset's tables are empty, or listed in the order of their indices. -/
theorem resetTablesAreCanonical : Obligations.ResetTablesAreCanonical :=
  (Steady.cold (l₀ := Live.cold)).canonical trivial

/-- Settles O58: a command outside `sets` ends with what `Steady` compares as it found it. -/
theorem otherCommandsLeaveClocksCalibrationAndPulses :
    Obligations.OtherCommandsLeaveClocksCalibrationAndPulses := by
  intro c s l hc h
  obtain ⟨l', ho, hl⟩ := exec_steady c (.refl s.live)
  obtain rfl : l = l' := by simpa [Gives, ho, eq_comm] using h
  exact ⟨hl.clk hc, hl.cal hc, hl.pulsesSame hc, hl.shape hc, hl.table hc, hl.gensSame hc, hl.genBase hc,
    hl.celFail hc, hl.spillFail hc⟩

/-! ### The queue of commands -/

/-- The live part that command `c` leaves. -/
def leaves (c : Instr) (b : Build) (l : Live) : Live :=
  match exec c ⟨b, l, []⟩ with
  | .next t => t.live
  | _ => l

/-- The meaning of a command is a function of the build and the live part. -/
theorem exec_eq (c : Instr) (s : State) : exec c s = s.run (leaves c) := by
  cases c <;> rfl

/-- Every step completes. -/
theorem step_completes (s : State) : Safety.completes s := by
  have h (c : Instr) (s : State) : ∃ t, exec c s = .next t := ⟨_, exec_eq c s⟩
  unfold Safety.completes step
  split
  · exact h _ _
  · split
    · exact h _ _
    · exact ⟨_, rfl⟩

theorem safeFor_all (n : Nat) : ∀ s, Safety.safeFor n s := by
  induction n with
  | zero => exact fun _ => trivial
  | succ n ih =>
    intro s
    obtain ⟨t, ht⟩ := step_completes s
    exact ⟨t, ht, ih t⟩

theorem after_add (m n : Nat) : ∀ s, after (m + n) s = (after m s).bind (after n) := by
  induction m with
  | zero => exact fun s => by simp [after]
  | succ m ih =>
    intro s
    obtain ⟨t, ht⟩ := step_completes s
    simp [Nat.succ_add, after, ht, ih]

/-- Commands at the front of the queue run one by one, whatever waits behind them. -/
theorem after_queue (cs : List Instr) : ∀ s : State, ∃ l, ∀ rest,
    after cs.length { s with pending := cs ++ rest } = some { s with live := l, pending := rest } := by
  induction cs with
  | nil => exact fun s => ⟨s.live, fun _ => rfl⟩
  | cons c cs ih =>
    intro s
    obtain ⟨l, hl⟩ := ih { s with live := leaves c s.build s.live }
    refine ⟨l, fun rest => ?_⟩
    simp [after, step, exec_eq, hl]

/-- Settles O57: the meaning of a command is a function of the build and the live part alone. -/
theorem commandsRunInOrderAndNeverStop : Obligations.CommandsRunInOrderAndNeverStop := by
  refine ⟨fun c s => ⟨_, exec_eq c s, trivial⟩, safeFor_all, fun s cs rest => ?_, fun s cs c l h => ?_⟩
  · obtain ⟨l, hl⟩ := after_queue cs s
    exact ⟨l, by simpa using hl [], hl rest⟩
  · obtain ⟨l', hl⟩ := after_queue cs s
    obtain rfl : l' = l := by simpa [h] using (hl []).symm
    refine ⟨_, exec_eq c _, ?_⟩
    rw [after_add, hl [c]]
    simp [after, step, exec_eq]

end Sys2Proof.Proofs
end

section
/-! PROOFS. Steps, resets, the boot and the calibration intake (O1 to O6). -/

namespace Sys2Proof.Proofs

open Sys2Proof Sys2Proof.Machine Sys2Proof.Claims

section

variable {s : State} {c : Instr} {P : Live → Prop} {l : Live} {b : Build}

theorem run_gives {f : Build → Live → Live} (hl : f s.build s.live = l) : s.run f = .next { s with live := l } :=
  hl ▸ rfl

theorem runAwake_gives {f : Build → Live → Live} (ha : s.live.awake = true) (hl : f s.build s.live = l) :
    s.runAwake f = .next { s with live := l } :=
  hl ▸ State.runAwake_awake ha f

/-- Where the block is awake, its effect happens. -/
theorem Ends.awake {f : Build → Live → Live} (ha : s.live.awake = true) (h : P (f s.build s.live)) :
    Ends s (s.runAwake f) P :=
  ⟨_, State.runAwake_awake ha f, h⟩

theorem yields_of_gives (h : Gives c s l) (hP : P l) : Yields c s P :=
  ⟨l, h, hP⟩

/-- What a field reads, from the register file and the static inputs alone. -/
def fieldOf (t : Tab Nat) (st : Statics) (b : Build) (f : Fld) (e : Nat) : Nat :=
  Live.get { Live.cold with rf := t, boot := { Live.cold.boot with st := st } } b f e

theorem get_eq_fieldOf (l : Live) (b : Build) (f : Fld) (e : Nat) :
    l.get b f e = fieldOf l.rf l.boot.st b f e :=
  rfl

/-- No request is held back at the register port in its turn. -/
theorem regHolds_of_inTurn (h : InTurn s) (a : Nat) : s.live.regHolds s.build a = false := by
  obtain hgo | ⟨hheld, hphase, hreg, hbmon⟩ := h
  · simp [Live.regHolds, hgo]
  · have hwaits : s.live.regWaits s.build a = false := by
      simp [Live.regWaits, hreg, hbmon, Nat.not_lt.mpr hphase]
    simp [Live.regHolds, hheld, hwaits]

/-- A write at a mapped offset reaches what the offset names. -/
theorem portWriteBy_gives {a : Nat} {f : Build → Live → Live} (ho : s.live.regOpen = true) (ht : InTurn s)
    (ha : (findReg s.build a).isSome = true) :
    s.portWriteBy c a f = .next { s with live := f s.build (written s) } :=
  State.portWriteBy_next c f (regHolds_of_inTurn ht a) ho ha

/-- A write to a register that has no gate and no selector. -/
theorem portWrite_gives {a i : Nat} {r : RegRow} {v : Word} (h : Served s) (hf : findReg s.build a = some (r, i))
    (hg : r.gate = .none) (hs : r.sel = .none) (ha : a ≠ 0x10) :
    s.portWrite c a v = .next { s with live := (written s).writeRow s.build r i v } := by
  obtain ⟨hopen, hphase, hturn⟩ := h
  exact State.portWrite_plain c v (regHolds_of_inTurn hturn a) hopen hf hg hs hphase ha

@[simp] theorem written_cal (s : State) : (written s).cal = s.live.cal := rfl
@[simp] theorem written_clk (s : State) : (written s).clk = s.live.clk := rfl
@[simp] theorem written_rf (s : State) : (written s).rf = s.live.rf := rfl
@[simp] theorem written_time (s : State) : (written s).time = s.live.time := rfl
@[simp] theorem written_log (s : State) : (written s).log = s.live.log := rfl
@[simp] theorem written_gens (s : State) : (written s).gens = s.live.gens := rfl
@[simp] theorem written_boot (s : State) : (written s).boot = s.live.boot := rfl
@[simp] theorem get_written (s : State) (b : Build) (f : Fld) (e : Nat) :
    (written s).get b f e = s.live.get b f e := rfl
@[simp] theorem written_out (s : State) : (written s).out = s.live.out ++ [.regRsp 0 false] := rfl

/-! ### Fields of one register -/

/-- The fields `fs` of a register take their bits of `n`. -/
def putSlices (l : Live) (b : Build) (fs : List Fld) (n : Nat) : Live :=
  fs.foldl (fun l f => l.put b f (n >>> f.lo)) l

theorem putSlices_frame (b : Build) (n : Nat) (fs : List Fld) :
    ∀ l : Live, putSlices l b fs n = { l with rf := (putSlices l b fs n).rf } := by
  induction fs with
  | nil => exact fun _ => rfl
  | cons f fs ih => exact fun l => ih (l.put b f (n >>> f.lo))

theorem putSlices_wf (b : Build) (n : Nat) (fs : List Fld) :
    ∀ l : Live, Tab.wf l.rf = true → Tab.wf (putSlices l b fs n).rf = true := by
  induction fs with
  | nil => exact fun _ hw => hw
  | cons f fs ih => exact fun l hw => ih _ (Live.put_wf hw f _ 0)

theorem get_putSlices_ne {f : Fld} {e : Nat} (b : Build) (n : Nat) (fs : List Fld)
    (hf : f.key e ∉ fs.map fun g => g.key 0) :
    ∀ l : Live, Tab.wf l.rf = true → (putSlices l b fs n).get b f e = l.get b f e := by
  induction fs with
  | nil => exact fun _ _ => rfl
  | cons g fs ih =>
    intro l hw
    obtain ⟨hg, hfs⟩ := not_or.mp (mt List.mem_cons.mpr hf)
    exact (ih hfs _ (Live.put_wf hw g _ 0)).trans (Live.get_put_ne hw (Ne.symm hg) _)

theorem get_putSlices_mem {f : Fld} (b : Build) (n : Nat) (fs : List Fld)
    (hnodup : (fs.map fun g => g.key 0).Nodup) (hf : f ∈ fs) :
    ∀ l : Live, Tab.wf l.rf = true → (putSlices l b fs n).get b f = (n >>> f.lo) % 2 ^ f.w := by
  induction fs with
  | nil => cases hf
  | cons g fs ih =>
    intro l hw
    obtain ⟨hg, hfs⟩ := List.nodup_cons.mp hnodup
    obtain rfl | hmem := List.mem_cons.mp hf
    · exact (get_putSlices_ne b n fs hg _ (Live.put_wf hw f _ 0)).trans (Live.get_put_same hw f _ 0)
    · exact ih hfs hmem _ (Live.put_wf hw g _ 0)

/-! ### The boot -/

theorem bootStep_core (hphase : l.boot.phase = 3) (hidle : l.clk.switches = []) (hon : l.clk.coreOn = false)
    (hosc : l.get b F.GLB_BOOT_CORE_OSC = 0) :
    l.bootStep b = l.when l.clk.coreQual fun l => l.startSwitch b .core true := by
  simp [Live.bootStep, hphase, hidle, hon, Live.flag, hosc, Live.when]

theorem bootStep_wait_core (hphase : l.boot.phase = 3) (hidle : l.clk.switches = []) (hon : l.clk.coreOn = false)
    (hosc : l.get b F.GLB_BOOT_CORE_OSC = 0) (hq : l.clk.coreQual = false) : l.bootStep b = l := by
  rw [bootStep_core hphase hidle hon hosc, hq, Live.when_false]

/-- The calibration intake has ended: phase 3 begins. -/
def intakeEnd (l : Live) : Live :=
  { l with boot := { l.boot with phase := 3, calIdx := none }, cal := { l.cal with intake := [] } }

/-- The intake ends while CORE waits for its port clock: the trim code is the baseline of what was taken. -/
theorem calDone_wait (hidle : l.clk.switches = []) (hon : l.clk.coreOn = false) (hq : l.clk.coreQual = false)
    (hosc : l.get b F.GLB_BOOT_CORE_OSC = 0) :
    l.calDone b = { intakeEnd l with clk := { l.clk with code := (intakeEnd l).baseline b } } := by
  rw [get_eq_fieldOf] at hosc
  simp [Live.calDone, intakeEnd, bootStep_wait_core, get_eq_fieldOf, *]

/-- The trim code of the defaults (R144). -/
theorem baseline_default (hcalf : l.cal.calf = none) (hcalu : l.cal.calu = []) (hidx : l.boot.calIdx = none) :
    l.baseline b = 0x200 := by
  have hg : l.calF b 1 = 0x8000 := by simp [Live.calF, hcalf, hidx, calDefault, isGain]
  have ho : l.calF b 2 = 0 := by
    cases hb : b.buoy <;> simp [Live.calF, hcalf, hidx, calDefault, isGain, hb]
  have hu (i : Nat) : l.calU i = 0 := by rw [Live.calU, hcalu]; rfl
  simp [Live.baseline, Live.calOut, hg, ho, hu, asr, satS]

/-- Without calibration the trim code is that of the defaults. -/
theorem calDone_default (hcalf : l.cal.calf = none) (hcalu : l.cal.calu = []) (hidle : l.clk.switches = [])
    (hon : l.clk.coreOn = false) (hq : l.clk.coreQual = false) (hosc : l.get b F.GLB_BOOT_CORE_OSC = 0) :
    l.calDone b = { intakeEnd l with clk := { l.clk with code := 0x200 } } := by
  rw [calDone_wait hidle hon hq hosc, baseline_default (l := intakeEnd l) hcalf hcalu rfl]

end

section

variable {s : State}

theorem step_of_pending {c : Instr} {rest : List Instr} (h : s.pending = c :: rest) :
    step s = exec c { s with pending := rest } := by
  simp [step, h]

theorem step_idle (hp : s.pending = []) (hr : s.startReg = none) (hh : s.startHeld = none) :
    step s = .next { s with live := s.live.idleTick s.build } := by
  simp [step, hp, hr, hh]

theorem step_of_startReg {c : Instr} {t : State} (hp : s.pending = []) (hr : s.startReg = some (c, t)) :
    step s = exec c t := by
  simp [step, hp, hr]

theorem step_of_startHeld {c : Instr} {t : State} (hp : s.pending = []) (hr : s.startReg = none)
    (hh : s.startHeld = some (c, t)) : step s = exec c t := by
  simp [step, hp, hr, hh]

/-- The oldest held register request starts when the port takes requests and its way is free. -/
theorem startReg_of_free {a : Nat} {c : Instr} {t : List (Nat × Instr)} (ho : s.live.regOpen = true)
    (hh : s.live.cmd.regHeld = (a, c) :: t) (hw : s.live.regWaits s.build a = false) :
    s.startReg =
      some (c, { s with live := { s.live with cmd := { s.live.cmd with regHeld := t, regGo := true } } }) := by
  simp [State.startReg, hh, ho, hw]

theorem startReg_of_waiting {a : Nat} {c : Instr} {t : List (Nat × Instr)}
    (hh : s.live.cmd.regHeld = (a, c) :: t) (hw : s.live.regWaits s.build a = true) : s.startReg = none := by
  simp [State.startReg, hh, hw]

theorem startHeld_of_taken {x : Busy} {rest : List Busy} (ha : s.live.accepts s.build .mgmt = true)
    (ht : takeHeld s.live.blocked s.live.waiting [] = some (x, rest)) :
    s.startHeld = some (x.c, { s with live := { s.live.setWaiting rest with
      cmd := { (s.live.setWaiting rest).cmd with starting := some x.r } } }) := by
  simp [State.startHeld, ha, ht]

theorem startHeld_of_none_taken (ht : takeHeld s.live.blocked s.live.waiting [] = none) : s.startHeld = none := by
  simp [State.startHeld, ht]

/-- Settles O1: each way a step can go is one lemma about `step`; which command starts is read off `startReg` and
`takeHeld`. -/
theorem stepRunsFrontCommand : Obligations.StepRunsFrontCommand := by
  refine ⟨fun s c rest => step_of_pending, fun s => step_idle, fun s a c t hp ho hh => ?_,
    fun s t c => step_of_startHeld, fun s x y ha hw hy => ⟨fun hx => ?_, fun hx hport => ?_, fun hx hport => ?_⟩⟩
  · exact ⟨fun hw => step_of_startReg hp (startReg_of_free ho hh hw), startReg_of_waiting hh⟩
  · exact startHeld_of_taken ha (by simp [takeHeld, hw, hx])
  · exact startHeld_of_none_taken (by simp [takeHeld, hw, hx, hport])
  · exact startHeld_of_taken ha (by simp [takeHeld, hw, hx, hy, hport])

end

section

variable {s : State} {l : Live} {b : Build}

theorem gives_wakeIn_off (hheld : s.live.boot.held = false) (ht : s.live.pwr.target = none)
    (hst : s.live.pwr.st = .off) : Gives .wakeIn s (s.live.offExit s.build 1) := by
  show execWakeIn s = _
  exact run_gives (by simp [Live.wakeEvent, hheld, ht, hst, wakes, Live.pwrExit])

theorem find?_filter_none {α : Type} {p : Nat × α → Bool} {k : Nat} (h : ∀ a, p (k, a) = false) (t : Tab α) :
    Tab.find? (List.filter p t) k = none := by
  induction t with
  | nil => rfl
  | cons e t ih =>
    obtain ⟨j, a⟩ := e
    rw [List.filter_cons]
    split
    · next hp =>
      have hj : j ≠ k := fun hj => by simp [hj, h] at hp
      rw [Tab.find?, if_neg hj, ih, ite_self]
    · exact ih

theorem find?_set_ne_of_ne_reset {t : Tab Nat} {k i d a : Nat} (ha : a ≠ d) (hk : k ≠ i) :
    Tab.find? (Tab.set t k d a) i = Tab.find? t i := by
  rw [Tab.set, if_neg ha, Tab.find?_insert_ne hk]

/-- The boot flag of CORE is not kept on AON. -/
theorem get_aonKept_coreOsc (l : Live) (b : Build) (k : BootKind) :
    (l.aonKept b k).get b F.GLB_BOOT_CORE_OSC = 0 := by
  have hkept : Tab.find? (aonFields l.rf) (F.GLB_BOOT_CORE_OSC.key 0) = none :=
    find?_filter_none (fun _ => by simp [show F.GLB_BOOT_CORE_OSC.key 0 / 65536 / 32 = 0xC by decide]) _
  have hlost (m : Live) : m.rst b F.TRC_STAT_PWR_LOST 0 = 0 := by
    rw [Live.rst_plain 0 (by decide)]
    exact ite_self _
  have hosc (m : Live) : m.rst b F.GLB_BOOT_CORE_OSC 0 = 0 := by
    rw [Live.rst_plain 0 (by decide)]
    exact ite_self _
  have hset : Tab.find? (l.aonKept b k).rf (F.GLB_BOOT_CORE_OSC.key 0) = none :=
    (find?_set_ne_of_ne_reset (by rw [hlost]; decide) (by decide)).trans hkept
  rw [Live.get, Tab.getD, hset, hosc]
  rfl

theorem softReset_eq (l : Live) (b : Build) : l.softReset b =
    (l.aonKept b .soft).when l.clk.coreQual fun l => l.startSwitch b .core true :=
  bootStep_core rfl rfl rfl (get_aonKept_coreOsc l b .soft)

theorem gives_softReset (ho : s.live.regOpen = true) (ht : InTurn s) :
    Gives .softReset s ((written s).softReset s.build) := by
  show execSoftReset s = _
  exact portWriteBy_gives ho ht (by rw [findReg_form]; cases s.build.form <;> decide +kernel)

/-- A wake from OFF: the reset's state, and its event among the early ones. -/
theorem offExit_eq (l : Live) (b : Build) (src : Nat) : l.offExit b src =
    let m := l.coldReset.release l.boot.st
    { Live.put { m with pwr := { m.pwr with wake := src, isoEn := true } } b F.TRC_STAT_PWR_LOST 1 with
      boot := { m.boot with early := [⟨0x0F02, 1, 0, 0, [4, src]⟩] } } := by
  unfold Live.offExit
  rw [Live.logE_early rfl (by rw [Live.put_boot]; exact Nat.zero_lt_succ 3)]
  rfl

/-- Settles O2: each kind of reset is one equation about the live part it leaves. -/
theorem resetKindsLeaveTheirState : Obligations.ResetKindsLeaveTheirState := by
  refine ⟨fun s => rfl, fun s st hheld => ?_, fun s hheld ht hst => ?_, fun s ho ht => ?_⟩
  · show execResetRelease st s = _
    exact run_gives (by simp [hheld, Live.release])
  · refine yields_of_gives (gives_wakeIn_off hheld ht hst) ?_
    rw [offExit_eq]
    exact ⟨rfl, rfl, rfl, rfl, rfl, rfl, rfl, rfl, rfl, rfl, rfl, rfl, rfl⟩
  · refine yields_of_gives (gives_softReset ho ht) ?_
    rw [softReset_eq]
    cases (written s).clk.coreQual <;> simp [Live.startSwitch, Live.aonKept, Live.cold]

end

section

variable {s : State} {l : Live} {b : Build}

/-- A check that fails leaves its flags, PHASE 0xF, and nothing waiting for the logbook. -/
theorem bootFail_one (l : Live) (b : Build) (f : Fld) : l.bootFail b [f] =
    { l.put b f 1 with boot := { l.boot with phase := 15, ready := false, early := [] } } :=
  rfl

theorem gives_romCheck (hheld : s.live.boot.held = false) (hphase : s.live.boot.phase = 4) (romOk eccOk : Bool) :
    Gives (.romCheck romOk eccOk) s
      (if romOk ∧ eccOk then { s.live with boot := { s.live.boot with phase := 5 } }
      else s.live.bootFail s.build ((if romOk then [] else [F.GLB_BOOT_ROM_FAIL]) ++
        (if eccOk then [] else [F.GLB_BOOT_ECC_FAIL]))) := by
  show execRomCheck romOk eccOk s = _
  exact run_gives (by simp [hheld, hphase])

theorem gives_sramTest_failed (hheld : s.live.boot.held = false) (hphase : s.live.boot.phase = 5) (cycles : Nat) :
    Gives (.sramTest false cycles) s (s.live.bootFail s.build [F.GLB_BOOT_SRAM_FAIL]) := by
  show execSramTest false cycles s = _
  exact run_gives (by simp [hheld, hphase])

theorem gives_engWaitTimeout (hheld : s.live.boot.held = false) (hphase : s.live.boot.phase = 5)
    (hform : s.build.form = .lantern) :
    Gives .engWaitTimeout s (s.live.bootFail s.build [F.GLB_BOOT_ENG_NOCLK]) := by
  show execEngWaitTimeout s = _
  exact run_gives (by simp [hheld, hphase, Build.buoy, hform])

theorem gives_oscQualified_cal (hheld : s.live.boot.held = false) (hphase : s.live.boot.phase = 1)
    (hcal : s.live.boot.st.calPresent = true) :
    Gives .oscQualified s { s.live with
      clk := { s.live.clk with oscQual := true, refOk := true },
      boot := { s.live.boot with phase := 2, calIdx := some 0 },
      out := s.live.out ++ [.calReq 0] } := by
  show execOscQualified s = _
  exact run_gives (by simp [hheld, hphase, hcal, Live.emit])

theorem gives_oscQualified_default (hheld : s.live.boot.held = false) (hphase : s.live.boot.phase = 1)
    (hcal : s.live.boot.st.calPresent = false) :
    Gives .oscQualified s (Live.calDone { s.live with
      clk := { s.live.clk with oscQual := true, refOk := true }, boot := { s.live.boot with phase := 2 } } s.build) := by
  show execOscQualified s = _
  exact run_gives (by simp [hheld, hphase, hcal])

/-- Settles O3: the checks of the boot, one command at a time. -/
theorem bootChecksLeadOnOrFail : Obligations.BootChecksLeadOnOrFail := by
  refine ⟨fun s => gives_oscQualified_cal, fun s hheld hphase hcal hidx hcalf hcalu hidle hon hq hosc => ?_,
    fun s hheld hphase => ⟨gives_romCheck hheld hphase true true, gives_romCheck hheld hphase false true,
      gives_romCheck hheld hphase true false⟩,
    fun s cycles hheld hphase => gives_sramTest_failed hheld hphase cycles,
    fun s hheld hphase hform => gives_engWaitTimeout hheld hphase hform⟩
  have hdone := calDone_default (l := { s.live with
    clk := { s.live.clk with oscQual := true, refOk := true }, boot := { s.live.boot with phase := 2 } })
    hcalf hcalu hidle hon hq hosc
  exact hdone ▸ gives_oscQualified_default hheld hphase hcal

end

section

variable {s : State} {l : Live} {b : Build}

theorem placeEnt_nil {cap : Nat} {e : LogEnt} (h : e.ev.words ≤ cap) : placeEnt cap [] e = some ([e], []) := by
  simp [placeEnt, evict, usedWords, Nat.not_lt.mpr h]

/-- An event is the only entry of an empty logbook, where no copy is kept and FOG_SEV is 0. -/
theorem logE_empty (hlive : l.log.live = true) (hents : l.log.ents = [])
    (hattic : l.get b F.LOG_ATTIC_EN = 0) (hfog : l.get b F.LOG_CFG_FOG_SEV = 0) (code sev arg : Nat) :
    l.logE b code sev [arg] = { l with log := { l.log with
      next := l.log.next + 1, newest := l.log.next,
      ents := [⟨l.log.next, ⟨code, sev, 0, 0, [arg]⟩, false, 0, false, none⟩] } } := by
  rw [get_eq_fieldOf] at hattic hfog
  have hfits : LogEv.words ⟨code, sev, 0, 0, [arg]⟩ ≤ b.logWords := by
    cases hb : b.buoy <;> simp [Build.logWords, LogEv.words, hb]
  simp [Live.logE, Live.logEv, Live.logWrite, Live.logNew, placeEnt_nil, Live.atticDrop, Live.atticAdd,
    Live.logFog, Live.flag, Live.when, get_eq_fieldOf, *]

/-- With nothing early and no copy the logbook starts empty. -/
theorem logInit_empty (hearly : l.boot.early = []) (hattic : l.log.attic = []) :
    l.logInit b = { l with boot := { l.boot with early := [] }, log := { l.log with ents := [], live := true } } := by
  simp [Live.logInit, hearly, hattic]

theorem applyFreerun_off (h : l.freerun b = false) : l.applyFreerun b = l := by
  simp [Live.applyFreerun, h]

/-- BOOT_T and the clock flags as READY shows them. -/
def bootRegs (l : Live) (b : Build) (cycles : Nat) : Live :=
  ((l.put b F.GLB_BOOT_BOOT_T (min (cycles / 1024) 0xFFFF)).put b F.GLB_BOOT_CORE_OSC (b2n (!l.clk.coreOn))).put b
    F.GLB_BOOT_REG_OSC (b2n (!l.clk.regOn))

theorem get_bootRegs_ne (hw : Tab.wf l.rf = true) (cycles : Nat) {f : Fld} (hf : f.lo < 32) (h : f.off ≠ 0xC) :
    (bootRegs l b cycles).get b f = l.get b f := by
  have hkey {g : Fld} (hg : g.off = 0xC) (hlo : g.lo < 32) : g.key 0 ≠ f.key 0 :=
    Fld.key_ne (by decide) (by decide) hlo hf (.inl fun he => h (he ▸ hg))
  unfold bootRegs
  rw [Live.get_put_ne (Live.put_wf (Live.put_wf hw _ _ _) _ _ _) (hkey rfl (by decide)),
    Live.get_put_ne (Live.put_wf hw _ _ _) (hkey rfl (by decide)), Live.get_put_ne hw (hkey rfl (by decide))]

theorem get_bootRegs_bootT (hw : Tab.wf l.rf = true) (cycles : Nat) :
    (bootRegs l b cycles).get b F.GLB_BOOT_BOOT_T = min (cycles / 1024) 0xFFFF := by
  unfold bootRegs
  rw [Live.get_put_ne (Live.put_wf (Live.put_wf hw _ _ _) _ _ _) (by decide),
    Live.get_put_ne (Live.put_wf hw _ _ _) (by decide), Live.get_put_same hw]
  exact Nat.mod_eq_of_lt (lt_of_le_of_lt (Nat.min_le_right _ _) (by decide))

/-- The live part at READY, before the first entry of the logbook. -/
def readyLive (l : Live) (b : Build) (cycles : Nat) : Live :=
  { bootRegs l b cycles with
    boot := { l.boot with phase := 6, ready := true, early := [] },
    pwr := { l.pwr with isoEn := false, retEn := false },
    time := { l.time with state := .free },
    log := { l.log with ents := [], live := true } }

/-- A cold boot without early events and without a copy of the logbook reaches READY with its first entry. -/
theorem ready_cold (hkind : l.boot.kind = .cold) (hearly : l.boot.early = []) (hattic : l.log.attic = [])
    (hw : Tab.wf l.rf = true) (hen : l.get b F.LOG_ATTIC_EN = 0) (hfog : l.get b F.LOG_CFG_FOG_SEV = 0)
    (hfree : l.get b F.TIME_CFG_FREERUN = 0) (cycles : Nat) :
    let m := readyLive l b cycles
    l.ready b cycles = { m with log := { m.log with
      next := m.log.next + 1, newest := m.log.next,
      ents := [⟨m.log.next, ⟨0x0101, 1, 0, 0, [m.glbBoot b]⟩, false, 0, false, none⟩] } } := by
  intro m
  have hget {f : Fld} (hlo : f.lo < 32) (h : f.off ≠ 0xC) : m.get b f = l.get b f :=
    get_bootRegs_ne hw cycles hlo h
  have hready : l.ready b cycles = (m.logE b 0x0101 1 [m.glbBoot b]).applyFreerun b := by
    simp [Live.ready, logInit_empty, hkind, hearly, hattic, m, readyLive, bootRegs]
  have hlog := logE_empty (l := m) (b := b) rfl rfl ((hget (by decide) (by decide)).trans hen)
    ((hget (by decide) (by decide)).trans hfog) 0x0101 1 (m.glbBoot b)
  rw [hready, hlog]
  refine applyFreerun_off ?_
  have hrun : m.get b F.TIME_CFG_FREERUN = 0 := (hget (by decide) (by decide)).trans hfree
  have hflag : m.flag b F.TIME_CFG_FREERUN = false := by rw [Live.flag, hrun]; rfl
  exact (congrArg (b.lantern && ·) hflag).trans (Bool.and_false _)

theorem gives_sramTest_passed (hheld : s.live.boot.held = false) (hphase : s.live.boot.phase = 5) (cycles : Nat) :
    Gives (.sramTest true cycles) s (s.live.ready s.build cycles) := by
  show execSramTest true cycles s = _
  exact run_gives (by simp [hheld, hphase])

/-- Settles O4: a march test that passes is READY, and its first entry fits the empty logbook. -/
theorem readyAfterMarchTest : Obligations.ReadyAfterMarchTest := by
  intro s cycles hheld hphase hkind hearly hattic hen hfog hrun htarget hfree hw
  refine yields_of_gives (gives_sramTest_passed hheld hphase cycles) ?_
  rw [ready_cold hkind hearly hattic hw hen hfog hfree]
  refine ⟨rfl, rfl, get_bootRegs_bootT hw cycles, rfl, rfl, rfl, ?_, rfl, rfl, rfl, rfl⟩
  simp [Live.accepts, readyLive, hrun, htarget]

end

section

variable {s : State} {l : Live} {b : Build} {w : Word}

theorem gives_calWordAck_next {i : Nat} (hidx : s.live.boot.calIdx = some i) (hi : i < 255) :
    Gives (.calWordAck w) s { s.live with
      cal := { s.live.cal with intake := Tab.insert s.live.cal.intake i w },
      boot := { s.live.boot with calIdx := some (i + 1) }, out := s.live.out ++ [.calReq (i + 1)] } := by
  show execCalWordAck w s = _
  exact run_gives (by simp [hidx, hi, Live.emit])

/-- The tests on the last word: a wrong form code counts 1, a wrong check word 2. -/
abbrev badForm (b : Build) (t : Tab Word) : Prop :=
  (Tab.getD t 0 (0 : Word)).toNat / 256 % 256 ≠ (if b.buoy then 1 else 2)

abbrev badCheck (t : Tab Word) : Prop := Tab.getD t 255 (0 : Word) ≠ intakeCrc t

/-- The last word is right: the words taken become the mirror. -/
theorem gives_calWordAck_good {t : Tab Word} (hidx : s.live.boot.calIdx = some 255)
    (ht : t = Tab.insert s.live.cal.intake 255 w) (hform : ¬badForm s.build t) (hcheck : ¬badCheck t) :
    Gives (.calWordAck w) s
      (Live.calDone { s.live with cal := { s.live.cal with intake := t, calf := some t } } s.build) := by
  show execCalWordAck w s = _
  subst ht
  refine run_gives ?_
  simp only [hidx, lt_irrefl, ↓reduceIte]
  exact if_neg (not_or.mpr ⟨mt of_decide_eq_true hform, mt of_decide_eq_true hcheck⟩)

/-- The last word is wrong: the fault is flagged and logged, and the intake ends without a mirror. -/
theorem gives_calWordAck_bad {t : Tab Word} (hidx : s.live.boot.calIdx = some 255)
    (ht : t = Tab.insert s.live.cal.intake 255 w) (hbad : badForm s.build t ∨ badCheck t) :
    Gives (.calWordAck w) s (((Live.put { s.live with cal := { s.live.cal with intake := t } } s.build
      F.GLB_BOOT_CAL_CRC 1).logE s.build 0x0103 3
        [(if (Tab.getD t 0 (0 : Word)).toNat / 256 % 256 ≠ (if s.build.buoy then 1 else 2) then 1 else 0) +
          (if Tab.getD t 255 (0 : Word) ≠ intakeCrc t then 2 else 0)]).calDone s.build) := by
  show execCalWordAck w s = _
  subst ht
  refine run_gives ?_
  have hcode (p q : Prop) [Decidable p] [Decidable q] :
      b2n (decide p) + 2 * b2n (decide q) = (if p then 1 else 0) + (if q then 2 else 0) := by
    by_cases hp : p <;> by_cases hq : q <;> simp [b2n, hp, hq]
  simp only [hidx, lt_irrefl, ↓reduceIte, hcode]
  exact if_pos (hbad.imp decide_eq_true decide_eq_true)

theorem gives_calIntakeTimeout {i : Nat} (hidx : s.live.boot.calIdx = some i) :
    Gives .calIntakeTimeout s ((s.live.logE s.build 0x0102 3 [i]).calDone s.build) := by
  show execCalIntakeTimeout s = _
  exact run_gives (by simp [hidx])

theorem gives_calWordAck_none (hidx : s.live.boot.calIdx = none) : Gives (.calWordAck w) s s.live := by
  show execCalWordAck w s = _
  exact run_gives (by simp [hidx])

theorem gives_calIntakeTimeout_none (hidx : s.live.boot.calIdx = none) : Gives .calIntakeTimeout s s.live := by
  show execCalIntakeTimeout s = _
  exact run_gives (by simp [hidx])

/-- The intake ends with an event, which waits for the logbook. -/
theorem logE_calDone (hosc : l.get b F.GLB_BOOT_CORE_OSC = 0) (hlive : l.log.live = false)
    (hearly : l.boot.early.length < 4) (hidle : l.clk.switches = []) (hon : l.clk.coreOn = false)
    (hq : l.clk.coreQual = false) (code sev : Nat) (args : List Nat) :
    (l.logE b code sev args).calDone b = { intakeEnd l with
      boot := { (intakeEnd l).boot with early := l.boot.early ++ [⟨code, sev, 0, 0, args⟩] },
      clk := { l.clk with code := (intakeEnd l).baseline b } } := by
  rw [Live.logE_early hlive hearly]
  exact calDone_wait hidle hon hq hosc

/-- Settles O5: every end of the intake goes through `Live.calDone`, with or without the mirror and the fault. -/
theorem calibrationIntakeReadsAllWordsOrNone : Obligations.CalibrationIntakeReadsAllWordsOrNone := by
  refine ⟨fun s w i => gives_calWordAck_next, fun s w t hidx hphase2 ht hform hcheck => ?_,
    fun s w t hidx hphase2 hcalf ht hbad => ?_, fun s i hidx hphase2 => ?_,
    fun s w hidx => ⟨gives_calWordAck_none hidx, gives_calIntakeTimeout_none hidx⟩⟩
  all_goals obtain ⟨hlive, hearly, hidle, hon, hq, hosc, hw⟩ := hphase2
  · refine yields_of_gives (gives_calWordAck_good hidx ht (not_not.mpr hform) (not_not.mpr hcheck)) ?_
    rw [calDone_wait (l := { s.live with cal := { s.live.cal with intake := t, calf := some t } })
      hidle hon hq hosc]
    exact ⟨rfl, rfl, rfl, rfl, rfl, rfl⟩
  · refine yields_of_gives (gives_calWordAck_bad hidx ht hbad) ?_
    rw [logE_calDone (l := Live.put { s.live with cal := { s.live.cal with intake := t } } s.build
      F.GLB_BOOT_CAL_CRC 1) ((Live.get_put_ne hw (by decide) 1).trans hosc) hlive hearly hidle hon hq]
    exact ⟨hcalf, rfl, rfl, fun hcalu => baseline_default hcalf hcalu rfl, Live.get_put_same hw _ _ _, rfl⟩
  · refine yields_of_gives (gives_calIntakeTimeout hidx) ?_
    rw [logE_calDone hosc hlive hearly hidle hon hq]
    exact ⟨rfl, rfl, rfl, rfl, rfl, fun hcalf hcalu => baseline_default hcalf hcalu rfl, rfl⟩

end

section

variable {s : State} {l : Live} {b : Build} {i : SwIsland}

/-- A qualification is noted, and may move the boot on. -/
theorem gives_clockQualified (ha : s.live.aonOn = true) (i : SwIsland) :
    Gives (.clockQualified i) s (Live.bootStep { s.live with clk := s.live.clk.setQual i true } s.build) := by
  show execClockQualified i s = _
  refine run_gives ?_
  cases i <;> simp [ha, Clk.setQual]

theorem gives_clockQualTimeout_core (hheld : s.live.boot.held = false) (hphase : s.live.boot.phase = 3)
    (hq : s.live.clk.coreQual = false) (hosc : s.live.get s.build F.GLB_BOOT_CORE_OSC = 0) :
    Gives (.clockQualTimeout .core) s
      (((s.live.put s.build F.GLB_BOOT_CORE_OSC 1).logE s.build 0x0104 2 [0]).bootStep s.build) := by
  show execClockQualTimeout .core s = _
  exact run_gives (by simp [hheld, hphase, hq, Live.flag, hosc])

theorem gives_clockQualTimeout_reg (hheld : s.live.boot.held = false) (hphase : s.live.boot.phase = 3)
    (hq : s.live.clk.regQual = false) (hosc : s.live.get s.build F.GLB_BOOT_REG_OSC = 0) :
    Gives (.clockQualTimeout .reg) s
      (((s.live.put s.build F.GLB_BOOT_REG_OSC 1).logE s.build 0x0104 2 [1]).bootStep s.build) := by
  show execClockQualTimeout .reg s = _
  exact run_gives (by simp [hheld, hphase, hq, Live.flag, hosc])

/-- The boot waits where neither port clock has qualified and an island that it waits for is on the oscillator. -/
theorem bootStep_waits (hcore : l.clk.coreQual = false) (hreg : l.clk.regQual = false)
    (h : (l.clk.coreOn = false ∧ l.get b F.GLB_BOOT_CORE_OSC = 0) ∨
      (l.clk.regOn = false ∧ l.get b F.GLB_BOOT_REG_OSC = 0)) : l.bootStep b = l := by
  unfold Live.bootStep
  simp only [hcore, hreg]
  split
  · rfl
  · split
    · rfl
    · next hon =>
      obtain ⟨ho, hosc⟩ | ⟨ho, hosc⟩ := h
      · exact absurd (by simp [ho, Live.flag, hosc]) hon
      · simp [ho, Live.flag, hosc]

theorem gives_clockSwitchDone {port : Bool} (hlast : s.live.clk.switches = [(i, port)])
    (hwait : s.live.clk.waiting = none) (hphase : s.live.boot.phase ≠ 3) :
    Gives .clockSwitchDone s { s.live with clk := { s.live.clk.setOn i port with switches := [] } } := by
  show execClockSwitchDone s = _
  refine run_gives ?_
  cases i <;> simp [hlast, Live.switchesDone, Clk.setOn, hwait, bootStep_of_phase_ne, hphase]

theorem gives_clockFallback (ha : s.live.aonOn = true) (hon : s.live.clk.on i = true) :
    Gives (.clockFallback i) s (s.live.fallback s.build i) := by
  show execClockFallback i s = _
  exact run_gives (by simp [ha, hon])

theorem gives_portClockQualLost (ha : s.live.aonOn = true) (hon : s.live.clk.on i = true) :
    Gives (.portClockQualLost i) s (s.live.fallback s.build i) := by
  show execPortClockQualLost i s = _
  exact run_gives (by simp [ha, hon])

theorem fallback_done (hidle : l.clk.switches = []) (hwait : l.clk.waiting = none) (hphase : l.boot.phase = 6) :
    l.fallback b i = ((({ l with clk := (l.clk.setOn i false).setQual i false }.put b (srcFld i) 0).put b
      F.CLK_STAT_FALLBACK 1).logE b 0x0202 3 [islandCode i]) := by
  cases i <;> simp [Live.fallback, Clk.setOn, Clk.setQual, hidle, hphase, Live.switchesDone, hwait, bootStep_of_phase_ne]

theorem gives_portClockQualLost_off (ha : s.live.aonOn = true) (hoff : s.live.clk.on i = false) :
    Gives (.portClockQualLost i) s { s.live with clk := s.live.clk.setQual i false } := by
  show execPortClockQualLost i s = _
  exact run_gives (by simp [ha, hoff])

theorem gives_clockFallback_off (hoff : s.live.clk.on i = false) : Gives (.clockFallback i) s s.live := by
  show execClockFallback i s = _
  exact run_gives (by simp [hoff])

/-- The first event before the logbook is initialised. -/
theorem logE_first_early (hlive : l.log.live = false) (hearly : l.boot.early = []) (code sev : Nat)
    (args : List Nat) :
    l.logE b code sev args = { l with boot := { l.boot with early := [⟨code, sev, 0, 0, args⟩] } } := by
  rw [Live.logE_early hlive (by rw [hearly]; exact Nat.zero_lt_succ 3), hearly]
  rfl

/-- The boot still waits once the first event is noted. -/
theorem logE_bootStep_waits (h : (l.clk.coreOn = false ∧ l.get b F.GLB_BOOT_CORE_OSC = 0) ∨
      (l.clk.regOn = false ∧ l.get b F.GLB_BOOT_REG_OSC = 0)) (hcore : l.clk.coreQual = false)
    (hreg : l.clk.regQual = false) (hlive : l.log.live = false) (hearly : l.boot.early = []) (code sev : Nat)
    (args : List Nat) :
    (l.logE b code sev args).bootStep b =
      { l with boot := { l.boot with early := [⟨code, sev, 0, 0, args⟩] } } := by
  rw [logE_first_early hlive hearly]
  exact bootStep_waits hcore hreg h

/-- Settles O6: each event of a port clock is one lemma; where the boot goes on from it is read off `bootStep`. -/
theorem portClocksQualifySwitchAndFallBack : Obligations.PortClocksQualifySwitchAndFallBack := by
  refine ⟨fun s ha hphase => ⟨?_, ?_⟩, fun s ha hphase hidle hon hosc => ?_,
    fun s hheld hphase hq hosc hon hrq hrosc hlive hearly hw => ?_,
    fun s hheld hphase hcq hon hcosc hq hosc hlive hearly hw => ?_,
    fun s i port hlast hwait hphase => ?_, fun s i ha hon hidle hwait hphase => ?_,
    fun s i ha => ⟨fun hoff => ⟨gives_portClockQualLost_off ha hoff, gives_clockFallback_off hoff⟩, fun hon => ?_⟩⟩
  · exact (bootStep_of_phase_ne (l := { s.live with clk := s.live.clk.setQual .core true }) hphase) ▸
      gives_clockQualified ha .core
  · exact (bootStep_of_phase_ne (l := { s.live with clk := s.live.clk.setQual .reg true }) hphase) ▸
      gives_clockQualified ha .reg
  · have h := gives_clockQualified ha .core
    rw [bootStep_core (l := { s.live with clk := s.live.clk.setQual .core true }) hphase hidle hon hosc] at h
    simp only [startSwitch_eq, Clk.setQual, hidle] at h
    exact h
  · have hosc' := (Live.get_put_ne (b := s.build) hw (f := F.GLB_BOOT_CORE_OSC) (e := 0) (by decide) 1).trans hrosc
    exact logE_bootStep_waits (l := s.live.put s.build F.GLB_BOOT_CORE_OSC 1) (.inr ⟨hon, hosc'⟩) hq hrq hlive hearly 0x0104 2 [0] ▸
      gives_clockQualTimeout_core hheld hphase hq hosc
  · have hosc' := (Live.get_put_ne (b := s.build) hw (f := F.GLB_BOOT_REG_OSC) (e := 0) (by decide) 1).trans hcosc
    exact logE_bootStep_waits (l := s.live.put s.build F.GLB_BOOT_REG_OSC 1) (.inl ⟨hon, hosc'⟩) hcq hq hlive hearly 0x0104 2 [1] ▸
      gives_clockQualTimeout_reg hheld hphase hq hosc
  · have h := gives_clockSwitchDone hlast hwait hphase
    cases i <;> exact h
  · exact fallback_done hidle hwait hphase ▸ gives_clockFallback ha hon
  · exact (gives_portClockQualLost ha hon).trans (gives_clockFallback ha hon).symm

end

end Sys2Proof.Proofs
end

section
/-! PROOFS. Logging, the oscillator trim and the window check (O8, O9, O38). -/

namespace Sys2Proof.Proofs

open Sys2Proof Sys2Proof.Machine Sys2Proof.Claims

section

/-! ### Logging looks at the logbook and its registers only -/

def logAs (l : Live) (g : Log) : Live := { l with log := g }

def earlyAs (l : Live) (es : List LogEv) : Live := { l with boot := { l.boot with early := es } }

/-- A relation of live parts with the same logbook, the same early events and the same LOG registers, which the
writes of logging keep. -/
structure LogSim (b : Build) (R : Live → Live → Prop) : Prop where
  log : ∀ {l m : Live}, R l m → m.log = l.log
  early : ∀ {l m : Live}, R l m → m.boot.early = l.boot.early
  get : ∀ {l m : Live} (f : Fld), R l m → f.isLog ∧ f.lo < 32 → m.get b f = l.get b f
  put : ∀ {l m : Live} (f : Fld) (v : Nat), R l m → f.isLog ∧ f.lo < 32 → R (l.put b f v) (m.put b f v)
  logAs : ∀ {l m : Live} (g : Log), R l m → R (logAs l g) (logAs m g)
  earlyAs : ∀ {l m : Live} (es : List LogEv), R l m → R (earlyAs l es) (earlyAs m es)

namespace LogSim

variable {R : Live → Live → Prop} {l m : Live} {b : Build}

theorem setBit (h : LogSim b R) (hr : R l m) (f : Fld) (i : Nat) (hf : f.isLog ∧ f.lo < 32) :
    R (l.setBit b f 0 i) (m.setBit b f 0 i) := by
  unfold Live.setBit
  rw [h.get f hr hf]
  exact h.put f _ hr hf

theorem bump (h : LogSim b R) (hr : R l m) (f : Fld) (hf : f.isLog ∧ f.lo < 32) : R (l.bump b f) (m.bump b f) := by
  unfold Live.bump
  rw [h.get f hr hf]
  exact h.put f _ hr hf

theorem logFog (h : LogSim b R) (hr : R l m) (sev : Nat) : R (l.logFog b sev) (m.logFog b sev) := by
  unfold Live.logFog Live.when
  rw [h.get F.LOG_CFG_FOG_SEV hr (by decide)]
  split
  · exact h.setBit hr _ _ (by decide)
  · exact hr

theorem atticAdd (h : LogSim b R) (hr : R l m) (e : LogEnt) : R (l.atticAdd b e) (m.atticAdd b e) := by
  unfold Live.atticAdd Live.flag Live.atticMin Live.atticCap
  rw [h.get F.LOG_ATTIC_EN hr (by decide), h.get F.LOG_ATTIC_MINSEV hr (by decide),
    h.get F.LOG_ATTIC_NBANKS_M1 hr (by decide), h.log hr]
  split
  · split
    · exact h.setBit hr _ _ (by decide)
    · unfold Live.when
      split
      · exact h.setBit (h.logAs _ hr) _ _ (by decide)
      · exact h.logAs _ hr
  · exact hr

theorem losses (h : LogSim b R) (gone : List LogEnt) : ∀ {l m : Live}, R l m →
    R (gone.foldl (fun l g => l.bump b (lostFld g.ev.sev)) l) (gone.foldl (fun l g => l.bump b (lostFld g.ev.sev)) m) := by
  induction gone with
  | nil => exact id
  | cons g gone ih => exact fun hr => ih (h.bump hr _ (lostFld_isLog g.ev.sev))

theorem atticDrop (h : LogSim b R) (hr : R l m) (gone : List LogEnt) : R (l.atticDrop gone) (m.atticDrop gone) := by
  unfold Live.atticDrop
  rw [h.log hr]
  exact h.logAs _ hr

theorem logNew (h : LogSim b R) (hr : R l m) (ev : LogEv) : R (l.logNew b ev) (m.logNew b ev) := by
  unfold Live.logNew
  rw [h.log hr]
  dsimp only
  split
  · exact h.bump (h.logAs _ hr) _ (dropFld_isLog ev.sev)
  · exact h.logFog (h.atticAdd (h.atticDrop (h.losses _ (h.logAs _ hr)) _) _) _

theorem logWrite (h : LogSim b R) (hr : R l m) (ev : LogEv) : R (l.logWrite b ev) (m.logWrite b ev) := by
  unfold Live.logWrite
  rw [h.log hr]
  split
  · split
    · exact h.logFog (h.logAs _ hr) _
    · exact h.logNew hr ev
  · exact h.logNew hr ev

theorem logE (h : LogSim b R) (hr : R l m) (code sev : Nat) (args : List Nat) (plan status : Nat) :
    R (l.logE b code sev args plan status) (m.logE b code sev args plan status) := by
  unfold Live.logE Live.logEv
  rw [congrArg Log.live (h.log hr), h.early hr]
  split
  · exact h.logWrite hr _
  · split
    · exact h.earlyAs _ hr
    · rw [h.log hr]
      exact h.bump (h.logAs _ hr) _ (dropFld_isLog sev)

end LogSim

theorem logSim_clk (b : Build) (c : Clk) : LogSim b fun l m => m = { l with clk := c } where
  log := fun hr => hr ▸ rfl
  early := fun hr => hr ▸ rfl
  get := fun _ hr _ => hr ▸ rfl
  put := fun _ _ hr _ => hr ▸ rfl
  logAs := fun _ hr => hr ▸ rfl
  earlyAs := fun _ hr => hr ▸ rfl

/-- Logging does not look at the clocks. -/
theorem logE_clk (l : Live) (b : Build) (c : Clk) (code sev : Nat) (args : List Nat) :
    ({ l with clk := c } : Live).logE b code sev args = { l.logE b code sev args with clk := c } :=
  (logSim_clk b c).logE rfl code sev args 0 0

theorem rst_of_isLog {f : Fld} (h : f.isLog) (l m : Live) (b : Build) (e : Nat) : m.rst b f e = l.rst b f e := by
  have hne : f ≠ F.UNIT_EN_CEL_CEL := fun hf => absurd (hf ▸ h) (by decide)
  simp only [Live.rst, hne, if_false]

/-- The same logbook, early events and LOG registers. -/
def LogAlike (l m : Live) : Prop :=
  Tab.wf l.rf = true ∧ Tab.wf m.rf = true ∧ m.log = l.log ∧ m.boot.early = l.boot.early ∧
    ∀ f : Fld, f.isLog → f.lo < 32 → Tab.find? m.rf (f.key 0) = Tab.find? l.rf (f.key 0)

theorem find?_set_same {t : Tab Nat} (h : Tab.wf t = true) (k d a : Nat) :
    Tab.find? (Tab.set t k d a) k = if a = d then none else some a := by
  unfold Tab.set
  split
  · exact Tab.find?_erase_same k 0 t h
  · exact Tab.find?_insert_same k a t

theorem find?_set_ne {t : Tab Nat} (h : Tab.wf t = true) {k i : Nat} (hk : k ≠ i) (d a : Nat) :
    Tab.find? (Tab.set t k d a) i = Tab.find? t i := by
  unfold Tab.set
  split
  · exact Tab.find?_erase_ne hk 0 t h
  · exact Tab.find?_insert_ne hk a t

theorem LogAlike.put {l m : Live} (b : Build) {f : Fld} (hf : f.isLog) (v : Nat) (h : LogAlike l m) :
    LogAlike (l.put b f v) (m.put b f v) := by
  obtain ⟨hl, hm, hlog, hearly, hfind⟩ := h
  refine ⟨Live.put_wf hl f v 0, Live.put_wf hm f v 0, hlog, hearly, fun g hg hlo => ?_⟩
  unfold Live.put
  rw [rst_of_isLog hf l m]
  by_cases hk : f.key 0 = g.key 0
  · rw [← hk, find?_set_same hl, find?_set_same hm]
  · rw [find?_set_ne hl hk, find?_set_ne hm hk, hfind g hg hlo]

theorem logSim_alike (b : Build) : LogSim b LogAlike where
  log := fun ⟨_, _, hlog, _⟩ => hlog
  early := fun ⟨_, _, _, hearly, _⟩ => hearly
  get := fun {l m} f ⟨_, _, _, _, hfind⟩ hf => by
    rw [Live.get, Live.get, Tab.getD, Tab.getD, hfind f hf.1 hf.2, rst_of_isLog hf.1 l m]
  put := fun _ v h hf => h.put b hf.1 v
  logAs := fun _ ⟨hl, hm, _, hearly, hfind⟩ => ⟨hl, hm, rfl, hearly, hfind⟩
  earlyAs := fun _ ⟨hl, hm, hlog, _, hfind⟩ => ⟨hl, hm, hlog, rfl, hfind⟩

/-- What logging leaves in the logbook depends on the logbook, the early events and the LOG registers only. -/
theorem logE_log_congr {l m : Live} (h : LogAlike l m) (b : Build) (code sev : Nat) (args : List Nat) :
    (m.logE b code sev args).log = (l.logE b code sev args).log :=
  (logSim_alike b).log ((logSim_alike b).logE h code sev args 0 0)

/-- A write outside the LOG registers does not matter to logging. -/
theorem logAlike_put {l m : Live} (h : LogAlike l m) (b : Build) {f : Fld} {e : Nat} (hf : ¬f.isLog)
    (hlo : f.lo < 32) (he : e < 65536) (v : Nat) : LogAlike l (m.put b f v e) := by
  obtain ⟨hl, hm, hlog, hearly, hfind⟩ := h
  refine ⟨hl, Live.put_wf hm f v e, hlog, hearly, fun g hg hglo => ?_⟩
  have hk : f.key e ≠ g.key 0 := Fld.key_ne he (by decide) hlo hglo (.inl fun hfg => hf (by
    unfold Fld.isLog at hg ⊢
    rwa [hfg]))
  exact (find?_set_ne hm hk _ _).trans (hfind g hg hglo)

theorem LogAlike.refl {l : Live} (hw : Tab.wf l.rf = true) : LogAlike l l :=
  ⟨hw, hw, rfl, rfl, fun _ _ _ => rfl⟩

end

section

variable {s : State} {l : Live} {b : Build} {n win : Nat}

theorem trimWindow_ftTick (h : TrimBy s .ftTick) : s.live.trimWindow s.build = some .ftTick := by
  obtain ⟨hsrc, hever⟩ := h
  simp [Live.trimWindow, hsrc, hever]

theorem gives_trimWindow_spoilt (ha : s.live.aonOn = true) (h : TrimBy s .ftTick)
    (hs : s.live.clk.spoilt = some .ftTick) :
    Gives (.trimWindow .ftTick n win) s { s.live with clk := { s.live.clk with spoilt := none } } := by
  show execTrimWindow .ftTick n win s = _
  exact run_gives (by simp [ha, trimWindow_ftTick h, hs])

/-- The live part after a window of `n` pulses that is not spoilt. -/
def counted (l : Live) (n : Nat) : Live := { l with clk := { l.clk with spoilt := none, lastCnt := min n 131071 } }

/-- A window that is not spoilt is kept as LAST_CNT, and acquires or tracks. -/
theorem gives_trimWindow (ha : s.live.aonOn = true) (h : TrimBy s .ftTick)
    (hs : s.live.clk.spoilt ≠ some .ftTick) :
    Gives (.trimWindow .ftTick n win) s
      (if s.live.clk.acq then (counted s.live n).acquire s.build n win else (counted s.live n).track s.build n) := by
  show execTrimWindow .ftTick n win s = _
  exact run_gives (by simp [ha, trimWindow_ftTick h, hs, counted])

/-- One step of acquisition: the trial bit goes when the count is too high, and the next bit is tried. -/
theorem acquire_step {i c : Nat} (hbit : l.clk.bit = i + 1)
    (hc : c = (if i = 8 then 0x200 else l.clk.code)) :
    l.acquire b n win = { l with clk := { l.clk with
      bit := i,
      code := (c - (if l.get b F.OSC_TGT_TARGET < n ∧ c.testBit (i + 1) then 2 ^ (i + 1) else 0)) ||| 2 ^ i } } := by
  have hc' : (if i + 1 = 9 then 0x200 else l.clk.code) = c := by
    rw [hc]
    simp only [Nat.reduceEqDiff]
  simp only [Live.acquire, hbit, hc', Nat.add_one_ne_zero, if_false, Nat.add_sub_cancel]
  split <;> rfl

theorem acquire_last (hbit : l.clk.bit = 0) (hmode : l.get b F.OSC_CFG_QMODE = 0) :
    l.acquire b n win = { l with clk := { l.clk with
      acq := false, acqDone := true,
      code := if l.get b F.OSC_TGT_TARGET < n ∧ l.clk.code.testBit 0 then l.clk.code - 1 else l.clk.code } } := by
  rw [get_eq_fieldOf] at hmode
  simp [Live.acquire, hbit, Live.flag, get_eq_fieldOf, hmode]

theorem track_step {t : Nat} (ht : t = l.get b F.OSC_TGT_TARGET) (hlo : 0 < l.clk.code) (hhi : l.clk.code < 1023) :
    l.track b n = { l with clk := { l.clk with
      code := if t + t / 1024 < n then l.clk.code - 1 else if n + t / 1024 < t then l.clk.code + 1 else l.clk.code } } := by
  subst ht
  unfold Live.track
  have h0 : l.clk.code ≠ 0 := by omega
  have h1 : l.clk.code ≠ 1023 := by omega
  simp only [h0, h1, if_false]
  split
  · rfl
  · split <;> rfl

theorem trimLim_eq (l : Live) (b : Build) : l.trimLim b =
    { (l.put b F.OSC_STAT_TRIM_LIM 1).logE b 0x0204 2 [l.clk.code] with
      clk := { l.clk with acq := true, bit := 9 } } := by
  simp [Live.trimLim, Clk.restart]

/-- At an end of the code it stays, and acquisition restarts. -/
theorem track_limit {t : Nat} (ht : t = l.get b F.OSC_TGT_TARGET)
    (h : (l.clk.code = 0 ∧ t + t / 1024 < n) ∨ (l.clk.code = 1023 ∧ n + t / 1024 < t)) :
    l.track b n = l.trimLim b := by
  subst ht
  unfold Live.track
  obtain ⟨hcode, hn⟩ | ⟨hcode, hn⟩ := h
  · simp only [hn, hcode, if_true]
  · have hlo : ¬l.get b F.OSC_TGT_TARGET + l.get b F.OSC_TGT_TARGET / 1024 < n := by omega
    simp only [hn, hlo, hcode, if_true, if_false]

theorem spoilWindow_eq (l : Live) (b : Build) : l.spoilWindow b =
    { l with clk := { l.clk with spoilt := (l.trimWindow b).or l.clk.spoilt } } := by
  unfold Live.spoilWindow
  cases l.trimWindow b <;> rfl

theorem gives_clkRefLost (ha : s.live.aonOn = true) :
    Gives .clkRefLost s { s.live with clk := { s.live.clk with
      refOk := false,
      spoilt := if s.live.trimWindow s.build = some .clkRef then some .clkRef else s.live.clk.spoilt } } := by
  show execClkRefLost s = _
  refine run_gives ?_
  have hwin : s.live.trimWindow s.build = some .clkRef → s.live.trimSrc s.build = some .clkRef := fun h =>
    (Option.filter_eq_some_iff.mp h).1
  have hnone : s.live.trimSrc s.build = some .clkRef → s.live.trimWindow s.build ≠ some .clkRef →
      s.live.trimWindow s.build = none := fun hsrc hne => by
    cases h : s.live.trimWindow s.build with
    | none => rfl
    | some x =>
      have hx := (Option.filter_eq_some_iff.mp h).1
      rw [hsrc] at hx
      exact absurd (h.trans hx.symm) hne
  simp only [ha, spoilWindow_eq, Live.when]
  by_cases hw : s.live.trimWindow s.build = some .clkRef
  · simp [hw, hwin hw]
  · by_cases hsrc : s.live.trimSrc s.build = some .clkRef
    · simp [hnone hsrc hw, hsrc]
    · simp [hw, hsrc]

/-! ### Writes to OSC_CFG -/

theorem findReg_oscCfg (b : Build) : findReg b 0x48 = some (⟨0x48, 0, 1, 1, .none, .none,
    [F.OSC_CFG_SRC, F.OSC_CFG_QMODE, F.OSC_CFG_QCHK, F.OSC_CFG_OVR, F.OSC_CFG_TRIM_W, F.OSC_CFG_REFWIN]⟩, 0) := by
  rw [findReg_form]
  cases b.form <;> decide +kernel

/-- The fields that a write of OSC_CFG sets. -/
def oscFields : List Fld :=
  [F.OSC_CFG_SRC, F.OSC_CFG_QMODE, F.OSC_CFG_OVR, F.OSC_CFG_TRIM_W, F.OSC_CFG_REFWIN]

theorem oscFields_nodup : (oscFields.map fun g => g.key 0).Nodup := by decide

theorem gives_trimSourceWrite {v : Word} (h : Served s) :
    Gives (.trimSourceWrite v) s ((written s).writeOscCfg s.build v none) := by
  show execTrimSourceWrite v s = _
  exact portWrite_gives h (findReg_oscCfg s.build) rfl rfl (by decide)

/-- The live part with the fields written: acquisition restarts where SRC or REFWIN changes. -/
def oscWritten (l : Live) (b : Build) (v : Word) : Live :=
  { putSlices l b oscFields v.toNat with
    clk := if (l.get b F.OSC_CFG_SRC, l.get b F.OSC_CFG_REFWIN) = (v.toNat % 4, v.toNat / 2 ^ 15) then l.clk
      else l.clk.restart }

theorem get_oscWritten {v : Word} (hw : Tab.wf l.rf = true) {f : Fld} (hf : f ∈ oscFields) :
    (oscWritten l b v).get b f = v.toNat / 2 ^ f.lo % 2 ^ f.w :=
  (get_putSlices_mem b v.toNat oscFields oscFields_nodup hf l hw).trans (by rw [Nat.shiftRight_eq_div_pow])

theorem get_oscWritten_ne {v : Word} (hw : Tab.wf l.rf = true) {f : Fld}
    (hf : f.key 0 ∉ oscFields.map fun g => g.key 0) : (oscWritten l b v).get b f = l.get b f :=
  get_putSlices_ne b v.toNat oscFields hf l hw

theorem oscWritten_frame (l : Live) (b : Build) (v : Word) :
    oscWritten l b v = { l with rf := (oscWritten l b v).rf, clk := (oscWritten l b v).clk } := by
  unfold oscWritten
  rw [putSlices_frame]

theorem get_oscWritten_src {v : Word} (hw : Tab.wf l.rf = true) :
    (oscWritten l b v).get b F.OSC_CFG_SRC = v.toNat % 4 :=
  (get_oscWritten hw (by decide)).trans (congrArg (· % 4) (Nat.div_one _))

theorem get_oscWritten_refwin {v : Word} (hw : Tab.wf l.rf = true) :
    (oscWritten l b v).get b F.OSC_CFG_REFWIN = v.toNat / 2 ^ 15 := by
  refine (get_oscWritten hw (by decide)).trans (Nat.mod_eq_of_lt ?_)
  exact Nat.div_lt_of_lt_mul v.isLt

/-- One bit of a write. -/
theorem div_pow_mod_two_eq_b2n (v : Word) (i : Nat) : v.toNat / 2 ^ i % 2 = b2n (v.getLsbD i) := by
  have h : v.getLsbD i = decide (v.toNat / 2 ^ i % 2 = 1) := Nat.testBit_eq_decide_div_mod_eq
  rw [h]
  obtain h0 | h1 := Nat.mod_two_eq_zero_or_one (v.toNat / 2 ^ i)
  · rw [h0]; rfl
  · rw [h1]; rfl

theorem get_oscWritten_qmode {v : Word} (hw : Tab.wf l.rf = true) :
    (oscWritten l b v).get b F.OSC_CFG_QMODE = b2n (v.getLsbD 2) :=
  (get_oscWritten hw (by decide)).trans (div_pow_mod_two_eq_b2n v 2)

theorem get_oscWritten_ovr {v : Word} (hw : Tab.wf l.rf = true) :
    (oscWritten l b v).get b F.OSC_CFG_OVR = b2n (v.getLsbD 4) :=
  (get_oscWritten hw (by decide)).trans (div_pow_mod_two_eq_b2n v 4)

/-- The window check that a write of OSC_CFG asks for, with count `k` or a free one. -/
def checkWindow (l : Live) (b : Build) (v : Word) (k : Option Nat) : Live :=
  if v.toNat.testBit 3 ∧ l.flag b F.OSC_CFG_QMODE then
    match k with
    | some c => l.windowCheck b c
    | none => { l with free := l.free + 1 }.windowCheck b (Config.openValue l.free).toNat
  else l

/-- A write of OSC_CFG sets the fields, and runs the window check that QCHK asks for in QMODE. -/
theorem writeOscCfg_eq {v : Word} {k : Option Nat} (hw : Tab.wf l.rf = true) :
    l.writeOscCfg b v k = checkWindow (oscWritten l b v) b v k := by
  have hm : (if (l.get b F.OSC_CFG_SRC, l.get b F.OSC_CFG_REFWIN) =
      ((putSlices l b oscFields v.toNat).get b F.OSC_CFG_SRC,
        (putSlices l b oscFields v.toNat).get b F.OSC_CFG_REFWIN) then putSlices l b oscFields v.toNat
      else { putSlices l b oscFields v.toNat with clk := (putSlices l b oscFields v.toNat).clk.restart }) =
      oscWritten l b v := by
    have hsrc : (putSlices l b oscFields v.toNat).get b F.OSC_CFG_SRC = v.toNat % 4 := get_oscWritten_src hw
    have hwin : (putSlices l b oscFields v.toNat).get b F.OSC_CFG_REFWIN = v.toNat / 2 ^ 15 :=
      get_oscWritten_refwin hw
    rw [hsrc, hwin, oscWritten, putSlices_frame]
    split <;> rfl
  exact congrArg (checkWindow · b v k) hm

theorem flag_oscWritten_qmode {v : Word} (hw : Tab.wf l.rf = true) :
    (oscWritten l b v).flag b F.OSC_CFG_QMODE = v.getLsbD 2 := by
  rw [Live.flag, get_oscWritten_qmode hw]
  cases v.getLsbD 2 <;> rfl

theorem writeOscCfg_unchecked {v : Word} {k : Option Nat} (hw : Tab.wf l.rf = true)
    (h : v.getLsbD 2 = false ∨ v.getLsbD 3 = false) : l.writeOscCfg b v k = oscWritten l b v := by
  rw [writeOscCfg_eq hw]
  unfold checkWindow
  rw [flag_oscWritten_qmode hw, if_neg]
  rintro ⟨h3, h2⟩
  obtain h | h := h
  · exact Bool.false_ne_true (h.symm.trans h2)
  · exact Bool.false_ne_true (h.symm.trans h3)

theorem writeOscCfg_checked {v : Word} {c : Nat} (hw : Tab.wf l.rf = true)
    (h2 : v.getLsbD 2 = true) (h3 : v.getLsbD 3 = true) :
    l.writeOscCfg b v (some c) = (oscWritten l b v).windowCheck b c := by
  rw [writeOscCfg_eq hw]
  unfold checkWindow
  rw [flag_oscWritten_qmode hw, if_pos ⟨h3, h2⟩]

/-- Settles O8: a window acquires or tracks, and what a write of OSC_CFG restarts is read off `oscWritten`. -/
theorem trimAcquiresAndTracks : Obligations.TrimAcquiresAndTracks := by
  refine ⟨fun s n win => gives_trimWindow_spoilt, fun s n win i c ha h hs hacq hbit hc => ?_,
    fun s n win ha h hs hacq hbit hmode => ?_, fun s n win t ha h hs hacq ht hlo hhi => ?_,
    fun s n win t ha h hs hacq ht hend => ?_, fun s => gives_clkRefLost, fun s v h hw h2 hsrc => ?_⟩
  · have hg := gives_trimWindow (n := n) (win := win) ha h hs
    rw [if_pos hacq, acquire_step (l := counted s.live n) hbit hc] at hg
    exact hg
  · have hg := gives_trimWindow (n := n) (win := win) ha h hs
    rw [if_pos hacq, acquire_last (l := counted s.live n) hbit hmode] at hg
    exact hg
  · have hg := gives_trimWindow (n := n) (win := win) ha h hs
    rw [hacq, if_neg Bool.false_ne_true, track_step (l := counted s.live n) ht hlo hhi] at hg
    exact hg
  · have hg := gives_trimWindow (n := n) (win := win) ha h hs
    rw [hacq, if_neg Bool.false_ne_true, track_limit (l := counted s.live n) ht hend, trimLim_eq] at hg
    refine hg.trans (congrArg (fun l => Host.Outcome.next { s with live := l }) ?_)
    exact congrArg (fun l : Live => { l with clk := { (counted s.live n).clk with acq := true, bit := 9 } })
      (logE_clk (({ s.live with clk := { s.live.clk with lastCnt := min n 131071 } } : Live).put s.build
        F.OSC_STAT_TRIM_LIM 1) s.build (counted s.live n).clk 0x0204 2 [s.live.clk.code])
  · refine yields_of_gives (gives_trimSourceWrite h) ?_
    have hw' : Tab.wf (written s).rf = true := hw
    rw [writeOscCfg_unchecked hw' (.inl h2)]
    refine ⟨get_oscWritten_src hw', get_oscWritten_refwin hw', get_oscWritten_ovr hw', ?_⟩
    have hne : ((written s).get s.build F.OSC_CFG_SRC, (written s).get s.build F.OSC_CFG_REFWIN) ≠
        (v.toNat % 4, v.toNat / 2 ^ 15) := fun he => hsrc (Prod.mk.inj he).1.symm
    have hclk : (oscWritten (written s) s.build v).clk = s.live.clk.restart := if_neg hne
    rw [oscWritten_frame, hclk]
    rfl

end

section

variable {s : State} {l : Live} {b : Build} {n : Nat}

/-- What R101 asks of a count, with the window and the target that the registers hold. -/
def InWindow (refOk : Bool) (win want n : Nat) : Prop :=
  refOk = true ∧ win ≠ 0 ∧ 98 * want ≤ 100 * n ∧ 100 * n ≤ 102 * want


theorem windowCheck_pass {win want : Nat} (hwin : l.get b F.OSC_CFG_REFWIN = win)
    (hwant : l.get b F.OSC_TGT_TARGET * 1024 / win = want) (h : InWindow l.clk.refOk win want n) :
    l.windowCheck b n = l := by
  obtain ⟨href, hne, hlo, hhi⟩ := h
  unfold Live.windowCheck
  dsimp only
  rw [hwin, hwant]
  refine if_pos ⟨href, hne, ?_⟩
  split <;> omega

theorem windowCheck_fail {win want : Nat} (hwin : l.get b F.OSC_CFG_REFWIN = win)
    (hwant : l.get b F.OSC_TGT_TARGET * 1024 / win = want) (h : ¬InWindow l.clk.refOk win want n) :
    l.windowCheck b n = (l.put b F.OSC_STAT_WIN_FAIL 1).logE b 0x0203 3 [l.clk.lastCnt] := by
  unfold Live.windowCheck
  dsimp only
  rw [hwin, hwant]
  refine if_neg fun ⟨href, hne, hoff⟩ => h ⟨href, hne, ?_⟩
  split at hoff <;> omega

theorem gives_windowCheck {v : Word} (h : Served s) :
    Gives (.windowCheck v n) s ((written s).writeOscCfg s.build v (some n)) := by
  obtain ⟨hopen, hphase, hturn⟩ := h
  have hserved : (written s).regServed 0x48 = true := decide_eq_true (.inl hphase)
  show execWindowCheck v n s = _
  exact (portWriteBy_gives hopen hturn (by rw [findReg_oscCfg]; rfl)).trans (by simp only [hserved, if_true])

/-- A set WIN_FAIL shows at `fog_out` (R490). -/
theorem fogOut_of_winFail (h : l.get b F.OSC_STAT_WIN_FAIL = 1) : l.fogOut b = true := by
  have hbit : b2n (l.flag b F.OSC_STAT_WIN_FAIL) = 1 := by rw [Live.flag, h]; rfl
  refine decide_eq_true ?_
  unfold Live.fog
  dsimp only
  omega

/-- The live part after a window check that failed. -/
def failed (l : Live) (b : Build) : Live := (l.put b F.OSC_STAT_WIN_FAIL 1).logE b 0x0203 3 [l.clk.lastCnt]

theorem get_failed (hw : Tab.wf l.rf = true) {f : Fld} (hlo : f.lo < 32) (hlog : ¬f.isLog) :
    (failed l b).get b f = (l.put b F.OSC_STAT_WIN_FAIL 1).get b f :=
  ((Live.logE_only (l.put b F.OSC_STAT_WIN_FAIL 1) b 0x0203 3 [l.clk.lastCnt] 0 0).2
    (Live.put_wf hw _ _ 0)).2 f 0 hlo (by decide) hlog

theorem get_failed_winFail (hw : Tab.wf l.rf = true) : (failed l b).get b F.OSC_STAT_WIN_FAIL = 1 :=
  (get_failed hw (by decide) (by decide)).trans (Live.get_put_same hw _ _ 0)

theorem get_failed_osc (hw : Tab.wf l.rf = true) {f : Fld} (hf : f ∈ oscFields) :
    (failed l b).get b f = l.get b f := by
  have hplace : ∀ f ∈ oscFields, f.lo < 32 ∧ ¬f.isLog ∧ F.OSC_STAT_WIN_FAIL.key 0 ≠ f.key 0 := by decide
  obtain ⟨hlo, hlog, hkey⟩ := hplace f hf
  exact (get_failed hw hlo hlog).trans (Live.get_put_ne hw hkey _)

theorem failed_frame (l : Live) (b : Build) :
    failed l b = { l with
      rf := (failed l b).rf, log := (failed l b).log, boot := { l.boot with early := (failed l b).boot.early } } :=
  (Live.logE_only (l.put b F.OSC_STAT_WIN_FAIL 1) b 0x0203 3 [l.clk.lastCnt] 0 0).1

theorem logAlike_putSlices {l : Live} (b : Build) (v : Nat) (fs : List Fld) (hfs : ∀ f ∈ fs, ¬f.isLog ∧ f.lo < 32) :
    ∀ {m : Live}, LogAlike l m → LogAlike l (putSlices m b fs v) := by
  induction fs with
  | nil => exact id
  | cons f fs ih =>
    intro m h
    obtain ⟨hf, hlo⟩ := hfs f (List.mem_cons_self ..)
    exact ih (fun g hg => hfs g (List.mem_cons_of_mem _ hg)) (logAlike_put h b hf hlo (by decide) _)

theorem logAlike_oscWritten {k : Live} {v : Word} (hk : LogAlike k l) : LogAlike k (oscWritten l b v) := by
  have h : LogAlike k (putSlices l b oscFields v.toNat) := logAlike_putSlices b v.toNat oscFields (by decide) hk
  exact h

/-- What the fields read after a write of OSC_CFG, whatever its check finds. -/
theorem oscFields_read {v : Word} {m : Live} (hw : Tab.wf l.rf = true)
    (hm : ∀ f ∈ oscFields, m.get b f = (oscWritten l b v).get b f) :
    m.get b F.OSC_CFG_SRC = v.toNat % 4 ∧ m.get b F.OSC_CFG_QMODE = b2n (v.getLsbD 2) ∧
      m.get b F.OSC_CFG_OVR = b2n (v.getLsbD 4) ∧ m.get b F.OSC_CFG_TRIM_W = v.toNat / 32 % 1024 ∧
      m.get b F.OSC_CFG_REFWIN = v.toNat / 2 ^ 15 :=
  ⟨(hm _ (by decide)).trans (get_oscWritten_src hw), (hm _ (by decide)).trans (get_oscWritten_qmode hw),
    (hm _ (by decide)).trans (get_oscWritten_ovr hw), (hm _ (by decide)).trans (get_oscWritten hw (by decide)),
    (hm _ (by decide)).trans (get_oscWritten_refwin hw)⟩

theorem oscWritten_wf {v : Word} (hw : Tab.wf l.rf = true) : Tab.wf (oscWritten l b v).rf = true :=
  putSlices_wf b v.toNat oscFields l hw

theorem oscWritten_clk (l : Live) (b : Build) (v : Word) :
    (oscWritten l b v).clk.refOk = l.clk.refOk ∧ (oscWritten l b v).clk.lastCnt = l.clk.lastCnt := by
  unfold oscWritten
  dsimp only
  split <;> exact ⟨rfl, rfl⟩

/-- What a checked write of OSC_CFG leaves, as O9 says it of a live part `l` before it and `m` after it; `k` is one that
logs as `l` does. -/
def Checked (k l m : Live) (b : Build) (pass : Prop) : Prop :=
  m = { l with rf := m.rf, clk := m.clk, log := m.log, boot := { l.boot with early := m.boot.early } } ∧
  (pass → m.get b F.OSC_STAT_WIN_FAIL = l.get b F.OSC_STAT_WIN_FAIL ∧ m.log = l.log) ∧
  (¬pass → m.get b F.OSC_STAT_WIN_FAIL = 1 ∧ m.fogOut b = true ∧
    m.log = (k.logE b 0x0203 3 [l.clk.lastCnt]).log)

theorem checked_pass {k : Live} {v : Word} {pass : Prop} (hw : Tab.wf l.rf = true) (h : pass) :
    Checked k l (oscWritten l b v) b pass :=
  ⟨(oscWritten_frame l b v).trans (by rw [oscWritten_frame]),
    fun _ => ⟨get_oscWritten_ne hw (by decide), by rw [oscWritten_frame]⟩, fun hn => absurd h hn⟩

theorem checked_fail {k : Live} {v : Word} {pass : Prop} (hw : Tab.wf l.rf = true) (hk : LogAlike k l) (h : ¬pass) :
    Checked k l (failed (oscWritten l b v) b) b pass := by
  have hw' : Tab.wf (oscWritten l b v).rf = true := oscWritten_wf hw
  have hfail := get_failed_winFail (b := b) hw'
  refine ⟨?_, fun hp => absurd hp h, fun _ => ⟨hfail, fogOut_of_winFail hfail, ?_⟩⟩
  · rw [failed_frame, oscWritten_frame]
  · have hlog := logE_log_congr (logAlike_put (f := F.OSC_STAT_WIN_FAIL) (e := 0)
      (logAlike_oscWritten (b := b) (v := v) hk) b (by decide) (by decide) (by decide) 1) b 0x0203 3 [l.clk.lastCnt]
    rw [← (oscWritten_clk l b v).2] at hlog
    exact hlog.trans (by rw [(oscWritten_clk l b v).2])

/-- Settles O9: the check looks at the fields as written, and a failed one leaves WIN_FAIL and its event. -/
theorem windowCheckFailsOutsideTwoPercent : Obligations.WindowCheckFailsOutsideTwoPercent := by
  refine ⟨fun s v n win want h hw h2 h3 hwin hwant => yields_of_gives (gives_windowCheck h) ?_,
    fun s v n h hw hun => yields_of_gives (gives_windowCheck h) ?_⟩
  · have hw' : Tab.wf (written s).rf = true := hw
    have hread := get_oscWritten_refwin (b := s.build) (v := v) hw'
    have htarget : (oscWritten (written s) s.build v).get s.build F.OSC_TGT_TARGET * 1024 / win = want := by
      rw [get_oscWritten_ne hw' (by decide), hwant]
      rfl
    rw [← hwin] at hread
    rw [writeOscCfg_checked hw' h2 h3]
    have href := (oscWritten_clk (written s) s.build v).1
    by_cases hpass : InWindow s.live.clk.refOk win want n
    · rw [windowCheck_pass hread htarget (href ▸ hpass)]
      obtain ⟨hsrc, hmode, hovr, htrim, hwin'⟩ := oscFields_read hw' (b := s.build) (v := v) fun _ _ => rfl
      exact ⟨hsrc, hmode.trans (by rw [h2]; rfl), hovr, htrim, hread, checked_pass (k := s.live) hw' hpass⟩
    · have hk : LogAlike s.live (written s) := LogAlike.refl hw
      have hfail := windowCheck_fail hread htarget (href ▸ hpass)
      obtain ⟨hsrc, hmode, hovr, htrim, hwin'⟩ := oscFields_read hw' (b := s.build) (v := v) fun f hf =>
        get_failed_osc (oscWritten_wf hw') hf
      rw [hfail]
      exact ⟨hsrc, hmode.trans (by rw [h2]; rfl), hovr, htrim, hwin'.trans hwin.symm, checked_fail (k := s.live) hw' hk hpass⟩
  · have hw' : Tab.wf (written s).rf = true := hw
    rw [writeOscCfg_unchecked hw' hun]
    refine ⟨get_oscWritten_src hw', get_oscWritten_qmode hw', get_oscWritten_refwin hw',
      get_oscWritten_ne hw' (by decide), oscWritten_frame ..⟩

end

section

variable {l : Live} {b : Build} {ev : LogEv} {e : LogEnt}

/-- The entry that an event becomes when it takes the next LSEQ. -/
def entryOf (l : Live) (ev : LogEv) : LogEnt := ⟨l.log.next, ev, false, 0, false, none⟩

/-- What may be freed for an entry: the words not in use, and those of the entries that may go. -/
theorem le_avail (p : LogEnt → Prop) [DecidablePred p] (es : List LogEnt) :
    ∀ a : Nat, a ≤ es.foldl (fun a x => if p x then a + x.ev.words else a) a := by
  induction es with
  | nil => exact Nat.le_refl
  | cons x es ih =>
    intro a
    refine Nat.le_trans ?_ (ih _)
    dsimp only
    split
    · exact Nat.le_add_right ..
    · exact Nat.le_refl a

theorem evict_of_room {cap n : Nat} {es : List LogEnt} (h : n ≤ cap - usedWords es) (k : Nat) :
    evict cap n k es = (es, []) := by
  cases k with
  | zero => rfl
  | succ k => exact if_pos h

/-- An entry that fits goes to the end, and nothing goes for it. -/
theorem placeEnt_of_room {cap : Nat} {es : List LogEnt} (h : e.ev.words ≤ cap - usedWords es) :
    placeEnt cap es e = some (es ++ [e], []) := by
  unfold placeEnt
  dsimp only
  rw [evict_of_room h]
  exact if_neg (Nat.not_lt.mpr (Nat.le_trans h (le_avail _ es _)))

/-- Where no entry may go, what may be freed is what is free. -/
theorem avail_of_none (p : LogEnt → Prop) [DecidablePred p] {es : List LogEnt} (h : ∀ x ∈ es, ¬p x) (a : Nat) :
    es.foldl (fun a x => if p x then a + x.ev.words else a) a = a := by
  induction es with
  | nil => rfl
  | cons x es ih =>
    rw [List.foldl_cons, if_neg (h x (List.mem_cons_self ..))]
    exact ih fun y hy => h y (List.mem_cons_of_mem _ hy)

/-- An entry that does not fit, where no entry of its severity or below can go, has no place. -/
theorem placeEnt_refused {cap : Nat} {es : List LogEnt} (h : cap - usedWords es < e.ev.words)
    (hes : ∀ x ∈ es, x.sel = true ∨ e.ev.sev < x.ev.sev) : placeEnt cap es e = none := by
  have hstay : ∀ x ∈ es, ¬((!x.sel) = true ∧ x.ev.sev ≤ e.ev.sev) := by
    intro x hx ⟨hsel, hsev⟩
    obtain h | h := hes x hx
    · simp [h] at hsel
    · omega
  unfold placeEnt
  simp only [avail_of_none _ hstay, if_pos h]

theorem logFog_log (l : Live) (b : Build) (sev : Nat) : (l.logFog b sev).log = l.log := by
  unfold Live.logFog Live.when
  split <;> rfl

/-- The attic copy of an entry leaves the rest of the logbook. -/
theorem atticAdd_log (l : Live) (b : Build) (e : LogEnt) :
    (l.atticAdd b e).log = { l.log with attic := (l.atticAdd b e).log.attic } := by
  unfold Live.atticAdd
  split
  · split
    · rfl
    · unfold Live.when
      split <;> rfl
  · rfl

theorem logNew_room (h : ev.words ≤ b.logWords - usedWords l.log.ents) :
    (l.logNew b ev).log.ents = l.log.ents ++ [entryOf l ev] ∧ (l.logNew b ev).log.newest = l.log.next ∧
      (l.logNew b ev).log.next = l.log.next + 1 := by
  have hplace : placeEnt b.logWords l.log.ents (entryOf l ev) = some (l.log.ents ++ [entryOf l ev], []) :=
    placeEnt_of_room h
  unfold entryOf at hplace ⊢
  simp only [Live.logNew, hplace, logFog_log]
  rw [atticAdd_log]
  exact ⟨rfl, rfl, rfl⟩

theorem logNew_refused (hw : Tab.wf l.rf = true) (h : b.logWords - usedWords l.log.ents < ev.words)
    (hes : ∀ x ∈ l.log.ents, x.sel = true ∨ ev.sev < x.ev.sev) :
    (l.logNew b ev).log.ents = l.log.ents ∧ (l.logNew b ev).log.next = l.log.next + 1 ∧
      (l.logNew b ev).get b (dropFld ev.sev) = min (l.get b (dropFld ev.sev) + 1) (2 ^ (dropFld ev.sev).w - 1) := by
  have hplace : placeEnt b.logWords l.log.ents (entryOf l ev) = none := placeEnt_refused h hes
  unfold entryOf at hplace
  simp only [Live.logNew, hplace]
  refine ⟨rfl, rfl, (Live.get_put_same hw _ _ _).trans (Nat.mod_eq_of_lt ?_)⟩
  exact Nat.lt_of_le_of_lt (Nat.min_le_right ..) (Nat.sub_lt (Nat.two_pow_pos _) Nat.one_pos)

theorem logE_live (h : l.log.live = true) (code sev : Nat) (args : List Nat) (plan status : Nat) :
    l.logE b code sev args plan status = l.logWrite b ⟨code, sev, plan, status, args⟩ :=
  if_pos h

/-- An event that is not equal to the newest entry becomes an entry of its own. -/
theorem logWrite_new (h : ∀ e ∈ l.log.ents.getLast?, e.ev ≠ ev ∨ e.lseq ≠ l.log.newest) :
    l.logWrite b ev = l.logNew b ev := by
  unfold Live.logWrite
  cases hlast : l.log.ents.getLast? with
  | none => rfl
  | some e =>
    refine if_neg fun ⟨htakes, hseq⟩ => ?_
    obtain ⟨⟨hev, _⟩, _⟩ : (e.ev = ev ∧ e.rep < 0xFFFFFFFF) ∧ e.sel = false := by simpa [LogEnt.takes] using htakes
    exact (h e hlast).elim (absurd hev) (absurd hseq)

/-- Counting in the entry at the end changes no other. -/
theorem repeatEnt_append {t : List LogEnt} (ht : ∀ a ∈ t, a.lseq ≠ e.lseq) :
    repeatEnt e.lseq (t ++ [e]) = t ++ [{ e with rep := e.rep + 1 }] := by
  have hstay : repeatEnt e.lseq t = t :=
    (List.map_congr_left fun a ha => if_neg (ht a ha)).trans (List.map_id t)
  unfold repeatEnt at hstay ⊢
  rw [List.map_append, hstay]
  simp

/-- An event equal to the newest entry, while that is held, counts there (R417). -/
theorem logWrite_repeat {t : List LogEnt} (hents : l.log.ents = t ++ [e]) (hev : e.ev = ev)
    (hrep : e.rep < 0xFFFFFFFF) (hsel : e.sel = false) (hseq : e.lseq = l.log.newest)
    (ht : ∀ a ∈ t, a.lseq ≠ e.lseq) :
    (l.logWrite b ev).log.ents = t ++ [{ e with rep := e.rep + 1 }] ∧ (l.logWrite b ev).log.next = l.log.next := by
  have hlast : l.log.ents.getLast? = some e := by rw [hents, List.getLast?_concat]
  have htakes : e.takes ev = true := by simp [LogEnt.takes, hev, hrep, hsel]
  simp only [Live.logWrite, hlast, htakes, hseq, and_self, if_true, logFog_log]
  exact ⟨by rw [← hseq, hents, repeatEnt_append ht], trivial⟩

/-- Settles O38: an event counts in the newest entry, becomes a new one, or is dropped. -/
theorem eventsGoToTheLogbookOnly : Obligations.EventsGoToTheLogbookOnly := by
  rintro l b code sev plan status args ev rfl
  refine ⟨⟨_, _, _, (Live.logE_only l b code sev args plan status).1⟩, fun hlive e t hents hev hrep hsel hseq ht => ?_,
    fun hlive hnew => ?_, fun hlive hlen => Live.logE_early hlive hlen ..⟩
  · rw [logE_live hlive]
    exact logWrite_repeat hents hev hrep hsel hseq ht
  · rw [logE_live hlive, logWrite_new hnew]
    exact ⟨fun hroom => logNew_room hroom, fun hfull hw hes => logNew_refused hw hfull hes⟩

end

end Sys2Proof.Proofs
end

section
/-! PROOFS. Unit enables, fleet time, counts, the time exchange and quiet windows (O10 to O16, O18); what fails on odd
states (O19, O37). -/

namespace Sys2Proof.Proofs

open Sys2Proof Sys2Proof.Machine Sys2Proof.Claims

section

/-- A NOP that arrives at MGMT. -/
def mgmtNop : Packet := ⟨.mgmt, 0, 0, false, 0, 0, 0, false, 0, 0, []⟩

/-- A command with its place on port `p`. -/
def nopOn (p : Port) : Busy := ⟨⟨p, 0, 0, false, 0, 0, false, 0⟩, .nop { mgmtNop with port := p }⟩

/-- A READY buoy that runs a command of MGMT, and whose MGMT receive buffer holds a command of the fabric port. -/
def strayBuffer : State :=
  ⟨⟨.buoy, false, true, .gib64⟩, { Live.cold with
    boot := { Live.cold.boot with ready := true },
    cmd := { Live.cold.cmd with busy := [nopOn .mgmt], mgmtBuf := some (nopOn .fab) } }, []⟩

/-- A command leaves one live part. -/
theorem gives_unique {c : Instr} {s : State} {l m : Live} (hl : Gives c s l) (hm : Gives c s m) : l = m := by
  injection hl.symm.trans hm with hstate
  exact congrArg State.live hstate

/-- The NOP that waits takes the receive buffer, and the command that lay there is gone. -/
theorem waiting_nop_strayBuffer :
    exec (.nop mgmtNop) strayBuffer = .next { strayBuffer with live := strayBuffer.live.park (.nop mgmtNop) mgmtNop } ∧
      (strayBuffer.live.park (.nop mgmtNop) mgmtNop).waiting.length = 1 := by
  refine ⟨?_, by decide⟩
  show execNop mgmtNop strayBuffer = _
  exact run_gives (Live.packet_waits _ _ _ rfl (by decide) (by decide) (by decide))

/-- Refutes O19: the statement ranges over states whose MGMT receive buffer holds a command of another port, and there
a packet that begins to wait at MGMT takes the buffer, so that not all who waited still wait. -/
theorem not_requestPacketsWaitAndFailTheirFirstChecks : ¬ Obligations.RequestPacketsWaitAndFailTheirFirstChecks := by
  unfold Obligations.RequestPacketsWaitAndFailTheirFirstChecks
  intro h
  obtain ⟨_, _, hwaits, _, _⟩ := h strayBuffer (.nop mgmtNop) 0x01 mgmtNop rfl
  obtain ⟨l, hl, hperm, _⟩ := hwaits rfl (by decide) (by decide) (by decide)
  obtain ⟨hrun, hone⟩ := waiting_nop_strayBuffer
  have hlive := gives_unique hl hrun
  have htwo : l.waiting.length = 2 := hperm.length_eq
  rw [hlive, hone] at htwo
  exact absurd htwo (by decide)

end

section

/-- The row of SCH_STAT. -/
def schStat : RegRow := ⟨0x848, 0, 0, 1, .none, .none, [F.SCH_STAT_GRID_REJ]⟩

/-- A lantern whose register port is open, and whose register file holds 2 for the one bit of GRID_REJ. -/
def wideBit : State :=
  ⟨⟨.lantern, false, true, .gib64⟩, { Live.cold with
    boot := { Live.cold.boot with held := false, phase := 6 },
    rf := [(F.SCH_STAT_GRID_REJ.key 0, 2)] }, []⟩

/-- The field as it is cleared, in one bit, and as the statement takes it away, at full width. -/
theorem get_writeRow_wideBit :
    ((written wideBit).writeRow wideBit.build schStat 0 0).get wideBit.build F.SCH_STAT_GRID_REJ = 0 ∧
      wideBit.live.get wideBit.build F.SCH_STAT_GRID_REJ = 2 := by
  decide

/-- A write to a register that has no gate and no selector. -/
theorem gives_registerWrite {s : State} {a : BitVec 16} {v : Word} {r : RegRow} {i : Nat} (h : Served s)
    (hf : findReg s.build a.toNat = some (r, i)) (hg : r.gate = .none) (hs : r.sel = .none) (ha : a.toNat ≠ 0x10) :
    Gives (.registerWrite a v) s ((written s).writeRow s.build r i v) := by
  show execRegisterWrite a v s = _
  exact portWrite_gives h hf hg hs ha

/-- Refutes O37: the statement ranges over register files whose values do not fit their fields, and there a write of 0
to a W1C field leaves what its width holds, not what was there. -/
theorem not_registerAccessesFollowTheirCodes : ¬ Obligations.RegisterAccessesFollowTheirCodes := by
  unfold Obligations.RegisterAccessesFollowTheirCodes
  rintro ⟨_, _, _, _, _, _, _, hwrite⟩
  have hfind : findReg wideBit.build (0x848 : BitVec 16).toNat = some (schStat, 0) := by decide +kernel
  have hserved : Served wideBit := by decide
  have hopen := Live.openReg_plain (l := wideBit.live) hfind rfl rfl (by decide)
  have hplain : ∀ x ∈ writers1 ++ writers2, x.1 ≠ schStat.off := by decide +kernel
  have hwf : Tab.wf wideBit.live.rf = true := by decide
  obtain ⟨l, hl, _, hflds⟩ := hwrite wideBit 0x848 0 schStat 0 hserved hopen hwf (by decide) hplain
  have hrun := gives_registerWrite (v := 0) hserved hfind rfl rfl (by decide)
  have hlive := gives_unique hl hrun
  have hget := hflds F.SCH_STAT_GRID_REJ (by decide)
  obtain ⟨hafter, hbefore⟩ := get_writeRow_wideBit
  rw [hlive, hafter, hbefore] at hget
  exact absurd hget (by decide)

end

section

variable {l : Live} {b : Build} {s : State}

/-! ### Single bits of a field -/

theorem div_two_pow_succ_sub {n i : Nat} (h : n.testBit i = true) : (n - 2 ^ i) / 2 ^ (i + 1) = n / 2 ^ (i + 1) := by
  have hodd : n / 2 ^ i % 2 = 1 := by simpa [Nat.testBit_eq_decide_div_mod_eq] using h
  have hdiv : (n - 2 ^ i) / 2 ^ i = n / 2 ^ i - 1 := by
    simpa using Nat.sub_mul_div n (2 ^ i) 1
  rw [Nat.pow_succ, ← Nat.div_div_eq_div_mul, ← Nat.div_div_eq_div_mul, hdiv]
  generalize n / 2 ^ i = q at hodd ⊢
  omega

/-- Taking away a set bit leaves the others. -/
theorem testBit_sub_two_pow {n i j : Nat} (h : n.testBit i = true) (hj : j ≠ i) :
    (n - 2 ^ i).testBit j = n.testBit j := by
  obtain hlt | hgt := Nat.lt_or_gt_of_ne hj
  · have hle : 2 ^ i ≤ n := Nat.ge_two_pow_of_testBit h
    rw [← Nat.testBit_two_pow_add_gt hlt, Nat.add_sub_cancel' hle]
  · obtain ⟨k, rfl⟩ := Nat.exists_eq_add_of_lt hgt
    have hk (m : Nat) : m.testBit (i + k + 1) = (m / 2 ^ (i + 1)).testBit k := by
      rw [Nat.testBit_div_two_pow]
      congr 1
      omega
    rw [hk, hk, div_two_pow_succ_sub h]

theorem testBit_sub_two_pow_same {n i : Nat} (h : n.testBit i = true) : (n - 2 ^ i).testBit i = false := by
  have hle : 2 ^ i ≤ n := Nat.ge_two_pow_of_testBit h
  have hadd := Nat.testBit_two_pow_add_eq (n - 2 ^ i) i
  rw [Nat.add_sub_cancel' hle, h] at hadd
  simpa using hadd.symm

theorem flag_put_same (hw : Tab.wf l.rf = true) {f : Fld} {e v i : Nat} (hi : i < f.w) :
    (l.put b f v e).flag b f e i = v.testBit i := by
  rw [Live.flag, Live.get_put_same hw, Nat.testBit_mod_two_pow, decide_eq_true hi, Bool.true_and]

theorem flag_setBit (hw : Tab.wf l.rf = true) {f : Fld} {e i j : Nat} (hj : j < f.w) :
    (l.setBit b f e i).flag b f e j = (decide (j = i) || l.flag b f e j) := by
  unfold Live.setBit
  rw [flag_put_same hw hj, Nat.testBit_or, Nat.testBit_two_pow, Live.flag, Bool.or_comm]
  simp only [eq_comm]

theorem flag_clrBit (hw : Tab.wf l.rf = true) {f : Fld} {e i j : Nat} (hj : j < f.w) :
    (l.clrBit b f e i).flag b f e j = (!decide (j = i) && l.flag b f e j) := by
  unfold Live.clrBit
  rw [flag_put_same hw hj, Live.flag]
  by_cases hset : (l.get b f e).testBit i = true
  · rw [if_pos hset]
    by_cases hji : j = i
    · rw [hji, testBit_sub_two_pow_same hset]
      simp
    · rw [testBit_sub_two_pow hset hji]
      simp [hji]
  · rw [if_neg hset, Nat.sub_zero]
    by_cases hji : j = i
    · simp [hji, hset]
    · simp [hji]

theorem get_setBit_ne (hw : Tab.wf l.rf = true) {f g : Fld} {e i j : Nat} (hk : f.key e ≠ g.key i) :
    (l.setBit b f e j).get b g i = l.get b g i :=
  Live.get_put_ne hw hk _

theorem get_clrBit_ne (hw : Tab.wf l.rf = true) {f g : Fld} {e i j : Nat} (hk : f.key e ≠ g.key i) :
    (l.clrBit b f e j).get b g i = l.get b g i :=
  Live.get_put_ne hw hk _

/-! ### The write of UNIT_EN_CEL -/

theorem endGated_of_no_plans (h : l.plans = []) (reg : Nat) (f : Fld) (i : Nat) : l.endGated b reg f i = l := by
  rw [Live.endGated, h, List.foldl_nil]

/-- What bit `i` of a write of `v` to UNIT_EN_CEL asks for. -/
def celWant (l : Live) (v : Word) (i : Nat) : Bool := v.toNat.testBit i && l.boot.st.celPresent.toNat.testBit i

/-- The live part after bit `i` of a write of `v` to UNIT_EN_CEL. -/
def celBit (b : Build) (v : Word) (l : Live) (i : Nat) : Live :=
  if celWant l v i = l.flag b F.UNIT_EN_CEL_CEL 0 i then l
  else if celWant l v i then l.setBit b F.UNIT_EN_CEL_CEL 0 i
  else l.clrBit b F.UNIT_EN_CEL_CEL 0 i

/-- `m` is `l` with the bits below `k` of UNIT_EN_CEL as a write of `v` asks for. -/
structure CelUpTo (b : Build) (v : Word) (l m : Live) (k : Nat) : Prop where
  frame : m = { l with rf := m.rf }
  wf : Tab.wf m.rf = true
  bits : ∀ i, i < 12 → m.flag b F.UNIT_EN_CEL_CEL 0 i =
    if i < k then celWant l v i else l.flag b F.UNIT_EN_CEL_CEL 0 i
  others : ∀ (f : Fld) (e : Nat), f.key e ≠ F.UNIT_EN_CEL_CEL.key 0 → m.get b f e = l.get b f e

/-- One bit follows from the ones below. -/
theorem CelUpTo.next {v : Word} {m n : Live} {k : Nat} (h : CelUpTo b v l m k) (hframe : n = { m with rf := n.rf })
    (hwf : Tab.wf n.rf = true)
    (hk : n.flag b F.UNIT_EN_CEL_CEL 0 k = celWant l v k)
    (hne : ∀ i, i < 12 → i ≠ k → n.flag b F.UNIT_EN_CEL_CEL 0 i = m.flag b F.UNIT_EN_CEL_CEL 0 i)
    (hothers : ∀ (f : Fld) (e : Nat), f.key e ≠ F.UNIT_EN_CEL_CEL.key 0 → n.get b f e = m.get b f e) :
    CelUpTo b v l n (k + 1) where
  frame := by rw [hframe, h.frame]
  wf := hwf
  bits := fun i hi => by
    by_cases hik : i = k
    · rw [hik, hk, if_pos (Nat.lt_succ_self k)]
    · have hlt : i < k + 1 ↔ i < k := by omega
      rw [hne i hi hik, h.bits i hi]
      simp only [hlt]
  others := fun f e hf => (hothers f e hf).trans (h.others f e hf)

theorem celBit_upTo {v : Word} {m : Live} {k : Nat} (hk : k < 12) (h : CelUpTo b v l m k) :
    CelUpTo b v l (celBit b v m k) (k + 1) := by
  have hwant : celWant m v k = celWant l v k := by rw [h.frame]; rfl
  unfold celBit
  rw [hwant]
  split
  next hsame => exact h.next rfl h.wf hsame.symm (fun _ _ _ => rfl) fun _ _ _ => rfl
  next =>
    split
    next hset =>
      exact h.next rfl (Live.put_wf h.wf _ _ 0) ((flag_setBit h.wf hk).trans (by simp [hset]))
        (fun i hi hik => (flag_setBit h.wf hi).trans (by simp [hik])) fun f e hf => get_setBit_ne h.wf hf.symm
    next hclr =>
      exact h.next rfl (Live.put_wf h.wf _ _ 0) ((flag_clrBit h.wf hk).trans (by simp [hclr]))
        (fun i hi hik => (flag_clrBit h.wf hi).trans (by simp [hik])) fun f e hf => get_clrBit_ne h.wf hf.symm

theorem celBits_upTo (hw : Tab.wf l.rf = true) (v : Word) :
    ∀ k, k ≤ 12 → CelUpTo b v l ((List.range k).foldl (celBit b v) l) k
  | 0, _ => ⟨rfl, hw, fun _ _ => rfl, fun _ _ _ => rfl⟩
  | k + 1, hk => by
    rw [List.range_succ, List.foldl_append]
    exact celBit_upTo hk (celBits_upTo hw v k (Nat.le_of_succ_le hk))

theorem unitOff_cel (h : l.plans = []) (i : Nat) :
    l.unitOff b 2 F.UNIT_EN_CEL_CEL i = l.clrBit b F.UNIT_EN_CEL_CEL 0 i :=
  endGated_of_no_plans (l := l.clrBit b F.UNIT_EN_CEL_CEL 0 i) h 2 F.UNIT_EN_CEL_CEL i

/-- Without plans, a write of UNIT_EN_CEL sets and clears its bits one by one. -/
theorem enBits_cel (v : Word) (is : List Nat) : ∀ l : Live, l.plans = [] →
    is.foldl (fun l i =>
      let want := v.toNat.testBit (F.UNIT_EN_CEL_CEL.lo + i) && l.enSettable b F.UNIT_EN_CEL_CEL i
      if want = l.flag b F.UNIT_EN_CEL_CEL 0 i then l
      else if want then l.unitOn b F.UNIT_EN_CEL_CEL i
      else l.unitOff b 2 F.UNIT_EN_CEL_CEL i) l = is.foldl (celBit b v) l := by
  induction is with
  | nil => exact fun _ _ => rfl
  | cons i is ih =>
    intro l hplans
    have hstep : (celBit b v l i).plans = [] := by
      unfold celBit
      split
      · exact hplans
      · split <;> exact hplans
    have hlo : F.UNIT_EN_CEL_CEL.lo + i = i := Nat.zero_add i
    rw [List.foldl_cons, List.foldl_cons, ← ih _ hstep, hlo, unitOff_cel hplans]
    rfl

theorem writeEn_cel (h : l.plans = []) (v : Word) :
    l.writeEn b 2 v = (List.range 12).foldl (celBit b v) l :=
  enBits_cel v _ l h

theorem findReg_unitEnCel (h : b.form = .lantern) :
    findReg b 0x28 = some (⟨0x28, 0, 0, 1, .none, .none, [F.UNIT_EN_CEL_CEL]⟩, 0) := by
  rw [findReg_form, h]
  decide +kernel

theorem gives_handshakeTimeout {u : HsUse} (hu : u = .regRead ∨ u = .regWrite) (h : s.live.regOpen = true) :
    Gives (.handshakeTimeout u) s ((s.live.bump s.build F.CLK_STAT_XTO_CNT).emit (.regRsp 0 false)) := by
  show execHandshakeTimeout u s = _
  exact run_gives (by rw [if_pos hu, if_pos h]; rfl)

/-- Settles O10: the bits of UNIT_EN_CEL are set and cleared in ascending order. -/
theorem enablesReadBackAndTimeoutsAnswerZero : Obligations.EnablesReadBackAndTimeoutsAnswerZero := by
  refine ⟨fun s h => ⟨gives_handshakeTimeout (.inl rfl) h, gives_handshakeTimeout (.inr rfl) h⟩,
    fun s v h hf hw hplans _ => ?_⟩
  have hg : Gives (.unitEnWrite .unitEnCel v) s ((written s).writeEn s.build 2 v) := by
    show execUnitEnWrite .unitEnCel v s = _
    exact portWrite_gives h (findReg_unitEnCel hf) rfl rfl (by decide)
  obtain ⟨hframe, _, hbits, hothers⟩ := celBits_upTo (b := s.build) (l := written s) hw v 12 (Nat.le_refl 12)
  refine yields_of_gives hg ?_
  rw [writeEn_cel (l := written s) hplans]
  exact ⟨fun i hi => (hbits i hi).trans (if_pos hi), hothers, hframe⟩

end

section

variable {l : Live} {b : Build} {s : State} {v : Word}

/-! ### The counter of fleet time -/

@[simp] theorem gridFollow_time (l : Live) (b : Build) : (l.gridFollow b).time = l.time := by
  unfold Live.gridFollow
  split <;> rfl

theorem gridFollow_frame (l : Live) (b : Build) : l.gridFollow b = { l with rf := (l.gridFollow b).rf } := by
  unfold Live.gridFollow
  split <;> rfl

/-- Without a grid nothing follows fleet time. -/
theorem gridFollow_off (h : l.get b F.SCH_CTL_GRID_EN = 0) : l.gridFollow b = l := by
  refine if_neg ?_
  rw [Live.flag, h]
  decide

theorem ofInt_ftFull (l : Live) (d : Int) :
    BitVec.ofInt 60 (l.ftFull + d) = l.time.acc + BitVec.ofInt 60 d := by
  have hwraps : BitVec.ofInt 60 ((l.time.wraps : Int) * (2 ^ 60 : Nat)) = 0#60 := by
    apply BitVec.eq_of_toInt_eq
    rw [BitVec.toInt_ofInt]
    simp [Int.bmod_def]
  rw [Live.ftFull, BitVec.ofInt_add, BitVec.ofInt_add, hwraps, BitVec.zero_add, BitVec.ofInt_natCast,
    BitVec.ofNat_toNat, BitVec.setWidth_eq]

theorem accumulate_acc (l : Live) (b : Build) (d : Int) :
    (l.accumulate b d).time.acc = l.time.acc + BitVec.ofInt 60 d := by
  simp only [Live.accumulate, gridFollow_time]
  exact ofInt_ftFull l d

theorem accumulate_frame (l : Live) (b : Build) (d : Int) :
    l.accumulate b d = { l with
      rf := (l.accumulate b d).rf
      time := { l.time with
        acc := (l.accumulate b d).time.acc, wraps := (l.accumulate b d).time.wraps,
        msAcc := (l.accumulate b d).time.msAcc } } := by
  unfold Live.accumulate
  dsimp only
  rw [gridFollow_time]
  exact gridFollow_frame _ b

theorem accumulate_rf (h : l.get b F.SCH_CTL_GRID_EN = 0) (d : Int) : (l.accumulate b d).rf = l.rf := by
  unfold Live.accumulate
  rw [gridFollow_off]
  · rfl
  · exact h

/-- The part of a slew lies between 0 and what is left, and within the bound. -/
theorem slewPart_within (l : Live) (b : Build) :
    (l.time.slew - l.slewPart b).natAbs ≤ l.time.slew.natAbs ∧
      (l.slewPart b).natAbs ≤ l.get b F.TIME_INC_INC * 200 / 1000000 := by
  unfold Live.slewPart slewBound
  dsimp only
  generalize l.get b F.TIME_INC_INC * 200 / 1000000 = lim
  generalize Config.slewPart l.free = x
  generalize l.time.slew = w
  split_ifs <;> omega

theorem timeEdge_slew (l : Live) (b : Build) : (l.timeEdge b).time.slew = l.time.slew - l.slewPart b := by
  unfold Live.timeEdge
  dsimp only
  rw [accumulate_frame]

theorem timeEdge_acc (l : Live) (b : Build) :
    (l.timeEdge b).time.acc = l.time.acc + BitVec.ofInt 60 (l.get b F.TIME_INC_INC + l.slewPart b) :=
  accumulate_acc _ b _

/-! ### The commands -/

theorem gives_slewAbsorbed (ht : s.live.timeOn = true) (h0 : s.live.time.slew ≠ 0)
    (hle : s.live.time.slew.natAbs ≤ s.live.get s.build F.TIME_INC_INC * 200 / 1000000) :
    Gives .slewAbsorbed s (({ s.live with time := { s.live.time with slew := 0 } } : Live).accumulate s.build
      (s.live.get s.build F.TIME_INC_INC + s.live.time.slew)) := by
  show execSlewAbsorbed s = _
  refine run_gives (if_neg ?_)
  rintro (hoff | hzero | hlt)
  · rw [ht] at hoff
    exact absurd hoff (by decide)
  · exact h0 hzero
  · unfold slewBound at hlt
    omega

theorem gives_slewAbsorbed_idle
    (h : s.live.time.slew = 0 ∨ s.live.get s.build F.TIME_INC_INC * 200 / 1000000 < s.live.time.slew.natAbs) :
    Gives .slewAbsorbed s s.live := by
  show execSlewAbsorbed s = _
  refine run_gives (if_pos (.inr (h.imp_right fun hlt => ?_)))
  exact Int.ofNat_lt.mpr hlt

theorem findReg_timeInc (b : Build) :
    findReg b 0x408 = some (⟨0x408, 0, 1, 1, .none, .none, [F.TIME_INC_INC]⟩, 0) := by
  rw [findReg_form]
  cases b.form <;> decide +kernel

theorem findReg_timeCfg (b : Build) :
    findReg b 0x40C = some (⟨0x40C, 0, 1, 1, .none, .none,
      [F.TIME_CFG_STEP_THR, F.TIME_CFG_XCHG_INT, F.TIME_CFG_FREERUN]⟩, 0) := by
  rw [findReg_form]
  cases b.form <;> decide +kernel

theorem gives_timeIncWrite (h : Served s) : Gives (.timeIncWrite v) s ((written s).writeTimeInc s.build v) := by
  show execTimeIncWrite v s = _
  exact portWrite_gives h (findReg_timeInc s.build) rfl rfl (by decide)

theorem gives_timeFreerunWrite (h : Served s) :
    Gives (.timeFreerunWrite v) s ((written s).writeTimeCfg s.build v) := by
  show execTimeFreerunWrite v s = _
  exact portWrite_gives h (findReg_timeCfg s.build) rfl rfl (by decide)

theorem writeTimeInc_free (h : l.time.state = .free) : l.writeTimeInc b v = l.put b F.TIME_INC_INC v.toNat :=
  if_pos h

theorem writeTimeInc_other (h : l.time.state ≠ .free) : l.writeTimeInc b v = l :=
  if_neg h

/-- The fields of a lantern's TIME_CFG. -/
def timeCfg : List Fld := [F.TIME_CFG_STEP_THR, F.TIME_CFG_XCHG_INT, F.TIME_CFG_FREERUN]

/-- The fields of TIME_CFG written. -/
def timeCfgWritten (l : Live) (b : Build) (v : Word) : Live :=
  ((l.put b F.TIME_CFG_STEP_THR (v.toNat % 65536)).put b F.TIME_CFG_XCHG_INT (v.toNat >>> 16)).put b
    F.TIME_CFG_FREERUN (v.toNat >>> 24)

theorem get_timeCfgWritten (hw : Tab.wf l.rf = true) :
    (timeCfgWritten l b v).get b F.TIME_CFG_FREERUN = b2n (v.getLsbD 24) ∧
      (timeCfgWritten l b v).get b F.TIME_CFG_STEP_THR = v.toNat % 65536 ∧
      (timeCfgWritten l b v).get b F.TIME_CFG_XCHG_INT = v.toNat / 65536 % 64 := by
  have hw1 := Live.put_wf (b := b) hw F.TIME_CFG_STEP_THR (v.toNat % 65536) 0
  have hw2 := Live.put_wf (b := b) hw1 F.TIME_CFG_XCHG_INT (v.toNat >>> 16) 0
  unfold timeCfgWritten
  refine ⟨?_, ?_, ?_⟩
  · rw [Live.get_put_same hw2, Nat.shiftRight_eq_div_pow]
    exact div_pow_mod_two_eq_b2n v 24
  · rw [Live.get_put_ne hw2 (by decide), Live.get_put_ne hw1 (by decide), Live.get_put_same hw]
    exact Nat.mod_mod ..
  · rw [Live.get_put_ne hw2 (by decide), Live.get_put_same hw1, Nat.shiftRight_eq_div_pow]
    rfl

/-- A block becomes LOCKED: time's state, and the event of a change. -/
theorem enterLocked_cases (l : Live) (b : Build) : l.enterLocked b = l ∧ l.time.state = .locked ∨
    l.enterLocked b = { l.logE b 0x0305 1 [l.time.state.code] with
      time := { l.time with
        state := .locked, everLocked := true, msAcc := if l.time.everLocked then l.time.msAcc else 0 } } := by
  unfold Live.enterLocked
  split
  next h => exact .inl ⟨rfl, h⟩
  next => exact .inr (by simp)

/-- What FREERUN leaves of the live part `l`: LOCKED, with nothing left to absorb. -/
structure Freerun (b : Build) (l m : Live) : Prop where
  state : m.time.state = .locked
  slew : m.time.slew = 0
  acc : m.time.acc = l.time.acc
  gets : ∀ f ∈ timeCfg, m.get b f = l.get b f
  frame : m = { l with rf := m.rf, time := m.time, log := m.log, boot := { l.boot with early := m.boot.early } }

theorem enterLocked_freerun (hw : Tab.wf l.rf = true) (h0 : l.time.slew = 0) : Freerun b l (l.enterLocked b) := by
  obtain ⟨heq, hstate⟩ | heq := enterLocked_cases l b
  · rw [heq]
    exact ⟨hstate, h0, rfl, fun _ _ => rfl, rfl⟩
  · obtain ⟨hframe, hget⟩ := Live.logE_only l b 0x0305 1 [l.time.state.code] 0 0
    have hplace : ∀ f ∈ timeCfg, f.lo < 32 ∧ ¬f.isLog := by decide
    rw [heq]
    refine ⟨rfl, h0, rfl, fun f hf => ?_, ?_⟩
    · obtain ⟨hlo, hlog⟩ := hplace f hf
      exact (hget hw).2 f 0 hlo (by decide) hlog
    · rw [hframe]

/-- What is left to absorb is dropped. -/
def slewless (l : Live) : Live := { l with time := { l.time with slew := 0 } }

theorem freerun_of_get (hf : b.form = .lantern) (h : l.get b F.TIME_CFG_FREERUN = 1) : l.freerun b = true := by
  simp [Live.freerun, Build.lantern, hf, Live.flag, h]

/-- A write of TIME_CFG with FREERUN, at a READY lantern. -/
theorem writeTimeCfg_freerun (hf : b.form = .lantern) (hr : l.boot.ready = true) (hv : v.getLsbD 24 = true)
    (hw : Tab.wf l.rf = true) :
    l.writeTimeCfg b v = (slewless (timeCfgWritten l b v)).enterLocked b := by
  have hbuoy : b.buoy = false := by simp [Build.buoy, hf]
  obtain ⟨hfree, _, _⟩ := get_timeCfgWritten (b := b) (v := v) hw
  rw [hv] at hfree
  have hready : (timeCfgWritten l b v).boot.ready = true := hr
  have happly : (timeCfgWritten l b v).applyFreerun b = (slewless (timeCfgWritten l b v)).enterLocked b :=
    if_pos ⟨freerun_of_get hf hfree, hready⟩
  have hwf : Tab.wf (slewless (timeCfgWritten l b v)).rf = true :=
    Live.put_wf (Live.put_wf (Live.put_wf hw _ _ 0) _ _ 0) _ _ 0
  have hstill : ((slewless (timeCfgWritten l b v)).enterLocked b).freerun b = true :=
    freerun_of_get hf (((enterLocked_freerun hwf rfl).gets _ (by decide)).trans hfree)
  have htin : ((slewless (timeCfgWritten l b v)).enterLocked b).tinHoldover b =
      (slewless (timeCfgWritten l b v)).enterLocked b := by
    refine if_neg ?_
    simp [hstill]
  unfold Live.writeTimeCfg
  rw [hbuoy, if_neg Bool.false_ne_true]
  exact (congrArg (Live.tinHoldover · b) happly).trans htin

theorem gives_tinValidLow (ht : s.live.timeOn = true) (hf : s.build.form = .lantern)
    (hl : s.live.time.state = .locked) (hfree : s.live.freerun s.build = false) :
    Gives .tinValidLow s ({ s.live with time := { s.live.time with
      tinLow := true, state := .holdover, good := 0 } }.logE s.build 0x0301 2 [1]) := by
  have hlantern : s.build.lantern = true := by simp [Build.lantern, hf]
  show execTinValidLow s = _
  refine run_gives ?_
  dsimp only
  rw [hlantern]
  exact (if_pos ht).trans (if_pos ⟨rfl, congrArg (!·) hfree, hl⟩)

/-- Settles O11: the counter takes the increment and what it takes of a slew; the rest is read off the model. -/
theorem timeIncFreerunAndHoldover : Obligations.TimeIncFreerunAndHoldover := by
  refine ⟨fun s v h hstate => ?_, fun s v h hstate => ?_, fun s v h hf hr hv hw => ?_,
    fun s => gives_tinValidLow, fun s ht hl hfree => ?_, ?_, ?_, ?_, fun s ht hever hms => ?_⟩
  · exact writeTimeInc_free (l := written s) hstate ▸ gives_timeIncWrite h
  · exact writeTimeInc_other (l := written s) hstate ▸ gives_timeIncWrite h
  · have hwf : Tab.wf (slewless (timeCfgWritten (written s) s.build v)).rf = true :=
      Live.put_wf (Live.put_wf (Live.put_wf hw _ _ 0) _ _ 0) _ _ 0
    obtain ⟨hstate, hslew, hacc, hgets, hframe⟩ := enterLocked_freerun (b := s.build) hwf rfl
    obtain ⟨hfree, hthr, hint⟩ := get_timeCfgWritten (l := written s) (b := s.build) (v := v) hw
    rw [hv] at hfree
    refine yields_of_gives (gives_timeFreerunWrite h) ?_
    rw [writeTimeCfg_freerun (l := written s) hf hr hv hw]
    exact ⟨hstate, hslew, hacc, (hgets _ (by decide)).trans hfree, (hgets _ (by decide)).trans hthr,
      (hgets _ (by decide)).trans hint, hframe⟩
  · show execHoldoverTimeout s = _
    exact run_gives (if_pos ⟨ht, by simpa using hfree, hl⟩)
  · rintro s _ ht rfl h0 hle
    refine yields_of_gives (gives_slewAbsorbed ht h0 hle) ⟨?_, accumulate_acc _ _ _,
      fun hgrid => accumulate_rf (l := slewless s.live) hgrid _, ?_⟩
    · rw [accumulate_frame]
    · exact accumulate_frame (slewless s.live) s.build _
  · rintro s _ rfl h
    exact gives_slewAbsorbed_idle h
  · rintro l b _ rfl
    obtain ⟨hleft, hpart⟩ := slewPart_within l b
    rw [timeEdge_slew, timeEdge_acc, Int.sub_sub_self]
    exact ⟨hleft, hpart, rfl⟩
  · show execFtMsTick s = _
    exact run_gives (if_pos ⟨ht, hever, hms⟩)

end

section

variable {l m n : Live} {b : Build} {s : State}

/-- A relation that each step of a fold keeps to holds between its ends. -/
theorem foldl_rel {α : Type} {R : Live → Live → Prop} (hrefl : ∀ l, R l l)
    (htrans : ∀ {l m n}, R l m → R m n → R l n) (f : Live → α → Live) (h : ∀ l a, R l (f l a)) (as : List α) :
    ∀ l, R l (as.foldl f l) := by
  induction as with
  | nil => exact hrefl
  | cons a as ih => exact fun l => htrans (h l a) (ih (f l a))

/-! ### Steps of fleet time -/

/-- `m` differs from `l` in what follows a step of fleet time: registers, the windows, the counts, the logbook, the
early events and the trim window. -/
def FollowFrame (l m : Live) : Prop :=
  m = { l with
    rf := m.rf, clk := { l.clk with spoilt := m.clk.spoilt }, qws := m.qws, log := m.log,
    boot := { l.boot with early := m.boot.early },
    time := { l.time with cmps := m.time.cmps, fired := m.time.fired } }

theorem FollowFrame.refl (l : Live) : FollowFrame l l := rfl

theorem FollowFrame.trans (h : FollowFrame l m) (k : FollowFrame m n) : FollowFrame l n := by
  unfold FollowFrame at h k ⊢
  rw [k, h]

theorem followFrame_logOnly (h : Live.LogOnly b l m) : FollowFrame l m := by
  unfold FollowFrame
  rw [h.1]

theorem followFrame_qwStep (l : Live) (b : Build) (k : Nat) : FollowFrame l (l.qwStep b k) := by
  unfold Live.qwStep
  dsimp only
  split <;> rfl

theorem followFrame_gridFollow (l : Live) (b : Build) : FollowFrame l (l.gridFollow b) := by
  unfold Live.gridFollow
  split <;> rfl

theorem followFrame_late (l : Live) (b : Build) (c : Cmp) : FollowFrame l ((l.fire c).late b c.count) :=
  FollowFrame.trans (m := (l.fire c).bump b F.TIME_STAT_LATE) rfl (followFrame_logOnly (Live.logE_only _ b _ _ _ _ _))

theorem followFrame_fireLate (l : Live) (b : Build) (old : Word) : FollowFrame l (l.fireLate b old) := by
  unfold Live.fireLate
  dsimp only
  refine FollowFrame.trans ?_ (foldl_rel FollowFrame.refl FollowFrame.trans _ (followFrame_late · b ·) _ _)
  rfl

theorem followFrame_spoilWindow (l : Live) (b : Build) : FollowFrame l (l.spoilWindow b) := by
  rw [spoilWindow_eq]
  rfl

/-- The live part with fleet time set and any slew ended. -/
def loaded (l : Live) (e : Int) : Live := slewless (l.setFull (l.ftFull + e * nsUnit))

theorem ftLoad_frame (l : Live) (b : Build) (e : Int) : FollowFrame (loaded l e) (l.ftLoad b e) := by
  unfold Live.ftLoad
  dsimp only
  split
  · exact (((followFrame_spoilWindow _ b).trans (foldl_rel FollowFrame.refl FollowFrame.trans _
      (followFrame_qwStep · b ·) _ _)).trans (followFrame_gridFollow _ b)).trans (followFrame_fireLate _ b _)
  · exact followFrame_spoilWindow _ b

/-- The count of fleet time after a step. -/
theorem ft_loaded (l : Live) (e : Int) : (loaded l e).ft = l.ft + BitVec.ofInt 32 e := by
  have hacc : (loaded l e).time.acc = l.time.acc + BitVec.ofInt 60 (e * nsUnit) := ofInt_ftFull l _
  unfold Live.ft nsUnit at *
  rw [hacc]
  apply BitVec.eq_of_toNat_eq
  simp only [BitVec.extractLsb'_toNat, BitVec.toNat_add, BitVec.toNat_ofInt, Nat.shiftRight_eq_div_pow]
  generalize l.time.acc.toNat = a at *
  omega

theorem qwSteps_frame (b : Build) (ks : List Nat) (l : Live) :
    ks.foldl (fun l k => l.qwStep b k) l =
      { l with qws := (ks.foldl (fun l k => l.qwStep b k) l).qws } := by
  refine foldl_rel (R := fun l m => m = { l with qws := m.qws }) (fun _ => rfl) (fun h k => ?_) _ (fun l k => ?_) ks l
  · rw [k, h]
  · unfold Live.qwStep
    dsimp only
    split <;> rfl

/-- With no count armed, none fires. -/
theorem fireLate_of_no_counts (h : l.time.cmps = []) (old : Word) : l.fireLate b old = l := by
  unfold Live.fireLate
  rw [h]
  dsimp only
  rw [List.filter_nil, List.filterMap_nil]
  have hsame : ({ l with time := { l.time with cmps := [] } } : Live) = l := by rw [← h]
  exact hsame

/-- Without a grid and without armed counts a load changes no register and logs nothing. -/
theorem ftLoad_quiet (hgrid : l.get b F.SCH_CTL_GRID_EN = 0) (hcmps : l.time.cmps = []) (e : Int) :
    (l.ftLoad b e).rf = l.rf ∧ (l.ftLoad b e).log = l.log := by
  unfold Live.ftLoad
  dsimp only
  split
  · rw [qwSteps_frame, spoilWindow_eq, gridFollow_off, fireLate_of_no_counts]
    · exact ⟨rfl, rfl⟩
    · exact hcmps
    · exact hgrid
  · rw [spoilWindow_eq]
    exact ⟨rfl, rfl⟩

/-- The live part that has stepped once. -/
def hasStepped (l : Live) : Live := { l with time := { l.time with stepped := true } }

theorem loaded_follow (h : FollowFrame l m) (e : Int) : FollowFrame (loaded l e) (loaded m e) := by
  unfold FollowFrame at h ⊢
  rw [h]
  rfl

theorem ftStep_first (h : l.time.stepped = false) (e : Int) : l.ftStep b e = (hasStepped l).ftLoad b e := by
  unfold Live.ftStep
  dsimp only
  rw [h]
  rfl

theorem ftStep_frame (l : Live) (b : Build) (e : Int) : FollowFrame (loaded (hasStepped l) e) (l.ftStep b e) := by
  unfold Live.ftStep
  dsimp only
  refine FollowFrame.trans (loaded_follow ?_ e) (ftLoad_frame _ b e)
  split
  · rfl
  · exact FollowFrame.trans (m := (hasStepped l).bump b F.TIME_STAT_STEPS) rfl
      (followFrame_logOnly (Live.logE_only _ b _ _ _ _ _))

/-- What a step leaves of fleet time. -/
theorem ftStep_time (l : Live) (b : Build) (e : Int) :
    (l.ftStep b e).time.slew = 0 ∧ (l.ftStep b e).time.stepped = true ∧ (l.ftStep b e).time.ofs = l.time.ofs ∧
      (l.ftStep b e).time.good = l.time.good ∧ (l.ftStep b e).ft = l.ft + BitVec.ofInt 32 e ∧
      (l.ftStep b e).plans = l.plans := by
  have hframe : FollowFrame (loaded (hasStepped l) e) (l.ftStep b e) := ftStep_frame l b e
  have hft : (loaded (hasStepped l) e).ft = l.ft + BitVec.ofInt 32 e := ft_loaded (hasStepped l) e
  unfold FollowFrame at hframe
  rw [hframe]
  exact ⟨rfl, rfl, rfl, rfl, hft, rfl⟩

/-! ### The phase edge -/

/-- The live part that has seen an edge with phase error `e`. -/
def edgeSeen (l : Live) (e : Int) : Live := { l with time := { l.time with tinLow := false, ofs := e } }

/-- No edge in a row was close. -/
def goodless (l : Live) : Live := { l with time := { l.time with good := 0 } }

/-- The live part after an edge that has been seen with phase error `e`. -/
def edgeTaken (l : Live) (b : Build) (e : Int) : Live :=
  if l.time.state = .free then
    ((goodless l).ftStep b e).setTState .acquire
  else
    let m := l.correct b e
    let good := if e.natAbs ≤ 20 then m.time.good + 1 else 0
    let m : Live := { m with time := { m.time with good := good } }
    if 4 ≤ good then m.enterLocked b else m

theorem gives_phaseEdge {ns : Word} (h : Listens s) :
    Gives (.hallPhaseEdge true ns) s (edgeTaken (edgeSeen s.live (phaseError s ns)) s.build (phaseError s ns)) := by
  obtain ⟨hon, hform, hfree⟩ := h
  show execHallPhaseEdge true ns s = _
  refine run_gives (if_neg ?_)
  rintro (hoff | hbuoy | hlow | hrun)
  · have hno : (!s.live.timeOn) = true := hoff
    rw [hon] at hno
    exact absurd hno (by decide)
  · rw [Build.buoy, hform] at hbuoy
    exact absurd hbuoy (by decide)
  · exact absurd hlow (by decide)
  · exact absurd (hfree.symm.trans hrun) (by decide)

/-- In FREE an edge steps fleet time. -/
theorem edgeTaken_free {e : Int} (h : l.time.state = .free) : edgeTaken l b e =
    ((goodless l).ftStep b e).setTState .acquire :=
  if_pos h

/-- Elsewhere a large error steps fleet time. -/
theorem edgeTaken_step {e : Int} (h : l.time.state ≠ .free) (hthr : l.get b F.TIME_CFG_STEP_THR < e.natAbs)
    (h20 : 20 < e.natAbs) : edgeTaken l b e =
      goodless ((l.ftStep b e).setTState .acquire) := by
  have hcorrect : l.correct b e = (l.ftStep b e).setTState .acquire := if_pos hthr
  unfold edgeTaken
  rw [if_neg h]
  dsimp only
  rw [hcorrect, if_neg (Nat.not_le.mpr h20)]
  exact if_neg (by decide)

/-- The live part with the error `e` as its slew. -/
def slewing (l : Live) (e : Int) (good : Nat) : Live := { l with time := { l.time with slew := e * 2 ^ 28, good := good } }

/-- A small error becomes the slew; the fourth edge in a row close by locks. -/
theorem edgeTaken_slew {e : Int} {good : Nat} (h : l.time.state ≠ .free) (hthr : e.natAbs ≤ l.get b F.TIME_CFG_STEP_THR)
    (hgood : good = if e.natAbs ≤ 20 then l.time.good + 1 else 0) : edgeTaken l b e =
      if 4 ≤ good then (slewing l e good).enterLocked b else slewing l e good := by
  have hcorrect : l.correct b e = { l with time := { l.time with slew := e * nsUnit } } :=
    if_neg (Nat.not_lt.mpr hthr)
  unfold edgeTaken
  rw [if_neg h]
  dsimp only
  rw [hcorrect]
  dsimp only
  rw [← hgood]
  rfl

theorem enterLocked_time (l : Live) (b : Build) : (l.enterLocked b).time.state = .locked ∧
    (l.enterLocked b).time.slew = l.time.slew ∧ (l.enterLocked b).time.acc = l.time.acc := by
  obtain ⟨heq, hstate⟩ | heq := enterLocked_cases l b
  · rw [heq]
    exact ⟨hstate, rfl, rfl⟩
  · rw [heq]
    exact ⟨rfl, rfl, rfl⟩

/-- Settles O12: an edge steps or slews as its error says. -/
theorem phaseEdgeStepsOrSlews : Obligations.PhaseEdgeStepsOrSlews := by
  refine ⟨?_, ?_, ?_, ?_, fun s ns hfree => ?_⟩
  · rintro s ns _ h rfl hstate
    refine yields_of_gives (gives_phaseEdge h) ?_
    rw [edgeTaken_free (l := edgeSeen s.live (phaseError s ns)) hstate]
    obtain ⟨hslew, hstepped, hofs, hgood, hft, hplans⟩ := ftStep_time
      (goodless (edgeSeen s.live (phaseError s ns))) s.build (phaseError s ns)
    refine ⟨rfl, hofs, hslew, hgood, hstepped, hft, hft.trans ?_, fun hfirst hgrid hcmps => ?_, hplans⟩
    · have hsum : s.live.ft + BitVec.ofInt 32 (phaseError s ns) =
          ns + BitVec.ofNat 32 (s.live.get s.build F.TIME_TIN_CORR_CORR) := by
        rw [phaseError, BitVec.ofInt_toInt, BitVec.add_comm, BitVec.sub_add_cancel]
      exact hsum
    · rw [ftStep_first (l := goodless (edgeSeen s.live (phaseError s ns))) hfirst]
      exact ftLoad_quiet (l := hasStepped (goodless (edgeSeen s.live (phaseError s ns)))) hgrid hcmps _
  · rintro s ns _ h rfl hstate hthr h20
    refine yields_of_gives (gives_phaseEdge h) ?_
    rw [edgeTaken_step (l := edgeSeen s.live (phaseError s ns)) hstate hthr h20]
    obtain ⟨hslew, _, hofs, _, hft, hplans⟩ := ftStep_time (edgeSeen s.live (phaseError s ns)) s.build (phaseError s ns)
    exact ⟨rfl, hofs, hslew, rfl, hft, hplans⟩
  · rintro s ns _ h rfl hstate hthr hgood
    refine (edgeTaken_slew (l := edgeSeen s.live (phaseError s ns)) (b := s.build) hstate hthr rfl ▸
      gives_phaseEdge h).trans ?_
    rw [if_neg]
    · rfl
    · split
      · show ¬4 ≤ s.live.time.good + 1
        omega
      · decide
  · rintro s ns _ h rfl hstate hthr h20 hgood
    refine yields_of_gives (gives_phaseEdge h) ?_
    rw [edgeTaken_slew (l := edgeSeen s.live (phaseError s ns)) (b := s.build) hstate hthr rfl, if_pos]
    · exact enterLocked_time (slewing (edgeSeen s.live (phaseError s ns)) _ _) s.build
    · rw [if_pos h20]
      exact Nat.succ_le_succ hgood
  · show execHallPhaseEdge true ns s = _
    exact run_gives (if_pos (.inr (.inr (.inr hfree))))

end

section

variable {l m : Live} {b : Build} {s : State} {c : Cmp}

/-! ### Counts that fire -/

theorem dropAt_eq {α : Type} : ∀ (i : Nat) (as : List α), dropAt i as = as.eraseIdx i
  | _, [] => by simp [dropAt]
  | 0, _ :: _ => rfl
  | i + 1, a :: as => congrArg (a :: ·) (dropAt_eq i as)

theorem updAt_eq {α : Type} {f : α → α} {a : α} : ∀ {i : Nat} {as : List α}, as[i]? = some a →
    updAt f i as = as.set i (f a)
  | 0, x :: as, h => by
    obtain rfl : x = a := by simpa using h
    rfl
  | i + 1, x :: as, h => congrArg (x :: ·) (updAt_eq (by simpa using h))

/-- A count that is reached and whose owner takes it as it comes fires. -/
theorem gives_countReached {i : Nat} (hc : s.live.time.cmps[i]? = some c) (hon : s.live.timeOn = true)
    (hidle : s.live.pwr.st ≠ .idle) (hr : reached s.live.ft c.count = true) (hpulse : ∀ n, c.owner ≠ .pulse n)
    (hwake : c.owner ≠ .wake) : Gives (.countReached i) s (s.live.fireCmp i c) := by
  show execCountReached i s = _
  refine run_gives ?_
  simp only [hc, hon, hr, Bool.not_true, Bool.false_eq_true, or_self, if_false, Live.wakeIdle_running hidle]

theorem reached_iff (ft t : Word) : reached ft t = true ↔ (ft - t).toNat < 0x80000000 := by
  unfold reached
  simp

/-- Settles O15: a count fires by `fireCmp`. -/
theorem armedCountsFireWhenReached : Obligations.ArmedCountsFireWhenReached := by
  refine ⟨reached_iff, fun s i c hc hon hidle hr hper hpulse hwake => ?_,
    fun s i c hc hon hidle hr hper hpulse hwake => ?_, fun s i c hc hr => ?_⟩
  · have hfire : s.live.fireCmp i c = { s.live with time := { s.live.time with
        cmps := s.live.time.cmps.eraseIdx i, fired := s.live.time.fired ++ [⟨c.owner, c.count⟩] } } := by
      simp only [Live.fireCmp, hper, if_true, dropAt_eq, Live.fire]
    exact hfire ▸ gives_countReached hc hon hidle hr hpulse hwake
  · have hfire : s.live.fireCmp i c = { s.live with time := { s.live.time with
        cmps := s.live.time.cmps.set i { c with count := c.count + BitVec.ofNat 32 c.period },
        fired := s.live.time.fired ++ [⟨c.owner, c.count⟩] } } := by
      simp only [Live.fireCmp, hper, if_false, updAt_eq hc, Live.fire]
    exact hfire ▸ gives_countReached hc hon hidle hr hpulse hwake
  · show execCountReached i s = _
    refine run_gives ?_
    simp only [hc, hr, Bool.not_false, or_true, if_true]

/-! ### Steps over counts -/

theorem qwSteps_of_no_windows (h : l.qws = []) (ks : List Nat) : ks.foldl (fun l k => l.qwStep b k) l = l := by
  have hstep (k : Nat) : l.qwStep b k = l := by
    have hqw : l.qw k = qw0 := by
      rw [Live.qw, h]
      rfl
    unfold Live.qwStep
    rw [hqw]
    rfl
  induction ks with
  | nil => rfl
  | cons k ks ih => rw [List.foldl_cons, hstep, ih]

/-- A forward step without windows and grid fires the counts it passes. -/
theorem ftLoad_forward {e : Int} (he : 0 < e) (hqws : l.qws = []) (hgrid : l.get b F.SCH_CTL_GRID_EN = 0) :
    l.ftLoad b e = ((loaded l e).spoilWindow b).fireLate b l.ft := by
  have hspoil := spoilWindow_eq (loaded l e) b
  unfold Live.ftLoad
  dsimp only
  rw [if_pos he, qwSteps_of_no_windows, gridFollow_off]
  · rfl
  · rw [spoilWindow_eq]
    exact hgrid
  · rw [spoilWindow_eq]
    exact hqws

/-- The live part in which count `c` has fired from the only comparator. -/
def firedOnly (l : Live) (c : Cmp) : Live :=
  { l with time := { l.time with cmps := [], fired := l.time.fired ++ [⟨c.owner, c.count⟩] } }

/-- A single count that a step makes reached fires late. -/
theorem fireLate_single {old : Word} (hc : l.time.cmps = [c]) (hper : c.period = 0)
    (hnow : reached l.ft c.count = true) (hold : reached old c.count = false) :
    l.fireLate b old = (firedOnly l c).late b c.count := by
  simp [Live.fireLate, hc, hper, hnow, hold, sortOn, insertOn, Live.fire, firedOnly]

/-- The live part that a step by `e` leaves, before anything follows fleet time. -/
def stepped (l : Live) (b : Build) (e : Int) : Live := (loaded l e).spoilWindow b

theorem stepped_frame (l : Live) (b : Build) (e : Int) : FollowFrame (loaded l e) (stepped l b e) :=
  followFrame_spoilWindow (loaded l e) b

theorem time_stepped (l : Live) (b : Build) (e : Int) : (stepped l b e).time = (loaded l e).time := by
  rw [stepped, spoilWindow_eq]

theorem ft_stepped (l : Live) (b : Build) (e : Nat) : (stepped l b e).ft = l.ft + BitVec.ofNat 32 e := by
  have hft : (stepped l b e).ft = (loaded l e).ft := by rw [Live.ft, Live.ft, time_stepped]
  rw [hft, ft_loaded, BitVec.ofInt_natCast]

theorem cmps_stepped (l : Live) (b : Build) (e : Int) : (stepped l b e).time.cmps = l.time.cmps := by
  rw [time_stepped]
  rfl

/-- What a load that passes one single count leaves. -/
theorem ftLoad_passes {e : Nat} (hc : l.time.cmps = [c]) (he : 0 < e) (hper : c.period = 0) (hqws : l.qws = [])
    (hgrid : l.get b F.SCH_CTL_GRID_EN = 0) (hold : reached l.ft c.count = false)
    (hnow : reached (l.ft + BitVec.ofNat 32 e) c.count = true) :
    l.ftLoad b e = (firedOnly (stepped l b e) c).late b c.count := by
  rw [ftLoad_forward (Int.natCast_pos.mpr he) hqws hgrid]
  have hfire := fireLate_single (l := stepped l b e) (b := b) ((cmps_stepped l b e).trans hc) hper
    ((ft_stepped l b e).symm ▸ hnow) hold
  exact hfire

theorem late_time (l : Live) (b : Build) (w : Word) : (l.late b w).time = l.time := by
  rw [Live.late, Live.logE_time]
  rfl

/-- A late count counts in LATE (R127). -/
theorem get_late (hw : Tab.wf l.rf = true) (w : Word) :
    (l.late b w).get b F.TIME_STAT_LATE = min (l.get b F.TIME_STAT_LATE + 1) 255 := by
  have hbump : (l.bump b F.TIME_STAT_LATE).get b F.TIME_STAT_LATE = min (l.get b F.TIME_STAT_LATE + 1) 255 :=
    (Live.get_put_same hw _ _ _).trans (Nat.mod_eq_of_lt (Nat.lt_succ_of_le (Nat.min_le_right _ 255)))
  rw [Live.late, ← hbump]
  exact ((Live.logE_only (l.bump b F.TIME_STAT_LATE) b 0x0303 2 [w.toNat] 0 0).2 (Live.put_wf hw _ _ 0)).2
    F.TIME_STAT_LATE 0 (by decide) (by decide) (by decide)

/-- It is logged as it would be without the step. -/
theorem log_late (h : LogAlike l m) (w : Word) : (m.late b w).log = (l.logE b 0x0303 2 [w.toNat]).log :=
  logE_log_congr (logAlike_put h b (by decide) (by decide) (by decide) _) b _ _ _

/-- Where the step leads, the single count has fired and its comparator is free. -/
theorem firedOnly_stepped (l : Live) (b : Build) (c : Cmp) (e : Int) :
    (firedOnly (stepped l b e) c).time.fired = l.time.fired ++ [⟨c.owner, c.count⟩] ∧
      (firedOnly (stepped l b e) c).rf = l.rf ∧ (firedOnly (stepped l b e) c).log = l.log ∧
      (firedOnly (stepped l b e) c).boot = l.boot ∧ (firedOnly (stepped l b e) c).ft = (stepped l b e).ft := by
  rw [firedOnly, stepped, spoilWindow_eq]
  exact ⟨rfl, rfl, rfl, rfl, rfl⟩

/-- A step backward only sets fleet time and spoils the trim window. -/
theorem ftLoad_backward {e : Int} (h : e ≤ 0) : l.ftLoad b e = stepped l b e :=
  if_neg (by omega)

theorem stepped_eq (l : Live) (b : Build) (e : Int) : stepped l b e = { l with
    time := { l.time with acc := (stepped l b e).time.acc, wraps := (stepped l b e).time.wraps, slew := 0 },
    clk := { l.clk with spoilt := match l.trimWindow b with
      | some x => some x
      | none => l.clk.spoilt } } := by
  have htrim : (loaded l e).trimWindow b = l.trimWindow b := rfl
  rw [time_stepped, stepped, Live.spoilWindow, htrim]
  cases l.trimWindow b <;> rfl

/-- Settles O16: a forward step fires the count it passes, and a backward one only spoils the trim window. -/
theorem forwardStepFiresPassedCountsLate : Obligations.ForwardStepFiresPassedCountsLate := by
  refine ⟨fun l b c e hc he _ hper hqws hgrid hold hnow hw => ?_, fun l b e he => ?_⟩
  · obtain ⟨hfired, hrf, hlog, hboot, hft⟩ := firedOnly_stepped l b c e
    have hget : (firedOnly (stepped l b e) c).get b F.TIME_STAT_LATE = l.get b F.TIME_STAT_LATE :=
      Live.get_congr hrf (congrArg Boot.st hboot) _ _ _
    have halike : LogAlike l (firedOnly (stepped l b e) c) :=
      ⟨hw, hrf.symm ▸ hw, hlog, congrArg Boot.early hboot, fun f _ _ => by rw [hrf]⟩
    rw [ftLoad_passes hc he hper hqws hgrid hold hnow]
    refine ⟨?_, ?_, ?_, ?_, fun _ => log_late halike _⟩
    · rw [late_time]
      rfl
    · rw [late_time, hfired]
    · rw [get_late (hrf.symm ▸ hw), hget]
    · rw [Live.ft, late_time, ← ft_stepped l b e, ← hft, Live.ft]
  · rw [ftLoad_backward he]
    exact stepped_eq l b e

end

section

variable {l m n : Live} {b : Build} {s : State}

/-! ### What goes out -/

/-- `m` differs from `l` in what a numbered unit to a buoy changes. -/
def SentFrame (l m : Live) : Prop :=
  m = { l with seqs := m.seqs, skips := m.skips, links := m.links, routes := m.routes }

theorem SentFrame.trans (h : SentFrame l m) (k : SentFrame m n) : SentFrame l n := by
  unfold SentFrame at h k ⊢
  rw [k, h]

theorem sentFrame_number (l : Live) (r : Rec) : SentFrame l (l.number r).1 := by
  unfold Live.number Live.resume
  dsimp only
  split <;> rfl

theorem sentFrame_noteKey (l : Live) (k c : Nat) : SentFrame l (l.noteKey k c) := by
  unfold Live.noteKey
  split
  · split <;> rfl
  · rfl

theorem sentFrame_queueBuoy (l : Live) (b : Build) (i : LinkItem) : SentFrame l (l.queueBuoy b i) := by
  unfold Live.queueBuoy
  split
  · rfl
  · dsimp only
    split
    · exact (sentFrame_noteKey l _ _).trans rfl
    · rfl

/-- A partner's state replaced. -/
def setPeer (l : Live) (k : Nat) (p : Peer) : Live :=
  { l with time := { l.time with peers := Tab.set l.time.peers k peer0 p } }

theorem sentFrame_sendReq (l : Live) (b : Build) (k : Nat) :
    SentFrame (setPeer l k (l.peer k).nextReq) (l.sendReq b k) :=
  (sentFrame_number _ _).trans (sentFrame_queueBuoy _ b _)

theorem peer_setPeer (hw : Tab.wf l.time.peers = true) (k j : Nat) (p : Peer) :
    (setPeer l k p).peer j = if j = k then p else l.peer j := by
  by_cases hj : j = k
  · rw [if_pos hj, hj]
    exact Tab.getD_set_same hw k peer0 p
  · rw [if_neg hj]
    exact Tab.getD_set_ne hw (Ne.symm hj) peer0 p peer0

/-- `m` is `l` once the partners below `k` have their next REQ. -/
structure ReqsUpTo (l m : Live) (k : Nat) : Prop where
  frame : m = { l with
    seqs := m.seqs, skips := m.skips, links := m.links, routes := m.routes,
    time := { l.time with peers := m.time.peers } }
  wf : Tab.wf m.time.peers = true
  peers : ∀ j, m.peer j = if j < k then (l.peer j).nextReq else l.peer j

theorem ReqsUpTo.next {k : Nat} (h : ReqsUpTo l m k) : ReqsUpTo l (m.sendReq b k) (k + 1) := by
  obtain ⟨hframe, hwf, hpeers⟩ := h
  have hsent := sentFrame_sendReq m b k
  unfold SentFrame at hsent
  refine ⟨?_, ?_, fun j => ?_⟩
  · rw [hsent, hframe]
    rfl
  · rw [hsent]
    exact Tab.wf_set hwf k peer0 _
  · have hpeer : (m.sendReq b k).peer j = (setPeer m k (m.peer k).nextReq).peer j := by rw [hsent]; rfl
    rw [hpeer, peer_setPeer hwf, hpeers k, if_neg (Nat.lt_irrefl k), hpeers j]
    obtain hlt | rfl | hgt := Nat.lt_trichotomy j k
    · rw [if_neg (Nat.ne_of_lt hlt), if_pos hlt, if_pos (Nat.lt_succ_of_lt hlt)]
    · rw [if_pos rfl, if_pos (Nat.lt_succ_self j)]
    · rw [if_neg (Nat.ne_of_gt hgt), if_neg (by omega), if_neg (by omega)]

theorem reqs_upTo (hw : Tab.wf l.time.peers = true) (b : Build) :
    ∀ k, ReqsUpTo l ((List.range k).foldl (fun l k => l.sendReq b k) l) k
  | 0 => ⟨rfl, hw, fun j => (if_neg (Nat.not_lt_zero j)).symm⟩
  | k + 1 => by
    rw [List.range_succ, List.foldl_append]
    exact (reqs_upTo hw b k).next

/-! ### Buoys that are not fit -/

/-- `m` differs from `l` in the subjects in disagreement and what logging changes. -/
def SubjectFrame (l m : Live) : Prop :=
  m = { l with rf := m.rf, flt := m.flt, log := m.log, boot := { l.boot with early := m.boot.early } }

theorem SubjectFrame.refl (l : Live) : SubjectFrame l l := rfl

theorem SubjectFrame.trans (h : SubjectFrame l m) (k : SubjectFrame m n) : SubjectFrame l n := by
  unfold SubjectFrame at h k ⊢
  rw [k, h]

theorem subjectFrame_logE (l : Live) (b : Build) (code sev : Nat) (args : List Nat) :
    SubjectFrame l (l.logE b code sev args) := by
  have h := (Live.logE_only l b code sev args 0 0).1
  unfold SubjectFrame
  rw [h]

theorem subjectFrame_subject (l : Live) (k : Nat × Nat) (bad : Bool) (f : Live → Live)
    (hf : ∀ l, SubjectFrame l (f l)) : SubjectFrame l (l.subject k bad f) := by
  unfold Live.subject
  split
  · split
    · rfl
    · exact SubjectFrame.trans (m := { l with flt := { l.flt with dis := l.flt.dis ++ [k] } }) rfl (hf _)
  · rfl

theorem checkBuoys_frame (l : Live) (b : Build) : SubjectFrame l (l.checkBuoys b) := by
  unfold Live.checkBuoys
  dsimp only
  split
  · rfl
  · exact foldl_rel SubjectFrame.refl SubjectFrame.trans _
      (fun l k => subjectFrame_subject l _ _ _ fun l => subjectFrame_logE l b _ _ _) _ l

/-- Without plans and without disagreement nobody is looked at. -/
theorem checkBuoys_quiet (hplans : l.plans = []) (hdis : l.flt.dis = []) : l.checkBuoys b = l := by
  have hstep (k : Nat) (f : Live → Live) : l.subject (0, k) false f = l := by
    have hsame : ({ l with flt := { l.flt with dis := [] } } : Live) = l := by rw [← hdis]
    rw [Live.subject, if_neg Bool.false_ne_true, hdis]
    exact hsame
  unfold Live.checkBuoys
  dsimp only
  split
  · rfl
  · rw [hplans]
    induction List.range 256 with
    | nil => rfl
    | cons k ks ih =>
      rw [List.foldl_cons]
      simp only [List.any_nil, Bool.false_and, hstep]
      exact ih

/-! ### The lantern -/

theorem gives_timexInterval (ha : s.live.awake = true) (hf : s.build.form = .lantern)
    (hstate : s.live.time.state ≠ .free) :
    Gives .timexInterval s (((List.range 256).foldl (fun l k => l.sendReq s.build k) s.live).checkBuoys s.build) := by
  show execTimexInterval s = _
  refine runAwake_gives ha (if_neg ?_)
  simp [Build.buoy, hf, hstate]

theorem gives_timexInterval_none (ha : s.live.awake = true)
    (h : s.build.form = .buoy ∨ s.live.time.state = .free) : Gives .timexInterval s s.live := by
  show execTimexInterval s = _
  refine runAwake_gives ha (if_pos (h.imp_left fun hf => ?_))
  rw [Build.buoy, hf]
  rfl

/-- The exchange that the RSP `r` ends on link `n`, given to its partner (R120). -/
def exchanged (l : Live) (b : Build) (n : Nat) (r : Rec) : Live :=
  setPeer l (txDst r) ((l.peer (txDst r)).accept
    (timexEval (txT1 r) (txT2 r) (txTx r) (l.stampIn b n)).1 (timexEval (txT1 r) (txT2 r) (txTx r) (l.stampIn b n)).2)

/-- A RSP that matches the most recent REQ gives its exchange to the partner. -/
theorem gives_timexRsp {n : BitVec 5} {r : Rec} (ha : s.live.awake = true) (hf : s.build.form = .lantern)
    (hup : s.live.isUp n.toNat = true) (hrole : s.live.role s.build n.toNat = 2) (hty : r.ty = 0x0E)
    (hlen : r.body.length = 4) (hpoison : r.poison = false) (hkind : txKind r = 2)
    (hans : (s.live.peer (txDst r)).answered = false) (htx : (s.live.peer (txDst r)).tx = some (txT1 r))
    (hseq : txSeq r = ((s.live.peer (txDst r)).xseq + 255) % 256) :
    Gives (.timexRsp n r) s ((exchanged s.live s.build n.toNat r).checkBuoys s.build) := by
  show execTimexRsp n r s = _
  refine runAwake_gives ha (if_neg ?_)
  simp [Build.buoy, isTimex, *]

theorem gives_timexRsp_none {n : BitVec 5} {r : Rec} (ha : s.live.awake = true)
    (h : s.live.isUp n.toNat = false ∨ s.live.role s.build n.toNat ≠ 2 ∨ r.poison = true ∨ txKind r ≠ 2 ∨
      (s.live.peer (txDst r)).answered = true ∨ (s.live.peer (txDst r)).tx ≠ some (txT1 r) ∨
      txSeq r ≠ ((s.live.peer (txDst r)).xseq + 255) % 256) : Gives (.timexRsp n r) s s.live := by
  show execTimexRsp n r s = _
  refine runAwake_gives ha (if_pos ?_)
  obtain h | h | h | h | h | h | h := h <;> simp [h]

/-- Settles O13: the interval numbers the REQs one by one, and both look at the named buoys afterwards. -/
theorem lanternExchangesTime : Obligations.LanternExchangesTime := by
  refine ⟨fun s ha hf hstate hw => yields_of_gives (gives_timexInterval ha hf hstate) ?_,
    fun s ha h => gives_timexInterval_none ha h, ?_, ?_⟩
  · have hreqs := reqs_upTo hw s.build 256
    generalize (List.range 256).foldl (fun l k => l.sendReq s.build k) s.live = m at hreqs
    obtain ⟨hframe, _, hpeers⟩ := hreqs
    have hcheck := checkBuoys_frame m s.build
    unfold SubjectFrame at hcheck
    have hplans : m.plans = s.live.plans := by rw [hframe]
    have hdis : m.flt = s.live.flt := by rw [hframe]
    refine ⟨fun loc => ?_, ?_, ?_, ?_, ?_, ?_, fun h0 h1 => ?_⟩
    · have hpeer : (m.checkBuoys s.build).peer loc = m.peer loc := by
        rw [hcheck]
        rfl
      rw [hpeer, hpeers, if_pos loc.isLt]
    · rw [hcheck, hframe]
    · rw [hcheck, hframe]
    · rw [hcheck, hframe]
    · rw [hcheck, hframe]
    · rw [hcheck, hframe]
    · rw [checkBuoys_quiet (hplans.trans h0) (hdis ▸ h1), hframe]
      exact ⟨rfl, rfl⟩
  · rintro s n r _ _ _ ha hf hup hrole hw hty hlen hpoison hkind rfl hans htx hseq rfl rfl
    refine yields_of_gives (gives_timexRsp ha hf hup hrole hty hlen hpoison hkind hans htx hseq) ?_
    have hcheck := checkBuoys_frame (exchanged s.live s.build n.toNat r) s.build
    unfold SubjectFrame at hcheck
    refine ⟨?_, fun k hk => ?_, fun h0 h1 => ?_, ?_⟩
    · rw [hcheck]
      exact (peer_setPeer hw _ _ _).trans (if_pos rfl)
    · rw [hcheck]
      exact (peer_setPeer hw _ _ _).trans (if_neg hk)
    · rw [checkBuoys_quiet (l := exchanged s.live s.build n.toNat r) h0 h1]
      exact ⟨rfl, rfl, rfl⟩
    · rw [hcheck]
      rfl
  · rintro s n r _ ha rfl h
    exact gives_timexRsp_none ha h

end

section

variable {l m : Live} {b : Build} {s : State} {r : Rec}

/-- Type, stream and payload of the records created. -/
def madeOf (l : Live) : List (BitVec 8 × BitVec 14 × List DWord) :=
  l.created.map fun x => (x.2.ty, x.2.stream, x.2.body)

theorem madeOf_congr (h : m.created = l.created) : madeOf m = madeOf l := by
  rw [madeOf, h, madeOf]

theorem number_kinds (l : Live) (r : Rec) : (l.number r).1.created = l.created ∧ (l.number r).2.ty = r.ty ∧
    (l.number r).2.stream = r.stream ∧ (l.number r).2.body = r.body := by
  unfold Live.number Live.resume
  dsimp only
  split <;> exact ⟨rfl, rfl, rfl, rfl⟩

theorem madeOf_create (l : Live) (b : Build) (r : Rec) :
    madeOf (l.create b r) = madeOf l ++ [(r.ty, r.stream, r.body)] := by
  obtain ⟨hmade, hty, hstream, hbody⟩ := number_kinds l r
  unfold madeOf Live.create
  dsimp only
  rw [List.map_append, hmade, List.map_singleton, hty, hstream, hbody]

theorem create_frame (l : Live) (b : Build) (r : Rec) : l.create b r = { l with
    seqs := (l.create b r).seqs, skips := (l.create b r).skips, created := (l.create b r).created } := by
  unfold Live.create Live.number Live.resume
  dsimp only
  split <;> rfl

/-- A REQ that the buoy takes. -/
theorem gives_timexReq (h : ReqAt s r) :
    Gives (.timexReq r) s ((s.live.takeReq s.build r).1.sendRsp s.build r (s.live.takeReq s.build r).2) := by
  obtain ⟨ha, hf, hty, hpoison, hlen, hkind, hdst⟩ := h
  show execTimexReq r s = _
  refine runAwake_gives ha ?_
  simp [Build.lantern, timexStray, isTimex, *]

/-- What the RSP of a REQ adds, and what it leaves. -/
theorem sendRsp_frame (l : Live) (b : Build) (r : Rec) (t2 : Word) : l.sendRsp b r t2 = { l with
    seqs := (l.sendRsp b r t2).seqs, skips := (l.sendRsp b r t2).skips, created := (l.sendRsp b r t2).created } :=
  create_frame l b _

theorem madeOf_sendRsp (hf : s.build.form = .buoy) (hloc : l.boot.st = s.live.boot.st) (t2 : Word) :
    madeOf (l.sendRsp s.build r t2) = madeOf l ++ [(0x0E, 0x0000, rspWords s r t2)] := by
  unfold Live.sendRsp
  dsimp only
  rw [madeOf_create, hloc]
  simp [mkRec, Build.mgmtStream, Build.buoy, hf, rspWords]

/-- What a step leaves of where the block is, and what it has made. -/
theorem ftStep_statics (l : Live) (b : Build) (e : Int) :
    (l.ftStep b e).boot.st = l.boot.st ∧ (l.ftStep b e).created = l.created ∧
      (l.ftStep b e).time.trunk = l.time.trunk := by
  have hframe : FollowFrame (loaded (hasStepped l) e) (l.ftStep b e) := ftStep_frame l b e
  unfold FollowFrame at hframe
  rw [hframe]
  exact ⟨rfl, rfl, rfl⟩

theorem enterLocked_statics (l : Live) (b : Build) : (l.enterLocked b).boot.st = l.boot.st ∧
    (l.enterLocked b).created = l.created ∧ (l.enterLocked b).time.trunk = l.time.trunk ∧
    (l.enterLocked b).time.ofs = l.time.ofs := by
  obtain ⟨heq, _⟩ | heq := enterLocked_cases l b
  · rw [heq]
    exact ⟨rfl, rfl, rfl, rfl⟩
  · rw [heq]
    exact ⟨by simp, by simp, rfl, rfl⟩

/-- LOCK of a REQ. -/
def lockBit (r : Rec) : Bool := bit (wordAt r.body 0) 24

/-- The live part that has heard the REQ `r`. -/
def heard (l : Live) (r : Rec) : Live := { l with time := { l.time with lanLock := bit (wordAt r.body 0) 25 } }

/-- The live part that has its TrunkID from the REQ `r`. -/
def joined (l : Live) (r : Rec) : Live :=
  { heard l r with time := { (heard l r).time with trunk := some (l.time.trunk.getD (r.src.toNat / 256)) } }

/-- How far a REQ's TX lies ahead of its receive stamp. -/
def reqError (l : Live) (b : Build) (r : Rec) : Int := (txTx r - l.stampIn b 0).toInt

theorem takeReq_free (h : l.time.state = .free) : l.takeReq b r =
    ((((joined l r).ftStep b (reqError l b r)).setTState .acquire).when (lockBit r) (Live.enterLocked · b), txTx r) :=
  if_pos h

/-- The live part with the error of a later REQ applied. -/
def corrected (l : Live) (b : Build) (r : Rec) : Live :=
  if txCorr r = 0 then heard l r
  else ({ heard l r with time := { (heard l r).time with ofs := txCorr r } } : Live).correct b (txCorr r)

/-- The time state that the LOCK of a later REQ leads to. -/
def followLock (l : Live) (b : Build) (r : Rec) : Live :=
  if lockBit r then l.enterLocked b else if l.time.state = .locked then l.enterHoldover b 2 else l

theorem takeReq_later (h : l.time.state ≠ .free) : l.takeReq b r =
    (followLock (corrected l b r) b r,
      if l.get b F.TIME_CFG_STEP_THR < (txCorr r).natAbs then l.stampIn b 0 + BitVec.ofInt 32 (txCorr r)
      else l.stampIn b 0) := by
  refine (if_neg h).trans ?_
  simp only [decide_eq_true_eq]
  rfl

theorem enterHoldover_eq (l : Live) (b : Build) (why : Nat) : l.enterHoldover b why =
    ({ l with time := { l.time with state := .holdover, good := 0 } } : Live).logE b 0x0301 2 [why] :=
  rfl

/-- What the LOCK of a REQ changes: the time state, and what logging changes. -/
theorem followLock_spec (l : Live) (b : Build) (r : Rec) :
    (followLock l b r).time.state = (if lockBit r then .locked
      else if l.time.state = .locked then .holdover else l.time.state) ∧
    (followLock l b r).time.slew = l.time.slew ∧ (followLock l b r).time.ofs = l.time.ofs ∧
    (followLock l b r).time.acc = l.time.acc ∧ (followLock l b r).boot.st = l.boot.st ∧
    (followLock l b r).created = l.created := by
  unfold followLock
  split
  · obtain ⟨hst, hmade, _, hofs⟩ := enterLocked_statics l b
    obtain ⟨hstate, hslew, hacc⟩ := enterLocked_time l b
    exact ⟨hstate, hslew, hofs, hacc, hst, hmade⟩
  · split
    · rw [enterHoldover_eq]
      simp
    · exact ⟨rfl, rfl, rfl, rfl, rfl, rfl⟩

/-- In LOCKED a REQ with LOCK changes no state. -/
theorem followLock_locked (hlock : lockBit r = true) (h : l.time.state = .locked) : followLock l b r = l :=
  (if_pos hlock).trans (if_pos h)

/-- Within STEP_THR a later REQ's error becomes the slew. -/
theorem corrected_slew (h : (txCorr r).natAbs ≤ l.get b F.TIME_CFG_STEP_THR) : corrected l b r =
    if txCorr r = 0 then heard l r else { heard l r with time := { (heard l r).time with
      ofs := txCorr r, slew := txCorr r * nsUnit } } := by
  unfold corrected
  split
  · rfl
  · exact if_neg (Nat.not_lt.mpr h)

/-- Beyond it fleet time steps. -/
theorem corrected_step (h : l.get b F.TIME_CFG_STEP_THR < (txCorr r).natAbs) : corrected l b r =
    (({ heard l r with time := { (heard l r).time with ofs := txCorr r } } : Live).ftStep b (txCorr r)).setTState
      .acquire := by
  have hne : txCorr r ≠ 0 := by
    intro h0
    rw [h0] at h
    exact absurd h (Nat.not_lt_zero _)
  exact (if_neg hne).trans (if_pos h)

theorem timexStray_of_other (hty : r.ty = 0x0E) (hlen : r.body.length = 4)
    (h : (txKind r = 1 ∧ txDst r ≠ l.boot.st.idLocal.toNat) ∨ (txKind r ≠ 1 ∧ txKind r ≠ 2)) :
    timexStray l r = true := by
  simp [timexStray, isTimex, hty, hlen, h.symm]

theorem sendRsp_time (l : Live) (b : Build) (r : Rec) (t2 : Word) : (l.sendRsp b r t2).time = l.time := by
  rw [sendRsp_frame]

/-- A block that has stepped, and becomes LOCKED with LOCK. -/
def lockedAfter (l : Live) (b : Build) (r : Rec) : Live :=
  (l.setTState .acquire).when (lockBit r) (Live.enterLocked · b)

theorem lockedAfter_spec (l : Live) (b : Build) (r : Rec) :
    (lockedAfter l b r).time.state = (if lockBit r then .locked else .acquire) ∧
    (lockedAfter l b r).time.trunk = l.time.trunk ∧ (lockedAfter l b r).time.ofs = l.time.ofs ∧
    (lockedAfter l b r).time.acc = l.time.acc ∧ (lockedAfter l b r).boot.st = l.boot.st ∧
    (lockedAfter l b r).created = l.created := by
  unfold lockedAfter
  cases lockBit r
  · exact ⟨rfl, rfl, rfl, rfl, rfl, rfl⟩
  · obtain ⟨hst, hmade, htrunk, hofs⟩ := enterLocked_statics (l.setTState .acquire) b
    obtain ⟨hstate, _, hacc⟩ := enterLocked_time (l.setTState .acquire) b
    exact ⟨hstate, htrunk, hofs, hacc, hst, hmade⟩

theorem ft_congr (h : m.time.acc = l.time.acc) : m.ft = l.ft := by
  rw [Live.ft, h, Live.ft]

/-- The first REQ of FREE. -/
theorem yields_firstReq (h : ReqAt s r) (hstate : s.live.time.state = .free) :
    Yields (.timexReq r) s fun l =>
      l.time.state = (if lockBit r then .locked else .acquire) ∧
      l.time.trunk = some (s.live.time.trunk.getD (r.src.toNat / 256)) ∧
      l.ft = s.live.ft + (txTx r - s.live.stampIn s.build 0) ∧ l.time.ofs = s.live.time.ofs ∧
      madeOf l = madeOf s.live ++ [(0x0E, 0x0000, rspWords s r (txTx r))] := by
  refine yields_of_gives (gives_timexReq h) ?_
  rw [takeReq_free hstate, sendRsp_time]
  obtain ⟨hstate', htrunk, hofs, hacc, hst, hmade⟩ :=
    lockedAfter_spec ((joined s.live r).ftStep s.build (reqError s.live s.build r)) s.build r
  obtain ⟨_, _, hofs', _, hft, _⟩ := ftStep_time (joined s.live r) s.build (reqError s.live s.build r)
  obtain ⟨hst', hmade', htrunk'⟩ := ftStep_statics (joined s.live r) s.build (reqError s.live s.build r)
  refine ⟨hstate', htrunk.trans htrunk', ?_, hofs.trans hofs', ?_⟩
  · refine (ft_congr ((congrArg Time.acc (sendRsp_time _ _ _ _)).trans hacc)).trans (hft.trans ?_)
    rw [reqError, BitVec.ofInt_toInt]
    rfl
  · refine (madeOf_sendRsp h.2.1 (hst.trans hst') _).trans ?_
    have hsame : madeOf (lockedAfter ((joined s.live r).ftStep s.build (reqError s.live s.build r)) s.build r) =
        madeOf s.live := madeOf_congr (hmade.trans hmade')
    exact congrArg (· ++ _) hsame

/-- What a later REQ within STEP_THR leaves of the time. -/
theorem corrected_spec (h : (txCorr r).natAbs ≤ l.get b F.TIME_CFG_STEP_THR) :
    (corrected l b r).time.state = l.time.state ∧
    (txCorr r ≠ 0 → (corrected l b r).time.slew = txCorr r * 2 ^ 28 ∧ (corrected l b r).time.ofs = txCorr r) ∧
    (txCorr r = 0 → (corrected l b r).time.slew = l.time.slew ∧ (corrected l b r).time.ofs = l.time.ofs) ∧
    (corrected l b r).time.acc = l.time.acc ∧ (corrected l b r).boot.st = l.boot.st ∧
    (corrected l b r).created = l.created ∧ (corrected l b r).rf = l.rf ∧ (corrected l b r).log = l.log := by
  rw [corrected_slew h]
  split
  next h0 => exact ⟨rfl, fun hne => absurd h0 hne, fun _ => ⟨rfl, rfl⟩, rfl, rfl, rfl, rfl, rfl⟩
  next h0 => exact ⟨rfl, fun _ => ⟨rfl, rfl⟩, fun hz => absurd hz h0, rfl, rfl, rfl, rfl, rfl⟩

theorem yields_slewReq (h : ReqAt s r) (hstate : s.live.time.state ≠ .free)
    (hthr : (txCorr r).natAbs ≤ s.live.get s.build F.TIME_CFG_STEP_THR) :
    Yields (.timexReq r) s fun l =>
      l.time.state = (if lockBit r then .locked
        else if s.live.time.state = .locked then .holdover else s.live.time.state) ∧
      (txCorr r ≠ 0 → l.time.slew = txCorr r * 2 ^ 28 ∧ l.time.ofs = txCorr r) ∧
      (txCorr r = 0 → l.time.slew = s.live.time.slew ∧ l.time.ofs = s.live.time.ofs) ∧
      l.time.acc = s.live.time.acc ∧
      (lockBit r = true → s.live.time.state = .locked → l.rf = s.live.rf ∧ l.log = s.live.log) ∧
      madeOf l = madeOf s.live ++ [(0x0E, 0x0000, rspWords s r (s.live.stampIn s.build 0))] := by
  refine yields_of_gives (gives_timexReq h) ?_
  rw [takeReq_later hstate, if_neg (Nat.not_lt.mpr hthr), sendRsp_time]
  obtain ⟨hst, hslew, hzero, hacc, hstat, hmade, hrf, hlog⟩ := corrected_spec hthr
  obtain ⟨hst', hslew', hofs', hacc', hstat', hmade'⟩ := followLock_spec (corrected s.live s.build r) s.build r
  refine ⟨hst ▸ hst', fun hne => ?_, fun h0 => ?_, hacc'.trans hacc, fun hlock hlocked => ?_, ?_⟩
  · exact ⟨hslew'.trans (hslew hne).1, hofs'.trans (hslew hne).2⟩
  · exact ⟨hslew'.trans (hzero h0).1, hofs'.trans (hzero h0).2⟩
  · rw [followLock_locked hlock (hst.trans hlocked), sendRsp_frame]
    exact ⟨hrf, hlog⟩
  · rw [madeOf_sendRsp h.2.1 (hstat'.trans hstat), madeOf_congr (hmade'.trans hmade)]

/-- The live part with TIME_OFS from the REQ `r`. -/
def offset (l : Live) (r : Rec) : Live := { heard l r with time := { (heard l r).time with ofs := txCorr r } }

theorem yields_stepReq (h : ReqAt s r) (hstate : s.live.time.state ≠ .free)
    (hthr : s.live.get s.build F.TIME_CFG_STEP_THR < (txCorr r).natAbs) :
    Yields (.timexReq r) s fun l =>
      l.time.state = (if lockBit r then .locked else .acquire) ∧ l.time.slew = 0 ∧
      l.time.ofs = txCorr r ∧ l.ft = s.live.ft + BitVec.ofInt 32 (txCorr r) ∧
      madeOf l = madeOf s.live ++
        [(0x0E, 0x0000, rspWords s r (s.live.stampIn s.build 0 + BitVec.ofInt 32 (txCorr r)))] := by
  have hcorrected : corrected s.live s.build r = ((offset s.live r).ftStep s.build (txCorr r)).setTState .acquire :=
    corrected_step hthr
  refine yields_of_gives (gives_timexReq h) ?_
  rw [takeReq_later hstate, if_pos hthr, sendRsp_time, hcorrected]
  obtain ⟨hst, hslew, hofs, hacc, hstat, hmade⟩ :=
    followLock_spec (((offset s.live r).ftStep s.build (txCorr r)).setTState .acquire) s.build r
  obtain ⟨hslew', _, hofs', _, hft, _⟩ := ftStep_time (offset s.live r) s.build (txCorr r)
  obtain ⟨hstat', hmade', _⟩ := ftStep_statics (offset s.live r) s.build (txCorr r)
  refine ⟨hst, hslew.trans hslew', hofs.trans hofs', ?_, ?_⟩
  · exact (ft_congr ((congrArg Time.acc (sendRsp_time _ _ _ _)).trans hacc)).trans hft
  · rw [madeOf_sendRsp h.2.1 (hstat.trans hstat'), madeOf_congr (hmade.trans hmade')]
    rfl

/-- A REQ that is dropped. -/
theorem gives_timexReq_none (ha : s.live.awake = true) (hf : s.build.form = .buoy) (hty : r.ty = 0x0E)
    (hdrop : r.body.length ≠ 4 ∨ txKind r = 2 ∨
      (txKind r = 1 ∧ txDst r = s.live.boot.st.idLocal.toNat ∧ r.poison = true)) : Gives (.timexReq r) s s.live := by
  have hlantern : s.build.lantern = false := by simp [Build.lantern, hf]
  show execTimexReq r s = _
  refine runAwake_gives ha ?_
  obtain hlen | hkind | ⟨hkind, hdst, hpoison⟩ := hdrop
  · simp [hlantern, hty, timexStray, isTimex, hlen]
  · simp [hlantern, hty, timexStray, isTimex, hkind]
  · simp [hlantern, hty, timexStray, isTimex, hkind, hdst, hpoison]

/-- Settles O14: a REQ is stray, dropped, the first one of FREE, or a later one that slews or steps. -/
theorem buoyAnswersTimeRequests : Obligations.BuoyAnswersTimeRequests := by
  refine ⟨fun s r => yields_firstReq, fun s r => yields_slewReq, fun s r => yields_stepReq,
    fun s r ha hf hty hlen hstray => ?_, fun s r => gives_timexReq_none⟩
  show execTimexReq r s = _
  refine runAwake_gives ha ?_
  rw [if_neg (by simp [Build.lantern, hf, hty]), if_pos (timexStray_of_other hty hlen hstray)]

end

section

variable {l m : Live} {b : Build} {s : State} {v : Word}

theorem findReg_qwCtl (h : b.form = .buoy) :
    findReg b 0x540 = some (⟨0x540, 0, 1, 0, .none, .none, [F.QW_CTL_EN, F.QW_CTL_GUARD]⟩, 0) := by
  rw [findReg_form, h]
  decide +kernel

theorem writeRow_of_find {r : RegRow} {e : Nat} {x : Nat × (Live → Build → Nat → Word → Live)}
    (h : ((if r.off < 0x1800 then writers1 else writers2).find? fun x => decide (x.1 = r.off)) = some x) :
    l.writeRow b r e v = x.2 l b e v := by
  rw [Live.writeRow, h]

theorem writeRow_qwCtl (l : Live) (b : Build) (v : Word) :
    l.writeRow b ⟨0x540, 0, 1, 0, .none, .none, [F.QW_CTL_EN, F.QW_CTL_GUARD]⟩ 0 v = l.writeQwCtl b v.toNat :=
  writeRow_of_find (x := (0x540, fun l b _ v => l.writeQwCtl b v.toNat)) rfl

theorem gives_qwEnable (h : Served s) (hf : s.build.form = .buoy) :
    Gives (.qwEnable v) s ((written s).writeQwCtl s.build v.toNat) := by
  show execQwEnable v s = _
  exact writeRow_qwCtl (written s) s.build v ▸ portWrite_gives h (findReg_qwCtl hf) rfl rfl (by decide)

theorem gives_qwDisable (h : Served s) (hf : s.build.form = .buoy) :
    Gives (.qwDisable v) s ((written s).writeQwCtl s.build v.toNat) := by
  show execQwDisable v s = _
  exact writeRow_qwCtl (written s) s.build v ▸ portWrite_gives h (findReg_qwCtl hf) rfl rfl (by decide)

/-! ### The bits of QW_CTL -/

/-- The live part after bit `k` of a write of `v` to QW_CTL. -/
def ctlBit (b : Build) (v : Nat) (l : Live) (k : Nat) : Live :=
  if (l.qw k).owner ≠ 0 then
    if v.testBit k = (l.qw k).en then l else l.setBit b F.QW_STAT_ARM_REJ 0 k
  else if v.testBit k ∧ !(l.qw k).en then l.qwEnable b k
  else if v.testBit k then l.updQw k fun q => { q with pendDis := false }
  else if (l.qw k).en then l.qwDisable k
  else l

/-- The live part with GUARD written. -/
def guarded (l : Live) (b : Build) (v : Nat) : Live := l.put b F.QW_CTL_GUARD (v >>> 4)

theorem writeQwCtl_eq (l : Live) (b : Build) (v : Nat) :
    l.writeQwCtl b v = (List.range 4).foldl (ctlBit b v) (guarded l b v) :=
  rfl

theorem ctlBit_idle {v k : Nat} (howner : (l.qw k).owner = 0) (hen : (l.qw k).en = false) (hv : v.testBit k = false) :
    ctlBit b v l k = l := by
  simp [ctlBit, howner, hen, hv]

theorem ctlBit_enable {v k : Nat} (howner : (l.qw k).owner = 0) (hen : (l.qw k).en = false) (hv : v.testBit k = true) :
    ctlBit b v l k = l.qwEnable b k := by
  simp [ctlBit, howner, hen, hv]

theorem ctlBit_disable {v k : Nat} (howner : (l.qw k).owner = 0) (hv : v.testBit k = false) :
    ctlBit b v l k = if (l.qw k).en then l.qwDisable k else l := by
  simp [ctlBit, howner, hv]

theorem qwEnable_qw_ne (hw : Tab.wf l.qws = true) {k j : Nat} (hj : j ≠ k) : (l.qwEnable b k).qw j = l.qw j := by
  unfold Live.qwEnable
  dsimp only
  split
  · exact Live.qw_updQw_ne hw (Ne.symm hj) _
  · rfl

/-- A write of one EN bit, with every set free and disabled, enables its set and nothing else. -/
theorem ctlBits_enable {k : Nat} (hw : Tab.wf l.qws = true)
    (hidle : ∀ j : Fin 4, (l.qw j).owner = 0 ∧ (l.qw j).en = false) :
    ∀ n, n ≤ 4 → (List.range n).foldl (ctlBit b (2 ^ k)) l = if n ≤ k then l else l.qwEnable b k
  | 0, _ => (if_pos (Nat.zero_le k)).symm
  | n + 1, hn => by
    obtain ⟨howner, hen⟩ := hidle ⟨n, hn⟩
    rw [List.range_succ, List.foldl_append, ctlBits_enable hw hidle n (Nat.le_of_succ_le hn), List.foldl_cons,
      List.foldl_nil]
    obtain hlt | rfl | hgt := Nat.lt_trichotomy n k
    · rw [if_pos (Nat.le_of_lt hlt), if_pos (Nat.succ_le_of_lt hlt)]
      exact ctlBit_idle howner hen (Nat.testBit_two_pow_of_ne (Nat.ne_of_gt hlt))
    · rw [if_pos (Nat.le_refl n), if_neg (Nat.not_succ_le_self n)]
      exact ctlBit_enable howner hen (Nat.testBit_two_pow_self)
    · have hqw : (l.qwEnable b k).qw n = l.qw n := qwEnable_qw_ne hw (Nat.ne_of_gt hgt)
      rw [if_neg (Nat.not_le.mpr hgt), if_neg (by omega)]
      exact ctlBit_idle (hqw ▸ howner) (hqw ▸ hen) (Nat.testBit_two_pow_of_ne (Nat.ne_of_lt hgt))

/-- What clearing the EN bit of set `q` leaves of it. -/
def disabled (q : Qw) : Qw :=
  if q.en = false then q else if q.active = true then { q with pendDis := true } else { q with en := false }

theorem ctlBit_disable_qw {v k : Nat} (hw : Tab.wf l.qws = true) (howner : (l.qw k).owner = 0)
    (hv : v.testBit k = false) :
    (ctlBit b v l k).qw k = disabled (l.qw k) ∧ (∀ j, j ≠ k → (ctlBit b v l k).qw j = l.qw j) ∧
      Tab.wf (ctlBit b v l k).qws = true ∧ ctlBit b v l k = { l with qws := (ctlBit b v l k).qws } := by
  rw [ctlBit_disable howner hv]
  unfold disabled
  cases hen : (l.qw k).en
  · exact ⟨rfl, fun _ _ => rfl, hw, rfl⟩
  · refine ⟨(Live.qw_updQw_same hw _).trans ?_, fun j hj => Live.qw_updQw_ne hw (Ne.symm hj) _,
      Live.updQw_wf hw k _, rfl⟩
    simp [hen]

/-- `m` is `l` with the sets below `n` disabled. -/
structure DisabledUpTo (l m : Live) (n : Nat) : Prop where
  frame : m = { l with qws := m.qws }
  wf : Tab.wf m.qws = true
  sets : ∀ j, m.qw j = if j < n then disabled (l.qw j) else l.qw j

theorem ctlBits_disable {v : Nat} (hw : Tab.wf l.qws = true) (howner : ∀ j : Fin 4, (l.qw j).owner = 0)
    (hv : ∀ j, j < 4 → v.testBit j = false) :
    ∀ n, n ≤ 4 → DisabledUpTo l ((List.range n).foldl (ctlBit b v) l) n
  | 0, _ => ⟨rfl, hw, fun j => (if_neg (Nat.not_lt_zero j)).symm⟩
  | n + 1, hn => by
    rw [List.range_succ, List.foldl_append]
    have hm := ctlBits_disable hw howner hv n (Nat.le_of_succ_le hn)
    generalize (List.range n).foldl (ctlBit b v) l = m at hm
    obtain ⟨hframe, hwf, hsets⟩ := hm
    have hsame : m.qw n = l.qw n := (hsets n).trans (if_neg (Nat.lt_irrefl n))
    obtain ⟨hn', hne, hwf', hframe'⟩ := ctlBit_disable_qw (b := b) hwf (hsame ▸ howner ⟨n, hn⟩) (hv n hn)
    refine ⟨?_, hwf', fun j => ?_⟩
    · exact hframe'.trans (by rw [hframe]; rfl)
    · by_cases hj : j = n
      · rw [hj, if_pos (Nat.lt_succ_self n), ← hsame]
        exact hn'
      · have hlt : j < n + 1 ↔ j < n := by omega
        refine (hne j hj).trans ?_
        simp only [hsets j, hlt]

/-! ### Enabling one set -/

/-- What R131 asks of a set that is to be enabled. -/
def QwFits (state : TState) (d per len : Nat) : Prop :=
  (state = .locked ∨ state = .holdover) ∧ 1000000 ≤ d ∧ d ≤ 2000000000 ∧ 10000 ≤ per ∧ 1 ≤ len ∧ len ≤ per - 1

theorem qwEnable_fits {k : Nat}
    (h : QwFits l.time.state (BitVec.ofNat 32 (l.get b F.QW_START_START k) - l.ft).toNat
      (l.get b F.QW_PERIOD_PERIOD k) (l.get b F.QW_LEN_LEN k)) :
    l.qwEnable b k = l.updQw k fun _ => { qw0 with en := true, s := BitVec.ofNat 32 (l.get b F.QW_START_START k) } := by
  obtain ⟨hstate, hlo, hhi, hper, hlen, hlen'⟩ := h
  exact if_pos ⟨decide_eq_true hstate, decide_eq_true ⟨hlo, hhi⟩, hper, hlen, hlen'⟩

theorem qwEnable_refused {k : Nat}
    (h : ¬QwFits l.time.state (BitVec.ofNat 32 (l.get b F.QW_START_START k) - l.ft).toNat
      (l.get b F.QW_PERIOD_PERIOD k) (l.get b F.QW_LEN_LEN k)) :
    l.qwEnable b k = l.setBit b F.QW_STAT_ARM_REJ 0 k := by
  refine if_neg fun ⟨htimed, hin, hper, hlen, hlen'⟩ => h ?_
  obtain ⟨hlo, hhi⟩ := of_decide_eq_true hin
  exact ⟨of_decide_eq_true htimed, hlo, hhi, hper, hlen, hlen'⟩

theorem guarded_get (hw : Tab.wf l.rf = true) (v : Nat) {f : Fld} {k : Nat} (hk : k < 65536) (hlo : f.lo < 32)
    (hf : f.off ≠ 0x540) : (guarded l b v).get b f k = l.get b f k :=
  Live.get_put_ne hw (Fld.key_ne (by decide) hk (by decide) hlo (.inl hf.symm)) _

theorem gives_qwWindowStart {k : BitVec 2} (ht : s.live.timeOn = true) (hf : s.build.form = .buoy)
    (hen : (s.live.qw k.toNat).en = true) (hact : (s.live.qw k.toNat).active = false)
    (hr : reached s.live.ft (s.live.qw k.toNat).s = true) :
    Gives (.qwWindowStart k) s { s.live with
      qws := Tab.set s.live.qws k.toNat qw0 { s.live.qw k.toNat with active := true } } := by
  show execQwWindowStart k s = _
  refine run_gives (if_pos ⟨ht, ?_, hen, ?_, hr⟩)
  · simp [Build.buoy, hf]
  · rw [hact]
    rfl

theorem gives_qwWindowEnd {k : BitVec 2} (ht : s.live.timeOn = true) (hf : s.build.form = .buoy)
    (hact : (s.live.qw k.toNat).active = true)
    (hr : reached s.live.ft ((s.live.qw k.toNat).s + BitVec.ofNat 32 (s.live.get s.build F.QW_LEN_LEN k.toNat)) = true) :
    Gives (.qwWindowEnd k) s (s.live.qwEnd s.build k.toNat) := by
  show execQwWindowEnd k s = _
  exact run_gives (if_pos ⟨ht, by simp [Build.buoy, hf], hact, hr⟩)

theorem testBit_of_mod_sixteen {v j : Nat} (hv : v % 16 = 0) (hj : j < 4) : v.testBit j = false := by
  have h : (v % 2 ^ 4).testBit j = v.testBit j := by rw [Nat.testBit_mod_two_pow, decide_eq_true hj, Bool.true_and]
  rw [← h, show v % 2 ^ 4 = 0 from hv, Nat.zero_testBit]

theorem writeQwCtl_one {k : Nat} (hk : k < 4) (hqws : Tab.wf l.qws = true)
    (hidle : ∀ j : Fin 4, (l.qw j).owner = 0 ∧ (l.qw j).en = false) :
    l.writeQwCtl b (2 ^ k) = (guarded l b (2 ^ k)).qwEnable b k := by
  have hbits := ctlBits_enable (b := b) (k := k) (l := guarded l b (2 ^ k)) hqws hidle 4 (Nat.le_refl 4)
  rw [writeQwCtl_eq, hbits, if_neg (Nat.not_le.mpr hk)]

theorem writeQwCtl_none {v : Nat} (hw : Tab.wf l.qws = true) (howner : ∀ j : Fin 4, (l.qw j).owner = 0)
    (hv : v % 16 = 0) : DisabledUpTo (guarded l b v) (l.writeQwCtl b v) 4 := by
  rw [writeQwCtl_eq]
  exact ctlBits_disable (l := guarded l b v) hw howner (fun j => testBit_of_mod_sixteen hv) 4 (Nat.le_refl 4)

/-- What a write of one EN bit leaves of its set, with every set free and disabled. -/
theorem writeQwCtl_one_spec {k : Nat} (hk : k < 4) (hrf : Tab.wf l.rf = true) (hqws : Tab.wf l.qws = true)
    (hidle : ∀ j : Fin 4, (l.qw j).owner = 0 ∧ (l.qw j).en = false) (fits : Prop)
    (hfits : fits = QwFits l.time.state (BitVec.ofNat 32 (l.get b F.QW_START_START k) - l.ft).toNat
      (l.get b F.QW_PERIOD_PERIOD k) (l.get b F.QW_LEN_LEN k)) :
    (∀ j, j ≠ k → (l.writeQwCtl b (2 ^ k)).qw j = l.qw j) ∧
    (fits → ((l.writeQwCtl b (2 ^ k)).qw k).en = true ∧
      ((l.writeQwCtl b (2 ^ k)).qw k).s = BitVec.ofNat 32 (l.get b F.QW_START_START k) ∧
      (l.writeQwCtl b (2 ^ k)).get b F.QW_STAT_ARM_REJ = l.get b F.QW_STAT_ARM_REJ) ∧
    (¬fits → ((l.writeQwCtl b (2 ^ k)).qw k).en = false ∧
      ((l.writeQwCtl b (2 ^ k)).get b F.QW_STAT_ARM_REJ).testBit k = true) := by
  have hwf : Tab.wf (guarded l b (2 ^ k)).rf = true := Live.put_wf hrf _ _ 0
  have hget {f : Fld} {e : Nat} (he : e < 65536) (hlo : f.lo < 32) (hne : f.off ≠ 0x540) :
      (guarded l b (2 ^ k)).get b f e = l.get b f e := guarded_get hrf _ he hlo hne
  have hk' : k < 65536 := Nat.lt_trans hk (by decide)
  have hstart := hget (f := F.QW_START_START) hk' (by decide) (by decide)
  have hper := hget (f := F.QW_PERIOD_PERIOD) hk' (by decide) (by decide)
  have hlen := hget (f := F.QW_LEN_LEN) hk' (by decide) (by decide)
  have hrej := hget (f := F.QW_STAT_ARM_REJ) (e := 0) (by decide) (by decide) (by decide)
  rw [writeQwCtl_one hk hqws hidle, hfits]
  refine ⟨fun j hj => qwEnable_qw_ne (l := guarded l b (2 ^ k)) hqws hj, fun hfit => ?_, fun hfit => ?_⟩
  · rw [← hstart, ← hper, ← hlen] at hfit
    rw [qwEnable_fits (l := guarded l b (2 ^ k)) hfit, hstart, Live.qw_updQw_same (l := guarded l b (2 ^ k)) hqws]
    exact ⟨rfl, rfl, hrej⟩
  · rw [← hstart, ← hper, ← hlen] at hfit
    rw [qwEnable_refused (l := guarded l b (2 ^ k)) hfit]
    refine ⟨(hidle ⟨k, hk⟩).2, ?_⟩
    have hbit := flag_setBit (b := b) (f := F.QW_STAT_ARM_REJ) (e := 0) (i := k) hwf hk
    rw [decide_eq_true rfl, Bool.true_or] at hbit
    exact hbit

/-- Settles O18: the bits of QW_CTL act in ascending order, each on its own set. -/
theorem quietWindowsOpenCloseAndArm : Obligations.QuietWindowsOpenCloseAndArm := by
  refine ⟨fun s k => gives_qwWindowStart, fun s k => gives_qwWindowEnd, ?_, fun s v h hf howner hv hw => ?_⟩
  · rintro s k _ _ _ _ hk h hf hqws hidle hrf rfl rfl rfl rfl
    have hv : (BitVec.ofNat 32 (2 ^ k)).toNat = 2 ^ k :=
      Nat.mod_eq_of_lt (Nat.pow_lt_pow_right (by decide) (by omega))
    have hg := gives_qwEnable (v := BitVec.ofNat 32 (2 ^ k)) h hf
    rw [hv] at hg
    exact yields_of_gives hg (writeQwCtl_one_spec (l := written s) hk hrf hqws hidle _ rfl)
  · have hbits := writeQwCtl_none (l := written s) (b := s.build) hw howner hv
    refine yields_of_gives (gives_qwDisable h hf) ?_
    generalize (written s).writeQwCtl s.build v.toNat = m at hbits ⊢
    obtain ⟨hframe, _, hsets⟩ := hbits
    refine ⟨fun k => (hsets k).trans (if_pos k.isLt), ?_⟩
    have hrf : m.rf = (guarded (written s) s.build v.toNat).rf := by rw [hframe]
    rw [hrf]
    exact hframe

end

end Sys2Proof.Proofs
end

section
/-! PROOFS. Command packets and their replies (O20 to O26). -/

namespace Sys2Proof.Proofs

open Sys2Proof Sys2Proof.Machine Sys2Proof.Claims

section

variable {s : State} {l : Live} {b : Build} {c : Instr} {p : Packet} {o : OpRow} {opc level e : Nat}
  {run : Live → Ret → Live}

/-! ### Commands that start -/

/-- Taking its place changes the command state only. -/
theorem begin_frame (l : Live) (p : Packet) : (l.begin p).1 = { l with cmd := (l.begin p).1.cmd } := by
  unfold Live.begin
  split <;> rfl

theorem privOf_begin (l : Live) (b : Build) (p q : Packet) : (l.begin p).1.privOf b q = l.privOf b q := by
  rw [begin_frame]
  rfl

/-- The checks do not look at the order of the commands. -/
theorem frame_begin (l : Live) (b : Build) (o : OpRow) (p q : Packet) : (l.begin p).1.frame b o q = l.frame b o q := by
  unfold Live.frame
  rw [privOf_begin]

/-- The place of the command that starts. -/
theorem wakeIdle_of_starts (h : Starts c s p) : s.live.wakeIdle s.build = s.live := by
  obtain ⟨_, hrun, _⟩ := h
  exact Live.wakeIdle_running (by rw [hrun]; decide)

theorem packet_of_starts (h : Starts c s p) (run : Live → Ret → Live) :
    s.live.packet s.build c p run = run (s.live.begin p).1 (retOf s p) := by
  rw [Live.packet_starts c p run h.1, wakeIdle_of_starts h]
  rfl

/-- A command that fails one of the shared checks. -/
theorem runs_fails (hexec : Gives c s (s.live.command s.build c o p run)) (h : Starts c s p)
    (hf : s.live.frame s.build o p = some e) (he : e ≠ eCheck) : Runs c s p fun l r => l.reply s.build r e := by
  refine hexec.trans (congrArg (fun l => Host.Outcome.next { s with live := l }) ?_)
  rw [Live.command, packet_of_starts h, Live.checked, frame_begin, hf]
  dsimp only
  rw [decide_eq_false he, Live.when_false]

/-- A command that passes the shared checks. -/
theorem runs_passes (hexec : Gives c s (s.live.command s.build c o p run)) (h : Starts c s p)
    (hf : s.live.frame s.build o p = none) : Runs c s p run := by
  refine hexec.trans (congrArg (fun l => Host.Outcome.next { s with live := l }) ?_)
  rw [Live.command, packet_of_starts h, Live.checked, frame_begin, hf]

/-! ### The shared checks -/

theorem firstErr_false {t : List (Bool × Nat)} : firstErr ((false, e) :: t) = firstErr t := rfl

theorem firstErr_true {t : List (Bool × Nat)} : firstErr ((true, e) :: t) = some e := rfl

/-- A packet whose words are as LEN says, and whose CRC word is right. -/
structure WellFramed (p : Packet) (opc : Nat) : Prop where
  words : p.words.length = p.len.toNat
  crc : p.pchk = true → p.checks opc = true

theorem wellFramed_checks (h : WellFramed p opc) :
    (decide (p.words.length ≠ p.len.toNat)) = false ∧ (p.pchk && !p.checks opc) = false := by
  obtain ⟨hlen, hcrc⟩ := h
  refine ⟨by simp [hlen], ?_⟩
  cases hp : p.pchk
  · rfl
  · simp [hcrc hp]

/-- A command that the form does not have. -/
theorem frame_form (h : WellFramed p o.opc) (hform : (if b.buoy then o.inB else o.inL) = false) :
    l.frame b o p = some eForm := by
  obtain ⟨hlen, hcrc⟩ := wellFramed_checks h
  have hno : (if b.buoy then !o.inB else !o.inL) = true := by
    split at hform <;> simp_all
  unfold Live.frame
  dsimp only
  rw [hlen, hcrc, firstErr_false, firstErr_false, hno, firstErr_true]

/-- A command above the privilege of its arrival. -/
theorem frame_priv (h : WellFramed p o.opc) (hform : (if b.buoy then o.inB else o.inL) = true)
    (hlevel : l.privOf b p < o.level) : l.frame b o p = some ePriv := by
  obtain ⟨hlen, hcrc⟩ := wellFramed_checks h
  have hyes : (if b.buoy then !o.inB else !o.inL) = false := by
    split at hform <;> simp_all
  unfold Live.frame
  dsimp only
  rw [hlen, hcrc, firstErr_false, firstErr_false, hyes, firstErr_false, decide_eq_true hlevel, Bool.true_or,
    firstErr_true]

/-- The row lets the packet in: form, privilege, and the ways of loads into a buoy. -/
structure Admitted (l : Live) (b : Build) (o : OpRow) (p : Packet) : Prop where
  form : (if b.buoy then o.inB else o.inL) = true
  level : o.level ≤ l.privOf b p
  load : (b.buoy && (o.opc == 0x10 || o.opc == 0x29) && decide (p.port = .mgmt)) = false

/-- What is left is the length of the payload. -/
theorem frame_admitted (h : WellFramed p o.opc) (ha : Admitted l b o p) : l.frame b o p =
    firstErr [(decide (p.data.length < (if b.buoy then o.minB else o.minL) ∨
        (if b.buoy then o.maxB else o.maxL) < p.data.length) ||
      (b.buoy && p.port.inband && decide (254 < p.len.toNat)), eLen)] := by
  obtain ⟨hlen, hcrc⟩ := wellFramed_checks h
  obtain ⟨hform, hlevel, hload⟩ := ha
  have hyes : (if b.buoy then !o.inB else !o.inL) = false := by
    split at hform <;> simp_all
  unfold Live.frame
  dsimp only
  rw [hlen, hcrc, firstErr_false, firstErr_false, hyes, firstErr_false, decide_eq_false (Nat.not_lt.mpr hlevel),
    Bool.false_or, hload, firstErr_false]

theorem frame_len (h : WellFramed p o.opc) (ha : Admitted l b o p)
    (hlen : p.data.length < (if b.buoy then o.minB else o.minL) ∨ (if b.buoy then o.maxB else o.maxL) < p.data.length) :
    l.frame b o p = some eLen := by
  rw [frame_admitted h ha, decide_eq_true hlen, Bool.true_or, firstErr_true]

/-- The payload has a length that the row allows, and an in-band packet to a buoy keeps to R156. -/
structure Fits (b : Build) (o : OpRow) (p : Packet) : Prop where
  lo : (if b.buoy then o.minB else o.minL) ≤ p.data.length
  hi : p.data.length ≤ (if b.buoy then o.maxB else o.maxL)
  inband : b.buoy = true → p.port.inband = true → p.len.toNat ≤ 254

theorem frame_passes (h : WellFramed p o.opc) (ha : Admitted l b o p) (hfits : Fits b o p) : l.frame b o p = none := by
  obtain ⟨hlo, hhi, hin⟩ := hfits
  have hband : (b.buoy && p.port.inband && decide (254 < p.len.toNat)) = false := by
    cases hb : b.buoy
    · rfl
    · cases hp : p.port.inband
      · rfl
      · simpa using hin hb hp
  rw [frame_admitted h ha, hband, decide_eq_false (by omega), Bool.false_or]
  rfl

theorem takes_wellFramed (h : Takes c s p opc level) : WellFramed p opc := by
  obtain ⟨_, hlen, hcrc, _, _⟩ := h
  exact ⟨hlen, hcrc⟩

theorem inband_iff {q : Port} : q.inband = true ↔ q ≠ .mgmt := by
  cases q <;> simp [Port.inband]

/-- A command with the form, the privilege and the length of its row runs. -/
theorem runs_of_takes (hexec : Gives c s (s.live.command s.build c o p run)) (h : Takes c s p o.opc level)
    (hform : (if s.build.buoy then o.inB else o.inL) = true) (hlevel : o.level ≤ level)
    (hload : (s.build.buoy && (o.opc == 0x10 || o.opc == 0x29) && decide (p.port = .mgmt)) = false)
    (hlo : (if s.build.buoy then o.minB else o.minL) ≤ p.data.length)
    (hhi : p.data.length ≤ (if s.build.buoy then o.maxB else o.maxL)) : Runs c s p run := by
  have hw := takes_wellFramed h
  obtain ⟨hstarts, _, _, hpriv, hband⟩ := h
  refine runs_passes hexec hstarts (frame_passes hw ⟨hform, Nat.le_trans hlevel hpriv, hload⟩ ⟨hlo, hhi, ?_⟩)
  intro hbuoy hin
  exact hband (by simpa [Build.buoy] using hbuoy) (inband_iff.mp hin)

/-- The same for a row with one length range that both forms have, and that is no load. -/
theorem runs_of_takes_both {lo hi : Nat}
    (hexec : Gives c s (s.live.command s.build c (opRow opc true true level lo hi) p run))
    (h : Takes c s p opc level) (hload : opc ≠ 0x10 ∧ opc ≠ 0x29) (hlo : lo ≤ p.data.length)
    (hhi : p.data.length ≤ hi) : Runs c s p run := by
  obtain ⟨h10, h29⟩ := hload
  refine runs_of_takes hexec h ?_ (Nat.le_refl _) ?_ ?_ ?_
  · exact ite_self true
  · simp [opRow, h10, h29]
  · simpa [opRow] using hlo
  · simpa [opRow] using hhi

end

section

variable {s : State} {p : Packet}

/-- An opcode that Table 6.6 does not list. -/
theorem runs_unknownOpcode {opc : BitVec 8} (hopc : opc.toNat ∉ opcodes) (h : Starts (.unknownOpcode opc p) s p)
    (hlen : p.words.length = p.len.toNat) (hcrc : p.pchk = true → p.checks opc.toNat = true) :
    Runs (.unknownOpcode opc p) s p fun l r => l.reply s.build r 0x01 := by
  have hno : ¬(p.pchk = true ∧ (!p.checks opc.toNat) = true) := fun ⟨hp, hbad⟩ => by
    rw [hcrc hp] at hbad
    exact absurd hbad (by decide)
  show execUnknownOpcode opc p s = _
  refine run_gives ?_
  rw [if_neg hopc, packet_of_starts h, if_neg (not_not.mpr hlen), if_neg hno]
  rfl

theorem privOf_lt_two (hport : p.port ≠ .mgmt) (l : Live) (b : Build) : l.privOf b p < 2 := by
  unfold Live.privOf
  split
  next h => exact absurd h hport
  next => omega
  next => split <;> omega

/-- Settles O20: each of the checks of R158 that follow the CRC, on one row. -/
theorem formPrivilegeAndLengthChecks : Obligations.FormPrivilegeAndLengthChecks := by
  refine ⟨fun s opc p => runs_unknownOpcode, fun s p hf h hlen hcrc => ?_, fun s p hf h hlen hcrc => ?_,
    fun s p h hlen hcrc hport => ?_, fun s p h hlen hcrc hdata => ?_⟩
  · refine runs_fails (o := opRow 0x4A true false 2 0 0) rfl h (frame_form ⟨hlen, hcrc⟩ ?_) (by decide)
    simp [Build.buoy, hf, opRow]
  · refine runs_fails (o := opRow 0x2A false true 0 2 2051) rfl h (frame_form ⟨hlen, hcrc⟩ ?_) (by decide)
    simp [Build.buoy, hf, opRow]
  · exact runs_fails (o := opRow 0x08 true true 2 0 0) rfl h
      (frame_priv ⟨hlen, hcrc⟩ (ite_self true) (privOf_lt_two hport _ _)) (by decide)
  · refine runs_fails (o := opRow 0x01 true true 0 0 0) rfl h
      (frame_len ⟨hlen, hcrc⟩ ⟨ite_self true, Nat.zero_le _, ?_⟩ (.inr ?_)) (by decide)
    · simp [opRow]
    · simpa [opRow] using List.length_pos_of_ne_nil hdata

end

section

variable {l : Live} {b : Build} {r : Ret}

/-! ### The packet -/

/-- The header word of a reply (Table 6.2). -/
def replyHeader (tag : BitVec 8) (pchk : Bool) (status arg n : Nat) : DWord :=
  packW [(0, status), (8, tag.toNat), (16, n), (28, b2n pchk), (32, arg % 2 ^ 32)]

/-- Five fields side by side in one word. -/
theorem fields_apart {s t n c a : Nat} (hs : s < 256) (ht : t < 256) (hn : n < 4096) (hc : c < 2)
    (ha : a < 4294967296) {w : Nat} (hw : w = s + t * 256 + n * 65536 + c * 268435456 + a * 4294967296) :
    w < 18446744073709551616 ∧ w / 1 % 256 = s ∧ w / 256 % 256 = t ∧ w / 65536 % 4096 = n ∧ w / 268435456 % 2 = c ∧
      w / 4294967296 % 4294967296 = a := by
  omega

theorem packW_toNat (fs : List (Nat × Nat)) : (packW fs).toNat = (fs.map fun f => f.2 * 2 ^ f.1).sum % 2 ^ 64 := by
  have hsum : ∀ (fs : List (Nat × Nat)) (a : Nat),
      fs.foldl (fun a f => a + (f.2 <<< f.1)) a = a + (fs.map fun f => f.2 * 2 ^ f.1).sum := by
    intro fs
    induction fs with
    | nil => exact fun _ => rfl
    | cons f fs ih =>
      intro a
      rw [List.foldl_cons, ih, List.map_cons, List.sum_cons, Nat.shiftLeft_eq, Nat.add_assoc]
  rw [packW, BitVec.toNat_ofNat, hsum, Nat.zero_add]

/-- The word of five fields. -/
theorem packW_five (i0 i1 i2 i3 i4 x0 x1 x2 x3 x4 : Nat) :
    (packW [(i0, x0), (i1, x1), (i2, x2), (i3, x3), (i4, x4)]).toNat =
      (x0 * 2 ^ i0 + x1 * 2 ^ i1 + x2 * 2 ^ i2 + x3 * 2 ^ i3 + x4 * 2 ^ i4) % 2 ^ 64 := by
  rw [packW_toNat]
  simp only [List.map_cons, List.map_nil, List.sum_cons, List.sum_nil, Nat.add_zero, Nat.add_assoc]

theorem replyHeader_toNat (tag : BitVec 8) (pchk : Bool) {status arg n : Nat} (hs : status < 256) (hn : n < 4096) :
    (replyHeader tag pchk status arg n).toNat =
      status + tag.toNat * 256 + n * 65536 + b2n pchk * 268435456 + arg % 2 ^ 32 * 4294967296 := by
  have hchk : b2n pchk < 2 := by cases pchk <;> decide
  obtain ⟨hlt, _⟩ := fields_apart hs tag.isLt hn hchk (Nat.mod_lt arg (Nat.two_pow_pos 32)) rfl
  have hw := packW_five 0 8 16 28 32 status tag.toNat n (b2n pchk) (arg % 2 ^ 32)
  rw [Nat.pow_zero, Nat.mul_one] at hw
  exact hw.trans (Nat.mod_eq_of_lt hlt)

theorem replyHeader_fields (tag : BitVec 8) (pchk : Bool) {status arg n : Nat} (hs : status < 256) (hn : n < 4096) :
    fld (replyHeader tag pchk status arg n) 0 8 = status ∧ fld (replyHeader tag pchk status arg n) 8 8 = tag.toNat ∧
      fld (replyHeader tag pchk status arg n) 16 12 = n ∧ fld (replyHeader tag pchk status arg n) 28 1 = b2n pchk ∧
      fld (replyHeader tag pchk status arg n) 32 32 = arg % 2 ^ 32 := by
  have hchk : b2n pchk < 2 := by cases pchk <;> decide
  obtain ⟨_, h0, h8, h16, h28, h32⟩ := fields_apart hs tag.isLt hn hchk (Nat.mod_lt arg (Nat.two_pow_pos 32))
    (replyHeader_toNat tag pchk hs hn)
  simp only [fld, Nat.shiftRight_eq_div_pow]
  exact ⟨h0, h8, h16, h28, h32⟩

theorem replyPacket_plain (tag : BitVec 8) (status arg : Nat) (ws : List DWord) :
    replyPacket tag false status arg ws = replyHeader tag false status arg ws.length :: ws :=
  rfl

theorem replyPacket_checked (tag : BitVec 8) (status arg : Nat) (ws : List DWord) :
    replyPacket tag true status arg ws = replyHeader tag true status arg (ws.length + 1) :: ws ++
      [packW [(0, (crcWords (replyHeader tag true status arg (ws.length + 1) :: ws)).toNat)]] :=
  rfl

/-! ### The record that carries it -/

theorem routing_reply (r : Ret) : routing 2 0 r.dst r.dlan r.ret =
    packW [(0, 2), (10, r.dst.toNat), (28, b2n r.dlan), (32, r.ret.toNat)] := by
  simp [routing, packW]

/-- Numbering changes a record's number and its mark of a gap only. -/
theorem number_rec (l : Live) (x : Rec) : (l.number x).2 =
    { x with seq := (l.number x).2.seq, gapBefore := (l.number x).2.gapBefore } := by
  unfold Live.number Live.resume
  dsimp only
  split <;> rfl

theorem number_frame (l : Live) (x : Rec) :
    (l.number x).1 = { l with seqs := (l.number x).1.seqs, skips := (l.number x).1.skips } := by
  unfold Live.number Live.resume
  dsimp only
  split <;> rfl

/-- The live part in which the command of `r` is out of execution. -/
def ended (l : Live) (r : Ret) : Live :=
  { l with cmd := { l.cmd with busy := l.cmd.busy.filter fun x => decide (x.r.seqNo ≠ r.seqNo) } }

/-- The record of a reply that travels in-band. -/
def replyRec (l : Live) (b : Build) (r : Ret) (status arg : Nat) (ws : List DWord) : Rec :=
  mkRec l b 0x0F b.mgmtStream l.ft
    (packW [(0, 2), (10, r.dst.toNat), (28, b2n r.dlan), (32, r.ret.toNat)] ::
      replyPacket r.tag r.pchk status arg (if status = 0 then ws else []))

theorem reply_fab (h : r.port = .fab) (status arg : Nat) (ws : List DWord) :
    l.reply b r status arg ws = (ended l r).create b (replyRec l b r status arg ws) := by
  unfold Live.reply replyRec
  dsimp only
  rw [h, routing_reply]
  rfl

theorem reply_link {n : BitVec 5} (h : r.port = .link n) (status arg : Nat) (ws : List DWord) :
    l.reply b r status arg ws = (ended l r).answerLink b n r.seqNo (replyRec l b r status arg ws) := by
  unfold Live.reply replyRec
  dsimp only
  rw [h, routing_reply]
  rfl

theorem created_create (l : Live) (b : Build) (x : Rec) :
    (l.create b x).created = l.created ++ [(l.queueOf b x.stream.toNat, (l.number x).2)] := by
  have hnum := number_frame l x
  have hq : (l.number x).1.queueOf b (l.number x).2.stream.toNat = l.queueOf b x.stream.toNat := by
    rw [hnum, number_rec]
    rfl
  have hmade : (l.number x).1.created = l.created := by rw [hnum]
  unfold Live.create
  dsimp only
  rw [hq, hmade]

/-- The reply of the only command on link `n` leaves by it. -/
theorem answerLink_only {n : BitVec 5} {x : Rec} (hport : r.port = .link n) (horder : l.cmd.order = [⟨r, none⟩])
    (hsrc : x.src = l.src b) : l.answerLink b n r.seqNo x =
      ((({ l with cmd := { l.cmd with order := [] } } : Live).number { x with ft := l.ft }).1).toLink n.toNat
        (({ l with cmd := { l.cmd with order := [] } } : Live).number { x with ft := l.ft }).2 := by
  unfold Live.answerLink
  dsimp only
  rw [horder]
  simp only [List.map_cons, List.map_nil, if_true, flushOrder, hport, List.foldl_cons, List.foldl_nil]
  exact if_pos hsrc

/-- A record on a link is a CTL unit of it. -/
theorem ctl_toLink (hw : Tab.wf l.links = true) (n : Nat) (x : Rec) :
    ((l.toLink n x).link n).ctl = (l.link n).ctl ++ [⟨x.words, some x, none, 0, l.ft, none⟩] :=
  congrArg Link.ctl (Live.link_updLink_same hw _)

/-- The live part with no command of a link unanswered. -/
def unordered (l : Live) : Live := { l with cmd := { l.cmd with order := [] } }

theorem reply_link_only {n : BitVec 5} (hport : r.port = .link n) (horder : l.cmd.order = [⟨r, none⟩])
    (status arg : Nat) (ws : List DWord) : l.reply b r status arg ws =
      ((unordered (ended l r)).number (replyRec l b r status arg ws)).1.toLink n.toNat
        ((unordered (ended l r)).number (replyRec l b r status arg ws)).2 :=
  (reply_link hport status arg ws).trans (answerLink_only (l := ended l r) hport horder rfl)

/-- Settles O21: a reply is a packet, and what carries it is read off its port. -/
theorem repliesLeaveByTheirPort : Obligations.RepliesLeaveByTheirPort := by
  refine ⟨fun tag status arg ws hs hn => ⟨_, replyPacket_plain tag status arg ws, replyHeader_fields tag false hs hn⟩,
    fun tag status arg ws hs hn => ⟨_, replyPacket_checked tag status arg ws,
      replyHeader_fields tag true hs (Nat.succ_lt_succ hn)⟩,
    fun l b r status arg ws h => Live.reply_mgmt h status arg ws,
    fun l b r status arg ws hf h => ?_, fun l b r n status arg ws hf h horder hw => ?_⟩
  · have hbuoy : b.buoy = true := by simp [Build.buoy, hf]
    have hstream : (replyRec l b r status arg ws).stream = 0 := by
      simp [replyRec, mkRec, Build.mgmtStream, hbuoy]
    refine ⟨((ended l r).number (replyRec l b r status arg ws)).2, ?_, ?_⟩
    · rw [reply_fab h, created_create, hstream]
      rfl
    · rw [number_rec]
      exact ⟨rfl, hstream, rfl, rfl, rfl⟩
  · have hstream : (replyRec l b r status arg ws).stream = 0x2000 := by
      simp [replyRec, mkRec, Build.mgmtStream, Build.buoy, hf]
    refine ⟨((unordered (ended l r)).number (replyRec l b r status arg ws)).2, ?_, ?_, ?_⟩
    · have hframe := number_frame (unordered (ended l r)) (replyRec l b r status arg ws)
      have hlink : ((unordered (ended l r)).number (replyRec l b r status arg ws)).1.link n.toNat = l.link n.toNat := by
        rw [hframe]
        rfl
      have hft : ((unordered (ended l r)).number (replyRec l b r status arg ws)).1.ft = l.ft := by
        rw [hframe]
        rfl
      rw [reply_link_only h horder, ctl_toLink (by rw [hframe]; exact hw), hlink, hft]
    · rw [reply_link_only h horder, number_frame]
      rfl
    · rw [number_rec]
      exact ⟨rfl, hstream, rfl, rfl⟩

end

section

variable {s : State} {l : Live} {b : Build} {p : Packet}

/-- The rows of GLB_RELEASE, GLB_PARAM and GLB_ID. -/
def glbRelease : RegRow :=
  ⟨0x0, 0, 1, 1, .none, .none, [F.GLB_RELEASE_MAJOR, F.GLB_RELEASE_MINOR, F.GLB_RELEASE_PATCH, F.GLB_RELEASE_FORM]⟩

def glbParam : RegRow :=
  ⟨0x4, 0, 1, 1, .none, .none, [F.GLB_PARAM_SPILL_EN, F.GLB_PARAM_SPILL_AW, F.GLB_PARAM_CEL_DEV,
    F.GLB_PARAM_CEL_PRESENT, F.GLB_PARAM_CAL_PRESENT]⟩

def glbId : RegRow := ⟨0x8, 0, 1, 1, .none, .none, [F.GLB_ID_LOCAL, F.GLB_ID_TRUNK, F.GLB_ID_TRUNK_VALID]⟩

theorem findReg_glb (b : Build) : findReg b 0x0 = some (glbRelease, 0) ∧ findReg b 0x4 = some (glbParam, 0) ∧
    findReg b 0x8 = some (glbId, 0) := by
  rw [findReg_form b 0x0, findReg_form b 0x4, findReg_form b 0x8]
  cases b.form <;> decide +kernel

/-- The release and the form (R147). -/
theorem word0_release (l : Live) (b : Build) : l.word0 b 0x0 = if b.buoy then 0x02010001 else 0x02010002 := by
  have hval : l.regVal b glbRelease 0 =
      0 + ((2 % 2 ^ 8) <<< 24) + ((1 % 2 ^ 8) <<< 16) + ((0 % 2 ^ 8) <<< 8) +
        (((if b.buoy then 1 else 2) % 2 ^ 8) <<< 0) := rfl
  rw [Live.word0, (findReg_glb b).1]
  refine hval.trans ?_
  cases b.buoy <;> rfl

/-- What IDENT reads does not depend on the commands. -/
theorem word0_cmd (l : Live) (b : Build) (c : Cmd) :
    ({ l with cmd := c } : Live).word0 b 0x4 = l.word0 b 0x4 ∧
      ({ l with cmd := c } : Live).word0 b 0x8 = l.word0 b 0x8 := by
  obtain ⟨_, hparam, hid⟩ := findReg_glb b
  have hparam' : ({ l with cmd := c } : Live).regVal b glbParam 0 = l.regVal b glbParam 0 := rfl
  have hid' : ({ l with cmd := c } : Live).regVal b glbId 0 = l.regVal b glbId 0 := rfl
  simp only [Live.word0, hparam, hid]
  exact ⟨hparam', hid'⟩

theorem word0_begin (l : Live) (b : Build) (p : Packet) :
    (l.begin p).1.word0 b 0x4 = l.word0 b 0x4 ∧ (l.begin p).1.word0 b 0x8 = l.word0 b 0x8 := by
  rw [begin_frame]
  exact word0_cmd l b _

theorem time_begin (l : Live) (p : Packet) : (l.begin p).1.time = l.time := by
  rw [begin_frame]

/-- What a command leaves may be said of the state before it. -/
theorem runs_congr {c : Instr} {f g : Live → Ret → Live} (h : Runs c s p f)
    (hfg : f (s.live.begin p).1 (retOf s p) = g (s.live.begin p).1 (retOf s p)) : Runs c s p g := by
  unfold Runs at *
  rwa [← hfg]

/-- Settles O22: NOP and IDENT run on their rows, and the oldest reply leaves. -/
theorem nopIdentAndReplySend : Obligations.NopIdentAndReplySend := by
  refine ⟨fun s p h hdata => ?_, fun s p h hdata => ?_, fun s ws rest h => ?_, fun s h => ?_⟩
  · exact runs_of_takes_both rfl h (by decide) (Nat.zero_le _) (by rw [hdata]; exact Nat.le_refl 0)
  · refine runs_congr (runs_of_takes_both rfl h (by decide) (Nat.zero_le _) (by rw [hdata]; exact Nat.le_refl 0)) ?_
    obtain ⟨h4, h8⟩ := word0_begin s.live s.build p
    rw [word0_release, h4, h8, privOf_begin, time_begin]
  · show execMgmtReplySend s = _
    exact run_gives (by rw [h]; rfl)
  · show execMgmtReplySend s = _
    exact run_gives (by rw [h])

end

section

variable {s : State} {l : Live} {b : Build} {p : Packet} {a : Nat}

theorem aBits_one (ha : a = p.arg.toNat) (hlt : a < 65536) : p.aBits 16 9 = 0 ∧ p.aBits 0 16 = a := by
  subst ha
  simp only [Packet.aBits, Nat.shiftRight_eq_div_pow, Nat.div_eq_of_lt hlt, Nat.zero_mod, Nat.pow_zero, Nat.div_one,
    true_and]
  exact Nat.mod_eq_of_lt hlt

/-- A range of one register. -/
theorem regRange_one (ha : a = p.arg.toNat) (hlt : a < 65536) : regRange p = [a] := by
  obtain ⟨hn, hfirst⟩ := aBits_one ha hlt
  rw [regRange, hn, hfirst]
  rfl

theorem regPoison_none (h : l.mem.bad = []) (r : RegRow) (e : Nat) : l.regPoison b r e = false := by
  unfold Live.regPoison Live.bad
  split
  · rw [h, List.any_nil]
  · rfl

theorem rangePoison_none (h : l.mem.bad = []) (as : List Nat) : l.rangePoison b as = false := by
  rw [Live.rangePoison, List.any_eq_false]
  intro a _
  split
  · rw [regPoison_none h]
    decide
  · decide

/-- What REG_READ does once it has passed the shared checks. -/
def regReadRun (b : Build) (p : Packet) (l : Live) (r : Ret) : Live :=
  if (regRange p).any fun a => (findReg b a).isNone then l.reply b r eRange
  else if l.rangePoison b (regRange p) then (l.rangeMeet b (regRange p)).reply b r ePoison
  else (l.readAll b (regRange p)).1.reply b r 0 (regRange p).length (pack32 (l.readAll b (regRange p)).2)

theorem runs_regRead (h : Takes (.regRead p) s p 0x08 2) (hdata : p.data = []) :
    Runs (.regRead p) s p (regReadRun s.build p) :=
  runs_of_takes_both rfl h (by decide) (Nat.zero_le _) (by rw [hdata]; exact Nat.le_refl 0)

/-- What REG_WRITE does once it has passed the shared checks. -/
def regWriteRun (b : Build) (p : Packet) (l : Live) (r : Ret) : Live :=
  if (regRange p).any fun a => (findReg b a).isNone then l.reply b r eRange
  else if decide (0x10 ∈ regRange p) && (item32 p.data ((0x10 - p.aBits 0 16) / 4)).testBit 0 then
    ((l.writeAll b p.data ((regRange p).filter fun a => decide (a ≠ 0x10)) (p.aBits 0 16)).emit
      (.mgmtReply (replyPacket r.tag r.pchk 0 0 []))).softReset b
  else (l.writeAll b p.data (regRange p) (p.aBits 0 16)).reply b r 0

theorem runs_regWrite (h : Takes (.regWrite p) s p 0x09 2) (hdata : p.data.length = 1) (ha : a = p.arg.toNat)
    (hlt : a < 65536) : Runs (.regWrite p) s p (regWriteRun s.build p) := by
  have hgives : Gives (.regWrite p) s (s.live.command s.build (.regWrite p)
      (opRow 0x09 true true 2 ((p.aBits 16 9 + 2) / 2) ((p.aBits 16 9 + 2) / 2)) p (regWriteRun s.build p)) := rfl
  rw [(aBits_one ha hlt).1] at hgives
  exact runs_of_takes_both hgives h (by decide) (Nat.le_of_eq hdata.symm) (Nat.le_of_eq hdata)

/-- The value of a range of one register. -/
theorem item32_zero (ws : List DWord) : item32 ws 0 = fld (wordAt ws 0) 0 32 := rfl

theorem ret_of_starts {c : Instr} (h : Starts c s p) : (retOf s p).tag = p.tag ∧ (retOf s p).pchk = p.pchk := by
  obtain ⟨_, _, hplace⟩ := h
  rw [hplace]
  exact ⟨rfl, rfl⟩

/-- Settles O23: the range of one register is read or written as at the register port. -/
theorem regReadAndWriteOneRegister : Obligations.RegReadAndWriteOneRegister := by
  refine ⟨fun s p a h hdata ha hlt hnone => ?_, fun s p a h hdata ha hlt hsome hbad => ?_,
    fun s p a h hdata ha hlt hnone => ?_, fun s p a h hdata ha hlt hsome hne => ?_, fun s p h hdata ha hset => ?_⟩
  · refine runs_congr (runs_regRead h hdata) ?_
    simp [regReadRun, regRange_one ha hlt, hnone, eRange]
  · refine runs_congr (runs_regRead h hdata) ?_
    have hmem : (s.live.begin p).1.mem.bad = [] := by rw [begin_frame]; exact hbad
    simp [regReadRun, regRange_one ha hlt, Option.isNone_eq_false_iff.mpr hsome, rangePoison_none hmem, Live.readAll,
      pack32]
  · refine runs_congr (runs_regWrite h hdata ha hlt) ?_
    simp [regWriteRun, regRange_one ha hlt, hnone, eRange]
  · refine runs_congr (runs_regWrite h hdata ha hlt) ?_
    simp [regWriteRun, regRange_one ha hlt, Option.isNone_eq_false_iff.mpr hsome, Ne.symm hne, Live.writeAll,
      (aBits_one ha hlt).2, item32_zero]
  · have ha' : 0x10 = p.arg.toNat := by rw [ha]; rfl
    obtain ⟨htag, hchk⟩ := ret_of_starts h.1
    have hsome : (findReg s.build 0x10).isNone = false := by
      rw [findReg_form]
      cases s.build.form <;> decide +kernel
    have hbit : (fld (wordAt p.data 0) 0 32).testBit 0 = true := by
      rw [Nat.testBit_zero, fld, Nat.mod_mod_of_dvd _ (show 2 ∣ 2 ^ 32 by decide)]
      exact decide_eq_true hset
    refine runs_congr (runs_regWrite h hdata ha' (by decide)) ?_
    simp [regWriteRun, regRange_one ha' (by decide), hsome, Live.writeAll, (aBits_one ha' (by decide)).2, item32_zero,
      hbit, htag, hchk]

end

section

variable {s : State} {l : Live} {b : Build} {p : Packet} {i : Nat} {v : Word}

/-! ### CAL_WRITE -/

/-- The word that CAL_WRITE brings. -/
def calWord (p : Packet) : Word := BitVec.ofNat 32 (fld (wordAt p.data 0) 0 32)

/-- What CAL_WRITE does once it has passed the shared checks. -/
def calWriteRun (b : Build) (p : Packet) (l : Live) (r : Ret) : Live :=
  if !calUsable b (p.aBits 0 8) then l.reply b r eRange else (l.writeCalu b (p.aBits 0 8) (calWord p)).reply b r 0

theorem runs_calWrite (h : Takes (.calWrite p) s p 0x50 2) (hdata : p.data.length = 1) :
    Runs (.calWrite p) s p (calWriteRun s.build p) :=
  runs_of_takes_both rfl h (by decide) (Nat.le_of_eq hdata.symm) (Nat.le_of_eq hdata)

theorem aBits_low (hi : i = p.arg.toNat % 256) : p.aBits 0 8 = i := by
  rw [hi]
  rfl

/-- The correction of a word. -/
def calTaken (l : Live) (i : Nat) (v : Word) : Live :=
  { l with cal := { l.cal with calu := Tab.set l.cal.calu i 0 v } }

theorem writeCalu_plain (hu : calUsable b i = true) (h : (i ≠ 1 ∧ i ≠ 2) ∨ l.trimSrc b ≠ none ∨ l.clk.acqDone = true) :
    l.writeCalu b i v = calTaken l i v := by
  have hno : ¬((i = 1 ∨ i = 2) ∧ (calTaken l i v).trimSrc b = none ∧ (!(calTaken l i v).clk.acqDone) = true) := by
    rintro ⟨hi, hsrc, hdone⟩
    obtain ⟨h1, h2⟩ | h | h := h
    · exact hi.elim h1 h2
    · exact h hsrc
    · rw [show (calTaken l i v).clk.acqDone = true from h] at hdone
      exact absurd hdone (by decide)
  unfold Live.writeCalu
  rw [hu]
  exact if_neg hno

theorem writeCalu_baseline (hu : calUsable b i = true) (hi : i = 1 ∨ i = 2) (hsrc : l.trimSrc b = none)
    (hdone : l.clk.acqDone = false) : l.writeCalu b i v =
      { calTaken l i v with clk := { l.clk with code := (calTaken l i v).baseline b } } := by
  have hyes : (!(calTaken l i v).clk.acqDone) = true := by
    rw [show (calTaken l i v).clk.acqDone = false from hdone]
    rfl
  have hcond : (i = 1 ∨ i = 2) ∧ (calTaken l i v).trimSrc b = none ∧ (!(calTaken l i v).clk.acqDone) = true :=
    ⟨hi, hsrc, hyes⟩
  unfold Live.writeCalu
  rw [hu]
  exact if_pos hcond

theorem calUsable_baseline (b : Build) (hi : i = 1 ∨ i = 2) : calUsable b i = true := by
  simp [calUsable, hi]

/-! ### A packet that is cut off -/

/-- The packet that stands for one whose words did not come (R162). -/
def cutPacket (h : CutOff) : Packet := ⟨.mgmt, 0, 0, false, 0, h.tag, 1, h.pchk, 0, 0, []⟩

/-- The live part that has counted a time-out of words. -/
def cutCounted (l : Live) (b : Build) : Live := l.bump b F.CMD_STAT_WTMO_CNT

theorem mgmtRxReady_spec (h : l.mgmtRxReady b = true) :
    l.accepts b .mgmt = true ∧ l.cmd.mgmtBuf = none ∧ l.awake = true := by
  unfold Live.mgmtRxReady at h
  obtain ⟨haccepts, hbuf⟩ := Bool.and_eq_true_iff.mp h
  refine ⟨haccepts, Option.isNone_iff_eq_none.mp hbuf, ?_⟩
  unfold Live.accepts at haccepts
  obtain ⟨hopen, _⟩ := Bool.and_eq_true_iff.mp haccepts
  exact (Bool.and_eq_true_iff.mp hopen).1

theorem gives_wordTimeout {h : CutOff} (hrx : s.live.mgmtRxReady s.build = true)
    (hw : s.live.get s.build F.CMD_CFG_WTMO ≠ 0) : Gives (.wordTimeout h) s
      ((cutCounted s.live s.build).packet s.build (.nop (cutPacket h)) (cutPacket h) fun l r =>
        l.reply s.build r eLen) := by
  show execWordTimeout h s = _
  refine runAwake_gives (mgmtRxReady_spec hrx).2.2 (if_neg ?_)
  rintro (h0 | hno)
  · exact hw h0
  · rw [hrx] at hno
    exact absurd hno (by decide)

theorem cutCounted_frame (l : Live) (b : Build) :
    cutCounted l b = { l with rf := (cutCounted l b).rf } := rfl

theorem accepts_cutCounted (l : Live) (b : Build) : (cutCounted l b).accepts b .mgmt = l.accepts b .mgmt := rfl

theorem any_mgmt_waiting (hbuf : l.cmd.mgmtBuf = none) :
    (l.waiting.any fun x => decide (x.r.port = .mgmt)) = l.cmd.held.any fun x => decide (x.r.port = .mgmt) := by
  simp [Live.waiting, hbuf]

/-- The packet that stands for the cut-off one waits behind what is before it at MGMT. -/
theorem portWaits_cutCounted (hbuf : l.cmd.mgmtBuf = none) : (cutCounted l b).portWaits .mgmt (.nop p) =
    (l.portBusy .mgmt || l.cmd.held.any fun x => decide (x.r.port = .mgmt)) := by
  have hbuf' : (cutCounted l b).cmd.mgmtBuf = none := hbuf
  unfold Live.portWaits Live.blocked
  rw [any_mgmt_waiting hbuf', show needsBmon (.nop p) = false from rfl, Bool.and_false, Bool.or_false]
  rfl

/-- Begin of a command that did not wait. -/
theorem begin_arrives (h : l.cmd.starting = none) : l.begin p = l.arrive p := by
  unfold Live.begin
  rw [h]

theorem filter_mgmt_none (xs : List Busy) (h : (xs.all fun y => decide (y.r.port ≠ .mgmt)) = true) :
    xs.filter (fun y => decide (y.r.port = .mgmt)) = [] := by
  rw [List.filter_eq_nil_iff]
  intro y hy
  have := List.all_eq_true.mp h y hy
  simpa using this

/-- A packet that waits at MGMT is the last of those that wait there. -/
theorem waiting_park_mgmt {c : Instr} (hbuf : l.cmd.mgmtBuf = none) (hp : p.port = .mgmt) :
    (l.park c p).waiting.filter (fun y => decide (y.r.port = .mgmt)) =
      l.waiting.filter (fun y => decide (y.r.port = .mgmt)) ++ [⟨(l.arrive p).2, c⟩] := by
  have hport : (l.arrive p).2.port = .mgmt := hp
  unfold Live.park
  by_cases hall : (l.waiting.all fun y => decide (y.r.port ≠ .mgmt)) = true
  · rw [if_pos ⟨hp, hall⟩, filter_mgmt_none _ hall]
    have hheld : (l.cmd.held.all fun y => decide (y.r.port ≠ .mgmt)) = true := by
      simpa [Live.waiting, hbuf] using hall
    have hrest : l.cmd.held.filter (fun y => decide (y.r.port = .mgmt)) = [] := filter_mgmt_none _ hheld
    simpa [Live.waiting, Live.arrive, hp] using hrest
  · rw [if_neg fun hboth => hall hboth.2]
    simp [Live.waiting, Live.arrive, hp, hbuf]

theorem park_keeps {c : Instr} (l : Live) (p : Packet) :
    (l.park c p).cmd.mgmtReplies = l.cmd.mgmtReplies ∧ (l.park c p).rf = l.rf := by
  unfold Live.park
  split <;> exact ⟨rfl, rfl⟩

theorem trim_begin (l : Live) (b : Build) (p : Packet) : (l.begin p).1.trimSrc b = l.trimSrc b ∧
    (l.begin p).1.clk = l.clk ∧ (l.begin p).1.cal = l.cal := by
  rw [begin_frame]
  exact ⟨rfl, rfl, rfl⟩

/-- The baseline looks at the calibration words and the intake only. -/
theorem baseline_begin (l : Live) (b : Build) (p : Packet) (c : Cal) :
    ({ (l.begin p).1 with cal := c } : Live).baseline b = ({ l with cal := c } : Live).baseline b := by
  rw [begin_frame]
  rfl

/-- Settles O24: the branches of CAL_WRITE, and the cut-off packet that is answered, waits or does nothing. -/
theorem calWriteAndWordTimeout : Obligations.CalWriteAndWordTimeout := by
  refine ⟨fun s p i h hdata hi hu hplain => ?_, fun s p i c h hdata hi hbase hsrc hdone hc => ?_,
    fun s p h hdata hu => ?_, fun s h hrx hrun hbusy hheld hstart hw => ?_,
    fun s h hrx hbefore hstart hw => ?_, fun s h hno => ?_⟩
  · refine runs_congr (runs_calWrite h hdata) ?_
    obtain ⟨hsrc, hclk, _⟩ := trim_begin s.live s.build p
    rw [← hsrc, ← hclk] at hplain
    unfold calWriteRun
    rw [aBits_low hi, hu, writeCalu_plain hu hplain]
    rfl
  · refine runs_congr (runs_calWrite h hdata) ?_
    obtain ⟨hsrc', hclk, hcal⟩ := trim_begin s.live s.build p
    rw [← hsrc'] at hsrc
    rw [← hclk] at hdone
    rw [← hcal] at hc
    have hu := calUsable_baseline s.build hbase
    have hbaseline : (calTaken (s.live.begin p).1 i (calWord p)).baseline s.build =
        ({ s.live with cal := c } : Live).baseline s.build := by
      rw [← baseline_begin s.live s.build p c, hc]
      rfl
    unfold calWriteRun
    rw [aBits_low hi, hu, writeCalu_baseline hu hbase hsrc hdone, hbaseline, hc]
    rfl
  · refine runs_congr (runs_calWrite h hdata) ?_
    unfold calWriteRun
    rw [aBits_low rfl, hu]
    rfl
  · obtain ⟨haccepts, hbuf, _⟩ := mgmtRxReady_spec hrx
    have hfree : (s.live.cmd.held.any fun x => decide (x.r.port = .mgmt)) = false := by simpa using hheld
    have hgoes : (cutCounted s.live s.build).portWaits .mgmt (.nop (cutPacket h)) = false := by
      rw [portWaits_cutCounted hbuf, hbusy, hfree]
      rfl
    have htaken : (cutCounted s.live s.build).taken s.build (.nop (cutPacket h)) (cutPacket h) = true := by
      unfold Live.taken
      rw [show (cutPacket h).port = .mgmt from rfl, hgoes, accepts_cutCounted, haccepts]
      exact Bool.or_true _
    have hwake : (cutCounted s.live s.build).wakeIdle s.build = cutCounted s.live s.build :=
      Live.wakeIdle_running (by rw [show (cutCounted s.live s.build).pwr.st = s.live.pwr.st from rfl, hrun]; decide)
    have hgives := gives_wordTimeout (h := h) hrx hw
    rw [Live.packet_starts _ _ _ htaken, hwake,
      begin_arrives (l := cutCounted s.live s.build) hstart, Live.reply_mgmt rfl] at hgives
    exact hgives
  · obtain ⟨haccepts, hbuf, _⟩ := mgmtRxReady_spec hrx
    have hwaits : (cutCounted s.live s.build).portWaits .mgmt (.nop (cutPacket h)) = true := by
      rw [portWaits_cutCounted hbuf]
      obtain hbusy | ⟨x, hx, hport⟩ := hbefore
      · rw [hbusy]
        rfl
      · rw [List.any_eq_true.mpr ⟨x, hx, decide_eq_true hport⟩, Bool.or_true]
    have hgives := gives_wordTimeout (h := h) hrx hw
    rw [Live.packet_waits (l := cutCounted s.live s.build) _ _ _ hstart
      ((accepts_cutCounted _ _).trans haccepts) rfl hwaits] at hgives
    obtain ⟨hreplies, hrf⟩ := park_keeps (c := .nop (cutPacket h)) (cutCounted s.live s.build) (cutPacket h)
    exact ⟨_, hgives, hreplies, hrf, _, cutPacket h, waiting_park_mgmt hbuf rfl, rfl, rfl, rfl, (by decide : 0 ≠ 1)⟩
  · show execWordTimeout h s = _
    cases hawake : s.live.awake
    · exact State.runAwake_asleep hawake _
    · refine runAwake_gives hawake (if_pos ?_)
      exact hno.imp id fun hclosed => by rw [hclosed]; rfl

end

section

variable {s : State} {l m k : Live} {b : Build} {p : Packet} {n per w : Nat} {t : Word}

/-! ### What a reply leaves -/

/-- `m` differs from `l` at most where replies go: commands in execution and unanswered, the numbers of records, what
was created, and the links. -/
def ReplyFrame (l m : Live) : Prop := m = { l with
  cmd := { l.cmd with busy := m.cmd.busy, order := m.cmd.order, mgmtReplies := m.cmd.mgmtReplies },
  seqs := m.seqs, skips := m.skips, created := m.created, links := m.links }

theorem ReplyFrame.refl (l : Live) : ReplyFrame l l := rfl

theorem ReplyFrame.trans (h : ReplyFrame l m) (h' : ReplyFrame m k) : ReplyFrame l k := by
  unfold ReplyFrame at *
  rw [h', h]

theorem replyFrame_number (l : Live) (x : Rec) : ReplyFrame l (l.number x).1 := by
  unfold ReplyFrame
  rw [number_frame]

theorem replyFrame_create (l : Live) (b : Build) (x : Rec) : ReplyFrame l (l.create b x) := by
  unfold ReplyFrame
  rw [create_frame]

theorem replyFrame_toLinkReply (l : Live) (b : Build) (n : Nat) (x : Rec) : ReplyFrame l (l.toLinkReply b n x) := by
  unfold Live.toLinkReply
  dsimp only
  split
  · exact (replyFrame_number l _).trans rfl
  · rfl

theorem replyFrame_reply (l : Live) (b : Build) (r : Ret) (status arg : Nat) (ws : List DWord) :
    ReplyFrame l (l.reply b r status arg ws) := by
  have hended : ReplyFrame l (ended l r) := rfl
  cases hp : r.port with
  | mgmt =>
    rw [Live.reply_mgmt hp]
    rfl
  | fab =>
    rw [reply_fab hp]
    exact hended.trans (replyFrame_create _ _ _)
  | link n =>
    rw [reply_link hp]
    refine hended.trans ?_
    unfold Live.answerLink
    dsimp only
    refine ReplyFrame.trans (m := { ended l r with cmd := { (ended l r).cmd with order := _ } }) rfl ?_
    exact foldl_rel ReplyFrame.refl ReplyFrame.trans _ (fun l y => replyFrame_toLinkReply l b n.toNat y) _ _

/-! ### PULSE_ARM -/

/-- The count, the period and the width that PULSE_ARM brings. -/
def pulseT (p : Packet) : Word := BitVec.ofNat 32 (fld (wordAt p.data 0) 0 32)
def pulsePer (p : Packet) : Nat := fld (wordAt p.data 0) 32 32
def pulseW (p : Packet) : Nat := fld (wordAt p.data 1) 0 24

/-- The output holds a comparator, or will at its fall. -/
def pulseMine (l : Live) (n : Nat) : Bool :=
  l.holdsCmp (.pulse n) || (match (l.pulse n).deferred with
    | some d => decide (d.2.2 ≠ 0)
    | none => false)

/-- The checks of PULSE_ARM, in their order. -/
def pulseErr (b : Build) (l : Live) (n : Nat) (t : Word) (per w : Nat) : Option Nat :=
  firstErr [
    (!l.pulseOn b, eGated),
    (decide (b.pulses ≤ n) || (!decide (w = 0) && pulseBad per w), eRange),
    (!decide (w = 0) && !l.timed, eState),
    (!decide (w = 0) && !l.inWindow t, eTime),
    (!decide (w = 0) && !pulseMine l n && !l.cmpFree b, eSlot)]

/-- What PULSE_ARM does to its output. -/
def pulseSet (l : Live) (n : Nat) (t : Word) (per w : Nat) : Live :=
  if (l.pulse n).level then l.updPulse n fun x => { x with deferred := some (t, per, w) }
  else if decide (w = 0) then l.pulseDisarm n
  else l.pulseArm n t per w

/-- What PULSE_ARM does once it has passed the shared checks. -/
def pulseRun (b : Build) (n : Nat) (t : Word) (per w : Nat) (l : Live) (r : Ret) : Live :=
  match pulseErr b l n t per w with
  | some e => l.reply b r e
  | none => (pulseSet l n t per w).reply b r 0

theorem aBits_three (hn : n = p.arg.toNat % 8) : p.aBits 0 3 = n := by
  rw [hn]
  rfl

theorem runs_pulseArm (h : Takes (.pulseArm p) s p 0x70 2) (hdata : p.data.length = 2) (hn : n = p.arg.toNat % 8)
    (ht : t = pulseT p) (hper : per = pulsePer p) (hw : w = pulseW p) :
    Runs (.pulseArm p) s p (pulseRun s.build n t per w) := by
  have hgives : Gives (.pulseArm p) s (s.live.command s.build (.pulseArm p) (opRow 0x70 true true 2 2 2) p
      (pulseRun s.build (p.aBits 0 3) (pulseT p) (pulsePer p) (pulseW p))) := rfl
  rw [aBits_three hn, ← ht, ← hper, ← hw] at hgives
  exact runs_of_takes_both hgives h (by decide) (Nat.le_of_eq hdata.symm) (Nat.le_of_eq hdata)

theorem pulseErr_begin (l : Live) (b : Build) (p : Packet) : pulseErr b (l.begin p).1 n t per w = pulseErr b l n t per w := by
  rw [begin_frame]
  rfl

/-- The values that R129 allows. -/
theorem pulseBad_false (hw : 8 ≤ w) (hlt : w < 2 ^ 24) (hper : per = 0 ∨ (1000 ≤ per ∧ w + 8 ≤ per)) :
    pulseBad per w = false := by
  unfold pulseBad
  rw [decide_eq_false_iff_not]
  omega

theorem pulseErr_range (hon : l.pulseOn b = true) (hlt : n < b.pulses) (hw : w ≠ 0) (hbad : pulseBad per w = true) :
    pulseErr b l n t per w = some eRange := by
  simp [pulseErr, firstErr, hon, Nat.not_le.mpr hlt, hw, hbad]

theorem pulseErr_state (hon : l.pulseOn b = true) (hlt : n < b.pulses) (hw : w ≠ 0) (hok : pulseBad per w = false)
    (htimed : l.timed = false) : pulseErr b l n t per w = some eState := by
  simp [pulseErr, firstErr, hon, Nat.not_le.mpr hlt, hw, hok, htimed]

theorem pulseErr_time (hon : l.pulseOn b = true) (hlt : n < b.pulses) (hw : w ≠ 0) (hok : pulseBad per w = false)
    (htimed : l.timed = true) (hwin : l.inWindow t = false) : pulseErr b l n t per w = some eTime := by
  simp [pulseErr, firstErr, hon, Nat.not_le.mpr hlt, hw, hok, htimed, hwin]

theorem pulseErr_slot (hon : l.pulseOn b = true) (hlt : n < b.pulses) (hw : w ≠ 0) (hok : pulseBad per w = false)
    (htimed : l.timed = true) (hwin : l.inWindow t = true) (hmine : pulseMine l n = false)
    (hfree : l.cmpFree b = false) : pulseErr b l n t per w = some eSlot := by
  simp [pulseErr, firstErr, hon, Nat.not_le.mpr hlt, hw, hok, htimed, hwin, hmine, hfree]

theorem pulseErr_none (hon : l.pulseOn b = true) (hlt : n < b.pulses) (hw : w ≠ 0) (hok : pulseBad per w = false)
    (htimed : l.timed = true) (hwin : l.inWindow t = true) (hslot : l.cmpFree b = true ∨ pulseMine l n = true) :
    pulseErr b l n t per w = none := by
  simp [pulseErr, firstErr, hon, Nat.not_le.mpr hlt, hw, hok, htimed, hwin]
  exact fun hmine => hslot.resolve_right (by simp [hmine])

theorem pulseErr_off (hon : l.pulseOn b = true) (hlt : n < b.pulses) : pulseErr b l n t per 0 = none := by
  simp [pulseErr, firstErr, hon, Nat.not_le.mpr hlt]

/-- With nothing deferred, the output holds a comparator only by itself. -/
theorem pulseMine_of_no_deferred (h : (l.pulse n).deferred = none) : pulseMine l n = l.holdsCmp (.pulse n) := by
  simp [pulseMine, h]

theorem pulseRun_error {e : Nat} {r : Ret} (h : pulseErr b l n t per w = some e) :
    pulseRun b n t per w l r = l.reply b r e := by
  unfold pulseRun
  rw [h]

theorem pulseRun_sets {r : Ret} (h : pulseErr b l n t per w = none) :
    pulseRun b n t per w l r = (pulseSet l n t per w).reply b r 0 := by
  unfold pulseRun
  rw [h]

theorem inWindow_eq (l : Live) (t : Word) :
    l.inWindow t = decide (1000000 ≤ (t - l.ft).toNat ∧ (t - l.ft).toNat ≤ 2000000000) := rfl

theorem pulse_begin (l : Live) (p : Packet) (n : Nat) : (l.begin p).1.pulse n = l.pulse n := by
  rw [begin_frame]
  rfl

/-- An output that is armed: its values, its comparator, and that it is. -/
theorem pulseArm_spec (hw : Tab.wf l.pulses = true) (n : Nat) (t : Word) (per w : Nat) :
    (l.pulseArm n t per w).pulse n =
      { l.pulse n with t := t, per := per, width := w, deferred := none, lateRise := false } ∧
    (l.pulseArm n t per w).time.cmps =
      (l.time.cmps.filter fun c => decide (c.owner ≠ .pulse n)) ++ [⟨.pulse n, t, per⟩] ∧
    (l.pulseArm n t per w).holdsCmp (.pulse n) = true := by
  have htab : (l.pulseDisarm n).pulses =
      Tab.upd l.pulses n pulse0 fun p => { p with width := 0, deferred := none, lateRise := false } := rfl
  have htab' : (l.pulseArm n t per w).pulses =
      Tab.upd (l.pulseDisarm n).pulses n pulse0 fun p => { p with t := t, per := per, width := w } := rfl
  have hdis : Tab.wf (l.pulseDisarm n).pulses = true := by
    rw [htab]
    exact Tab.wf_upd hw _ _ _
  have hcmps : (l.pulseArm n t per w).time.cmps =
      (l.time.cmps.filter fun c => decide (c.owner ≠ .pulse n)) ++ [⟨.pulse n, t, per⟩] := by
    simp [Live.pulseArm, Live.pulseDisarm, Live.armCmp, Live.updPulse, Live.dropCmp]
  refine ⟨?_, hcmps, ?_⟩
  · unfold Live.pulse
    rw [htab', Tab.getD_upd_same hdis, htab, Tab.getD_upd_same hw]
  · unfold Live.holdsCmp
    rw [hcmps]
    simp

theorem pulse_reply (l : Live) (b : Build) (r : Ret) (n : Nat) :
    (l.reply b r 0).pulse n = l.pulse n ∧ (l.reply b r 0).time = l.time ∧
      (l.reply b r 0).pulseArmed n = l.pulseArmed n := by
  have h := replyFrame_reply l b r 0 0 []
  unfold ReplyFrame at h
  rw [h]
  exact ⟨rfl, rfl, rfl⟩

/-- Settles O25: the checks in their order, then the three ways in which the output takes the command. -/
theorem pulseArmChecksThenArms : Obligations.PulseArmChecksThenArms := by
  intro s p n per w t h hdata hon hn hlt ht hper hw hdef
  have hruns := runs_pulseArm h hdata hn ht hper hw
  have hw24 : w < 2 ^ 24 := hw ▸ Nat.mod_lt _ (by decide)
  have herr := pulseErr_begin (n := n) (t := t) (per := per) (w := w) s.live s.build p
  have hmine := pulseMine_of_no_deferred hdef
  refine ⟨fun hbad => ?_, fun hw8 hperOk => ?_, fun hw0 hlow => ?_⟩
  · have hpb : pulseBad per w = true := by
      unfold pulseBad
      rw [decide_eq_true_iff]
      omega
    exact runs_congr hruns (pulseRun_error (herr.trans (pulseErr_range hon hlt (by omega) hpb)))
  · have hne : w ≠ 0 := by omega
    have hok := pulseBad_false hw8 hw24 hperOk
    refine ⟨fun hstate => ?_, fun hstate => ?_⟩
    · have htimed : s.live.timed = false := by
        rcases hstate with hst | hst <;> simp [Live.timed, hst]
      exact runs_congr hruns (pulseRun_error (herr.trans (pulseErr_state hon hlt hne hok htimed)))
    · have htimed : s.live.timed = true := decide_eq_true hstate
      refine ⟨fun hout => ?_, fun hlo hhi => ⟨fun hfree hnone => ?_, fun hslot => ?_⟩⟩
      · have hwin : s.live.inWindow t = false := by
          rw [inWindow_eq, decide_eq_false_iff_not]
          omega
        exact runs_congr hruns (pulseRun_error (herr.trans (pulseErr_time hon hlt hne hok htimed hwin)))
      · exact runs_congr hruns (pulseRun_error (herr.trans
          (pulseErr_slot hon hlt hne hok htimed (decide_eq_true ⟨hlo, hhi⟩) (hmine.trans hnone) hfree)))
      · have hnone := herr.trans (pulseErr_none hon hlt hne hok htimed (decide_eq_true ⟨hlo, hhi⟩)
          (hslot.imp id fun hholds => hmine.trans hholds))
        refine ⟨fun hhigh => ?_, fun hlow hfired hwf => ?_⟩
        · refine runs_congr hruns ((pulseRun_sets hnone).trans ?_)
          rw [pulseSet, pulse_begin, hhigh]
          rfl
        · have hwf' : Tab.wf (s.live.begin p).1.pulses = true := by
            rw [begin_frame]
            exact hwf
          have hset := pulseRun_sets (r := retOf s p) hnone
          rw [pulseSet, pulse_begin, hlow, if_neg (by decide), decide_eq_false hne, if_neg (by decide)] at hset
          obtain ⟨hpulse, hcmps, hholds⟩ := pulseArm_spec hwf' n t per w
          obtain ⟨hpulse', htime, harmed⟩ := pulse_reply ((s.live.begin p).1.pulseArm n t per w) s.build (retOf s p) n
          refine yields_of_gives (runs_congr (g := fun _ _ => _) hruns hset) ⟨?_, ?_, ?_⟩
          · rw [hpulse', hpulse, pulse_begin, ← hdef]
          · rw [htime, hcmps, begin_frame]
          · rw [harmed, Live.pulseArmed, hholds, Bool.true_or, Bool.true_or]
  · subst hw0
    refine runs_congr hruns ((pulseRun_sets (herr.trans (pulseErr_off hon hlt))).trans ?_)
    rw [pulseSet, pulse_begin, hlow]
    rfl

end

section

variable {s : State} {l m k : Live} {b : Build} {n : BitVec 5} {r : Rec} {i c : Nat}

/-! ### The routing word -/

theorem routing_toNat (kind priv : Nat) (dst : BitVec 18) (dlan : Bool) (ret : Word) (hk : kind < 256) (hp : priv < 4) :
    (routing kind priv dst dlan ret).toNat =
      kind + priv * 256 + dst.toNat * 1024 + b2n dlan * 268435456 + ret.toNat * 4294967296 := by
  have hd : b2n dlan < 2 := by cases dlan <;> decide
  have hw := packW_five 0 8 10 28 32 kind priv dst.toNat (b2n dlan) ret.toNat
  rw [Nat.pow_zero, Nat.mul_one] at hw
  refine hw.trans (Nat.mod_eq_of_lt ?_)
  have := dst.isLt
  have := ret.isLt
  omega

/-- The destination and the flag that a routing word carries. -/
theorem routing_fields (kind priv : Nat) (dst : BitVec 18) (dlan : Bool) (ret : Word) (hk : kind < 256) (hp : priv < 4) :
    fld (routing kind priv dst dlan ret) 10 18 = dst.toNat ∧ bit (routing kind priv dst dlan ret) 28 = dlan := by
  have hd : b2n dlan < 2 := by cases dlan <;> decide
  have hw := routing_toNat kind priv dst dlan ret hk hp
  have hdst := dst.isLt
  have hret := ret.isLt
  refine ⟨?_, ?_⟩
  · simp only [fld, Nat.shiftRight_eq_div_pow, hw]
    omega
  · rw [bit, Nat.testBit_eq_decide_div_mod_eq, hw]
    have hbit : (kind + priv * 256 + dst.toNat * 1024 + b2n dlan * 268435456 + ret.toNat * 4294967296) / 2 ^ 28 % 2 =
        b2n dlan := by omega
    rw [hbit]
    cases dlan <;> rfl

theorem noteKey_frame (l : Live) (k c : Nat) : l.noteKey k c = { l with routes := (l.noteKey k c).routes } := by
  unfold Live.noteKey
  split
  · split <;> rfl
  · rfl

theorem noteKey_keeps (l : Live) (k c : Nat) : (l.noteKey k c).links = l.links ∧ (l.noteKey k c).cmd = l.cmd ∧
    (l.noteKey k c).rf = l.rf := by
  rw [noteKey_frame]
  exact ⟨rfl, rfl, rfl⟩

/-- A unit to a buoy leaves by the link that its selection picks. -/
theorem toBuoy_picked {loc c : Nat} {x : Rec} (hpick : l.pickLink (l.linksOf b 2) loc = some c) :
    l.toBuoy b loc x = (l.noteKey (buoyKey x loc) c).updLink c fun k =>
      { k with ctl := k.ctl ++ [⟨x.words, some x, none, loc, l.ft, none⟩] } := by
  unfold Live.toBuoy Live.queueBuoy
  dsimp only
  rw [hpick]

/-! ### A command that goes on -/

/-- The command packet in record `r` of link `n`. -/
def bandPacket (n : BitVec 5) (r : Rec) : Packet :=
  let w := wordAt r.body 0
  let h := wordAt r.body 1
  ⟨.link n, BitVec.ofNat 2 (fld w 8 2), BitVec.ofNat 18 (fld w 10 18), bit w 28, BitVec.ofNat 32 (fld w 32 32),
    BitVec.ofNat 8 (fld h 8 8), BitVec.ofNat 12 (fld h 16 12), bit h 28, 0, 0, []⟩

/-- The place that the command takes on its link. -/
def bandRet (l : Live) (n : BitVec 5) (r : Rec) : Ret := (l.arrive (bandPacket n r)).2

/-- The forward entry of the command. -/
def bandEntry (l : Live) (n : BitVec 5) (r : Rec) (i : Nat) : Fwd :=
  ⟨i, (bandPacket n r).dst, (bandPacket n r).dlan, (bandPacket n r).ret, (bandPacket n r).tag, (bandPacket n r).pchk,
    some (bandRet l n r), none⟩

/-- The live part in which the command has its place and forward entry `i`. -/
def bandTaken (l : Live) (n : BitVec 5) (r : Rec) (i : Nat) : Live :=
  { l with cmd := { l.cmd with
    nextNo := l.cmd.nextNo + 1, order := l.cmd.order ++ [⟨bandRet l n r, none⟩],
    late := l.cmd.late.filter fun e => decide (e.idx ≠ i), fwd := l.cmd.fwd ++ [bandEntry l n r i] } }

theorem fwdFree_lt (h : l.fwdFree = some i) : i < 64 := by
  have hmem : i ∈ (List.range 64).filter fun i => !l.fwdUsed i := by
    unfold Live.fwdFree at h
    dsimp only at h
    split at h
    · next j hj =>
      rw [← Option.some.inj h]
      exact List.mem_of_find?_eq_some hj
    · exact List.mem_of_mem_head? h
  exact List.mem_range.mp (List.mem_filter.mp hmem).1

/-- The conditions under which a lantern takes a record as a command for another block. -/
structure BandAt (s : State) (n : BitVec 5) (r : Rec) : Prop where
  awake : s.live.awake = true
  run : s.live.pwr.st = .run
  lantern : s.build.form = .lantern
  up : s.live.isUp n.toNat = true
  ty : r.ty = 0x0F
  len : 2 ≤ r.body.length
  kind : fld (wordAt r.body 0) 0 8 = 1
  dlan : bit (wordAt r.body 0) 28 = false

theorem gives_forward (h : BandAt s n r) (hi : s.live.fwdFree = some i) : Gives (.inbandCmdForward n r) s
    ((bandTaken s.live n r i).sendOn s.build n.toNat ((bandTaken s.live n r i).rerouted s.build n.toNat i r)) := by
  obtain ⟨ha, hrun, hf, hup, hty, hlen, hkind, hdlan⟩ := h
  have hbuoy : s.build.buoy = false := by simp [Build.buoy, hf]
  have hwake : s.live.wakeIdle s.build = s.live := Live.wakeIdle_running (by rw [hrun]; decide)
  have hfree : (s.live.arrive (bandPacket n r)).1.fwdFree = some i := hi
  show execInbandCmdForward n r s = _
  refine runAwake_gives ha ((if_neg ?_).trans ?_)
  · simp [hbuoy, hup, hty, hkind, hdlan, Nat.not_lt.mpr hlen]
  · dsimp only
    rw [hwake]
    split
    · next hnone => exact absurd (hnone.symm.trans hfree) (by simp)
    · next j hj =>
      have hj' : j = i := Option.some.inj (hj.symm.trans hfree)
      subst hj'
      rfl

/-- What goes on to the buoy: the command's words behind their new routing word. -/
def bandRec (l : Live) (b : Build) (n : BitVec 5) (r : Rec) (i : Nat) : Rec :=
  { r with body := packW [(0, 1), (8, l.linkPriv b n.toNat (fld (wordAt r.body 0) 8 2)),
    (10, (BitVec.ofNat 18 (fld (wordAt r.body 0) 10 18)).toNat), (28, 0), (32, i)] :: r.body.drop 1 }

theorem rerouted_eq (hi : i < 64) (hdlan : bit (wordAt r.body 0) 28 = false) :
    l.rerouted b n.toNat i r = bandRec l b n r i := by
  have hidx : (BitVec.ofNat 32 i).toNat = i := Nat.mod_eq_of_lt (by omega)
  unfold Live.rerouted bandRec routing
  dsimp only
  rw [hidx, hdlan]
  rfl

theorem linkPriv_lt (l : Live) (b : Build) (n v : Nat) : l.linkPriv b n v < 4 := by
  unfold Live.linkPriv
  split <;> omega

/-- The block that a routed record is for. -/
def bandDst (r : Rec) : BitVec 18 := BitVec.ofNat 18 (fld (wordAt r.body 0) 10 18)

/-- A record to a buoy of this lantern is a unit to that buoy. -/
theorem sendOn_rerouted (hdlan : bit (wordAt r.body 0) 28 = false) (hours : (bandDst r).toNat / 256 = l.trunk b) :
    l.sendOn b c (l.rerouted b n.toNat i r) = l.toBuoy b ((bandDst r).toNat % 256) (l.rerouted b n.toNat i r) := by
  have hw : wordAt (l.rerouted b n.toNat i r).body 0 = routing 1 (l.linkPriv b n.toNat (fld (wordAt r.body 0) 8 2))
      (bandDst r) (bit (wordAt r.body 0) 28) (BitVec.ofNat 32 i) := rfl
  obtain ⟨hdst, hbit⟩ := routing_fields 1 (l.linkPriv b n.toNat (fld (wordAt r.body 0) 8 2)) (bandDst r) false
    (BitVec.ofNat 32 i) (by decide) (linkPriv_lt l b _ _)
  rw [hdlan] at hw
  unfold Live.sendOn
  dsimp only
  rw [hw, hdst, hbit]
  exact if_pos ⟨hours, rfl⟩

/-- The live part once the command has gone on to the buoy by link `c`. -/
def bandSent (l : Live) (b : Build) (n : BitVec 5) (r : Rec) (i c : Nat) : Live :=
  ((bandTaken l n r i).noteKey (buoyKey (bandRec l b n r i) ((bandDst r).toNat % 256)) c).updLink c fun k =>
    { k with ctl := k.ctl ++ [⟨(bandRec l b n r i).words, some (bandRec l b n r i), none, (bandDst r).toNat % 256,
      l.ft, none⟩] }

theorem gives_bandSent (h : BandAt s n r) (hi : s.live.fwdFree = some i)
    (hours : (bandDst r).toNat / 256 = s.live.boot.st.idTrunk.toNat)
    (hpick : s.live.pickLink (s.live.linksOf s.build 2) ((bandDst r).toNat % 256) = some c) :
    Gives (.inbandCmdForward n r) s (bandSent s.live s.build n r i c) := by
  have hf := h.lantern
  have htrunk : (bandTaken s.live n r i).trunk s.build = s.live.boot.st.idTrunk.toNat := by
    simp [Live.trunk, Build.buoy, hf, bandTaken]
  have hpick' : (bandTaken s.live n r i).pickLink ((bandTaken s.live n r i).linksOf s.build 2)
      ((bandDst r).toNat % 256) = some c := hpick
  have hgives := gives_forward h hi
  rw [sendOn_rerouted h.dlan (hours.trans htrunk.symm), toBuoy_picked hpick', rerouted_eq (fwdFree_lt hi) h.dlan] at hgives
  exact hgives

theorem bandSent_links (hwf : Tab.wf l.links = true) :
    ((bandSent l b n r i c).link c).ctl = (l.link c).ctl ++ [⟨(bandRec l b n r i).words, some (bandRec l b n r i), none,
      (bandDst r).toNat % 256, l.ft, none⟩] ∧
    ∀ k, k ≠ c → (bandSent l b n r i c).link k = l.link k := by
  obtain ⟨hlinks, _⟩ := noteKey_keeps (bandTaken l n r i) (buoyKey (bandRec l b n r i) ((bandDst r).toNat % 256)) c
  have hlinks' : ∀ k, ((bandTaken l n r i).noteKey (buoyKey (bandRec l b n r i) ((bandDst r).toNat % 256)) c).link k =
      l.link k := fun k => by
    unfold Live.link
    rw [hlinks]
    rfl
  have hwf' := hlinks.symm ▸ hwf
  refine ⟨?_, fun k hk => ?_⟩
  · exact (congrArg Link.ctl (Live.link_updLink_same hwf' _)).trans (congrArg (fun x : Link => x.ctl ++ _) (hlinks' c))
  · exact (Live.link_updLink_ne hwf' (Ne.symm hk) _).trans (hlinks' k)

/-- The conditions under which a lantern takes a record as a reply. -/
structure AnswerAt (s : State) (n : BitVec 5) (r : Rec) : Prop where
  awake : s.live.awake = true
  lantern : s.build.form = .lantern
  up : s.live.isUp n.toNat = true
  ty : r.ty = 0x0F
  len : 2 ≤ r.body.length
  kind : fld (wordAt r.body 0) 0 8 = 2

/-- The forward entry that a reply ends, and one whose time-out it comes after. -/
def answered (l : Live) (r : Rec) : Option Fwd :=
  l.entryOf (BitVec.ofNat 32 (fld (wordAt r.body 0) 32 32)) (bandDst r) (bit (wordAt r.body 0) 28)

def tooLate (l : Live) (r : Rec) : Option Fwd :=
  l.lateFor (BitVec.ofNat 32 (fld (wordAt r.body 0) 32 32)) (bandDst r) (bit (wordAt r.body 0) 28)

/-- What a reply does that ends forward entry `e`. -/
def returned (l : Live) (b : Build) (r : Rec) (e : Fwd) : Live :=
  if r.poison ∧ e.origin.isNone then l else
  match e.origin, e.own with
  | some o, _ =>
    match o.port with
    | .link m => (l.dropFwd e).answerLink b m o.seqNo
        { r with body := routing 2 0 (bandDst r) e.dlan e.ret :: r.body.drop 1 }
    | _ => l.dropFwd e
  | none, some u => (l.dropFwd e).ownAnswer b u ((bandDst r).toNat % 256) (fld (wordAt r.body 1) 0 8) false
  | none, none => l.dropFwd e

theorem gives_answer (h : AnswerAt s n r) : Gives (.inbandReplyReturn n r) s
    (match tooLate s.live r, answered s.live r with
      | some e, _ => (s.live.dropLate e.idx).bump s.build F.CMD_STAT_LATE_RSP
      | none, none => s.live.bump s.build F.CMD_STAT_LATE_RSP
      | none, some e => returned s.live s.build r e) := by
  obtain ⟨ha, hf, hup, hty, hlen, hkind⟩ := h
  have hbuoy : s.build.buoy = false := by simp [Build.buoy, hf]
  show execInbandReplyReturn n r s = _
  refine runAwake_gives ha ((if_neg ?_).trans ?_)
  · simp [hbuoy, hup, hty, hkind, Nat.not_lt.mpr hlen]
  · rfl

/-- The reply of another block, to the only command of link `m`, leaves by that link as it came. -/
theorem answerLink_passed {m : BitVec 5} {o : Ret} {x : Rec} (hport : o.port = .link m) (horder : l.cmd.order = [⟨o, none⟩])
    (hsrc : x.src ≠ l.src b) : l.answerLink b m o.seqNo x = (unordered l).toLink m.toNat x := by
  unfold Live.answerLink
  dsimp only
  rw [horder]
  simp only [List.map_cons, List.map_nil, if_true, flushOrder, hport, List.foldl_cons, List.foldl_nil]
  exact if_neg hsrc

theorem returned_passed {e : Fwd} {o : Ret} {m : BitVec 5} (ho : e.origin = some o) (hport : o.port = .link m)
    (horder : l.cmd.order = [⟨o, none⟩]) (hsrc : r.src ≠ l.src b) : returned l b r e =
      (unordered (l.dropFwd e)).toLink m.toNat
        { r with body := routing 2 0 (bandDst r) e.dlan e.ret :: r.body.drop 1 } := by
  unfold returned
  rw [if_neg (by simp [ho]), ho]
  dsimp only
  rw [hport]
  exact answerLink_passed (l := l.dropFwd e) hport horder hsrc

/-- Settles O26: where the command goes, what its reply finds, and when it is given up. -/
theorem inBandCommandsAreForwarded : Obligations.InBandCommandsAreForwarded := by
  refine ⟨fun s n r w dst i m ha hrun hf hup hty hlen hw hkind hdst hdlan hours hi hpick hwf => ?_,
    fun s n r ha hrun hf hup hty hlen hkind hdlan hi => ?_,
    fun s n m r w e o ha hf hup hty hlen hw hkind hlate he ho hport horder hwf hsrc => ?_,
    fun s n r w ha hf hup hty hlen hw hkind hlate he => ?_,
    fun s n r w e ha hf hup hty hlen hw hkind hlate => ?_,
    fun s n r w e ha hf hup hty hlen hw hkind hlate he ho hpoison => ?_,
    fun s dst dlan e o ha he ho => ?_⟩
  · subst hw hdst
    have hband : BandAt s n r := ⟨ha, hrun, hf, hup, hty, hlen, hkind, hdlan⟩
    obtain ⟨hctl, hother⟩ := bandSent_links (b := s.build) (n := n) (r := r) (i := i) (c := m) hwf
    obtain ⟨_, hcmd, hrf⟩ := noteKey_keeps (bandTaken s.live n r i)
      (buoyKey (bandRec s.live s.build n r i) ((bandDst r).toNat % 256)) m
    have hcmd' : (bandSent s.live s.build n r i m).cmd = (bandTaken s.live n r i).cmd := hcmd
    have hentry : bandEntry s.live n r i = ⟨i, bandDst r, false, (bandRet s.live n r).ret, (bandRet s.live n r).tag,
        (bandRet s.live n r).pchk, some (bandRet s.live n r), none⟩ :=
      congrArg (fun d => (⟨i, bandDst r, d, (bandRet s.live n r).ret, (bandRet s.live n r).tag,
        (bandRet s.live n r).pchk, some (bandRet s.live n r), none⟩ : Fwd)) hdlan
    refine yields_of_gives (gives_bandSent hband hi hours hpick) ⟨⟨bandRet s.live n r, rfl, rfl, ?_, ?_⟩, ?_,
      ⟨bandRec s.live s.build n r i, hctl, rfl⟩, hother, ?_⟩
    · rw [hcmd']
      rfl
    · exact (congrArg Cmd.fwd hcmd').trans (congrArg (fun e => s.live.cmd.fwd ++ [e]) hentry)
    · rw [hcmd']
      rfl
    · exact hrf
  · have hbuoy : s.build.buoy = false := by simp [Build.buoy, hf]
    have hwake : s.live.wakeIdle s.build = s.live := Live.wakeIdle_running (by rw [hrun]; decide)
    have hfree : (s.live.arrive (bandPacket n r)).1.fwdFree = none := hi
    refine ⟨bandRet s.live n r, rfl, ?_⟩
    show execInbandCmdForward n r s = _
    refine runAwake_gives ha ((if_neg ?_).trans ?_)
    · simp [hbuoy, hup, hty, hkind, hdlan, Nat.not_lt.mpr hlen]
    · dsimp only
      rw [hwake]
      split
      · rfl
      · next j hj => exact absurd (hj.symm.trans hfree) (by simp)
  · subst hw
    have hgives := gives_answer ⟨ha, hf, hup, hty, hlen, hkind⟩
    rw [show tooLate s.live r = none from hlate, show answered s.live r = some e from he] at hgives
    have hret := returned_passed ho hport horder hsrc
    refine yields_of_gives (hgives.trans (congrArg (fun l => Host.Outcome.next { s with live := l }) hret))
      ⟨rfl, rfl, ⟨_, ctl_toLink (l := unordered (s.live.dropFwd e)) hwf _ _, rfl⟩, rfl⟩
  · subst hw
    have hgives := gives_answer ⟨ha, hf, hup, hty, hlen, hkind⟩
    rw [show tooLate s.live r = none from hlate, show answered s.live r = none from he] at hgives
    exact hgives
  · subst hw
    have hgives := gives_answer ⟨ha, hf, hup, hty, hlen, hkind⟩
    rw [show tooLate s.live r = some e from hlate] at hgives
    exact hgives
  · subst hw
    have hgives := gives_answer ⟨ha, hf, hup, hty, hlen, hkind⟩
    have hstays : returned s.live s.build r e = s.live := if_pos ⟨hpoison, by rw [ho]; rfl⟩
    rw [show tooLate s.live r = none from hlate, show answered s.live r = some e from he] at hgives
    exact hgives.trans (congrArg (fun l => Host.Outcome.next { s with live := l }) hstays)
  · show execForwardTimeout dst dlan s = _
    refine runAwake_gives ha ?_
    rw [he]
    dsimp only
    rw [ho]
    rfl

end

end Sys2Proof.Proofs
end

section
/-! PROOFS. Loads, queries, remaps and power states (O30 to O34). -/

namespace Sys2Proof.Proofs

open Sys2Proof Sys2Proof.Machine Sys2Proof.Claims

section

variable {s : State} {l m : Live} {b : Build} {n : BitVec 5} {d : Load} {q : Bool} {k : Nat} {g : List DWord} {p : Packet}

theorem reply_mgmtReplies {r : Ret} (h : r.port = .mgmt) (l : Live) (b : Build) (status arg : Nat) (ws : List DWord) :
    (l.reply b r status arg ws).cmd.mgmtReplies =
      l.cmd.mgmtReplies ++ [replyPacket r.tag r.pchk status arg (if status = 0 then ws else [])] := by
  rw [Live.reply_mgmt h]

/-! ### Reads and ends of loads -/

/-- With nothing left to ask for, no read goes out. -/
theorem issueReads_done (h : ∀ d ∈ l.loads, l.nextRead d = none) : l.issueReads b readFuel = l := by
  have hwant : (l.loads.findSome? fun d => if d.phase = 1 then none else (l.nextRead d).map fun o => (d, o)) = none := by
    rw [List.findSome?_eq_none_iff]
    intro d hd
    rw [h d hd]
    simp
  show l.issueReads b (2047 + 1) = l
  unfold Live.issueReads
  rw [hwant]
  simp

theorem issueReads_no_loads (h : l.loads = []) : l.issueReads b readFuel = l :=
  issueReads_done (by simp [h])

theorem nextRead_empty (h : d.len = 0) : l.nextRead d = none := by
  simp [Live.nextRead, h]

/-- The live part without the load of `d`. -/
def unloaded (l : Live) (d : Load) : Live :=
  { l with loads := l.loads.filter fun x => decide (x.r.seqNo ≠ d.r.seqNo) }

theorem endLoad_plan (h : d.model = none) (status arg : Nat) :
    l.endLoad b d status arg = (unloaded l d).reply b d.r status arg := by
  unfold Live.endLoad
  rw [h]
  rfl

theorem endLoad_ok (arg : Nat) : l.endLoad b d 0 arg = (unloaded l d).reply b d.r 0 arg := by
  unfold Live.endLoad
  cases d.model <;> rfl

theorem unloaded_only (h : l.loads = [d]) : (unloaded l d).loads = [] := by
  simp [unloaded, h]

/-! ### The data of a read -/

/-- The conditions under which a HOST link of a lantern takes data. -/
structure DataAt (s : State) (n : BitVec 5) : Prop where
  awake : s.live.awake = true
  lantern : s.build.form = .lantern
  role : s.live.role s.build n.toNat = 3
  up : s.live.isUp n.toNat = true
  sync : (s.live.link n.toNat).resync = false

/-- The link has one read less outstanding. -/
def arrived (l : Live) (n : BitVec 5) (rest : List RdEnt) : Live :=
  l.updLink n.toNat fun k => { k with loads := rest }

theorem gives_loaddat_bad {rtag : BitVec 8} {err : Bool} {data : List DWord} {e : RdEnt} {rest : List RdEnt}
    (h : DataAt s n) (he : (s.live.link n.toNat).loads = e :: rest)
    (hbad : e.tag ≠ rtag ∨ 8 * data.length ≠ (if err then 0 else e.len)) :
    Gives (.loaddatReceive n rtag err data) s (s.live.frameErr s.build n.toNat) := by
  obtain ⟨ha, hf, hrole, hup, hsync⟩ := h
  show execLoaddatReceive n rtag err data s = _
  refine runAwake_gives ha ((if_neg ?_).trans ?_)
  · simp [Build.buoy, hf, hrole, hup, hsync]
  · rw [he]
    exact if_pos hbad

theorem gives_loaddat {err : Bool} {data : List DWord} {e : RdEnt} {rest : List RdEnt}
    (h : DataAt s n) (he : (s.live.link n.toNat).loads = e :: rest) (hlen : 8 * data.length = if err then 0 else e.len)
    (hd : s.live.loads = [d]) (hno : d.r.seqNo = e.load) : Gives (.loaddatReceive n e.tag err data) s
      ((if err then (arrived s.live n rest).endLoad s.build d eCheck
        else ((arrived s.live n rest).updLoad e.load fun d => { d with got := Tab.insert d.got e.ofs data }).loadData
          s.build e.load).issueReads s.build readFuel) := by
  obtain ⟨ha, hf, hrole, hup, hsync⟩ := h
  have hfind : (s.live.loads.find? fun d => decide (d.r.seqNo = e.load)) = some d := by
    simp [hd, hno]
  show execLoaddatReceive n e.tag err data s = _
  refine runAwake_gives ha ((if_neg ?_).trans ?_)
  · simp [Build.buoy, hf, hrole, hup, hsync]
  · rw [he]
    refine (if_neg ?_).trans ?_
    · simp [hlen]
    · have hfind' : ((arrived s.live n rest).loads.find? fun d => decide (d.r.seqNo = e.load)) = some d := hfind
      dsimp only
      unfold arrived at hfind' ⊢
      rw [hfind']

/-- Only the value of a link counts in its change. -/
theorem updLink_congr {f g : Link → Link} (h : f (l.link k) = g (l.link k)) : l.updLink k f = l.updLink k g := by
  unfold Live.updLink Tab.upd
  rw [show f (Tab.getD l.links k link0) = g (Tab.getD l.links k link0) from h]

/-- A frame error asks for a replay. -/
theorem frameErr_synced (h : (l.link k).resync = false) : l.frameErr b k =
    (l.bump b F.LNK_ERR_FRAME k).updLink k fun x => { x with resync := true, nakDue := true } := by
  have hsame : ((l.bump b F.LNK_ERR_FRAME k).link k).resync = false := h
  exact updLink_congr (if_neg (by rw [hsame]; decide))

/-! ### Slots -/

theorem slot_setSlot_same {x : Slot} (ht : Tab.wf l.eng.trees = true) (hs : Tab.wf l.eng.seqs = true) :
    (l.setSlot q k x).slot q k = x := by
  cases q
  · exact Tab.getD_set_same ht k slot0 x
  · exact Tab.getD_set_same hs k slot0 x

theorem slot_setSlot_ne {x : Slot} (ht : Tab.wf l.eng.trees = true) (hs : Tab.wf l.eng.seqs = true) {q' : Bool} {j : Nat}
    (hne : (q', j) ≠ (q, k)) : (l.setSlot q k x).slot q' j = l.slot q' j := by
  cases q <;> cases q'
  · exact Tab.getD_set_ne ht (fun h => hne (by rw [h])) slot0 x slot0
  · rfl
  · rfl
  · exact Tab.getD_set_ne hs (fun h => hne (by rw [h])) slot0 x slot0

theorem setSlot_wf {x : Slot} (ht : Tab.wf l.eng.trees = true) (hs : Tab.wf l.eng.seqs = true) :
    Tab.wf (l.setSlot q k x).eng.trees = true ∧ Tab.wf (l.setSlot q k x).eng.seqs = true := by
  cases q
  · exact ⟨Tab.wf_set ht k slot0 x, hs⟩
  · exact ⟨ht, Tab.wf_set hs k slot0 x⟩

/-- `m` differs from `l` in the engine's slots only. -/
def SlotFrame (l m : Live) : Prop := m = { l with eng := m.eng }

theorem slotFrame_setSlot (l : Live) (q : Bool) (k : Nat) (x : Slot) : SlotFrame l (l.setSlot q k x) := by
  cases q <;> rfl

/-! ### A model that fills its slot -/

/-- The slot is LOADING with the words that have arrived. -/
def modelHeld (l : Live) (d : Load) (q : Bool) (k : Nat) : Live :=
  ((l.clean (if q then .seq k else .tree k)).updLoad d.r.seqNo fun _ => { d with phase := 2 }).setSlot q k
    ⟨prefixWords d.got 0, true⟩

/-- The slot holds the model. -/
def modelDone (l : Live) (d : Load) (q : Bool) (k : Nat) : Live :=
  (modelHeld l d q k).setSlot q k ⟨prefixWords d.got 0, false⟩

/-- The load waits for its slot no more. -/
def modelGoes (l : Live) (d : Load) (q : Bool) (k : Nat) : Live :=
  (l.clean (if q then .seq k else .tree k)).updLoad d.r.seqNo fun _ => { d with phase := 2 }

theorem slot_modelGoes (l : Live) (d : Load) (q x : Bool) (k j : Nat) : (modelGoes l d q k).slot x j = l.slot x j := rfl

theorem modelDone_frame (l : Live) (d : Load) (q : Bool) (k : Nat) : SlotFrame (modelGoes l d q k) (modelDone l d q k) := by
  cases q <;> rfl

theorem slot_modelDone (ht : Tab.wf l.eng.trees = true) (hs : Tab.wf l.eng.seqs = true) :
    (modelDone l d q k).slot q k = ⟨prefixWords d.got 0, false⟩ ∧
      ∀ (x : Bool) (j : Nat), (x, j) ≠ (q, k) → (modelDone l d q k).slot x j = l.slot x j := by
  obtain ⟨ht', hs'⟩ := setSlot_wf (q := q) (k := k) (x := ⟨prefixWords d.got 0, true⟩) (l := modelGoes l d q k) ht hs
  refine ⟨slot_setSlot_same ht' hs', fun x j hne => ?_⟩
  have hdone : (modelDone l d q k).slot x j = (modelHeld l d q k).slot x j := slot_setSlot_ne ht' hs' hne
  have hheld : (modelHeld l d q k).slot x j = (modelGoes l d q k).slot x j :=
    slot_setSlot_ne (l := modelGoes l d q k) ht hs hne
  rw [hdone, hheld, slot_modelGoes]

/-- A load whose image passes its last checks ends with the slot filled. -/
theorem modelStart_fills (hfree : l.slotBusy q k = false) (hlen : 8 * (prefixWords d.got 0).length = d.len)
    (hbad : d.len ≠ 0 → (if q then modBad6 (prefixWords d.got 0) else ensBad7 b (prefixWords d.got 0)) = false)
    (hcrc : crcWords (prefixWords d.got 0) = d.crc) : l.modelStart b d q k =
      (unloaded (modelDone l d q k) d).reply b d.r 0 (modArg b q k) := by
  have hno : (decide (d.len ≠ 0) && if q then modBad6 (prefixWords d.got 0) else ensBad7 b (prefixWords d.got 0)) =
      false := by
    by_cases h0 : d.len = 0
    · simp [h0]
    · rw [hbad h0, Bool.and_false]
  have hfill : (modelHeld l d q k).modelFill b { d with phase := 2 } q k =
      (modelDone l d q k).endLoad b { d with phase := 2 } 0 (modArg b q k) := by
    unfold Live.modelFill
    dsimp only
    rw [if_neg (not_not.mpr hlen), hno, hcrc]
    simp [firstErr, modelDone]
  unfold Live.modelStart
  rw [hfree]
  exact hfill.trans (endLoad_ok _)

/-- What a model that fills its slot leaves. -/
structure Filled (l m : Live) (d : Load) (q : Bool) (k arg : Nat) : Prop where
  slot : m.slot q k = ⟨prefixWords d.got 0, false⟩
  others : ∀ (x : Bool) (j : Nat), (x, j) ≠ (q, k) → m.slot x j = l.slot x j
  loads : m.loads = []
  rf : m.rf = l.rf
  mgmt : d.r.port = .mgmt →
    m.cmd.mgmtReplies = l.cmd.mgmtReplies ++ [replyPacket d.r.tag d.r.pchk 0 arg []]

theorem filled_modelDone {d' : Load} (ht : Tab.wf l.eng.trees = true) (hs : Tab.wf l.eng.seqs = true)
    (honly : l.loads = [d']) (hno : d'.r = d.r) (arg : Nat) :
    Filled l ((unloaded (modelDone l d q k) d).reply b d.r 0 arg) d q k arg := by
  have hreply := replyFrame_reply (unloaded (modelDone l d q k) d) b d.r 0 arg []
  have hframe := modelDone_frame l d q k
  unfold ReplyFrame at hreply
  unfold SlotFrame at hframe
  obtain ⟨hsame, hother⟩ := slot_modelDone (d := d) (q := q) (k := k) ht hs
  have hslot (x : Bool) (j : Nat) : ((unloaded (modelDone l d q k) d).reply b d.r 0 arg).slot x j =
      (modelDone l d q k).slot x j := by
    rw [hreply]
    rfl
  have hloads : (modelDone l d q k).loads = [{ d with phase := 2 }] := by
    rw [hframe]
    simp [modelGoes, Live.updLoad, Live.clean, honly, hno]
  have hrf : (modelDone l d q k).rf = l.rf := by
    rw [hframe]
    rfl
  have hcmd : (modelDone l d q k).cmd = l.cmd := by
    rw [hframe]
    rfl
  refine ⟨?_, fun x j hne => ?_, ?_, ?_, fun hport => ?_⟩
  · exact (hslot q k).trans hsame
  · exact (hslot x j).trans (hother x j hne)
  · rw [hreply]
    simp [unloaded, hloads]
  · rw [hreply]
    exact hrf
  · rw [reply_mgmtReplies hport, show (unloaded (modelDone l d q k) d).cmd = l.cmd from hcmd]
    rfl

/-! ### A plan that is whole -/

/-- The plan entry that a whole image makes. -/
def loadedPlan (l : Live) (d : Load) (g : List DWord) : Plan :=
  { (l.plan (imgPlan g)).renewed with
    state := .loaded, image := g, bytes := d.len, crc := d.crc, standby := imgStandby g }

/-- The live part in which the entry of a whole image is LOADED. -/
def planSet (l : Live) (d : Load) (g : List DWord) : Live :=
  (l.clean (.plan (imgPlan g))).setPlan (imgPlan g) (loadedPlan l d g)

/-- A whole image that passes its checks, and has no buoy section, makes its entry LOADED and answers the load. -/
theorem planData_loads (hg : prefixWords d.got 0 = g) (hlen : d.len = 8 * g.length)
    (herr : l.planLoadErr b (imgPlan g) d.len = none) (hcrc : d.crc = crcWords g) (hsec : imgSec g 9 = none)
    (hmodel : d.model = none) : l.planData b d =
      (unloaded (planSet l d g) d).reply b d.r 0 (imgPlan g + 256 * b2n (imgStandby g)) := by
  have hloaded : l.planLoaded b d = (planSet l d g).endLoad b d 0 (imgPlan g + 256 * b2n (imgStandby g)) := by
    unfold Live.planLoaded
    dsimp only
    rw [hg, herr, if_pos hcrc.symm, hsec]
    rfl
  unfold Live.planData
  dsimp only
  rw [hg, if_pos hlen.symm, hloaded, endLoad_plan hmodel]

theorem plan_planSet_same (hwf : Tab.wf l.plans = true) : (planSet l d g).plan (imgPlan g) = loadedPlan l d g :=
  Live.plan_setPlan_same (l := l.clean (.plan (imgPlan g))) hwf _

theorem plan_planSet_ne (hwf : Tab.wf l.plans = true) (hk : k ≠ imgPlan g) : (planSet l d g).plan k = l.plan k :=
  Live.plan_setPlan_ne (l := l.clean (.plan (imgPlan g))) hwf (Ne.symm hk) _

/-- What the answer to a plan load leaves. -/
theorem planSet_answered (honly : l.loads = [d]) :
    let m := (unloaded (planSet l d g) d).reply b d.r 0 (imgPlan g + 256 * b2n (imgStandby g))
    m.loads = [] ∧ (∀ j, m.plan j = (planSet l d g).plan j) ∧ (d.r.port = .mgmt → m.cmd.mgmtReplies =
      l.cmd.mgmtReplies ++ [replyPacket d.r.tag d.r.pchk 0 (imgPlan g + 256 * b2n (imgStandby g)) []]) := by
  have hreply := replyFrame_reply (unloaded (planSet l d g) d) b d.r 0 (imgPlan g + 256 * b2n (imgStandby g)) []
  unfold ReplyFrame at hreply
  refine ⟨?_, fun j => ?_, fun hport => ?_⟩
  · rw [hreply]
    exact unloaded_only (l := planSet l d g) honly
  · rw [hreply]
    rfl
  · rw [reply_mgmtReplies hport]
    rfl

theorem planLoadErr_none (h0 : k ≠ 0) (hactive : (l.plan k).active = false) (hcoll : (l.plan k).collecting = false)
    (hroom : l.planRoom b k = true) {len : Nat} (hfits : l.storeUsed k + len ≤ 6291456) :
    l.planLoadErr b k len = none := by
  simp [Live.planLoadErr, firstErr, h0, hactive, hcoll, hroom, Nat.not_lt.mpr hfits]

/-- The load with the data of its only read. -/
def dataLoad (d : Load) (data : List DWord) : Load := { d with got := [(0, data)] }

/-- The live part in which the data of the only read have arrived. -/
def dataIn (l : Live) (n : BitVec 5) (d : Load) (data : List DWord) : Live :=
  { arrived l n [] with loads := [dataLoad d data] }

theorem dataIn_eq {e : RdEnt} {data : List DWord} (hd : l.loads = [d]) (hno : d.r.seqNo = e.load) (hofs : e.ofs = 0)
    (hgot : d.got = []) :
    (arrived l n []).updLoad e.load (fun d => { d with got := Tab.insert d.got e.ofs data }) = dataIn l n d data := by
  have hmap : ((arrived l n []).loads.map fun x =>
      if x.r.seqNo = e.load then { x with got := Tab.insert x.got e.ofs data } else x) = [dataLoad d data] := by
    rw [show (arrived l n []).loads = [d] from hd, List.map_singleton, if_pos hno, hgot, hofs]
    rfl
  exact congrArg (fun ds => ({ arrived l n [] with loads := ds } : Live)) hmap

theorem loadData_dataIn {data : List DWord} (hmodel : d.model = none) :
    (dataIn l n d data).loadData b d.r.seqNo = (dataIn l n d data).planData b (dataLoad d data) := by
  have hfind : ((dataIn l n d data).loads.find? fun x => decide (x.r.seqNo = d.r.seqNo)) = some (dataLoad d data) := by
    simp [dataIn, dataLoad]
  unfold Live.loadData
  rw [hfind]
  dsimp only
  rw [show (dataLoad d data).model = none from hmodel]

theorem prefixWords_dataLoad (d : Load) (data : List DWord) : prefixWords (dataLoad d data).got 0 = data := by
  simp [dataLoad, prefixWords]

/-! ### MODEL_LOAD -/

/-- The row of MODEL_LOAD. -/
def modelLoadRow : OpRow := ⟨0x29, true, true, 1, 1, 254, 2, 2⟩

theorem runs_modelLoad (hf : s.build.form = .lantern) (h : Takes (.modelLoad p) s p 0x29 1) (hdata : p.data.length = 2) :
    Runs (.modelLoad p) s p fun l r => l.modelLoadL s.build p r := by
  have hw : WellFramed p 0x29 := takes_wellFramed h
  have hbuoy : s.build.buoy = false := by simp [Build.buoy, hf]
  obtain ⟨hstarts, _, _, hpriv, _⟩ := h
  have hframe : s.live.frame s.build modelLoadRow p = none :=
    frame_passes hw ⟨by rw [hbuoy]; rfl, hpriv, by rw [hbuoy]; rfl⟩
      ⟨by rw [hbuoy, hdata]; decide, by rw [hbuoy, hdata]; decide, by rw [hbuoy]; simp⟩
  have hstays : s.live.turnedAway s.build (.modelLoad p) modelLoadRow p = false := by
    simp [Live.turnedAway, hframe]
  have hgives : Gives (.modelLoad p) s (s.live.command s.build (.modelLoad p) modelLoadRow p fun l r =>
      l.modelLoadL s.build p r) := by
    show execModelLoad p s = _
    refine run_gives ?_
    dsimp only
    rw [show (⟨0x29, true, true, 1, 1, 254, 2, 2⟩ : OpRow) = modelLoadRow from rfl, hstays, Live.when_false, hbuoy]
    rfl
  exact runs_passes hgives hstarts hframe

/-- The load of an image of no words. -/
def emptyLoad (p : Packet) (r : Ret) (q : Bool) (k : Nat) : Load :=
  ⟨r, some (q, k), wordAt p.data 0, fld (wordAt p.data 1) 0 32, BitVec.ofNat 32 (fld (wordAt p.data 1) 32 32), [], 0⟩

/-- The live part in which the load holds its command. -/
def emptyBegun (l : Live) (p : Packet) (r : Ret) (q : Bool) (k : Nat) : Live :=
  { l.hold r (.modelLoad p) with loads := l.loads ++ [emptyLoad p r q k] }

theorem fld_zero {w : DWord} (h : fld w 0 64 = 0) : fld w 0 32 = 0 ∧ fld w 32 32 = 0 := by
  have hw : w.toNat = 0 := by
    have hlt := w.isLt
    unfold fld at h
    rwa [Nat.shiftRight_zero, Nat.mod_eq_of_lt hlt] at h
  unfold fld
  rw [hw]
  exact ⟨rfl, rfl⟩

theorem crc_emptyLoad {r : Ret} (hcrc : fld (wordAt p.data 1) 32 32 = 0) :
    crcWords (prefixWords (emptyLoad p r q k).got 0) = (emptyLoad p r q k).crc := by
  have hnone : crcWords [] = BitVec.ofNat 32 0 := by decide
  rw [← hcrc] at hnone
  exact hnone

/-- An image of no words, for a slot that nothing uses, is in at once. -/
theorem modelLoadL_empty {r : Ret} (hzero : fld (wordAt p.data 1) 0 64 = 0) (hloads : l.loads = [])
    (huse : l.planUse b (decide (p.aBits 4 1 = 1)) (p.aBits 0 4) = false) :
    l.modelLoadL b p r = (emptyBegun l p r (decide (p.aBits 4 1 = 1)) (p.aBits 0 4)).modelStart b
      (emptyLoad p r (decide (p.aBits 4 1 = 1)) (p.aBits 0 4)) (decide (p.aBits 4 1 = 1)) (p.aBits 0 4) := by
  obtain ⟨hlen, hcrc⟩ := fld_zero hzero
  have hload (q : Bool) : emptyLoad p r q (p.aBits 0 4) ∈ (emptyBegun l p r q (p.aBits 0 4)).loads := by
    simp [emptyBegun]
  have hbegun (q : Bool) : l.beginLoad b r (.modelLoad p) p (some (q, p.aBits 0 4)) = emptyBegun l p r q (p.aBits 0 4) := by
    refine issueReads_done (l := emptyBegun l p r q (p.aBits 0 4)) fun d hd => ?_
    have hd' : d = emptyLoad p r q (p.aBits 0 4) := by
      simpa [emptyBegun, hloads] using hd
    rw [hd']
    exact nextRead_empty hlen
  unfold Live.modelLoadL
  dsimp only
  rw [hbegun, hlen, hcrc, huse]
  simp [firstErr, Live.slotLoading, hloads, emptyBegun, emptyLoad, hlen, hcrc]

theorem begin_mgmtReplies (l : Live) (p : Packet) : (l.begin p).1.cmd.mgmtReplies = l.cmd.mgmtReplies := by
  unfold Live.begin
  split <;> rfl

/-- Settles O30: data end a load in one of three ways, and a model fills its slot. -/
theorem loadsEndWithTheirImage : Obligations.LoadsEndWithTheirImage := by
  refine ⟨fun s n rtag err data e rest ha hf hrole hup hsync he hbad => ?_,
    fun s n e d ha hf hrole hup hsync he hd hno hmodel => ?_,
    fun s n data e d p ha hf hrole hup hsync he hd hno hmodel hofs helen hdlen hgot hne hcrc hp hp0 hactive hcoll hroom
      hfits hsec hwf => ?_,
    fun s p isSeq k hf h hport hdata hzero hk hseq hloads huse hbusy hlinks hwt hws => ?_,
    fun s isSeq slot k d g ha hk hd hmodel hphase hg hlen hcrc hwt hws => ⟨fun hbusy => ?_, fun hfree herr hne => ?_⟩⟩
  · have hgives := gives_loaddat_bad ⟨ha, hf, hrole, hup, hsync⟩ he hbad
    rwa [frameErr_synced hsync] at hgives
  · have hgives := gives_loaddat (err := true) (data := []) ⟨ha, hf, hrole, hup, hsync⟩ he rfl hd hno
    have hend : (arrived s.live n []).endLoad s.build d eCheck = ({ arrived s.live n [] with loads := [] } : Live).reply
        s.build d.r eCheck := by
      rw [endLoad_plan hmodel, unloaded, show (arrived s.live n []).loads = [d] from hd]
      simp
    have hloads : (({ arrived s.live n [] with loads := [] } : Live).reply s.build d.r eCheck).loads = [] := by
      rw [replyFrame_reply]
    rw [if_pos rfl, hend, issueReads_no_loads hloads] at hgives
    exact hgives
  · subst hp
    have hgives := gives_loaddat (err := false) (data := data) ⟨ha, hf, hrole, hup, hsync⟩ he helen.symm hd hno
    have herr : (dataIn s.live n d data).planLoadErr s.build (imgPlan data) (dataLoad d data).len = none :=
      planLoadErr_none hp0 hactive hcoll hroom hfits
    rw [if_neg (by decide), dataIn_eq hd hno hofs hgot, ← hno, loadData_dataIn hmodel,
      planData_loads (prefixWords_dataLoad d data) hdlen herr hcrc hsec hmodel] at hgives
    obtain ⟨hloads, hplans, hmgmt⟩ := planSet_answered (l := dataIn s.live n d data) (b := s.build) (d := dataLoad d data)
      (g := data) rfl
    have hwf' : Tab.wf (dataIn s.live n d data).plans = true := hwf
    rw [issueReads_no_loads hloads] at hgives
    refine yields_of_gives hgives ⟨hloads, ?_, ?_, ?_, fun j hj => ?_, fun hport => hmgmt hport⟩
    · rw [hplans, plan_planSet_same hwf']
      rfl
    · rw [hplans, plan_planSet_same hwf']
      rfl
    · rw [hplans, plan_planSet_same hwf']
      rfl
    · exact (hplans j).trans (plan_planSet_ne hwf' hj)
  · subst hk hseq
    have hbuoy : s.build.buoy = false := by simp [Build.buoy, hf]
    have hstarts := h.1
    have hrport : (retOf s p).port = .mgmt := by
      rw [hstarts.2.2]
      exact hport
    obtain ⟨htag, hchk⟩ := ret_of_starts hstarts
    obtain ⟨hlen, hcrc⟩ := fld_zero hzero
    have hstart : (s.live.begin p).1.modelLoadL s.build p (retOf s p) = _ := modelLoadL_empty hzero
      (by rw [begin_frame]; exact hloads) (by rw [begin_frame]; exact huse)
    have hfills := modelStart_fills (b := s.build) (d := emptyLoad p (retOf s p) (decide (p.aBits 4 1 = 1)) (p.aBits 0 4))
      (l := emptyBegun (s.live.begin p).1 p (retOf s p) (decide (p.aBits 4 1 = 1)) (p.aBits 0 4))
      (q := decide (p.aBits 4 1 = 1)) (k := p.aBits 0 4) (by rw [begin_frame]; exact hbusy) hlen.symm
      (fun hne => absurd hlen hne) (crc_emptyLoad hcrc)
    have hfill := filled_modelDone (b := s.build) (q := decide (p.aBits 4 1 = 1)) (k := p.aBits 0 4)
      (d := emptyLoad p (retOf s p) (decide (p.aBits 4 1 = 1)) (p.aBits 0 4))
      (d' := emptyLoad p (retOf s p) (decide (p.aBits 4 1 = 1)) (p.aBits 0 4))
      (l := emptyBegun (s.live.begin p).1 p (retOf s p) (decide (p.aBits 4 1 = 1)) (p.aBits 0 4))
      (by rw [begin_frame]; exact hwt) (by rw [begin_frame]; exact hws)
      (by rw [begin_frame]; exact congrArg (· ++ _) hloads) rfl
      (modArg s.build (decide (p.aBits 4 1 = 1)) (p.aBits 0 4))
    refine yields_of_gives (runs_congr (g := fun _ _ => _) (runs_modelLoad hf h hdata) (hstart.trans hfills))
      ⟨hfill.slot, hfill.loads, fun x j hne => (hfill.others x j hne).trans ?_, (hfill.mgmt hrport).trans ?_⟩
    · rw [begin_frame]
      rfl
    · have hstays : (emptyBegun (s.live.begin p).1 p (retOf s p) (decide (p.aBits 4 1 = 1)) (p.aBits 0 4)).cmd.mgmtReplies =
          s.live.cmd.mgmtReplies := begin_mgmtReplies s.live p
      have harg : modArg s.build (decide (p.aBits 4 1 = 1)) (p.aBits 0 4) =
          p.aBits 0 4 + 16 * b2n (decide (p.aBits 4 1 = 1)) := by
        rw [modArg, hbuoy]
        rfl
      rw [hstays, harg, emptyLoad, htag, hchk]
  · have hfind : (s.live.loads.find? fun d => decide (d.model = some (isSeq, slot.toNat) ∧ d.phase = 1)) = some d := by
      simp [hd, hmodel, hphase, hk]
    subst hk
    show execModelLoadSlotFree isSeq slot s = _
    refine runAwake_gives ha ?_
    dsimp only
    rw [hfind]
    exact if_pos hbusy
  · have hfind : (s.live.loads.find? fun d => decide (d.model = some (isSeq, slot.toNat) ∧ d.phase = 1)) = some d := by
      simp [hd, hmodel, hphase, hk]
    subst hk
    have hgives : Gives (.modelLoadSlotFree isSeq slot) s
        ((s.live.modelGo s.build d isSeq slot.toNat).issueReads s.build readFuel) := by
      show execModelLoadSlotFree isSeq slot s = _
      refine runAwake_gives ha ?_
      dsimp only
      rw [hfind]
      exact if_neg (by rw [hfree]; decide)
    have hlen0 : d.len ≠ 0 := by
      rw [hlen]
      exact Nat.mul_ne_zero (by decide) (fun h0 => hne (List.eq_nil_of_length_eq_zero h0))
    subst hg
    have hgo : s.live.modelGo s.build d isSeq slot.toNat =
        (unloaded (modelDone s.live d isSeq slot.toNat) d).reply s.build d.r 0 (modArg s.build isSeq slot.toNat) := by
      refine Eq.trans ?_ (modelStart_fills hfree hlen.symm (fun _ => ?_) hcrc.symm)
      · unfold Live.modelGo
        cases isSeq <;> simp_all
      · cases isSeq <;> simp_all
    have hfill := filled_modelDone (b := s.build) (d := d) (q := isSeq) (k := slot.toNat) hwt hws hd rfl
      (modArg s.build isSeq slot.toNat)
    rw [hgo, issueReads_no_loads hfill.loads] at hgives
    exact yields_of_gives hgives ⟨hfill.slot, hfill.loads, hfill.others, hfill.rf⟩

end

section

variable {s : State} {l m k : Live} {b : Build} {p : Packet} {r : Ret}

/-! ### Words that are met -/

/-- `m` differs from `l` in registers, the logbook and the early events only. -/
def NoteFrame (l m : Live) : Prop :=
  m = { l with rf := m.rf, log := m.log, boot := { l.boot with early := m.boot.early } }

theorem NoteFrame.refl (l : Live) : NoteFrame l l := rfl

theorem NoteFrame.trans (h : NoteFrame l m) (h' : NoteFrame m k) : NoteFrame l k := by
  unfold NoteFrame at *
  rw [h', h]

theorem NoteFrame.keeps (h : NoteFrame l m) : m.cmd = l.cmd ∧ m.eng = l.eng := by
  unfold NoteFrame at h
  rw [h]
  exact ⟨rfl, rfl⟩

theorem noteFrame_put (l : Live) (b : Build) (f : Fld) (v e : Nat) : NoteFrame l (l.put b f v e) := rfl

theorem noteFrame_bump (l : Live) (b : Build) (f : Fld) (e n : Nat) : NoteFrame l (l.bump b f e n) := rfl

theorem noteFrame_logE (l : Live) (b : Build) (code sev : Nat) (args : List Nat) (plan status : Nat) :
    NoteFrame l (l.logE b code sev args plan status) :=
  (Live.logE_only l b code sev args plan status).1

/-- The live part with an uncorrectable word counted, its address shown and the flag raised. -/
def ueShown (l : Live) (b : Build) (id a : Nat) : Live :=
  (((l.bump b F.MEM_STAT_UE id).put b F.MEM_UE_ADDR_ADDR a id).put b F.MEM_UE_ADDR_HI_ADDR (a / 2 ^ 32) id).put b
    F.MEM_FLAG_UE 1

theorem ueSeen_eq (l : Live) (b : Build) (id a : Nat) :
    l.ueSeen b id a = (ueShown l b id a).logE b 0x1001 3 [id, a] := rfl

theorem noteFrame_ueSeen (l : Live) (b : Build) (id a : Nat) : NoteFrame l (l.ueSeen b id a) := by
  rw [ueSeen_eq]
  refine NoteFrame.trans ?_ (noteFrame_logE _ b _ _ _ _ _)
  unfold ueShown
  refine NoteFrame.trans ?_ (noteFrame_put _ b _ _ _)
  refine NoteFrame.trans ?_ (noteFrame_put _ b _ _ _)
  refine NoteFrame.trans ?_ (noteFrame_put _ b _ _ _)
  exact noteFrame_bump l b _ _ _

theorem noteFrame_seen (l : Live) (b : Build) (ws : List BadWord) :
    NoteFrame l (ws.foldl (fun l w => l.ueSeen b w.id w.a) l) :=
  foldl_rel (R := NoteFrame) NoteFrame.refl (fun h h' => h.trans h') (fun l (w : BadWord) => l.ueSeen b w.id w.a)
    (fun l w => noteFrame_ueSeen l b w.id w.a) ws l

/-- A word that nothing spoilt is not met. -/
theorem meet_clean {h : Holder} (hclean : l.bad h = false) : l.meet b h = l := by
  have hnone : l.mem.bad.filter (fun x => decide (x.h = h)) = [] := by
    rw [List.filter_eq_nil_iff]
    simpa [Live.bad] using hclean
  unfold Live.meet
  rw [hnone]
  rfl

/-- The shown live part keeps its table sorted, keeps every field before the error registers of the memories, and
has the flag raised. -/
theorem get_ueShown (hw : Tab.wf l.rf = true) (id a : Nat) : Tab.wf (ueShown l b id a).rf = true ∧
    (∀ f : Fld, f.lo < 32 → f.off < 0x2004 → (ueShown l b id a).get b f 0 = l.get b f 0) ∧
    (ueShown l b id a).get b F.MEM_FLAG_UE 0 = 1 := by
  have hw1 : Tab.wf (l.bump b F.MEM_STAT_UE id).rf = true := Live.put_wf hw _ _ _
  have hw2 := Live.put_wf (b := b) hw1 F.MEM_UE_ADDR_ADDR a id
  have hw3 := Live.put_wf (b := b) hw2 F.MEM_UE_ADDR_HI_ADDR (a / 2 ^ 32) id
  have hkey (f g : Fld) (hf : f.lo < 32) (hoff : f.off < 0x2004) (hg : 0x2004 ≤ g.off) (e : Nat) : g.key e ≠ f.key 0 := by
    unfold Fld.key
    omega
  refine ⟨Live.put_wf hw3 _ _ _, fun f hlo hoff => ?_, Live.get_put_same hw3 _ _ _⟩
  unfold ueShown
  rw [Live.get_put_ne hw3 (hkey f F.MEM_FLAG_UE hlo hoff (by decide) 0),
    Live.get_put_ne hw2 (hkey f F.MEM_UE_ADDR_HI_ADDR hlo hoff (by decide) id),
    Live.get_put_ne hw1 (hkey f F.MEM_UE_ADDR_ADDR hlo hoff (by decide) id)]
  exact Live.get_put_ne hw (hkey f F.MEM_STAT_UE hlo hoff (by decide) id) _

/-- What meeting words leaves: the count of poisoned samples, and the flag once there was one. -/
theorem get_ueSeen (hw : Tab.wf l.rf = true) (id a : Nat) : Tab.wf (l.ueSeen b id a).rf = true ∧
    (l.ueSeen b id a).get b F.TREE_ERR_POISON 0 = l.get b F.TREE_ERR_POISON 0 ∧
    (l.ueSeen b id a).get b F.MEM_FLAG_UE 0 = 1 := by
  obtain ⟨hwf, hkeeps, hflag⟩ := get_ueShown (b := b) hw id a
  obtain ⟨hwf', hget⟩ := (Live.logE_only (ueShown l b id a) b 0x1001 3 [id, a] 0 0).2 hwf
  refine ⟨hwf', ?_, ?_⟩
  · exact (hget _ 0 (by decide) (by decide) (by decide)).trans (hkeeps _ (by decide) (by decide))
  · exact (hget _ 0 (by decide) (by decide) (by decide)).trans hflag

theorem get_seen (ws : List BadWord) (hne : ws ≠ []) : ∀ {l : Live}, Tab.wf l.rf = true →
    Tab.wf (ws.foldl (fun l w => l.ueSeen b w.id w.a) l).rf = true ∧
    (ws.foldl (fun l w => l.ueSeen b w.id w.a) l).get b F.TREE_ERR_POISON 0 = l.get b F.TREE_ERR_POISON 0 ∧
    (ws.foldl (fun l w => l.ueSeen b w.id w.a) l).get b F.MEM_FLAG_UE 0 = 1 := by
  induction ws with
  | nil => exact absurd rfl hne
  | cons w ws ih =>
    intro l hw
    obtain ⟨hwf, hpoison, hflag⟩ := get_ueSeen (b := b) hw w.id w.a
    rw [List.foldl_cons]
    by_cases hnil : ws = []
    · subst hnil
      exact ⟨hwf, hpoison, hflag⟩
    · obtain ⟨hwf', hpoison', hflag'⟩ := ih hnil hwf
      exact ⟨hwf', hpoison'.trans hpoison, hflag'⟩

/-! ### Samples that cannot be evaluated -/

/-- The samples of a query that read an uncorrectable word, among the first `n`. -/
def badSamples (l : Live) (b : Build) (j : TreeJob) (n : Nat) : List Nat :=
  (List.range n).filter fun i => decide (l.sampleBad b j.slot i (j.feats.getD i []) (.query j.r.seqNo i) ≠ [])

theorem sampleBad_noted (h : NoteFrame l m) (k i : Nat) (xs : List (Option Word)) (own : Holder) :
    m.sampleBad b k i xs own = l.sampleBad b k i xs own := by
  unfold NoteFrame at h
  rw [h]
  rfl

/-- `q` is what is left when the first `n` samples of `j` have been read from `l`. -/
structure ReadUpTo (l : Live) (b : Build) (j : TreeJob) (q : Live × Bool) (n : Nat) : Prop where
  frame : NoteFrame l q.1
  wf : Tab.wf l.rf = true → Tab.wf q.1.rf = true
  clean : badSamples l b j n = [] → q = (l, false)
  bad : badSamples l b j n ≠ [] → q.2 = true
  count : Tab.wf l.rf = true → badSamples l b j n ≠ [] →
    q.1.get b F.TREE_ERR_POISON = min (l.get b F.TREE_ERR_POISON + (badSamples l b j n).length) 255 ∧
      q.1.get b F.MEM_FLAG_UE = 1

/-- The reading of sample `i`. -/
def readStep (b : Build) (j : TreeJob) (q : Live × Bool) (i : Nat) : Live × Bool :=
  match q.1.sampleBad b j.slot i (j.feats.getD i []) (.query j.r.seqNo i) with
  | [] => q
  | ws => ((ws.foldl (fun l w => l.ueSeen b w.id w.a) q.1).bump b F.TREE_ERR_POISON, true)

theorem readSamples_eq (l : Live) (b : Build) (j : TreeJob) :
    (l.readSamples b j.slot j.feats fun i => .query j.r.seqNo i) =
      (List.range j.feats.length).foldl (readStep b j) (l, false) := rfl

theorem badSamples_succ (l : Live) (b : Build) (j : TreeJob) (n : Nat) : badSamples l b j (n + 1) =
    badSamples l b j n ++
      if l.sampleBad b j.slot n (j.feats.getD n []) (.query j.r.seqNo n) = [] then [] else [n] := by
  unfold badSamples
  rw [List.range_succ, List.filter_append, List.filter_singleton]
  simp

theorem get_bump_same (hw : Tab.wf l.rf = true) (f : Fld) :
    (l.bump b f).get b f = min (l.get b f + 1) (2 ^ f.w - 1) := by
  have hpos := Nat.two_pow_pos f.w
  refine (Live.get_put_same hw f _ 0).trans (Nat.mod_eq_of_lt ?_)
  omega

theorem ReadUpTo.next {j : TreeJob} {q : Live × Bool} {n : Nat} (h : ReadUpTo l b j q n) :
    ReadUpTo l b j (readStep b j q n) (n + 1) := by
  obtain ⟨hframe, hwf, hclean, hbad, hcount⟩ := h
  have hsame := sampleBad_noted (b := b) hframe j.slot n (j.feats.getD n []) (.query j.r.seqNo n)
  unfold readStep
  rw [hsame]
  cases hws : l.sampleBad b j.slot n (j.feats.getD n []) (.query j.r.seqNo n) with
  | nil =>
    have hsucc : badSamples l b j (n + 1) = badSamples l b j n := by
      rw [badSamples_succ, hws, if_pos rfl, List.append_nil]
    refine ⟨hframe, hwf, ?_, ?_, ?_⟩ <;> rw [hsucc] <;> assumption
  | cons w ws =>
    have hsucc : badSamples l b j (n + 1) = badSamples l b j n ++ [n] := by
      rw [badSamples_succ, hws, if_neg (by simp)]
    have hne : badSamples l b j (n + 1) ≠ [] := by
      rw [hsucc]
      simp
    refine ⟨(hframe.trans (noteFrame_seen _ b (w :: ws))).trans (noteFrame_bump _ b _ _ _), fun hw => ?_,
      fun hnil => absurd hnil hne, fun _ => rfl, fun hw _ => ?_⟩
    · obtain ⟨hwf', _, _⟩ := get_seen (b := b) (w :: ws) (by simp) (hwf hw)
      exact Live.put_wf hwf' _ _ _
    · obtain ⟨hwf', hpoison, hflag⟩ := get_seen (b := b) (w :: ws) (by simp) (hwf hw)
      have hbefore : q.1.get b F.TREE_ERR_POISON =
          if badSamples l b j n = [] then l.get b F.TREE_ERR_POISON
          else min (l.get b F.TREE_ERR_POISON + (badSamples l b j n).length) 255 := by
        split
        · next hnil => rw [hclean hnil]
        · next hsome => exact (hcount hw hsome).1
      refine ⟨?_, (Live.get_put_ne hwf' (by decide) _).trans hflag⟩
      rw [get_bump_same hwf', hpoison, hbefore, hsucc, List.length_append]
      show min _ 255 = _
      split
      · next hnil => rw [hnil]; rfl
      · simp only [List.length_singleton]
        omega

theorem readUpTo (l : Live) (b : Build) (j : TreeJob) :
    ∀ n, ReadUpTo l b j ((List.range n).foldl (readStep b j) (l, false)) n
  | 0 => ⟨rfl, id, fun _ => rfl, fun h => absurd rfl h, fun _ h => absurd rfl h⟩
  | n + 1 => by
    rw [List.range_succ, List.foldl_append]
    exact (readUpTo l b j n).next

/-! ### TREE_QUERY -/

/-- The live part in which the job of the query has left the engine. -/
def treeTaken (l : Live) (j : TreeJob) (rest : List TreeJob) : Live :=
  { l with eng := { l.eng with treeJobs := rest, samples := (l.eng.samples + j.feats.length) % 2 ^ 32 } }

/-- The live part in which the samples of the query have been read. -/
def treeRead (l : Live) (b : Build) (j : TreeJob) (rest : List TreeJob) : Live × Bool :=
  (List.range j.feats.length).foldl (readStep b j) (treeTaken l j rest, false)

theorem gives_treeQueryDone {slot : BitVec 4} {j : TreeJob} {rest : List TreeJob} (ha : s.live.awake = true)
    (hjobs : s.live.eng.treeJobs = j :: rest) (hslot : j.slot = slot.toNat)
    (hon : ∀ q ∈ ensPipes s.build (s.live.tree j.slot).image, s.live.pipeOn s.build q = true) :
    Gives (.treeQueryDone slot) s
      (if (treeRead s.live s.build j rest).2
        then ((treeRead s.live s.build j rest).1.cleanQuery j.r.seqNo).reply s.build j.r ePoison
        else ((treeRead s.live s.build j rest).1.cleanQuery j.r.seqNo).reply s.build j.r 0 j.feats.length
          (ensResults s.build (s.live.tree j.slot).image j.feats).flatten) := by
  have hany : ((ensPipes s.build (s.live.tree j.slot).image).any fun q => !s.live.pipeOn s.build q) = false := by
    simpa using hon
  show execTreeQueryDone slot s = _
  refine runAwake_gives ha ?_
  dsimp only
  rw [hjobs, takeFirst, if_pos (decide_eq_true hslot)]
  dsimp only
  rw [← hslot, hany, if_neg (by decide)]
  rfl

/-- The checks of TREE_QUERY, in their order. -/
def treeErr (b : Build) (p : Packet) (l : Live) : Option Nat :=
  let f := fld (wordAt p.data 0) 0 11
  let n := fld (wordAt p.data 0) 16 16
  let x := l.tree (p.aBits 0 4)
  firstErr [
    (decide (p.data.length ≠ 1 + n * sampleWords f) ||
      (b.buoy && p.port.inband && decide (254 < 2 * n + b2n p.pchk)), eLen),
    ((b.buoy && !l.pipeOn b 0) ||
      (x.ready && (ensPipes b x.image).any (fun q => !l.pipeOn b q)), eGated),
    (decide ((b.buoy ∧ p.aBits 0 4 ≠ 0) ∨ n = 0 ∨ f = 0 ∨ 1024 < f) ||
      (x.ready && decide (f ≠ ensNFeat x.image)), eRange),
    (!x.ready, eState)]

/-- The job that the query is. -/
def treeJob (p : Packet) (r : Ret) : TreeJob :=
  ⟨r, p.aBits 0 4, (List.range (fld (wordAt p.data 0) 16 16)).map (querySample p.data (fld (wordAt p.data 0) 0 11))⟩

/-- What TREE_QUERY does once it has passed the shared checks. -/
def treeRun (b : Build) (p : Packet) (l : Live) (r : Ret) : Live :=
  match treeErr b p l with
  | some e => l.reply b r e
  | none => { l with
      cmd := { l.cmd with busy := l.cmd.busy ++ [⟨r, .treeQuery p⟩] },
      eng := { l.eng with treeJobs := l.eng.treeJobs ++ [treeJob p r] } }

theorem data_le {opc : Nat} (h : WellFramed p opc) : p.data.length ≤ 4095 := by
  have hlen := h.words
  have hlt := p.len.isLt
  unfold Packet.data
  split
  · rw [List.length_take]
    omega
  · omega

theorem runs_treeQuery (h : Takes (.treeQuery p) s p 0x28 0) (hdata : 1 ≤ p.data.length) :
    Runs (.treeQuery p) s p (treeRun s.build p) :=
  runs_of_takes_both rfl h (by decide) hdata (data_le (takes_wellFramed h))

theorem treeErr_begin (l : Live) (b : Build) (p : Packet) : treeErr b p (l.begin p).1 = treeErr b p l := by
  rw [begin_frame]
  rfl

/-- The conditions of TREE_QUERY that its words and its form decide. -/
structure TreeAsk (b : Build) (l : Live) (p : Packet) (f n k : Nat) : Prop where
  feats : f = fld (wordAt p.data 0) 0 11
  samples : n = fld (wordAt p.data 0) 16 16
  len : p.data.length = 1 + n * ((f + 63) / 64 + (f + 1) / 2)
  slot : k = p.aBits 0 4
  n0 : 0 < n
  f0 : 0 < f
  hi : f ≤ 1024
  buoy : b.form = .buoy → k = 0 ∧ l.pipeOn b 0 = true ∧ (p.port = .mgmt ∨ 2 * n + b2n p.pchk ≤ 254)

theorem treeErr_asked {f n k : Nat} (h : TreeAsk b l p f n k) : treeErr b p l =
    firstErr [
      ((l.tree k).ready && (ensPipes b (l.tree k).image).any (fun q => !l.pipeOn b q), eGated),
      ((l.tree k).ready && decide (f ≠ ensNFeat (l.tree k).image), eRange),
      (!(l.tree k).ready, eState)] := by
  obtain ⟨hf, hn, hlen, hk, hn0, hf0, hhi, hbuoy⟩ := h
  subst hf hn hk
  have hwords : decide (p.data.length ≠ 1 + fld (wordAt p.data 0) 16 16 * sampleWords (fld (wordAt p.data 0) 0 11)) =
      false := decide_eq_false (not_not.mpr hlen)
  have hband : (b.buoy && p.port.inband && decide (254 < 2 * fld (wordAt p.data 0) 16 16 + b2n p.pchk)) = false := by
    cases hb : b.buoy
    · rfl
    · obtain ⟨_, _, hport⟩ := hbuoy (by simpa [Build.buoy] using hb)
      rcases hport with hport | hfits
      · rw [hport]
        rfl
      · rw [decide_eq_false (Nat.not_lt.mpr hfits), Bool.and_false]
  have hpipe : (b.buoy && !l.pipeOn b 0) = false := by
    cases hb : b.buoy
    · rfl
    · rw [(hbuoy (by simpa [Build.buoy] using hb)).2.1]
      rfl
  have hrange : decide ((b.buoy ∧ p.aBits 0 4 ≠ 0) ∨ fld (wordAt p.data 0) 16 16 = 0 ∨ fld (wordAt p.data 0) 0 11 = 0 ∨
      1024 < fld (wordAt p.data 0) 0 11) = false := by
    refine decide_eq_false ?_
    rintro (⟨hb, hne⟩ | h0 | h0 | hlt)
    · exact hne (hbuoy (by simpa [Build.buoy] using hb)).1
    · omega
    · omega
    · omega
  unfold treeErr
  dsimp only
  rw [hwords, hband, hpipe, hrange]
  simp only [Bool.false_or, firstErr_false]

/-! ### SEQ_QUERY -/

theorem ended_hold (l : Live) (r : Ret) (c : Instr) : ended (l.hold r c) r = ended l r := by
  simp [ended, Live.hold]

/-- A command that is answered was held for nothing. -/
theorem reply_hold (l : Live) (b : Build) (r : Ret) (c : Instr) (status arg : Nat) (ws : List DWord) :
    (l.hold r c).reply b r status arg ws = l.reply b r status arg ws := by
  have hrec : replyRec (l.hold r c) b r status arg ws = replyRec l b r status arg ws := rfl
  cases hp : r.port with
  | mgmt =>
    rw [Live.reply_mgmt hp, Live.reply_mgmt hp]
    simp [Live.hold]
  | fab => rw [reply_fab hp, reply_fab hp, ended_hold, hrec]
  | link n => rw [reply_link hp, reply_link hp, ended_hold, hrec]

/-- What SEQ_QUERY does once it has passed the shared checks. -/
def seqRun (b : Build) (p : Packet) (l : Live) (r : Ret) : Live :=
  ({ l.hold r (.seqQuery p) with eng := { l.eng with
    waits := l.eng.waits ++ [⟨r, p, l.slotLoading true (p.aBits 4 4)⟩] } } : Live).seqTurn b

/-- The job of a query that starts. -/
def seqJob (l : Live) (p : Packet) (r : Ret) : SeqJob where
  r := r
  lost := false
  mode := p.aBits 0 3
  slot := if p.aBits 0 3 = 3 then 0 else p.aBits 4 4
  series := fld (wordAt p.data 0) 0 16
  first := l.sampleOf (fld (wordAt p.data 0) 0 16) (fld (wordAt p.data 0) 16 24)
  len := fld (wordAt p.data 1) 0 23
  q := if p.aBits 0 3 = 3 then querySamples p else []
  gen := l.gen (fld (wordAt p.data 0) 0 16)

/-- The engine's turn with one query that waits. -/
theorem seqTurn_one {w : SeqWait} (hjob : l.eng.job = none) (hwaits : l.eng.waits = [w])
    (hplans : (l.plans.any fun e => e.2.seqReady) = false)
    (hm : m = { l with eng := { l.eng with waits := [] } }) : l.seqTurn b =
      match m.seqQueryErr b w.p w.barred with
      | some e => m.reply b w.r e
      | none => { m with eng := { m.eng with job := some (seqJob m w.p w.r) } } := by
  subst hm
  unfold Live.seqTurn
  rw [hwaits]
  show l.seqNext b (0 + 1) = _
  unfold Live.seqNext
  rw [hjob, hwaits, hplans]
  rfl

/-- With the engine free, the query starts or is answered. -/
theorem seqRun_free (hjob : l.eng.job = none) (hwaits : l.eng.waits = [])
    (hplans : ∀ e ∈ l.plans, e.2.seqReady = false) : seqRun b p l r =
      match l.seqQueryErr b p (l.slotLoading true (p.aBits 4 4)) with
      | some e => l.reply b r e
      | none => { l with
          cmd := { l.cmd with busy := l.cmd.busy ++ [⟨r, .seqQuery p⟩] },
          eng := { l.eng with job := some (seqJob l p r) } } := by
  have hany : (l.plans.any fun e => e.2.seqReady) = false := by
    simpa using hplans
  have heng : ({ l.eng with waits := [] } : Eng) = l.eng := by
    rw [← hwaits]
  have hturn := seqTurn_one (b := b) (m := l.hold r (.seqQuery p))
    (l := { l.hold r (.seqQuery p) with eng := { l.eng with
      waits := l.eng.waits ++ [⟨r, p, l.slotLoading true (p.aBits 4 4)⟩] } })
    (w := ⟨r, p, l.slotLoading true (p.aBits 4 4)⟩) hjob (by rw [hwaits]; rfl) hany
    (congrArg (fun e => ({ l.hold r (.seqQuery p) with eng := e } : Live)) heng.symm)
  refine hturn.trans ?_
  rw [show (l.hold r (.seqQuery p)).seqQueryErr b p (l.slotLoading true (p.aBits 4 4)) =
    l.seqQueryErr b p (l.slotLoading true (p.aBits 4 4)) from rfl]
  cases l.seqQueryErr b p (l.slotLoading true (p.aBits 4 4)) with
  | some e => exact reply_hold l b r _ e 0 []
  | none => rfl

/-! ### Blocks that a job reads -/

/-- `m` differs from `l` in what reading blocks of the cellar changes. -/
def BlockFrame (l m : Live) : Prop :=
  m = { l with
    rf := m.rf, log := m.log, boot := { l.boot with early := m.boot.early },
    mem := { l.mem with cel := m.mem.cel }, out := m.out }

theorem BlockFrame.refl (l : Live) : BlockFrame l l := rfl

theorem BlockFrame.trans (h : BlockFrame l m) (h' : BlockFrame m k) : BlockFrame l k := by
  unfold BlockFrame at *
  rw [h', h]

theorem NoteFrame.block (h : NoteFrame l m) : BlockFrame l m := by
  unfold NoteFrame at h
  unfold BlockFrame
  rw [h]

/-- `m` differs from `l` in what went out only. -/
def OutFrame (l m : Live) : Prop := m = { l with out := m.out }

theorem OutFrame.trans (h : OutFrame l m) (h' : OutFrame m k) : OutFrame l k := by
  unfold OutFrame at *
  rw [h', h]

theorem OutFrame.block (h : OutFrame l m) : BlockFrame l m := by
  unfold OutFrame at h
  unfold BlockFrame
  rw [h]

/-! The port of an address is generalized before its cases are read off: to compute it, the kernel would count the
bytes of the cellar space in unary. -/

/-- Where no port takes the address, or its port has failed. -/
theorem celDead_of_port {o : Option Nat} (h : l.celPort b a = o) : l.celDead b a = (o.elim true fun m => l.celFailed b m) := by
  conv in @Live.celDead => delta Live.celDead
  rw [h]
  cases o <;> rfl

theorem celPort_out (o : List Out) (a : Nat) : ({ l with out := o } : Live).celPort b a = l.celPort b a := rfl
theorem celFailed_out (o : List Out) (m : Nat) : ({ l with out := o } : Live).celFailed b m = l.celFailed b m := rfl
theorem celDead_out (o : List Out) (a : Nat) : ({ l with out := o } : Live).celDead b a = l.celDead b a := by
  rw [celDead_of_port (celPort_out o a), celDead_of_port rfl]
  exact congrArg (fun f => (l.celPort b a).elim true f) (funext fun m => celFailed_out o m)

theorem celBad_of_dead {d : Bool} (h : l.celDead b a = d) : l.celBad b a n =
    if d then [] else (beatsFrom a n).filter fun x => l.mem.cel.contains x := by
  conv in @Live.celBad => delta Live.celBad
  rw [h]

theorem celBad_out (o : List Out) (a n : Nat) : ({ l with out := o } : Live).celBad b a n = l.celBad b a n := by
  rw [celBad_of_dead (celDead_out o a), celBad_of_dead rfl]

/-- A read burst goes out where its port works. -/
theorem outFrame_celBurst (l : Live) (b : Build) (a n : Nat) : OutFrame l (l.celBurst b false a n []) := by
  have hif (c : Prop) [Decidable c] (o : Out) : OutFrame l (if c then l else l.emit o) := by
    split <;> rfl
  conv in @Live.celBurst => delta Live.celBurst
  generalize l.celPort b a = port
  cases port with
  | none => rfl
  | some m => exact hif _ _
theorem blockFrame_celRead (l : Live) (b : Build) (a n : Nat) : BlockFrame l (l.celRead b a n) :=
  (outFrame_celBurst l b a n).block.trans
    (foldl_rel (R := BlockFrame) BlockFrame.refl (fun h h' => h.trans h')
      (fun l (x : Nat) => l.ueSeen b 0x20 (32 * x)) (fun l x => (noteFrame_ueSeen l b 0x20 (32 * x)).block) _ _)

/-- A block that failed is counted and logged. -/
def failNoted (b : Build) (sn : Nat) (l : Live) (no : Nat) : Live :=
  (l.bump b F.SER_ERR_BLK_CHECK).logE b 0x0B02 3 [sn, no]

theorem noteFrame_failNoted (b : Build) (sn : Nat) (l : Live) (no : Nat) : NoteFrame l (failNoted b sn l no) :=
  (noteFrame_bump l b _ _ _).trans (noteFrame_logE _ b _ _ _ _ _)

/-- The blocks of a job are read. -/
def blocksRead (l : Live) (b : Build) (sn n : Nat) (nos : List Nat) : Live :=
  nos.foldl (fun l no => l.celRead b (l.serAddr b sn no) n) l

theorem blockFrame_countRead (l : Live) (b : Build) (sn : Nat) (x : SerRead) : BlockFrame l (l.countRead b sn x) := by
  unfold Live.countRead
  dsimp only
  generalize blkSize (l.get b F.SER_CFG_RATIO sn) = n
  refine BlockFrame.trans ?_ (foldl_rel (R := BlockFrame) BlockFrame.refl (fun h h' => h.trans h')
    (failNoted b sn) (fun l no => (noteFrame_failNoted b sn l no).block) x.fails _)
  refine BlockFrame.trans (foldl_rel (R := BlockFrame) BlockFrame.refl (fun h h' => h.trans h')
    (fun l (no : Nat) => l.celRead b (l.serAddr b sn no) n) (fun l no => blockFrame_celRead l b _ n) x.nos l) ?_
  unfold Live.when
  split
  · exact (noteFrame_bump _ b _ _ _).block
  · rfl

/-- A block without poisoned beats is read off its port, and no more. -/
theorem celRead_clean {a n : Nat} (h : l.celBad b a n = []) : OutFrame l (l.celRead b a n) := by
  unfold Live.celRead
  rw [h, List.foldl_nil]
  exact outFrame_celBurst l b a n

theorem serAddr_out (o : List Out) (sn no : Nat) : ({ l with out := o } : Live).serAddr b sn no = l.serAddr b sn no := rfl

theorem blocksRead_cons (l : Live) (b : Build) (sn n no : Nat) (nos : List Nat) :
    blocksRead l b sn n (no :: nos) = blocksRead (l.celRead b (l.serAddr b sn no) n) b sn n nos :=
  List.foldl_cons ..

theorem celBad_of_outFrame {a n : Nat} (h : OutFrame l m) : m.celBad b a n = l.celBad b a n := by
  unfold OutFrame at h
  rw [h, celBad_out]

theorem serAddr_of_outFrame {sn no : Nat} (h : OutFrame l m) : m.serAddr b sn no = l.serAddr b sn no := by
  unfold OutFrame at h
  rw [h, serAddr_out]

/-- So are several. -/
theorem blocksRead_clean {sn n : Nat} (nos : List Nat) : ∀ {l : Live}, (∀ no ∈ nos,
    l.celBad b (l.serAddr b sn no) n = []) → OutFrame l (blocksRead l b sn n nos) := by
  induction nos with
  | nil => exact fun _ => rfl
  | cons no nos ih =>
    intro l h
    have hfirst := celRead_clean (h no (List.mem_cons_self ..))
    have hrest : OutFrame (l.celRead b (l.serAddr b sn no) n) _ := ih fun no' hno' => by
      rw [serAddr_of_outFrame hfirst, celBad_of_outFrame hfirst]
      exact h no' (List.mem_cons_of_mem _ hno')
    rw [blocksRead_cons]
    exact hfirst.trans hrest

theorem celBad_of_sound {a n : Nat} (h : l.celSpoilt b a n = false) : l.celBad b a n = [] := by
  conv at h in @Live.celSpoilt => delta Live.celSpoilt
  obtain ⟨_, hempty⟩ := Bool.or_eq_false_iff.mp h
  simpa using hempty

/-- A block that is neither failing nor poisoned lies in sound beats. -/
theorem celBad_of_serBlock {sn gen no : Nat} (hf : l.serBlock b sn gen no ≠ .failing)
    (hp : l.serBlock b sn gen no ≠ .poisoned) :
    l.celBad b (l.serAddr b sn no) (blkSize (l.get b F.SER_CFG_RATIO sn)) = [] := by
  refine celBad_of_sound ?_
  by_contra hspoilt
  have hbad := Bool.eq_true_of_not_eq_false hspoilt
  unfold Live.serBlock at hf hp
  cases hring : Tab.find? (l.sery sn).ring (no % l.serNblk b sn) with
  | none => simp [hring] at hf
  | some x => simp [hring, hbad, classify] at hp

/-- What reading one more block gives. -/
def readBlock (l : Live) (b : Build) (sn gen : Nat) (first : Word) (len : Nat) (a : SerRead) (no : Nat) : SerRead :=
  match l.serBlock b sn gen no with
  | .exact xs => { a with xs := a.xs ++ inRange first len no xs }
  | .inexact xs => { a with xs := a.xs ++ inRange first len no xs, inex := a.inex + 1 }
  | .poisoned => { a with poison := true }
  | .overtaken => { a with stale := true }
  | .failing => { a with poison := true, fails := a.fails ++ [no] }

theorem serRead_eq (l : Live) (b : Build) (sn gen : Nat) (first : Word) (len : Nat) : l.serRead b sn gen first len =
    (blocksIn first len).foldl (readBlock l b sn gen first len) ⟨[], 0, false, false, [], blocksIn first len⟩ := rfl

/-- A read that met neither poison nor a failing or overtaken block met none that was spoilt. -/
theorem readBlocks_ok {sn gen : Nat} {first : Word} {len : Nat} : ∀ (nos : List Nat) (a : SerRead),
    (nos.foldl (readBlock l b sn gen first len) a).nos = a.nos ∧
    ((nos.foldl (readBlock l b sn gen first len) a).poison = false →
      (nos.foldl (readBlock l b sn gen first len) a).stale = false →
      a.poison = false ∧ a.stale = false ∧ (nos.foldl (readBlock l b sn gen first len) a).fails = a.fails ∧
      ∀ no ∈ nos, l.serBlock b sn gen no ≠ .failing ∧ l.serBlock b sn gen no ≠ .poisoned)
  | [], a => ⟨rfl, fun hp hs => ⟨hp, hs, rfl, by simp⟩⟩
  | no :: nos, a => by
    obtain ⟨hnos, hok⟩ := readBlocks_ok nos (readBlock l b sn gen first len a no)
    rw [List.foldl_cons]
    have hstep : (readBlock l b sn gen first len a no).nos = a.nos := by
      unfold readBlock
      split <;> rfl
    refine ⟨hnos.trans hstep, fun hp hs => ?_⟩
    obtain ⟨hpoison, hstale, hfails, hrest⟩ := hok hp hs
    rw [hfails]
    unfold readBlock at hpoison hstale ⊢
    cases hblk : l.serBlock b sn gen no with
    | exact xs => simp_all
    | inexact xs => simp_all
    | poisoned => simp_all
    | overtaken => simp_all
    | failing => simp_all

theorem countRead_eq (l : Live) (b : Build) (sn : Nat) (x : SerRead) : l.countRead b sn x =
    x.fails.foldl (failNoted b sn) ((blocksRead l b sn (blkSize (l.get b F.SER_CFG_RATIO sn)) x.nos).when x.stale
      fun l => l.bump b F.SER_ERR_OVERTAKEN) := rfl

/-- The reads of a job that met nothing amiss went out, and no more. -/
theorem countRead_ok {sn gen len : Nat} {first : Word} (hp : (l.serRead b sn gen first len).poison = false)
    (hs : (l.serRead b sn gen first len).stale = false) :
    OutFrame l (l.countRead b sn (l.serRead b sn gen first len)) := by
  obtain ⟨hnos, hok⟩ := readBlocks_ok (l := l) (b := b) (sn := sn) (gen := gen) (first := first) (len := len)
    (blocksIn first len) ⟨[], 0, false, false, [], blocksIn first len⟩
  rw [← serRead_eq] at hnos hok
  obtain ⟨_, _, hfails, hblocks⟩ := hok hp hs
  rw [countRead_eq, hs, Live.when_false, hfails, hnos, List.foldl_nil]
  exact blocksRead_clean _ fun no hno => celBad_of_serBlock (hblocks no hno).1 (hblocks no hno).2

/-! ### SEQ_JOB_DONE -/

/-- The job has left the engine with outcome `res`. -/
def jobLeft (c : Live) (b : Build) (j : SeqJob) (res : Nat × List DWord) : Live :=
  (({ c with eng := { c.eng with
    job := none, jobsDone := if res.1 = 0 then (c.eng.jobsDone + 1) % 2 ^ 32 else c.eng.jobsDone } } : Live).when
      (decide (res.1 = ePoison)) fun l => l.bump b F.SEQ_ERR_POISON).reply b j.r res.1 (if res.1 = 0 then j.series else 0) res.2

theorem waits_jobLeft (c : Live) (b : Build) (j : SeqJob) (res : Nat × List DWord) :
    (jobLeft c b j res).eng.waits = c.eng.waits := by
  unfold jobLeft
  rw [replyFrame_reply]
  unfold Live.when
  split <;> rfl

/-- The three ways in which a job leaves. -/
theorem jobLeft_poison {c : Live} {j : SeqJob} {e : Eng} (h : c.eng = e) : jobLeft c b j (ePoison, []) =
    (({ c with eng := { e with job := none } } : Live).bump b F.SEQ_ERR_POISON).reply b j.r 0x08 := by
  subst h
  rfl

theorem jobLeft_state {c : Live} {j : SeqJob} {e : Eng} (h : c.eng = e) : jobLeft c b j (eState, []) =
    ({ c with eng := { e with job := none } } : Live).reply b j.r 0x07 := by
  subst h
  rfl

theorem jobLeft_ok {c : Live} {j : SeqJob} {e : Eng} {ws : List DWord} (h : c.eng = e) : jobLeft c b j (0, ws) =
    ({ c with eng := { e with job := none, jobsDone := (e.jobsDone + 1) % 2 ^ 32 } } : Live).reply b j.r 0 j.series ws := by
  subst h
  rfl

theorem seqTurn_none (h : l.eng.waits = []) : l.seqTurn b = l := by
  unfold Live.seqTurn
  rw [h]
  rfl

/-- The conditions under which the engine ends its job. -/
structure JobAt (s : State) (j : SeqJob) (rd : SerRead) : Prop where
  awake : s.live.awake = true
  job : s.live.eng.job = some j
  waits : s.live.eng.waits = []
  on : s.live.flag s.build F.UNIT_EN_L_SEQ = true
  read : rd = s.live.serRead s.build j.series j.gen j.first j.len
  model : j.mode ≠ 3 → s.live.bad (.seq j.slot) = false

theorem blockFrame_reads {h : Holder} (hb : BlockFrame l m) : m.bad h = l.bad h ∧ m.eng = l.eng := by
  unfold BlockFrame at hb
  rw [hb]
  exact ⟨rfl, rfl⟩

theorem gives_seqJobDone {j : SeqJob} {rd : SerRead} (h : JobAt s j rd) : Gives .seqJobDone s
    (jobLeft (s.live.countRead s.build j.series rd) s.build j
      ((s.live.countRead s.build j.series rd).seqResult s.build j rd)) := by
  obtain ⟨ha, hjob, hwaits, hon, hrd, hmodel⟩ := h
  obtain ⟨hbad, heng⟩ := blockFrame_reads (h := .seq j.slot) (blockFrame_countRead s.live s.build j.series rd)
  have hmeet : (if j.mode = 3 then s.live.countRead s.build j.series rd
      else (s.live.countRead s.build j.series rd).meet s.build (.seq j.slot)) = s.live.countRead s.build j.series rd := by
    split
    · rfl
    · next hmode => exact meet_clean (hbad.trans (hmodel hmode))
  have hturn : (jobLeft (s.live.countRead s.build j.series rd) s.build j
      ((s.live.countRead s.build j.series rd).seqResult s.build j rd)).eng.waits = [] := by
    rw [waits_jobLeft, heng, hwaits]
  show execSeqJobDone s = _
  refine runAwake_gives ha ?_
  rw [hjob]
  dsimp only
  rw [hon, ← hrd, hmeet]
  exact seqTurn_none hturn

theorem runs_seqQuery (hf : s.build.form = .lantern) (h : Takes (.seqQuery p) s p 0x2A 0) (hlo : 2 ≤ p.data.length)
    (hhi : p.data.length ≤ 2051) : Runs (.seqQuery p) s p (seqRun s.build p) := by
  have hbuoy : s.build.buoy = false := by simp [Build.buoy, hf]
  refine runs_of_takes (o := opRow 0x2A false true 0 2 2051) rfl h ?_ (Nat.le_refl _) ?_ ?_ ?_ <;> rw [hbuoy]
  · rfl
  · rfl
  · exact hlo
  · exact hhi

theorem free_begin (p : Packet) (hjob : l.eng.job = none) (hwaits : l.eng.waits = [])
    (hplans : ∀ e ∈ l.plans, e.2.seqReady = false) : seqRun b p (l.begin p).1 r =
      match l.seqQueryErr b p (l.slotLoading true (p.aBits 4 4)) with
      | some e => (l.begin p).1.reply b r e
      | none => { (l.begin p).1 with
          cmd := { (l.begin p).1.cmd with busy := (l.begin p).1.cmd.busy ++ [⟨r, .seqQuery p⟩] },
          eng := { (l.begin p).1.eng with job := some (seqJob l p r) } } := by
  have hrun := seqRun_free (l := (l.begin p).1) (b := b) (p := p) (r := r) (by rw [begin_frame]; exact hjob)
    (by rw [begin_frame]; exact hwaits) (by rw [begin_frame]; exact hplans)
  have herr : (l.begin p).1.seqQueryErr b p ((l.begin p).1.slotLoading true (p.aBits 4 4)) =
      l.seqQueryErr b p (l.slotLoading true (p.aBits 4 4)) := by
    rw [begin_frame]
    rfl
  have hj : seqJob (l.begin p).1 p r = seqJob l p r := by
    rw [begin_frame]
    rfl
  rw [hrun, herr, hj]

/-- The conditions of SEQ_QUERY that its words decide. -/
structure SeqAsk (b : Build) (l : Live) (p : Packet) : Prop where
  n0 : 0 < fld (wordAt p.data 1) 0 23
  nhi : fld (wordAt p.data 1) 0 23 ≤ 4194304
  form : (p.aBits 0 3 = 1 ∨ p.aBits 0 3 = 2 ∨ p.aBits 0 3 = 4) ∧ p.data.length = 2 ∨
    p.aBits 0 3 = 3 ∧ p.data.length = 3 + ((querySamples p).length + 1) / 2 ∧ 0 < (querySamples p).length ∧
      (querySamples p).length ≤ 4096 ∧ (querySamples p).length ≤ fld (wordAt p.data 1) 0 23 ∧
      (querySamples p).all f32Finite = true ∧ queryFlat (querySamples p) = false
  unit : l.flag b F.UNIT_EN_L_SEQ = true

/-- What is left of its checks is the series and the model. -/
theorem seqQueryErr_asked (h : SeqAsk b l p) (barred : Bool) : l.seqQueryErr b p barred =
    firstErr [
      ((l.sery (fld (wordAt p.data 0) 0 16)).on && !l.readable b (fld (wordAt p.data 0) 0 16)
        (l.sampleOf (fld (wordAt p.data 0) 0 16) (fld (wordAt p.data 0) 16 24)) (fld (wordAt p.data 1) 0 23), eRange),
      (!(l.sery (fld (wordAt p.data 0) 0 16)).on || (decide (p.aBits 0 3 ≠ 3) && (barred ||
        !(l.seqm (p.aBits 4 4)).ready || decide (modKind (l.seqm (p.aBits 4 4)).image ≠ modeKind (p.aBits 0 3)))),
        eState)] := by
  obtain ⟨hn0, hnhi, hform, hunit⟩ := h
  have hlen : (if p.aBits 0 3 = 3 then decide (p.data.length ≠ 3 + ((querySamples p).length + 1) / 2)
      else decide (1 ≤ p.aBits 0 3 ∧ p.aBits 0 3 ≤ 4 ∧ p.data.length ≠ 2)) = false := by
    rcases hform with ⟨hmode, h2⟩ | ⟨hmode, h3, _⟩
    · rw [if_neg (by omega), decide_eq_false_iff_not]
      omega
    · rw [if_pos hmode, decide_eq_false_iff_not]
      omega
  have hrange : decide (p.aBits 0 3 = 0 ∨ 4 < p.aBits 0 3 ∨ fld (wordAt p.data 1) 0 23 = 0 ∨
      4194304 < fld (wordAt p.data 1) 0 23) = false := by
    rw [decide_eq_false_iff_not]
    rcases hform with ⟨hmode, _⟩ | ⟨hmode, _⟩ <;> omega
  have hquery : (decide (p.aBits 0 3 = 3) && (decide (querySamples p = [] ∨ 4096 < (querySamples p).length ∨
      fld (wordAt p.data 1) 0 23 < (querySamples p).length) || (querySamples p).any (fun x => !f32Finite x) ||
        queryFlat (querySamples p))) = false := by
    rcases hform with ⟨hmode, _⟩ | ⟨_, _, hq0, hq4, hqn, hfin, hflat⟩
    · rw [decide_eq_false (by omega), Bool.false_and]
    · have hsize : decide (querySamples p = [] ∨ 4096 < (querySamples p).length ∨
          fld (wordAt p.data 1) 0 23 < (querySamples p).length) = false := by
        rw [decide_eq_false_iff_not]
        rintro (hnil | hbig | hbig)
        · rw [hnil] at hq0
          exact absurd hq0 (by decide)
        · omega
        · omega
      have hall : ((querySamples p).any fun x => !f32Finite x) = false := by
        simpa using hfin
      rw [hsize, hall, hflat]
      exact Bool.and_false _
  unfold Live.seqQueryErr
  dsimp only
  rw [hlen, hunit, hrange, hquery]
  simp only [Bool.not_true, Bool.false_or, firstErr_false]

theorem seqResult_out {j : SeqJob} {rd : SerRead} (h : OutFrame l m) : m.seqResult b j rd = l.seqResult b j rd := by
  unfold OutFrame at h
  rw [h]
  rfl

/-- The result of a job that met nothing amiss. -/
theorem seqResult_ok {j : SeqJob} {rd : SerRead} (hp : rd.poison = false) (hs : rd.stale = false) (hl : j.lost = false)
    (hmodel : j.mode ≠ 3 → l.bad (.seq j.slot) = false) : l.seqResult b j rd =
      (0, seqCommon 0 j.mode false j.slot j.series 0 (decide (rd.inex ≠ 0) ||
          (seqCompute j.mode (if j.mode = 3 then [] else (l.seqm j.slot).image) (l.get b F.SER_CFG_TYPE j.series) j.q
            (zeroState (if j.mode = 3 then [] else (l.seqm j.slot).image)) rd.xs).sat) j.first j.len j.gen
        (nFill (l.get b F.SER_CFG_TYPE j.series) rd.xs)
        (modId (if j.mode = 3 then [] else (l.seqm j.slot).image)) rd.inex ++
          (seqCompute j.mode (if j.mode = 3 then [] else (l.seqm j.slot).image) (l.get b F.SER_CFG_TYPE j.series) j.q
            (zeroState (if j.mode = 3 then [] else (l.seqm j.slot).image)) rd.xs).body) := by
  have hclean : ¬(rd.poison = true ∨ (j.mode ≠ 3 ∧ l.bad (.seq j.slot) = true)) := by
    rw [hp]
    rintro (hno | ⟨hmode, hyes⟩)
    · exact absurd hno (by decide)
    · rw [hmodel hmode] at hyes
      exact absurd hyes (by decide)
  have hlive : ¬(rd.stale = true ∨ j.lost = true) := by
    rw [hs, hl]
    decide
  exact (if_neg hclean).trans (if_neg hlive)

/-- Settles O31: what the engines make of a query, at its start and at its end. -/
theorem queriesRunAndAnswer : Obligations.QueriesRunAndAnswer := by
  refine ⟨fun s p k f n h hf hn hlen hk hn0 hf0 hhi hbuoy => ⟨fun hready => ?_, fun hready hfeat hon => ?_⟩,
    fun s k j rest ha hjobs hslot hon hclean => ?_,
    fun s k j rest m ha hjobs hslot hon hm hm0 hwf => ?_,
    fun s p mode k sn n first q hf h hmode hk hsn hfirst hn hn0 hnhi hq hform hunit hjob hwaits hplans =>
      ⟨fun hoff hbusy => ?_, fun hon hread hslot => ?_⟩,
    fun s j rd g x ha hjob hwaits hunit hrd hmodel hg hx => ⟨fun hp => ?_, fun hp hs => ?_, fun hp hs hl => ?_⟩⟩
  · have hask : TreeAsk s.build s.live p f n k := ⟨hf, hn, hlen, hk, hn0, hf0, hhi, hbuoy⟩
    have herr := treeErr_asked hask
    rw [hready] at herr
    refine runs_congr (runs_treeQuery h (by omega)) ?_
    unfold treeRun
    rw [treeErr_begin, herr]
    rfl
  · have hask : TreeAsk s.build s.live p f n k := ⟨hf, hn, hlen, hk, hn0, hf0, hhi, hbuoy⟩
    have herr := treeErr_asked hask
    have hpipes : ((ensPipes s.build (s.live.tree k).image).any fun q => !s.live.pipeOn s.build q) = false := by
      simpa using hon
    rw [hready, hpipes, decide_eq_false (not_not.mpr hfeat)] at herr
    refine runs_congr (runs_treeQuery h (by omega)) ?_
    unfold treeRun
    rw [treeErr_begin, herr]
    subst hf hn hk
    rfl
  · have hnone : badSamples (treeTaken s.live j rest) s.build j j.feats.length = [] := by
      unfold badSamples
      rw [List.filter_eq_nil_iff]
      intro i hi
      rw [decide_eq_true_iff, not_not]
      exact hclean i (List.mem_range.mp hi)
    have hread : treeRead s.live s.build j rest = (treeTaken s.live j rest, false) :=
      (readUpTo (treeTaken s.live j rest) s.build j j.feats.length).clean hnone
    have hgives := gives_treeQueryDone ha hjobs hslot hon
    rw [hread] at hgives
    exact hgives
  · have hlen : (badSamples (treeTaken s.live j rest) s.build j j.feats.length).length = m := hm.symm
    have hsome : badSamples (treeTaken s.live j rest) s.build j j.feats.length ≠ [] := by
      rw [← List.length_pos_iff, hlen]
      exact hm0
    obtain ⟨hframe, _, _, hbad, hcount⟩ := readUpTo (treeTaken s.live j rest) s.build j j.feats.length
    obtain ⟨hpoison, hflag⟩ := hcount hwf hsome
    have hgives := gives_treeQueryDone ha hjobs hslot hon
    have hbad' : (treeRead s.live s.build j rest).2 = true := hbad hsome
    rw [hbad', if_pos rfl] at hgives
    have hreply := replyFrame_reply ((treeRead s.live s.build j rest).1.cleanQuery j.r.seqNo) s.build j.r ePoison 0 []
    unfold ReplyFrame at hreply
    obtain ⟨hcmd, heng⟩ := hframe.keeps
    refine yields_of_gives hgives ⟨?_, ?_, ?_, fun hport => ?_⟩
    · rw [hreply]
      exact heng
    · rw [hreply, ← hlen]
      exact hpoison
    · rw [hreply]
      exact hflag
    · rw [reply_mgmtReplies hport]
      exact congrArg (fun c : Cmd => c.mgmtReplies ++ _) hcmd
  · subst hmode hk hsn hfirst hn hq
    have hask : SeqAsk s.build s.live p := ⟨hn0, hnhi, hform, hunit⟩
    refine runs_congr (runs_seqQuery hf h (by omega) (by omega)) ?_
    rw [free_begin p hjob hwaits hplans, seqQueryErr_asked hask, hoff]
    rfl
  · subst hmode hk hsn hfirst hn hq
    have hask : SeqAsk s.build s.live p := ⟨hn0, hnhi, hform, hunit⟩
    have hmodel : (decide (p.aBits 0 3 ≠ 3) && (s.live.slotLoading true (p.aBits 4 4) ||
        !(s.live.seqm (p.aBits 4 4)).ready ||
        decide (modKind (s.live.seqm (p.aBits 4 4)).image ≠ modeKind (p.aBits 0 3)))) = false := by
      by_cases h3 : p.aBits 0 3 = 3
      · rw [decide_eq_false (not_not.mpr h3), Bool.false_and]
      · obtain ⟨hload, hready, hkind⟩ := hslot h3
        have hmode : modKind (s.live.seqm (p.aBits 4 4)).image = modeKind (p.aBits 0 3) := by
          rw [hkind, modeKind, if_neg h3]
          split <;> omega
        rw [hload, hready, decide_eq_false (not_not.mpr hmode)]
        exact Bool.and_false _
    refine runs_congr (runs_seqQuery hf h (by omega) (by omega)) ?_
    rw [free_begin p hjob hwaits hplans, seqQueryErr_asked hask, hon, hread, hmodel]
    rfl
  · have hgives := gives_seqJobDone ⟨ha, hjob, hwaits, hunit, hrd, hmodel⟩
    have hres : (s.live.countRead s.build j.series rd).seqResult s.build j rd = (ePoison, []) := if_pos (Or.inl hp)
    obtain ⟨_, heng⟩ := blockFrame_reads (h := .seq j.slot) (blockFrame_countRead s.live s.build j.series rd)
    rw [hres, jobLeft_poison heng] at hgives
    exact hgives
  · have hgives := gives_seqJobDone ⟨ha, hjob, hwaits, hunit, hrd, hmodel⟩
    obtain ⟨hbad, heng⟩ := blockFrame_reads (h := .seq j.slot) (blockFrame_countRead s.live s.build j.series rd)
    have hclean : ¬(rd.poison = true ∨ (j.mode ≠ 3 ∧ (s.live.countRead s.build j.series rd).bad (.seq j.slot) = true)) := by
      rw [hp, hbad]
      rintro (hno | ⟨hmode, hyes⟩)
      · exact absurd hno (by decide)
      · rw [hmodel hmode] at hyes
        exact absurd hyes (by decide)
    have hres : (s.live.countRead s.build j.series rd).seqResult s.build j rd = (eState, []) :=
      (if_neg hclean).trans (if_pos hs)
    rw [hres, jobLeft_state heng] at hgives
    exact hgives
  · have hgives := gives_seqJobDone ⟨ha, hjob, hwaits, hunit, hrd, hmodel⟩
    obtain ⟨_, heng⟩ := blockFrame_reads (h := .seq j.slot) (blockFrame_countRead s.live s.build j.series rd)
    have hout : OutFrame s.live (s.live.countRead s.build j.series rd) := by
      rw [hrd] at hp hs ⊢
      exact countRead_ok hp hs
    rw [seqResult_out hout, seqResult_ok hp hs hl hmodel, jobLeft_ok heng, ← hg, ← hx] at hgives
    exact hgives

end

section

variable {s : State} {l m : Live} {b : Build} {p : Packet} {r : Ret} {u q k : Nat}

/-- A command of the buoy with the privilege and the length of its row runs. -/
theorem runs_of_takes_buoy {c : Instr} {opc level lo hi : Nat} {inL : Bool} {run : Live → Ret → Live}
    (hf : s.build.form = .buoy)
    (hexec : Gives c s (s.live.command s.build c (opRow opc true inL level lo hi) p run))
    (h : Takes c s p opc level) (hload : opc ≠ 0x10 ∧ opc ≠ 0x29) (hlo : lo ≤ p.data.length)
    (hhi : p.data.length ≤ hi) : Runs c s p run := by
  have hbuoy : s.build.buoy = true := by simp [Build.buoy, hf]
  obtain ⟨h10, h29⟩ := hload
  refine runs_of_takes hexec h ?_ (Nat.le_refl _) ?_ ?_ ?_ <;> rw [hbuoy]
  · rfl
  · simp [opRow, h10, h29]
  · exact hlo
  · exact hhi

/-! ### UNIT_REMAP -/

/-- The checks of UNIT_REMAP, in their order. -/
def remapErr (b : Build) (l : Live) (u q : Nat) : Option Nat :=
  firstErr [
    ((l.groups q).any (fun g => !l.tapOn b (g / 8)), eGated),
    (decide (u = 0x3FF), eRange),
    (decide (l.groups q = []) || !l.spare q, eRange),
    ((l.presents q).isSome || l.samp.retired.contains q, eState),
    ((match l.resolve u with
      | some o => decide ((l.groups q).length < (l.groups o).length)
      | none => false), eRange),
    ((l.remapSlot u).isNone, eSlot)]

/-- What UNIT_REMAP does once it has passed the shared checks. -/
def remapRun (b : Build) (p : Packet) (u q : Nat) (l : Live) (r : Ret) : Live :=
  match remapErr b l u q with
  | some e => l.reply b r e
  | none => { l with
      samp := { l.samp with job := some ⟨r, u, q, (l.remapSlot u).getD 0, false, false, false⟩ },
      cmd := { l.cmd with busy := l.cmd.busy ++ [⟨r, .unitRemap p⟩] } }

theorem runs_unitRemap (hf : s.build.form = .buoy) (h : Takes (.unitRemap p) s p 0x4A 2) (hdata : p.data = []) :
    Runs (.unitRemap p) s p (remapRun s.build p (p.aBits 0 10) (p.aBits 10 10)) :=
  runs_of_takes_buoy hf rfl h (by decide) (Nat.zero_le _) (by rw [hdata]; exact Nat.le_refl 0)

theorem remapErr_begin (l : Live) (b : Build) (p : Packet) : remapErr b (l.begin p).1 u q = remapErr b l u q := by
  rw [begin_frame]
  rfl

theorem remapSlot_begin (l : Live) (p : Packet) : (l.begin p).1.remapSlot u = l.remapSlot u := by
  rw [begin_frame]
  rfl

/-- With the target's ports enabled and a unit named, the target decides. -/
theorem remapErr_named (hu : u ≠ 0x3FF) (hon : ∀ g ∈ l.groups q, l.tapOn b (g / 8) = true) : remapErr b l u q =
    firstErr [
      (decide (l.groups q = []) || !l.spare q, eRange),
      ((l.presents q).isSome || l.samp.retired.contains q, eState),
      ((match l.resolve u with
        | some o => decide ((l.groups q).length < (l.groups o).length)
        | none => false), eRange),
      ((l.remapSlot u).isNone, eSlot)] := by
  have hany : ((l.groups q).any fun g => !l.tapOn b (g / 8)) = false := by
    simpa using hon
  unfold remapErr
  rw [hany, firstErr_false, decide_eq_false hu, firstErr_false]

/-- With the target a free spare, its width and the entries decide. -/
theorem remapErr_spare (hu : u ≠ 0x3FF) (hon : ∀ g ∈ l.groups q, l.tapOn b (g / 8) = true) (hg : l.groups q ≠ [])
    (hspare : l.spare q = true) : remapErr b l u q =
    firstErr [
      ((l.presents q).isSome || l.samp.retired.contains q, eState),
      ((match l.resolve u with
        | some o => decide ((l.groups q).length < (l.groups o).length)
        | none => false), eRange),
      ((l.remapSlot u).isNone, eSlot)] := by
  rw [remapErr_named hu hon, hspare, decide_eq_false hg, Bool.not_true, Bool.or_false, firstErr_false]

theorem remapErr_free (hu : u ≠ 0x3FF) (hon : ∀ g ∈ l.groups q, l.tapOn b (g / 8) = true) (hg : l.groups q ≠ [])
    (hspare : l.spare q = true) (hpres : l.presents q = none) (hret : q ∉ l.samp.retired)
    (hwide : ∀ o, l.resolve u = some o → (l.groups o).length ≤ (l.groups q).length) : remapErr b l u q =
    firstErr [((l.remapSlot u).isNone, eSlot)] := by
  have hwidth : (match l.resolve u with
      | some o => decide ((l.groups q).length < (l.groups o).length)
      | none => false) = false := by
    cases hr : l.resolve u with
    | none => rfl
    | some o => exact decide_eq_false (Nat.not_lt.mpr (hwide o hr))
  have hheld : ((l.presents q).isSome || l.samp.retired.contains q) = false := by
    simp [hpres, hret]
  rw [remapErr_spare hu hon hg hspare, hheld, firstErr_false, hwidth, firstErr_false]

/-! ### The switch -/

/-- The lookup of a table whose values change. -/
theorem getD_mapVal {α β : Type} (f : Nat → α → β) (t : Tab α) (i : Nat) (d : β) :
    Tab.getD (Tab.mapVal f t) i d = ((Tab.find? t i).map (f i)).getD d := by
  unfold Tab.getD
  induction t with
  | nil => rfl
  | cons e t ih =>
    obtain ⟨j, a⟩ := e
    show ((Tab.find? ((j, f j a) :: Tab.mapVal f t) i).getD d) = _
    unfold Tab.find?
    by_cases hj : j = i
    · subst hj
      simp
    · rw [if_neg hj, if_neg hj]
      split
      · rfl
      · exact ih

/-- A counter with its line read from the new source. -/
def switched (l : Live) (u : Nat) (_ : Nat) (c : Ctr) : Ctr :=
  if cfgUnit c.cfg = u then match l.cfgLine c.cfg with
    | some x => { c with prev := Config.tapLine l.free x }
    | none => c
  else c

theorem switched_keeps (l : Live) (u i : Nat) (c : Ctr) : (switched l u i c).val = c.val ∧
    (switched l u i c).ovf = c.ovf ∧ (switched l u i c).cfg = c.cfg ∧ (switched l u i c).snap = c.snap := by
  unfold switched
  split
  · split <;> exact ⟨rfl, rfl, rfl, rfl⟩
  · exact ⟨rfl, rfl, rfl, rfl⟩

/-- What the switch of sources leaves of each counter. -/
theorem ctr_sourcesSwitch (l : Live) (u i : Nat) :
    ((l.sourcesSwitch u).ctr i).val = (l.ctr i).val ∧ ((l.sourcesSwitch u).ctr i).ovf = (l.ctr i).ovf ∧
      ((l.sourcesSwitch u).ctr i).cfg = (l.ctr i).cfg ∧ ((l.sourcesSwitch u).ctr i).snap = (l.ctr i).snap := by
  have htab : (l.sourcesSwitch u).ctr i = ((Tab.find? l.samp.ctrs i).map (switched l u i)).getD ctr0 :=
    getD_mapVal (switched l u) l.samp.ctrs i ctr0
  rw [htab]
  unfold Live.ctr Tab.getD
  cases Tab.find? l.samp.ctrs i with
  | none => exact ⟨rfl, rfl, rfl, rfl⟩
  | some c => exact switched_keeps l u i c

/-- The live part in which the remap has its entry and the old unit is retired. -/
def remapSet (l : Live) (j : RemapJob) (retired : List Nat) (travels moved : Bool) : Live :=
  { l with samp := { l.samp with
    retired := retired, job := some { j with switched := true, travels := travels, moved := moved },
    remaps := Tab.insert l.samp.remaps j.entry ⟨j.u, j.p, false⟩ } }

/-- The live part once the sources have switched, where they do. -/
def remapMoved (l : Live) (j : RemapJob) : Live :=
  match l.resolve j.u with
  | some o =>
    let m := remapSet (l.retireWatch o) j (l.samp.retired ++ [o]) (!l.onePort o j.p) (l.onePort o j.p)
    if l.onePort o j.p then m.sourcesSwitch j.u else m
  | none => remapSet l j l.samp.retired false false

theorem gives_remapSwitch {j : RemapJob} (ha : s.live.awake = true) (hjob : s.live.samp.job = some j)
    (hsw : j.switched = false) (hnear : s.live.cutNear = false) (hbehind : s.live.remapBehind j = false) :
    Gives .remapSwitch s ((remapMoved s.live j).genInc j.u) := by
  show execRemapSwitch s = _
  refine runAwake_gives ha ?_
  rw [hjob]
  refine (if_neg ?_).trans rfl
  rw [hsw, hnear, hbehind]
  decide

/-- What the switch of a remap leaves. -/
structure Moved (l m : Live) (j : RemapJob) : Prop where
  job : m.samp.job = some { j with
    switched := true,
    travels := (l.resolve j.u).any fun o => !l.onePort o j.p,
    moved := (l.resolve j.u).any fun o => l.onePort o j.p }
  ctr : ∀ i : Nat, (m.ctr i).val = (l.ctr i).val ∧ (m.ctr i).ovf = (l.ctr i).ovf ∧
    (m.ctr i).cfg = (l.ctr i).cfg ∧ (m.ctr i).snap = (l.ctr i).snap
  retired : m.samp.retired = l.samp.retired ++ (l.resolve j.u).toList
  gens : m.gens = l.gens
  rf : m.rf = l.rf

theorem moved_remapMoved (l : Live) (j : RemapJob) : Moved l (remapMoved l j) j := by
  unfold remapMoved
  cases hr : l.resolve j.u with
  | none => exact ⟨by rw [hr]; rfl, fun i => ⟨rfl, rfl, rfl, rfl⟩, by rw [hr]; exact (List.append_nil _).symm, rfl, rfl⟩
  | some o =>
    dsimp only
    cases hone : l.onePort o j.p
    · exact ⟨by rw [hr, Option.any_some, Option.any_some, hone]; rfl, fun i => ⟨rfl, rfl, rfl, rfl⟩, by rw [hr]; rfl, rfl, rfl⟩
    · exact ⟨by rw [hr, Option.any_some, Option.any_some, hone]; rfl, fun i => ctr_sourcesSwitch _ j.u i, by rw [hr]; rfl,
        rfl, rfl⟩

theorem getD_genInc (hw : Tab.wf l.gens = true) (u k : Nat) : Tab.getD (l.genInc u).gens k 0 =
    if k = u then (Tab.getD l.gens k 0 + 1) % 256 else Tab.getD l.gens k 0 := by
  by_cases hk : k = u
  · rw [if_pos hk, hk]
    exact Tab.getD_upd_same hw u 0 fun g => (g + 1) % 256
  · rw [if_neg hk]
    exact Tab.getD_upd_ne hw (Ne.symm hk) 0 0 fun g => (g + 1) % 256

/-- The entry of the remap is valid, and the sources have switched. -/
def remapFilled (l : Live) (j : RemapJob) : Live :=
  let m : Live := { l with samp := { l.samp with
    job := none, remaps := Tab.insert l.samp.remaps j.entry ⟨j.u, j.p, true⟩ } }
  if j.moved then m else m.sourcesSwitch j.u

theorem remapFilled_keeps (l : Live) (j : RemapJob) : (remapFilled l j).samp.job = none ∧
    (remapFilled l j).samp.remaps = Tab.insert l.samp.remaps j.entry ⟨j.u, j.p, true⟩ ∧
    (remapFilled l j).samp.retired = l.samp.retired ∧ (remapFilled l j).cmd = l.cmd := by
  unfold remapFilled
  dsimp only
  split <;> exact ⟨rfl, rfl, rfl, rfl⟩

theorem remapDone_spec (l : Live) (b : Build) (j : RemapJob) :
    l.remapDone b j = (remapFilled l j).reply b j.r 0 (l.gen j.u) ∧
    ∀ i : Nat, ((remapFilled l j).ctr i).val = (l.ctr i).val ∧ ((remapFilled l j).ctr i).ovf = (l.ctr i).ovf ∧
      ((remapFilled l j).ctr i).cfg = (l.ctr i).cfg := by
  unfold Live.remapDone remapFilled
  dsimp only
  cases j.moved
  · refine ⟨rfl, fun i => ?_⟩
    obtain ⟨hval, hovf, hcfg, _⟩ := ctr_sourcesSwitch ({ l with samp := { l.samp with
      job := none, remaps := Tab.insert l.samp.remaps j.entry ⟨j.u, j.p, true⟩ } } : Live) j.u i
    exact ⟨hval, hovf, hcfg⟩
  · exact ⟨rfl, fun i => ⟨rfl, rfl, rfl⟩⟩

/-- The remap waits longer than the step marks, or is over. -/
theorem gives_remapWait_none {j : StepJob} {t : List StepJob} (ha : s.live.awake = true)
    (hjobs : s.live.samp.stepJobs = j :: t)
    (hjob : ∀ x, s.live.samp.job = some x → x.switched = true ∨ ∃ k ∈ j :: t, k.r.seqNo ≤ x.r.seqNo) :
    Gives .remapWaitTimeout s (({ s.live with samp := { s.live.samp with stepJobs := t } } : Live).reply s.build j.r 0x07) := by
  have hnone : (s.live.samp.job.filter fun j => !j.switched &&
      s.live.samp.stepJobs.all fun k => decide (j.r.seqNo < k.r.seqNo)) = none := by
    rw [Option.filter_eq_none_iff]
    intro x hx hyes
    rw [hjobs] at hyes
    rcases hjob x hx with hsw | ⟨k, hk, hle⟩
    · simp [hsw] at hyes
    · obtain ⟨_, hall⟩ := Bool.and_eq_true_iff.mp hyes
      have := List.all_eq_true.mp hall k hk
      simp only [decide_eq_true_eq] at this
      omega
  show execRemapWaitTimeout s = _
  refine runAwake_gives ha ?_
  dsimp only
  rw [hnone, hjobs]
  rfl

/-! ### STEP_MARK -/

theorem runs_stepMark (hf : s.build.form = .buoy) (h : Takes (.stepMark p) s p 0x61 1) (hdata : p.data = []) :
    Runs (.stepMark p) s p fun l r =>
      match firstErr [
        (decide (p.aBits 0 10 = 0x3FF), eRange),
        ((l.resolve (p.aBits 0 10)).isNone || (decide (p.aBits 16 16 = 0) && !l.stepOpen (p.aBits 0 10)), eState)] with
      | some e => l.reply s.build r e
      | none => { l with
          samp := { l.samp with stepJobs := l.samp.stepJobs ++ [⟨r, p.aBits 0 10, p.aBits 16 16⟩] },
          cmd := { l.cmd with busy := l.cmd.busy ++ [⟨r, .stepMark p⟩] } } :=
  runs_of_takes_buoy hf rfl h (by decide) (Nat.zero_le _) (by rw [hdata]; exact Nat.le_refl 0)

/-- The step of a unit after a mark. -/
def stepAfter (l : Live) (j : StepJob) : StepSt :=
  if j.k = 0 then { Tab.getD l.samp.steps j.u ⟨0, false⟩ with op := false } else ⟨j.k, true⟩

/-- The live part with the mark's step set and, where a step begins, the unit's number counted up. -/
def stepSet (l : Live) (j : StepJob) : Live :=
  { l with
    gens := if j.k = 0 then l.gens else (l.genInc j.u).gens,
    samp := { l.samp with
      stepJobs := l.samp.stepJobs.erase j, steps := Tab.set l.samp.steps j.u ⟨0, false⟩ (stepAfter l j) } }

theorem gives_stepMarkApply {j : StepJob} (ha : s.live.awake = true)
    (hjob : s.live.samp.stepJobs.find? (fun k => !s.live.stepBehind k) = some j) (hnear : s.live.cutNear = false) :
    Gives .stepMarkApply s (((stepSet s.live j).logE s.build 0x1108 1 [j.u, j.k, (stepSet s.live j).gen j.u]).reply s.build j.r 0
      ((stepSet s.live j).gen j.u)) := by
  show execStepMarkApply s = _
  refine runAwake_gives ha ?_
  rw [hjob]
  refine (if_neg (by rw [hnear]; decide)).trans ?_
  dsimp only
  unfold stepSet stepAfter
  by_cases hk : j.k = 0
  · rw [if_pos hk, if_pos hk, if_pos hk]
  · rw [if_neg hk, if_neg hk, if_neg hk, if_neg hk]
    rfl

/-- What applying a mark leaves. -/
theorem stepSet_keeps {j : StepJob} (hw : Tab.wf l.samp.steps = true) (hg : Tab.wf l.gens = true) :
    (stepSet l j).samp.stepJobs = l.samp.stepJobs.erase j ∧ (stepSet l j).samp.ctrs = l.samp.ctrs ∧
    (∀ u : Nat, Tab.getD (stepSet l j).samp.steps u ⟨0, false⟩ =
      if u ≠ j.u then Tab.getD l.samp.steps u ⟨0, false⟩
      else if j.k = 0 then { Tab.getD l.samp.steps u ⟨0, false⟩ with op := false } else ⟨j.k, true⟩) ∧
    (∀ u : Nat, Tab.getD (stepSet l j).gens u 0 = if j.k ≠ 0 ∧ u = j.u then (Tab.getD l.gens u 0 + 1) % 256
      else Tab.getD l.gens u 0) := by
  refine ⟨rfl, rfl, fun u => ?_, fun u => ?_⟩
  · by_cases hu : u = j.u
    · subst hu
      rw [if_neg (not_not.mpr rfl)]
      exact Tab.getD_set_same hw _ _ _
    · rw [if_pos hu]
      exact Tab.getD_set_ne hw (Ne.symm hu) _ _ _
  · unfold stepSet
    by_cases hk : j.k = 0
    · simp [hk]
    · simp [hk, getD_genInc hg]

/-- What the log entry and the reply of a mark keep. -/
theorem answered_keeps (l : Live) (b : Build) (code sev : Nat) (args : List Nat) (r : Ret) (arg : Nat) :
    ((l.logE b code sev args).reply b r 0 arg).samp = l.samp ∧ ((l.logE b code sev args).reply b r 0 arg).gens = l.gens := by
  have hlog := noteFrame_logE l b code sev args 0 0
  unfold NoteFrame at hlog
  rw [replyFrame_reply, hlog]
  exact ⟨rfl, rfl⟩

/-- Settles O32: the checks in their order, the moment clear of cuts, and what waits for it too long. -/
theorem remapsAndStepMarksKeepClearOfCuts : Obligations.RemapsAndStepMarksKeepClearOfCuts := by
  refine ⟨fun s p u q hf h hdata hu hq hne hon => ⟨fun hspare => ?_, fun hg hspare => ⟨fun hheld => ?_,
      fun hpres hret hwide => ⟨fun hslot => ?_, fun e hslot => ?_⟩⟩⟩,
    fun s j ha hjob hsw hwf => ⟨fun hwaits => ?_, fun hnear hfirst => ?_, fun hall => ?_⟩,
    fun s j ha hjob hsw => ?_,
    fun s p u k hf h hdata hu hk hne => ⟨fun hres => ?_, fun hres hopen => ?_⟩,
    fun s j ha hfind hws hwg => ⟨fun hnear => ?_, fun hnear => ?_⟩,
    fun s ha hall => ?_,
    fun s j t ha hjobs hjob => gives_remapWait_none ha hjobs hjob⟩
  · subst hu hq
    refine runs_congr (runs_unitRemap hf h hdata) ?_
    unfold remapRun
    rw [remapErr_begin, remapErr_named hne hon, hspare, Bool.not_false, Bool.or_true]
    rfl
  · subst hu hq
    have hyes : ((s.live.presents (p.aBits 10 10)).isSome || s.live.samp.retired.contains (p.aBits 10 10)) = true := by
      simpa using hheld
    refine runs_congr (runs_unitRemap hf h hdata) ?_
    unfold remapRun
    rw [remapErr_begin, remapErr_spare hne hon hg hspare, hyes]
    rfl
  · subst hu hq
    refine runs_congr (runs_unitRemap hf h hdata) ?_
    unfold remapRun
    rw [remapErr_begin, remapErr_free hne hon hg hspare hpres hret hwide, hslot]
    rfl
  · subst hu hq
    refine runs_congr (runs_unitRemap hf h hdata) ?_
    unfold remapRun
    rw [remapErr_begin, remapErr_free hne hon hg hspare hpres hret hwide, remapSlot_begin, hslot]
    rfl
  · show execRemapSwitch s = _
    refine runAwake_gives ha ?_
    rw [hjob]
    refine if_pos (Or.inr (hwaits.imp id fun ⟨k, hk, hku, hkr⟩ => ?_))
    exact List.any_eq_true.mpr ⟨k, hk, decide_eq_true ⟨hku, hkr⟩⟩
  · have hbehind : s.live.remapBehind j = false := by
      unfold Live.remapBehind
      rw [List.any_eq_false]
      rintro k hk hyes
      obtain ⟨hku, hkr⟩ := of_decide_eq_true hyes
      exact absurd hkr (Nat.not_lt.mpr (hfirst k hk hku))
    obtain ⟨hjob', hctr, hretired, hgens, hrf⟩ := moved_remapMoved s.live j
    refine yields_of_gives (gives_remapSwitch ha hjob hsw hnear hbehind) ⟨hjob', hctr, hretired, fun k => ?_, hrf⟩
    rw [getD_genInc (hgens.symm ▸ hwf), hgens]
  · have hsome : (s.live.samp.job.filter fun j => !j.switched &&
        s.live.samp.stepJobs.all fun k => decide (j.r.seqNo < k.r.seqNo)) = some j := by
      have hlater : (s.live.samp.stepJobs.all fun k => decide (j.r.seqNo < k.r.seqNo)) = true := by
        simpa using hall
      rw [hjob, Option.filter_some, hsw, hlater]
      rfl
    show execRemapWaitTimeout s = _
    refine runAwake_gives ha ?_
    dsimp only
    rw [hsome]
    rfl
  · have hgives : Gives .remapHandoverDone s (s.live.remapDone s.build j) := by
      show execRemapHandoverDone s = _
      refine runAwake_gives ha ?_
      rw [hjob]
      exact if_pos hsw
    obtain ⟨hdone, hctr⟩ := remapDone_spec s.live s.build j
    rw [hdone] at hgives
    have hreply := replyFrame_reply (remapFilled s.live j) s.build j.r 0 (s.live.gen j.u) []
    unfold ReplyFrame at hreply
    obtain ⟨hjob', hremaps, hretired, hcmd⟩ := remapFilled_keeps s.live j
    refine yields_of_gives hgives ⟨?_, ?_, ?_, fun i => ?_, fun hport => ?_⟩
    · rw [hreply, ← hjob']
    · rw [hreply, ← hremaps]
    · rw [hreply, ← hretired]
    · rw [hreply]
      exact hctr i
    · rw [reply_mgmtReplies hport, hcmd]
      rfl
  · subst hu hk
    refine runs_congr (runs_stepMark hf h hdata) ?_
    have hres' : (s.live.begin p).1.resolve (p.aBits 0 10) = none := by rw [begin_frame]; exact hres
    rw [hres', decide_eq_false hne]
    rfl
  · subst hu hk
    refine runs_congr (runs_stepMark hf h hdata) ?_
    have hres' : ((s.live.begin p).1.resolve (p.aBits 0 10)).isNone = false := by
      rw [begin_frame]
      exact Option.isNone_eq_false_iff.mpr hres
    have hopen' : (decide (p.aBits 16 16 = 0) && !(s.live.begin p).1.stepOpen (p.aBits 0 10)) = false := by
      have hsame : (s.live.begin p).1.stepOpen (p.aBits 0 10) = s.live.stepOpen (p.aBits 0 10) := by
        rw [begin_frame]
        rfl
      rcases hopen with hk0 | hop
      · rw [decide_eq_false hk0, Bool.false_and]
      · rw [hsame, hop]
        exact Bool.and_false _
    rw [hres', hopen', decide_eq_false hne]
    rfl
  · show execStepMarkApply s = _
    refine runAwake_gives ha ?_
    rw [hfind]
    exact if_pos hnear
  · obtain ⟨hjobs, hctrs, hsteps, hgens⟩ := stepSet_keeps (j := j) hws hwg
    obtain ⟨hsamp, hgens'⟩ := answered_keeps (stepSet s.live j) s.build 0x1108 1 [j.u, j.k, (stepSet s.live j).gen j.u] j.r
      ((stepSet s.live j).gen j.u)
    refine yields_of_gives (gives_stepMarkApply ha hfind hnear) ⟨?_, fun u => ?_, fun u => ?_, ?_⟩
    · rw [hsamp, hjobs]
    · rw [hsamp, hsteps]
    · rw [hgens', hgens]
    · rw [hsamp, hctrs]
  · have hnone : s.live.samp.stepJobs.find? (fun k => !s.live.stepBehind k) = none := by
      rw [List.find?_eq_none]
      intro k hk
      rw [hall k hk]
      decide
    show execStepMarkApply s = _
    refine runAwake_gives ha ?_
    rw [hnone]

end

section

variable {s : State} {l m : Live} {b : Build} {p : Packet} {r : Ret} {st : PwrSt} {src : Nat}

/-! ### PWR_STATE -/

/-- What PWR_STATE does once it has passed the shared checks. -/
def pwrRun (b : Build) (t : Nat) (l : Live) (r : Ret) : Live :=
  match pwrTarget t with
  | none => l.reply b r eRange
  | some st =>
    match l.refuser b r t with
    | some c => (((l.put b F.PWR_REFUSER_CODE c).bump b (refFld t)).logE b 0x0F01 2 [t, c]).reply b r eState c
    | none =>
      let l := l.reply b r 0
      { l with pwr := { l.pwr with target := some st, wakePend := 0, wasIdle := false } }

theorem runs_pwrState (h : Takes (.pwrState p) s p 0x48 2) (hdata : p.data = []) :
    Runs (.pwrState p) s p (pwrRun s.build (p.aBits 0 3)) :=
  runs_of_takes_both rfl h (by decide) (Nat.zero_le _) (by rw [hdata]; exact Nat.le_refl 0)

/-- A command that starts is none of those that refuse. -/
theorem refuser_begin (l : Live) (b : Build) (p : Packet) (r : Ret) (t : Nat) :
    (l.begin p).1.refuser b r t = l.refuser b r t := by
  have hcmd : (l.begin p).1.cmd.busy = l.cmd.busy ∧ (l.begin p).1.cmd.fwd = l.cmd.fwd := by
    unfold Live.begin
    split <;> exact ⟨rfl, rfl⟩
  obtain ⟨hbusy, hfwd⟩ := hcmd
  have hsame (c : Cmd) (hb : c.busy = l.cmd.busy) (hf : c.fwd = l.cmd.fwd) :
      ({ l with cmd := c } : Live).refusers b r = l.refusers b r := by
    unfold Live.refusers
    rw [hb, hf]
    rfl
  rw [begin_frame]
  unfold Live.refuser
  rw [hsame _ hbusy hfwd]

/-! ### Entries -/

/-- The live part in which `st` is entered. -/
def entered (b : Build) (st : PwrSt) (m : Live) : Live :=
  match st with
  | .run => m
  | .idle => { m with pwr := { m.pwr with st := .idle } }
  | .sleep => { m.markEntry with pwr := { m.pwr with st := .sleep } }
  | .deep => m.deepEntry b
  | .off => m.offEntry

/-- The live part without a target. -/
def arriving (l : Live) : Live := { l with pwr := { l.pwr with target := none } }

/-- With the replies gone and no wake event, a power state is entered. -/
theorem gives_pwrEntry (hready : s.live.boot.ready = true) (hreplies : s.live.cmd.mgmtReplies = [])
    (hpend : s.live.pwr.wakePend = 0) (htarget : s.live.pwr.target = some st) :
    Gives .pwrEntry s (entered s.build st (arriving s.live)) := by
  have hpwr : ({ s.live.pwr with target := none, wakePend := 0 } : Pwr) = { s.live.pwr with target := none } := by
    rw [← hpend]
  have hm : ({ s.live with pwr := { s.live.pwr with target := none, wakePend := 0 } } : Live) = arriving s.live :=
    congrArg (fun p => ({ s.live with pwr := p } : Live)) hpwr
  show execPwrEntry s = _
  refine run_gives ?_
  split
  · next hnone => exact absurd (hnone.symm.trans htarget) (by simp)
  · next t ht =>
    obtain rfl := Option.some.inj (ht.symm.trans htarget)
    refine (if_neg (by simp [hready, hreplies])).trans ?_
    dsimp only
    rw [if_pos hpend, ← hm]
    cases t <;> rfl

theorem offEntry_spec (l : Live) : l.offEntry.pwr.st = .off ∧ l.offEntry.pwr.isoEn = true ∧ l.offEntry.rf = [] ∧
    l.offEntry.plans = [] ∧ l.offEntry.log.ents = [] ∧ l.offEntry.boot.st = l.boot.st ∧ l.offEntry.boot.ready = false :=
  ⟨rfl, rfl, rfl, rfl, rfl, rfl, rfl⟩

theorem deepEntry_spec (l : Live) (b : Build) : (l.deepEntry b).pwr.st = .deep ∧ (l.deepEntry b).pwr.isoEn = true ∧
    (l.deepEntry b).pwr.retEn = true ∧ (l.deepEntry b).plans = [] ∧ (l.deepEntry b).log.ents = [] ∧
    (l.deepEntry b).boot.ready = false := by
  unfold Live.deepEntry Live.when
  dsimp only
  split <;> exact ⟨rfl, rfl, rfl, rfl, rfl, rfl⟩

/-! ### Wake events -/

/-- A wake event of the state, while no entry runs. -/
theorem wakeEvent_exits (hheld : l.boot.held = false) (htarget : l.pwr.target = none)
    (hwakes : wakes src l.pwr.st = true) : l.wakeEvent b src = l.pwrExit b src := by
  unfold Live.wakeEvent
  rw [hheld, htarget]
  exact if_pos hwakes

theorem wakeEvent_ignored (hheld : l.boot.held = false) (htarget : l.pwr.target = none)
    (hwakes : wakes src l.pwr.st = false) : l.wakeEvent b src = l := by
  unfold Live.wakeEvent
  rw [hheld, htarget]
  exact if_neg (hwakes ▸ Bool.false_ne_true)

theorem sleepExit_spec (l : Live) (b : Build) (src : Nat) : (l.sleepExit b src).pwr.st = .run ∧
    (l.sleepExit b src).pwr.wake = src ∧ (l.sleepExit b src).plans = l.plans ∧ (l.sleepExit b src).samp = l.samp := by
  have hmark (m : Live) : (m.markExit b).pwr = m.pwr ∧ (m.markExit b).plans = m.plans ∧ (m.markExit b).samp = m.samp := by
    unfold Live.markExit
    split <;> exact ⟨rfl, rfl, rfl⟩
  unfold Live.sleepExit
  dsimp only
  rw [Live.logE_pwr, Live.logE_plans, Live.logE_samp, (hmark _).1, (hmark _).2.1, (hmark _).2.2]
  exact ⟨rfl, rfl, rfl, rfl⟩

theorem offExit_spec (l : Live) (b : Build) (src : Nat) : (l.offExit b src).pwr.st = .run ∧
    (l.offExit b src).pwr.wake = src ∧ (l.offExit b src).pwr.isoEn = true ∧ (l.offExit b src).boot.ready = false ∧
    (l.offExit b src).boot.st = l.boot.st ∧ (l.offExit b src).plans = [] := by
  unfold Live.offExit
  dsimp only
  rw [Live.logE_pwr, Live.logE_plans, Live.logE_boot_ready, Live.logE_boot_st]
  exact ⟨rfl, rfl, rfl, rfl, rfl, rfl⟩

/-! ### The wake count -/

/-- The live part with TMR written. -/
def timerSet (l : Live) (b : Build) (v : Word) : Live := l.put b F.PWR_WAKE_CTL_TMR (v.toNat / 4)

/-- The count that PWR_WAKE_T holds. -/
def wakeT (l : Live) (b : Build) : Word := BitVec.ofNat 32 (l.get b F.PWR_WAKE_T_T)

theorem writeWakeCtl_enable {v : Word} (hv : v.toNat % 4 = 1) (hnone : l.holdsCmp .wake = false) : l.writeWakeCtl b v =
    if l.timed ∧ l.inWindow (wakeT (timerSet l b v) b) ∧ l.cmpFree b
      then (timerSet l b v).armCmp .wake (wakeT (timerSet l b v) b)
      else (timerSet l b v).put b F.PWR_WAKE_CTL_TREJ 1 := by
  have h0 : v.toNat.testBit 0 = true := by
    rw [Nat.testBit_zero]
    exact decide_eq_true (by omega)
  have h1 : v.toNat.testBit 1 = false := by
    rw [Nat.testBit_eq_decide_div_mod_eq]
    exact decide_eq_false (by omega)
  unfold Live.writeWakeCtl
  dsimp only
  rw [h0, h1, Live.when_false]
  refine (if_neg (by decide)).trans ((if_neg ?_).trans rfl)
  rw [show (l.put b F.PWR_WAKE_CTL_TMR (v.toNat / 4)).holdsCmp .wake = l.holdsCmp .wake from rfl, hnone]
  decide

theorem writeRow_wakeCtl (l : Live) (b : Build) (v : Word) :
    l.writeRow b ⟨0x2814, 0, 1, 1, .none, .none, [F.PWR_WAKE_CTL_TEN, F.PWR_WAKE_CTL_TREJ, F.PWR_WAKE_CTL_TMR]⟩ 0 v =
      l.writeWakeCtl b v :=
  writeRow_of_find (x := (0x2814, fun l b _ v => l.writeWakeCtl b v)) rfl

theorem findReg_wakeCtl (b : Build) : findReg b 0x2814 =
    some (⟨0x2814, 0, 1, 1, .none, .none, [F.PWR_WAKE_CTL_TEN, F.PWR_WAKE_CTL_TREJ, F.PWR_WAKE_CTL_TMR]⟩, 0) := by
  rw [findReg_form]
  cases b.form <;> decide +kernel

theorem gives_wakeCountArm {v : Word} (h : Served s) : Gives (.wakeCountArm v) s ((written s).writeWakeCtl s.build v) := by
  show execWakeCountArm v s = _
  exact writeRow_wakeCtl (written s) s.build v ▸ portWrite_gives h (findReg_wakeCtl s.build) rfl rfl (by decide)

/-- What arming the wake count, or not, leaves. -/
theorem wakeArmed_spec {v : Word} (hw : Tab.wf l.rf = true) (hv : v.toNat % 4 = 1) (hnone : l.holdsCmp .wake = false) :
    (l.writeWakeCtl b v).get b F.PWR_WAKE_CTL_TMR = v.toNat / 4 % 16777216 ∧
      (if l.timed = true ∧ l.inWindow (wakeT l b) = true ∧ l.cmpFree b = true then
        (l.writeWakeCtl b v).time.cmps = l.time.cmps ++ [⟨.wake, wakeT l b, 0⟩]
      else (l.writeWakeCtl b v).time.cmps = l.time.cmps ∧ (l.writeWakeCtl b v).get b F.PWR_WAKE_CTL_TREJ = 1) := by
  have hwf : Tab.wf (timerSet l b v).rf = true := Live.put_wf hw _ _ _
  have htmr : (timerSet l b v).get b F.PWR_WAKE_CTL_TMR = v.toNat / 4 % 16777216 := Live.get_put_same hw _ _ _
  have ht : wakeT (timerSet l b v) b = wakeT l b := by
    unfold wakeT timerSet
    rw [Live.get_put_ne hw (by decide)]
  have hcmps : l.time.cmps.filter (fun c => decide (c.owner ≠ .wake)) = l.time.cmps := by
    rw [List.filter_eq_self]
    intro c hc
    simpa using List.any_eq_false.mp hnone c hc
  rw [writeWakeCtl_enable hv hnone, ht]
  by_cases harm : l.timed = true ∧ l.inWindow (wakeT l b) = true ∧ l.cmpFree b = true
  · rw [if_pos harm, if_pos harm]
    refine ⟨htmr, ?_⟩
    show l.time.cmps.filter (fun c => decide (c.owner ≠ .wake)) ++ _ = _
    rw [hcmps]
  · rw [if_neg harm, if_neg harm]
    exact ⟨(Live.get_put_ne hwf (by decide) _).trans htmr, rfl, Live.get_put_same hwf _ _ _⟩

/-! ### The end of the ramp -/

/-- `m` is as far in its boot as `l`, or READY, and waits for the supply as `l` does. -/
theorem logWrites_keep (b : Build) (es : List LogEv) (l : Live) :
    (es.foldl (fun l e => l.logWrite b e) l).pwr = l.pwr ∧ (es.foldl (fun l e => l.logWrite b e) l).boot.phase = l.boot.phase := by
  have h := (Live.LogOnly.foldl (b := b) (fun l e => l.logWrite b e) (fun l e => Live.logWrite_only l b e) es l).1
  rw [h]
  exact ⟨rfl, rfl⟩

theorem freerun_keeps (l : Live) (b : Build) :
    (l.applyFreerun b).pwr = l.pwr ∧ (l.applyFreerun b).boot.phase = l.boot.phase := by
  unfold Live.applyFreerun
  split
  · obtain ⟨heq, _⟩ | heq := enterLocked_cases ({ l with time := { l.time with slew := 0 } } : Live) b
    · rw [heq]
      exact ⟨rfl, rfl⟩
    · rw [heq]
      dsimp only
      rw [Live.logE_pwr, Live.logE_boot_phase]
      exact ⟨rfl, rfl⟩
  · exact ⟨rfl, rfl⟩

theorem ready_keeps (l : Live) (b : Build) (cycles : Nat) :
    (l.ready b cycles).pwr.ramping = l.pwr.ramping ∧ (l.ready b cycles).boot.phase = 6 := by
  have hgen (m : Live) : (if m.boot.kind = .cold then m else { m with genBase := (m.genBase + 1) % 256 }).pwr = m.pwr := by
    split <;> rfl
  unfold Live.ready
  dsimp only
  rw [(freerun_keeps _ b).1, (freerun_keeps _ b).2, Live.logE_pwr, Live.logE_boot_phase]
  refine ⟨?_, rfl⟩
  dsimp only
  rw [hgen]
  unfold Live.logInit
  dsimp only
  rw [(logWrites_keep b _ _).1]
  rfl

theorem bootStep_keeps (l : Live) (b : Build) (h : l.boot.phase = 3) :
    (l.bootStep b).pwr.ramping = l.pwr.ramping ∧ 3 ≤ (l.bootStep b).boot.phase := by
  have hphase := Nat.le_of_eq h.symm
  unfold Live.bootStep
  split
  · exact ⟨rfl, hphase⟩
  · split
    · split <;> exact ⟨rfl, hphase⟩
    · split
      · split <;> exact ⟨rfl, hphase⟩
      · split
        · dsimp only
          rw [(ready_keeps _ b _).1, (ready_keeps _ b _).2]
          exact ⟨rfl, by decide⟩
        · exact ⟨rfl, Nat.le_succ 3⟩

/-- Settles O34: each entry, each exit by its wake event, and the wake count. -/
theorem powerStatesAreEnteredAndLeft : Obligations.PowerStatesAreEnteredAndLeft := by
  refine ⟨fun s p t st h hdata ht => ⟨fun hnone => ?_, fun hsome => ⟨fun c hc => ?_, fun hfree => ?_⟩⟩,
    fun s hready hreplies hpend => ⟨fun htarget => ?_, fun htarget => ?_, fun htarget => ?_, fun htarget => ?_⟩,
    fun s hheld htarget => ⟨fun hst => ?_, fun hst hmgmt => ?_, fun hst htmr => ?_, fun hst => ?_, fun hst => ⟨?_, ?_⟩⟩,
    fun s => ⟨fun hmgmt => ?_, fun htmr => ?_⟩,
    fun s v t tmr h ht hv htmr hwf hnone => ?_,
    fun s hready hst htarget hidle hauto hbusy => ?_,
    fun s => ⟨fun hramp => ?_, fun hramp => ?_⟩⟩
  · subst ht
    refine runs_congr (runs_pwrState h hdata) ?_
    unfold pwrRun
    rw [hnone]
    rfl
  · subst ht
    refine runs_congr (runs_pwrState h hdata) ?_
    unfold pwrRun
    rw [hsome, refuser_begin, hc]
    rfl
  · subst ht
    refine runs_congr (runs_pwrState h hdata) ?_
    unfold pwrRun
    rw [hsome, refuser_begin, hfree]
  · exact gives_pwrEntry hready hreplies hpend htarget
  · exact yields_of_gives (gives_pwrEntry hready hreplies hpend htarget) (offEntry_spec (arriving s.live))
  · exact yields_of_gives (gives_pwrEntry hready hreplies hpend htarget) (deepEntry_spec (arriving s.live) s.build)
  · exact yields_of_gives (gives_pwrEntry hready hreplies hpend htarget) ⟨rfl, rfl, rfl, rfl⟩
  · show execKeeperWorkWake s = _
    refine run_gives ((wakeEvent_exits hheld htarget (by rw [hst]; rfl)).trans ?_)
    unfold Live.pwrExit
    rw [hst]
    exact if_pos hst
  · show execMgmtWake s = _
    refine run_gives ((if_pos hmgmt).trans ((wakeEvent_exits hheld htarget (by rw [hst]; rfl)).trans ?_))
    unfold Live.pwrExit
    rw [hst]
    rfl
  · have hgives : Gives .aonWakeTimer s (s.live.sleepExit s.build 5) := by
      show execAonWakeTimer s = _
      refine run_gives ((if_neg htmr).trans ((wakeEvent_exits hheld htarget (by rw [hst]; rfl)).trans ?_))
      unfold Live.pwrExit
      rw [hst]
    exact yields_of_gives hgives (sleepExit_spec s.live s.build 5)
  · show execWakeIn s = _
    refine run_gives ((wakeEvent_exits hheld htarget (by rw [hst]; rfl)).trans ?_)
    unfold Live.pwrExit
    rw [hst]
    rfl
  · show execKeeperWorkWake s = _
    exact run_gives (wakeEvent_ignored hheld htarget (by rw [hst]; rfl))
  · have hgives : Gives .wakeIn s (s.live.offExit s.build 1) := by
      show execWakeIn s = _
      refine run_gives ((wakeEvent_exits hheld htarget (by rw [hst]; rfl)).trans ?_)
      unfold Live.pwrExit
      rw [hst]
    exact yields_of_gives hgives (offExit_spec s.live s.build 1)
  · show execMgmtWake s = _
    exact run_gives (if_neg (by rw [hmgmt]; decide))
  · show execAonWakeTimer s = _
    exact run_gives (if_pos htmr)
  · subst ht htmr
    exact yields_of_gives (gives_wakeCountArm h) (wakeArmed_spec (l := written s) hwf hv hnone)
  · show execAutoIdleTimeout s = _
    exact run_gives (if_pos ⟨hready, hst, hidle, htarget, hauto, by rw [hbusy]; rfl⟩)
  · show execSupplyRampDone s = _
    exact run_gives (if_pos (by rw [hramp]; rfl))
  · have hgives : Gives .supplyRampDone s (({ s.live with
        pwr := { s.live.pwr with ramping := false }, boot := { s.live.boot with phase := 3 } } : Live).bootStep s.build) := by
      show execSupplyRampDone s = _
      exact run_gives (if_neg (by rw [hramp]; decide))
    exact yields_of_gives hgives (bootStep_keeps _ s.build rfl)

end

end Sys2Proof.Proofs
end

section
/-! PROOFS. The host power unit, metering, the logbook, scrubbing and hang dumps (O35 to O43). -/

namespace Sys2Proof.Proofs

open Sys2Proof Sys2Proof.Machine Sys2Proof.Claims

section

variable {s : State} {l m : Live} {b : Build} {p : Packet} {q x : PwrReq} {u k phys : Nat} {t : List PwrReq}

/-! ### UNIT_ADJUST -/

/-- The checks of UNIT_ADJUST of unit `u` in kind `k`. -/
def adjustErr (b : Build) (l : Live) (u k : Nat) : Option Nat :=
  firstErr [
    (!l.flag b F.UNIT_EN_B_PWRQ, eGated),
    (decide (u = 0x3FF ∨ k = 0 ∨ k = 3), eRange),
    ((l.resolve u).isNone, eState)]

/-- The live part with one more request that waits, its command in execution. -/
def adjusting (p : Packet) (u k : Nat) (l : Live) (r : Ret) : Live :=
  { l with
    cmd := { l.cmd with busy := l.cmd.busy ++ [⟨r, .unitAdjust p⟩] },
    pwr := { l.pwr with reqs := l.pwr.reqs ++ [⟨r, u, k, false⟩] } }

/-- What UNIT_ADJUST does once it has passed the shared checks. -/
def adjustRun (b : Build) (p : Packet) (u k : Nat) (l : Live) (r : Ret) : Live :=
  match adjustErr b l u k with
  | some e => l.reply b r e
  | none => (adjusting p u k l r).raiseReq b

theorem runs_unitAdjust (hf : s.build.form = .buoy) (h : Takes (.unitAdjust p) s p 0x49 2) (hdata : p.data = []) :
    Runs (.unitAdjust p) s p (adjustRun s.build p (p.aBits 0 10) (p.aBits 10 2)) :=
  runs_of_takes_buoy hf rfl h (by decide) (Nat.zero_le _) (by rw [hdata]; exact Nat.le_refl 0)

theorem adjustErr_begin (l : Live) (b : Build) (p : Packet) : adjustErr b (l.begin p).1 u k = adjustErr b l u k := by
  rw [begin_frame]
  rfl

theorem adjustErr_range (hon : l.flag b F.UNIT_EN_B_PWRQ = true) (hk : k = 0 ∨ k = 3) : adjustErr b l u k = some 0x05 := by
  simp [adjustErr, firstErr, hon, hk, eRange]

theorem adjustErr_named (hon : l.flag b F.UNIT_EN_B_PWRQ = true) (hu : u ≠ 0x3FF) (hk : k = 1 ∨ k = 2) :
    adjustErr b l u k = firstErr [((l.resolve u).isNone, eState)] := by
  have hrange : ¬(u = 0x3FF ∨ k = 0 ∨ k = 3) := by omega
  simp [adjustErr, firstErr, hon, hrange]

theorem pwrqOn_buoy (hf : b.form = .buoy) (hon : l.flag b F.UNIT_EN_B_PWRQ = true) : l.pwrqOn b = true := by
  simp [Live.pwrqOn, Build.buoy, hf, hon]

theorem pwrqOn_begin (l : Live) (b : Build) (p : Packet) : (l.begin p).1.pwrqOn b = l.pwrqOn b := by
  rw [begin_frame]
  rfl

theorem reqs_begin (l : Live) (p : Packet) : (l.begin p).1.pwr.reqs = l.pwr.reqs := by
  rw [begin_frame]

theorem resolve_begin (l : Live) (p : Packet) (u : Nat) : (l.begin p).1.resolve u = l.resolve u := by
  rw [begin_frame]
  rfl

/-- With nothing waiting, nothing is sent. -/
theorem raiseReq_none (h : l.pwr.reqs = []) : l.raiseReq b = l := by
  unfold Live.raiseReq
  rw [h]

/-- Behind a request that has been sent, the next one waits. -/
theorem raiseReq_waits (h : l.pwr.reqs = x :: t) (hsent : x.sent = true) : l.raiseReq b = l := by
  unfold Live.raiseReq
  rw [h]
  exact if_pos (Or.inl hsent)

/-- The live part with the front request sent. -/
def sentReq (l : Live) (x : PwrReq) (t : List PwrReq) : Live :=
  { l with
    pwr := { l.pwr with reqs := { x with sent := true } :: t },
    out := l.out ++ [.pwrReq ((l.resolve x.unit).getD x.unit) x.kind] }

/-- The front request goes out when the unit runs. -/
theorem raiseReq_sends (h : l.pwr.reqs = x :: t) (hsent : x.sent = false) (hon : l.pwrqOn b = true) :
    l.raiseReq b = sentReq l x t := by
  unfold Live.raiseReq
  rw [h]
  exact if_neg (by simp [hsent, hon])

theorem adjusting_sends {r : Ret} (hreqs : l.pwr.reqs = []) (hon : l.pwrqOn b = true) (hu : l.resolve u = some phys) :
    (adjusting p u k l r).raiseReq b = { l with
      cmd := { l.cmd with busy := l.cmd.busy ++ [⟨r, .unitAdjust p⟩] },
      pwr := { l.pwr with reqs := [⟨r, u, k, true⟩] },
      out := l.out ++ [.pwrReq phys k] } := by
  have hfront : (adjusting p u k l r).pwr.reqs = [⟨r, u, k, false⟩] := congrArg (· ++ [_]) hreqs
  rw [raiseReq_sends hfront rfl hon]
  unfold sentReq
  rw [show (adjusting p u k l r).resolve u = some phys from hu]
  rfl

theorem adjusting_waits {r : Ret} (hreqs : l.pwr.reqs = x :: t) (hsent : x.sent = true) :
    (adjusting p u k l r).raiseReq b = adjusting p u k l r := by
  have hfront : (adjusting p u k l r).pwr.reqs = x :: (t ++ [⟨r, u, k, false⟩]) := congrArg (· ++ [_]) hreqs
  exact raiseReq_waits hfront hsent

/-! ### Acknowledges and time-outs -/

/-- The live part with the oldest request taken off. -/
def answeredReq (l : Live) (t : List PwrReq) : Live := { l with pwr := { l.pwr with reqs := t } }

/-- The acknowledge of status `v` answers the oldest request. -/
theorem gives_pwrAck {v : BitVec 2} (ha : s.live.awake = true) (hon : s.live.pwrqOn s.build = true)
    (hlate : s.live.pwr.lateAck = false) (hreqs : s.live.pwr.reqs = q :: t) :
    Gives (.pwrAck v) s ((((answeredReq s.live t).when (decide (min v.toNat 2 = 2)) fun l =>
      (l.bump s.build F.PWRQ_STAT_REFUSED).logE s.build 0x0F04 2 [q.unit, q.kind]).reply s.build q.r 0
        (min v.toNat 2)).raiseReq s.build) := by
  show execPwrAck v s = _
  refine runAwake_gives ha ?_
  refine (if_neg (by simp [hon])).trans ((if_neg (by simp [hlate])).trans ?_)
  rw [hreqs]
  rfl

/-- The live part in which the oldest request has timed out. -/
def timedOutReq (b : Build) (l : Live) (t : List PwrReq) : Live :=
  ({ l with pwr := { l.pwr with reqs := t, lateAck := true } } : Live).bump b F.PWRQ_STAT_TMO

theorem gives_pwrReqTimeout (ha : s.live.awake = true) (hon : s.live.pwrqOn s.build = true)
    (hreqs : s.live.pwr.reqs = q :: t) :
    Gives .pwrReqTimeout s (((timedOutReq s.build s.live t).reply s.build q.r 0x0B).raiseReq s.build) := by
  show execPwrReqTimeout s = _
  refine runAwake_gives ha ?_
  rw [hreqs]
  exact if_neg (by simp [hon])

/-- A counter that is reset to 0 and counts never leaves the table, so it moves no other field. -/
theorem get_bump_ne {f g : Fld} {e i n : Nat} (hrst : l.rst b f e = 0) (hw : 0 < f.w) (hn : 0 < n)
    (hk : f.key e ≠ g.key i) : (l.bump b f e n).get b g i = l.get b g i := by
  have hpow : 2 ≤ 2 ^ f.w := Nat.le_self_pow hw.ne' 2
  have hlt : min (l.get b f e + n) (2 ^ f.w - 1) < 2 ^ f.w := by omega
  have hne : min (l.get b f e + n) (2 ^ f.w - 1) % 2 ^ f.w ≠ l.rst b f e := by
    rw [hrst, Nat.mod_eq_of_lt hlt]
    omega
  have hrf : (l.bump b f e n).rf = Tab.insert l.rf (f.key e) (min (l.get b f e + n) (2 ^ f.w - 1) % 2 ^ f.w) :=
    if_neg hne
  unfold Live.get Tab.getD
  rw [hrf, Tab.find?_insert_ne hk]
  exact congrArg _ (Live.rst_put _ _ _ _ _)

theorem timedOutReq_reqs (b : Build) (l : Live) (t : List PwrReq) (r : Ret) (status : Nat) :
    ((timedOutReq b l t).reply b r status).pwr.reqs = t := by
  have hreply := replyFrame_reply (timedOutReq b l t) b r status 0 []
  unfold ReplyFrame at hreply
  rw [hreply]
  rfl

/-- After a time-out the next request goes out. -/
theorem timedOutReq_sends (hon : l.pwrqOn b = true) (hsent : x.sent = false) (r : Ret) :
    let m := ((timedOutReq b l (x :: t)).reply b r 0x0B).raiseReq b
    m.pwr.reqs = { x with sent := true } :: t ∧
      m.out = l.out ++ [.pwrReq ((l.resolve x.unit).getD x.unit) x.kind] ∧
      (r.port = .mgmt → m.cmd.mgmtReplies = l.cmd.mgmtReplies ++ [replyPacket r.tag r.pchk 0x0B 0 []]) := by
  have hreply := replyFrame_reply (timedOutReq b l (x :: t)) b r 0x0B 0 []
  unfold ReplyFrame at hreply
  have hflag : (timedOutReq b l (x :: t)).flag b F.UNIT_EN_B_PWRQ = l.flag b F.UNIT_EN_B_PWRQ := by
    have hrst : l.rst b F.PWRQ_STAT_TMO 0 = 0 := by cases b with | mk form _ _ _ => cases form <;> rfl
    exact congrArg (Nat.testBit · 0) (get_bump_ne hrst (by decide) (by decide) (by decide))
  have hrun : ((timedOutReq b l (x :: t)).reply b r 0x0B).pwrqOn b = true := by
    rw [hreply, ← hon]
    exact congrArg (b.buoy && ·) hflag
  dsimp only
  rw [raiseReq_sends (timedOutReq_reqs b l (x :: t) r 0x0B) hsent hrun]
  refine ⟨rfl, ?_, fun hmgmt => ?_⟩
  · unfold sentReq
    dsimp only
    rw [hreply]
    rfl
  · exact reply_mgmtReplies hmgmt (timedOutReq b l (x :: t)) b 0x0B 0 []

/-- Settles O35: a request is driven when it is the oldest, and its acknowledge or time-out drives the next. -/
theorem hostUnitRequestsAreAnsweredInOrder : Obligations.HostUnitRequestsAreAnsweredInOrder := by
  refine ⟨fun s p u k hf h hdata hon hu hk hne => ?_, fun s v ha hoff hf => ⟨?_, ?_⟩,
    fun s v q t ha hf hon => ⟨fun hlate => ?_, fun hlate hreqs h2 h3 => ?_, fun hlate hreqs hv => ?_⟩,
    fun s q t ha hreqs hf hon => ⟨fun ht => ?_, fun x rest ht hsent => ?_⟩⟩
  · subst hu hk
    have hruns := runs_unitAdjust hf h hdata
    have hrun : (s.live.begin p).1.pwrqOn s.build = true := (pwrqOn_begin _ _ _).trans (pwrqOn_buoy hf hon)
    refine ⟨fun hk => runs_congr hruns ?_, fun hk => ⟨fun hnone => runs_congr hruns ?_,
      fun q hq hreqs => runs_congr hruns ?_, fun q x t hq hreqs hsent => runs_congr hruns ?_⟩⟩
    · unfold adjustRun
      rw [adjustErr_begin, adjustErr_range hon hk]
    · unfold adjustRun
      rw [adjustErr_begin, adjustErr_named hon hne hk, hnone]
      rfl
    · unfold adjustRun
      rw [adjustErr_begin, adjustErr_named hon hne hk, hq]
      exact adjusting_sends ((reqs_begin _ _).trans hreqs) hrun ((resolve_begin _ _ _).trans hq)
    · unfold adjustRun
      rw [adjustErr_begin, adjustErr_named hon hne hk, hq]
      exact adjusting_waits ((reqs_begin _ _).trans hreqs) hsent
  · show execPwrAck v s = _
    exact runAwake_gives ha (if_pos (by simp [Live.pwrqOn, hoff]))
  · show execPwrReqTimeout s = _
    refine runAwake_gives ha ?_
    split
    · rfl
    · exact if_pos (by simp [Live.pwrqOn, hoff])
  · show execPwrAck v s = _
    refine runAwake_gives ha ?_
    dsimp only
    rw [pwrqOn_buoy hf hon, hlate]
    rfl
  · have hst : min v.toNat 2 = v.toNat := by
      revert h2 h3; revert v; decide
    have hgives := gives_pwrAck (v := v) ha (pwrqOn_buoy hf hon) hlate hreqs
    have hnot : decide (v.toNat = 2) = false := by
      clear hgives hst h3
      revert h2; revert v; decide
    rw [hst, hnot] at hgives
    exact hgives
  · have hst : min v.toNat 2 = 2 := by
      revert hv; revert v; decide
    have hgives := gives_pwrAck (v := v) ha (pwrqOn_buoy hf hon) hlate hreqs
    rw [hst] at hgives
    exact hgives
  · subst ht
    have hgives := gives_pwrReqTimeout ha (pwrqOn_buoy hf hon) hreqs
    rw [raiseReq_none (timedOutReq_reqs _ _ _ _ _)] at hgives
    exact hgives
  · subst ht
    exact yields_of_gives (gives_pwrReqTimeout ha (pwrqOn_buoy hf hon) hreqs)
      (timedOutReq_sends (pwrqOn_buoy hf hon) hsent q.r)

end

section

variable {s : State} {l m : Live} {b : Build} {d r : Nat} {w : Nat} {v : Word}

/-! ### Fields behind the one written -/

/-- A removed row is of no account to the rows behind it, sorted or not. -/
theorem find?_erase_above {α : Type} {k i : Nat} (hk : k < i) : ∀ t : Tab α, Tab.find? (Tab.erase t k) i = Tab.find? t i
  | [] => rfl
  | (j, a) :: t => by
    unfold Tab.erase
    split
    · next hj =>
      subst hj
      exact ((if_neg hk.ne).trans (if_neg (Nat.lt_asymm hk))).symm
    · split
      · rfl
      · simp only [Tab.find?, find?_erase_above hk t]

/-- A field keeps its value when one of a smaller key is written. -/
theorem get_put_above {f g : Fld} {e i : Nat} (hk : f.key e < g.key i) (x : Nat) :
    (l.put b f x e).get b g i = l.get b g i := by
  unfold Live.get
  rw [Live.rst_put]
  unfold Live.put Tab.getD Tab.set
  dsimp only
  split
  · rw [find?_erase_above hk]
  · rw [Tab.find?_insert_ne hk.ne]

/-! ### What series take -/

/-- What is offered to the series leaves all but their events and the count of what a restore discards. -/
theorem offer_frame (l : Live) (b : Build) (f : Nat → Nat → List SVal) : l.offer b f =
    { l with rf := (l.offer b f).rf, ser := { l.ser with events := (l.offer b f).ser.events } } := by
  unfold Live.offer
  dsimp only
  split <;> rfl

theorem get_offer (l : Live) (b : Build) (f : Nat → Nat → List SVal) {g : Fld} {i : Nat}
    (hk : F.REST_STAT_DISCARD.key 0 < g.key i) : (l.offer b f).get b g i = l.get b g i := by
  unfold Live.offer
  dsimp only
  split
  · exact get_put_above hk _
  · rfl

theorem pmbDev_offer (l : Live) (b : Build) (f : Nat → Nat → List SVal) (d : Nat) :
    (l.offer b f).pmbDev d = l.pmbDev d := by
  rw [offer_frame]
  rfl

theorem pwr_offer (l : Live) (b : Build) (f : Nat → Nat → List SVal) : (l.offer b f).pwr = l.pwr := by
  rw [offer_frame]

theorem out_offer (l : Live) (b : Build) (f : Nat → Nat → List SVal) : (l.offer b f).out = l.out := by
  rw [offer_frame]

/-! ### Readings -/

/-- The live part that keeps a reading, and that has offered it to its series. -/
def readKept (b : Build) (l : Live) (d r w : Nat) (t : List (Nat × Nat)) : Live :=
  ({ l with pwr := { l.pwr with
    poll := t, vals := Tab.insert l.pwr.vals (8 * d + r) (l.pmbValue b d r w, w),
    failing := l.pwr.failing.filter fun k => decide (k ≠ 8 * d + r) } } : Live).offer b
      (pmbTake d r (.f32 (l.pmbValue b d r w)))

/-- What a kept reading sets off: the window of VIN, the mask of a status word. -/
def readSeen (b : Build) (d r : Nat) (v : Word) (w : Nat) (l : Live) : Live :=
  if r = 0 then l.vinSeen b d v else if r = 4 then l.statusSeen b d w else l

theorem gives_pmbusReadDone {word : BitVec 16} {t : List (Nat × Nat)} (ha : s.live.awake = true)
    (hon : s.live.pmbOn s.build = true) (hpoll : s.live.pwr.poll = (d, r) :: t) :
    Gives (.pmbusReadDone word) s (readSeen s.build d r (s.live.pmbValue s.build d r word.toNat) word.toNat
      (readKept s.build s.live d r word.toNat t)).pmbNext := by
  show execPmbusReadDone word s = _
  refine runAwake_gives ha ?_
  rw [hpoll]
  exact if_neg (by simp [hon])

theorem readKept_poll (b : Build) (l : Live) (d r w : Nat) (t : List (Nat × Nat)) :
    (readKept b l d r w t).pwr.poll = t := by
  unfold readKept
  rw [pwr_offer]

theorem readKept_val (b : Build) (l : Live) (d r w : Nat) (t : List (Nat × Nat)) :
    Tab.find? (readKept b l d r w t).pwr.vals (8 * d + r) = some (l.pmbValue b d r w, w) := by
  unfold readKept
  rw [pwr_offer]
  exact Tab.find?_insert_same _ _ _

theorem readKept_dev (b : Build) (l : Live) (d r w : Nat) (t : List (Nat × Nat)) (i : Nat) :
    (readKept b l d r w t).pmbDev i = l.pmbDev i :=
  pmbDev_offer _ _ _ _

theorem readKept_wf {t : List (Nat × Nat)} (h : Tab.wf l.pwr.devs = true) :
    Tab.wf (readKept b l d r w t).pwr.devs = true := by
  unfold readKept
  rw [pwr_offer]
  exact h

theorem readKept_out (b : Build) (l : Live) (d r w : Nat) (t : List (Nat × Nat)) :
    (readKept b l d r w t).out = l.out :=
  out_offer _ _ _

/-- The end of a reading asks for the next one and does nothing else. -/
theorem pmbNext_pwr (l : Live) : l.pmbNext.pwr = l.pwr := by
  unfold Live.pmbNext
  split <;> rfl

theorem pmbNext_cons {x : Nat × Nat} {t : List (Nat × Nat)} (h : l.pwr.poll = x :: t) :
    l.pmbNext = l.emit (.pmbRead x.1 x.2 (pmbCmd x.2)) := by
  unfold Live.pmbNext
  rw [h]

theorem pmbDev_logE (l : Live) (b : Build) (code sev : Nat) (args : List Nat) (d : Nat) :
    (l.logE b code sev args).pmbDev d = l.pmbDev d := by
  unfold Live.pmbDev
  rw [Live.logE_pwr]

/-- The alarm of VIN after a reading outside or inside the window. -/
def vinAlarm (x : PmbDev) (outside : Prop) [Decidable outside] : Bool :=
  if outside then x.valm || decide (2 ≤ x.bad) else x.valm && decide (x.good < 2)

/-- A reading of VIN moves the alarm of its device, and nothing else of metering but its counts. -/
theorem vinSeen_spec (hwf : Tab.wf l.pwr.devs = true) (b : Build) (d : Nat) (v : Word) :
    (l.vinSeen b d v).pwr.poll = l.pwr.poll ∧ (l.vinSeen b d v).pwr.vals = l.pwr.vals ∧
    ((l.vinSeen b d v).pmbDev d).valm = vinAlarm (l.pmbDev d)
      (f32Lt v (BitVec.ofNat 32 (l.get b F.PMB_VWIN_LO_LO)) = true ∨
        f32Lt (BitVec.ofNat 32 (l.get b F.PMB_VWIN_HI_HI)) v = true) := by
  unfold Live.vinSeen vinAlarm
  dsimp only
  by_cases hout : f32Lt v (BitVec.ofNat 32 (l.get b F.PMB_VWIN_LO_LO)) = true ∨
      f32Lt (BitVec.ofNat 32 (l.get b F.PMB_VWIN_HI_HI)) v = true
  · have hcount : (min ((l.pmbDev d).bad + 1) 3 = 3) = (2 ≤ (l.pmbDev d).bad) := by
      apply propext
      omega
    simp only [if_pos hout, hcount]
    split
    · rw [Live.logE_pwr, pmbDev_logE, Live.pmbDev_updPmb_same hwf]
      exact ⟨rfl, rfl, rfl⟩
    · rw [Live.pmbDev_updPmb_same hwf]
      exact ⟨rfl, rfl, rfl⟩
  · have hcount : (min ((l.pmbDev d).good + 1) 3 ≠ 3) = ((l.pmbDev d).good < 2) := by
      apply propext
      omega
    simp only [if_neg hout, hcount]
    rw [Live.pmbDev_updPmb_same hwf]
    exact ⟨rfl, rfl, rfl⟩

/-- A status word moves the alarm of its device, and nothing else of metering. -/
theorem statusSeen_spec (hwf : Tab.wf l.pwr.devs = true) (b : Build) (d w : Nat) :
    (l.statusSeen b d w).pwr.poll = l.pwr.poll ∧ (l.statusSeen b d w).out = l.out ∧
    ((l.statusSeen b d w).pmbDev d).salm = decide (w &&& l.get b F.PMB_SMASK_SMASK d ≠ 0) ∧
    ((l.statusSeen b d w).pmbDev d).valm = (l.pmbDev d).valm := by
  unfold Live.statusSeen
  dsimp only
  split
  · rw [Live.logE_pwr, Live.logE_out, pmbDev_logE, Live.pmbDev_updPmb_same hwf]
    exact ⟨rfl, rfl, rfl, rfl⟩
  · rw [Live.pmbDev_updPmb_same hwf]
    exact ⟨rfl, rfl, rfl, rfl⟩

theorem get_readKept (b : Build) (l : Live) (d r w : Nat) (t : List (Nat × Nat)) {g : Fld} {i : Nat}
    (hk : F.REST_STAT_DISCARD.key 0 < g.key i) : (readKept b l d r w t).get b g i = l.get b g i :=
  (get_offer _ _ _ hk).trans rfl

theorem pmbOn_lantern (hf : b.form = .lantern) (hon : l.flag b F.UNIT_EN_L_PMB = true) : l.pmbOn b = true := by
  simp [Live.pmbOn, Build.lantern, hf, hon]

/-- Settles O36: each tick, each reading and each failure asks for the reading after it. -/
theorem meteringReadsInTurn : Obligations.MeteringReadsInTurn := by
  intro s ha hf henabled
  have hon := pmbOn_lantern hf henabled
  refine ⟨?_, fun hcfg hpoll => ?_, fun x t hcfg hpoll hcycle => ?_, fun w d r v t hpoll h0 h4 hv => ?_,
    fun w d v t hpoll hv hwf => ?_, fun w d x t hpoll hwf => ?_, fun why d r t hpoll => ⟨fun hin => ?_, fun hin => ?_⟩⟩
  · show execPmbusAlert s = _
    exact runAwake_gives ha (if_pos hon)
  · show execPmbusPollTick s = _
    exact runAwake_gives ha ((if_neg (by simp [hon, hcfg])).trans (if_pos hpoll))
  · show execPmbusPollTick s = _
    refine runAwake_gives ha ((if_neg (by simp [hon, hcfg])).trans ((if_neg (not_not.mpr hpoll)).trans ?_))
    rw [hcycle]
    rfl
  · subst hv
    have hgives := gives_pmbusReadDone (word := w) ha hon hpoll
    unfold readSeen at hgives
    rw [if_neg h0, if_neg h4] at hgives
    exact hgives
  · subst hv
    obtain ⟨hpolled, hvals, hvalm⟩ := vinSeen_spec (readKept_wf (b := s.build) (d := d) (r := 0) (w := w.toNat) (t := t) hwf)
      s.build d (s.live.pmbValue s.build d 0 w.toNat)
    rw [get_readKept _ _ _ _ _ _ (by decide), get_readKept _ _ _ _ _ _ (by decide), readKept_dev] at hvalm
    refine yields_of_gives (gives_pmbusReadDone ha hon hpoll) ?_
    rw [show readSeen _ d 0 _ _ _ = Live.vinSeen _ _ _ _ from rfl]
    refine ⟨?_, ?_, ?_⟩
    · rw [pmbNext_pwr, hpolled, readKept_poll]
    · rw [pmbNext_pwr, hvals]
      exact readKept_val _ _ _ _ _ _
    · unfold Live.pmbDev
      rw [pmbNext_pwr]
      exact hvalm
  · obtain ⟨hpolled, hout, hsalm, hvalm⟩ := statusSeen_spec
      (readKept_wf (b := s.build) (d := d) (r := 4) (w := w.toNat) (t := x :: t) hwf) s.build d w.toNat
    rw [get_readKept _ _ _ _ _ _ (Nat.lt_add_right d (by decide))] at hsalm
    rw [readKept_dev] at hvalm
    refine yields_of_gives (gives_pmbusReadDone ha hon hpoll) ?_
    rw [show readSeen _ d 4 _ _ _ = Live.statusSeen _ _ _ _ from rfl, pmbNext_cons (hpolled.trans (readKept_poll _ _ _ _ _ _))]
    exact ⟨hpolled.trans (readKept_poll _ _ _ _ _ _), hsalm, hvalm, congrArg (· ++ _) (hout.trans (readKept_out _ _ _ _ _ _))⟩
  · show execPmbusReadTimeout why s = _
    refine runAwake_gives ha ?_
    rw [hpoll]
    refine (if_neg (by simp [hon])).trans ?_
    simp only [hin, not_true_eq_false, decide_false]
    rfl
  · show execPmbusReadTimeout why s = _
    refine runAwake_gives ha ?_
    rw [hpoll]
    refine (if_neg (by simp [hon])).trans ?_
    simp only [hin, not_false_eq_true, decide_true]
    rfl

end

section

variable {s : State} {l m : Live} {b : Build} {p : Packet} {sev n : Nat} {v : Word} {es : List LogEnt}

/-! ### LOG_READ -/

/-- The checks of LOG_READ of `n` entries of severity `sev`. -/
def logErr (b : Build) (l : Live) (sev n : Nat) : Option Nat :=
  firstErr [
    (decide (3 < sev ∨ n = 0), eRange),
    (l.flag b F.LOG_CFG_DRAIN_EN, eState)]

/-- The words of entries that the reply to `p` has room for. -/
def logRoom (b : Build) (p : Packet) : Nat := (if b.buoy ∧ p.port.inband then 254 else 4095) - b2n p.pchk

/-- The reply with the entries `es`, which are gone then, or with the failure of a poisoned one. -/
def logTaken (b : Build) (es : List LogEnt) (l : Live) (r : Ret) : Live :=
  match es.find? (·.bad.isSome) with
  | some e => (l.reply b r ePoison).discardEnt b e
  | none => (l.removeEnts es).reply b r 0 (l.removeEnts es).log.ents.length (es.flatMap LogEnt.words)

/-- What LOG_READ does once it has passed the shared checks. -/
def logReadRun (b : Build) (p : Packet) (sev n : Nat) (l : Live) (r : Ret) : Live :=
  match logErr b l sev n with
  | some e => l.reply b r e
  | none => logTaken b (takeEnts (max 1 sev) n (logRoom b p) l.log.ents) l r

theorem runs_logRead (h : Takes (.logRead p) s p 0x38 1) (hdata : p.data = []) :
    Runs (.logRead p) s p (logReadRun s.build p (p.aBits 0 3) (p.aBits 4 12)) :=
  runs_of_takes_both rfl h (by decide) (Nat.zero_le _) (by rw [hdata]; exact Nat.le_refl 0)

theorem logErr_begin (l : Live) (b : Build) (p : Packet) : logErr b (l.begin p).1 sev n = logErr b l sev n := by
  rw [begin_frame]
  rfl

theorem log_begin (l : Live) (p : Packet) : (l.begin p).1.log = l.log := by
  rw [begin_frame]

theorem rf_begin (l : Live) (p : Packet) : (l.begin p).1.rf = l.rf := by
  rw [begin_frame]

theorem logErr_range (h : 3 < sev ∨ n = 0) : logErr b l sev n = some 0x05 := by
  simp [logErr, firstErr, h, eRange]

theorem logErr_fits (hsev : sev ≤ 3) (hn : 0 < n) :
    logErr b l sev n = if l.flag b F.LOG_CFG_DRAIN_EN then some 0x07 else none := by
  have hrange : ¬(3 < sev ∨ n = 0) := by omega
  simp [logErr, firstErr, hrange, eState]

theorem logRoom_eq (b : Build) (p : Packet) :
    logRoom b p = (if b.form = .buoy ∧ p.port ≠ .mgmt then 254 else 4095) - b2n p.pchk := by
  simp [logRoom, Build.buoy, inband_iff]

/-- Past its checks LOG_READ takes what there is room for. -/
theorem runs_logTaken (h : Takes (.logRead p) s p 0x38 1) (hdata : p.data = []) (hsev : p.aBits 0 3 ≤ 3)
    (hn : 0 < p.aBits 4 12) (hoff : s.live.flag s.build F.LOG_CFG_DRAIN_EN = false)
    (hes : es = takeEnts (max 1 (p.aBits 0 3)) (p.aBits 4 12) (logRoom s.build p) s.live.log.ents) :
    Runs (.logRead p) s p (logTaken s.build es) := by
  refine runs_congr (runs_logRead h hdata) ?_
  unfold logReadRun
  rw [logErr_begin, logErr_fits hsev hn, hoff, log_begin, hes]
  rfl

/-- Sound entries leave with the reply. -/
theorem logTaken_sound (hsound : ∀ e ∈ es, e.bad = none) (l : Live) (r : Ret) : logTaken b es l r =
    (l.removeEnts es).reply b r 0 (l.removeEnts es).log.ents.length (es.flatMap LogEnt.words) := by
  unfold logTaken
  rw [List.find?_eq_none.mpr fun e he => by simp [hsound e he]]

theorem reply_log (l : Live) (b : Build) (r : Ret) (status arg : Nat) (ws : List DWord) :
    (l.reply b r status arg ws).log = l.log ∧ (l.reply b r status arg ws).rf = l.rf := by
  have hframe := replyFrame_reply l b r status arg ws
  unfold ReplyFrame at hframe
  rw [hframe]
  exact ⟨rfl, rfl⟩

/-! ### Draining -/

/-- Without poisoned entries draining discards none. -/
theorem drainPoison_sound (h : ∀ e ∈ l.log.ents, e.bad = none) : l.drainPoison b = l := by
  have hnone : (l.log.ents.filter fun e => e.bad.isSome && decide (l.drainMin b ≤ e.ev.sev) && !e.sel) = [] :=
    List.filter_eq_nil_iff.mpr fun e he => by simp [h e he]
  unfold Live.drainPoison
  rw [hnone]
  rfl

/-- The live part with the entries `es` selected. -/
def drained (es : List LogEnt) (l : Live) : Live :=
  { l with log := { l.log with
    ents := l.log.ents.map (fun a => if es.any fun g => decide (g.lseq = a.lseq) then { a with sel := true } else a)
    attic := l.log.attic.map (fun a => if es.any fun g => decide (g.lseq = a.lseq) then { a with sel := true } else a)
    lostSum := 0 } }

/-- The LOG record of the entries `es`. -/
def logRec (b : Build) (l : Live) (es : List LogEnt) : Rec :=
  mkRec (drained es l) b 0x09 b.mgmtStream 0
    (packW [(0, es.length), (32, min l.log.lostSum 0xFFFFFFFF)] :: es.flatMap LogEnt.words)

theorem drainRec_eq (l : Live) (b : Build) (es : List LogEnt) :
    l.drainRec b es = (drained es l).create b (logRec b l es) := rfl

/-- A LOG record is made of the entries, which are then selected. -/
theorem drainRec_spec (l : Live) (b : Build) (es : List LogEnt) : (l.drainRec b es).log = (drained es l).log ∧
    (l.drainRec b es).rf = l.rf ∧ ∃ q x, (l.drainRec b es).created = l.created ++ [(q, x)] ∧
      x.ty = 0x09 ∧ x.body = (logRec b l es).body := by
  rw [drainRec_eq]
  refine ⟨?_, ?_, _, _, created_create _ _ _, ?_, ?_⟩
  · rw [create_frame]
  · rw [create_frame]
    rfl
  · rw [number_rec]
    rfl
  · rw [number_rec]

theorem gives_logDrain (ha : s.live.awake = true) (hon : s.live.flag s.build F.LOG_CFG_DRAIN_EN = true)
    (hsel : ∀ e ∈ s.live.log.ents, e.sel = false) (hsound : ∀ e ∈ s.live.log.ents, e.bad = none)
    (hes : es = takeEnts (s.live.drainMin s.build) 127 255 s.live.log.ents) :
    Gives .logDrain s (if es = [] ∨ (s.live.fits s.build s.build.mgmtQueue (32 + 8 * usedWords es) false).isNone = true then
      s.live else s.live.drainRec s.build es) := by
  have hfree : (s.live.log.ents.any (·.sel)) = false := List.any_eq_false.mpr fun e he => by simp [hsel e he]
  show execLogDrain s = _
  refine runAwake_gives ha ((if_neg (by simp [hon, hfree])).trans ?_)
  rw [drainPoison_sound hsound, hes]

/-! ### The attic copy -/

theorem findReg_attic (b : Build) : findReg b 0x1CC4 = some (⟨0x1CC4, 0, 1, 1, .none, .none,
    [F.LOG_ATTIC_EN, F.LOG_ATTIC_MINSEV, F.LOG_ATTIC_FIRST, F.LOG_ATTIC_NBANKS_M1]⟩, 0) := by
  rw [findReg_form]
  cases b.form <;> decide +kernel

/-- The row of LOG_ATTIC. -/
def atticRow : RegRow := ⟨0x1CC4, 0, 1, 1, .none, .none,
  [F.LOG_ATTIC_EN, F.LOG_ATTIC_MINSEV, F.LOG_ATTIC_FIRST, F.LOG_ATTIC_NBANKS_M1]⟩

theorem writeRow_attic (l : Live) (b : Build) (v : Word) : l.writeRow b atticRow 0 v = l.writeAttic b v :=
  writeRow_of_find (x := (0x1CC4, fun l b _ v => l.writeAttic b v)) rfl

theorem gives_atticEnable (h : Served s) : Gives (.atticEnable v) s ((written s).writeAttic s.build v) := by
  show execAtticEnable v s = _
  exact writeRow_attic (written s) s.build v ▸ portWrite_gives h (findReg_attic s.build) rfl rfl (by decide)

theorem gives_atticDisable (h : Served s) : Gives (.atticDisable v) s ((written s).writeAttic s.build v) := by
  show execAtticDisable v s = _
  exact writeRow_attic (written s) s.build v ▸ portWrite_gives h (findReg_attic s.build) rfl rfl (by decide)

/-- The live part with the fields of LOG_ATTIC besides EN written. -/
def atticSet (l : Live) (b : Build) (v : Word) : Live :=
  ((l.put b F.LOG_ATTIC_MINSEV (v.toNat / 2)).put b F.LOG_ATTIC_FIRST (v.toNat / 8)).put b
    F.LOG_ATTIC_NBANKS_M1 (v.toNat / 128)

theorem atticSet_spec (hwf : Tab.wf l.rf = true) (b : Build) (v : Word) : Tab.wf (atticSet l b v).rf = true ∧
    (atticSet l b v).get b F.LOG_ATTIC_EN = l.get b F.LOG_ATTIC_EN ∧
    (atticSet l b v).get b F.LOG_ATTIC_MINSEV = v.toNat / 2 % 4 ∧
    (atticSet l b v).get b F.LOG_ATTIC_FIRST = v.toNat / 8 % 16 ∧
    (atticSet l b v).get b F.LOG_ATTIC_NBANKS_M1 = v.toNat / 128 % 4 := by
  have h1 := Live.put_wf hwf (b := b) F.LOG_ATTIC_MINSEV (v.toNat / 2) 0
  have h2 := Live.put_wf h1 (b := b) F.LOG_ATTIC_FIRST (v.toNat / 8) 0
  refine ⟨Live.put_wf h2 (b := b) F.LOG_ATTIC_NBANKS_M1 (v.toNat / 128) 0, ?_, ?_, ?_, ?_⟩ <;> unfold atticSet
  · rw [Live.get_put_ne h2 (by decide), Live.get_put_ne h1 (by decide), Live.get_put_ne hwf (by decide)]
  · rw [Live.get_put_ne h2 (by decide), Live.get_put_ne h1 (by decide), Live.get_put_same hwf]
    rfl
  · rw [Live.get_put_ne h2 (by decide), Live.get_put_same h1]
    rfl
  · rw [Live.get_put_same h2]
    rfl

/-- A write with EN = 1 while it is 0: a setting beyond the banks is refused, another one sets up the copy. -/
theorem writeAttic_sets (hoff : l.flag b F.LOG_ATTIC_EN = false) (hv : v.toNat.testBit 0 = true) : l.writeAttic b v =
    if b.atticBanks ≤ (atticSet l b v).get b F.LOG_ATTIC_FIRST + (atticSet l b v).get b F.LOG_ATTIC_NBANKS_M1 then
      (atticSet l b v).put b F.LOG_FLAG_REJ 1
    else
      let m := (atticSet l b v).put b F.LOG_ATTIC_EN 1
      { m with log := { m.log with attic := atticFill (m.atticMin b) (m.atticCap b) m.log.ents.reverse [] } } := by
  unfold Live.writeAttic
  rw [hoff]
  refine (if_neg Bool.false_ne_true).trans ((if_neg (by simp [hv])).trans rfl)

theorem writeAttic_spec (hwf : Tab.wf l.rf = true) (hoff : l.flag b F.LOG_ATTIC_EN = false)
    (hv : v.toNat.testBit 0 = true) :
    if b.atticBanks ≤ v.toNat / 8 % 16 + v.toNat / 128 % 4 then
      (l.writeAttic b v).log = l.log ∧ (l.writeAttic b v).flag b F.LOG_ATTIC_EN = false ∧
        (l.writeAttic b v).get b F.LOG_FLAG_REJ = 1
    else (l.writeAttic b v).flag b F.LOG_ATTIC_EN = true ∧ (l.writeAttic b v).log.ents = l.log.ents ∧
      (l.writeAttic b v).log.attic = atticFill (max 1 (v.toNat / 2 % 4)) ((v.toNat / 128 % 4 + 1) * b.bankWords)
        l.log.ents.reverse [] := by
  obtain ⟨hset, hen, hmin, hfirst, hbanks⟩ := atticSet_spec hwf b v
  rw [writeAttic_sets hoff hv, hfirst, hbanks]
  by_cases hbeyond : b.atticBanks ≤ v.toNat / 8 % 16 + v.toNat / 128 % 4
  · rw [if_pos hbeyond, if_pos hbeyond]
    refine ⟨rfl, ?_, Live.get_put_same hset _ _ _⟩
    rw [Live.flag, Live.get_put_ne hset (by decide), hen]
    exact hoff
  · rw [if_neg hbeyond, if_neg hbeyond]
    refine ⟨flag_put_same hset (by decide), rfl, ?_⟩
    dsimp only
    rw [Live.atticMin, Live.atticCap, Live.get_put_ne hset (by decide), Live.get_put_ne hset (by decide), hmin, hbanks]
    rfl

/-- Settles O39: LOG_READ by its checks and what it takes, draining, and the writes to LOG_ATTIC. -/
theorem theLogbookIsReadDrainedAndCopied : Obligations.TheLogbookIsReadDrainedAndCopied := by
  refine ⟨fun s p sev n h hdata hsev hn => ⟨fun hbad => ?_, fun hle hpos hon => ?_, fun room es hle hpos hoff hroom hes =>
      ⟨fun hsound => ?_, fun e he => ?_⟩⟩,
    fun s es ha hsel hsound hes => ⟨fun hoff => ?_, fun hon hnil => ?_, fun hon hne hfits => ?_⟩,
    fun s v h hwf => ⟨fun hon hv => ?_, fun hon hv => ?_, fun hoff hv => ?_⟩⟩
  · subst hsev hn
    refine runs_congr (runs_logRead h hdata) ?_
    unfold logReadRun
    rw [logErr_begin, logErr_range hbad]
  · subst hsev hn
    refine runs_congr (runs_logRead h hdata) ?_
    unfold logReadRun
    rw [logErr_begin, logErr_fits hle hpos, hon]
    rfl
  · subst hsev hn
    rw [hroom, ← logRoom_eq] at hes
    have hruns := runs_logTaken h hdata hle hpos hoff hes
    obtain ⟨htag, hchk⟩ := ret_of_starts h.1
    refine yields_of_gives hruns ?_
    rw [logTaken_sound hsound, (reply_log _ _ _ _ _ _).1, (reply_log _ _ _ _ _ _).2]
    refine ⟨congrArg (fun x : Log => x.ents.filter fun a : LogEnt => !(es.any fun g => decide (g.lseq = a.lseq)))
      (log_begin s.live p), fun hmgmt => ?_, rf_begin _ _⟩
    have hport : (retOf s p).port = .mgmt := by
      obtain ⟨_, _, hplace⟩ := h.1
      rw [hplace]
      exact hmgmt
    rw [reply_mgmtReplies hport, htag, hchk]
    exact congrArg (· ++ _) (begin_mgmtReplies _ _)
  · subst hsev hn
    rw [hroom, ← logRoom_eq] at hes
    refine runs_congr (runs_logTaken h hdata hle hpos hoff hes) ?_
    unfold logTaken
    rw [he]
    rfl
  · show execLogDrain s = _
    exact runAwake_gives ha (if_pos (by simp [hoff]))
  · have hgives := gives_logDrain ha hon hsel hsound hes
    rw [if_pos (Or.inl hnil)] at hgives
    exact hgives
  · have hgives := gives_logDrain ha hon hsel hsound hes
    rw [if_neg (by simp [hne, Option.isSome_iff_ne_none.mp hfits])] at hgives
    obtain ⟨hlog, hrf, q, x, hcreated, hty, hbody⟩ := drainRec_spec s.live s.build es
    refine yields_of_gives hgives ⟨?_, ?_, ?_, ?_, hrf⟩
    · rw [hlog]
      rfl
    · rw [hcreated, List.length_append]
      rfl
    · rw [hlog]
      rfl
    · rw [hcreated, List.drop_left]
      intro y hy
      rw [List.mem_singleton.mp hy]
      exact ⟨hty, hbody⟩
  · have heq : (written s).writeAttic s.build v = { (written s).put s.build F.LOG_ATTIC_EN 0 with
        log := { s.live.log with attic := [] } } := by
      unfold Live.writeAttic
      exact (if_pos hon).trans (if_neg (by simp [hv]))
    refine yields_of_gives (gives_atticDisable h) ?_
    rw [heq]
    exact ⟨rfl, flag_put_same (l := written s) hwf (by decide)⟩
  · have heq : (written s).writeAttic s.build v = written s := by
      unfold Live.writeAttic
      exact (if_pos hon).trans (if_pos hv)
    exact heq ▸ gives_atticEnable h
  · exact yields_of_gives (gives_atticEnable h) (writeAttic_spec (l := written s) hwf hoff hv)

end

section

variable {s : State} {l m k : Live} {b : Build} {p : Packet} {r : Ret} {id a n : Nat} {j : ScrubJob}

/-! ### Fields behind those of the logbook -/

/-- The same live part, in which a field holds `v`. -/
def Shows (b : Build) (g : Fld) (i v : Nat) (l m : Live) : Prop := m = l ∧ l.get b g i = v

theorem logSim_shows {g : Fld} {i v : Nat} (hg : 0x1D00 ≤ g.off) : LogSim b (Shows b g i v) where
  log h := by rw [h.1]
  early h := by rw [h.1]
  get _ h _ := by rw [h.1]
  put f x h hf := by
    have hkey : f.key 0 < g.key i := by
      unfold Fld.key
      omega
    exact ⟨by rw [h.1], (get_put_above hkey x).trans h.2⟩
  logAs g h := ⟨by rw [h.1], h.2⟩
  earlyAs es h := ⟨by rw [h.1], h.2⟩

/-- Logging leaves the fields behind its own, in tables of any order. -/
theorem get_logE_above {g : Fld} (hg : 0x1D00 ≤ g.off) (l : Live) (b : Build) (code sev : Nat) (args : List Nat)
    (plan status i : Nat) : (l.logE b code sev args plan status).get b g i = l.get b g i :=
  ((logSim_shows hg).logE (R := Shows b g i (l.get b g i)) ⟨rfl, rfl⟩ code sev args plan status).2

/-- A value other than the reset value is read back, in tables of any order. -/
theorem get_put_inserted {f : Fld} {e v : Nat} (h : v % 2 ^ f.w ≠ l.rst b f e) :
    (l.put b f v e).get b f e = v % 2 ^ f.w := by
  unfold Live.get Tab.getD
  rw [show (l.put b f v e).rf = Tab.insert l.rf (f.key e) (v % 2 ^ f.w) from if_neg h, Tab.find?_insert_same]
  rfl

theorem rst_memFlag (l : Live) (b : Build) : l.rst b F.MEM_FLAG_UE 0 = 0 := by
  cases b with | mk form _ _ _ => cases form <;> rfl

theorem flagged_ueSeen (l : Live) (b : Build) (id a : Nat) : (l.ueSeen b id a).get b F.MEM_FLAG_UE = 1 := by
  rw [ueSeen_eq, get_logE_above (by decide)]
  exact get_put_inserted (by rw [rst_memFlag]; decide)

/-- An uncorrectable word is counted at its memory, and its address is shown. -/
theorem counted_ueSeen (hwf : Tab.wf l.rf = true) (hid : id < 256) (ha : a < 2 ^ 32) :
    (l.ueSeen b id a).get b F.MEM_STAT_UE id = min (l.get b F.MEM_STAT_UE id + 1) (2 ^ F.MEM_STAT_UE.w - 1) ∧
    (l.ueSeen b id a).get b F.MEM_UE_ADDR_ADDR id = a := by
  have hsmall : id < 65536 := by omega
  have hw1 : Tab.wf (l.bump b F.MEM_STAT_UE id).rf = true := Live.put_wf hwf _ _ _
  have hw2 := Live.put_wf (b := b) hw1 F.MEM_UE_ADDR_ADDR a id
  have hw3 := Live.put_wf (b := b) hw2 F.MEM_UE_ADDR_HI_ADDR (a / 2 ^ 32) id
  have hkey (f g : Fld) (hf : f.lo < 32) (hg : g.lo < 32) (hoff : f.off ≠ g.off) (e : Nat) (he : e < 65536) :
      f.key e ≠ g.key id := Fld.key_ne he hsmall hf hg (Or.inl hoff)
  rw [ueSeen_eq, get_logE_above (by decide), get_logE_above (by decide)]
  unfold ueShown
  constructor
  · rw [Live.get_put_ne hw3 (hkey F.MEM_FLAG_UE _ (by decide) (by decide) (by decide) 0 (by decide)),
      Live.get_put_ne hw2 (hkey F.MEM_UE_ADDR_HI_ADDR _ (by decide) (by decide) (by decide) id hsmall),
      Live.get_put_ne hw1 (hkey F.MEM_UE_ADDR_ADDR _ (by decide) (by decide) (by decide) id hsmall)]
    exact Live.get_bump_same hwf _ _ _
  · rw [Live.get_put_ne hw3 (hkey F.MEM_FLAG_UE _ (by decide) (by decide) (by decide) 0 (by decide)),
      Live.get_put_ne hw2 (hkey F.MEM_UE_ADDR_HI_ADDR _ (by decide) (by decide) (by decide) id hsmall),
      Live.get_put_same hw1]
    exact Nat.mod_eq_of_lt ha

/-! ### What an uncorrectable word spoils -/

/-- `m` differs from `l` at most in what holds words: records, units of links, the logbook, the trace, and which words
are known to be bad. -/
def SpoilFrame (l m : Live) : Prop := m = { l with
  ques := m.ques, links := m.links, created := m.created, log := m.log, trace := m.trace,
  mem := { l.mem with bad := m.mem.bad, cel := m.mem.cel } }

theorem spoilFrame_spoils {α : Type} {xs : List α} {f : Nat → Live → Live} (hf : ∀ i (l : Live), SpoilFrame l (f i l)) :
    ∀ g ∈ spoils xs f, ∀ l : Live, SpoilFrame l (g l) := by
  intro g hg l
  obtain ⟨i, _, rfl⟩ := List.mem_map.mp hg
  exact hf i l

theorem spoilFrame_marks (hs : List Holder) (id a : Nat) :
    ∀ g ∈ hs.map (fun h (l : Live) => l.mark id a h), ∀ l : Live, SpoilFrame l (g l) := by
  intro g hg l
  obtain ⟨h, _, rfl⟩ := List.mem_map.mp hg
  rfl

theorem spoilFrame_que (a : Nat) : ∀ g ∈ l.queSpoils a, ∀ m : Live, SpoilFrame m (g m) := by
  intro g hg m
  obtain ⟨e, _, he⟩ := List.mem_flatMap.mp hg
  exact spoilFrame_spoils (fun _ _ => by rfl) g he m

theorem spoilFrame_link (a : Nat) : ∀ g ∈ l.linkSpoils a, ∀ m : Live, SpoilFrame m (g m) := by
  intro g hg m
  obtain ⟨e, _, he⟩ := List.mem_flatMap.mp hg
  rcases List.mem_append.mp he with he | he
  · rcases List.mem_append.mp he with he | he
    · exact spoilFrame_spoils (fun _ _ => by rfl) g he m
    · exact spoilFrame_spoils (fun _ _ => by rfl) g he m
  · exact spoilFrame_spoils (fun _ _ => by rfl) g he m

theorem spoilFrame_spoilable (l : Live) (b : Build) (id a : Nat) :
    ∀ g ∈ l.spoilable b id a, ∀ m : Live, SpoilFrame m (g m) := by
  have hwait : ∀ g ∈ l.waitSpoils, ∀ m : Live, SpoilFrame m (g m) := spoilFrame_spoils fun _ _ => rfl
  have happend {xs ys : List (Live → Live)} (hx : ∀ g ∈ xs, ∀ m : Live, SpoilFrame m (g m))
      (hy : ∀ g ∈ ys, ∀ m : Live, SpoilFrame m (g m)) : ∀ g ∈ xs ++ ys, ∀ m : Live, SpoilFrame m (g m) :=
    fun g hg => (List.mem_append.mp hg).elim (hx g) (hy g)
  unfold Live.spoilable
  dsimp only
  split_ifs
  · exact spoilFrame_marks _ _ _
  · exact happend (spoilFrame_que a) nofun
  · exact happend (spoilFrame_que a) (happend (happend (spoilFrame_link a) hwait) (spoilFrame_marks _ _ _))
  · exact spoilFrame_spoils fun _ _ => rfl
  · exact happend hwait (spoilFrame_marks _ _ _)
  · exact spoilFrame_spoils fun _ _ => rfl
  · exact spoilFrame_spoils fun _ _ => rfl
  · exact nofun

theorem spoilFrame_spoil (l : Live) (b : Build) (id a n : Nat) : SpoilFrame l (l.spoil b id a n) := by
  unfold Live.spoil
  split
  · rfl
  · split
    · rfl
    · split
      · split <;> rfl
      · split
        · next f hf => exact spoilFrame_spoilable l b id a f (List.mem_of_getElem? hf) l
        · rfl

/-- Outside keeper working memory an uncorrectable word is counted and spoils what holds it. -/
theorem uncorrectable_eq (ha : l.awake = true) (hid : id ≠ 0) : l.uncorrectable b id a =
    ({ l.ueSeen b id a with free := (l.ueSeen b id a).free + 1 } : Live).spoil b id a
      (Config.openValue (l.ueSeen b id a).free).toNat := by
  unfold Live.uncorrectable
  exact (if_neg (by simp [ha])).trans (if_neg fun h => hid h.1)

/-- What an uncorrectable word leaves: the registers of `ueSeen`, and walkers, passes and commands as they were. -/
theorem uncorrectable_keeps (ha : l.awake = true) (hid : id ≠ 0) (b : Build) (a : Nat) :
    (l.uncorrectable b id a).rf = (l.ueSeen b id a).rf ∧ (l.uncorrectable b id a).mem.walk = l.mem.walk ∧
    (l.uncorrectable b id a).mem.jobs = l.mem.jobs ∧ (l.uncorrectable b id a).cmd = l.cmd ∧
    (l.uncorrectable b id a).boot.ready = l.boot.ready ∧ (l.uncorrectable b id a).boot.st = l.boot.st := by
  have hspoil := spoilFrame_spoil { l.ueSeen b id a with free := (l.ueSeen b id a).free + 1 } b id a
    (Config.openValue (l.ueSeen b id a).free).toNat
  have hnote := noteFrame_ueSeen l b id a
  unfold SpoilFrame at hspoil
  unfold NoteFrame at hnote
  rw [uncorrectable_eq ha hid, hspoil]
  refine ⟨rfl, ?_, ?_, ?_, ?_, ?_⟩ <;> dsimp only <;> rw [hnote]

theorem get_uncorrectable (ha : l.awake = true) (hid : id ≠ 0) (f : Fld) (e : Nat) :
    (l.uncorrectable b id a).get b f e = (l.ueSeen b id a).get b f e := by
  obtain ⟨hrf, _, _, _, _, hst⟩ := uncorrectable_keeps ha hid b a
  have hnote := noteFrame_ueSeen l b id a
  have hst' : (l.ueSeen b id a).boot.st = l.boot.st := by
    unfold NoteFrame at hnote
    rw [hnote]
  unfold Live.get
  rw [hrf, Live.rst_congr (hst.trans hst'.symm)]

/-! ### The walker -/

/-- The live part with the walker of memory `id` at `w`. -/
def walked (l : Live) (id w : Nat) : Live := { l with mem := { l.mem with walk := Tab.set l.mem.walk id 0 w } }

theorem walk_walked (hwf : Tab.wf l.mem.walk = true) (id w : Nat) : Tab.getD (walked l id w).mem.walk id 0 = w :=
  Tab.getD_set_same hwf _ _ _

theorem walkOn_inside {w ms : Nat} (hw : Tab.getD l.mem.walk id 0 = w) (h : w + n < l.memBytes b id) :
    l.walkOn b id n ms = walked l id (w + n) := by
  unfold Live.walkOn
  rw [hw]
  exact if_neg (Nat.not_le.mpr h)

theorem walkOn_end {w ms : Nat} (hw : Tab.getD l.mem.walk id 0 = w) (h : l.memBytes b id ≤ w + n) :
    l.walkOn b id n ms = (walked l id 0).lapEnd b id ms := by
  unfold Live.walkOn
  rw [hw]
  exact if_pos h

/-- The live part with one correction counted, in the lap too. -/
def lapCounted (b : Build) (l : Live) (id : Nat) : Live :=
  { l.corrected b id 1 with mem := { l.mem with lapCe := Tab.upd l.mem.lapCe id 0 fun n => n + 1 } }

theorem memBytes_lapCounted (l : Live) (b : Build) (id : Nat) : (lapCounted b l id).memBytes b id = l.memBytes b id := rfl

/-- The end of a lap starts the count of corrections again, and logs them if there were any. -/
theorem lapEnd_spec (hwf : Tab.wf l.mem.lapCe = true) (b : Build) (id ms : Nat) :
    (l.lapEnd b id ms).mem.walk = l.mem.walk ∧ Tab.getD (l.lapEnd b id ms).mem.lapCe id 0 = 0 ∧
    (Tab.getD l.mem.lapCe id 0 = 0 → (l.lapEnd b id ms).log = l.log) := by
  have hzero : Tab.getD (Tab.set l.mem.lapCe id 0 0) id 0 = 0 := Tab.getD_set_same hwf _ _ _
  unfold Live.lapEnd
  dsimp only
  split
  · exact ⟨rfl, hzero, fun _ => rfl⟩
  · next hne =>
    rw [Live.logE_mem]
    exact ⟨rfl, hzero, fun h => absurd h hne⟩

/-- What a walker's read does at a word that is to be read. -/
structure WalkerReads (s : State) (id a : Nat) : Prop where
  awake : s.live.awake = true
  noCellar : id ≠ 0x20
  bytes : s.live.memBytes s.build id ≠ 0
  enabled : s.live.flag s.build F.MEM_SCRUB_EN id = true
  at_ : Tab.getD s.live.mem.walk id 0 = a
  running : s.live.memGated s.build id a = false
  sound : s.live.knownBad id a = false

/-- The walker's read by its outcome. -/
def walkerRead (b : Build) (l : Live) (id a lap : Nat) : EccOutcome → Live
  | .clean => l.walkOn b id 8 lap
  | .corrected => (lapCounted b l id).walkOn b id 8 lap
  | .uncorrectable => (l.walkOn b id 8 lap).uncorrectable b id a

theorem gives_scrubWalkerRead {m : BitVec 8} (h : WalkerReads s m.toNat a) (e : EccOutcome) (lap : Nat) :
    Gives (.scrubWalkerRead m e lap) s (walkerRead s.build s.live m.toNat a lap e) := by
  obtain ⟨ha, hcel, hbytes, hen, hat, hrun, hsound⟩ := h
  show execScrubWalkerRead m e lap s = _
  refine runAwake_gives ha ?_
  dsimp only
  refine (if_neg (by simp [hbytes, hen])).trans ?_
  rw [hat, decide_eq_false hcel]
  refine (if_neg (by simp [hrun])).trans ?_
  cases e with
  | clean => exact (if_neg (by simp [hsound])).trans rfl
  | corrected => exact (if_neg (by simp [hsound])).trans rfl
  | uncorrectable => exact (if_pos (Or.inl rfl)).trans rfl

theorem memBytes_lt (hcel : id ≠ 0x20) : l.memBytes b id < 2 ^ 32 := by
  unfold Live.memBytes
  dsimp only
  split_ifs <;> omega

/-! ### SCRUB_RANGE -/

/-- The checks of SCRUB_RANGE of `n` bytes from `a` of memory `id`. -/
def scrubErr (b : Build) (l : Live) (id a n : Nat) : Option Nat :=
  firstErr [
    (decide (l.memBytes b id = 0 ∨ a % 8 ≠ 0 ∨ n % 8 ≠ 0 ∨ n = 0 ∨ 2 ^ 32 < n ∨ l.memBytes b id < a + n), eRange),
    ((memShares id a n).any (l.memGated b id), eGated)]

/-- What SCRUB_RANGE does once it has passed the shared checks. -/
def scrubRun (b : Build) (p : Packet) (id : Nat) (l : Live) (r : Ret) : Live :=
  match scrubErr b l id (wordAt p.data 0).toNat (wordAt p.data 1).toNat with
  | some e => l.reply b r e
  | none => ({ l with mem := { l.mem with
      jobs := startPass (l.mem.jobs ++ [⟨r, id, wordAt p.data 0, wordAt p.data 1, false⟩]) } } : Live).hold r (.scrubRange p)

theorem runs_scrubRange (h : Takes (.scrubRange p) s p 0x40 2) (hdata : p.data.length = 2) :
    Runs (.scrubRange p) s p (scrubRun s.build p (p.aBits 0 8)) :=
  runs_of_takes_both rfl h (by decide) (Nat.le_of_eq hdata.symm) (Nat.le_of_eq hdata)

theorem memBytes_begin (l : Live) (b : Build) (p : Packet) (id : Nat) :
    (l.begin p).1.memBytes b id = l.memBytes b id := by
  rw [begin_frame]
  rfl

/-- The gate of a byte, with the port of the cellar that takes its address. -/
theorem memGated_of_port {o : Option Nat} (h : l.celPort b a = o) : l.memGated b id a =
    if id = 5 then !l.flag b F.UNIT_EN_B_BMON
    else if id = 4 then (Config.smallUnit (a / 8)).any fun u => !(l.unitEn b).testBit u
    else if id = 2 then !l.pipeOn b (b.nodePipe a)
    else if id = 0x20 then o.elim true fun m => !l.flag b F.UNIT_EN_CEL_CEL 0 m
    else false := by
  conv in @Live.memGated => delta Live.memGated
  rw [h]
  cases o <;> rfl

theorem celPort_begin (l : Live) (b : Build) (p : Packet) (a : Nat) : (l.begin p).1.celPort b a = l.celPort b a := by
  rw [begin_frame]
  rfl

theorem memGated_begin (l : Live) (b : Build) (p : Packet) : (l.begin p).1.memGated b = l.memGated b := by
  funext id a
  rw [memGated_of_port (celPort_begin l b p a), memGated_of_port rfl, begin_frame]
  rfl

theorem scrubErr_begin (l : Live) (b : Build) (p : Packet) : scrubErr b (l.begin p).1 id a n = scrubErr b l id a n := by
  unfold scrubErr
  rw [memBytes_begin, memGated_begin]

theorem scrubErr_range (h : l.memBytes b id = 0 ∨ a % 8 ≠ 0 ∨ n % 8 ≠ 0 ∨ n = 0 ∨ l.memBytes b id < a + n) :
    scrubErr b l id a n = some 0x05 := by
  have hbad : l.memBytes b id = 0 ∨ a % 8 ≠ 0 ∨ n % 8 ≠ 0 ∨ n = 0 ∨ 2 ^ 32 < n ∨ l.memBytes b id < a + n := by
    tauto
  unfold scrubErr
  rw [decide_eq_true hbad]
  rfl

theorem scrubErr_inside (ha : a % 8 = 0) (hn : n % 8 = 0) (hpos : 0 < n) (hle : n ≤ 2 ^ 32)
    (hfit : a + n ≤ l.memBytes b id) :
    scrubErr b l id a n = if (memShares id a n).any (l.memGated b id) then some 0x0B else none := by
  have hok : ¬(l.memBytes b id = 0 ∨ a % 8 ≠ 0 ∨ n % 8 ≠ 0 ∨ n = 0 ∨ 2 ^ 32 < n ∨ l.memBytes b id < a + n) := by
    generalize l.memBytes b id = size at hfit ⊢
    omega
  unfold scrubErr
  rw [decide_eq_false hok]
  rfl

/-! ### The end of a pass -/

/-- The live part after the pass `j` ended with `ce` corrections and was the last. -/
def passEnded (b : Build) (l : Live) (j : ScrubJob) (ce : Nat) : Live :=
  ({ l with mem := { l.mem with jobs := [] } } : Live).corrected b j.mem ce

theorem passEnded_awake (b : Build) (l : Live) (j : ScrubJob) (ce : Nat) : (passEnded b l j ce).awake = l.awake := rfl

/-- The end of the pass `j` that found `bad` uncorrectable, none of them known before. -/
def passDone (b : Build) (j : ScrubJob) (ce : Nat) (bad : List Nat) (l : Live) : Live :=
  let m := bad.foldl (fun l x => l.uncorrectable b j.mem x) l
  if !m.boot.ready then m
  else m.reply b j.r 0 0 [packW [(0, ce % 2 ^ 32), (32, bad.length % 2 ^ 32)],
    BitVec.ofNat 64 (match bad with
      | [] => 2 ^ 64 - 1
      | x :: t => t.foldl min x)]

theorem passDone_clean {ce : Nat} (hready : l.boot.ready = true) (hlt : ce < 4294967296) : passDone b j ce [] l =
    l.reply b j.r 0 0 [packW [(0, ce), (32, 0)], BitVec.ofNat 64 (2 ^ 64 - 1)] := by
  have hce : ce % 2 ^ 32 = ce := Nat.mod_eq_of_lt hlt
  unfold passDone
  rw [hce, List.foldl_nil]
  exact if_neg (by simp [hready])

theorem passDone_one {ce : Nat} {f : DWord} (ha : l.awake = true) (hid : j.mem ≠ 0) (hready : l.boot.ready = true)
    (hlt : ce < 4294967296) : passDone b j ce [f.toNat] l =
    (l.uncorrectable b j.mem f.toNat).reply b j.r 0 0 [packW [(0, ce), (32, 1)], f] := by
  obtain ⟨_, _, _, _, hboot, _⟩ := uncorrectable_keeps ha hid b f.toNat
  have hword : BitVec.ofNat 64 ([].foldl min f.toNat) = f := (BitVec.ofNat_toNat 64 f).trans (BitVec.setWidth_eq f)
  have hce : ce % 2 ^ 32 = ce := Nat.mod_eq_of_lt hlt
  unfold passDone
  dsimp only
  rw [hce, hword, List.foldl_cons, List.foldl_nil]
  exact if_neg (by simp [hboot, hready])

/-- A pass that found no uncorrectable word answers so. -/
theorem gives_scrubRangeDone_clean {first : DWord} {ce : Nat} (ha : s.live.awake = true) (hjobs : s.live.mem.jobs = [j])
    (hcel : j.mem ≠ 0x20) (hce : ce ≤ j.len.toNat / 8) (hlt : ce < 4294967296) (hready : s.live.boot.ready = true)
    (hknown : s.live.knownWords j.mem j.start.toNat j.len.toNat = []) :
    Gives (.scrubRangeDone ce 0 first) s ((passEnded s.build s.live j ce).reply s.build j.r 0 0
      [packW [(0, ce), (32, 0)], BitVec.ofNat 64 (2 ^ 64 - 1)]) := by
  show execScrubRangeDone ce 0 first s = _
  refine runAwake_gives ha ?_
  rw [hjobs]
  refine (if_neg (by omega)).trans ?_
  dsimp only
  rw [decide_eq_false hcel, if_neg Bool.false_ne_true, hknown, if_neg Bool.false_ne_true]
  exact passDone_clean (l := passEnded s.build s.live j ce) hready hlt

/-- The one word that a pass found, in units of words. -/
theorem foundWord {f : DWord} (h : f.toNat % 8 = 0) (free hi : Nat) :
    ((f.toNat / 8 :: spread free (1 - 1) (f.toNat / 8 + 1) hi).map (8 * ·)).filter (fun x => !([] : List Nat).contains x) =
      [f.toNat] := by
  have hmul : 8 * (f.toNat / 8) = f.toNat := by omega
  simp [spread, hmul]

/-- A pass that found one uncorrectable word answers with its address. -/
theorem gives_scrubRangeDone_one {f : DWord} {ce : Nat} (ha : s.live.awake = true) (hjobs : s.live.mem.jobs = [j])
    (hcel : j.mem ≠ 0x20) (hid : j.mem ≠ 0) (hce : ce + 1 ≤ j.len.toNat / 8) (hlt : ce < 4294967296)
    (hready : s.live.boot.ready = true) (hknown : s.live.knownWords j.mem j.start.toNat j.len.toNat = [])
    (hlo : j.start.toNat ≤ f.toNat) (hhi : f.toNat + 8 ≤ j.start.toNat + j.len.toNat) (h8 : f.toNat % 8 = 0) :
    Gives (.scrubRangeDone ce 1 f) s (((passEnded s.build s.live j ce).uncorrectable s.build j.mem f.toNat).reply s.build j.r
      0 0 [packW [(0, ce), (32, 1)], f]) := by
  show execScrubRangeDone ce 1 f s = _
  refine runAwake_gives ha ?_
  rw [hjobs]
  refine (if_neg (by omega)).trans ?_
  dsimp only
  rw [decide_eq_false hcel, if_neg Bool.false_ne_true, hknown, if_neg Bool.false_ne_true, if_neg Nat.one_ne_zero,
    foundWord h8]
  exact passDone_one (l := passEnded s.build s.live j ce) ha hid hready hlt

/-! ### Canary runs -/

theorem tempBin_le (v : Int) : tempBin v ≤ 7 := by
  unfold tempBin
  split
  · exact Nat.zero_le 7
  · exact Nat.min_le_left _ _

theorem loadBin_le (busy total : Nat) : loadBin busy total ≤ 3 := by
  unfold loadBin
  split_ifs <;> decide

theorem canBin_lt (hf : b.form = .lantern) (load : CanLoad) : l.canBin b (loadBin load.busy load.total) < 32 := by
  have hload := loadBin_le load.busy load.total
  have htemp (v : Option (Word × Nat)) : (match v with
      | some (v, _) => (match f32ToFix 32 4 v with
        | some (i, _) => tempBin i
        | none => 0)
      | none => 0) ≤ 7 := by
    split
    · split
      · exact tempBin_le _
      · exact Nat.zero_le 7
    · exact Nat.zero_le 7
  have hsum {t x : Nat} (ht : t ≤ 7) (hx : x ≤ 3) : t + 8 * x < 32 := by omega
  unfold Live.canBin
  simp only [Build.buoy, hf, reduceCtorEq, decide_false, Bool.false_eq_true, if_false]
  exact hsum (htemp _) hload

/-- The live part with one more run counted. -/
def runCounted (l : Live) : Live := { l with mem := { l.mem with runs := (l.mem.runs + 1) % 65536 } }

/-- The live part with the outcome of the last run written. -/
def canSet (b : Build) (l : Live) (units : Nat) : Live :=
  ((l.put b F.CNRY_STAT_UNITS units).put b F.CNRY_STAT_PASS (b2n (decide (units = 0)))).put b F.CNRY_STAT_NOTRUN 0

/-- The live part with the registers of a run that has ended. -/
def canShown (b : Build) (l : Live) (units pipes : Nat) : Live :=
  let l := (runCounted (canSet b l units)).put b F.CNRY_STAT2_PIPES pipes
  l.put b F.CNRY_FT_FT l.ft.toNat

/-- The live part with a failed run counted in its bin and in the flags. -/
def canFailed (b : Build) (l : Live) (units bin : Nat) : Live :=
  let l := l.bump b F.CNRY_BIN_FAIL bin
  (l.put b F.CNRY_FAIL_UNITS (l.get b F.CNRY_FAIL_UNITS ||| units)).put b F.MEM_FLAG_CNRY 1

theorem canaryRan_eq (l : Live) (b : Build) (p e units pipes bin : Nat) : l.canaryRan b p e units pipes bin =
    if units = 0 then (canShown b l units pipes).bump b F.CNRY_BIN_PASS bin
    else (canFailed b (canShown b l units pipes) units bin).logE b 0x1004 3 [units, bin, e, pipes] p :=
  rfl

theorem get_canSet (hwf : Tab.wf l.rf = true) (b : Build) (units : Nat) : Tab.wf (canSet b l units).rf = true ∧
    (canSet b l units).get b F.CNRY_STAT_UNITS = units % 256 ∧
    (canSet b l units).get b F.CNRY_STAT_PASS = b2n (decide (units = 0)) := by
  have h1 := Live.put_wf (b := b) hwf F.CNRY_STAT_UNITS units 0
  have h2 := Live.put_wf (b := b) h1 F.CNRY_STAT_PASS (b2n (decide (units = 0))) 0
  have hbit : b2n (decide (units = 0)) % 2 = b2n (decide (units = 0)) := by
    cases decide (units = 0) <;> rfl
  unfold canSet
  refine ⟨Live.put_wf h2 _ _ _, ?_, ?_⟩
  · rw [Live.get_put_ne h2 (by decide), Live.get_put_ne h1 (by decide), Live.get_put_same hwf]
    rfl
  · rw [Live.get_put_ne h2 (by decide), Live.get_put_same h1]
    exact hbit

theorem get_canShown (hwf : Tab.wf l.rf = true) (b : Build) (units pipes : Nat) :
    Tab.wf (canShown b l units pipes).rf = true ∧
    (canShown b l units pipes).get b F.CNRY_STAT_UNITS = units % 256 ∧
    (canShown b l units pipes).get b F.CNRY_STAT_PASS = b2n (decide (units = 0)) := by
  obtain ⟨hset, hunits, hpass⟩ := get_canSet hwf b units
  have h3 : Tab.wf (runCounted (canSet b l units)).rf = true := hset
  have h4 := Live.put_wf (b := b) h3 F.CNRY_STAT2_PIPES pipes 0
  unfold canShown
  dsimp only
  refine ⟨Live.put_wf h4 _ _ _, ?_, ?_⟩
  · rw [Live.get_put_ne h4 (by decide), Live.get_put_ne h3 (by decide)]
    exact hunits
  · rw [Live.get_put_ne h4 (by decide), Live.get_put_ne h3 (by decide)]
    exact hpass

/-- A run that has ended shows its units, counts, and leaves plans as they are. -/
theorem canaryRan_spec {bin : Nat} (hwf : Tab.wf l.rf = true) (hbin : bin < 65536) (b : Build) (p e units pipes : Nat) :
    (l.canaryRan b p e units pipes bin).get b F.CNRY_STAT_UNITS = units % 256 ∧
    (l.canaryRan b p e units pipes bin).get b F.CNRY_STAT_PASS = b2n (decide (units = 0)) ∧
    (l.canaryRan b p e units pipes bin).mem.runs = (l.mem.runs + 1) % 65536 ∧
    (l.canaryRan b p e units pipes bin).plans = l.plans := by
  obtain ⟨hshown, hunits, hpass⟩ := get_canShown hwf b units pipes
  have hkey (f g : Fld) (hf : f.lo < 32) (hg : g.lo < 32) (hoff : f.off ≠ g.off) : f.key bin ≠ g.key 0 :=
    Fld.key_ne hbin (by decide) hf hg (Or.inl hoff)
  rw [canaryRan_eq]
  split
  · refine ⟨?_, ?_, rfl, rfl⟩
    · exact (Live.get_put_ne hshown (hkey F.CNRY_BIN_PASS _ (by decide) (by decide) (by decide)) _).trans hunits
    · exact (Live.get_put_ne hshown (hkey F.CNRY_BIN_PASS _ (by decide) (by decide) (by decide)) _).trans hpass
  · have h1 : Tab.wf ((canShown b l units pipes).bump b F.CNRY_BIN_FAIL bin).rf = true := Live.put_wf hshown _ _ _
    have h2 := Live.put_wf (b := b) h1 F.CNRY_FAIL_UNITS
      (((canShown b l units pipes).bump b F.CNRY_BIN_FAIL bin).get b F.CNRY_FAIL_UNITS ||| units) 0
    have hfailed (g : Fld) (hlo : g.lo < 32) (hflag : F.MEM_FLAG_CNRY.key 0 ≠ g.key 0)
        (hfail : F.CNRY_FAIL_UNITS.key 0 ≠ g.key 0) (hoff : F.CNRY_BIN_FAIL.off ≠ g.off) :
        (canFailed b (canShown b l units pipes) units bin).get b g = (canShown b l units pipes).get b g := by
      unfold canFailed
      dsimp only
      rw [Live.get_put_ne h2 hflag, Live.get_put_ne h1 hfail]
      exact Live.get_put_ne hshown (hkey F.CNRY_BIN_FAIL g (by decide) hlo hoff) _
    rw [get_logE_above (by decide), get_logE_above (by decide), Live.logE_mem, Live.logE_plans]
    refine ⟨?_, ?_, rfl, rfl⟩
    · exact (hfailed _ (by decide) (by decide) (by decide) (by decide)).trans hunits
    · exact (hfailed _ (by decide) (by decide) (by decide) (by decide)).trans hpass

/-- A canary run of a lantern that ended before the phase-B close. -/
theorem gives_canaryRunDone {plan units : BitVec 8} {pipes : BitVec 16} {load : CanLoad} {e : Nat} {t : Word}
    (ha : s.live.awake = true) (hf : s.build.form = .lantern)
    (hcan : s.live.canaryOf s.build plan.toNat = some (e, t))
    (hopen : reached s.live.ft (t + BitVec.ofNat 32 (500 * imgPbClose (s.live.plan plan.toNat).image)) = false) :
    Gives (.canaryRunDone plan units pipes true load) s
      ((s.live.canaryRan s.build plan.toNat e (s.live.canUnits s.build units.toNat pipes.toNat)
        (s.live.canPipes s.build pipes.toNat) (s.live.canBin s.build (loadBin load.busy load.total))).updCut plan.toNat
        fun o => { o with
          can := o.can.merge (if s.live.canUnits s.build units.toNat pipes.toNat = 0 then ⟨1, 0, 0, none⟩
            else ⟨0, 1, 0, some (contribKey true (s.live.leaf s.build), s.live.canUnits s.build units.toNat pipes.toNat)⟩),
          canOwn := true }) := by
  have hbuoy : s.build.buoy = false := by simp [Build.buoy, hf]
  have hlantern : s.build.lantern = true := by simp [Build.lantern, hf]
  show execCanaryRunDone plan units pipes true load s = _
  refine runAwake_gives ha ?_
  dsimp only
  rw [hcan]
  dsimp only
  simp only [hbuoy, hlantern, Bool.false_eq_true, if_false, hopen, Bool.not_false, Bool.and_true, if_true, Bool.not_true]

/-- Settles O40: the walker by its outcome, SCRUB_RANGE and the end of its pass, and a canary run that ended in time. -/
theorem scrubbingCountsAndAnswers : Obligations.ScrubbingCountsAndAnswers := by
  refine ⟨fun s m lap a ha hcel hbytes hen hat hgate hsound hwalk hlap hrf => ⟨fun hin => ⟨?_, ?_, fun hne => ?_⟩, fun hend => ?_⟩,
    fun s p id a n h hdata hid haddr hlen => ⟨fun hbad => ?_, fun ha8 hn8 hpos hle hfit hgate => ?_,
      fun ha8 hn8 hpos hle hfit hgate => ?_⟩,
    fun s j first ce ha hjobs hcel hce hlt hready hknown =>
      gives_scrubRangeDone_clean ha hjobs hcel hce hlt hready hknown,
    fun s j f ce ha hjobs hcel hid hce hlt hready hknown hlo hhi h8 hport => ?_,
    fun s p units pipes ended load ha hnone => ?_,
    fun s p units pipes load o u ha hf hcan hoc hplans hrf hopen hu => ?_⟩
  · refine yields_of_gives (gives_scrubWalkerRead ⟨ha, hcel, hbytes, hen, hat.symm, hgate, hsound⟩ .clean lap) ?_
    rw [walkerRead, walkOn_inside hat.symm hin]
    exact ⟨walk_walked hwalk _ _, rfl, rfl⟩
  · refine yields_of_gives (gives_scrubWalkerRead ⟨ha, hcel, hbytes, hen, hat.symm, hgate, hsound⟩ .corrected lap) ?_
    rw [walkerRead, walkOn_inside (l := lapCounted s.build s.live m.toNat) hat.symm (memBytes_lapCounted _ _ _ ▸ hin)]
    have hcount : Tab.getD (Tab.upd s.live.mem.lapCe m.toNat 0 fun n => n + 1) m.toNat 0 =
        Tab.getD s.live.mem.lapCe m.toNat 0 + 1 := Tab.getD_upd_same hlap _ _ _
    exact ⟨walk_walked (l := lapCounted s.build s.live m.toNat) hwalk _ _, hcount, Live.get_bump_same hrf _ _ _, rfl⟩
  · have hid : m.toNat ≠ 0 := fun h => hne (BitVec.eq_of_toNat_eq h)
    have hlt : a < 2 ^ 32 := Nat.lt_of_le_of_lt (Nat.le_add_right a 8) (Nat.lt_trans hin (memBytes_lt hcel))
    refine yields_of_gives (gives_scrubWalkerRead ⟨ha, hcel, hbytes, hen, hat.symm, hgate, hsound⟩ .uncorrectable lap) ?_
    rw [walkerRead, walkOn_inside hat.symm hin]
    obtain ⟨_, hkept, _⟩ := uncorrectable_keeps (l := walked s.live m.toNat (a + 8)) ha hid s.build a
    have hrun : (walked s.live m.toNat (a + 8)).awake = true := ha
    rw [hkept, get_uncorrectable hrun hid, get_uncorrectable hrun hid, get_uncorrectable hrun hid]
    obtain ⟨hcount, haddr⟩ := counted_ueSeen (b := s.build) (l := walked s.live m.toNat (a + 8)) hrf m.isLt hlt
    exact ⟨walk_walked hwalk _ _, hcount, haddr, flagged_ueSeen _ _ _ _⟩
  · refine yields_of_gives (gives_scrubWalkerRead ⟨ha, hcel, hbytes, hen, hat.symm, hgate, hsound⟩ .clean lap) ?_
    rw [walkerRead, walkOn_end hat.symm hend]
    obtain ⟨hkept, hzero, hlog⟩ := lapEnd_spec (l := walked s.live m.toNat 0) hlap s.build m.toNat lap
    rw [hkept]
    exact ⟨walk_walked hwalk _ _, hzero, hlog⟩
  · subst hid haddr hlen
    refine runs_congr (runs_scrubRange h hdata) ?_
    unfold scrubRun
    rw [scrubErr_begin, scrubErr_range hbad]
  · subst hid haddr hlen
    refine runs_congr (runs_scrubRange h hdata) ?_
    unfold scrubRun
    rw [scrubErr_begin, scrubErr_inside ha8 hn8 hpos hle hfit, hgate]
    rfl
  · subst hid haddr hlen
    refine runs_congr (runs_scrubRange h hdata) ?_
    unfold scrubRun
    rw [scrubErr_begin, scrubErr_inside ha8 hn8 hpos hle hfit, hgate]
    rfl
  · have hrun : (passEnded s.build s.live j ce).awake = true := ha
    obtain ⟨_, _, hjobs', hcmd, _, _⟩ := uncorrectable_keeps hrun hid s.build f.toNat
    refine yields_of_gives (gives_scrubRangeDone_one ha hjobs hcel hid hce hlt hready hknown hlo hhi h8) ?_
    have hframe := replyFrame_reply ((passEnded s.build s.live j ce).uncorrectable s.build j.mem f.toNat) s.build j.r 0 0
      [packW [(0, ce), (32, 1)], f]
    unfold ReplyFrame at hframe
    refine ⟨?_, ?_, ?_⟩
    · rw [hframe]
      exact hjobs'
    · rw [hframe]
      exact (get_uncorrectable hrun hid _ _).trans (flagged_ueSeen _ _ _ _)
    · rw [reply_mgmtReplies hport, hcmd]
      rfl
  · show execCanaryRunDone p units pipes ended load s = _
    refine runAwake_gives ha ?_
    dsimp only
    rw [hnone]
  · subst hu
    obtain ⟨hunits, hpass, hruns, hkept⟩ := canaryRan_spec hrf
      (Nat.lt_trans (canBin_lt (l := s.live) hf load) (by decide)) s.build p.toNat o.epoch
      (s.live.canUnits s.build units.toNat pipes.toNat) (s.live.canPipes s.build pipes.toNat)
    refine yields_of_gives (gives_canaryRunDone ha hf hcan hopen) ⟨hunits, hpass, hruns, ?_⟩
    unfold Live.updCut Live.updPlan
    rw [Live.plan_setPlan_same (hkept ▸ hplans)]
    have hoc' : (Live.plan (s.live.canaryRan s.build p.toNat o.epoch (s.live.canUnits s.build units.toNat pipes.toNat)
        (s.live.canPipes s.build pipes.toNat) (s.live.canBin s.build (loadBin load.busy load.total))) p.toNat).oc = some o := by
      rw [← hoc]
      unfold Live.plan
      rw [hkept]
    dsimp only
    rw [hoc']
    rfl

end

section

/-- A READY buoy whose PCS enable, a field of one bit, holds 2: added up, the enables of PCS and BMON leave bit 9 of
UNIT_EN at 0, although the enable of BMON is 1. -/
def carriedEnable : State :=
  ⟨⟨.buoy, false, true, .gib64⟩, { Live.cold with
    rf := [(F.UNIT_EN_B_PCS.key 0, 2)],
    boot := { Live.cold.boot with ready := true, held := false, phase := 6, bmonRst := false } }, []⟩

/-- The write of TRC_CTL finds its unit gated there. -/
theorem gives_swtrig_carriedEnable : Gives .swtrig carriedEnable (written carriedEnable) := by
  have hclosed : (written carriedEnable).openReg carriedEnable.build 0x1C00 = none := by decide +kernel
  have hwrite : (written carriedEnable).writeReg carriedEnable.build 0x1C00 1 = written carriedEnable := by
    unfold Live.writeReg
    rw [hclosed]
    rfl
  show carriedEnable.portWrite .swtrig 0x1C00 1 = _
  rw [State.portWrite, portWriteBy_gives (by decide) (by decide) (by decide +kernel), hwrite]

/-- Refutes O42: the statement ranges over register tables whose fields hold more than their width, and there a
software trigger of a running recorder can find its register gated. -/
theorem not_accessesAreRecordedAndTrigger : ¬ Obligations.AccessesAreRecordedAndTrigger := by
  unfold Obligations.AccessesAreRecordedAndTrigger
  intro h
  obtain ⟨_, _, _, hswtrig, _⟩ := h
  have hraised := (hswtrig carriedEnable (by decide) (by decide)).1 (by decide)
  have hsame := gives_unique hraised gives_swtrig_carriedEnable
  exact absurd (congrArg (fun l => l.trace.pend.length) hsame) (by decide)

end

section

variable {s : State} {l m k : Live} {b : Build} {p : Packet} {r : Ret} {ty ncyc noAns n n' : Nat}

/-! ### The records of a dump -/

/-- `m` has `n` more records of a dump than `l`, and differs besides in registers and the logbook only. -/
def Dumped (l m : Live) (n : Nat) : Prop :=
  m = { l with
    seqs := m.seqs, skips := m.skips, created := m.created, rf := m.rf, log := m.log,
    boot := { l.boot with early := m.boot.early } } ∧
  ∃ xs : List (Nat × Rec), m.created = l.created ++ xs ∧ xs.length = n ∧
    ∀ x ∈ xs, (x.2.ty = 0x0B ∨ x.2.ty = 0x0C) ∧ x.2.ft = l.ft

theorem Dumped.refl (l : Live) : Dumped l l 0 := ⟨rfl, [], (List.append_nil _).symm, rfl, nofun⟩

theorem Dumped.trans (h : Dumped l m n) (h' : Dumped m k n') : Dumped l k (n + n') := by
  obtain ⟨hframe, xs, hxs, hlen, hall⟩ := h
  obtain ⟨hframe', ys, hys, hlen', hall'⟩ := h'
  have hft : m.ft = l.ft := by
    rw [hframe]
    rfl
  refine ⟨?_, xs ++ ys, ?_, ?_, ?_⟩
  · rw [hframe', hframe]
  · rw [hys, hxs, List.append_assoc]
  · rw [List.length_append, hlen, hlen']
  · intro x hx
    rcases List.mem_append.mp hx with hx | hx
    · exact hall x hx
    · exact hft ▸ hall' x hx

/-- Record `i` of the parts `ps` of a dump. -/
def hangRec (b : Build) (ty ncyc noAns : Nat) (ps : List (Nat × List DWord × List Nat)) (l : Live) (i : Nat) : Live :=
  let p := ps.getD i (0, [], [])
  let w := packW [(0, l.trace.hangId), (16, i % 256), (24, ps.length % 256), (32, p.1), (40, ncyc), (56, noAns % 256)]
  let bad := l.badObjs p.2.2
  let r := mkRec l b ty b.mgmtStream l.ft (w :: packW [(0, l.ft.toNat)] :: p.2.1)
  (bad.foldl (fun l o => l.meet b (.watch o)) l).create b { r with poison := decide (bad ≠ []) }

theorem noteFrame_meets (l : Live) (b : Build) (os : List Nat) :
    NoteFrame l (os.foldl (fun l o => l.meet b (.watch o)) l) :=
  foldl_rel (R := NoteFrame) NoteFrame.refl (fun h h' => h.trans h') (fun (l : Live) (o : Nat) => l.meet b (.watch o))
    (fun l _ => noteFrame_seen l b _) os l

/-- A created record with its words and its time is one more of a dump. -/
theorem dumped_create (hl : NoteFrame l m) {x : Rec} (hty : x.ty = 0x0B ∨ x.ty = 0x0C) (hft : x.ft = l.ft) :
    Dumped l (m.create b x) 1 := by
  have hframe := create_frame m b x
  unfold NoteFrame at hl
  have hmade : m.created = l.created := by rw [hl]
  refine ⟨?_, [_], (created_create m b x).trans (congrArg (· ++ _) hmade), rfl, ?_⟩
  · rw [hframe, hl]
  · intro y hy
    rw [List.mem_singleton.mp hy, number_rec]
    exact ⟨hty, hft⟩

theorem dumped_hangRec (hty : BitVec.ofNat 8 ty = 0x0B ∨ BitVec.ofNat 8 ty = 0x0C)
    (ps : List (Nat × List DWord × List Nat)) (l : Live) (i : Nat) : Dumped l (hangRec b ty ncyc noAns ps l i) 1 :=
  dumped_create (noteFrame_meets l b _) hty rfl

theorem dumped_hangRecs (hty : BitVec.ofNat 8 ty = 0x0B ∨ BitVec.ofNat 8 ty = 0x0C)
    (ps : List (Nat × List DWord × List Nat)) (l : Live) : Dumped l (l.hangRecs b ty ncyc noAns ps) ps.length := by
  have hfold : ∀ (is : List Nat) (l : Live), Dumped l (is.foldl (hangRec b ty ncyc noAns ps) l) is.length := by
    intro is
    induction is with
    | nil => exact Dumped.refl
    | cons i is ih =>
      intro l
      rw [List.foldl_cons, List.length_cons, Nat.add_comm]
      exact (dumped_hangRec hty ps l i).trans (ih _)
  have hall := hfold (List.range ps.length) l
  rw [List.length_range] at hall
  exact hall

/-! ### The dump -/

/-- The count of cycles of a dump. -/
def dumpCount (b : Build) (l : Live) : Nat := min (cyclesOf (sortEdges (l.ownEdges b))).length 65535

/-- The live part with a dump's number and its count of cycles. -/
def dumpNumbered (b : Build) (l : Live) : Live :=
  { l with trace := { l.trace with hangId := (l.trace.hangId + 1) % 65536, ncyc := dumpCount b l } }

/-- The parts of a dump that hold its edges. -/
def dumpGraph (b : Build) (l : Live) (remote : List HEdge) : List (Nat × List DWord × List Nat) :=
  let own := sortEdges (l.ownEdges b)
  let es := sortEdges (own ++ remote)
  (pieces 254 (es.length + 1) es).map fun x => (x.length, x.map (HEdge.word (cyclesOf own)),
    (x.filter fun e => decide (e.kind ≤ 1)).map (·.obj))

/-- The nodes in cycles. -/
def dumpNodes (b : Build) (l : Live) : List Nat :=
  let own := sortEdges (l.ownEdges b)
  (nodesOf own).filter fun k => decide (cycOf (cyclesOf own) k ≠ 0)

/-- The parts of a dump that hold its nodes. -/
def dumpEnts (b : Build) (l : Live) : List (Nat × List DWord × List Nat) :=
  let cs := cyclesOf (sortEdges (l.ownEdges b))
  (pieces 84 ((dumpNodes b l).length + 1) (dumpNodes b l)).map fun x =>
    (x.length, x.flatMap ((dumpNumbered b l).dumpEnt b cs), x.filterMap nodeObj)

/-- The live part with the records of a dump. -/
def dumpRecords (b : Build) (l : Live) (remote : List HEdge) (noAns : Nat) : Live :=
  let m := (dumpNumbered b l).hangRecs b 0x0B (dumpCount b l) noAns (dumpGraph b l remote)
  if dumpNodes b l = [] then m else m.hangRecs b 0x0C (dumpCount b l) noAns (dumpEnts b l)

theorem dump_eq (l : Live) (b : Build) (r : Ret) (remote : List HEdge) (noAns : Nat) : l.dump b r remote noAns =
    (dumpRecords b l remote noAns).updTrace fun t => { t with dumps := t.dumps ++ [(r, dumpCount b l)] } :=
  rfl

/-- A list in pieces has one piece at least. -/
theorem pieces_pos {α : Type} (n k : Nat) (xs : List α) : 0 < (pieces n (k + 1) xs).length := by
  unfold pieces
  split
  · exact Nat.one_pos
  · exact Nat.succ_pos _

theorem dumpGraph_pos (b : Build) (l : Live) (remote : List HEdge) : 0 < (dumpGraph b l remote).length := by
  unfold dumpGraph
  rw [List.length_map]
  exact pieces_pos _ _ _

/-- A dump makes one record at least, and one exactly where the block has no edges. -/
theorem dumped_dumpRecords (l : Live) (b : Build) (remote : List HEdge) (noAns : Nat) :
    ∃ n, 0 < n ∧ Dumped (dumpNumbered b l) (dumpRecords b l remote noAns) n ∧
      (l.ownEdges b = [] → remote = [] → dumpCount b l = 0 ∧ n = 1) := by
  have hgraph := dumped_hangRecs (b := b) (ncyc := dumpCount b l) (noAns := noAns) (ty := 0x0B) (Or.inl rfl)
    (dumpGraph b l remote) (dumpNumbered b l)
  have hpos := dumpGraph_pos b l remote
  by_cases hnodes : dumpNodes b l = []
  · refine ⟨(dumpGraph b l remote).length, hpos, ?_, fun hown hremote => ⟨?_, ?_⟩⟩
    · unfold dumpRecords
      dsimp only
      rw [if_pos hnodes]
      exact hgraph
    · unfold dumpCount
      rw [hown]
      rfl
    · unfold dumpGraph
      rw [hown, hremote]
      rfl
  · refine ⟨(dumpGraph b l remote).length + (dumpEnts b l).length, by omega, ?_, fun hown => ?_⟩
    · unfold dumpRecords
      dsimp only
      rw [if_neg hnodes]
      exact hgraph.trans (dumped_hangRecs (Or.inr rfl) _ _)
    · refine absurd ?_ hnodes
      unfold dumpNodes
      rw [hown]
      rfl

/-- What a dump leaves: its number, its count, its reply to wait for, and its records. -/
theorem dump_spec (l : Live) (b : Build) (r : Ret) (remote : List HEdge) (noAns : Nat) :
    (l.dump b r remote noAns).trace = { l.trace with
      hangId := (l.trace.hangId + 1) % 65536, ncyc := dumpCount b l, dumps := l.trace.dumps ++ [(r, dumpCount b l)] } ∧
    (l.dump b r remote noAns).cmd = l.cmd ∧ ∃ xs : List (Nat × Rec),
      (l.dump b r remote noAns).created = l.created ++ xs ∧ 0 < xs.length ∧
      (∀ x ∈ xs, (x.2.ty = 0x0B ∨ x.2.ty = 0x0C) ∧ x.2.ft = l.ft) ∧
      (l.ownEdges b = [] → remote = [] → dumpCount b l = 0 ∧ xs.length = 1) := by
  obtain ⟨n, hpos, ⟨hframe, xs, hxs, hlen, hall⟩, hnone⟩ := dumped_dumpRecords l b remote noAns
  subst hlen
  rw [dump_eq]
  refine ⟨?_, ?_, xs, hxs, hpos, hall, hnone⟩
  · unfold Live.updTrace
    dsimp only
    rw [hframe]
    rfl
  · unfold Live.updTrace
    dsimp only
    rw [hframe]
    rfl

/-! ### HANG_DUMP -/

/-- The checks of HANG_DUMP. -/
def hangErr (b : Build) (l : Live) : Option Nat :=
  firstErr [(!l.syncOn b, eGated), (l.trace.hang.isSome, eState)]

/-- The buoys whose objects are mirrored. -/
def mirrored (l : Live) : List Nat := (List.range 256).filter fun k => l.mirrors.any fun m => decide (m.1 = k)

/-- The live part with a dump that waits for the buoys `locs`. -/
def hangWaits (l : Live) (r : Ret) (locs : List Nat) : Live :=
  { l with trace := { l.trace with hang := some ⟨r, locs, 0, []⟩ } }

/-- What HANG_DUMP does once it has passed the shared checks. -/
def hangRun (b : Build) (p : Packet) (l : Live) (r : Ret) : Live :=
  match hangErr b l with
  | some e => l.reply b r e
  | none =>
    if b.buoy then l.toBmon b r fun l => ((l.hold r (.hangDump p)).dump b r [] 0).raiseTrig b 7
    else ((hangWaits l r (mirrored l)).ownCmds b (mirrored l) .hang 0 0x58 0 []).hold r (.hangDump p)

theorem runs_hangDump (h : Takes (.hangDump p) s p 0x58 1) (hdata : p.data = []) :
    Runs (.hangDump p) s p (hangRun s.build p) :=
  runs_of_takes_both rfl h (by decide) (Nat.zero_le _) (by rw [hdata]; exact Nat.le_refl 0)

theorem hangErr_begin (l : Live) (b : Build) (p : Packet) : hangErr b (l.begin p).1 = hangErr b l := by
  rw [begin_frame]
  rfl

theorem mirrored_begin (l : Live) (p : Packet) : mirrored (l.begin p).1 = mirrored l := by
  rw [begin_frame]
  rfl

theorem trace_begin (l : Live) (p : Packet) : (l.begin p).1.trace = l.trace := by
  rw [begin_frame]

theorem created_begin (l : Live) (p : Packet) : (l.begin p).1.created = l.created := by
  rw [begin_frame]

theorem busy_begin (l : Live) (p : Packet) : (l.begin p).1.cmd.busy = l.cmd.busy := by
  unfold Live.begin
  split <;> rfl

theorem hangErr_busy (hon : l.syncOn b = true) (h : l.trace.hang.isSome = true) : hangErr b l = some 0x07 := by
  simp [hangErr, firstErr, hon, h, eState]

theorem hangErr_free (hon : l.syncOn b = true) (h : l.trace.hang = none) : hangErr b l = none := by
  simp [hangErr, firstErr, hon, h]

theorem flag_begin (l : Live) (b : Build) (p : Packet) (f : Fld) : (l.begin p).1.flag b f = l.flag b f := by
  rw [begin_frame]
  rfl

theorem toBmon_gated {f : Live → Live} (h : l.flag b F.UNIT_EN_B_BMON = false) : l.toBmon b r f = l.reply b r 0x0B := by
  unfold Live.toBmon
  exact if_pos (by simp [h])

theorem toBmon_stopped {f : Live → Live} (h : l.flag b F.UNIT_EN_B_BMON = true) (hstop : l.trace.clkStop = true) :
    l.toBmon b r f = (l.bump b F.CLK_STAT_XTO_CNT).reply b r 0x0B := by
  unfold Live.toBmon
  exact (if_neg (by simp [h])).trans (if_pos hstop)

theorem toBmon_runs {f : Live → Live} (h : l.flag b F.UNIT_EN_B_BMON = true) (hrun : l.trace.clkStop = false) :
    l.toBmon b r f = f l := by
  unfold Live.toBmon
  exact (if_neg (by simp [h])).trans (if_neg (by simp [hrun]))

/-- At a buoy the command reaches into BMON. -/
theorem runs_hangDump_buoy (hf : s.build.form = .buoy) (h : Takes (.hangDump p) s p 0x58 1) (hdata : p.data = [])
    (hon : s.live.syncOn s.build = true) (hfree : s.live.trace.hang = none) : Runs (.hangDump p) s p fun l r =>
      l.toBmon s.build r fun l => ((l.hold r (.hangDump p)).dump s.build r [] 0).raiseTrig s.build 7 := by
  refine runs_congr (runs_hangDump h hdata) ?_
  unfold hangRun
  rw [hangErr_begin, hangErr_free hon hfree]
  exact if_pos (by simp [Build.buoy, hf])

/-- At a lantern it waits for the buoys whose objects are mirrored. -/
theorem runs_hangDump_lantern (hf : s.build.form = .lantern) (h : Takes (.hangDump p) s p 0x58 1) (hdata : p.data = [])
    (hon : s.live.syncOn s.build = true) (hfree : s.live.trace.hang = none) : Runs (.hangDump p) s p fun l r =>
      ((hangWaits l r (mirrored s.live)).ownCmds s.build (mirrored s.live) .hang 0 0x58 0 []).hold r (.hangDump p) := by
  refine runs_congr (runs_hangDump h hdata) ?_
  unfold hangRun
  rw [hangErr_begin, hangErr_free hon hfree, mirrored_begin]
  exact if_neg (by simp [Build.buoy, hf])

/-- A trigger source on its way changes nothing else. -/
theorem raiseTrig_frame (l : Live) (b : Build) (i : Nat) :
    l.raiseTrig b i = { l with trace := { l.trace with pend := (l.raiseTrig b i).trace.pend } } := by
  unfold Live.raiseTrig
  split <;> rfl

/-! ### Commands of the lantern's own -/

/-- `m` differs from `l` at most in what commands to buoys leave: forward entries, numbers, and the links. -/
def OwnFrame (l m : Live) : Prop := m = { l with
  free := m.free, seqs := m.seqs, skips := m.skips, links := m.links, routes := m.routes,
  cmd := { l.cmd with fwd := m.cmd.fwd, nextNo := m.cmd.nextNo } }

theorem OwnFrame.refl (l : Live) : OwnFrame l l := rfl

theorem OwnFrame.trans (h : OwnFrame l m) (h' : OwnFrame m k) : OwnFrame l k := by
  unfold OwnFrame at *
  rw [h', h]

theorem SentFrame.own (h : SentFrame l m) : OwnFrame l m := by
  unfold SentFrame at h
  unfold OwnFrame
  rw [h]

theorem ownFrame_ownCmd (l : Live) (b : Build) (loc : Nat) (use : OwnUse) (plan opc arg : Nat) (ws : List DWord) :
    OwnFrame l (l.ownCmd b loc use plan opc arg ws) := by
  unfold Live.ownCmd
  dsimp only
  refine OwnFrame.trans ?_ (sentFrame_queueBuoy _ b _).own
  refine OwnFrame.trans (m := (Live.number { l with free := l.free + 1 } _).1) ?_ rfl
  exact OwnFrame.trans (m := { l with free := l.free + 1 }) rfl (sentFrame_number _ _).own

theorem ownFrame_ownCmds (l : Live) (b : Build) (locs : List Nat) (use : OwnUse) (plan opc arg : Nat) (ws : List DWord) :
    OwnFrame l (l.ownCmds b locs use plan opc arg ws) :=
  foldl_rel OwnFrame.refl OwnFrame.trans (fun (l : Live) (k : Nat) => l.ownCmd b k use plan opc arg ws)
    (fun l k => ownFrame_ownCmd l b k use plan opc arg ws) locs l

theorem ownCmds_keeps (l : Live) (b : Build) (locs : List Nat) (use : OwnUse) (plan opc arg : Nat) (ws : List DWord) :
    (l.ownCmds b locs use plan opc arg ws).cmd.busy = l.cmd.busy ∧
    (l.ownCmds b locs use plan opc arg ws).trace = l.trace := by
  have h := ownFrame_ownCmds l b locs use plan opc arg ws
  unfold OwnFrame at h
  rw [h]
  exact ⟨rfl, rfl⟩

/-! ### Replies to dumps, and HANG_SNAPSHOT -/

theorem dumpsDone_one (h : l.trace.dumps = [(r, n)]) (hw : l.dumpWaits b = false) :
    l.dumpsDone b = (l.updTrace fun t => { t with dumps := [] }).reply b r 0 n := by
  unfold Live.dumpsDone
  rw [h, hw]
  rfl

theorem remoteEdges_none (h : l.plans = []) (g : Hang) : l.remoteEdges g = [] := by
  have hmirrors : l.mirrors = [] := by
    unfold Live.mirrors
    rw [h]
    rfl
  unfold Live.remoteEdges
  dsimp only
  rw [hmirrors]
  simp

/-- The live part without a dump in progress. -/
def noHang (l : Live) : Live := { l with trace := { l.trace with hang := none } }

/-- With no buoy awaited any more, the lantern makes its dump. -/
theorem gives_hangSnapshot {h : Hang} (ha : s.live.awake = true) (hf : s.build.form = .lantern)
    (hhang : s.live.trace.hang = some h) (hwait : h.waiting = []) :
    Gives .hangSnapshot s ((noHang s.live).dump s.build h.r (s.live.remoteEdges h) h.noAns) := by
  have hgo : ¬(s.build.buoy = true ∨ h.waiting ≠ []) := by simp [Build.buoy, hf, hwait]
  show execHangSnapshot s = _
  refine runAwake_gives ha ?_
  rw [hhang]
  dsimp only
  rw [if_neg hgo]
  rfl

/-- Settles O43: a dump at a buoy and at a lantern makes its records, and its reply waits for them. -/
theorem hangDumpsAreTakenAndNumbered : Obligations.HangDumpsAreTakenAndNumbered := by
  refine ⟨fun s p h hdata hon hsome => ?_, fun s p hf h hdata hon hfree => ⟨fun hoff => ?_, fun hen hstop => ?_, fun hen hrun => ?_⟩,
    fun l b r n hdumps => ⟨fun hw => ?_, fun hw => ⟨?_, fun hmgmt => ?_⟩⟩, fun s p hf h hdata hon hfree => ?_,
    fun s p hf h hdata hon hfree hnone => ?_, fun s h ha hf hhang => ⟨fun hwait => ?_, fun hwait => ?_⟩⟩
  · refine runs_congr (runs_hangDump h hdata) ?_
    unfold hangRun
    rw [hangErr_begin, hangErr_busy hon hsome]
  · refine runs_congr (runs_hangDump_buoy hf h hdata hon hfree) ?_
    exact toBmon_gated ((flag_begin _ _ _ _).trans hoff)
  · refine runs_congr (runs_hangDump_buoy hf h hdata hon hfree) ?_
    exact toBmon_stopped ((flag_begin _ _ _ _).trans hen) ((congrArg Trace.clkStop (trace_begin _ _)).trans hstop)
  · have hgives : Runs (.hangDump p) s p fun l r => ((l.hold r (.hangDump p)).dump s.build r [] 0).raiseTrig s.build 7 :=
      runs_congr (runs_hangDump_buoy hf h hdata hon hfree) (toBmon_runs ((flag_begin _ _ _ _).trans hen) ((congrArg Trace.clkStop (trace_begin _ _)).trans hrun))
    obtain ⟨htrace, hcmd, xs, hmade, hpos, hall, hnone⟩ := dump_spec ((s.live.begin p).1.hold (retOf s p) (.hangDump p))
      s.build (retOf s p) [] 0
    have hmade' : _ = s.live.created ++ xs := hmade.trans (congrArg (· ++ xs) (created_begin s.live p))
    refine yields_of_gives hgives ?_
    dsimp only
    rw [raiseTrig_frame, htrace, hcmd]
    refine ⟨?_, ?_, ?_, begin_mgmtReplies _ _, ?_, ?_, fun hw => ?_⟩
    · exact congrArg (fun t : Trace => (t.hangId + 1) % 65536) (trace_begin s.live p)
    · exact congrArg (fun t : Trace => t.dumps ++ _) (trace_begin s.live p)
    · exact congrArg (· ++ _) (busy_begin s.live p)
    · rw [hmade', List.length_append]
      omega
    · rw [hmade', List.drop_left]
      intro x hx
      obtain ⟨hty, hft⟩ := hall x hx
      refine ⟨hty, hft.trans ?_⟩
      show (s.live.begin p).1.ft = s.live.ft
      rw [begin_frame]
      rfl
    · have hown : ((s.live.begin p).1.hold (retOf s p) (.hangDump p)).ownEdges s.build = [] := by
        unfold Live.ownEdges
        rw [if_pos (by simp [Build.buoy, hf]),
          show ((s.live.begin p).1.hold (retOf s p) (.hangDump p)).trace = s.live.trace from trace_begin _ _, hw]
        rfl
      obtain ⟨hzero, hone⟩ := hnone hown rfl
      refine ⟨hzero, ?_⟩
      rw [hmade', List.length_append, hone]
  · unfold Live.dumpsDone
    exact if_pos hw
  · rw [dumpsDone_one hdumps hw]
    have hframe := replyFrame_reply (l.updTrace fun t => { t with dumps := [] }) b r 0 n []
    unfold ReplyFrame at hframe
    rw [hframe]
    rfl
  · rw [dumpsDone_one hdumps hw, reply_mgmtReplies hmgmt]
    rfl
  · obtain ⟨hbusy, htrace⟩ := ownCmds_keeps (hangWaits (s.live.begin p).1 (retOf s p) (mirrored s.live)) s.build
      (mirrored s.live) .hang 0 0x58 0 []
    refine yields_of_gives (runs_hangDump_lantern hf h hdata hon hfree) ⟨congrArg (· ++ _) (hbusy.trans (busy_begin s.live p)),
      ⟨retOf s p, mirrored s.live, 0, []⟩, htrace.trans ?_, rfl, rfl, rfl, rfl⟩
    exact congrArg (fun t : Trace => { t with hang := some ⟨retOf s p, mirrored s.live, 0, []⟩ }) (trace_begin s.live p)
  · refine runs_congr (runs_hangDump_lantern hf h hdata hon hfree) ?_
    have hlocs : mirrored s.live = [] := by
      unfold mirrored
      rw [hnone]
      exact List.filter_eq_nil_iff.mpr fun _ _ => Bool.false_ne_true
    rw [hlocs]
    rfl
  · show execHangSnapshot s = _
    refine runAwake_gives ha ?_
    rw [hhang]
    exact if_pos (Or.inr hwait)
  · have hgives := gives_hangSnapshot ha hf hhang hwait
    obtain ⟨htrace, hcmd, xs, hmade, hpos, hall, hnone⟩ := dump_spec
      (noHang s.live) s.build h.r (s.live.remoteEdges h) h.noAns
    refine yields_of_gives hgives ?_
    rw [htrace, hcmd, hmade]
    refine ⟨rfl, rfl, rfl, rfl, ?_, ?_, fun hplans => ?_⟩
    · rw [List.length_append]
      exact Nat.lt_add_of_pos_right hpos
    · rw [show s.live.created = (noHang s.live).created from rfl, List.drop_left]
      exact hall
    · have hown : (noHang s.live).ownEdges s.build = [] := by
        unfold Live.ownEdges
        rw [if_neg (by simp [Build.buoy, hf])]
        rw [show (noHang s.live).plans = s.live.plans from rfl, hplans]
        rfl
      obtain ⟨hzero, hone⟩ := hnone hown (remoteEdges_none hplans h)
      refine ⟨hzero, ?_⟩
      rw [List.length_append, hone]
      rfl

end

end Sys2Proof.Proofs
end

section
/-! PROOFS. Replay and partner copies (O44, O45). -/

namespace Sys2Proof.Proofs

open Sys2Proof Sys2Proof.Machine Sys2Proof.Claims

section

/-- A query that waits for the sequence engine, of a form that the engine answers with an error. -/
def shortQuery : SeqWait := ⟨(nopOn .mgmt).r, mgmtNop, false⟩

/-- A READY lantern whose replay has nothing left to run, and whose engine is free while a query still waits. -/
def waitingQuery : State :=
  ⟨⟨.lantern, false, true, .gib64⟩, { Live.cold with
    boot := { Live.cold.boot with ready := true, held := false, phase := 6 },
    eng := { Live.cold.eng with waits := [shortQuery] },
    flt := { Live.cold.flt with rpl := { rpl0 with st := .replaying, reply := some (nopOn .mgmt).r } } }, []⟩

/-- The end of the replay answers the replay, and then the query. -/
theorem gives_replayFinish_waitingQuery :
    Gives .replayFinish waitingQuery (waitingQuery.live.rplStop waitingQuery.build 0) ∧
      (waitingQuery.live.rplStop waitingQuery.build 0).cmd.mgmtReplies.length = 2 := by
  refine ⟨?_, by decide +kernel⟩
  show execReplayFinish waitingQuery = _
  exact runAwake_gives (by decide) (if_neg (by decide))

/-- Refutes O44: the statement ranges over states in which a query waits for a free sequence engine, and there the end
of a replay sends the reply to that query too. -/
theorem not_logsAreWrittenAndReplayed : ¬ Obligations.LogsAreWrittenAndReplayed := by
  unfold Obligations.LogsAreWrittenAndReplayed
  rintro ⟨_, _, _, _, hfinish⟩
  obtain ⟨l, hl, _, _, _, hreplies⟩ := (hfinish waitingQuery (by decide)).2 (nopOn .mgmt).r rfl rfl rfl rfl rfl rfl
  obtain ⟨hrun, htwo⟩ := gives_replayFinish_waitingQuery
  rw [gives_unique hl hrun] at hreplies
  rw [hreplies] at htwo
  exact absurd htwo (by decide)

end

section

variable {s : State} {l m : Live} {b : Build} {k t : Nat} {r : Rec} {v : Word}

/-! ### Writes to the cellar -/

/-- `m` differs from `l` in what writing to the cellar changes: the beats that are bad, and what went out. -/
def CelFrame (l m : Live) : Prop := m = { l with mem := { l.mem with cel := m.mem.cel }, out := m.out }

theorem CelFrame.refl (l : Live) : CelFrame l l := rfl

theorem CelFrame.trans {n : Live} (h : CelFrame l m) (h' : CelFrame m n) : CelFrame l n := by
  unfold CelFrame at *
  rw [h', h]

theorem celFrame_celBurst (l : Live) (b : Build) (wr : Bool) (a n : Nat) (ws : List DWord) :
    CelFrame l (l.celBurst b wr a n ws) := by
  have hif (c : Prop) [Decidable c] (cel : List Nat) (o : Out) :
      CelFrame l (if c then ({ l with mem := { l.mem with cel := cel } } : Live)
        else ({ l with mem := { l.mem with cel := cel } } : Live).emit o) := by
    split <;> rfl
  conv in @Live.celBurst => delta Live.celBurst
  generalize l.celPort b a = port
  cases port with
  | none => rfl
  | some m => exact hif _ _ _

theorem celFrame_celWrite (l : Live) (b : Build) (a : Nat) (ws : List DWord) : CelFrame l (l.celWrite b a ws) :=
  foldl_rel (R := CelFrame) CelFrame.refl (fun h h' => h.trans h')
    (fun (l : Live) (x : Nat × Nat) => l.celBurst b true x.1 x.2 ((ws.drop ((x.1 - a) / 8)).take (x.2 / 8)))
    (fun l x => celFrame_celBurst l b true x.1 x.2 _) _ l

theorem celFrame_keeps (h : CelFrame l m) : m.flt = l.flt ∧ m.rf = l.rf ∧ m.boot.st = l.boot.st := by
  unfold CelFrame at h
  rw [h]
  exact ⟨rfl, rfl, rfl⟩

/-! ### Regions of copies -/

/-- A region lies at the base that the registers give. -/
theorem region_congr (h : m.flt = l.flt ∧ m.rf = l.rf ∧ m.boot.st = l.boot.st) (b : Build) (k : Nat) :
    m.region b k = l.region b k := by
  obtain ⟨hflt, hrf, hst⟩ := h
  unfold Live.region Live.get
  rw [hflt, hrf, Live.rst_congr hst]

theorem region_updRegion (hwf : Tab.wf l.flt.regions = true) (b : Build) (k : Nat) (f : Region → Region) :
    (l.updRegion b k f).region b k = f (l.region b k) :=
  Tab.getD_upd_same hwf _ _ _

theorem updRegion_wf (hwf : Tab.wf l.flt.regions = true) (b : Build) (k : Nat) (f : Region → Region) :
    Tab.wf (l.updRegion b k f).flt.regions = true :=
  Tab.wf_upd hwf _ _ _

/-- A region changed after a write to the cellar. -/
theorem updRegion_spec (hcel : CelFrame l m) (hwf : Tab.wf l.flt.regions = true) (b : Build) (k : Nat) (f : Region → Region) :
    (m.updRegion b k f).region b k = f (l.region b k) ∧ (m.updRegion b k f).rf = l.rf ∧
    Tab.wf (m.updRegion b k f).flt.regions = true := by
  have hkeeps := celFrame_keeps hcel
  have ⟨hflt, hrf, _⟩ := hkeeps
  have hwf' : Tab.wf m.flt.regions = true := hflt ▸ hwf
  refine ⟨?_, hrf, updRegion_wf hwf' b k f⟩
  rw [region_updRegion hwf', region_congr hkeeps]

/-- A definition lies in its region, and the blocks stay. -/
theorem copyDef_spec (hwf : Tab.wf l.flt.regions = true) (b : Build) (k : Nat) (r : Rec) :
    Tab.find? ((l.copyDef b k r).region b k).defs (copySer r) = some (defEnt (r.body.drop 1)) ∧
    ((l.copyDef b k r).region b k).blks = (l.region b k).blks ∧ (l.copyDef b k r).rf = l.rf := by
  obtain ⟨hregion, hrf, _⟩ := updRegion_spec
    (celFrame_celWrite l b (l.copyDefAddr b k (copySer r)) (defEnt (r.body.drop 1)).words) hwf b k
    fun g => { g with defs := Tab.insert g.defs (copySer r) (defEnt (r.body.drop 1)) }
  have hdefs := congrArg (fun g : Region => Tab.find? g.defs (copySer r)) hregion
  have hblks := congrArg Region.blks hregion
  exact ⟨hdefs.trans (Tab.find?_insert_same _ _ _), hblks, hrf⟩

/-- Region `k` holds the block `x` at `o`, and the registers are those of `l`. -/
def HoldsBlk (b : Build) (k o : Nat) (x : Blk) (l m : Live) : Prop :=
  Tab.find? (m.region b k).blks o = some x ∧ m.rf = l.rf

/-- A block lies at its offset of the region. The functions that compute cellar addresses are variables while the
cases are read off, as above. -/
theorem copyBlk_spec {o : Nat} (hwf : Tab.wf l.flt.regions = true) (h : l.copyOfs b k (wordAt r.body 1).toNat = some o) :
    HoldsBlk b k o ⟨r.body.drop 2, r.poison⟩ l (l.copyBlk b k r) := by
  obtain ⟨write, hwrite, hcel⟩ : ∃ w, w = Live.celWrite ∧ ∀ l b a ws, CelFrame l (w l b a ws) :=
    ⟨_, rfl, celFrame_celWrite⟩
  obtain ⟨ofs, hofs, h⟩ : ∃ f, f = l.copyOfs b k ∧ f (wordAt r.body 1).toNat = some o := ⟨_, rfl, h⟩
  conv in @Live.copyBlk => delta Live.copyBlk
  rw [← hwrite, ← hofs]
  dsimp only
  rw [h]
  dsimp only
  obtain ⟨hregion, hrf, hwf'⟩ := updRegion_spec
    (hcel l b (l.get b F.PCOPY_BASE_BASE k * 2 ^ 20 + o) (r.body.drop 2)) hwf b k
    fun g => { g with blks := Tab.insert g.blks o ⟨r.body.drop 2, r.poison⟩ }
  have hblk := (congrArg (fun g : Region => Tab.find? g.blks o) hregion).trans (Tab.find?_insert_same _ _ _)
  split
  · exact ⟨hblk, hrf⟩
  · obtain ⟨hregion', hrf', _⟩ := updRegion_spec (hcel _ b _ _) hwf' b k _
    exact ⟨(congrArg (fun g : Region => Tab.find? g.blks o) hregion').trans hblk, hrf'.trans hrf⟩

/-- A copy record whose sender has an entry here is kept by its kind. -/
theorem gives_copyRecordReceive {n : BitVec 5} (hhere : s.live.copyHere s.build n r = true) (hrest : s.live.flt.rest = none)
    (hk : s.live.holdsFor s.build (r.src.toNat / 256) = some k) :
    Gives (.copyRecordReceive n r) s (if rplKind r = 0x11 then s.live.copyDef s.build k r
      else if rplKind r = 0x10 then s.live.copyBlk s.build k r else s.live) := by
  show execCopyRecordReceive n r s = _
  refine run_gives ((if_neg (by simp [hhere, Live.fromHolder, hrest])).trans ?_)
  rw [hk]

/-! ### PCOPY_ENABLE -/

/-- The row of the partner entries. -/
def pcopyRow : RegRow := ⟨0x2420, 4, 0, 4, .none, .none, [F.PCOPY_TRUNK, F.PCOPY_VALID]⟩

theorem findReg_pcopy (hf : b.form = .lantern) (k : BitVec 2) :
    findReg b (0x2420 + 4 * k.toNat) = some (pcopyRow, k.toNat) := by
  rw [findReg_form, hf]
  revert k
  decide +kernel

theorem writeRow_pcopy (l : Live) (b : Build) (e : Nat) (v : Word) : l.writeRow b pcopyRow e v = l.writePcopy b e v :=
  writeRow_of_find (x := (0x2420, fun l b e v => l.writePcopy b e v)) rfl

theorem gives_pcopyEnable {k : BitVec 2} (h : Served s) (hf : s.build.form = .lantern) :
    Gives (.pcopyEnable k v) s ((written s).writePcopy s.build k.toNat v) := by
  show execPcopyEnable k v s = _
  exact writeRow_pcopy (written s) s.build k.toNat v ▸ portWrite_gives h (findReg_pcopy hf k) rfl rfl (by omega)

theorem celBytes_put (f : Fld) (x e : Nat) : (l.put b f x e).celBytes b = l.celBytes b := rfl

theorem copyRegion_put (hwf : Tab.wf l.rf = true) (hk : k < 65536) (x : Nat) :
    (l.put b F.PCOPY_TRUNK x k).copyRegion b k = l.copyRegion b k := by
  have hkey (g : Fld) (hg : g.lo < 32) (hoff : F.PCOPY_TRUNK.off ≠ g.off) : F.PCOPY_TRUNK.key k ≠ g.key k :=
    Fld.key_ne hk hk (by decide) hg (Or.inl hoff)
  unfold Live.copyRegion
  rw [Live.get_put_ne hwf (hkey F.PCOPY_BASE_BASE (by decide) (by decide)),
    Live.get_put_ne hwf (hkey F.PCOPY_SRC_SPAN (by decide) (by decide))]

/-- A write with VALID = 0 takes the trunk and clears VALID. -/
theorem writePcopy_clears (hwf : Tab.wf l.rf = true) (hk : k < 65536) (hv : v.toNat.testBit 10 = false) :
    (l.writePcopy b k v).get b F.PCOPY_TRUNK k = v.toNat % 1024 ∧ (l.writePcopy b k v).flag b F.PCOPY_VALID k = false ∧
    (l.writePcopy b k v).flt = l.flt := by
  have hwf' := Live.put_wf (b := b) hwf F.PCOPY_TRUNK v.toNat k
  have hkey : F.PCOPY_VALID.key k ≠ F.PCOPY_TRUNK.key k :=
    Fld.key_ne hk hk (by decide) (by decide) (Or.inr (Or.inl (by decide)))
  have hput : l.writePcopy b k v = (l.put b F.PCOPY_TRUNK v.toNat k).put b F.PCOPY_VALID 0 k := by
    unfold Live.writePcopy
    exact if_pos (by simp [hv])
  rw [hput]
  refine ⟨?_, flag_put_same hwf' (by decide), rfl⟩
  rw [Live.get_put_ne hwf' hkey, Live.get_put_same hwf]
  rfl

/-- A write with VALID = 1 is refused for a region beyond the cellar. -/
theorem writePcopy_refused (hwf : Tab.wf l.rf = true) (hk : k < 65536) (hv : v.toNat.testBit 10 = true)
    (hoff : l.flag b F.PCOPY_VALID k = false) (hbeyond : l.celBytes b < (l.copyRegion b k).2) :
    (l.writePcopy b k v).flag b F.PCOPY_VALID k = false ∧ (l.writePcopy b k v).get b F.COPY_STAT_REJ = 1 := by
  have hwf' := Live.put_wf (b := b) hwf F.PCOPY_TRUNK v.toNat k
  have hvalid : (l.put b F.PCOPY_TRUNK v.toNat k).flag b F.PCOPY_VALID k = false := by
    unfold Live.flag
    rw [Live.get_put_ne hwf (Fld.key_ne hk hk (by decide) (by decide) (Or.inr (Or.inl (by decide))))]
    exact hoff
  have hput : l.writePcopy b k v = (l.put b F.PCOPY_TRUNK v.toNat k).put b F.COPY_STAT_REJ 1 := by
    obtain ⟨size, region, hsize, hregion, hlt⟩ : ∃ f g, f = Live.celBytes ∧ g = Live.copyRegion ∧
        f (l.put b F.PCOPY_TRUNK v.toNat k) b < (g (l.put b F.PCOPY_TRUNK v.toNat k) b k).2 :=
      ⟨_, _, rfl, rfl, by rw [celBytes_put, copyRegion_put hwf hk]; exact hbeyond⟩
    conv in @Live.writePcopy => delta Live.writePcopy
    rw [← hsize, ← hregion]
    exact (if_neg (by simp [hv])).trans ((if_neg (by simp [hvalid])).trans (if_pos (Or.inl hlt)))
  rw [hput]
  refine ⟨?_, Live.get_put_same hwf' _ _ _⟩
  unfold Live.flag
  rw [Live.get_put_ne hwf' (Fld.key_ne (by decide) hk (by decide) (by decide) (Or.inl (by decide)))]
  exact hvalid

/-! ### RESTORE_REQ and GO -/

/-- The header of a copy record. -/
def copyHead (kind t argw : Nat) : DWord := packW [(0, kind), (16, t), (32, argw)]

/-- A kind, an index and an argument that are packed come apart again. -/
theorem packed_fields {kind : Nat} (hkind : kind < 256) {t : Nat} (ht : t < 65536) (argw : Nat) :
    (kind + (t * 65536 + argw * 4294967296)) % 18446744073709551616 / 1 % 256 = kind ∧
      (kind + (t * 65536 + argw * 4294967296)) % 18446744073709551616 / 4294967296 % 65536 = argw % 65536 := by
  omega

/-- The word of three fields. -/
theorem packW_three (i0 i1 i2 x0 x1 x2 : Nat) : (packW [(i0, x0), (i1, x1), (i2, x2)]).toNat =
    (x0 * 2 ^ i0 + (x1 * 2 ^ i1 + x2 * 2 ^ i2)) % 2 ^ 64 := by
  rw [packW_toNat]
  simp only [List.map_cons, List.map_nil, List.sum_cons, List.sum_nil, Nat.add_zero]

theorem copyHead_toNat (kind t argw : Nat) : (copyHead kind t argw).toNat =
    (kind + (t * 65536 + argw * 4294967296)) % 18446744073709551616 := by
  have h := packW_three 0 16 32 kind t argw
  rw [show (2 : Nat) ^ 0 = 1 from rfl, show (2 : Nat) ^ 16 = 65536 from rfl, show (2 : Nat) ^ 32 = 4294967296 from rfl,
    show (2 : Nat) ^ 64 = 18446744073709551616 from rfl, Nat.mul_one] at h
  exact h

theorem copyHead_fields {kind : Nat} (hkind : kind < 256) (ht : t < 65536) (argw : Nat) :
    fld (copyHead kind t argw) 0 8 = kind ∧ fld (copyHead kind t argw) 32 16 = argw % 65536 := by
  obtain ⟨hlow, hhigh⟩ := packed_fields hkind ht argw
  unfold fld
  rw [copyHead_toNat, Nat.shiftRight_eq_div_pow, Nat.shiftRight_eq_div_pow]
  exact ⟨hlow, hhigh⟩

theorem body_create (l : Live) (x : Rec) : (l.number x).2.body = x.body ∧ (l.number x).2.ty = x.ty := by
  rw [number_rec]
  exact ⟨rfl, rfl⟩

/-- `m` has more records than `l`, of these kinds and series, and the same faults, series and copies. -/
def Sends (l m : Live) (es : List (Nat × Nat)) : Prop :=
  m.flt = l.flt ∧ m.ser = l.ser ∧ ∃ xs : List (Nat × Rec), m.created = l.created ++ xs ∧
    xs.map (fun x => (rplKind x.2, copySer x.2)) = es

theorem Sends.trans {n : Live} {es es' : List (Nat × Nat)} (h : Sends l m es) (h' : Sends m n es') :
    Sends l n (es ++ es') := by
  obtain ⟨hflt, hser, xs, hxs, hmap⟩ := h
  obtain ⟨hflt', hser', ys, hys, hmap'⟩ := h'
  refine ⟨hflt'.trans hflt, hser'.trans hser, xs ++ ys, ?_, ?_⟩
  · rw [hys, hxs, List.append_assoc]
  · rw [List.map_append, hmap, hmap']

/-- A read of the cellar sends nothing. -/
theorem BlockFrame.sends (h : BlockFrame l m) : Sends l m [] := by
  unfold BlockFrame at h
  rw [h]
  exact ⟨rfl, rfl, [], (List.append_nil _).symm, rfl⟩

theorem sends_create {x : Rec} {kind argw : Nat} {ws : List DWord} (hbody : x.body = copyHead kind t argw :: ws)
    (hkind : kind < 256) (ht : t < 65536) (l : Live) (b : Build) : Sends l (l.create b x) [(kind, argw % 65536)] := by
  obtain ⟨hk, ha⟩ := copyHead_fields hkind ht argw
  have hx : (l.number x).2.body = copyHead kind t argw :: ws := (body_create l x).1.trans hbody
  refine ⟨?_, ?_, _, created_create l b x, ?_⟩
  · rw [create_frame]
  · rw [create_frame]
  · unfold rplKind copySer
    rw [List.map_singleton, hx]
    exact congrArg (fun p => [p]) (Prod.ext hk ha)

/-- A fold of steps that each send sends what they send. -/
theorem sends_foldl {α : Type} {f : Live → α → Live} {g : α → List (Nat × Nat)} (h : ∀ l x, Sends l (f l x) (g x)) :
    ∀ (xs : List α) (l : Live), Sends l (xs.foldl f l) (xs.flatMap g) := by
  intro xs
  induction xs with
  | nil => exact fun l => ⟨rfl, rfl, [], (List.append_nil _).symm, rfl⟩
  | cons x xs ih => exact fun l => (h l x).trans (ih _)

/-- What lies in a region is read, and sends nothing. -/
theorem sends_copyAt (l : Live) (b : Build) (k a n : Nat) : Sends l (l.copyAt b k a n).1 [] := by
  obtain ⟨read, hread, hsends⟩ : ∃ f, f = Live.celRead ∧ ∀ l b a n, Sends l (f l b a n) [] :=
    ⟨_, rfl, fun l b a n => (blockFrame_celRead l b a n).sends⟩
  obtain ⟨ofs, hofs⟩ : ∃ f, f = Live.copyOfs := ⟨_, rfl⟩
  conv in @Live.copyAt => delta Live.copyAt
  rw [← hread, ← hofs]
  dsimp only
  split
  · exact ⟨rfl, rfl, [], (List.append_nil _).symm, rfl⟩
  · exact Sends.trans (es := []) ⟨rfl, rfl, [], (List.append_nil _).symm, rfl⟩ (hsends { l with free := l.free + n / 8 } b _ n)

theorem sends_sendBlk (ht : t < 65536) (l : Live) (b : Build) (k n : Nat) (d : DefEnt) (no : Nat) :
    Sends l (l.sendBlk b k t n d no) [(0x10, n % 65536)] := by
  obtain ⟨copied, hcopied, hsends⟩ : ∃ f, f = Live.copyAt ∧ ∀ l b k a n, Sends l (f l b k a n).1 [] :=
    ⟨_, rfl, sends_copyAt⟩
  conv in @Live.sendBlk => delta Live.sendBlk
  rw [← hcopied]
  exact Sends.trans (es := []) (hsends l b k _ _) (sends_create (kind := 0x10) rfl (by decide) ht _ b)

theorem sends_sendSeries (ht : t < 65536) (l : Live) (b : Build) (k n : Nat) (d : DefEnt) :
    Sends l (l.sendSeries b k t n d) ((0x11, n % 65536) :: d.window.map fun _ => (0x10, n % 65536)) := by
  have hblks := sends_foldl (f := fun l no => l.sendBlk b k t n d no) (fun l no => sends_sendBlk ht l b k n d no) d.window
  rw [← List.map_eq_flatMap] at hblks
  obtain ⟨read, hread, hsends⟩ : ∃ f, f = Live.celRead ∧ ∀ l b a n, Sends l (f l b a n) [] :=
    ⟨_, rfl, fun l b a n => (blockFrame_celRead l b a n).sends⟩
  obtain ⟨addr, haddr⟩ : ∃ f, f = Live.copyDefAddr := ⟨_, rfl⟩
  conv in @Live.sendSeries => delta Live.sendSeries
  rw [← hread, ← haddr]
  have hdef := Sends.trans (es := []) (hsends l b (addr l b k n) 32) (sends_create (kind := 0x11) (argw := n) (ws := d.words)
    (x := { copyRec l b 0x11 t n d.words with poison := l.celSpoilt b (addr l b k n) 32 }) rfl (by decide) ht _ b)
  exact hdef.trans (hblks _)

end

section

variable {s : State} {b : Build} {l m : Live} {k t e : Nat} {v : Word}

/-! ### A request for copies is copiesSent -/

/-- The record that ends the answer to `t`, with the count of definitions. -/
def doneRec (l : Live) (b : Build) (t n : Nat) : Rec := copyRec l b 0x13 t n []

/-- The definitions held for `t`, each with its blocks, are on the way. -/
def copiesSent (l : Live) (b : Build) (t k : Nat) (defs : Tab DefEnt) : Live :=
  defs.foldl (fun l e => l.sendSeries b k t e.1 e.2) l

/-- The definitions of the region of an entry. -/
def heldDefs (l : Live) (b : Build) : Option Nat → Tab DefEnt
  | some k => (l.region b k).defs
  | none => []

/-- A request is answered by what is held for its sender, or by DONE alone. -/
theorem gives_restoreReqReceive {n : BitVec 5} {r : Rec} (hhere : s.live.copyHere s.build n r = true)
    (hkind : rplKind r = 0x12) (hpoison : r.poison = false) {k : Option Nat}
    (hk : s.live.holdsFor s.build (r.src.toNat / 256) = k) {defs : Tab DefEnt}
    (hdefs : defs = heldDefs s.live s.build k) :
    Gives (.restoreReqReceive n r) s ((copiesSent s.live s.build (r.src.toNat / 256) (k.getD 0) defs).create s.build
      (doneRec (copiesSent s.live s.build (r.src.toNat / 256) (k.getD 0) defs) s.build (r.src.toNat / 256) defs.length)) := by
  show execRestoreReqReceive n r s = _
  subst hdefs
  obtain ⟨send, hsend⟩ : ∃ f, f = Live.sendSeries := ⟨_, rfl⟩
  unfold execRestoreReqReceive copiesSent doneRec
  rw [← hsend]
  refine run_gives ?_
  dsimp only
  rw [if_neg (by simp [hhere, hkind, hpoison]), hk]
  cases k with
  | some k => rfl
  | none => rfl

theorem restoreReq_none {n : BitVec 5} {r : Rec} (hhere : s.live.copyHere s.build n r = true)
    (hkind : rplKind r = 0x12) (hpoison : r.poison = false) (hk : s.live.holdsFor s.build (r.src.toNat / 256) = none) :
    Yields (.restoreReqReceive n r) s fun l => l.created.length = s.live.created.length + 1 ∧
      (∀ x ∈ l.created.drop s.live.created.length, x.2.ty = 0x0D ∧
        x.2.body = [packW [(0, 0x13), (16, r.src.toNat / 256), (32, 0)]]) ∧ l.rf = s.live.rf := by
  have hgives : Gives (.restoreReqReceive n r) s
      (s.live.create s.build (doneRec s.live s.build (r.src.toNat / 256) 0)) :=
    gives_restoreReqReceive hhere hkind hpoison hk (defs := []) rfl
  refine yields_of_gives hgives ?_
  rw [created_create, List.drop_left, List.length_append]
  refine ⟨rfl, fun x hx => ?_, by rw [create_frame]⟩
  rw [List.mem_singleton.mp hx]
  obtain ⟨hbody, hty⟩ := body_create s.live (doneRec s.live s.build (r.src.toNat / 256) 0)
  exact ⟨hty, hbody⟩

theorem sends_copiesSent (ht : t < 65536) (l : Live) (b : Build) (k : Nat) (defs : Tab DefEnt) :
    Sends l (copiesSent l b t k defs)
      (defs.flatMap fun e => (0x11, e.1 % 65536) :: e.2.window.map fun _ => (0x10, e.1 % 65536)) :=
  sends_foldl (f := fun l e => l.sendSeries b k t e.1 e.2)
    (g := fun e : Nat × DefEnt => (0x11, e.1 % 65536) :: e.2.window.map fun _ => (0x10, e.1 % 65536))
    (fun l e => sends_sendSeries ht l b k e.1 e.2) defs l

theorem restoreReq_some {n : BitVec 5} {r : Rec} (hhere : s.live.copyHere s.build n r = true)
    (hkind : rplKind r = 0x12) (hpoison : r.poison = false)
    (hk : s.live.holdsFor s.build (r.src.toNat / 256) = some k) :
    Yields (.restoreReqReceive n r) s fun l => l.created.take s.live.created.length = s.live.created ∧
      (l.created.drop s.live.created.length).dropLast.map (fun x => (rplKind x.2, copySer x.2)) =
        ((s.live.region s.build k).defs.flatMap fun e =>
          (0x11, e.1 % 65536) :: e.2.window.map fun _ => (0x10, e.1 % 65536)) ∧
      l.created.getLast?.map (·.2.body) =
        some [packW [(0, 0x13), (16, r.src.toNat / 256), (32, (s.live.region s.build k).defs.length)]] ∧
      l.flt = s.live.flt ∧ l.ser = s.live.ser := by
  refine yields_of_gives (gives_restoreReqReceive hhere hkind hpoison hk (defs := (s.live.region s.build k).defs) rfl) ?_
  dsimp only [Option.getD_some]
  obtain ⟨hflt, hser, xs, hxs, hmap⟩ := sends_copiesSent (t := r.src.toNat / 256)
    (by have := r.src.isLt; omega) s.live s.build k (s.live.region s.build k).defs
  rw [created_create, hxs, List.append_assoc, List.take_left, List.drop_left, List.dropLast_concat,
    ← List.append_assoc, List.getLast?_concat, Option.map_some]
  refine ⟨rfl, hmap, congrArg some (body_create _ _).1, ?_, ?_⟩
  · rw [create_frame]
    exact hflt
  · rw [create_frame]
    exact hser

/-! ### GO -/

/-- The row of the restore control. -/
def restRow : RegRow := ⟨0x2454, 0, 0, 1, .none, .none, [F.REST_CTL_HOLDER, F.REST_CTL_GO]⟩

theorem gives_restoreGo (h : Served s) (hf : s.build.form = .lantern) :
    Gives (.restoreGo v) s ((written s).writeRestCtl s.build v) := by
  have hfind : findReg s.build 0x2454 = some (restRow, 0) := by
    rw [findReg_form, hf]
    decide +kernel
  have hrow (l : Live) (b : Build) (e : Nat) : l.writeRow b restRow e v = l.writeRestCtl b v :=
    writeRow_of_find (x := (0x2454, fun l b _ v => l.writeRestCtl b v)) rfl
  show execRestoreGo v s = _
  exact hrow (written s) s.build 0 ▸ portWrite_gives h hfind rfl rfl (by decide)

/-- A GO with a plan active, a series enabled or a restore running is refused. -/
theorem writeRestCtl_refused (hwf : Tab.wf l.rf = true) (hgo : v.toNat.testBit 10 = true)
    (hbusy : (l.ser.sers.any fun e => e.2.on) = true ∨ (l.plans.any fun e => e.2.active) = true ∨
      l.flt.rest.isSome = true) :
    (l.writeRestCtl b v).get b F.REST_STAT_REJ = 1 ∧ (l.writeRestCtl b v).flt = l.flt ∧
      (l.writeRestCtl b v).created = l.created := by
  have hput : l.writeRestCtl b v = (l.put b F.REST_CTL_HOLDER v.toNat).put b F.REST_STAT_REJ 1 :=
    (if_neg (by simp [hgo])).trans (if_pos (by tauto))
  rw [hput]
  exact ⟨Live.get_put_same (Live.put_wf (b := b) hwf _ _ _) _ _ _, rfl, rfl⟩

/-- A restore of the partner `v` names begins. -/
def restoring (l : Live) (b : Build) (v : Word) : Live :=
  { l.put b F.REST_CTL_HOLDER v.toNat with
    flt := { l.flt with rest := some ⟨[], [], []⟩, restState := 1, restored := 0, restarted := 0 } }

theorem writeRestCtl_go (hwf : Tab.wf l.rf = true) (hgo : v.toNat.testBit 10 = true)
    (hsers : ∀ e ∈ l.ser.sers, e.2.on = false) (hplans : ∀ e ∈ l.plans, e.2.active = false) (hrest : l.flt.rest = none) :
    l.writeRestCtl b v = (restoring l b v).create b (copyRec (restoring l b v) b 0x12 (v.toNat % 1024) 0 []) := by
  have hholder : (restoring l b v).get b F.REST_CTL_HOLDER = v.toNat % 1024 := Live.get_put_same hwf _ _ _
  have hidle : ¬((l.plans.any fun e => e.2.active) = true ∨ (l.ser.sers.any fun e => e.2.on) = true ∨
      l.flt.rest.isSome = true) := by
    simp [hrest]
    exact ⟨fun a x hx => by simpa using hplans (a, x) hx, fun a x hx => by simpa using hsers (a, x) hx⟩
  rw [← hholder]
  exact (if_neg (by simp [hgo])).trans (if_neg hidle)

theorem restoreGo_starts (hwf : Tab.wf l.rf = true) (hgo : v.toNat.testBit 10 = true)
    (hsers : ∀ e ∈ l.ser.sers, e.2.on = false) (hplans : ∀ e ∈ l.plans, e.2.active = false) (hrest : l.flt.rest = none) :
    (l.writeRestCtl b v).flt = { l.flt with
        rest := some ⟨[], [], []⟩, restState := 1, restored := 0, restarted := 0 } ∧
      (l.writeRestCtl b v).created.length = l.created.length + 1 ∧
      (∀ x ∈ (l.writeRestCtl b v).created.drop l.created.length, x.2.ty = 0x0D ∧
        x.2.body = [packW [(0, 0x12), (16, v.toNat % 1024), (32, 0)]]) := by
  have hmade : (restoring l b v).created = l.created := rfl
  rw [writeRestCtl_go hwf hgo hsers hplans hrest, created_create, hmade, List.drop_left, List.length_append]
  refine ⟨by rw [create_frame]; rfl, rfl, fun x hx => ?_⟩
  rw [List.mem_singleton.mp hx]
  obtain ⟨hbody, hty⟩ := body_create (restoring l b v) (copyRec (restoring l b v) b 0x12 (v.toNat % 1024) 0 [])
  exact ⟨hty, hbody⟩

/-! ### The records of a restore -/

/-- Without blocks a definition with a window is not complete. -/
theorem complete_none {d : DefEnt} (h : d.window ≠ []) : d.complete [] = none := by
  obtain ⟨x, xs, hxs⟩ := List.exists_cons_of_ne_nil h
  unfold DefEnt.complete
  rw [hxs]
  exact List.foldl_fixed' (fun _ => rfl) xs

/-- A definition that comes while no block has come joins the restore. -/
theorem gives_restoreDef {n : BitVec 5} {r : Rec} {q : Restore} (hhere : s.live.copyHere s.build n r = true)
    (hfrom : s.live.fromHolder s.build r = true) (hrest : s.live.flt.rest = some q) (hkind : rplKind r = 0x11)
    (hpoison : r.poison = false) (hnew : copySer r ∉ q.restored) (hblks : q.blks = [])
    (hwindow : (defEnt (r.body.drop 1)).window ≠ []) :
    Gives (.restoreRecordReceive n r) s { s.live with flt := { s.live.flt with
      rest := some { q with defs := Tab.insert q.defs (copySer r) (defEnt (r.body.drop 1)) } } } := by
  show execRestoreRecordReceive n r s = _
  refine run_gives ((if_neg (by simp [hhere, hfrom])).trans ?_)
  dsimp only
  rw [hrest]
  dsimp only
  rw [if_pos hkind, if_neg (by simp [hpoison, hnew])]
  unfold Live.tryRestore
  dsimp only
  rw [if_neg hnew, Tab.find?_insert_same, hblks]
  dsimp only
  rw [complete_none hwindow]

/-- DONE with no definition ends the restore. -/
theorem gives_restoreDone {n : BitVec 5} {r : Rec} {q : Restore} (hhere : s.live.copyHere s.build n r = true)
    (hfrom : s.live.fromHolder s.build r = true) (hrest : s.live.flt.rest = some q) (hkind : rplKind r = 0x13)
    (hdefs : q.defs = []) :
    Gives (.restoreDone n r) s
      (({ s.live with flt := { s.live.flt with rest := none, restState := 2, restarted := 0 } } : Live).logE s.build
        0x110A 1 [s.live.flt.restored]) := by
  show execRestoreDone n r s = _
  refine run_gives ((if_pos ⟨hhere, hfrom, hkind⟩).trans ?_)
  unfold Live.restoreEnd
  rw [hrest]
  dsimp only
  rw [hdefs]
  rfl

/-! ### The end of a restore -/

/-- The definitions that were not restored. -/
def todo (q : Restore) : Tab DefEnt := q.defs.filter fun e => decide (e.1 ∉ q.restored)

/-- What a series that starts again leaves: the state of the restore, and the other tables. -/
def Restarts (l m : Live) (n g : Nat) : Prop :=
  m.flt.rest = l.flt.rest ∧ m.flt.restState = l.flt.restState ∧ m.flt.restarted = l.flt.restarted ∧
    m.genBase = l.genBase ∧ m.ser.sers = Tab.upd l.ser.sers n ser0 (fun _ => { ser0 with on := true }) ∧
    m.gens = Tab.set l.gens n 0 ((g + 256 - l.genBase % 256) % 256)

theorem sendCopy_keeps (l : Live) (b : Build) (kind n : Nat) (ws : List DWord) :
    (l.sendCopy b kind n ws).flt = { l.flt with sent := (l.sendCopy b kind n ws).flt.sent } ∧
      (l.sendCopy b kind n ws).genBase = l.genBase ∧ (l.sendCopy b kind n ws).ser = l.ser ∧
      (l.sendCopy b kind n ws).gens = l.gens := by
  unfold Live.sendCopy
  split
  · rw [create_frame]
    exact ⟨rfl, rfl, rfl, rfl⟩
  · exact ⟨rfl, rfl, rfl, rfl⟩

/-- The series `n` with its definition `d`, its next GEN and no sample. -/
def restartedSer (l : Live) (b : Build) (n : Nat) (d : DefEnt) : Live :=
  ((l.defRegs b n d).setGen n ((d.gen + 1) % 256)).serStart n

theorem restarts_restartSer (l : Live) (b : Build) (n : Nat) (d : DefEnt) :
    Restarts l (l.restartSer b n d) n ((d.gen + 1) % 256) := by
  obtain ⟨hflt, hbase, hser, hgens⟩ := sendCopy_keeps (restartedSer l b n d) b 0x11 n
    ((restartedSer l b n d).defOf b n).words
  obtain ⟨m, hm⟩ : ∃ m, m = (restartedSer l b n d).sendCopy b 0x11 n ((restartedSer l b n d).defOf b n).words := ⟨_, rfl⟩
  rw [← hm] at hflt hbase hser hgens
  obtain ⟨x, hx⟩ : ∃ x, l.restartSer b n d = m.create b x := ⟨_, by rw [hm]; unfold Live.restartSer restartedSer; rfl⟩
  rw [hx, create_frame]
  refine ⟨?_, ?_, ?_, hbase, ?_, hgens⟩
  · show m.flt.rest = _
    rw [hflt]
    rfl
  · show m.flt.restState = _
    rw [hflt]
    rfl
  · show m.flt.restarted = _
    rw [hflt]
    rfl
  · exact congrArg (·.sers) hser

/-- A series that starts again is on, and its GEN is the next one. -/
theorem Restarts.same {n g : Nat} (h : Restarts l m n g) (hg : g < 256) (hsers : Tab.wf l.ser.sers = true)
    (hgens : Tab.wf l.gens = true) : m.sery n = { ser0 with on := true } ∧ m.gen n = g := by
  obtain ⟨_, _, _, hbase, hser, hgen⟩ := h
  unfold Live.sery Live.gen
  rw [hbase, hser, hgen, Tab.getD_upd_same hsers, Tab.getD_set_same hgens]
  exact ⟨rfl, by omega⟩

theorem Restarts.other {n g i : Nat} (h : Restarts l m n g) (hi : n ≠ i) (hsers : Tab.wf l.ser.sers = true)
    (hgens : Tab.wf l.gens = true) : m.sery i = l.sery i ∧ m.gen i = l.gen i := by
  obtain ⟨_, _, _, hbase, hser, hgen⟩ := h
  unfold Live.sery Live.gen
  rw [hbase, hser, hgen, Tab.getD_upd_ne hsers hi, Tab.getD_set_ne hgens hi]
  exact ⟨rfl, rfl⟩

theorem Restarts.wf {n g : Nat} (h : Restarts l m n g) (hsers : Tab.wf l.ser.sers = true)
    (hgens : Tab.wf l.gens = true) : Tab.wf m.ser.sers = true ∧ Tab.wf m.gens = true := by
  obtain ⟨_, _, _, _, hser, hgen⟩ := h
  rw [hser, hgen]
  exact ⟨Tab.wf_upd hsers _ _ _, Tab.wf_set hgens _ _ _⟩

/-- The series of `defs` start again. -/
def restartAll (l : Live) (b : Build) (defs : Tab DefEnt) : Live :=
  defs.foldl (fun l e => l.restartSer b e.1 e.2) l

theorem restartAll_keeps (b : Build) (defs : Tab DefEnt) : ∀ l : Live,
    (restartAll l b defs).flt.rest = l.flt.rest ∧ (restartAll l b defs).flt.restState = l.flt.restState ∧
      (restartAll l b defs).flt.restarted = l.flt.restarted := by
  induction defs with
  | nil => exact fun l => ⟨rfl, rfl, rfl⟩
  | cons e defs ih =>
    intro l
    obtain ⟨hrest, hstate, hcount, _⟩ := restarts_restartSer l b e.1 e.2
    obtain ⟨hrest', hstate', hcount'⟩ := ih (l.restartSer b e.1 e.2)
    exact ⟨hrest'.trans hrest, hstate'.trans hstate, hcount'.trans hcount⟩

/-- A series below those that start again stays. -/
theorem restartAll_below {i : Nat} : ∀ {defs : Tab DefEnt} {lo : Nat} {l : Live}, Tab.sortedFrom lo defs = true → i < lo →
    Tab.wf l.ser.sers = true → Tab.wf l.gens = true →
    (restartAll l b defs).sery i = l.sery i ∧ (restartAll l b defs).gen i = l.gen i := by
  intro defs
  induction defs with
  | nil => exact fun _ _ _ _ => ⟨rfl, rfl⟩
  | cons e defs ih =>
    intro lo l hsorted hi hsers hgens
    obtain ⟨hlo, hrest⟩ := Bool.and_eq_true_iff.mp hsorted
    have hlt : i < e.1 := hi.trans_le (of_decide_eq_true hlo)
    have hstep := restarts_restartSer l b e.1 e.2
    obtain ⟨hsery, hgen⟩ := hstep.other hlt.ne' hsers hgens
    obtain ⟨hsers', hgens'⟩ := hstep.wf hsers hgens
    obtain ⟨hsery', hgen'⟩ := ih hrest (Nat.lt_succ_of_lt hlt) hsers' hgens'
    exact ⟨hsery'.trans hsery, hgen'.trans hgen⟩

/-- Each series that starts again is on, with its next GEN. -/
theorem restartAll_mem : ∀ {defs : Tab DefEnt} {lo : Nat} {l : Live}, Tab.sortedFrom lo defs = true →
    Tab.wf l.ser.sers = true → Tab.wf l.gens = true → ∀ e ∈ defs,
    (restartAll l b defs).sery e.1 = { ser0 with on := true } ∧ (restartAll l b defs).gen e.1 = (e.2.gen + 1) % 256 := by
  intro defs
  induction defs with
  | nil => exact fun _ _ _ _ he => absurd he (List.not_mem_nil)
  | cons x defs ih =>
    intro lo l hsorted hsers hgens e he
    obtain ⟨_, hrest⟩ := Bool.and_eq_true_iff.mp hsorted
    have hstep := restarts_restartSer l b x.1 x.2
    obtain ⟨hsers', hgens'⟩ := hstep.wf hsers hgens
    rcases List.mem_cons.mp he with rfl | he
    · obtain ⟨hsery, hgen⟩ := hstep.same (Nat.mod_lt _ (by decide)) hsers hgens
      obtain ⟨hsery', hgen'⟩ := restartAll_below (b := b) hrest (Nat.lt_succ_self e.1) hsers' hgens'
      exact ⟨hsery'.trans hsery, hgen'.trans hgen⟩
    · exact ih hrest hsers' hgens' e he

/-- The restore has ended late, and `n` series start again. -/
def lateEnd (l : Live) (n : Nat) : Live :=
  { l with flt := { l.flt with rest := none, restState := 3, restarted := n } }

theorem restoreTimeout_ends {q : Restore} (ha : s.live.awake = true) (hrest : s.live.flt.rest = some q) :
    Yields .restoreTimeout s fun l => l.flt.rest = none ∧ l.flt.restState = 3 ∧
      l.flt.restarted = (q.defs.filter fun e => decide (e.1 ∉ q.restored)).length ∧
      (Tab.wf q.defs = true → Tab.wf s.live.ser.sers = true → Tab.wf s.live.gens = true →
        ∀ e ∈ q.defs, e.1 ∉ q.restored →
          l.sery e.1 = { ser0 with on := true } ∧ l.gen e.1 = (e.2.gen + 1) % 256) := by
  have hgives : Gives .restoreTimeout s ((restartAll (lateEnd s.live (todo q).length) s.build (todo q)).logE s.build
      0x1109 3 [(todo q).length]) := by
    show execRestoreTimeout s = _
    refine runAwake_gives ha ?_
    unfold Live.restoreEnd
    rw [hrest]
    rfl
  refine yields_of_gives hgives ?_
  obtain ⟨hrest', hstate, hcount⟩ := restartAll_keeps s.build (todo q) (lateEnd s.live (todo q).length)
  rw [Live.logE_flt]
  refine ⟨hrest', hstate, hcount, fun hdefs hsers hgens e he hnew => ?_⟩
  unfold Live.sery Live.gen
  rw [Live.logE_ser, Live.logE_gens, Live.logE_genBase]
  have hmem : e ∈ todo q := List.mem_filter.mpr ⟨he, decide_eq_true hnew⟩
  exact restartAll_mem (b := s.build) (defs := todo q) (l := lateEnd s.live (todo q).length)
    (Tab.sortedFrom_filter _ 0 _ hdefs) hsers hgens e hmem

theorem restoreTimeout_idle (ha : s.live.awake = true) (hrest : s.live.flt.rest = none) :
    Gives .restoreTimeout s s.live := by
  show execRestoreTimeout s = _
  refine runAwake_gives ha ?_
  unfold Live.restoreEnd
  rw [hrest]

/-- A block outside the region of its entry counts. -/
theorem copyBlk_outside {r : Rec} (h : l.copyOfs b k (wordAt r.body 1).toNat = none) :
    l.copyBlk b k r = l.bump b F.COPY_STAT_DROP := by
  obtain ⟨write, hwrite⟩ : ∃ w, w = Live.celWrite := ⟨_, rfl⟩
  obtain ⟨ofs, hofs, h⟩ : ∃ f, f = l.copyOfs b k ∧ f (wordAt r.body 1).toNat = none := ⟨_, rfl, h⟩
  conv in @Live.copyBlk => delta Live.copyBlk
  rw [← hwrite, ← hofs]
  dsimp only
  rw [h]

/-- Settles O45. -/
theorem copiesAreKeptAndRestored : Obligations.CopiesAreKeptAndRestored := by
  refine ⟨fun s n r k hhere hrest hk hregions hdefs hblks => ⟨fun hkind => ?_, fun o hkind hofs => ?_, fun hkind hofs => ?_⟩,
    fun s k v h hf hwf => ⟨fun hv => ?_, fun hv hoff hbeyond => ?_⟩, ?_, ?_, ?_, ?_, ?_⟩
  · refine yields_of_gives (gives_copyRecordReceive hhere hrest hk) ?_
    rw [if_pos hkind]
    exact copyDef_spec hregions s.build k r
  · refine yields_of_gives (gives_copyRecordReceive hhere hrest hk) ?_
    rw [if_neg (by omega), if_pos hkind]
    exact copyBlk_spec hregions hofs
  · refine (gives_copyRecordReceive hhere hrest hk).trans ?_
    rw [if_neg (by omega), if_pos hkind, copyBlk_outside hofs]
  · exact yields_of_gives (gives_pcopyEnable h hf) (writePcopy_clears (l := written s) hwf (by omega) hv)
  · exact yields_of_gives (gives_pcopyEnable h hf) (writePcopy_refused (l := written s) hwf (by omega) hv hoff hbeyond)
  · rintro s n r t hhere hkind hpoison rfl hk
    exact restoreReq_none hhere hkind hpoison hk
  · rintro s n r t k hhere hkind hpoison rfl hk
    exact restoreReq_some hhere hkind hpoison hk
  · exact fun s v h hf hwf hgo => ⟨fun hbusy => yields_of_gives (gives_restoreGo h hf) (writeRestCtl_refused hwf hgo hbusy),
      fun hsers hplans hrest => yields_of_gives (gives_restoreGo h hf) (restoreGo_starts hwf hgo hsers hplans hrest)⟩
  · exact fun s n r q hhere hfrom hrest => ⟨fun hkind hpoison hnew hblks hwindow =>
      gives_restoreDef hhere hfrom hrest hkind hpoison hnew hblks hwindow,
      fun hkind hdefs => gives_restoreDone hhere hfrom hrest hkind hdefs⟩
  · exact fun s ha => ⟨restoreTimeout_idle ha, fun q hrest => restoreTimeout_ends ha hrest⟩

end

end Sys2Proof.Proofs
end

section
/-! PROOFS. Plan commands, fleet messages and the launch of plans (O46 to O49). -/

namespace Sys2Proof.Proofs

open Sys2Proof Sys2Proof.Machine Sys2Proof.Claims

section

/-- A PLAN_ABORT of entry 1 at MGMT. -/
def abortOne : Packet := { mgmtNop with arg := 1 }

/-- A READY lantern that runs a plan of which it is not the root, and whose engine is free while a query waits. -/
def runningQuery : State :=
  ⟨⟨.lantern, false, true, .gib64⟩, { Live.cold with
    boot := { Live.cold.boot with ready := true, held := false, phase := 6 },
    eng := { Live.cold.eng with waits := [shortQuery] },
    plans := [(1, { plan0 with state := .running })] }, []⟩

/-- How many replies wait at MGMT after a command. -/
def repliesAfter (c : Instr) (s : State) : Option Nat :=
  match exec c s with
  | .next t => some t.live.cmd.mgmtReplies.length
  | _ => none

theorem repliesAfter_of_gives {c : Instr} {s : State} {l : Live} (h : Gives c s l) :
    repliesAfter c s = some l.cmd.mgmtReplies.length := by
  unfold repliesAfter
  rw [h]

/-- The end of the plan answers the abort, and the query that waited. -/
theorem repliesAfter_abortOne : repliesAfter (.planAbort abortOne) runningQuery = some 2 := by
  decide +kernel

/-- Refutes O46: the statement ranges over states in which a query waits for a free sequence engine, and there the end
of the aborted plan sends the reply to that query too. -/
theorem not_planCommandsFollowTheEntry : ¬ Obligations.PlanCommandsFollowTheEntry := by
  unfold Obligations.PlanCommandsFollowTheEntry
  intro h
  obtain ⟨_, habort, _, _⟩ := h runningQuery abortOne 1 _ _ rfl rfl rfl (by decide)
  obtain ⟨_, hactive⟩ := habort (by decide) rfl
  obtain ⟨_, hnotRoot⟩ := hactive rfl (by decide) rfl rfl rfl (by decide) (by decide) rfl
  obtain ⟨l, hl, _, _, _, _, _, hreplies⟩ := hnotRoot (by decide)
  have htwo := (repliesAfter_of_gives hl).symm.trans repliesAfter_abortOne
  rw [hreplies] at htwo
  exact absurd htwo (by decide)

end

section

variable {s : State} {l : Live} {b : Build} {p : Packet} {r : Ret} {k e : Nat} {st d t : Word} {td : Bool}
  {o : Owner}

/-! ### The checks of PLAN_ARM -/

/-- What PLAN_ARM does once it has passed the shared checks. -/
def armRun (b : Build) (p : Packet) (k : Nat) (st d : Word) (td : Bool) (l : Live) (r : Ret) : Live :=
  match l.armErr b k st d td with
  | some e => (l.when (decide (e = ePoison)) fun l => l.meet b (.plan k)).reply b r e
  | none =>
    if b.buoy then
      ((((l.updPlan k fun x => { x with s := st, d := d, tdEn := td }).armCounts k st d td).enterArmed b k).reply b r 0 k)
    else ((l.rootArm b k st d td false).hold r (.planArm p)).updPlan k fun x => { x with armReply := some r }

theorem runs_planArm (h : Takes (.planArm p) s p 0x12 1) (hdata : p.data.length = 2) (hk : k = p.aBits 0 8)
    (hst : st = BitVec.ofNat 32 (fld (wordAt p.data 0) 0 32)) (hd : d = BitVec.ofNat 32 (fld (wordAt p.data 0) 32 32))
    (htd : td = bit (wordAt p.data 1) 0) : Runs (.planArm p) s p (armRun s.build p k st d td) := by
  have hgives : Gives (.planArm p) s (s.live.command s.build (.planArm p) (opRow 0x12 true true 1 2 2) p
      (armRun s.build p (p.aBits 0 8) (BitVec.ofNat 32 (fld (wordAt p.data 0) 0 32))
        (BitVec.ofNat 32 (fld (wordAt p.data 0) 32 32)) (bit (wordAt p.data 1) 0))) := rfl
  rw [← hk, ← hst, ← hd, ← htd] at hgives
  exact runs_of_takes_both hgives h (by decide) (Nat.le_of_eq hdata.symm) (Nat.le_of_eq hdata)

theorem armErr_begin (l : Live) (b : Build) (q : Packet) (k : Nat) (st d : Word) (td : Bool) :
    (l.begin q).1.armErr b k st d td = l.armErr b k st d td := by
  rw [begin_frame]
  rfl

theorem armRun_error (h : l.armErr b k st d td = some e) (he : e ≠ ePoison) :
    armRun b p k st d td l r = l.reply b r e := by
  unfold armRun
  rw [h]
  dsimp only
  rw [decide_eq_false he, Live.when_false]

/-- A PLAN_ARM that fails its checks is answered with the status of the first. -/
theorem runs_planArm_fails (h : Takes (.planArm p) s p 0x12 1) (hdata : p.data.length = 2) (hk : k = p.aBits 0 8)
    (hst : st = BitVec.ofNat 32 (fld (wordAt p.data 0) 0 32)) (hd : d = BitVec.ofNat 32 (fld (wordAt p.data 0) 32 32))
    (htd : td = bit (wordAt p.data 1) 0) (herr : s.live.armErr s.build k st d td = some e) (he : e ≠ ePoison) :
    Runs (.planArm p) s p fun l r => l.reply s.build r e :=
  runs_congr (runs_planArm h hdata hk hst hd htd) (armRun_error ((armErr_begin _ _ _ _ _ _ _).trans herr) he)

section
variable (hgated : l.planGated b (l.plan k) = false)

theorem armErr_gated (h : l.planGated b (l.plan k) = true) : l.armErr b k st d td = some eGated := by
  simp [Live.armErr, firstErr, h]

include hgated

theorem armErr_range (h : l.armRange b st d td = true) : l.armErr b k st d td = some eRange := by
  simp [Live.armErr, firstErr, hgated, h]

variable (hrange : l.armRange b st d td = false)
include hrange

theorem armErr_state (h : (l.plan k).state ≠ .verified ∨ b.lantern = true ∧ l.isRoot b (l.plan k) = false ∨
    l.armState b (l.plan k) = true) : l.armErr b k st d td = some eState := by
  have hstate : (decide ((l.plan k).state ≠ .verified) || (b.lantern && !l.isRoot b (l.plan k)) ||
      l.armState b (l.plan k)) = true := by
    rcases h with h | ⟨h, h'⟩ | h <;> simp [*]
  unfold Live.armErr
  dsimp only
  rw [hgated, hrange, hstate]
  rfl

variable (hstate : (decide ((l.plan k).state ≠ .verified) || (b.lantern && !l.isRoot b (l.plan k)) ||
  l.armState b (l.plan k)) = false)
include hstate

theorem armErr_rest : l.armErr b k st d td = firstErr [
    (!l.inWindow st || (td && !l.inWindow d) || (b.lantern && decide ((st - l.ft).toNat < 60000000)), eTime),
    (l.armSlot b k st td, eSlot), (l.bad (.plan k), ePoison)] := by
  unfold Live.armErr
  dsimp only
  rw [hgated, hrange, hstate]
  rfl

end

/-! ### PLAN_ARM at a buoy -/

theorem buoy_of_form (hf : b.form = .buoy) : b.buoy = true ∧ b.lantern = false := by
  simp [Build.buoy, Build.lantern, hf]

theorem lantern_of_form (hf : b.form = .lantern) : b.buoy = false ∧ b.lantern = true := by
  simp [Build.buoy, Build.lantern, hf]

theorem armRange_late (h : td = true) (hd : ftDiff d st ≤ 0) : l.armRange b st d td = true := by
  simp [Live.armRange, h, hd]

/-- At a buoy the range asks for D after S. -/
theorem armRange_buoy (hf : b.form = .buoy) (h : td = true → 0 < ftDiff d st) : l.armRange b st d td = false := by
  obtain ⟨_, hlantern⟩ := buoy_of_form hf
  cases td with
  | false => simp [Live.armRange, hlantern]
  | true => simpa [Live.armRange, hlantern] using h rfl

/-- A verified entry of a buoy with the time and the queue that it needs. -/
theorem armState_buoy (hf : b.form = .buoy) (hver : (l.plan k).state = .verified) (htimed : l.timed = true)
    (hcoll : (l.plan k).collecting = false) (hheld : l.cutvecHeld b (l.plan k).image = false) :
    (decide ((l.plan k).state ≠ .verified) || (b.lantern && !l.isRoot b (l.plan k)) ||
      l.armState b (l.plan k)) = false := by
  obtain ⟨hbuoy, hlantern⟩ := buoy_of_form hf
  simp [Live.armState, hver, htimed, hcoll, hheld, hbuoy, hlantern]

theorem armSlot_buoy (hf : b.form = .buoy) : l.armSlot b k st td =
    (decide (32 < l.cmpUsed + 1 + b2n td) || decide (16 ≤ l.activeCount) || l.armClash b k st) := by
  obtain ⟨hbuoy, hlantern⟩ := buoy_of_form hf
  simp [Live.armSlot, hbuoy, hlantern, Build.cmps]

/-- The plan owns the free sets among `qs`. -/
def ownsSets (l : Live) (k : Nat) (qs : List QwSet) : Live :=
  qs.foldl (fun l q => l.updQw q.set fun w => if w.owner = 0 then { w with owner := k } else w) l

theorem ownsSets_frame (k : Nat) (qs : List QwSet) : ∀ l : Live, ownsSets l k qs = { l with qws := (ownsSets l k qs).qws } := by
  induction qs with
  | nil => exact fun _ => rfl
  | cons q qs ih => exact fun l => (ih _).trans rfl

theorem qw_ownsSets (hk : k ≠ 0) (j : Nat) : ∀ (qs : List QwSet) (l : Live), Tab.wf l.qws = true →
    (ownsSets l k qs).qw j = if (l.qw j).owner = 0 ∧ j ∈ qs.map (·.set) then { l.qw j with owner := k } else l.qw j := by
  intro qs
  induction qs with
  | nil => exact fun l _ => (if_neg (by simp)).symm
  | cons q qs ih =>
    intro l hwf
    have hstep : (l.updQw q.set fun w => if w.owner = 0 then { w with owner := k } else w).qw j =
        if j = q.set then (if (l.qw j).owner = 0 then { l.qw j with owner := k } else l.qw j) else l.qw j := by
      by_cases hj : j = q.set
      · rw [if_pos hj, hj]
        exact Tab.getD_upd_same hwf _ _ _
      · rw [if_neg hj]
        exact Tab.getD_upd_ne hwf (Ne.symm hj) _ _ _
    refine (ih _ (Tab.wf_upd hwf _ _ _)).trans ?_
    rw [hstep]
    by_cases hj : j = q.set
    · by_cases howner : (l.qw j).owner = 0
      · simp [← hj, howner, hk]
      · simp [← hj, howner]
    · simp [hj]

theorem filter_owner (h : l.holdsCmp o = false) : (l.time.cmps.filter fun c => decide (c.owner ≠ o)) = l.time.cmps := by
  refine List.filter_eq_self.mpr fun c hc => decide_eq_true fun howner => ?_
  exact absurd (List.any_eq_true.mpr ⟨c, hc, decide_eq_true howner⟩) (by rw [← Live.holdsCmp, h]; decide)

/-- The comparators are `cs`. -/
def withCmps (l : Live) (cs : List Cmp) : Live := { l with time := { l.time with cmps := cs } }

/-- A count whose owner holds no comparator takes one more. -/
theorem armCmp_cmps (h : l.holdsCmp o = false) (t : Word) :
    l.armCmp o t = withCmps l (l.time.cmps ++ [⟨o, t, 0⟩]) := by
  unfold Live.armCmp Live.dropCmp
  dsimp only
  rw [filter_owner h]
  rfl

/-- The start count, and the teardown count where there is one. -/
def startCounts (k : Nat) (st d : Word) (td : Bool) : List Cmp :=
  ⟨.start k, st, 0⟩ :: if td then [⟨.teardown k, d, 0⟩] else []

theorem armCounts_cmps (hs : l.holdsCmp (.start k) = false) (hd : l.holdsCmp (.teardown k) = false) (st d : Word)
    (td : Bool) : l.armCounts k st d td = withCmps l (l.time.cmps ++ startCounts k st d td) := by
  unfold Live.armCounts startCounts
  dsimp only
  rw [armCmp_cmps hs]
  cases td with
  | false => rfl
  | true =>
    have hd' : (withCmps l (l.time.cmps ++ [⟨.start k, st, 0⟩])).holdsCmp (.teardown k) = false := by
      unfold Live.holdsCmp at *
      refine (List.any_append ..).trans ?_
      rw [hd]
      rfl
    rw [if_pos rfl, if_pos rfl, armCmp_cmps hd']
    exact congrArg (withCmps l) (List.append_assoc ..)

/-- What PLAN_ARM leaves at a buoy. -/
def buoyArmed (l : Live) (b : Build) (k : Nat) (st d : Word) (td : Bool) : Live :=
  ((l.updPlan k fun x => { x with s := st, d := d, tdEn := td }).armCounts k st d td).enterArmed b k

/-- The plan with its counts, and the one that is armed at a buoy. -/
def countedPlan (x : Plan) (st d : Word) (td : Bool) : Plan := { x with s := st, d := d, tdEn := td }
def armedPlan (x : Plan) (st d : Word) (td : Bool) : Plan :=
  { countedPlan x st d td with state := .armed, epochNext := 0, lastLatched := none, lastT := none }

/-- The entry that is armed, with its counts in comparators. -/
def entryArmed (l : Live) (k : Nat) (st d : Word) (td : Bool) : Live :=
  ((withCmps l (l.time.cmps ++ startCounts k st d td)).setPlan k (countedPlan (l.plan k) st d td)).setPlan k
    (armedPlan (l.plan k) st d td)

theorem entryArmed_plan (hwf : Tab.wf l.plans = true) :
    (entryArmed l k st d td).plan k = armedPlan (l.plan k) st d td :=
  Live.plan_setPlan_same (Live.setPlan_wf hwf k _) _

theorem entryArmed_plan_ne {j : Nat} (hwf : Tab.wf l.plans = true) (hj : j ≠ k) :
    (entryArmed l k st d td).plan j = l.plan j := by
  have hwf' : Tab.wf (withCmps l (l.time.cmps ++ startCounts k st d td)).plans = true := hwf
  exact (Live.plan_setPlan_ne (Live.setPlan_wf hwf' k _) hj.symm _).trans (Live.plan_setPlan_ne hwf' hj.symm _)

theorem buoyArmed_eq (hf : b.form = .buoy) (hwf : Tab.wf l.plans = true) (hs : l.holdsCmp (.start k) = false)
    (hd : l.holdsCmp (.teardown k) = false) :
    buoyArmed l b k st d td = ownsSets (entryArmed l k st d td) k (secQw (l.plan k).image) := by
  obtain ⟨hbuoy, _⟩ := buoy_of_form hf
  have hcounts : (l.updPlan k fun x => { x with s := st, d := d, tdEn := td }).armCounts k st d td =
      (withCmps l (l.time.cmps ++ startCounts k st d td)).setPlan k (countedPlan (l.plan k) st d td) :=
    armCounts_cmps (l := l.setPlan k (countedPlan (l.plan k) st d td)) hs hd st d td
  have hplan : ((withCmps l (l.time.cmps ++ startCounts k st d td)).setPlan k (countedPlan (l.plan k) st d td)).plan k =
      countedPlan (l.plan k) st d td := Live.plan_setPlan_same (l := withCmps l _) hwf _
  have hclaim (m : Live) : m.claim b k = ownsSets m k (secQw (m.plan k).image) := if_pos hbuoy
  unfold buoyArmed Live.enterArmed
  rw [hcounts, hclaim, Live.updPlan, hplan]
  show ownsSets (entryArmed l k st d td) k (secQw ((entryArmed l k st d td).plan k).image) = _
  rw [entryArmed_plan hwf]
  rfl

/-- What is left at a buoy: the plan, the comparators and the quiet-window sets. -/
theorem buoyArmed_spec (hf : b.form = .buoy) (hk : k ≠ 0) (hwf : Tab.wf l.plans = true) (hqws : Tab.wf l.qws = true)
    (hs : l.holdsCmp (.start k) = false) (hd : l.holdsCmp (.teardown k) = false) :
    (buoyArmed l b k st d td).plan k = armedPlan (l.plan k) st d td ∧
      (∀ j : Nat, j ≠ k → (buoyArmed l b k st d td).plan j = l.plan j) ∧
      (buoyArmed l b k st d td).time.cmps = l.time.cmps ++ startCounts k st d td ∧
      (∀ j : Nat, (buoyArmed l b k st d td).qw j = if (l.qw j).owner = 0 ∧ j ∈ (secQw (l.plan k).image).map (·.set) then
        { l.qw j with owner := k } else l.qw j) ∧
      (buoyArmed l b k st d td).cmd = l.cmd := by
  obtain ⟨m, hm⟩ : ∃ m, m = ownsSets (entryArmed l k st d td) k (secQw (l.plan k).image) := ⟨_, rfl⟩
  have hframe : m = { entryArmed l k st d td with qws := m.qws } := by
    rw [hm]
    exact ownsSets_frame _ _ _
  have hqw := qw_ownsSets hk (l := entryArmed l k st d td) (qs := secQw (l.plan k).image)
  rw [buoyArmed_eq hf hwf hs hd, ← hm]
  refine ⟨?_, fun j hj => ?_, ?_, fun j => ?_, ?_⟩
  · rw [hframe]
    exact entryArmed_plan hwf
  · rw [hframe]
    exact entryArmed_plan_ne hwf hj
  · rw [hframe]
    rfl
  · rw [hm]
    exact hqw j hqws
  · rw [hframe]
    rfl

/-- An entry that passes is armed, and PLAN_ARM answered. -/
theorem armRun_buoy (hf : b.form = .buoy) (h : l.armErr b k st d td = none) :
    armRun b p k st d td l r = (buoyArmed l b k st d td).reply b r 0 k := by
  obtain ⟨hbuoy, _⟩ := buoy_of_form hf
  unfold armRun
  rw [h]
  exact if_pos hbuoy

end

section

variable {s : State} {l m : Live} {b : Build} {p : Packet} {r : Ret} {k e n : Nat} {st d t : Word} {td : Bool} {x : Plan}
  {c : Instr}

/-! ### One entry of the plan table changes -/

/-- In `m` the entry `k` is `x`, and the others are as in `l`. -/
def PlanIs (l m : Live) (k : Nat) (x : Plan) : Prop :=
  Tab.wf m.plans = true ∧ m.plan k = x ∧ ∀ j : Nat, j ≠ k → m.plan j = l.plan j

theorem PlanIs.refl (hwf : Tab.wf l.plans = true) (k : Nat) : PlanIs l l k (l.plan k) := ⟨hwf, rfl, fun _ _ => rfl⟩

theorem PlanIs.set (h : PlanIs l m k x) (y : Plan) : PlanIs l (m.setPlan k y) k y := by
  obtain ⟨hwf, _, hne⟩ := h
  exact ⟨Live.setPlan_wf hwf k y, Live.plan_setPlan_same hwf y,
    fun j hj => (Live.plan_setPlan_ne hwf hj.symm y).trans (hne j hj)⟩

theorem PlanIs.upd (h : PlanIs l m k x) (f : Plan → Plan) : PlanIs l (m.updPlan k f) k (f x) := by
  obtain ⟨_, hk, _⟩ := id h
  unfold Live.updPlan
  rw [hk]
  exact h.set (f x)

/-- What leaves the plan table leaves its entries. -/
theorem PlanIs.congr {m' : Live} (h : PlanIs l m k x) (hplans : m'.plans = m.plans) : PlanIs l m' k x := by
  unfold PlanIs Live.plan at *
  rw [hplans]
  exact h

/-! ### Broadcast on one link -/

/-- A message to the one link of both trees joins its CTL units. -/
theorem bcast_one (hlinks : imgBcastLinks (l.plan k).image = [n]) (msg : CtlMsg) : l.bcast k msg = l.sendCtl n msg := by
  unfold Live.bcast
  rw [hlinks]
  rfl

theorem sendCtl_ctl (hwf : Tab.wf l.links = true) (n : Nat) (msg : CtlMsg) :
    ((l.sendCtl n msg).link n).ctl = (l.link n).ctl ++ [⟨msg.unit, none, none, 0, l.ft, none⟩] :=
  congrArg Link.ctl (Live.link_updLink_same hwf _)

/-! ### PLAN_ARM at the root -/

/-- The entry that goes to ARMING at the root: with its ARM_SEQ, with its counts, and with its ARM noted. -/
def seqPlan (x : Plan) : Plan := { x with armSeq := (x.armSeq + 1) % 256, autoArm := false }

def armingPlan (x : Plan) (st d : Word) : Plan :=
  { seqPlan x with
    state := .arming, s := st, d := d, tdEn := false, cond := none, reported := [], coll := ⟨x.buoyOk, 0⟩,
    lant := 1, buoy := 0, nogo := 0, refused := false, sentReport := false, upAbort := false }

def sentPlan (x : Plan) (st d : Word) : Plan := { armingPlan x st d with seen := [(1, (armingPlan x st d).armSeq, 0)] }

/-- The entry is ARMING, with its start count. -/
def rootArming (l : Live) (k : Nat) (st d : Word) : Live :=
  ((l.updPlan k seqPlan).setPlan k (armingPlan (l.plan k) st d)).armCmp (.start k) st

theorem mem_armCmp (l : Live) (o : Owner) (t : Word) : (⟨o, t, 0⟩ : Cmp) ∈ (l.armCmp o t).time.cmps :=
  List.mem_append_right _ (List.mem_singleton_self _)

theorem start_mem_rootArming (l : Live) (k : Nat) (st d : Word) :
    (⟨.start k, st, 0⟩ : Cmp) ∈ (rootArming l k st d).time.cmps :=
  mem_armCmp ((l.updPlan k seqPlan).setPlan k (armingPlan (l.plan k) st d)) (.start k) st

theorem rootArming_links : ((rootArming l k st d).setPlan k (sentPlan (l.plan k) st d)).links = l.links := by
  rw [Live.setPlan_links, rootArming, Live.armCmp_links, Live.setPlan_links]
  rfl

theorem rootArming_cmd : ((rootArming l k st d).setPlan k (sentPlan (l.plan k) st d)).cmd = l.cmd := by
  rw [Live.setPlan_cmd, rootArming, Live.armCmp_cmd, Live.setPlan_cmd]
  rfl

theorem rootArming_ft : ((rootArming l k st d).setPlan k (sentPlan (l.plan k) st d)).ft = l.ft := by
  have harm (l : Live) (o : Owner) (t : Word) : (l.armCmp o t).ft = l.ft := rfl
  have hset (l : Live) (x : Plan) : (l.setPlan k x).ft = l.ft := rfl
  rw [hset, rootArming, harm, hset, Live.updPlan, hset]

theorem planIs_rootArming (hwf : Tab.wf l.plans = true) :
    PlanIs l (rootArming l k st d) k (armingPlan (l.plan k) st d) :=
  (((PlanIs.refl hwf k).upd seqPlan).set _).congr rfl

theorem planIs_sent (hwf : Tab.wf l.plans = true) :
    PlanIs l ((rootArming l k st d).setPlan k (sentPlan (l.plan k) st d)) k (sentPlan (l.plan k) st d) :=
  (planIs_rootArming hwf).set _

theorem rootArm_eq (hwf : Tab.wf l.plans = true) (hok : (l.plan k).buoyOk = []) :
    l.rootArm b k st d false false = ((rootArming l k st d).setPlan k (sentPlan (l.plan k) st d)).bcast k
      (ctlMsg (armingPlan (l.plan k) st d) k 1 st.toNat d.toNat (packW [(0, 0)]) 0) := by
  have hseq : (l.updPlan k fun x => { x with armSeq := (x.armSeq + 1) % 256, autoArm := false }) = l.updPlan k seqPlan := rfl
  have hplan : (l.updPlan k seqPlan).plan k = seqPlan (l.plan k) := Live.plan_updPlan_same hwf _
  have harming : (l.updPlan k seqPlan).enterArming b k st d false = rootArming l k st d := by
    unfold Live.enterArming
    dsimp only
    rw [hplan]
    show Live.ownCmds _ b (l.plan k).buoyOk _ _ _ _ _ = _
    rw [hok]
    rfl
  obtain ⟨_, harmed, _⟩ := planIs_rootArming (st := st) (d := d) hwf (k := k)
  unfold Live.rootArm
  dsimp only
  rw [hseq, harming, Live.updPlan, harmed]
  rfl

/-- What PLAN_ARM leaves at the root. -/
def rootArmed (l : Live) (b : Build) (k : Nat) (st d : Word) (r : Ret) (c : Instr) : Live :=
  ((l.rootArm b k st d false false).hold r c).updPlan k fun x => { x with armReply := some r }

theorem rootArmed_spec (hwf : Tab.wf l.plans = true) (hlwf : Tab.wf l.links = true) (hok : (l.plan k).buoyOk = [])
    (hlinks : imgBcastLinks (l.plan k).image = [n]) :
    PlanIs l (rootArmed l b k st d r c) k { sentPlan (l.plan k) st d with armReply := some r } ∧
      (⟨.start k, st, 0⟩ : Cmp) ∈ (rootArmed l b k st d r c).time.cmps ∧
      ((rootArmed l b k st d r c).link n).ctl = (l.link n).ctl ++
        [⟨(ctlMsg { l.plan k with armSeq := ((l.plan k).armSeq + 1) % 256 } k 1 st.toNat d.toNat 0 0).unit, none,
          none, 0, l.ft, none⟩] ∧
      (rootArmed l b k st d r c).cmd = { l.cmd with busy := l.cmd.busy ++ [⟨r, c⟩] } := by
  obtain ⟨m, hm⟩ : ∃ m, m = (rootArming l k st d).setPlan k (sentPlan (l.plan k) st d) := ⟨_, rfl⟩
  have hsent : PlanIs l m k (sentPlan (l.plan k) st d) := by
    rw [hm]
    exact planIs_sent hwf
  have hlwf' : Tab.wf m.links = true := by
    rw [hm, rootArming_links]
    exact hlwf
  have hlink : m.link n = l.link n ∧ m.ft = l.ft ∧ m.cmd = l.cmd := by
    rw [hm]
    exact ⟨congrArg (fun t => Tab.getD t n link0) rootArming_links, rootArming_ft, rootArming_cmd⟩
  have hcmp : (⟨.start k, st, 0⟩ : Cmp) ∈ m.time.cmps := by
    rw [hm, Live.setPlan_time]
    exact start_mem_rootArming l k st d
  obtain ⟨_, hplan, _⟩ := id hsent
  obtain ⟨hlink, hft, hcmd⟩ := hlink
  unfold rootArmed
  rw [rootArm_eq hwf hok, ← hm, bcast_one (by rw [hplan]; exact hlinks)]
  refine ⟨?_, hcmp, ?_, ?_⟩
  · exact PlanIs.upd (m := (m.sendCtl n _).hold r c) (hsent.congr rfl) _
  · have hctl := sendCtl_ctl hlwf' n (ctlMsg (armingPlan (l.plan k) st d) k 1 st.toNat d.toNat (packW [(0, 0)]) 0)
    rw [hlink, hft] at hctl
    exact hctl
  · show ({ m.cmd with busy := m.cmd.busy ++ [⟨r, c⟩] } : Cmd) = { l.cmd with busy := l.cmd.busy ++ [⟨r, c⟩] }
    rw [hcmd]

theorem armRun_root (hf : b.form = .lantern) (h : l.armErr b k st d false = none) :
    armRun b p k st d false l r = rootArmed l b k st d r (.planArm p) := by
  obtain ⟨hbuoy, _⟩ := lantern_of_form hf
  unfold armRun
  rw [h]
  exact if_neg (by simp [hbuoy])

theorem armRange_root (hf : b.form = .lantern) (hgrid : l.flag b F.SCH_CTL_GRID_EN = true) :
    l.armRange b st d false = !l.cellBoundary b st := by
  obtain ⟨_, hlantern⟩ := lantern_of_form hf
  simp [Live.armRange, hlantern, hgrid]

theorem armRange_noGrid (hgrid : l.flag b F.SCH_CTL_GRID_EN = false) : l.armRange b st d false = false := by
  simp [Live.armRange, hgrid]

theorem armState_noGrid (hf : b.form = .lantern) (hgrid : l.flag b F.SCH_CTL_GRID_EN = false) (x : Plan) :
    l.armState b x = true := by
  obtain ⟨hbuoy, _⟩ := lantern_of_form hf
  simp [Live.armState, hbuoy, hgrid]

/-- A verified entry of the root, with the grid, the time and the engines that it needs. -/
theorem armState_root (hf : b.form = .lantern) (hgrid : l.flag b F.SCH_CTL_GRID_EN = true)
    (hroot : l.isRoot b (l.plan k) = true) (hver : (l.plan k).state = .verified) (htimed : l.timed = true)
    (hcoll : (l.plan k).collecting = false) (heng : l.engReady b (l.plan k).image = true) :
    (decide ((l.plan k).state ≠ .verified) || (b.lantern && !l.isRoot b (l.plan k)) ||
      l.armState b (l.plan k)) = false := by
  obtain ⟨hbuoy, hlantern⟩ := lantern_of_form hf
  simp [Live.armState, hver, htimed, hcoll, hgrid, heng, hroot, hbuoy, hlantern]

end

section

variable {s : State} {l m : Live} {b : Build} {p : Packet} {r : Ret} {k e n : Nat} {t : Word} {x : Plan} {c : Instr}

/-! ### CUT_AT at a buoy -/

/-- The epoch does not lie after the last that the plan latched. -/
def lateCut (x : Plan) (e : Nat) : Bool :=
  match x.lastLatched with
  | some q => x.owns && !epochLater e q
  | none => false

/-- The checks of CUT_AT at a buoy. -/
def cutBuoyErr (b : Build) (l : Live) (k : Nat) (t : Word) (e : Nat) : Option Nat :=
  firstErr [
    (lateCut (l.plan k) e, eRange),
    (!(l.plan k).owns || !secCmdCut (l.plan k).image || !l.timed, eState),
    (!l.inWindow t, eTime),
    (!l.cmpFree b, eSlot)]

theorem cutAtBuoy_eq (l : Live) (b : Build) (k : Nat) (t : Word) (e : Nat) (r : Ret) : l.cutAtBuoy b k t e r =
    match cutBuoyErr b l k t e with
    | some e => l.reply b r e
    | none => (l.armCut k t e).reply b r 0 e := rfl

theorem cutBuoyErr_begin (l : Live) (b : Build) (q : Packet) : cutBuoyErr b (l.begin q).1 k t e = cutBuoyErr b l k t e := by
  rw [begin_frame]
  rfl

theorem runs_cutAt_buoy (hf : s.build.form = .buoy) (h : Takes (.cutAt p) s p 0x18 1) (hdata : p.data.length = 1)
    (hk : k = p.aBits 0 8) (ht : t = BitVec.ofNat 32 (fld (wordAt p.data 0) 0 32)) (he : e = fld (wordAt p.data 0) 32 16) :
    Runs (.cutAt p) s p fun l r => l.cutAtBuoy s.build k t e r := by
  obtain ⟨hbuoy, _⟩ := buoy_of_form hf
  have hruns : Runs (.cutAt p) s p fun l r => if s.build.buoy then l.cutAtBuoy s.build (p.aBits 0 8)
      (BitVec.ofNat 32 (fld (wordAt p.data 0) 0 32)) (fld (wordAt p.data 0) 32 16) r
      else l.cutAtRoot s.build (p.aBits 0 8) (BitVec.ofNat 32 (fld (wordAt p.data 0) 0 32)) r (.cutAt p) :=
    runs_of_takes_both rfl h (by decide) (Nat.le_of_eq hdata.symm) (Nat.le_of_eq hdata)
  rw [← hk, ← ht, ← he] at hruns
  exact runs_congr hruns (if_pos hbuoy)

theorem runs_cutAt_buoyFails {e' : Nat} (hf : s.build.form = .buoy) (h : Takes (.cutAt p) s p 0x18 1)
    (hdata : p.data.length = 1) (hk : k = p.aBits 0 8) (ht : t = BitVec.ofNat 32 (fld (wordAt p.data 0) 0 32))
    (he : e = fld (wordAt p.data 0) 32 16) (herr : cutBuoyErr s.build s.live k t e = some e') :
    Runs (.cutAt p) s p fun l r => l.reply s.build r e' := by
  refine runs_congr (runs_cutAt_buoy hf h hdata hk ht he) ?_
  rw [cutAtBuoy_eq, cutBuoyErr_begin, herr]

theorem lateCut_true {q : Nat} (hq : x.lastLatched = some q) (howns : x.owns = true) (hlate : epochLater e q = false) :
    lateCut x e = true := by
  simp [lateCut, hq, howns, hlate]

theorem lateCut_false (h : ∀ q : Nat, x.lastLatched = some q → epochLater e q = true) : lateCut x e = false := by
  unfold lateCut
  split
  · rename_i q hq
    simp [h q hq]
  · rfl

/-- A cut that is taken is armed for its count. -/
theorem runs_cutAt_buoyArms (hf : s.build.form = .buoy) (h : Takes (.cutAt p) s p 0x18 1) (hdata : p.data.length = 1)
    (hk : k = p.aBits 0 8) (ht : t = BitVec.ofNat 32 (fld (wordAt p.data 0) 0 32)) (he : e = fld (wordAt p.data 0) 32 16)
    (herr : cutBuoyErr s.build s.live k t e = none) (hheld : s.live.holdsCmp (.cut k e) = false) :
    Runs (.cutAt p) s p fun l r => (({ l with time := { l.time with
        cmps := s.live.time.cmps ++ [⟨.cut k e, t, 0⟩] } } : Live).setPlan k
      { s.live.plan k with pendCuts := (s.live.plan k).pendCuts ++ [(t, e)] }).reply s.build r 0 e := by
  refine runs_congr (runs_cutAt_buoy hf h hdata hk ht he) ?_
  dsimp only
  rw [cutAtBuoy_eq, cutBuoyErr_begin, herr]
  dsimp only
  have hheld' : (s.live.begin p).1.holdsCmp (.cut k e) = false := by
    rw [begin_frame]
    exact hheld
  have hplan : (s.live.begin p).1.plan k = s.live.plan k := by
    rw [begin_frame]
    rfl
  have hcmps : (s.live.begin p).1.time.cmps = s.live.time.cmps := by rw [time_begin]
  rw [← hplan, ← hcmps]
  unfold Live.armCut
  rw [armCmp_cmps hheld']
  rfl

/-! ### CUT_AT at the root -/

/-- The count lies too near to that of the CUT_AT before. -/
def nearCut (x : Plan) (t : Word) : Bool :=
  match x.lastT with
  | some q => decide (ftDiff t q < 500000)
  | none => false

/-- The checks of CUT_AT at the root. -/
def cutRootErr (b : Build) (l : Live) (k : Nat) (t : Word) : Option Nat :=
  firstErr [
    (nearCut (l.plan k) t, eRange),
    (!(l.plan k).owns || !imgCmdCut (l.plan k).image || !l.isRoot b (l.plan k) || !l.timed ||
      ((l.plan k).tdEn && decide (ftDiff (l.plan k).d t ≤ 0)), eState),
    (!l.inWindow t || decide ((t - l.ft).toNat < 2000000), eTime),
    (decide (4 ≤ (l.plan k).pendCuts.length) || !l.cmpFree b, eSlot)]

/-- The entry after the next cut is armed, and once its call leaves. -/
def cutPlan (x : Plan) (t : Word) (r : Ret) : Plan :=
  { x with pendCuts := x.pendCuts ++ [(t, x.epochNext)],
           epochNext := (x.epochNext + 1) % 65536, lastT := some t, cutReplies := x.cutReplies ++ [(r, x.epochNext)],
           seen := keepSeen 6 x.armSeq x.epochNext x.seen }

/-- The next cut is armed at the root, and the command held. -/
def cutHeld (l : Live) (k : Nat) (t : Word) (r : Ret) (c : Instr) : Live :=
  ((l.hold r c).armCut k t (l.plan k).epochNext).updPlan k fun x => { x with
    epochNext := ((l.plan k).epochNext + 1) % 65536, lastT := some t,
    cutReplies := x.cutReplies ++ [(r, (l.plan k).epochNext)],
    seen := keepSeen 6 x.armSeq (l.plan k).epochNext x.seen }

theorem cutAtRoot_eq (l : Live) (b : Build) (k : Nat) (t : Word) (r : Ret) (c : Instr) : l.cutAtRoot b k t r c =
    match cutRootErr b l k t with
    | some e => l.reply b r e
    | none => (((cutHeld l k t r c).bcast k (ctlMsg (l.plan k) k 6 t.toNat (l.plan k).epochNext 0 0)).callBuoys b k t
        (l.plan k).epochNext).answerLeft b k := rfl

theorem cutRootErr_begin (l : Live) (b : Build) (q : Packet) : cutRootErr b (l.begin q).1 k t = cutRootErr b l k t := by
  rw [begin_frame]
  rfl

theorem runs_cutAt_root (hf : s.build.form = .lantern) (h : Takes (.cutAt p) s p 0x18 1) (hdata : p.data.length = 1)
    (hk : k = p.aBits 0 8) (ht : t = BitVec.ofNat 32 (fld (wordAt p.data 0) 0 32)) :
    Runs (.cutAt p) s p fun l r => l.cutAtRoot s.build k t r (.cutAt p) := by
  obtain ⟨hbuoy, _⟩ := lantern_of_form hf
  have hruns : Runs (.cutAt p) s p fun l r => if s.build.buoy then l.cutAtBuoy s.build (p.aBits 0 8)
      (BitVec.ofNat 32 (fld (wordAt p.data 0) 0 32)) (fld (wordAt p.data 0) 32 16) r
      else l.cutAtRoot s.build (p.aBits 0 8) (BitVec.ofNat 32 (fld (wordAt p.data 0) 0 32)) r (.cutAt p) :=
    runs_of_takes_both rfl h (by decide) (Nat.le_of_eq hdata.symm) (Nat.le_of_eq hdata)
  rw [← hk, ← ht] at hruns
  exact runs_congr hruns (if_neg (by simp [hbuoy]))

theorem runs_cutAt_rootFails {e' : Nat} (hf : s.build.form = .lantern) (h : Takes (.cutAt p) s p 0x18 1)
    (hdata : p.data.length = 1) (hk : k = p.aBits 0 8) (ht : t = BitVec.ofNat 32 (fld (wordAt p.data 0) 0 32))
    (herr : cutRootErr s.build s.live k t = some e') : Runs (.cutAt p) s p fun l r => l.reply s.build r e' := by
  refine runs_congr (runs_cutAt_root hf h hdata hk ht) ?_
  rw [cutAtRoot_eq, cutRootErr_begin, herr]

theorem nearCut_true {q : Word} (hq : x.lastT = some q) (hnear : ftDiff t q < 500000) : nearCut x t = true := by
  simp [nearCut, hq, hnear]

theorem nearCut_false (h : ∀ q ∈ x.lastT, 500000 ≤ ftDiff t q) : nearCut x t = false := by
  unfold nearCut
  split
  · rename_i q hq
    exact decide_eq_false (not_lt.mpr (h q hq))
  · rfl

theorem planIs_cutHeld (hwf : Tab.wf l.plans = true) : PlanIs l (cutHeld l k t r c) k (cutPlan (l.plan k) t r) :=
  (PlanIs.upd (m := (l.hold r c).armCmp (.cut k (l.plan k).epochNext) t) ((PlanIs.refl hwf k).congr rfl) _).upd _

/-! ### A cut call that waits on its link -/

/-- What a table gives for an index is one of its entries. -/
theorem mem_of_getD {α : Type} {a d : α} {k : Nat} (hne : a ≠ d) : ∀ {t : Tab α}, Tab.getD t k d = a → (k, a) ∈ t := by
  intro t
  induction t with
  | nil => exact fun h => absurd h.symm hne
  | cons e t ih =>
    obtain ⟨j, y⟩ := e
    intro h
    unfold Tab.getD Tab.find? at h
    split at h
    · next hj => exact List.mem_cons.mpr (Or.inl (Prod.ext hj.symm h.symm))
    · split at h
      · exact absurd h.symm hne
      · exact List.mem_cons_of_mem _ (ih h)

/-- The plan and the kind of a control message, and the epoch of a cut call, come apart. -/
theorem ctlHead_fields {a kind : Nat} (ha : a < 256) (hkind : kind < 16) (x y : Nat) :
    (a + (kind * 256 + (x * 65536 + y * 4294967296))) % 18446744073709551616 / 1 % 256 = a ∧
      (a + (kind * 256 + (x * 65536 + y * 4294967296))) % 18446744073709551616 / 256 % 16 = kind := by
  omega

theorem ctlCounts_fields {a c : Nat} (ha : a < 4294967296) (hc : c < 65536) :
    (a + c * 4294967296) % 18446744073709551616 / 4294967296 % 65536 = c := by
  omega

theorem packW_two (i0 i1 x0 x1 : Nat) : (packW [(i0, x0), (i1, x1)]).toNat = (x0 * 2 ^ i0 + x1 * 2 ^ i1) % 2 ^ 64 := by
  rw [packW_toNat]
  simp only [List.map_cons, List.map_nil, List.sum_cons, List.sum_nil, Nat.add_zero]

theorem packW_four (i0 i1 i2 i3 x0 x1 x2 x3 : Nat) : (packW [(i0, x0), (i1, x1), (i2, x2), (i3, x3)]).toNat =
    (x0 * 2 ^ i0 + (x1 * 2 ^ i1 + (x2 * 2 ^ i2 + x3 * 2 ^ i3))) % 2 ^ 64 := by
  rw [packW_toNat]
  simp only [List.map_cons, List.map_nil, List.sum_cons, List.sum_nil, Nat.add_zero]

theorem fld_ctlHead {a kind : Nat} (ha : a < 256) (hkind : kind < 16) (y z : Nat) :
    fld (packW [(0, a), (8, kind), (16, y), (32, z)]) 0 8 = a ∧
      fld (packW [(0, a), (8, kind), (16, y), (32, z)]) 8 4 = kind := by
  have h := packW_four 0 8 16 32 a kind y z
  rw [show (2 : Nat) ^ 0 = 1 from rfl, show (2 : Nat) ^ 8 = 256 from rfl, show (2 : Nat) ^ 16 = 65536 from rfl,
    show (2 : Nat) ^ 32 = 4294967296 from rfl, show (2 : Nat) ^ 64 = 18446744073709551616 from rfl, Nat.mul_one] at h
  obtain ⟨hlow, hhigh⟩ := ctlHead_fields ha hkind y z
  unfold fld
  rw [h, Nat.shiftRight_eq_div_pow, Nat.shiftRight_eq_div_pow]
  exact ⟨hlow, hhigh⟩

theorem fld_ctlCounts {a c : Nat} (ha : a < 4294967296) (hc : c < 65536) : fld (packW [(0, a), (32, c)]) 32 16 = c := by
  have h := packW_two 0 32 a c
  rw [show (2 : Nat) ^ 0 = 1 from rfl, show (2 : Nat) ^ 32 = 4294967296 from rfl,
    show (2 : Nat) ^ 64 = 18446744073709551616 from rfl, Nat.mul_one] at h
  unfold fld
  rw [h, Nat.shiftRight_eq_div_pow]
  exact ctlCounts_fields ha hc

/-- The cut call of plan `k` for epoch `e`, as it waits on a link. -/
def cutItem (x : Plan) (k : Nat) (t : Word) (e : Nat) (stamp : Word) : LinkItem :=
  ⟨(ctlMsg x k 6 t.toNat e 0 0).unit, none, none, 0, stamp, none⟩

/-- A cut call on a link waits to leave. -/
theorem ctlWaits_cutCall {stamp : Word} (hk : k < 256) (he : e < 65536) (hitem : cutItem x k t e stamp ∈ (l.link n).ctl) :
    l.ctlWaits k 6 e = true := by
  have hne : l.link n ≠ link0 := by
    intro hlink
    rw [hlink] at hitem
    exact absurd hitem List.not_mem_nil
  obtain ⟨hlow, hhigh⟩ := fld_ctlHead hk (by decide : 6 < 16) x.armSeq (imgSetId x.image)
  have hwaits : decide (fld (packW [(8, 2)]) 0 16 = 0x0200 ∧ fld (ctlMsg x k 6 t.toNat e 0 0).w0 0 8 = k ∧
      fld (ctlMsg x k 6 t.toNat e 0 0).w0 8 4 = 6 ∧
      (6 ≠ 6 ∨ fld (ctlMsg x k 6 t.toNat e 0 0).w1 32 16 = e)) = true :=
    decide_eq_true ⟨by decide, hlow, hhigh, Or.inr (fld_ctlCounts t.isLt he)⟩
  exact List.any_eq_true.mpr ⟨(n, l.link n), mem_of_getD hne rfl, List.any_eq_true.mpr ⟨_, hitem, hwaits⟩⟩

/-- While its calls wait, no CUT_AT is answered. -/
theorem answerLeft_waiting (hplan : l.plan k = x) (h : ∀ c ∈ x.cutReplies, l.ctlWaits k 6 c.2 = true)
    (harm : x.armReply = none) : l.answerLeft b k = l.setPlan k x := by
  have hdone : (x.cutReplies.filter fun c => !l.ctlWaits k 6 c.2) = [] :=
    List.filter_eq_nil_iff.mpr fun c hc => by simp [h c hc]
  have hall : (x.cutReplies.filter fun c => !(([] : List (Ret × Nat)).contains c)) = x.cutReplies :=
    List.filter_eq_self.mpr fun c _ => rfl
  unfold Live.answerLeft Live.updPlan
  dsimp only
  rw [hplan, hdone, hall]
  split
  · next r hr => exact absurd (hr.symm.trans harm) (by simp)
  · rfl

/-- What CUT_AT leaves at the root, with its call on one link. -/
def cutSent (l : Live) (b : Build) (k : Nat) (t : Word) (r : Ret) (c : Instr) : Live :=
  (((cutHeld l k t r c).bcast k (ctlMsg (l.plan k) k 6 t.toNat (l.plan k).epochNext 0 0)).callBuoys b k t
    (l.plan k).epochNext).answerLeft b k

theorem cutSent_eq (hwf : Tab.wf l.plans = true) (hlwf : Tab.wf l.links = true) (hk : k < 256)
    (hnamed : imgNamed (l.plan k).image = []) (hreplies : (l.plan k).cutReplies = []) (harm : (l.plan k).armReply = none)
    (hepoch : (l.plan k).epochNext < 65536) (hlinks : imgBcastLinks (l.plan k).image = [n]) :
    cutSent l b k t r c = ((cutHeld l k t r c).sendCtl n
      (ctlMsg (l.plan k) k 6 t.toNat (l.plan k).epochNext 0 0)).setPlan k (cutPlan (l.plan k) t r) := by
  obtain ⟨msg, hmsg⟩ : ∃ msg, msg = ctlMsg (l.plan k) k 6 t.toNat (l.plan k).epochNext 0 0 := ⟨_, rfl⟩
  obtain ⟨m, hm⟩ : ∃ m, m = cutHeld l k t r c := ⟨_, rfl⟩
  have hplan : m.plan k = cutPlan (l.plan k) t r := by
    rw [hm]
    exact (planIs_cutHeld hwf).2.1
  have hmlwf : Tab.wf m.links = true := by
    rw [hm]
    exact hlwf
  have hitem : cutItem (l.plan k) k t (l.plan k).epochNext m.ft ∈ ((m.sendCtl n msg).link n).ctl := by
    rw [sendCtl_ctl hmlwf, hmsg]
    exact List.mem_append_right _ (List.mem_singleton_self _)
  have hcalls : (m.sendCtl n msg).callBuoys b k t (l.plan k).epochNext = m.sendCtl n msg := by
    have himg : ((m.sendCtl n msg).plan k).image = (l.plan k).image := by
      have h := congrArg Plan.image hplan
      exact h
    unfold Live.callBuoys
    rw [himg, hnamed]
    rfl
  unfold cutSent
  rw [← hmsg, ← hm, bcast_one (by rw [hplan]; exact hlinks), hcalls]
  refine answerLeft_waiting hplan (fun c hc => ?_) harm
  have hc' : c = (r, (l.plan k).epochNext) := by
    have hlist : (cutPlan (l.plan k) t r).cutReplies = [(r, (l.plan k).epochNext)] := by
      show (l.plan k).cutReplies ++ _ = _
      rw [hreplies]
      rfl
    rw [hlist] at hc
    exact List.mem_singleton.mp hc
  rw [hc']
  exact ctlWaits_cutCall hk hepoch hitem

theorem cutSent_spec (hwf : Tab.wf l.plans = true) (hlwf : Tab.wf l.links = true) (hk : k < 256)
    (hnamed : imgNamed (l.plan k).image = []) (hreplies : (l.plan k).cutReplies = []) (harm : (l.plan k).armReply = none)
    (hepoch : (l.plan k).epochNext < 65536) (hlinks : imgBcastLinks (l.plan k).image = [n]) :
    PlanIs l (cutSent l b k t r c) k (cutPlan (l.plan k) t r) ∧
      (⟨.cut k (l.plan k).epochNext, t, 0⟩ : Cmp) ∈ (cutSent l b k t r c).time.cmps ∧
      ((cutSent l b k t r c).link n).ctl = (l.link n).ctl ++ [cutItem (l.plan k) k t (l.plan k).epochNext l.ft] ∧
      (cutSent l b k t r c).cmd = { l.cmd with busy := l.cmd.busy ++ [⟨r, c⟩] } := by
  obtain ⟨msg, hmsg⟩ : ∃ msg, msg = ctlMsg (l.plan k) k 6 t.toNat (l.plan k).epochNext 0 0 := ⟨_, rfl⟩
  have hplan := planIs_cutHeld (t := t) (r := r) (c := c) (k := k) hwf
  have hcmp : (⟨.cut k (l.plan k).epochNext, t, 0⟩ : Cmp) ∈ (cutHeld l k t r c).time.cmps :=
    mem_armCmp (l.hold r c) (.cut k (l.plan k).epochNext) t
  have hlinks' : (cutHeld l k t r c).links = l.links := rfl
  have hft : (cutHeld l k t r c).ft = l.ft := rfl
  have hcmd : (cutHeld l k t r c).cmd = { l.cmd with busy := l.cmd.busy ++ [⟨r, c⟩] } := rfl
  rw [cutSent_eq hwf hlwf hk hnamed hreplies harm hepoch hlinks, ← hmsg]
  obtain ⟨m, hm⟩ : ∃ m, m = cutHeld l k t r c := ⟨_, rfl⟩
  rw [← hm] at hplan hcmp hlinks' hft hcmd ⊢
  have hmlwf : Tab.wf m.links = true := by
    rw [hlinks']
    exact hlwf
  refine ⟨PlanIs.set (m := m.sendCtl n msg) (hplan.congr rfl) _, hcmp, ?_, hcmd⟩
  refine (sendCtl_ctl hmlwf n msg).trans ?_
  rw [hft, hmsg, Live.link, hlinks']
  rfl

theorem cutBuoyErr_late {q : Nat} (hq : (l.plan k).lastLatched = some q) (howns : (l.plan k).owns = true)
    (hlate : epochLater e q = false) : cutBuoyErr b l k t e = some eRange := by
  unfold cutBuoyErr
  rw [lateCut_true hq howns hlate]
  rfl

section
variable (hlate : lateCut (l.plan k) e = false)
include hlate

theorem cutBuoyErr_state (h : (l.plan k).owns = false ∨ secCmdCut (l.plan k).image = false ∨ l.timed = false) :
    cutBuoyErr b l k t e = some eState := by
  have hstate : (!(l.plan k).owns || !secCmdCut (l.plan k).image || !l.timed) = true := by
    rcases h with h | h | h <;> simp [h]
  unfold cutBuoyErr
  rw [hlate, hstate]
  rfl

theorem cutBuoyErr_rest (howns : (l.plan k).owns = true) (hcut : secCmdCut (l.plan k).image = true)
    (htimed : l.timed = true) :
    cutBuoyErr b l k t e = firstErr [(!l.inWindow t, eTime), (!l.cmpFree b, eSlot)] := by
  unfold cutBuoyErr
  rw [hlate, howns, hcut, htimed]
  rfl

end

theorem cutRootErr_near {q : Word} (hq : (l.plan k).lastT = some q) (hnear : ftDiff t q < 500000) :
    cutRootErr b l k t = some eRange := by
  unfold cutRootErr
  rw [nearCut_true hq hnear]
  rfl

section
variable (hnear : nearCut (l.plan k) t = false)
include hnear

theorem cutRootErr_state (h : (l.plan k).owns = false ∨ imgCmdCut (l.plan k).image = false ∨
    l.isRoot b (l.plan k) = false ∨ ((l.plan k).tdEn = true ∧ ftDiff (l.plan k).d t ≤ 0)) :
    cutRootErr b l k t = some eState := by
  have hstate : (!(l.plan k).owns || !imgCmdCut (l.plan k).image || !l.isRoot b (l.plan k) || !l.timed ||
      ((l.plan k).tdEn && decide (ftDiff (l.plan k).d t ≤ 0))) = true := by
    rcases h with h | h | h | ⟨h, h'⟩ <;> simp [*]
  unfold cutRootErr
  rw [hnear, hstate]
  rfl

theorem cutRootErr_rest (howns : (l.plan k).owns = true) (hcut : imgCmdCut (l.plan k).image = true)
    (hroot : l.isRoot b (l.plan k) = true) (htimed : l.timed = true) (htd : (l.plan k).tdEn = false) :
    cutRootErr b l k t = firstErr [
      (!l.inWindow t || decide ((t - l.ft).toNat < 2000000), eTime),
      (decide (4 ≤ (l.plan k).pendCuts.length) || !l.cmpFree b, eSlot)] := by
  unfold cutRootErr
  rw [hnear, howns, hcut, hroot, htimed, htd]
  rfl

end

end

section

variable {s : State} {p : Packet} {k e n : Nat} {st d : Word} {td : Bool}

/-- PLAN_ARM that passes at a buoy. -/
theorem planArm_buoy (hf : s.build.form = .buoy) (h : Takes (.planArm p) s p 0x12 1) (hdata : p.data.length = 2)
    (hk : k = p.aBits 0 8) (hst : st = BitVec.ofNat 32 (fld (wordAt p.data 0) 0 32))
    (hd : d = BitVec.ofNat 32 (fld (wordAt p.data 0) 32 32)) (htd : td = bit (wordAt p.data 1) 0)
    (hwf : Tab.wf s.live.plans = true) (hk0 : k ≠ 0) (hqws : Tab.wf s.live.qws = true)
    (hstart : s.live.holdsCmp (.start k) = false) (hend : s.live.holdsCmp (.teardown k) = false) (hport : p.port = .mgmt)
    (herr : s.live.armErr s.build k st d td = none) :
    Yields (.planArm p) s fun l => l.plan k = { s.live.plan k with
        state := .armed, s := st, d := d, tdEn := td, epochNext := 0, lastLatched := none, lastT := none } ∧
      (∀ j : Nat, j ≠ k → l.plan j = s.live.plan j) ∧
      l.time.cmps = s.live.time.cmps ++ [⟨.start k, st, 0⟩] ++ (if td then [⟨.teardown k, d, 0⟩] else []) ∧
      (∀ j : Nat, l.qw j = (if (s.live.qw j).owner = 0 ∧ j ∈ (secQw (s.live.plan k).image).map (·.set) then
        { s.live.qw j with owner := k } else s.live.qw j)) ∧
      l.cmd.mgmtReplies = s.live.cmd.mgmtReplies ++ [replyPacket p.tag p.pchk 0 k []] := by
  have hruns := runs_planArm h hdata hk hst hd htd
  obtain ⟨hstarts, _⟩ := h
  obtain ⟨htag, hpchk⟩ := ret_of_starts hstarts
  have hrport : (retOf s p).port = .mgmt := by
    obtain ⟨_, _, hplace⟩ := hstarts
    rw [hplace]
    exact hport
  unfold Runs at hruns
  rw [armRun_buoy hf ((armErr_begin _ _ _ _ _ _ _).trans herr)] at hruns
  refine yields_of_gives hruns ?_
  obtain ⟨m, hm⟩ : ∃ m, m = (s.live.begin p).1 := ⟨_, rfl⟩
  have hframe := begin_frame s.live p
  have hreplies := begin_mgmtReplies s.live p
  rw [← hm] at hframe hreplies ⊢
  have hmwf : Tab.wf m.plans = true := by rw [hframe]; exact hwf
  have hmqws : Tab.wf m.qws = true := by rw [hframe]; exact hqws
  have hmstart : m.holdsCmp (.start k) = false := by rw [hframe]; exact hstart
  have hmend : m.holdsCmp (.teardown k) = false := by rw [hframe]; exact hend
  have hmplan (j : Nat) : m.plan j = s.live.plan j := by rw [hframe]; rfl
  have hmqw (j : Nat) : m.qw j = s.live.qw j := by rw [hframe]; rfl
  have hmcmps : m.time.cmps = s.live.time.cmps := by rw [hframe]
  obtain ⟨hplan, hplans, hcmps, hqw, hcmd⟩ := buoyArmed_spec (st := st) (d := d) (td := td) hf hk0 hmwf hmqws hmstart hmend
  obtain ⟨x, hx⟩ : ∃ x, x = buoyArmed m s.build k st d td := ⟨_, rfl⟩
  rw [← hx] at hplan hplans hcmps hqw hcmd ⊢
  have hout := replyFrame_reply x s.build (retOf s p) 0 k []
  unfold ReplyFrame at hout
  refine ⟨?_, fun j hj => ?_, ?_, fun j => ?_, ?_⟩
  · rw [hout, ← hmplan]
    exact hplan
  · rw [hout, ← hmplan]
    exact hplans j hj
  · rw [hout, List.append_assoc, ← hmcmps]
    exact hcmps
  · rw [hout, ← hmqw, ← hmplan]
    exact hqw j
  · rw [reply_mgmtReplies hrport, hcmd, hreplies, htag, hpchk]
    rfl

/-- PLAN_ARM that passes at the root. -/
theorem planArm_root (hf : s.build.form = .lantern) (h : Takes (.planArm p) s p 0x12 1) (hdata : p.data.length = 2)
    (hk : k = p.aBits 0 8) (hst : st = BitVec.ofNat 32 (fld (wordAt p.data 0) 0 32))
    (hd : d = BitVec.ofNat 32 (fld (wordAt p.data 0) 32 32)) (htd : false = bit (wordAt p.data 1) 0)
    (hwf : Tab.wf s.live.plans = true) (hlwf : Tab.wf s.live.links = true) (hok : (s.live.plan k).buoyOk = [])
    (hlinks : imgBcastLinks (s.live.plan k).image = [n]) (herr : s.live.armErr s.build k st d false = none) :
    Yields (.planArm p) s fun l => (l.plan k).state = .arming ∧
      (l.plan k).armSeq = ((s.live.plan k).armSeq + 1) % 256 ∧ (l.plan k).s = st ∧ (l.plan k).tdEn = false ∧
      (l.plan k).armReply = some (retOf s p) ∧ (l.plan k).lant = 1 ∧
      (∀ j : Nat, j ≠ k → l.plan j = s.live.plan j) ∧ (⟨.start k, st, 0⟩ : Cmp) ∈ l.time.cmps ∧
      (l.link n).ctl = (s.live.link n).ctl ++
        [⟨(ctlMsg { s.live.plan k with armSeq := ((s.live.plan k).armSeq + 1) % 256 } k 1 st.toNat d.toNat 0 0).unit,
          none, none, 0, s.live.ft, none⟩] ∧
      l.cmd.busy = s.live.cmd.busy ++ [⟨(retOf s p), .planArm p⟩] ∧ l.cmd.mgmtReplies = s.live.cmd.mgmtReplies := by
  have hruns := runs_planArm h hdata hk hst hd htd
  unfold Runs at hruns
  rw [armRun_root hf ((armErr_begin _ _ _ _ _ _ _).trans herr)] at hruns
  refine yields_of_gives hruns ?_
  obtain ⟨m, hm⟩ : ∃ m, m = (s.live.begin p).1 := ⟨_, rfl⟩
  have hframe := begin_frame s.live p
  have hreplies := begin_mgmtReplies s.live p
  have hbusy := busy_begin s.live p
  rw [← hm] at hframe hreplies hbusy ⊢
  have hmwf : Tab.wf m.plans = true := by rw [hframe]; exact hwf
  have hmlwf : Tab.wf m.links = true := by rw [hframe]; exact hlwf
  have hmplan (j : Nat) : m.plan j = s.live.plan j := by rw [hframe]; rfl
  have hmlink : m.link n = s.live.link n := by rw [hframe]; rfl
  have hmft : m.ft = s.live.ft := by rw [hframe]; rfl
  rw [← hmplan] at hok hlinks
  obtain ⟨⟨_, hplan, hplans⟩, hcmp, hctl, hcmd⟩ := rootArmed_spec (b := s.build) (st := st) (d := d) (r := retOf s p)
    (c := .planArm p) hmwf hmlwf hok hlinks
  rw [hmplan] at hplan hctl
  rw [hmlink, hmft] at hctl
  refine ⟨congrArg Plan.state hplan, congrArg Plan.armSeq hplan, congrArg Plan.s hplan, congrArg Plan.tdEn hplan,
    congrArg Plan.armReply hplan, congrArg Plan.lant hplan, fun j hj => (hplans j hj).trans (hmplan j), hcmp, hctl, ?_, ?_⟩
  · rw [hcmd, hbusy]
  · rw [hcmd]
    exact hreplies

/-- CUT_AT that passes at the root. -/
theorem cutAt_root (hf : s.build.form = .lantern) (h : Takes (.cutAt p) s p 0x18 1) (hdata : p.data.length = 1)
    (hk : k = p.aBits 0 8) (hst : st = BitVec.ofNat 32 (fld (wordAt p.data 0) 0 32)) (hwf : Tab.wf s.live.plans = true)
    (hlwf : Tab.wf s.live.links = true) (hnamed : imgNamed (s.live.plan k).image = [])
    (hreplies : (s.live.plan k).cutReplies = []) (harm : (s.live.plan k).armReply = none)
    (hepoch : (s.live.plan k).epochNext < 65536) (hlinks : imgBcastLinks (s.live.plan k).image = [n])
    (herr : cutRootErr s.build s.live k st = none) :
    Yields (.cutAt p) s fun l =>
      (l.plan k).pendCuts = (s.live.plan k).pendCuts ++ [(st, (s.live.plan k).epochNext)] ∧
      (l.plan k).epochNext = ((s.live.plan k).epochNext + 1) % 65536 ∧ (l.plan k).lastT = some st ∧
      (l.plan k).cutReplies = [((retOf s p), (s.live.plan k).epochNext)] ∧
      (∀ j : Nat, j ≠ k → l.plan j = s.live.plan j) ∧
      (⟨.cut k (s.live.plan k).epochNext, st, 0⟩ : Cmp) ∈ l.time.cmps ∧
      (l.link n).ctl = (s.live.link n).ctl ++ [⟨(ctlMsg (s.live.plan k) k 6 st.toNat (s.live.plan k).epochNext 0 0).unit,
        none, none, 0, s.live.ft, none⟩] ∧
      l.cmd.busy = s.live.cmd.busy ++ [⟨(retOf s p), .cutAt p⟩] ∧ l.cmd.mgmtReplies = s.live.cmd.mgmtReplies := by
  have hk256 : k < 256 := by
    rw [hk]
    exact Nat.mod_lt _ (by decide)
  have hruns := runs_cutAt_root hf h hdata hk hst
  unfold Runs at hruns
  dsimp only at hruns
  rw [cutAtRoot_eq, cutRootErr_begin, herr] at hruns
  obtain ⟨m, hm⟩ : ∃ m, m = (s.live.begin p).1 := ⟨_, rfl⟩
  have hframe := begin_frame s.live p
  have hmreplies := begin_mgmtReplies s.live p
  have hbusy := busy_begin s.live p
  rw [← hm] at hframe hmreplies hbusy hruns
  refine yields_of_gives (l := cutSent m s.build k st (retOf s p) (.cutAt p)) hruns ?_
  have hmwf : Tab.wf m.plans = true := by rw [hframe]; exact hwf
  have hmlwf : Tab.wf m.links = true := by rw [hframe]; exact hlwf
  have hmplan (j : Nat) : m.plan j = s.live.plan j := by rw [hframe]; rfl
  have hmlink : m.link n = s.live.link n := by rw [hframe]; rfl
  have hmft : m.ft = s.live.ft := by rw [hframe]; rfl
  have hcuts : (cutPlan (s.live.plan k) st (retOf s p)).cutReplies = [((retOf s p), (s.live.plan k).epochNext)] := by
    show (s.live.plan k).cutReplies ++ _ = _
    rw [hreplies]
    rfl
  rw [← hmplan] at hnamed hreplies harm hepoch hlinks
  obtain ⟨⟨_, hplan, hplans⟩, hcmp, hctl, hcmd⟩ := cutSent_spec (b := s.build) (t := st) (r := retOf s p) (c := .cutAt p)
    hmwf hmlwf hk256 hnamed hreplies harm hepoch hlinks
  rw [hmplan] at hplan hctl hcmp
  rw [hmlink, hmft] at hctl
  refine ⟨congrArg Plan.pendCuts hplan, congrArg Plan.epochNext hplan, congrArg Plan.lastT hplan,
    (congrArg Plan.cutReplies hplan).trans hcuts, fun j hj => (hplans j hj).trans (hmplan j), hcmp, hctl, ?_, ?_⟩
  · rw [hcmd, hbusy]
  · rw [hcmd]
    exact hmreplies

/-- What is left of the checks of PLAN_ARM at a buoy, for an entry that can be armed. -/
theorem armErr_buoyRest {l : Live} {b : Build} (hf : b.form = .buoy) (hgated : l.planGated b (l.plan k) = false)
    (hrange : td = true → 0 < ftDiff d st) (hver : (l.plan k).state = .verified) (htimed : l.timed = true)
    (hcoll : (l.plan k).collecting = false) (hheld : l.cutvecHeld b (l.plan k).image = false) :
    l.armErr b k st d td = firstErr [(!l.inWindow st || (td && !l.inWindow d) || false, eTime),
      (decide (32 < l.cmpUsed + 1 + b2n td) || decide (16 ≤ l.activeCount) || l.armClash b k st, eSlot),
      (l.bad (.plan k), ePoison)] := by
  obtain ⟨_, hlantern⟩ := buoy_of_form hf
  rw [armErr_rest hgated (armRange_buoy hf hrange) (armState_buoy hf hver htimed hcoll hheld), armSlot_buoy hf, hlantern]
  rfl

/-- What is left of them at the root. -/
theorem armErr_rootRest {l : Live} {b : Build} (hf : b.form = .lantern) (hgated : l.planGated b (l.plan k) = false)
    (hgrid : l.flag b F.SCH_CTL_GRID_EN = true) (hcell : l.cellBoundary b st = true)
    (hroot : l.isRoot b (l.plan k) = true) (hver : (l.plan k).state = .verified) (htimed : l.timed = true)
    (hcoll : (l.plan k).collecting = false) (heng : l.engReady b (l.plan k).image = true) :
    l.armErr b k st d false = firstErr [(!l.inWindow st || false || decide ((st - l.ft).toNat < 60000000), eTime),
      (l.armSlot b k st false, eSlot), (l.bad (.plan k), ePoison)] := by
  obtain ⟨_, hlantern⟩ := lantern_of_form hf
  have hrange : l.armRange b st d false = false := by rw [armRange_root hf hgrid, hcell]; rfl
  rw [armErr_rest hgated hrange (armState_root hf hgrid hroot hver htimed hcoll heng), hlantern]
  rfl

/-- Settles O47: the checks of PLAN_ARM and CUT_AT in their order, and what each form arms. -/
theorem plansAreArmedAndCutByCommand : Obligations.PlansAreArmedAndCutByCommand := by
  rintro s p k st d td x hk rfl hwf hlwf hk0 hst hd htd
  refine ⟨fun h hdata hgated => ?_, fun h hdata hgated htd1 hlate => ?_, fun h hdata hgated hf hrange => ⟨?_, ?_, ?_⟩,
    fun h hdata hgated hf htd0 => ⟨?_, ?_, ?_⟩, fun e h hdata hf he => ⟨?_, fun hlate => ⟨?_, ?_⟩⟩,
    fun h hdata hf => ⟨?_, fun hnear => ⟨?_, ?_⟩⟩⟩
  · exact runs_planArm_fails h hdata hk hst hd htd (armErr_gated hgated) (by decide)
  · exact runs_planArm_fails h hdata hk hst hd htd (armErr_range hgated (armRange_late htd1 hlate)) (by decide)
  · intro hbad
    refine runs_planArm_fails h hdata hk hst hd htd (armErr_state hgated (armRange_buoy hf hrange) ?_) (by decide)
    rcases hbad with hbad | hbad
    · exact Or.inl hbad
    · exact Or.inr (Or.inr (by simp [Live.armState, hbad]))
  · intro hheld
    refine runs_planArm_fails h hdata hk hst hd htd (armErr_state hgated (armRange_buoy hf hrange) ?_) (by decide)
    exact Or.inr (Or.inr (by simp [Live.armState, hheld, (buoy_of_form hf).1]))
  · intro hver htimed hcoll hheld
    have hrest := armErr_buoyRest (d := d) (st := st) hf hgated hrange hver htimed hcoll hheld
    refine ⟨fun hwin => ?_, fun hwin hwind => ⟨fun hslot => ?_, fun hcmps hcount hbad hclash hqws hstart hend hport => ?_⟩⟩
    · refine runs_planArm_fails h hdata hk hst hd htd (hrest.trans ?_) (e := eTime) (by decide)
      rw [hwin]
      rfl
    · refine runs_planArm_fails h hdata hk hst hd htd (hrest.trans ?_) (e := eSlot) (by decide)
      have hin : (!s.live.inWindow st || (td && !s.live.inWindow d) || false) = false := by
        cases td <;> simp [hwin, hwind]
      have hfull : (decide (32 < s.live.cmpUsed + 1 + b2n td) || decide (16 ≤ s.live.activeCount) ||
          s.live.armClash s.build k st) = true := by
        rcases hslot with hslot | hslot <;> simp [hslot]
      rw [hin, hfull]
      rfl
    · refine planArm_buoy hf h hdata hk hst hd htd hwf hk0 hqws hstart hend hport (hrest.trans ?_)
      have hin : (!s.live.inWindow st || (td && !s.live.inWindow d) || false) = false := by
        cases td <;> simp [hwin, hwind]
      rw [hin, decide_eq_false (by omega), decide_eq_false (by omega), hclash, hbad]
      rfl
  · subst htd0
    intro hgrid hcell
    refine runs_planArm_fails h hdata hk hst hd htd (armErr_range hgated ?_) (by decide)
    rw [armRange_root hf hgrid, hcell]
    rfl
  · subst htd0
    intro hgrid
    exact runs_planArm_fails h hdata hk hst hd htd (armErr_state hgated (armRange_noGrid hgrid)
      (Or.inr (Or.inr (armState_noGrid hf hgrid _)))) (by decide)
  · subst htd0
    intro hgrid hcell
    have hrange : s.live.armRange s.build st d false = false := by rw [armRange_root hf hgrid, hcell]; rfl
    refine ⟨fun hroot => ?_, fun hroot hver htimed hcoll heng => ⟨fun hnear => ?_,
      fun hfar hwin hslot hbad hok n hlinks => ?_⟩⟩
    · exact runs_planArm_fails h hdata hk hst hd htd (armErr_state hgated hrange
        (Or.inr (Or.inl ⟨(lantern_of_form hf).2, hroot⟩))) (by decide)
    · refine runs_planArm_fails h hdata hk hst hd htd
        ((armErr_rootRest hf hgated hgrid hcell hroot hver htimed hcoll heng).trans ?_) (e := eTime) (by decide)
      rw [decide_eq_true hnear, Bool.or_true]
      rfl
    · refine planArm_root hf h hdata hk hst hd htd hwf hlwf hok hlinks
        ((armErr_rootRest hf hgated hgrid hcell hroot hver htimed hcoll heng).trans ?_)
      rw [decide_eq_false (by omega), hwin, hslot, hbad]
      rfl
  · exact fun q hq howns hlate => runs_cutAt_buoyFails hf h hdata hk hst he (cutBuoyErr_late hq howns hlate)
  · exact fun hbad => runs_cutAt_buoyFails hf h hdata hk hst he (cutBuoyErr_state (lateCut_false hlate) hbad)
  · intro howns hcut htimed
    have hrest := cutBuoyErr_rest (b := s.build) (t := st) (lateCut_false hlate) howns hcut htimed
    refine ⟨fun hwin => ?_, fun hwin hfree => ?_, fun hwin hfree hheld => ?_⟩
    · refine runs_cutAt_buoyFails hf h hdata hk hst he (hrest.trans ?_) (e' := eTime)
      rw [hwin]
      rfl
    · refine runs_cutAt_buoyFails hf h hdata hk hst he (hrest.trans ?_) (e' := eSlot)
      rw [hwin, hfree]
      rfl
    · refine runs_cutAt_buoyArms hf h hdata hk hst he (hrest.trans ?_) hheld
      rw [hwin, hfree]
      rfl
  · exact fun q hq hnear => runs_cutAt_rootFails hf h hdata hk hst (cutRootErr_near hq hnear)
  · exact fun hbad => runs_cutAt_rootFails hf h hdata hk hst (cutRootErr_state (nearCut_false hnear) hbad)
  · intro howns hcut hroot htimed htd0
    have hrest := cutRootErr_rest (b := s.build) (t := st) (nearCut_false hnear) howns hcut hroot htimed htd0
    refine ⟨fun hout => ?_, fun hfar hlate => ⟨fun hslot => ?_,
      fun hpend hfree hnamed hreplies harm hepoch n hlinks => ?_⟩⟩
    · refine runs_cutAt_rootFails hf h hdata hk hst (hrest.trans ?_) (e' := eTime)
      have hbad : (!s.live.inWindow st || decide ((st - s.live.ft).toNat < 2000000)) = true := by
        rcases hout with hout | hout
        · rw [decide_eq_true hout, Bool.or_true]
        · rw [inWindow_eq, decide_eq_false (by omega)]
          rfl
      rw [hbad]
      rfl
    · refine runs_cutAt_rootFails hf h hdata hk hst (hrest.trans ?_) (e' := eSlot)
      have hfull : (decide (4 ≤ (s.live.plan k).pendCuts.length) || !s.live.cmpFree s.build) = true := by
        rcases hslot with hslot | hslot <;> simp [hslot]
      rw [inWindow_eq, decide_eq_true (by omega), decide_eq_false (by omega), hfull]
      rfl
    · refine cutAt_root hf h hdata hk hst hwf hlwf hnamed hreplies harm hepoch hlinks (hrest.trans ?_)
      rw [inWindow_eq, decide_eq_true (by omega), decide_eq_false (by omega), decide_eq_false (by omega), hfree]
      rfl

end

section

/-- An image whose broadcast goes to link 2 only, and that names no buoy. -/
def linkImage : List DWord := [0, 0, 0, 0, 0, 0x10000, 0, 0, 0x5000020004, 0, 0x400000000, 0]

/-- A READY lantern that runs plan 9, and whose engine is free while a query that came by link 2 waits. -/
def linkQuery : State :=
  ⟨⟨.lantern, false, true, .gib64⟩, { Live.cold with
    boot := { Live.cold.boot with ready := true, held := false, phase := 6 },
    eng := { Live.cold.eng with waits := [⟨(nopOn (.link 2)).r, mgmtNop, false⟩] },
    cmd := { Live.cold.cmd with order := [⟨(nopOn (.link 2)).r, none⟩] },
    links := [(2, { link0 with st := .up })],
    plans := [(9, { plan0 with state := .running, image := linkImage, armSeq := 1 })] }, []⟩

/-- A broadcast ABORT of plan 9. -/
def abortNine : CtlMsg := ⟨0x10409, 0, 0, 0x0C⟩

/-- How many CTL units wait on link 2 after a command. -/
def ctlAfter (c : Instr) (s : State) : Option Nat :=
  match exec c s with
  | .next t => some (t.live.link 2).ctl.length
  | _ => none

theorem ctlAfter_of_gives {c : Instr} {s : State} {l : Live} (h : Gives c s l) :
    ctlAfter c s = some (l.link 2).ctl.length := by
  unfold ctlAfter
  rw [h]

/-- The end of the plan forwards the ABORT, and answers the query that waited by the same link. -/
theorem ctlAfter_abortNine : ctlAfter (.abortReceive 2 abortNine) linkQuery = some 2 := by
  decide +kernel

/-- Refutes O48: the statement ranges over states in which a query waits for a free sequence engine, and there the end
of the aborted plan also sends the reply to that query, on the link on which the ABORT goes on. -/
theorem not_fleetMessagesAreForwardedOnceAndActedOn : ¬ Obligations.FleetMessagesAreForwardedOnceAndActedOn := by
  unfold Obligations.FleetMessagesAreForwardedOnceAndActedOn
  intro h
  obtain ⟨_, _, _, _, _, _, _, _, habort, _, _⟩ := h linkQuery 2 abortNine 9 2 _ _ _ _ _ rfl (by decide) (by decide +kernel)
    (by decide +kernel) rfl rfl rfl rfl rfl (by decide) (by decide)
  obtain ⟨l, hl, _, _, _, hctl, _⟩ := habort (by decide +kernel) (by decide +kernel) (by decide +kernel) (by decide +kernel)
    (by decide +kernel) (by decide +kernel) (by decide +kernel) (by decide +kernel) rfl rfl rfl (by decide +kernel)
  have htwo := (ctlAfter_of_gives hl).symm.trans ctlAfter_abortNine
  rw [hctl] at htwo
  exact absurd htwo (by decide)

end

section

/-- The root of plan 9 at its GO decision, with one lantern too many, while a query that came by link 2 waits for the
free engine. -/
def decidingQuery : State :=
  { linkQuery with live := { linkQuery.live with
    plans := [(9, { plan0 with state := .arming, image := linkImage, armSeq := 1, lant := 1 })] } }

/-- The root broadcasts ABORT, and answers the query that waited by the same link. -/
theorem ctlAfter_goDecision : ctlAfter (.goDecision 9) decidingQuery = some 2 := by
  decide +kernel

/-- Refutes O49: the statement ranges over states in which a query waits for a free sequence engine, and there the end
of the plan that the root gives up also sends the reply to that query, on the link on which the ABORT leaves. -/
theorem not_plansLaunchAndEndTogether : ¬ Obligations.PlansLaunchAndEndTogether := by
  unfold Obligations.PlansLaunchAndEndTogether
  rintro ⟨_, h, _, _, _⟩
  obtain ⟨_, _, hgo, _⟩ := h decidingQuery 9 9 2 _ rfl (by decide) rfl rfl (by decide) (by decide)
  obtain ⟨_, habort⟩ := hgo (by decide) rfl (by decide +kernel) (by decide +kernel) (by decide +kernel) rfl rfl
    (by decide) (by decide)
  obtain ⟨l, hl, _, _, hctl⟩ := habort (Or.inl (by decide +kernel)) rfl
  have htwo := (ctlAfter_of_gives hl).symm.trans ctlAfter_goDecision
  rw [hctl] at htwo
  exact absurd htwo (by decide)

end

end Sys2Proof.Proofs
end

section
/-! PROOFS. Series, egress, queues and links (O53 to O56). -/

namespace Sys2Proof.Proofs

open Sys2Proof Sys2Proof.Machine Sys2Proof.Claims

section

/-- The 256 samples of a block, all 0. -/
def zeroSamples : List Word := List.replicate 256 0

/-- An awake lantern with one cellar port. The RATIO of series 0 holds a value beyond its two bits, and block 3 of the
series, in a ring of four, awaits coding. -/
def wideRatio : State :=
  ⟨⟨.lantern, false, true, .gib64⟩, { Live.cold with
    rf := [(F.SER_CFG_RATIO.key 0, 7), (F.SER_CFG_NBLK_M1.key 0, 3)],
    boot := { Live.cold.boot with ready := true, held := false, phase := 6, st := { statics0 with celPresent := 1 } },
    ser := { Live.cold.ser with sers := [(0, { ser0 with on := true, coding := [⟨3, zeroSamples⟩] })] } }, []⟩

/-- The LEN of the cellar write that a command makes, as the last of what it sends. -/
def lastBurst (c : Instr) (s : State) : Option Nat :=
  match exec c s with
  | .next t => match t.live.out.getLast? with
    | some (.celReq _ _ _ n _) => some n
    | _ => none
  | _ => none

theorem lastBurst_of_gives {c : Instr} {s : State} {l : Live} (h : Gives c s l) {m u n : Nat} {wr : Bool}
    {ws : List DWord} {os : List Out} {o : Out} (hout : l.out = os ++ [o, .celReq m wr u n ws]) : lastBurst c s = some n := by
  unfold lastBurst
  rw [h]
  dsimp only
  rw [hout, List.append_cons, List.getLast?_concat]

/-- The block of 16 bytes at byte 24 takes two beats. -/
theorem lastBurst_wideRatio : lastBurst (.blockCode 0) wideRatio = some 1 := by
  decide +kernel

/-- Refutes O53: the statement ranges over register values wider than their fields. With RATIO 7 the block lies at no
multiple of a beat, and takes one beat more than its size says. -/
theorem not_seriesTakeSamplesAndCommitBlocks : ¬ Obligations.SeriesTakeSamplesAndCommitBlocks := by
  unfold Obligations.SeriesTakeSamplesAndCommitBlocks
  rintro ⟨_, _, h⟩
  have hwf : Tab.wf wideRatio.live.ser.sers = true := by decide +kernel
  obtain ⟨_, hcode, _, _⟩ := h wideRatio 0 0 (wideRatio.live.sery 0) (by decide) rfl rfl hwf
  obtain ⟨l, hl, _, _, _, hout⟩ := hcode ⟨3, zeroSamples⟩ [] _ rfl List.length_replicate rfl (by decide +kernel) (by decide +kernel)
  have hsent := hout 0 0 (by decide +kernel) (by decide +kernel) (by decide +kernel)
  have hzero := (lastBurst_of_gives hl hsent).symm.trans lastBurst_wideRatio
  exact absurd hzero (by decide +kernel)

end

section

/-- A record of the management stream, without payload. -/
def bareRec : Rec := ⟨0x0F, false, false, false, false, false, 0, 0, 0, 0, []⟩

/-- An awake buoy with one head record, in a class that the shaper does not have. -/
def classSeven : State :=
  ⟨⟨.buoy, false, true, .gib64⟩, { Live.cold with
    boot := { Live.cold.boot with ready := true, held := false, phase := 6 },
    ques := [(0, { que0 with head := some (0, 7), recs := [⟨bareRec, 0, false, 0, none⟩] })] }, []⟩

/-- The POL_HOLD of class 7 after a command. -/
def holdSeven (c : Instr) (s : State) : Option Nat :=
  match exec c s with
  | .next t => some (t.live.get t.build F.SHP_HOLD_POL_HOLD 7)
  | _ => none

theorem holdSeven_of_gives {c : Instr} {s : State} {l : Live} (h : Gives c s l) :
    holdSeven c s = some (l.get s.build F.SHP_HOLD_POL_HOLD 7) := by
  unfold holdSeven
  rw [h]

/-- The FAB edge counts what the classes 0 to 3 hold back. -/
theorem holdSeven_classSeven : holdSeven (.egressSelect []) classSeven = some 0 := by
  decide +kernel

/-- Refutes O54: the statement ranges over heads of any class, and what holds back a head of a class beyond 3 counts
nowhere. -/
theorem not_egressSelectsByClassAndTag : ¬ Obligations.EgressSelectsByClassAndTag := by
  unfold Obligations.EgressSelectsByClassAndTag
  rintro ⟨h, _⟩
  obtain ⟨_, hheld, _⟩ := h classSeven [] _ (by decide) rfl rfl (by decide) (by decide)
  have hgives := hheld (0, 0, 7) (by decide +kernel) (by decide +kernel)
  have hcount := (holdSeven_of_gives hgives).symm.trans holdSeven_classSeven
  exact absurd hcount (by decide +kernel)

end

section

/-- A queue index so large that its QUE_STAT.LOST and LNK_FWD.DROP_NOROUTE have one key. -/
def farQueue : Nat := F.LNK_FWD_DROP_NOROUTE.key 0 - F.QUE_STAT_LOST.key 0

/-- An awake lantern without links, with a record of its own for that queue. -/
def farRecord : State :=
  ⟨⟨.lantern, false, true, .gib64⟩, { Live.cold with
    boot := { Live.cold.boot with ready := true, held := false, phase := 6 },
    created := [(farQueue, { bareRec with ty := 2 })] }, []⟩

/-- The DROP_NOROUTE after a command. -/
def noRouteAfter (c : Instr) (s : State) : Option Nat :=
  match exec c s with
  | .next t => some (t.live.get t.build F.LNK_FWD_DROP_NOROUTE)
  | _ => none

theorem noRouteAfter_of_gives {c : Instr} {s : State} {l : Live} (h : Gives c s l) :
    noRouteAfter c s = some (l.get s.build F.LNK_FWD_DROP_NOROUTE) := by
  unfold noRouteAfter
  rw [h]

/-- The loss counts twice under the one key. -/
theorem noRouteAfter_farRecord : noRouteAfter (.queueAdmit farQueue 0) farRecord = some 2 := by
  decide +kernel

/-- Refutes O55: the statement ranges over queues of any index, and for one far beyond the block's queues the two
counts of a loss share a key. -/
theorem not_queuesTakeHoldAndRelease : ¬ Obligations.QueuesTakeHoldAndRelease := by
  unfold Obligations.QueuesTakeHoldAndRelease
  rintro ⟨_, h, _⟩
  obtain ⟨l, hl, _, _, hcount, _⟩ := h farRecord farQueue 0 { bareRec with ty := 2 } [] (by decide) rfl (by decide +kernel)
    rfl (by decide +kernel) (by decide) rfl (by decide) (by decide)
  have htwo := (noRouteAfter_of_gives hl).symm.trans noRouteAfter_farRecord
  rw [hcount] at htwo
  exact absurd htwo (by decide +kernel)

end

section

/-- A lantern of 64 GiB. -/
def linkBuild : Build := ⟨.lantern, false, true, .gib64⟩

/-- An awake lantern whose PEER link 1 and HOST link 2 are UP. -/
def twoLinks : State :=
  ⟨linkBuild, { ((Live.cold.put linkBuild F.LNK_ROLE_ROLE 1 1).put linkBuild F.LNK_ROLE_ROLE 3 2) with
    boot := { Live.cold.boot with ready := true, held := false, phase := 6 },
    links := [(1, { link0 with st := .up }), (2, { link0 with st := .up })] }, []⟩

/-- A control message: five words that also read as a record of TYPE 0x00. -/
def messageRec : Rec := { bareRec with ty := 0, inexact := true, body := [0, 0] }

/-- The message in a unit of class FWD, as expected on a fresh link. -/
def messageUnit : RxUnit := ⟨messageRec.words, mkTail 0 1 2 0 0 messageRec.words, false⟩

/-- The transit records from link 1 to link 2 after a command. -/
def transitAfter (c : Instr) (s : State) : Option Nat :=
  match exec c s with
  | .next t => some (t.live.que (32 * 1 + 2)).recs.length
  | _ => none

theorem transitAfter_of_gives {c : Instr} {s : State} {l : Live} (h : Gives c s l) :
    transitAfter c s = some (l.que (32 * 1 + 2)).recs.length := by
  unfold transitAfter
  rw [h]

theorem recOfWords_messageUnit : recOfWords messageUnit.body = some messageRec := by decide +kernel

theorem goodUnit_messageUnit : goodUnit messageUnit = true := by decide +kernel

theorem badUnit_messageUnit : twoLinks.live.badUnit linkBuild 1 messageUnit = false := by decide +kernel

theorem waysOf_messageRec : twoLinks.live.waysOf linkBuild messageRec = [2] := by decide +kernel

theorem fits_messageRec :
    twoLinks.live.fits linkBuild (32 * 1 + 2) messageRec.len (decide (messageRec.ty = 0x0A)) = some (0, 0, 1) := by
  decide +kernel

/-- A control message goes to no transit queue. -/
theorem transitAfter_messageUnit : transitAfter (.unitReceive 1 messageUnit) twoLinks = some 0 := by
  decide +kernel

/-- Refutes O56: the words of a control message (R277) can also read as a record of TYPE 0x00, and then the receiver
accepts the unit without forwarding a record. -/
theorem not_linksComeUpCarryUnitsAndFail : ¬ Obligations.LinksComeUpCarryUnitsAndFail := by
  unfold Obligations.LinksComeUpCarryUnitsAndFail
  rintro ⟨_, _, _, h, _⟩
  obtain ⟨_, _, _, _, _, htaken⟩ := h twoLinks 1 messageUnit 1 _ (by decide) rfl rfl rfl (by decide)
    (by decide +kernel) (by decide) (.inr (by decide)) (by decide)
  obtain ⟨_, _, hrecord⟩ := htaken (by decide +kernel) badUnit_messageUnit goodUnit_messageUnit (by decide)
  obtain ⟨l, hl, _, _, _, _, hrecs, _⟩ := hrecord messageRec 2 (0, 0, 1) (by decide +kernel)
    recOfWords_messageUnit (by decide +kernel) (by decide +kernel) (by decide) waysOf_messageRec (by decide) rfl
    fits_messageRec (by decide)
  have hlength := congrArg List.length hrecs
  have hzero := (transitAfter_of_gives hl).symm.trans transitAfter_messageUnit
  simp only [List.length_map, List.length_append, List.length_singleton] at hlength
  simp only [Option.some.injEq] at hzero
  omega

end

end Sys2Proof.Proofs
end

section
/-! PROOFS. The climb of a reduction (O51). -/

namespace Sys2Proof.Proofs

open Sys2Proof Sys2Proof.Machine Sys2Proof.Claims

section

variable {l m : Live} {b : Build} {p : Nat}

/-! ### A bench that neither logs nor replays -/

theorem replaying_off (h : l.flt.rpl.st = .off) (p : Nat) : l.replaying p = false := by
  simp [Live.replaying, h]

theorem rplOn_off (h : l.flt.rpl.st = .off) (p : Nat) : l.rplOn p = false := by
  simp [Live.rplOn, h]

theorem rplLog_off (h : l.flt.rpl.st = .off) (b : Build) (p kind e a : Nat) (ws : List DWord) :
    l.rplLog b p kind e a ws = l := by
  simp [Live.rplLog, rplOn_off h]

theorem settle_off (h : l.flt.rpl.st = .off) (b : Build) (p e : Nat) : l.settle b p e = l := by
  unfold Live.settle Live.rplEpochDone
  simp [rplOn_off h]

theorem readsPlan_good (h : l.bad (.plan p) = false) (b : Build) (f : Live → Live) : l.readsPlan b p f = f l := by
  unfold Live.readsPlan
  exact if_neg fun hbad => by simp [h] at hbad

theorem readsPart_good (h : l.bad (.part p) = false) (b : Build) (f : Live → Live) : l.readsPart b p f = f l := by
  unfold Live.readsPart
  exact if_neg (by simp [h])

/-! ### What the phases of a plan leave of its open cut -/

/-- From `l` to `m` the open cut of plan `p`, its image, its counts of missing children, the links and the input
log are kept. -/
structure KeepsCut (p : Nat) (l m : Live) : Prop where
  wf : Tab.wf l.plans = true → Tab.wf m.plans = true
  oc : (m.plan p).oc = (l.plan p).oc
  miss : (m.plan p).miss = (l.plan p).miss
  links : m.links = l.links
  rpl : m.flt.rpl = l.flt.rpl

theorem KeepsCut.refl (p : Nat) (l : Live) : KeepsCut p l l := ⟨id, rfl, rfl, rfl, rfl⟩

theorem KeepsCut.trans {n : Live} (h : KeepsCut p l m) (h' : KeepsCut p m n) : KeepsCut p l n :=
  ⟨h'.wf ∘ h.wf, h'.oc.trans h.oc, h'.miss.trans h.miss, h'.links.trans h.links, h'.rpl.trans h.rpl⟩

theorem KeepsCut.of_plans (hplans : m.plans = l.plans) (hlinks : m.links = l.links) (hrpl : m.flt.rpl = l.flt.rpl) :
    KeepsCut p l m := by
  refine ⟨fun h => hplans ▸ h, ?_, ?_, hlinks, hrpl⟩ <;> (unfold Live.plan; rw [hplans])

theorem KeepsCut.updPlan (hwf : Tab.wf l.plans = true) {f : Plan → Plan} (hoc : ∀ x, (f x).oc = x.oc)
    (hmiss : ∀ x, (f x).miss = x.miss) : KeepsCut p l (l.updPlan p f) := by
  have hf := Live.plan_updPlan_same (k := p) hwf f
  exact ⟨fun h => Live.updPlan_wf h p f, hf ▸ hoc _, hf ▸ hmiss _, rfl, rfl⟩

theorem keepsCut_addDue (hwf : Tab.wf l.plans = true) (os : List Occ) : KeepsCut p l (l.addDue p os) := by
  have heng : KeepsCut p l { l with eng := { l.eng with trigs := l.eng.trigs + os.length } } := .of_plans rfl rfl rfl
  unfold Live.addDue
  dsimp only
  rw [List.length_zipWith, List.length_range, Nat.min_self]
  refine heng.trans ?_
  exact .updPlan (heng.wf hwf) (fun _ => rfl) fun _ => rfl

theorem keepsCut_occur (hwf : Tab.wf l.plans = true) (trg : Nat) : KeepsCut p l (l.occur p trg) := by
  unfold Live.occur
  split
  · exact keepsCut_addDue hwf _
  · exact .refl p l

theorem KeepsCut.occur (h : KeepsCut p l m) (hwf : Tab.wf l.plans = true) (trg : Nat) : KeepsCut p l (m.occur p trg) :=
  h.trans (keepsCut_occur (h.wf hwf) trg)

theorem keepsCut_phaseBLeft (hwf : Tab.wf l.plans = true) (e : Nat) : KeepsCut p l (l.phaseBLeft p e) := by
  unfold Live.phaseBLeft
  split
  · split
    · exact keepsCut_occur hwf 2
    · exact .refl p l
  · exact .refl p l

theorem keepsCut_slow (b : Build) (c : Prop) [Decidable c] (args : List Nat) :
    KeepsCut p l (if c then (l.bump b F.CUT_ERR_SLOW p).logE b 0x0601 2 args p else l) := by
  split
  · exact .of_plans (by simp) (by simp) (by simp)
  · exact .refl p l

theorem keepsCut_phaseALeft (hwf : Tab.wf l.plans = true) (b : Build) (e absent still : Nat) :
    KeepsCut p l (l.phaseALeft b p e absent still) := by
  unfold Live.phaseALeft
  dsimp only
  have hupd : KeepsCut p l (l.updPlan p fun x => { x with done := e, doneAny := true }) :=
    .updPlan hwf (fun _ => rfl) fun _ => rfl
  have hdone := hupd.trans (.of_plans (Live.put_plans _ b F.CUT_ABS_ABSENT absent p)
    (Live.put_links _ b F.CUT_ABS_ABSENT absent p) rfl)
  split
  · split
    · exact (hdone.trans (keepsCut_slow b _ _)).occur hwf 1
    · exact hdone.trans (keepsCut_slow b _ _)
  · exact hdone.trans (keepsCut_slow b _ _)

theorem keepsCut_leftAtOnce (hwf : Tab.wf l.plans = true) (hoff : l.flt.rpl.st = .off) (b : Build) (phaseB : Bool) :
    KeepsCut p l (l.leftAtOnce b p phaseB) := by
  unfold Live.leftAtOnce
  dsimp only
  split
  case h_2 => exact .refl p l
  case h_1 o ho =>
    have hleft : ∀ (c : Bool) (n : Live), KeepsCut p l n → KeepsCut p l (if c then l else n) := by
      intro c n hn
      split
      · exact .refl p l
      · exact hn
    have hphase : KeepsCut p l (if phaseB then l.phaseBLeft p o.epoch else l.phaseALeft b p o.epoch o.part.absent) := by
      split
      · exact keepsCut_phaseBLeft hwf _
      · exact keepsCut_phaseALeft hwf b _ _ _
    have hall := hleft (!(l.replaying p || (l.isRoot b (l.plan p) &&
      !(imgStreams (l.plan p).image).any fun s => decide (s.use = if phaseB then 2 else 0)))) _ hphase
    rw [settle_off (by rw [hall.rpl]; exact hoff)]
    exact hall

theorem keepsCut_offer (b : Build) (f : Nat → Nat → List SVal) : KeepsCut p l (l.offer b f) := by
  unfold Live.offer
  dsimp only
  split
  · exact .of_plans (by simp) (by simp) (by simp)
  · exact .of_plans rfl rfl rfl

theorem keepsCut_epochComplete (b : Build) (root : Bool) : KeepsCut p l (l.epochComplete b p root) := by
  unfold Live.epochComplete
  dsimp only
  split
  case h_2 => exact .refl p l
  case h_1 =>
    split
    · exact .refl p l
    · split
      · exact (keepsCut_offer b _).trans (keepsCut_offer b _)
      · exact keepsCut_offer b _

end

section

variable {l m : Live} {b : Build} {p n : Nat}

/-! ### Plan units that wait on a link -/

/-- What a plan unit carries: its record but for the sequence number, and its plan, use and epoch. -/
abbrev PlnView := Option (BitVec 8 × BitVec 14 × Word × List DWord) × Option (Nat × Nat × Nat × Nat)

/-- What the plan units that wait on a link carry. -/
def plnView (l : Live) (n : Nat) : List PlnView :=
  (l.link n).pln.map fun a => (a.r.map fun y => (y.ty, y.stream, y.ft, y.body), a.plan)

/-- From `l` to `m` plan units `us` joined those of link `n`; plans, input log and time are kept. -/
structure SentPln (n : Nat) (us : List PlnView) (l m : Live) : Prop where
  plans : m.plans = l.plans
  flt : m.flt = l.flt
  ft : m.ft = l.ft
  wf : Tab.wf m.links = true
  view : plnView m n = plnView l n ++ us

theorem SentPln.refl (hwf : Tab.wf l.links = true) (n : Nat) : SentPln n [] l l :=
  ⟨rfl, rfl, rfl, hwf, (List.append_nil _).symm⟩

theorem SentPln.trans {k : Live} {us vs : List PlnView} (h : SentPln n us l m) (h' : SentPln n vs m k) :
    SentPln n (us ++ vs) l k :=
  ⟨h'.plans.trans h.plans, h'.flt.trans h.flt, h'.ft.trans h.ft, h'.wf,
    by rw [h'.view, h.view, List.append_assoc]⟩

theorem sentPln_sendPlan (hoff : l.flt.rpl.st = .off) (hwf : Tab.wf l.links = true) (b : Build) (p n use e : Nat)
    (r : Rec) : SentPln n [(some (r.ty, r.stream, r.ft, r.body), some (p, (l.plan p).armSeq, use, e))] l
      (l.sendPlan b p n use e r) := by
  unfold Live.sendPlan
  rw [replaying_off hoff, if_neg Bool.false_ne_true]
  dsimp only
  have hnum := number_frame l r
  have hrec := number_rec l r
  have hwf' : Tab.wf (l.number r).1.links = true := by
    rw [hnum]
    exact hwf
  refine ⟨by rw [hnum]; rfl, by rw [hnum]; rfl, by rw [hnum]; rfl, Live.updLink_wf hwf' n _, ?_⟩
  unfold plnView
  rw [Live.link_updLink_same hwf']
  dsimp only
  rw [List.map_append, List.map_singleton, Option.map_some, hrec, hnum]
  rfl

/-- The parts of a partial, one record each, join the plan units of the parent's link. -/
theorem sentPln_parts (b : Build) (p n stream e : Nat) (part : Part) (bodies : List (List DWord))
    (hoff : l.flt.rpl.st = .off) (hwf : Tab.wf l.links = true) :
    SentPln n (bodies.map fun ws =>
        (some (3, BitVec.ofNat 14 stream, l.ft, ws), some (p, (l.plan p).armSeq, 0, e))) l
      (bodies.foldl (fun l ws => l.sendPlan b p n 0 e (planRec l b 3 stream part ws)) l) := by
  induction bodies generalizing l with
  | nil => exact .refl hwf n
  | cons ws bodies ih =>
    have hone := sentPln_sendPlan hoff hwf b p n 0 e (planRec l b 3 stream part ws)
    have hrest := ih (l := l.sendPlan b p n 0 e (planRec l b 3 stream part ws)) (by rw [hone.flt]; exact hoff) hone.wf
    have harm : (l.sendPlan b p n 0 e (planRec l b 3 stream part ws)).plan p = l.plan p := by
      unfold Live.plan
      rw [hone.plans]
    rw [hone.ft, harm] at hrest
    exact hone.trans hrest

theorem SentPln.plan {us : List PlnView} (h : SentPln n us l m) (p : Nat) : m.plan p = l.plan p := by
  unfold Live.plan
  rw [h.plans]

end

section

variable {l m : Live} {b : Build} {p st i : Nat} {x : Plan} {o : OpenCut} {c : Child}

/-! ### A stage with one child and a parent -/

/-- The partial of a stage with one child: merged with the child's, or without it. -/
def stagePart (g : Image) (o : OpenCut) (st i : Nat) (c : Child) (here : Bool) : Part :=
  if here then o.part.merge g (o.childPart st i) else o.part.lose c.expect

/-- The times in a row that a child is missing. -/
def missNow (x : Plan) (k : Nat) (here : Bool) : Nat := if here then 0 else Tab.getD x.miss k 0 + 1

/-- The plan when the partial of stage `st` has been made for the parent. -/
def stagePlan (x : Plan) (o : OpenCut) (st i : Nat) (c : Child) (here : Bool) : Plan :=
  { x with oc := some { o with part := stagePart x.image o st i c here, stage := 4 },
           miss := Tab.set x.miss (st * 2 + i) 0 (missNow x (st * 2 + i) here) }

/-- The live part in which a stage has left, before its records join the parent's link. -/
def stageLeft (l : Live) (p : Nat) (o : OpenCut) (st i : Nat) (c : Child) (here : Bool) : Live :=
  (((l.updCut p fun o' => { o' with part := stagePart (l.plan p).image o st i c here, stage := st + 1 }).updPlan p
    fun y => { y with miss := Tab.set y.miss (st * 2 + i) 0 (missNow (l.plan p) (st * 2 + i) here) }).updCut p
    fun o' => { o' with stage := 4 })

theorem plan_stageLeft (hwf : Tab.wf l.plans = true) (hoc : (l.plan p).oc = some o) (here : Bool) :
    (stageLeft l p o st i c here).plan p = stagePlan (l.plan p) o st i c here ∧
      Tab.wf (stageLeft l p o st i c here).plans = true := by
  have hfirst := (PlanIs.refl hwf p).upd fun y => { y with
    oc := y.oc.map fun o' => { o' with part := stagePart (l.plan p).image o st i c here, stage := st + 1 } }
  have hthen := (hfirst.upd fun y => { y with
    miss := Tab.set y.miss (st * 2 + i) 0 (missNow (l.plan p) (st * 2 + i) here) }).upd fun y =>
      { y with oc := y.oc.map fun o' => { o' with stage := 4 } }
  obtain ⟨hwf', hplan, _⟩ := hthen
  rw [hoc] at hplan
  exact ⟨hplan, hwf'⟩

theorem missN_updPlan (l : Live) (b : Build) (p : Nat) (f : Plan → Plan) : (l.updPlan p f).missN b = l.missN b := rfl

/-- What happens to the counts of the child: heard again, or missing once more. -/
theorem childNoted (here : Bool) (e : Nat)
    (hmiss : here = false → Tab.getD (l.plan p).miss (st * 2 + i) 0 + 1 < l.missN b) :
    (if here then l.childHeard p st i else l.childMissed b p st i c e) =
      l.updPlan p fun y => { y with miss := Tab.set y.miss (st * 2 + i) 0 (missNow (l.plan p) (st * 2 + i) here) } := by
  cases here with
  | true => rfl
  | false =>
    have hfew := hmiss rfl
    unfold Live.childMissed
    dsimp only
    have hnone : ¬((l.updPlan p fun y => { y with
        miss := Tab.set y.miss (st * 2 + i) 0 (Tab.getD (l.plan p).miss (st * 2 + i) 0 + 1) }).missN b ≤
        Tab.getD (l.plan p).miss (st * 2 + i) 0 + 1) := by
      rw [missN_updPlan]
      omega
    rw [if_neg Bool.false_ne_true]
    exact if_neg fun h => hnone h.1

/-- A stage's partial goes to the parent: its records, the series that take from it, and what follows once they
have left. -/
def sendStage (b : Build) (p n e st : Nat) (part : Part) (l : Live) : Live :=
  (((itemPayloads p e st part).foldl (fun m ws =>
    m.sendPlan b p n 0 e (planRec m b 3 (0x3000 + p) part ws)) l).epochComplete b p false).leftAtOnce b p false

/-- A stage with one child and a parent: its partial's records join the link of the parent. -/
theorem decideA_parent (hwf : Tab.wf l.plans = true) (hoff : l.flt.rpl.st = .off) (hgood : l.bad (.part p) = false)
    (hoc : (l.plan p).oc = some o) (hkids : stageKids (l.plan p).image st = [(i, c)])
    (hparent : (imgStage (l.plan p).image st).hasParent = true) (arrived : Nat → Bool)
    (hmiss : arrived i = false → Tab.getD (l.plan p).miss (st * 2 + i) 0 + 1 < l.missN b) :
    l.decideA b p st arrived =
      sendStage b p (imgStage (l.plan p).image st).parent o.epoch st
        (stagePart (l.plan p).image o st i c (arrived i)) (stageLeft l p o st i c (arrived i)) := by
  obtain ⟨m, hm⟩ : ∃ m, m = l.updCut p fun o' =>
    { o' with part := stagePart (l.plan p).image o st i c (arrived i), stage := st + 1 } := ⟨_, rfl⟩
  have hplan : m.plan p = { l.plan p with
      oc := some { o with part := stagePart (l.plan p).image o st i c (arrived i), stage := st + 1 } } := by
    rw [hm]
    refine (Live.plan_updPlan_same hwf _).trans ?_
    rw [hoc]
    rfl
  have hcount : missNow (m.plan p) (st * 2 + i) (arrived i) = missNow (l.plan p) (st * 2 + i) (arrived i) := by
    rw [hplan]
    rfl
  have hnoted := childNoted (l := m) (b := b) (p := p) (st := st) (i := i) (c := c) (arrived i) o.epoch (by
      intro h
      rw [hplan, hm]
      exact hmiss h)
  unfold Live.decideA
  rw [readsPart_good hgood]
  dsimp only
  rw [hoc]
  dsimp only
  unfold Live.logStage
  rw [rplLog_off hoff, hkids, List.foldl_cons, List.foldl_nil, replaying_off (by exact hoff)]
  dsimp only
  rw [if_neg Bool.false_ne_true, List.foldl_cons, List.foldl_nil, if_pos hparent]
  rw [hcount] at hnoted
  unfold stageLeft sendStage
  unfold stagePart at hm ⊢
  dsimp only
  rw [← hm, hnoted]

end

section

variable {l m : Live} {b : Build} {p n st i : Nat} {x : Plan} {o : OpenCut} {c : Child}

/-- What the parts of a partial are for the parent's link. -/
def partUnits (l : Live) (p e st : Nat) (part : Part) : List PlnView :=
  (itemPayloads p e st part).map fun ws =>
    (some (3, BitVec.ofNat 14 (0x3000 + p), l.ft, ws), some (p, (l.plan p).armSeq, 0, e))

theorem sendStage_spec (hwf : Tab.wf l.plans = true) (hlinks : Tab.wf l.links = true) (hoff : l.flt.rpl.st = .off)
    (b : Build) (n e st : Nat) (part : Part) :
    (Live.plan (sendStage b p n e st part l) p).oc = (l.plan p).oc ∧
    (Live.plan (sendStage b p n e st part l) p).miss = (l.plan p).miss ∧
    plnView (sendStage b p n e st part l) n = plnView l n ++ partUnits l p e st part := by
  have hsent := sentPln_parts b p n (0x3000 + p) e part (itemPayloads p e st part) hoff hlinks
  unfold sendStage
  obtain ⟨m, hm⟩ : ∃ m, m = (itemPayloads p e st part).foldl (fun m ws =>
    m.sendPlan b p n 0 e (planRec m b 3 (0x3000 + p) part ws)) l := ⟨_, rfl⟩
  rw [← hm] at hsent ⊢
  have hdone : KeepsCut p m (m.epochComplete b p false) := keepsCut_epochComplete b false
  have hleft : KeepsCut p m ((m.epochComplete b p false).leftAtOnce b p false) :=
    hdone.trans (keepsCut_leftAtOnce (hdone.wf (hsent.plans ▸ hwf)) (by rw [hdone.rpl, hsent.flt]; exact hoff) b false)
  refine ⟨hleft.oc.trans (by rw [hsent.plan]), hleft.miss.trans (by rw [hsent.plan]), Eq.trans ?_ hsent.view⟩
  unfold plnView Live.link
  rw [hleft.links]

theorem partUnits_stageLeft (hwf : Tab.wf l.plans = true) (hoc : (l.plan p).oc = some o) (here : Bool) (e : Nat)
    (part : Part) : partUnits (stageLeft l p o st i c here) p e st part = partUnits l p e st part := by
  have hft : (stageLeft l p o st i c here).ft = l.ft := rfl
  have harm : ((stageLeft l p o st i c here).plan p).armSeq = (l.plan p).armSeq := by
    rw [(plan_stageLeft hwf hoc here).1]
    rfl
  unfold partUnits
  rw [hft, harm]

theorem plnView_stageLeft (here : Bool) (n : Nat) : plnView (stageLeft l p o st i c here) n = plnView l n := rfl

/-! ### A climb goes no further -/

theorem climbA_stop (hoc : (l.plan p).oc = some o) (h : o.leafDone = false ∨ o.stage = 4 ∨
    (stageKids (l.plan p).image o.stage).any (fun k => !o.wholeA o.stage k.1) = true) (b : Build) (n : Nat) :
    l.climbA b p n = l := by
  cases n with
  | zero => rfl
  | succ n =>
    unfold Live.climbA
    rw [hoc]
    dsimp only
    refine if_neg fun ⟨hleaf, _, hstage, hall⟩ => ?_
    rcases h with h | h | h
    · simp [h] at hleaf
    · omega
    · rw [List.any_eq_true] at h
      obtain ⟨k, hk, hmissing⟩ := h
      simp [List.all_eq_true.mp hall k hk] at hmissing

theorem climbB_stop (hoc : (l.plan p).oc = some o) (h : o.bClosed = false ∨ o.bStage = 4 ∨
    (stageKids (l.plan p).image o.bStage).any (fun k => !o.wholeB (l.plan p).image o.bStage k.1) = true)
    (b : Build) (n : Nat) : l.climbB b p n = l := by
  cases n with
  | zero => rfl
  | succ n =>
    unfold Live.climbB
    rw [hoc]
    dsimp only
    refine if_neg fun ⟨hclosed, _, hstage, hall⟩ => ?_
    rcases h with h | h | h
    · simp [h] at hclosed
    · omega
    · rw [List.any_eq_true] at h
      obtain ⟨k, hk, hmissing⟩ := h
      simp [List.all_eq_true.mp hall k hk] at hmissing

/-- A stage with one child and a parent leaves, and with it the climb ends. -/
theorem decideA_climb (hwf : Tab.wf l.plans = true) (hlinks : Tab.wf l.links = true) (hoff : l.flt.rpl.st = .off)
    (hgood : l.bad (.part p) = false) (hoc : (l.plan p).oc = some o)
    (hkids : stageKids (l.plan p).image st = [(i, c)]) (hparent : (imgStage (l.plan p).image st).hasParent = true)
    (arrived : Nat → Bool)
    (hmiss : arrived i = false → Tab.getD (l.plan p).miss (st * 2 + i) 0 + 1 < l.missN b) (k : Nat) :
    (Live.plan ((l.decideA b p st arrived).climbA b p k) p).oc =
      some { o with part := stagePart (l.plan p).image o st i c (arrived i), stage := 4 } ∧
    (Live.plan ((l.decideA b p st arrived).climbA b p k) p).miss =
      Tab.set (l.plan p).miss (st * 2 + i) 0 (missNow (l.plan p) (st * 2 + i) (arrived i)) ∧
    plnView ((l.decideA b p st arrived).climbA b p k) (imgStage (l.plan p).image st).parent =
      plnView l (imgStage (l.plan p).image st).parent ++
        partUnits l p o.epoch st (stagePart (l.plan p).image o st i c (arrived i)) := by
  obtain ⟨hplan, hwf'⟩ := plan_stageLeft (st := st) (i := i) (c := c) hwf hoc (arrived i)
  obtain ⟨hocs, hmisss, hview⟩ := sendStage_spec (p := p) (l := stageLeft l p o st i c (arrived i)) hwf' hlinks hoff b
    (imgStage (l.plan p).image st).parent o.epoch st (stagePart (l.plan p).image o st i c (arrived i))
  rw [← decideA_parent hwf hoff hgood hoc hkids hparent arrived hmiss] at hocs hmisss hview
  rw [plnView_stageLeft, partUnits_stageLeft hwf hoc] at hview
  rw [hplan] at hocs hmisss
  rw [climbA_stop hocs (.inr (.inl rfl))]
  exact ⟨hocs, hmisss, hview⟩

end

section

section
variable {s : State} {n : BitVec 5} {r : Rec} {p st i : Nat} {c : Child} {x : Plan} {o : OpenCut}

theorem recOk_of_up (hform : s.build.form = .lantern) (hawake : s.live.awake = true) (hup : s.live.isUp n.toNat = true) :
    s.live.recOk s.build n = true := by
  obtain ⟨_, hlantern⟩ := lantern_of_form hform
  simp [Live.recOk, hlantern, hawake, hup]

/-! ### A child's fragment -/

/-- What a child's record does at a lantern with open epoch `o`. -/
def fragTaken (b : Build) (l : Live) (o : OpenCut) (p st i : Nat) (r : Rec) : Live :=
  if epochLater (descOf r.body).epoch o.epoch then l
  else if o.epoch ≠ (descOf r.body).epoch ∨ decide (st < (if (descOf r.body).kind = 0 then o.stage else o.bStage)) then
    l.bump b F.CUT_ERR_LATE_CHILD p
  else if r.poison then l.poison b p 0
  else l.readsPlan b p fun l => l.takeFrag b p st i r

theorem partialReceive_gives (hok : s.live.recOk s.build n = true) (hty : r.ty = 3) (hp : p = (descOf r.body).plan)
    (hx : x = s.live.plan p) (hrun : x.state = .running)
    (hkind : (descOf r.body).kind = 0 ∨ (descOf r.body).kind = 2 ∨ (descOf r.body).kind = 3)
    (hchild : childAt x.image n.toNat (r.src.toNat / 256) = some (st, i, c)) :
    (x.oc = none → Gives (.partialReceive n r) s (s.live.bump s.build F.CUT_ERR_LATE_CHILD p)) ∧
    (∀ o : OpenCut, x.oc = some o → Gives (.partialReceive n r) s (fragTaken s.build s.live o p st i r)) := by
  subst hp hx
  have hpass : ¬(!s.live.recOk s.build n ∨ r.ty ≠ 3 ∨ (s.live.plan (descOf r.body).plan).state ≠ .running ∨
      4 ≤ (descOf r.body).kind ∨ (descOf r.body).kind = 1) := by
    simp only [hok, hty, hrun, Bool.not_true, Bool.false_eq_true, ne_eq, not_true_eq_false, false_or]
    omega
  constructor
  · intro hoc
    show execPartialReceive n r s = _
    refine run_gives ?_
    dsimp only
    rw [if_neg hpass, hchild]
    dsimp only
    rw [hoc]
  · intro o hoc
    show execPartialReceive n r s = _
    refine run_gives ?_
    dsimp only
    rw [if_neg hpass, hchild]
    dsimp only
    rw [hoc]
    rfl

/-- The open cut with a child's fragment. -/
def withFrag (o : OpenCut) (r : Rec) (st i : Nat) : OpenCut :=
  { o with frags := (o.frags.filter fun f => !(f.at st i (descOf r.body).kind &&
      decide (f.frag = (descOf r.body).frag))) ++ [fragOf r st i] }

/-- A fragment is kept, and the climb of its phase goes on. -/
theorem takeFrag_eq {l : Live} (hoff : l.flt.rpl.st = .off) (hoc : (l.plan p).oc = some o) (b : Build) (st i : Nat)
    (r : Rec) : l.takeFrag b p st i r =
      if (descOf r.body).kind = 0 then
        (l.setPlan p { l.plan p with oc := some (withFrag o r st i) }).climbA b p 4
      else (l.setPlan p { l.plan p with oc := some (withFrag o r st i) }).climbB b p 4 := by
  have hupd : (l.updCut p fun o => withFrag o r st i) =
      l.setPlan p { l.plan p with oc := some (withFrag o r st i) } := by
    unfold Live.updCut Live.updPlan
    dsimp only
    rw [hoc]
    rfl
  unfold Live.takeFrag
  dsimp only
  rw [rplLog_off hoff, replaying_off (by exact hoff), if_neg Bool.false_ne_true]
  unfold withFrag at hupd ⊢
  rw [hupd]

end

end

section

section
variable {s : State} {l : Live} {b : Build} {n : BitVec 5} {r : Rec} {p st i : Nat} {c : Child} {x : Plan} {o : OpenCut}

theorem epochLater_self (e : Nat) : epochLater e e = false := by
  simp only [epochLater, decide_eq_false_iff_not]
  omega

theorem fragTaken_later (h : epochLater (descOf r.body).epoch o.epoch = true) : fragTaken b l o p st i r = l := by
  unfold fragTaken
  exact if_pos h

theorem fragTaken_past (h : epochLater (descOf r.body).epoch o.epoch = false)
    (hpast : o.epoch ≠ (descOf r.body).epoch ∨ st < (if (descOf r.body).kind = 0 then o.stage else o.bStage)) :
    fragTaken b l o p st i r = l.bump b F.CUT_ERR_LATE_CHILD p := by
  unfold fragTaken
  rw [if_neg (by simp [h]), if_pos (by simpa using hpast)]

theorem fragTaken_now (hepoch : o.epoch = (descOf r.body).epoch)
    (hst : (if (descOf r.body).kind = 0 then o.stage else o.bStage) ≤ st) (hclean : r.poison = false)
    (hgood : l.bad (.plan p) = false) : fragTaken b l o p st i r = l.takeFrag b p st i r := by
  unfold fragTaken
  rw [hepoch, epochLater_self, if_neg Bool.false_ne_true, if_neg (by simpa using hst), if_neg (by simp [hclean]),
    readsPlan_good hgood]

/-- A fragment before the leaf close, or a list before the phase-B close, is only kept. -/
theorem takeFrag_waits (hwf : Tab.wf l.plans = true) (hoff : l.flt.rpl.st = .off) (hoc : (l.plan p).oc = some o)
    (hleaf : (descOf r.body).kind = 0 → o.leafDone = false) (hclose : (descOf r.body).kind ≠ 0 → o.bClosed = false) :
    l.takeFrag b p st i r = l.setPlan p { l.plan p with oc := some (withFrag o r st i) } := by
  have hoc' : ((l.setPlan p { l.plan p with oc := some (withFrag o r st i) }).plan p).oc = some (withFrag o r st i) := by
    rw [Live.plan_setPlan_same hwf]
  rw [takeFrag_eq hoff hoc]
  split
  · exact climbA_stop hoc' (.inl (hleaf ‹_›)) b 4
  · exact climbB_stop hoc' (.inl (hclose ‹_›)) b 4

/-! ### The last fragment of a stage -/

/-- The partial that a record brings. -/
def partialOf (r : Rec) : Part :=
  { countsOf r with items := blocksOf (descOf r.body).nitems (r.body.drop 4) }

theorem frags_withFrag (hkind : (descOf r.body).kind = 0) (hfrags : o.frags = []) :
    (withFrag o r st i).frags = [fragOf r st i] ∧ (fragOf r st i).at st i 0 = true ∧
      (fragOf r st i).part = partialOf r ∧ (fragOf r st i).frags = (descOf r.body).frags := by
  simp [withFrag, fragOf, ChildFrag.at, partialOf, hkind, hfrags]

theorem wholeA_withFrag (hkind : (descOf r.body).kind = 0) (hfrags : o.frags = []) (hone : (descOf r.body).frags = 1) :
    (withFrag o r st i).wholeA st i = true := by
  obtain ⟨hlist, hat, _, hcount⟩ := frags_withFrag (st := st) (i := i) hkind hfrags
  simp [OpenCut.wholeA, hlist, hat, hcount, hone]

theorem childPart_withFrag (hkind : (descOf r.body).kind = 0) (hfrags : o.frags = []) :
    (withFrag o r st i).childPart st i = partialOf r := by
  obtain ⟨hlist, hat, hpart, _⟩ := frags_withFrag (st := st) (i := i) hkind hfrags
  simp [OpenCut.childPart, hlist, hat, hpart]

theorem stagePart_withFrag (hkind : (descOf r.body).kind = 0) (hfrags : o.frags = []) (g : Image) :
    stagePart g (withFrag o r st i) st i c true = o.part.merge g (partialOf r) := by
  unfold stagePart
  rw [if_pos rfl, childPart_withFrag hkind hfrags]
  rfl

/-- The one fragment of the one child of stage 1: the partial is merged and leaves for the parent. -/
theorem takeFrag_leaves (hwf : Tab.wf l.plans = true) (hlinks : Tab.wf l.links = true) (hoff : l.flt.rpl.st = .off)
    (hgood : l.bad (.part p) = false) (hx : x = l.plan p) (hoc : x.oc = some o) (hleaf : o.leafDone = true)
    (hstage : o.stage = 1) (hkind : (descOf r.body).kind = 0) (hone : (descOf r.body).frags = 1) (hfrags : o.frags = [])
    (hkids : stageKids x.image 1 = [(i, c)]) (hparent : (imgStage x.image 1).hasParent = true) :
    ((Live.plan (l.takeFrag b p 1 i r) p).oc.map fun q => (q.stage, q.part)) =
      some (4, o.part.merge x.image (partialOf r)) ∧
    plnView (l.takeFrag b p 1 i r) (imgStage x.image 1).parent =
      plnView l (imgStage x.image 1).parent ++ partUnits l p o.epoch 1 (o.part.merge x.image (partialOf r)) := by
  subst hx
  obtain ⟨m, hm⟩ : ∃ m, m = l.setPlan p { l.plan p with oc := some (withFrag o r 1 i) } := ⟨_, rfl⟩
  have hplan : m.plan p = { l.plan p with oc := some (withFrag o r 1 i) } := by
    rw [hm, Live.plan_setPlan_same hwf]
  have hclimb : m.climbA b p 4 = (m.decideA b p 1 fun _ => true).climbA b p 3 := by
    rw [Live.climbA, hplan]
    dsimp only
    have hstage' : (withFrag o r 1 i).stage = 1 := hstage
    rw [hstage', hkids]
    exact if_pos ⟨hleaf, by decide, by decide, by simp [wholeA_withFrag hkind hfrags hone]⟩
  obtain ⟨hocs, _, hview⟩ := decideA_climb (l := m) (b := b) (o := withFrag o r 1 i) (c := c) (i := i) (st := 1)
    (hm ▸ Live.setPlan_wf hwf p _) (by rw [hm]; exact hlinks) (by rw [hm]; exact hoff) (by rw [hm]; exact hgood)
    (by rw [hplan]) (by rw [hplan]; exact hkids) (by rw [hplan]; exact hparent) (fun _ => true) nofun 3
  have hpart := stagePart_withFrag (c := c) (st := 1) (i := i) hkind hfrags (l.plan p).image
  have hunits : partUnits m p o.epoch 1 (o.part.merge (l.plan p).image (partialOf r)) =
      partUnits l p o.epoch 1 (o.part.merge (l.plan p).image (partialOf r)) := by
    unfold partUnits
    rw [hplan, hm]
    rfl
  have hsame : ∀ k : Nat, plnView m k = plnView l k := fun k => by rw [hm]; rfl
  rw [takeFrag_eq hoff hoc, if_pos hkind, ← hm, hclimb]
  rw [hplan] at hocs hview
  dsimp only at hocs hview
  rw [hpart] at hocs hview
  rw [hsame] at hview
  refine ⟨by rw [hocs]; rfl, hview.trans ?_⟩
  exact congrArg _ hunits

end

end

section

section
variable {s : State} {l : Live} {b : Build} {p st : Nat} {c : Child} {o : OpenCut}

/-! ### Phase B of a stage whose child sent nothing -/

/-- The open cut when phase B has left such a stage. -/
def lostB (o : OpenCut) (c : Child) (done : Nat) : OpenCut :=
  { o with bDesc := o.bDesc.lose c.expect, cDesc := o.cDesc.lose c.expect, bStage := done }

/-- From `l` to `m` the plans and the input log are kept, and the links are in order. -/
def SameSent (l m : Live) : Prop := m.plans = l.plans ∧ m.flt = l.flt ∧ Tab.wf m.links = true

/-- A record that is sent, or is not due, keeps them. -/
theorem SameSent.send {m : Live} (h : SameSent l m) (hoff : l.flt.rpl.st = .off) (b : Build) (p n use e : Nat)
    (due : Bool) (r : Rec) : SameSent l (if due then m.sendPlan b p n use e r else m) := by
  obtain ⟨hplans, hflt, hwf⟩ := h
  have hsent := sentPln_sendPlan (by rw [hflt]; exact hoff) hwf b p n use e r
  split
  · exact ⟨hsent.plans.trans hplans, hsent.flt.trans hflt, hsent.wf⟩
  · exact ⟨hplans, hflt, hwf⟩

theorem SameSent.left {m : Live} (h : SameSent l m) (hwf : Tab.wf l.plans = true) (hoff : l.flt.rpl.st = .off)
    (b : Build) (p : Nat) (phaseB : Bool) : (Live.plan (m.leftAtOnce b p phaseB) p).oc = (l.plan p).oc := by
  obtain ⟨hplans, hflt, _⟩ := h
  rw [(keepsCut_leftAtOnce (by rw [hplans]; exact hwf) (by rw [hflt]; exact hoff) b phaseB).oc]
  unfold Live.plan
  rw [hplans]

/-- Phase B leaves such a stage: the records go to the parent, and the open cut counts the child's dies as lost. -/
theorem decideB_oc (hwf : Tab.wf l.plans = true) (hlinks : Tab.wf l.links = true) (hoff : l.flt.rpl.st = .off)
    (hgood : l.bad (.part p) = false) (hoc : (l.plan p).oc = some o)
    (hkids : stageKids (l.plan p).image st = [(0, c)]) (hparent : (imgStage (l.plan p).image st).hasParent = true)
    (hfrags : o.frags = []) :
    (Live.plan (l.decideB b p st fun kind i => o.frags.any fun f => f.at st i kind) p).oc = some (lostB o c 4) := by
  unfold Live.decideB
  rw [readsPart_good hgood]
  dsimp only
  rw [hoc, hkids, hfrags]
  dsimp only
  unfold Live.logStage
  rw [rplLog_off hoff]
  simp only [List.any_nil, List.foldl_cons, List.foldl_nil]
  rw [if_pos hparent]
  obtain ⟨m, hm⟩ : ∃ m, m = ((l.updCut p fun q => { q with
    bDesc := o.bDesc.lose c.expect, lists := o.lists, cDesc := o.cDesc.lose c.expect, can := o.can,
    bStage := st + 1 }).updCut p fun q => { q with bStage := 4 }) := ⟨_, rfl⟩
  have hplan : (m.plan p).oc = some (lostB o c 4) ∧ Tab.wf m.plans = true := by
    obtain ⟨hwf', hplan', _⟩ := ((PlanIs.refl hwf p).upd fun y => { y with oc := y.oc.map fun q => { q with
      bDesc := o.bDesc.lose c.expect, lists := o.lists, cDesc := o.cDesc.lose c.expect, can := o.can,
      bStage := st + 1 } }).upd fun y => { y with oc := y.oc.map fun q => { q with bStage := 4 } }
    rw [hm]
    refine ⟨(congrArg Plan.oc hplan').trans ?_, hwf'⟩
    dsimp only
    rw [hoc]
    rfl
  have hoff' : m.flt.rpl.st = .off := by
    rw [hm]
    exact hoff
  have hself : SameSent m m := ⟨rfl, rfl, by rw [hm]; exact hlinks⟩
  rw [← hm]
  exact (((hself.send hoff' b p _ 1 o.epoch _ _).send hoff' b p _ 1 o.epoch _ _).left hplan.2 hoff' b p true).trans
    hplan.1

end

end

section

section
variable {s : State} {l : Live} {b : Build} {n : BitVec 5} {r : Rec} {p st u loc : Nat} {c : Child} {x : Plan} {o : OpenCut}

/-! ### The deadline of a stage -/

/-- Before its deadline a stage waits. -/
theorem stageDeadline_early {plan : BitVec 8} {stage : BitVec 2} (hawake : s.live.awake = true) (hp : p = plan.toNat)
    (hst : st = stage.toNat) (hx : x = s.live.plan p) (hoc : x.oc = some o) (phaseB : Bool)
    (hearly : reached s.live.ft (o.t + BitVec.ofNat 32 (500 * (if phaseB then (imgStage x.image st).dlB
      else (imgStage x.image st).dlA))) = false) : Gives (.stageDeadline plan stage phaseB) s s.live := by
  subst hp hst hx
  show execStageDeadline plan stage phaseB s = _
  refine runAwake_gives hawake ?_
  dsimp only
  rw [hoc]
  exact if_pos (.inr (.inl (by rw [hearly]; rfl)))

/-- At the deadline of phase A the stage goes on. -/
theorem stageDeadline_phaseA {plan : BitVec 8} {stage : BitVec 2} (hawake : s.live.awake = true) (hp : p = plan.toNat)
    (hst : st = stage.toNat) (hpos : 0 < st) (hx : x = s.live.plan p) (hoc : x.oc = some o) (hrun : x.state = .running)
    (hgood : s.live.bad (.plan p) = false)
    (hdue : reached s.live.ft (o.t + BitVec.ofNat 32 (500 * (imgStage x.image st).dlA)) = true)
    (hleaf : o.leafDone = true) (hstage : o.stage = st) : Gives (.stageDeadline plan stage false) s
      ((s.live.decideA s.build p st fun i => o.wholeA st i).climbA s.build p 4) := by
  subst hp hst hx
  show execStageDeadline plan stage false s = _
  refine runAwake_gives hawake ?_
  dsimp only
  rw [hoc]
  dsimp only
  rw [if_neg (by simp [hrun, hdue]; omega), readsPlan_good hgood, if_neg Bool.false_ne_true]
  exact if_pos ⟨hleaf, hstage⟩

/-- At the deadline of phase B the stage goes on. -/
theorem stageDeadline_phaseB {plan : BitVec 8} {stage : BitVec 2} (hawake : s.live.awake = true) (hp : p = plan.toNat)
    (hst : st = stage.toNat) (hpos : 0 < st) (hx : x = s.live.plan p) (hoc : x.oc = some o) (hrun : x.state = .running)
    (hgood : s.live.bad (.plan p) = false)
    (hdue : reached s.live.ft (o.t + BitVec.ofNat 32 (500 * (imgStage x.image st).dlB)) = true)
    (hclosed : o.bClosed = true) (hstage : o.bStage = st) : Gives (.stageDeadline plan stage true) s
      ((s.live.decideB s.build p st fun kind i => o.frags.any fun f => f.at st i kind).climbB s.build p 4) := by
  subst hp hst hx
  show execStageDeadline plan stage true s = _
  refine runAwake_gives hawake ?_
  dsimp only
  rw [hoc]
  dsimp only
  rw [if_neg (by simp [hrun, hdue]; omega), readsPlan_good hgood, if_pos rfl]
  exact if_pos ⟨hclosed, hstage⟩

/-! ### Thresholds -/

/-- The unit in which thresholds go on. -/
def thrUnit (l : Live) (r : Rec) (p q e : Nat) : LinkItem := ⟨r.words, some r, some (p, q, 2, e), 0, l.ft, none⟩

/-- A plan unit joins those that wait on link `u`. -/
def addPln (l : Live) (u : Nat) (i : LinkItem) : Live := l.updLink u fun q => { q with pln := q.pln ++ [i] }

/-- Thresholds at a lantern with one link in its trees. -/
theorem thresholdsReceive_gives (hok : s.live.recOk s.build n = true) (hty : r.ty = 4)
    (hkind : (descOf r.body).kind = 1) (hp : p = (descOf r.body).plan) (hx : x = s.live.plan p)
    (hrun : x.state = .running) (hoc : x.oc = some o) (hepoch : o.epoch = (descOf r.body).epoch)
    (hoff : s.live.flt.rpl.st = .off) (hgood : s.live.bad (.plan p) = false) :
    (o.thr.isSome = true ∨ o.bClosed = true → Gives (.thresholdsReceive n r) s s.live) ∧
    (o.thr = none → o.bClosed = false → r.poison = false → imgBcastLinks x.image = [u] →
      Gives (.thresholdsReceive n r) s ((addPln s.live u (thrUnit s.live r p x.armSeq o.epoch)).giveThresholds s.build p
        (thrsOf r.body) r)) := by
  subst hp hx
  constructor
  · intro hover
    show execThresholdsReceive n r s = _
    refine run_gives ?_
    dsimp only
    rw [hoc]
    exact if_pos (by tauto)
  · intro hthr hclosed hclean hlinks
    show execThresholdsReceive n r s = _
    refine run_gives ?_
    dsimp only
    rw [hoc]
    dsimp only
    rw [if_neg (by simp [hok, hty, hkind, hrun, hepoch, hthr, hclosed]), if_neg (by simp [hclean]),
      readsPlan_good hgood, rplLog_off hoff, hlinks]
    rfl

end

end

section

section
variable {s : State} {l : Live} {b : Build} {n : BitVec 5} {r : Rec} {p u loc : Nat} {x : Plan} {o : OpenCut}

/-- The open cut with its thresholds. -/
def withThr (g : Image) (o : OpenCut) (thr : List Thr) : OpenCut := { o with thr := some thr, lists := emptyLists g thr }

/-- A record for a buoy waits while no TRAY link is there. -/
theorem toBuoy_noTray (hnone : l.linksOf b 2 = []) (loc : Nat) (r : Rec) : l.toBuoy b loc r =
    l.updLink waitLink fun k => { k with ctl := k.ctl ++ [⟨r.words, some r, none, loc, l.ft, none⟩] } := by
  unfold Live.toBuoy Live.queueBuoy
  rw [hnone]
  rfl

/-- Thresholds that a lantern with one present buoy and no TRAY link keeps and gives on. -/
theorem giveThresholds_one (hoff : l.flt.rpl.st = .off) (hoc : (l.plan p).oc = some o)
    (hnone : l.linksOf b 2 = []) (hcls : (o.cls.filter fun e => decide (e.2 = .present)) = [(loc, .present)])
    (thr : List Thr) (r : Rec) :
    l.giveThresholds b p thr r =
      (l.setPlan p { l.plan p with oc := some (withThr (l.plan p).image o thr) }).updLink waitLink fun k =>
        { k with ctl := k.ctl ++ [⟨r.words, some r, none, loc, l.ft, none⟩] } := by
  have hupd : (l.updCut p fun o => { o with thr := some thr, lists := emptyLists (l.plan p).image thr }) =
      l.setPlan p { l.plan p with oc := some (withThr (l.plan p).image o thr) } := by
    unfold Live.updCut Live.updPlan
    dsimp only
    rw [hoc]
    rfl
  unfold Live.giveThresholds
  dsimp only
  rw [hoc]
  dsimp only
  rw [replaying_off (by exact hoff), if_neg Bool.false_ne_true, hcls, hupd, List.foldl_cons, List.foldl_nil]
  exact toBuoy_noTray (l := l.setPlan p _) hnone loc r

/-- The lantern of `giveThresholds_one`, with a plan unit on link `u` besides. -/
def thrKept (l : Live) (p u loc : Nat) (o : OpenCut) (i : LinkItem) (thr : List Thr) (r : Rec) : Live :=
  ((addPln l u i).setPlan p { l.plan p with oc := some (withThr (l.plan p).image o thr) }).updLink waitLink fun k =>
    { k with ctl := k.ctl ++ [⟨r.words, some r, none, loc, l.ft, none⟩] }

theorem thrKept_spec (hplans : Tab.wf l.plans = true) (hlinks : Tab.wf l.links = true) (hu : u ≠ waitLink)
    (i : LinkItem) (thr : List Thr) (r : Rec) :
    (((thrKept l p u loc o i thr r).plan p).oc = some (withThr (l.plan p).image o thr)) ∧
    ((thrKept l p u loc o i thr r).link u).pln = (l.link u).pln ++ [i] ∧
    ((thrKept l p u loc o i thr r).link waitLink).ctl =
      (l.link waitLink).ctl ++ [⟨r.words, some r, none, loc, l.ft, none⟩] := by
  have hwf : Tab.wf (addPln l u i).links = true := Live.updLink_wf hlinks u _
  obtain ⟨m, hm⟩ : ∃ m, m = (addPln l u i).setPlan p
    { l.plan p with oc := some (withThr (l.plan p).image o thr) } := ⟨_, rfl⟩
  have hwf' : Tab.wf m.links = true := by rw [hm]; exact hwf
  have hsame : ∀ k : Nat, m.link k = (addPln l u i).link k := fun k => by rw [hm]; rfl
  have hplan : m.plan p = { l.plan p with oc := some (withThr (l.plan p).image o thr) } := by
    rw [hm]
    exact Live.plan_setPlan_same hplans _
  unfold thrKept
  rw [← hm]
  refine ⟨congrArg Plan.oc hplan, ?_, ?_⟩
  · rw [Live.link_updLink_ne hwf' hu.symm, hsame]
    exact congrArg Link.pln (Live.link_updLink_same hlinks _)
  · rw [Live.link_updLink_same hwf', hsame]
    exact congrArg (fun k : Link => k.ctl ++ _) (Live.link_updLink_ne hlinks hu _)

theorem giveThresholds_addPln (hoff : l.flt.rpl.st = .off) (hoc : (l.plan p).oc = some o)
    (hnone : l.linksOf b 2 = []) (hcls : (o.cls.filter fun e => decide (e.2 = .present)) = [(loc, .present)])
    (i : LinkItem) (thr : List Thr) (r : Rec) :
    (addPln l u i).giveThresholds b p thr r = thrKept l p u loc o i thr r :=
  giveThresholds_one (l := addPln l u i) hoff hoc hnone hcls thr r

/-! ### Records of buoys in phase B -/

theorem ownBuoy_of_src (hsrc : r.src.toNat = l.trunk b * 256 + loc) (hloc : loc < 256) :
    l.ownBuoy b r.src = some loc := by
  unfold Live.ownBuoy
  rw [if_pos (by omega)]
  congr 1
  omega

/-- What a phase-B record of buoy `loc` adds to the open cut. -/
def withB (g : Image) (o : OpenCut) (r : Rec) (loc : Nat) : OpenCut :=
  if (descOf r.body).kind = 2 then
    { o with lists := mergeLists g o.lists (listsOf r.body), bPresent := o.bPresent ++ [loc] }
  else { o with can := o.can.merge (canOf r.body), cPresent := o.cPresent ++ [loc] }

theorem phaseBReceive_left (hoc : (s.live.plan (descOf r.body).plan).oc = some o)
    (hbuoy : s.live.ownBuoy s.build r.src = some loc) (hover : Tab.getD o.cls loc .absent ≠ .present ∨ o.bClosed = true) :
    Gives (.phaseBReceive n r) s s.live := by
  show execPhaseBReceive n r s = _
  refine run_gives ?_
  dsimp only
  rw [hoc, hbuoy]
  dsimp only
  refine if_pos (.inr (.inr (.inr (.inr (.inr ?_)))))
  rcases hover with h | h <;> simp [h]

theorem phaseBReceive_taken (hok : s.live.recOk s.build n = true) (hty : r.ty = 3) (hstage : (descOf r.body).stage = 0x10)
    (hp : p = (descOf r.body).plan) (hx : x = s.live.plan p) (hrun : x.state = .running) (hoc : x.oc = some o)
    (hepoch : o.epoch = (descOf r.body).epoch) (hbuoy : s.live.ownBuoy s.build r.src = some loc)
    (hleaf : o.leafDone = true) (hstream : secCvStream (imgBuoySec x.image) = r.stream.toNat)
    (hoff : s.live.flt.rpl.st = .off) (hgood : s.live.bad (.plan p) = false)
    (hpresent : Tab.getD o.cls loc .absent = .present) (hopen : o.bClosed = false) (hclean : r.poison = false)
    (hfirst : (if (descOf r.body).kind = 2 then o.thr.isSome && !o.bPresent.contains loc
      else decide ((descOf r.body).kind = 3) && canaryEpoch x.image o.epoch && !o.cPresent.contains loc) = true) :
    Gives (.phaseBReceive n r) s (s.live.setPlan p { x with oc := some (withB x.image o r loc) }) := by
  subst hp hx
  show execPhaseBReceive n r s = _
  refine run_gives ?_
  dsimp only
  rw [hoc, hbuoy]
  dsimp only
  rw [hfirst, if_neg (by simp [hok, hty, hstage, hrun, hepoch, hpresent, hleaf, hopen, hstream]), if_neg (by simp [hclean]),
    readsPlan_good hgood, rplLog_off hoff]
  unfold Live.updCut Live.updPlan withB
  dsimp only
  rw [hoc]
  rfl

/-! ### The phase-B close -/

theorem phaseBClose_waits {plan : BitVec 8} (hawake : s.live.awake = true) (hp : p = plan.toNat)
    (hx : x = s.live.plan p) (hoc : x.oc = some o) (hwait : o.bClosed = true ∨ o.stage ≠ 4 ∨
      reached s.live.ft (o.t + BitVec.ofNat 32 (500 * imgPbClose x.image)) = false) :
    Gives (.phaseBClose plan) s s.live := by
  subst hp hx
  show execPhaseBClose plan s = _
  refine runAwake_gives hawake ?_
  dsimp only
  rw [hoc]
  refine if_pos ?_
  rcases hwait with h | h | h <;> simp [h]

/-- The descriptor of a leaf at the phase-B close, with `k` buoys heard. -/
def leafDesc (o : OpenCut) (k : Nat) (lost : Bool) : Part :=
  { part0 with expect := o.leaf.expect, present := k, unsampled := o.leaf.unsampled,
               absent := o.leaf.expect - o.leaf.unsampled - k, sublost := lost }

/-- The open cut when phase B closes: the buoys that have not answered are absent. -/
def closedB (g : Image) (o : OpenCut) : OpenCut :=
  { o with
    bDesc := leafDesc o o.bPresent.length (o.thr.isNone && decide (imgNStrag g ≠ 0)),
    cDesc := leafDesc o o.cPresent.length false,
    lists := if o.thr.isNone then emptyLists g [] else o.lists, bClosed := true, bStage := 1 }

theorem phaseBClose_closes {plan : BitVec 8} (hawake : s.live.awake = true) (hp : p = plan.toNat)
    (hx : x = s.live.plan p) (hoc : x.oc = some o) (hrun : x.state = .running) (hoff : s.live.flt.rpl.st = .off)
    (hwf : Tab.wf s.live.plans = true) (hgood : s.live.bad (.plan p) = false) (hpart : s.live.bad (.part p) = false)
    (hopen : o.bClosed = false) (hstage : o.stage = 4) (hstrag : imgNStrag x.image ≠ 0) (hcan : imgCanary x.image = 0)
    (hdue : reached s.live.ft (o.t + BitVec.ofNat 32 (500 * imgPbClose x.image)) = true)
    (hmore : (stageKids x.image 1).any (fun k => !o.wholeB x.image 1 k.1) = true) :
    Gives (.phaseBClose plan) s (s.live.setPlan p { x with oc := some (closedB x.image o) }) := by
  subst hp hx
  have hnoCan : canaryEpoch (s.live.plan plan.toNat).image o.epoch = false := by simp [canaryEpoch, hcan]
  have hupd : s.live.closeB s.build plan.toNat =
      (s.live.setPlan plan.toNat { s.live.plan plan.toNat with
        oc := some (closedB (s.live.plan plan.toNat).image o) }).climbB s.build plan.toNat 4 := by
    unfold Live.closeB
    dsimp only
    rw [hoc]
    dsimp only
    rw [hnoCan, rplLog_off (by exact hoff)]
    unfold Live.updCut Live.updPlan
    dsimp only
    rw [Bool.false_and, Bool.false_and, if_neg Bool.false_ne_true, hoc]
    rfl
  have hplan := Live.plan_setPlan_same (k := plan.toNat) hwf
    { s.live.plan plan.toNat with oc := some (closedB (s.live.plan plan.toNat).image o) }
  show execPhaseBClose plan s = _
  refine runAwake_gives hawake ?_
  dsimp only
  rw [hoc]
  dsimp only
  rw [if_neg (by simp [hrun, hopen, hstage, hasB, hstrag, hdue]), readsPlan_good hgood, readsPart_good hpart, hupd]
  refine climbB_stop (by rw [hplan]) (.inr (.inr ?_)) s.build 4
  rw [hplan]
  exact hmore

end

end

section

/-- A child that is missing again counts once more. -/
theorem missed_count (x : Plan) (st : Nat) :
    Tab.getD (Tab.set x.miss (st * 2 + 0) 0 (missNow x (st * 2 + 0) false)) (2 * st) 0 =
      Tab.getD x.miss (2 * st) 0 + 1 := by
  rw [Nat.mul_comm 2 st]
  unfold Tab.set missNow
  rw [if_neg Bool.false_ne_true, if_neg (Nat.succ_ne_zero _)]
  unfold Tab.getD
  rw [Nat.add_zero, Tab.find?_insert_same]
  rfl

/-- Settles O51: fragments, stage deadlines, thresholds and phase-B records act on the open cut alone; a stage with
one child is followed from the child's last fragment, or from its deadline, to the records on the parent's link. -/
theorem reductionsClimb : Obligations.ReductionsClimb := by
  unfold Obligations.ReductionsClimb
  refine ⟨?_, ?_, ?_, ?_, ?_⟩
  · intro s n r d p st i c x hform hawake hup hty hd hp hx hrun hkind hchild hoff hwf hlinks hgood hpart
    subst hd
    have hok := recOk_of_up hform hawake hup
    obtain ⟨hnone, hsome⟩ := partialReceive_gives hok hty hp hx hrun hkind hchild
    refine ⟨hnone, fun o hoc => ?_⟩
    have hgives := hsome o hoc
    refine ⟨fun hlater => ?_, fun hlater hpast => ?_, fun hepoch hst hclean hleaf hclose => ?_,
      fun hepoch hzero hone hstage hleaf hclean hfrags hempty hkids hparent _ _ => ?_⟩
    · rwa [fragTaken_later hlater] at hgives
    · rwa [fragTaken_past hlater hpast] at hgives
    · rw [fragTaken_now hepoch hst hclean hgood,
        takeFrag_waits hwf hoff (by rw [← hx]; exact hoc) hleaf hclose, ← hx] at hgives
      exact hgives
    · subst hone
      rw [fragTaken_now hepoch (by rw [if_pos hzero, hstage]) hclean hgood] at hgives
      obtain ⟨hcut, hview⟩ := takeFrag_leaves (b := s.build) hwf hlinks hoff hpart hx hoc hleaf hstage hzero hfrags
        hempty hkids hparent
      refine yields_of_gives hgives ⟨hcut, fun u hu => ?_⟩
      subst hu
      rw [hx] at hview ⊢
      exact hview
  · intro s plan stage p st x o c hform hawake hp hst hpos hx hoc hrun hoff hwf hlinks hgood hpart
    refine ⟨fun b hearly => stageDeadline_early hawake hp hst hx hoc b hearly,
      fun hdue hleaf hstage hkids hwhole hfew hparent => ?_, fun hdue hclosed hstage hkids hfrags hparent hstrag => ?_⟩
    · subst hx
      obtain ⟨hcut, hmiss, _⟩ := decideA_climb (b := s.build) hwf hlinks hoff hpart hoc hkids hparent
        (fun i => o.wholeA st i) (fun _ => by simpa [Nat.mul_comm] using hfew) 4
      refine yields_of_gives (stageDeadline_phaseA hawake hp hst hpos rfl hoc hrun hgood hdue hleaf hstage) ⟨?_, ?_⟩
      · rw [hcut]
        simp [stagePart, hwhole]
      · rw [hmiss, hwhole]
        exact missed_count (s.live.plan p) st
    · subst hx
      have hcut := decideB_oc (b := s.build) hwf hlinks hoff hpart hoc hkids hparent hfrags
      refine yields_of_gives (stageDeadline_phaseB hawake hp hst hpos rfl hoc hrun hgood hdue hclosed hstage) ?_
      rw [climbB_stop hcut (.inr (.inl rfl)), hcut]
      rfl
  · intro s n r d p u loc x o hform hawake hup hty hd hkind hp hx hrun hoc hepoch hoff hwf hlinks hgood
    subst hd
    obtain ⟨hover, hkept⟩ := thresholdsReceive_gives (u := u) (recOk_of_up hform hawake hup) hty hkind hp hx hrun hoc
      hepoch hoff hgood
    refine ⟨hover, fun hthr hopen hclean htrees hnone hcls hu => ?_⟩
    subst hx
    have hgives := hkept hthr hopen hclean htrees
    rw [giveThresholds_addPln hoff hoc hnone hcls] at hgives
    obtain ⟨hcut, hpln, hctl⟩ := thrKept_spec (o := o) (loc := loc) hwf hlinks hu
      (thrUnit s.live r p (s.live.plan p).armSeq o.epoch) (thrsOf r.body) r
    exact yields_of_gives hgives ⟨by rw [hcut]; rfl, hpln, hctl⟩
  · intro s n r d p loc x o hform hawake hup hty hd hstage hp hx hrun hoc hepoch hsrc hloc hleaf hstream hoff hgood
    subst hd
    have hbuoy := ownBuoy_of_src (b := s.build) hsrc hloc
    refine ⟨fun hover => ?_, fun hpresent hopen hclean => ?_⟩
    · subst hx hp
      exact phaseBReceive_left hoc hbuoy hover
    · have htaken := phaseBReceive_taken (loc := loc) (recOk_of_up hform hawake hup) hty hstage hp hx hrun hoc hepoch
        hbuoy hleaf hstream hoff hgood hpresent hopen hclean
      refine ⟨fun hkind hthr hfirst => ?_, fun hkind hcan hfirst => ?_⟩
      · have hgives := htaken (by simp [hkind, hthr, hfirst])
        unfold withB at hgives
        rwa [if_pos hkind] at hgives
      · have hgives := htaken (by simp [hkind, hcan, hfirst])
        unfold withB at hgives
        rwa [if_neg (by omega)] at hgives
  · intro s plan p x o hawake hp hx hoc hrun hoff hwf hgood hpart
    refine ⟨phaseBClose_waits hawake hp hx hoc, fun hopen hstage hstrag hcan hdue hmore => ?_⟩
    refine yields_of_gives (phaseBClose_closes hawake hp hx hoc hrun hoff hwf hgood hpart hopen hstage hstrag hcan hdue
      hmore) ?_
    have hplan := Live.plan_setPlan_same (k := p) hwf { x with oc := some (closedB x.image o) }
    rw [hplan]
    simp [closedB, leafDesc, hstrag]

end

end Sys2Proof.Proofs
end

section
/-! PROOFS. Cuts and their vectors (O50). -/

namespace Sys2Proof.Proofs

open Sys2Proof Sys2Proof.Machine Sys2Proof.Claims

section

section
variable {s : State} {l : Live} {b : Build} {plan : BitVec 8} {p per : Nat} {t : Word} {x : Plan}

/-! ### The count of a periodic cut -/

/-- The count of plan `p`'s cuts has fired, and is armed again. -/
def cutPulled (l : Live) (p per : Nat) (t : Word) : Live :=
  { l with time := { l.time with
    cmps := [⟨.cuts p, t + BitVec.ofNat 32 per, per⟩], fired := [⟨.cuts p, t⟩] } }

/-- The fired count is used. -/
def cutFired (l : Live) (p per : Nat) (t : Word) : Live :=
  { l with time := { l.time with cmps := [⟨.cuts p, t + BitVec.ofNat 32 per, per⟩], fired := [] } }

theorem cutFired_time (hfired : l.time.fired = []) (p per : Nat) (t : Word) :
    (cutFired l p per t).time = { l.time with cmps := [⟨.cuts p, t + BitVec.ofNat 32 per, per⟩] } := by
  unfold cutFired
  dsimp only
  rw [← hfired]

theorem pull_early (hfired : l.time.fired = []) (hcmps : l.time.cmps = [⟨.cuts p, t, per⟩])
    (h : reached l.ft t = false) : l.pull (.cuts p) = l := by
  unfold Live.pull Live.hasFired
  rw [hfired, hcmps]
  simp [reachedAt, h]

theorem fireCmp_time (l : Live) (i : Nat) (c : Cmp) : l.fireCmp i c = { l with time := { l.time with
    cmps := if c.period = 0 then dropAt i l.time.cmps
      else updAt (fun c => { c with count := c.count + BitVec.ofNat 32 c.period }) i l.time.cmps,
    fired := l.time.fired ++ [⟨c.owner, c.count⟩] } } := rfl

theorem pull_reached (hfired : l.time.fired = []) (hcmps : l.time.cmps = [⟨.cuts p, t, per⟩]) (hpos : 0 < per)
    (h : reached l.ft t = true) : l.pull (.cuts p) = cutPulled l p per t := by
  unfold Live.pull Live.hasFired
  rw [hfired, hcmps]
  simp only [reachedAt, h, List.any_nil, and_self, if_true, Bool.false_eq_true, if_false]
  rw [fireCmp_time, hcmps, hfired, if_neg (Nat.ne_of_gt hpos)]
  rfl

theorem cutReached_pulled (hnext : t = (l.plan p).nextT) (hepoch : (l.plan p).epochNext < 65536) :
    (cutPulled l p per t).cutReached b p = some (.cuts p, t, (l.plan p).epochNext) := by
  have hplan : (cutPulled l p per t).plan p = l.plan p := rfl
  unfold Live.cutReached
  dsimp only
  rw [hplan, show (cutPulled l p per t).time.fired = [⟨.cuts p, t⟩] from rfl, ← hnext]
  simp [Nat.mod_eq_of_lt hepoch]

/-! ### The latch -/

/-- The count of a cut is used. -/
def cutPassed (l : Live) (p per : Nat) (t : Word) : Live :=
  (cutFired l p per t).updPlan p fun x =>
    { x with epochNext := ((l.plan p).epochNext + 1) % 65536, nextT := t + BitVec.ofNat 32 per }

/-- The plan takes the cut of epoch `e`. -/
def cutLatching (l : Live) (p per e : Nat) (t : Word) : Live :=
  (cutPassed l p per t).updPlan p fun x => { x with lastLatched := some e, latched := e, latchT := t }

/-- What the latch of a plan with image `g` does. -/
def latchDone (b : Build) (g : Image) (l : Live) (p e : Nat) (t : Word) : Live :=
  if b.buoy then l.latchBuoy p t e else (l.rplStart b p t e).openCut b p t e (l.lanternItems g)

theorem useFired_cuts (l : Live) (p per : Nat) (t : Word) :
    (cutPulled l p per t).useFired (.cuts p) = cutFired l p per t := by
  unfold Live.useFired cutPulled
  dsimp only
  rw [takeFired, if_pos rfl]
  rfl

theorem readsPlan_of_form (h : b.form = .lantern → l.bad (.plan p) = false) (f : Live → Live) :
    l.readsPlan b p f = f l := by
  unfold Live.readsPlan
  refine if_neg fun ⟨hlantern, hbad, _⟩ => ?_
  have hform : b.form = .lantern := by simpa [Build.lantern] using hlantern
  simp [h hform] at hbad

section
variable (hawake : s.live.awake = true) (hp : p = plan.toNat) (hx : x = s.live.plan p) (ht : t = x.nextT)
  (hrun : x.state = .running) (hpend : x.pendCuts = [])
  (hper : per = (if s.build.buoy then secPeriod x.image else imgPeriod x.image)) (hfired : s.live.time.fired = [])
  (hcmps : s.live.time.cmps = [⟨.cuts p, t, per⟩])
include hawake hp hx ht hrun hpend hper hfired hcmps

theorem cutLatch_early (h : reached s.live.ft t = false) : Gives (.cutLatch plan) s s.live := by
  subst hp hx
  show execCutLatch plan s = _
  refine runAwake_gives hawake ?_
  dsimp only
  rw [pull_early hfired hcmps h, hpend, List.foldl_nil]
  unfold Live.cutReached
  rw [hfired]
  rfl

variable (hpos : 0 < per) (hepoch : x.epochNext < 65536) (h : reached s.live.ft t = true)
include hpos hepoch h

/-- A cut that is not complete before an armed teardown only uses its count. -/
theorem cutLatch_gives (hgood : s.build.form = .lantern → s.live.bad (.plan p) = false) :
    Gives (.cutLatch plan) s
      (if x.cutOk t (if s.build.buoy then secPbClose x.image else imgLastDl x.image) then
        latchDone s.build x.image (cutLatching s.live p per x.epochNext t) p x.epochNext t
      else cutPassed s.live p per t) := by
  subst hp hx
  show execCutLatch plan s = _
  refine runAwake_gives hawake ?_
  dsimp only
  rw [pull_reached hfired hcmps hpos h]
  have hplan : (cutPulled s.live plan.toNat per t).plan plan.toNat = s.live.plan plan.toNat := rfl
  rw [hplan, hpend, List.foldl_nil,
    cutReached_pulled ht hepoch]
  dsimp only
  rw [hplan, ← hper, useFired_cuts, if_neg (fun hnot => hnot.1 hrun), readsPlan_of_form (by exact hgood)]
  by_cases hcut : (s.live.plan plan.toNat).cutOk t (if s.build.buoy = true then
      secPbClose (s.live.plan plan.toNat).image else imgLastDl (s.live.plan plan.toNat).image) = true
  · rw [if_pos hcut, if_neg (by simp [hrun, hcut])]
    rfl
  · rw [if_neg hcut, if_pos (.inr (by simpa using hcut))]
    rfl

end

end

end

section

section
variable {l m : Live} {b : Build} {p i : Nat} {t : Word} {x : Plan}

/-! ### The words of items -/

theorem itemFields {v ovf gen : Nat} (hv : v < 281474976710656) (hovf : ovf < 2) :
    (v + (ovf * 281474976710656 + gen * 1125899906842624)) % 18446744073709551616 % 281474976710656 = v ∧
    (v + (ovf * 281474976710656 + gen * 1125899906842624)) % 18446744073709551616 / 281474976710656 % 2 = ovf ∧
    (v + (ovf * 281474976710656 + gen * 1125899906842624)) % 18446744073709551616 / 562949953421312 % 2 = 0 := by
  omega

theorem staleFields (gen : Nat) :
    (1 * 562949953421312 + gen * 1125899906842624) % 18446744073709551616 % 281474976710656 = 0 ∧
    (1 * 562949953421312 + gen * 1125899906842624) % 18446744073709551616 / 562949953421312 % 2 = 1 := by
  omega

theorem packW_three' (i0 i1 i2 x0 x1 x2 : Nat) : (packW [(i0, x0), (i1, x1), (i2, x2)]).toNat =
    (x0 * 2 ^ i0 + (x1 * 2 ^ i1 + x2 * 2 ^ i2)) % 2 ^ 64 := by
  rw [packW_toNat]
  simp only [List.map_cons, List.map_nil, List.sum_cons, List.sum_nil, Nat.add_zero]

/-- The value, the overflow bit and the stale bit of an item word. -/
theorem fld_itemWord {v ovf : Nat} (hv : v < 281474976710656) (hovf : ovf < 2) (gen : Nat) :
    fld (itemWord v ovf 0 gen) 0 48 = v ∧ fld (itemWord v ovf 0 gen) 48 1 = ovf ∧
      fld (itemWord v ovf 0 gen) 49 1 = 0 := by
  have h := packW_three' 0 48 50 v ovf gen
  rw [show (2 : Nat) ^ 0 = 1 from rfl, show (2 : Nat) ^ 48 = 281474976710656 from rfl,
    show (2 : Nat) ^ 50 = 1125899906842624 from rfl, show (2 : Nat) ^ 64 = 18446744073709551616 from rfl,
    Nat.mul_one] at h
  obtain ⟨hval, hov, hstale⟩ := itemFields (gen := gen) hv hovf
  unfold itemWord fld
  rw [if_neg (by decide), show (2 : Nat) ^ 48 = 281474976710656 from rfl, Nat.mod_eq_of_lt hv, h,
    Nat.shiftRight_eq_div_pow, Nat.shiftRight_eq_div_pow, Nat.shiftRight_eq_div_pow,
    show (2 : Nat) ^ 0 = 1 from rfl, show (2 : Nat) ^ 48 = 281474976710656 from rfl,
    show (2 : Nat) ^ 49 = 562949953421312 from rfl, show (2 : Nat) ^ 1 = 2 from rfl, Nat.div_one]
  exact ⟨hval, hov, hstale⟩

theorem fld_staleWord (gen : Nat) : fld (itemWord 0 0 1 gen) 0 48 = 0 ∧ fld (itemWord 0 0 1 gen) 49 1 = 1 := by
  have h := packW_two 49 50 1 gen
  rw [show (2 : Nat) ^ 49 = 562949953421312 from rfl, show (2 : Nat) ^ 50 = 1125899906842624 from rfl,
    show (2 : Nat) ^ 64 = 18446744073709551616 from rfl] at h
  obtain ⟨hval, hstale⟩ := staleFields gen
  unfold itemWord fld
  rw [if_pos rfl, h, Nat.shiftRight_eq_div_pow, Nat.shiftRight_eq_div_pow, show (2 : Nat) ^ 0 = 1 from rfl,
    show (2 : Nat) ^ 48 = 281474976710656 from rfl, show (2 : Nat) ^ 49 = 562949953421312 from rfl,
    show (2 : Nat) ^ 1 = 2 from rfl, Nat.div_one]
  exact ⟨hval, hstale⟩

/-- The counter word of an item. -/
theorem fld_latchWord (l : Live) (k : Nat) : fld (l.latchWord 1 k) 0 48 = (l.ctr k).val.toNat ∧
    fld (l.latchWord 1 k) 48 1 < 2 := by
  have hovf : b2n (l.ctr k).ovf < 2 := by
    cases (l.ctr k).ovf <;> decide
  obtain ⟨hval, _, _⟩ := fld_itemWord (l.ctr k).val.isLt hovf (l.gen (l.itemUnit 1 k))
  unfold Live.latchWord
  dsimp only
  rw [if_pos (by decide)]
  exact ⟨hval, Nat.mod_lt _ (by decide)⟩

/-! ### The latch of a buoy -/

/-- The word that item `i` of a section takes: of a delta, the difference to the latch before. -/
def latchedWord (l : Live) (x : Plan) (i : Nat) : DWord :=
  let w := l.latchWord (secItem x.image i).1 (secItem x.image i).2.1
  if (secItem x.image i).1 = 1 then
    match Tab.find? x.prev i with
    | some v => itemWord ((fld w 0 48 + 2 ^ 48 - v) % 2 ^ 48) (fld w 48 1) 0 (fld w 50 8)
    | none => itemWord 0 0 1 (fld w 50 8)
  else w

theorem latchedWord_plain (h : (secItem x.image i).1 ≠ 1) :
    latchedWord l x i = l.latchWord (secItem x.image i).1 (secItem x.image i).2.1 := by
  unfold latchedWord
  exact if_neg h

theorem latchedWord_first (h : (secItem x.image i).1 = 1) (hprev : Tab.find? x.prev i = none) :
    (fld (latchedWord l x i) 0 48, fld (latchedWord l x i) 49 1) = (0, 1) := by
  unfold latchedWord
  dsimp only
  rw [if_pos h, hprev]
  exact Prod.ext (fld_staleWord _).1 (fld_staleWord _).2

theorem latchedWord_delta {v : Nat} (h : (secItem x.image i).1 = 1) (hprev : Tab.find? x.prev i = some v) :
    (fld (latchedWord l x i) 0 48, fld (latchedWord l x i) 49 1) =
      (((l.ctr (secItem x.image i).2.1).val.toNat + 2 ^ 48 - v) % 2 ^ 48, 0) := by
  unfold latchedWord
  dsimp only
  rw [if_pos h, hprev, h]
  dsimp only
  obtain ⟨hval, hovf⟩ := fld_latchWord l (secItem x.image i).2.1
  rw [hval]
  obtain ⟨hdelta, _, hstale⟩ := fld_itemWord (v := ((l.ctr (secItem x.image i).2.1).val.toNat + 2 ^ 48 - v) % 2 ^ 48)
    (Nat.mod_lt _ (by decide)) hovf (fld (l.latchWord 1 (secItem x.image i).2.1) 50 8)
  exact Prod.ext hdelta hstale

/-- The words of a latch. -/
def latchedWords (l : Live) (x : Plan) : List DWord := (List.range (secNbi x.image)).map (latchedWord l x)

theorem wordAt_latchedWords (h : i < secNbi x.image) : wordAt (latchedWords l x) i = latchedWord l x i := by
  unfold wordAt latchedWords
  rw [List.getD_eq_getElem?_getD, List.getElem?_map, List.getElem?_range h]
  rfl

/-- A buoy's latch keeps the words of its items. -/
theorem latchBuoy_plan (h : PlanIs l m p x) (t : Word) (e : Nat) : ∃ y, PlanIs l (m.latchBuoy p t e) p y ∧
    (∃ replayed, y.kept = some ⟨t, e, latchedWords m x, [], false, replayed, false, none⟩) ∧
    y.latched = x.latched ∧ y.latchT = x.latchT ∧ y.epochNext = x.epochNext ∧ y.nextT = x.nextT := by
  obtain ⟨_, hplan, _⟩ := id h
  have hwords : ((List.range (secNbi x.image)).map fun i =>
      let w := ((List.range (secNbi x.image)).map fun i =>
        m.latchWord (secItem x.image i).1 (secItem x.image i).2.1).getD i 0
      if (secItem x.image i).1 = 1 then
        match Tab.find? x.prev i with
        | some v => itemWord ((fld w 0 48 + 2 ^ 48 - v) % 2 ^ 48) (fld w 48 1) 0 (fld w 50 8)
        | none => itemWord 0 0 1 (fld w 50 8)
      else w) = latchedWords m x := by
    refine List.map_congr_left fun i hi => ?_
    rw [List.getD_eq_getElem?_getD, List.getElem?_map, List.getElem?_range (List.mem_range.mp hi)]
    rfl
  unfold Live.latchBuoy
  rw [hplan]
  exact ⟨_, PlanIs.upd (m := m.clean (.latch p)) (h.congr rfl) _,
    ⟨_, congrArg (fun ws : List DWord => some (Kept.mk t e ws [] false _ false none)) hwords⟩, rfl, rfl, rfl, rfl⟩

end

end

section

section
variable {s : State} {l m : Live} {b : Build} {plan : BitVec 8} {p per e : Nat} {t : Word} {x : Plan}

/-! ### The latch of a lantern -/

/-- The class in which buoy `k` enters epoch `e` of plan `x`. -/
def placedAs (b : Build) (l : Live) (x : Plan) (e k : Nat) : BClass :=
  if !sampled (imgSeed x.image) e (l.trunk b * 256 + k) (imgRate x.image) then .unsampled
  else if !l.timed || !(l.peer k).present || !(l.peer k).lock || decide ((e, k) ∈ x.rejBuoys) then .absent
  else .waiting

theorem openCut_plan (h : PlanIs l m p x) (hoff : m.flt.rpl.st = .off) (b : Build) (t : Word) (e : Nat) (is : List Word) :
    ∃ y, PlanIs l (m.openCut b p t e is) p y ∧
      (y.oc.map fun o => (o.t, o.epoch, o.cls.map (·.1), o.vecs, o.litems, o.leafDone, o.stage)) =
        some (t, e, imgNamed x.image, [], is, false, 0) ∧
      (y.oc.map fun o => o.cls.map (·.2)) = some ((imgNamed x.image).map (placedAs b m x e)) ∧ y.latched = x.latched := by
  obtain ⟨_, hplan, _⟩ := id h
  unfold Live.openCut
  rw [hplan]
  dsimp only
  rw [replaying_off hoff]
  refine ⟨_, PlanIs.upd (m := m.clean (.part p)) (h.congr rfl) _, ?_, ?_, rfl⟩
  · simp only [Option.map_some, List.map_map]
    rw [show (fun y : Nat × BClass => y.1) ∘ _ = id from rfl, List.map_id]
  · simp only [Option.map_some, List.map_map]
    rfl

theorem rplStart_off (hoff : l.flt.rpl.st = .off) (b : Build) (p : Nat) (t : Word) (e : Nat) :
    l.rplStart b p t e = l := by
  unfold Live.rplStart
  dsimp only
  exact if_pos (.inl (by rw [hoff]; decide))

/-! ### The plan and the rest of the state at a latch -/

theorem planIs_cutPassed (hwf : Tab.wf l.plans = true) (p per : Nat) (t : Word) : PlanIs l (cutPassed l p per t) p
    { l.plan p with epochNext := ((l.plan p).epochNext + 1) % 65536, nextT := t + BitVec.ofNat 32 per } :=
  PlanIs.upd (m := cutFired l p per t) ((PlanIs.refl hwf p).congr rfl) _

theorem planIs_cutLatching (hwf : Tab.wf l.plans = true) (p per e : Nat) (t : Word) :
    PlanIs l (cutLatching l p per e t) p
      { l.plan p with epochNext := ((l.plan p).epochNext + 1) % 65536, nextT := t + BitVec.ofNat 32 per,
                      lastLatched := some e, latched := e, latchT := t } :=
  (planIs_cutPassed hwf p per t).upd _

theorem cutPassed_time (hfired : l.time.fired = []) (p per : Nat) (t : Word) :
    (cutPassed l p per t).time = { l.time with cmps := [⟨.cuts p, t + BitVec.ofNat 32 per, per⟩] } :=
  cutFired_time hfired p per t

theorem latchBuoy_frame (l : Live) (p : Nat) (t : Word) (e : Nat) : (l.latchBuoy p t e).time = l.time ∧
    (l.latchBuoy p t e).samp = l.samp ∧ (l.latchBuoy p t e).created = l.created := ⟨rfl, rfl, rfl⟩

theorem cutOk_tdEn (x : Plan) (t : Word) (k : Nat) (htd : x.tdEn = false) : x.cutOk t k = true := by
  simp [Plan.cutOk, htd]

theorem cutOk_late {k : Nat} (htd : x.tdEn = true) (hlate : ftDiff x.d (t + BitVec.ofNat 32 (500 * k)) < 1) :
    x.cutOk t k = false := by
  rw [Nat.mul_comm] at hlate
  simp only [Plan.cutOk, htd, Bool.not_true, Bool.false_or, decide_eq_false_iff_not]
  omega

end

end

section

section
variable {α : Type} {i k K : Nat} {a : α}

/-! ### Rows in front of a row that is written, in tables of any order -/

/-- A new row is of no account to the rows of smaller index. -/
theorem find?_insert_below (h : i < k) (a : α) : ∀ t : Tab α, Tab.find? (Tab.insert t k a) i = Tab.find? t i
  | [] => by simp [Tab.insert, Tab.find?, h, Nat.ne_of_gt h]
  | (j, c) :: t => by
    unfold Tab.insert
    split
    · next hj => subst hj; simp [Tab.find?, h, Nat.ne_of_gt h]
    · split
      · next hk => simp [Tab.find?, h, Nat.ne_of_gt h, Nat.lt_trans h hk, Nat.ne_of_gt (Nat.lt_trans h hk)]
      · simp only [Tab.find?, find?_insert_below h a t]

/-- Behind the rows below `K` comes the row of `K`. -/
def Shut (K : Nat) : Tab α → Prop
  | [] => False
  | (j, _) :: t => if j < K then Shut K t else j = K

theorem shut_insert (K : Nat) (a : α) : ∀ t : Tab α, Shut K (Tab.insert t K a)
  | [] => by simp [Tab.insert, Shut]
  | (j, c) :: t => by
    unfold Tab.insert
    split
    · simp [Shut]
    · split
      · simp [Shut]
      · have hj : j < K := by omega
        simp only [Shut, if_pos hj]
        exact shut_insert K a t

/-- A row behind `K` that goes is of no account to the rows in front of `K`. -/
theorem shut_erase (hk : K < k) (hi : i < K) : ∀ t : Tab α, Shut K t →
    Shut K (Tab.erase t k) ∧ Tab.find? (Tab.erase t k) i = Tab.find? t i
  | [], h => h.elim
  | (j, c) :: t, h => by
    unfold Shut at h
    unfold Tab.erase
    by_cases hj : j < K
    · rw [if_pos hj] at h
      obtain ⟨hshut, hfind⟩ := shut_erase hk hi t h
      rw [if_neg (by omega), if_neg (by omega)]
      simp only [Shut, if_pos hj, Tab.find?, hfind]
      exact ⟨hshut, trivial⟩
    · rw [if_neg hj] at h
      subst h
      rw [if_neg (by omega), if_neg (by omega)]
      simp [Shut, Tab.find?, hi, Nat.ne_of_gt hi]

theorem shut_insert_above (hk : K < k) (a : α) : ∀ t : Tab α, Shut K t → Shut K (Tab.insert t k a)
  | [], h => h.elim
  | (j, c) :: t, h => by
    unfold Shut at h
    unfold Tab.insert
    by_cases hj : j < K
    · rw [if_pos hj] at h
      rw [if_neg (by omega), if_neg (by omega)]
      simp only [Shut, if_pos hj]
      exact shut_insert_above hk a t h
    · rw [if_neg hj] at h
      subst h
      rw [if_neg (by omega), if_neg (by omega)]
      simp [Shut]

theorem shut_set [DecidableEq α] (hk : K < k) (hi : i < K) (d a : α) {t : Tab α} (h : Shut K t) :
    Shut K (Tab.set t k d a) ∧ Tab.find? (Tab.set t k d a) i = Tab.find? t i := by
  unfold Tab.set
  split
  · exact shut_erase hk hi t h
  · exact ⟨shut_insert_above hk a t h, find?_insert_below (Nat.lt_trans hi hk) a t⟩

end

section
variable {l m : Live} {b : Build} {f : Fld} {e v : Nat}

/-- Where the keys of the logbook's registers start. -/
def lowKeys : Nat := F.LOG_CFG_DRAIN_EN.key 0

/-- The registers in front of those of the logbook, and the static inputs, are the same. -/
structure SameLow (l m : Live) : Prop where
  rows : ∀ i : Nat, i < lowKeys → Tab.find? m.rf i = Tab.find? l.rf i
  statics : m.boot.st = l.boot.st

theorem SameLow.of_rf (hrf : m.rf = l.rf) (hst : m.boot.st = l.boot.st) : SameLow l m :=
  ⟨fun _ _ => by rw [hrf], hst⟩

theorem SameLow.trans {k : Live} (h : SameLow l m) (h' : SameLow m k) : SameLow l k :=
  ⟨fun i hi => (h'.rows i hi).trans (h.rows i hi), h'.statics.trans h.statics⟩

theorem SameLow.get {g : Fld} {i : Nat} (h : SameLow l m) (hk : g.key i < lowKeys) : m.get b g i = l.get b g i := by
  unfold Live.get Tab.getD
  rw [h.rows _ hk, Live.rst_congr h.statics]

/-- A value other than the reset value is listed. -/
theorem put_rf (h : v % 2 ^ f.w ≠ l.rst b f e) : (l.put b f v e).rf = Tab.insert l.rf (f.key e) (v % 2 ^ f.w) :=
  if_neg h

theorem sameLow_put (hk : lowKeys ≤ f.key e) (h : v % 2 ^ f.w ≠ l.rst b f e) : SameLow l (l.put b f v e) :=
  ⟨fun i hi => by rw [put_rf h, find?_insert_below (by omega)], rfl⟩

theorem sameLow_bump (hk : lowKeys ≤ f.key e) (hw : 0 < f.w) (hrst : l.rst b f e = 0) : SameLow l (l.bump b f e) := by
  have htwo : 2 ≤ 2 ^ f.w := (Nat.pow_le_pow_right (by decide) hw : 2 ^ 1 ≤ 2 ^ f.w)
  refine sameLow_put hk ?_
  rw [hrst, Nat.mod_eq_of_lt (by omega)]
  omega

/-! ### An event leaves them -/

theorem sameLow_setFlag (hk : lowKeys ≤ f.key 0) (hw : f.w = 1) (hrst : l.rst b f 0 = 0) : SameLow l (l.setBit b f) := by
  refine sameLow_put hk ?_
  rw [hrst, hw]
  simp

end

end

section

section
variable {l m : Live} {b : Build}

theorem SameLow.refl (l : Live) : SameLow l l := ⟨fun _ _ => rfl, rfl⟩

theorem SameLow.of_log {g : Log} (h : SameLow { l with log := g } m) : SameLow l m := ⟨h.rows, h.statics⟩

theorem SameLow.to_log {g : Log} (h : SameLow l m) : SameLow l { m with log := g } := ⟨h.rows, h.statics⟩

theorem rst_zero {f : Fld} {e : Nat} (h : f ∉ [F.SHP_CIR_CIR, F.SHP_CBS_CBS, F.SHP_PBS_PBS, F.SHP_PIR_PIR, F.QUE_CFG_CAP,
    F.UNIT_EN_B_SPILL, F.UNIT_EN_CEL_CEL]) (hzero : f.rB = 0 ∧ f.rL = 0) : l.rst b f e = 0 := by
  rw [Live.rst_plain e h, hzero.1, hzero.2, ite_self]

theorem sameLow_lost (l : Live) (b : Build) (sev : Nat) : SameLow l (l.bump b (lostFld sev)) := by
  unfold lostFld
  split
  · exact sameLow_bump (by decide) (by decide) (rst_zero (by decide) (by decide))
  · split
    · exact sameLow_bump (by decide) (by decide) (rst_zero (by decide) (by decide))
    · exact sameLow_bump (by decide) (by decide) (rst_zero (by decide) (by decide))

theorem sameLow_drop (l : Live) (b : Build) (sev : Nat) : SameLow l (l.bump b (dropFld sev)) := by
  unfold dropFld
  split
  · exact sameLow_bump (by decide) (by decide) (rst_zero (by decide) (by decide))
  · split
    · exact sameLow_bump (by decide) (by decide) (rst_zero (by decide) (by decide))
    · exact sameLow_bump (by decide) (by decide) (rst_zero (by decide) (by decide))

theorem sameLow_logFog (l : Live) (b : Build) (sev : Nat) : SameLow l (l.logFog b sev) := by
  unfold Live.logFog Live.when
  split
  · exact sameLow_setFlag (by decide) rfl (rst_zero (by decide) (by decide))
  · exact .refl l

theorem sameLow_atticLost (l : Live) (b : Build) : SameLow l (l.setBit b F.LOG_FLAG_ATTIC_LOST) :=
  sameLow_setFlag (by decide) rfl (rst_zero (by decide) (by decide))

theorem sameLow_atticAdd (l : Live) (b : Build) (x : LogEnt) : SameLow l (l.atticAdd b x) := by
  unfold Live.atticAdd
  split
  · split
    · exact sameLow_atticLost l b
    · unfold Live.when
      split
      · exact (sameLow_atticLost _ b).of_log
      · exact .of_rf rfl rfl
  · exact .refl l

theorem sameLow_logNew (l : Live) (b : Build) (ev : LogEv) : SameLow l (l.logNew b ev) := by
  unfold Live.logNew
  dsimp only
  split
  · exact (sameLow_drop _ b _).of_log
  · refine SameLow.trans ?_ (sameLow_logFog _ b _)
    refine SameLow.trans ?_ (sameLow_atticAdd _ b _)
    refine SameLow.to_log ?_
    exact (foldl_rel SameLow.refl SameLow.trans (fun (l : Live) (g : LogEnt) => l.bump b (lostFld g.ev.sev))
      (fun l g => sameLow_lost l b g.ev.sev) _ _).of_log

theorem sameLow_logE (l : Live) (b : Build) (code sev : Nat) (args : List Nat) (plan status : Nat) :
    SameLow l (l.logE b code sev args plan status) := by
  unfold Live.logE Live.logEv
  split
  · unfold Live.logWrite
    split
    · split
      · exact (sameLow_logFog _ b _).of_log
      · exact sameLow_logNew l b _
    · exact sameLow_logNew l b _
  · split
    · exact .of_rf rfl rfl
    · exact (sameLow_drop _ b _).of_log

/-! ### An uncorrectable word leaves them -/

theorem lowKeys_lt_ue (id : Nat) : lowKeys < F.MEM_STAT_UE.key id := by
  have hstart : lowKeys < F.MEM_STAT_UE.key 0 := by decide
  exact Nat.lt_of_lt_of_le hstart (Nat.add_le_add_left (Nat.zero_le id) _)

theorem sameLow_ueShown (l : Live) (b : Build) (id a : Nat) : SameLow l (ueShown l b id a) := by
  have hkey := lowKeys_lt_ue id
  have hcount := sameLow_bump (l := l) (b := b) (f := F.MEM_STAT_UE) (e := id) (Nat.le_of_lt hkey) (by decide)
    (rst_zero (by decide) (by decide))
  refine hcount.trans ⟨fun i hi => ?_, rfl⟩
  have hi' : i < F.MEM_STAT_UE.key id := Nat.lt_trans hi hkey
  have haddr : F.MEM_STAT_UE.key id < F.MEM_UE_ADDR_ADDR.key id := Nat.add_lt_add_right (by decide) id
  have hhi : F.MEM_STAT_UE.key id < F.MEM_UE_ADDR_HI_ADDR.key id := Nat.add_lt_add_right (by decide) id
  have hshut : Shut (F.MEM_STAT_UE.key id) (l.bump b F.MEM_STAT_UE id).rf := by
    unfold Live.bump
    rw [put_rf]
    · exact shut_insert _ _ _
    · rw [rst_zero (by decide) (by decide), Nat.mod_eq_of_lt (by simp [F.MEM_STAT_UE])]
      simp [F.MEM_STAT_UE]
  unfold ueShown
  have hset : ∀ (n : Live) (f : Fld) (v e : Nat), F.MEM_STAT_UE.key id < f.key e → Shut (F.MEM_STAT_UE.key id) n.rf →
      Shut (F.MEM_STAT_UE.key id) (n.put b f v e).rf ∧ Tab.find? (n.put b f v e).rf i = Tab.find? n.rf i :=
    fun n f v e hk hn => shut_set hk hi' _ _ hn
  obtain ⟨hshut, hfind⟩ := hset _ F.MEM_UE_ADDR_ADDR a id haddr hshut
  obtain ⟨_, hfind'⟩ := hset _ F.MEM_UE_ADDR_HI_ADDR (a / 2 ^ 32) id hhi hshut
  have hflag := sameLow_put (l := ((l.bump b F.MEM_STAT_UE id).put b F.MEM_UE_ADDR_ADDR a id).put b
    F.MEM_UE_ADDR_HI_ADDR (a / 2 ^ 32) id) (b := b) (f := F.MEM_FLAG_UE) (e := 0) (v := 1) (by decide)
    (by rw [rst_zero (by decide) (by decide)]; decide)
  exact (hflag.rows i hi).trans (hfind'.trans hfind)

theorem sameLow_meet (l : Live) (b : Build) (h : Holder) : SameLow l (l.meet b h) :=
  foldl_rel SameLow.refl SameLow.trans (fun (l : Live) (w : BadWord) => l.ueSeen b w.id w.a)
    (fun l w => by
      rw [ueSeen_eq]
      exact (sameLow_ueShown l b w.id w.a).trans (sameLow_logE _ b _ _ _ _ _)) _ l

/-- Words that are met leave all but registers, logbook and early events, and the queue of a stream. -/
theorem queueOf_meet (l : Live) (b : Build) (h : Holder) (st : Nat) :
    (l.meet b h).queueOf b st = l.queueOf b st := by
  have hlow := sameLow_meet l b h
  have hkey : ∀ (g : Fld) (e : Nat), g ∈ [F.QMAP_STREAM, F.QMAP_QUEUE, F.QMAP_VALID] → e < 2048 → g.key e < lowKeys := by
    intro g e hg he
    have hlast : g.key 2048 < lowKeys := by
      revert g
      decide
    exact Nat.lt_trans (Nat.add_lt_add_left he _) hlast
  have hentry : (l.meet b h).mapEntry b st = l.mapEntry b st := by
    unfold Live.mapEntry
    refine List.find?_congr fun e he => ?_
    have he' : e < 2048 := by
      have := List.mem_range.mp he
      split at this <;> omega
    unfold Live.flag
    rw [hlow.get (hkey _ e (by decide) he'), hlow.get (hkey _ e (by decide) he')]
  unfold Live.queueOf
  rw [hentry]
  split
  · next e he =>
    have he' : e < 2048 := by
      have := List.mem_range.mp (List.mem_of_find?_eq_some he)
      split at this <;> omega
    exact hlow.get (hkey _ e (by decide) he')
  · rfl

end

end

section

section
variable {s : State} {l m : Live} {b : Build} {plan : BitVec 8} {p e : Nat} {x : Plan} {k : Kept} {r : Rec}

/-! ### A buoy reads its section and its latch -/

theorem noteFrame_meet (l : Live) (b : Build) (h : Holder) : NoteFrame l (l.meet b h) := noteFrame_seen l b _

/-- Reading the latch leaves plans, records made, links, statics but for early events, and the queue of a stream. -/
theorem readLatch_frame (l : Live) (b : Build) (p : Nat) : NoteFrame l (l.readLatch b p).1 ∧
    (∀ st : Nat, (l.readLatch b p).1.queueOf b st = l.queueOf b st) ∧
    (l.readLatch b p).2 = (l.bad (.plan p) || l.bad (.latch p)) :=
  ⟨(noteFrame_meet l b _).trans (noteFrame_meet _ b _),
    fun st => (queueOf_meet _ b _ st).trans (queueOf_meet l b _ st), rfl⟩

theorem readLatch_clean (hplan : l.bad (.plan p) = false) (hlatch : l.bad (.latch p) = false) :
    (l.readLatch b p).1 = l := by
  unfold Live.readLatch
  dsimp only
  rw [meet_clean hplan, meet_clean hlatch]

theorem NoteFrame.made (h : NoteFrame l m) : m.created = l.created ∧ m.plans = l.plans ∧ m.src b = l.src b ∧
    m.ft = l.ft := by
  unfold NoteFrame at h
  rw [h]
  exact ⟨rfl, rfl, rfl, rfl⟩

theorem secCvStream_lt (g : Image) : secCvStream g < 2 ^ 14 := Nat.mod_lt _ (by decide)

/-! ### The cut vector -/

theorem cutvecAssembled_idle (hawake : s.live.awake = true) (hp : p = plan.toNat) (hx : x = s.live.plan p)
    (hkept : x.kept = some k) (hskip : s.live.isSampled s.build x.image k.epoch = false) :
    Gives (.cutvecAssembled plan) s s.live := by
  subst hp hx
  show execCutvecAssembled plan s = _
  refine runAwake_gives hawake ?_
  dsimp only
  rw [hkept]
  exact if_pos (by simp [hskip])

/-- The live part in which the cut vector of the kept cut is being made. -/
def vecDue (l : Live) (p : Nat) (k : Kept) : Live :=
  l.setPlan p { l.plan p with kept := some { k with assembled := true } }

/-- The cut vector of a kept cut. -/
def vecRec (l : Live) (b : Build) (g : Image) (k : Kept) (poison : Bool) : Rec :=
  { mkRec l b 2 (secCvStream g) k.t k.words with replayed := k.replayed, poison := poison }

theorem cutvecAssembled_gives (hawake : s.live.awake = true) (hform : s.build.form = .buoy) (hp : p = plan.toNat)
    (hx : x = s.live.plan p) (hrun : x.state = .running) (hkept : x.kept = some k) (hnew : k.assembled = false)
    (htake : s.live.isSampled s.build x.image k.epoch = true) : Gives (.cutvecAssembled plan) s
      (((vecDue s.live p k).readLatch s.build p).1.create s.build
        (vecRec (vecDue s.live p k) s.build x.image k ((vecDue s.live p k).readLatch s.build p).2)) := by
  subst hp hx
  obtain ⟨_, hlantern⟩ := buoy_of_form hform
  show execCutvecAssembled plan s = _
  refine runAwake_gives hawake ?_
  dsimp only
  rw [hkept]
  dsimp only
  rw [if_neg (by simp [hlantern, hrun, hnew, htake])]
  rfl

/-- What a record made after the latch was read adds to those that wait for their queues. -/
theorem created_read (hframe : NoteFrame l m) (hqueue : ∀ st : Nat, m.queueOf b st = l.queueOf b st) (r : Rec) :
    (m.create b r).created.drop l.created.length = [(l.queueOf b r.stream.toNat, (m.number r).2)] := by
  obtain ⟨hmade, _⟩ := hframe.made (b := b)
  rw [created_create, hmade, hqueue, List.drop_left]

theorem planIs_create (h : PlanIs l m p x) (b : Build) (r : Rec) : PlanIs l (m.create b r) p x :=
  h.congr (by rw [create_frame])

theorem stream_cv (g : Image) : (BitVec.ofNat 14 (secCvStream g)).toNat = secCvStream g := by
  rw [BitVec.toNat_ofNat, Nat.mod_eq_of_lt (secCvStream_lt g)]

/-- The cut vector as it leaves, and the plan that has it assembled. -/
theorem cutvec_spec (hwf : Tab.wf l.plans = true)
    (hm : m = ((vecDue l p k).readLatch b p).1.create b
      (vecRec (vecDue l p k) b x.image k ((vecDue l p k).readLatch b p).2)) :
    (m.created.drop l.created.length).map (fun c => (c.1, c.2.ty, c.2.stream, c.2.src, c.2.ft, c.2.body, c.2.poison)) =
      [(l.queueOf b (secCvStream x.image), 2, BitVec.ofNat 14 (secCvStream x.image), l.src b, k.t, k.words,
        l.bad (.plan p) || l.bad (.latch p))] ∧
    PlanIs l m p { l.plan p with kept := some { k with assembled := true } } := by
  subst hm
  obtain ⟨hframe, hqueue, hbad⟩ := readLatch_frame (vecDue l p k) b p
  obtain ⟨_, hplans, _⟩ := hframe.made (b := b)
  have hplan := (PlanIs.refl hwf p).set { l.plan p with kept := some { k with assembled := true } }
  constructor
  · have hstream : (vecRec (vecDue l p k) b x.image k ((vecDue l p k).readLatch b p).2).stream.toNat =
        secCvStream x.image := stream_cv x.image
    rw [show l.created = (vecDue l p k).created from rfl, created_read hframe hqueue, List.map_singleton, number_rec,
      hstream, hbad]
    rfl
  · exact planIs_create (PlanIs.congr hplan hplans) b _

end

end

section

section
variable {s : State} {l m : Live} {b : Build} {p e : Nat} {x : Plan} {k : Kept} {r : Rec} {d : Desc}

/-! ### The phase-B record of a buoy -/

theorem descHead_fields {p e : Nat} (hp : p < 256) (he : e < 65536) :
    (p + 2 * 256 + e * 65536 + 16 * 4294967296 + 0 * 1099511627776 + 1 * 281474976710656) % 18446744073709551616 /
        256 % 256 = 2 ∧
    (p + 2 * 256 + e * 65536 + 16 * 4294967296 + 0 * 1099511627776 + 1 * 281474976710656) % 18446744073709551616 /
        65536 % 65536 = e := by
  omega

theorem packW_six (i0 i1 i2 i3 i4 i5 x0 x1 x2 x3 x4 x5 : Nat) :
    (packW [(i0, x0), (i1, x1), (i2, x2), (i3, x3), (i4, x4), (i5, x5)]).toNat =
      (x0 * 2 ^ i0 + x1 * 2 ^ i1 + x2 * 2 ^ i2 + x3 * 2 ^ i3 + x4 * 2 ^ i4 + x5 * 2 ^ i5) % 2 ^ 64 := by
  rw [packW_toNat]
  simp only [List.map_cons, List.map_nil, List.sum_cons, List.sum_nil, Nat.add_zero, Nat.add_assoc]

/-- KIND and EPOCH of a descriptor of straggler lists. -/
theorem descOf_lists (hp : p < 256) (he : e < 65536) (n : Nat) (a : Part) (ws : List DWord) :
    (descOf ((wholeDesc p 2 e 0x10 n).words a ++ ws)).kind = 2 ∧
    (descOf ((wholeDesc p 2 e 0x10 n).words a ++ ws)).epoch = e := by
  have h := packW_six 0 8 16 32 40 48 p 2 (e % 65536) 16 0 1
  rw [show (2 : Nat) ^ 0 = 1 from rfl, show (2 : Nat) ^ 8 = 256 from rfl, show (2 : Nat) ^ 16 = 65536 from rfl,
    show (2 : Nat) ^ 32 = 4294967296 from rfl, show (2 : Nat) ^ 40 = 1099511627776 from rfl,
    show (2 : Nat) ^ 48 = 281474976710656 from rfl, show (2 : Nat) ^ 64 = 18446744073709551616 from rfl, Nat.mul_one,
    Nat.mod_eq_of_lt he] at h
  obtain ⟨hkind, hepoch⟩ := descHead_fields hp he
  have hword : wordAt ((wholeDesc p 2 e 0x10 n).words a ++ ws) 0 =
      packW [(0, p), (8, 2), (16, e), (32, 16), (40, 0), (48, 1)] := by
    unfold Desc.words wholeDesc
    dsimp only
    rw [Nat.mod_eq_of_lt he]
    rfl
  unfold descOf fld
  dsimp only
  rw [hword, h, Nat.shiftRight_eq_div_pow, Nat.shiftRight_eq_div_pow]
  exact ⟨hkind, hepoch⟩

/-- The list of a buoy for threshold `t`: its own item of the kept latch. -/
def ownEntry (l : Live) (b : Build) (g : Image) (k : Kept) (t : Thr) : StragList :=
  ownList t (if bit (wordAt k.words t.item) 49 then none
    else if (secItem g t.item).1 ≤ 1 then some (fld (wordAt k.words t.item) 0 48 : Nat)
    else some (sInt 32 (fld (wordAt k.words t.item) 0 32))) (l.src b).toNat

/-- The live part in which the lists of the kept cut are being made. -/
def listsDue (l : Live) (p : Nat) (k : Kept) : Live :=
  l.setPlan p { l.plan p with kept := some { k with pbSent := true } }

/-- The lists of a buoy as they go to its lantern. -/
def listsMade (l : Live) (b : Build) (p : Nat) (k : Kept) (r : Rec) : Live :=
  ((listsDue l p k).readLatch b p).1.buoyB b p 2 k (r.poison || ((listsDue l p k).readLatch b p).2)
    (thrsOf r.body).length (((thrsOf r.body).map (ownEntry l b (l.plan p).image k)).flatMap StragList.words)

theorem buoyThresholds_early (hawake : s.live.awake = true) (hp : p = (descOf r.body).plan) (hx : x = s.live.plan p)
    (hkept : x.kept = some k) (hlate : k.pbSent = true ∨
      reached s.live.ft (k.t + BitVec.ofNat 32 (500 * secPbClose x.image)) = true) :
    Gives (.buoyThresholds r) s s.live := by
  subst hp hx
  show execBuoyThresholds r s = _
  refine runAwake_gives hawake ?_
  dsimp only
  rw [hkept]
  refine if_pos ?_
  rcases hlate with h | h <;> simp [h]

theorem buoyThresholds_gives (hawake : s.live.awake = true) (hform : s.build.form = .buoy) (hty : r.ty = 4)
    (hkind : (descOf r.body).kind = 1) (hp : p = (descOf r.body).plan) (hx : x = s.live.plan p)
    (hrun : x.state = .running) (hkept : x.kept = some k) (hepoch : k.epoch = (descOf r.body).epoch)
    (hcan : k.can = none) (hnew : k.pbSent = false)
    (hopen : reached s.live.ft (k.t + BitVec.ofNat 32 (500 * secPbClose x.image)) = false) :
    Gives (.buoyThresholds r) s (listsMade s.live s.build p k r) := by
  subst hp hx
  obtain ⟨_, hlantern⟩ := buoy_of_form hform
  have hlists : (thrsOf r.body).map (fun t => ownList t
      (if bit (wordAt k.words t.item) 49 then none
        else if (secItem (s.live.plan (descOf r.body).plan).image t.item).1 ≤ 1 then
          some (fld (wordAt k.words t.item) 0 48 : Nat)
        else some (sInt 32 (fld (wordAt k.words t.item) 0 32))) (contribKey false (s.live.leaf s.build))) =
      (thrsOf r.body).map (ownEntry s.live s.build (s.live.plan (descOf r.body).plan).image k) := by
    unfold ownEntry contribKey Live.leaf b2n
    simp only [Bool.false_eq_true, if_false, Nat.zero_mul, Nat.zero_add]
  have hpass : ¬(s.build.lantern = true ∨ r.ty ≠ 4 ∨ (descOf r.body).kind ≠ 1 ∨
      (s.live.plan (descOf r.body).plan).state ≠ .running ∨ k.epoch ≠ (descOf r.body).epoch ∨ k.pbSent = true ∨
      reached s.live.ft (k.t + BitVec.ofNat 32 (500 * secPbClose (s.live.plan (descOf r.body).plan).image)) = true) := by
    simp [hlantern, hty, hkind, hrun, hepoch, hnew, hopen]
  obtain ⟨_, _, _, _, _, _, _, can⟩ := k
  obtain rfl : can = none := hcan
  show execBuoyThresholds r s = _
  refine runAwake_gives hawake ?_
  dsimp only at hlists hpass ⊢
  rw [hkept]
  dsimp only
  rw [if_neg hpass, hlists, List.length_map]
  rfl

/-- What the lists carry, and what they leave. -/
theorem listsMade_spec (hwf : Tab.wf l.plans = true) (hp : p < 256) (he : k.epoch < 65536) :
    ((listsMade l b p k r).created.drop l.created.length).map (fun c =>
        (c.1, c.2.ty, c.2.stream, c.2.ft, (descOf c.2.body).kind, (descOf c.2.body).epoch, c.2.poison,
          c.2.body.drop 4)) =
      [(l.queueOf b (secCvStream (l.plan p).image), 3, BitVec.ofNat 14 (secCvStream (l.plan p).image), l.ft, 2, k.epoch,
        (r.poison || (l.bad (.plan p) || l.bad (.latch p))),
        (thrsOf r.body).flatMap fun t => (ownEntry l b (l.plan p).image k t).words)] ∧
    PlanIs l (listsMade l b p k r) p { l.plan p with kept := some { k with pbSent := true } } ∧
    (l.bad (.plan p) = false → l.bad (.latch p) = false → (listsMade l b p k r).rf = l.rf) := by
  obtain ⟨hframe, hqueue, hbad⟩ := readLatch_frame (listsDue l p k) b p
  obtain ⟨_, hplans, _, hft⟩ := hframe.made (b := b)
  have hplan := (PlanIs.refl hwf p).set { l.plan p with kept := some { k with pbSent := true } }
  have hread : PlanIs l ((listsDue l p k).readLatch b p).1 p { l.plan p with kept := some { k with pbSent := true } } :=
    PlanIs.congr hplan hplans
  obtain ⟨_, hhere, _⟩ := id hread
  unfold listsMade Live.buoyB
  dsimp only
  rw [hhere, hbad]
  refine ⟨?_, planIs_create hread b _, fun hgood hlatch => ?_⟩
  · have hstream := stream_cv (l.plan p).image
    obtain ⟨hkind, hepoch⟩ := descOf_lists hp he (thrsOf r.body).length { part0 with expect := 1, present := 1 }
      (((thrsOf r.body).map (ownEntry l b (l.plan p).image k)).flatMap StragList.words)
    rw [show l.created = (listsDue l p k).created from rfl, created_read hframe hqueue, List.map_singleton, number_rec]
    unfold mkRec
    dsimp only
    rw [hstream, hft, hkind, hepoch, List.flatMap_map]
    rfl
  · rw [create_frame]
    have hclean : ((listsDue l p k).readLatch b p).1 = listsDue l p k := readLatch_clean hgood hlatch
    rw [hclean]
    rfl

end

end

section

section
variable {l m : Live} {b : Build} {p : Nat} {x : Plan}

/-! ### The end of a plan keeps the other plans and the logbook -/

/-- From `l` to `m` the plans and the logbook are kept. -/
def KeepsBook (l m : Live) : Prop := m.plans = l.plans ∧ m.log = l.log

theorem KeepsBook.refl (l : Live) : KeepsBook l l := ⟨rfl, rfl⟩

theorem KeepsBook.trans {k : Live} (h : KeepsBook l m) (h' : KeepsBook m k) : KeepsBook l k :=
  ⟨h'.1.trans h.1, h'.2.trans h.2⟩

theorem KeepsBook.of_eng {g : Eng} (h : KeepsBook { l with eng := g } m) : KeepsBook l m := h

theorem KeepsBook.of_links {t : Tab Link} (h : KeepsBook { l with links := t } m) : KeepsBook l m := h

theorem KeepsBook.to_rest {t : Trace} {g : Eng} (h : KeepsBook l m) : KeepsBook l { m with trace := t, eng := g } := h

theorem keepsBook_updQw (l : Live) (k : Nat) (f : Qw → Qw) : KeepsBook l (l.updQw k f) := ⟨rfl, rfl⟩

theorem keepsBook_skip (l : Live) (r : Rec) : KeepsBook l (l.skip r) := by
  unfold Live.skip
  split
  · exact ⟨rfl, rfl⟩
  · split
    · exact .refl l
    · exact ⟨rfl, rfl⟩

theorem keepsBook_reply (l : Live) (b : Build) (r : Ret) (status : Nat) : KeepsBook l (l.reply b r status) := by
  have hframe := replyFrame_reply l b r status 0 []
  unfold ReplyFrame at hframe
  unfold KeepsBook
  rw [hframe]
  exact ⟨rfl, rfl⟩

theorem keepsBook_ownCmds (l : Live) (b : Build) (locs : List Nat) (use : OwnUse) (plan opc arg : Nat) (ws : List DWord) :
    KeepsBook l (l.ownCmds b locs use plan opc arg ws) := by
  have hframe := ownFrame_ownCmds l b locs use plan opc arg ws
  unfold OwnFrame at hframe
  unfold KeepsBook
  rw [hframe]
  exact ⟨rfl, rfl⟩

theorem keepsBook_seqNext (b : Build) : ∀ (n : Nat) (l : Live), KeepsBook l (l.seqNext b n)
  | 0, l => .refl l
  | n + 1, l => by
    unfold Live.seqNext
    split
    · dsimp only
      split
      · exact KeepsBook.of_eng ((keepsBook_reply _ b _ _).trans (keepsBook_seqNext b n _))
      · exact ⟨rfl, rfl⟩
    · exact .refl l

theorem keepsBook_dropPln (l : Live) (p : Nat) : KeepsBook l (l.dropPln p) := by
  unfold Live.dropPln
  exact (foldl_rel KeepsBook.refl KeepsBook.trans (fun (l : Live) (r : Rec) => l.skip r) keepsBook_skip _ _).of_links

/-- A plan gives up its quiet-window sets. -/
theorem keepsBook_freeQws (l : Live) (p : Nat) (ks : List Nat) : KeepsBook l (ks.foldl (fun l k =>
    if (l.qw k).owner = p then (l.updQw k fun q => { q with owner := 0 }).qwDisable k else l) l) := by
  refine foldl_rel KeepsBook.refl KeepsBook.trans _ (fun l k => ?_) ks l
  split
  · exact (keepsBook_updQw l k _).trans (keepsBook_updQw _ k _)
  · exact .refl l

theorem keepsBook_freePlan (l : Live) (p : Nat) : KeepsBook l (l.freePlan p) := by
  unfold Live.freePlan
  refine KeepsBook.to_rest (KeepsBook.trans ?_ (keepsBook_dropPln _ p))
  refine KeepsBook.trans ?_ (keepsBook_freeQws _ p (List.range 4))
  exact ⟨rfl, rfl⟩

theorem keepsBook_ownSyncs (l : Live) (p : Nat) (g : Image) : KeepsBook l (l.ownSyncs p g) := by
  unfold Live.ownSyncs
  refine foldl_rel KeepsBook.refl KeepsBook.trans _ (fun l o => ?_) _ l
  dsimp only
  by_cases howned : (Tab.find? l.trace.syncs o.obj).isSome = true
  · rw [if_pos howned]
    exact .refl l
  · rw [if_neg howned]
    exact ⟨rfl, rfl⟩

theorem keepsBook_claimAll (l : Live) (b : Build) : KeepsBook l (l.claimAll b) := by
  unfold Live.claimAll
  refine foldl_rel KeepsBook.refl KeepsBook.trans _ (fun l e => ?_) _ l
  split
  · unfold Live.claim
    dsimp only
    split
    · exact foldl_rel KeepsBook.refl KeepsBook.trans _ (fun l q => keepsBook_updQw l _ _) _ l
    · exact keepsBook_ownSyncs l _ _
  · exact .refl l

end

end

section

section
variable {l m : Live} {b : Build} {p : Nat} {x : Plan}

/-- A plan that ends gives up what it holds, is VERIFIED, and the units that wait for it take their turn. -/
def endQuiet (l : Live) (b : Build) (p : Nat) : Live := (((l.freePlan p).updPlan p Plan.ended).claimAll b).seqTurn b

/-- A running plan that no command waits on ends in silence. -/
theorem endPlan_quiet (hoff : l.flt.rpl.st = .off) (hrun : (l.plan p).state = .running)
    (harm : (l.plan p).armReply = none) (hcuts : (l.plan p).cutReplies = []) (b : Build) (status why : Nat) :
    l.endPlan b p status why = endQuiet l b p := by
  unfold Live.endPlan endQuiet
  dsimp only
  have hnoLog : ¬(l.flt.rpl.st = .logging ∧ l.flt.rpl.plan = p) := by simp [hoff]
  have hnoArm : ¬(l.plan p).state = .arming := by simp [hrun]
  rw [if_neg hnoLog, if_neg hnoArm, harm, hcuts, List.foldl_nil]

theorem plan_of_book (h : KeepsBook l m) (p : Nat) : m.plan p = l.plan p := by
  unfold Live.plan
  rw [h.1]

theorem endQuiet_spec (hwf : Tab.wf l.plans = true) (b : Build) :
    Live.plan (endQuiet l b p) p = (l.plan p).ended ∧ (endQuiet l b p).log = l.log := by
  have hfree := keepsBook_freePlan l p
  obtain ⟨f, hf⟩ : ∃ f, f = l.freePlan p := ⟨_, rfl⟩
  obtain ⟨e, he⟩ : ∃ e, e = f.updPlan p Plan.ended := ⟨_, rfl⟩
  have hrest : KeepsBook e (endQuiet l b p) := by
    unfold endQuiet
    rw [← hf, ← he]
    exact (keepsBook_claimAll e b).trans (keepsBook_seqNext b _ _)
  rw [← hf] at hfree
  have hlog : e.log = f.log := by rw [he]; rfl
  have hplan : e.plan p = (f.plan p).ended := by
    rw [he]
    exact Live.plan_updPlan_same (by rw [hfree.1]; exact hwf) _
  rw [plan_of_book hrest, hplan, plan_of_book hfree]
  exact ⟨rfl, hrest.2.trans (hlog.trans hfree.2)⟩

/-- The copy of a running plan is aborted: the entry is VERIFIED, and nothing is logged. -/
theorem abortCopy_spec (hwf : Tab.wf l.plans = true) (hoff : l.flt.rpl.st = .off) (hrun : (l.plan p).state = .running)
    (harm : (l.plan p).armReply = none) (hcuts : (l.plan p).cutReplies = []) (b : Build) (why : Nat) :
    Live.plan (l.abortCopy b p why) p = (l.plan p).ended ∧ (l.abortCopy b p why).log = l.log := by
  obtain ⟨hplan, hlog⟩ := endQuiet_spec (p := p) hwf b
  have hown : KeepsBook (endQuiet l b p) (l.abortCopy b p why) := by
    unfold Live.abortCopy
    dsimp only
    rw [endPlan_quiet hoff hrun harm hcuts]
    split
    · exact keepsBook_ownCmds _ b _ _ _ _ _ _
    · exact .refl _
  rw [plan_of_book hown]
  exact ⟨hplan, hown.2.trans hlog⟩

/-- The message to the parent marks the entry, and leaves the rest of it, and the logbook. -/
theorem abortUp_spec (hwf : Tab.wf l.plans = true) (p : Nat) :
    Tab.wf (l.abortUp p).plans = true ∧ (l.abortUp p).log = l.log ∧ (l.abortUp p).flt = l.flt ∧
      ∃ up : Bool, (l.abortUp p).plan p = { l.plan p with upAbort := up } := by
  unfold Live.abortUp
  dsimp only
  split
  · refine ⟨?_, rfl, rfl, true, ?_⟩
    · exact Live.updPlan_wf hwf p fun x => { x with upAbort := true }
    · exact Live.plan_updPlan_same (k := p) hwf fun x => { x with upAbort := true }
  · exact ⟨hwf, rfl, rfl, (l.plan p).upAbort, rfl⟩

/-- A lantern that is not the root, without comparators, stops a running plan that no command waits on. -/
theorem poison_spec (hwf : Tab.wf l.plans = true) (hoff : l.flt.rpl.st = .off) (hrun : (l.plan p).state = .running)
    (harm : (l.plan p).armReply = none) (hcuts : (l.plan p).cutReplies = []) (hcmps : l.time.cmps = [])
    (hfired : l.time.fired = []) (hroot : l.isRoot b (l.plan p) = false) (what : Nat) :
    (Live.plan (l.poison b p what) p).state = .verified ∧ (Live.plan (l.poison b p what) p).oc = none ∧
      (l.poison b p what).log = (l.logE b 0x1003 3 [what] p ePoison).log := by
  obtain ⟨m, hm⟩ : ∃ m, m = l.logE b 0x1003 3 [what] p ePoison := ⟨_, rfl⟩
  have hplans : m.plans = l.plans := by rw [hm, Live.logE_plans]
  have hplan : m.plan p = l.plan p := by unfold Live.plan; rw [hplans]
  have hroot' : m.isRoot b (l.plan p) = false := by
    rw [← hroot]
    unfold Live.isRoot
    rw [hm, Live.logE_boot_st]
  have hactive : (l.plan p).active = true := by simp [Plan.active, hrun]
  have hgives : l.poison b p what = (m.abortUp p).abortCopy b p ePoison := by
    unfold Live.poison Live.hasFired
    dsimp only
    rw [hactive, hcmps, hfired, if_neg (by simp), if_neg (by simp), ← hm, hroot', if_neg Bool.false_ne_true]
  obtain ⟨hwf', hlog, hflt, up, hup⟩ := abortUp_spec (l := m) (by rw [hplans]; exact hwf) p
  rw [hplan] at hup
  obtain ⟨hended, hlogged⟩ := abortCopy_spec (l := m.abortUp p) hwf'
    (by rw [hflt, hm, Live.logE_flt]; exact hoff) (by rw [hup]; exact hrun) (by rw [hup]; exact harm)
    (by rw [hup]; exact hcuts) b ePoison
  rw [hgives, hended]
  exact ⟨rfl, rfl, by rw [hlogged, hlog, hm]⟩

end

end

section

section
variable {α : Type} {k : Nat} {a : α}

/-! ### The row that a search of a canonical table finds -/

theorem le_of_mem_sorted : ∀ {t : Tab α} {lo : Nat}, Tab.sortedFrom lo t = true → (k, a) ∈ t → lo ≤ k
  | [], _, _, hmem => (List.not_mem_nil hmem).elim
  | (j, c) :: t, lo, h, hmem => by
    rw [Tab.sortedFrom, Bool.and_eq_true, decide_eq_true_eq] at h
    obtain ⟨hlo, hrest⟩ := h
    rcases List.mem_cons.mp hmem with hrow | hrow
    · cases hrow
      exact hlo
    · have := le_of_mem_sorted hrest hrow
      omega

theorem find?_of_mem_sorted : ∀ {t : Tab α} {lo : Nat}, Tab.sortedFrom lo t = true → (k, a) ∈ t →
    Tab.find? t k = some a
  | [], _, _, hmem => (List.not_mem_nil hmem).elim
  | (j, c) :: t, lo, h, hmem => by
    rw [Tab.sortedFrom, Bool.and_eq_true] at h
    obtain ⟨_, hrest⟩ := h
    rcases List.mem_cons.mp hmem with hrow | hrow
    · cases hrow
      simp [Tab.find?]
    · have hbehind := le_of_mem_sorted hrest hrow
      rw [Tab.find?, if_neg (by omega), if_neg (by omega)]
      exact find?_of_mem_sorted hrest hrow

end

section
variable {s : State} {l : Live} {b : Build} {n : BitVec 5} {r : Rec} {p loc st : Nat} {x : Plan} {o : OpenCut}

/-- The plan that a cut vector's stream belongs to is RUNNING. -/
theorem running_of_cvPlan (hwf : Tab.wf l.plans = true) (h : l.cvPlan st = some p) : (l.plan p).state = .running := by
  unfold Live.cvPlan at h
  obtain ⟨e, hfound, hp⟩ := Option.map_eq_some_iff.mp h
  have hrun := List.find?_some hfound
  simp only [Bool.and_eq_true, decide_eq_true_eq] at hrun
  obtain ⟨⟨hrun, _⟩, _⟩ := hrun
  have hfind := find?_of_mem_sorted hwf (List.mem_of_find?_eq_some hfound)
  rw [hp] at hfind
  unfold Live.plan Tab.getD
  rw [hfind]
  exact hrun

/-! ### Cut vectors that arrive -/

/-- What the open cut does with the vector of buoy `loc`. -/
def vecTaken (b : Build) (l : Live) (p loc : Nat) (x : Plan) (o : OpenCut) (r : Rec) : Live :=
  match Tab.find? o.cls loc with
  | none => l.bump b F.CUT_ERR_STALE_VEC p
  | some c =>
    if !(decide (o.t = r.ft) && !o.leafDone && decide ((l.ft - o.t).toNat ≤ 500 * imgLeafClose x.image)) ∨
        (Tab.find? o.vecs loc).isSome then l.bump b F.CUT_ERR_STALE_VEC p
    else if c ≠ .waiting then l
    else if r.poison then l.poison b p 0
    else l.takeVec b p loc r

/-- A cut vector of no running plan is stale. -/
theorem cutvecReceive_noPlan (hok : s.live.recOk s.build n = true) (hty : r.ty = 2)
    (hnone : s.live.cvPlan r.stream.toNat = none) :
    Gives (.cutvecReceive n r) s (s.live.bump s.build F.CUT_ERR_STALE_VEC) := by
  show execCutvecReceive n r s = _
  refine run_gives ?_
  dsimp only
  rw [if_neg (by simp [hok, hty]), hnone]

theorem cutvecReceive_gives (hok : s.live.recOk s.build n = true) (hty : r.ty = 2)
    (hplan : s.live.cvPlan r.stream.toNat = some p) (hx : x = s.live.plan p) (hoc : x.oc = some o)
    (hbuoy : s.live.ownBuoy s.build r.src = some loc) :
    Gives (.cutvecReceive n r) s (vecTaken s.build s.live p loc x o r) := by
  subst hx
  show execCutvecReceive n r s = _
  refine run_gives ?_
  dsimp only
  rw [if_neg (by simp [hok, hty]), hplan]
  dsimp only
  rw [hoc, hbuoy]
  rfl

/-- A vector of another count, after another, after the leaf close, or of a buoy that the cut does not know. -/
theorem vecTaken_stale (h : o.t ≠ r.ft ∨ o.leafDone = true ∨ 500 * imgLeafClose x.image < (l.ft - o.t).toNat ∨
    (Tab.find? o.cls loc).isNone = true ∨ (Tab.find? o.vecs loc).isSome = true) :
    vecTaken b l p loc x o r = l.bump b F.CUT_ERR_STALE_VEC p := by
  unfold vecTaken
  split
  · rfl
  · next c hc =>
    refine if_pos ?_
    simp only [Bool.not_eq_true', Bool.and_eq_false_iff, decide_eq_false_iff_not, Bool.not_eq_false', Nat.not_le]
    rw [hc] at h
    simpa [or_assoc] using h

/-- The first vector of a waiting buoy, in time. -/
theorem vecTaken_first (ht : o.t = r.ft) (hleaf : o.leafDone = false)
    (htime : (l.ft - o.t).toNat ≤ 500 * imgLeafClose x.image) (hcls : Tab.find? o.cls loc = some .waiting)
    (hvec : (Tab.find? o.vecs loc).isNone = true) :
    vecTaken b l p loc x o r = if r.poison then l.poison b p 0 else l.takeVec b p loc r := by
  have hfirst : (Tab.find? o.vecs loc).isSome = false := by
    rw [Option.isNone_iff_eq_none.mp hvec]
    rfl
  have hopen : (decide (o.t = r.ft) && !o.leafDone && decide ((l.ft - o.t).toNat ≤ 500 * imgLeafClose x.image)) =
      true := by
    rw [decide_eq_true ht, hleaf, decide_eq_true htime]
    rfl
  unfold vecTaken
  rw [hcls]
  dsimp only
  rw [hopen, if_neg (by simp [hfirst]), if_neg (by simp)]

/-- Without an input log, a vector that is taken joins the vectors of the open cut. -/
theorem takeVec_eq (hoff : l.flt.rpl.st = .off) (hx : x = l.plan p) (hoc : x.oc = some o) (b : Build) (loc : Nat)
    (r : Rec) : l.takeVec b p loc r =
      l.setPlan p { x with oc := some { o with vecs := Tab.insert o.vecs loc r.body } } := by
  subst hx
  unfold Live.takeVec
  dsimp only
  rw [rplLog_off hoff]
  unfold Live.updCut Live.updPlan
  dsimp only
  rw [hoc]
  rfl

end

end

section

section
variable {s : State} {l : Live} {b : Build} {p : Nat} {x : Plan} {o : OpenCut} {plan : BitVec 8}

/-! ### The leaf close -/

/-- The classes of an open cut at its leaf close. -/
def leafClasses (o : OpenCut) (present : Nat → Bool) : Tab BClass := o.cls.map fun e =>
  (e.1, if e.2 = .unsampled ∨ e.2 = .absent then e.2 else if present e.1 then .present else .absent)

/-- The vectors of the buoys present at the leaf close. -/
def leafVecs (o : OpenCut) (present : Nat → Bool) : Tab (List DWord) :=
  o.vecs.filter fun e => decide (Tab.getD (leafClasses o present) e.1 .absent = .present)

/-- The buoys of class `c` at the leaf close. -/
def leafCount (o : OpenCut) (present : Nat → Bool) (c : BClass) : Nat :=
  ((leafClasses o present).filter fun e => decide (e.2 = c)).length

/-- The leaf partial. -/
def leafPart (g : Image) (trunk : Nat) (o : OpenCut) (present : Nat → Bool) : Part :=
  { expect := (leafClasses o present).length, present := leafCount o present .present,
    absent := leafCount o present .absent, unsampled := leafCount o present .unsampled, sublost := false,
    inexact := leafInexact g o.litems,
    items := (List.range (imgNItems g)).map (leafBlock g trunk (leafVecs o present) o.litems) }

/-- The open cut behind its leaf close; `o` is the cut that closes. -/
def leafClosed (g : Image) (trunk : Nat) (o : OpenCut) (present : Nat → Bool) (q : OpenCut) : OpenCut :=
  { q with cls := leafClasses o present, vecs := leafVecs o present, part := leafPart g trunk o present,
           leaf := leafPart g trunk o present, leafDone := true, stage := 1 }

theorem leafCount_eq (o : OpenCut) (present : Nat → Bool) (c : BClass) :
    leafCount o present c = ((leafClasses o present).map (·.2)).count c := by
  unfold leafCount
  rw [← List.countP_eq_length_filter, List.count, List.countP_map]
  congr 1

/-- Without an input log, a leaf close makes the leaf partial, offers it to the series, and lets phase A climb. -/
theorem closeLeaf_eq (hoff : l.flt.rpl.st = .off) (hoc : (l.plan p).oc = some o) (b : Build) (present : Nat → Bool) :
    ∃ f, l.closeLeaf b p present =
      ((l.updCut p (leafClosed (l.plan p).image (l.trunk b) o present)).offer b f).climbA b p 4 := by
  unfold Live.closeLeaf
  dsimp only
  rw [hoc]
  dsimp only
  have hcut : ∀ f, (l.updCut p f).flt.rpl.st = .off := fun _ => hoff
  rw [rplLog_off (hcut _), rplLog_off (hcut _), replaying_off (hcut _), if_neg Bool.false_ne_true]
  exact ⟨_, rfl⟩

theorem plan_offer (l : Live) (b : Build) (f : Nat → Nat → List SVal) (p : Nat) : (l.offer b f).plan p = l.plan p := by
  unfold Live.offer
  dsimp only
  split <;> rfl

/-- A leaf close that no stage follows at once leaves the cut closed. -/
theorem closeLeaf_oc (hwf : Tab.wf l.plans = true) (hoff : l.flt.rpl.st = .off) (hoc : (l.plan p).oc = some o)
    (hmore : (stageKids (l.plan p).image 1).any (fun k => !o.wholeA 1 k.1) = true) (b : Build) (present : Nat → Bool) :
    (Live.plan (l.closeLeaf b p present) p).oc = some (leafClosed (l.plan p).image (l.trunk b) o present o) := by
  obtain ⟨f, hf⟩ := closeLeaf_eq hoff hoc b present
  obtain ⟨m, hm⟩ : ∃ m, m = (l.updCut p (leafClosed (l.plan p).image (l.trunk b) o present)).offer b f := ⟨_, rfl⟩
  rw [← hm] at hf
  have hplan : m.plan p = { l.plan p with
      oc := (l.plan p).oc.map (leafClosed (l.plan p).image (l.trunk b) o present) } := by
    rw [hm, plan_offer]
    exact Live.plan_updPlan_same hwf _
  have hcut : (m.plan p).oc = some (leafClosed (l.plan p).image (l.trunk b) o present o) := by
    rw [hplan, hoc]
    rfl
  have hkids : (stageKids (m.plan p).image 1).any (fun k => !o.wholeA 1 k.1) = true := by
    rw [hplan]
    exact hmore
  rw [hf, climbA_stop hcut (.inr (.inr hkids)), hcut]

/-- A disagreement that is noted or taken back leaves the plans. -/
theorem subject_plans (l : Live) (k : Nat × Nat) (bad : Bool) {f : Live → Live} (hf : ∀ l, (f l).plans = l.plans) :
    (l.subject k bad f).plans = l.plans := by
  unfold Live.subject
  split
  · split
    · rfl
    · exact hf _
  · rfl

theorem checkBuoys_plans (l : Live) (b : Build) : (l.checkBuoys b).plans = l.plans := by
  unfold Live.checkBuoys
  dsimp only
  split
  · rfl
  · refine foldl_rel (R := fun l m : Live => m.plans = l.plans) (fun _ => rfl) (fun h h' => h'.trans h) _
      (fun l k => ?_) _ l
    exact subject_plans l _ _ fun l => Live.logE_plans l b _ _ _ _ _

theorem leafClose_early (hawake : s.live.awake = true) (hp : p = plan.toNat) (hx : x = s.live.plan p)
    (hoc : x.oc = some o)
    (hearly : reached s.live.ft (o.t + BitVec.ofNat 32 (500 * imgLeafClose x.image)) = false) :
    Gives (.leafClose plan) s s.live := by
  subst hp hx
  show execLeafClose plan s = _
  refine runAwake_gives hawake ?_
  dsimp only
  rw [hoc]
  exact if_pos (by simp [hearly])

theorem leafClose_due (hawake : s.live.awake = true) (hp : p = plan.toNat) (hx : x = s.live.plan p)
    (hoc : x.oc = some o) (hrun : x.state = .running) (hleaf : o.leafDone = false)
    (hgood : s.live.bad (.plan p) = false)
    (hdue : reached s.live.ft (o.t + BitVec.ofNat 32 (500 * imgLeafClose x.image)) = true) :
    Gives (.leafClose plan) s
      ((s.live.closeLeaf s.build p fun k => (Tab.find? o.vecs k).isSome).checkBuoys s.build) := by
  subst hp hx
  show execLeafClose plan s = _
  refine runAwake_gives hawake ?_
  dsimp only
  rw [hoc]
  dsimp only
  rw [if_neg (by simp [hrun, hleaf, hdue]), readsPlan_good hgood]

end

end

section

section
variable {l : Live} {b : Build} {p per : Nat} {t : Word} {x : Plan} {k : Kept} {i : Nat}

/-! ### The latch, from the state before its count -/

theorem cutPassed_keeps (hwf : Tab.wf l.plans = true) (p per : Nat) (t : Word) :
    ((cutPassed l p per t).plan p).kept = (l.plan p).kept ∧ ((cutPassed l p per t).plan p).oc = (l.plan p).oc ∧
      ((cutPassed l p per t).plan p).latched = (l.plan p).latched := by
  obtain ⟨_, hplan, _⟩ := planIs_cutPassed hwf p per t
  rw [hplan]
  exact ⟨rfl, rfl, rfl⟩

/-- The buoy of `l` with the cut of its plan latched. -/
def buoyLatched (l : Live) (p per : Nat) (t : Word) : Live :=
  (cutLatching l p per (l.plan p).epochNext t).latchBuoy p t (l.plan p).epochNext

/-- The lantern of `l` with the epoch of its plan open. -/
def lanternLatched (l : Live) (b : Build) (p per : Nat) (t : Word) : Live :=
  ((cutLatching l p per (l.plan p).epochNext t).rplStart b p t (l.plan p).epochNext).openCut b p t (l.plan p).epochNext
    ((cutLatching l p per (l.plan p).epochNext t).lanternItems (l.plan p).image)

theorem buoyLatched_plan (hwf : Tab.wf l.plans = true) (p per : Nat) (t : Word) :
    ∃ y, PlanIs l (buoyLatched l p per t) p y ∧
      (∃ replayed, y.kept = some ⟨t, (l.plan p).epochNext, latchedWords l (l.plan p), [], false, replayed, false, none⟩) ∧
      y.latched = (l.plan p).epochNext ∧ y.latchT = t ∧ y.epochNext = ((l.plan p).epochNext + 1) % 65536 ∧
      y.nextT = t + BitVec.ofNat 32 per :=
  latchBuoy_plan (planIs_cutLatching hwf p per (l.plan p).epochNext t) t (l.plan p).epochNext

theorem buoyLatched_frame (hfired : l.time.fired = []) (p per : Nat) (t : Word) :
    (buoyLatched l p per t).time = { l.time with cmps := [⟨.cuts p, t + BitVec.ofNat 32 per, per⟩] } ∧
    (buoyLatched l p per t).samp = l.samp ∧ (buoyLatched l p per t).created = l.created := by
  obtain ⟨htime, hsamp, hmade⟩ := latchBuoy_frame (cutLatching l p per (l.plan p).epochNext t) p t (l.plan p).epochNext
  exact ⟨htime.trans (cutPassed_time hfired p per t), hsamp, hmade⟩

/-- The words that a buoy keeps, item by item. -/
theorem latchedWords_items (hk : k.words = latchedWords l x) (hi : i < secNbi x.image) :
    ((secItem x.image i).1 ≠ 1 →
      wordAt k.words i = l.latchWord (secItem x.image i).1 (secItem x.image i).2.1) ∧
    ((secItem x.image i).1 = 1 → Tab.find? x.prev i = none →
      (fld (wordAt k.words i) 0 48, fld (wordAt k.words i) 49 1) = (0, 1)) ∧
    (∀ v : Nat, (secItem x.image i).1 = 1 → Tab.find? x.prev i = some v →
      (fld (wordAt k.words i) 0 48, fld (wordAt k.words i) 49 1) =
        (((l.ctr (secItem x.image i).2.1).val.toNat + 2 ^ 48 - v) % 2 ^ 48, 0)) := by
  rw [hk, wordAt_latchedWords hi]
  exact ⟨latchedWord_plain, latchedWord_first, fun v => latchedWord_delta⟩

theorem lanternLatched_plan (hwf : Tab.wf l.plans = true) (hoff : l.flt.rpl.st = .off) (b : Build) (p per : Nat)
    (t : Word) : ∃ y, PlanIs l (lanternLatched l b p per t) p y ∧
      (y.oc.map fun o => (o.t, o.epoch, o.cls.map (·.1), o.vecs, o.litems, o.leafDone, o.stage)) =
        some (t, (l.plan p).epochNext, imgNamed (l.plan p).image, [], l.lanternItems (l.plan p).image, false, 0) ∧
      (y.oc.map fun o => o.cls.map (·.2)) =
        some ((imgNamed (l.plan p).image).map (placedAs b l (l.plan p) (l.plan p).epochNext)) ∧
      y.latched = (l.plan p).epochNext := by
  have hlatching : (cutLatching l p per (l.plan p).epochNext t).flt.rpl.st = .off := hoff
  unfold lanternLatched
  rw [rplStart_off hlatching]
  exact openCut_plan (planIs_cutLatching hwf p per (l.plan p).epochNext t) hlatching b t (l.plan p).epochNext _

/-- The counts and the items of a leaf partial. -/
theorem leafPart_counts (g : Image) (trunk : Nat) (o : OpenCut) (present : Nat → Bool) {cls : List BClass}
    (hcls : cls = (leafClasses o present).map (·.2)) :
    ((leafPart g trunk o present).expect, (leafPart g trunk o present).present, (leafPart g trunk o present).absent,
        (leafPart g trunk o present).unsampled) =
      (cls.length, cls.count .present, cls.count .absent, cls.count .unsampled) := by
  unfold leafPart
  dsimp only
  rw [leafCount_eq, leafCount_eq, leafCount_eq, ← hcls, hcls, List.length_map]

theorem leafPart_item (g : Image) (trunk : Nat) (o : OpenCut) (present : Nat → Bool) (hi : i < imgNItems g) :
    (leafPart g trunk o present).items[i]? = some (leafBlock g trunk (leafVecs o present) o.litems i) := by
  unfold leafPart
  dsimp only
  rw [List.getElem?_map, List.getElem?_range hi]
  rfl

end

/-- Settles O50: a latch, a cut vector, the leaf close and the answer to thresholds act on the kept cut or the open
cut of their plan alone, and each makes the records that its words say. -/
theorem cutsAreLatchedAndGathered : Obligations.CutsAreLatchedAndGathered := by
  unfold Obligations.CutsAreLatchedAndGathered
  refine ⟨?_, ?_, ?_, ?_, ?_⟩
  · intro s plan p x per slots t hawake hp hx ht hrun hpend hper hslots hfired hcmps hpos hepoch hoff hwf hgood
    refine ⟨cutLatch_early hawake hp hx ht hrun hpend hper hfired hcmps, fun hdue htd hlate => ?_,
      fun hdue htd hform => ?_, fun hdue htd hform => ?_⟩
    all_goals
      have hgives := cutLatch_gives hawake hp hx ht hrun hpend hper hfired hcmps hpos hepoch hdue hgood
      rw [← hslots] at hgives
    · rw [cutOk_late htd hlate, if_neg Bool.false_ne_true] at hgives
      obtain ⟨hkept, hoc, hlatched⟩ := cutPassed_keeps hwf p per t
      subst hx
      exact yields_of_gives hgives ⟨hkept, hoc, hlatched, cutPassed_time hfired p per t⟩
    · obtain ⟨hbuoy, _⟩ := buoy_of_form hform
      rw [cutOk_tdEn x t slots htd, if_pos rfl, latchDone, if_pos hbuoy] at hgives
      subst hx
      obtain ⟨y, ⟨_, hplan, hothers⟩, ⟨replayed, hkept⟩, hlatched, hlatchT, hnext, hnextT⟩ :=
        buoyLatched_plan hwf p per t
      obtain ⟨htime, hsamp, hmade⟩ := buoyLatched_frame hfired p per t
      refine yields_of_gives (l := buoyLatched s.live p per t) hgives ?_
      rw [hplan, hkept]
      refine ⟨?_, hlatched, hlatchT, hnext, hnextT, htime, hothers, hsamp, hmade, fun i hi => ?_⟩
      · simp [latchedWords]
      · obtain ⟨hplain, hfirst, hdelta⟩ := latchedWords_items (l := s.live) (x := s.live.plan p)
          (k := ⟨t, (s.live.plan p).epochNext, latchedWords s.live (s.live.plan p), [], false, replayed, false, none⟩)
          rfl hi
        exact ⟨fun hkind => congrArg some (hplain hkind), fun hkind hprev => congrArg some (hfirst hkind hprev),
          fun v hkind hprev _ => congrArg some (hdelta v hkind hprev)⟩
    · obtain ⟨hbuoy, _⟩ := lantern_of_form hform
      rw [cutOk_tdEn x t slots htd, if_pos rfl, latchDone, if_neg (by simp [hbuoy])] at hgives
      subst hx
      obtain ⟨y, ⟨_, hplan, hothers⟩, hcut, hcls, hlatched⟩ := lanternLatched_plan hwf hoff s.build p per t
      refine yields_of_gives (l := lanternLatched s.live s.build p per t) hgives ?_
      rw [hplan]
      exact ⟨hcut, hcls, hlatched, hothers⟩
  · intro s plan p x k hawake hform hp hx hrun hkept hnew hwf
    refine ⟨cutvecAssembled_idle hawake hp hx hkept, fun htake => ?_⟩
    obtain ⟨hrecs, _, hplan, hothers⟩ := cutvec_spec (b := s.build) (p := p) (x := x) (k := k) hwf rfl
    subst hx
    refine yields_of_gives (cutvecAssembled_gives hawake hform hp rfl hrun hkept hnew htake) ⟨hrecs, ?_, hothers⟩
    rw [hplan]
  · intro s n r hform hawake hup hty
    have hok := recOk_of_up hform hawake hup
    refine ⟨cutvecReceive_noPlan hok hty, fun p loc x o hplan hx hoc hsrc hloc hwf hoff => ?_⟩
    have hgives := cutvecReceive_gives hok hty hplan hx hoc (ownBuoy_of_src (b := s.build) hsrc hloc)
    refine ⟨fun hstale => ?_, fun hft hleaf htime hcls hvec => ?_⟩
    · rwa [vecTaken_stale hstale] at hgives
    · rw [vecTaken_first hft hleaf htime hcls hvec] at hgives
      refine ⟨fun hclean => ?_, fun hpoison hcmps hfired hroot _ harm hcuts => ?_⟩
      · rwa [hclean, if_neg Bool.false_ne_true, takeVec_eq hoff hx hoc] at hgives
      · rw [hpoison, if_pos rfl] at hgives
        subst hx
        exact yields_of_gives hgives
          (poison_spec hwf hoff (running_of_cvPlan hwf hplan) harm hcuts hcmps hfired hroot 0)
  · intro s plan p x o cls hawake hform hp hx hoc hrun hleaf hwf hoff hcls
    refine ⟨leafClose_early hawake hp hx hoc, fun hdue hgood hmore => ?_⟩
    have hgives := leafClose_due hawake hp hx hoc hrun hleaf hgood hdue
    subst hx
    have hclosed := closeLeaf_oc hwf hoff hoc hmore s.build fun k => (Tab.find? o.vecs k).isSome
    have hclasses : cls = (leafClasses o fun k => (Tab.find? o.vecs k).isSome).map (·.2) := by
      rw [hcls, leafClasses, List.map_map]
      rfl
    refine yields_of_gives hgives ?_
    have hoc' : (Live.plan ((s.live.closeLeaf s.build p fun k => (Tab.find? o.vecs k).isSome).checkBuoys s.build) p).oc =
        some (leafClosed (s.live.plan p).image (s.live.trunk s.build) o (fun k => (Tab.find? o.vecs k).isSome) o) := by
      unfold Live.plan at hclosed ⊢
      rw [checkBuoys_plans]
      exact hclosed
    rw [hoc']
    refine ⟨?_, congrArg some (leafPart_counts _ _ o _ hclasses), rfl, fun i hi => congrArg some (leafPart_item _ _ o _ hi)⟩
    rw [hclasses]
    rfl
  · intro s r d p x k hawake hform hty hd hkind hp hx hrun hkept hepoch hcan hwf
    subst hd
    refine ⟨buoyThresholds_early hawake hp hx hkept, fun hnew hopen => ?_⟩
    have hgives := buoyThresholds_gives hawake hform hty hkind hp hx hrun hkept hepoch hcan hnew hopen
    have hplanLt : (descOf r.body).plan < 256 := Nat.mod_lt _ (by decide)
    have hepochLt : k.epoch < 65536 := by
      rw [hepoch]
      exact Nat.mod_lt _ (by decide)
    rw [← hp] at hplanLt
    obtain ⟨hrecs, ⟨_, hplan, _⟩, hrf⟩ := listsMade_spec (l := s.live) (b := s.build) (r := r) hwf hplanLt hepochLt
    subst hx
    refine yields_of_gives hgives ⟨?_, by rw [hplan], hrf⟩
    rw [hrecs, hepoch, Bool.or_assoc]
    rfl

end

end Sys2Proof.Proofs
end
